-- ==== Sys2Proof/Word.lean ====
section
/-! DEFINITION. The machine's word types (spec/01 Table 1.2, spec/05 R86). -/

namespace Sys2Proof

/-- A byte of memory. -/
abbrev Byte := BitVec 8

/-- An instruction word (R86). -/
abbrev W32 := BitVec 32

/-- A scalar register, an address or a control register (R17). -/
abbrev W64 := BitVec 64

/-- One vector register: four slabs of 1,024 bytes (Table 1.2); also the 32,768 bits of a mask (R136). -/
abbrev VReg := BitVec 32768

/-- One tile register: T x T words of 32 bits at T = 128 (R168). -/
abbrev TileReg := BitVec 524288

/-- The number of a register in an instruction field (R89). -/
abbrev Reg := BitVec 5

end Sys2Proof
end

