-- ==== Sys2Proof/Machine/Bits.lean ====
section
/-! DEFINITION. Bit fields, sign extension and byte order (spec/05 R86, R88; spec/06 Table 6.2). -/

namespace Sys2Proof.Machine

/-- Bits lo to lo + n − 1 of a number. -/
def bitsAt (v lo n : Nat) : Nat := v / 2 ^ lo % 2 ^ n

/-- Bit n of a number. -/
def bitAt (v n : Nat) : Bool := decide (v / 2 ^ n % 2 = 1)

/-- `v` with bits lo to lo + n − 1 replaced by `x`. -/
def setBits (v lo n x : Nat) : Nat :=
  v - bitsAt v lo n * 2 ^ lo + x % 2 ^ n * 2 ^ lo

/-- A field sign-extended to 64 bits (R88). -/
def sext {n : Nat} (x : BitVec n) : W64 := x.signExtend 64

/-- A field zero-extended to 64 bits. -/
def zext {n : Nat} (x : BitVec n) : W64 := x.setWidth 64

/-- The number that bytes stand for, the lowest address first (R86). -/
def leNat (bs : List Byte) : Nat :=
  match bs with
  | [] => 0
  | b :: rest => b.toNat + 256 * leNat rest

/-- The first n bytes of a number, the lowest address first. -/
def leBytes (n v : Nat) : List Byte :=
  match n with
  | 0 => []
  | k + 1 => BitVec.ofNat 8 v :: leBytes k (v / 256)

/-- The signed reading of the low `w` bits of a number. -/
def signed (w v : Nat) : Int :=
  let u := v % 2 ^ w
  if 2 * u < 2 ^ w then (u : Int) else (u : Int) - (2 ^ w : Nat)

/-- An integer wrapped into `w` bits. -/
def wrapTo (w : Nat) (x : Int) : Nat := (x % ((2 ^ w : Nat) : Int)).toNat

/-- The number of significant bits. -/
def bitLen (v : Nat) : Nat := if v = 0 then 0 else Nat.log2 v + 1

/-- How many of the low `n` bits of a number are 1. -/
def countOnes (n v : Nat) : Nat :=
  match n with
  | 0 => 0
  | k + 1 => v % 2 + countOnes k (v / 2)

/-- The number of zero bits below the lowest 1 among the low `n`; `n` when there is none. -/
def trailingZeros (n v : Nat) : Nat :=
  match n with
  | 0 => 0
  | k + 1 => if v % 2 = 1 then 0 else 1 + trailingZeros k (v / 2)

/-- One refinement step of the integer square root from bit `b` downwards. -/
def isqrtFrom (b : Nat) (v r : Nat) : Nat :=
  match b with
  | 0 => if (r + 1) * (r + 1) ≤ v then r + 1 else r
  | k + 1 =>
    let t := r + 2 ^ (k + 1)
    isqrtFrom k v (if t * t ≤ v then t else r)

/-- The integer square root. -/
def isqrt (v : Nat) : Nat := isqrtFrom (bitLen v / 2 + 1) v 0

/-- The first element of a list that a test accepts, moved out of it. -/
def pickFirst {α : Type} (p : α → Bool) (l : List α) : Option (α × List α) :=
  match l with
  | [] => none
  | a :: rest =>
    if p a then some (a, rest)
    else
      match pickFirst p rest with
      | some (b, r) => some (b, a :: r)
      | none => none

/-- A list with the entry of the same key replaced, or the entry added at the end. -/
def upsert {α : Type} (same : α → Bool) (a : α) (l : List α) : List α :=
  match l with
  | [] => [a]
  | b :: rest => if same b then a :: rest else b :: upsert same a rest

/-- The least of a list of numbers. -/
def leastOf (l : List Nat) : Option Nat :=
  match l with
  | [] => none
  | a :: rest =>
    match leastOf rest with
    | some b => some (min a b)
    | none => some a

/-- A number kept within `cap` (saturation). -/
def satTo (cap v : Nat) : Nat := if cap < v then cap else v

/-- Whether an interval is later than another; interval numbers wrap modulo 2^32 (R329). -/
def later (a b : Nat) : Bool :=
  let d := (BitVec.ofNat 32 a - BitVec.ofNat 32 b).toNat
  decide (d ≠ 0) && decide (d < 2 ^ 31)

/-- Numbers as 8 bytes each, and bytes in a field of a length. -/
def words8 (l : List Nat) : List Byte := l.flatMap (leBytes 8)
def padTo (n : Nat) (l : List Byte) : List Byte := (l ++ List.replicate n 0).take n

/-- The best of a list, by what stands before what. -/
def bestOffer {α : Type} (before : α → α → Bool) (l : List α) : Option α :=
  match l with
  | [] => none
  | a :: rest =>
    match bestOffer before rest with
    | some b => if before b a then some b else some a
    | none => some a

end Sys2Proof.Machine
end

