-- ==== Sys2Proof/Params.lean ====
section
/-! DEFINITION. What the events of the opcode table carry: the names of units and registers, and the parameters of
the host commands (spec/15 R297, spec/18 R343, spec/26 Table 26.4). -/

namespace Sys2Proof

/-- A numbered barrier: meadow barrier `b` of meadow `m`, or device barrier `b` (R297). -/
inductive BarId where
  | meadow (m b : Nat)
  | device (b : Nat)
  deriving DecidableEq, Repr

/-- A register that a system core or the hub writes and that has no event row of its own (R104, R296). -/
inductive SysReg where
  | hgov
  | sealcfg
  | sqsel (core : Nat)
  | sqchg (core queue : Nat)
  | sqwt (queue : Nat)
  | sqtkt (queue : Nat)
  | sqpass (core queue : Nat)
  | pevctl (core : Nat)
  | trcctl (core : Nat)
  | bstate (b : BarId)
  | ctxRoot (ctx : Nat)
  | tvec (ctx : Nat)
  | bankPower (core : Nat)
  deriving DecidableEq, Repr

/-- The unit that holds the failing bits of an error (R343), or the structure it was read from (Table 18.3); `oldLine` for what a line holds
before its next write replaces it (R330), `outside` where the bytes came over a link. -/
inductive ErrSite where
  | line (heath : Bool) (line : Nat)
  | oldLine (heath : Bool) (line : Nat)
  | laneGroup (core lg : Nat)
  | matrixHalf (core half : Nat)
  | mirrorPair (core pair : Nat)
  | bank (core bank : Nat)
  | scalarReg (core : Nat)
  | undoLog (heath : Bool) (entry : Nat)
  | saveArea (ctx : Nat)
  | dumpRegion (ctx : Nat)
  | outside
  deriving DecidableEq, Repr

/-- What the scrubber finds: in a line, or an uncorrectable error in a scratchpad bank or in a register or tile array (R345). -/
inductive Scrub where
  | clean
  | corrected
  | uncorrectable
  | unit (site : ErrSite)
  deriving DecidableEq, Repr

/-- The operation of an atomic (Table 9.8, R221). -/
inductive AtomOp where
  | add | and | or | xor | min | max | minu | maxu | swp | cas | fadd | incb
  deriving DecidableEq, Repr

/-- A unit that powers on at its staggered time (Table 26.1). -/
inductive StartUnit where
  | heathStack (k : Nat)
  | meadow (m : Nat)
  | systemCores
  deriving DecidableEq, Repr

/-- A combine put (R228): its row of FP32 codes, the header's fields, the virtual addresses of slot (t, 0), the fill word, the
output row and DONE, and the pages translated at its dispatch: 64 KiB page, module where it is remote, physical address. `home` is the module
of the header, where it is another; `hdr` is its physical and `hva` its virtual address. -/
structure Put where
  zero : Bool
  row : List Nat
  rank : Nat
  hdr : Nat
  hva : Nat
  home : Option Nat
  nrank : Nat
  rowe : Nat
  outd : BitVec 20
  slots : Nat
  fill : Nat
  out : Nat
  doneA : Nat
  pages : List (Nat × Option Nat × Nat)
  deriving DecidableEq, Repr

/-- A boot slot as the controller measures it (R388): an image number, its version, its signature's verdict. -/
structure BootSlot where
  image : Nat
  version : Nat
  good : Bool
  deriving DecidableEq, Repr, Inhabited

/-- The parameters of create context (Tables 11.1 and 26.4) with what the resident operating system chooses: the
context number, the captured pages (R257), the address of its dump region in the tenant's contexts (R271), the page-table root (R305) and
`tvec` (R127). -/
structure CtxParams where
  num : Nat
  tenant : W64
  prio : Nat
  gmax : Nat
  shares : List (Nat × Nat)
  dumpSlots : Nat
  dumpKey : Nat
  savePages : List Nat
  dumpPages : List Nat
  dumpVa : Nat
  root : Nat
  tvec : W64
  deriving DecidableEq, Repr

/-- The pages of one map command with the physical address that each gets (Tables 26.4 and 16.2): the host's bus addresses, or
those that the resident operating system chooses, for Heath pages in the stack that the host names, 0xFF for rotation (R350). -/
structure MapParams where
  ctx : Nat
  va : Nat
  big : Bool
  region : Nat
  rd : Bool
  wr : Bool
  ex : Bool
  crit : Bool
  dstab : Bool
  module : Nat
  xmod : Bool
  addrs : List Nat
  stack : Nat
  deriving DecidableEq, Repr

/-- What the host has put into a command page: LEN and the bytes of PARAM (Table 26.2). -/
structure CmdParam where
  len : W32
  bytes : List Byte
  deriving DecidableEq, Repr

/-- A module of the domain map, by its number, or an entry of the external table, and the ports that reach it (R323). `far` is the module
that an entry names. -/
structure Peer where
  num : Nat
  ports : List Nat
  far : Nat
  deriving DecidableEq, Repr

/-- The parameters of configure links (R323, R327, Table 26.4). -/
structure LinkParams where
  self : Nat
  members : List Peer
  externals : List Peer
  enable : List Nat
  disable : List Nat
  retire : List Nat
  deriving DecidableEq, Repr

/-- The parameters of configure management (R314, R371, Table 26.4). -/
structure MgmtParams where
  hostForm : Bool
  base : Nat
  size : Nat
  ports : List Nat
  slots : Nat
  capture : Bool
  powerCap : Nat
  deriving DecidableEq, Repr

/-- An uncorrectable error in the source of a copy (R207): the element group that reads it, and the byte's address. -/
structure SourceError where
  group : Nat
  addr : Nat
  deriving DecidableEq, Repr

/-- Who waits for an answer over Jeore (R326): a strand, and its command's number, 0 for the word that it waits in. -/
structure Asker where
  sid : Nat
  uid : Nat
  deriving DecidableEq, Repr

/-- What an atomic request brings beside its operands (R228, R329): the writer's owner tag, and the combine put that it performs. -/
structure AtomRest where
  owner : BitVec 12
  put : Option Put
  deriving DecidableEq, Repr

/-- The answer to an atomic request (R326): the old value, the flags of an add, and the cause of a bad line, 0 for none. -/
structure AtomAnswer where
  old : W64
  flags : BitVec 5
  bad : Nat
  deriving DecidableEq, Repr

/-- A copy of a strand by its tag. -/
structure CopyName where
  sid : Nat
  tag : BitVec 6
  deriving DecidableEq, Repr

/-- A host command that the firmware performs again after a rollback, or carries on with (R393). -/
inductive HostOp where
  | create (p : CtxParams)
  | destroy (ctx : Nat) (ended : Bool)
  | stop (ctx : Nat)
  | resume (ctx : Nat)
  | map (p : MapParams)
  | unmap (ctx va len : Nat)
  | imported (ctx va hostAddr len : Nat)
  | exported (ctx va hostAddr len : Nat)
  | runRoot (ctx recVa : Nat)
  | snapshot (ctx : Option Nat)
  | restore
  deriving DecidableEq, Repr

end Sys2Proof
end

