-- ==== Sys2Proof/Config.lean ====
section
/-! DEFINITION. What one implementation fixes and what the manual leaves open.
Constants with a body are figures the manual gives; `opaque` ones have no value that a proof could use (logs 8 and 10). -/

namespace Sys2Proof.Config

/-- Entries of the field-memory undo log (R332). -/
def undoCapF : Nat := 161061273

/-- Entries of the Heath undo log (R332). -/
def undoCapH : Nat := 858993459

/-- Bytes of the strip store buffer (Table 1.2, R141). -/
def stripBytes : Nat := 16384

/-- Slab-cycles after which a ready strand is overdue (R41). -/
def overdueAfter : Nat := 8192

/-- Clocks of waiting after which lanes are handed back, and clocks of readiness that reset the count (R265). -/
def laneReturnAfter : Nat := 48000
def laneReturnReset : Nat := 2400

/-- AES-256-GCM under a key named by a number, with a nonce, additional data and a text: ciphertext and tag
(R270, R371). The manual names the algorithm and gives no keys: free values (log 8). -/
opaque gcmSeal : Nat → Nat → List Byte → List Byte → List Byte

/-- The boot images that the flash holds as the module is made, slot 0 and slot 1 (R14, R388): free values (log 8). -/
opaque flashImage : Nat → BootSlot

/-- The SHAKE256 digest of a boot image (R388): a free value (log 8). -/
opaque imageDigest : Nat → Nat → Nat

/-- The signature under the module's attestation key (R395): a free value (log 8). -/
opaque attestSign : List Byte → List Byte

/-- Part, revision and serial number that identify returns (R394): free values (log 8). -/
opaque partId : Nat
opaque revisionId : Nat
opaque serialId : Nat

/-- A free value for each draw of `State.fresh`: a choice that the manual leaves to the implementation (log 10). -/
opaque freeValue : Nat → W64

/-- Whether a meadow's walk cache still holds the entry that an edit has replaced: a free value (log 59). -/
opaque cachesEntry (edit meadow : Nat) : Bool

end Sys2Proof.Config
end

