-- ==== Sys2Proof/Machine/Value.lean ====
section
/-! DEFINITION. Exact numbers: what a code stands for before any rounding (spec/03 R48, R49). -/

namespace Sys2Proof.Machine

/-- An exact value: NaN, an infinity, or (−1)^neg × mant × 2^exp (R48). A zero keeps its sign. -/
inductive Val where
  | nan
  | inf (neg : Bool)
  | fin (neg : Bool) (mant : Nat) (exp : Int)
  deriving DecidableEq, Repr

/-- A running exact sum with what its rounding needs: the finite part `mant × 2^exp`, the specials met, and whether every
term so far was −0, or +0 (R49, R58, R153, R380). -/
structure Sum where
  mant : Int := 0
  exp : Int := 0
  nan : Bool := false
  pinf : Bool := false
  ninf : Bool := false
  allNeg : Bool := true
  allPos : Bool := true
  deriving DecidableEq, Repr

/-- A descriptor of a format word (Table 3.2). -/
structure Desc where
  cls : Nat
  s : Nat
  e : Nat
  m : Nat
  bias : Nat
  deriving DecidableEq, Repr

end Sys2Proof.Machine
end

