-- ==== Sys2Proof/Syntax.lean ====
section
/-! DEFINITION. The instructions and events of the LX72, one constructor per row of the opcode table.
The 276 encoded words (spec/05) carry the fields of their encoding; the 97 events (spec/95) carry what the
outside of the strand supplies: an address, a figure, the parameters of a host command. -/

namespace Sys2Proof

/-- One constructor per row of spec/opcode_table.json. -/
inductive Instr where
  -- Scalar integer words, major 0x01 (R108 to R110).
  | add (d a b : Reg)
  | sub (d a b : Reg)
  | and (d a b : Reg)
  | or (d a b : Reg)
  | xor (d a b : Reg)
  | sll (d a b : Reg)
  | srl (d a b : Reg)
  | sra (d a b : Reg)
  | slt (d a b : Reg)
  | sltu (d a b : Reg)
  | mul (d a b : Reg)
  | mulh (d a b : Reg)
  | mulhu (d a b : Reg)
  | div (d a b : Reg)
  | divu (d a b : Reg)
  | rem (d a b : Reg)
  | remu (d a b : Reg)
  | min (d a b : Reg)
  | max (d a b : Reg)
  | minu (d a b : Reg)
  | maxu (d a b : Reg)
  | clz (d a : Reg)
  | ctz (d a : Reg)
  | popc (d a : Reg)
  | zextb (d a : Reg)
  | zexth (d a : Reg)
  | zextw (d a : Reg)
  | sextb (d a : Reg)
  | sexth (d a : Reg)
  | sextw (d a : Reg)
  -- Immediate words (R111 to R113).
  | addi (d a : Reg) (imm : BitVec 15)
  | andi (d a : Reg) (imm : BitVec 15)
  | ori (d a : Reg) (imm : BitVec 15)
  | xori (d a : Reg) (imm : BitVec 15)
  | slti (d a : Reg) (imm : BitVec 15)
  | sltiu (d a : Reg) (imm : BitVec 15)
  | slli (d a : Reg) (sh : BitVec 6)
  | srli (d a : Reg) (sh : BitVec 6)
  | srai (d a : Reg) (sh : BitVec 6)
  | lhi (d : Reg) (imm : BitVec 20)
  | lpc (d : Reg) (imm : BitVec 20)
  -- Scalar FP32 words (R114 to R116).
  | fadd (d a b : Reg) (rm : BitVec 2)
  | fsub (d a b : Reg) (rm : BitVec 2)
  | fmul (d a b : Reg) (rm : BitVec 2)
  | fdiv (d a b : Reg) (rm : BitVec 2)
  | fsqrt (d a : Reg) (rm : BitVec 2)
  | fmin (d a b : Reg)
  | fmax (d a b : Reg)
  | feq (d a b : Reg)
  | flt (d a b : Reg)
  | fle (d a b : Reg)
  | fcvtSL (d a : Reg) (rm : BitVec 2)
  | fcvtLS (d a : Reg) (rm : BitVec 2)
  | fclass (d a : Reg)
  | fmadd (d a b cc : Reg) (rm : BitVec 2)
  | fmsub (d a b cc : Reg) (rm : BitVec 2)
  | fnmadd (d a b cc : Reg) (rm : BitVec 2)
  | fnmsub (d a b cc : Reg) (rm : BitVec 2)
  -- Branches and jumps (R122, R123).
  | beq (a b : Reg) (off : BitVec 15)
  | bne (a b : Reg) (off : BitVec 15)
  | blt (a b : Reg) (off : BitVec 15)
  | bge (a b : Reg) (off : BitVec 15)
  | bltu (a b : Reg) (off : BitVec 15)
  | bgeu (a b : Reg) (off : BitVec 15)
  | jal (d : Reg) (imm : BitVec 20)
  | jalr (d a : Reg) (imm : BitVec 15)
  -- Scalar loads and stores (R117 to R121).
  | ldB (d a : Reg) (st : BitVec 2) (imm : BitVec 11)
  | ldH (d a : Reg) (st : BitVec 2) (imm : BitVec 11)
  | ldW (d a : Reg) (st : BitVec 2) (imm : BitVec 11)
  | ldD (d a : Reg) (st : BitVec 2) (imm : BitVec 11)
  | stB (d a : Reg) (st : BitVec 2) (imm : BitVec 11)
  | stH (d a : Reg) (st : BitVec 2) (imm : BitVec 11)
  | stW (d a : Reg) (st : BitVec 2) (imm : BitVec 11)
  | stD (d a : Reg) (st : BitVec 2) (imm : BitVec 11)
  | spldB (d a : Reg) (st : BitVec 2) (imm : BitVec 11)
  | spldH (d a : Reg) (st : BitVec 2) (imm : BitVec 11)
  | spldW (d a : Reg) (st : BitVec 2) (imm : BitVec 11)
  | spldD (d a : Reg) (st : BitVec 2) (imm : BitVec 11)
  | spstB (d a : Reg) (st : BitVec 2) (imm : BitVec 11)
  | spstH (d a : Reg) (st : BitVec 2) (imm : BitVec 11)
  | spstW (d a : Reg) (st : BitVec 2) (imm : BitVec 11)
  | spstD (d a : Reg) (st : BitVec 2) (imm : BitVec 11)
  -- CSR access (R124).
  | csrr (d : Reg) (csr : BitVec 12)
  | csrw (d a : Reg) (csr : BitVec 12)
  | csrs (d a : Reg) (csr : BitVec 12)
  | csrc (d a : Reg) (csr : BitVec 12)
  -- System words (R127 to R134, R214).
  | svc
  | tret
  | brk (code : BitVec 5)
  | wfi
  | gend
  | lend
  | hevict (a b : Reg)
  | hrestore (a b : Reg)
  | lbuf (d : Reg) (imm : BitVec 20)
  -- The strip (R140).
  | vlset (d a : Reg) (gc sew : BitVec 2)
  -- Vector arithmetic (R145 to R147).
  | vadd (c : Bool) (d a b xf : Reg) (k : BitVec 2)
  | vsub (c : Bool) (d a b xf : Reg) (k : BitVec 2)
  | vmul (c : Bool) (d a b xf : Reg) (k : BitVec 2)
  | vdiv (c : Bool) (d a b xf : Reg) (k : BitVec 2)
  | vmin (c : Bool) (d a b xf : Reg) (k : BitVec 2)
  | vmax (c : Bool) (d a b xf : Reg) (k : BitVec 2)
  | vsqrt (c : Bool) (d a xf : Reg) (k : BitVec 2)
  | vabs (c : Bool) (d a xf : Reg) (k : BitVec 2)
  | vfma (c : Bool) (d a b xf : Reg) (k : BitVec 2)
  | vfms (c : Bool) (d a b xf : Reg) (k : BitVec 2)
  | vfnma (c : Bool) (d a b xf : Reg) (k : BitVec 2)
  | vfnms (c : Bool) (d a b xf : Reg) (k : BitVec 2)
  | vmulh (c : Bool) (d a b xf : Reg) (k : BitVec 2)
  | vrem (c : Bool) (d a b xf : Reg) (k : BitVec 2)
  | vneg (c : Bool) (d a xf : Reg) (k : BitVec 2)
  -- Bitwise words and shifts (R148).
  | vand (c : Bool) (d a b xf : Reg) (k : BitVec 2)
  | vor (c : Bool) (d a b xf : Reg) (k : BitVec 2)
  | vxor (c : Bool) (d a b xf : Reg) (k : BitVec 2)
  | vnot (c : Bool) (d a xf : Reg) (k : BitVec 2)
  | vsll (c : Bool) (d a b xf : Reg) (k : BitVec 2)
  | vsrl (c : Bool) (d a b xf : Reg) (k : BitVec 2)
  | vsra (c : Bool) (d a b xf : Reg) (k : BitVec 2)
  -- Compares (R149).
  | vceq (c : Bool) (d a b xf : Reg) (k : BitVec 2)
  | vcne (c : Bool) (d a b xf : Reg) (k : BitVec 2)
  | vclt (c : Bool) (d a b xf : Reg) (k : BitVec 2)
  | vcle (c : Bool) (d a b xf : Reg) (k : BitVec 2)
  | vcgt (c : Bool) (d a b xf : Reg) (k : BitVec 2)
  | vcge (c : Bool) (d a b xf : Reg) (k : BitVec 2)
  | vcun (c : Bool) (d a b xf : Reg) (k : BitVec 2)
  -- Select and masks (R150, R151).
  | vsel (c : Bool) (d a b xf : Reg) (k : BitVec 2)
  | kand (c : Bool) (d a b : Reg)
  | kor (c : Bool) (d a b : Reg)
  | kxor (c : Bool) (d a b : Reg)
  | knot (c : Bool) (d a : Reg)
  | kpopc (c : Bool) (d a : Reg) (k : BitVec 2)
  | kfirst (c : Bool) (d a : Reg) (k : BitVec 2)
  -- Conversion (R152).
  | vcvt (c : Bool) (d a xf : Reg) (k : BitVec 2)
  | vcvtS (c : Bool) (d a b xf : Reg) (k : BitVec 2)
  -- Reductions and scans (R153, R154).
  | vredsum (c : Bool) (d a xf : Reg) (k : BitVec 2)
  | vredmin (c : Bool) (d a xf : Reg) (k : BitVec 2)
  | vredmax (c : Bool) (d a xf : Reg) (k : BitVec 2)
  | vredand (c : Bool) (d a xf : Reg) (k : BitVec 2)
  | vredor (c : Bool) (d a xf : Reg) (k : BitVec 2)
  | vscan (c : Bool) (d a xf : Reg) (k : BitVec 2)
  | vscanx (c : Bool) (d a xf : Reg) (k : BitVec 2)
  -- Maximum with index (R155).
  | vmaxi (c : Bool) (d a xf : Reg) (k : BitVec 2)
  | vmini (c : Bool) (d a xf : Reg) (k : BitVec 2)
  | vmaxic (c : Bool) (d a xf : Reg) (k : BitVec 2)
  -- Permutes, slides and moves (R156 to R158).
  | vperm (c : Bool) (d a b xf : Reg) (k : BitVec 2)
  | vslideup (c : Bool) (d a b xf : Reg) (k : BitVec 2)
  | vslidedn (c : Bool) (d a b xf : Reg) (k : BitVec 2)
  | vbcast (c : Bool) (d a xf : Reg) (k : BitVec 2)
  | vmvxs (c : Bool) (d a xf : Reg) (k : BitVec 2)
  | vmvsx (c : Bool) (d a xf : Reg) (k : BitVec 2)
  | vcompress (c : Bool) (d a xf : Reg) (k : BitVec 2)
  | vid (c : Bool) (d xf : Reg) (k : BitVec 2)
  -- Transcendentals (R159).
  | vexp2 (c : Bool) (d a xf : Reg) (k : BitVec 2)
  | vlog2 (c : Bool) (d a xf : Reg) (k : BitVec 2)
  | vrcp (c : Bool) (d a xf : Reg) (k : BitVec 2)
  | vrsqrt (c : Bool) (d a xf : Reg) (k : BitVec 2)
  -- Vector memory (R160 to R166).
  | vld (c : Bool) (d a : Reg) (st k : BitVec 2)
  | vlds (c : Bool) (d a b : Reg) (st k : BitVec 2)
  | vldx (c : Bool) (d a b : Reg) (st k : BitVec 2)
  | vldsp (c : Bool) (d a : Reg) (st k : BitVec 2)
  | vldm (c : Bool) (d a : Reg) (k : BitVec 2)
  | vldxsp (c : Bool) (d a b : Reg) (st k : BitVec 2)
  | vst (c : Bool) (d a : Reg) (st k : BitVec 2)
  | vsts (c : Bool) (d a b : Reg) (st k : BitVec 2)
  | vstx (c : Bool) (d a b : Reg) (st k : BitVec 2)
  | vstsp (c : Bool) (d a : Reg) (st k : BitVec 2)
  | vstm (c : Bool) (d a : Reg) (k : BitVec 2)
  | vstxsp (c : Bool) (d a b : Reg) (st k : BitVec 2)
  -- The tile (R168 to R177).
  | tacc (c : Bool) (t a b xf : Reg)
  | taccS (c : Bool) (t a b xf : Reg)
  | mzero (t : Reg)
  | mld (t a : Reg)
  | mldT8 (t a : Reg)
  | mldT16 (t a : Reg)
  | mst (t a : Reg)
  | mcvt (t xf : Reg)
  | mrowr (t a b : Reg)
  | mroww (t a b : Reg)
  -- Descent (R178 to R185).
  | tdstep (c : Bool) (d a b xf : Reg) (k : BitVec 2)
  | tdleaf (c : Bool) (d a b xf : Reg) (k : BitVec 2)
  | tdregrp (c : Bool) (d a b : Reg) (k : BitVec 2)
  | tdpathR (c : Bool) (d a : Reg) (k : BitVec 2)
  | tdpathW (c : Bool) (d a : Reg) (k : BitVec 2)
  | tdaddr (c : Bool) (d a b : Reg) (k : BitVec 2)
  -- Heath words (R186 to R196).
  | hqDot (a xf : Reg) (tag : BitVec 6)
  | hqSum (a xf : Reg) (tag : BitVec 6)
  | hqCnt (a xf : Reg) (tag : BitVec 6)
  | hqMax (a xf : Reg) (tag : BitVec 6)
  | hqTop (a xf : Reg) (tag : BitVec 6)
  | hqSes (a xf : Reg) (tag : BitVec 6)
  | hbcast (a : Reg) (tag : BitVec 6)
  | hmove (a b xf : Reg) (tag : BitVec 6)
  -- Copies (R197 to R208).
  | cblkIn (a b xf : Reg) (tag : BitVec 6) (ch : BitVec 2)
  | cblkOut (a b xf : Reg) (tag : BitVec 6) (ch : BitVec 2)
  | cblkSs (a b xf : Reg) (tag : BitVec 6) (ch : BitVec 2)
  | cblkVv (a b xf : Reg) (tag : BitVec 6) (ch : BitVec 2)
  | cnestIn (a b xf : Reg) (tag : BitVec 6) (ch : BitVec 2)
  | cnestOut (a b xf : Reg) (tag : BitVec 6) (ch : BitVec 2)
  | cnestSs (a b xf : Reg) (tag : BitVec 6) (ch : BitVec 2)
  | cnestVv (a b xf : Reg) (tag : BitVec 6) (ch : BitVec 2)
  | cnestInT8 (a b xf : Reg) (tag : BitVec 6) (ch : BitVec 2)
  | cnestInT16 (a b xf : Reg) (tag : BitVec 6) (ch : BitVec 2)
  | cgathIn (a b xf : Reg) (tag : BitVec 6) (ch : BitVec 2)
  | cgathOut (a b xf : Reg) (tag : BitVec 6) (ch : BitVec 2)
  -- `cget` and the tag operations (R203, R209).
  | cgetV (a b : Reg) (tag : BitVec 6) (ch : BitVec 2)
  | cgetVs (a b : Reg) (tag : BitVec 6) (ch : BitVec 2)
  | cwaitAny (a : Reg)
  | cwaitAll (a : Reg)
  | cfirst (a b : Reg)
  | cdrain (ch : BitVec 2)
  | cfence (mask : BitVec 4)
  -- Atomics (R219 to R222).
  | aaddW (d a b : Reg)
  | aaddWNoret (a b : Reg) (ch : BitVec 2)
  | aaddD (d a b : Reg)
  | aaddDNoret (a b : Reg) (ch : BitVec 2)
  | aandW (d a b : Reg)
  | aandWNoret (a b : Reg) (ch : BitVec 2)
  | aandD (d a b : Reg)
  | aandDNoret (a b : Reg) (ch : BitVec 2)
  | aorW (d a b : Reg)
  | aorWNoret (a b : Reg) (ch : BitVec 2)
  | aorD (d a b : Reg)
  | aorDNoret (a b : Reg) (ch : BitVec 2)
  | axorW (d a b : Reg)
  | axorWNoret (a b : Reg) (ch : BitVec 2)
  | axorD (d a b : Reg)
  | axorDNoret (a b : Reg) (ch : BitVec 2)
  | aminW (d a b : Reg)
  | aminWNoret (a b : Reg) (ch : BitVec 2)
  | aminD (d a b : Reg)
  | aminDNoret (a b : Reg) (ch : BitVec 2)
  | amaxW (d a b : Reg)
  | amaxWNoret (a b : Reg) (ch : BitVec 2)
  | amaxD (d a b : Reg)
  | amaxDNoret (a b : Reg) (ch : BitVec 2)
  | aminuW (d a b : Reg)
  | aminuWNoret (a b : Reg) (ch : BitVec 2)
  | aminuD (d a b : Reg)
  | aminuDNoret (a b : Reg) (ch : BitVec 2)
  | amaxuW (d a b : Reg)
  | amaxuWNoret (a b : Reg) (ch : BitVec 2)
  | amaxuD (d a b : Reg)
  | amaxuDNoret (a b : Reg) (ch : BitVec 2)
  | aswpW (d a b : Reg)
  | aswpWNoret (a b : Reg) (ch : BitVec 2)
  | aswpD (d a b : Reg)
  | aswpDNoret (a b : Reg) (ch : BitVec 2)
  | acasW (d a b cmp : Reg)
  | acasD (d a b cmp : Reg)
  | afaddW (d a b : Reg)
  | afaddWNoret (a b : Reg) (ch : BitVec 2)
  | aincbW (d a b : Reg)
  | aincbD (d a b : Reg)
  -- Strip atomics and combine puts (R223, R228).
  | aaddscan (d a b : Reg) (k : BitVec 2)
  | cmbput (d a b xf : Reg) (k : BitVec 2)
  | cmbputZ (a b : Reg)
  -- Ordering, windows, ring, barriers, queues and recovery (R216 to R236).
  | sbar (pre post : BitVec 8)
  | fenceRel (sc : BitVec 2)
  | fenceAcq (sc : BitVec 2)
  | ldAcqW (d a : Reg) (sc : BitVec 2)
  | ldAcqD (d a : Reg) (sc : BitVec 2)
  | stRelW (a b : Reg) (sc : BitVec 2)
  | stRelD (a b : Reg) (sc : BitVec 2)
  | accw (a b : Reg)
  | accm (a : Reg)
  | ipost (a b : Reg)
  | iwait (d a b : Reg)
  | mbarArr (d a : Reg)
  | mbarWait (a b : Reg)
  | dbarArr (d a : Reg)
  | dbarWait (a b : Reg)
  | mwait (d a b tmo : Reg)
  | qput (d a b : Reg)
  | ktrig
  | sealWord
  | xhold
  -- The sequencer, timers and per-core registers (R40, R41, R131, R132, R364, R365, R104).
  | slabCycle (core : Nat)
  | strandOverdue (sid : Nat)
  | timerTrap (sid : Nat)
  | wfiWake (sid : Nat)
  | trcctlMark (core : Nat) (mark : BitVec 16)
  | trcctlCopy (core : Nat)
  | trcctlClr (core : Nat)
  | registerWrite (r : SysReg) (val : W64)
  | barrierConfigWrite (b : BarId) (val : W64)
  | ringConfigWrite (meadow stage : Nat) (state : Bool) (val : W64)
  | hberrClear (bank : Nat) (val : W64)
  -- Translation (R308, R316, R317).
  | editPortWrite (sys ctx va addr : Nat) (entry : W64) (mark : Option Bool)
  | shootDown (sys ctx va len : Nat)
  | tlbParityRefetch (core ctx va : Nat)
  -- Copies, atomics and puts in flight (R205 to R207, R222, R228, R398).
  | copyLand (sid : Nat) (tag : BitVec 6)
  | copyFault (sid : Nat) (tag : BitVec 6)
  | copySourceError (sid : Nat) (tag : BitVec 6) (e : SourceError)
  | copySourcePoison (sid : Nat) (tag : BitVec 6)
  | atomicResponse (sid : Nat)
  | noreturnAtomicPerform (sid : Nat) (ch : BitVec 2)
  | cmbputPerform (sid : Nat)
  -- Heath commands in flight (R188 to R196, R315, R357).
  | heathSlotCheck (sid : Nat) (tag : BitVec 6)
  | heathPass1Done (sid : Nat) (tag : BitVec 6)
  | heathBankError (sid : Nat) (tag : BitVec 6) (pa : Nat)
  | heathReply (sid : Nat) (tag : BitVec 6)
  | hbcastLand (sid : Nat) (tag : BitVec 6)
  | hmoveDone (sid : Nat) (tag : BitVec 6) (bad : Option Nat)
  | hevictDone (sid : Nat)
  | hrestoreDone (sid : Nat)
  -- Timeouts (R232, R298, R301).
  | barrierTimeout (sid : Nat)
  | iwaitTimeout (sid : Nat)
  | mwaitTimeout (sid : Nat)
  -- Walkers, pre-emption and lane reclaim (R262 to R268, R286).
  | walkerPlace
  | preemptRequest (core ctx : Nat)
  | preemptSaveDone (core : Nat)
  | laneReclaimRequest (core ctx : Nat)
  | reclaimTimeout (core : Nat)
  | laneWaitReturn (gid : Nat)
  | groupRestore (gid : Nat)
  -- Errors and the scrubber (R331, R342 to R345).
  | ueConsumed (sid : Nat) (site : ErrSite) (addr : W64) (mismatch : Bool) (ch : Option (BitVec 2))
  | scrubberVisit (heath : Bool) (line : Nat) (found : Scrub)
  -- Seals and rollback (R334 to R341, R346).
  | sealTimer
  | sealRequest (module : Nat)
  | sealPrepare (n : W32)
  | sealResume
  | sealImagesDone
  | sealReady (module : Nat)
  | sealCommit (ns : Nat)
  | sealAbort
  | sealReadyTimeout
  | coordinatorTimeout
  | rollback (begun : List Nat)
  | initialSeal
  | snapshotStreamEnd
  -- Jeore and host links (R320 to R326).
  | jeoreAck (port : Nat) (seq : BitVec 16)
  | jeoreNak (port : Nat) (last : BitVec 16)
  | jeoreFlitBad (port : Nat)
  | jeoreRemoteWrite (port : Nat) (heath : Bool) (addr : Nat) (bytes : List Byte) (owner : BitVec 12)
  | jeoreAtomicRequest (port : Nat) (op : AtomOp) (wide : Bool) (addr : Nat) (b c : W64) (who : Asker) (more : AtomRest)
  | jeoreAtomicResponse (port : Nat) (who : Asker) (answer : AtomAnswer)
  | jeoreCopyReadRequest (port : Nat) (first : Nat × Nat) (more : List (Nat × Nat))
  | jeoreCopyReadData (port : Nat) (copy : CopyName) (bytes : List Byte)
  | linkTrainingComplete (port : Nat) (wide : Bool)
  | linkTrainingTimeout (port : Nat)
  | linkLaneLost (port : Nat)
  | hostLinkDown
  | hostLinkUp
  -- Boot, power and heat (R358, R388 to R390, R396).
  | moduleBoot (a b : Option BootSlot)
  | unitStart (u : StartUnit)
  | matrixIdle (core : Nat)
  | heathGovernorWindow (watts : Nat)
  | thermalThrottle
  | thermalShutdown
  -- Host commands (R391 to R395); `fn` is the function that issues the command.
  | commandReply (fn : Nat)
  | identify (fn : Nat)
  | attest (fn : Nat) (nonce : List Byte) (buf len : Nat)
  | createContext (fn : Nat) (p : CtxParams)
  | destroyContext (fn ctx : Nat)
  | stopContext (fn ctx : Nat)
  | resumeContext (fn ctx : Nat)
  | mapPages (fn : Nat) (p : MapParams)
  | unmapPages (fn ctx va len : Nat)
  | hostImport (fn ctx va hostAddr len : Nat)
  | hostExport (fn ctx va hostAddr len : Nat)
  | runRoot (fn ctx recVa : Nat)
  | snapshot (fn : Nat) (ctx : Option Nat)
  | restoreModule (fn : Nat)
  | readDump (fn : Nat) (tenant : W64) (slot : Option Nat) (release : Bool) (hostAddr : Nat)
  | configureLinks (fn : Nat) (p : LinkParams)
  | configureManagement (fn : Nat) (p : MgmtParams)
  | resetFunction (fn : Nat)
  | resetModule (fn : Nat)
  | cmdregWrite (fn : Nat) (opc : BitVec 16) (seq : W32) (page : CmdParam) (val : W64)
  -- Scratchpad banks, landed copies, replay and test service (R121, R205, R372, R43).
  | scratchpadBankWake (core bank : Nat)
  | copyPerformed (sid : Nat) (tag : BitVec 6)
  | replayStart
  | testServiceSet (on : Bool)
  deriving DecidableEq, Repr

end Sys2Proof
end

