-- ==== Sys2Proof/Machine/State.lean ====
section
/-! DEFINITION. The state of the machine: plain data, every piece of state that spec/ names (INVENTORY.md, State).
Every structure's default values are its values at reset; fields whose reset value the manual does not give are named
in log 3. -/

namespace Sys2Proof.Machine

/-- Bytes by address: addresses strictly rising, no entry 0, since an unlisted byte reads 0 (log 2). -/
abbrev Mem := List Host.Cell

/-- The memories that a physical address names: field memory, the Heath, the scratchpads (core × 4 MiB + offset), and
host memory behind the window (R304, R7). -/
inductive Tgt where
  | fm | hm | sp | host
  deriving DecidableEq, Repr

/-- A write to a memory of the module: bytes with the owner tag of their writer, logged under R330 unless `raw`, or a
range cleared to zero (R258). -/
inductive Write where
  | put (tgt : Tgt) (addr : Nat) (bytes : List Byte) (owner : BitVec 12) (raw : Bool)
  | clear (tgt : Tgt) (addr len : Nat)
  deriving DecidableEq, Repr

/-- The destination of an external write (R255): the host, or entry n of the external-module table (R323). -/
inductive Dest where
  | host
  | external (n : Nat)
  deriving DecidableEq, Repr

/-- What a store does when it is performed: a write here, an external write into the hold (R255), or a remote write over
Jeore (R326). -/
inductive Store where
  | mem (w : Write)
  | ext (d : Dest) (addr : Nat) (bytes : List Byte)
  | remote (module addr : Nat) (bytes : List Byte)
  deriving DecidableEq, Repr

/-- The state that a non-elementwise member carries from step to step (R35): a running sum, a running minimum or maximum,
a bitwise value, a best element with its index, a count, a first index, or the node numbers of `tdregrp`. -/
inductive Carry where
  | none
  | sum (s : Sum) (any nv : Bool)
  | ext (v : Val) (any nv : Bool)
  | bits (n : Nat) (any : Bool)
  | best (found : Bool) (idx : Nat) (v : Val) (code : Nat)
  | count (n : Nat)
  | first (i : Option Nat)
  | nodes (l : List (Nat × Option Nat))
  deriving DecidableEq, Repr

/-- A delivery held for a tag wait, or for a `cdrain` or `cfence` (R210, R398). `contain` names the site of a copy error of R207, which
leads to a rollback and not to a trap. -/
structure Delivery where
  onChannel : Bool
  num : Nat
  code : Nat
  sub : Nat
  tval : W64
  suspended : Bool
  contain : Option ErrSite
  deriving DecidableEq, Repr

/-- A hold that `sbar`, a fence or a release leaves behind (R216, R217): later reads of the classes `ld` and later writes of
the classes `st` wait for the commands and the held and remote stores listed; where a release left it (`rel`), later releases wait too. -/
structure Hold where
  ld : BitVec 8
  st : BitVec 8
  cmds : List Nat
  rel : Bool
  deriving DecidableEq, Repr

/-- A store that has issued and is held by a `Hold`, by the range checker (R213 rule 3), or until its log, its hold or its link takes it.
`drained` marks one that the strip store buffer held before, which its own strand goes on seeing (R141, R244). `va` is its virtual address,
where it has one. -/
structure Pend where
  uid : Nat
  cls : Nat
  va : Option Nat
  stores : List Store
  cmds : List Nat
  drained : Bool
  deriving DecidableEq, Repr

/-- A store in the strip store buffer (R141): its order class, its virtual address, where it has one, and what it does. -/
structure BufStore where
  cls : Nat
  va : Option Nat
  st : Store
  deriving DecidableEq, Repr

/-- A write on its way to another module (R240): its number, its order class, and its virtual address, where it has one. -/
structure FarStore where
  uid : Nat
  cls : Nat
  va : Option Nat
  deriving DecidableEq, Repr

/-- The loop state of `lbuf` (R214, R215). `words` are those of the block's words that have been fetched, by their addresses: a pass runs from
them (log 75). -/
structure Loop where
  start : W64
  stop : W64
  cnt : List Nat
  c : List Nat
  regs : List Nat
  inc : List (List Int)
  suspended : Bool
  words : List (W64 × W32)
  deriving DecidableEq, Repr

/-- The strip checkpoint (R140). -/
structure Ckpt where
  xs : List (Nat × W64)
  fflags : BitVec 5
  vl : W64
  vtype : W64
  loop : Option Loop
  deriving DecidableEq, Repr

/-- An open accumulation window (R224); the private copy of lane group L holds window byte b at L × 65,536 + b. -/
structure Window where
  base : Nat
  size : Nat
  desc : BitVec 20
  copies : Mem
  deriving DecidableEq, Repr

/-- What a convoy keeps from its dispatch (R30, R33, R179): its words, the registers its members read, and the tree descriptors at the
addresses in x registers, by their numbers. -/
structure Dispatched where
  words : List W32
  x : Vector W64 32
  v : Vector VReg 32
  trees : List (Nat × Nat)
  deriving DecidableEq, Repr

/-- What a strand that is not ready waits for (R44). `written` stands for a wait that a store has ended (R232). The wait of an `mwait` names
the physical address of its doubleword where that is in field memory; a wait for a log or for the hold names the lines, or the number of bytes,
for which it must have room (R280, R328). -/
inductive Wait where
  | none
  | tags (any : Bool) (mask : W64)
  | cmds (uids : List Nat)
  | drained (uids : List Nat) (chs : BitVec 4) (all : Bool)
  | room (ch : Nat)
  | heathRoom
  | tagBusy (tag : Nat)
  | barrier (b : BarId) (gen : Nat)
  | ring (d : Reg) (stage iter : Nat)
  | ringRoom (stage iter : Nat)
  | mem (d : Reg) (va expect tmo : W64) (pa : Option Nat)
  | written
  | timer
  | sealed (n : Nat)
  | held (n : Nat)
  | groupOthers
  | log (heath : Bool) (va : Nat) (lines : List Nat)
  | holdFull (bytes : Nat)
  | migrating (va : Nat)
  | flight
  | bank (core bank : Nat)
  | link (module : Nat)
  | stack (k : Nat)
  deriving DecidableEq, Repr

/-- What the response of a returning atomic writes (R220, R221, R223): x(d), sign-extended, zero-extended for `afadd.w`, or
the prefixes of an `aaddscan` whose source and mask field are given; and the address that its traps name. -/
structure AtomEnd where
  d : Reg
  wide : Bool
  isF : Bool
  scan : Option (Reg × BitVec 2)
  va : W64
  deriving DecidableEq, Repr

/-- A command of the strand itself that another unit is completing (R134, R222, R226): an atomic of another module until its response,
which has come, or which reports a bad line with its cause; the folds of an `accm` at other modules still to be answered. A restore holds what
a safe-tier port has brought of its slot (R314). -/
inductive Flight where
  | none
  | atomic (r : AtomEnd)
  | atomicDone (r : AtomEnd) (old : W64) (flags : BitVec 5)
  | atomicBad (code : Nat) (va : W64)
  | folds (left : Nat) (va : W64)
  | evict (va slot : Nat)
  | restore (va slot : Nat) (got : Option (List Byte))
  | done
  deriving DecidableEq, Repr

/-- A loop whose block is to be fetched again: at a trap, in a record, or at a rewind (log 75). -/
def Loop.unread (l : Loop) : Loop := { l with words := [] }

/-- The fixed facts of a strand's group: its context, kernel, queue, core, slot, stage, tiles and flags (R19, R20, R26). -/
structure Place where
  gid : Nat := 0
  ctx : Nat := 0
  kid : Nat := 0
  queue : Nat := 0
  core : Nat := 0
  slot : Nat := 0
  stage : Nat := 0
  strands : Nat := 0
  tiles : List Nat := []
  nomx : Bool := false
  recl : Bool := false
  prot : Bool := false
  upper : Bool := false
  deriving DecidableEq, Repr

/-- One strand (R17) with its hidden state (R36, R127, R141 to R144, R215, R225). `vslab` and `vstart` are where its own convoy stands.
`tslab`, `tstart`, `tcarry` and `tdone` are what a trap saved of the convoy it met, and what software reads and writes under the numbers
of `vslab` and `vstart` (R39, R127, R128, log 55). `remotes` holds the strand's writes to other modules until they are acknowledged
there (R240), `arrived` the generation of the strand's last arrival at each barrier (R303). -/
structure Strand where
  live : Bool := false
  sidx : Nat := 0
  hs : Nat := 0
  g : Place := {}
  pc : W64 := 0
  x : Vector W64 32 := Vector.replicate 32 0
  v : Vector VReg 32 := Vector.replicate 32 0
  k : Vector VReg 4 := Vector.replicate 4 0
  vl : W64 := 0
  vtype : W64 := 0x8000000000000000
  vstart : W64 := 0
  vslab : W64 := 0
  fflags : BitVec 5 := 0
  ckmask : W64 := 0
  tags : W64 := 0
  hqstat : W64 := 0
  status : BitVec 5 := 0
  tvec : W64 := 0
  epc : W64 := 0
  cause : BitVec 17 := 0
  tval : W64 := 0
  hscratch : W64 := 0
  tmcmp : W64 := 0
  timerHit : Bool := false
  cvret : W64 := 0
  carry : Carry := .none
  done : Vector VReg 4 := Vector.replicate 4 0
  tslab : W64 := 0
  tstart : W64 := 0
  tcarry : Carry := .none
  tdone : Vector VReg 4 := Vector.replicate 4 0
  carryAt : Option W64 := none
  snap : Option Dispatched := none
  buf : List BufStore := []
  buffering : Bool := false
  liveV : BitVec 32 := 0
  liveK : BitVec 4 := 0
  liveT : BitVec 4 := 0
  wrV : BitVec 32 := 0
  wrK : BitVec 4 := 0
  wrT : BitVec 4 := 0
  ckpt : Option Ckpt := none
  rewound : Bool := false
  stripPc : W64 := 0
  redo : Bool := false
  loop : Option Loop := none
  window : Option Window := none
  wg : List Nat := []
  waitT : Nat := 0
  waiting : Wait := .none
  deliver : List Delivery := []
  nrflags : Vector (BitVec 5) 4 := Vector.replicate 4 0
  holds : List Hold := []
  fences : List (BitVec 4 × List Nat) := []
  remotes : List FarStore := []
  pend : List Pend := []
  flight : Flight := .none
  ended : Bool := false
  trigged : Bool := false
  stalled : Nat := 0
  since : Nat := 0
  wasReady : Bool := false
  overdue : Bool := false
  started : Bool := false
  reclaimed : Bool := false
  arrived : List (BarId × Nat) := []
  deriving DecidableEq, Repr

/-- What moves in a nested or block copy, or a gather, or a `cget` (R199 to R203). Scratchpad addresses are device
scratchpad addresses, memory addresses are virtual. `g` is 0, or the granule of a transposed copy (R201). -/
inductive CopyBody where
  | nest (dstSp srcSp : Bool) (dst src : Nat) (cnt : List Nat) (ss ds : List Int) (g : Nat)
  | gath (out : Bool) (sp : Nat) (rows : List Nat) (len : Nat)
  | get (sp : Bool) (vd : Nat) (src n sew grp : Nat)
  deriving DecidableEq, Repr

/-- A copy fault that suspends its copy (R206). -/
structure CopyFault where
  code : Nat
  sub : Nat
  tval : W64
  deriving DecidableEq, Repr

/-- Where a copy stands: moving, waiting for the data of a read over Jeore (R326), or landed (R205). -/
inductive CopyStage where
  | moving | asked | landed
  deriving DecidableEq, Repr

/-- The work of a class-4 command (R199, R219, R228). `sent` marks one that another module performs and has not answered yet (R326); `rest` is
what is left of a put performed here whose row, fill word, output or DONE another module holds: its writes on their way, the modules whose
answers are still to come, the address of DONE, the 64 KiB pages it was translated for (R227, R229, R317), and the combine that it fires, with
its ZERO bits, where the modules asked are still to say that their lines are good (R398). -/
inductive CmdBody where
  | copy (tag : Nat) (b : CopyBody) (progress : Nat) (fault : Option CopyFault) (stage : CopyStage)
  | atom (op : AtomOp) (wide : Bool) (va pa : Nat) (remote : Option Nat) (b : W64) (sent : Bool)
  | put (p : Put) (sent : Bool)
  | rest (asks : List Nat) (va : Nat) (pages : List Nat) (fire : Option (Put × Nat))
  deriving DecidableEq, Repr

/-- A class-4 command queued on a channel, with the commands and held stores it is performed after (R211, R213), its scratchpad
envelope, the part of it that it writes, whether its destination takes external writes (R241), and, as it was dispatched, its word with
the registers that bits 24:20, 19:15 and 14:10 of it name, the next ones of the first two among them (Table 11.5). -/
structure Cmd where
  uid : Nat
  gid : Nat
  sidx : Nat
  ctx : Nat
  core : Nat
  ch : Nat
  after : List Nat
  env : Option (Nat × Nat)
  wr : Option (Nat × Nat)
  xw : Bool
  word : W32
  regs : List W64
  body : CmdBody
  deriving DecidableEq, Repr

/-- A put that another module asked of this one's combiner, performed but for what lies elsewhere: the port that asked, the fill word's address
and old value, the strand and the command to be answered, the number of its writes on their way, the modules still to answer, the cause that has
dropped it, 0 for none, and the combine still to be fired (R377, R398). -/
structure FarPut where
  port : Nat
  addr : Nat
  old : Nat
  sid : Nat
  uid : Nat
  own : Nat
  asks : List Nat
  bad : Nat
  fire : Option (Put × Nat)
  deriving DecidableEq, Repr

/-- The kinds of a Heath query (Table 8.8). -/
inductive QKind where
  | dot | sum | cnt | max | top | ses
  deriving DecidableEq, Repr

/-- A query block (Table 8.7). -/
structure QBlock where
  ext : Nat
  stride : Nat
  nrec : Nat
  recb : Nat
  slot : Nat
  mode : Nat
  lo : Nat
  hi : Nat
  k : Nat
  fcol : Nat
  scale : Nat
  offset : Nat
  rlim : Nat
  rdst : Nat
  clean : Bool
  deriving DecidableEq, Repr

/-- States of a query between dispatch and done (Table 19.3). The second pass keeps the record bytes that the first has read, since a query
reads each of them once (R243). -/
inductive QState where
  | issued | slotOk | slotMissing
  | pass2 (seen : List (List Byte))
  deriving DecidableEq, Repr

/-- The work of a class-5 command (R186, R194, R196). `status` is the verdict of R189. -/
inductive HBody where
  | query (kind : QKind) (b : QBlock) (fw : W64) (status : Nat) (st : QState) (offset : Nat) (bad : List Nat)
  | bcast (stmask chmask slot : Nat) (data : List Byte)
  | move (dst src len : Nat)
  deriving DecidableEq, Repr

/-- A Heath command in flight (R186, R340), with the pages it pins: virtual number of 2 MiB and physical address. -/
structure HCmd where
  uid : Nat
  gid : Nat
  sidx : Nat
  ctx : Nat
  core : Nat
  tag : Nat
  after : List Nat
  env : Option (Nat × Nat)
  pages : List (Nat × Nat)
  interval : Nat
  body : HBody
  deriving DecidableEq, Repr

/-- States of a group that the hub keeps (R295); trapped, rewound, waiting and running follow from its strands. -/
inductive GState where
  | assigned | running | preempted | done
  deriving DecidableEq, Repr

/-- The group record that a forced pre-emption writes (Tables 11.4 and 11.5), with its number in the save area; `waits` are what its strands
waited for (R303). -/
structure Saved where
  num : Nat
  strands : List Strand
  waits : List Wait
  tiles : List TileReg
  cmds : List Cmd
  deriving DecidableEq, Repr

/-- What ended a group fatally (R293): the failing strand's index, cause code, `epc`, `tval` and `gcoord`, and what its strands waited for
then, by index (R303). -/
structure Fatal where
  sidx : Nat
  code : Nat
  epc : W64
  tval : W64
  gcoord : W64
  waits : List (Nat × Wait)
  deriving DecidableEq, Repr

/-- A group (R19, R290, R295). -/
structure Group where
  place : Place
  iter : List W64
  state : GState
  byPreempt : Bool
  waitCount : Nat
  readyRun : Nat
  ending : Bool
  failed : Bool
  triggered : Bool
  fatal : Option Fatal
  saved : Option Saved
  deriving DecidableEq, Repr

/-- A trace record (Table 20.1). -/
structure TraceRec where
  kind : Nat
  hs : Nat
  half : Bool
  delta : Nat
  a : Nat
  b : W64
  deriving DecidableEq, Repr

/-- A pre-emption or a lane reclaim under way on a core (R262, R263, R267). `clearing` is a forced pre-emption, for `ctx`, of a split core,
which holds groups of `inc` and of `vic`; the victim is 64, which is no context, once the one it was has been destroyed. -/
inductive Reclaim where
  | none
  | saving (ctx victim : Nat)
  | marked (ctx victim : Nat)
  | split (ctx victim : Nat)
  | clearing (ctx inc victim : Nat)
  deriving DecidableEq, Repr

/-- A write of a per-core CSR (R124): its number, the strand that writes, the queue that `sqsel` names then, the value, and whether the copy-out
that it asks for is refused (R365). -/
structure CsrWrite where
  num : Nat
  hs : Nat
  upper : Bool
  sel : BitVec 6
  val : W64
  refused : Bool
  deriving DecidableEq, Repr

/-- The number that stands for no context. -/
def noCtx : Nat := 64

/-- What a split core stands in once its halves are one again, and once its victim is no more. -/
def Reclaim.joined (r : Reclaim) : Reclaim :=
  match r with
  | Reclaim.clearing a _ vic => Reclaim.saving a vic
  | _ => Reclaim.none
def Reclaim.orphaned (r : Reclaim) : Reclaim :=
  match r with
  | Reclaim.split inc _ => Reclaim.split inc noCtx
  | Reclaim.clearing a inc _ => Reclaim.clearing a inc noCtx
  | _ => r

/-- The contexts of the upper and the lower half of a core that lane reclaim splits (R267). -/
def Reclaim.halves (r : Reclaim) : Option (Nat × Nat) :=
  match r with
  | Reclaim.split inc vic => Option.some (inc, vic)
  | Reclaim.clearing _ inc vic => Option.some (inc, vic)
  | _ => Option.none

/-- One core (R19, R23, R25, R40, R131, R363). `id` is its device core number. `lastQ` is the queue chosen last as its weight with the
charge and the pass value before the choice; `trcQueue` counts the records in the trace queue (R363); `half` says which half of a split core
chooses next (log 4), `late` are the writes of the half that has chosen, which the other sees from the next slab-cycle on (R124); `upperHad`
says that a split core's upper half has had a group. -/
structure Core where
  id : Nat
  cycle : W64 := 0
  undostall : W64 := 0
  lanes : BitVec 16 := 0xFFFF
  mxok : Bool := true
  retireLanes : BitVec 16 := 0
  retireMx : Bool := false
  retireBanks : BitVec 32 := 0
  banksBad : BitVec 32 := 0
  banksOff : BitVec 32 := 0
  tiles : Vector TileReg 4 := Vector.replicate 4 0
  owner : Option Nat := none
  dirtySeal : List Nat := []
  dirtyTake : List Nat := []
  sqsel : BitVec 6 := 0
  charge : Vector W64 64 := Vector.replicate 64 0
  pass : Vector W64 64 := Vector.replicate 64 0
  lastQ : Option (Nat × W64 × W64) := none
  readyPrev : List Nat := []
  half : Bool := false
  late : List CsrWrite := []
  pevDrop : BitVec 16 := 0
  pevStrm : BitVec 4 := 0
  pevPipes : BitVec 10 := 0
  trcWraps : BitVec 10 := 0
  trcHead : BitVec 10 := 0
  trcOfs : BitVec 16 := 0
  trcCopyErr : Bool := false
  trcFrz : Bool := false
  trcQueue : Nat := 0
  trcEn : BitVec 6 := 0x3F
  ring : List TraceRec := []
  lastRec : W64 := 0
  reclaim : Reclaim := .none
  upperHad : Bool := false
  want : Option Nat := none
  matBusy : Bool := false
  matSlabs : Nat := 0
  deriving DecidableEq, Repr

/-- States of a context (Table 11.2). -/
inductive CState where
  | free | created | live | idle | stopped | ending | ended
  deriving DecidableEq, Repr

/-- A dump (Table 11.7): what its clear header says, a serial of its own, and its bytes as its slot holds them. -/
structure Dump where
  seq : Nat
  serial : Nat
  reason : Nat
  epc : W64
  tval : W64
  rin : Nat
  gcoord : W64
  cycle : W64
  bytes : List Byte
  deriving DecidableEq, Repr

/-- The pre-emption image of a core's scratchpad, or of a half of it (R263, R267): `key` is twice the core's number, and one more for an upper
half. `blocks` are the blocks of 4 KiB that it holds, `dirty` those of them written since the last seal stop (R261). -/
structure SpImage where
  key : Nat
  blocks : List Nat
  mem : Mem
  dirty : List Nat
  deriving DecidableEq, Repr

/-- A context (Tables 11.1 to 11.3, R270). `images` holds the pre-emption scratchpad image of each core (R263), `saveCores` the cores that
have a place for one in the save area, `dumpVa` the address at which its dump region is mapped (R271, log 62). -/
structure Ctx where
  num : Nat
  state : CState
  fn : Nat
  tenant : W64
  prio : Nat
  gmax : Nat
  queues : List Nat
  dumpSlots : Nat
  dumpKey : Nat
  savePages : List Nat
  dumpPages : List Nat
  dumpVa : Nat
  inc : Nat
  root : Nat
  tvec : W64
  dumps : List (Option Dump)
  dumped : Nat
  lost : Nat
  valid : Bool
  sealrin0 : Nat
  sealrin1 : Nat
  images : List SpImage
  saveCores : List Nat
  refused : List (Nat × Nat × Nat)
  deriving DecidableEq, Repr

/-- States of a queue (Table 12.1). -/
inductive QuState where
  | free | idle | active | stalled | fenced | closed
  deriving DecidableEq, Repr

/-- A hardware queue (R273, R274, R277); `stalledIn` is the interval in which it stalled last (Table 12.1). -/
structure Queue where
  hw : Nat
  ctx : Nat
  state : QuState
  weight : Nat
  tickets : Nat
  kernels : List Nat
  pass : Nat
  placedAt : Nat
  before : QuState
  lastKid : Option Nat
  stalledIn : Nat
  deriving DecidableEq, Repr

/-- A kernel record as the hub copies it (Tables 13.1 to 13.3). -/
structure KRec where
  entry : W64
  flags : Nat
  stksz : Nat
  stkbase : W64
  args : W64
  depm : Nat
  dq : Nat
  bnd : List Nat
  str : List Int
  ordstg : Nat
  zeros : Bool
  raw : List Byte
  deriving DecidableEq, Repr

/-- States of a kernel (Table 13.4). -/
inductive KState where
  | queued | held | walking | draining | ended
  deriving DecidableEq, Repr

/-- A kernel (R287 to R289): next iteration, groups placed, ended and triggered, and where its record lies. `endStore` is the store of END, none
where its page has been unmapped since the acceptance (log 69). -/
structure Kernel where
  kid : Nat
  ctx : Nat
  queue : Nat
  va : W64
  endStore : Option Store
  krec : KRec
  state : KState
  next : Nat
  dep : Option Nat
  depFailed : Bool
  nfatal : Nat
  failed : Bool
  unplaceable : Bool
  earlyFatal : Bool
  deriving DecidableEq, Repr

/-- A barrier (Table 15.1). -/
structure Barrier where
  bound : Bool := false
  ctx : Nat := 0
  npart : Nat := 0
  timeout : Nat := 0
  gen : Nat := 0
  count : Nat := 0
  deriving DecidableEq, Repr

/-- A ring channel (Table 15.2, R300): the low-water mark and the offsets from it whose bits are set. -/
structure Ring where
  bound : Bool := false
  ctx : Nat := 0
  timeout : Nat := 0
  lw : Nat := 0
  map : BitVec 256 := 0
  deriving DecidableEq, Repr

/-- The tags of a 64-byte line (R329). -/
structure Line where
  stamp : BitVec 8 := 0
  owner : BitVec 12 := 0
  poison : Bool := false
  deriving DecidableEq, Repr

/-- An undo-log entry (R332): line number, old tags, old bytes, and the interval it belongs to. `retained` is the mark of a
snapshot stream (R346); `bad` marks an entry with an uncorrectable error (Table 18.3). -/
structure Undo where
  line : Nat
  old : Line
  bytes : List Byte
  interval : Nat
  retained : Bool
  bad : Bool
  deriving DecidableEq, Repr

/-- An external write in the outbound hold (R255), for another module with its number, `far`, and the ports that
reached it, under the map of its interval (R327). -/
structure Held where
  interval : Nat
  dest : Dest
  far : Nat
  ports : List Nat
  addr : Nat
  bytes : List Byte
  ctx : Nat
  gid : Nat
  sidx : Nat
  deriving DecidableEq, Repr

/-- A query slot in the 16 banks of a channel, numbered 64 × stack + channel; `hbcast` writes them together (R194, R351). -/
structure QSlot where
  chan : Nat
  slot : Nat
  owner : Option Nat
  interval : Nat
  data : List Byte
  deriving DecidableEq, Repr

/-- HBERR of one bank (Table 19.4). -/
structure Hberr where
  bank : Nat
  valid : Bool
  multi : Bool
  count : Nat
  column : Nat
  line : Nat
  deriving DecidableEq, Repr

/-- What a Heath or safe-tier page is doing beyond mapped (Table 16.3), by context and virtual page number of 2 MiB. -/
structure PageSt where
  ctx : Nat
  page : Nat
  pins : Nat
  unmapping : Bool
  migrating : Bool
  evicted : Option Nat
  deriving DecidableEq, Repr

/-- A cached translation of a core (R308). -/
structure TlbEnt where
  core : Nat
  ctx : Nat
  page : Nat
  big : Bool
  leaf : W64
  deriving DecidableEq, Repr

/-- An entry of a page table above the leaves as it stood before an edit (R308, R316): a meadow's walk cache may still hold it.
`page` is the virtual address divided by what the entry covers, `serial` numbers the edit, `lost` lists the meadows that have dropped their
copies. -/
structure WalkEnt where
  serial : Nat
  ctx : Nat
  level : Nat
  page : Nat
  entry : W64
  lost : List Nat
  deriving DecidableEq, Repr

/-- A translation-log record (Table 16.6). -/
structure TlogRec where
  kind : Nat
  sys : Nat
  ctx : Nat
  rin : Nat
  va : Nat
  len : Nat
  last : W64
  deriving DecidableEq, Repr

/-- States of a Jeore port (Table 17.2). -/
inductive PState where
  | down | training | up | degraded | fenced | retired
  deriving DecidableEq, Repr

/-- A flit (Table 17.1) by what it says: the module it is for (and whether an external one), kind, channel, sequence number, the number of
the last flit received intact, its payload's fields, and the ports that reached its module when it was made (R327). `uid` is the command or
store that it performs, 0 for none (log 4). -/
structure Flit where
  dest : Option (Bool × Nat)
  kind : Nat
  vc : Nat
  seq : BitVec 16
  ackSeq : BitVec 16
  uid : Nat
  addr : Nat
  bytes : List Byte
  route : List Nat
  deriving DecidableEq, Repr

/-- A Jeore port (R321 to R325): the replay buffer of flits sent and not acknowledged, the flits that wait for room in it, of which the first
`owed` have been sent before and are sent again ahead of any new one (R323), and for each direction the sequence number refused last with how
often in a row. -/
structure Port where
  state : PState := .down
  wide : Bool := false
  fails : Nat := 0
  peer : Nat := 0
  retries : Nat := 0
  seq : BitVec 16 := 0
  rxSeq : BitVec 16 := 0xFFFF
  replay : List Flit := []
  queue : List Flit := []
  owed : Nat := 0
  refusals : Nat := 0
  refusedSeq : BitVec 16 := 0
  rxRefusals : Nat := 0
  rxRefusedSeq : BitVec 16 := 0
  safeTier : Bool := false
  deriving DecidableEq, Repr

/-- The domain map (R323). -/
structure DomainMap where
  self : Nat := 0
  members : List Peer := []
  externals : List Peer := []
  deriving DecidableEq, Repr

/-- The safe tier (R314): its form, where it lies, its slots and the 96-bit counter of slots encrypted. -/
structure SafeTier where
  configured : Bool := false
  hostForm : Bool := true
  base : Nat := 0
  size : Nat := 0
  slots : Nat := 0
  counter : BitVec 96 := 0
  deriving DecidableEq, Repr

/-- A safe-tier slot (Table 16.4) as evictions and snapshots write it. `text` is the page that its ciphertext opens to (log 8). -/
structure SafeSlot where
  num : Nat
  ctx : Nat
  va : Nat
  rin : Nat
  nonce : Nat
  text : List Byte
  deriving DecidableEq, Repr

/-- The contents of a capture entry (Table 20.6): create context, import, run root, accepted `qput`, weight and tickets, committed
seal, rollback, end. -/
inductive CapBody where
  | create (p : CtxParams)
  | imported (va hostAddr : Nat) (bytes : List Byte)
  | runRoot (recVa : Nat)
  | put (queue order : Nat) (bytes : List Byte)
  | tickets (queue weight tickets : Nat)
  | seal (rin : Nat)
  | rollback (rin : Nat)
  | stop
  deriving DecidableEq, Repr

/-- A capture entry with its header (R371). `serial` is its dump serial where a dump key encrypts it (R272), `text` what the flash holds of
it, and `body` what that opens to. -/
structure Capture where
  ctx : Nat
  seq : Nat
  rin : Nat
  serial : Option Nat
  text : List Byte
  body : CapBody
  deriving DecidableEq, Repr

/-- What a seal image holds of a core (R261). -/
structure CoreImage where
  id : Nat
  tiles : Vector TileReg 4
  owner : Option Nat
  dirtyTake : List Nat
  dirtySeal : List Nat
  reclaim : Reclaim
  deriving DecidableEq, Repr

/-- The part of the state that a seal image holds (R261, R303, R336 step 3, R340). -/
structure Image where
  interval : Nat
  strands : List Strand
  groups : List Group
  kernels : List Kernel
  queues : List Queue
  ctxs : List Ctx
  mbars : List (Nat × Nat × Barrier)
  dbars : List (Nat × Barrier)
  rings : List (Nat × Nat × Ring)
  pages : List PageSt
  cmds : List Cmd
  queries : List HCmd
  cores : List CoreImage
  sp : Mem
  replay : Option (List Capture)
  order : Nat
  deriving DecidableEq, Repr

/-- A whole-memory snapshot as its slots hold it (R346): the memories and lines at the commit, and the contexts' image. -/
structure Snap where
  fm : Mem
  hm : Mem
  fmLine : List (Nat × Line)
  hmLine : List (Nat × Line)
  image : Image
  deriving DecidableEq, Repr

/-- Phases of the module in a seal (Table 18.4). -/
inductive Phase where
  | running | stopping | writing | ready | committing
  deriving DecidableEq, Repr

/-- What a rollback's record in the flash log says (R14, R341): the seal returned to, the cause and the site, where this module knows
them. -/
structure RollRec where
  num : Nat
  cause : Nat
  site : Option ErrSite
  deriving DecidableEq, Repr

/-- An error that a strand has consumed at a tag wait at a persistent site (R207, R343): it is answered at once behind the word. -/
structure Consumed where
  sid : Nat
  site : ErrSite
  addr : W64
  deriving DecidableEq, Repr

/-- Recovery (R329 to R347): the images, the seal under way, requests, who is ready, and RCVSTAT's counters. `sites` are those consumed
since the last commit, `why` the cause and site of the rollback that is due; `joining` holds while the module takes part in the seal that
admits it, `asked` are the modules that a coordinator has asked into its seal and that are to join, `called` is the interval of a PREPARE that a
module which is to join has still to follow (R327, log 58); `snapNonce` is the counter's value as the stream of a snapshot began (R314); `oldBad`
are the lines whose stored words no longer correct, until a write replaces them (R330). -/
structure Recovery where
  phase : Phase := .running
  sealing : Option Nat := none
  resumed : Bool := false
  sealed : Option Nat := none
  pending : Option Image := none
  committed : Option Image := none
  requested : Bool := false
  nextRequest : Bool := false
  readyFrom : List Nat := []
  silent : List Nat := []
  period : Nat := 2000
  nextPeriod : Nat := 2000
  rollbacks : Nat := 0
  early : Nat := 0
  snap : Bool := false
  snapBad : List (Bool × Nat) := []
  snapFn : Option Nat := none
  snapNonce : Nat := 0
  snapAt : Option Snap := none
  tier : Option Snap := none
  sealns : Nat := 0
  joining : Bool := false
  asked : List Nat := []
  called : Option W32 := none
  mustRoll : Bool := false
  why : Option (Nat × ErrSite) := none
  sites : List ErrSite := []
  due : List Consumed := []
  handed : List (Bool × Nat) := []
  oldBad : List (Bool × Nat) := []
  mapChange : Option DomainMap := none
  rollLog : List RollRec := []
  sealLog : List Nat := []
  deriving DecidableEq, Repr

/-- A host command in progress on a function (R391 to R393): its opcode, the command as it was performed, and the reply once it
is known. `sealAt` is the interval whose commit the reply waits for, `done` the number of bytes that an import has written so far, and `seen`
those bytes; `redo` says that a rollback has undone its effect. -/
structure HostCmd where
  opc : Nat
  again : Option HostOp
  status : Option Nat
  reply : List Byte
  sealAt : Option Nat
  done : Nat
  seen : List Byte
  redo : Bool
  deriving DecidableEq, Repr

/-- A function of the host link (Tables 26.2 and 26.3). -/
structure Fn where
  num : Nat
  seq : W32 := 0
  busy : Bool := false
  overrun : Bool := false
  last : Nat := 0
  hdrOpc : BitVec 16 := 0
  hdrSeq : W32 := 0
  hdrLen : W32 := 0
  param : List Byte := []
  status : W32 := 0
  rseq : W32 := 0
  rlen : W32 := 0
  reply : List Byte := []
  msix : Nat := 0
  cmd : Option HostCmd := none
  deriving DecidableEq, Repr

/-- Bring-up, power and the management controller (R358, R371, R372, R388 to R396), with the flash's two boot slots and its logs (R14).
DESIGN CHOICE (log 79): the log region of the flash never fills up. A divergence record names the queue and the hub's order number of the
`qput` that differs, and `inputs` are the captured entries that a replay has still to perform (R372). `orphans` are the contexts that are
gone with dumps unread (Table 11.2). -/
structure Mgmt where
  flashA : BootSlot := Config.flashImage 0
  flashB : BootSlot := Config.flashImage 1
  booted : Option BootSlot := none
  slotB : Bool := false
  test : Bool := false
  ranRoot : Bool := false
  recovering : Bool := false
  bootFail : Bool := false
  fuse : Nat := 0
  failed : Bool := false
  digest : Nat := 0
  vfsExposed : Bool := false
  hubOn : Bool := false
  stacksOn : BitVec 16 := 0
  meadowsOn : BitVec 6 := 0
  sysOn : BitVec 8 := 0
  budget : BitVec 12 := 600
  duty : BitVec 3 := 7
  throt : BitVec 16 := 0
  powerCap : Nat := 4200
  hot : Bool := false
  capture : Bool := false
  captured : List Capture := []
  capSeq : Nat := 0
  replay : Option (List Capture) := none
  inputs : List Capture := []
  diverged : Bool := false
  divergeLog : List (Nat × Nat) := []
  dumpSerial : Nat := 0
  faultLog : List Nat := []
  orphans : List Ctx := []
  lostDumps : Nat := 0
  order : Nat := 0
  deriving DecidableEq, Repr

/-- The machine. `strand` is the strand that issues, `parked` the others on their cores; `walkPrev` and `walkLast` are the queues that the
walkers could serve before and the pass value of the last choice (R42), `resting` the Heath pages evicted since the last seal, each with its
interval (R315), `heathLine` the strands whose Heath words wait for the root, in the order in which they reached it (R355); `agenda`,
`woken`, `focus`, `turn`, `nextId` and `fresh` are the model's own fields (log 4): `woken` are the strands whose awaited doubleword a store
of the last step changed (R232). `idleCycle` is the clock of the cores that nothing has touched (R131). -/
structure State where
  strand : Strand := {}
  parked : List Strand := []
  groups : List Group := []
  cores : List Core := []
  ctxs : List Ctx := []
  queues : List Queue := []
  kernels : List Kernel := []
  mbars : List (Nat × Nat × Barrier) := []
  dbars : List (Nat × Barrier) := []
  rings : List (Nat × Nat × Ring) := []
  walkPrev : List Nat := []
  walkLast : Nat := 0
  resting : List (Nat × Nat) := []
  fm : Mem := []
  hm : Mem := []
  sp : Mem := []
  host : Mem := []
  fmLine : List (Nat × Line) := []
  hmLine : List (Nat × Line) := []
  idleStamp : BitVec 8 := 160
  undoF : List Undo := []
  undoH : List Undo := []
  rin : W32 := 0
  svcmode : BitVec 2 := 1
  hold : List Held := []
  sent : List (Nat × Flit) := []
  cmds : List Cmd := []
  queries : List HCmd := []
  heathLine : List Nat := []
  farPuts : List FarPut := []
  slots : List QSlot := []
  hberr : List Hberr := []
  pages : List PageSt := []
  tlb : List TlbEnt := []
  walks : List WalkEnt := []
  tlog : List TlogRec := []
  tlogFlash : List TlogRec := []
  incs : List (Nat × Nat) := []
  ports : Vector Port 12 := Vector.replicate 12 {}
  map : DomainMap := {}
  hostUp : Bool := false
  safe : SafeTier := {}
  slotText : List SafeSlot := []
  rcv : Recovery := {}
  fns : List Fn := []
  mgmt : Mgmt := {}
  agenda : List Instr := []
  woken : List Nat := []
  idleCycle : W64 := 0
  focus : Nat := 0
  turn : Nat := 0
  nextId : Nat := 1
  fresh : Nat := 0
  deriving DecidableEq, Repr

/-- The machine right after reset (R43 start-up service, R329, R335, Tables 5.21 to 5.26): no group, no context, memories
with nothing listed, every port down. -/
def State.reset : State := {}

/-- Why a step stops. -/
inductive Fault where
  /-- Raised by the finish of every meaning when an access reached a physical address that no memory of the module has
  (Table 1.1, R332): the manual gives no such access a result. Safe. -/
  | absentMemory
  deriving DecidableEq, Repr

/-- What the model declines to do. -/
inductive Refusal where
  /-- Raised by the dispatch alone, for an instruction without a meaning yet; no arm does. Safe. -/
  | notModelled (mnemonic : String)
  deriving DecidableEq, Repr

end Sys2Proof.Machine
end

