-- ==== Sys2Proof/Machine/Memory.lean ====
section
/-! DEFINITION. Memory as canonical lists of cells, lines with their tags, the undo log, and the commit of a step's
writes (spec/18 R329, R330, R332; spec/02 R35). -/

namespace Sys2Proof.Machine

/-- The canonical form of a memory: addresses strictly rising, and no entry equal to what an unlisted byte reads, 0. -/
def Mem.wf (m : Mem) : Bool :=
  match m with
  | [] => true
  | [(_, b)] => decide (b ≠ 0)
  | (a, b) :: (a', b') :: rest => decide (b ≠ 0) && decide (a < a') && Mem.wf ((a', b') :: rest)

/-- The byte at an address; an unlisted byte reads 0 (log 2). -/
def Mem.read (m : Mem) (a : Nat) : Byte :=
  match m with
  | [] => 0
  | (a', b) :: rest => if a' = a then b else Mem.read rest a

/-- The cells of bytes that start at an address, without the zero ones. -/
def cellsOf (a : Nat) (bs : List Byte) : Mem :=
  match bs with
  | [] => []
  | b :: rest => if b = 0 then cellsOf (a + 1) rest else (a, b) :: cellsOf (a + 1) rest

/-- A memory without the cells of a range. -/
def Mem.below (m : Mem) (a : Nat) : Mem := m.filter fun c => decide (c.1 < a)
def Mem.above (m : Mem) (a : Nat) : Mem := m.filter fun c => decide (a ≤ c.1)

/-- The memory with bytes written from an address on. -/
def Mem.write (m : Mem) (a : Nat) (bs : List Byte) : Mem :=
  Mem.below m a ++ (cellsOf a bs ++ Mem.above m (a + bs.length))

/-- The memory with `n` bytes from an address cleared to 0. -/
def Mem.clear (m : Mem) (a n : Nat) : Mem := Mem.below m a ++ Mem.above m (a + n)

/-- `n` bytes from an address. -/
def Mem.readN (m : Mem) (a n : Nat) : List Byte :=
  match n with
  | 0 => []
  | k + 1 => Mem.read m a :: Mem.readN m (a + 1) k

/-- The cells of a range, with addresses counted from its start. -/
def Mem.window (m : Mem) (a n : Nat) : Mem :=
  (m.filter fun c => decide (a ≤ c.1) && decide (c.1 < a + n)).map fun c => (c.1 - a, c.2)

/-- The memory that a target names. -/
def State.memOf (s : State) (t : Tgt) : Mem :=
  match t with
  | .fm => s.fm
  | .hm => s.hm
  | .sp => s.sp
  | .host => s.host

/-- The state with one memory replaced. -/
def State.withMem (s : State) (t : Tgt) (m : Mem) : State :=
  match t with
  | .fm => { s with fm := m }
  | .hm => { s with hm := m }
  | .sp => { s with sp := m }
  | .host => { s with host := m }

/-- The tags of a line (R329); those of a line that nothing has written are `idle`. -/
def lineOf (l : List (Nat × Line)) (idle : Line) (n : Nat) : Line :=
  match l with
  | [] => idle
  | (k, t) :: rest => if k = n then t else lineOf rest idle n

/-- The tags of a line replaced. -/
def setLine (l : List (Nat × Line)) (n : Nat) (t : Line) : List (Nat × Line) :=
  upsert (fun e => decide (e.1 = n)) (n, t) l

/-- Line tags and logs of the two memories that carry stamps. -/
def State.lines (s : State) (heath : Bool) : List (Nat × Line) := if heath then s.hmLine else s.fmLine
def State.undo (s : State) (heath : Bool) : List Undo := if heath then s.undoH else s.undoF
def State.withLines (s : State) (heath : Bool) (l : List (Nat × Line)) : State :=
  if heath then { s with hmLine := l } else { s with fmLine := l }
def State.withUndo (s : State) (heath : Bool) (u : List Undo) : State :=
  if heath then { s with undoH := u } else { s with undoF := u }
def State.line (s : State) (heath : Bool) (n : Nat) : Line := lineOf (s.lines heath) { stamp := s.idleStamp } n

/-- The stamp of the current interval (R330). -/
def State.stampNow (s : State) : BitVec 8 := s.rin.setWidth 8

/-- R330 for one line, before its bytes change: the old line reaches the log at the first write of the interval, and the
stamp, the owner and, for a whole line, the poison bit are set. An old word that no longer corrects is logged poisoned and handed to the
scrubber, and a smaller write leaves its line poisoned. While a snapshot streams, the first entry of a line is retained (R346). -/
def touchLine (s : State) (heath : Bool) (n : Nat) (owner : BitVec 12) (whole : Bool) : State :=
  let old := s.line heath n
  let now := s.stampNow
  let first := decide (old.stamp ≠ now)
  let bad := s.rcv.oldBad.contains (heath, n)
  let keep := s.rcv.snap && !((s.undo heath).any fun u => u.retained && decide (u.line = n))
  let logged :=
    if first then
      let bytes := Mem.readN (if heath then s.hm else s.fm) (64 * n) 64
      s.withUndo heath (s.undo heath ++ [⟨n, { old with poison := old.poison || bad }, bytes, s.rin.toNat, keep, false⟩])
    else s
  let noted :=
    if bad && (first || whole) then
      { logged with rcv := { logged.rcv with
          oldBad := logged.rcv.oldBad.filter fun e => decide (e ≠ (heath, n)),
          handed := if first then (heath, n) :: logged.rcv.handed.filter (fun e => decide (e ≠ (heath, n))) else logged.rcv.handed } }
    else logged
  noted.withLines heath (setLine (noted.lines heath) n
    { stamp := now, owner := owner, poison := if whole then false else old.poison || (bad && first) })

/-- R330 for every line of a write of `len` bytes, line by line. -/
def touchLines (s : State) (heath : Bool) (addr len : Nat) (owner : BitVec 12) (k : Nat) : State :=
  match k with
  | 0 => s
  | j + 1 =>
    let n := (addr + len - 1) / 64 - j
    let whole := decide (addr ≤ 64 * n) && decide (64 * n + 64 ≤ addr + len)
    touchLines (touchLine s heath n owner whole) heath addr len owner j

/-- The 4 KiB blocks of a scratchpad write, marked dirty on their core (R261, R263). -/
def addBlock (l : List Nat) (b : Nat) : List Nat := if l.contains b then l else b :: l

/-- A core by its device number; one that nothing has touched stands as at reset, but for its clock. -/
def coreOf (l : List Core) (idle : W64) (c : Nat) : Core :=
  match l with
  | [] => { id := c, cycle := idle }
  | k :: rest => if k.id = c then k else coreOf rest idle c
def State.core (s : State) (c : Nat) : Core := coreOf s.cores s.idleCycle c
def State.setCore (s : State) (k : Core) : State :=
  { s with cores := upsert (fun e => decide (e.id = k.id)) k s.cores }

/-- The blocks from one number on, added to a list. -/
def addBlocks (l : List Nat) (b n : Nat) : List Nat :=
  match n with
  | 0 => l
  | k + 1 => addBlocks (addBlock l b) (b + 1) k

/-- Marks the blocks that `len` bytes at a device scratchpad address of one core touch. -/
def markDirty (s : State) (addr len : Nat) : State :=
  if len = 0 then s
  else
    let c := s.core (addr / 2 ^ 22)
    let b := addr % 2 ^ 22 / 4096
    let n := (addr % 2 ^ 22 + len - 1) / 4096 + 1 - b
    s.setCore { c with dirtySeal := addBlocks c.dirtySeal b n, dirtyTake := addBlocks c.dirtyTake b n }

/-- The effect of one write of a step. -/
def applyWrite (s : State) (w : Write) : State :=
  match w with
  | .put tgt addr bytes owner raw =>
    let tagged :=
      if raw || bytes.isEmpty then s
      else
        match tgt with
        | .fm => touchLines s false addr bytes.length owner ((addr + bytes.length - 1) / 64 + 1 - addr / 64)
        | .hm => touchLines s true addr bytes.length owner ((addr + bytes.length - 1) / 64 + 1 - addr / 64)
        | .sp => markDirty s addr bytes.length
        | .host => s
    tagged.withMem tgt (Mem.write (tagged.memOf tgt) addr bytes)
  | .clear tgt addr len => s.withMem tgt (Mem.clear (s.memOf tgt) addr len)

/-- A step in the making: the state it leaves but for the memories, the writes it makes, oldest first, whether it reached a physical
address that does not exist, the command or held store whose accesses it performs, 0 for none, and the order class of its stores, 4 for a
command's, with their virtual address. -/
structure Work where
  st : State
  ws : List Write
  absent : Bool
  src : Nat := 0
  cls : Nat := 4
  va : Option Nat := none

/-- Whether two byte ranges overlap. -/
def overlap (lo1 hi1 lo2 hi2 : Nat) : Bool := decide (lo1 < hi2) && decide (lo2 < hi1)

/-- Bytes over bytes: those of `bs`, which start at `a`, where they fall into a range that starts at `lo`. -/
def overlay (lo : Nat) (old : List Byte) (a : Nat) (bs : List Byte) : List Byte :=
  match old with
  | [] => []
  | b :: rest =>
    (if a ≤ lo then (if lo - a < bs.length then bs.getD (lo - a) b else b) else b) :: overlay (lo + 1) rest a bs

/-- The part of a write that falls into a range of a memory. -/
def overlayWrite (t : Tgt) (lo : Nat) (old : List Byte) (w : Write) : List Byte :=
  match w with
  | .put t' a bs _ _ => if t' = t ∧ overlap lo (lo + old.length) a (a + bs.length) then overlay lo old a bs else old
  | .clear t' a n =>
    if t' = t ∧ overlap lo (lo + old.length) a (a + n) then
      (List.range old.length).map fun k => if a ≤ lo + k ∧ lo + k < a + n then 0 else old.getD k 0
    else old

/-- Whether the bytes of a doubleword of field memory differ from a value after some write of a list, one by one (R232). -/
def turns (pa : Nat) (old : W64) (bs : List Byte) (l : List Write) : Bool :=
  match l with
  | [] => false
  | w :: rest =>
    let now := overlayWrite .fm pa bs w
    decide (leNat now ≠ old.toNat) || turns pa old now rest

/-- Whether the writes of a list end the wait of a strand at an `mwait`. -/
def Strand.turned (t : Strand) (m : Mem) (l : List Write) : Bool :=
  match t.waiting with
  | .mem _ _ old _ (some pa) => turns pa old (Mem.readN m pa 8) l
  | _ => false

/-- The strands that waited before a step and that its writes wake, as group × 4 + index. -/
def State.wakes (s : State) (l : List Write) : List Nat :=
  if l.isEmpty then [] else ((s.strand :: s.parked).filter fun t => t.turned s.fm l).map fun t => t.g.gid * 4 + t.sidx

/-- The step's state over the memories it found. -/
def State.base (s : State) (w : Work) : State :=
  { w.st with fm := s.fm, hm := s.hm, sp := s.sp, host := s.host, woken := w.st.woken ++ s.wakes w.ws }

/-- The commit of a step (R35): every write of the step on the memories it found. -/
def State.commit (s : State) (w : Work) : State := w.ws.foldl applyWrite (s.base w)

/-- The outcome of a meaning. -/
def State.finish (s : State) (w : Work) : Host.Outcome State Fault Refusal :=
  if w.absent then .fault .absentMemory else .next (s.commit w)

/-- The step that changes nothing. -/
def State.work (s : State) : Work := { st := s, ws := [], absent := false }

end Sys2Proof.Machine
end

