-- ==== Sys2Proof/Machine/Flags.lean ====
section
/-! DEFINITION. The exception flags (spec/03 R53, Table 3.6) and how they reach `fflags`. -/

namespace Sys2Proof.Machine

/-- Flags of one operation, in the places of Table 3.6. -/
abbrev Flags := BitVec 5

def flagNone : Flags := 0
def flagNV : Flags := 16
def flagDZ : Flags := 8
def flagOF : Flags := 4
def flagUF : Flags := 2
def flagNX : Flags := 1

/-- The flag where a condition holds. -/
def flagIf (c : Bool) (f : Flags) : Flags := if c then f else 0

/-- The OR of the flags of a list. -/
def orFlags (l : List Flags) : Flags := l.foldl (· ||| ·) 0

/-- Flags ORed into the strand's `fflags` (R53). -/
def Strand.raise (s : Strand) (f : Flags) : Strand := { s with fflags := s.fflags ||| f }

end Sys2Proof.Machine
end

