-- ==== Sys2Proof/Machine/Numbers.lean ====
section
/-! DEFINITION. Format words, decode and encode, exact arithmetic and the exact sums (spec/03 R45 to R63). -/

namespace Sys2Proof.Machine

/-- Rounding modes by their code (Table 3.1): 0 RNE, 1 RTZ, 2 RDN, 3 RUP. -/
abbrev Rm := Nat

/-- The descriptor in 20 bits (Table 3.2). -/
def descOf (n : Nat) : Desc := ⟨bitsAt n 16 4, bitsAt n 15 1, bitsAt n 11 4, bitsAt n 8 3, bitsAt n 0 8⟩

def descFP32 : Desc := ⟨8, 0, 0, 0, 0⟩
def descBF16 : Desc := ⟨9, 0, 0, 0, 0⟩
def descFP16 : Desc := ⟨10, 0, 0, 0, 0⟩
def descE8M0 : Desc := ⟨3, 0, 8, 0, 127⟩
def descI32 : Desc := ⟨0, 0, 5, 0, 0⟩
def descU32 : Desc := ⟨1, 0, 5, 0, 0⟩
def descI64 : Desc := ⟨0, 0, 6, 0, 0⟩
def descU64 : Desc := ⟨1, 0, 6, 0, 0⟩

/-- The sign, exponent, mantissa and bias figures of a float descriptor, those of IEEE 754 for classes 8 to 10 (R49). -/
def Desc.figures (d : Desc) : Desc :=
  match d.cls with
  | 8 => ⟨8, 1, 8, 23, 127⟩
  | 9 => ⟨9, 1, 8, 7, 127⟩
  | 10 => ⟨10, 1, 5, 10, 15⟩
  | _ => d

def Desc.isInt (d : Desc) : Bool := decide (d.cls ≤ 1)
def Desc.isFloat (d : Desc) : Bool :=
  (decide (2 ≤ d.cls) && decide (d.cls ≤ 4)) || (decide (8 ≤ d.cls) && decide (d.cls ≤ 10))
def Desc.isNarrow (d : Desc) : Bool := decide (2 ≤ d.cls) && decide (d.cls ≤ 4)
def Desc.isZero (d : Desc) : Bool := decide (d = ⟨0, 0, 0, 0, 0⟩)
/-- Classes with an infinity: class 2 and the IEEE formats (Table 3.3). -/
def Desc.hasInf (d : Desc) : Bool := decide (d.cls = 2) || decide (8 ≤ d.cls)

/-- Container width (Table 3.3). -/
def Desc.width (d : Desc) : Nat :=
  match d.cls with
  | 0 => 2 ^ d.e
  | 1 => 2 ^ d.e
  | 8 => 32
  | 9 => 16
  | 10 => 16
  | _ => if d.s + d.e + d.m ≤ 4 then 4 else 8

/-- Rules 1 to 5 of R47 on a descriptor that is read. -/
def Desc.valid (d : Desc) : Bool :=
  if d.isInt then
    decide (3 ≤ d.e) && decide (d.e ≤ 6) && decide (d.s = 0) && decide (d.m = 0) && decide (d.bias = 0)
  else if d.isNarrow then
    decide (d.e ≠ 0) && decide (d.s + d.e + d.m ≤ 8) && (decide (d.cls ≠ 2) || decide (d.m ≠ 0))
  else if d.isFloat then
    decide (d.s = 0) && decide (d.e = 0) && decide (d.m = 0) && decide (d.bias = 0)
  else false

/-- A format word (Table 3.1). -/
structure Fmt where
  dst : Desc
  srcA : Desc
  srcB : Desc
  sc : Bool
  sat : Bool
  rm : Rm
  deriving DecidableEq, Repr

def fmtOf (w : W64) : Fmt :=
  let n := w.toNat
  ⟨descOf (bitsAt n 44 20), descOf (bitsAt n 24 20), descOf (bitsAt n 4 20), bitAt n 3, bitAt n 2, bitsAt n 0 2⟩

/-- (−1)^neg × mant × 2^exp with a zero mantissa written one way. -/
def Val.mk (neg : Bool) (mant : Nat) (exp : Int) : Val := if mant = 0 then .fin neg 0 0 else .fin neg mant exp

def Val.zero : Val := .fin false 0 0
def Val.one : Val := .fin false 1 0
def Val.isNan (v : Val) : Bool := decide (v = .nan)
def Val.isInf (v : Val) : Bool :=
  match v with
  | .inf _ => true
  | _ => false
def Val.isZero (v : Val) : Bool :=
  match v with
  | .fin _ m _ => decide (m = 0)
  | _ => false
def Val.neg? (v : Val) : Bool :=
  match v with
  | .nan => false
  | .inf n => n
  | .fin n _ _ => n

/-- The value of an integer. -/
def Val.ofInt (x : Int) : Val := Val.mk (decide (x < 0)) x.natAbs 0

/-- The value of a code of a narrow float or IEEE format (R48). -/
def decodeFloat (d0 : Desc) (c : Nat) : Val :=
  let d := d0.figures
  let sgn := decide (d.s = 1) && bitAt c (d.e + d.m)
  let ef := bitsAt c d.m d.e
  let mf := bitsAt c 0 d.m
  let allE := decide (ef = 2 ^ d.e - 1)
  let allM := decide (mf = 2 ^ d.m - 1)
  if d.hasInf && allE then (if mf = 0 then .inf sgn else .nan)
  else if decide (d.cls = 3) && allE && allM then .nan
  else if d.m = 0 then Val.mk sgn 1 ((ef : Int) - d.bias)
  else if ef = 0 then Val.mk sgn mf (1 - (d.bias : Int) - d.m)
  else Val.mk sgn (2 ^ d.m + mf) ((ef : Int) - d.bias - d.m)

/-- The value of a code under a descriptor (R48). -/
def decodeVal (d : Desc) (c : Nat) : Val :=
  match d.cls with
  | 0 => Val.ofInt (signed (2 ^ d.e) c)
  | 1 => Val.ofInt ((c % 2 ^ (2 ^ d.e) : Nat) : Int)
  | _ => decodeFloat d c

/-- The integer that a code of an integer class stands for. -/
def decodeInt (d : Desc) (c : Nat) : Int :=
  if d.cls = 0 then signed (2 ^ d.e) c else ((c % 2 ^ (2 ^ d.e) : Nat) : Int)

/-- A quotient by 2^k of a natural number, rounded by a mode; the flag says whether it was inexact. -/
def roundShift (rm : Rm) (neg : Bool) (m k : Nat) : Nat × Bool :=
  let q := m / 2 ^ k
  let r := m % 2 ^ k
  if r = 0 then (q, false)
  else
    let up :=
      match rm with
      | 0 => decide (2 ^ k < 2 * r) || (decide (2 ^ k = 2 * r) && decide (q % 2 = 1))
      | 1 => false
      | 2 => neg
      | _ => !neg
    (if up then q + 1 else q, true)

/-- m × 2^e as a multiple of 2^lsb, rounded by a mode. -/
def roundAt (rm : Rm) (neg : Bool) (m : Nat) (e lsb : Int) : Nat × Bool :=
  if lsb ≤ e then (m * 2 ^ (e - lsb).toNat, false) else roundShift rm neg m (lsb - e).toNat

/-- The exponent of the smallest normal value, emin (R49). -/
def Desc.emin (d : Desc) : Int := if d.m = 0 then -(d.bias : Int) else 1 - (d.bias : Int)

/-- The largest finite code of a format, without its sign bit. -/
def Desc.maxCode (d0 : Desc) : Nat :=
  let d := d0.figures
  let top := 2 ^ (d.e + d.m) - 1
  if d.hasInf then top - 2 ^ d.m else if d.cls = 3 then top - 1 else top

/-- A code with its sign bit where the format has one. -/
def withSign (d0 : Desc) (neg : Bool) (c : Nat) : Nat :=
  let d := d0.figures
  if neg && decide (d.s = 1) then c + 2 ^ (d.e + d.m) else c

/-- −max of a format without a sign is 0 (R50). -/
def maxSigned (d0 : Desc) (neg : Bool) : Nat :=
  if neg && decide (d0.figures.s = 0) then 0 else withSign d0 neg d0.maxCode

/-- The canonical NaN code of a float descriptor (R51). -/
def canonNan (d0 : Desc) : Nat :=
  let d := d0.figures
  if d.hasInf then (2 ^ d.e - 1) * 2 ^ d.m + 2 ^ (d.m - 1)
  else if d.cls = 3 then 2 ^ (d.s + d.e + d.m) - 1
  else d0.maxCode

/-- The code of a NaN in any class (R51, R63): 0 in an integer class. -/
def nanInto (d : Desc) : Nat × Flags :=
  if d.isInt then (0, flagNV) else (canonNan d, flagIf (decide (d.cls = 4)) flagNV)

/-- The infinity code of a class that has one. -/
def infCode (d0 : Desc) (neg : Bool) : Nat :=
  let d := d0.figures
  withSign d0 neg ((2 ^ d.e - 1) * 2 ^ d.m)

/-- An overflow (Table 3.5). -/
def overflowCode (d : Desc) (rm : Rm) (sat neg : Bool) : Nat :=
  let special := if d.hasInf then infCode d neg else canonNan d
  if sat || decide (d.cls = 4) then maxSigned d neg
  else
    match rm with
    | 0 => special
    | 1 => maxSigned d neg
    | 2 => if neg then special else maxSigned d neg
    | _ => if neg then maxSigned d neg else special

/-- The code of q × 2^lsb, which the format represents. -/
def packCode (d0 : Desc) (q : Nat) (lsb : Int) : Nat :=
  let d := d0.figures
  if q = 0 then 0
  else
    let exp : Int := (bitLen q : Int) - 1 + lsb
    if exp < d.emin then q
    else
      let ef := (exp + d.bias).toNat
      let base : Int := exp - d.m
      let full := if base ≤ lsb then q * 2 ^ (lsb - base).toNat else q / 2 ^ (base - lsb).toNat
      ef * 2 ^ d.m + (full - 2 ^ d.m)

/-- Whether q × 2^lsb lies above the largest finite value. -/
def aboveMax (d0 : Desc) (q : Nat) (lsb : Int) : Bool :=
  match decodeFloat { d0.figures with s := 0 } d0.maxCode with
  | .fin _ m e => if e ≤ lsb then decide (m < q * 2 ^ (lsb - e).toNat) else decide (m * 2 ^ (e - lsb).toNat < q)
  | _ => false

/-- A finite value into a float format: one rounding, with its flags (R49, R50). -/
def encodeFin (neg : Bool) (m : Nat) (e : Int) (d0 : Desc) (rm : Rm) (sat : Bool) : Nat × Flags :=
  let d := d0.figures
  let top : Int := (bitLen m : Int) - 1 + e
  let anchor : Int := if m = 0 then d.emin else if top < d.emin then d.emin else top
  let lsb : Int := anchor - d.m
  let (q, inexact) := roundAt rm neg m e lsb
  if d.m = 0 ∧ q = 0 then (withSign d0 neg 0, flagUF ||| flagNX)
  else if aboveMax d0 q lsb then (overflowCode d rm sat neg, flagOF ||| flagNX)
  else
    (withSign d0 neg (packCode d0 q lsb),
      flagIf inexact flagNX ||| flagIf (decide (m ≠ 0) && decide (top < d.emin) && inexact) flagUF)

/-- `encode` into a float format (R49 to R51). -/
def encodeFloat (x : Val) (d : Desc) (rm : Rm) (sat : Bool) : Nat × Flags :=
  let unsigned := decide (d.figures.s = 0)
  let zeroed := fun (_ : Unit) =>
    let (c, f) := encodeFin false 0 0 d rm sat
    (c, f ||| flagNV)
  match x with
  | .nan => nanInto d
  | .inf neg =>
    if unsigned && neg then zeroed ()
    else if d.hasInf then (infCode d neg, 0)
    else if d.cls = 3 then (if sat then maxSigned d neg else canonNan d, flagNV)
    else (maxSigned d neg, flagNV)
  | .fin neg m e =>
    if unsigned && neg && decide (m ≠ 0) then zeroed () else encodeFin (neg && !unsigned) m e d rm sat

/-- The limits of an integer class. -/
def Desc.intMin (d : Desc) : Int := if d.cls = 0 then -(2 ^ (2 ^ d.e - 1) : Nat) else 0
def Desc.intMax (d : Desc) : Int :=
  if d.cls = 0 then (2 ^ (2 ^ d.e - 1) : Nat) - 1 else (2 ^ (2 ^ d.e) : Nat) - 1

/-- An exact integer into an integer class: wrapped, or clamped where SAT = 1; no flag (R51, R138). -/
def intInto (d : Desc) (sat : Bool) (x : Int) : Nat :=
  let y := if sat then (if x < d.intMin then d.intMin else if d.intMax < x then d.intMax else x) else x
  wrapTo (2 ^ d.e) y

/-- A value rounded to an integer by a mode. -/
def roundInt (rm : Rm) (neg : Bool) (m : Nat) (e : Int) : Int × Bool :=
  let (q, inexact) := roundAt rm neg m e 0
  (if neg then -(q : Int) else (q : Int), inexact)

/-- A float value into an integer class (R51): NaN gives 0, a value out of range its limit. DESIGN CHOICE (log 54): a value out of
range that is fractional too raises NV alone; R51 does not say whether it raises NX beside it. -/
def encodeToInt (x : Val) (d : Desc) (rm : Rm) : Nat × Flags :=
  match x with
  | .nan => (0, flagNV)
  | .inf neg => (wrapTo (2 ^ d.e) (if neg then d.intMin else d.intMax), flagNV)
  | .fin neg m e =>
    let (v, inexact) := roundInt rm neg m e
    if v < d.intMin then (wrapTo (2 ^ d.e) d.intMin, flagNV)
    else if d.intMax < v then (wrapTo (2 ^ d.e) d.intMax, flagNV)
    else (wrapTo (2 ^ d.e) v, flagIf inexact flagNX)

/-- `encode` of an exact value into any class (R49 to R51, R63). -/
def encodeVal (x : Val) (d : Desc) (rm : Rm) (sat : Bool) : Nat × Flags :=
  if d.isInt then encodeToInt x d rm else encodeFloat x d rm sat

/-- `round_rne_fp32` (R63). -/
def toFP32 (x : Val) : Nat × Flags := encodeFloat x descFP32 0 false

/-- The code of an infinite quotient, whose only flag is DZ (R51). -/
def divZeroCode (neg : Bool) (d : Desc) (rm : Rm) (sat : Bool) : Nat × Flags :=
  if decide (d.figures.s = 0) && neg && !d.isInt then (0, flagDZ) else ((encodeVal (.inf neg) d rm sat).1, flagDZ)

/-- Two finite values as integers over one exponent. -/
def align (m1 : Nat) (e1 : Int) (m2 : Nat) (e2 : Int) : Nat × Nat × Int :=
  if e1 ≤ e2 then (m1, m2 * 2 ^ (e2 - e1).toNat, e1) else (m1 * 2 ^ (e1 - e2).toNat, m2, e2)

def signInt (neg : Bool) (m : Nat) : Int := if neg then -(m : Int) else (m : Int)

/-- Whether a is below b as exact values; false where either is NaN (R149). -/
def Val.lt (a b : Val) : Bool :=
  match a, b with
  | .fin n1 m1 e1, .fin n2 m2 e2 =>
    let (x, y, _) := align m1 e1 m2 e2
    decide (signInt n1 x < signInt n2 y)
  | .inf n1, .inf n2 => n1 && !n2
  | .inf n1, .fin _ _ _ => n1
  | .fin _ _ _, .inf n2 => !n2
  | _, _ => false

/-- Equal as exact values; +0 = −0, and NaN equals nothing. -/
def Val.eqv (a b : Val) : Bool := !a.isNan && !b.isNan && !a.lt b && !b.lt a

def Val.negate (a : Val) : Val :=
  match a with
  | .nan => .nan
  | .inf n => .inf (!n)
  | .fin n m e => .fin (!n) m e

def Val.abs (a : Val) : Val :=
  match a with
  | .nan => .nan
  | .inf _ => .inf false
  | .fin _ m e => .fin false m e

/-- The exact sum of two values; ∞ − ∞ is invalid (R51). A zero sum of opposite signs is −0 under RDN alone (R49). -/
def Val.add (rm : Rm) (a b : Val) : Val × Flags :=
  match a, b with
  | .nan, _ => (.nan, 0)
  | _, .nan => (.nan, 0)
  | .inf n1, .inf n2 => if n1 = n2 then (.inf n1, 0) else (.nan, flagNV)
  | .inf n1, _ => (.inf n1, 0)
  | _, .inf n2 => (.inf n2, 0)
  | .fin n1 m1 e1, .fin n2 m2 e2 =>
    let (x, y, e) := align m1 e1 m2 e2
    let z := signInt n1 x + signInt n2 y
    if z = 0 then (.fin (if n1 = n2 then n1 else decide (rm = 2)) 0 0, 0)
    else (.fin (decide (z < 0)) z.natAbs e, 0)

/-- The exact product; 0 × ∞ is invalid (R51). -/
def Val.mul (a b : Val) : Val × Flags :=
  match a, b with
  | .nan, _ => (.nan, 0)
  | _, .nan => (.nan, 0)
  | .fin n1 m1 e1, .fin n2 m2 e2 => (Val.mk (n1 != n2) (m1 * m2) (e1 + e2), 0)
  | x, y => if x.isZero || y.isZero then (.nan, flagNV) else (.inf (x.neg? != y.neg?), 0)

/-- A positive quotient to 200 bits and one more bit that says whether anything lies below them: enough to round it once
in any format of Table 3.3. -/
def quotient (m1 m2 : Nat) : Nat × Int :=
  let k := 200 + bitLen m2
  let n := m1 * 2 ^ k
  (2 * (n / m2) + (if n % m2 = 0 then 0 else 1), -(k : Int) - 1)

/-- The exact quotient of float operands (R51); a nonzero over zero, an infinity among them, answers none, for `divZeroCode`. -/
def Val.div (a b : Val) : Option (Val × Flags) :=
  match a, b with
  | .nan, _ => some (.nan, 0)
  | _, .nan => some (.nan, 0)
  | .inf _, .inf _ => some (.nan, flagNV)
  | .inf n1, y => if y.isZero then none else some (.inf (n1 != y.neg?), 0)
  | x, .inf n2 => some (.fin (x.neg? != n2) 0 0, 0)
  | .fin n1 m1 e1, .fin n2 m2 e2 =>
    if m2 = 0 then (if m1 = 0 then some (.nan, flagNV) else none)
    else
      let (q, e) := quotient m1 m2
      some (Val.mk (n1 != n2) q (e + e1 - e2), 0)

/-- The remainder of truncating division of float operands (Table 7.5). DEDUCED (log 20): an exact zero has the
sign that an exact zero sum of unlike operands has under the rounding mode (R49). -/
def Val.rem (rm : Nat) (a b : Val) : Val × Flags :=
  match a, b with
  | .nan, _ => (.nan, 0)
  | _, .nan => (.nan, 0)
  | .inf _, _ => (.nan, flagNV)
  | x, .inf _ => (x, 0)
  | .fin n1 m1 e1, .fin _ m2 e2 =>
    if m2 = 0 then (.nan, flagNV)
    else
      let (x, y, e) := align m1 e1 m2 e2
      if x % y = 0 then (.fin (decide (rm = 2)) 0 0, 0) else (Val.mk n1 (x % y) e, 0)

/-- The square root: exact where it is exact, else to more bits than any format reads, with a last bit set. -/
def sqrtPos (m : Nat) (e : Int) : Nat × Int :=
  let odd := e % 2
  let m1 := if odd = 0 then m else 2 * m
  let e1 := if odd = 0 then e else e - 1
  let n := m1 * 2 ^ 400
  let r := isqrt n
  (2 * r + (if r * r = n then 0 else 1), (e1 - 400) / 2 - 1)

/-- √a of a float operand (Table 7.5): √−0 = −0, a negative nonzero is invalid. -/
def Val.sqrt (a : Val) : Val × Flags :=
  match a with
  | .nan => (.nan, 0)
  | .inf n => if n then (.nan, flagNV) else (.inf false, 0)
  | .fin n m e =>
    if m = 0 then (.fin n 0 0, 0)
    else if n then (.nan, flagNV)
    else
      let (r, x) := sqrtPos m e
      (Val.mk false r x, 0)

/-- 1/√a of a positive value, by the same means. -/
def rsqrtPos (m : Nat) (e : Int) : Nat × Int :=
  let odd := e % 2
  let m1 := if odd = 0 then m else 2 * m
  let e1 := if odd = 0 then e else e - 1
  let p := 200 + bitLen m1
  let r := isqrt (2 ^ (2 * p) / m1)
  (2 * r + (if r * r * m1 = 2 ^ (2 * p) then 0 else 1), -(p : Int) - e1 / 2 - 1)

/-- One digit of a binary logarithm: y in [1, 2) is squared; y is y0 / 2^200. -/
def logDigits (k : Nat) (y acc : Nat) : Nat :=
  match k with
  | 0 => acc
  | j + 1 =>
    let z := y * y / 2 ^ 200
    if 2 ^ 201 ≤ z then logDigits j (z / 2) (2 * acc + 1) else logDigits j z (2 * acc)

/-- log₂ of a positive m × 2^e: exact for a power of two, else 120 binary digits and a last bit that says that more follow. -/
def log2Pos (m : Nat) (e : Int) : Val :=
  let n : Int := (bitLen m : Int) - 1 + e
  if m = 2 ^ (bitLen m - 1) then Val.ofInt n
  else
    let y := m * 2 ^ 200 / 2 ^ (bitLen m - 1)
    let d := logDigits 120 y 0
    let t : Int := n * (2 ^ 120 : Nat) + d
    if 0 ≤ t then .fin false (2 * t.toNat + 1) (-121) else .fin true (2 * (t.natAbs - 1) + 1) (-121)

/-- The value of TAB[j], round_rne(2^(j/64) × 2^30) (R61): the integer nearest to the 64th root of 2^(j + 64 × 30). -/
def root64 (fuel lo hi target : Nat) : Nat :=
  match fuel with
  | 0 => lo
  | k + 1 =>
    let mid := (lo + hi) / 2
    if mid ^ 64 ≤ target then root64 k mid hi target else root64 k lo mid target

def expTab (j : Nat) : Nat :=
  let r := root64 33 (2 ^ 31) (2 ^ 32) (2 ^ (j + 64 * 31))
  (r + 1) / 2

/-- `exp2_lx` on an FP32 code (R61). -/
def exp2lx (c : Nat) : Nat × Flags :=
  match decodeFloat descFP32 c with
  | .nan => (0x7FC00000, 0)
  | .inf n => if n then (0, 0) else (0x7F800000, flagOF ||| flagNX)
  | .fin neg m e =>
    let x := Val.fin neg m e
    if !(x.lt (Val.ofInt 128)) then (0x7F800000, flagOF ||| flagNX)
    else if x.lt (Val.ofInt (-40)) then (0, 0)
    else
      -- x as a multiple of 2^-200, which holds every FP32 value
      let scaled : Int := signInt neg (if -200 ≤ e then m * 2 ^ (e + 200).toNat else m / 2 ^ (-200 - e).toNat)
      let n := scaled / ((2 ^ 200 : Nat) : Int)
      let f := (scaled % ((2 ^ 200 : Nat) : Int)).toNat
      let big := f * 2 ^ 36 / 2 ^ 200
      let j := big / 2 ^ 30
      let g := big % 2 ^ 30
      let h1 := 257941248 + 59597083 * g / 2 ^ 36
      let h2 := 744261118 + h1 * g / 2 ^ 36
      let p := 2 ^ 30 + h2 * g / 2 ^ 36
      let (code, _) := toFP32 (.fin false (expTab j * p) (n - 60))
      (code, flagIf (decide (f ≠ 0)) flagNX)

/-- A term added to a running exact sum (R49, R58, R153). -/
def Sum.add (s : Sum) (v : Val) : Sum :=
  match v with
  | .nan => { s with nan := true, allNeg := false, allPos := false }
  | .inf n => if n then { s with ninf := true, allNeg := false, allPos := false }
              else { s with pinf := true, allNeg := false, allPos := false }
  | .fin n m e =>
    let z := decide (m = 0)
    let neg := s.allNeg && z && n
    let pos := s.allPos && z && !n
    if m = 0 then { s with allNeg := neg, allPos := pos }
    else if e ≤ s.exp then
      { s with mant := s.mant * ((2 ^ (s.exp - e).toNat : Nat) : Int) + signInt n m, exp := e,
               allNeg := neg, allPos := pos }
    else
      { s with mant := s.mant + signInt n (m * 2 ^ (e - s.exp).toNat), allNeg := neg, allPos := pos }

def Sum.addAll (s : Sum) (l : List Val) : Sum := l.foldl Sum.add s

/-- The finite part of a sum, its zero signed as R49 and R380 say. -/
def Sum.finite (s : Sum) (rm : Rm) : Val :=
  if s.mant = 0 then .fin (if rm = 2 then !s.allPos else s.allNeg) 0 0
  else .fin (decide (s.mant < 0)) s.mant.natAbs s.exp

/-- The value of a sum: NaN for a NaN input or both infinities. -/
def Sum.value (s : Sum) (rm : Rm) : Val :=
  if s.nan || (s.pinf && s.ninf) then .nan else if s.pinf then .inf false else if s.ninf then .inf true else s.finite rm

/-- The two flags that a sum's specials decide: a NaN input, and both infinities. -/
def Sum.invalid (s : Sum) : Bool := s.pinf && s.ninf

/-- The smaller or larger of two values under R52: NaN with a number gives NaN, and of +0 and −0 the minimum is −0 and the
maximum +0 (Table 7.5). -/
def Val.minmax (max : Bool) (a b : Val) : Val :=
  if a.isNan || b.isNan then .nan
  else if a.isZero && b.isZero then .fin (if max then a.neg? && b.neg? else a.neg? || b.neg?) 0 0
  else if a.lt b then (if max then b else a) else (if max then a else b)

/-- `grid48`: a value rounded once, RNE, to a multiple of 2^−48 (R59). -/
def grid48 (v : Val) : Val :=
  match v with
  | .fin n m e =>
    let (q, _) := roundAt 0 n m e (-48)
    Val.mk n q (-48)
  | w => w

/-- One element of the floating-point matrix step (R54): the accumulator, the products and the two scales. -/
def stepFp (acc : Nat) (ab : List (Val × Val)) (sa sb : Val) (sat : Bool) : Nat × Flags :=
  let a := decodeFloat descFP32 acc
  if a.isNan || ab.any (fun p => p.1.isNan || p.2.isNan) || sa.isNan || sb.isNan then (0x7FC00000, 0)
  else
    let prods := ab.map fun p => Val.mul p.1 p.2
    if prods.any (fun p => decide (p.2 ≠ 0)) then (0x7FC00000, flagNV)
    else
      let vals := a :: prods.map (·.1)
      let pinf := vals.any fun v => decide (v = .inf false)
      let ninf := vals.any fun v => decide (v = .inf true)
      if pinf && ninf then (0x7FC00000, flagNV)
      else if pinf then (0x7F800000, 0)
      else if ninf then (0xFF800000, 0)
      else
        let scale := (Val.mul sa sb).1
        let scaled := prods.map fun p => (Val.mul p.1 scale).1
        encodeFloat ((Sum.addAll {} (a :: scaled)).finite 0) descFP32 0 sat

/-- One element of the integer matrix step (R55). -/
def stepInt (acc : Nat) (ab : List (Int × Int)) (sat : Bool) : Nat :=
  intInto descI32 sat ((ab.map fun p => p.1 * p.2).foldl (· + ·) (signed 32 acc))

/-- The fused multiply-add of R116 on decoded operands; op 0 to 3 are fmadd, fmsub, fnmadd, fnmsub. -/
def fusedVal (op : Nat) (rm : Rm) (a b c : Val) : Val × Flags :=
  if a.isNan || b.isNan || c.isNan then (.nan, 0)
  else
    match Val.mul a b with
    | (.nan, f) => (.nan, f)
    | (p, _) =>
      let q := if decide (op = 2) || decide (op = 3) then p.negate else p
      let d := if decide (op = 0) || decide (op = 3) then c else c.negate
      Val.add rm q d

/-- A single-rounded operation: the value's own flags and those of its encoding. -/
def roundOp (r : Val × Flags) (d : Desc) (rm : Rm) (sat : Bool) : Nat × Flags :=
  let (c, f) := encodeVal r.1 d rm sat
  -- an invalid operation gives the canonical NaN of the class, with NV alone
  (c, f ||| r.2)

end Sys2Proof.Machine
end

