-- ==== Sys2Proof/Machine/Ops.lean ====
section
/-! DEFINITION. The named operations over registers and a step in the making, the strip store buffer and held stores,
retiring a convoy, taking an exception and returning from one (spec/06 R106, R127, R128; spec/07 R141; spec/09 R213 to
R217; spec/20 R363). -/

namespace Sys2Proof.Machine

/-! ### Registers of a strand -/

/-- Register x(r); x0 reads zero (R17). -/
def Strand.rx (s : Strand) (r : Reg) : W64 := if r = 0 then 0 else s.x[r.toNat]'(r.isLt)

/-- Register x(r) as a member of a convoy reads it: the value it had when the convoy dispatched (R30). -/
def Strand.sx (s : Strand) (r : Reg) : W64 :=
  match s.snap with
  | some d => if r = 0 then 0 else d.x[r.toNat]'(r.isLt)
  | none => s.rx r

/-- A write to x(r); a write to x0 is discarded (R106). -/
def Strand.wx (s : Strand) (r : Reg) (v : W64) : Strand :=
  if r = 0 then s else { s with x := s.x.set r.toNat v r.isLt }

/-- Mask k(n); k0 reads all ones (Table 1.2). -/
def Strand.rk (s : Strand) (n : BitVec 2) : VReg := if n = 0 then BitVec.allOnes 32768 else s.k[n.toNat]'(n.isLt)

/-- A write to mask k(n); k0 is never written. -/
def Strand.wk (s : Strand) (n : BitVec 2) (v : VReg) : Strand :=
  if n = 0 then s else { s with k := s.k.set n.toNat v n.isLt }

/-- Fields of `vtype` (Table 5.22): UNSET, the element width and the grouping. -/
def Strand.unset (s : Strand) : Bool := bitAt s.vtype.toNat 63
def Strand.sew (s : Strand) : Nat := 8 * 2 ^ bitsAt s.vtype.toNat 0 2
def Strand.grp (s : Strand) : Nat := 2 ^ bitsAt s.vtype.toNat 2 2

/-- Fields of `status` (Table 5.24). -/
def Strand.priv (s : Strand) : Bool := s.status.getLsbD 0
def Strand.tie (s : Strand) : Bool := s.status.getLsbD 2
def Strand.nest (s : Strand) : Bool := s.status.getLsbD 4

/-- A status word from its fields NEST, PTIE, TIE, PPRIV and PRIV (Table 5.24). -/
def statusOf (nest ptie tie ppriv priv : Bool) : BitVec 5 :=
  BitVec.ofNat 5 (nest.toNat * 16 + ptie.toNat * 8 + tie.toNat * 4 + ppriv.toNat * 2 + priv.toNat)

/-- The number by which events name a strand: its group and its index in it. -/
def Strand.sid (s : Strand) : Nat := s.g.gid * 4 + s.sidx

/-- `gcoord` (Table 2.1). -/
def Strand.gcoord (s : Strand) : W64 :=
  BitVec.ofNat 64 (s.g.stage * 2 ^ 20 + s.g.core / 24 * 2 ^ 17 + s.g.core % 24 * 2 ^ 12 + s.sidx * 2 ^ 10 +
    s.g.slot * 2 ^ 8 + s.g.core)

/-! ### Lanes -/

/-- The lane groups whose bits are set, in ascending physical order (R24). -/
def lanesFrom (n : Nat) (m : BitVec 16) : List Nat :=
  match n with
  | 0 => []
  | k + 1 => lanesFrom k m ++ (if m.getLsbD k then [k] else [])

/-- The contexts of the upper and the lower half of a core that lane reclaim splits (R267). -/
def Core.halves (c : Core) : Option (Nat × Nat) := c.reclaim.halves

/-- Whether a group is the victim's under a mark or on a split core, where its strands are granted lower lane groups (R144, R267). -/
def lowerOnly (c : Core) (g : Place) : Bool :=
  !g.upper &&
  match c.reclaim with
  | .marked _ vic => decide (g.ctx = vic)
  | _ => (c.halves.map fun h => decide (g.ctx = h.2)).getD false

/-- The working lane groups that a group reports (R23, R28, R268): the lower members of the intact pairs under PROT,
groups 8 to 15 for a group on the upper half, all working ones otherwise. -/
def Core.lanesFor (c : Core) (g : Place) : List Nat :=
  let all := lanesFrom 16 c.lanes
  if g.prot then all.filter fun l => decide (l < 8) && c.lanes.getLsbD (l + 8)
  else if g.upper then all.filter fun l => decide (8 ≤ l)
  else all

def Core.heldLanes (c : Core) (g : Place) : List Nat :=
  let l := c.lanesFor g
  if lowerOnly c g then l.filter fun x => decide (x < 8) else l

/-- T, as `tlen` reads (R23). -/
def State.tlen (s : State) (g : Place) : Nat := 8 * ((s.core g.core).lanesFor g).length

/-- `vcap` (Table 2.3). -/
def State.vcap (s : State) (g : Place) : W64 :=
  let c := s.core g.core
  let w := (c.lanesFor g).length
  BitVec.ofNat 64 (4 * 8 * 64 * w * 2 ^ 48 + 64 * w * 2 ^ 32 + g.prot.toNat * 2 ^ 22 + c.mxok.toNat * 2 ^ 21 + w * 2 ^ 16 +
    8 * w * 2 ^ 8)

/-- Elements per slab at a width, on the lane groups that the strip was granted (R24, R144). -/
def Strand.epr (s : Strand) (width : Nat) : Nat := 512 * s.wg.length / width

/-! ### A step in the making -/

/-- The issuing strand of a step. -/
def Work.cur (w : Work) : Strand := w.st.strand

/-- The issuing strand changed. -/
def Work.upd (w : Work) (f : Strand → Strand) : Work := { w with st := { w.st with strand := f w.st.strand } }

/-- The rest of the state changed. -/
def Work.mod (w : Work) (f : State → State) : Work := { w with st := f w.st }

def Work.rx (w : Work) (r : Reg) : W64 := w.cur.rx r
def Work.wx (w : Work) (r : Reg) (v : W64) : Work := w.upd fun s => s.wx r v

/-- A write added to the step. -/
def Work.put (w : Work) (wr : Write) : Work := { w with ws := w.ws ++ [wr] }

/-- A free value: an opaque constant applied to a counter that advances (log 10). -/
def Work.free (w : Work) : W64 × Work :=
  (Config.freeValue w.st.fresh, w.mod fun s => { s with fresh := s.fresh + 1 })

/-- Free bytes: a draw for each (log 10). -/
def Work.freeBytes (w : Work) (n : Nat) : List Byte × Work :=
  ((List.range n).map fun k => (Config.freeValue (w.st.fresh + k)).setWidth 8, w.mod fun s => { s with fresh := s.fresh + n })

/-- Every strand on a core, the issuing one first. -/
def State.strands (s : State) : List Strand := if s.strand.live then s.strand :: s.parked else s.parked

/-- The state with the strand of that number in front; none where there is no such strand. -/
def State.focusStrand (s : State) (sid : Nat) : Option State :=
  if s.strand.live && decide (s.strand.sid = sid) then some s
  else
    match pickFirst (fun t => decide (t.sid = sid)) s.parked with
    | none => none
    | some (t, rest) => some { s with strand := t, parked := if s.strand.live then s.strand :: rest else rest }

/-- Every strand changed. -/
def State.mapStrands (s : State) (f : Strand → Strand) : State :=
  { s with strand := f s.strand, parked := s.parked.map f }

/-- The group of a number. -/
def State.group? (s : State) (gid : Nat) : Option Group := s.groups.find? fun g => decide (g.place.gid = gid)
def State.mapGroup (s : State) (gid : Nat) (f : Group → Group) : State :=
  { s with groups := s.groups.map fun g => if g.place.gid = gid then f g else g }

/-- The context of a number. -/
def State.ctx? (s : State) (n : Nat) : Option Ctx := s.ctxs.find? fun c => decide (c.num = n)
def State.mapCtx (s : State) (n : Nat) (f : Ctx → Ctx) : State :=
  { s with ctxs := s.ctxs.map fun c => if c.num = n then f c else c }

/-- The owner tag of a context's writes (R329): its number and incarnation. -/
def State.ownerTag (s : State) (ctx : Nat) : BitVec 12 :=
  match s.ctx? ctx with
  | some c => BitVec.ofNat 12 (ctx * 64 + c.inc)
  | none => BitVec.ofNat 12 (ctx * 64)

/-! ### The trace ring (R363) -/

/-- A record put into a core's ring, after a KIND 9 record where DELTA would saturate. Frozen rings take none. It passes the trace queue of 8
entries. -/
def Core.record (c : Core) (kind hs : Nat) (half : Bool) (a : Nat) (b : W64) : Core :=
  if c.trcFrz then c
  else
    let gap := c.cycle.toNat - c.lastRec.toNat
    let put1 := fun (k : Core) (r : TraceRec) =>
      let next := k.trcHead + 1
      { k with ring := (r :: k.ring).take 1024, trcHead := next,
               trcWraps := if next = 0 ∧ k.trcWraps ≠ 1023 then k.trcWraps + 1 else k.trcWraps }
    let c1 := if 65535 ≤ gap then put1 c ⟨9, hs, half, 65535, 0, c.cycle⟩ else c
    let c2 := put1 c1 ⟨kind, hs, half, if 65535 ≤ gap then 0 else gap, a % 2 ^ 32, b⟩
    { c2 with lastRec := c.cycle, trcQueue := min 8 (c.trcQueue + (if 65535 ≤ gap then 2 else 1)) }

/-- A pipe event: it is dropped where it finds the trace queue of 8 records full (R363, R367). -/
def Core.pipeRecord (c : Core) (kind hs : Nat) (half : Bool) (a : Nat) (b : W64) : Core :=
  if c.trcFrz then c
  else if c.trcQueue < 8 then c.record kind hs half a b
  else { c with pevDrop := if c.pevDrop = 0xFFFF then c.pevDrop else c.pevDrop + 1 }

/-- The ring emptied, as when the core passes to another context (R366). -/
def Core.emptyRing (c : Core) : Core := { c with ring := [], trcWraps := 0, trcHead := 0, trcQueue := 0 }

/-- Whether `trcctl` enables a kind (Table 20.3); kinds 5 to 9 and 12 are never disabled. -/
def Core.traces (c : Core) (kind : Nat) : Bool :=
  match kind with
  | 1 => c.trcEn.getLsbD 0
  | 2 => c.trcEn.getLsbD 1
  | 3 => c.trcEn.getLsbD 2
  | 4 => c.trcEn.getLsbD 3
  | _ => true

/-- A record of the issuing strand. -/
def Work.trace (w : Work) (kind a : Nat) (b : W64) : Work :=
  let c := w.st.core w.cur.g.core
  if c.traces kind then w.mod fun s => s.setCore (c.record kind w.cur.hs w.cur.g.upper a b) else w

/-- A pipe event of the issuing strand (R367): kind 10 begin, 11 end, with the pipe, the member and the slab step. -/
def State.pipeEvent (s : State) (kind pipe member step : Nat) (b : W64) : State :=
  let t := s.strand
  let c := s.core t.g.core
  if c.pevStrm.getLsbD t.hs && c.pevPipes.getLsbD pipe then
    s.setCore (c.pipeRecord kind t.hs t.g.upper (pipe + member * 16 + step * 256) b)
  else s

/-- Whether a seal stop is in force: the cores have stopped or are stopping, and have not resumed (R336). -/
def State.stopped (s : State) : Bool := decide (s.rcv.phase ≠ .running) && !s.rcv.resumed

/-- A KIND 8 record for every strand that an event meets: 1 seal stop, 2 seal resume, 3 pre-empted, 4 restored, 5 strip rewind,
6 rollback resume, 7 lanes reclaimed, 8 lanes returned (Table 20.2). -/
def State.event (s : State) (p : Strand → Bool) (code : Nat) : State :=
  (s.strands.filter p).foldl (fun k t =>
    k.setCore ((k.core t.g.core).record 8 t.hs t.g.upper code (zext k.rin))) s

/-! ### Commands in flight, holds and held stores (R211, R213, R216, R217) -/

/-- Whether a port still has a flit of a command or a store to send, or to be acknowledged (R322). -/
def Port.carries (p : Port) (u : Nat) : Bool := p.replay.any (fun f => decide (f.uid = u)) || p.queue.any fun f => decide (f.uid = u)

/-- Whether the command or store of a number is still to be performed. What it writes to other modules is performed there once their links
have acknowledged it (R240, log 6). -/
def State.pendingUid (s : State) (u : Nat) : Bool :=
  s.cmds.any (fun c => decide (c.uid = u)) || s.queries.any (fun c => decide (c.uid = u)) ||
  s.strands.any (fun t => t.pend.any fun p => decide (p.uid = u)) || s.ports.any fun p => p.carries u

/-- Those of a list that are still to be performed. -/
def State.stillPending (s : State) (l : List Nat) : List Nat := l.filter s.pendingUid

/-- The commands of a strand in flight: class 4, class 5, and its held stores. -/
def State.cmdsOf (s : State) (t : Strand) : List Nat :=
  (s.cmds.filter fun c => decide (c.gid = t.g.gid) && decide (c.sidx = t.sidx)).map (·.uid)
def State.heathOf (s : State) (t : Strand) : List Nat :=
  (s.queries.filter fun c => decide (c.gid = t.g.gid) && decide (c.sidx = t.sidx)).map (·.uid)
def State.pendOf (t : Strand) : List Nat := t.pend.map (·.uid)

/-- Whether a command is a copy that has landed: it has made its accesses (R205). -/
def Cmd.landed (c : Cmd) : Bool :=
  match c.body with
  | .copy _ _ _ _ .landed => true
  | _ => false

/-- Whether a command is a copy that a fault has suspended (R206). -/
def Cmd.suspended (c : Cmd) : Bool :=
  match c.body with
  | .copy _ _ _ (some _) _ => true
  | _ => false

/-- The commands of a strand whose writes enter the outbound hold and have not all done so: their external writes are of class 7 (R241). -/
def State.externalOf (s : State) (t : Strand) : List Nat :=
  (s.cmds.filter fun c => decide (c.gid = t.g.gid) && decide (c.sidx = t.sidx) && c.xw && !c.landed).map (·.uid)

/-- Whether a byte range and one that may be absent overlap. -/
def overlapOf (lo hi : Nat) (r : Option (Nat × Nat)) : Bool :=
  match r with
  | some (a, b) => overlap lo hi a b
  | none => false

/-- The issuing strand's core's earlier queued commands that an access of scratchpad bytes is performed after (R213 rules 2 and 3): those
whose envelope overlaps what is written, `wr`, and those that write what is read or written, `env`. -/
def State.envBlockers (s : State) (env wr : Option (Nat × Nat)) : List Nat :=
  let hit := fun (e w : Option (Nat × Nat)) =>
    (match wr with
     | some (a, b) => overlapOf a b e
     | none => false) ||
    (match env with
     | some (a, b) => overlapOf a b w
     | none => false)
  ((s.cmds.filter fun c => decide (c.core = s.strand.g.core) && !c.landed && hit c.env c.wr).map (·.uid)) ++
    ((s.queries.filter fun c => decide (c.core = s.strand.g.core) && hit c.env c.env).map (·.uid))

/-- What stands behind a list of numbers, `items` naming what each number waits for. -/
def behind (items : List (Nat × List Nat)) (l : List Nat) (fuel : Nat) : List Nat :=
  match fuel with
  | 0 => l
  | k + 1 =>
    let more := (items.filter fun e => !l.contains e.1 && e.2.any l.contains).map (·.1)
    if more.isEmpty then l else behind items (l ++ more) k

/-- Every command and held store with what it is performed after. -/
def State.waiters (s : State) : List (Nat × List Nat) :=
  s.cmds.map (fun c => (c.uid, c.after)) ++ s.queries.map (fun c => (c.uid, c.after)) ++
    s.strands.flatMap fun t => t.pend.map fun p => (p.uid, p.cmds)

/-- The commands and held stores that stand behind some of a list, and the list. -/
def State.behindOf (s : State) (l : List Nat) : List Nat := behind s.waiters l s.waiters.length

/-- The copies that a fault has suspended, and what stands behind them: a tag wait must take the fault first (R206). -/
def State.stuck (s : State) : List Nat := s.behindOf ((s.cmds.filter Cmd.suspended).map (·.uid))

/-- What a class-6 read of scratchpad waits for: the strand's earlier commands that write its bytes and that no fault holds (R251 note 4,
log 57). -/
def State.readBlockers (s : State) (lo hi : Nat) : List Nat :=
  let t := s.strand
  let mine := s.cmdsOf t ++ s.heathOf t
  let stuck := s.stuck
  (s.envBlockers (some (lo, hi)) none).filter fun u => mine.contains u && !stuck.contains u

/-- The scratchpad range of a store. -/
def Store.spRange (st : Store) : Option (Nat × Nat) :=
  match st with
  | .mem (.put .sp a bs _ _) => some (a, a + bs.length)
  | _ => none

/-- Whether two stores write a byte in common. -/
def Store.meets (a b : Store) : Bool :=
  match a, b with
  | .mem (.put t x bs _ _), .mem (.put t' y cs _ _) => decide (t = t') && overlap x (x + bs.length) y (y + cs.length)
  | .remote m x bs, .remote m' y cs => decide (m = m') && overlap x (x + bs.length) y (y + cs.length)
  | _, _ => false

/-- The number of bytes of a store, as the strip store buffer counts them. -/
def Store.len (st : Store) : Nat :=
  match st with
  | .mem (.put _ _ bs _ _) => bs.length
  | .mem (.clear _ _ n) => n
  | .ext _ _ bs => bs.length
  | .remote _ _ bs => bs.length

/-- The order class of a store: an external write is of class 7 whatever word makes it (R241). -/
def Store.classOf (st : Store) (cls : Nat) : Nat :=
  match st with
  | .ext _ _ _ => 7
  | _ => cls

/-- Pending scratchpad stores of the issuing strand's core that overlap a range (R213 rule 1). -/
def State.pendBlockers (s : State) (lo hi : Nat) : List Nat :=
  s.strands.flatMap fun t =>
    (t.pend.filter fun p => decide (t.g.core = s.strand.g.core) && p.stores.any fun st => overlapOf lo hi st.spRange).map (·.uid)

/-- What an access of a class waits for under the strand's holds. -/
def State.heldBy (s : State) (cls : Nat) (store : Bool) : List Nat :=
  s.stillPending (s.strand.holds.flatMap fun h =>
    if (if store then h.st else h.ld).getLsbD cls then h.cmds else [])

/-- The strand's writes to other modules of the classes that a test accepts, which their links have still to acknowledge (R240, R250). -/
def State.farOf (s : State) (t : Strand) (p : Nat → Bool) : List Nat :=
  s.stillPending ((t.remotes.filter fun e => p e.cls).map (·.uid))

/-- What a read of a class waits for: the holds, and the stores of its own class that are held or on their way to another module (R120,
R250). -/
def State.loadBlockers (s : State) (cls : Nat) : List Nat :=
  s.heldBy cls false ++ (s.strand.pend.filter fun p => decide (p.cls = cls)).map (·.uid) ++
    s.farOf s.strand fun c => decide (c = cls)

/-! ### Flits (R321 to R323) -/

/-- The module's port to another module: the lowest-numbered port of its set that is up or degraded (R323). -/
def Port.usable (p : Port) : Bool := decide (p.state = .up) || decide (p.state = .degraded)
def State.port (s : State) (n : Nat) : Port := if h : n < 12 then s.ports[n] else {}
def State.setPort (s : State) (n : Nat) (p : Port) : State := if h : n < 12 then { s with ports := s.ports.set n p h } else s
def State.peerOf (s : State) (xmod : Bool) (m : Nat) : Option Peer :=
  (if xmod then s.map.externals else s.map.members).find? fun p => decide (p.num = m)
def State.firstUsable (s : State) (ports : List Nat) : Option Nat := leastOf (ports.filter fun n => (s.port n).usable)
def State.primary (s : State) (xmod : Bool) (m : Nat) : Option Nat := (s.peerOf xmod m).bind fun p => s.firstUsable p.ports

/-- Whether a port of a module's set is in training: who waits for the module is not ready (R324). -/
def State.inTraining (s : State) (xmod : Bool) (m : Nat) : Bool :=
  match s.peerOf xmod m with
  | some p => p.ports.any fun n => decide ((s.port n).state = .training)
  | none => false

/-- The flits of a queue that go next, and those that stay (R321 to R323, log 56). First go those that are owed, in order, and new ones only behind
them: the seal protocol's (virtual channel 2), then the others in order, which leave the last 64 places of the replay buffer of 4,096 to it. One
for which `held` stands waits. -/
def replayRoom : Nat := 4096
def sealRoom : Nat := 64
def Port.split (p : Port) (held : Flit → Bool) : List Flit × List Flit :=
  let room := replayRoom - p.replay.length
  if room < p.owed then (p.queue.take room, p.queue.drop room)
  else
    let new := p.queue.drop p.owed
    let first := new.filter fun f => decide (f.vc = 2)
    let others := new.filter fun f => decide (f.vc ≠ 2) && !held f
    let n := min first.length (room - p.owed)
    let m := replayRoom - sealRoom - (p.replay.length + p.owed + n)
    (p.queue.take p.owed ++ first.take n ++ others.take m,
     first.drop n ++ others.drop m ++ new.filter fun f => decide (f.vc ≠ 2) && held f)

/-- Whether a flit waits until another usable port has its earlier flits to the same module acknowledged, so that none overtakes them there (R322,
R326, Table 10.8 note 14). -/
def State.overtakes (s : State) (n : Nat) (f : Flit) : Bool :=
  f.dest.isSome && (List.range 12).any fun m =>
    decide (m ≠ n) && (s.port m).usable && (s.port m).replay.any fun g => decide (g.dest = f.dest) && decide (g.vc ≠ 2)

/-- Flits that wait on a port sent as far as the replay buffer has room (R322): numbered, and kept until acknowledged. -/
def State.pump (s : State) (n : Nat) : State :=
  let p := s.port n
  if p.usable then
    let (go, stay) := p.split (s.overtakes n)
    let out := go.zipIdx.map fun e => { e.1 with seq := p.seq + BitVec.ofNat 16 e.2, ackSeq := p.rxSeq }
    { s.setPort n { p with
        seq := p.seq + BitVec.ofNat 16 out.length, replay := p.replay ++ out, queue := stay, owed := p.owed - out.length } with
      sent := s.sent ++ out.map fun f => (n, f) }
  else s
def State.pumpAll (s : State) : State := (List.range 12).foldl State.pump s

/-- The bytes of a payload behind its address: a message of more is carried by several flits. -/
def payloadRoom : Nat := 232
def flitCount (len : Nat) : Nat := max 1 ((len + payloadRoom - 1) / payloadRoom)

/-- The flits of a message of `len` bytes received intact on a port (R322). -/
def State.received (s : State) (n len : Nat) : State :=
  s.setPort n { s.port n with rxSeq := (s.port n).rxSeq + BitVec.ofNat 16 (flitCount len), rxRefusals := 0 }

def flitsOf (dest : Option (Bool × Nat)) (kind vc uid addr : Nat) (bytes : List Byte) (route : List Nat) (fuel : Nat) : List Flit :=
  match fuel with
  | 0 => []
  | k + 1 =>
    ⟨dest, kind, vc, 0, 0, uid, addr, bytes.take payloadRoom, route⟩ ::
      (if payloadRoom < bytes.length then flitsOf dest kind vc uid (addr + payloadRoom) (bytes.drop payloadRoom) route k else [])

/-- A message sent on a port. `dest` is the module it is for, `route` the ports that reach it. -/
def State.sendOn (s : State) (n : Nat) (dest : Option (Bool × Nat)) (route : List Nat) (kind vc uid addr : Nat) (bytes : List Byte) :
    State :=
  let p := s.port n
  (s.setPort n { p with queue := p.queue ++ flitsOf dest kind vc uid addr bytes route (bytes.length / payloadRoom + 1) }).pump n

/-- A message sent to a module on its primary port (R323). -/
def State.sendTo (s : State) (xmod : Bool) (m kind vc uid addr : Nat) (bytes : List Byte) : State :=
  match s.primary xmod m with
  | some n => s.sendOn n (some (xmod, m)) (((s.peerOf xmod m).map (·.ports)).getD []) kind vc uid addr bytes
  | none => s

/-- One of a list; which one of several is free (log 10). -/
def State.oneOf {α : Type} (s : State) (l : List α) : Option α × State :=
  match l with
  | [] => (none, s)
  | [x] => (some x, s)
  | x :: rest => ((x :: rest)[(Config.freeValue s.fresh).toNat % (rest.length + 1)]?, { s with fresh := s.fresh + 1 })

/-- The modules that a port reaches, members and, unless `inside`, external ones: which of them a message comes from its flits do not say
(R323). -/
def State.modulesOn (s : State) (n : Nat) (inside : Bool) : List (Bool × Nat) :=
  let on := fun (x : Bool) (l : List Peer) => (l.filter fun p => p.ports.contains n).map fun p => (x, p.num)
  on false s.map.members ++ if inside then [] else on true s.map.externals

/-- An answer to what a port has brought, on the primary port of the module that asked (R323): a member, where the request was an atomic. -/
def State.replyTo (s : State) (n kind addr : Nat) (bytes : List Byte) : State :=
  match s.oneOf (s.modulesOn n (decide (kind = 5))) with
  | (some (x, m), t) => t.sendTo x m kind 1 0 addr bytes
  | (none, t) => t.sendOn n none [] kind 1 0 addr bytes

/-! ### Captured pages (R257) -/

/-- Bytes written from an offset on of a region of captured 2 MiB pages, past translation. -/
def Work.putRegion (w : Work) (pages : List Nat) (off : Nat) (bs : List Byte) (fuel : Nat) : Work :=
  match fuel, bs, pages[off / 2 ^ 21]? with
  | k + 1, b :: rest, some page =>
    let room := 2 ^ 21 - off % 2 ^ 21
    (w.put (.put .fm (page + off % 2 ^ 21) ((b :: rest).take room) 0 true)).putRegion pages (off + room) ((b :: rest).drop room) k
  | _, _, _ => w

/-- Bytes of a region cleared. -/
def Work.clearRegion (w : Work) (pages : List Nat) (off n fuel : Nat) : Work :=
  match fuel, pages[off / 2 ^ 21]? with
  | k + 1, some page =>
    let room := min n (2 ^ 21 - off % 2 ^ 21)
    if n = 0 then w else (w.put (.clear .fm (page + off % 2 ^ 21) room)).clearRegion pages (off + room) (n - room) k
  | _, _ => w

/-- Pieces written at their offsets from a start. -/
def Work.putPieces (w : Work) (pages : List Nat) (start : Nat) (l : List (Nat × List Byte)) : Work :=
  l.foldl (fun k e => k.putRegion pages (start + e.1) e.2 (e.2.length / 2 ^ 21 + 2)) w

/-! ### Scratchpad and its images (R195, R258, R260, R261) -/

/-- Whether the strand's context may reach a scratchpad byte (R258), the halves of a split core apart (R267, R268). -/
def State.spAllowed (s : State) (g : Place) (dev : Nat) : Bool :=
  let c := s.core (dev / 2 ^ 22)
  let high := decide (2 ^ 21 ≤ dev % 2 ^ 22)
  match c.halves with
  | some (inc, vic) => if high then decide (g.ctx = inc) else decide (g.ctx = vic)
  | none => decide (c.owner = some g.ctx)

/-- How many cores have an image: C of R260, since groups of a context may stand on any core (log 68); and where the records of pre-emption (0),
of seal half 0 (1) and of seal half 1 (2) begin. -/
def imageCount : Nat := 144
def partBytes (gmax : Nat) : Nat := gmax * 2 ^ 23 + imageCount * (4224 * 1024)
def Ctx.part (c : Ctx) (p : Nat) : Nat := 4096 + p * partBytes c.gmax

/-- The place of a core's image in the save area: its own, or the next one. -/
def Ctx.imagePlace (c : Ctx) (core : Nat) : Nat × List Nat :=
  match c.saveCores.findIdx? fun k => decide (k = core) with
  | some i => (i, c.saveCores)
  | none => (c.saveCores.length, c.saveCores ++ [core])

/-- Blocks of 4 KiB of a core's scratchpad as a bitmap, and their bytes at their offsets; the memory holds them from offset `lo` on. -/
def bitmap (blocks : List Nat) : List Byte := leBytes 128 (blocks.foldl (fun n b => setBits n b 1 1) 0)
def blockPieces (m : Mem) (base lo : Nat) (blocks : List Nat) : List (Nat × List Byte) :=
  blocks.map fun b => (128 * 1024 + b * 4096, Mem.readN m (base + b * 4096 - lo) 4096)

/-- A part of a core's image as it is written: its blocks, and the memory that holds them at `base` from offset `lo` on. -/
structure ImagePart where
  blocks : List Nat
  mem : Mem
  base : Nat
  lo : Nat
  deriving DecidableEq, Repr

/-- A core's image written into a part of the save area: one bitmap of the blocks of all its pieces, and the blocks of each. -/
def Work.writeImage (w : Work) (c : Ctx) (p core : Nat) (l : List ImagePart) : Work :=
  let (i, places) := ((w.st.ctx? c.num).getD c).imagePlace core
  (w.putPieces c.savePages (c.part p + c.gmax * 2 ^ 23 + i * (4224 * 1024))
    ((0, bitmap (l.flatMap (·.blocks))) :: l.flatMap fun e => blockPieces e.mem e.base e.lo e.blocks)).mod fun s =>
      s.mapCtx c.num fun x => { x with saveCores := places }

/-- The core of an image, and the offset in its scratchpad at which it begins. -/
def SpImage.core (e : SpImage) : Nat := e.key / 2
def SpImage.lower (e : SpImage) : Nat := e.key % 2 * 2 ^ 21

/-- The pieces of a core's image that a context has saved, those of its two halves: with all their blocks, or with those that `pick` takes. -/
def Ctx.imageParts (c : Ctx) (core : Nat) (pick : SpImage → List Nat) : List ImagePart :=
  (c.images.filter fun e => decide (e.core = core)).map fun e => ⟨pick e, e.mem, 0, e.lower⟩

/-- Bytes for a context within one 4 KiB block at a device scratchpad address: into its pre-emption image of that core where it holds the block,
else into the scratchpad that the context holds; scratchpad that another context holds is never written (R195, R258). -/
def Work.contextBlock (w : Work) (ctx dev : Nat) (bs : List Byte) : Work :=
  let core := dev / 2 ^ 22
  let off := dev % 2 ^ 22
  let images := ((w.st.ctx? ctx).map (·.images)).getD []
  let holds := fun (e : SpImage) => decide (e.core = core) && decide (e.lower ≤ off)
  match bestOffer (fun (a b : SpImage) => decide (b.lower < a.lower)) (images.filter holds), w.st.ctx? ctx with
  | some e, some c =>
    let new : SpImage :=
      { e with blocks := addBlock e.blocks (off / 4096), mem := Mem.write e.mem (off - e.lower) bs, dirty := addBlock e.dirty (off / 4096) }
    let x := { c with images := c.images.map fun k => if k.key = e.key then new else k }
    (w.mod fun s => s.mapCtx ctx fun _ => x).writeImage x 0 core (x.imageParts core SpImage.blocks)
  | _, _ => if w.st.spAllowed { ctx := ctx } dev then w.put (.put .sp dev bs 0 false) else w

/-- Such bytes, block by block. -/
def Work.contextBytes (w : Work) (ctx dev : Nat) (bs : List Byte) (fuel : Nat) : Work :=
  match fuel with
  | 0 => w
  | k + 1 =>
    let room := 4096 - dev % 4096
    if bs.isEmpty then w else (w.contextBlock ctx dev (bs.take room)).contextBytes ctx (dev + room) (bs.drop room) k

/-! ### Stores performed -/

/-- The lines that a range of bytes touches. -/
def linesOf (a n : Nat) : List Nat := (List.range ((a + n - 1) / 64 + 1 - a / 64)).map (· + a / 64)

/-- The lines of a memory that a write logs. -/
def Write.lines (t : Tgt) (w : Write) : List Nat :=
  match w with
  | .put t' a bs _ raw => if t' = t ∧ !raw ∧ !bs.isEmpty then linesOf a bs.length else []
  | .clear _ _ _ => []

/-- Whether the undo log of a memory has room for the writes of the step so far and for those of more lines (R330, R333). A line already
stamped in the interval needs no entry. -/
def Work.linesFit (w : Work) (heath : Bool) (more : List Nat) : Bool :=
  let cap := if heath then Config.undoCapH else Config.undoCapF
  let all := (w.ws.flatMap (Write.lines (if heath then .hm else .fm))) ++ more
  let used := (w.st.undo heath).length
  decide (used + all.length ≤ cap) ||
  decide (used + (all.eraseDups.filter fun l => decide ((w.st.line heath l).stamp ≠ w.st.stampNow)).length ≤ cap)

/-- Bytes in the outbound hold, and whether it takes more (R328: 256 MiB). -/
def State.holdBytes (s : State) : Nat := (s.hold.map fun h => h.bytes.length).foldl (· + ·) 0
def State.holdTakes (s : State) (n : Nat) : Bool := decide (s.holdBytes + n ≤ 2 ^ 28)

/-- Whether a store can be performed now: its lines' log, the hold or its link takes it. One to a module whose window has closed since is
performed as nothing: the link has discarded what was for that module (R324). -/
def Work.canPerform (w : Work) (st : Store) : Bool :=
  match st with
  | .mem (.put .fm a bs _ false) => w.linesFit false (linesOf a bs.length)
  | .mem (.put .hm a bs _ false) => w.linesFit true (linesOf a bs.length)
  | .mem _ => true
  | .ext _ _ bs => w.st.holdTakes bs.length
  | .remote m _ _ => (w.st.primary false m).isSome || !w.st.inTraining false m

/-- A remote write sent (R326): a flit with the number of the command or held store performed, or one of its own, which the strand keeps
until it is acknowledged. -/
def Work.sendStore (w : Work) (m a : Nat) (bs : List Byte) : Work :=
  let u := if w.src ≠ 0 then w.src else w.st.nextId
  (w.mod fun s => { s.sendTo false m 3 0 u a bs with nextId := if w.src ≠ 0 then s.nextId else u + 1 }).upd fun t =>
    { t with remotes := (t.remotes.filter fun e => w.st.pendingUid e.uid && decide (e ≠ ⟨u, w.cls, w.va⟩)) ++ [⟨u, w.cls, w.va⟩] }

/-- An external write of a context put into the outbound hold, for a strand or for the hub (R255). -/
def State.holdFor (s : State) (ctx gid sidx : Nat) (d : Dest) (a : Nat) (bs : List Byte) : State :=
  let p := match d with
    | .host => none
    | .external n => s.peerOf true n
  { s with hold := s.hold ++ [⟨s.rin.toNat, d, (p.map (·.far)).getD 0, (p.map (·.ports)).getD [], a, bs, ctx, gid, sidx⟩] }
def State.holdWrite (s : State) (d : Dest) (a : Nat) (bs : List Byte) : State :=
  s.holdFor s.strand.g.ctx s.strand.g.gid s.strand.sidx d a bs

/-- A write of the strand in front. One to scratchpad that its context no longer holds, as where lane reclaim has taken the half since the word
issued, goes into the context's image of it (R258, R267). -/
def Work.putOwn (w : Work) (wr : Write) : Work :=
  match wr with
  | .put .sp a bs _ false =>
    if w.st.spAllowed w.cur.g a && w.st.spAllowed w.cur.g (a + bs.length - 1) then w.put wr
    else w.contextBytes w.cur.g.ctx a bs (bs.length / 4096 + 2)
  | _ => w.put wr

/-- A store performed: written, put into the outbound hold, or sent over Jeore. -/
def Work.perform (w : Work) (st : Store) : Work :=
  match st with
  | .mem wr => w.putOwn wr
  | .ext d a bs => w.mod fun s => s.holdWrite d a bs
  | .remote m a bs => w.sendStore m a bs

/-- The strand's earlier commands and held stores, all of which an external write follows: once its interval has sealed, every earlier access
has been performed (R250, note 11). -/
def State.everyEarlier (s : State) : List Nat :=
  State.pendOf s.strand ++ ((s.cmds.filter fun c =>
    decide (c.gid = s.strand.g.gid) && decide (c.sidx = s.strand.sidx) && !c.landed).map (·.uid)) ++ s.heathOf s.strand

/-- What a store of a class that leaves the strand is performed after: the holds, the range checker's commands, the strand's held stores
of its class, or to the same bytes, its stores of that class on their way to another module, unless this one goes to a module too, and for an
external write all that is earlier (R120, R213, R216, R243, R250). -/
def State.storeBlockers (s : State) (c : Nat) (st : Store) : List Nat :=
  s.heldBy c true ++
  (match st.spRange with
   | some (a, b) => s.envBlockers none (some (a, b))
   | none => []) ++
  ((s.strand.pend.filter fun p => decide (p.cls = c) || p.stores.any st.meets).map (·.uid)) ++
  (match st with
   | .remote _ _ _ => []
   | .mem _ => s.farOf s.strand fun k => decide (k = c)
   | .ext _ _ _ => s.everyEarlier)

/-- A store that leaves the strand, from its strip store buffer where `drained` holds: performed, or held behind what it follows. -/
def Work.issueStore (w : Work) (drained : Bool) (cls : Nat) (va : Option Nat) (st : Store) : Work :=
  let c := st.classOf cls
  let blockers := w.st.storeBlockers c st
  if blockers.isEmpty && w.canPerform st then { ({ w with cls := c, va := va } : Work).perform st with cls := w.cls, va := w.va }
  else
    let u := w.st.nextId
    (w.mod fun s => { s with nextId := u + 1 }).upd fun s => { s with pend := s.pend ++ [⟨u, c, va, [st], blockers, drained⟩] }

/-- The strand is not ready; its convoy dispatches again when the wait is over (R44). -/
def Work.wait (w : Work) (k : Wait) : Work := w.upd fun s => { s with waiting := k }

/-- The lines of a memory that a store logs, and its bytes for the hold. -/
def Store.lines (heath : Bool) (st : Store) : List Nat :=
  match st with
  | .mem w => w.lines (if heath then .hm else .fm)
  | _ => []
def Store.held (st : Store) : Nat :=
  match st with
  | .ext _ _ bs => bs.length
  | _ => 0

/-- What keeps a store from issuing for want of room, where it is one of `all` that issue together (R280, R324, R328): a log without room for
their lines, a hold without room for their bytes, a port in training. -/
def Work.roomWait (w : Work) (all : List Store) (va : Option Nat) (st : Store) : Option Wait :=
  if w.canPerform st then none
  else
    match st with
    | .mem (.put t a _ _ _) =>
      let heath := decide (t = .hm)
      some (.log heath (va.getD a) (all.flatMap (Store.lines heath)).eraseDups)
    | .ext _ _ _ => some (.holdFull (all.map Store.held).sum)
    | .remote m _ _ => some (.link m)
    | _ => none

/-- The same for the stores of a list issued one after another. -/
def roomIn (all : List Store) (w : Work) (l : List (Option Nat × Store)) : Option Wait :=
  match l with
  | [] => none
  | (va, st) :: rest =>
    match w.roomWait all va st with
    | some k => some k
    | none => roomIn all (w.perform st) rest
def roomFor (w : Work) (l : List (Option Nat × Store)) : Option Wait := roomIn (l.map (·.2)) w l

/-- What keeps the strip store buffer of the strand from draining. -/
def Work.bufWait (w : Work) : Option Wait :=
  if w.cur.buf.isEmpty then none else roomFor w (w.cur.buf.map fun e => (e.va, e.st))

/-- What a held store of a strand, that nothing earlier holds any more, still waits for: room in a log or in the hold, or a port in training. The
strand is not ready, as at any store that stalls (R280, R324, R328). -/
def State.pendWait (s : State) (t : Strand) : Option Wait :=
  (t.pend.filter fun p => (s.stillPending p.cmds).isEmpty).findSome? fun p => roomFor s.work (p.stores.map fun st => (p.va, st))

/-- The strip store buffer drained in program order (R141); buffering ends. -/
def Work.drain (w : Work) : Work :=
  let held := w.cur.buf
  held.foldl (fun k e => k.issueStore true e.cls e.va e.st) (w.upd fun s => { s with buf := [], buffering := false })

/-- A step behind the draining of the strip store buffer: where its stores find no room in a log or in the hold, the strand waits with its
buffer as it stands, and nothing has issued (R280, R328). -/
def State.drained (s : State) (go : Work) : Work :=
  match s.work.bufWait with
  | some k => s.work.wait k
  | none => go

/-- The bytes that a strand's buffer holds. -/
def bufBytes (l : List BufStore) : Nat := (l.map fun e => e.st.len).foldl (· + ·) 0

/-- A store of the strand: held while buffering is open, else issued. A store that would take the held total above
16 KiB drains the buffer first (Table 7.3). -/
def Work.store (w : Work) (cls : Nat) (va : Option Nat) (st : Store) : Work :=
  if w.cur.buffering then
    if bufBytes w.cur.buf + st.len ≤ Config.stripBytes then w.upd fun s => { s with buf := s.buf ++ [⟨cls, va, st⟩] }
    else w.drain.issueStore false cls va st
  else w.issueStore false cls va st

/-- The held strip stores up to the last one whose address a test accepts performed in program order; buffering stays open (R317). -/
def Work.drainUpTo (w : Work) (p : Nat → Bool) : Work :=
  let hit := fun (e : BufStore) => (e.va.map p).getD false
  let keep := (w.cur.buf.reverse.takeWhile fun e => !hit e).reverse
  let out := w.cur.buf.take (w.cur.buf.length - keep.length)
  out.foldl (fun k e => k.issueStore true e.cls e.va e.st) (w.upd fun s => { s with buf := keep })

/-- Whether a strand waits on a full log or hold (R280, R328). -/
def Wait.stalls (k : Wait) : Bool :=
  match k with
  | .log _ _ _ => true
  | .holdFull _ => true
  | _ => false

/-- Whether a held store of a strand stalls on a full log or hold. -/
def State.pendStalls (s : State) (t : Strand) : Bool := ((s.pendWait t).map Wait.stalls).getD false

/-- The address of a store. -/
def Store.addr (st : Store) : Nat :=
  match st with
  | .mem (.put _ a _ _ _) => a
  | .mem (.clear _ a _) => a
  | .ext _ a _ => a
  | .remote _ a _ => a

/-- A stall of a held store ends as that is performed, and is traced (KIND 7, R280). -/
def Work.endPendStall (w : Work) (p : Pend) : Work :=
  if decide (w.cur.stalled = 0) || w.cur.waiting.stalls then w
  else
    (w.trace 7 (min (2 ^ 32 - 1) w.cur.stalled) (BitVec.ofNat 64 (p.va.getD ((p.stores.head?.map Store.addr).getD 0)))).upd fun t =>
      { t with stalled := 0 }

/-- Held stores of one strand whose commands are all performed, performed in order. -/
def settlePend (w : Work) (l : List Pend) : Work :=
  match l with
  | [] => w
  | p :: rest =>
    if (w.st.stillPending p.cmds).isEmpty && p.stores.all w.canPerform then
      let k := p.stores.foldl Work.perform
        { w.upd fun s => { s with pend := s.pend.filter fun q => decide (q.uid ≠ p.uid) } with src := p.uid, cls := p.cls, va := p.va }
      settlePend (({ k with src := w.src, cls := w.cls, va := w.va } : Work).endPendStall p) rest
    else settlePend w rest

/-- `settlePend` for the strand of each number. -/
def settleStrands (w : Work) (sids : List Nat) : Work :=
  match sids with
  | [] => w
  | i :: rest =>
    match w.st.focusStrand i with
    | none => settleStrands w rest
    | some s => settleStrands (settlePend { w with st := s } s.strand.pend) rest

/-- A step's work done for the strand of a number, which stands in front for it; nothing where there is none. -/
def Work.onStrand (w : Work) (sid : Nat) (f : Work → Work) : Work :=
  let back := w.cur.sid
  match w.st.focusStrand sid with
  | none => w
  | some s =>
    let k := f { w with st := s }
    match k.st.focusStrand back with
    | some s' => { k with st := s' }
    | none => k

/-- The same for a command of the strand: what it writes to another module is of the command. -/
def Work.onCmd (w : Work) (c : Cmd) (f : Work → Work) : Work :=
  let k := w.onStrand (c.gid * 4 + c.sidx) fun j => f { j with src := c.uid }
  { k with src := w.src }

/-- Held stores of every strand that may now be performed (R213, R216). -/
def Work.settle (w : Work) : Work :=
  let back := w.cur.sid
  let k := settleStrands w (w.st.strands.map Strand.sid)
  match k.st.focusStrand back with
  | some s => { k with st := s }
  | none => k

/-! ### Reading bytes -/

/-- Bytes of a destination of external writes as every agent of the module sees them: held writes over what stands there (R255). -/
def State.overHold (s : State) (d : Dest) (a : Nat) (base : List Byte) : List Byte :=
  s.hold.foldl (fun old h => if h.dest = d then overlay a old h.addr h.bytes else old) base

/-- `n` bytes of a memory as every agent sees them within the step: the memory, held external writes for the host's bytes
(R255), and the writes of the step so far. -/
def Work.bytes (w : Work) (t : Tgt) (a n : Nat) : List Byte :=
  let base := Mem.readN (w.st.memOf t) a n
  w.ws.foldl (overlayWrite t a) (if t = .host then w.st.overHold .host a base else base)

/-- The same as the issuing strand sees them: the stores that its strip store buffer holds, or held until it drained, count in program
order (R141). Its other held stores do not: they are performed for every agent at one moment (R244). -/
def Work.ownBytes (w : Work) (t : Tgt) (a n : Nat) : List Byte :=
  let seen := w.bytes t a n
  let stores := ((w.cur.pend.filter (·.drained)).flatMap (·.stores)) ++ w.cur.buf.map (·.st)
  stores.foldl (fun old st =>
    match st with
    | .mem wr => overlayWrite t a old wr
    | .ext .host b bs => if t = .host then overlay a old b bs else old
    | _ => old) seen

/-! ### Waiting and retiring -/

/-- Where the loop of the strand goes when a pass ends (R214): the next pass's counters, or none to leave. -/
def stepCounters (cnt c : List Nat) : Option (Nat × List Nat) :=
  match cnt, c with
  | n :: ns, k :: ks =>
    if n ≠ 0 ∧ k + 1 < n then some (0, (k + 1) :: ks)
    else
      match stepCounters ns ks with
      | some (d, r) => some (d + 1, 0 :: r)
      | none => none
  | _, _ => none

/-- The advance of the loop registers by the increment of the dimension that steps (R214). -/
def advanceRegs (s : Strand) (regs : List Nat) (inc : List (List Int)) (d : Nat) : Strand :=
  match regs, inc with
  | r :: rs, row :: rows =>
    let reg : Reg := BitVec.ofNat 5 r
    advanceRegs (s.wx reg (s.rx reg + BitVec.ofInt 64 (row.getD d 0))) rs rows d
  | _, _ => s

/-- The strand goes on at `target`: at the end of a loop pass, at the next pass or behind `lend` (R214). -/
def Strand.goTo (s : Strand) (target : W64) : Strand :=
  match s.loop with
  | none => { s with pc := target }
  | some l =>
    if l.suspended ∨ target ≠ l.stop then { s with pc := target }
    else
      match stepCounters l.cnt l.c with
      | none => { s with pc := l.stop + 4, loop := none }
      | some (d, c) => advanceRegs { s with pc := l.start, loop := some { l with c := c } } l.regs l.inc d

/-- A convoy retires and the strand goes on at `target`. -/
def Work.retireTo (w : Work) (target : W64) : Work :=
  w.upd fun s => { s.goTo target with waiting := .none, waitT := 0, cvret := s.cvret + 1, started := true }

/-- The strand with no step behind it: where a single-word convoy dispatches, which has no slab steps (R34, R91). -/
def Strand.noSteps (s : Strand) : Strand :=
  { s with vslab := 0, vstart := 0, carry := .none, done := Vector.replicate 4 0, snap := none }

/-- A single-word convoy retires (R91). -/
def Work.retire (w : Work) : Work := w.retireTo (w.cur.pc + 4)

/-! ### Exceptions -/

/-- A synchronous trap or a delivery: its cause code, subcode and `tval` (Table 5.25). -/
structure Trap where
  code : Nat
  sub : Nat
  tval : W64
  deriving DecidableEq, Repr

/-- The value of `cause` (Table 5.25). -/
def causeOf (async : Bool) (sub code : Nat) : BitVec 17 := BitVec.ofNat 17 (async.toNat * 2 ^ 16 + sub * 2 ^ 8 + code)

/-- The held strip stores of the strands that a test accepts performed, and buffering ended. -/
def Work.drainStrands (w : Work) (p : Strand → Bool) : Work :=
  ((w.st.strands.filter p).map Strand.sid).foldl (fun k sid => k.onStrand sid Work.drain) w

/-- A group ends fatally (R293): its strands stop with their held stores performed; the dump, the kernel's mark and the end
itself follow when its commands have completed (R294). A group already ending keeps its first cause. -/
def Work.fatal (w : Work) (code : Nat) (tval epc : W64) : Work :=
  let g := w.cur.g.gid
  let waits := (w.st.strands.filter fun t => decide (t.g.gid = g)).map fun t => (t.sidx, t.waiting)
  let f : Fatal := ⟨w.cur.sidx, code, epc, tval, w.cur.gcoord, waits⟩
  let k := w.drainStrands fun t => decide (t.g.gid = g)
  (k.mod fun s => s.mapGroup g fun e =>
      if e.fatal.isSome then e else { e with ending := true, failed := true, fatal := some f }).mod fun s =>
    s.mapStrands fun t => if t.g.gid = g then { t with ended := true, waiting := .none } else t

/-- Taking an exception (R127), with `epc` at the strand's convoy. The strip's buffering ends first (Table 7.3), a loop stands suspended
(R215), its block to be fetched again (R369), and where the convoy stands is saved: the handler's own convoys begin at their first steps (R39). -/
def Work.takeTrap (w : Work) (async : Bool) (t : Trap) : Work :=
  if w.cur.nest ∧ !async then w.fatal t.code t.tval w.cur.pc
  else
    let k := w.drain
    let s := k.cur
    let cause := causeOf async t.sub t.code
    let k1 := (k.trace 5 (cause.toNat + s.vslab.toNat % 2 ^ 15 * 2 ^ 17) s.pc).trace 6 s.vstart.toNat t.tval
    k1.upd fun s =>
      { s with
        epc := s.pc, cause := cause, tval := t.tval,
        status := statusOf true s.tie false s.priv true,
        pc := s.tvec &&& (BitVec.allOnes 64 - 63),
        tslab := s.vslab, tstart := s.vstart, tcarry := s.carry, tdone := s.done, carryAt := some s.pc,
        vslab := 0, vstart := 0, carry := .none, done := Vector.replicate 4 0, snap := none, waiting := .none, waitT := 0,
        loop := s.loop.map fun l => { l.unread with suspended := true } }

/-- A trap of a word that has no slab steps: `vslab` and `vstart` are those of a convoy boundary (R127). -/
def Work.trapWord (w : Work) (t : Trap) : Work :=
  (w.upd fun s => { s with vslab := 0, vstart := 0 }).takeTrap false t

/-- Illegal instruction with a subcode and `tval` (Table 5.19). -/
def Work.illegal (w : Work) (sub : Nat) (tval : W64) : Work := w.trapWord ⟨0x01, sub, tval⟩

/-- The return from an exception (R128): the status restored, the convoy at `epc` next, from the step that the trap saved or the handler
wrote. The carry and the done masks return only where `epc` still holds what the trap wrote; a loop goes on inside its block and is
abandoned outside. -/
def Work.returnFrom (w : Work) : Work :=
  w.upd fun s =>
    let same := decide (s.carryAt = some s.epc)
    { s with
      status := statusOf false (s.status.getLsbD 3) (s.status.getLsbD 3) (s.status.getLsbD 1) (s.status.getLsbD 1),
      pc := s.epc, waiting := .none, waitT := 0, cvret := s.cvret + 1,
      vslab := s.tslab, vstart := s.tstart,
      carry := if same then s.tcarry else .none,
      done := if same then s.tdone else Vector.replicate 4 0,
      tslab := 0, tstart := 0, tcarry := .none, tdone := Vector.replicate 4 0, carryAt := none,
      loop := match s.loop with
        | none => none
        | some l =>
          if !l.suspended then some l
          else if decide (l.start ≤ s.epc) && decide (s.epc < l.stop) then some { l with suspended := false }
          else none }

end Sys2Proof.Machine
end

