-- ==== Sys2Proof/Machine/Translate.lean ====
section
/-! DEFINITION. Pages, regions and the checks of an access (spec/16 R304 to R309; spec/06 R117, R118, R397; spec/07 R161;
spec/09 R197, R198, R220; spec/01 R8; spec/11 R258). -/

namespace Sys2Proof.Machine

/-! ### Entries (Table 16.2) -/

def leafV (e : W64) : Bool := e.getLsbD 0
def leafLEAF (e : W64) : Bool := e.getLsbD 1
def leafRD (e : W64) : Bool := e.getLsbD 2
def leafWR (e : W64) : Bool := e.getLsbD 3
def leafEX (e : W64) : Bool := e.getLsbD 4
def leafCRIT (e : W64) : Bool := e.getLsbD 5
def leafDSTAB (e : W64) : Bool := e.getLsbD 6
def leafREGION (e : W64) : Nat := bitsAt e.toNat 7 3
def leafXMOD (e : W64) : Bool := e.getLsbD 15
def leafADDR (e : W64) : Nat := bitsAt e.toNat 16 40
def leafMODULE (e : W64) : Nat := bitsAt e.toNat 56 8

/-- The undo log's regions, which no leaf names (R332): the top 12 GiB of field memory (DESIGN CHOICE, log 78), and the highest rows of each Heath
bank, 64 GiB in all. -/
def fieldLog : Nat := 372 * 2 ^ 30
def logRows : Nat := 63488
def inLog (region addr : Nat) : Bool :=
  match region with
  | 0 => decide (fieldLog ≤ addr)
  | 1 => decide (logRows ≤ bitsAt addr 21 16)
  | _ => false

/-- A leaf entry from its fields. -/
def leafOf (p : MapParams) (addr : Nat) : W64 :=
  BitVec.ofNat 64 (p.module % 256 * 2 ^ 56 + addr / 2 ^ 16 % 2 ^ 40 * 2 ^ 16 + p.xmod.toNat * 2 ^ 15 + p.region % 8 * 2 ^ 7 +
    p.dstab.toNat * 64 + p.crit.toNat * 32 + p.ex.toNat * 16 + p.wr.toNat * 8 + p.rd.toNat * 4 + 3)

/-- Whether an entry at a level is malformed (R305). DEDUCED (log 70): a field that Table 16.2 gives as zero counts as a reserved bit does. -/
def malformed (level : Nat) (e : W64) : Bool :=
  let n := e.toNat
  if leafLEAF e then
    decide (level ≤ 1) || decide (bitsAt n 10 5 ≠ 0) || decide (4 ≤ leafREGION e) ||
    (decide (level = 2) && decide (bitsAt n 16 5 ≠ 0)) ||
    (decide (level = 3) && decide (leafREGION e = 1)) ||
    (decide (leafREGION e ≠ 3) && (decide (leafMODULE e ≠ 0) || leafXMOD e))
  else
    decide (level = 3) || decide (bitsAt n 2 14 ≠ 0) || (decide (level ≤ 1) && decide (bitsAt n 16 4 ≠ 0))

/-- The value of a critical leaf that a walk reads two or three times (R309): the one that two of the reads agree on. -/
def voted (a b c : W64) : Option W64 := if a = b then some a else if a = c ∨ b = c then some c else none

/-- The lowest virtual address bit of the index of a level (R305). -/
def levelShift (level : Nat) : Nat :=
  match level with
  | 0 => 39
  | 1 => 30
  | 2 => 21
  | _ => 16

/-- The table that a non-leaf entry names. -/
def nextTable (e : W64) : Nat := bitsAt e.toNat 16 48 * 256

/-- One level of a walk: the entry that a walk cache holds of the level, else the one at a table address, and below it. A read that an error
spoils is an event (log 47). -/
def walkFrom (s : State) (held : Nat → Option W64) (va : Nat) (level : Nat) (table : Nat) (fuel : Nat) : Option (W64 × Bool) :=
  match fuel with
  | 0 => none
  | k + 1 =>
    let again : W64 := BitVec.ofNat 64
      (leNat (Mem.readN s.fm (table + 8 * bitsAt va (levelShift level) (if level = 3 then 5 else 9)) 8))
    let e := (held level).getD again
    if !leafV e || malformed level e then none
    else if leafLEAF e then (if leafCRIT e then voted e again again else some e).map fun v => (v, decide (level = 2))
    else walkFrom s held va (level + 1) (nextTable e) k

/-- A walk that finds nothing in a walk cache. -/
def noCache (_ : Nat) : Option W64 := none

/-- Whether an old entry translated an address of a context. -/
def WalkEnt.covers (e : WalkEnt) (ctx va : Nat) : Bool := decide (e.ctx = ctx) && decide (va / 2 ^ levelShift e.level = e.page)

/-- The entry that a meadow's walk cache still holds of a level on the path of an address, from before an edit (R308, R316). -/
def State.walkCache (s : State) (meadow ctx va level : Nat) : Option W64 :=
  (s.walks.find? fun e =>
    e.covers ctx va && decide (e.level = level) && !e.lost.contains meadow && Config.cachesEntry e.serial meadow).map (·.entry)

/-- A walk of the hub, or for a core by its meadow's translation unit (R305, R308). -/
def State.walk (s : State) (core ctx va : Nat) : Option (W64 × Bool) :=
  match s.ctx? ctx with
  | none => none
  | some c => walkFrom s (if core < 144 then s.walkCache (core / 24) ctx va else noCache) va 0 c.root 4

/-- The leaf that translates an address of a context on a core, and whether its page is 2 MiB: what the core's cache holds (R308), else what a
walk from the context's root finds (R305). The hub, number 144, has no cache. -/
def State.leafFor (s : State) (core ctx va : Nat) : Option (W64 × Bool) :=
  match s.tlb.find? fun t =>
      decide (t.core = core) && decide (t.ctx = ctx) &&
      decide (t.page = if t.big then va / 2 ^ 21 else va / 2 ^ 16) with
  | some t => some (t.leaf, t.big)
  | none => s.walk core ctx va

/-- The physical address of a virtual one under a leaf. -/
def physOf (leaf : W64) (big : Bool) (va : Nat) : Nat :=
  if big then leafADDR leaf / 32 * 2 ^ 21 + va % 2 ^ 21 else leafADDR leaf * 2 ^ 16 + va % 2 ^ 16

/-! ### Accesses -/

/-- The kinds of access that the region tables distinguish (Tables 6.10 and 9.1, R220, R307, R397). -/
inductive Acc where
  | fetch | read | write | atomic | copyRead | copyWrite | query
  deriving DecidableEq, Repr

/-- Where an access goes. -/
inductive Site where
  | mem (t : Tgt) (pa : Nat)
  | ext (d : Dest) (pa : Nat)
  | remote (m pa : Nat)
  | extRead (n pa : Nat)
  deriving DecidableEq, Repr

/-- The subcode of a page fault (R307). -/
def pageSub (a : Acc) : Nat :=
  match a with
  | .fetch => 0
  | .read => 1
  | .query => 1
  | .write => 2
  | .atomic => 2
  | .copyRead => 3
  | .copyWrite => 3

/-- The permissions that an access needs (R307). -/
def permits (a : Acc) (leaf : W64) : Bool :=
  match a with
  | .fetch => leafEX leaf
  | .read => leafRD leaf
  | .query => leafRD leaf
  | .copyRead => leafRD leaf
  | .write => leafWR leaf
  | .copyWrite => leafWR leaf
  | .atomic => leafRD leaf && leafWR leaf

def Acc.isRead (a : Acc) : Bool :=
  match a with
  | .read => true
  | .copyRead => true
  | _ => false
def Acc.isWrite (a : Acc) : Bool :=
  match a with
  | .write => true
  | .copyWrite => true
  | _ => false

/-- What a region answers (Tables 6.10 and 9.1, R220, R397): a place, or an access-fault subcode. -/
def regionFor (s : State) (a : Acc) (leaf : W64) (pa : Nat) : Except Nat Site :=
  match leafREGION leaf with
  | 0 => if a = .query then .error 0 else .ok (.mem .fm pa)
  | 1 => if a.isWrite ∨ a = .query then .ok (.mem .hm pa) else .error 1
  | 2 =>
    if a = .query then .error 0
    else if !s.hostUp then .error 3
    else if a.isWrite then .ok (.ext .host pa)
    else if a.isRead ∧ leafDSTAB leaf then .ok (.mem .host pa)
    else .error 0
  | _ =>
    let m := leafMODULE leaf
    if a = .query then .error 0
    else if (s.primary (leafXMOD leaf) m).isNone ∧ !s.inTraining (leafXMOD leaf) m then .error 3
    else if leafXMOD leaf then
      if a.isWrite then .ok (.ext (.external m) pa)
      else if a = .copyRead ∧ leafDSTAB leaf then .ok (.extRead m pa)
      else .error 0
    else
      match a with
      | .write => .ok (.remote m pa)
      | .copyWrite => .ok (.remote m pa)
      | .atomic => .ok (.remote m pa)
      | .copyRead => .ok (.remote m pa)
      | _ => .error 0

/-- The translation of an access (R307): its place, or the trap it takes, `tval` the address. An evicted page (R315) is not
mapped: page fault. -/
def State.access (s : State) (core ctx : Nat) (va : W64) (a : Acc) : Except Trap Site :=
  match s.leafFor core ctx va.toNat with
  | none => .error ⟨3, pageSub a, va⟩
  | some (leaf, big) =>
    if s.pages.any (fun q => decide (q.ctx = ctx) && decide (q.page = va.toNat / 2 ^ 21) && q.evicted.isSome) then
      .error ⟨3, pageSub a, va⟩
    else if !permits a leaf then .error ⟨4, 0, va⟩
    else
      match regionFor s a leaf (physOf leaf big va.toNat) with
      | .error sub => .error ⟨4, sub, va⟩
      | .ok p => .ok p

/-- Sizes of the memories (Table 1.1): 384 GiB and 2 TiB. -/
def Site.exists? (p : Site) : Bool :=
  match p with
  | .mem .fm pa => decide (pa < 384 * 2 ^ 30)
  | .mem .hm pa => decide (pa < 2 ^ 41)
  | _ => true

/-- The place marked absent where no memory has it. -/
def Work.note (w : Work) (p : Site) : Work := { w with absent := w.absent || !p.exists? }

/-- The checks 1, 2 and 4 of R117 on a virtual address: alignment, canonical form, translation. -/
def State.checkVirtual (s : State) (core ctx : Nat) (va : W64) (size : Nat) (a : Acc) : Except Trap Site :=
  if va.toNat % size ≠ 0 then .error ⟨2, 0, va⟩
  else if bitsAt va.toNat 48 16 ≠ 0 then .error ⟨4, 0, va⟩
  else s.access core ctx va a

/-! ### Scratchpad -/

/-- The device scratchpad address of a meadow address of a meadow (R7): core × 4 MiB + offset. -/
def spOf (meadow addr : Nat) : Nat := meadow * (24 * 2 ^ 22) + addr

/-- The checks of a meadow address (R8, R117 check 3, R258) for `n` bytes: its device scratchpad address. -/
def State.meadow (s : State) (g : Place) (va : W64) (n : Nat) : Except Trap Nat :=
  let a := va.toNat
  if bitsAt a 27 37 ≠ 0 ∨ 24 ≤ bitsAt a 22 5 then .error ⟨4, 2, va⟩
  else if 24 * 2 ^ 22 < a + n then .error ⟨4, 2, BitVec.ofNat 64 (24 * 2 ^ 22)⟩
  else
    let dev := spOf (g.core / 24) a
    if s.spAllowed g dev && s.spAllowed g (dev + n - 1) then .ok dev else .error ⟨4, 0, va⟩

/-- Bank of a device scratchpad address (R167). -/
def bankOf (dev : Nat) : Nat := bitsAt dev 7 5

/-- Whether a bank that the bytes lie in is waking (R121). -/
def State.bankAsleep (s : State) (dev : Nat) : Bool := (s.core (dev / 2 ^ 22)).banksOff.getLsbD (bankOf dev)

/-- The first byte of a scratchpad range that lies in a waking bank. -/
def State.sleeperIn (s : State) (dev n : Nat) : Option Nat :=
  ((List.range (n / 128 + 2)).map fun j => min (dev + 128 * j) (dev + n - 1)).find? fun a => s.bankAsleep a

/-! ### Reads and stores at a place -/

/-- The bytes that a strand reads at a place. -/
def Work.readSite (w : Work) (p : Site) (n : Nat) : List Byte :=
  match p with
  | .mem t pa => w.ownBytes t pa n
  | _ => List.replicate n 0

/-- Whether a read meets a poisoned line (R119, R344). -/
def State.poisoned (s : State) (p : Site) : Bool :=
  match p with
  | .mem .fm pa => (s.line false (pa / 64)).poison
  | .mem .hm pa => (s.line true (pa / 64)).poison
  | _ => false

/-- The store that bytes at a place make, with the owner tag of the strand's context. -/
def Work.storeAt (w : Work) (p : Site) (bytes : List Byte) : Store :=
  match p with
  | .mem t pa => .mem (.put t pa bytes (w.st.ownerTag w.cur.g.ctx) false)
  | .ext d pa => .ext d pa bytes
  | .remote m pa => .remote m pa bytes
  | .extRead n pa => .ext (.external n) pa bytes

/-- Whether the Heath stack of a physical address has started (R359, R389). -/
def State.stackUp (s : State) (pa : Nat) : Bool := s.mgmt.stacksOn.getLsbD (bitsAt pa 37 4)

/-- What keeps a store of `n` bytes from issuing (R280, R312, R324, R328, R359): a log without room for its lines, a hold without room for
its bytes, a migrating page, a stack still to start, a port in training. -/
def Work.storeWait (w : Work) (ctx : Nat) (va : Nat) (p : Site) (n : Nat) : Option Wait :=
  match p with
  | .mem .fm pa => if w.linesFit false (linesOf pa n) then none else some (.log false va (linesOf pa n))
  | .mem .hm pa =>
    if w.st.pages.any (fun q => decide (q.ctx = ctx) && decide (q.page = va / 2 ^ 21) && q.migrating) then
      some (.migrating (va / 2 ^ 21))
    else if !w.st.stackUp pa then some (.stack (bitsAt pa 37 4))
    else if w.linesFit true (linesOf pa n) then none else some (.log true va (linesOf pa n))
  | .ext _ _ => if w.st.holdTakes n then none else some (.holdFull n)
  | .remote m _ => if (w.st.primary false m).isNone then some (.link m) else none
  | _ => none

end Sys2Proof.Machine
end

