-- ==== Sys2Proof/Machine/Operands.lean ====
section
/-! DEFINITION. Operands: elements of vector registers, masks, tiles, scratchpad pairs, and the accesses of a strand with
their checks, waits and poison (spec/02 R24; spec/05 R89, R90; spec/06 R117 to R121; spec/07 R135, R136, R161; spec/08 R168;
spec/09 R225). -/

namespace Sys2Proof.Machine

/-! ### Elements (R24, R135) -/

/-- The register and the bit where element i of width w of the operand at field m lies. -/
def elementAt (wg : List Nat) (m w i : Nat) : Nat × Nat :=
  let e := 512 * wg.length / w
  let row := i / e
  let j := i % e
  let lane := wg.getD (j % wg.length) 0
  ((m + row / 4) % 32, row % 4 * 8192 + lane * 512 + j / wg.length * w)

/-- The code of element i. -/
def elementIn (v : Vector VReg 32) (wg : List Nat) (m w i : Nat) : Nat :=
  let (r, bit) := elementAt wg m w i
  bitsAt ((v.getD r 0).toNat) bit w

def Strand.elt (s : Strand) (m : Reg) (w i : Nat) : Nat := elementIn s.v s.wg m.toNat w i

/-- Element i replaced. -/
def Strand.setElt (s : Strand) (m : Reg) (w i x : Nat) : Strand :=
  let (r, bit) := elementAt s.wg m.toNat w i
  if h : r < 32 then { s with v := s.v.set r (BitVec.ofNat 32768 (setBits (s.v[r]).toNat bit w x)) h } else s

/-- Bit i of a mask replaced (R149). -/
def setMaskBit (k : VReg) (i : Nat) (b : Bool) : VReg := BitVec.ofNat 32768 (setBits k.toNat i 1 b.toNat)

/-- The numbers lo to hi − 1. -/
def fromTo (lo hi : Nat) : List Nat := (List.range (hi - lo)).map (· + lo)

/-! ### Tiles (R22, R168) -/

/-- The physical tile that a group's tile number names. -/
def Place.phys (g : Place) (t : Nat) : Nat := g.tiles.getD t 0
def State.tile (s : State) (g : Place) (t : Nat) : TileReg := (s.core g.core).tiles.getD (g.phys t) 0
def State.setTile (s : State) (g : Place) (t : Nat) (v : TileReg) : State :=
  let c := s.core g.core
  if h : g.phys t < 4 then s.setCore { c with tiles := c.tiles.set (g.phys t) v h } else s

/-- Word (i, j) of a T × T tile, kept row by row at a pitch of 128 words. -/
def tileWord (t : TileReg) (i j : Nat) : Nat := bitsAt t.toNat ((i * 128 + j) * 32) 32

/-- The value of a list of words, the first lowest. -/
def packWords (l : List Nat) : Nat :=
  match l with
  | [] => 0
  | w :: rest => w % 2 ^ 32 + 2 ^ 32 * packWords rest

/-- A tile from a function of its words. -/
def tileFrom (n : Nat) (f : Nat → Nat → Nat) : TileReg :=
  BitVec.ofNat 524288 (packWords ((List.range n).flatMap fun i =>
    (List.range 128).map fun j => if j < n then f i j else 0))

/-! ### What stops an access -/

/-- An access traps, or waits. -/
inductive Stop where
  | trap (t : Trap)
  | wait (k : Wait)
  deriving DecidableEq, Repr

/-- Checks 7 to 9 of a strand's hold state before a read of a class (R216): what it waits for. -/
def Work.loadGate (w : Work) (cls : Nat) : Except Stop Unit :=
  let b := w.st.loadBlockers cls
  if b.isEmpty then .ok () else .error (.wait (.cmds b))

/-- A strand's read of `size` bytes at a virtual address (R117 to R119, R161). -/
def Work.loadVirtual (w : Work) (cls : Nat) (va : W64) (size : Nat) : Except Stop (Nat × Work) :=
  match w.st.checkVirtual w.cur.g.core w.cur.g.ctx va size .read with
  | .error t => .error (.trap t)
  | .ok p =>
    match w.loadGate cls with
    | .error e => .error e
    | .ok _ =>
      if w.st.poisoned p then .error (.trap ⟨6, 0, va⟩)
      else .ok (leNat (w.readSite p size), w.note p)

/-- A strand's store of `size` bytes at a virtual address. -/
def Work.storeVirtual (w : Work) (cls : Nat) (va : W64) (size v : Nat) : Except Stop Work :=
  match w.st.checkVirtual w.cur.g.core w.cur.g.ctx va size .write with
  | .error t => .error (.trap t)
  | .ok p =>
    match w.storeWait w.cur.g.ctx va.toNat p size with
    | some k => .error (.wait k)
    | none => .ok ((w.note p).store cls (some va.toNat) (w.storeAt p (leBytes size v)))

/-- The checks of a scratchpad access of `size` bytes (R117 check 3, R8, R258, R121). -/
def Work.spCheck (w : Work) (va : W64) (size : Nat) : Except Stop Nat :=
  if va.toNat % size ≠ 0 then .error (.trap ⟨2, 0, va⟩)
  else
    match w.st.meadow w.cur.g va size with
    | .error t => .error (.trap t)
    | .ok dev =>
      if w.st.bankAsleep dev then .error (.wait (.bank (dev / 2 ^ 22) (bankOf dev))) else .ok dev

/-- What a class-6 read of scratchpad bytes waits for besides (R251 note 4): nothing in the other classes. -/
def Work.readGate (w : Work) (cls dev size : Nat) : Except Stop Unit :=
  let b := if cls = 6 then w.st.readBlockers dev (dev + size) else []
  if b.isEmpty then .ok () else .error (.wait (.cmds b))

/-- A strand's read of scratchpad. -/
def Work.loadSp (w : Work) (cls : Nat) (va : W64) (size : Nat) : Except Stop Nat :=
  match w.spCheck va size with
  | .error e => .error e
  | .ok dev =>
    match w.loadGate cls with
    | .error e => .error e
    | .ok _ =>
      match w.readGate cls dev size with
      | .error e => .error e
      | .ok _ => .ok (leNat (w.ownBytes .sp dev size))

/-- A strand's store to scratchpad. -/
def Work.storeSp (w : Work) (cls : Nat) (va : W64) (size v : Nat) : Except Stop Work :=
  match w.spCheck va size with
  | .error e => .error e
  | .ok dev => .ok (w.store cls none (.mem (.put .sp dev (leBytes size v) 0 false)))

/-- A strand stopped: it takes the trap of a word without slab steps, or waits. -/
def Work.stopWord (w : Work) (e : Stop) : Work :=
  match e with
  | .trap t => w.trapWord t
  | .wait k => w.wait k

/-! ### Pairs (R90, R166, R167) -/

/-- A scratchpad pair as its fields: base, row pitch, tile pitch, rotation code and the rest of the second register. -/
structure Pair where
  base : Nat
  rowPitch : Nat
  tilePitch : Nat
  rot : Nat
  spare : Nat
  second : W64
  deriving DecidableEq, Repr

def Strand.pair (s : Strand) (a : Reg) : Pair :=
  let p := (s.rx a).toNat
  let q := s.rx (a + 1)
  ⟨bitsAt p 0 32, bitsAt p 32 32, bitsAt q.toNat 32 32, bitsAt q.toNat 0 4, bitsAt q.toNat 4 28, q⟩

/-- The faults of a pair (R166): bits above 26 of the base, the spare bits and the rotation code. -/
def Pair.check (p : Pair) : Option Trap :=
  if p.base / 2 ^ 27 ≠ 0 then some ⟨4, 2, BitVec.ofNat 64 p.base⟩
  else if p.spare ≠ 0 ∨ 8 ≤ p.rot then some ⟨4, 0, p.second⟩
  else none

end Sys2Proof.Machine
end

