-- ==== Sys2Proof/Machine/ScalarInt.lean ====
section
/-! DEFINITION. Scalar integer words: register-register, immediate, shifts, `lhi` and `lpc` (spec/06 R106 to R113). -/

namespace Sys2Proof.Machine

/-- x(d) ← a value, and the word retires (R106, R91). -/
def Work.result (w : Work) (d : Reg) (v : W64) : Work := (w.wx d v).retire

/-- A word on two registers. -/
def binary (f : W64 → W64 → W64) (d a b : Reg) (s : State) : Host.Outcome State Fault Refusal :=
  s.finish (s.work.result d (f (s.strand.rx a) (s.strand.rx b)))

/-- A word on one register. -/
def unary (f : W64 → W64) (d a : Reg) (s : State) : Host.Outcome State Fault Refusal :=
  s.finish (s.work.result d (f (s.strand.rx a)))

/-- A word on a register and a 64-bit immediate. -/
def immediate (f : W64 → W64 → W64) (d a : Reg) (imm : W64) (s : State) : Host.Outcome State Fault Refusal :=
  s.finish (s.work.result d (f (s.strand.rx a) imm))

/-! ### The functions of Table 6.2 -/

/-- The shift amount, B bits 5:0. -/
def shiftOf (b : W64) : Nat := b.toNat % 64
def opSll (a b : W64) : W64 := a <<< shiftOf b
def opSrl (a b : W64) : W64 := a >>> shiftOf b
def opSra (a b : W64) : W64 := a.sshiftRight (shiftOf b)
def boolWord (c : Bool) : W64 := if c then 1 else 0
def opSlt (a b : W64) : W64 := boolWord (decide (a.toInt < b.toInt))
def opSltu (a b : W64) : W64 := boolWord (decide (a.toNat < b.toNat))
def opMulh (a b : W64) : W64 := BitVec.ofInt 64 (a.toInt * b.toInt / (2 ^ 64 : Nat))
def opMulhu (a b : W64) : W64 := BitVec.ofNat 64 (a.toNat * b.toNat / 2 ^ 64)

/-- Quotients truncated towards zero, with the borderline results of Table 6.3. -/
def opDiv (a b : W64) : W64 := if b = 0 then BitVec.allOnes 64 else BitVec.ofInt 64 (Int.tdiv a.toInt b.toInt)
def opDivu (a b : W64) : W64 := if b = 0 then BitVec.allOnes 64 else BitVec.ofNat 64 (a.toNat / b.toNat)
def opRem (a b : W64) : W64 := if b = 0 then a else BitVec.ofInt 64 (Int.tmod a.toInt b.toInt)
def opRemu (a b : W64) : W64 := if b = 0 then a else BitVec.ofNat 64 (a.toNat % b.toNat)
def opMin (a b : W64) : W64 := if a.toInt < b.toInt then a else b
def opMax (a b : W64) : W64 := if a.toInt < b.toInt then b else a
def opMinu (a b : W64) : W64 := if a.toNat < b.toNat then a else b
def opMaxu (a b : W64) : W64 := if a.toNat < b.toNat then b else a
def opClz (a : W64) : W64 := BitVec.ofNat 64 (64 - bitLen a.toNat)
def opCtz (a : W64) : W64 := BitVec.ofNat 64 (trailingZeros 64 a.toNat)
def opPopc (a : W64) : W64 := BitVec.ofNat 64 (countOnes 64 a.toNat)
def opZext (n : Nat) (a : W64) : W64 := (a.setWidth n).setWidth 64
def opSext (n : Nat) (a : W64) : W64 := (a.setWidth n).signExtend 64

/-! ### Major 0x01 -/

def execAdd (d a b : Reg) (s : State) := binary (· + ·) d a b s
def execSub (d a b : Reg) (s : State) := binary (· - ·) d a b s
def execAnd (d a b : Reg) (s : State) := binary (· &&& ·) d a b s
def execOr (d a b : Reg) (s : State) := binary (· ||| ·) d a b s
def execXor (d a b : Reg) (s : State) := binary (· ^^^ ·) d a b s
def execSll (d a b : Reg) (s : State) := binary opSll d a b s
def execSrl (d a b : Reg) (s : State) := binary opSrl d a b s
def execSra (d a b : Reg) (s : State) := binary opSra d a b s
def execSlt (d a b : Reg) (s : State) := binary opSlt d a b s
def execSltu (d a b : Reg) (s : State) := binary opSltu d a b s
def execMul (d a b : Reg) (s : State) := binary (· * ·) d a b s
def execMulh (d a b : Reg) (s : State) := binary opMulh d a b s
def execMulhu (d a b : Reg) (s : State) := binary opMulhu d a b s
def execDiv (d a b : Reg) (s : State) := binary opDiv d a b s
def execDivu (d a b : Reg) (s : State) := binary opDivu d a b s
def execRem (d a b : Reg) (s : State) := binary opRem d a b s
def execRemu (d a b : Reg) (s : State) := binary opRemu d a b s
def execMin (d a b : Reg) (s : State) := binary opMin d a b s
def execMax (d a b : Reg) (s : State) := binary opMax d a b s
def execMinu (d a b : Reg) (s : State) := binary opMinu d a b s
def execMaxu (d a b : Reg) (s : State) := binary opMaxu d a b s
def execClz (d a : Reg) (s : State) := unary opClz d a s
def execCtz (d a : Reg) (s : State) := unary opCtz d a s
def execPopc (d a : Reg) (s : State) := unary opPopc d a s
def execZextb (d a : Reg) (s : State) := unary (opZext 8) d a s
def execZexth (d a : Reg) (s : State) := unary (opZext 16) d a s
def execZextw (d a : Reg) (s : State) := unary (opZext 32) d a s
def execSextb (d a : Reg) (s : State) := unary (opSext 8) d a s
def execSexth (d a : Reg) (s : State) := unary (opSext 16) d a s
def execSextw (d a : Reg) (s : State) := unary (opSext 32) d a s

/-! ### Majors 0x02 to 0x0A -/

def execAddi (d a : Reg) (imm : BitVec 15) (s : State) := immediate (· + ·) d a (sext imm) s
def execAndi (d a : Reg) (imm : BitVec 15) (s : State) := immediate (· &&& ·) d a (sext imm) s
def execOri (d a : Reg) (imm : BitVec 15) (s : State) := immediate (· ||| ·) d a (sext imm) s
def execXori (d a : Reg) (imm : BitVec 15) (s : State) := immediate (· ^^^ ·) d a (sext imm) s
def execSlti (d a : Reg) (imm : BitVec 15) (s : State) := immediate opSlt d a (sext imm) s
def execSltiu (d a : Reg) (imm : BitVec 15) (s : State) := immediate opSltu d a (sext imm) s
def execSlli (d a : Reg) (sh : BitVec 6) (s : State) := immediate opSll d a (zext sh) s
def execSrli (d a : Reg) (sh : BitVec 6) (s : State) := immediate opSrl d a (zext sh) s
def execSrai (d a : Reg) (sh : BitVec 6) (s : State) := immediate opSra d a (zext sh) s

/-- sext(imm20) × 4,096 (R88). -/
def pageImm (imm : BitVec 20) : W64 := sext imm * 4096
def execLhi (d : Reg) (imm : BitVec 20) (s : State) := s.finish (s.work.result d (pageImm imm))
def execLpc (d : Reg) (imm : BitVec 20) (s : State) := s.finish (s.work.result d (s.strand.pc + pageImm imm))

end Sys2Proof.Machine
end

