-- ==== Sys2Proof/Machine/ScalarFloat.lean ====
section
/-! DEFINITION. Scalar FP32 words (spec/06 R114 to R116). -/

namespace Sys2Proof.Machine

/-- A scalar FP32 operand: bits 31:0 of its register (R114). -/
def fpCode (x : W64) : Nat := x.toNat % 2 ^ 32
def fpVal (x : W64) : Val := decodeFloat descFP32 (fpCode x)

/-- An FP32 result with its flags: written with bits 63:32 zero; the flags commit when the word retires (R107, R114). -/
def Work.fpResult (w : Work) (d : Reg) (r : Nat × Flags) : Work :=
  (w.upd fun s => s.raise r.2).result d (BitVec.ofNat 64 r.1)

/-- A word on two FP32 operands. -/
def fpBinary (f : Val → Val → Nat × Flags) (d a b : Reg) (s : State) : Host.Outcome State Fault Refusal :=
  s.finish (s.work.fpResult d (f (fpVal (s.strand.rx a)) (fpVal (s.strand.rx b))))

/-- A quotient rounded once; a nonzero over zero raises DZ alone (R51). -/
def divInto (a b : Val) (d : Desc) (rm : Rm) (sat : Bool) : Nat × Flags :=
  match Val.div a b with
  | some r => roundOp r d rm sat
  | none => divZeroCode (a.neg? != b.neg?) d rm sat

def execFadd (d a b : Reg) (rm : BitVec 2) (s : State) :=
  fpBinary (fun x y => roundOp (Val.add rm.toNat x y) descFP32 rm.toNat false) d a b s
def execFsub (d a b : Reg) (rm : BitVec 2) (s : State) :=
  fpBinary (fun x y => roundOp (Val.add rm.toNat x y.negate) descFP32 rm.toNat false) d a b s
def execFmul (d a b : Reg) (rm : BitVec 2) (s : State) :=
  fpBinary (fun x y => roundOp (Val.mul x y) descFP32 rm.toNat false) d a b s
def execFdiv (d a b : Reg) (rm : BitVec 2) (s : State) :=
  fpBinary (fun x y => divInto x y descFP32 rm.toNat false) d a b s
def execFsqrt (d a : Reg) (rm : BitVec 2) (s : State) :=
  s.finish (s.work.fpResult d (roundOp (Val.sqrt (fpVal (s.strand.rx a))) descFP32 rm.toNat false))
def execFmin (d a b : Reg) (s : State) := fpBinary (fun x y => toFP32 (Val.minmax false x y)) d a b s
def execFmax (d a b : Reg) (s : State) := fpBinary (fun x y => toFP32 (Val.minmax true x y)) d a b s

/-- A truth value as an integer, with no flag (Table 6.6). -/
def truth (c : Bool) : Nat × Flags := (c.toNat, 0)
def execFeq (d a b : Reg) (s : State) := fpBinary (fun x y => truth (x.eqv y)) d a b s
def execFlt (d a b : Reg) (s : State) := fpBinary (fun x y => truth (x.lt y)) d a b s
def execFle (d a b : Reg) (s : State) := fpBinary (fun x y => truth (x.lt y || x.eqv y)) d a b s

def execFcvtSL (d a : Reg) (rm : BitVec 2) (s : State) :=
  s.finish (s.work.fpResult d (encodeFloat (Val.ofInt (s.strand.rx a).toInt) descFP32 rm.toNat false))
def execFcvtLS (d a : Reg) (rm : BitVec 2) (s : State) :=
  s.finish (s.work.fpResult d (encodeToInt (fpVal (s.strand.rx a)) descI64 rm.toNat))

/-- The bit of `fclass` (Table 6.7). -/
def classBit (c : Nat) : Nat :=
  let neg := bitAt c 31
  let ef := bitsAt c 23 8
  let mf := bitsAt c 0 23
  if ef = 255 then (if mf = 0 then (if neg then 0 else 7) else 8)
  else if ef = 0 then (if mf = 0 then (if neg then 3 else 4) else if neg then 2 else 5)
  else if neg then 1 else 6

def execFclass (d a : Reg) (s : State) := s.finish (s.work.fpResult d (2 ^ classBit (fpCode (s.strand.rx a)), 0))

/-- The fused words of major 0x0C (R116). -/
def fusedWord (op : Nat) (d a b c : Reg) (rm : BitVec 2) (s : State) : Host.Outcome State Fault Refusal :=
  let x := s.strand
  s.finish (s.work.fpResult d
    (roundOp (fusedVal op rm.toNat (fpVal (x.rx a)) (fpVal (x.rx b)) (fpVal (x.rx c))) descFP32 rm.toNat false))

def execFmadd (d a b cc : Reg) (rm : BitVec 2) (s : State) := fusedWord 0 d a b cc rm s
def execFmsub (d a b cc : Reg) (rm : BitVec 2) (s : State) := fusedWord 1 d a b cc rm s
def execFnmadd (d a b cc : Reg) (rm : BitVec 2) (s : State) := fusedWord 2 d a b cc rm s
def execFnmsub (d a b cc : Reg) (rm : BitVec 2) (s : State) := fusedWord 3 d a b cc rm s

end Sys2Proof.Machine
end

