-- ==== Sys2Proof/Machine/ScalarMem.lean ====
section
/-! DEFINITION. Scalar loads and stores to memory and to scratchpad (spec/06 R117 to R121). -/

namespace Sys2Proof.Machine

/-- The access address: x(base) + sext(imm11) × size, modulo 2^64 (R117). -/
def Strand.scalarAddr (s : Strand) (a : Reg) (imm : BitVec 11) (sz : Nat) : W64 := s.rx a + sext imm * BitVec.ofNat 64 (2 ^ sz)

/-- The KIND 2 record of a scalar memory word (Table 20.2), once per dispatch. -/
def Work.traceScalar (w : Work) (sz st what : Nat) (va : W64) : Work :=
  if w.cur.waiting = .none then w.trace 2 (sz + st * 4 + what * 16) va else w

/-- A loaded number sign-extended from `n` bytes to 64 bits (R119). -/
def sextBytes (n v : Nat) : W64 := BitVec.ofInt 64 (signed (8 * n) v)

/-- `ld` of 2^sz bytes on a stream. -/
def loadWord (sz : Nat) (d a : Reg) (st : BitVec 2) (imm : BitVec 11) (s : State) : Host.Outcome State Fault Refusal :=
  let va := s.strand.scalarAddr a imm sz
  let w := s.work.traceScalar sz st.toNat 0 va
  s.finish <|
    match w.loadVirtual st.toNat va (2 ^ sz) with
    | .error e => w.stopWord e
    | .ok (v, k) => k.result d (sextBytes (2 ^ sz) v)

/-- `st` of 2^sz bytes: the low bytes of the data register. -/
def storeWord (sz : Nat) (d a : Reg) (st : BitVec 2) (imm : BitVec 11) (s : State) : Host.Outcome State Fault Refusal :=
  let va := s.strand.scalarAddr a imm sz
  let w := s.work.traceScalar sz st.toNat 1 va
  s.finish <|
    match w.storeVirtual st.toNat va (2 ^ sz) (s.strand.rx d).toNat with
    | .error e => w.stopWord e
    | .ok k => k.retire

/-- `spld` and `spst` (R121). -/
def loadSpWord (sz : Nat) (d a : Reg) (st : BitVec 2) (imm : BitVec 11) (s : State) : Host.Outcome State Fault Refusal :=
  let va := s.strand.scalarAddr a imm sz
  let w := s.work.traceScalar sz st.toNat 3 va
  s.finish <|
    match w.loadSp st.toNat va (2 ^ sz) with
    | .error e => w.stopWord e
    | .ok v => w.result d (sextBytes (2 ^ sz) v)

def storeSpWord (sz : Nat) (d a : Reg) (st : BitVec 2) (imm : BitVec 11) (s : State) : Host.Outcome State Fault Refusal :=
  let va := s.strand.scalarAddr a imm sz
  let w := s.work.traceScalar sz st.toNat 3 va
  s.finish <|
    match w.storeSp st.toNat va (2 ^ sz) (s.strand.rx d).toNat with
    | .error e => w.stopWord e
    | .ok k => k.retire

def execLdB (d a : Reg) (st : BitVec 2) (imm : BitVec 11) (s : State) := loadWord 0 d a st imm s
def execLdH (d a : Reg) (st : BitVec 2) (imm : BitVec 11) (s : State) := loadWord 1 d a st imm s
def execLdW (d a : Reg) (st : BitVec 2) (imm : BitVec 11) (s : State) := loadWord 2 d a st imm s
def execLdD (d a : Reg) (st : BitVec 2) (imm : BitVec 11) (s : State) := loadWord 3 d a st imm s
def execStB (d a : Reg) (st : BitVec 2) (imm : BitVec 11) (s : State) := storeWord 0 d a st imm s
def execStH (d a : Reg) (st : BitVec 2) (imm : BitVec 11) (s : State) := storeWord 1 d a st imm s
def execStW (d a : Reg) (st : BitVec 2) (imm : BitVec 11) (s : State) := storeWord 2 d a st imm s
def execStD (d a : Reg) (st : BitVec 2) (imm : BitVec 11) (s : State) := storeWord 3 d a st imm s
def execSpldB (d a : Reg) (st : BitVec 2) (imm : BitVec 11) (s : State) := loadSpWord 0 d a st imm s
def execSpldH (d a : Reg) (st : BitVec 2) (imm : BitVec 11) (s : State) := loadSpWord 1 d a st imm s
def execSpldW (d a : Reg) (st : BitVec 2) (imm : BitVec 11) (s : State) := loadSpWord 2 d a st imm s
def execSpldD (d a : Reg) (st : BitVec 2) (imm : BitVec 11) (s : State) := loadSpWord 3 d a st imm s
def execSpstB (d a : Reg) (st : BitVec 2) (imm : BitVec 11) (s : State) := storeSpWord 0 d a st imm s
def execSpstH (d a : Reg) (st : BitVec 2) (imm : BitVec 11) (s : State) := storeSpWord 1 d a st imm s
def execSpstW (d a : Reg) (st : BitVec 2) (imm : BitVec 11) (s : State) := storeSpWord 2 d a st imm s
def execSpstD (d a : Reg) (st : BitVec 2) (imm : BitVec 11) (s : State) := storeSpWord 3 d a st imm s

end Sys2Proof.Machine
end

