-- ==== Sys2Proof/Machine/Control.lean ====
section
/-! DEFINITION. Branches and jumps (spec/05 R88; spec/06 R122, R123). -/

namespace Sys2Proof.Machine

/-- The KIND 1 record of a taken transfer (Table 20.2). -/
def Work.traceJump (w : Work) (target : W64) : Work :=
  let dist := (w.cur.pc - target).toInt / 4
  w.trace 1 (if -2 ^ 31 ≤ dist ∧ dist < 2 ^ 31 then wrapTo 32 dist else 0x80000000) target

/-- The target of a branch: the word's address + 4 × sext(offset) (R88). -/
def branchTarget (pc : W64) (off : BitVec 15) : W64 := pc + sext off * 4

/-- A branch: to its target where the comparison holds, else to the following word. -/
def branch (c : W64 → W64 → Bool) (a b : Reg) (off : BitVec 15) (s : State) : Host.Outcome State Fault Refusal :=
  let w := s.work
  let target := branchTarget s.strand.pc off
  s.finish (if c (s.strand.rx a) (s.strand.rx b) then (w.traceJump target).retireTo target else w.retire)

def execBeq (a b : Reg) (off : BitVec 15) (s : State) := branch (fun x y => decide (x = y)) a b off s
def execBne (a b : Reg) (off : BitVec 15) (s : State) := branch (fun x y => decide (x ≠ y)) a b off s
def execBlt (a b : Reg) (off : BitVec 15) (s : State) := branch (fun x y => decide (x.toInt < y.toInt)) a b off s
def execBge (a b : Reg) (off : BitVec 15) (s : State) := branch (fun x y => decide (y.toInt ≤ x.toInt)) a b off s
def execBltu (a b : Reg) (off : BitVec 15) (s : State) := branch (fun x y => decide (x.toNat < y.toNat)) a b off s
def execBgeu (a b : Reg) (off : BitVec 15) (s : State) := branch (fun x y => decide (y.toNat ≤ x.toNat)) a b off s

/-- `jal`: the link, then the target (R123). -/
def execJal (d : Reg) (imm : BitVec 20) (s : State) : Host.Outcome State Fault Refusal :=
  let target := s.strand.pc + sext imm * 4
  s.finish (((s.work.traceJump target).wx d (s.strand.pc + 4)).retireTo target)

/-- `jalr`: the target is formed before the link is written; a misaligned one traps and writes nothing (R88, R123). -/
def execJalr (d a : Reg) (imm : BitVec 15) (s : State) : Host.Outcome State Fault Refusal :=
  let target := s.strand.rx a + sext imm
  s.finish (
    if target.toNat % 4 ≠ 0 then s.work.trapWord ⟨2, 0, target⟩
    else ((s.work.traceJump target).wx d (s.strand.pc + 4)).retireTo target)

end Sys2Proof.Machine
end

