-- ==== Sys2Proof/Machine/Capture.lean ====
section
/-! DEFINITION. Capture and replay of a run's inputs (spec/20 R371, R372). -/

namespace Sys2Proof.Machine

/-- KIND of an entry (Table 20.6). -/
def CapBody.kind (b : CapBody) : Nat :=
  match b with
  | .create _ => 1
  | .imported _ _ _ => 2
  | .runRoot _ => 3
  | .put _ _ _ => 4
  | .tickets _ _ _ => 5
  | .seal _ => 6
  | .rollback _ => 7
  | .stop => 8

/-- An entry's contents as bytes: its numbers at 8 bytes each, in the table's order, then its data (log 56). A create block holds the pages that
the context gets, an import block the host's bus address. -/
def CapBody.plain (b : CapBody) : List Byte :=
  let w := fun (l : List Nat) => l.flatMap (leBytes 8)
  match b with
  | .create p => w ([p.num, p.tenant.toNat, p.prio, p.gmax, p.shares.length] ++ p.shares.flatMap (fun e => [e.1, e.2]) ++
      [p.dumpSlots, p.dumpKey, p.savePages.length] ++ p.savePages ++ [p.dumpPages.length] ++ p.dumpPages ++ [p.dumpVa, p.root, p.tvec.toNat])
  | .imported va h bs => w [va, h, bs.length] ++ bs
  | .runRoot va => w [va]
  | .put q o bs => w [q, o] ++ bs
  | .tickets q x t => w [q, x, t]
  | .seal n => w [n]
  | .rollback n => w [n]
  | .stop => []

/-- Entries 1 to 5 are encrypted under their context's dump key (R371). -/
def CapBody.keyed (b : CapBody) : Bool := decide (b.kind ≤ 5)

/-- Bytes of an entry behind its header of 32 bytes: its contents, with the tag of 16 bytes where they are encrypted. -/
def CapBody.len (b : CapBody) : Nat := b.plain.length + (if b.keyed then 16 else 0)

/-- The nonce of a capture entry (R272): its serial, the byte 0xFF, the context number and two zero bytes, little-endian. -/
def captureNonce (serial ctx : Nat) : Nat := serial + 0xFF * 2 ^ 64 + ctx * 2 ^ 72

/-- The dump key under which an entry is encrypted: its context's, or the one that it creates a context with. -/
def State.captureKey (s : State) (ctx : Nat) (b : CapBody) : Nat :=
  match b with
  | .create p => p.dumpKey
  | _ => ((s.ctxs.find? fun c => decide (c.num = ctx)).map (·.dumpKey)).getD 0

/-- An entry as the flash holds it: a header of 32 bytes, which is the additional data, then the contents. -/
def State.captureEntry (s : State) (ctx : Nat) (serial : Option Nat) (b : CapBody) : Capture :=
  let header := leBytes 2 b.kind ++ leBytes 2 ctx ++ leBytes 4 0 ++ leBytes 8 s.mgmt.capSeq ++ leBytes 4 s.rin.toNat ++ leBytes 4 0 ++
    leBytes 8 b.len
  let body := match serial with
    | some n => padTo b.len (Config.gcmSeal (s.captureKey ctx b) (captureNonce n ctx) header b.plain)
    | none => b.plain
  ⟨ctx, s.mgmt.capSeq, s.rin.toNat, serial, header ++ body, b⟩

/-- An entry appended while capture is on; entries under a dump key take a serial (R272). A full region (R14) or an exhausted
serial takes a KIND 8 entry, and the capture stops. -/
def State.capture (s : State) (ctx : Nat) (b : CapBody) : State :=
  if s.mgmt.capture then
    let m := s.mgmt
    let used := (m.captured.map fun e => 32 + e.body.len).foldl (· + ·) 0
    if 768 * 2 ^ 30 < used + (32 + b.len) + 32 ∨ (b.keyed ∧ 2 ^ 64 ≤ m.dumpSerial + 1) then
      { s with mgmt := { m with captured := m.captured ++ [s.captureEntry ctx none .stop], capSeq := m.capSeq + 1, capture := false } }
    else
      let serial := if b.keyed then some m.dumpSerial else none
      { s with mgmt := { m with captured := m.captured ++ [s.captureEntry ctx serial b], capSeq := m.capSeq + 1,
                                capture := decide (b ≠ .stop), dumpSerial := m.dumpSerial + b.keyed.toNat } }
  else s

/-- The entries that count at a replay: KIND 4 entries voided by a later rollback to an earlier seal are out (KIND 7). -/
def notVoid (l : List Capture) : List Capture :=
  match l with
  | [] => []
  | e :: rest =>
    let void :=
      match e.body with
      | .put _ _ _ => rest.any fun r =>
          match r.body with
          | .rollback n => later e.rin n
          | _ => false
      | _ => false
    if void then notVoid rest else e :: notVoid rest

/-- An accepted `qput`: the hub's order number, its capture, and the comparison with the next entry of a replay, whose first mismatch the flash
log records (R372). The end of the capture stays for the controller. -/
def State.accepted (s : State) (ctx hw : Nat) (raw : List Byte) : State :=
  let s1 := { s with mgmt := { s.mgmt with order := s.mgmt.order + 1 } }
  let s2 := s1.capture ctx (.put hw s1.mgmt.order raw)
  match s2.mgmt.replay with
  | none => s2
  | some [] => s2
  | some (e :: rest) =>
    match e.body with
    | .put q _ bs =>
      let m := s2.mgmt
      if q = hw ∧ bs = raw ∧ e.ctx = ctx then { s2 with mgmt := { m with replay := some rest } }
      else
        { s2 with mgmt := { m with replay := some rest, diverged := true,
                                   divergeLog := if m.diverged then m.divergeLog else m.divergeLog ++ [(hw, m.order)] } }
    | _ => s2

end Sys2Proof.Machine
end

