-- ==== Sys2Proof/WellFormed.lean ====
section
/-! DEFINITION. Which instructions are well formed: the register fields that need neither `vtype` nor a width
(R89, R90; check 6 of Table 5.19), the CSR numbers of Table 5.21, the block length of `lbuf`, and the two forms of a
`no-return` atomic (R219). -/

namespace Sys2Proof

/-- A tile field names t0 to t3 (R98). -/
def tileOk (t : Reg) : Bool := decide (t.toNat ≤ 3)

/-- A pair field is neither 0 nor 31 (R90). -/
def pairOk (a : Reg) : Bool := decide (a.toNat ≠ 0) && decide (a.toNat ≠ 31)

/-- A mask field names k0 to k3 (R89). -/
def maskOk (k : Reg) : Bool := decide (k.toNat ≤ 3)

/-- A mask destination names k1 to k3 (R89). -/
def maskDstOk (k : Reg) : Bool := decide (k.toNat ≠ 0) && decide (k.toNat ≤ 3)

/-- The CSR numbers of Table 5.21. -/
def csrKnown (n : Nat) : Bool :=
  decide (n ≤ 1) || (decide (0x400 ≤ n) && decide (n ≤ 0x405)) || (decide (0x800 ≤ n) && decide (n ≤ 0x808)) ||
  (decide (0x810 ≤ n) && decide (n ≤ 0x814)) || (decide (0xC00 ≤ n) && decide (n ≤ 0xC07))

namespace Instr

/-- The instruction has a word of its own in the opcode table (the others are events). -/
def isWord (i : Instr) : Bool :=
  match i with
  | .add .. => true
  | .sub .. => true
  | .and .. => true
  | .or .. => true
  | .xor .. => true
  | .sll .. => true
  | .srl .. => true
  | .sra .. => true
  | .slt .. => true
  | .sltu .. => true
  | .mul .. => true
  | .mulh .. => true
  | .mulhu .. => true
  | .div .. => true
  | .divu .. => true
  | .rem .. => true
  | .remu .. => true
  | .min .. => true
  | .max .. => true
  | .minu .. => true
  | .maxu .. => true
  | .clz .. => true
  | .ctz .. => true
  | .popc .. => true
  | .zextb .. => true
  | .zexth .. => true
  | .zextw .. => true
  | .sextb .. => true
  | .sexth .. => true
  | .sextw .. => true
  | .addi .. => true
  | .andi .. => true
  | .ori .. => true
  | .xori .. => true
  | .slti .. => true
  | .sltiu .. => true
  | .slli .. => true
  | .srli .. => true
  | .srai .. => true
  | .lhi .. => true
  | .lpc .. => true
  | .fadd .. => true
  | .fsub .. => true
  | .fmul .. => true
  | .fdiv .. => true
  | .fsqrt .. => true
  | .fmin .. => true
  | .fmax .. => true
  | .feq .. => true
  | .flt .. => true
  | .fle .. => true
  | .fcvtSL .. => true
  | .fcvtLS .. => true
  | .fclass .. => true
  | .fmadd .. => true
  | .fmsub .. => true
  | .fnmadd .. => true
  | .fnmsub .. => true
  | .beq .. => true
  | .bne .. => true
  | .blt .. => true
  | .bge .. => true
  | .bltu .. => true
  | .bgeu .. => true
  | .jal .. => true
  | .jalr .. => true
  | .ldB .. => true
  | .ldH .. => true
  | .ldW .. => true
  | .ldD .. => true
  | .stB .. => true
  | .stH .. => true
  | .stW .. => true
  | .stD .. => true
  | .spldB .. => true
  | .spldH .. => true
  | .spldW .. => true
  | .spldD .. => true
  | .spstB .. => true
  | .spstH .. => true
  | .spstW .. => true
  | .spstD .. => true
  | .csrr .. => true
  | .csrw .. => true
  | .csrs .. => true
  | .csrc .. => true
  | .svc => true
  | .tret => true
  | .brk .. => true
  | .wfi => true
  | .gend => true
  | .lend => true
  | .hevict .. => true
  | .hrestore .. => true
  | .lbuf .. => true
  | .vlset .. => true
  | .vadd .. => true
  | .vsub .. => true
  | .vmul .. => true
  | .vdiv .. => true
  | .vmin .. => true
  | .vmax .. => true
  | .vsqrt .. => true
  | .vabs .. => true
  | .vfma .. => true
  | .vfms .. => true
  | .vfnma .. => true
  | .vfnms .. => true
  | .vmulh .. => true
  | .vrem .. => true
  | .vneg .. => true
  | .vand .. => true
  | .vor .. => true
  | .vxor .. => true
  | .vnot .. => true
  | .vsll .. => true
  | .vsrl .. => true
  | .vsra .. => true
  | .vceq .. => true
  | .vcne .. => true
  | .vclt .. => true
  | .vcle .. => true
  | .vcgt .. => true
  | .vcge .. => true
  | .vcun .. => true
  | .vsel .. => true
  | .kand .. => true
  | .kor .. => true
  | .kxor .. => true
  | .knot .. => true
  | .kpopc .. => true
  | .kfirst .. => true
  | .vcvt .. => true
  | .vcvtS .. => true
  | .vredsum .. => true
  | .vredmin .. => true
  | .vredmax .. => true
  | .vredand .. => true
  | .vredor .. => true
  | .vscan .. => true
  | .vscanx .. => true
  | .vmaxi .. => true
  | .vmini .. => true
  | .vmaxic .. => true
  | .vperm .. => true
  | .vslideup .. => true
  | .vslidedn .. => true
  | .vbcast .. => true
  | .vmvxs .. => true
  | .vmvsx .. => true
  | .vcompress .. => true
  | .vid .. => true
  | .vexp2 .. => true
  | .vlog2 .. => true
  | .vrcp .. => true
  | .vrsqrt .. => true
  | .vld .. => true
  | .vlds .. => true
  | .vldx .. => true
  | .vldsp .. => true
  | .vldm .. => true
  | .vldxsp .. => true
  | .vst .. => true
  | .vsts .. => true
  | .vstx .. => true
  | .vstsp .. => true
  | .vstm .. => true
  | .vstxsp .. => true
  | .tacc .. => true
  | .taccS .. => true
  | .mzero .. => true
  | .mld .. => true
  | .mldT8 .. => true
  | .mldT16 .. => true
  | .mst .. => true
  | .mcvt .. => true
  | .mrowr .. => true
  | .mroww .. => true
  | .tdstep .. => true
  | .tdleaf .. => true
  | .tdregrp .. => true
  | .tdpathR .. => true
  | .tdpathW .. => true
  | .tdaddr .. => true
  | .hqDot .. => true
  | .hqSum .. => true
  | .hqCnt .. => true
  | .hqMax .. => true
  | .hqTop .. => true
  | .hqSes .. => true
  | .hbcast .. => true
  | .hmove .. => true
  | .cblkIn .. => true
  | .cblkOut .. => true
  | .cblkSs .. => true
  | .cblkVv .. => true
  | .cnestIn .. => true
  | .cnestOut .. => true
  | .cnestSs .. => true
  | .cnestVv .. => true
  | .cnestInT8 .. => true
  | .cnestInT16 .. => true
  | .cgathIn .. => true
  | .cgathOut .. => true
  | .cgetV .. => true
  | .cgetVs .. => true
  | .cwaitAny .. => true
  | .cwaitAll .. => true
  | .cfirst .. => true
  | .cdrain .. => true
  | .cfence .. => true
  | .aaddW .. => true
  | .aaddWNoret .. => true
  | .aaddD .. => true
  | .aaddDNoret .. => true
  | .aandW .. => true
  | .aandWNoret .. => true
  | .aandD .. => true
  | .aandDNoret .. => true
  | .aorW .. => true
  | .aorWNoret .. => true
  | .aorD .. => true
  | .aorDNoret .. => true
  | .axorW .. => true
  | .axorWNoret .. => true
  | .axorD .. => true
  | .axorDNoret .. => true
  | .aminW .. => true
  | .aminWNoret .. => true
  | .aminD .. => true
  | .aminDNoret .. => true
  | .amaxW .. => true
  | .amaxWNoret .. => true
  | .amaxD .. => true
  | .amaxDNoret .. => true
  | .aminuW .. => true
  | .aminuWNoret .. => true
  | .aminuD .. => true
  | .aminuDNoret .. => true
  | .amaxuW .. => true
  | .amaxuWNoret .. => true
  | .amaxuD .. => true
  | .amaxuDNoret .. => true
  | .aswpW .. => true
  | .aswpWNoret .. => true
  | .aswpD .. => true
  | .aswpDNoret .. => true
  | .acasW .. => true
  | .acasD .. => true
  | .afaddW .. => true
  | .afaddWNoret .. => true
  | .aincbW .. => true
  | .aincbD .. => true
  | .aaddscan .. => true
  | .cmbput .. => true
  | .cmbputZ .. => true
  | .sbar .. => true
  | .fenceRel .. => true
  | .fenceAcq .. => true
  | .ldAcqW .. => true
  | .ldAcqD .. => true
  | .stRelW .. => true
  | .stRelD .. => true
  | .accw .. => true
  | .accm .. => true
  | .ipost .. => true
  | .iwait .. => true
  | .mbarArr .. => true
  | .mbarWait .. => true
  | .dbarArr .. => true
  | .dbarWait .. => true
  | .mwait .. => true
  | .qput .. => true
  | .ktrig => true
  | .sealWord => true
  | .xhold => true
  | .slabCycle .. => false
  | .strandOverdue .. => false
  | .timerTrap .. => false
  | .wfiWake .. => false
  | .trcctlMark .. => false
  | .trcctlCopy .. => false
  | .trcctlClr .. => false
  | .registerWrite .. => false
  | .barrierConfigWrite .. => false
  | .ringConfigWrite .. => false
  | .hberrClear .. => false
  | .editPortWrite .. => false
  | .shootDown .. => false
  | .tlbParityRefetch .. => false
  | .copyLand .. => false
  | .copyFault .. => false
  | .copySourceError .. => false
  | .copySourcePoison .. => false
  | .atomicResponse .. => false
  | .noreturnAtomicPerform .. => false
  | .cmbputPerform .. => false
  | .heathSlotCheck .. => false
  | .heathPass1Done .. => false
  | .heathBankError .. => false
  | .heathReply .. => false
  | .hbcastLand .. => false
  | .hmoveDone .. => false
  | .hevictDone .. => false
  | .hrestoreDone .. => false
  | .barrierTimeout .. => false
  | .iwaitTimeout .. => false
  | .mwaitTimeout .. => false
  | .walkerPlace => false
  | .preemptRequest .. => false
  | .preemptSaveDone .. => false
  | .laneReclaimRequest .. => false
  | .reclaimTimeout .. => false
  | .laneWaitReturn .. => false
  | .groupRestore .. => false
  | .ueConsumed .. => false
  | .scrubberVisit .. => false
  | .sealTimer => false
  | .sealRequest .. => false
  | .sealPrepare .. => false
  | .sealResume => false
  | .sealImagesDone => false
  | .sealReady .. => false
  | .sealCommit .. => false
  | .sealAbort => false
  | .sealReadyTimeout => false
  | .coordinatorTimeout => false
  | .rollback .. => false
  | .initialSeal => false
  | .snapshotStreamEnd => false
  | .jeoreAck .. => false
  | .jeoreNak .. => false
  | .jeoreFlitBad .. => false
  | .jeoreRemoteWrite .. => false
  | .jeoreAtomicRequest .. => false
  | .jeoreAtomicResponse .. => false
  | .jeoreCopyReadRequest .. => false
  | .jeoreCopyReadData .. => false
  | .linkTrainingComplete .. => false
  | .linkTrainingTimeout .. => false
  | .linkLaneLost .. => false
  | .hostLinkDown => false
  | .hostLinkUp => false
  | .moduleBoot .. => false
  | .unitStart .. => false
  | .matrixIdle .. => false
  | .heathGovernorWindow .. => false
  | .thermalThrottle => false
  | .thermalShutdown => false
  | .commandReply .. => false
  | .identify .. => false
  | .attest .. => false
  | .createContext .. => false
  | .destroyContext .. => false
  | .stopContext .. => false
  | .resumeContext .. => false
  | .mapPages .. => false
  | .unmapPages .. => false
  | .hostImport .. => false
  | .hostExport .. => false
  | .runRoot .. => false
  | .snapshot .. => false
  | .restoreModule .. => false
  | .readDump .. => false
  | .configureLinks .. => false
  | .configureManagement .. => false
  | .resetFunction .. => false
  | .resetModule .. => false
  | .cmdregWrite .. => false
  | .scratchpadBankWake .. => false
  | .copyPerformed .. => false
  | .replayStart => false
  | .testServiceSet .. => false

/-- Check 6 of Table 5.19, and the operands that its form admits. -/
def wf (i : Instr) : Bool :=
  match i with
  | .add .. => true
  | .sub .. => true
  | .and .. => true
  | .or .. => true
  | .xor .. => true
  | .sll .. => true
  | .srl .. => true
  | .sra .. => true
  | .slt .. => true
  | .sltu .. => true
  | .mul .. => true
  | .mulh .. => true
  | .mulhu .. => true
  | .div .. => true
  | .divu .. => true
  | .rem .. => true
  | .remu .. => true
  | .min .. => true
  | .max .. => true
  | .minu .. => true
  | .maxu .. => true
  | .clz .. => true
  | .ctz .. => true
  | .popc .. => true
  | .zextb .. => true
  | .zexth .. => true
  | .zextw .. => true
  | .sextb .. => true
  | .sexth .. => true
  | .sextw .. => true
  | .addi .. => true
  | .andi .. => true
  | .ori .. => true
  | .xori .. => true
  | .slti .. => true
  | .sltiu .. => true
  | .slli .. => true
  | .srli .. => true
  | .srai .. => true
  | .lhi .. => true
  | .lpc .. => true
  | .fadd .. => true
  | .fsub .. => true
  | .fmul .. => true
  | .fdiv .. => true
  | .fsqrt .. => true
  | .fmin .. => true
  | .fmax .. => true
  | .feq .. => true
  | .flt .. => true
  | .fle .. => true
  | .fcvtSL .. => true
  | .fcvtLS .. => true
  | .fclass .. => true
  | .fmadd .. => true
  | .fmsub .. => true
  | .fnmadd .. => true
  | .fnmsub .. => true
  | .beq .. => true
  | .bne .. => true
  | .blt .. => true
  | .bge .. => true
  | .bltu .. => true
  | .bgeu .. => true
  | .jal .. => true
  | .jalr .. => true
  | .ldB .. => true
  | .ldH .. => true
  | .ldW .. => true
  | .ldD .. => true
  | .stB .. => true
  | .stH .. => true
  | .stW .. => true
  | .stD .. => true
  | .spldB .. => true
  | .spldH .. => true
  | .spldW .. => true
  | .spldD .. => true
  | .spstB .. => true
  | .spstH .. => true
  | .spstW .. => true
  | .spstD .. => true
  | .csrr _ csr => csrKnown csr.toNat
  | .csrw _ _ csr => csrKnown csr.toNat
  | .csrs _ _ csr => csrKnown csr.toNat
  | .csrc _ _ csr => csrKnown csr.toNat
  | .svc => true
  | .tret => true
  | .brk .. => true
  | .wfi => true
  | .gend => true
  | .lend => true
  | .hevict .. => true
  | .hrestore .. => true
  | .lbuf d _ => decide (d.toNat ≤ 15)
  | .vlset .. => true
  | .vadd .. => true
  | .vsub .. => true
  | .vmul .. => true
  | .vdiv .. => true
  | .vmin .. => true
  | .vmax .. => true
  | .vsqrt .. => true
  | .vabs .. => true
  | .vfma .. => true
  | .vfms .. => true
  | .vfnma .. => true
  | .vfnms .. => true
  | .vmulh .. => true
  | .vrem .. => true
  | .vneg .. => true
  | .vand .. => true
  | .vor .. => true
  | .vxor .. => true
  | .vnot .. => true
  | .vsll .. => true
  | .vsrl .. => true
  | .vsra .. => true
  | .vceq _ d _ _ _ _ => maskDstOk d
  | .vcne _ d _ _ _ _ => maskDstOk d
  | .vclt _ d _ _ _ _ => maskDstOk d
  | .vcle _ d _ _ _ _ => maskDstOk d
  | .vcgt _ d _ _ _ _ => maskDstOk d
  | .vcge _ d _ _ _ _ => maskDstOk d
  | .vcun _ d _ _ _ _ => maskDstOk d
  | .vsel .. => true
  | .kand _ d a b => maskDstOk d && maskOk a && maskOk b
  | .kor _ d a b => maskDstOk d && maskOk a && maskOk b
  | .kxor _ d a b => maskDstOk d && maskOk a && maskOk b
  | .knot _ d a => maskDstOk d && maskOk a
  | .kpopc _ _ a _ => maskOk a
  | .kfirst _ _ a _ => maskOk a
  | .vcvt .. => true
  | .vcvtS .. => true
  | .vredsum .. => true
  | .vredmin .. => true
  | .vredmax .. => true
  | .vredand .. => true
  | .vredor .. => true
  | .vscan .. => true
  | .vscanx .. => true
  | .vmaxi .. => true
  | .vmini .. => true
  | .vmaxic .. => true
  | .vperm .. => true
  | .vslideup .. => true
  | .vslidedn .. => true
  | .vbcast .. => true
  | .vmvxs .. => true
  | .vmvsx .. => true
  | .vcompress .. => true
  | .vid .. => true
  | .vexp2 .. => true
  | .vlog2 .. => true
  | .vrcp .. => true
  | .vrsqrt .. => true
  | .vld .. => true
  | .vlds .. => true
  | .vldx .. => true
  | .vldsp .. => true
  | .vldm _ _ a _ => pairOk a
  | .vldxsp .. => true
  | .vst .. => true
  | .vsts .. => true
  | .vstx .. => true
  | .vstsp .. => true
  | .vstm _ _ a _ => pairOk a
  | .vstxsp .. => true
  | .tacc _ t _ _ _ => tileOk t
  | .taccS _ t _ _ _ => tileOk t
  | .mzero t => tileOk t
  | .mld t a => tileOk t && pairOk a
  | .mldT8 t a => tileOk t && pairOk a
  | .mldT16 t a => tileOk t && pairOk a
  | .mst t a => tileOk t && pairOk a
  | .mcvt t _ => tileOk t
  | .mrowr t _ _ => tileOk t
  | .mroww t _ _ => tileOk t
  | .tdstep .. => true
  | .tdleaf .. => true
  | .tdregrp .. => true
  | .tdpathR .. => true
  | .tdpathW .. => true
  | .tdaddr .. => true
  | .hqDot .. => true
  | .hqSum .. => true
  | .hqCnt .. => true
  | .hqMax .. => true
  | .hqTop .. => true
  | .hqSes .. => true
  | .hbcast .. => true
  | .hmove .. => true
  | .cblkIn .. => true
  | .cblkOut .. => true
  | .cblkSs .. => true
  | .cblkVv .. => true
  | .cnestIn .. => true
  | .cnestOut .. => true
  | .cnestSs .. => true
  | .cnestVv .. => true
  | .cnestInT8 .. => true
  | .cnestInT16 .. => true
  | .cgathIn _ b _ _ _ => pairOk b
  | .cgathOut a _ _ _ _ => pairOk a
  | .cgetV .. => true
  | .cgetVs .. => true
  | .cwaitAny .. => true
  | .cwaitAll .. => true
  | .cfirst .. => true
  | .cdrain .. => true
  | .cfence mask => decide (mask ≠ 0)
  | .aaddW d _ _ => decide (d ≠ 0)
  | .aaddWNoret .. => true
  | .aaddD d _ _ => decide (d ≠ 0)
  | .aaddDNoret .. => true
  | .aandW d _ _ => decide (d ≠ 0)
  | .aandWNoret .. => true
  | .aandD d _ _ => decide (d ≠ 0)
  | .aandDNoret .. => true
  | .aorW d _ _ => decide (d ≠ 0)
  | .aorWNoret .. => true
  | .aorD d _ _ => decide (d ≠ 0)
  | .aorDNoret .. => true
  | .axorW d _ _ => decide (d ≠ 0)
  | .axorWNoret .. => true
  | .axorD d _ _ => decide (d ≠ 0)
  | .axorDNoret .. => true
  | .aminW d _ _ => decide (d ≠ 0)
  | .aminWNoret .. => true
  | .aminD d _ _ => decide (d ≠ 0)
  | .aminDNoret .. => true
  | .amaxW d _ _ => decide (d ≠ 0)
  | .amaxWNoret .. => true
  | .amaxD d _ _ => decide (d ≠ 0)
  | .amaxDNoret .. => true
  | .aminuW d _ _ => decide (d ≠ 0)
  | .aminuWNoret .. => true
  | .aminuD d _ _ => decide (d ≠ 0)
  | .aminuDNoret .. => true
  | .amaxuW d _ _ => decide (d ≠ 0)
  | .amaxuWNoret .. => true
  | .amaxuD d _ _ => decide (d ≠ 0)
  | .amaxuDNoret .. => true
  | .aswpW d _ _ => decide (d ≠ 0)
  | .aswpWNoret .. => true
  | .aswpD d _ _ => decide (d ≠ 0)
  | .aswpDNoret .. => true
  | .acasW .. => true
  | .acasD .. => true
  | .afaddW d _ _ => decide (d ≠ 0)
  | .afaddWNoret .. => true
  | .aincbW .. => true
  | .aincbD .. => true
  | .aaddscan .. => true
  | .cmbput .. => true
  | .cmbputZ .. => true
  | .sbar .. => true
  | .fenceRel .. => true
  | .fenceAcq .. => true
  | .ldAcqW .. => true
  | .ldAcqD .. => true
  | .stRelW .. => true
  | .stRelD .. => true
  | .accw .. => true
  | .accm .. => true
  | .ipost .. => true
  | .iwait .. => true
  | .mbarArr .. => true
  | .mbarWait .. => true
  | .dbarArr .. => true
  | .dbarWait .. => true
  | .mwait .. => true
  | .qput .. => true
  | .ktrig => true
  | .sealWord => true
  | .xhold => true
  | .slabCycle .. => true
  | .strandOverdue .. => true
  | .timerTrap .. => true
  | .wfiWake .. => true
  | .trcctlMark .. => true
  | .trcctlCopy .. => true
  | .trcctlClr .. => true
  | .registerWrite .. => true
  | .barrierConfigWrite .. => true
  | .ringConfigWrite .. => true
  | .hberrClear .. => true
  | .editPortWrite .. => true
  | .shootDown .. => true
  | .tlbParityRefetch .. => true
  | .copyLand .. => true
  | .copyFault .. => true
  | .copySourceError .. => true
  | .copySourcePoison .. => true
  | .atomicResponse .. => true
  | .noreturnAtomicPerform .. => true
  | .cmbputPerform .. => true
  | .heathSlotCheck .. => true
  | .heathPass1Done .. => true
  | .heathBankError .. => true
  | .heathReply .. => true
  | .hbcastLand .. => true
  | .hmoveDone .. => true
  | .hevictDone .. => true
  | .hrestoreDone .. => true
  | .barrierTimeout .. => true
  | .iwaitTimeout .. => true
  | .mwaitTimeout .. => true
  | .walkerPlace => true
  | .preemptRequest .. => true
  | .preemptSaveDone .. => true
  | .laneReclaimRequest .. => true
  | .reclaimTimeout .. => true
  | .laneWaitReturn .. => true
  | .groupRestore .. => true
  | .ueConsumed .. => true
  | .scrubberVisit .. => true
  | .sealTimer => true
  | .sealRequest .. => true
  | .sealPrepare .. => true
  | .sealResume => true
  | .sealImagesDone => true
  | .sealReady .. => true
  | .sealCommit .. => true
  | .sealAbort => true
  | .sealReadyTimeout => true
  | .coordinatorTimeout => true
  | .rollback .. => true
  | .initialSeal => true
  | .snapshotStreamEnd => true
  | .jeoreAck .. => true
  | .jeoreNak .. => true
  | .jeoreFlitBad .. => true
  | .jeoreRemoteWrite .. => true
  | .jeoreAtomicRequest .. => true
  | .jeoreAtomicResponse .. => true
  | .jeoreCopyReadRequest .. => true
  | .jeoreCopyReadData .. => true
  | .linkTrainingComplete .. => true
  | .linkTrainingTimeout .. => true
  | .linkLaneLost .. => true
  | .hostLinkDown => true
  | .hostLinkUp => true
  | .moduleBoot .. => true
  | .unitStart .. => true
  | .matrixIdle .. => true
  | .heathGovernorWindow .. => true
  | .thermalThrottle => true
  | .thermalShutdown => true
  | .commandReply .. => true
  | .identify .. => true
  | .attest .. => true
  | .createContext .. => true
  | .destroyContext .. => true
  | .stopContext .. => true
  | .resumeContext .. => true
  | .mapPages .. => true
  | .unmapPages .. => true
  | .hostImport .. => true
  | .hostExport .. => true
  | .runRoot .. => true
  | .snapshot .. => true
  | .restoreModule .. => true
  | .readDump .. => true
  | .configureLinks .. => true
  | .configureManagement .. => true
  | .resetFunction .. => true
  | .resetModule .. => true
  | .cmdregWrite .. => true
  | .scratchpadBankWake .. => true
  | .copyPerformed .. => true
  | .replayStart => true
  | .testServiceSet .. => true

end Instr

end Sys2Proof
end

