-- ==== Sys2Proof/Machine/Csr.lean ====
section
/-! DEFINITION. Control and status registers: their values, access classes and writes, the trace-ring controls among them
(spec/05 R104, R105, Tables 5.21 to 5.26; spec/06 R124 to R126; spec/12 R278, R279; spec/20 R364, R365, R367). -/

namespace Sys2Proof.Machine

/-- VLMAX for the strand's `vtype` on the lane groups it holds (R140). -/
def State.vlmax (s : State) : Nat :=
  let t := s.strand
  let n := if t.wg.isEmpty then ((s.core t.g.core).lanesFor t.g).length else t.wg.length
  4 * t.grp * 64 * n * 8 / t.sew

/-- The queue that `sqsel` names, where it is one of the strand's context (R278). -/
def State.selected (s : State) : Option Queue :=
  let c := s.core s.strand.g.core
  s.queues.find? fun q =>
    decide (q.hw = c.sqsel.toNat) && decide (q.ctx = s.strand.g.ctx) && decide (q.state ≠ .free)

/-- Stride S = 2^20 div tickets (R42). -/
def strideOf (q : Queue) : Nat := 2 ^ 20 / q.tickets

/-- `pevctl` (Table 20.4). -/
def Core.pevctl (c : Core) : W64 :=
  BitVec.ofNat 64 (c.pevDrop.toNat * 2 ^ 48 + c.pevStrm.toNat * 2 ^ 16 + c.pevPipes.toNat)

/-- `trcctl` (Table 20.3); MARK, COPY and CLR read 0. -/
def Core.trcctl (c : Core) : W64 :=
  BitVec.ofNat 64 (c.trcWraps.toNat * 2 ^ 54 + c.trcHead.toNat * 2 ^ 44 + c.trcOfs.toNat * 2 ^ 28 +
    c.trcCopyErr.toNat * 2 ^ 11 + c.trcFrz.toNat * 2 ^ 8 + c.trcEn.toNat)

/-- The value of a CSR (Table 5.21). -/
def State.csr (s : State) (n : Nat) : W64 :=
  let t := s.strand
  let c := s.core t.g.core
  match n with
  | 0x000 => zext t.fflags
  | 0x001 => t.ckmask
  | 0x400 => t.vl
  | 0x401 => t.vtype
  | 0x402 => t.tstart
  | 0x403 => t.tslab
  | 0x404 => t.tags
  | 0x405 => t.hqstat
  | 0x800 => zext t.status
  | 0x801 => t.tvec
  | 0x802 => t.epc
  | 0x803 => zext t.cause
  | 0x804 => t.tval
  | 0x805 => t.hscratch
  | 0x806 => t.tmcmp
  | 0x807 => c.pevctl
  | 0x808 => c.trcctl
  | 0x810 => BitVec.ofNat 64 (c.sqsel.toNat + s.selected.isSome.toNat * 64)
  | 0x811 => if s.selected.isSome then c.charge[c.sqsel.toNat]'(c.sqsel.isLt) else 0
  | 0x812 => match s.selected with
    | some q => BitVec.ofNat 64 q.weight
    | none => 0
  | 0x813 => match s.selected with
    | some q => BitVec.ofNat 64 (strideOf q * 2 ^ 32 + q.tickets)
    | none => 0
  | 0x814 => if s.selected.isSome then c.pass[c.sqsel.toNat]'(c.sqsel.isLt) else 0
  | 0xC00 => t.gcoord
  | 0xC01 => s.vcap t.g
  | 0xC02 => BitVec.ofNat 64 (s.tlen t.g)
  | 0xC03 => zext s.rin
  | 0xC04 => c.cycle
  | 0xC05 => t.cvret
  | 0xC06 => zext s.svcmode
  | 0xC07 => c.undostall
  | _ => 0

/-- The two bytes pairs of a 16-byte trace record (Table 20.1). -/
def recBytes (r : TraceRec) : List Byte :=
  leBytes 1 r.kind ++ leBytes 1 (r.hs + r.half.toNat * 4) ++ leBytes 2 r.delta ++ leBytes 4 r.a ++ leBytes 8 r.b.toNat

/-- The 1,024 places of the ring, oldest record first, then empty places; records of the other half read as KIND 0 (R365). -/
def ringBytes (c : Core) (half : Bool) : List (List Byte) :=
  let recs := c.ring.reverse.map fun r => if r.half = half then recBytes r else List.replicate 16 0
  recs ++ List.replicate (1024 - recs.length) (List.replicate 16 0)

/-- Whether a copy-out to an offset is refused: it would pass 4 MiB, or leave the half that the writer holds (R365). -/
def Core.copyLeaves (c : Core) (half : Bool) (ofs : Nat) : Bool :=
  decide (2 ^ 22 < ofs + 16384) || (c.halves.isSome && (if half then decide (ofs < 2 ^ 21) else decide (2 ^ 21 < ofs + 16384)))

/-- The class-6 stores of a copy-out of the ring into a core's scratchpad; none where it is refused (R365). -/
def Work.ringCopy (w : Work) (core : Nat) (half : Bool) (ofs : Nat) : Work :=
  let c := w.st.core core
  if c.copyLeaves half ofs then w
  else (ringBytes c half).zipIdx.foldl (fun k r => k.put (.put .sp (core * 2 ^ 22 + ofs + 16 * r.2) r.1 0 false)) w

/-- Where a copy-out that a write of `trcctl` asks for goes: a strand of the upper half leaves OFS as it is (R365). -/
def Core.copyAt (c : Core) (half : Bool) (v : W64) : Nat := (if half then c.trcOfs.toNat else bitsAt v.toNat 28 16) * 64

/-- The first bank of a core that is powered down or waking. -/
def Core.sleeping (c : Core) : Option Nat := (List.range 32).find? fun b => c.banksOff.getLsbD b

/-- Some of a core's scratchpad banks cleared, as they lose their power or wake (R121, R238). -/
def Work.clearBanks (w : Work) (core : Nat) (banks : BitVec 32) : Work :=
  ((List.range 32).filter fun b => banks.getLsbD b).foldl (fun (k : Work) b =>
    (List.range 1024).foldl (fun (j : Work) i => j.put (.clear .sp (core * 2 ^ 22 + i * 4096 + b * 128) 128)) k) w

/-- The sleeping banks of a core woken, cleared, for what is to be restored there (R238, R266). -/
def Work.wakeBanks (w : Work) (core : Nat) : Work :=
  (w.clearBanks core (w.st.core core).banksOff).mod fun s => s.setCore { s.core core with banksOff := 0 }

/-- What keeps a strand's copy-out from being performed: what its stores follow as class-6 stores, or a bank that is waking (R121, R365). -/
def Work.ringWait (w : Work) (v : W64) : Option Wait :=
  let g := w.cur.g
  let c := w.st.core g.core
  let ofs := c.copyAt g.upper v
  if !bitAt v.toNat 10 || c.copyLeaves g.upper ofs then none
  else
    let held := w.st.storeBlockers 6 (.mem (.put .sp (g.core * 2 ^ 22 + ofs) (List.replicate 16384 0) 0 false))
    if held.isEmpty then c.sleeping.map fun b => .bank g.core b else some (.cmds held)

/-- The ring cleared by `trcctl`.CLR: emptied, with WRAPS, HEAD and DROP zero (Tables 20.3 and 20.4). -/
def Core.clearRing (c : Core) : Core := { c.emptyRing with pevDrop := 0 }

/-- What a write of a per-core CSR leaves of the core (R104, R125, R364): of `trcctl` the plain fields, then what the copy-out shows, the clear and
the mark (log 17). -/
def Core.written (c : Core) (x : CsrWrite) : Core :=
  let n := x.val.toNat
  match x.num with
  | 0x807 => { c with pevStrm := BitVec.ofNat 4 (bitsAt n 16 4), pevPipes := BitVec.ofNat 10 (bitsAt n 0 10) }
  | 0x808 =>
    let c1 :=
      if x.upper then c
      else { c with trcOfs := BitVec.ofNat 16 (bitsAt n 28 16), trcFrz := bitAt n 8, trcEn := BitVec.ofNat 6 (bitsAt n 0 4 + 48) }
    let c2 := if bitAt n 10 then { c1 with trcCopyErr := x.refused } else c1
    let c3 := if bitAt n 9 && !x.upper then c2.clearRing else c2
    let mark := bitsAt n 12 16
    if mark = 0 then c3 else c3.record 12 x.hs x.upper mark c3.cycle
  | 0x810 => { c with sqsel := x.val.setWidth 6 }
  | 0x811 => { c with charge := c.charge.set x.sel.toNat x.val x.sel.isLt }
  | 0x814 => { c with pass := c.pass.set x.sel.toNat x.val x.sel.isLt }
  | _ => c

/-- The writes of the half that has chosen first, as the slab-cycle ends (R124). -/
def Core.settled (c : Core) : Core := c.late.foldl Core.written { c with late := [] }

/-- A write of a per-core CSR by the strand in front. The other half of a split core, which still chooses in this slab-cycle, sees it from the next
one on (R124, log 83); the stores of a copy-out are made here. -/
def Work.writeCore (w : Work) (n : Nat) (v : W64) : Work :=
  let g := w.cur.g
  let c := w.st.core g.core
  let ofs := c.copyAt g.upper v
  let x : CsrWrite := ⟨n, w.cur.hs, g.upper, c.sqsel, v, c.copyLeaves g.upper ofs⟩
  (if decide (n = 0x808) && bitAt v.toNat 10 then w.ringCopy g.core g.upper ofs else w).mod fun s =>
    s.setCore (if c.halves.isSome && !c.half then { c with late := c.late ++ [x] } else c.written x)

/-- A write of a CSR; reserved fields are dropped (R104, R125). -/
def Work.writeCsr (w : Work) (n : Nat) (v : W64) : Work :=
  match n with
  | 0x000 => w.upd fun s => { s with fflags := v.setWidth 5 }
  | 0x001 => w.upd fun s => { s with ckmask := v &&& 0xFFFFFFFE }
  | 0x400 => w.mod fun s =>
      { s with strand := { s.strand with vl := if s.vlmax < v.toNat then BitVec.ofNat 64 s.vlmax else v } }
  | 0x401 =>
    let k := w.upd fun s => { s with vtype := v &&& 0x800000000000000F }
    k.mod fun s =>
      { s with strand := { s.strand with vl := if s.vlmax < s.strand.vl.toNat then BitVec.ofNat 64 s.vlmax else s.strand.vl } }
  | 0x402 => w.upd fun s => { s with tstart := v }
  | 0x403 => w.upd fun s => { s with tslab := v }
  | 0x404 => w.upd fun s => { s with tags := v }
  | 0x405 => w.upd fun s => { s with hqstat := (s.hqstat &&& 0xFF00000000) ||| (v &&& 0x03F0FF01) }
  | 0x800 => w.upd fun s => { s with status := (v.setWidth 5 &&& 0x1E) ||| (s.status &&& 1) }
  | 0x801 => w.upd fun s => { s with tvec := v &&& (BitVec.allOnes 64 - 63) }
  | 0x802 => w.upd fun s => { s with epc := v }
  | 0x803 => w.upd fun s => { s with cause := v.setWidth 17 }
  | 0x804 => w.upd fun s => { s with tval := v }
  | 0x805 => w.upd fun s => { s with hscratch := v }
  | 0x806 => w.upd fun s => { s with tmcmp := v }
  | 0x807 => w.writeCore n v
  | 0x808 => w.writeCore n v
  | 0x810 => w.writeCore n v
  | 0x811 => if w.st.selected.isSome then w.writeCore n v else w
  | 0x814 => if w.st.selected.isSome then w.writeCore n v else w
  | _ => w

/-- Whether the access class of a number lets the strand read or write it (R104). -/
def csrAllowed (n : Nat) (priv write : Bool) : Bool :=
  match n / 1024 % 4 with
  | 0 => true
  | 1 => priv || !write
  | 2 => priv
  | _ => !write

/-- The word of a CSR access, for `tval`. -/
def csrWord (op : Nat) (d a : Reg) (csr : BitVec 12) : W64 :=
  BitVec.ofNat 64 (0x38000000 + d.toNat * 2 ^ 20 + a.toNat * 2 ^ 15 + op * 2 ^ 12 + csr.toNat)

/-- A CSR word (R124): the old value to x(d), then the write where there is one. It retires once a copy-out that it asks for can be performed
(R365). -/
def csrAccess (op : Nat) (d a : Reg) (csr : BitVec 12) (s : State) : Host.Outcome State Fault Refusal :=
  let w := s.work
  let n := csr.toNat
  let write := decide (op = 1) || (decide (op ≠ 0) && decide (a ≠ 0))
  let word := csrWord op d a csr
  let old := s.csr n
  let x := s.strand.rx a
  s.finish (
    if !csrAllowed n s.strand.priv write then w.illegal 3 word
    else if !csrKnown n then w.illegal 4 word
    else
      let value := match op with
        | 1 => x
        | 2 => old ||| x
        | _ => old &&& ~~~x
      match if write && decide (n = 0x808) then w.ringWait value else none with
      | some k => w.wait k
      | none => ((if write then w.writeCsr n value else w).wx d old).retire)

def execCsrr (d : Reg) (csr : BitVec 12) (s : State) := csrAccess 0 d 0 csr s
def execCsrw (d a : Reg) (csr : BitVec 12) (s : State) := csrAccess 1 d a csr s
def execCsrs (d a : Reg) (csr : BitVec 12) (s : State) := csrAccess 2 d a csr s
def execCsrc (d a : Reg) (csr : BitVec 12) (s : State) := csrAccess 3 d a csr s

end Sys2Proof.Machine
end

