-- ==== Sys2Proof/Decode.lean ====
section
/-! DEFINITION. The decoder, total on every word, and the encoder, both from the encoding tables of spec/05.
A word is refused by the name of the first check of Table 5.19 that it fails on its own: framing (check 2, R91),
an undefined selector (check 3), a reserved bit or unused field (check 4), a register field out of range (check 6). -/

namespace Sys2Proof

/-- Why a word is not an instruction (R102, Table 5.19). -/
inductive DecodeError where
  | framing
  | undefined
  | reserved
  | badField
  deriving DecidableEq, Repr

/-- The field of `n` bits at bit `lo` of a word. -/
def field (n lo : Nat) (w : Nat) : BitVec n := BitVec.ofNat n (w / 2 ^ lo)

/-- The d, a, b and f fields of forms A, V and E (Tables 5.1, 5.2 and 5.7). -/
def rd (w : Nat) : Reg := field 5 20 w
def ra (w : Nat) : Reg := field 5 15 w
def rb (w : Nat) : Reg := field 5 10 w
def rf (w : Nat) : Reg := field 5 5 w

/-- The chain bit C, bit 31 (R29). -/
def chained (w : Nat) : Bool := decide (w / 2 ^ 31 % 2 = 1)

/-- The major opcode, bits 30:25 (R86). -/
def majorOf (w : Nat) : Nat := w / 2 ^ 25 % 64

/-- Selector of major 0x01 (spec/05 R93 to R100). -/
def selectInteger (w : Nat) : Option Instr :=
  match w % 32 with
  | 0 => some (.add (rd w) (ra w) (rb w))
  | 1 => some (.sub (rd w) (ra w) (rb w))
  | 2 => some (.and (rd w) (ra w) (rb w))
  | 3 => some (.or (rd w) (ra w) (rb w))
  | 4 => some (.xor (rd w) (ra w) (rb w))
  | 5 => some (.sll (rd w) (ra w) (rb w))
  | 6 => some (.srl (rd w) (ra w) (rb w))
  | 7 => some (.sra (rd w) (ra w) (rb w))
  | 8 => some (.slt (rd w) (ra w) (rb w))
  | 9 => some (.sltu (rd w) (ra w) (rb w))
  | 10 => some (.mul (rd w) (ra w) (rb w))
  | 11 => some (.mulh (rd w) (ra w) (rb w))
  | 12 => some (.mulhu (rd w) (ra w) (rb w))
  | 13 => some (.div (rd w) (ra w) (rb w))
  | 14 => some (.divu (rd w) (ra w) (rb w))
  | 15 => some (.rem (rd w) (ra w) (rb w))
  | 16 => some (.remu (rd w) (ra w) (rb w))
  | 17 => some (.min (rd w) (ra w) (rb w))
  | 18 => some (.max (rd w) (ra w) (rb w))
  | 19 => some (.minu (rd w) (ra w) (rb w))
  | 20 => some (.maxu (rd w) (ra w) (rb w))
  | 21 => some (.clz (rd w) (ra w))
  | 22 => some (.ctz (rd w) (ra w))
  | 23 => some (.popc (rd w) (ra w))
  | 24 => some (.zextb (rd w) (ra w))
  | 25 => some (.zexth (rd w) (ra w))
  | 26 => some (.zextw (rd w) (ra w))
  | 27 => some (.sextb (rd w) (ra w))
  | 28 => some (.sexth (rd w) (ra w))
  | 29 => some (.sextw (rd w) (ra w))
  | _ => none

/-- Selector of major 0x08 (spec/05 R93 to R100). -/
def selectShiftImm (w : Nat) : Option Instr :=
  match w / 2 ^ 13 % 4 with
  | 0 => some (.slli (rd w) (ra w) (field 6 0 w))
  | 1 => some (.srli (rd w) (ra w) (field 6 0 w))
  | 2 => some (.srai (rd w) (ra w) (field 6 0 w))
  | _ => none

/-- Selector of major 0x0B (spec/05 R93 to R100). -/
def selectFloat (w : Nat) : Option Instr :=
  match w % 32 with
  | 0 => some (.fadd (rd w) (ra w) (rb w) (field 2 5 w))
  | 1 => some (.fsub (rd w) (ra w) (rb w) (field 2 5 w))
  | 2 => some (.fmul (rd w) (ra w) (rb w) (field 2 5 w))
  | 3 => some (.fdiv (rd w) (ra w) (rb w) (field 2 5 w))
  | 4 => some (.fsqrt (rd w) (ra w) (field 2 5 w))
  | 5 => some (.fmin (rd w) (ra w) (rb w))
  | 6 => some (.fmax (rd w) (ra w) (rb w))
  | 7 => some (.feq (rd w) (ra w) (rb w))
  | 8 => some (.flt (rd w) (ra w) (rb w))
  | 9 => some (.fle (rd w) (ra w) (rb w))
  | 10 => some (.fcvtSL (rd w) (ra w) (field 2 5 w))
  | 11 => some (.fcvtLS (rd w) (ra w) (field 2 5 w))
  | 12 => some (.fclass (rd w) (ra w))
  | _ => none

/-- Selector of major 0x0C (spec/05 R93 to R100). -/
def selectFused (w : Nat) : Option Instr :=
  match w % 4 with
  | 0 => some (.fmadd (rd w) (ra w) (rb w) (rf w) (field 2 2 w))
  | 1 => some (.fmsub (rd w) (ra w) (rb w) (rf w) (field 2 2 w))
  | 2 => some (.fnmadd (rd w) (ra w) (rb w) (rf w) (field 2 2 w))
  | 3 => some (.fnmsub (rd w) (ra w) (rb w) (rf w) (field 2 2 w))
  | _ => none

/-- Selector of major 0x18 (spec/05 R93 to R100). -/
def selectLoad (w : Nat) : Option Instr :=
  match w / 2 ^ 11 % 4 with
  | 0 => some (.ldB (rd w) (ra w) (field 2 13 w) (field 11 0 w))
  | 1 => some (.ldH (rd w) (ra w) (field 2 13 w) (field 11 0 w))
  | 2 => some (.ldW (rd w) (ra w) (field 2 13 w) (field 11 0 w))
  | 3 => some (.ldD (rd w) (ra w) (field 2 13 w) (field 11 0 w))
  | _ => none

/-- Selector of major 0x19 (spec/05 R93 to R100). -/
def selectStore (w : Nat) : Option Instr :=
  match w / 2 ^ 11 % 4 with
  | 0 => some (.stB (rd w) (ra w) (field 2 13 w) (field 11 0 w))
  | 1 => some (.stH (rd w) (ra w) (field 2 13 w) (field 11 0 w))
  | 2 => some (.stW (rd w) (ra w) (field 2 13 w) (field 11 0 w))
  | 3 => some (.stD (rd w) (ra w) (field 2 13 w) (field 11 0 w))
  | _ => none

/-- Selector of major 0x1A (spec/05 R93 to R100). -/
def selectSpLoad (w : Nat) : Option Instr :=
  match w / 2 ^ 11 % 4 with
  | 0 => some (.spldB (rd w) (ra w) (field 2 13 w) (field 11 0 w))
  | 1 => some (.spldH (rd w) (ra w) (field 2 13 w) (field 11 0 w))
  | 2 => some (.spldW (rd w) (ra w) (field 2 13 w) (field 11 0 w))
  | 3 => some (.spldD (rd w) (ra w) (field 2 13 w) (field 11 0 w))
  | _ => none

/-- Selector of major 0x1B (spec/05 R93 to R100). -/
def selectSpStore (w : Nat) : Option Instr :=
  match w / 2 ^ 11 % 4 with
  | 0 => some (.spstB (rd w) (ra w) (field 2 13 w) (field 11 0 w))
  | 1 => some (.spstH (rd w) (ra w) (field 2 13 w) (field 11 0 w))
  | 2 => some (.spstW (rd w) (ra w) (field 2 13 w) (field 11 0 w))
  | 3 => some (.spstD (rd w) (ra w) (field 2 13 w) (field 11 0 w))
  | _ => none

/-- Selector of major 0x1C (spec/05 R93 to R100). -/
def selectCsr (w : Nat) : Option Instr :=
  match w / 2 ^ 12 % 8 with
  | 0 => some (.csrr (rd w) (field 12 0 w))
  | 1 => some (.csrw (rd w) (ra w) (field 12 0 w))
  | 2 => some (.csrs (rd w) (ra w) (field 12 0 w))
  | 3 => some (.csrc (rd w) (ra w) (field 12 0 w))
  | _ => none

/-- Selector of major 0x1D (spec/05 R93 to R100). -/
def selectSystem (w : Nat) : Option Instr :=
  match w % 32 with
  | 0 => some (.svc)
  | 1 => some (.tret)
  | 2 => some (.brk (rf w))
  | 3 => some (.wfi)
  | 4 => some (.gend)
  | 5 => some (.lend)
  | 6 => some (.hevict (ra w) (rb w))
  | 7 => some (.hrestore (ra w) (rb w))
  | _ => none

/-- Selector of major 0x21 (spec/05 R93 to R100). -/
def selectArith1 (w : Nat) : Option Instr :=
  match w % 8 with
  | 0 => some (.vadd (chained w) (rd w) (ra w) (rb w) (rf w) (field 2 3 w))
  | 1 => some (.vsub (chained w) (rd w) (ra w) (rb w) (rf w) (field 2 3 w))
  | 2 => some (.vmul (chained w) (rd w) (ra w) (rb w) (rf w) (field 2 3 w))
  | 3 => some (.vdiv (chained w) (rd w) (ra w) (rb w) (rf w) (field 2 3 w))
  | 4 => some (.vmin (chained w) (rd w) (ra w) (rb w) (rf w) (field 2 3 w))
  | 5 => some (.vmax (chained w) (rd w) (ra w) (rb w) (rf w) (field 2 3 w))
  | 6 => some (.vsqrt (chained w) (rd w) (ra w) (rf w) (field 2 3 w))
  | 7 => some (.vabs (chained w) (rd w) (ra w) (rf w) (field 2 3 w))
  | _ => none

/-- Selector of major 0x22 (spec/05 R93 to R100). -/
def selectArith2 (w : Nat) : Option Instr :=
  match w % 8 with
  | 0 => some (.vfma (chained w) (rd w) (ra w) (rb w) (rf w) (field 2 3 w))
  | 1 => some (.vfms (chained w) (rd w) (ra w) (rb w) (rf w) (field 2 3 w))
  | 2 => some (.vfnma (chained w) (rd w) (ra w) (rb w) (rf w) (field 2 3 w))
  | 3 => some (.vfnms (chained w) (rd w) (ra w) (rb w) (rf w) (field 2 3 w))
  | 4 => some (.vmulh (chained w) (rd w) (ra w) (rb w) (rf w) (field 2 3 w))
  | 5 => some (.vrem (chained w) (rd w) (ra w) (rb w) (rf w) (field 2 3 w))
  | 6 => some (.vneg (chained w) (rd w) (ra w) (rf w) (field 2 3 w))
  | _ => none

/-- Selector of major 0x23 (spec/05 R93 to R100). -/
def selectBitwise (w : Nat) : Option Instr :=
  match w % 8 with
  | 0 => some (.vand (chained w) (rd w) (ra w) (rb w) (rf w) (field 2 3 w))
  | 1 => some (.vor (chained w) (rd w) (ra w) (rb w) (rf w) (field 2 3 w))
  | 2 => some (.vxor (chained w) (rd w) (ra w) (rb w) (rf w) (field 2 3 w))
  | 3 => some (.vnot (chained w) (rd w) (ra w) (rf w) (field 2 3 w))
  | 4 => some (.vsll (chained w) (rd w) (ra w) (rb w) (rf w) (field 2 3 w))
  | 5 => some (.vsrl (chained w) (rd w) (ra w) (rb w) (rf w) (field 2 3 w))
  | 6 => some (.vsra (chained w) (rd w) (ra w) (rb w) (rf w) (field 2 3 w))
  | _ => none

/-- Selector of major 0x24 (spec/05 R93 to R100). -/
def selectCompare (w : Nat) : Option Instr :=
  match w % 8 with
  | 0 => some (.vceq (chained w) (rd w) (ra w) (rb w) (rf w) (field 2 3 w))
  | 1 => some (.vcne (chained w) (rd w) (ra w) (rb w) (rf w) (field 2 3 w))
  | 2 => some (.vclt (chained w) (rd w) (ra w) (rb w) (rf w) (field 2 3 w))
  | 3 => some (.vcle (chained w) (rd w) (ra w) (rb w) (rf w) (field 2 3 w))
  | 4 => some (.vcgt (chained w) (rd w) (ra w) (rb w) (rf w) (field 2 3 w))
  | 5 => some (.vcge (chained w) (rd w) (ra w) (rb w) (rf w) (field 2 3 w))
  | 6 => some (.vcun (chained w) (rd w) (ra w) (rb w) (rf w) (field 2 3 w))
  | _ => none

/-- Selector of major 0x25 (spec/05 R93 to R100). -/
def selectMasks (w : Nat) : Option Instr :=
  match w % 8 with
  | 0 => some (.vsel (chained w) (rd w) (ra w) (rb w) (rf w) (field 2 3 w))
  | 1 => some (.kand (chained w) (rd w) (ra w) (rb w))
  | 2 => some (.kor (chained w) (rd w) (ra w) (rb w))
  | 3 => some (.kxor (chained w) (rd w) (ra w) (rb w))
  | 4 => some (.knot (chained w) (rd w) (ra w))
  | 5 => some (.kpopc (chained w) (rd w) (ra w) (field 2 3 w))
  | 6 => some (.kfirst (chained w) (rd w) (ra w) (field 2 3 w))
  | _ => none

/-- Selector of major 0x26 (spec/05 R93 to R100). -/
def selectConvert (w : Nat) : Option Instr :=
  match w % 8 with
  | 0 => some (.vcvt (chained w) (rd w) (ra w) (rf w) (field 2 3 w))
  | 1 => some (.vcvtS (chained w) (rd w) (ra w) (rb w) (rf w) (field 2 3 w))
  | _ => none

/-- Selector of major 0x27 (spec/05 R93 to R100). -/
def selectReduce (w : Nat) : Option Instr :=
  match w % 8 with
  | 0 => some (.vredsum (chained w) (rd w) (ra w) (rf w) (field 2 3 w))
  | 1 => some (.vredmin (chained w) (rd w) (ra w) (rf w) (field 2 3 w))
  | 2 => some (.vredmax (chained w) (rd w) (ra w) (rf w) (field 2 3 w))
  | 3 => some (.vredand (chained w) (rd w) (ra w) (rf w) (field 2 3 w))
  | 4 => some (.vredor (chained w) (rd w) (ra w) (rf w) (field 2 3 w))
  | 5 => some (.vscan (chained w) (rd w) (ra w) (rf w) (field 2 3 w))
  | 6 => some (.vscanx (chained w) (rd w) (ra w) (rf w) (field 2 3 w))
  | _ => none

/-- Selector of major 0x28 (spec/05 R93 to R100). -/
def selectMaxIndex (w : Nat) : Option Instr :=
  match w % 8 with
  | 0 => some (.vmaxi (chained w) (rd w) (ra w) (rf w) (field 2 3 w))
  | 1 => some (.vmini (chained w) (rd w) (ra w) (rf w) (field 2 3 w))
  | 2 => some (.vmaxic (chained w) (rd w) (ra w) (rf w) (field 2 3 w))
  | _ => none

/-- Selector of major 0x29 (spec/05 R93 to R100). -/
def selectPermute (w : Nat) : Option Instr :=
  match w % 8 with
  | 0 => some (.vperm (chained w) (rd w) (ra w) (rb w) (rf w) (field 2 3 w))
  | 1 => some (.vslideup (chained w) (rd w) (ra w) (rb w) (rf w) (field 2 3 w))
  | 2 => some (.vslidedn (chained w) (rd w) (ra w) (rb w) (rf w) (field 2 3 w))
  | 3 => some (.vbcast (chained w) (rd w) (ra w) (rf w) (field 2 3 w))
  | 4 => some (.vmvxs (chained w) (rd w) (ra w) (rf w) (field 2 3 w))
  | 5 => some (.vmvsx (chained w) (rd w) (ra w) (rf w) (field 2 3 w))
  | 6 => some (.vcompress (chained w) (rd w) (ra w) (rf w) (field 2 3 w))
  | 7 => some (.vid (chained w) (rd w) (rf w) (field 2 3 w))
  | _ => none

/-- Selector of major 0x2A (spec/05 R93 to R100). -/
def selectTranscendental (w : Nat) : Option Instr :=
  match w % 8 with
  | 0 => some (.vexp2 (chained w) (rd w) (ra w) (rf w) (field 2 3 w))
  | 1 => some (.vlog2 (chained w) (rd w) (ra w) (rf w) (field 2 3 w))
  | 2 => some (.vrcp (chained w) (rd w) (ra w) (rf w) (field 2 3 w))
  | 3 => some (.vrsqrt (chained w) (rd w) (ra w) (rf w) (field 2 3 w))
  | _ => none

/-- Selector of major 0x2C (spec/05 R93 to R100). -/
def selectVectorLoad (w : Nat) : Option Instr :=
  match w % 8 with
  | 0 => some (.vld (chained w) (rd w) (ra w) (field 2 8 w) (field 2 3 w))
  | 1 => some (.vlds (chained w) (rd w) (ra w) (rb w) (field 2 8 w) (field 2 3 w))
  | 2 => some (.vldx (chained w) (rd w) (ra w) (rb w) (field 2 8 w) (field 2 3 w))
  | 3 => some (.vldsp (chained w) (rd w) (ra w) (field 2 8 w) (field 2 3 w))
  | 4 => some (.vldm (chained w) (rd w) (ra w) (field 2 3 w))
  | 5 => some (.vldxsp (chained w) (rd w) (ra w) (rb w) (field 2 8 w) (field 2 3 w))
  | _ => none

/-- Selector of major 0x2D (spec/05 R93 to R100). -/
def selectVectorStore (w : Nat) : Option Instr :=
  match w % 8 with
  | 0 => some (.vst (chained w) (rd w) (ra w) (field 2 8 w) (field 2 3 w))
  | 1 => some (.vsts (chained w) (rd w) (ra w) (rb w) (field 2 8 w) (field 2 3 w))
  | 2 => some (.vstx (chained w) (rd w) (ra w) (rb w) (field 2 8 w) (field 2 3 w))
  | 3 => some (.vstsp (chained w) (rd w) (ra w) (field 2 8 w) (field 2 3 w))
  | 4 => some (.vstm (chained w) (rd w) (ra w) (field 2 3 w))
  | 5 => some (.vstxsp (chained w) (rd w) (ra w) (rb w) (field 2 8 w) (field 2 3 w))
  | _ => none

/-- Selector of major 0x30 (spec/05 R93 to R100). -/
def selectMatrix (w : Nat) : Option Instr :=
  match w % 8 with
  | 0 => some (.tacc (chained w) (rd w) (ra w) (rb w) (rf w))
  | 1 => some (.taccS (chained w) (rd w) (ra w) (rb w) (rf w))
  | 2 => some (.mzero (rd w))
  | _ => none

/-- Selector of major 0x31 (spec/05 R93 to R100). -/
def selectTile (w : Nat) : Option Instr :=
  match w % 32 with
  | 0 => some (.mld (rd w) (ra w))
  | 1 => some (.mldT8 (rd w) (ra w))
  | 2 => some (.mldT16 (rd w) (ra w))
  | 3 => some (.mst (rd w) (ra w))
  | 4 => some (.mcvt (rd w) (rf w))
  | 5 => some (.mrowr (rd w) (ra w) (rb w))
  | 6 => some (.mroww (rd w) (ra w) (rb w))
  | _ => none

/-- Selector of major 0x34 (spec/05 R93 to R100). -/
def selectDescent (w : Nat) : Option Instr :=
  match w % 8 with
  | 0 => some (.tdstep (chained w) (rd w) (ra w) (rb w) (rf w) (field 2 3 w))
  | 1 => some (.tdleaf (chained w) (rd w) (ra w) (rb w) (rf w) (field 2 3 w))
  | 2 => some (.tdregrp (chained w) (rd w) (ra w) (rb w) (field 2 3 w))
  | 3 => some (.tdpathR (chained w) (rd w) (ra w) (field 2 3 w))
  | 4 => some (.tdpathW (chained w) (rd w) (ra w) (field 2 3 w))
  | 5 => some (.tdaddr (chained w) (rd w) (ra w) (rb w) (field 2 3 w))
  | _ => none

/-- Selector of major 0x36 (spec/05 R93 to R100). -/
def selectHeath1 (w : Nat) : Option Instr :=
  match w % 4 with
  | 0 => some (.hqDot (rd w) (rb w) (field 6 4 w))
  | 1 => some (.hqSum (rd w) (rb w) (field 6 4 w))
  | 2 => some (.hqCnt (rd w) (rb w) (field 6 4 w))
  | 3 => some (.hqMax (rd w) (rb w) (field 6 4 w))
  | _ => none

/-- Selector of major 0x37 (spec/05 R93 to R100). -/
def selectHeath2 (w : Nat) : Option Instr :=
  match w % 4 with
  | 0 => some (.hqTop (rd w) (rb w) (field 6 4 w))
  | 1 => some (.hqSes (rd w) (rb w) (field 6 4 w))
  | 2 => some (.hbcast (rd w) (field 6 4 w))
  | 3 => some (.hmove (rd w) (ra w) (rb w) (field 6 4 w))
  | _ => none

/-- Selector of major 0x38 (spec/05 R93 to R100). -/
def selectCopyBlock (w : Nat) : Option Instr :=
  match w % 4 with
  | 0 => some (.cblkIn (rd w) (ra w) (rb w) (field 6 4 w) (field 2 2 w))
  | 1 => some (.cblkOut (rd w) (ra w) (rb w) (field 6 4 w) (field 2 2 w))
  | 2 => some (.cblkSs (rd w) (ra w) (rb w) (field 6 4 w) (field 2 2 w))
  | 3 => some (.cblkVv (rd w) (ra w) (rb w) (field 6 4 w) (field 2 2 w))
  | _ => none

/-- Selector of major 0x39 (spec/05 R93 to R100). -/
def selectCopyNest (w : Nat) : Option Instr :=
  match w % 4 with
  | 0 => some (.cnestIn (rd w) (ra w) (rb w) (field 6 4 w) (field 2 2 w))
  | 1 => some (.cnestOut (rd w) (ra w) (rb w) (field 6 4 w) (field 2 2 w))
  | 2 => some (.cnestSs (rd w) (ra w) (rb w) (field 6 4 w) (field 2 2 w))
  | 3 => some (.cnestVv (rd w) (ra w) (rb w) (field 6 4 w) (field 2 2 w))
  | _ => none

/-- Selector of major 0x3A (spec/05 R93 to R100). -/
def selectCopyGather (w : Nat) : Option Instr :=
  match w % 4 with
  | 0 => some (.cnestInT8 (rd w) (ra w) (rb w) (field 6 4 w) (field 2 2 w))
  | 1 => some (.cnestInT16 (rd w) (ra w) (rb w) (field 6 4 w) (field 2 2 w))
  | 2 => some (.cgathIn (rd w) (ra w) (rb w) (field 6 4 w) (field 2 2 w))
  | 3 => some (.cgathOut (rd w) (ra w) (rb w) (field 6 4 w) (field 2 2 w))
  | _ => none

/-- Selector of major 0x3B (spec/05 R93 to R100). -/
def selectCopyGet (w : Nat) : Option Instr :=
  match w % 4 with
  | 0 => some (.cgetV (rd w) (ra w) (field 6 4 w) (field 2 2 w))
  | 1 => some (.cgetVs (rd w) (ra w) (field 6 4 w) (field 2 2 w))
  | 3 =>
    match w / 2 ^ 10 % 32 with
    | 0 => some (.cwaitAny (rd w))
    | 1 => some (.cwaitAll (rd w))
    | 2 => some (.cfirst (rd w) (ra w))
    | 3 => some (.cdrain (field 2 2 w))
    | 4 => some (.cfence (field 4 4 w))
    | _ => none
  | _ => none

/-- Selector of major 0x3C (spec/05 R93 to R100). -/
noncomputable def selectAtomic (w : Nat) : Option Instr :=
  match w % 32 with
  | 0 => if rd w = 0 then some (.aaddWNoret (ra w) (rb w) (field 2 5 w)) else some (.aaddW (rd w) (ra w) (rb w))
  | 1 => if rd w = 0 then some (.aaddDNoret (ra w) (rb w) (field 2 5 w)) else some (.aaddD (rd w) (ra w) (rb w))
  | 2 => if rd w = 0 then some (.aandWNoret (ra w) (rb w) (field 2 5 w)) else some (.aandW (rd w) (ra w) (rb w))
  | 3 => if rd w = 0 then some (.aandDNoret (ra w) (rb w) (field 2 5 w)) else some (.aandD (rd w) (ra w) (rb w))
  | 4 => if rd w = 0 then some (.aorWNoret (ra w) (rb w) (field 2 5 w)) else some (.aorW (rd w) (ra w) (rb w))
  | 5 => if rd w = 0 then some (.aorDNoret (ra w) (rb w) (field 2 5 w)) else some (.aorD (rd w) (ra w) (rb w))
  | 6 => if rd w = 0 then some (.axorWNoret (ra w) (rb w) (field 2 5 w)) else some (.axorW (rd w) (ra w) (rb w))
  | 7 => if rd w = 0 then some (.axorDNoret (ra w) (rb w) (field 2 5 w)) else some (.axorD (rd w) (ra w) (rb w))
  | 8 => if rd w = 0 then some (.aminWNoret (ra w) (rb w) (field 2 5 w)) else some (.aminW (rd w) (ra w) (rb w))
  | 9 => if rd w = 0 then some (.aminDNoret (ra w) (rb w) (field 2 5 w)) else some (.aminD (rd w) (ra w) (rb w))
  | 10 => if rd w = 0 then some (.amaxWNoret (ra w) (rb w) (field 2 5 w)) else some (.amaxW (rd w) (ra w) (rb w))
  | 11 => if rd w = 0 then some (.amaxDNoret (ra w) (rb w) (field 2 5 w)) else some (.amaxD (rd w) (ra w) (rb w))
  | 12 => if rd w = 0 then some (.aminuWNoret (ra w) (rb w) (field 2 5 w)) else some (.aminuW (rd w) (ra w) (rb w))
  | 13 => if rd w = 0 then some (.aminuDNoret (ra w) (rb w) (field 2 5 w)) else some (.aminuD (rd w) (ra w) (rb w))
  | 14 => if rd w = 0 then some (.amaxuWNoret (ra w) (rb w) (field 2 5 w)) else some (.amaxuW (rd w) (ra w) (rb w))
  | 15 => if rd w = 0 then some (.amaxuDNoret (ra w) (rb w) (field 2 5 w)) else some (.amaxuD (rd w) (ra w) (rb w))
  | 16 => if rd w = 0 then some (.aswpWNoret (ra w) (rb w) (field 2 5 w)) else some (.aswpW (rd w) (ra w) (rb w))
  | 17 => if rd w = 0 then some (.aswpDNoret (ra w) (rb w) (field 2 5 w)) else some (.aswpD (rd w) (ra w) (rb w))
  | 18 => some (.acasW (rd w) (ra w) (rb w) (rf w))
  | 19 => some (.acasD (rd w) (ra w) (rb w) (rf w))
  | 20 => if rd w = 0 then some (.afaddWNoret (ra w) (rb w) (field 2 5 w)) else some (.afaddW (rd w) (ra w) (rb w))
  | 21 => some (.aincbW (rd w) (ra w) (rb w))
  | 22 => some (.aincbD (rd w) (ra w) (rb w))
  | _ => none

/-- Selector of major 0x3D (spec/05 R93 to R100). -/
noncomputable def selectStripAtomic (w : Nat) : Option Instr :=
  match w % 8 with
  | 0 => some (.aaddscan (rd w) (ra w) (rb w) (field 2 3 w))
  | 1 => some (.cmbput (rd w) (ra w) (rb w) (rf w) (field 2 3 w))
  | 2 => some (.cmbputZ (ra w) (rb w))
  | _ => none

/-- Selector of major 0x3E (spec/05 R93 to R100). -/
noncomputable def selectSync (w : Nat) : Option Instr :=
  match w % 32 with
  | 0 => some (.sbar (field 8 17 w) (field 8 9 w))
  | 1 => some (.fenceRel (field 2 5 w))
  | 2 => some (.fenceAcq (field 2 5 w))
  | 3 => some (.ldAcqW (rd w) (ra w) (field 2 5 w))
  | 4 => some (.ldAcqD (rd w) (ra w) (field 2 5 w))
  | 5 => some (.stRelW (ra w) (rb w) (field 2 5 w))
  | 6 => some (.stRelD (ra w) (rb w) (field 2 5 w))
  | 7 => some (.accw (ra w) (rb w))
  | 8 => some (.accm (ra w))
  | 9 => some (.ipost (ra w) (rb w))
  | 10 => some (.iwait (rd w) (ra w) (rb w))
  | 11 => some (.mbarArr (rd w) (ra w))
  | 12 => some (.mbarWait (ra w) (rb w))
  | 13 => some (.dbarArr (rd w) (ra w))
  | 14 => some (.dbarWait (ra w) (rb w))
  | 15 => some (.mwait (rd w) (ra w) (rb w) (rf w))
  | 16 => some (.qput (rd w) (ra w) (rb w))
  | 17 => some (.ktrig)
  | 18 => some (.sealWord)
  | 19 => some (.xhold)
  | _ => none

/-- The instruction that the major and its selector name (Table 5.9), for the majors below 0x3C; none where either is
unassigned (check 3). -/
def selectLow (w : Nat) : Option Instr :=
  match majorOf w with
  | 0x01 => selectInteger w
  | 0x02 => some (.addi (rd w) (ra w) (field 15 0 w))
  | 0x03 => some (.andi (rd w) (ra w) (field 15 0 w))
  | 0x04 => some (.ori (rd w) (ra w) (field 15 0 w))
  | 0x05 => some (.xori (rd w) (ra w) (field 15 0 w))
  | 0x06 => some (.slti (rd w) (ra w) (field 15 0 w))
  | 0x07 => some (.sltiu (rd w) (ra w) (field 15 0 w))
  | 0x08 => selectShiftImm w
  | 0x09 => some (.lhi (rd w) (field 20 0 w))
  | 0x0A => some (.lpc (rd w) (field 20 0 w))
  | 0x0B => selectFloat w
  | 0x0C => selectFused w
  | 0x10 => some (.beq (rd w) (ra w) (field 15 0 w))
  | 0x11 => some (.bne (rd w) (ra w) (field 15 0 w))
  | 0x12 => some (.blt (rd w) (ra w) (field 15 0 w))
  | 0x13 => some (.bge (rd w) (ra w) (field 15 0 w))
  | 0x14 => some (.bltu (rd w) (ra w) (field 15 0 w))
  | 0x15 => some (.bgeu (rd w) (ra w) (field 15 0 w))
  | 0x16 => some (.jal (rd w) (field 20 0 w))
  | 0x17 => some (.jalr (rd w) (ra w) (field 15 0 w))
  | 0x18 => selectLoad w
  | 0x19 => selectStore w
  | 0x1A => selectSpLoad w
  | 0x1B => selectSpStore w
  | 0x1C => selectCsr w
  | 0x1D => selectSystem w
  | 0x1E => some (.lbuf (rd w) (field 20 0 w))
  | 0x20 => some (.vlset (rd w) (ra w) (field 2 2 w) (field 2 0 w))
  | 0x21 => selectArith1 w
  | 0x22 => selectArith2 w
  | 0x23 => selectBitwise w
  | 0x24 => selectCompare w
  | 0x25 => selectMasks w
  | 0x26 => selectConvert w
  | 0x27 => selectReduce w
  | 0x28 => selectMaxIndex w
  | 0x29 => selectPermute w
  | 0x2A => selectTranscendental w
  | 0x2C => selectVectorLoad w
  | 0x2D => selectVectorStore w
  | 0x30 => selectMatrix w
  | 0x31 => selectTile w
  | 0x34 => selectDescent w
  | 0x36 => selectHeath1 w
  | 0x37 => selectHeath2 w
  | 0x38 => selectCopyBlock w
  | 0x39 => selectCopyNest w
  | 0x3A => selectCopyGather w
  | 0x3B => selectCopyGet w
  | _ => none

/-- The instruction that the major and its selector name (Table 5.9); none where either is unassigned (check 3). -/
noncomputable def selectRow (w : Nat) : Option Instr :=
  match majorOf w with
  | 0x3C => selectAtomic w
  | 0x3D => selectStripAtomic w
  | 0x3E => selectSync w
  | _ => selectLow w

/-- A field put at bit `lo` of a word. -/
def put {n : Nat} (x : BitVec n) (lo : Nat) : Nat := x.toNat * 2 ^ lo

/-- Register fields in the places of Tables 5.1, 5.2 and 5.7, and the chain bit. -/
def at20 (r : Reg) : Nat := r.toNat * 2 ^ 20
def at15 (r : Reg) : Nat := r.toNat * 2 ^ 15
def at10 (r : Reg) : Nat := r.toNat * 2 ^ 10
def at5 (r : Reg) : Nat := r.toNat * 2 ^ 5
def atC (c : Bool) : Nat := c.toNat * 2 ^ 31

/-- A word: its fixed bits and its fields. -/
def wordOf (base : Nat) (parts : List Nat) : Nat := parts.foldl (· + ·) base

/-- The word of an encoded instruction (Tables 5.1 to 5.17). Events have no word and give the all-zero word, which is
illegal (R102). -/
def encodeNat (i : Instr) : Nat :=
  match i with
  | .add d a b => wordOf 0x02000000 [at20 d, at15 a, at10 b]
  | .sub d a b => wordOf 0x02000001 [at20 d, at15 a, at10 b]
  | .and d a b => wordOf 0x02000002 [at20 d, at15 a, at10 b]
  | .or d a b => wordOf 0x02000003 [at20 d, at15 a, at10 b]
  | .xor d a b => wordOf 0x02000004 [at20 d, at15 a, at10 b]
  | .sll d a b => wordOf 0x02000005 [at20 d, at15 a, at10 b]
  | .srl d a b => wordOf 0x02000006 [at20 d, at15 a, at10 b]
  | .sra d a b => wordOf 0x02000007 [at20 d, at15 a, at10 b]
  | .slt d a b => wordOf 0x02000008 [at20 d, at15 a, at10 b]
  | .sltu d a b => wordOf 0x02000009 [at20 d, at15 a, at10 b]
  | .mul d a b => wordOf 0x0200000A [at20 d, at15 a, at10 b]
  | .mulh d a b => wordOf 0x0200000B [at20 d, at15 a, at10 b]
  | .mulhu d a b => wordOf 0x0200000C [at20 d, at15 a, at10 b]
  | .div d a b => wordOf 0x0200000D [at20 d, at15 a, at10 b]
  | .divu d a b => wordOf 0x0200000E [at20 d, at15 a, at10 b]
  | .rem d a b => wordOf 0x0200000F [at20 d, at15 a, at10 b]
  | .remu d a b => wordOf 0x02000010 [at20 d, at15 a, at10 b]
  | .min d a b => wordOf 0x02000011 [at20 d, at15 a, at10 b]
  | .max d a b => wordOf 0x02000012 [at20 d, at15 a, at10 b]
  | .minu d a b => wordOf 0x02000013 [at20 d, at15 a, at10 b]
  | .maxu d a b => wordOf 0x02000014 [at20 d, at15 a, at10 b]
  | .clz d a => wordOf 0x02000015 [at20 d, at15 a]
  | .ctz d a => wordOf 0x02000016 [at20 d, at15 a]
  | .popc d a => wordOf 0x02000017 [at20 d, at15 a]
  | .zextb d a => wordOf 0x02000018 [at20 d, at15 a]
  | .zexth d a => wordOf 0x02000019 [at20 d, at15 a]
  | .zextw d a => wordOf 0x0200001A [at20 d, at15 a]
  | .sextb d a => wordOf 0x0200001B [at20 d, at15 a]
  | .sexth d a => wordOf 0x0200001C [at20 d, at15 a]
  | .sextw d a => wordOf 0x0200001D [at20 d, at15 a]
  | .addi d a imm => wordOf 0x04000000 [at20 d, at15 a, imm.toNat]
  | .andi d a imm => wordOf 0x06000000 [at20 d, at15 a, imm.toNat]
  | .ori d a imm => wordOf 0x08000000 [at20 d, at15 a, imm.toNat]
  | .xori d a imm => wordOf 0x0A000000 [at20 d, at15 a, imm.toNat]
  | .slti d a imm => wordOf 0x0C000000 [at20 d, at15 a, imm.toNat]
  | .sltiu d a imm => wordOf 0x0E000000 [at20 d, at15 a, imm.toNat]
  | .slli d a sh => wordOf 0x10000000 [at20 d, at15 a, sh.toNat]
  | .srli d a sh => wordOf 0x10002000 [at20 d, at15 a, sh.toNat]
  | .srai d a sh => wordOf 0x10004000 [at20 d, at15 a, sh.toNat]
  | .lhi d imm => wordOf 0x12000000 [at20 d, imm.toNat]
  | .lpc d imm => wordOf 0x14000000 [at20 d, imm.toNat]
  | .fadd d a b rm => wordOf 0x16000000 [at20 d, at15 a, at10 b, put rm 5]
  | .fsub d a b rm => wordOf 0x16000001 [at20 d, at15 a, at10 b, put rm 5]
  | .fmul d a b rm => wordOf 0x16000002 [at20 d, at15 a, at10 b, put rm 5]
  | .fdiv d a b rm => wordOf 0x16000003 [at20 d, at15 a, at10 b, put rm 5]
  | .fsqrt d a rm => wordOf 0x16000004 [at20 d, at15 a, put rm 5]
  | .fmin d a b => wordOf 0x16000005 [at20 d, at15 a, at10 b]
  | .fmax d a b => wordOf 0x16000006 [at20 d, at15 a, at10 b]
  | .feq d a b => wordOf 0x16000007 [at20 d, at15 a, at10 b]
  | .flt d a b => wordOf 0x16000008 [at20 d, at15 a, at10 b]
  | .fle d a b => wordOf 0x16000009 [at20 d, at15 a, at10 b]
  | .fcvtSL d a rm => wordOf 0x1600000A [at20 d, at15 a, put rm 5]
  | .fcvtLS d a rm => wordOf 0x1600000B [at20 d, at15 a, put rm 5]
  | .fclass d a => wordOf 0x1600000C [at20 d, at15 a]
  | .fmadd d a b cc rm => wordOf 0x18000000 [at20 d, at15 a, at10 b, at5 cc, put rm 2]
  | .fmsub d a b cc rm => wordOf 0x18000001 [at20 d, at15 a, at10 b, at5 cc, put rm 2]
  | .fnmadd d a b cc rm => wordOf 0x18000002 [at20 d, at15 a, at10 b, at5 cc, put rm 2]
  | .fnmsub d a b cc rm => wordOf 0x18000003 [at20 d, at15 a, at10 b, at5 cc, put rm 2]
  | .beq a b off => wordOf 0x20000000 [at20 a, at15 b, off.toNat]
  | .bne a b off => wordOf 0x22000000 [at20 a, at15 b, off.toNat]
  | .blt a b off => wordOf 0x24000000 [at20 a, at15 b, off.toNat]
  | .bge a b off => wordOf 0x26000000 [at20 a, at15 b, off.toNat]
  | .bltu a b off => wordOf 0x28000000 [at20 a, at15 b, off.toNat]
  | .bgeu a b off => wordOf 0x2A000000 [at20 a, at15 b, off.toNat]
  | .jal d imm => wordOf 0x2C000000 [at20 d, imm.toNat]
  | .jalr d a imm => wordOf 0x2E000000 [at20 d, at15 a, imm.toNat]
  | .ldB d a st imm => wordOf 0x30000000 [at20 d, at15 a, put st 13, imm.toNat]
  | .ldH d a st imm => wordOf 0x30000800 [at20 d, at15 a, put st 13, imm.toNat]
  | .ldW d a st imm => wordOf 0x30001000 [at20 d, at15 a, put st 13, imm.toNat]
  | .ldD d a st imm => wordOf 0x30001800 [at20 d, at15 a, put st 13, imm.toNat]
  | .stB d a st imm => wordOf 0x32000000 [at20 d, at15 a, put st 13, imm.toNat]
  | .stH d a st imm => wordOf 0x32000800 [at20 d, at15 a, put st 13, imm.toNat]
  | .stW d a st imm => wordOf 0x32001000 [at20 d, at15 a, put st 13, imm.toNat]
  | .stD d a st imm => wordOf 0x32001800 [at20 d, at15 a, put st 13, imm.toNat]
  | .spldB d a st imm => wordOf 0x34000000 [at20 d, at15 a, put st 13, imm.toNat]
  | .spldH d a st imm => wordOf 0x34000800 [at20 d, at15 a, put st 13, imm.toNat]
  | .spldW d a st imm => wordOf 0x34001000 [at20 d, at15 a, put st 13, imm.toNat]
  | .spldD d a st imm => wordOf 0x34001800 [at20 d, at15 a, put st 13, imm.toNat]
  | .spstB d a st imm => wordOf 0x36000000 [at20 d, at15 a, put st 13, imm.toNat]
  | .spstH d a st imm => wordOf 0x36000800 [at20 d, at15 a, put st 13, imm.toNat]
  | .spstW d a st imm => wordOf 0x36001000 [at20 d, at15 a, put st 13, imm.toNat]
  | .spstD d a st imm => wordOf 0x36001800 [at20 d, at15 a, put st 13, imm.toNat]
  | .csrr d csr => wordOf 0x38000000 [at20 d, csr.toNat]
  | .csrw d a csr => wordOf 0x38001000 [at20 d, at15 a, csr.toNat]
  | .csrs d a csr => wordOf 0x38002000 [at20 d, at15 a, csr.toNat]
  | .csrc d a csr => wordOf 0x38003000 [at20 d, at15 a, csr.toNat]
  | .svc => 0x3A000000
  | .tret => 0x3A000001
  | .brk code => wordOf 0x3A000002 [put code 5]
  | .wfi => 0x3A000003
  | .gend => 0x3A000004
  | .lend => 0x3A000005
  | .hevict a b => wordOf 0x3A000006 [at15 a, at10 b]
  | .hrestore a b => wordOf 0x3A000007 [at15 a, at10 b]
  | .lbuf d imm => wordOf 0x3C000000 [at20 d, imm.toNat]
  | .vlset d a gc sew => wordOf 0x40000000 [at20 d, at15 a, put gc 2, sew.toNat]
  | .vadd c d a b xf k => wordOf 0x42000000 [atC c, at20 d, at15 a, at10 b, at5 xf, put k 3]
  | .vsub c d a b xf k => wordOf 0x42000001 [atC c, at20 d, at15 a, at10 b, at5 xf, put k 3]
  | .vmul c d a b xf k => wordOf 0x42000002 [atC c, at20 d, at15 a, at10 b, at5 xf, put k 3]
  | .vdiv c d a b xf k => wordOf 0x42000003 [atC c, at20 d, at15 a, at10 b, at5 xf, put k 3]
  | .vmin c d a b xf k => wordOf 0x42000004 [atC c, at20 d, at15 a, at10 b, at5 xf, put k 3]
  | .vmax c d a b xf k => wordOf 0x42000005 [atC c, at20 d, at15 a, at10 b, at5 xf, put k 3]
  | .vsqrt c d a xf k => wordOf 0x42000006 [atC c, at20 d, at15 a, at5 xf, put k 3]
  | .vabs c d a xf k => wordOf 0x42000007 [atC c, at20 d, at15 a, at5 xf, put k 3]
  | .vfma c d a b xf k => wordOf 0x44000000 [atC c, at20 d, at15 a, at10 b, at5 xf, put k 3]
  | .vfms c d a b xf k => wordOf 0x44000001 [atC c, at20 d, at15 a, at10 b, at5 xf, put k 3]
  | .vfnma c d a b xf k => wordOf 0x44000002 [atC c, at20 d, at15 a, at10 b, at5 xf, put k 3]
  | .vfnms c d a b xf k => wordOf 0x44000003 [atC c, at20 d, at15 a, at10 b, at5 xf, put k 3]
  | .vmulh c d a b xf k => wordOf 0x44000004 [atC c, at20 d, at15 a, at10 b, at5 xf, put k 3]
  | .vrem c d a b xf k => wordOf 0x44000005 [atC c, at20 d, at15 a, at10 b, at5 xf, put k 3]
  | .vneg c d a xf k => wordOf 0x44000006 [atC c, at20 d, at15 a, at5 xf, put k 3]
  | .vand c d a b xf k => wordOf 0x46000000 [atC c, at20 d, at15 a, at10 b, at5 xf, put k 3]
  | .vor c d a b xf k => wordOf 0x46000001 [atC c, at20 d, at15 a, at10 b, at5 xf, put k 3]
  | .vxor c d a b xf k => wordOf 0x46000002 [atC c, at20 d, at15 a, at10 b, at5 xf, put k 3]
  | .vnot c d a xf k => wordOf 0x46000003 [atC c, at20 d, at15 a, at5 xf, put k 3]
  | .vsll c d a b xf k => wordOf 0x46000004 [atC c, at20 d, at15 a, at10 b, at5 xf, put k 3]
  | .vsrl c d a b xf k => wordOf 0x46000005 [atC c, at20 d, at15 a, at10 b, at5 xf, put k 3]
  | .vsra c d a b xf k => wordOf 0x46000006 [atC c, at20 d, at15 a, at10 b, at5 xf, put k 3]
  | .vceq c d a b xf k => wordOf 0x48000000 [atC c, at20 d, at15 a, at10 b, at5 xf, put k 3]
  | .vcne c d a b xf k => wordOf 0x48000001 [atC c, at20 d, at15 a, at10 b, at5 xf, put k 3]
  | .vclt c d a b xf k => wordOf 0x48000002 [atC c, at20 d, at15 a, at10 b, at5 xf, put k 3]
  | .vcle c d a b xf k => wordOf 0x48000003 [atC c, at20 d, at15 a, at10 b, at5 xf, put k 3]
  | .vcgt c d a b xf k => wordOf 0x48000004 [atC c, at20 d, at15 a, at10 b, at5 xf, put k 3]
  | .vcge c d a b xf k => wordOf 0x48000005 [atC c, at20 d, at15 a, at10 b, at5 xf, put k 3]
  | .vcun c d a b xf k => wordOf 0x48000006 [atC c, at20 d, at15 a, at10 b, at5 xf, put k 3]
  | .vsel c d a b xf k => wordOf 0x4A000000 [atC c, at20 d, at15 a, at10 b, at5 xf, put k 3]
  | .kand c d a b => wordOf 0x4A000001 [atC c, at20 d, at15 a, at10 b]
  | .kor c d a b => wordOf 0x4A000002 [atC c, at20 d, at15 a, at10 b]
  | .kxor c d a b => wordOf 0x4A000003 [atC c, at20 d, at15 a, at10 b]
  | .knot c d a => wordOf 0x4A000004 [atC c, at20 d, at15 a]
  | .kpopc c d a k => wordOf 0x4A000005 [atC c, at20 d, at15 a, put k 3]
  | .kfirst c d a k => wordOf 0x4A000006 [atC c, at20 d, at15 a, put k 3]
  | .vcvt c d a xf k => wordOf 0x4C000000 [atC c, at20 d, at15 a, at5 xf, put k 3]
  | .vcvtS c d a b xf k => wordOf 0x4C000001 [atC c, at20 d, at15 a, at10 b, at5 xf, put k 3]
  | .vredsum c d a xf k => wordOf 0x4E000000 [atC c, at20 d, at15 a, at5 xf, put k 3]
  | .vredmin c d a xf k => wordOf 0x4E000001 [atC c, at20 d, at15 a, at5 xf, put k 3]
  | .vredmax c d a xf k => wordOf 0x4E000002 [atC c, at20 d, at15 a, at5 xf, put k 3]
  | .vredand c d a xf k => wordOf 0x4E000003 [atC c, at20 d, at15 a, at5 xf, put k 3]
  | .vredor c d a xf k => wordOf 0x4E000004 [atC c, at20 d, at15 a, at5 xf, put k 3]
  | .vscan c d a xf k => wordOf 0x4E000005 [atC c, at20 d, at15 a, at5 xf, put k 3]
  | .vscanx c d a xf k => wordOf 0x4E000006 [atC c, at20 d, at15 a, at5 xf, put k 3]
  | .vmaxi c d a xf k => wordOf 0x50000000 [atC c, at20 d, at15 a, at5 xf, put k 3]
  | .vmini c d a xf k => wordOf 0x50000001 [atC c, at20 d, at15 a, at5 xf, put k 3]
  | .vmaxic c d a xf k => wordOf 0x50000002 [atC c, at20 d, at15 a, at5 xf, put k 3]
  | .vperm c d a b xf k => wordOf 0x52000000 [atC c, at20 d, at15 a, at10 b, at5 xf, put k 3]
  | .vslideup c d a b xf k => wordOf 0x52000001 [atC c, at20 d, at15 a, at10 b, at5 xf, put k 3]
  | .vslidedn c d a b xf k => wordOf 0x52000002 [atC c, at20 d, at15 a, at10 b, at5 xf, put k 3]
  | .vbcast c d a xf k => wordOf 0x52000003 [atC c, at20 d, at15 a, at5 xf, put k 3]
  | .vmvxs c d a xf k => wordOf 0x52000004 [atC c, at20 d, at15 a, at5 xf, put k 3]
  | .vmvsx c d a xf k => wordOf 0x52000005 [atC c, at20 d, at15 a, at5 xf, put k 3]
  | .vcompress c d a xf k => wordOf 0x52000006 [atC c, at20 d, at15 a, at5 xf, put k 3]
  | .vid c d xf k => wordOf 0x52000007 [atC c, at20 d, at5 xf, put k 3]
  | .vexp2 c d a xf k => wordOf 0x54000000 [atC c, at20 d, at15 a, at5 xf, put k 3]
  | .vlog2 c d a xf k => wordOf 0x54000001 [atC c, at20 d, at15 a, at5 xf, put k 3]
  | .vrcp c d a xf k => wordOf 0x54000002 [atC c, at20 d, at15 a, at5 xf, put k 3]
  | .vrsqrt c d a xf k => wordOf 0x54000003 [atC c, at20 d, at15 a, at5 xf, put k 3]
  | .vld c d a st k => wordOf 0x58000000 [atC c, at20 d, at15 a, put st 8, put k 3]
  | .vlds c d a b st k => wordOf 0x58000001 [atC c, at20 d, at15 a, at10 b, put st 8, put k 3]
  | .vldx c d a b st k => wordOf 0x58000002 [atC c, at20 d, at15 a, at10 b, put st 8, put k 3]
  | .vldsp c d a st k => wordOf 0x58000003 [atC c, at20 d, at15 a, put st 8, put k 3]
  | .vldm c d a k => wordOf 0x58000004 [atC c, at20 d, at15 a, put k 3]
  | .vldxsp c d a b st k => wordOf 0x58000005 [atC c, at20 d, at15 a, at10 b, put st 8, put k 3]
  | .vst c d a st k => wordOf 0x5A000000 [atC c, at20 d, at15 a, put st 8, put k 3]
  | .vsts c d a b st k => wordOf 0x5A000001 [atC c, at20 d, at15 a, at10 b, put st 8, put k 3]
  | .vstx c d a b st k => wordOf 0x5A000002 [atC c, at20 d, at15 a, at10 b, put st 8, put k 3]
  | .vstsp c d a st k => wordOf 0x5A000003 [atC c, at20 d, at15 a, put st 8, put k 3]
  | .vstm c d a k => wordOf 0x5A000004 [atC c, at20 d, at15 a, put k 3]
  | .vstxsp c d a b st k => wordOf 0x5A000005 [atC c, at20 d, at15 a, at10 b, put st 8, put k 3]
  | .tacc c t a b xf => wordOf 0x60000000 [atC c, at20 t, at15 a, at10 b, at5 xf]
  | .taccS c t a b xf => wordOf 0x60000001 [atC c, at20 t, at15 a, at10 b, at5 xf]
  | .mzero t => wordOf 0x60000002 [at20 t]
  | .mld t a => wordOf 0x62000000 [at20 t, at15 a]
  | .mldT8 t a => wordOf 0x62000001 [at20 t, at15 a]
  | .mldT16 t a => wordOf 0x62000002 [at20 t, at15 a]
  | .mst t a => wordOf 0x62000003 [at20 t, at15 a]
  | .mcvt t xf => wordOf 0x62000004 [at20 t, at5 xf]
  | .mrowr t a b => wordOf 0x62000005 [at20 t, at15 a, at10 b]
  | .mroww t a b => wordOf 0x62000006 [at20 t, at15 a, at10 b]
  | .tdstep c d a b xf k => wordOf 0x68000000 [atC c, at20 d, at15 a, at10 b, at5 xf, put k 3]
  | .tdleaf c d a b xf k => wordOf 0x68000001 [atC c, at20 d, at15 a, at10 b, at5 xf, put k 3]
  | .tdregrp c d a b k => wordOf 0x68000002 [atC c, at20 d, at15 a, at10 b, put k 3]
  | .tdpathR c d a k => wordOf 0x68000003 [atC c, at20 d, at15 a, put k 3]
  | .tdpathW c d a k => wordOf 0x68000004 [atC c, at20 d, at15 a, put k 3]
  | .tdaddr c d a b k => wordOf 0x68000005 [atC c, at20 d, at15 a, at10 b, put k 3]
  | .hqDot a xf tag => wordOf 0x6C000000 [at20 a, at10 xf, put tag 4]
  | .hqSum a xf tag => wordOf 0x6C000001 [at20 a, at10 xf, put tag 4]
  | .hqCnt a xf tag => wordOf 0x6C000002 [at20 a, at10 xf, put tag 4]
  | .hqMax a xf tag => wordOf 0x6C000003 [at20 a, at10 xf, put tag 4]
  | .hqTop a xf tag => wordOf 0x6E000000 [at20 a, at10 xf, put tag 4]
  | .hqSes a xf tag => wordOf 0x6E000001 [at20 a, at10 xf, put tag 4]
  | .hbcast a tag => wordOf 0x6E000002 [at20 a, put tag 4]
  | .hmove a b xf tag => wordOf 0x6E000003 [at20 a, at15 b, at10 xf, put tag 4]
  | .cblkIn a b xf tag ch => wordOf 0x70000000 [at20 a, at15 b, at10 xf, put tag 4, put ch 2]
  | .cblkOut a b xf tag ch => wordOf 0x70000001 [at20 a, at15 b, at10 xf, put tag 4, put ch 2]
  | .cblkSs a b xf tag ch => wordOf 0x70000002 [at20 a, at15 b, at10 xf, put tag 4, put ch 2]
  | .cblkVv a b xf tag ch => wordOf 0x70000003 [at20 a, at15 b, at10 xf, put tag 4, put ch 2]
  | .cnestIn a b xf tag ch => wordOf 0x72000000 [at20 a, at15 b, at10 xf, put tag 4, put ch 2]
  | .cnestOut a b xf tag ch => wordOf 0x72000001 [at20 a, at15 b, at10 xf, put tag 4, put ch 2]
  | .cnestSs a b xf tag ch => wordOf 0x72000002 [at20 a, at15 b, at10 xf, put tag 4, put ch 2]
  | .cnestVv a b xf tag ch => wordOf 0x72000003 [at20 a, at15 b, at10 xf, put tag 4, put ch 2]
  | .cnestInT8 a b xf tag ch => wordOf 0x74000000 [at20 a, at15 b, at10 xf, put tag 4, put ch 2]
  | .cnestInT16 a b xf tag ch => wordOf 0x74000001 [at20 a, at15 b, at10 xf, put tag 4, put ch 2]
  | .cgathIn a b xf tag ch => wordOf 0x74000002 [at20 a, at15 b, at10 xf, put tag 4, put ch 2]
  | .cgathOut a b xf tag ch => wordOf 0x74000003 [at20 a, at15 b, at10 xf, put tag 4, put ch 2]
  | .cgetV a b tag ch => wordOf 0x76000000 [at20 a, at15 b, put tag 4, put ch 2]
  | .cgetVs a b tag ch => wordOf 0x76000001 [at20 a, at15 b, put tag 4, put ch 2]
  | .cwaitAny a => wordOf 0x76000003 [at20 a]
  | .cwaitAll a => wordOf 0x76000403 [at20 a]
  | .cfirst a b => wordOf 0x76000803 [at20 a, at15 b]
  | .cdrain ch => wordOf 0x76000C03 [put ch 2]
  | .cfence mask => wordOf 0x76001003 [put mask 4]
  | .aaddW d a b => wordOf 0x78000000 [at20 d, at15 a, at10 b]
  | .aaddWNoret a b ch => wordOf 0x78000000 [at15 a, at10 b, put ch 5]
  | .aaddD d a b => wordOf 0x78000001 [at20 d, at15 a, at10 b]
  | .aaddDNoret a b ch => wordOf 0x78000001 [at15 a, at10 b, put ch 5]
  | .aandW d a b => wordOf 0x78000002 [at20 d, at15 a, at10 b]
  | .aandWNoret a b ch => wordOf 0x78000002 [at15 a, at10 b, put ch 5]
  | .aandD d a b => wordOf 0x78000003 [at20 d, at15 a, at10 b]
  | .aandDNoret a b ch => wordOf 0x78000003 [at15 a, at10 b, put ch 5]
  | .aorW d a b => wordOf 0x78000004 [at20 d, at15 a, at10 b]
  | .aorWNoret a b ch => wordOf 0x78000004 [at15 a, at10 b, put ch 5]
  | .aorD d a b => wordOf 0x78000005 [at20 d, at15 a, at10 b]
  | .aorDNoret a b ch => wordOf 0x78000005 [at15 a, at10 b, put ch 5]
  | .axorW d a b => wordOf 0x78000006 [at20 d, at15 a, at10 b]
  | .axorWNoret a b ch => wordOf 0x78000006 [at15 a, at10 b, put ch 5]
  | .axorD d a b => wordOf 0x78000007 [at20 d, at15 a, at10 b]
  | .axorDNoret a b ch => wordOf 0x78000007 [at15 a, at10 b, put ch 5]
  | .aminW d a b => wordOf 0x78000008 [at20 d, at15 a, at10 b]
  | .aminWNoret a b ch => wordOf 0x78000008 [at15 a, at10 b, put ch 5]
  | .aminD d a b => wordOf 0x78000009 [at20 d, at15 a, at10 b]
  | .aminDNoret a b ch => wordOf 0x78000009 [at15 a, at10 b, put ch 5]
  | .amaxW d a b => wordOf 0x7800000A [at20 d, at15 a, at10 b]
  | .amaxWNoret a b ch => wordOf 0x7800000A [at15 a, at10 b, put ch 5]
  | .amaxD d a b => wordOf 0x7800000B [at20 d, at15 a, at10 b]
  | .amaxDNoret a b ch => wordOf 0x7800000B [at15 a, at10 b, put ch 5]
  | .aminuW d a b => wordOf 0x7800000C [at20 d, at15 a, at10 b]
  | .aminuWNoret a b ch => wordOf 0x7800000C [at15 a, at10 b, put ch 5]
  | .aminuD d a b => wordOf 0x7800000D [at20 d, at15 a, at10 b]
  | .aminuDNoret a b ch => wordOf 0x7800000D [at15 a, at10 b, put ch 5]
  | .amaxuW d a b => wordOf 0x7800000E [at20 d, at15 a, at10 b]
  | .amaxuWNoret a b ch => wordOf 0x7800000E [at15 a, at10 b, put ch 5]
  | .amaxuD d a b => wordOf 0x7800000F [at20 d, at15 a, at10 b]
  | .amaxuDNoret a b ch => wordOf 0x7800000F [at15 a, at10 b, put ch 5]
  | .aswpW d a b => wordOf 0x78000010 [at20 d, at15 a, at10 b]
  | .aswpWNoret a b ch => wordOf 0x78000010 [at15 a, at10 b, put ch 5]
  | .aswpD d a b => wordOf 0x78000011 [at20 d, at15 a, at10 b]
  | .aswpDNoret a b ch => wordOf 0x78000011 [at15 a, at10 b, put ch 5]
  | .acasW d a b cmp => wordOf 0x78000012 [at20 d, at15 a, at10 b, at5 cmp]
  | .acasD d a b cmp => wordOf 0x78000013 [at20 d, at15 a, at10 b, at5 cmp]
  | .afaddW d a b => wordOf 0x78000014 [at20 d, at15 a, at10 b]
  | .afaddWNoret a b ch => wordOf 0x78000014 [at15 a, at10 b, put ch 5]
  | .aincbW d a b => wordOf 0x78000015 [at20 d, at15 a, at10 b]
  | .aincbD d a b => wordOf 0x78000016 [at20 d, at15 a, at10 b]
  | .aaddscan d a b k => wordOf 0x7A000000 [at20 d, at15 a, at10 b, put k 3]
  | .cmbput d a b xf k => wordOf 0x7A000001 [at20 d, at15 a, at10 b, at5 xf, put k 3]
  | .cmbputZ a b => wordOf 0x7A000002 [at15 a, at10 b]
  | .sbar pre post => wordOf 0x7C000000 [put pre 17, put post 9]
  | .fenceRel sc => wordOf 0x7C000001 [put sc 5]
  | .fenceAcq sc => wordOf 0x7C000002 [put sc 5]
  | .ldAcqW d a sc => wordOf 0x7C000003 [at20 d, at15 a, put sc 5]
  | .ldAcqD d a sc => wordOf 0x7C000004 [at20 d, at15 a, put sc 5]
  | .stRelW a b sc => wordOf 0x7C000005 [at15 a, at10 b, put sc 5]
  | .stRelD a b sc => wordOf 0x7C000006 [at15 a, at10 b, put sc 5]
  | .accw a b => wordOf 0x7C000007 [at15 a, at10 b]
  | .accm a => wordOf 0x7C000008 [at15 a]
  | .ipost a b => wordOf 0x7C000009 [at15 a, at10 b]
  | .iwait d a b => wordOf 0x7C00000A [at20 d, at15 a, at10 b]
  | .mbarArr d a => wordOf 0x7C00000B [at20 d, at15 a]
  | .mbarWait a b => wordOf 0x7C00000C [at15 a, at10 b]
  | .dbarArr d a => wordOf 0x7C00000D [at20 d, at15 a]
  | .dbarWait a b => wordOf 0x7C00000E [at15 a, at10 b]
  | .mwait d a b tmo => wordOf 0x7C00000F [at20 d, at15 a, at10 b, at5 tmo]
  | .qput d a b => wordOf 0x7C000010 [at20 d, at15 a, at10 b]
  | .ktrig => 0x7C000011
  | .sealWord => 0x7C000012
  | .xhold => 0x7C000013
  | .slabCycle _ => 0
  | .strandOverdue _ => 0
  | .timerTrap _ => 0
  | .wfiWake _ => 0
  | .trcctlMark _ _ => 0
  | .trcctlCopy _ => 0
  | .trcctlClr _ => 0
  | .registerWrite _ _ => 0
  | .barrierConfigWrite _ _ => 0
  | .ringConfigWrite _ _ _ _ => 0
  | .hberrClear _ _ => 0
  | .editPortWrite _ _ _ _ _ _ => 0
  | .shootDown _ _ _ _ => 0
  | .tlbParityRefetch _ _ _ => 0
  | .copyLand _ _ => 0
  | .copyFault _ _ => 0
  | .copySourceError _ _ _ => 0
  | .copySourcePoison _ _ => 0
  | .atomicResponse _ => 0
  | .noreturnAtomicPerform _ _ => 0
  | .cmbputPerform _ => 0
  | .heathSlotCheck _ _ => 0
  | .heathPass1Done _ _ => 0
  | .heathBankError _ _ _ => 0
  | .heathReply _ _ => 0
  | .hbcastLand _ _ => 0
  | .hmoveDone _ _ _ => 0
  | .hevictDone _ => 0
  | .hrestoreDone _ => 0
  | .barrierTimeout _ => 0
  | .iwaitTimeout _ => 0
  | .mwaitTimeout _ => 0
  | .walkerPlace => 0
  | .preemptRequest _ _ => 0
  | .preemptSaveDone _ => 0
  | .laneReclaimRequest _ _ => 0
  | .reclaimTimeout _ => 0
  | .laneWaitReturn _ => 0
  | .groupRestore _ => 0
  | .ueConsumed _ _ _ _ _ => 0
  | .scrubberVisit _ _ _ => 0
  | .sealTimer => 0
  | .sealRequest _ => 0
  | .sealPrepare _ => 0
  | .sealResume => 0
  | .sealImagesDone => 0
  | .sealReady _ => 0
  | .sealCommit _ => 0
  | .sealAbort => 0
  | .sealReadyTimeout => 0
  | .coordinatorTimeout => 0
  | .rollback _ => 0
  | .initialSeal => 0
  | .snapshotStreamEnd => 0
  | .jeoreAck _ _ => 0
  | .jeoreNak _ _ => 0
  | .jeoreFlitBad _ => 0
  | .jeoreRemoteWrite _ _ _ _ _ => 0
  | .jeoreAtomicRequest _ _ _ _ _ _ _ _ => 0
  | .jeoreAtomicResponse _ _ _ => 0
  | .jeoreCopyReadRequest _ _ _ => 0
  | .jeoreCopyReadData _ _ _ => 0
  | .linkTrainingComplete _ _ => 0
  | .linkTrainingTimeout _ => 0
  | .linkLaneLost _ => 0
  | .hostLinkDown => 0
  | .hostLinkUp => 0
  | .moduleBoot _ _ => 0
  | .unitStart _ => 0
  | .matrixIdle _ => 0
  | .heathGovernorWindow _ => 0
  | .thermalThrottle => 0
  | .thermalShutdown => 0
  | .commandReply _ => 0
  | .identify _ => 0
  | .attest _ _ _ _ => 0
  | .createContext _ _ => 0
  | .destroyContext _ _ => 0
  | .stopContext _ _ => 0
  | .resumeContext _ _ => 0
  | .mapPages _ _ => 0
  | .unmapPages _ _ _ _ => 0
  | .hostImport _ _ _ _ _ => 0
  | .hostExport _ _ _ _ _ => 0
  | .runRoot _ _ _ => 0
  | .snapshot _ _ => 0
  | .restoreModule _ => 0
  | .readDump _ _ _ _ _ => 0
  | .configureLinks _ _ => 0
  | .configureManagement _ _ => 0
  | .resetFunction _ => 0
  | .resetModule _ => 0
  | .cmdregWrite _ _ _ _ _ => 0
  | .scratchpadBankWake _ _ => 0
  | .copyPerformed _ _ => 0
  | .replayStart => 0
  | .testServiceSet _ => 0

/-- The encoder: the word of a well-formed instruction. -/
def encode (i : Instr) : W32 := BitVec.ofNat 32 (encodeNat i)

/-- Vector-class majors, 0x20 to 0x35 (R29 rule 2). -/
def vectorClass (w : Nat) : Bool := decide (0x20 ≤ majorOf w) && decide (majorOf w ≤ 0x35)

/-- Words that stand alone although vector-class: `vlset`, `mzero` and major 0x31 (R91 kind A). -/
def aloneClass (w : Nat) : Bool :=
  decide (majorOf w = 0x20) || decide (majorOf w = 0x31) || (decide (majorOf w = 0x30) && decide (w % 8 = 2))

/-- A word that may carry C = 1 (R29 rules 2 and 3). -/
def mayChain (w : Nat) : Bool := vectorClass w && !aloneClass w

/-- A channel mask of 0 in `cfence` is illegal with subcode 1 (R211). -/
def zeroFence (i : Instr) : Bool :=
  match i with
  | .cfence m => decide (m = 0)
  | _ => false

/-- Checks 3 and 4 of Table 5.19 on a selected row: a word's reserved bits and unused fields are zero exactly when it is the
word that its fields encode. -/
def checkRow (w : Nat) (row : Option Instr) : Except DecodeError Instr :=
  match row with
  | none => .error .undefined
  | some i => if encodeNat i = w ∧ zeroFence i = false then .ok i else .error .reserved

/-- Checks 2 to 4 of Table 5.19 on one word: framing of its own C bit, its selector, its reserved bits. -/
noncomputable def decodeRaw (w : W32) : Except DecodeError Instr :=
  if chained w.toNat && !mayChain w.toNat then .error .framing else checkRow w.toNat (selectRow w.toNat)

/-- The same for a word that may chain (R29 rule 2), checks 3 and 4 alone. -/
def decodeMember (w : W32) : Except DecodeError Instr := checkRow w.toNat (selectLow w.toNat)

/-- The decoder: `decodeRaw`, then the register fields (check 6). -/
noncomputable def decode (w : W32) : Except DecodeError Instr :=
  match decodeRaw w with
  | .error e => .error e
  | .ok i => if i.wf then .ok i else .error .badField

/-- A word from its four bytes, little-endian (R86). -/
def wordOfBytes (b0 b1 b2 b3 : Byte) : W32 :=
  BitVec.ofNat 32 (b0.toNat + b1.toNat * 2 ^ 8 + b2.toNat * 2 ^ 16 + b3.toNat * 2 ^ 24)

/-- The decoder on a list of bytes: the instruction and the bytes behind it. -/
noncomputable def decodeBytes (bs : List Byte) : Option (Instr × List Byte) :=
  match bs with
  | b0 :: b1 :: b2 :: b3 :: rest =>
    match decode (wordOfBytes b0 b1 b2 b3) with
    | .ok i => some (i, rest)
    | .error _ => none
  | _ => none

/-- The four bytes of a table word, lowest address first (R86); bits above `nbits` are zero. -/
def tableBytes (nbits w : Nat) : List Byte :=
  let v := w % 2 ^ nbits
  [BitVec.ofNat 8 v, BitVec.ofNat 8 (v / 2 ^ 8), BitVec.ofNat 8 (v / 2 ^ 16), BitVec.ofNat 8 (v / 2 ^ 24)]

/-- The instruction that the decoder reads from a word numbered as the opcode table numbers it. Its register fields are checked when
it dispatches (checks 5 and 6 of Table 5.19). -/
noncomputable def decodeTableWord (nbits w : Nat) : Option Instr :=
  match tableBytes nbits w with
  | [b0, b1, b2, b3] =>
    match decodeRaw (wordOfBytes b0 b1 b2 b3) with
    | .ok i => some i
    | .error _ => none
  | _ => none

end Sys2Proof
end

