-- ==== Sys2Proof/Machine/Convoy.lean ====
section
/-! DEFINITION. What a member of a convoy is, the dispatch checks on members, and the slab step (spec/02 R29 to R37;
spec/05 Table 5.19; spec/07 R135 to R142). -/

namespace Sys2Proof.Machine

/-- Convoy kinds of vector-class members that may share a convoy (R91). -/
inductive MKind where
  | elementwise | permute | last
  deriving DecidableEq, Repr

/-- One slab step as a member sees it: its elements [lo, hi), whether it is the convoy's last, the format word, the mask
field, the member's number among the indexed ones, and whether only indexed members keep their effects (R36). -/
structure StepCtx where
  lo : Nat
  hi : Nat
  last : Bool
  fmt : Fmt
  k : BitVec 2
  idx : Nat
  keep : Bool

/-- The registers that a member reads and writes in a step (R142): vector registers, masks and tiles. -/
structure Touch where
  rv : List Nat := []
  wv : List Nat := []
  rk : List Nat := []
  wk : List Nat := []
  rt : List Nat := []
  wt : List Nat := []

/-- What stops a step: at an element, a trap or a wait. -/
abbrev StepStop := Nat × Stop

/-- An operand of a member: its field, its container width, and whether it is single (R135). -/
structure Operand where
  m : Reg
  width : Nat
  single : Bool

/-- A member: what the dispatch checks need, what it reads when its convoy dispatches, its part of a slab step, and the vector registers
that it touches there where they are not those of its active elements. -/
structure Member where
  kind : MKind
  k : BitVec 2 := 0
  rule5 : Bool := false
  matrix : Bool := false
  tile : Option Reg := none
  sewOk : Nat → Bool := fun _ => true
  fmtReg : Option Reg := none
  fmtOk : Nat → Fmt → Bool := fun _ _ => true
  reads : Nat → Fmt → List Operand := fun _ _ => []
  writes : Nat → Fmt → List Operand := fun _ _ => []
  extraOk : Nat → Nat → Fmt → Bool := fun _ _ _ => true
  moreReads : Nat → Nat → Fmt → List Nat := fun _ _ _ => []
  maskReads : List Nat := []
  maskWrites : List Nat := []
  tileWrites : Bool := false
  indexed : Bool := false
  onDispatch : Fmt → Work → Except Stop (List (Nat × Nat)) := fun _ _ => .ok []
  readsAt : Option (StepCtx → Strand → List Nat) := none
  writesAt : Option (StepCtx → Strand → List Nat) := none
  perform : StepCtx → Work → Except StepStop Work

/-- The registers that an operand spans: s = G × w / SEW, at least 1 (R89). -/
def Operand.span (o : Operand) (sew grp : Nat) : Nat := if o.single then 1 else max 1 (grp * o.width / sew)

def Operand.regs (o : Operand) (sew grp : Nat) : List Nat := fromTo o.m.toNat (o.m.toNat + o.span sew grp)

/-- Check 11: a multiple of the span, not past v31. -/
def Operand.spanOk (o : Operand) (sew grp : Nat) : Bool :=
  let s := o.span sew grp
  decide (o.m.toNat % s = 0) && decide (o.m.toNat + s ≤ 32)

def regsOf (l : List Operand) (sew grp : Nat) : List Nat := l.flatMap fun o => o.regs sew grp
def meets (a b : List Nat) : Bool := a.any fun x => b.contains x

/-- The mask registers that a member reads, its mask field among them. -/
def Member.masks (m : Member) : List Nat := (m.k.toNat :: m.maskReads).filter fun i => decide (i ≠ 0)

/-- A member with the word it came from and its format word. -/
structure Placed where
  member : Member
  word : W32
  fw : W64
  fmt : Fmt
  addr : W64

/-- The vector registers that a member reads and writes. -/
def Placed.readRegs (p : Placed) (sew grp : Nat) : List Nat :=
  regsOf (p.member.reads sew p.fmt) sew grp ++ p.member.moreReads sew grp p.fmt
def Placed.writeRegs (p : Placed) (sew grp : Nat) : List Nat := regsOf (p.member.writes sew p.fmt) sew grp

/-- Checks 7 to 12 of Table 5.19 on one member, given the vector and mask registers that earlier members write. DESIGN CHOICE (log 54): the
widths that a word demands beside its formats (R181) are judged between checks 9 and 10, overlap and scale registers (R139) after 11. -/
def checkMember (s : Strand) (p : Placed) (earlier earlierK : List Nat) : Option Trap :=
  let m := p.member
  let word : W64 := zext p.word
  let ill := fun (sub : Nat) (v : W64) => some (⟨1, sub, v⟩ : Trap)
  let sew := s.sew
  let grp := s.grp
  if s.unset then ill 6 word
  else if m.matrix && s.g.nomx then some ⟨8, 0, word⟩
  else if (match m.tile with
      | some t => decide (s.g.tiles.length ≤ t.toNat)
      | none => false) then ill 7 word
  else if !m.sewOk sew then ill 6 word
  else if m.fmtReg.isSome && !m.fmtOk sew p.fmt then ill 5 p.fw
  else if !((m.reads sew p.fmt ++ m.writes sew p.fmt).all fun o => o.spanOk sew grp) then ill 4 word
  else if !m.extraOk sew grp p.fmt then ill 4 word
  else if m.rule5 && (meets (p.readRegs sew grp) earlier || meets m.masks earlierK) then some ⟨1, 2, p.addr⟩
  else none

/-- Bits set in a live-in or first-written vector (R142). -/
def orBits {n : Nat} (b : BitVec n) (l : List Nat) : BitVec n := l.foldl (fun x i => x ||| BitVec.ofNat n (2 ^ i)) b
def anyBit {n : Nat} (b : BitVec n) (l : List Nat) : Bool := l.any fun i => b.getLsbD i

/-- R142 for one member: registers read before they are written get their live-in bit; a write to a live-in register
drains the held stores and ends buffering (Table 7.3). -/
def Work.touchRegs (w : Work) (rv wv rk wk rt wt : List Nat) : Work :=
  let k := w.upd fun s =>
    { s with
      liveV := orBits s.liveV (rv.filter fun i => !s.wrV.getLsbD i),
      liveK := orBits s.liveK (rk.filter fun i => !s.wrK.getLsbD i),
      liveT := orBits s.liveT (rt.filter fun i => !s.wrT.getLsbD i) }
  let k1 :=
    if k.cur.buffering && (anyBit k.cur.liveV wv || anyBit k.cur.liveK wk || anyBit k.cur.liveT wt) then k.drain else k
  k1.upd fun s => { s with wrV := orBits s.wrV wv, wrK := orBits s.wrK wk, wrT := orBits s.wrT wt }

/-- The active elements of a step for a mask (R136). -/
def StepCtx.active (c : StepCtx) (s : Strand) : List Nat := (fromTo c.lo c.hi).filter fun i => (s.rk c.k).getLsbD i

/-- The done mask of an indexed member (R36). -/
def Strand.isDone (s : Strand) (n i : Nat) : Bool := (s.done.getD n 0).getLsbD i
def Strand.setDone (s : Strand) (n i : Nat) : Strand :=
  if h : n < 4 then { s with done := s.done.set n (setMaskBit (s.done[n]) i true) h } else s

/-- The elements that a member performs in a step: the active ones, less those that an indexed member has done (R36). -/
def Member.todo (m : Member) (c : StepCtx) (s : Strand) : List Nat :=
  if m.indexed then (c.active s).filter fun i => !s.isDone c.idx i else c.active s

/-- The registers where elements of an operand lie (R135). -/
def Operand.at (o : Operand) (s : Strand) (l : List Nat) : List Nat :=
  if l.isEmpty then [] else if o.single then [o.m.toNat] else l.map fun i => (elementAt s.wg o.m.toNat o.width i).1

/-- What a member touches in a step (R142): registers that hold elements it performs, and no others. -/
def Placed.touch (p : Placed) (c : StepCtx) (s : Strand) : Touch :=
  let m := p.member
  let l := m.todo c s
  let tiles := match m.tile with
    | some t => [t.toNat]
    | none => []
  let some' := fun (r : List Nat) => if l.isEmpty then [] else r
  { rv := match m.readsAt with
      | some f => f c s
      | none => ((m.reads s.sew p.fmt).flatMap fun o => o.at s l) ++ some' (m.moreReads s.sew s.grp p.fmt),
    wv := match m.writesAt with
      | some f => f c s
      | none => (m.writes s.sew p.fmt).flatMap fun o => o.at s l,
    rk := if c.lo < c.hi then m.masks else [], wk := some' m.maskWrites, rt := tiles, wt := if m.tileWrites then tiles else [] }

/-- The live-in bits of a member's step. -/
def Work.touchMember (w : Work) (p : Placed) (c : StepCtx) : Work :=
  let x := p.touch c w.cur
  w.touchRegs x.rv x.wv x.rk x.wk x.rt x.wt

/-- A fold over elements that may stop. -/
def eachEl (f : Work → Nat → Except Stop Work) (w : Work) (l : List Nat) : Except StepStop Work :=
  match l with
  | [] => .ok w
  | i :: rest =>
    match f w i with
    | .error e => .error (i, e)
    | .ok k => eachEl f k rest

/-- The members of a step in order, each on what those before it left (R31, R34). `n` counts the indexed members. -/
def performAll (l : List Placed) (lo hi : Nat) (last : Bool) (n : Nat) (w : Work) : Except (StepStop × Bool) Work :=
  match l with
  | [] => .ok w
  | p :: rest =>
    let c : StepCtx := ⟨lo, hi, last, p.fmt, p.member.k, n, false⟩
    match p.member.perform c (w.touchMember p c) with
    | .error e => .error (e, p.member.indexed)
    | .ok k => performAll rest lo hi last (if p.member.indexed then n + 1 else n) k

/-- The lowest faulting element over all members, in ascending element order (R36, R162): the step is tried on one element
after the other. `fuel` counts them. DEDUCED (log 67): of two members the one whose element is lower is reported, the first where both stop
at one element. -/
def firstFault (l : List Placed) (lo hi : Nat) (last : Bool) (w : Work) (fuel : Nat) : Option (StepStop × Bool) :=
  match fuel with
  | 0 => none
  | k + 1 =>
    match performAll l lo hi last 0 w with
    | .ok _ => none
    | .error e =>
      -- an earlier element of another member may fault too
      if lo < e.1.1 then
        match firstFault l lo e.1.1 false w k with
        | some e' => some e'
        | none => some e
      else some e

/-- Done bits of a mask for the elements of a list. -/
def markDone (d : VReg) (l : List Nat) : VReg := l.foldl (fun x i => setMaskBit x i true) d

/-- What an indexed member keeps of the elements that it has performed (R36): the elements it wrote, as it wrote them, its done mask,
its stores, and the flags of its window additions. `before` and `after` are the strand around its part of the step. -/
def Placed.keep (p : Placed) (c : StepCtx) (before after kept : Strand) : Strand :=
  let l := p.member.todo c before
  let k := (p.member.writes before.sew p.fmt).foldl (fun k o =>
    l.foldl (fun k i => k.setElt o.m o.width i (after.elt o.m o.width i)) k) kept
  { k with done := after.done, buf := after.buf, buffering := after.buffering, pend := after.pend, window := after.window,
           fflags := k.fflags ||| after.fflags }

/-- The members of a step performed on [lo, f) for what its indexed members keep: `w` as each member sees it, `kept` what stays. -/
def performKept (l : List Placed) (lo f n : Nat) (w : Work) (kept : Strand) : Work × Strand :=
  match l with
  | [] => (w, kept)
  | p :: rest =>
    let c : StepCtx := ⟨lo, f, false, p.fmt, p.member.k, n, true⟩
    let w0 := w.upd fun s => { s with fflags := 0 }
    match p.member.perform c w0 with
    | .error _ => (w, kept)
    | .ok k =>
      if p.member.indexed then performKept rest lo f (n + 1) k (p.keep c w0.cur k.cur kept) else performKept rest lo f n k kept

/-- The effects of the elements below `f` that indexed members keep when a step traps; everything else of the step is discarded
(R35, R36). -/
def keptEffects (l : List Placed) (lo f : Nat) (w : Work) : Work :=
  if (l.all fun p => !p.member.indexed) ∨ f ≤ lo then w
  else
    let (k, s) := performKept l lo f 0 w w.cur
    { k with st := { k.st with strand := s } }

/-- The resumption of a step (R128): a `vstart` inside the step marks the elements below it as done in every indexed
member's mask; outside it is replaced by the step's first element. -/
def Strand.resume (s : Strand) (e : Nat) : Strand :=
  let lo := s.vslab.toNat * e
  let vs := s.vstart.toNat
  if lo ≤ vs ∧ vs < lo + e then
    { s with done := s.done.map fun d => markDone d (fromTo lo vs) }
  else { s with vstart := BitVec.ofNat 64 lo }

/-- The end of a convoy (R34): `vslab`, `vstart`, the carry and the done masks clear, and the strand goes on. -/
def Work.endConvoy (w : Work) (words : Nat) : Work :=
  (w.upd fun s => { s with vslab := 0, vstart := 0, carry := .none, done := Vector.replicate 4 0, snap := none }).retireTo
    (w.cur.pc + BitVec.ofNat 64 (4 * words))

/-- Pipe events of a member (R367): KIND 10 with its first step, KIND 11 with its last; `pipe` by its major. -/
def pipeOf (word : W32) (fmt : Fmt) : Nat :=
  match word.toNat / 2 ^ 25 % 64 with
  | 0x2C => 3
  | 0x2D => 4
  | 0x29 => 5
  | 0x2A => 6
  | 0x30 => 7
  | 0x34 => 8
  | _ => if fmt.srcA.isFloat || fmt.dst.isFloat then 2 else 1

def Work.tracePipes (w : Work) (l : List Placed) (kind step : Nat) : Work :=
  l.zipIdx.foldl (fun (k : Work) (p : Placed × Nat) =>
    k.mod fun s => s.pipeEvent kind (pipeOf p.1.word p.1.fmt) p.2 step w.cur.pc) w

/-- The KIND 3 records of the vector memory members (Table 20.2). -/
def Work.traceVectorMem (w : Work) (l : List Placed) : Work :=
  l.foldl (fun k p =>
    let n := p.word.toNat
    let maj := n / 2 ^ 25 % 64
    if maj = 0x2C ∨ maj = 0x2D then
      k.trace 3 (w.cur.vl.toNat % 2 ^ 16 + n % 8 * 2 ^ 16 + (maj - 0x2C) * 2 ^ 19 + bitsAt n 8 2 * 2 ^ 20)
        (w.cur.rx (BitVec.ofNat 5 (bitsAt n 15 5)))
    else k) w

/-- Copies in flight whose vector group, as their `cget` dispatched, a member names (R203). -/
def State.getBlockers (s : State) (regs : List Nat) : List Nat :=
  (s.cmds.filter fun c =>
    decide (c.gid = s.strand.g.gid) && decide (c.sidx = s.strand.sidx) &&
    (match c.body with
     | .copy _ (.get _ vd _ _ _ grp) _ _ stage =>
       decide (stage ≠ .landed) && meets (fromTo vd (vd + grp)) regs
     | _ => false)).map (·.uid)

/-- What members read when their convoy dispatches, the first member first, or what stops it (R179, R184). -/
def dispatchReads (l : List Placed) (w : Work) : Except Stop (List (Nat × Nat)) :=
  match l with
  | [] => .ok []
  | p :: rest =>
    match p.member.onDispatch p.fmt w with
    | .error e => .error e
    | .ok x =>
      match dispatchReads rest w with
      | .error e => .error e
      | .ok y => .ok (x ++ y)

/-- A step opened: traced where the convoy dispatches with it (R363, R367), its resumption point set (R128), and what the convoy keeps from its
dispatch stored (R30, R33). -/
def Work.openStep (w0 : Work) (l : List Placed) (trees : List (Nat × Nat)) : Work :=
  let s0 := w0.cur
  let e := s0.epr s0.sew
  let step := s0.vslab.toNat
  let w1 := if s0.snap.isNone then (w0.traceVectorMem l).tracePipes l 10 step else w0
  w1.upd fun s =>
    let r := s.resume e
    if r.snap.isNone then { r with snap := some ⟨l.map (·.word), r.x, r.v, trees⟩ } else r

/-- A step whose members are performed: the convoy's end, or the next step (R34). -/
def Work.closeStep (k : Work) (l : List Placed) (step e : Nat) (last : Bool) : Work :=
  if last then (k.tracePipes l 11 step).endConvoy l.length
  else k.upd fun s =>
    { s with vslab := BitVec.ofNat 64 (step + 1), vstart := BitVec.ofNat 64 ((step + 1) * e),
             done := Vector.replicate 4 0, waiting := .none, started := true }

/-- The state with empty logs and an empty hold. -/
def State.roomy (s : State) : State := { s with undoF := [], undoH := [], hold := [] }

/-- The wait of a step for a log or for the hold, for all that the step stores: `all` is the step as it would go with room (R280, R328). -/
def Wait.whole (k : Wait) (before : Strand) (all : Except (StepStop × Bool) Work) : Wait :=
  match k, all with
  | .log heath va _, .ok w =>
    let held := (w.cur.buf.drop before.buf.length).flatMap fun e => e.st.lines heath
    .log heath va (w.ws.flatMap (Write.lines (if heath then .hm else .fm)) ++ held).eraseDups
  | .holdFull _, .ok w => .holdFull w.st.holdBytes
  | k, _ => k

/-- A step that stops: the strand waits, or its trap is taken with the step discarded but for what indexed members keep. `vstart` names the
lowest element that the faulting indexed member has not done, or the step's first (R35, R36). -/
def Work.stopStep (w : Work) (l : List Placed) (lo hi : Nat) (last : Bool) (step : Nat) (e : StepStop × Bool) : Work :=
  match e.1.2 with
  | .wait k => w.wait (k.whole w.cur (performAll l lo hi last 0 { w with st := w.st.roomy }))
  | .trap t =>
    ((keptEffects l lo e.1.1 w).upd fun s =>
      { s with vslab := BitVec.ofNat 64 step, vstart := BitVec.ofNat 64 (if e.2 then e.1.1 else lo) }).takeTrap false t

/-- One slab step of a convoy that has passed the checks of one member after the other (R34 to R36). -/
def runStep (l : List Placed) (w0 : Work) : Work :=
  let s0 := w0.cur
  let e := s0.epr s0.sew
  let vl := s0.vl.toNat
  let steps := (vl + e - 1) / e
  let step := s0.vslab.toNat
  let blockers := w0.st.getBlockers (l.flatMap fun p => p.readRegs s0.sew s0.grp ++ p.writeRegs s0.sew s0.grp)
  if !blockers.isEmpty then w0.wait (.cmds blockers)
  else if e = 0 ∨ steps ≤ step then (if s0.snap.isNone then w0.traceVectorMem l else w0).endConvoy l.length
  else
    match if s0.snap.isNone then dispatchReads l w0 else .ok [] with
    | .error x => w0.stopStep [] (step * e) (step * e) false step ((step * e, x), false)
    | .ok trees =>
      let w2 := w0.openStep l trees
      let lo := step * e
      let hi := min vl (lo + e)
      let last := decide (steps ≤ step + 1)
      match performAll l lo hi last 0 w2 with
      | .ok k => k.closeStep l step e last
      | .error _ =>
        match firstFault l lo hi last w2 (hi - lo + 1) with
        | some x => w2.stopStep l lo hi last step x
        | none => w2

end Sys2Proof.Machine
end

