-- ==== Sys2Proof/Machine/VecArith.lean ====
section
/-! DEFINITION. Members of majors 0x21 to 0x23: vector arithmetic, bitwise words and shifts (spec/07 R137, R138, R145 to R148,
Tables 7.1 and 7.5). -/

namespace Sys2Proof.Machine

/-! ### Accepted descriptors (Table 7.1) -/

/-- Any class, of width `w`. -/
def Desc.at (d : Desc) (w : Nat) : Bool := d.valid && decide (d.width = w)
/-- Any class, of width SEW or SEW/2. -/
def Desc.atHalf (d : Desc) (sew : Nat) : Bool := d.valid && (decide (d.width = sew) || decide (2 * d.width = sew))
/-- Any class, of width `lo` to 64. -/
def Desc.within (d : Desc) (lo : Nat) : Bool := d.valid && decide (lo ≤ d.width) && decide (d.width ≤ 64)
/-- RM, SAT and SC zero. -/
def Fmt.bare (f : Fmt) : Bool := !f.sc && !f.sat && decide (f.rm = 0)

def okBinary (sew : Nat) (f : Fmt) : Bool := f.srcA.atHalf sew && f.srcB.atHalf sew && f.dst.at sew && !f.sc
def okUnary (sew : Nat) (f : Fmt) : Bool := f.srcA.atHalf sew && f.srcB.isZero && f.dst.at sew && !f.sc
def okRawBinary (sew : Nat) (f : Fmt) : Bool :=
  f.srcA.at sew && f.srcB.at sew && f.dst.at sew && f.srcA.isInt && f.srcB.isInt && f.dst.isInt && f.bare
def okRawUnary (sew : Nat) (f : Fmt) : Bool :=
  f.srcA.at sew && f.srcB.isZero && f.dst.at sew && f.srcA.isInt && f.dst.isInt && f.bare

/-! ### Elementwise members -/

/-- A vector operand spread over the elements. -/
def group (m : Reg) (width : Nat) : Operand := ⟨m, width, false⟩
/-- A single operand (R135). -/
def single (m : Reg) (width : Nat) : Operand := ⟨m, width, true⟩

/-- A result of element i with its flags. -/
def Work.setElt (w : Work) (m : Reg) (width i : Nat) (r : Nat × Flags) : Work :=
  w.upd fun s => (s.setElt m width i r.1).raise r.2

/-- An elementwise member over a source, a second source where `useB`, and the old destination where `old`; it writes the code that `code`
gives for their codes, at each active element (R136, R139). DESIGN CHOICE (log 81): the elements of a step are computed and written in
order, so that where a wider destination overlaps a narrower source the later ones read what the earlier ones have written. -/
def mapMember (d a b : Reg) (useB old : Bool) (xf : Reg) (k : BitVec 2) (ok : Nat → Fmt → Bool)
    (code : Fmt → Nat → Nat → Nat → Nat × Flags) : Member :=
  { kind := .elementwise, k := k, fmtReg := some xf, fmtOk := ok,
    reads := fun _ f =>
      group a f.srcA.width ::
        ((if useB then [group b f.srcB.width] else []) ++ (if old then [group d f.dst.width] else [])),
    writes := fun _ f => [group d f.dst.width],
    perform := fun c w =>
      eachEl (fun w i =>
        let s := w.cur
        .ok (w.setElt d c.fmt.dst.width i
          (code c.fmt (s.elt a c.fmt.srcA.width i) (if useB then s.elt b c.fmt.srcB.width i else 0)
            (if old then s.elt d c.fmt.dst.width i else 0)))) w (c.active w.cur) }

/-- The integer word and the float word of one operation (R138): integer when every descriptor that is read is integer. -/
def calcBy (useB : Bool) (int : Fmt → Int → Int → Int → Nat) (flt : Fmt → Val → Val → Val → Nat × Flags)
    (f : Fmt) (a b c : Nat) : Nat × Flags :=
  if f.srcA.isInt && (!useB || f.srcB.isInt) && f.dst.isInt then
    (int f (decodeInt f.srcA a) (decodeInt f.srcB b) (decodeInt f.dst c), 0)
  else flt f (decodeVal f.srcA a) (decodeVal f.srcB b) (decodeVal f.dst c)

/-- An exact integer result, wrapped or clamped into DST. -/
def Fmt.int (f : Fmt) (x : Int) : Nat := intInto f.dst f.sat x
/-- An exact float result, rounded once into DST. -/
def Fmt.round (f : Fmt) (r : Val × Flags) : Nat × Flags := roundOp r f.dst f.rm f.sat

/-- Quotient and remainder of integer words (R147). -/
def intQuot (f : Fmt) (a b : Int) : Nat := if b = 0 then 2 ^ f.dst.width - 1 else f.int (Int.tdiv a b)
def intRem (f : Fmt) (a b : Int) : Nat := if b = 0 then f.int a else f.int (Int.tmod a b)

/-- The square root of an integer word: rounded to an integer by RM; 0 for a negative operand (R138, Table 7.5). -/
def intSqrt (f : Fmt) (a : Int) : Nat :=
  if a ≤ 0 then f.int 0
  else
    let (r, e) := sqrtPos a.toNat 0
    f.int (roundInt f.rm false r e).1

def binaryMember (d a b xf : Reg) (k : BitVec 2) (int : Fmt → Int → Int → Nat) (flt : Fmt → Val → Val → Nat × Flags) : Member :=
  mapMember d a b true false xf k okBinary (calcBy true (fun f x y _ => int f x y) (fun f x y _ => flt f x y))

def unaryMember (d a xf : Reg) (k : BitVec 2) (int : Fmt → Int → Nat) (flt : Fmt → Val → Nat × Flags) : Member :=
  mapMember d a 0 false false xf k okUnary (calcBy false (fun f x _ _ => int f x) (fun f x _ _ => flt f x))

/-- The fused words: 0 `vfma`, 1 `vfms`, 2 `vfnma`, 3 `vfnms` (Table 7.5). -/
def fusedInt (op : Nat) (a b c : Int) : Int :=
  match op with
  | 0 => a * b + c
  | 1 => a * b - c
  | 2 => -(a * b) - c
  | _ => -(a * b) + c

def fusedMember (op : Nat) (d a b xf : Reg) (k : BitVec 2) : Member :=
  mapMember d a b true true xf k okBinary
    (calcBy true (fun f x y z => f.int (fusedInt op x y z)) (fun f x y z => f.round (fusedVal op f.rm x y z)))

/-- A word on raw codes of SEW bits (R148). -/
def rawMember (d a b xf : Reg) (k : BitVec 2) (f : Nat → Nat → Nat → Nat) : Member :=
  mapMember d a b true false xf k okRawBinary (fun fm x y _ => (f fm.dst.width x y, 0))

/-! ### Major 0x21 -/

def memVadd (d a b xf : Reg) (k : BitVec 2) : Member :=
  binaryMember d a b xf k (fun f x y => f.int (x + y)) (fun f x y => f.round (Val.add f.rm x y))
def memVsub (d a b xf : Reg) (k : BitVec 2) : Member :=
  binaryMember d a b xf k (fun f x y => f.int (x - y)) (fun f x y => f.round (Val.add f.rm x y.negate))
def memVmul (d a b xf : Reg) (k : BitVec 2) : Member :=
  binaryMember d a b xf k (fun f x y => f.int (x * y)) (fun f x y => f.round (Val.mul x y))
def memVdiv (d a b xf : Reg) (k : BitVec 2) : Member :=
  binaryMember d a b xf k intQuot (fun f x y => divInto x y f.dst f.rm f.sat)
def memVmin (d a b xf : Reg) (k : BitVec 2) : Member :=
  binaryMember d a b xf k (fun f x y => f.int (if x < y then x else y)) (fun f x y => f.round (Val.minmax false x y, 0))
def memVmax (d a b xf : Reg) (k : BitVec 2) : Member :=
  binaryMember d a b xf k (fun f x y => f.int (if x < y then y else x)) (fun f x y => f.round (Val.minmax true x y, 0))
def memVsqrt (d a xf : Reg) (k : BitVec 2) : Member :=
  unaryMember d a xf k intSqrt (fun f x => f.round (Val.sqrt x))
def memVabs (d a xf : Reg) (k : BitVec 2) : Member :=
  unaryMember d a xf k (fun f x => f.int (if x < 0 then -x else x)) (fun f x => f.round (x.abs, 0))

/-! ### Major 0x22 -/

def memVfma (d a b xf : Reg) (k : BitVec 2) : Member := fusedMember 0 d a b xf k
def memVfms (d a b xf : Reg) (k : BitVec 2) : Member := fusedMember 1 d a b xf k
def memVfnma (d a b xf : Reg) (k : BitVec 2) : Member := fusedMember 2 d a b xf k
def memVfnms (d a b xf : Reg) (k : BitVec 2) : Member := fusedMember 3 d a b xf k
/-- Bits 2w − 1 to w of the exact product, written raw (Table 7.5). -/
def memVmulh (d a b xf : Reg) (k : BitVec 2) : Member :=
  mapMember d a b true false xf k okRawBinary fun f x y _ =>
    (wrapTo f.dst.width (decodeInt f.srcA x * decodeInt f.srcB y / ((2 ^ f.dst.width : Nat) : Int)), 0)
def memVrem (d a b xf : Reg) (k : BitVec 2) : Member :=
  binaryMember d a b xf k intRem (fun f x y => f.round (Val.rem f.rm x y))
def memVneg (d a xf : Reg) (k : BitVec 2) : Member :=
  unaryMember d a xf k (fun f x => f.int (-x)) (fun f x => f.round (x.negate, 0))

/-! ### Major 0x23 (R148) -/

def memVand (d a b xf : Reg) (k : BitVec 2) : Member := rawMember d a b xf k fun _ x y => x &&& y
def memVor (d a b xf : Reg) (k : BitVec 2) : Member := rawMember d a b xf k fun _ x y => x ||| y
def memVxor (d a b xf : Reg) (k : BitVec 2) : Member := rawMember d a b xf k fun _ x y => x ^^^ y
def memVnot (d a xf : Reg) (k : BitVec 2) : Member :=
  mapMember d a 0 false false xf k okRawUnary fun f x _ _ => (2 ^ f.dst.width - 1 - x, 0)
def memVsll (d a b xf : Reg) (k : BitVec 2) : Member := rawMember d a b xf k fun w x y => x * 2 ^ (y % w) % 2 ^ w
def memVsrl (d a b xf : Reg) (k : BitVec 2) : Member := rawMember d a b xf k fun w x y => x / 2 ^ (y % w)
def memVsra (d a b xf : Reg) (k : BitVec 2) : Member :=
  rawMember d a b xf k fun w x y => wrapTo w (signed w x / ((2 ^ (y % w) : Nat) : Int))

end Sys2Proof.Machine
end

