-- ==== Sys2Proof/Machine/VecMask.lean ====
section
/-! DEFINITION. Members of majors 0x24 to 0x26: compares, select, mask words and conversion (spec/07 R149 to R152). -/

namespace Sys2Proof.Machine

def okCompare (sew : Nat) (f : Fmt) : Bool := f.srcA.atHalf sew && f.srcB.atHalf sew && f.dst.isZero && f.bare

/-- Bit i of mask `d` written. -/
def Work.setMask (w : Work) (d : BitVec 2) (i : Nat) (b : Bool) : Work := w.upd fun s => s.wk d (setMaskBit (s.rk d) i b)

/-- The mask that a register field names (R89). -/
def maskField (r : Reg) : BitVec 2 := r.setWidth 2

/-- A compare: bit i of the destination mask at each active element; no flag (R149). -/
def compareMember (d a b xf : Reg) (k : BitVec 2) (rel : Val → Val → Bool) : Member :=
  { kind := .elementwise, k := k, fmtReg := some xf, fmtOk := okCompare,
    reads := fun _ f => [group a f.srcA.width, group b f.srcB.width],
    maskWrites := [d.toNat],
    perform := fun c w =>
      let act := c.active w.cur
      eachEl (fun w i =>
        let x := decodeVal c.fmt.srcA (w.cur.elt a c.fmt.srcA.width i)
        let y := decodeVal c.fmt.srcB (w.cur.elt b c.fmt.srcB.width i)
        .ok (w.setMask (maskField d) i (rel x y))) w act }

def memVceq (d a b xf : Reg) (k : BitVec 2) : Member := compareMember d a b xf k fun x y => x.eqv y
def memVcne (d a b xf : Reg) (k : BitVec 2) : Member := compareMember d a b xf k fun x y => !x.eqv y
def memVclt (d a b xf : Reg) (k : BitVec 2) : Member := compareMember d a b xf k fun x y => x.lt y
def memVcle (d a b xf : Reg) (k : BitVec 2) : Member := compareMember d a b xf k fun x y => x.lt y || x.eqv y
def memVcgt (d a b xf : Reg) (k : BitVec 2) : Member := compareMember d a b xf k fun x y => y.lt x
def memVcge (d a b xf : Reg) (k : BitVec 2) : Member := compareMember d a b xf k fun x y => y.lt x || x.eqv y
def memVcun (d a b xf : Reg) (k : BitVec 2) : Member := compareMember d a b xf k fun x y => x.isNan || y.isNan

def okSelect (sew : Nat) (f : Fmt) : Bool :=
  f.srcA.at sew && decide (f.srcB = f.srcA) && decide (f.dst = f.srcA) && f.bare

/-- `vsel`: the k field selects and does not mask (R150). -/
def memVsel (d a b xf : Reg) (k : BitVec 2) : Member :=
  { kind := .elementwise, k := k, fmtReg := some xf, fmtOk := okSelect,
    reads := fun _ f => [group a f.srcA.width, group b f.srcB.width],
    writes := fun _ f => [group d f.dst.width],
    readsAt := some fun c s => (fromTo c.lo c.hi).flatMap fun i =>
      (group (if (s.rk k).getLsbD i then a else b) c.fmt.dst.width).at s [i],
    writesAt := some fun c s => (group d c.fmt.dst.width).at s (fromTo c.lo c.hi),
    perform := fun c w =>
      eachEl (fun w i =>
        let x := if (w.cur.rk k).getLsbD i then w.cur.elt a c.fmt.dst.width i else w.cur.elt b c.fmt.dst.width i
        .ok (w.setElt d c.fmt.dst.width i (x, 0))) w (fromTo c.lo c.hi) }

/-- A word on masks: bits below `vl`, without a mask (R151). -/
def maskMember (d a : Reg) (b : Option Reg) (f : Bool → Bool → Bool) : Member :=
  { kind := .elementwise,
    maskReads := a.toNat :: (match b with
      | some r => [r.toNat]
      | none => []),
    maskWrites := [d.toNat],
    perform := fun c w =>
      eachEl (fun w i =>
        let x := (w.cur.rk (maskField a)).getLsbD i
        let y := match b with
          | some r => (w.cur.rk (maskField r)).getLsbD i
          | none => false
        .ok (w.setMask (maskField d) i (f x y))) w (fromTo c.lo c.hi) }

def memKand (d a b : Reg) : Member := maskMember d a (some b) fun x y => x && y
def memKor (d a b : Reg) : Member := maskMember d a (some b) fun x y => x || y
def memKxor (d a b : Reg) : Member := maskMember d a (some b) fun x y => x != y
def memKnot (d a : Reg) : Member := maskMember d a none fun x _ => !x

/-- The elements of a step whose bit is set in both masks. -/
def StepCtx.both (c : StepCtx) (s : Strand) (a : Reg) : List Nat :=
  (c.active s).filter fun i => (s.rk (maskField a)).getLsbD i

/-- `kpopc` and `kfirst`: the running value is the convoy carry; x(d) is written at the last step (R151). -/
def memKpopc (d a : Reg) (k : BitVec 2) : Member :=
  { kind := .last, k := k, maskReads := [a.toNat],
    perform := fun c w =>
      let before := match w.cur.carry with
        | .count n => n
        | _ => 0
      let n := before + (c.both w.cur a).length
      let k1 := w.upd fun s => { s with carry := .count n }
      .ok (if c.last then k1.wx d (BitVec.ofNat 64 n) else k1) }

def memKfirst (d a : Reg) (k : BitVec 2) : Member :=
  { kind := .last, k := k, maskReads := [a.toNat],
    perform := fun c w =>
      let before := match w.cur.carry with
        | .first i => i
        | _ => none
      let found := match before with
        | some i => some i
        | none => (c.both w.cur a).head?
      let k1 := w.upd fun s => { s with carry := .first found }
      .ok (if c.last then
          k1.wx d (match found with
            | some i => BitVec.ofNat 64 i
            | none => BitVec.allOnes 64)
        else k1) }

/-! ### Major 0x26 (R152) -/

def okConvert (sew : Nat) (f : Fmt) : Bool :=
  f.srcA.within 4 && f.srcB.isZero && f.dst.within 8 && (decide (f.srcA.width = sew) || decide (f.dst.width = sew)) && !f.sc
def okConvertS (sew : Nat) (f : Fmt) : Bool :=
  f.srcA.within 4 && decide (f.srcB = descE8M0) && f.dst.within 8 &&
  (decide (f.srcA.width = sew) || decide (f.dst.width = sew)) && f.sc

/-- A code converted from one descriptor into another: between integers by wrapping or clamping, else rounded once (R51). -/
def convertCode (src dst : Desc) (rm : Rm) (sat : Bool) (c : Nat) : Nat × Flags :=
  if src.isInt && dst.isInt then (intInto dst sat (decodeInt src c), 0) else encodeVal (decodeVal src c) dst rm sat

def memVcvt (d a xf : Reg) (k : BitVec 2) : Member :=
  mapMember d a 0 false false xf k okConvert fun f x _ _ => convertCode f.srcA f.dst f.rm f.sat x

/-- `vcvt.s`: a scale code of 0xFF gives the canonical NaN of DST with no flag. -/
def memVcvtS (d a b xf : Reg) (k : BitVec 2) : Member :=
  mapMember d a b true false xf k okConvertS fun f x y _ =>
    if y = 0xFF then ((nanInto f.dst).1, 0)
    else f.round (Val.mul (decodeVal f.srcA x) (decodeVal descE8M0 y))

end Sys2Proof.Machine
end

