-- ==== Sys2Proof/Machine/VecReduce.lean ====
section
/-! DEFINITION. Members of majors 0x27, 0x28 and 0x2A: reductions, scans, maximum with index and the transcendentals (spec/07
R153 to R155, R159). -/

namespace Sys2Proof.Machine

def okReduce (sew : Nat) (f : Fmt) : Bool := f.srcA.atHalf sew && f.srcB.isZero && f.dst.within 8 && !f.sc
def okReduceRaw (sew : Nat) (f : Fmt) : Bool :=
  f.srcA.at sew && f.srcA.isInt && f.srcB.isZero && decide (f.dst = f.srcA) && f.bare

/-- R139: the registers of vd apart from those of va. -/
def apart (x y : Operand) (sew grp : Nat) : Bool := !meets (x.regs sew grp) (y.regs sew grp)

/-- Whether a running value has taken an active element. -/
def Carry.any (c : Carry) : Bool :=
  match c with
  | .sum _ any _ => any
  | .ext _ any _ => any
  | .bits _ any => any
  | _ => false

/-- A reduction into vd[0] (R153): the carry starts from vd[0] under DST, takes each active element, and is written at the
last step when any element was active. -/
def reduceMember (d a xf : Reg) (k : BitVec 2) (ok : Nat → Fmt → Bool) (start : Fmt → Nat → Carry)
    (take : Fmt → Carry → Nat → Carry) (result : Fmt → Carry → Option (Nat × Flags)) : Member :=
  { kind := .last, k := k, fmtReg := some xf, fmtOk := ok,
    reads := fun _ f => [group a f.srcA.width, single d f.dst.width],
    writes := fun _ f => [single d f.dst.width],
    extraOk := fun sew grp f => apart (single d f.dst.width) (group a f.srcA.width) sew grp,
    writesAt := some fun c s => if c.last && (s.carry.any || !(c.active s).isEmpty) then [d.toNat] else [],
    perform := fun c w =>
      let s := w.cur
      let c0 := if s.carry = .none then start c.fmt (s.elt d c.fmt.dst.width 0) else s.carry
      let c1 := (c.active s).foldl (fun x i => take c.fmt x (s.elt a c.fmt.srcA.width i)) c0
      let k1 := w.upd fun s => { s with carry := c1 }
      .ok (
        if c.last then
          match result c.fmt c1 with
          | some r => k1.setElt d c.fmt.dst.width 0 r
          | none => k1
        else k1) }

/-- Whether a word without a second source is integer (R138). -/
def Fmt.intUnary (f : Fmt) : Bool := f.srcA.isInt && f.dst.isInt

/-- An exact integer value as an integer. -/
def Val.toInt (v : Val) : Int :=
  match v with
  | .fin n m e => signInt n (m * 2 ^ e.toNat)
  | _ => 0

/-- A value into DST as R138 says. -/
def Fmt.into (f : Fmt) (v : Val) : Nat × Flags :=
  if f.intUnary then (f.int v.toInt, 0) else encodeVal v f.dst f.rm f.sat

def memVredsum (d a xf : Reg) (k : BitVec 2) : Member :=
  reduceMember d a xf k okReduce (fun f c => .sum (Sum.add {} (decodeVal f.dst c)) false false)
    (fun f x c => match x with
      | .sum s _ _ => .sum (s.add (decodeVal f.srcA c)) true false
      | y => y)
    (fun f x => match x with
      | .sum s true _ =>
        let v := s.value f.rm
        let (c, fl) := f.into v
        some (c, fl ||| flagIf v.isNan flagNV)
      | _ => none)

/-- `vredmin` and `vredmax`: the extreme of the carry and the active elements under R52. DEDUCED (log 65): over both infinities it is an infinity,
and no invalid operation. -/
def reduceExtreme (max : Bool) (d a xf : Reg) (k : BitVec 2) : Member :=
  reduceMember d a xf k okReduce (fun f c => .ext (decodeVal f.dst c) false false)
    (fun f x c => match x with
      | .ext v _ _ => .ext (Val.minmax max v (decodeVal f.srcA c)) true false
      | y => y)
    (fun f x => match x with
      | .ext v true _ =>
        let (c, fl) := f.into v
        some (c, fl ||| flagIf v.isNan flagNV)
      | _ => none)

def memVredmin (d a xf : Reg) (k : BitVec 2) : Member := reduceExtreme false d a xf k
def memVredmax (d a xf : Reg) (k : BitVec 2) : Member := reduceExtreme true d a xf k

def reduceBits (op : Nat → Nat → Nat) (d a xf : Reg) (k : BitVec 2) : Member :=
  reduceMember d a xf k okReduceRaw (fun _ c => .bits c false)
    (fun _ x c => match x with
      | .bits n _ => .bits (op n c) true
      | y => y)
    (fun _ x => match x with
      | .bits n true => some (n, 0)
      | _ => none)

def memVredand (d a xf : Reg) (k : BitVec 2) : Member := reduceBits (fun x y => x &&& y) d a xf k
def memVredor (d a xf : Reg) (k : BitVec 2) : Member := reduceBits (fun x y => x ||| y) d a xf k

/-- A prefix sum into DST (R154): the canonical NaN, without a flag where a NaN entered it, and with NV where both infinities did
before any NaN. -/
def prefixCode (f : Fmt) (s : Sum) : Nat × Flags :=
  let (c, fl) := f.into (s.value f.rm)
  if s.nan then (c, flagNone) else (c, fl ||| flagIf s.invalid flagNV)

/-- `vscan`, and `vscanx` where `excl` (R154). -/
def scanMember (excl : Bool) (d a xf : Reg) (k : BitVec 2) : Member :=
  { kind := .last, k := k, fmtReg := some xf, fmtOk := okUnary,
    reads := fun _ f => [group a f.srcA.width],
    writes := fun _ f => [group d f.dst.width],
    extraOk := fun sew grp f => apart (group d f.dst.width) (group a f.srcA.width) sew grp,
    perform := fun c w =>
      eachEl (fun w i =>
        let (before, any) := match w.cur.carry with
          | .sum s a _ => (s, a)
          | _ => ({}, false)
        let after := before.add (decodeVal c.fmt.srcA (w.cur.elt a c.fmt.srcA.width i))
        let r := if excl then (if any then prefixCode c.fmt before else c.fmt.into .zero) else prefixCode c.fmt after
        .ok ((w.setElt d c.fmt.dst.width i r).upd fun s => { s with carry := .sum after true false })) w (c.active w.cur) }

def memVscan (d a xf : Reg) (k : BitVec 2) : Member := scanMember false d a xf k
def memVscanx (d a xf : Reg) (k : BitVec 2) : Member := scanMember true d a xf k

/-! ### Maximum with index (R155) -/

def okIndex (sew : Nat) (f : Fmt) : Bool := f.srcA.at sew && f.srcB.isZero && f.dst.isZero && f.bare

/-- Whether a value displaces the best so far: a NaN before every number, the lower index on a tie (R52). -/
def beats (min : Bool) (x best : Val) : Bool :=
  if best.isNan then false else if x.isNan then true else if min then x.lt best else best.lt x

/-- The clear code of a descriptor (R155). -/
def clearCode (d : Desc) : Nat :=
  match d.cls with
  | 0 => 2 ^ (2 ^ d.e - 1)
  | 1 => 0
  | _ => if d.figures.s = 0 then 0 else if d.hasInf then infCode d true else maxSigned d true

/-- One element's part of a maximum with index. -/
def takeBest (min : Bool) (f : Fmt) (a : Reg) (s : Strand) (x : Carry) (i : Nat) : Carry :=
  let c := s.elt a f.srcA.width i
  let v := decodeVal f.srcA c
  match x with
  | .best true j b y => if beats min v b then .best true i v c else .best true j b y
  | _ => .best true i v c

def indexMember (min clear : Bool) (d a xf : Reg) (k : BitVec 2) : Member :=
  { kind := .last, k := k, fmtReg := some xf, fmtOk := okIndex,
    reads := fun _ f => [group a f.srcA.width],
    writes := fun _ f => single d 64 :: (if clear then [group a f.srcA.width] else []),
    extraOk := fun sew grp f => apart (single d 64) (group a f.srcA.width) sew grp,
    writesAt := some fun c s =>
      if !c.last then []
      else
        d.toNat :: (match clear, (c.active s).foldl (takeBest min c.fmt a s) s.carry with
          | true, .best true j _ _ => (group a c.fmt.srcA.width).at s [j]
          | _, _ => []),
    perform := fun c w =>
      let s := w.cur
      let c1 := (c.active s).foldl (takeBest min c.fmt a s) s.carry
      let k1 := w.upd fun s => { s with carry := c1 }
      .ok (
        if !c.last then k1
        else
          match c1 with
          | .best true j v code =>
            let k2 := if clear then k1.setElt a c.fmt.srcA.width j (clearCode c.fmt.srcA, 0) else k1
            let out := if v.isNan then (canonNan c.fmt.srcA, flagNV) else (code, flagNone)
            (k2.setElt d 64 0 (j, 0)).setElt d 64 1 out
          | _ => (k1.setElt d 64 0 (2 ^ 64 - 1, 0)).setElt d 64 1 (0, 0)) }

def memVmaxi (d a xf : Reg) (k : BitVec 2) : Member := indexMember false false d a xf k
def memVmini (d a xf : Reg) (k : BitVec 2) : Member := indexMember true false d a xf k
def memVmaxic (d a xf : Reg) (k : BitVec 2) : Member := indexMember false true d a xf k

/-! ### Transcendentals (R159) -/

def okTrans (sew : Nat) (f : Fmt) : Bool :=
  f.srcA.atHalf sew && f.srcA.isFloat && f.srcB.isZero && f.dst.at sew && f.dst.isFloat && !f.sc
def okExp2 (sew : Nat) (f : Fmt) : Bool := okTrans sew f && decide (f.rm = 0)

/-- `vexp2`. DESIGN CHOICE (log 54): a source value that FP32 does not hold exactly is rounded to it by RNE, and that rounding raises no
flag; R159 speaks only of an exact widening. -/
def memVexp2 (d a xf : Reg) (k : BitVec 2) : Member :=
  mapMember d a 0 false false xf k okExp2 fun f x _ _ =>
    let (wide, _) := toFP32 (decodeVal f.srcA x)
    let (y, fl) := exp2lx wide
    if f.dst = descFP32 then (y, fl)
    else
      let (c, fl2) := encodeFloat (decodeFloat descFP32 y) f.dst 0 f.sat
      (c, fl ||| fl2)

/-- The specials of `vlog2` (Table 7.7) and the exact logarithm. -/
def log2Code (f : Fmt) (v : Val) : Nat × Flags :=
  match v with
  | .nan => f.round (.nan, 0)
  | .inf n => if n then f.round (.nan, flagNV) else f.round (.inf false, 0)
  | .fin n m e =>
    if m = 0 then divZeroCode true f.dst f.rm f.sat
    else if n then f.round (.nan, flagNV)
    else f.round (log2Pos m e, 0)

/-- The specials of `vrsqrt` and the exact 1/√a. -/
def rsqrtCode (f : Fmt) (v : Val) : Nat × Flags :=
  match v with
  | .nan => f.round (.nan, 0)
  | .inf n => if n then f.round (.nan, flagNV) else f.round (.zero, 0)
  | .fin n m e =>
    if m = 0 then divZeroCode n f.dst f.rm f.sat
    else if n then f.round (.nan, flagNV)
    else
      let (r, x) := rsqrtPos m e
      f.round (Val.mk false r x, 0)

def memVlog2 (d a xf : Reg) (k : BitVec 2) : Member :=
  mapMember d a 0 false false xf k okTrans fun f x _ _ => log2Code f (decodeVal f.srcA x)
def memVrcp (d a xf : Reg) (k : BitVec 2) : Member :=
  mapMember d a 0 false false xf k okTrans fun f x _ _ => divInto .one (decodeVal f.srcA x) f.dst f.rm f.sat
def memVrsqrt (d a xf : Reg) (k : BitVec 2) : Member :=
  mapMember d a 0 false false xf k okTrans fun f x _ _ => rsqrtCode f (decodeVal f.srcA x)

end Sys2Proof.Machine
end

