-- ==== Sys2Proof/Machine/VecPermute.lean ====
section
/-! DEFINITION. Members of major 0x29: permutes, slides, moves and compress (spec/07 R156 to R158, R139; spec/02 R30). -/

namespace Sys2Proof.Machine

def okPermute (sew : Nat) (f : Fmt) : Bool :=
  f.srcA.at sew && f.srcB.at sew && f.srcB.isInt && decide (f.dst = f.srcA) && f.bare
def okSlide (sew : Nat) (f : Fmt) : Bool := f.srcA.at sew && f.srcB.isZero && decide (f.dst = f.srcA) && f.bare
def okBroadcast (sew : Nat) (f : Fmt) : Bool := f.srcA.isZero && f.srcB.isZero && f.dst.at sew && f.bare
def okMoveIn (_ : Nat) (f : Fmt) : Bool := f.srcA.isZero && f.srcB.isZero && f.dst.within 8 && f.bare
def okMoveOut (_ : Nat) (f : Fmt) : Bool := f.srcA.within 4 && f.srcB.isZero && f.dst.isZero && f.bare
def okId (sew : Nat) (f : Fmt) : Bool := f.srcA.isZero && f.srcB.isZero && f.dst.at sew && !f.sc

/-- Element i of an operand as it stood when the convoy dispatched (R156, R30). -/
def Strand.dispatchElt (s : Strand) (m : Reg) (width i : Nat) : Nat :=
  match s.snap with
  | some d => elementIn d.v s.wg m.toNat width i
  | none => s.elt m width i

/-- A permute: `pick` answers the source element that element i takes, none where it takes zero, or nothing where it stays undisturbed. -/
def permuteMember (d a : Reg) (b : Option Reg) (xf : Reg) (k : BitVec 2) (ok : Nat → Fmt → Bool)
    (pick : Strand → Fmt → Nat → Option (Option Nat)) : Member :=
  let srcs := fun (f : Fmt) => group a f.srcA.width :: (match b with
    | some r => [group r f.srcB.width]
    | none => [])
  { kind := .permute, k := k, rule5 := true, fmtReg := some xf, fmtOk := ok,
    reads := fun _ f => srcs f,
    writes := fun _ f => [group d f.dst.width],
    extraOk := fun sew grp f => (srcs f).all fun o => apart (group d f.dst.width) o sew grp,
    readsAt := some fun c s =>
      (match b with
        | some r => (group r c.fmt.srcB.width).at s (c.active s)
        | none => []) ++
      (group a c.fmt.srcA.width).at s ((c.active s).filterMap fun i => (pick s c.fmt i).join),
    writesAt := some fun c s => (group d c.fmt.dst.width).at s ((c.active s).filter fun i => (pick s c.fmt i).isSome),
    perform := fun c w =>
      eachEl (fun w i =>
        match pick w.cur c.fmt i with
        | some n => .ok (w.setElt d c.fmt.dst.width i ((n.map fun j => w.cur.dispatchElt a c.fmt.srcA.width j).getD 0, 0))
        | none => .ok w) w (c.active w.cur) }

def memVperm (d a b xf : Reg) (k : BitVec 2) : Member :=
  permuteMember d a (some b) xf k okPermute fun s f i =>
    let n := decodeInt f.srcB (s.dispatchElt b f.srcB.width i)
    some (if 0 ≤ n ∧ n < (s.vl.toNat : Int) then some n.toNat else none)

def memVslideup (d a b xf : Reg) (k : BitVec 2) : Member :=
  permuteMember d a none xf k okSlide fun s _ i =>
    let n := (s.sx b).toNat
    if n ≤ i then some (some (i - n)) else none

def memVslidedn (d a b xf : Reg) (k : BitVec 2) : Member :=
  permuteMember d a none xf k okSlide fun s _ i =>
    let n := (s.sx b).toNat
    some (if i + n < s.vl.toNat then some (i + n) else none)

/-- `vbcast`: the low bits of x(a) to each active element. -/
def memVbcast (d a xf : Reg) (k : BitVec 2) : Member :=
  { kind := .elementwise, k := k, fmtReg := some xf, fmtOk := okBroadcast, rule5 := true,
    writes := fun _ f => [group d f.dst.width],
    perform := fun c w =>
      eachEl (fun w i => .ok (w.setElt d c.fmt.dst.width i ((w.cur.sx a).toNat % 2 ^ c.fmt.dst.width, 0))) w (c.active w.cur) }

/-- `vid`: i rounded under R138, with the flags of that rounding. DEDUCED (log 66). -/
def memVid (d xf : Reg) (k : BitVec 2) : Member :=
  { kind := .elementwise, k := k, fmtReg := some xf, fmtOk := okId,
    writes := fun _ f => [group d f.dst.width],
    perform := fun c w =>
      eachEl (fun w i =>
        let r := if c.fmt.dst.isInt then (c.fmt.int i, flagNone) else encodeVal (Val.ofInt i) c.fmt.dst c.fmt.rm c.fmt.sat
        .ok (w.setElt d c.fmt.dst.width i r)) w (c.active w.cur) }

/-- `vmvsx` and `vmvxs` act in step 0 when element 0 is active (R157). -/
def memVmvsx (d a xf : Reg) (k : BitVec 2) : Member :=
  { kind := .elementwise, k := k, fmtReg := some xf, fmtOk := okMoveIn,
    writes := fun _ f => [single d f.dst.width],
    writesAt := some fun c s => if (c.active s).contains 0 then [d.toNat] else [],
    perform := fun c w =>
      .ok (if (c.active w.cur).contains 0 then w.setElt d c.fmt.dst.width 0 ((w.cur.sx a).toNat % 2 ^ c.fmt.dst.width, 0) else w) }

def memVmvxs (d a xf : Reg) (k : BitVec 2) : Member :=
  { kind := .last, k := k, fmtReg := some xf, fmtOk := okMoveOut,
    reads := fun _ f => [single a f.srcA.width],
    readsAt := some fun c s => if (c.active s).contains 0 then [a.toNat] else [],
    perform := fun c w =>
      let n := c.fmt.srcA.width
      let x := w.cur.elt a n 0
      .ok (if (c.active w.cur).contains 0 then
          w.wx d (if c.fmt.srcA.cls = 0 then BitVec.ofInt 64 (signed n x) else BitVec.ofNat 64 x)
        else w) }

/-- The count that a carry holds. -/
def Carry.counted (c : Carry) : Nat :=
  match c with
  | .count n => n
  | _ => 0

/-- `vcompress`: the active elements in order; the count so far is the carry (R158). -/
def memVcompress (d a xf : Reg) (k : BitVec 2) : Member :=
  { kind := .last, k := k, fmtReg := some xf, fmtOk := okSlide,
    reads := fun _ f => [group a f.srcA.width],
    writes := fun _ f => [group d f.dst.width],
    extraOk := fun sew grp f => apart (group d f.dst.width) (group a f.srcA.width) sew grp,
    writesAt := some fun c s =>
      (group d c.fmt.dst.width).at s (fromTo s.carry.counted (s.carry.counted + (c.active s).length)),
    perform := fun c w =>
      eachEl (fun w i =>
        let n := w.cur.carry.counted
        let k1 := w.setElt d c.fmt.dst.width n (w.cur.elt a c.fmt.srcA.width i, 0)
        .ok (k1.upd fun s => { s with carry := .count (n + 1) })) w (c.active w.cur) }

end Sys2Proof.Machine
end

