-- ==== Sys2Proof/Machine/VecMem.lean ====
section
/-! DEFINITION. Members of majors 0x2C and 0x2D: vector loads and stores with their addresses, checks, done masks and the
accumulation window (spec/07 R160 to R166; spec/02 R36; spec/09 R224, R225). -/

namespace Sys2Proof.Machine

/-! ### The accumulation window -/

/-- The window that an address lies in. -/
def Strand.windowAt (s : Strand) (va : W64) : Option Window :=
  match s.window with
  | some w => if w.base ≤ va.toNat ∧ va.toNat < w.base + w.size then some w else none
  | none => none

/-- `lane_of`(i, SEW) (Table 3.9). -/
def Strand.laneOf (s : Strand) (width i : Nat) : Nat := s.wg.getD (i % s.epr width % s.wg.length) 0

/-- Where the private copy of a lane group keeps the byte of an address. -/
def Window.at (w : Window) (lane : Nat) (va : W64) : Nat := lane * 65536 + (va.toNat - w.base)

/-- ⊕ under a window's descriptor (R225): integers wrap; FP32 is the exact sum rounded once, with its flags. -/
def addUnder (d : Desc) (x y : Nat) : Nat × Flags :=
  if d.isInt then (intInto d false (decodeInt d x + decodeInt d y), 0)
  else roundOp (Val.add 0 (decodeVal d x) (decodeVal d y)) d 0 false

/-- An element of the window that a load reads. -/
def windowLoad (w : Work) (win : Window) (va : W64) (z i : Nat) : Except Stop Nat :=
  if (descOf win.desc.toNat).width ≠ 8 * z then .error (.trap ⟨4, 0, va⟩)
  else .ok (leNat (Mem.readN win.copies (win.at (w.cur.laneOf (8 * z) i) va) z))

/-- An element of the window that a store accumulates. -/
def windowStore (w : Work) (win : Window) (va : W64) (z i v : Nat) : Except Stop Work :=
  let d := descOf win.desc.toNat
  if d.width ≠ 8 * z then .error (.trap ⟨4, 0, va⟩)
  else
    let at' := win.at (w.cur.laneOf (8 * z) i) va
    let r := addUnder d (leNat (Mem.readN win.copies at' z)) v
    let k := if w.cur.buffering then w.drain else w
    .ok (k.upd fun s => { s with window := some { win with copies := Mem.write win.copies at' (leBytes z r.1) } }.raise r.2)

/-- A strand's element access to memory, by the window where it lies in one. -/
def Work.loadElt (w : Work) (cls : Nat) (va : W64) (z i : Nat) : Except Stop (Nat × Work) :=
  if va.toNat % z ≠ 0 then .error (.trap ⟨2, 0, va⟩)
  else
    match w.cur.windowAt va with
    | some win =>
      match windowLoad w win va z i with
      | .error e => .error e
      | .ok v => .ok (v, w)
    | none => w.loadVirtual cls va z

def Work.storeElt (w : Work) (cls : Nat) (va : W64) (z i v : Nat) : Except Stop Work :=
  if va.toNat % z ≠ 0 then .error (.trap ⟨2, 0, va⟩)
  else
    match w.cur.windowAt va with
    | some win => windowStore w win va z i v
    | none => w.storeVirtual cls va z v

/-! ### Members -/

/-- The index group of an indexed member. -/
def indexGroup (idx : Option Reg) (sew : Nat) : List Operand :=
  match idx with
  | some b => [group b sew]
  | none => []

/-- A load member; `load` reads element i of size z, and `idx` is the index group of a gather. -/
def loadMember (d : Reg) (idx : Option Reg) (k : BitVec 2) (load : Work → Nat → Nat → Except Stop (Nat × Work)) : Member :=
  { kind := .elementwise, k := k, indexed := idx.isSome,
    reads := fun sew _ => indexGroup idx sew,
    writes := fun sew _ => [group d sew],
    perform := fun c w =>
      let sew := w.cur.sew
      eachEl (fun w i =>
        if idx.isSome && w.cur.isDone c.idx i then .ok w
        else
          match load w (sew / 8) i with
          | .error e => .error e
          | .ok (v, k1) =>
            let k2 := k1.setElt d sew i (v, 0)
            .ok (if idx.isSome then k2.upd fun s => s.setDone c.idx i else k2)) w (c.active w.cur) }

/-- A store member. Where only indexed members keep their effects, another member's stores are dropped (R35). -/
def storeMember (d : Reg) (idx : Option Reg) (k : BitVec 2) (store : Work → Nat → Nat → Nat → Except Stop Work) : Member :=
  { kind := .elementwise, k := k, indexed := idx.isSome,
    reads := fun sew _ => group d sew :: indexGroup idx sew,
    perform := fun c w =>
      let sew := w.cur.sew
      eachEl (fun w i =>
        if (idx.isSome && w.cur.isDone c.idx i) || (c.keep && idx.isNone) then .ok w
        else
          match store w (sew / 8) i (w.cur.elt d sew i) with
          | .error e => .error e
          | .ok k1 => .ok (if idx.isSome then k1.upd fun s => s.setDone c.idx i else k1)) w (c.active w.cur) }

/-! ### Addresses (Table 7.9) -/

def unitAddr (s : Strand) (a : Reg) (z i : Nat) : W64 := s.sx a + BitVec.ofNat 64 (i * z)
def stridedAddr (s : Strand) (a b : Reg) (i : Nat) : W64 := s.sx a + BitVec.ofNat 64 i * s.sx b
def indexedAddr (s : Strand) (a b : Reg) (z i : Nat) : W64 := s.sx a + BitVec.ofNat 64 (s.elt b (8 * z) i)

/-- The pair that `vldm` and `vstm` name, as it stood at dispatch. -/
def Strand.dispatchPair (s : Strand) (a : Reg) : Pair :=
  let p := (s.sx a).toNat
  let q := s.sx (a + 1)
  ⟨bitsAt p 0 32, bitsAt p 32 32, bitsAt q.toNat 32 32, bitsAt q.toNat 0 4, bitsAt q.toNat 4 28, q⟩

/-- The meadow address of element i under a pair (R166), or the fault that R166 gives. DESIGN CHOICE (log 54): a misaligned field faults at
the first active element, whether or not an active element lies at a misaligned address. -/
def pairAddr (p : Pair) (t z i : Nat) : Except Trap W64 :=
  match p.check with
  | some e => .error e
  | none =>
    if p.base % z ≠ 0 then .error ⟨2, 0, BitVec.ofNat 64 p.base⟩
    else if p.rowPitch % z ≠ 0 then .error ⟨2, 0, BitVec.ofNat 64 (p.base + p.rowPitch)⟩
    else if p.tilePitch % z ≠ 0 then .error ⟨2, 0, BitVec.ofNat 64 (p.base + p.tilePitch)⟩
    else
      let beta := i * z
      let s := beta / (8 * t)
      let q := beta % (8 * t)
      .ok (BitVec.ofNat 64 (p.base + q / 8 * p.rowPitch + s * p.tilePitch + q % 8))

/-- A scratchpad read that answers the step unchanged. -/
def Work.loadSpElt (w : Work) (cls : Nat) (va : W64) (z : Nat) : Except Stop (Nat × Work) :=
  match w.loadSp cls va z with
  | .error e => .error e
  | .ok v => .ok (v, w)

def memVld (d a : Reg) (st k : BitVec 2) : Member :=
  loadMember d none k fun w z i => w.loadElt st.toNat (unitAddr w.cur a z i) z i
def memVlds (d a b : Reg) (st k : BitVec 2) : Member :=
  loadMember d none k fun w z i => w.loadElt st.toNat (stridedAddr w.cur a b i) z i
def memVldx (d a b : Reg) (st k : BitVec 2) : Member :=
  loadMember d (some b) k fun w z i => w.loadElt st.toNat (indexedAddr w.cur a b z i) z i
def memVldsp (d a : Reg) (st k : BitVec 2) : Member :=
  loadMember d none k fun w z i => w.loadSpElt st.toNat (unitAddr w.cur a z i) z
def memVldm (d a : Reg) (k : BitVec 2) : Member :=
  loadMember d none k fun w z i =>
    match pairAddr (w.cur.dispatchPair a) (w.st.tlen w.cur.g) z i with
    | .error t => .error (.trap t)
    | .ok va => w.loadSpElt 6 va z
def memVldxsp (d a b : Reg) (st k : BitVec 2) : Member :=
  loadMember d (some b) k fun w z i => w.loadSpElt st.toNat (indexedAddr w.cur a b z i) z

def memVst (d a : Reg) (st k : BitVec 2) : Member :=
  storeMember d none k fun w z i v => w.storeElt st.toNat (unitAddr w.cur a z i) z i v
def memVsts (d a b : Reg) (st k : BitVec 2) : Member :=
  storeMember d none k fun w z i v => w.storeElt st.toNat (stridedAddr w.cur a b i) z i v
def memVstx (d a b : Reg) (st k : BitVec 2) : Member :=
  storeMember d (some b) k fun w z i v => w.storeElt st.toNat (indexedAddr w.cur a b z i) z i v
def memVstsp (d a : Reg) (st k : BitVec 2) : Member :=
  storeMember d none k fun w z i v => w.storeSp st.toNat (unitAddr w.cur a z i) z v
def memVstm (d a : Reg) (k : BitVec 2) : Member :=
  storeMember d none k fun w z i v =>
    match pairAddr (w.cur.dispatchPair a) (w.st.tlen w.cur.g) z i with
    | .error t => .error (.trap t)
    | .ok va => w.storeSp 6 va z v
def memVstxsp (d a b : Reg) (st k : BitVec 2) : Member :=
  storeMember d (some b) k fun w z i v => w.storeSp st.toNat (indexedAddr w.cur a b z i) z v

end Sys2Proof.Machine
end

