-- ==== Sys2Proof/Machine/Matrix.lean ====
section
/-! DEFINITION. The tile: `tacc` and `tacc.s` as members, and the words of major 0x31 with `mzero` (spec/08 R167 to R177;
spec/03 R54 to R56). -/

namespace Sys2Proof.Machine

/-! ### The outer-product step -/

/-- The sources of the matrix step (R56): at K = 8 a narrow float or an 8-bit integer, at K = 4 BF16 or FP16. -/
def tileSource (sew : Nat) (d : Desc) : Bool :=
  d.valid &&
  (if sew = 8 then d.isNarrow || (d.isInt && decide (d.width = 8))
   else decide (sew = 16) && (decide (d.cls = 9) || decide (d.cls = 10)))

def okTacc (scaled : Bool) (sew : Nat) (f : Fmt) : Bool :=
  tileSource sew f.srcA && tileSource sew f.srcB && decide (f.srcA.width = f.srcB.width) &&
  decide (f.dst = if f.srcA.isInt && f.srcB.isInt then descI32 else descFP32) && decide (f.rm = 0) &&
  (if scaled then f.sc && f.srcA.isNarrow && f.srcB.isNarrow else !f.sc)

/-- The register behind a source group, where `tacc.s` finds its scales (R169). -/
def scaleReg (m : Reg) (d : Desc) (sew grp : Nat) : Nat := m.toNat + (group m d.width).span sew grp

/-- The word (i, j) of the tile after one step (R170), with the flags of the step's element. -/
def taccElement (scaled : Bool) (a b : Reg) (f : Fmt) (s : Strand) (t k base step vl : Nat) (old : TileReg) (i j : Nat) :
    Nat × Flags :=
  let ks := (List.range k).filter fun q => decide (base + i * k + q < vl) && decide (base + j * k + q < vl)
  let codeA := fun q => s.elt a f.srcA.width (base + i * k + q)
  let codeB := fun q => s.elt b f.srcB.width (base + j * k + q)
  let acc := tileWord old i j
  if f.srcA.isInt && f.srcB.isInt then
    (stepInt acc (ks.map fun q => (decodeInt f.srcA (codeA q), decodeInt f.srcB (codeB q))) f.sat, 0)
  else
    let scale := fun (m : Reg) (d : Desc) (n : Nat) =>
      if scaled then
        decodeVal descE8M0 (elementIn s.v s.wg (scaleReg m d s.sew s.grp) 8 (step / 4 * t + n))
      else Val.one
    stepFp acc (ks.map fun q => (decodeVal f.srcA (codeA q), decodeVal f.srcB (codeB q)))
      (scale a f.srcA i) (scale b f.srcB j) f.sat

/-- A tile with the flags that its elements raise, row by row. -/
def tileFlags (n : Nat) (f : Nat → Nat → Nat × Flags) : TileReg × Flags :=
  let rows := (List.range n).map fun i => (List.range n).map fun j => f i j
  (BitVec.ofNat 524288 (packWords (rows.flatMap fun r => r.map (·.1) ++ List.replicate (128 - n) 0)),
    orFlags (rows.map fun r => orFlags (r.map (·.2))))

/-- A matrix step counted from leaving idle (R390). -/
def Work.countMatrix (w : Work) : Work :=
  w.mod fun s =>
    let c := s.core s.strand.g.core
    s.setCore { c with matBusy := true, matSlabs := if c.matBusy then satTo 48 (c.matSlabs + 1) else 1 }

def taccMember (scaled : Bool) (t a b xf : Reg) : Member :=
  { kind := .last, matrix := true, tile := some t, fmtReg := some xf, fmtOk := okTacc scaled, tileWrites := true,
    reads := fun _ f => [group a f.srcA.width, group b f.srcB.width],
    moreReads := fun sew grp f => if scaled then [scaleReg a f.srcA sew grp, scaleReg b f.srcB sew grp] else [],
    extraOk := fun sew grp f =>
      !scaled || (decide (scaleReg a f.srcA sew grp ≤ 31) && decide (scaleReg b f.srcB sew grp ≤ 31)),
    perform := fun c w =>
      let s := w.cur
      let e := s.epr s.sew
      let n := w.st.tlen s.g
      let old := w.st.tile s.g t.toNat
      let (v, fl) := tileFlags n (taccElement scaled a b c.fmt s n (e / n) c.lo (c.lo / e) s.vl.toNat old)
      .ok (if c.keep then w else (w.mod fun st => st.setTile s.g t.toNat v).countMatrix.upd fun s => s.raise fl) }

def memTacc (t a b xf : Reg) : Member := taccMember false t a b xf
def memTaccS (t a b xf : Reg) : Member := taccMember true t a b xf

/-! ### Words of kind A -/

/-- Checks 6 to 9 of Table 5.19 for a word on a tile. -/
def Work.tileChecks (w : Work) (i : Instr) (t : Reg) : Option Trap :=
  let word : W64 := zext (encode i)
  if !i.wf then some ⟨1, 4, word⟩
  else if w.cur.unset then some ⟨1, 6, word⟩
  else if w.cur.g.nomx then some ⟨8, 0, word⟩
  else if w.cur.g.tiles.length ≤ t.toNat then some ⟨1, 7, word⟩
  else none

/-- A word of kind A that has passed its checks; a read of a vector group that a `cget` fills waits for it (R203). -/
def tileWordOn (i : Instr) (t : Reg) (run : Work → Except Stop Work) (s : State) : Host.Outcome State Fault Refusal :=
  let w := s.work
  s.finish (
    match w.tileChecks i t with
    | some e => w.trapWord e
    | none =>
      match run w with
      | .error e => w.stopWord e
      | .ok k => k.retire)

/-- `mzero`: every element zero; no live-in bit (R172). -/
def execMzero (t : Reg) (s : State) : Host.Outcome State Fault Refusal :=
  tileWordOn (.mzero t) t (fun w =>
    let k := w.touchRegs [] [] [] [] [] [t.toNat]
    .ok (k.mod fun st => st.setTile st.strand.g t.toNat 0)) s

/-- The device scratchpad addresses of the rows that a tile move touches, all checked before any effect (R174).
DESIGN CHOICE (log 76): the first out-of-range address is looked for in the order of the source rows, so that it is the lowest. -/
def tileRows (w : Work) (base pitch len : Nat) (rows : List Nat) : Except Stop (List Nat) :=
  match rows with
  | [] => .ok []
  | r :: rest =>
    match w.st.meadow w.cur.g (BitVec.ofNat 64 (base + r * pitch)) len with
    | .error t => .error (.trap t)
    | .ok dev =>
      match tileRows w base pitch len rest with
      | .error e => .error e
      | .ok l => .ok (dev :: l)

/-- A tile move's rows: the pair's faults (R166), the alignment of Table 8.3, the range, then banks that wake. -/
def tilePlace (w : Work) (a : Reg) (align rows len : Nat) : Except Stop (List Nat) :=
  let p := w.cur.pair a
  match p.check with
  | some t => .error (.trap t)
  | none =>
    if p.base % align ≠ 0 then .error (.trap ⟨2, 0, BitVec.ofNat 64 p.base⟩)
    else if p.rowPitch % align ≠ 0 then .error (.trap ⟨2, 0, BitVec.ofNat 64 (p.base + p.rowPitch)⟩)
    else
      match tileRows w p.base p.rowPitch len (List.range rows) with
      | .error e => .error e
      | .ok l =>
        match l.findSome? fun dev => w.st.sleeperIn dev len with
        | some b => .error (.wait (.bank (b / 2 ^ 22) (bankOf b)))
        | none => .ok l

/-- What a gate stops with. -/
def gateStop (r : Except Stop Unit) : Option Stop :=
  match r with
  | .error e => some e
  | .ok _ => none

/-- `mld` and its transposing forms: `word rows i j` forms word (i, j) from the rows as numbers (Table 8.3). -/
def tileLoad (i : Instr) (t a : Reg) (align : Nat) (rows len : Nat → Nat) (word : List Nat → Nat → Nat → Nat) (s : State) :
    Host.Outcome State Fault Refusal :=
  let n := s.tlen s.strand.g
  tileWordOn i t (fun w =>
    match tilePlace w a align (rows n) (len n) with
    | .error e => .error e
    | .ok l =>
      match w.loadGate 6, l.findSome? fun dev => gateStop (w.readGate 6 dev (len n)) with
      | .error e, _ => .error e
      | .ok _, some e => .error e
      | .ok _, none =>
        let data := l.map fun dev => leNat (w.ownBytes .sp dev (len n))
        let k := w.touchRegs [] [] [] [] [] [t.toNat]
        .ok (k.mod fun st => st.setTile st.strand.g t.toNat (tileFrom n (word data)))) s

def execMld (t a : Reg) (s : State) : Host.Outcome State Fault Refusal :=
  tileLoad (.mld t a) t a 4 (fun n => n) (fun n => 4 * n) (fun d i j => bitsAt (d.getD i 0) (32 * j) 32) s
def execMldT8 (t a : Reg) (s : State) : Host.Outcome State Fault Refusal :=
  tileLoad (.mldT8 t a) t a 1 (fun n => 4 * n) (fun n => n) (fun d i j =>
    bitsAt (d.getD (4 * j) 0) (8 * i) 8 + bitsAt (d.getD (4 * j + 1) 0) (8 * i) 8 * 2 ^ 8 +
    bitsAt (d.getD (4 * j + 2) 0) (8 * i) 8 * 2 ^ 16 + bitsAt (d.getD (4 * j + 3) 0) (8 * i) 8 * 2 ^ 24) s
def execMldT16 (t a : Reg) (s : State) : Host.Outcome State Fault Refusal :=
  tileLoad (.mldT16 t a) t a 2 (fun n => 2 * n) (fun n => 2 * n) (fun d i j =>
    bitsAt (d.getD (2 * j) 0) (16 * i) 16 + bitsAt (d.getD (2 * j + 1) 0) (16 * i) 16 * 2 ^ 16) s

/-- `mst`: T rows of 4T bytes as class-6 stores (R175). -/
def execMst (t a : Reg) (s : State) : Host.Outcome State Fault Refusal :=
  let n := s.tlen s.strand.g
  tileWordOn (.mst t a) t (fun w =>
    match tilePlace w a 4 n (4 * n) with
    | .error e => .error e
    | .ok l =>
      let v := s.tile s.strand.g t.toNat
      let k := w.touchRegs [] [] [] [] [t.toNat] []
      .ok (l.zipIdx.foldl (fun k r =>
        k.store 6 none (.mem (.put .sp r.1 (leBytes (4 * n) (bitsAt v.toNat (r.2 * 4096) (32 * n))) 0 false))) k)) s

def okMcvt (f : Fmt) : Bool :=
  let ok := fun d => decide (d = descFP32) || decide (d = descI32) || decide (d = descU32)
  ok f.srcA && ok f.dst && f.srcB.isZero && !f.sc

/-- `mcvt`: every element converted in place (R176); an invalid format word is check 10. -/
def execMcvt (t xf : Reg) (s : State) : Host.Outcome State Fault Refusal :=
  let fw := s.strand.rx xf
  let f := fmtOf fw
  tileWordOn (.mcvt t xf) t (fun w =>
    if !okMcvt f then .error (.trap ⟨1, 5, fw⟩)
    else
      let old := s.tile s.strand.g t.toNat
      let k := w.touchRegs [] [] [] [] [t.toNat] [t.toNat]
      let (v, fl) := tileFlags (s.tlen s.strand.g) fun i j => convertCode f.srcA f.dst f.rm f.sat (tileWord old i j)
      .ok ((k.mod fun st => st.setTile st.strand.g t.toNat v).upd fun s => s.raise fl)) s

/-- The vector register of a tile row word, free of a `cget` in flight (R203). `mrowr` and `mroww`: row x(b) of the tile, as T 32-bit
elements of v(a) (R177). -/
def vectorFree (w : Work) (r : Reg) : Except Stop Unit :=
  let b := w.st.getBlockers [r.toNat]
  if b.isEmpty then .ok () else .error (.wait (.cmds b))

def execMrowr (t a b : Reg) (s : State) : Host.Outcome State Fault Refusal :=
  let n := s.tlen s.strand.g
  let r := (s.strand.rx b).toNat
  tileWordOn (.mrowr t a b) t (fun w =>
    if n ≤ r then .error (.trap ⟨1, 4, zext (encode (.mrowr t a b))⟩)
    else
      match vectorFree w a with
      | .error e => .error e
      | .ok _ =>
      let v := s.tile s.strand.g t.toNat
      let k := w.touchRegs [] [a.toNat] [] [] [t.toNat] []
      .ok ((List.range n).foldl (fun k j => k.setElt a 32 j (tileWord v r j, 0)) k)) s

def execMroww (t a b : Reg) (s : State) : Host.Outcome State Fault Refusal :=
  let n := s.tlen s.strand.g
  let r := (s.strand.rx b).toNat
  tileWordOn (.mroww t a b) t (fun w =>
    if n ≤ r then .error (.trap ⟨1, 4, zext (encode (.mroww t a b))⟩)
    else
      match vectorFree w a with
      | .error e => .error e
      | .ok _ =>
      let v := s.tile s.strand.g t.toNat
      let row := packWords ((List.range n).map fun j => s.strand.elt a 32 j)
      let k := w.touchRegs [a.toNat] [] [] [] [] [t.toNat]
      .ok (k.mod fun st =>
        st.setTile st.strand.g t.toNat (BitVec.ofNat 524288 (setBits v.toNat (r * 4096) (32 * n) row)))) s

end Sys2Proof.Machine
end

