-- ==== Sys2Proof/Machine/Descent.lean ====
section
/-! DEFINITION. Members of major 0x34: the descent words over trees of neurons (spec/08 R178 to R185; spec/23 R379 to
R381). -/

namespace Sys2Proof.Machine

/-! ### The tree descriptor (R179) -/

/-- Table 8.4. -/
structure Tree where
  wbase : Nat
  nstride : Nat
  tbase : Nat
  tstride : Nat
  dim : Nat
  depth : Nat
  deriving DecidableEq, Repr

def treeOf (n : Nat) : Tree :=
  ⟨bitsAt n 0 32, bitsAt n 32 32, bitsAt n 64 32, bitsAt n 96 32, bitsAt n 128 16, bitsAt n 144 8⟩

/-- The alignment faults of the four fields in their order; `ws` and `ts` are the sizes of weights and tokens. -/
def Tree.misaligned (t : Tree) (ws ts : Nat) : Option Trap :=
  let bad := fun (v : Nat) => some (⟨2, 0, BitVec.ofNat 64 v⟩ : Trap)
  if t.wbase % ws ≠ 0 then bad t.wbase
  else if t.nstride % ws ≠ 0 then bad (t.wbase + t.nstride)
  else if t.tbase % ts ≠ 0 then bad t.tbase
  else if t.tstride % ts ≠ 0 then bad (t.tbase + t.tstride)
  else none

/-- The descriptor at the meadow address in x(b), read as a class-6 scratchpad read with its limits checked (R179, R379). -/
def Work.readTree (w : Work) (b : Reg) (ws ts : Nat) : Except Stop Nat :=
  let va := w.cur.sx b
  match w.loadSp 6 va 64 with
  | .error e => .error e
  | .ok n =>
    let t := treeOf n
    if t.dim = 0 ∨ 4096 < t.dim ∨ t.depth < 2 ∨ 16 < t.depth ∨ n / 2 ^ 152 ≠ 0 then .error (.trap ⟨4, 0, va⟩)
    else
      match t.misaligned ws ts with
      | some e => .error (.trap e)
      | none => .ok n

/-- The tree that the convoy read at its dispatch at the address in x(b). -/
def Strand.tree (s : Strand) (b : Reg) : Tree :=
  treeOf (((s.snap.bind fun d => d.trees.find? fun e => decide (e.1 = b.toNat)).map (·.2)).getD 0)

/-! ### Node states (R180) -/

def nodeDepth (s : Nat) : Nat := bitsAt s 12 4
def nodePath (s : Nat) : Nat := bitsAt s 16 16
/-- The node number of a well-formed state; none where it is malformed. -/
def nodeOf (s : Nat) : Option Nat :=
  if bitsAt s 0 12 ≠ 0 ∨ 2 ^ nodeDepth s ≤ nodePath s then none else some (2 ^ nodeDepth s - 1 + nodePath s)
/-- The same under a tree's depth. -/
def nodeIn (t : Tree) (s : Nat) : Option Nat := if t.depth - 1 < nodeDepth s then none else nodeOf s
/-- A state from its fields. -/
def nodeState (margin path depth : Nat) : Nat := margin * 2 ^ 32 + path * 2 ^ 16 + depth * 2 ^ 12

/-! ### Dot products -/

/-- Elements from `addr` on, each a class-6 scratchpad read that faults as an element access (R182). -/
def Work.readRow (w : Work) (addr size : Nat) (d : Desc) (n : Nat) : Except Stop (List Val) :=
  match n with
  | 0 => .ok []
  | k + 1 =>
    match w.loadSp 6 (BitVec.ofNat 64 addr) size with
    | .error e => .error e
    | .ok c =>
      match w.readRow (addr + size) size d k with
      | .error e => .error e
      | .ok l => .ok (decodeVal d c :: l)

/-- The exact dot product with its specials as in R54, and the sign of an exact zero (R380). -/
def dotVal (rm : Rm) (a b : List Val) : Val × Flags :=
  if a.any Val.isNan || b.any Val.isNan then (.nan, 0)
  else
    let prods := (a.zip b).map fun p => Val.mul p.1 p.2
    if prods.any (fun p => decide (p.2 ≠ 0)) then (.nan, flagNV)
    else
      let s := Sum.addAll {} (prods.map (·.1))
      if s.invalid then (.nan, flagNV) else (s.value rm, 0)

/-- The dot product of token row r with the weights of node n. -/
def Work.dot (w : Work) (t : Tree) (f : Fmt) (r n : Nat) : Except Stop (Val × Flags) :=
  let ts := f.srcA.width / 8
  let ws := f.srcB.width / 8
  match w.readRow (t.tbase + r * t.tstride) ts f.srcA t.dim with
  | .error e => .error e
  | .ok a =>
    match w.readRow (t.wbase + n * t.nstride) ws f.srcB t.dim with
    | .error e => .error e
    | .ok b => .ok (dotVal f.rm a b)

/-! ### Members (Table 8.6) -/

def sew64 (sew : Nat) : Bool := decide (sew = 64)
def treeSource (d : Desc) : Bool := d.valid && decide (8 ≤ d.width) && decide (d.width ≤ 32)
def okStep (_ : Nat) (f : Fmt) : Bool :=
  treeSource f.srcA && treeSource f.srcB && decide (f.dst = descFP32) && decide (f.rm = 0) && !f.sat && !f.sc
def okLeaf (_ : Nat) (f : Fmt) : Bool := treeSource f.srcA && treeSource f.srcB && treeSource f.dst && !f.sc

/-- The descriptor read when the convoy dispatches. -/
def treeDispatch (b : Reg) (f : Fmt) (w : Work) : Except Stop (List (Nat × Nat)) :=
  match w.readTree b (max 1 (f.srcB.width / 8)) (max 1 (f.srcA.width / 8)) with
  | .error e => .error e
  | .ok n => .ok [(b.toNat, n)]

/-- `tdstep` (R182). -/
def stepState (t : Tree) (f : Fmt) (a d : Reg) (w : Work) (i : Nat) : Except Stop Work :=
  let st := w.cur.elt d 64 i
  match nodeIn t st with
  | none => .ok (w.upd fun s => s.raise flagNV)
  | some n =>
    if nodeDepth st = t.depth - 1 then .ok w
    else
      match w.dot t f (w.cur.elt a 64 i) n with
      | .error e => .error e
      | .ok (x, fl) =>
        let (y, fl2) := toFP32 x
        let right := !x.isNan && !bitAt y 31
        let margin := if x.isNan then 0x7FC00000 else y % 2 ^ 31
        .ok (w.setElt d 64 i
          (nodeState margin (2 * nodePath st + right.toNat) (nodeDepth st + 1), fl ||| fl2))

def memTdstep (d a b xf : Reg) (k : BitVec 2) : Member :=
  { kind := .last, k := k, sewOk := sew64, fmtReg := some xf, fmtOk := okStep,
    reads := fun _ _ => [group d 64, group a 64], writes := fun _ _ => [group d 64],
    extraOk := fun sew grp _ => apart (group d 64) (group a 64) sew grp,
    onDispatch := treeDispatch b,
    writesAt := some fun c s =>
      let t := s.tree b
      (group d 64).at s ((c.active s).filter fun i =>
        (nodeIn t (s.elt d 64 i)).isSome && decide (nodeDepth (s.elt d 64 i) ≠ t.depth - 1)),
    perform := fun c w => eachEl (stepState (w.cur.tree b) c.fmt a d) w (c.active w.cur) }

/-- `tdleaf` (R183): an integer word where every descriptor is integer (R138). -/
def leafResult (t : Tree) (f : Fmt) (a d : Reg) (w : Work) (i : Nat) : Except Stop Work :=
  let st := w.cur.elt d 64 i
  let bad := fun (_ : Unit) => Except.ok (w.setElt d f.dst.width i ((nanInto f.dst).1, flagNV))
  match nodeIn t st with
  | none => bad ()
  | some n =>
    if nodeDepth st ≠ t.depth - 1 then bad ()
    else
      match w.dot t f (w.cur.elt a 64 i) n with
      | .error e => .error e
      | .ok (x, fl) =>
        let r := if f.srcA.isInt && f.srcB.isInt && f.dst.isInt then (f.int x.toInt, flagNone) else f.round (x, fl)
        .ok (w.setElt d f.dst.width i r)

def memTdleaf (d a b xf : Reg) (k : BitVec 2) : Member :=
  { kind := .last, k := k, sewOk := sew64, fmtReg := some xf, fmtOk := okLeaf,
    reads := fun _ _ => [group d 64, group a 64], writes := fun _ f => [group d f.dst.width],
    extraOk := fun sew grp _ => apart (group d 64) (group a 64) sew grp,
    onDispatch := treeDispatch b,
    perform := fun c w => eachEl (leafResult (w.cur.tree b) c.fmt a d) w (c.active w.cur) }

/-- Insertion of an element into a list sorted by node number, behind equal ones. -/
def insertByNode (e : Nat × Nat) (l : List (Nat × Nat)) : List (Nat × Nat) :=
  match l with
  | [] => [e]
  | h :: rest => if e.1 < h.1 then e :: h :: rest else h :: insertByNode e rest

/-- The carry of `tdregrp` as element and node pairs. -/
def seenNodes (c : Carry) : List (Nat × Option Nat) :=
  match c with
  | .nodes l => l
  | _ => []

/-- The level of a node number. -/
def levelOf (n : Nat) : Nat := bitLen (n + 1) - 1

/-- The counts of the nodes of the levels found, as bytes. -/
def nodeCounts (nodes : List Nat) : List Byte :=
  match leastOf nodes with
  | none => []
  | some lo =>
    let hi := nodes.foldl max 0
    let first := 2 ^ levelOf lo - 1
    let last := 2 ^ (levelOf hi + 1) - 1
    (fromTo first last).flatMap fun n => leBytes 4 (nodes.countP fun m => decide (m = n))

/-- The end of `tdregrp`: the range of the counts checked, then counts and permutation written (R184). -/
def finishRegroup (d b : Reg) (w : Work) (seen : List (Nat × Option Nat)) : Except Stop Work :=
  let good := seen.filterMap fun e => match e.2 with
    | some n => some (n, e.1)
    | none => none
  let bad := seen.filterMap fun e => match e.2 with
    | some _ => none
    | none => some e.1
  let sorted := good.foldl (fun l e => insertByNode e l) []
  let perm := sorted.map (·.2) ++ bad
  let place := fun (w : Work) => perm.zipIdx.foldl (fun k e => k.setElt d 64 e.2 (e.1, 0)) w
  let counts := nodeCounts (good.map (·.1))
  if counts.isEmpty then .ok (place w)
  else
    match w.st.meadow w.cur.g (w.cur.sx b) counts.length with
    | .error t => .error (.trap t)
    | .ok dev =>
      match w.st.sleeperIn dev counts.length with
      | some x => .error (.wait (.bank (x / 2 ^ 22) (bankOf x)))
      | none => .ok (place (w.store 6 none (.mem (.put .sp dev counts 0 false))))

def memTdregrp (d a b : Reg) (k : BitVec 2) : Member :=
  { kind := .last, k := k, sewOk := sew64,
    reads := fun _ _ => [group a 64], writes := fun _ _ => [group d 64],
    extraOk := fun sew grp _ => apart (group d 64) (group a 64) sew grp,
    onDispatch := fun _ w => if (w.cur.sx b).toNat % 4 ≠ 0 then .error (.trap ⟨2, 0, w.cur.sx b⟩) else .ok [],
    writesAt := some fun c s =>
      if c.last then (group d 64).at s (List.range ((seenNodes s.carry).length + (c.active s).length)) else [],
    perform := fun c w =>
      let s := w.cur
      let seen := seenNodes s.carry ++ (c.active s).map fun i => (i, nodeOf (s.elt a 64 i))
      if c.last then
        match finishRegroup d b w seen with
        | .error e => .error (c.lo, e)
        | .ok k => .ok k
      else .ok (w.upd fun s => { s with carry := .nodes seen }) }

/-- An elementwise descent word: a 64-bit element from a 64-bit element (R185). -/
def pathMember (d a : Reg) (k : BitVec 2) (f : Nat → Nat) : Member :=
  { kind := .elementwise, k := k, sewOk := sew64,
    reads := fun _ _ => [group a 64], writes := fun _ _ => [group d 64],
    perform := fun c w => eachEl (fun w i => .ok (w.setElt d 64 i (f (w.cur.elt a 64 i), 0))) w (c.active w.cur) }

def memTdpathR (d a : Reg) (k : BitVec 2) : Member :=
  pathMember d a k fun s => (nodeOf s).getD (2 ^ 64 - 1)
def memTdpathW (d a : Reg) (k : BitVec 2) : Member :=
  pathMember d a k fun n => if 65534 < n then 0xFFF else nodeState 0 (n + 1 - 2 ^ levelOf n) (levelOf n)

/-- `tdaddr`: it reads the descriptor and no format word, so only the limits of Table 8.4 are checked. -/
def memTdaddr (d a b : Reg) (k : BitVec 2) : Member :=
  { kind := .elementwise, k := k, sewOk := sew64,
    reads := fun _ _ => [group a 64], writes := fun _ _ => [group d 64],
    onDispatch := fun _ w => treeDispatch b (fmtOf 0) w,
    perform := fun c w =>
      let t := w.cur.tree b
      eachEl (fun w i =>
        let r := match nodeIn t (w.cur.elt a 64 i) with
          | some n => t.wbase + n * t.nstride
          | none => 2 ^ 64 - 1
        .ok (w.setElt d 64 i (r, 0))) w (c.active w.cur) }

end Sys2Proof.Machine
end

