-- ==== Sys2Proof/Machine/Issue.lean ====
section
/-! DEFINITION. Dispatch of a convoy of vector-class words: fetch, framing, the checks of Table 5.19 member by member, and
one slab step (spec/02 R29 to R36; spec/05 R91, R102, R103; spec/06 R397). One meaning per vector-class word. -/

namespace Sys2Proof.Machine

/-- The member that a vector-class word is. -/
def memberOf (i : Instr) : Option Member :=
  match i with
  | .vadd _ d a b xf k => some (memVadd d a b xf k)
  | .vsub _ d a b xf k => some (memVsub d a b xf k)
  | .vmul _ d a b xf k => some (memVmul d a b xf k)
  | .vdiv _ d a b xf k => some (memVdiv d a b xf k)
  | .vmin _ d a b xf k => some (memVmin d a b xf k)
  | .vmax _ d a b xf k => some (memVmax d a b xf k)
  | .vsqrt _ d a xf k => some (memVsqrt d a xf k)
  | .vabs _ d a xf k => some (memVabs d a xf k)
  | .vfma _ d a b xf k => some (memVfma d a b xf k)
  | .vfms _ d a b xf k => some (memVfms d a b xf k)
  | .vfnma _ d a b xf k => some (memVfnma d a b xf k)
  | .vfnms _ d a b xf k => some (memVfnms d a b xf k)
  | .vmulh _ d a b xf k => some (memVmulh d a b xf k)
  | .vrem _ d a b xf k => some (memVrem d a b xf k)
  | .vneg _ d a xf k => some (memVneg d a xf k)
  | .vand _ d a b xf k => some (memVand d a b xf k)
  | .vor _ d a b xf k => some (memVor d a b xf k)
  | .vxor _ d a b xf k => some (memVxor d a b xf k)
  | .vnot _ d a xf k => some (memVnot d a xf k)
  | .vsll _ d a b xf k => some (memVsll d a b xf k)
  | .vsrl _ d a b xf k => some (memVsrl d a b xf k)
  | .vsra _ d a b xf k => some (memVsra d a b xf k)
  | .vceq _ d a b xf k => some (memVceq d a b xf k)
  | .vcne _ d a b xf k => some (memVcne d a b xf k)
  | .vclt _ d a b xf k => some (memVclt d a b xf k)
  | .vcle _ d a b xf k => some (memVcle d a b xf k)
  | .vcgt _ d a b xf k => some (memVcgt d a b xf k)
  | .vcge _ d a b xf k => some (memVcge d a b xf k)
  | .vcun _ d a b xf k => some (memVcun d a b xf k)
  | .vsel _ d a b xf k => some (memVsel d a b xf k)
  | .kand _ d a b => some (memKand d a b)
  | .kor _ d a b => some (memKor d a b)
  | .kxor _ d a b => some (memKxor d a b)
  | .knot _ d a => some (memKnot d a)
  | .kpopc _ d a k => some (memKpopc d a k)
  | .kfirst _ d a k => some (memKfirst d a k)
  | .vcvt _ d a xf k => some (memVcvt d a xf k)
  | .vcvtS _ d a b xf k => some (memVcvtS d a b xf k)
  | .vredsum _ d a xf k => some (memVredsum d a xf k)
  | .vredmin _ d a xf k => some (memVredmin d a xf k)
  | .vredmax _ d a xf k => some (memVredmax d a xf k)
  | .vredand _ d a xf k => some (memVredand d a xf k)
  | .vredor _ d a xf k => some (memVredor d a xf k)
  | .vscan _ d a xf k => some (memVscan d a xf k)
  | .vscanx _ d a xf k => some (memVscanx d a xf k)
  | .vmaxi _ d a xf k => some (memVmaxi d a xf k)
  | .vmini _ d a xf k => some (memVmini d a xf k)
  | .vmaxic _ d a xf k => some (memVmaxic d a xf k)
  | .vperm _ d a b xf k => some (memVperm d a b xf k)
  | .vslideup _ d a b xf k => some (memVslideup d a b xf k)
  | .vslidedn _ d a b xf k => some (memVslidedn d a b xf k)
  | .vbcast _ d a xf k => some (memVbcast d a xf k)
  | .vmvxs _ d a xf k => some (memVmvxs d a xf k)
  | .vmvsx _ d a xf k => some (memVmvsx d a xf k)
  | .vcompress _ d a xf k => some (memVcompress d a xf k)
  | .vid _ d xf k => some (memVid d xf k)
  | .vexp2 _ d a xf k => some (memVexp2 d a xf k)
  | .vlog2 _ d a xf k => some (memVlog2 d a xf k)
  | .vrcp _ d a xf k => some (memVrcp d a xf k)
  | .vrsqrt _ d a xf k => some (memVrsqrt d a xf k)
  | .vld _ d a st k => some (memVld d a st k)
  | .vlds _ d a b st k => some (memVlds d a b st k)
  | .vldx _ d a b st k => some (memVldx d a b st k)
  | .vldsp _ d a st k => some (memVldsp d a st k)
  | .vldm _ d a k => some (memVldm d a k)
  | .vldxsp _ d a b st k => some (memVldxsp d a b st k)
  | .vst _ d a st k => some (memVst d a st k)
  | .vsts _ d a b st k => some (memVsts d a b st k)
  | .vstx _ d a b st k => some (memVstx d a b st k)
  | .vstsp _ d a st k => some (memVstsp d a st k)
  | .vstm _ d a k => some (memVstm d a k)
  | .vstxsp _ d a b st k => some (memVstxsp d a b st k)
  | .tacc _ t a b xf => some (memTacc t a b xf)
  | .taccS _ t a b xf => some (memTaccS t a b xf)
  | .tdstep _ d a b xf k => some (memTdstep d a b xf k)
  | .tdleaf _ d a b xf k => some (memTdleaf d a b xf k)
  | .tdregrp _ d a b k => some (memTdregrp d a b k)
  | .tdpathR _ d a k => some (memTdpathR d a k)
  | .tdpathW _ d a k => some (memTdpathW d a k)
  | .tdaddr _ d a b k => some (memTdaddr d a b k)
  | _ => none

/-! ### Fetch (check 1) -/

/-- A word of its block that the strand's loop has already fetched: no pass fetches it again (R214, log 75). -/
def Strand.kept (s : Strand) (va : W64) : Option W32 :=
  match s.loop with
  | some l => if l.suspended then none else (l.words.find? fun e => decide (e.1 = va)).map (·.2)
  | none => none

/-- A word fetched, kept where it is one of the loop's block. -/
def Strand.keep (s : Strand) (va : W64) (x : W32) : Strand :=
  match s.loop with
  | some l =>
    if !l.suspended && decide (l.start ≤ va) && decide (va < l.stop) then { s with loop := some { l with words := l.words ++ [(va, x)] } }
    else s
  | none => s

/-- A word that the loop of the strand holds, or one fetched from field memory (R33, R397). A fetch address that is no multiple of 4 is a
misaligned access (log 12). -/
def Work.fetch (w : Work) (va : W64) : Except Trap (W32 × Work) :=
  match w.cur.kept va with
  | some x => .ok (x, w)
  | none =>
    match w.st.checkVirtual w.cur.g.core w.cur.g.ctx va 4 .fetch with
    | .error t => .error t
    | .ok p =>
      if w.st.poisoned p then .error ⟨6, 0, va⟩
      else
        match p with
        | .mem t pa =>
          let x := BitVec.ofNat 32 (leNat (w.bytes t pa 4))
          .ok (x, (w.note p).upd fun s => s.keep va x)
        | _ => .error ⟨4, 0, va⟩

/-- The words of a convoy behind its first one, up to four in all (R29). -/
def Work.fetchRest (w : Work) (va : W64) (fuel : Nat) : Except Trap (List W32 × Work) :=
  match fuel with
  | 0 => .ok ([], w)
  | k + 1 =>
    match w.fetch va with
    | .error t => .error t
    | .ok (x, w1) =>
      if chained x.toNat then
        match w1.fetchRest (va + 4) k with
        | .error t => .error t
        | .ok (l, w2) => .ok (x :: l, w2)
      else .ok ([x], w1)

/-! ### Framing (check 2) -/

/-- Words of kind N (R91): the last member of their convoy. -/
def lastKind (w : Nat) : Bool :=
  let fn := w % 8
  match majorOf w with
  | 0x25 => decide (fn = 5) || decide (fn = 6)
  | 0x27 => decide (fn ≤ 6)
  | 0x28 => decide (fn ≤ 2)
  | 0x29 => decide (fn = 4) || decide (fn = 6)
  | 0x30 => decide (fn ≤ 1)
  | 0x34 => decide (fn ≤ 2)
  | _ => false

/-- Rule 5 of R29 on the numbers of the fields: the vector and mask registers that a word reads, and those it writes. -/
def fieldReads (m : Member) : List Nat × List Nat := ((m.reads 8 (fmtOf 0)).map fun o => o.m.toNat, m.masks)
def fieldWrites (m : Member) : List Nat × List Nat := ((m.writes 8 (fmtOf 0)).map fun o => o.m.toNat, m.maskWrites)

/-- The index of the first word that breaks a rule of R29; `n` words stand before, which write `wv` and `wk`. DESIGN CHOICE (log 54): where
a member of kind N is not the last, that member is the offending word. -/
def badFrame (n : Nat) (wv wk : List Nat) (l : List W32) : Option Nat :=
  match l with
  | [] => none
  | x :: rest =>
    let w := x.toNat
    let m := match selectLow w with
      | some i => memberOf i
      | none => none
    if decide (3 ≤ n) && chained w then some n
    else if !mayChain w && (chained w || decide (n ≠ 0)) then some n
    else if lastKind w && chained w then some n
    else if (match m with
        | some m => m.rule5 && (meets (fieldReads m).1 wv || meets (fieldReads m).2 wk)
        | none => false) then some n
    else
      match m with
      | some m => badFrame (n + 1) (wv ++ (fieldWrites m).1) (wk ++ (fieldWrites m).2) rest
      | none => badFrame (n + 1) wv wk rest

/-! ### Checks 3 to 12 -/

/-- A member with its word, its format word as read at dispatch (R30, R45) and its address. DEDUCED (log 64): a field xf of 0 reads `x0`, the
format word of all zeros. -/
def Strand.place (s : Strand) (m : Member) (word : W32) (addr : W64) : Placed :=
  let fw := match m.fmtReg with
    | some r => s.sx r
    | none => 0
  ⟨m, word, fw, fmtOf fw, addr⟩

/-- The members of a convoy, each through checks 3 to 12 before the next (R103). -/
def placeAll (s : Strand) (l : List W32) (addr : W64) (wv wk : List Nat) : Except Trap (List Placed) :=
  match l with
  | [] => .ok []
  | x :: rest =>
    match decodeMember x with
    | .error .undefined => .error ⟨1, 0, zext x⟩
    | .error _ => .error ⟨1, 1, zext x⟩
    | .ok i =>
      if !i.wf then .error ⟨1, 4, zext x⟩
      else
        match memberOf i with
        | none => .error ⟨1, 2, addr⟩
        | some m =>
          let p := s.place m x addr
          match checkMember s p wv wk with
          | some t => .error t
          | none =>
            match placeAll s rest (addr + 4) (wv ++ p.writeRegs s.sew s.grp) (wk ++ m.maskWrites) with
            | .error t => .error t
            | .ok ps => .ok (p :: ps)

/-- The convoy that starts at the strand's pc with the words given. -/
def runConvoy (words : List W32) (w : Work) : Work :=
  let s := w.cur
  match badFrame 0 [] [] words with
  | some n => w.takeTrap false ⟨1, 2, s.pc + BitVec.ofNat 64 (4 * n)⟩
  | none =>
    match placeAll s words s.pc [] [] with
    | .error t => w.takeTrap false t
    | .ok ps => runStep ps w

/-- The words of the convoy that the word `x` at the strand's pc begins: between slab steps those that it dispatched with, else `x` and,
where it is chained, the words fetched behind it (R29, R33). -/
def Work.convoyWords (w : Work) (x : W32) : Except Trap (List W32 × Work) :=
  match w.cur.snap with
  | some d => .ok (x :: d.words.tail, w)
  | none =>
    if chained x.toNat then
      match w.fetchRest (w.cur.pc + 4) 3 with
      | .error t => .error t
      | .ok (l, k) => .ok (x :: l, k)
    else .ok ([x], w)

/-- The convoy of a vector-class word at the strand's pc. -/
def convoyOf (x : W32) (w : Work) : Work :=
  match w.convoyWords x with
  | .error t => w.takeTrap false t
  | .ok (l, k) => runConvoy l k

/-- A vector-class word: the first member of its convoy. One meaning runs one slab step; the convoy retires with its last (R34). -/
def vectorWord (i : Instr) (s : State) : Host.Outcome State Fault Refusal := s.finish (convoyOf (encode i) s.work)

def execVadd (c : Bool) (d a b xf : Reg) (k : BitVec 2) (s : State) := vectorWord (.vadd c d a b xf k) s
def execVsub (c : Bool) (d a b xf : Reg) (k : BitVec 2) (s : State) := vectorWord (.vsub c d a b xf k) s
def execVmul (c : Bool) (d a b xf : Reg) (k : BitVec 2) (s : State) := vectorWord (.vmul c d a b xf k) s
def execVdiv (c : Bool) (d a b xf : Reg) (k : BitVec 2) (s : State) := vectorWord (.vdiv c d a b xf k) s
def execVmin (c : Bool) (d a b xf : Reg) (k : BitVec 2) (s : State) := vectorWord (.vmin c d a b xf k) s
def execVmax (c : Bool) (d a b xf : Reg) (k : BitVec 2) (s : State) := vectorWord (.vmax c d a b xf k) s
def execVsqrt (c : Bool) (d a xf : Reg) (k : BitVec 2) (s : State) := vectorWord (.vsqrt c d a xf k) s
def execVabs (c : Bool) (d a xf : Reg) (k : BitVec 2) (s : State) := vectorWord (.vabs c d a xf k) s
def execVfma (c : Bool) (d a b xf : Reg) (k : BitVec 2) (s : State) := vectorWord (.vfma c d a b xf k) s
def execVfms (c : Bool) (d a b xf : Reg) (k : BitVec 2) (s : State) := vectorWord (.vfms c d a b xf k) s
def execVfnma (c : Bool) (d a b xf : Reg) (k : BitVec 2) (s : State) := vectorWord (.vfnma c d a b xf k) s
def execVfnms (c : Bool) (d a b xf : Reg) (k : BitVec 2) (s : State) := vectorWord (.vfnms c d a b xf k) s
def execVmulh (c : Bool) (d a b xf : Reg) (k : BitVec 2) (s : State) := vectorWord (.vmulh c d a b xf k) s
def execVrem (c : Bool) (d a b xf : Reg) (k : BitVec 2) (s : State) := vectorWord (.vrem c d a b xf k) s
def execVneg (c : Bool) (d a xf : Reg) (k : BitVec 2) (s : State) := vectorWord (.vneg c d a xf k) s
def execVand (c : Bool) (d a b xf : Reg) (k : BitVec 2) (s : State) := vectorWord (.vand c d a b xf k) s
def execVor (c : Bool) (d a b xf : Reg) (k : BitVec 2) (s : State) := vectorWord (.vor c d a b xf k) s
def execVxor (c : Bool) (d a b xf : Reg) (k : BitVec 2) (s : State) := vectorWord (.vxor c d a b xf k) s
def execVnot (c : Bool) (d a xf : Reg) (k : BitVec 2) (s : State) := vectorWord (.vnot c d a xf k) s
def execVsll (c : Bool) (d a b xf : Reg) (k : BitVec 2) (s : State) := vectorWord (.vsll c d a b xf k) s
def execVsrl (c : Bool) (d a b xf : Reg) (k : BitVec 2) (s : State) := vectorWord (.vsrl c d a b xf k) s
def execVsra (c : Bool) (d a b xf : Reg) (k : BitVec 2) (s : State) := vectorWord (.vsra c d a b xf k) s
def execVceq (c : Bool) (d a b xf : Reg) (k : BitVec 2) (s : State) := vectorWord (.vceq c d a b xf k) s
def execVcne (c : Bool) (d a b xf : Reg) (k : BitVec 2) (s : State) := vectorWord (.vcne c d a b xf k) s
def execVclt (c : Bool) (d a b xf : Reg) (k : BitVec 2) (s : State) := vectorWord (.vclt c d a b xf k) s
def execVcle (c : Bool) (d a b xf : Reg) (k : BitVec 2) (s : State) := vectorWord (.vcle c d a b xf k) s
def execVcgt (c : Bool) (d a b xf : Reg) (k : BitVec 2) (s : State) := vectorWord (.vcgt c d a b xf k) s
def execVcge (c : Bool) (d a b xf : Reg) (k : BitVec 2) (s : State) := vectorWord (.vcge c d a b xf k) s
def execVcun (c : Bool) (d a b xf : Reg) (k : BitVec 2) (s : State) := vectorWord (.vcun c d a b xf k) s
def execVsel (c : Bool) (d a b xf : Reg) (k : BitVec 2) (s : State) := vectorWord (.vsel c d a b xf k) s
def execKand (c : Bool) (d a b : Reg) (s : State) := vectorWord (.kand c d a b) s
def execKor (c : Bool) (d a b : Reg) (s : State) := vectorWord (.kor c d a b) s
def execKxor (c : Bool) (d a b : Reg) (s : State) := vectorWord (.kxor c d a b) s
def execKnot (c : Bool) (d a : Reg) (s : State) := vectorWord (.knot c d a) s
def execKpopc (c : Bool) (d a : Reg) (k : BitVec 2) (s : State) := vectorWord (.kpopc c d a k) s
def execKfirst (c : Bool) (d a : Reg) (k : BitVec 2) (s : State) := vectorWord (.kfirst c d a k) s
def execVcvt (c : Bool) (d a xf : Reg) (k : BitVec 2) (s : State) := vectorWord (.vcvt c d a xf k) s
def execVcvtS (c : Bool) (d a b xf : Reg) (k : BitVec 2) (s : State) := vectorWord (.vcvtS c d a b xf k) s
def execVredsum (c : Bool) (d a xf : Reg) (k : BitVec 2) (s : State) := vectorWord (.vredsum c d a xf k) s
def execVredmin (c : Bool) (d a xf : Reg) (k : BitVec 2) (s : State) := vectorWord (.vredmin c d a xf k) s
def execVredmax (c : Bool) (d a xf : Reg) (k : BitVec 2) (s : State) := vectorWord (.vredmax c d a xf k) s
def execVredand (c : Bool) (d a xf : Reg) (k : BitVec 2) (s : State) := vectorWord (.vredand c d a xf k) s
def execVredor (c : Bool) (d a xf : Reg) (k : BitVec 2) (s : State) := vectorWord (.vredor c d a xf k) s
def execVscan (c : Bool) (d a xf : Reg) (k : BitVec 2) (s : State) := vectorWord (.vscan c d a xf k) s
def execVscanx (c : Bool) (d a xf : Reg) (k : BitVec 2) (s : State) := vectorWord (.vscanx c d a xf k) s
def execVmaxi (c : Bool) (d a xf : Reg) (k : BitVec 2) (s : State) := vectorWord (.vmaxi c d a xf k) s
def execVmini (c : Bool) (d a xf : Reg) (k : BitVec 2) (s : State) := vectorWord (.vmini c d a xf k) s
def execVmaxic (c : Bool) (d a xf : Reg) (k : BitVec 2) (s : State) := vectorWord (.vmaxic c d a xf k) s
def execVperm (c : Bool) (d a b xf : Reg) (k : BitVec 2) (s : State) := vectorWord (.vperm c d a b xf k) s
def execVslideup (c : Bool) (d a b xf : Reg) (k : BitVec 2) (s : State) := vectorWord (.vslideup c d a b xf k) s
def execVslidedn (c : Bool) (d a b xf : Reg) (k : BitVec 2) (s : State) := vectorWord (.vslidedn c d a b xf k) s
def execVbcast (c : Bool) (d a xf : Reg) (k : BitVec 2) (s : State) := vectorWord (.vbcast c d a xf k) s
def execVmvxs (c : Bool) (d a xf : Reg) (k : BitVec 2) (s : State) := vectorWord (.vmvxs c d a xf k) s
def execVmvsx (c : Bool) (d a xf : Reg) (k : BitVec 2) (s : State) := vectorWord (.vmvsx c d a xf k) s
def execVcompress (c : Bool) (d a xf : Reg) (k : BitVec 2) (s : State) := vectorWord (.vcompress c d a xf k) s
def execVid (c : Bool) (d xf : Reg) (k : BitVec 2) (s : State) := vectorWord (.vid c d xf k) s
def execVexp2 (c : Bool) (d a xf : Reg) (k : BitVec 2) (s : State) := vectorWord (.vexp2 c d a xf k) s
def execVlog2 (c : Bool) (d a xf : Reg) (k : BitVec 2) (s : State) := vectorWord (.vlog2 c d a xf k) s
def execVrcp (c : Bool) (d a xf : Reg) (k : BitVec 2) (s : State) := vectorWord (.vrcp c d a xf k) s
def execVrsqrt (c : Bool) (d a xf : Reg) (k : BitVec 2) (s : State) := vectorWord (.vrsqrt c d a xf k) s
def execVld (c : Bool) (d a : Reg) (st k : BitVec 2) (s : State) := vectorWord (.vld c d a st k) s
def execVlds (c : Bool) (d a b : Reg) (st k : BitVec 2) (s : State) := vectorWord (.vlds c d a b st k) s
def execVldx (c : Bool) (d a b : Reg) (st k : BitVec 2) (s : State) := vectorWord (.vldx c d a b st k) s
def execVldsp (c : Bool) (d a : Reg) (st k : BitVec 2) (s : State) := vectorWord (.vldsp c d a st k) s
def execVldm (c : Bool) (d a : Reg) (k : BitVec 2) (s : State) := vectorWord (.vldm c d a k) s
def execVldxsp (c : Bool) (d a b : Reg) (st k : BitVec 2) (s : State) := vectorWord (.vldxsp c d a b st k) s
def execVst (c : Bool) (d a : Reg) (st k : BitVec 2) (s : State) := vectorWord (.vst c d a st k) s
def execVsts (c : Bool) (d a b : Reg) (st k : BitVec 2) (s : State) := vectorWord (.vsts c d a b st k) s
def execVstx (c : Bool) (d a b : Reg) (st k : BitVec 2) (s : State) := vectorWord (.vstx c d a b st k) s
def execVstsp (c : Bool) (d a : Reg) (st k : BitVec 2) (s : State) := vectorWord (.vstsp c d a st k) s
def execVstm (c : Bool) (d a : Reg) (k : BitVec 2) (s : State) := vectorWord (.vstm c d a k) s
def execVstxsp (c : Bool) (d a b : Reg) (st k : BitVec 2) (s : State) := vectorWord (.vstxsp c d a b st k) s
def execTacc (c : Bool) (t a b xf : Reg) (s : State) := vectorWord (.tacc c t a b xf) s
def execTaccS (c : Bool) (t a b xf : Reg) (s : State) := vectorWord (.taccS c t a b xf) s
def execTdstep (c : Bool) (d a b xf : Reg) (k : BitVec 2) (s : State) := vectorWord (.tdstep c d a b xf k) s
def execTdleaf (c : Bool) (d a b xf : Reg) (k : BitVec 2) (s : State) := vectorWord (.tdleaf c d a b xf k) s
def execTdregrp (c : Bool) (d a b : Reg) (k : BitVec 2) (s : State) := vectorWord (.tdregrp c d a b k) s
def execTdpathR (c : Bool) (d a : Reg) (k : BitVec 2) (s : State) := vectorWord (.tdpathR c d a k) s
def execTdpathW (c : Bool) (d a : Reg) (k : BitVec 2) (s : State) := vectorWord (.tdpathW c d a k) s
def execTdaddr (c : Bool) (d a b : Reg) (k : BitVec 2) (s : State) := vectorWord (.tdaddr c d a b k) s

end Sys2Proof.Machine
end

