-- ==== Sys2Proof/Machine/System.lean ====
section
/-! DEFINITION. `vlset` and the strip, and the system words of a strand: `svc`, `tret`, `brk`, `wfi`, `lend`, `lbuf` (spec/07
R140 to R144; spec/06 R129 to R132; spec/09 R214, R215; spec/05 R101). -/

namespace Sys2Proof.Machine

/-! ### The strip (R140) -/

/-- Whether the strand is in a pass of its loop (R143). -/
def Strand.inLoop (s : Strand) : Bool :=
  match s.loop with
  | some l => !l.suspended
  | none => false

/-- The registers of the checkpoint: those of `ckmask`, and inside a loop block those that the loop advances. -/
def Strand.ckRegs (s : Strand) : List Nat :=
  let byMask := (fromTo 1 32).filter fun n => s.ckmask.getLsbD n
  let byLoop := match s.loop with
    | some l => if l.suspended then [] else l.regs.filter fun r => !byMask.contains r
    | none => []
  byMask ++ byLoop

/-- The strip checkpoint, taken before x(d) is written. It holds the loop that the strip's `vlset` stands in, or that a trap has suspended. -/
def Strand.checkpoint (s : Strand) : Ckpt :=
  { xs := s.ckRegs.map fun n => (n, s.rx (BitVec.ofNat 5 n)), fflags := s.fflags, vl := s.vl, vtype := s.vtype,
    loop := (s.loop.filter fun l => l.suspended || s.inLoop).map Loop.unread }

/-- VLMAX at a width and a grouping on `n` lane groups. -/
def vlmaxOf (sew grp n : Nat) : Nat := 4 * grp * 64 * n * 8 / sew

/-- `vlset` (R140 to R144). -/
def execVlset (d a : Reg) (gc sew : BitVec 2) (s : State) : Host.Outcome State Fault Refusal :=
  let w := s.work.drain
  let held := (s.core s.strand.g.core).heldLanes s.strand.g
  let k := w.upd fun t =>
    let t0 := if t.g.recl then { t with v := Vector.replicate 32 0, k := Vector.replicate 4 0 } else t
    let again := t0.redo && decide (t0.pc = t0.stripPc)
    let request := t0.rx a
    let most := BitVec.ofNat 64 (vlmaxOf (8 * 2 ^ sew.toNat) (2 ^ gc.toNat) held.length)
    let vl := if request.toNat < most.toNat then request else most
    ({ t0 with
      wg := held, ckpt := some t0.checkpoint, stripPc := t0.pc, rewound := t0.rewound && again, redo := false,
      reclaimed := t0.reclaimed || lowerOnly (s.core s.strand.g.core) t0.g, vl := vl, vtype := BitVec.ofNat 64 (gc.toNat * 4 + sew.toNat),
      vstart := 0, vslab := 0, liveV := 0, liveK := 0, liveT := 0, wrV := 0, wrK := 0, wrT := 0, buffering := true }).wx d vl
  s.finish (s.drained k.retire)

/-! ### System words -/

/-- `svc` (R129) and `brk` (R130). -/
def execSvc (s : State) : Host.Outcome State Fault Refusal := s.finish (s.work.trapWord ⟨0x0E, 0, 0⟩)
def execBrk (code : BitVec 5) (s : State) : Host.Outcome State Fault Refusal :=
  s.finish (s.work.trapWord ⟨0x0D, code.toNat, zext (encode (.brk code))⟩)

/-- A privileged word: illegal instruction, subcode 3, at group level (check 5). -/
def privileged (i : Instr) (run : Work → Work) (s : State) : Host.Outcome State Fault Refusal :=
  let w := s.work
  s.finish (if s.strand.priv then run w else w.illegal 3 (zext (encode i)))

/-- `tret` (R128). -/
def execTret (s : State) : Host.Outcome State Fault Refusal := privileged .tret Work.returnFrom s

/-- `wfi` retires once `cycle` ≥ `tmcmp` (R132). -/
def execWfi (s : State) : Host.Outcome State Fault Refusal :=
  privileged .wfi (fun w =>
    if s.strand.tmcmp.toNat ≤ (s.core s.strand.g.core).cycle.toNat then w.retire else w.wait .timer) s

/-- `lend` reached with no loop active retires with no effect (R214). -/
def execLend (s : State) : Host.Outcome State Fault Refusal := s.finish s.work.retire

/-! ### The loop buffer -/

/-- Words that a block may not hold: `lbuf`, `lend`, `gend`, `svc`, `tret`, branches and jumps (R103, R214). -/
def notInBlock (w : Nat) : Bool :=
  let maj := majorOf w
  (decide (0x10 ≤ maj) && decide (maj ≤ 0x17)) || decide (maj = 0x1E) ||
  (decide (maj = 0x1D) && [0, 1, 4, 5].contains (w % 32))

/-- The words of `n` convoys and the word behind them, from `va` on, each with its address; `j` words of the present convoy have passed. A
fourth chained word ends its convoy: it breaks rule 1 of R29. -/
def fetchBlock (w : Work) (va : W64) (n j fuel : Nat) : Except Trap (List (W64 × W32) × Work) :=
  match fuel with
  | 0 => .ok ([], w)
  | f + 1 =>
    match w.fetch va with
    | .error t => .error t
    | .ok (x, k) =>
      if n = 0 then .ok ([(va, x)], k)
      else
        let more := chained x.toNat && decide (j < 3)
        match fetchBlock k (va + 4) (if more then n else n - 1) (if more then j + 1 else 0) f with
        | .error t => .error t
        | .ok (l, k') => .ok ((va, x) :: l, k')

/-- The address of the `lend` behind the convoys of a block, or that of the first offending word (check 2). DESIGN CHOICE (log 54): a block's
convoy whose fourth word is chained is found here, at the `lbuf`. -/
def scanBlock (l : List (W64 × W32)) (j : Nat) : Except W64 W64 :=
  match l with
  | [] => .error 0
  | (va, x) :: rest =>
    if rest.isEmpty then (if x = encode .lend then .ok va else .error va)
    else if notInBlock x.toNat || (chained x.toNat && decide (3 ≤ j)) then .error va
    else scanBlock rest (if chained x.toNat then j + 1 else 0)

/-- Words of the descriptor, through the fetch path (R101, R397). -/
def fetchWords (w : Work) (va : W64) (n : Nat) : Except Trap (List Nat × Work) :=
  match n with
  | 0 => .ok ([], w)
  | k + 1 =>
    match w.fetch va with
    | .error t => .error t
    | .ok (x, w1) =>
      match fetchWords w1 (va + 4) k with
      | .error t => .error t
      | .ok (l, w2) => .ok (x.toNat :: l, w2)

/-- Used entries of a list that must stand before the zero ones; none where one stands behind. -/
def usedFirst (l : List Nat) : Option (List Nat) :=
  match l with
  | [] => some []
  | n :: rest =>
    if n = 0 then (if rest.all fun m => decide (m = 0) then some [] else none)
    else
      match usedFirst rest with
      | some r => some (n :: r)
      | none => none

/-- Whether a list holds no number twice. -/
def distinct (l : List Nat) : Bool :=
  match l with
  | [] => true
  | n :: rest => !rest.contains n && distinct rest

/-- The loop state that a descriptor gives (Table 5.18); none where it is malformed. -/
def loopOf (start stop : W64) (desc : Nat) : Option Loop :=
  match usedFirst ((List.range 6).map fun d => bitsAt desc (16 * d) 16), usedFirst ((List.range 4).map fun r => bitsAt desc (96 + 8 * r) 8) with
  | some cnt, some regs =>
    if cnt.isEmpty || !distinct regs || regs.any (fun r => decide (31 < r)) then none
    else
      let inc := (List.range regs.length).map fun r =>
        (List.range 6).map fun d => signed 16 (bitsAt desc (128 + 96 * r + 16 * d) 16)
      some ⟨start, stop, cnt, cnt.map fun _ => 0, regs, inc, false, []⟩
  | _, _ => none

/-- `lbuf` (R214, R215): the fetch of its descriptor and block, checks 2, 6 and 13 of Table 5.19, then the first pass. A count above 16
convoys is out of its field's range (log 13). The passes run from the block as it is fetched here (log 75). DESIGN CHOICE (log 76): where a word of
the descriptor and a word of the block both fail to fetch, the descriptor's fault is reported. -/
def execLbuf (d : Reg) (imm : BitVec 20) (s : State) : Host.Outcome State Fault Refusal :=
  let w := s.work
  let pc := s.strand.pc
  let desc := pc + sext imm * 4
  let word : W64 := zext (encode (.lbuf d imm))
  s.finish (
    match fetchWords w desc 16 with
    | .error t => w.trapWord t
    | .ok (ws, w1) =>
      match fetchBlock w1 (pc + 4) (d.toNat + 1) 0 129 with
      | .error t => w.trapWord t
      | .ok (block, w2) =>
        if s.strand.loop.isSome then w.illegal 2 pc
        else
          match scanBlock block 0 with
          | .error va => w.illegal 2 va
          | .ok stop =>
            match loopOf (pc + 4) stop (packWords ws) with
            | none => w.illegal 4 word
            | some l =>
              if !(Instr.lbuf d imm).wf then w.illegal 4 word
              else if desc.toNat % 64 ≠ 0 then w.trapWord ⟨2, 0, desc⟩
              else (w2.upd fun t => { t with loop := some { l with words := block.dropLast } }).retire)

end Sys2Proof.Machine
end

