-- ==== Sys2Proof/Machine/Tags.lean ====
section
/-! DEFINITION. Engine words in general, deliveries at tag waits, the tag operations and `gend` (spec/07 Table 7.3; spec/09
R206, R209 to R212, R398; spec/14 R290 to R292; spec/20 Table 20.2). -/

namespace Sys2Proof.Machine

/-! ### Words of majors 0x36 to 0x3E -/

/-- The A field of the KIND 4 record of a word: its major, function, tag and channel (Table 20.2). A compare-and-swap has a register in the
place of a channel (Table 5.17). -/
def engineInfo (word : Nat) : Nat :=
  let maj := majorOf word
  let formE := decide (maj ≤ 0x3B)
  let fn := if formE then word % 4 else if maj = 0x3D then word % 8 else word % 32
  let tag := if formE then bitsAt word 4 6 else 0
  let atomic := decide (maj = 0x3C) && decide (fn ≠ 18) && decide (fn ≠ 19)
  let ch := if formE then bitsAt word 2 2 else if atomic then bitsAt word 5 2 else 0
  maj + fn * 2 ^ 6 + tag * 2 ^ 11 + ch * 2 ^ 17

/-- What a word of majors 0x36 to 0x3E finds at its dispatch: the strip's held stores have drained (Table 7.3), and the first dispatch
is traced with x(a). -/
def State.engineWork (s : State) (word : Nat) (a : Reg) : Work :=
  let w := s.work.drain
  if s.strand.waiting = .none then w.trace 4 (engineInfo word) (s.strand.rx a) else w

/-- A word of majors 0x36 to 0x3E. -/
def engineWord (word : Nat) (a : Reg) (run : Work → Work) (s : State) : Host.Outcome State Fault Refusal :=
  s.finish (s.drained (run (s.engineWork word a)))

/-! ### Deliveries (R206, R210, R398) -/

/-- The delivery of the lowest number in a list. -/
def lowest (l : List Delivery) : Option Delivery :=
  match l with
  | [] => none
  | d :: rest =>
    match lowest rest with
    | some e => if e.num < d.num then some e else some d
    | none => some d

/-- The delivery that a tag wait over `tags`, or over the channels `chs`, takes: of the lowest eligible tag, else of the
lowest channel. At a `gend` every pending delivery is due (`all`). -/
def Strand.due (s : Strand) (tags : W64) (chs : BitVec 4) (all : Bool) : Option Delivery :=
  let byTag := s.deliver.filter fun d =>
    !d.onChannel && (all || (tags.getLsbD d.num && (s.tags.getLsbD d.num || d.suspended)))
  match lowest byTag with
  | some d => some d
  | none => lowest (s.deliver.filter fun d => d.onChannel && (all || chs.getLsbD d.num))

/-- The strand's copies on covered tags whose fault has been taken go on from their suspended group (R206). -/
def State.resumeCopies (s : State) (tags : W64) : State :=
  let t := s.strand
  { s with cmds := s.cmds.map fun c =>
      match c.body with
      | .copy tag b p (some _) st =>
        if c.gid = t.g.gid ∧ c.sidx = t.sidx ∧ tags.getLsbD tag ∧
            !(t.deliver.any fun d => !d.onChannel && decide (d.num = tag)) then
          { c with body := .copy tag b p none st }
        else c
      | _ => c }

/-! ### The domain (R323, R327, R334, R337) -/

/-- The map that the seal protocol goes by: a module that joins takes part under the new one (R327). -/
def State.domain (s : State) : DomainMap := if s.rcv.joining then s.rcv.mapChange.getD s.map else s.map

/-- The other modules of the domain; those that a pending map admits; and the module that coordinates: the lowest-numbered that is not
fenced, and never one that is still joining. -/
def State.others (s : State) : List Nat := (s.domain.members.map (·.num)).filter fun m => decide (m ≠ s.domain.self)
def State.joiners (s : State) : List Nat :=
  match s.rcv.mapChange with
  | some m => (m.members.map (·.num)).filter fun n => decide (n ≠ m.self) && !s.others.contains n
  | none => []
def State.present (s : State) : List Nat := (s.domain.self :: s.others).filter fun m => !s.rcv.silent.contains m
def State.coordinator (s : State) : Nat :=
  (leastOf (if s.rcv.joining then s.present.filter fun m => decide (m ≠ s.domain.self) else s.present)).getD s.domain.self
def State.leads (s : State) : Bool := decide (s.coordinator = s.domain.self)

/-- Whether the module stands alone and a pending map takes it into a domain: it may be called there by a PREPARE (R327, R335, log 58). -/
def State.mayJoin (s : State) : Bool := s.others.isEmpty && !s.joiners.isEmpty

/-- The modules that a seal is to admit: a coordinator asks them in. One that stands alone asks none while the map has a lower-numbered module,
which asks it (log 58). -/
def State.asks (s : State) : List Nat :=
  if s.others.isEmpty && s.joiners.any (fun n => decide (n < ((s.rcv.mapChange.map (·.self)).getD 0))) then []
  else s.joiners.filter fun m => !s.rcv.silent.contains m

/-- The modules that a seal of this one runs with: the domain's, and those that it has asked in. -/
def State.sealWith (s : State) : List Nat := (s.present ++ s.rcv.asked).filter fun m => !s.rcv.silent.contains m

/-- What is known of a module: under the map in force, or under a pending one, by which a module that joins is reached. -/
def State.known (s : State) (m : Nat) : Option Peer :=
  (s.map.members ++ ((s.rcv.mapChange.map (·.members)).getD [])).find? fun p => decide (p.num = m)

/-- A flit of the seal protocol to a module: KIND 8 on virtual channel 2, with the interval (R336). Codes: 0 PREPARE, 1 READY,
2 COMMIT, 3 ABORT, 4 request. -/
def State.tell (s : State) (m code n : Nat) : State :=
  match s.known m with
  | some p =>
    match s.firstUsable p.ports with
    | some i => s.sendOn i (some (false, m)) p.ports 8 2 0 n (leBytes 1 code)
    | none => s
  | none => s

/-- A flit of the seal protocol received from a module, on its primary port (R322). -/
def State.heard (s : State) (m : Nat) : State :=
  match (s.known m).bind fun p => s.firstUsable p.ports with
  | some n => s.received n 0
  | none => s

/-- The module that a flit of the seal protocol to a member comes from: the coordinator, or for a module that joins the lowest of the domain. -/
def State.master (s : State) : Nat := if s.mayJoin then (leastOf s.joiners).getD s.coordinator else s.coordinator

/-- A flit of the seal protocol that has come, from the coordinator, or to it from a member (which one is free, log 10). -/
def State.heardSeal (s : State) : State :=
  if s.leads && (!s.mayJoin || !s.rcv.asked.isEmpty) then
    match s.oneOf ((s.others ++ s.rcv.asked).filter fun m => !s.rcv.silent.contains m) with
    | (some m, t) => t.heard m
    | (none, t) => t
  else s.heard s.master
def State.tellAll (s : State) (code n : Nat) : State :=
  (s.sealWith.filter fun m => decide (m ≠ s.domain.self)).foldl (fun k m => k.tell m code n) s

/-- ABORT from a module that must roll back (R337): to the coordinator, or from it to every member. What has sent READY waits for COMMIT
or ABORT first. -/
def State.abort (s : State) : State :=
  let n := s.rcv.sealing.getD s.rin.toNat
  match s.rcv.phase with
  | .committing => s
  | .ready => if s.leads then s.tellAll 3 n else s
  | _ => if s.leads then s.tellAll 3 n else s.tell s.coordinator 3 n

/-- A containment by rollback falls due (R207, Table 18.3): nothing runs on until it is done. What came over a link names no site. -/
def State.contain (s : State) (cause : Nat) (site : ErrSite) : State :=
  if s.rcv.mustRoll then s
  else
    let k := s.abort
    { k with rcv := { k.rcv with mustRoll := true, why := some (cause, site),
                                 sites := if site = .outside then k.rcv.sites else site :: k.rcv.sites } }
def Work.contain (w : Work) (cause : Nat) (site : ErrSite) : Work := w.mod fun s => s.contain cause site

/-- A copy's error consumed at its tag wait (R207, R342, R343): a trap before the initial seal, a rollback, or, at a site consumed since
the last commit, what R343 gives, behind the word. -/
def Work.consumeCopy (w : Work) (d : Delivery) (site : ErrSite) : Work :=
  let k := w.upd fun s => { s with deliver := s.deliver.erase d }
  if w.st.rcv.committed.isNone then (k.upd fun s => { s with vslab := 0, vstart := 0 }).takeTrap false ⟨d.code, d.sub, d.tval⟩
  else if w.st.rcv.sites.contains site then k.mod fun s => { s with rcv := { s.rcv with due := s.rcv.due ++ [⟨w.cur.sid, site, d.tval⟩] } }
  else w.contain d.code site

/-- A delivery taken, or the word goes on. Deliveries wait while NEST = 1 (R127). -/
def Work.deliverOr (w : Work) (tags : W64) (chs : BitVec 4) (all : Bool) (go : Work → Work) : Work :=
  if w.cur.nest then go w
  else
    match w.cur.due tags chs all with
    | some d =>
      match d.contain with
      | some site => w.consumeCopy d site
      | none => (w.upd fun s => { s with deliver := s.deliver.erase d, vslab := 0, vstart := 0 }).takeTrap true ⟨d.code, d.sub, d.tval⟩
    | none => go (w.mod fun s => s.resumeCopies tags)

/-! ### Tag operations (R209) -/

def execCwaitAny (a : Reg) (s : State) : Host.Outcome State Fault Refusal :=
  let m := s.strand.rx a
  engineWord (encodeNat (.cwaitAny a)) a (fun w =>
    w.deliverOr m 0 false fun k => if m = 0 ∨ k.cur.tags &&& m ≠ 0 then k.retire else k.wait (.tags true m)) s

def execCwaitAll (a : Reg) (s : State) : Host.Outcome State Fault Refusal :=
  let m := s.strand.rx a
  engineWord (encodeNat (.cwaitAll a)) a (fun w =>
    w.deliverOr m 0 false fun k => if k.cur.tags &&& m = m then k.retire else k.wait (.tags false m)) s

/-- `cfirst`: the lowest set bit, without waiting. -/
def execCfirst (a b : Reg) (s : State) : Host.Outcome State Fault Refusal :=
  let m := s.strand.rx b
  engineWord (encodeNat (.cfirst a b)) a (fun w =>
    w.deliverOr m 0 false fun k =>
      let v := k.cur.tags &&& m
      k.result a (if v = 0 then BitVec.allOnes 64 else BitVec.ofNat 64 (trailingZeros 64 v.toNat))) s

/-- The flags of no-return adds on the channels of a mask, collected (R221). -/
def Strand.collect (s : Strand) (chs : BitVec 4) : Strand :=
  { s with
    fflags := s.fflags ||| orFlags ((List.range 4).map fun c => if chs.getLsbD c then s.nrflags.getD c 0 else 0),
    nrflags := Vector.ofFn fun c => if chs.getLsbD c.val then 0 else s.nrflags[c] }

/-- The strand's commands on the channels of a mask. -/
def State.onChannels (s : State) (chs : BitVec 4) : List Nat :=
  (s.cmds.filter fun c =>
    decide (c.gid = s.strand.g.gid) && decide (c.sidx = s.strand.sidx) && chs.getLsbD c.ch).map (·.uid)

/-- `cdrain`: every earlier command of the channel performed at device scope. -/
def execCdrain (ch : BitVec 2) (s : State) : Host.Outcome State Fault Refusal :=
  let mask : BitVec 4 := BitVec.ofNat 4 (2 ^ ch.toNat)
  engineWord (encodeNat (.cdrain ch)) 0 (fun w =>
    w.deliverOr 0 mask false fun k =>
      let pending := k.st.onChannels mask
      if pending.isEmpty then (k.upd fun s => s.collect mask).retire else k.wait (.drained pending mask false)) s

/-- `cfence`: later commands of the channels follow the earlier ones; the strand goes on (R211). -/
def execCfence (mask : BitVec 4) (s : State) : Host.Outcome State Fault Refusal :=
  engineWord (encodeNat (.cfence mask)) 0 (fun w =>
    if mask = 0 then w.illegal 1 (zext (encode (.cfence mask)))
    else
      w.deliverOr 0 mask false fun k =>
        let pending := k.st.onChannels mask
        (k.upd fun s => { s.collect mask with fences := s.fences ++ [(mask, pending)] }).retire) s

/-! ### `gend` (R133, R291, R292) -/

/-- The strand's commands that have not completed, for its `gend`: copies and Heath commands (R291), and the atomics and puts whose deliveries the
group's end takes at the latest (R377, R398). -/
def State.inFlight (s : State) : List Nat :=
  let t := s.strand
  ((s.cmds.filter fun c =>
      decide (c.gid = t.g.gid) && decide (c.sidx = t.sidx) &&
      (match c.body with
       | .copy _ _ _ _ st => decide (st ≠ .landed)
       | _ => true)).map (·.uid)) ++ s.heathOf t

/-- Whether every other strand of the group has ended. -/
def State.othersEnded (s : State) : Bool :=
  s.parked.all fun t => decide (t.g.gid ≠ s.strand.g.gid) || t.ended

/-- `gend`: a tag wait over the strand's commands in flight; at handler level the fatal end of the group. -/
def execGend (s : State) : Host.Outcome State Fault Refusal :=
  let w := s.work.drain
  s.finish (s.drained (
    if s.strand.priv then w.fatal (s.strand.cause.toNat % 256) s.strand.tval s.strand.epc
    else
      w.deliverOr (BitVec.allOnes 64) 15 true fun k =>
        let pending := k.st.inFlight
        if !pending.isEmpty then k.wait (.drained pending 15 true)
        else if s.strand.sidx = 0 ∧ !k.st.othersEnded then k.wait .groupOthers
        else
          let g := s.strand.g.gid
          let k1 := k.retire.upd fun t => { t with ended := true }
          if s.strand.sidx = 0 then k1.mod fun st => st.mapGroup g fun e => { e with ending := true } else k1))

end Sys2Proof.Machine
end

