-- ==== Sys2Proof/Machine/Copy.lean ====
section
/-! DEFINITION. Copies: addresses, shape blocks, dispatch, and the moving of element groups (spec/09 R197 to R208, R211 to
R213). -/

namespace Sys2Proof.Machine

/-! ### Copy scratchpad addresses (R197) -/

/-- The meadow and the meadow address that a copy scratchpad address names; the bits alone are checked. -/
def copyAddr (g : Place) (a : W64) : Except Trap (Nat × Nat) :=
  let n := a.toNat
  let x := bitAt n 27
  if n / 2 ^ 31 ≠ 0 ∨ (!x ∧ bitsAt n 28 3 ≠ 0) ∨ (x ∧ 6 ≤ bitsAt n 28 3) then .error ⟨4, 2, a⟩
  else .ok (if x then bitsAt n 28 3 else g.core / 24, bitsAt n 0 27)

/-- The first 2 MiB half in a device scratchpad range that the context may not reach. -/
def State.foreign (s : State) (g : Place) (dev n : Nat) : Option Nat :=
  ((List.range ((dev + n - 1) / 2 ^ 21 + 1 - dev / 2 ^ 21)).map fun j => max dev ((dev / 2 ^ 21 + j) * 2 ^ 21)).find?
    fun a => !s.spAllowed g a

/-- The range check over the meadow addresses [lo, hi) of a copy whose scratchpad address is `a`: its device address. DESIGN CHOICE (log
54): a range that begins below meadow address 0 is outside every scratchpad, as one beyond core 23 is: subcode 2, `tval` the sum of 64 bits.
DESIGN CHOICE (log 76): such a range is reported before bytes in it that are not the context's own, whichever address comes first. -/
def copyRange (s : State) (g : Place) (a : W64) (meadow : Nat) (lo hi : Int) : Except Trap Nat :=
  let top : Int := ((24 * 2 ^ 22 : Nat) : Int)
  let upper : Nat := a.toNat / 2 ^ 27 * 2 ^ 27
  let at' := fun (x : Int) => BitVec.ofInt 64 ((upper : Int) + x)
  if lo < 0 then .error ⟨4, 2, at' lo⟩
  else if top < hi then .error ⟨4, 2, at' (if top ≤ lo then lo else top)⟩
  else
    let dev := spOf meadow lo.toNat
    match s.foreign g dev (hi - lo).toNat with
    | some d => .error ⟨4, 0, at' ((d : Int) - (spOf meadow 0 : Nat))⟩
    | none => .ok dev

/-! ### Shapes (R200, R201) -/

/-- A shape: counts, source strides and destination strides of dimensions 1 upwards, and the granule of a transposed copy. -/
structure Shape where
  cnt : List Nat
  ss : List Int
  ds : List Int
  g : Nat
  deriving DecidableEq, Repr

def Shape.total (p : Shape) : Nat := p.cnt.foldl (· * ·) 1

/-- A shape block (Table 9.4) with its limits; none where one is broken. -/
def shapeOf (n g : Nat) : Option Shape :=
  match usedFirst ((List.range 6).map fun d => bitsAt n (32 * d) 32) with
  | none => none
  | some cnt =>
    let ss := (List.range 5).map fun d => signed 32 (bitsAt n (192 + 32 * d) 32)
    let ds := (List.range 5).map fun d => signed 32 (bitsAt n (352 + 32 * d) 32)
    let used := cnt.length - 1
    let spare := (ss.drop used ++ ds.drop used).all fun x => decide (x = 0)
    let p : Shape := ⟨cnt, ss.take used, ds.take used, g⟩
    if cnt.isEmpty || !spare || decide (2 ^ 32 < p.total) || (decide (0 < g) && decide (cnt.length < 2)) ||
      (decide (g = 2) && decide (cnt.headD 0 % 2 ≠ 0)) then none
    else some p

/-- The least and the greatest sum of c_d × STR_d over dimensions. -/
def strideSpan (cnt : List Nat) (st : List Int) : Int × Int :=
  match cnt, st with
  | c :: cs, x :: xs =>
    let (lo, hi) := strideSpan cs xs
    let e : Int := ((c : Int) - 1) * x
    (if e < 0 then lo + e else lo, if e < 0 then hi else hi + e)
  | _, _ => (0, 0)

/-- The offsets [lo, hi) that the source side, or the destination side, of a shape spans. -/
def Shape.srcSpan (p : Shape) : Int × Int :=
  let (lo, hi) := strideSpan p.cnt.tail p.ss
  (lo, hi + p.cnt.headD 0)
def Shape.dstSpan (p : Shape) : Int × Int :=
  if p.g = 0 then
    let (lo, hi) := strideSpan p.cnt.tail p.ds
    (lo, hi + p.cnt.headD 0)
  else
    let (lo, hi) := strideSpan (p.cnt.headD 0 / p.g :: p.cnt.tail.tail) p.ds
    (lo, hi + (p.cnt.tail.headD 0 * p.g : Nat))

/-- c_d of a visiting index, d ≥ 1 first. -/
def counters (cnt : List Nat) (n : Nat) : List Nat :=
  match cnt with
  | [] => []
  | c :: cs => n % c :: counters cs (n / c)

def dotStride (c : List Nat) (st : List Int) : Int :=
  match c, st with
  | k :: ks, x :: xs => (k : Int) * x + dotStride ks xs
  | _, _ => 0

/-- Source and destination offsets of the byte with visiting index n (R201). -/
def Shape.offsets (p : Shape) (n : Nat) : Int × Int :=
  match counters p.cnt n with
  | [] => (0, 0)
  | c0 :: cs =>
    let src : Int := c0 + dotStride cs p.ss
    let dst : Int :=
      if p.g = 0 then c0 + dotStride cs p.ds
      else ((cs.headD 0 * p.g + c0 % p.g : Nat) : Int) + dotStride (c0 / p.g :: cs.tail) p.ds
    (src, dst)

/-- How many bytes from visiting index n on are contiguous on both sides. -/
def Shape.runAt (p : Shape) (n : Nat) : Nat :=
  let c0 := n % p.cnt.headD 1
  if p.g = 0 then p.cnt.headD 1 - c0 else p.g - c0 % p.g

/-! ### Dispatch (R204) -/

/-- Whether a command of the strand on the tag is in flight. -/
def State.tagBusy (s : State) (tag : Nat) : Bool :=
  let t := s.strand
  s.cmds.any (fun c =>
    decide (c.gid = t.g.gid) && decide (c.sidx = t.sidx) &&
    (match c.body with
     | .copy n _ _ _ st => decide (n = tag) && decide (st ≠ .landed)
     | _ => false)) ||
  s.queries.any fun q => decide (q.gid = t.g.gid) && decide (q.sidx = t.sidx) && decide (q.tag = tag)

/-- What a new command of class 4 on a channel is performed after: the channel's earlier commands, holds of its classes, fences, the range
checker's rules 1 and 2, and, where it makes external writes, all that is earlier of the strand (R211 to R213, R216, R241, R250 note 11). -/
def State.commandAfter (s : State) (ch : Nat) (env wr : Option (Nat × Nat)) (xw : Bool) : List Nat :=
  let t := s.strand
  let sameCh := s.onChannels (BitVec.ofNat 4 (2 ^ ch))
  let holds := s.heldBy 4 false ++ s.heldBy 4 true ++ (if xw then s.heldBy 7 true else [])
  let fences := t.fences.flatMap fun f => if f.1.getLsbD ch then f.2 else []
  let range := match env with
    | some (a, b) => s.pendBlockers a b ++ s.envBlockers env wr
    | none => []
  let external := if xw then s.everyEarlier else []
  s.stillPending (sameCh ++ holds ++ fences ++ range ++ external)

/-- The registers that the fields of a command word name as it is dispatched, with those that pairs of the first two fields add. -/
def Strand.cmdRegs (t : Strand) (word : Nat) : List W64 :=
  let r := fun (lo more : Nat) => t.rx (BitVec.ofNat 5 (bitsAt word lo 5 + more))
  [r 20 0, r 20 1, r 15 0, r 15 1, r 10 0]

/-- The command of a word queued on a channel of the strand. -/
def Work.queueCmd (w : Work) (word ch : Nat) (env wr : Option (Nat × Nat)) (xw : Bool) (body : CmdBody) : Work :=
  w.mod fun s =>
    let t := s.strand
    { s with
      nextId := s.nextId + 1,
      cmds := s.cmds ++ [⟨s.nextId, t.g.gid, t.sidx, t.g.ctx, t.g.core, ch, s.commandAfter ch env wr xw, env, wr, xw, BitVec.ofNat 32 word,
        t.cmdRegs word, body⟩] }

/-- The virtual ranges of memory that a copy writes: none where its destination is scratchpad or registers. -/
def CopyBody.targets (b : CopyBody) : List (Nat × Nat) :=
  match b with
  | .nest true _ _ _ _ _ _ _ => []
  | .nest false _ dst _ cnt ss ds g =>
    let row := cnt.headD 0
    (List.range ((Shape.mk cnt ss ds g).total / max 1 row)).map fun r =>
      (wrapTo 64 ((dst : Int) + ((Shape.mk cnt ss ds g).offsets (r * row)).2), row)
  | .gath true _ rows len => rows.map fun r => (r, len)
  | .gath false _ _ _ => []
  | .get _ _ _ _ _ _ => []

/-- Whether bytes of a range lie in a host window or in a window of an external module (R241). -/
def State.external (s : State) (core ctx : Nat) (r : Nat × Nat) : Bool :=
  (List.range ((r.1 + r.2 - 1) / 65536 + 1 - r.1 / 65536)).any fun j =>
    match s.leafFor core ctx ((r.1 / 65536 + j) * 65536) with
    | some (leaf, _) => decide (leafREGION leaf = 2) || (decide (leafREGION leaf = 3) && leafXMOD leaf)
    | none => false

/-- Step 3 of R204: the wait for the tag or for room on the channel. -/
def Work.copyRoom (w : Work) (tag ch : Nat) : Option Wait :=
  if w.st.tagBusy tag then some (.tagBusy tag)
  else if 32 ≤ (w.st.onChannels (BitVec.ofNat 4 (2 ^ ch))).length then some (.room ch)
  else none

/-- Steps 3 and 4 of R204, after the checks. -/
def Work.issueCopy (w : Work) (word : Nat) (tag : BitVec 6) (ch : BitVec 2) (env wr : Option (Nat × Nat)) (b : CopyBody) : Work :=
  match w.copyRoom tag.toNat ch.toNat with
  | some k => w.wait k
  | none =>
    ((w.upd fun s => { s with tags := s.tags &&& ~~~(BitVec.ofNat 64 (2 ^ tag.toNat)) }).queueCmd word ch.toNat env wr
      (b.targets.any (w.st.external w.cur.g.core w.cur.g.ctx)) (.copy tag.toNat b 0 none .moving)).retire

/-- A copy that has passed its checks: its envelope, the part of it that is written, and what moves. -/
structure Checked where
  env : Option (Nat × Nat)
  wr : Option (Nat × Nat)
  body : CopyBody
  deriving DecidableEq, Repr

/-- The word of a copy that has passed its checks, or what stops it. -/
def finishCopy (w : Work) (word : Nat) (tag : BitVec 6) (ch : BitVec 2) (r : Except Stop Checked) : Work :=
  match r with
  | .error e => w.stopWord e
  | .ok c => w.issueCopy word tag ch c.env c.wr c.body

/-- One envelope over the scratchpad sides of a copy. -/
def joinEnv (a b : Option (Nat × Nat)) : Option (Nat × Nat) :=
  match a, b with
  | some (x, y), some (u, v) => some (min x u, max y v)
  | some e, none => some e
  | none, e => e

/-- A side of a shaped copy: checked where it is scratchpad, `(base, envelope)`. -/
def copySide (w : Work) (sp : Bool) (a : W64) (bits : Option (Nat × Nat)) (span : Int × Int) (empty : Bool) :
    Except Trap (Nat × Option (Nat × Nat)) :=
  if !sp then .ok (a.toNat, none)
  else
    match bits with
    | none => .ok (a.toNat, none)
    | some (meadow, addr) =>
      if empty then .ok (spOf meadow addr, none)
      else
        match copyRange w.st w.cur.g a meadow (addr + span.1) (addr + span.2) with
        | .error t => .error t
        | .ok dev => .ok ((((dev : Int) - span.1).toNat), some (dev, dev + (span.2 - span.1).toNat))

/-- The bits of a scratchpad side's address (the first check of R204). -/
def sideBits (w : Work) (sp : Bool) (a : W64) : Except Trap (Option (Nat × Nat)) :=
  if !sp then .ok none
  else
    match copyAddr w.cur.g a with
    | .error t => .error t
    | .ok p => .ok (some p)

/-- A copy by shape: `shape` checks and reads its count or block. -/
def shapedCopy (w : Work) (dstSp srcSp : Bool) (a b : W64) (shape : Work → Except Stop Shape) :
    Except Stop Checked :=
  match sideBits w dstSp a, sideBits w srcSp b with
  | .error t, _ => .error (.trap t)
  | _, .error t => .error (.trap t)
  | .ok da, .ok sb =>
    match shape w with
    | .error e => .error e
    | .ok p =>
      let empty := decide (p.total = 0)
      match copySide w dstSp a da p.dstSpan empty, copySide w srcSp b sb p.srcSpan empty with
      | .error t, _ => .error (.trap t)
      | _, .error t => .error (.trap t)
      | .ok (dst, e1), .ok (src, e2) => .ok ⟨joinEnv e1 e2, e1, .nest dstSp srcSp dst src p.cnt p.ss p.ds p.g⟩

/-- `cblk`: x(c) bytes; a count above 2^32 is an access fault (R199). -/
def blockShape (count : W64) (_ : Work) : Except Stop Shape :=
  if 2 ^ 32 < count.toNat then .error (.trap ⟨4, 0, count⟩) else .ok ⟨[count.toNat], [], [], 0⟩

/-- The shape block at a virtual address of field memory (R200). DESIGN CHOICE (log 77): one in the Heath or in a closed window takes the
access fault of a read of its region. -/
def nestShape (va : W64) (g : Nat) (w : Work) : Except Stop Shape :=
  match w.st.checkVirtual w.cur.g.core w.cur.g.ctx va 64 .read with
  | .error t => .error (.trap t)
  | .ok p =>
    match p with
    | .mem .fm _ =>
      if w.st.poisoned p then .error (.trap ⟨6, 0, va⟩)
      else
        match shapeOf (leNat (w.readSite p 64)) g with
        | some sh => .ok sh
        | none => .error (.trap ⟨4, 0, va⟩)
    | _ => .error (.trap ⟨4, 0, va⟩)

def copyWord (i : Instr) (dstSp srcSp : Bool) (a b xf : Reg) (tag : BitVec 6) (ch : BitVec 2) (nest : Bool) (g : Nat)
    (s : State) : Host.Outcome State Fault Refusal :=
  let x := s.strand.rx xf
  engineWord (encodeNat i) a (fun w =>
    finishCopy w (encodeNat i) tag ch
      (shapedCopy w dstSp srcSp (w.rx a) (w.rx b) (if nest then nestShape x g else blockShape x))) s

def execCblkIn (a b xf : Reg) (tag : BitVec 6) (ch : BitVec 2) (s : State) :=
  copyWord (.cblkIn a b xf tag ch) true false a b xf tag ch false 0 s
def execCblkOut (a b xf : Reg) (tag : BitVec 6) (ch : BitVec 2) (s : State) :=
  copyWord (.cblkOut a b xf tag ch) false true a b xf tag ch false 0 s
def execCblkSs (a b xf : Reg) (tag : BitVec 6) (ch : BitVec 2) (s : State) :=
  copyWord (.cblkSs a b xf tag ch) true true a b xf tag ch false 0 s
def execCblkVv (a b xf : Reg) (tag : BitVec 6) (ch : BitVec 2) (s : State) :=
  copyWord (.cblkVv a b xf tag ch) false false a b xf tag ch false 0 s
def execCnestIn (a b xf : Reg) (tag : BitVec 6) (ch : BitVec 2) (s : State) :=
  copyWord (.cnestIn a b xf tag ch) true false a b xf tag ch true 0 s
def execCnestOut (a b xf : Reg) (tag : BitVec 6) (ch : BitVec 2) (s : State) :=
  copyWord (.cnestOut a b xf tag ch) false true a b xf tag ch true 0 s
def execCnestSs (a b xf : Reg) (tag : BitVec 6) (ch : BitVec 2) (s : State) :=
  copyWord (.cnestSs a b xf tag ch) true true a b xf tag ch true 0 s
def execCnestVv (a b xf : Reg) (tag : BitVec 6) (ch : BitVec 2) (s : State) :=
  copyWord (.cnestVv a b xf tag ch) false false a b xf tag ch true 0 s
def execCnestInT8 (a b xf : Reg) (tag : BitVec 6) (ch : BitVec 2) (s : State) :=
  copyWord (.cnestInT8 a b xf tag ch) true false a b xf tag ch true 1 s
def execCnestInT16 (a b xf : Reg) (tag : BitVec 6) (ch : BitVec 2) (s : State) :=
  copyWord (.cnestInT16 a b xf tag ch) true false a b xf tag ch true 2 s

/-! ### Gathers and `cget` (R202, R203) -/

/-- Checks 7 and 11 on a vector group of SEW. -/
def groupCheck (w : Work) (i : Instr) (v : Reg) : Option Trap :=
  let word : W64 := zext (encode i)
  if w.cur.unset then some ⟨1, 6, word⟩
  else if !(group v w.cur.sew).spanOk w.cur.sew w.cur.grp then some ⟨1, 4, word⟩
  else none

/-- A gathered copy: one row for each element of the index group below `vl`. `sp` is the scratchpad side, `pr` the pair. -/
def gatherCopy (i : Instr) (out : Bool) (sp pr v : Reg) (w : Work) : Except Stop Checked :=
  let a := w.rx sp
  let base := w.rx pr
  let second := w.rx (pr + 1)
  let len := bitsAt second.toNat 32 32
  let pitch := bitsAt second.toNat 0 32
  let n := w.cur.vl.toNat
  if !i.wf then .error (.trap ⟨1, 4, zext (encode i)⟩)
  else
    match copyAddr w.cur.g a with
    | .error t => .error (.trap t)
    | .ok (meadow, addr) =>
      match copySide w true a (some (meadow, addr)) (0, ((n * len : Nat) : Int)) (decide (n * len = 0)) with
      | .error t => .error (.trap t)
      | .ok (dev, env) =>
        match groupCheck w i v with
        | some t => .error (.trap t)
        | none =>
          if len = 0 ∨ 65536 < len then .error (.trap ⟨4, 0, second⟩)
          else
            match vectorFree w v with
            | .error e => .error e
            | .ok _ =>
              let rows := (List.range n).map fun k =>
                (base + BitVec.ofNat 64 (w.cur.elt v w.cur.sew k * pitch)).toNat
              .ok ⟨env, if out then none else env, .gath out dev rows len⟩

def execCgathIn (a b xf : Reg) (tag : BitVec 6) (ch : BitVec 2) (s : State) : Host.Outcome State Fault Refusal :=
  engineWord (encodeNat (.cgathIn a b xf tag ch)) a (fun w =>
    finishCopy w (encodeNat (.cgathIn a b xf tag ch)) tag ch (gatherCopy (.cgathIn a b xf tag ch) false a b xf w)) s
def execCgathOut (a b xf : Reg) (tag : BitVec 6) (ch : BitVec 2) (s : State) : Host.Outcome State Fault Refusal :=
  engineWord (encodeNat (.cgathOut a b xf tag ch)) a (fun w =>
    finishCopy w (encodeNat (.cgathOut a b xf tag ch)) tag ch (gatherCopy (.cgathOut a b xf tag ch) true b a xf w)) s

/-- `cget`: `vl` elements at SEW from contiguous bytes at x(b). -/
def getCopy (i : Instr) (sp : Bool) (v b : Reg) (w : Work) : Except Stop Checked :=
  let src := w.rx b
  let n := w.cur.vl.toNat
  let len := n * (w.cur.sew / 8)
  match sideBits w sp src with
  | .error t => .error (.trap t)
  | .ok bits =>
    match copySide w sp src bits (0, (len : Int)) (decide (len = 0)) with
    | .error t => .error (.trap t)
    | .ok (from', env) =>
      match groupCheck w i v with
      | some t => .error (.trap t)
      | none =>
        match vectorFree w v with
        | .error e => .error e
        | .ok _ => .ok ⟨env, none, .get sp v.toNat from' n w.cur.sew w.cur.grp⟩

def execCgetV (a b : Reg) (tag : BitVec 6) (ch : BitVec 2) (s : State) : Host.Outcome State Fault Refusal :=
  engineWord (encodeNat (.cgetV a b tag ch)) a (fun w =>
    finishCopy w (encodeNat (.cgetV a b tag ch)) tag ch (getCopy (.cgetV a b tag ch) false a b w)) s
def execCgetVs (a b : Reg) (tag : BitVec 6) (ch : BitVec 2) (s : State) : Host.Outcome State Fault Refusal :=
  engineWord (encodeNat (.cgetVs a b tag ch)) a (fun w =>
    finishCopy w (encodeNat (.cgetVs a b tag ch)) tag ch (getCopy (.cgetVs a b tag ch) true a b w)) s

/-! ### Moving element groups (R205 to R207) -/

/-- Bytes of another module that an element group reads (R326): external or not, its number, the physical address and the length. -/
structure Far where
  xmod : Bool
  module : Nat
  pa : Nat
  len : Nat
  deriving DecidableEq, Repr

/-- What stops a copy's element group: a fault, a poisoned source line, an event that must come first, or the data of a read
over Jeore. -/
inductive CopyStop where
  | fault (f : CopyFault)
  | poison (va : Nat)
  | hold
  | remote (l : List Far)
  deriving DecidableEq, Repr

/-- The memory side of a copy at a virtual address: its place. -/
def copySite (w : Work) (va : Nat) (a : Acc) : Except CopyStop Site :=
  if va / 2 ^ 48 % 2 ^ 16 ≠ 0 then .error (.fault ⟨4, 0, BitVec.ofNat 64 va⟩)
  else
    match w.st.access w.cur.g.core w.cur.g.ctx (BitVec.ofNat 64 va) a with
    | .error t => .error (.fault ⟨t.code, t.sub, t.tval⟩)
    | .ok p => .ok p

/-- Contiguous bytes of an element group: from where, to where, how many. On a memory side they lie in one line. -/
structure Run where
  src : Nat
  dst : Nat
  len : Nat
  deriving DecidableEq, Repr

/-- How far a run may go on a side before its line or its page may end. -/
def pageRoom (sp : Bool) (a : Nat) : Nat := if sp then 2 ^ 32 else 64 - a % 64

/-- The runs of visiting indexes [n, stop) of a shaped copy. -/
def shapeRuns (p : Shape) (dstSp srcSp : Bool) (dst src n stop fuel : Nat) : List Run :=
  match fuel with
  | 0 => []
  | k + 1 =>
    if stop ≤ n then []
    else
      let (so, d) := p.offsets n
      let sa := if srcSp then ((src : Int) + so).toNat else wrapTo 64 ((src : Int) + so)
      let da := if dstSp then ((dst : Int) + d).toNat else wrapTo 64 ((dst : Int) + d)
      let len := min (min (p.runAt n) (stop - n)) (min (pageRoom srcSp sa) (pageRoom dstSp da))
      ⟨sa, da, len⟩ :: shapeRuns p dstSp srcSp dst src (n + len) stop k

/-- The number of element groups of a copy (R205). -/
def groupsOf (b : CopyBody) (perSlab : Nat) : Nat :=
  match b with
  | .nest _ _ _ _ cnt _ _ _ => (cnt.foldl (· * ·) 1 + 1023) / 1024
  | .gath _ _ rows _ => rows.length
  | .get _ _ _ n _ _ => (n + perSlab - 1) / perSlab

/-- The elements of group `g` of a `cget` on `e` elements a slab: the first, and how many. -/
def getSpan (n g e : Nat) : Nat × Nat := (g * e, min n (g * e + e) - g * e)

/-- The runs of element group `g` of a copy; `e` elements make a slab. -/
def CopyBody.runs (b : CopyBody) (g e : Nat) : List Run :=
  match b with
  | .nest dstSp srcSp dst src cnt ss ds gr =>
    let p : Shape := ⟨cnt, ss, ds, gr⟩
    shapeRuns p dstSp srcSp dst src (1024 * g) (min p.total (1024 * (g + 1))) 1024
  | .gath out sp rows len =>
    let p : Shape := ⟨[len], [], [], 0⟩
    if out then shapeRuns p false true (rows.getD g 0) (sp + g * len) 0 len 65536
    else shapeRuns p true false (sp + g * len) (rows.getD g 0) 0 len 65536
  | .get sp _ src n sew _ =>
    let z := sew / 8
    let (lo, cnt) := getSpan n g e
    shapeRuns ⟨[cnt * z], [], [], 0⟩ true sp 0 (src + lo * z) 0 (cnt * z) 65536

def CopyBody.srcSp (b : CopyBody) : Bool :=
  match b with
  | .nest _ sp _ _ _ _ _ _ => sp
  | .gath out _ _ _ => out
  | .get sp _ _ _ _ _ => sp
def CopyBody.dstSp (b : CopyBody) : Bool :=
  match b with
  | .nest sp _ _ _ _ _ _ _ => sp
  | .gath out _ _ _ => !out
  | .get _ _ _ _ _ _ => true

/-- What the runs of a group read from other modules: asked for before the group moves. -/
def farRuns (w : Work) (l : List Run) : List Far :=
  l.filterMap fun r =>
    match copySite w r.src .copyRead with
    | .ok (.remote m pa) => some ⟨false, m, pa, r.len⟩
    | .ok (.extRead m pa) => some ⟨true, m, pa, r.len⟩
    | _ => none

/-- Bytes of `given`, the data of the group's reads over Jeore, and what is left of them. -/
def takeGiven (given : List Byte) (n : Nat) : Except CopyStop (List Byte × List Byte) :=
  if n ≤ given.length then .ok (given.take n, given.drop n) else .error .hold

/-- The fault of an engine's access to scratchpad that its context no longer holds (R258): `tval` names the first such byte as a copy scratchpad
address. -/
def Work.foreignStop (w : Work) (dev n : Nat) : Option CopyFault :=
  (w.st.foreign w.cur.g dev n).map fun d =>
    let m := d / 2 ^ 22 / 24
    let off := d - spOf m 0
    ⟨4, 0, BitVec.ofNat 64 (if m = w.cur.g.core / 24 then off else 2 ^ 27 + m * 2 ^ 28 + off)⟩

/-- The bytes of one run from the source side of a copy: of this module's memories, or of `given`. Held writes to an external module count
(R255). A waking bank holds the copy (R121). -/
def copyRead (w : Work) (sp : Bool) (addr len : Nat) (given : List Byte) : Except CopyStop (List Byte × List Byte × Work) :=
  if sp then
    match w.foreignStop addr len with
    | some f => .error (.fault f)
    | none => if (w.st.sleeperIn addr len).isSome then .error .hold else .ok (w.bytes .sp addr len, given, w)
  else
    match copySite w addr .copyRead with
    | .error e => .error e
    | .ok p =>
      if w.st.poisoned p then .error (.poison (addr / 64 * 64))
      else
        match p with
        | .mem t pa => .ok (w.bytes t pa len, given, w.note p)
        | .remote _ _ =>
          match takeGiven given len with
          | .error e => .error e
          | .ok (bs, rest) => .ok (bs, rest, w)
        | .extRead m pa =>
          match takeGiven given len with
          | .error e => .error e
          | .ok (bs, rest) => .ok (w.st.overHold (.external m) pa bs, rest, w)
        | .ext _ _ => .error .hold

/-- Bytes to the destination side of a copy. -/
def copyWrite (w : Work) (sp : Bool) (addr : Nat) (bytes : List Byte) : Except CopyStop Work :=
  if sp then
    match w.foreignStop addr bytes.length with
    | some f => .error (.fault f)
    | none =>
      if (w.st.sleeperIn addr bytes.length).isSome then .error .hold else .ok (w.perform (.mem (.put .sp addr bytes 0 false)))
  else
    match copySite w addr .copyWrite with
    | .error e => .error e
    | .ok p =>
      match w.storeWait w.cur.g.ctx addr p bytes.length with
      | some _ => .error .hold
      | none => .ok { ({ w.note p with va := some addr } : Work).perform (w.storeAt p bytes) with va := w.va }

/-- The runs of a group moved in visiting order, each read before it is written. DESIGN CHOICE (log 54): where a copy's source and destination
overlap, a run reads what the runs before it wrote. -/
def moveRuns (w : Work) (srcSp dstSp : Bool) (l : List Run) (given : List Byte) : Except CopyStop Work :=
  match l with
  | [] => .ok w
  | r :: rest =>
    match copyRead w srcSp r.src r.len given with
    | .error e => .error e
    | .ok (bs, left, k) =>
      match copyWrite k dstSp r.dst bs with
      | .error e => .error e
      | .ok k1 => moveRuns k1 srcSp dstSp rest left

/-- The bytes of the runs of a group of `cget`. -/
def readRuns (w : Work) (srcSp : Bool) (l : List Run) (given : List Byte) : Except CopyStop (List Byte × Work) :=
  match l with
  | [] => .ok ([], w)
  | r :: rest =>
    match copyRead w srcSp r.src r.len given with
    | .error e => .error e
    | .ok (bs, left, k) =>
      match readRuns k srcSp rest left with
      | .error e => .error e
      | .ok (more, k') => .ok (bs ++ more, k')

/-- Elements of a `cget` written into their group. -/
def fillGroup (w : Work) (vd sew lo : Nat) (bytes : List Byte) (n : Nat) : Work :=
  (List.range n).foldl (fun k j =>
    k.upd fun s => s.setElt (BitVec.ofNat 5 vd) sew (lo + j) (leNat ((bytes.drop (j * (sew / 8))).take (sew / 8)))) w

/-- A group moved, the data of its reads over Jeore given. -/
def moveWith (w : Work) (b : CopyBody) (g : Nat) (given : List Byte) : Except CopyStop Work :=
  match b with
  | .get sp vd _ n sew _ =>
    let e := w.cur.epr sew
    match readRuns w sp (b.runs g e) given with
    | .error x => .error x
    | .ok (bs, k) => .ok (fillGroup k vd sew (getSpan n g e).1 bs (getSpan n g e).2)
  | _ => moveRuns w b.srcSp b.dstSp (b.runs g 1) given

/-- Elements a slab of a copy of the strand in front; 1 where it fills no registers. -/
def Strand.slabOf (s : Strand) (b : CopyBody) : Nat :=
  match b with
  | .get _ _ _ _ sew _ => max 1 (s.epr sew)
  | _ => 1

/-- Element group `g` of a copy of the strand in front: moved, or stopped, for the data of another module where it reads some. -/
def moveGroup (w : Work) (b : CopyBody) (g : Nat) : Except CopyStop Work :=
  match (if b.srcSp then [] else farRuns w (b.runs g (w.cur.slabOf b))) with
  | [] => moveWith w b g []
  | l => if l.all fun f => (w.st.primary f.xmod f.module).isSome then .error (.remote l) else .error .hold

/-- How the moving of a copy ends. -/
inductive CopyEnd where
  | landed
  | fault (f : CopyFault)
  | poison (va : Nat)
  | hold
  | remote (l : List Far)
  deriving DecidableEq, Repr

/-- Element groups from `g` on, in order, until the copy lands or stops; the progress value with the step. -/
def moveFrom (b : CopyBody) (total : Nat) (w : Work) (g fuel : Nat) : Work × Nat × CopyEnd :=
  match fuel with
  | 0 => (w, g, .landed)
  | k + 1 =>
    if total ≤ g then (w, g, .landed)
    else
      match moveGroup w b g with
      | .ok w1 => moveFrom b total w1 (g + 1) k
      | .error (.fault f) => (w, g, .fault f)
      | .error (.poison va) => (w, g, .poison va)
      | .error .hold => (w, g, .hold)
      | .error (.remote l) => (w, g, .remote l)

/-- The strand's copy in flight on a tag. -/
def State.copyOn (s : State) (sid tag : Nat) : Option Cmd :=
  s.cmds.find? fun c =>
    decide (c.gid * 4 + c.sidx = sid) &&
    (match c.body with
     | .copy t _ _ _ st => decide (t = tag) && decide (st ≠ .landed)
     | _ => false)

/-- A command's body replaced. -/
def Work.setBody (w : Work) (uid : Nat) (b : CmdBody) : Work :=
  w.mod fun s => { s with cmds := s.cmds.map fun c => if c.uid = uid then { c with body := b } else c }

/-- A delivery recorded for the strand in front. -/
def Work.pendDelivery (w : Work) (d : Delivery) : Work := w.upd fun s => { s with deliver := s.deliver ++ [d] }

/-- A copy's tag lands (R205). -/
def Work.landCopy (w : Work) (c : Cmd) (tag : Nat) (b : CopyBody) (p : Nat) : Work :=
  (w.setBody c.uid (.copy tag b p none .landed)).upd fun s => { s with tags := s.tags ||| BitVec.ofNat 64 (2 ^ tag) }

/-- The request for what a group reads from other modules (R326, KIND 6): to each module the addresses and lengths of its bytes. -/
def State.askFar (s : State) (l : List Far) : State :=
  ((l.map fun f => (f.xmod, f.module)).eraseDups).foldl (fun k m =>
    let mine := l.filter fun f => decide ((f.xmod, f.module) = m)
    k.sendTo m.1 m.2 6 0 0 ((mine.head?.map (·.pa)).getD 0) (mine.flatMap fun f => leBytes 8 f.pa ++ leBytes 4 f.len)) s

/-- The outcome of a copy's moving recorded (R205 to R207, R326). DEDUCED (log 54): a region that Table 9.1 refuses suspends the copy with a
delivery, as R206 and R307 say of every access fault met after dispatch; R198 names R207 for it. -/
def settleCopy (w : Work) (c : Cmd) (tag : Nat) (b : CopyBody) (p : Nat) (e : CopyEnd) : Work :=
  match e with
  | .landed => w.landCopy c tag b p
  | .hold => w.setBody c.uid (.copy tag b p none .moving)
  | .fault f =>
    (w.setBody c.uid (.copy tag b p (some f) .moving)).pendDelivery ⟨false, tag, f.code, f.sub, f.tval, true, none⟩
  | .poison va => (w.landCopy c tag b p).pendDelivery ⟨false, tag, 6, 0, BitVec.ofNat 64 va, false, none⟩
  | .remote l => (w.setBody c.uid (.copy tag b p none .asked)).mod fun s => s.askFar l

/-- A copy that may move: its commands before it are performed, and no fault holds it. -/
def Cmd.mayMove (c : Cmd) (s : State) : Bool :=
  (s.stillPending c.after).isEmpty &&
  (match c.body with
   | .copy _ _ _ f st => f.isNone && decide (st = .moving)
   | .atom _ _ _ _ _ _ sent => !sent
   | .put _ sent => !sent
   | .rest asks _ _ fire => asks.isEmpty && fire.isSome)

/-- Whether no port of a module is usable while one is in training. -/
def State.waitsPort (s : State) (xmod : Bool) (m : Nat) : Bool := (s.primary xmod m).isNone && s.inTraining xmod m

/-- Whether a side of an element group lies in a module that a port in training must reach first. -/
def runWaits (w : Work) (sp : Bool) (va : Nat) (a : Acc) : Bool :=
  !sp &&
  match copySite w va a with
  | .ok (.remote m _) => w.st.waitsPort false m
  | .ok (.extRead m _) => w.st.waitsPort true m
  | _ => false

/-- Whether a command of class 4 waits on a port in training: an atomic or a put of another module, or the element group that a copy has to
move next (R324). -/
def Cmd.portHeld (c : Cmd) (s : State) : Bool :=
  match c.body, s.focusStrand (c.gid * 4 + c.sidx) with
  | .copy _ b p none st, some k =>
    (decide (st = .asked) || c.mayMove s) && decide (st ≠ .landed) &&
    (b.runs p (k.strand.slabOf b)).any fun r => runWaits k.work b.srcSp r.src .copyRead || runWaits k.work b.dstSp r.dst .copyWrite
  | .atom _ _ _ _ (some m) _ false, _ => c.mayMove s && s.waitsPort false m
  | .put p false, _ => c.mayMove s && p.pages.any fun e => (e.2.1.map (s.waitsPort false)).getD false
  | _, _ => false

/-- The copy of a strand on a tag moved as far as it goes; `want` accepts its end, or nothing happens. -/
def Work.moveCopy (w : Work) (sid tag : Nat) (want : CopyEnd → Bool) : Work :=
  match w.st.copyOn sid tag with
  | none => w
  | some c =>
    if !c.mayMove w.st then w
    else
      match c.body with
      | .copy t b p _ _ =>
        w.onCmd c fun k =>
          let total := groupsOf b (k.cur.slabOf b)
          let (k1, g, e) := moveFrom b total k p (total + 1 - p)
          if want e then settleCopy k1 c t b g e else k
      | _ => w

/-- `COPY_LAND`: every element group complete, the tag bit set. -/
def execCopyLand (sid : Nat) (tag : BitVec 6) (s : State) : Host.Outcome State Fault Refusal :=
  s.finish (s.work.moveCopy sid tag.toNat fun e => decide (e = .landed))

/-- `COPY_FAULT`: a fault on the memory side suspends the copy (R206). -/
def execCopyFault (sid : Nat) (tag : BitVec 6) (s : State) : Host.Outcome State Fault Refusal :=
  s.finish (s.work.moveCopy sid tag.toNat fun e =>
    match e with
    | .fault _ => true
    | _ => false)

/-- `COPY_SOURCE_POISON`: a poisoned line in the source stops the copy (R207). -/
def execCopySourcePoison (sid : Nat) (tag : BitVec 6) (s : State) : Host.Outcome State Fault Refusal :=
  s.finish (s.work.moveCopy sid tag.toNat fun e =>
    match e with
    | .poison _ => true
    | _ => false)

/-- The site of a source address of a copy (R343): a scratchpad bank, a line, or what lies outside the module. -/
def sourceSite (w : Work) (sp : Bool) (addr : Nat) : ErrSite :=
  if sp then .bank (addr / 2 ^ 22) (bankOf addr)
  else
    match copySite w addr .copyRead with
    | .ok (.mem .fm pa) => .line false (pa / 64)
    | .ok (.mem .hm pa) => .line true (pa / 64)
    | _ => .outside

/-- `COPY_SOURCE_ERROR`: an uncorrectable error at a source address of an element group; the groups before it stay written, and the tag
lands with the error, which a tag wait consumes (R207). -/
def execCopySourceError (sid : Nat) (tag : BitVec 6) (found : SourceError) (s : State) : Host.Outcome State Fault Refusal :=
  let g := found.group
  let addr := found.addr
  let w := s.work
  s.finish (
    match s.copyOn sid tag.toNat with
    | none => w
    | some c =>
      match c.body with
      | .copy t b p _ _ =>
        if !c.mayMove s then w
        else
          w.onCmd c fun k =>
            let e := k.cur.slabOf b
            let total := groupsOf b e
            let reads := (b.runs g e).any fun r => decide (r.src ≤ addr) && decide (addr < r.src + r.len)
            if total ≤ g ∨ g < p ∨ !reads then k
            else
              let (k1, n, r) := moveFrom b g k p (g + 1 - p)
              if r = .landed then
                (k1.landCopy c t b n).pendDelivery ⟨false, t, 5, 0, BitVec.ofNat 64 addr, false, some (sourceSite k b.srcSp addr)⟩
              else k
      | _ => w)

/-- `COPY_PERFORMED`: a landed copy's writes are performed at device scope (R205). -/
def execCopyPerformed (sid : Nat) (tag : BitVec 6) (s : State) : Host.Outcome State Fault Refusal :=
  let done := s.cmds.find? fun c =>
    decide (c.gid * 4 + c.sidx = sid) &&
    (match c.body with
     | .copy t _ _ _ st => decide (t = tag.toNat) && decide (st = .landed)
     | _ => false)
  s.finish (
    match done with
    | none => s.work
    | some c => (s.work.mod fun st => { st with cmds := st.cmds.filter fun e => decide (e.uid ≠ c.uid) }).settle)

/-- What a strand that restores a page has of its slot from a safe-tier port (R314). -/
def Strand.slotData (t : Strand) (bytes : List Byte) : Strand :=
  match t.flight with
  | .restore va num _ => { t with flight := .restore va num (some bytes) }
  | _ => t

/-- `JEORE_COPY_READ_DATA`: the data of the reads over Jeore of one element group, in visiting order, complete it (R326); on a safe-tier port,
the slot that a strand asked for. -/
def execJeoreCopyReadData (port : Nat) (copy : CopyName) (bytes : List Byte) (s : State) : Host.Outcome State Fault Refusal :=
  let w := s.work.mod fun t => t.received port bytes.length
  s.finish (
    if !(s.port port).usable then s.work
    else if (s.port port).safeTier then w.onStrand copy.sid fun k => k.upd fun t => t.slotData bytes
    else match s.copyOn copy.sid copy.tag.toNat with
    | none => w
    | some c =>
      match c.body with
      | .copy t b p _ .asked =>
        w.onCmd c fun k =>
          match moveWith k b p bytes with
          | .ok k1 => k1.setBody c.uid (.copy t b (p + 1) none .moving)
          | .error (.fault f) => settleCopy k c t b p (.fault f)
          | .error (.poison va) => settleCopy k c t b p (.poison va)
          | .error _ => settleCopy k c t b p .hold
      | _ => w)

end Sys2Proof.Machine
end

