-- ==== Sys2Proof/Machine/Atomics.lean ====
section
/-! DEFINITION. Atomics at memory, returning and queued on a channel, and `aaddscan` (spec/09 R219 to R223, R398). -/

namespace Sys2Proof.Machine

/-! ### New values (Table 9.8) -/

/-- `afadd` at memory (R221). -/
def afadd (old b : Nat) : Nat × Flags :=
  let x := decodeVal descFP32 old
  let y := decodeVal descFP32 b
  if x.isNan || y.isNan then (0x7FC00000, 0)
  else
    let (v, fl) := Val.add 0 x y
    if v.isNan then (0x7FC00000, fl) else roundOp (v, fl) descFP32 0 false

/-- The new value that an atomic writes, none where it performs no write, and its flags. -/
def atomNew (op : AtomOp) (wide : Bool) (old b c : Nat) : Option Nat × Flags :=
  let n := if wide then 64 else 32
  match op with
  | .add => (some ((old + b) % 2 ^ n), 0)
  | .and => (some (old &&& b), 0)
  | .or => (some (old ||| b), 0)
  | .xor => (some (old ^^^ b), 0)
  | .min => (some (if signed n b < signed n old then b else old), 0)
  | .max => (some (if signed n old < signed n b then b else old), 0)
  | .minu => (some (if b < old then b else old), 0)
  | .maxu => (some (if old < b then b else old), 0)
  | .swp => (some b, 0)
  | .cas => (if old = c then some b else none, 0)
  | .fadd => (some (afadd old b).1, (afadd old b).2)
  | .incb => (if old < b then some (old + 1) else none, 0)

/-- The number that names an operation in a request over Jeore. -/
def atomCode (op : AtomOp) : Nat :=
  match op with
  | .add => 0
  | .and => 1
  | .or => 2
  | .xor => 3
  | .min => 4
  | .max => 5
  | .minu => 6
  | .maxu => 7
  | .swp => 8
  | .cas => 9
  | .fadd => 10
  | .incb => 11

/-! ### Returning atomics -/

/-- The bytes of an atomic's width. -/
def atomSize (wide : Bool) : Nat := if wide then 8 else 4

/-- One atomic access at a place of this module: the old value and the flags. -/
def Work.atomAt (w : Work) (op : AtomOp) (wide : Bool) (p : Site) (t : Tgt) (pa b c : Nat) : Nat × Flags × Work :=
  let old := leNat (w.bytes t pa (atomSize wide))
  let (new, fl) := atomNew op wide old b c
  let k := match new with
    | some v => w.perform (w.storeAt p (leBytes (atomSize wide) v))
    | none => w
  (old, fl, k.note p)

/-- The request of an atomic to another module (R326, KIND 4). The answer comes back to a strand, or to its command `uid`, which the flit
carries until it is acknowledged. `more` is what a combine put adds (log 18). -/
def State.askAtomic (s : State) (m : Nat) (op : AtomOp) (wide : Bool) (pa b c sid uid : Nat) (more : List Byte) : State :=
  s.sendTo false m 4 0 uid pa (leBytes 1 (atomCode op) ++ leBytes 1 wide.toNat ++ leBytes 8 b ++ leBytes 8 c ++ leBytes 8 sid ++
    leBytes 8 uid ++ more)

/-- Active elements of an `aaddscan` with their exclusive prefixes (R223), and the sum. -/
def scanPrefixes (s : Strand) (b : Reg) (k : BitVec 2) : List (Nat × Nat) × Nat :=
  ((fromTo 0 s.vl.toNat).filter fun i => (s.rk k).getLsbD i).foldl
    (fun (acc : List (Nat × Nat) × Nat) i => (acc.1 ++ [(i, acc.2)], (acc.2 + s.elt b s.sew i) % 2 ^ s.sew)) ([], 0)

/-- The response of a returning atomic at its strand (R220 to R223): the result, the flags, and the word retires. -/
def Work.atomReturn (w : Work) (r : AtomEnd) (old : Nat) (fl : Flags) : Work :=
  let k := w.upd fun s => { s.raise fl with flight := .none }
  match r.scan with
  | none => k.result r.d (if r.wide || r.isF then BitVec.ofNat 64 old else sextBytes 4 old)
  | some (b, m) =>
    let pre := (scanPrefixes k.cur b m).1
    (pre.foldl (fun (j : Work) e => j.upd fun s => s.setElt r.d s.sew e.1 ((old + e.2) % 2 ^ s.sew)) k).retire

/-- A returning atomic at its dispatch (R220, R222): its faults, the wait for what holds it, the access, and its response. -/
def Work.atomic (w : Work) (op : AtomOp) (r : AtomEnd) (va : W64) (b c : Nat) : Work :=
  match w.cur.flight with
  | .atomicDone q old fl => w.atomReturn q old.toNat fl
  | .atomicBad code at' => (w.upd fun s => { s with flight := .none }).trapWord ⟨code, 0, at'⟩
  | .atomic _ => w.wait .flight
  | _ =>
    match w.st.checkVirtual w.cur.g.core w.cur.g.ctx va (atomSize r.wide) .atomic with
    | .error t => w.trapWord t
    | .ok p =>
      let held := w.st.heldBy 4 false ++ w.st.heldBy 4 true
      if !held.isEmpty then w.wait (.cmds held)
      else
        match w.storeWait w.cur.g.ctx va.toNat p (atomSize r.wide) with
        | some k => w.wait k
        | none =>
          match p with
          | .mem t pa =>
            if w.st.poisoned p then w.trapWord ⟨6, 0, va⟩
            else
              let (old, fl, k) := w.atomAt op r.wide p t pa b c
              k.atomReturn r old fl
          | .remote m pa =>
            ((w.mod fun s => s.askAtomic m op r.wide pa b c w.cur.sid 0 []).upd fun s => { s with flight := .atomic r }).wait .flight
          | _ => w.trapWord ⟨4, 0, va⟩

/-- The word of a form of major 0x3C, for its trace record. -/
def atomWord (fn : Nat) (d a b f : BitVec 5) : Nat :=
  0x78000000 + d.toNat * 2 ^ 20 + a.toNat * 2 ^ 15 + b.toNat * 2 ^ 10 + f.toNat * 32 + fn

/-- Operand B or the comparand: the low 32 or 64 bits. -/
def atomOperand (wide : Bool) (x : W64) : Nat := if wide then x.toNat else x.toNat % 2 ^ 32

/-- The KIND 2 record of an atomic word, behind its KIND 4 record, once per dispatch (Table 20.2). -/
def Work.traceAtomic (w : Work) (s : State) (wide : Bool) (a : Reg) : Work :=
  if s.strand.waiting = .none then w.trace 2 (2 + wide.toNat + 32) (s.strand.rx a) else w

def returning (fn : Nat) (op : AtomOp) (wide : Bool) (d a b c : Reg) (s : State) : Host.Outcome State Fault Refusal :=
  engineWord (atomWord fn d a b c) a (fun w =>
    (w.traceAtomic s wide a).atomic op ⟨d, wide, decide (op = .fadd), none, s.strand.rx a⟩ (s.strand.rx a) (atomOperand wide (s.strand.rx b))
      (atomOperand wide (s.strand.rx c))) s

def execAaddW (d a b : Reg) (s : State) := returning 0 .add false d a b 0 s
def execAaddD (d a b : Reg) (s : State) := returning 1 .add true d a b 0 s
def execAandW (d a b : Reg) (s : State) := returning 2 .and false d a b 0 s
def execAandD (d a b : Reg) (s : State) := returning 3 .and true d a b 0 s
def execAorW (d a b : Reg) (s : State) := returning 4 .or false d a b 0 s
def execAorD (d a b : Reg) (s : State) := returning 5 .or true d a b 0 s
def execAxorW (d a b : Reg) (s : State) := returning 6 .xor false d a b 0 s
def execAxorD (d a b : Reg) (s : State) := returning 7 .xor true d a b 0 s
def execAminW (d a b : Reg) (s : State) := returning 8 .min false d a b 0 s
def execAminD (d a b : Reg) (s : State) := returning 9 .min true d a b 0 s
def execAmaxW (d a b : Reg) (s : State) := returning 10 .max false d a b 0 s
def execAmaxD (d a b : Reg) (s : State) := returning 11 .max true d a b 0 s
def execAminuW (d a b : Reg) (s : State) := returning 12 .minu false d a b 0 s
def execAminuD (d a b : Reg) (s : State) := returning 13 .minu true d a b 0 s
def execAmaxuW (d a b : Reg) (s : State) := returning 14 .maxu false d a b 0 s
def execAmaxuD (d a b : Reg) (s : State) := returning 15 .maxu true d a b 0 s
def execAswpW (d a b : Reg) (s : State) := returning 16 .swp false d a b 0 s
def execAswpD (d a b : Reg) (s : State) := returning 17 .swp true d a b 0 s
def execAcasW (d a b cmp : Reg) (s : State) := returning 18 .cas false d a b cmp s
def execAcasD (d a b cmp : Reg) (s : State) := returning 19 .cas true d a b cmp s
def execAfaddW (d a b : Reg) (s : State) := returning 20 .fadd false d a b 0 s
def execAincbW (d a b : Reg) (s : State) := returning 21 .incb false d a b 0 s
def execAincbD (d a b : Reg) (s : State) := returning 22 .incb true d a b 0 s

/-! ### No-return atomics -/

/-- A no-return atomic at its dispatch: its faults, then its place on the channel (R219, R220, R222). -/
def Work.atomQueue (w : Work) (word : Nat) (op : AtomOp) (wide : Bool) (va : W64) (b : Nat) (ch : Nat) : Work :=
  match w.st.checkVirtual w.cur.g.core w.cur.g.ctx va (atomSize wide) .atomic with
  | .error t => w.trapWord t
  | .ok p =>
    if 32 ≤ (w.st.onChannels (BitVec.ofNat 4 (2 ^ ch))).length then w.wait (.room ch)
    else
      match p with
      | .mem _ pa => (w.queueCmd word ch none none false (.atom op wide va.toNat pa none (BitVec.ofNat 64 b) false)).retire
      | .remote m pa => (w.queueCmd word ch none none false (.atom op wide va.toNat pa (some m) (BitVec.ofNat 64 b) false)).retire
      | _ => w.trapWord ⟨4, 0, va⟩

def noReturn (fn : Nat) (op : AtomOp) (wide : Bool) (a b : Reg) (ch : BitVec 2) (s : State) : Host.Outcome State Fault Refusal :=
  let word := atomWord fn 0 a b (ch.setWidth 5)
  engineWord word a (fun w =>
    (w.traceAtomic s wide a).atomQueue word op wide (s.strand.rx a) (atomOperand wide (s.strand.rx b)) ch.toNat) s

def execAaddWNoret (a b : Reg) (ch : BitVec 2) (s : State) := noReturn 0 .add false a b ch s
def execAaddDNoret (a b : Reg) (ch : BitVec 2) (s : State) := noReturn 1 .add true a b ch s
def execAandWNoret (a b : Reg) (ch : BitVec 2) (s : State) := noReturn 2 .and false a b ch s
def execAandDNoret (a b : Reg) (ch : BitVec 2) (s : State) := noReturn 3 .and true a b ch s
def execAorWNoret (a b : Reg) (ch : BitVec 2) (s : State) := noReturn 4 .or false a b ch s
def execAorDNoret (a b : Reg) (ch : BitVec 2) (s : State) := noReturn 5 .or true a b ch s
def execAxorWNoret (a b : Reg) (ch : BitVec 2) (s : State) := noReturn 6 .xor false a b ch s
def execAxorDNoret (a b : Reg) (ch : BitVec 2) (s : State) := noReturn 7 .xor true a b ch s
def execAminWNoret (a b : Reg) (ch : BitVec 2) (s : State) := noReturn 8 .min false a b ch s
def execAminDNoret (a b : Reg) (ch : BitVec 2) (s : State) := noReturn 9 .min true a b ch s
def execAmaxWNoret (a b : Reg) (ch : BitVec 2) (s : State) := noReturn 10 .max false a b ch s
def execAmaxDNoret (a b : Reg) (ch : BitVec 2) (s : State) := noReturn 11 .max true a b ch s
def execAminuWNoret (a b : Reg) (ch : BitVec 2) (s : State) := noReturn 12 .minu false a b ch s
def execAminuDNoret (a b : Reg) (ch : BitVec 2) (s : State) := noReturn 13 .minu true a b ch s
def execAmaxuWNoret (a b : Reg) (ch : BitVec 2) (s : State) := noReturn 14 .maxu false a b ch s
def execAmaxuDNoret (a b : Reg) (ch : BitVec 2) (s : State) := noReturn 15 .maxu true a b ch s
def execAswpWNoret (a b : Reg) (ch : BitVec 2) (s : State) := noReturn 16 .swp false a b ch s
def execAswpDNoret (a b : Reg) (ch : BitVec 2) (s : State) := noReturn 17 .swp true a b ch s
def execAfaddWNoret (a b : Reg) (ch : BitVec 2) (s : State) := noReturn 20 .fadd false a b ch s

/-! ### `aaddscan` (R223) -/

/-- The word of a form of major 0x3D. -/
def stripWord (fn : Nat) (d a b xf : Reg) (k : BitVec 2) : W32 :=
  BitVec.ofNat 32 (0x7A000000 + d.toNat * 2 ^ 20 + a.toNat * 2 ^ 15 + b.toNat * 2 ^ 10 + xf.toNat * 32 + k.toNat * 8 + fn)

/-- Live-in and first-written registers of a word on groups of SEW, and what keeps them (R142, R203). -/
def Work.groupsFree (w : Work) (rs ws : List Reg) : Except Stop Work :=
  let spans := fun (l : List Reg) => regsOf (l.map fun r => group r w.cur.sew) w.cur.sew w.cur.grp
  let b := w.st.getBlockers (spans (rs ++ ws))
  if b.isEmpty then .ok (w.touchRegs (spans rs) (spans ws) [] [] [] []) else .error (.wait (.cmds b))

/-- Whether the groups of SEW at two fields are whole, and whether they meet. -/
def Strand.spansOk (s : Strand) (l : List Reg) : Bool := l.all fun r => (group r s.sew).spanOk s.sew s.grp
def Strand.groupsMeet (s : Strand) (a b : Reg) : Bool :=
  meets ((group a s.sew).regs s.sew s.grp) ((group b s.sew).regs s.sew s.grp)

def execAaddscan (d a b : Reg) (k : BitVec 2) (s : State) : Host.Outcome State Fault Refusal :=
  let word := stripWord 0 d a b 0 k
  engineWord word.toNat a (fun w0 =>
    let w := w0.traceAtomic s (decide (w0.cur.sew = 64)) a
    let t := w.cur
    if decide (t.sew ≠ 32) && decide (t.sew ≠ 64) then w.illegal 6 (zext word)
    else if !t.spansOk [d, b] || t.groupsMeet d b then w.illegal 4 (zext word)
    else
      match w.groupsFree [b] [d] with
      | .error e => w.stopWord e
      | .ok j =>
        let (pre, sum) := scanPrefixes t b k
        if pre.isEmpty then j.retire
        else j.atomic .add ⟨d, decide (t.sew = 64), false, some (b, k), s.strand.rx a⟩ (s.strand.rx a) sum 0) s

/-! ### Their events -/

/-- `ATOMIC_RESPONSE`: the response that has reached the module completes the strand's word (R222). -/
def execAtomicResponse (sid : Nat) (s : State) : Host.Outcome State Fault Refusal :=
  s.finish (s.work.onStrand sid fun w =>
    match w.cur.flight with
    | .atomicDone r old fl => w.atomReturn r old.toNat fl
    | _ => w)

/-- The oldest command of a strand that a test accepts. -/
def State.oldestCmd (s : State) (sid : Nat) (p : Cmd → Bool) : Option Cmd :=
  s.cmds.find? fun c => decide (c.gid * 4 + c.sidx = sid) && p c

/-- A command gone, performed or dropped; what waited for it may follow. -/
def Work.doneCmd (w : Work) (uid : Nat) : Work := w.mod fun s => { s with cmds := s.cmds.filter fun e => decide (e.uid ≠ uid) }

/-- A dropped command's delivery at the channel (R398). -/
def Work.dropCmd (w : Work) (c : Cmd) (code va : Nat) : Work :=
  (w.doneCmd c.uid).pendDelivery ⟨true, c.ch, code, 0, BitVec.ofNat 64 va, false, none⟩

/-- The flags of a no-return add, kept on its channel until they are collected (R221). -/
def Strand.noteFlags (s : Strand) (ch : Nat) (fl : Flags) : Strand :=
  if h : ch < 4 then { s with nrflags := s.nrflags.set ch (s.nrflags[ch] ||| fl) h } else s

/-- A queued atomic performed at memory, in channel order (R212, R222), or dropped at a poisoned line. One of another module is asked for,
and performed once its answer has come. -/
def Work.performAtom (w : Work) (c : Cmd) : Work :=
  match c.body with
  | .atom op wide va pa none b _ =>
    let p : Site := .mem .fm pa
    if w.st.poisoned p then w.dropCmd c 6 va
    else
      match w.storeWait c.ctx va p (atomSize wide) with
      | some _ => w
      | none =>
        let (_, fl, k) := w.atomAt op wide p .fm pa b.toNat 0
        (k.doneCmd c.uid).upd fun s => s.noteFlags c.ch fl
  | .atom op wide va pa (some m) b _ =>
    if (w.st.primary false m).isSome then
      (w.mod fun s => s.askAtomic m op wide pa b.toNat 0 (c.gid * 4 + c.sidx) c.uid []).setBody c.uid (.atom op wide va pa (some m) b true)
    else if w.st.inTraining false m then w
    else w.doneCmd c.uid
  | _ => w

/-- Whether a command is an atomic on the channel. -/
def Cmd.isAtom (c : Cmd) (ch : Nat) : Bool :=
  decide (c.ch = ch) &&
  (match c.body with
   | .atom _ _ _ _ _ _ _ => true
   | _ => false)

/-- `NORETURN_ATOMIC_PERFORM`: the channel's oldest queued atomic. -/
def execNoreturnAtomicPerform (sid : Nat) (ch : BitVec 2) (s : State) : Host.Outcome State Fault Refusal :=
  s.finish (
    match s.oldestCmd sid fun c => c.isAtom ch.toNat with
    | some c => if c.mayMove s then (s.work.onCmd c fun w => w.performAtom c).settle else s.work
    | none => s.work)

end Sys2Proof.Machine
end

