-- ==== Sys2Proof/Machine/Combine.lean ====
section
/-! DEFINITION. Accumulation windows, combine puts and the combiner (spec/09 R224 to R229, R398; spec/22 R377, R378). -/

namespace Sys2Proof.Machine

/-! ### Accumulation windows (R224, R226) -/

/-- Whether a descriptor is one that a window may have. -/
def windowDesc (n : Nat) : Bool :=
  let d := descOf n
  d.valid && ((d.isInt && (decide (d.width = 32) || decide (d.width = 64))) || decide (d = descFP32))

/-- `accw` (R224). DESIGN CHOICE (log 77): the base is translated, and an unmapped one is a page fault as a fold's would be; no leaf's
permission is asked, since `accw` makes no access. -/
def execAccw (a b : Reg) (s : State) : Host.Outcome State Fault Refusal :=
  let va := s.strand.rx a
  let n := (s.strand.rx b).toNat
  let size := bitsAt n 0 17
  let desc := bitsAt n 32 20
  let bad : Trap := ⟨4, 0, va⟩
  engineWord (0x7C000007 + a.toNat * 2 ^ 15 + b.toNat * 2 ^ 10) a (fun w =>
    if va.toNat % 64 ≠ 0 then w.trapWord ⟨2, 0, va⟩
    else if bitsAt va.toNat 48 16 ≠ 0 then w.trapWord bad
    else
      match w.st.leafFor w.cur.g.core w.cur.g.ctx va.toNat with
      | none => w.trapWord ⟨3, pageSub .atomic, va⟩
      | some (leaf, _) =>
        if leafREGION leaf ≠ 0 then w.trapWord bad
        else if size = 0 ∨ size % 64 ≠ 0 ∨ 65536 < size ∨ !windowDesc desc ∨ n ≠ size + desc * 2 ^ 32 then w.trapWord bad
        else if w.cur.window.isSome ∨ w.cur.g.recl then w.trapWord bad
        else (w.upd fun t => { t with window := some ⟨va.toNat, size, BitVec.ofNat 20 desc, []⟩ }).retire) s

/-- The place of a window's element that a fold of `z` bytes reaches, or what stops it. -/
def windowSite (w : Work) (va z : Nat) : Except Stop Site :=
  match w.st.checkVirtual w.cur.g.core w.cur.g.ctx (BitVec.ofNat 64 va) z .atomic with
  | .error t => .error (.trap t)
  | .ok p =>
    if w.st.poisoned p then .error (.trap ⟨6, 0, BitVec.ofNat 64 va⟩)
    else
      match w.storeWait w.cur.g.ctx va p z with
      | some k => .error (.wait k)
      | none => .ok p

/-- The places of `n` elements from number `e` on, in ascending order: the first that stops decides (R226). -/
def windowFrom (w : Work) (base z e n : Nat) : Except Stop (List (Nat × Site)) :=
  match n with
  | 0 => .ok []
  | k + 1 =>
    match windowSite w (base + z * e) z with
    | .error x => .error x
    | .ok p =>
      match windowFrom w base z (e + 1) k with
      | .error x => .error x
      | .ok l => .ok ((z * e, p) :: l)

/-- The places of a window's elements, all translated before the first is folded: each with its offset. -/
def windowSites (w : Work) (base z n : Nat) : Except Stop (List (Nat × Site)) := windowFrom w base z 0 n

/-- The lines of field memory that places of `n` bytes touch. -/
def siteLines (l : List Site) (n : Nat) : List Nat :=
  l.flatMap fun p =>
    match p with
    | .mem .fm pa => linesOf pa n
    | _ => []

/-- The private copies of an element folded in ascending lane order (R226). -/
def foldCopies (win : Window) (d : Desc) (z off : Nat) (lanes : List Nat) : Nat × Flags :=
  match lanes with
  | [] => (0, 0)
  | l :: rest =>
    rest.foldl (fun (acc : Nat × Flags) k =>
      let r := addUnder d acc.1 (leNat (Mem.readN win.copies (k * 65536 + off) z))
      (r.1, acc.2 ||| r.2)) (leNat (Mem.readN win.copies (l * 65536 + off) z), 0)

/-- One element folded into memory, or sent to the module that holds it, which adds it there (R220, R226). -/
def foldElement (win : Window) (d : Desc) (z : Nat) (lanes : List Nat) (w : Work) (e : Nat × Site) : Work :=
  let (c, f1) := foldCopies win d z e.1 lanes
  match e.2 with
  | .mem t pa =>
    let (v, f2) := addUnder d (leNat (w.bytes t pa z)) c
    ((w.note e.2).perform (w.storeAt e.2 (leBytes z v))).upd fun s => s.raise (f1 ||| f2)
  | .remote m pa =>
    (w.mod fun s => s.askAtomic m (if d.isInt then .add else .fadd) (decide (z = 8)) pa c 0 s.strand.sid 0 []).upd fun s => s.raise f1
  | _ => w

/-- How many places lie on other modules. -/
def farCount (l : List (Nat × Site)) : Nat :=
  (l.filter fun e =>
    match e.2 with
    | .remote _ _ => true
    | _ => false).length

/-- The folds of an `accm`, the window closed; it retires once every other module has answered (R226). -/
def Work.foldWindow (w : Work) (win : Window) (d : Desc) (z : Nat) (sites : List (Nat × Site)) : Work :=
  let lanes := (w.st.core w.cur.g.core).heldLanes w.cur.g
  let k := (sites.foldl (foldElement win d z lanes) w).upd fun t => { t with window := none }
  if farCount sites = 0 then k.retire else (k.upd fun t => { t with flight := .folds (farCount sites) (BitVec.ofNat 64 win.base) }).wait .flight

def execAccm (a : Reg) (s : State) : Host.Outcome State Fault Refusal :=
  let va := s.strand.rx a
  engineWord (0x7C000008 + a.toNat * 2 ^ 15) a (fun w =>
    match w.cur.flight with
    | .folds 0 _ => (w.upd fun t => { t with flight := .none }).retire
    | .folds _ _ => w.wait .flight
    | .atomicBad code va => (w.upd fun t => { t with flight := .none }).trapWord ⟨code, 0, va⟩
    | _ =>
      match w.cur.window with
      | none => w.trapWord ⟨4, 0, va⟩
      | some win =>
        if va.toNat ≠ win.base then w.trapWord ⟨4, 0, va⟩
        else
          let d := descOf win.desc.toNat
          let z := d.width / 8
          match windowSites w win.base z (win.size / z) with
          | .error e => w.stopWord e
          | .ok sites =>
            let held := w.st.heldBy 4 false ++ w.st.heldBy 4 true
            if !held.isEmpty then w.wait (.cmds held)
            else if !w.linesFit false (siteLines (sites.map (·.2)) z) then
              w.wait (.log false win.base (siteLines (sites.map (·.2)) z).eraseDups)
            else w.foldWindow win d z sites) s

/-! ### Combine puts: dispatch (R227, R228) -/

/-- A header as a put reads it. -/
structure Header where
  ntok : Nat
  nrank : Nat
  rowe : Nat
  outd : Nat
  out : Nat
  outp : Nat
  slots : Nat
  fill : Nat
  doneA : Nat
  ok : Bool

def headerOf (n : Nat) : Header :=
  let f := fun (lo len : Nat) => bitsAt n (8 * lo) (8 * len)
  let d := descOf (bitsAt n 64 20)
  { ntok := f 0 4, nrank := f 4 1, rowe := f 6 2, outd := bitsAt n 64 20, out := f 16 8, outp := f 24 8, slots := f 32 8,
    fill := f 40 8, doneA := f 48 8,
    ok := decide (1 ≤ f 0 4) && decide (f 0 4 ≤ 2 ^ 20) && decide (1 ≤ f 4 1) && decide (f 4 1 ≤ 8) && decide (1 ≤ f 6 2) &&
      decide (f 6 2 ≤ 4096) && decide (f 8 4 < 2 ^ 20) && d.valid && decide (8 ≤ d.cls) && decide (f 32 8 % 64 = 0) &&
      decide (f 56 8 = 0) }

/-- The first of `n` bytes from a virtual address in each 64 KiB page that they touch. -/
def pagesOf (va n : Nat) : List Nat :=
  (List.range ((va + n - 1) / 65536 + 1 - va / 65536)).map fun j => max va ((va / 65536 + j) * 65536)

/-- The first address of a list in each 64 KiB page, for each kind of access. -/
def onePerPage (l : List (Nat × Acc)) : List (Nat × Acc) :=
  match l with
  | [] => []
  | a :: rest => a :: (onePerPage rest).filter fun b => decide (b.1 / 65536 ≠ a.1 / 65536) || decide (b.2 ≠ a.2)

/-- What a put translates at its dispatch, each page under the address that it uses there first: its slot, which it writes and the combine
reads, the fill word, the output row, which is only written, and DONE (R228, R307). -/
def putUses (slots slotLen fill out outLen done : Nat) : List (Nat × Acc) :=
  onePerPage ((pagesOf slots slotLen ++ pagesOf fill 4).map (fun a => (a, Acc.atomic)) ++ (pagesOf out outLen).map (fun a => (a, Acc.write)) ++
    (pagesOf done 8).map fun a => (a, Acc.atomic))

/-- One page of a put translated; an address outside field memory and the domain's windows breaks the header's limits. -/
def putPage (w : Work) (bad : Trap) (p : Nat) (a : Acc) : Except Trap (Nat × Option Nat × Nat) :=
  let va : W64 := BitVec.ofNat 64 p
  if 2 ^ 48 ≤ p then .error bad
  else
    match w.st.leafFor w.cur.g.core w.cur.g.ctx va.toNat with
    | none => .error ⟨3, pageSub a, va⟩
    | some (leaf, _) =>
      if leafREGION leaf ≠ 0 ∧ (leafREGION leaf ≠ 3 ∨ leafXMOD leaf) then .error bad
      else
        match w.st.access w.cur.g.core w.cur.g.ctx va a with
        | .error t => .error t
        | .ok (.mem _ pa) => .ok (p / 65536, none, pa - p % 65536)
        | .ok (.remote m pa) => .ok (p / 65536, some m, pa - p % 65536)
        | .ok _ => .error bad

/-- The pages of a put translated in the order in which it uses them. DESIGN CHOICE (log 76): the first that fails is reported. -/
def putPages (w : Work) (bad : Trap) (l : List (Nat × Acc)) : Except Trap (List (Nat × Option Nat × Nat)) :=
  match l with
  | [] => .ok []
  | (p, a) :: rest =>
    match putPage w bad p a with
    | .error t => .error t
    | .ok e =>
      match putPages w bad rest with
      | .error t => .error t
      | .ok r => .ok (e :: r)

/-- The place of a put's header, which it reads, and where DUP and CFLAGS are written (R227, R228, R307). -/
def Work.headerPlace (w : Work) (va : W64) : Except Trap Site :=
  match w.st.checkVirtual w.cur.g.core w.cur.g.ctx va 64 .read with
  | .error t => .error t
  | .ok p =>
    match w.st.access w.cur.g.core w.cur.g.ctx va .write with
    | .error t => .error t
    | .ok _ => .ok p

/-- The row that a put carries: each active element converted to FP32, +0 for the others. -/
def putRow (s : Strand) (d : Reg) (k : BitVec 2) (f : Fmt) : List (Nat × Flags) :=
  (fromTo 0 s.vl.toNat).map fun i =>
    if (s.rk k).getLsbD i then encodeVal (decodeVal f.srcA (s.elt d s.sew i)) descFP32 f.rm f.sat else (0, 0)

/-- A put at its dispatch: header, requirements and translations, then its place on channel 0. DESIGN CHOICE (log 77): a header outside field
memory takes the access fault of a read of its region. -/
def Work.putQueue (w : Work) (word : Nat) (a b : Reg) (zero : Bool) (row : Strand → List (Nat × Flags)) : Work :=
  let va := w.rx a
  let x := w.rx b
  let bad : Trap := ⟨4, 0, x⟩
  match w.headerPlace va with
  | .error t => w.trapWord t
  | .ok p =>
    match p with
    | .mem .fm pa =>
      if w.st.poisoned p then w.trapWord ⟨6, 0, va⟩
      else
        let h := headerOf (leNat (w.readSite p 64))
        let tok := x.toNat / 256
        let r := x.toNat % 256
        if !h.ok ∨ h.ntok ≤ tok ∨ h.nrank ≤ r ∨ (!zero ∧ w.cur.vl.toNat ≠ h.rowe) then w.trapWord bad
        else
          let slots := h.slots + tok * h.nrank * 4 * h.rowe
          let fill := h.fill + 4 * tok
          let out := h.out + tok * h.outp
          let wide := (descOf h.outd).width / 8
          match putPages w bad (putUses slots (h.nrank * 4 * h.rowe) fill out (h.rowe * wide) h.doneA) with
          | .error t => w.trapWord t
          | .ok pages =>
            if 32 ≤ (w.st.onChannels 1).length then w.wait (.room 0)
            else
              let codes := row w.cur
              let k := w.upd fun s => s.raise (orFlags (codes.map (·.2)))
              (k.queueCmd word 0 none none false (.put ⟨zero, codes.map (·.1), r, pa, va.toNat, none, h.nrank, h.rowe, BitVec.ofNat 20 h.outd,
                slots, fill, out, h.doneA, pages⟩ false)).retire
    | _ => w.trapWord ⟨4, 0, va⟩

/-- The format word of `cmbput` (R228). -/
def okPut (sew : Nat) (f : Fmt) : Bool :=
  f.srcA.valid && decide (f.srcA.width = sew) && decide (f.dst = descFP32) && f.srcB.isZero && !f.sc && decide (f.rm < 4)

def execCmbput (d a b xf : Reg) (k : BitVec 2) (s : State) : Host.Outcome State Fault Refusal :=
  let word := stripWord 1 d a b xf k
  let fw := s.strand.rx xf
  let f := fmtOf fw
  engineWord word.toNat a (fun w =>
    if !okPut w.cur.sew f then w.illegal 5 fw
    else if !w.cur.spansOk [d] then w.illegal 4 (zext word)
    else
      match w.groupsFree [d] [] with
      | .error e => w.stopWord e
      | .ok j => j.putQueue word.toNat a b false fun t => putRow t d k f) s

/-- `cmbput.z` reads no vector register and no format word. -/
def execCmbputZ (a b : Reg) (s : State) : Host.Outcome State Fault Refusal :=
  engineWord (stripWord 2 0 a b 0 0).toNat a (fun w => w.putQueue (stripWord 2 0 a b 0 0).toNat a b true fun _ => []) s

/-! ### Puts performed (R228, R229) -/

/-- Where a put's byte address lies. -/
def putSite (p : Put) (va : Nat) : Site :=
  match p.pages.find? fun e => decide (e.1 = va / 65536) with
  | some (_, none, pa) => .mem .fm (pa + va % 65536)
  | some (_, some m, pa) => .remote m (pa + va % 65536)
  | none => .remote 0 0

/-- The places of `n` bytes of a put, page by page, each with its length. -/
def putParts (p : Put) (va n : Nat) : List (Site × Nat) :=
  (pagesOf va n).map fun a => (putSite p a, min (va + n - a) (65536 - a % 65536))

/-- `n` bytes of a put's memory; bytes of another module are a free value (log 10). -/
def putRead (p : Put) (w : Work) (va n : Nat) : List Byte × Work :=
  (putParts p va n).foldl (fun acc e =>
    match e.1 with
    | .mem t pa => (acc.1 ++ acc.2.bytes t pa e.2, acc.2)
    | _ =>
      let (bs, j) := acc.2.freeBytes e.2
      (acc.1 ++ bs, j)) ([], w)

/-- A store whose owner tag names the device (R329): the combiner's. -/
def Work.deviceStore (w : Work) (p : Site) (bytes : List Byte) : Store :=
  match p with
  | .mem t pa => .mem (.put t pa bytes 0 false)
  | _ => w.storeAt p bytes

/-- Bytes of a put written, page by page: by the combiner, with the device's owner tag, or by the strand. -/
def putWrite (p : Put) (store : Work → Site → List Byte → Store) (w : Work) (va : Nat) (bs : List Byte) : Work :=
  ((putParts p va bs.length).foldl (fun acc e => ((acc.1.note e.1).perform (store acc.1 e.1 (acc.2.take e.2)), acc.2.drop e.2)) (w, bs)).1

/-- The first poisoned line in a range of a put. -/
def putPoison (p : Put) (s : State) (va n : Nat) : Option Nat :=
  ((List.range ((va + n - 1) / 64 + 1 - va / 64)).map fun j => max va ((va / 64 + j) * 64)).find? fun a => s.poisoned (putSite p a)

/-- Codes of 4 bytes. -/
def codesOf (n : Nat) (bs : List Byte) : List Nat := (List.range n).map fun j => leNat ((bs.drop (4 * j)).take 4)

/-- The virtual address of the slot of a rank. -/
def slotAt (p : Put) (r : Nat) : Nat := p.slots + r * 4 * p.rowe

/-- The sum of the slots of a token in rank order, none when every rank is zero-flagged (R229). -/
def sumSlots (p : Put) (zeros : Nat) (w : Work) (r n : Nat) (acc : Option (List Nat)) (fl : Flags) : Option (List Nat) × Flags × Work :=
  match n with
  | 0 => (acc, fl, w)
  | k + 1 =>
    if bitAt zeros r then sumSlots p zeros w (r + 1) k acc fl
    else
      let (bs, w1) := putRead p w (slotAt p r) (4 * p.rowe)
      let row := codesOf p.rowe bs
      match acc with
      | none => sumSlots p zeros w1 (r + 1) k (some row) fl
      | some l =>
        let sums := (l.zip row).map fun e => addUnder descFP32 e.1 e.2
        sumSlots p zeros w1 (r + 1) k (some (sums.map (·.1))) (fl ||| orFlags (sums.map (·.2)))

/-- The first poisoned line of a combine's slots and DONE. -/
def slotPoison (p : Put) (s : State) (zeros : Nat) : Option Nat :=
  let hits := (List.range p.nrank).filterMap fun r =>
    if bitAt zeros r then none else putPoison p s (slotAt p r) (4 * p.rowe)
  match hits with
  | a :: _ => some a
  | [] => putPoison p s p.doneA 8

/-- A word changed by the device: here, or by an atomic of the module that holds it, which answers under the number of what is performed. -/
def Work.deviceAtom (w : Work) (op : AtomOp) (wide : Bool) (p : Site) (b : Nat) : Work :=
  let n := atomSize wide
  match p with
  | .mem t pa =>
    match (atomNew op wide (leNat (w.bytes t pa n)) b 0).1 with
    | some v => (w.note p).perform (w.deviceStore p (leBytes n v))
    | none => w
  | .remote m pa => w.mod fun s => s.askAtomic m op wide pa b 0 0 w.src []
  | _ => w

/-- Where the header of a put lies. -/
def headerSite (p : Put) (off : Nat) : Site :=
  match p.home with
  | none => .mem .fm (p.hdr + off)
  | some m => .remote m (p.hdr + off)

/-- The output row of a token as codes, and the flags (R229). -/
def combineRow (p : Put) (w : Work) (zeros : Nat) : List Nat × Flags × Work :=
  let (acc, f1, w1) := sumSlots p zeros w 0 p.nrank none 0
  let codes := (acc.getD (List.replicate p.rowe 0)).map fun c => encodeVal (decodeVal descFP32 c) (descOf p.outd.toNat) 0 false
  (codes.map (·.1), f1 ||| orFlags (codes.map (·.2)), w1)

/-- `combine(t)`: the output row, the fill word, DONE and CFLAGS, bits 15:8 of the header's word at 4 (R229). -/
def combine (p : Put) (w : Work) (zeros : Nat) : Work :=
  let (codes, fl, w1) := combineRow p w zeros
  let w2 := putWrite p Work.deviceStore w1 p.out (codes.flatMap fun c => leBytes ((descOf p.outd.toNat).width / 8) c)
  let w3 := putWrite p Work.deviceStore w2 p.fill (leBytes 4 0)
  let w4 := w3.deviceAtom .add true (putSite p p.doneA) 1
  if fl = 0 then w4 else w4.deviceAtom .or false (headerSite p 4) (fl.toNat * 256)

/-- The first poisoned line that a combine reads: a slot's, that of DONE, or the header's, whose CFLAGS its flags join (R229, R398). -/
def combinePoison (p : Put) (w : Work) (zeros : Nat) : Option Nat :=
  match slotPoison p w.st zeros with
  | some va => some va
  | none => if w.st.poisoned (headerSite p 4) ∧ (combineRow p w zeros).2.1 ≠ 0 then some (p.hva + 4) else none

/-- The lines of field memory that a put and the combine it may fire write. -/
def putLines (p : Put) : List Nat :=
  let wide := (descOf p.outd.toNat).width / 8
  let own := fun (va n : Nat) => (putParts p va n).flatMap fun e => siteLines [e.1] e.2
  own p.fill 4 ++ (if p.zero then [] else own (slotAt p p.rank) (4 * p.rowe)) ++ own p.out (p.rowe * wide) ++ own p.doneA 8 ++
    siteLines [headerSite p 0] 64

/-- Whether a put can be performed here now: an undo log with room for its lines, and no link of it in training. -/
def Work.putFree (w : Work) (p : Put) : Bool :=
  w.linesFit false (putLines p) &&
  p.pages.all fun e =>
    match e.2.1 with
    | none => true
    | some m => (w.st.primary false m).isSome || !w.st.inTraining false m

/-- The words of other modules that a combine reads: DONE, and the header's word of CFLAGS where its flags join it. -/
def combineProbes (p : Put) (w : Work) (zeros : Nat) : List (Bool × Site) :=
  ([(true, putSite p p.doneA)] ++ (if (combineRow p w zeros).2.1 = 0 then [] else [(false, headerSite p 4)])).filter fun e =>
    match e.2 with
    | .remote _ _ => true
    | _ => false

/-- How a put ends: performed, with the combine still to be fired once other modules have said that their lines are good, dropped as a
duplicate, or dropped at a poisoned line. -/
inductive PutEnd where
  | done
  | probing (zeros : Nat)
  | dup
  | bad (code va : Nat)
  deriving DecidableEq, Repr

/-- A combine fired, or dropped at a poisoned line. -/
def fireCombine (p : Put) (w : Work) (zeros : Nat) : PutEnd × Work :=
  match combinePoison p w zeros with
  | some va => (.bad 6 va, w)
  | none => (.done, combine p w zeros)

/-- The combine that a put fires. Words of other modules that it reads are asked for first, by an atomic that changes nothing: a bad line there
drops the combine before it has written anything (R398, log 18). -/
def startCombine (p : Put) (w : Work) (zeros : Nat) : PutEnd × Work :=
  let probes := combineProbes p w zeros
  if probes.isEmpty || (combinePoison p w zeros).isSome then fireCombine p w zeros
  else (.probing zeros, probes.foldl (fun (k : Work) e => k.deviceAtom .or e.1 e.2 0) w)

/-- A put at its fill word, which lies here: the duplicate test, the slot, the fill word and the combine it may fire. -/
def putHere (p : Put) (store : Work → Site → List Byte → Store) (w : Work) : PutEnd × Work :=
  match putPoison p w.st p.fill 4 with
  | some va => (.bad 6 va, w)
  | none =>
    let (bs, w0) := putRead p w p.fill 4
    let word := leNat bs
    if bitAt word p.rank then (if w.st.poisoned (headerSite p 12) then .bad 6 (p.hva + 12) else .dup, w0)
    else
      let filled := setBits (word % 256) p.rank 1 1
      let zeros := if p.zero then setBits (bitsAt word 8 8) p.rank 1 1 else bitsAt word 8 8
      let w1 := if p.zero then w0 else putWrite p store w0 (slotAt p p.rank) (p.row.flatMap (leBytes 4))
      let w2 := putWrite p store w1 p.fill (leBytes 4 (filled + zeros * 256))
      if filled = 2 ^ p.nrank - 1 then startCombine p w2 zeros else (.done, w2)

/-- The modules that are to answer what was asked of them under a number. -/
def State.asksOf (s : State) (uid : Nat) : List Nat :=
  s.ports.toList.flatMap fun p => (p.replay ++ p.queue).filterMap fun f =>
    if f.kind = 4 ∧ f.uid = uid then f.dest.map (·.2) else none

/-- Whether all that was sent under a number has been acknowledged (R322). -/
def State.carried (s : State) (uid : Nat) : Bool := s.ports.toList.all fun p => !p.carries uid

/-- The modules asked under a number since it had asked those of a list. -/
def State.newAsks (s : State) (uid : Nat) (old : List Nat) : List Nat := old.foldl List.erase (s.asksOf uid)

/-- The end of a put at its command: gone once what it writes elsewhere is performed there (R377), its duplicate counted in DUP, or its delivery
due (R398). `old` are the modules that it had asked before. -/
def Work.endPut (w : Work) (c : Cmd) (p : Put) (old : List Nat) (e : PutEnd) : Work :=
  let asks := w.st.newAsks c.uid old
  let whole := asks.isEmpty && w.st.carried c.uid
  let keep := fun (fire : Option (Put × Nat)) => w.setBody c.uid (.rest asks p.doneA (p.pages.map (·.1)) fire)
  match e with
  | .done => if whole then w.doneCmd c.uid else keep none
  | .probing zeros => keep (some (p, zeros))
  | .dup => (w.deviceAtom .add false (headerSite p 12) 1).doneCmd c.uid
  | .bad code va =>
    if whole then w.dropCmd c code va else (keep none).pendDelivery ⟨true, c.ch, code, 0, BitVec.ofNat 64 va, false, none⟩

/-- The combine of a put whose modules have answered (R398). -/
def Work.firePut (w : Work) (c : Cmd) : Work :=
  match c.body with
  | .rest [] _ _ (some (p, zeros)) =>
    if w.putFree p then
      let (e, k) := fireCombine p w zeros
      k.endPut c p (w.st.asksOf c.uid) e
    else w
  | _ => w

/-- A put as the module of its fill word performs it: its pages there are that module's own. -/
def farPut (p : Put) (self m : Nat) : Put :=
  { p with home := some self,
           pages := p.pages.map fun e => (e.1, (if e.2.1 = some m then none else some (e.2.1.getD self)), e.2.2) }

/-- A put as the flit carries it. -/
def putBytes (p : Put) : List Byte :=
  leBytes 1 p.zero.toNat ++ leBytes 1 p.rank ++ leBytes 1 p.nrank ++ leBytes 2 p.rowe ++ leBytes 3 p.outd.toNat ++ leBytes 8 p.hdr ++
    leBytes 8 p.slots ++ leBytes 8 p.fill ++ leBytes 8 p.out ++ leBytes 8 p.doneA ++
    (p.pages.flatMap fun e => leBytes 8 e.1 ++ leBytes 2 (e.2.1.getD 256) ++ leBytes 8 e.2.2) ++ p.row.flatMap (leBytes 4)

/-- A put performed, or dropped at a poisoned line (R398). One whose fill word lies at another module is asked of that module's combiner
(log 18). -/
def Work.performPut (w : Work) (c : Cmd) : Work :=
  match c.body with
  | .put p _ =>
    match putSite p p.fill with
    | .remote m pa =>
      if (w.st.primary false m).isSome then
        let q := farPut p w.st.map.self m
        (w.mod fun s => s.askAtomic m .or false pa (2 ^ p.rank + (if p.zero then 2 ^ (8 + p.rank) else 0)) 0 (c.gid * 4 + c.sidx) c.uid
          (putBytes q)).setBody c.uid (.put p true)
      else if w.st.inTraining false m then w
      else w.doneCmd c.uid
    | _ =>
      if w.putFree p then
        let (e, k) := putHere p Work.storeAt w
        k.endPut c p [] e
      else w
  | _ => w

/-- `CMBPUT_PERFORM`: the strand's oldest put. -/
def execCmbputPerform (sid : Nat) (s : State) : Host.Outcome State Fault Refusal :=
  let isPut := fun (c : Cmd) =>
    match c.body with
    | .put _ _ => true
    | _ => false
  s.finish (
    match s.oldestCmd sid isPut with
    | some c => if c.mayMove s then (s.work.onCmd c fun w => w.performPut c).settle else s.work
    | none => s.work)

/-! ### Answers to other modules (R326, R377) -/

/-- The answer of an atomic (KIND 5): its old value, its flags, the cause where its line was bad, and the strand and the command that asked. -/
def State.answerAtomic (s : State) (port addr old : Nat) (fl : Flags) (bad sid uid : Nat) : State :=
  s.replyTo port 5 addr (leBytes 8 old ++ leBytes 1 fl.toNat ++ leBytes 1 bad ++ leBytes 8 sid ++ leBytes 8 uid)

/-- The cause of a put's end, 0 for none. -/
def PutEnd.code (e : PutEnd) : Nat :=
  match e with
  | .bad code _ => code
  | _ => 0

/-- A put of another module that waits for nothing more: its combine fired, or its answer. -/
def Work.answerPut (w : Work) (p : FarPut) : Work :=
  if !p.asks.isEmpty then w
  else
    match p.fire with
    | some (q, zeros) =>
      if w.putFree q then
        let (e, k) := fireCombine q { w with src := p.own } zeros
        let new := { p with asks := k.st.newAsks p.own (w.st.asksOf p.own), bad := e.code, fire := none }
        ({ k with src := w.src } : Work).mod fun s => { s with farPuts := s.farPuts.map fun x => if x.own = p.own then new else x }
      else w
    | none =>
      if w.st.carried p.own then
        w.mod fun s =>
          { s with farPuts := s.farPuts.filter fun e => decide (e.own ≠ p.own) }.answerAtomic p.port p.addr p.old 0 p.bad p.sid p.uid
      else w
def Work.answerPuts (w : Work) : Work := w.st.farPuts.foldl Work.answerPut w

end Sys2Proof.Machine
end

