-- ==== Sys2Proof/Machine/Sync.lean ====
section
/-! DEFINITION. Ordering words, barriers, the iteration ring, `mwait`, `ktrig`, `seal` and `xhold` (spec/09 R216 to R218, R230
to R232, R234 to R236; spec/15 R296 to R301). -/

namespace Sys2Proof.Machine

/-- The word of a form of major 0x3E. -/
def syncWord (fn : Nat) (d a b f : Reg) : Nat :=
  0x7C000000 + d.toNat * 2 ^ 20 + a.toNat * 2 ^ 15 + b.toNat * 2 ^ 10 + f.toNat * 32 + fn

/-! ### `sbar`, fences, acquires and releases (R216 to R218) -/

/-- What is still to be performed of the strand's earlier accesses in the classes of a mask (R216). Reads are performed at issue
(log 6); an external write of a copy is of class 7 (R241). -/
def State.earlier (s : State) (before : BitVec 8) : List Nat :=
  let t := s.strand
  ((t.pend.filter fun p => before.getLsbD p.cls).map (·.uid)) ++
  (if before.getLsbD 4 then s.cmdsOf t else []) ++ (if before.getLsbD 5 then s.heathOf t else []) ++
  (if before.getLsbD 7 && !before.getLsbD 4 then s.externalOf t else [])

/-- A hold left behind on the strand's later accesses until those listed are performed; `rel` for one that a release leaves. -/
def Work.holdOn (w : Work) (ld st : BitVec 8) (rel : Bool) (l : List Nat) : Work :=
  if l.isEmpty then w else w.upd fun s => { s with holds := s.holds ++ [⟨ld, st, l, rel⟩] }

def execSbar (pre post : BitVec 8) (s : State) : Host.Outcome State Fault Refusal :=
  engineWord (0x7C000000 + pre.toNat * 2 ^ 17 + post.toNat * 2 ^ 9) 0
    (fun w => (w.holdOn post post false (w.st.earlier pre)).retire) s

/-- The classes that a release orders: Heath commands only at device and system scope (R217). -/
def releaseMask (device : Bool) : BitVec 8 := if device then 0xFF else 0xDF

/-- The strand's stores to other modules that are still to be performed there: a release of system scope orders them (R250, note 13). -/
def State.farStores (s : State) (sc : BitVec 2) : List Nat := if sc = 3 then s.farOf s.strand fun _ => true else []

/-- What the strand's earlier releases wait for: a later release follows them (R217, R247 to R250, row Rel). -/
def State.earlierReleases (s : State) : List Nat := s.stillPending ((s.strand.holds.filter (·.rel)).flatMap (·.cmds))

/-- A release of a scope: later stores, engine commands, atomics and releases wait. -/
def Work.release (w : Work) (sc : BitVec 2) : Work :=
  let m := releaseMask (decide (2 ≤ sc.toNat))
  w.holdOn (m &&& 0x30) m true (w.st.earlier m ++ w.st.farStores sc ++ w.st.earlierReleases)

def execFenceRel (sc : BitVec 2) (s : State) : Host.Outcome State Fault Refusal :=
  engineWord (syncWord 1 0 0 0 (sc.setWidth 5)) 0 (fun w => (w.release sc).retire) s

/-- `fence.acq`: every earlier read of the strand has been performed when it dispatches (R242, log 6). -/
def execFenceAcq (sc : BitVec 2) (s : State) : Host.Outcome State Fault Refusal :=
  engineWord (syncWord 2 0 0 0 (sc.setWidth 5)) 0 (fun w => w.retire) s

/-- `ld.acq` of 4 or 8 bytes: the load, in class 0, then the acquire. -/
def loadAcquire (fn z : Nat) (d a : Reg) (sc : BitVec 2) (s : State) : Host.Outcome State Fault Refusal :=
  engineWord (syncWord fn d a 0 (sc.setWidth 5)) a (fun w =>
    match w.loadVirtual 0 (s.strand.rx a) z with
    | .error e => w.stopWord e
    | .ok (v, k) => k.result d (sextBytes z v)) s

/-- What a release holds back stays behind its store where that is still to be performed (R247 to R250, row Rel). -/
def Work.behindStore (w : Work) (sc : BitVec 2) (first : Nat) : Work :=
  let m := releaseMask (decide (2 ≤ sc.toNat))
  let own := (w.cur.pend.map (·.uid) ++ w.st.farStores sc).filter fun u => decide (first ≤ u)
  w.holdOn (m &&& 0x30) m true own

/-- `st.rel` of 4 or 8 bytes: the release, then the store, in class 0. -/
def storeRelease (fn z : Nat) (a b : Reg) (sc : BitVec 2) (s : State) : Host.Outcome State Fault Refusal :=
  engineWord (syncWord fn 0 a b (sc.setWidth 5)) a (fun w =>
    match (w.release sc).storeVirtual 0 (s.strand.rx a) z (s.strand.rx b).toNat with
    | .error e => w.stopWord e
    | .ok k => (k.behindStore sc w.st.nextId).retire) s

def execLdAcqW (d a : Reg) (sc : BitVec 2) (s : State) := loadAcquire 3 4 d a sc s
def execLdAcqD (d a : Reg) (sc : BitVec 2) (s : State) := loadAcquire 4 8 d a sc s
def execStRelW (a b : Reg) (sc : BitVec 2) (s : State) := storeRelease 5 4 a b sc s
def execStRelD (a b : Reg) (sc : BitVec 2) (s : State) := storeRelease 6 8 a b sc s

/-- A release that is no store takes effect once the accesses that it and the releases before it order are performed (log 6). -/
def Work.released (w : Work) (device : Bool) (go : Work → Work) : Work :=
  let cmds := w.st.earlier (releaseMask device) ++ w.st.earlierReleases
  if cmds.isEmpty then go w else w.wait (.cmds cmds)

/-! ### Barriers (R230, R296 to R299) -/

/-- A barrier by its name; one that nothing has written stands as at reset. -/
def State.barrier (s : State) (b : BarId) : Barrier :=
  match b with
  | .meadow m n => ((s.mbars.find? fun e => decide (e.1 = m) && decide (e.2.1 = n)).map (·.2.2)).getD {}
  | .device n => ((s.dbars.find? fun e => decide (e.1 = n)).map (·.2)).getD {}
def State.setBarrier (s : State) (b : BarId) (v : Barrier) : State :=
  match b with
  | .meadow m n => { s with mbars := upsert (fun e => decide (e.1 = m) && decide (e.2.1 = n)) (m, n, v) s.mbars }
  | .device n => { s with dbars := upsert (fun e => decide (e.1 = n)) (n, v) s.dbars }

/-- An arrival: a participant more, and at the last one the next generation (R298). -/
def Barrier.arrive (b : Barrier) : Barrier :=
  if b.count + 1 = b.npart then { b with gen := (b.gen + 1) % 2 ^ 32, count := 0 } else { b with count := b.count + 1 }

/-- The barrier that a strand names: its number in range and bound to the strand's context. -/
def State.barrierFor (s : State) (meadow : Bool) (x : W64) : Option BarId :=
  let id := if meadow then BarId.meadow (s.strand.g.core / 24) x.toNat else BarId.device x.toNat
  let b := s.barrier id
  if (if meadow then 32 else 16) ≤ x.toNat ∨ !b.bound ∨ b.ctx ≠ s.strand.g.ctx then none else some id

def arriveWord (fn : Nat) (meadow : Bool) (d a : Reg) (s : State) : Host.Outcome State Fault Refusal :=
  engineWord (syncWord fn d a 0 0) a (fun w =>
    match w.st.barrierFor meadow (s.strand.rx a) with
    | none => w.trapWord ⟨4, 0, s.strand.rx a⟩
    | some id =>
      w.released (!meadow) fun k =>
        let b := k.st.barrier id
        ((k.mod fun t => t.setBarrier id b.arrive).upd fun t =>
          { t with arrived := upsert (fun e => decide (e.1 = id)) (id, b.gen) t.arrived }).result d (BitVec.ofNat 64 b.gen)) s

/-- The barrier timeout (R298): cause 0x0B with the barrier's number. -/
def timeoutTrap (id : BarId) : Trap :=
  match id with
  | .meadow _ n => ⟨0x0B, 0, BitVec.ofNat 64 n⟩
  | .device n => ⟨0x0B, 1, BitVec.ofNat 64 n⟩

/-- Whether a wait's timeout has passed; 0 means none. -/
def timedOut (tmo t : Nat) : Bool := decide (tmo ≠ 0) && decide (tmo ≤ t)

def waitWord (fn : Nat) (meadow : Bool) (a b : Reg) (s : State) : Host.Outcome State Fault Refusal :=
  let g := (s.strand.rx b).toNat % 2 ^ 32
  engineWord (syncWord fn 0 a b 0) a (fun w =>
    match w.st.barrierFor meadow (s.strand.rx a) with
    | none => w.trapWord ⟨4, 0, s.strand.rx a⟩
    | some id =>
      if (w.st.barrier id).gen ≠ g then w.retire
      else w.wait (.barrier id g)) s

def execMbarArr (d a : Reg) (s : State) := arriveWord 11 true d a s
def execMbarWait (a b : Reg) (s : State) := waitWord 12 true a b s
def execDbarArr (d a : Reg) (s : State) := arriveWord 13 false d a s
def execDbarWait (a b : Reg) (s : State) := waitWord 14 false a b s

/-- `BARRIER_TIMEOUT`: a strand whose wait has counted to its barrier's timeout, at the end of an arithmetic clock in which no arrival has
advanced it (R299). -/
def execBarrierTimeout (sid : Nat) (s : State) : Host.Outcome State Fault Refusal :=
  s.finish (s.work.onStrand sid fun w =>
    match w.cur.waiting with
    | .barrier id g =>
      let b := w.st.barrier id
      if b.gen = g ∧ timedOut b.timeout w.cur.waitT then w.trapWord (timeoutTrap id) else w
    | _ => w)

/-! ### The iteration ring (R231, R300, R301) -/

def State.ring (s : State) (m st : Nat) : Ring :=
  ((s.rings.find? fun e => decide (e.1 = m) && decide (e.2.1 = st)).map (·.2.2)).getD {}
def State.setRing (s : State) (m st : Nat) (r : Ring) : State :=
  { s with rings := upsert (fun e => decide (e.1 = m) && decide (e.2.1 = st)) (m, st, r) s.rings }

/-- The distance of an iteration above the low-water mark, modulo 2^32. -/
def Ring.above (r : Ring) (i : Nat) : Nat := (i + (2 ^ 32 - r.lw)) % 2 ^ 32

/-- Whether an iteration counts as posted. -/
def Ring.posted (r : Ring) (i : Nat) : Bool :=
  decide (2 ^ 31 ≤ r.above i) || (decide (r.above i < 256) && r.map.getLsbD (r.above i))

/-- The low-water mark past every set bit. -/
def Ring.advance (r : Ring) (fuel : Nat) : Ring :=
  match fuel with
  | 0 => r
  | k + 1 => if r.map.getLsbD 0 then Ring.advance { r with lw := (r.lw + 1) % 2 ^ 32, map := r.map >>> 1 } k else r

/-- A post of an iteration that fits; none where it lies beyond the map. -/
def Ring.post (r : Ring) (i : Nat) : Option Ring :=
  if r.posted i then some r
  else if r.above i < 256 then some (Ring.advance { r with map := r.map ||| BitVec.ofNat 256 (2 ^ r.above i) } 257)
  else none

/-- The stage that a strand names on its meadow's ring: 0 to 15, and bound to its context. -/
def State.stageFor (s : State) (x : W64) : Option Nat :=
  let r := s.ring (s.strand.g.core / 24) x.toNat
  if 15 < x.toNat ∨ !r.bound ∨ r.ctx ≠ s.strand.g.ctx then none else some x.toNat

def execIpost (a b : Reg) (s : State) : Host.Outcome State Fault Refusal :=
  let i := (s.strand.rx b).toNat % 2 ^ 32
  engineWord (syncWord 9 0 a b 0) a (fun w =>
    match w.st.stageFor (s.strand.rx a) with
    | none => w.trapWord ⟨4, 0, s.strand.rx a⟩
    | some st =>
      w.released false fun k =>
        let m := k.cur.g.core / 24
        match (k.st.ring m st).post i with
        | some r => (k.mod fun t => t.setRing m st r).retire
        | none => k.wait (.ringRoom st i)) s

def execIwait (d a b : Reg) (s : State) : Host.Outcome State Fault Refusal :=
  let i := (s.strand.rx b).toNat % 2 ^ 32
  engineWord (syncWord 10 d a b 0) a (fun w =>
    match w.st.stageFor (s.strand.rx a) with
    | none => w.trapWord ⟨4, 0, s.strand.rx a⟩
    | some st =>
      if (w.st.ring (w.cur.g.core / 24) st).posted i then w.result d 0
      else w.wait (.ring d st i)) s

/-- `IWAIT_TIMEOUT`: status 1, and the word retires. -/
def execIwaitTimeout (sid : Nat) (s : State) : Host.Outcome State Fault Refusal :=
  s.finish (s.work.onStrand sid fun w =>
    match w.cur.waiting with
    | .ring d st i =>
      let r := w.st.ring (w.cur.g.core / 24) st
      if !r.posted i ∧ timedOut r.timeout w.cur.waitT then w.result d 1 else w
    | _ => w)

/-! ### `mwait` (R232) -/

/-- The doubleword that `mwait` reads: of field memory, or of a remote window of the domain, where no load reaches it and its
value is free (log 10). -/
def Work.watched (w : Work) (va : W64) : Except Stop (W64 × Work) :=
  match w.st.checkVirtual w.cur.g.core w.cur.g.ctx va 8 .read with
  | .ok (.mem .fm _) =>
    match w.loadVirtual 0 va 8 with
    | .error e => .error e
    | .ok (v, k) => .ok (BitVec.ofNat 64 v, k)
  | .ok _ => .error (.trap ⟨4, 0, va⟩)
  | .error t =>
    match w.st.leafFor w.cur.g.core w.cur.g.ctx va.toNat with
    | some (leaf, _) =>
      if t.code = 4 ∧ t.sub = 0 ∧ va.toNat < 2 ^ 48 ∧ leafRD leaf ∧ leafREGION leaf = 3 ∧ !leafXMOD leaf then .ok w.free
      else .error (.trap t)
    | none => .error (.trap t)

/-- The physical address of the doubleword where it is in field memory. -/
def State.watchedAt (s : State) (va : W64) : Option Nat :=
  match s.checkVirtual s.strand.g.core s.strand.g.ctx va 8 .read with
  | .ok (.mem .fm pa) => some pa
  | _ => none

/-- `mwait`. A wait that a store has ended writes 0; one that times out ends at the end of its clock (`Work.expire`). -/
def execMwait (d a b tmo : Reg) (s : State) : Host.Outcome State Fault Refusal :=
  let va := s.strand.rx a
  let old := s.strand.rx b
  let wait : Wait := .mem d va old (s.strand.rx tmo) (s.watchedAt va)
  engineWord (syncWord 15 d a b tmo) a (fun w =>
    if w.cur.waiting = .written then w.result d 0
    else
      match w.watched va with
      | .error e => w.stopWord e
      | .ok (v, k) => if v ≠ old then k.result d 0 else k.wait wait) s

/-- A store of a different value to the doubleword that the strand in front waits for has ended its wait (R232). -/
def Work.wake (w : Work) : Work :=
  w.upd fun t =>
    match t.waiting with
    | .mem _ _ _ _ _ => { t with waiting := .written }
    | _ => t

/-- The waits at `mwait` that a store has ended: one of the step before, or one of those made since. -/
def Work.wakeAll (w : Work) : Work :=
  (w.st.woken ++ w.st.wakes w.ws).foldl (fun k sid => k.onStrand sid Work.wake) (w.mod fun s => { s with woken := [] })

/-- `MWAIT_TIMEOUT`: 1 is written, and the word retires. -/
def execMwaitTimeout (sid : Nat) (s : State) : Host.Outcome State Fault Refusal :=
  s.finish (s.work.onStrand sid fun w =>
    match w.cur.waiting with
    | .mem d va old tmo _ =>
      match w.watched va with
      | .ok (v, k) => if v = old ∧ timedOut tmo.toNat w.cur.waitT then k.result d 1 else w
      | .error _ => w
    | _ => w)

/-- A wait whose timeout has come at the end of an arithmetic clock, no advance, post or store of the clock having ended it: the barrier
timeout, or status 1 (R232, R298, R299, R301). -/
def Work.expire (w : Work) : Work :=
  match w.cur.waiting with
  | .barrier id _ => w.trapWord (timeoutTrap id)
  | .ring d _ _ => w.result d 1
  | .mem d _ _ _ _ => w.result d 1
  | _ => w

/-- Whether the wait of a strand has come to its timeout with nothing having ended it. -/
def State.expiring (s : State) (t : Strand) : Bool :=
  t.live && !t.ended &&
  match t.waiting with
  | .barrier b g => decide ((s.barrier b).gen = g) && timedOut (s.barrier b).timeout t.waitT
  | .ring _ st i =>
    let r := s.ring (t.g.core / 24) st
    !r.posted i && timedOut r.timeout t.waitT
  | .mem _ _ _ tmo _ => timedOut tmo.toNat t.waitT
  | _ => false

/-! ### `ktrig`, `seal` and `xhold` (R234 to R236) -/

/-- `ktrig`: a release at device scope; the strand has triggered. -/
def execKtrig (s : State) : Host.Outcome State Fault Refusal :=
  engineWord 0x7C000011 0 (fun w => w.released true fun k => (k.upd fun t => { t with trigged := true }).retire) s

/-- A request for an early seal (R235). While the cores are still stopping for the seal of the interval in force, that one serves it (R382). -/
def State.askSeal (s : State) : State :=
  match s.rcv.phase with
  | .running => { s with rcv := { s.rcv with requested := true } }
  | .stopping => s
  | _ => { s with rcv := { s.rcv with nextRequest := true } }

/-- Whether the seal of an interval has committed (R336 step 7); intervals wrap modulo 2^32. -/
def State.sealedUpTo (s : State) (n : Nat) : Bool :=
  match s.rcv.sealed with
  | some m => decide ((BitVec.ofNat 32 m - BitVec.ofNat 32 n).toNat < 2 ^ 31)
  | none => false

/-- `seal`: not ready until the interval in force at its dispatch has sealed. -/
def execSeal (s : State) : Host.Outcome State Fault Refusal :=
  engineWord 0x7C000012 0 (fun w =>
    match s.strand.waiting with
    | .sealed n => if w.st.sealedUpTo n then w.retire else w
    | _ => (w.mod State.askSeal).wait (.sealed w.st.rin.toNat)) s

/-- Whether a strand has external writes in the hold. -/
def State.holdsFor (s : State) (t : Strand) : Bool :=
  s.hold.any fun h => decide (h.gid = t.g.gid) && decide (h.sidx = t.sidx)

/-- The strand's external writes that are made and have still to enter the hold: held stores, and what a copy that no fault has suspended
writes; a suspended one has not made its writes yet. -/
def State.externalLeft (s : State) (t : Strand) : List Nat :=
  ((t.pend.filter fun p => decide (p.cls = 7)).map (·.uid)) ++ (s.externalOf t).filter fun u => !s.stuck.contains u

/-- Whether the early seal of `xhold` has committed and every earlier external write of the strand has left the hold (R236). -/
def State.heldOut (s : State) (t : Strand) (n : Nat) : Bool :=
  s.sealedUpTo n && (s.externalLeft t).isEmpty && !s.holdsFor t

/-- The early seal of `xhold`, forced at the dispatch, and the wait until what the strand has written has left (R236). -/
def Work.holdOut (w : Work) : Work := (w.mod State.askSeal).wait (.held w.st.rin.toNat)

/-- `xhold`: the early seal, and every external write of the strand gone from the hold. -/
def execXhold (s : State) : Host.Outcome State Fault Refusal :=
  engineWord 0x7C000013 0 (fun w =>
    match s.strand.waiting with
    | .held n => if w.st.heldOut w.cur n then w.retire else w
    | _ => w.holdOut) s

end Sys2Proof.Machine
end

