-- ==== Sys2Proof/Machine/Kernel.lean ====
section
/-! DEFINITION. Kernel records, `qput`, the walkers, kernels and groups from placement to end (spec/12 R273 to R277; spec/13
R281 to R289; spec/14 R290 to R294; spec/02 R21, R26, R27, R42; spec/09 R233). -/

namespace Sys2Proof.Machine

/-! ### The kernel record (R281, R282) -/

/-- The nonzero leading entries of a list of bounds, none where a nonzero one follows a zero one or there is none. -/
def usedBounds (l : List Nat) : Option (List Nat) :=
  match usedFirst l with
  | some [] => none
  | r => r

/-- A record from its 128 bytes. -/
def krecOf (bytes : List Byte) : KRec :=
  let n := leNat bytes
  let f := fun (lo len : Nat) => bitsAt n (8 * lo) (8 * len)
  { entry := BitVec.ofNat 64 (f 0 8), flags := f 8 4, stksz := f 12 4, stkbase := BitVec.ofNat 64 (f 16 8),
    args := BitVec.ofNat 64 (f 24 8), depm := f 32 1, dq := f 33 1, bnd := (List.range 6).map fun d => f (64 + 4 * d) 4,
    str := (List.range 6).map fun d => signed 32 (f (88 + 4 * d) 4), ordstg := f 112 4,
    zeros := decide (f 34 30 = 0) && decide (f 116 4 = 0), raw := bytes }

def KRec.tiles (r : KRec) : Nat := bitsAt r.flags 0 3
def KRec.strands (r : KRec) : Nat := bitsAt r.flags 3 3
def KRec.nomx (r : KRec) : Bool := bitAt r.flags 6
def KRec.recl (r : KRec) : Bool := bitAt r.flags 7
def KRec.prot (r : KRec) : Bool := bitAt r.flags 8
def KRec.mint (r : KRec) : Nat := bitsAt r.flags 16 8
def KRec.stage (r : KRec) : Nat := bitsAt r.ordstg 20 4
def KRec.serp (r : KRec) : Bool := bitAt r.ordstg 18
def KRec.ord (r : KRec) (p : Nat) : Nat := bitsAt r.ordstg (3 * p) 3
def KRec.bounds (r : KRec) : List Nat := (usedBounds r.bnd).getD []
def KRec.total (r : KRec) : Nat := r.bounds.foldl (· * ·) 1

/-- Code 5 of Table 12.2: the header breaks R26 or R27. -/
def KRec.headerOk (r : KRec) : Bool :=
  decide (r.tiles ≤ 4) && decide (1 ≤ r.strands) && decide (r.strands ≤ 4) && (!r.recl || r.nomx) &&
  (!r.nomx || decide (r.tiles = 0)) && decide (r.mint % 8 = 0) && decide (r.mint ≤ 128)

/-- Code 6: the record breaks a limit of R282. -/
def KRec.recordOk (r : KRec) : Bool :=
  let nd := r.bounds.length
  let ords := (List.range 6).map r.ord
  decide (r.entry ≠ 0) && decide (r.entry.toNat % 64 = 0) && decide (r.stkbase.toNat % 64 = 0) &&
  decide (r.stksz % 64 = 0) && decide (r.stksz ≤ 2 ^ 24) &&
  r.zeros && decide (bitsAt r.flags 24 8 = 0) && decide (bitsAt r.flags 9 7 = 0) && decide (r.depm < 4) &&
  decide (bitsAt r.ordstg 24 8 = 0) && !bitAt r.ordstg 19 &&
  (usedBounds r.bnd).isSome && decide (r.total ≤ 2 ^ 32) &&
  (List.range nd).all (fun d => (ords.take nd).contains d) && (ords.drop nd).all (fun x => decide (x = 0)) &&
  (r.str.drop nd).all (fun x => decide (x = 0)) && (decide (2 ≤ r.depm) || decide (r.dq = 0))

/-- The mixed-radix digits u[p] of an iteration number, position 0 outermost (R284). -/
def iterDigits (r : KRec) (n k : Nat) : List Nat :=
  match n with
  | 0 => []
  | p + 1 =>
    let b := r.bnd.getD (r.ord p) 1
    iterDigits r p (k / b) ++ [k % b]

/-- c[d] by dimension as (d, c) pairs, with the serpentine parity. -/
def iterCoords (r : KRec) (p par : Nat) (us : List Nat) : List (Nat × Nat) :=
  match us with
  | [] => []
  | u :: rest =>
    let d := r.ord p
    let c := if r.serp ∧ par % 2 = 1 then r.bnd.getD d 1 - 1 - u else u
    (d, c) :: iterCoords r (p + 1) (par + c) rest

/-- The indices i0 to i5 of iteration k. -/
def KRec.indices (r : KRec) (k : Nat) : List W64 :=
  let cs := iterCoords r 0 0 (iterDigits r r.bounds.length k)
  (List.range 6).map fun d =>
    match cs.find? fun e => decide (e.1 = d) with
    | some (_, c) => BitVec.ofInt 64 ((c : Int) * r.str.getD d 0)
    | none => 0

/-! ### Queues and kernels in the state -/

def State.queue? (s : State) (hw : Nat) : Option Queue := s.queues.find? fun q => decide (q.hw = hw)
def State.mapQueue (s : State) (hw : Nat) (f : Queue → Queue) : State :=
  { s with queues := s.queues.map fun q => if q.hw = hw then f q else q }
def State.kernel? (s : State) (kid : Nat) : Option Kernel := s.kernels.find? fun k => decide (k.kid = kid)
def State.mapKernel (s : State) (kid : Nat) (f : Kernel → Kernel) : State :=
  { s with kernels := s.kernels.map fun k => if k.kid = kid then f k else k }

/-- A store that the hub makes for a context, which no strand orders. -/
def Work.hubStore (w : Work) (ctx : Nat) (st : Store) : Work :=
  match st with
  | .mem wr => w.put wr
  | .ext d a bs => w.mod fun s => s.holdFor ctx 0 0 d a bs
  | .remote m a bs => w.mod fun s => s.sendTo false m 3 0 0 a bs

/-- What keeps the hub's store from being performed, as it keeps any other (R280, R289, R328, R330). -/
def Work.hubWait (w : Work) (va : Nat) (st : Store) : Option Wait :=
  if w.canPerform st then none
  else
    match st with
    | .mem (.put t _ _ _ _) => some (.log (decide (t = .hm)) va (st.lines (decide (t = .hm))))
    | .remote m _ _ => some (.link m)
    | _ => some (.holdFull st.held)

/-- The store of END at a place, by the hub (R289, R329). -/
def endStoreAt (p : Site) : Store :=
  match p with
  | .mem .host pa => .ext .host pa []
  | .mem t pa => .mem (.put t pa [] 0 false)
  | .ext d pa => .ext d pa []
  | .remote m pa => .remote m pa []
  | .extRead n pa => .ext (.external n) pa []

/-- The same store with its bytes. -/
def Store.withBytes (st : Store) (bs : List Byte) : Store :=
  match st with
  | .mem (.put t a _ o r) => .mem (.put t a bs o r)
  | .mem w => .mem w
  | .ext d a _ => .ext d a bs
  | .remote m a _ => .remote m a bs

/-! ### `qput` (R233, R276) -/

/-- The record read at dispatch and the place of its END field. -/
def Work.readRecord (w : Work) (core ctx : Nat) (va : W64) : Except Stop (KRec × Store × Work) :=
  if va.toNat % 64 ≠ 0 then .error (.trap ⟨2, 0, va⟩)
  else
    match w.st.checkVirtual core ctx va 64 .read, w.st.checkVirtual core ctx (va + 64) 64 .read with
    | .error t, _ => .error (.trap t)
    | _, .error t => .error (.trap t)
    | .ok p, .ok q =>
      if w.st.poisoned p then .error (.trap ⟨6, 0, va⟩)
      else if w.st.poisoned q then .error (.trap ⟨6, 0, va + 64⟩)
      else
        let half := fun (x : Site) =>
          match x with
          | .mem t pa => w.bytes t pa 64
          | _ => List.replicate 64 0
        let place := match q with
          | .mem t pa => Site.mem t (pa + 56)
          | x => x
        .ok (krecOf (half p ++ half q), endStoreAt place, (w.note p).note q)

/-- The dependency that a record names: none where it is met at once. -/
def State.dependency (s : State) (r : KRec) (q : Queue) (other : Option Queue) : Option Nat :=
  let kid := match r.depm with
    | 1 => q.lastKid
    | 2 => other.bind (·.lastKid)
    | _ => none
  kid.filter fun k => (s.kernel? k).isSome

/-- Checks 1 to 7 of Table 12.2, and the acceptance: the status code and the step. DEDUCED (log 69): END is the store that `qput` has
translated. -/
def Work.acceptKernel (w : Work) (ctx : Nat) (qi : Nat) (va : W64) (r : KRec) (endSt : Store) : Nat × Work :=
  match w.st.ctx? ctx with
  | none => (1, w)
  | some c =>
    if c.queues.length ≤ qi then (1, w)
    else
      let hw := c.queues.getD qi 0
      match w.st.queue? hw with
      | none => (1, w)
      | some q =>
        let other := (c.queues[r.dq]?).bind w.st.queue?
        if c.state = .ending ∨ c.state = .ended ∨ q.state = .closed then (4, w)
        else if q.state = .fenced then (3, w)
        else if !r.headerOk then (5, w)
        else if !r.recordOk then (6, w)
        else if r.depm = 3 ∨ (r.depm = 2 ∧ (other.map (·.state)).getD .closed = .closed) then (7, w)
        else if 16 ≤ q.kernels.length then (2, w)
        else
          let kid := w.st.nextId
          let k : Kernel :=
            { kid := kid, ctx := ctx, queue := hw, va := va, endStore := some endSt, krec := r, state := .queued, next := 0,
              dep := w.st.dependency r q other, depFailed := false, nfatal := 0, failed := false, unplaceable := false,
              earlyFatal := false }
          let w1 := w.mod fun s =>
            let s1 := s.mapQueue hw fun q =>
              { q with kernels := q.kernels ++ [kid], lastKid := some kid,
                       state := if q.state = .idle then .active else q.state }
            { s1 with nextId := kid + 1, kernels := s1.kernels ++ [k] }
          (0, w1.hubStore ctx (endSt.withBytes (leBytes 8 0)))

def execQput (d a b : Reg) (s : State) : Host.Outcome State Fault Refusal :=
  let va := s.strand.rx b
  let ctx := s.strand.g.ctx
  engineWord (syncWord 16 d a b 0) a (fun w =>
    w.released true fun k =>
      match k.readRecord k.cur.g.core ctx va with
      | .error e => k.stopWord e
      | .ok (r, endSt, k1) =>
        let (code, k2) := k1.acceptKernel ctx (s.strand.rx a).toNat va r endSt
        let hw := ((k.st.ctx? ctx).map fun c => c.queues.getD (s.strand.rx a).toNat 0).getD 0
        if code = 0 then
          match k1.hubWait va.toNat (endSt.withBytes (leBytes 8 0)) with
          | some h => k1.wait h
          | none => (k2.mod fun t => t.accepted ctx hw r.raw).result d 0
        else k2.result d (BitVec.ofNat 64 code)) s

/-! ### Placement (R27, R277, R286) -/

/-- Groups that stand on a core now. -/
def State.groupsOn (s : State) (core : Nat) : List Group :=
  s.groups.filter fun g => decide (g.place.core = core) && decide (g.state ≠ .preempted) && decide (g.state ≠ .done)

/-- Whether a kernel would be placed on the upper half of a core under lane reclaim (R267, R268). -/
def Core.upperFor (c : Core) (ctx : Nat) : Bool := (c.halves.map fun h => decide (h.1 = ctx)).getD false

/-- A place on a core with nothing taken. -/
def protoPlace (k : Kernel) (core : Nat) (stage : Nat) (upper : Bool) : Place :=
  { kid := k.kid, ctx := k.ctx, queue := k.queue, core := core, stage := stage, strands := k.krec.strands, nomx := k.krec.nomx,
    recl := k.krec.recl, prot := k.krec.prot, upper := upper }

/-- The conditions of R27 on `vcap`: matrix engine, protected pairs, T. -/
def Core.fits (c : Core) (k : Kernel) (upper : Bool) : Bool :=
  let n := (c.lanesFor (protoPlace k c.id 0 upper)).length
  (k.krec.nomx || c.mxok) && decide (c.banksBad = 0) && decide (0 < n) && decide (k.krec.mint ≤ 8 * n) && !(upper && k.krec.prot)

/-- Whether the core is eligible for a kernel, as if fully free (R286). -/
def State.eligible (s : State) (k : Kernel) (core : Nat) : Bool := (s.core core).fits k false

/-- Numbers below n that are not in a list. -/
def freeOf (n : Nat) (used : List Nat) : List Nat := (List.range n).filter fun i => !used.contains i

/-- Whether a context runs: its groups may be on cores (Table 11.2). -/
def State.runs (s : State) (ctx : Nat) : Bool := ((s.ctx? ctx).map fun c => decide (c.state = .live) || decide (c.state = .idle)).getD false

/-- Whether a context's scratchpad image of a core, or of a half of it, waits for its groups there, which come back first (R266). -/
def State.imageWaits (s : State) (core ctx half : Nat) : Bool :=
  ((s.ctx? ctx).map fun c => c.images.any fun e => decide (e.key = core * 2 + half)).getD false &&
  s.groups.any fun g => decide (g.place.core = core) && decide (g.place.ctx = ctx) && decide (g.state = .preempted) &&
    decide (g.place.upper.toNat = half)

/-- Whether the hub and the meadow of a core have started (R389). -/
def State.meadowUp (s : State) (core : Nat) : Bool := s.mgmt.hubOn && s.mgmt.meadowsOn.getLsbD (core / 24)

/-- Whether a context may place a kernel's group on a core of a meadow that has started (R258, R389): the core is its own, or no group
stands there and none of another context that runs waits to come back. A split core takes the incoming context's groups above and RECL
groups of the victim below, and no PROT group (R267). -/
def State.ownsCore (s : State) (k : Kernel) (core : Nat) : Bool :=
  let c := s.core core
  let waits := s.groups.any fun g =>
    decide (g.place.core = core) && decide (g.state = .preempted) && decide (g.place.ctx ≠ k.ctx) && s.runs g.place.ctx
  !s.imageWaits core k.ctx (c.upperFor k.ctx).toNat &&
  match c.reclaim with
  | .none => (s.groupsOn core).all (fun g => decide (g.place.ctx = k.ctx)) && (!waits || decide (c.owner = some k.ctx))
  | .split inc vic => !k.krec.prot && (decide (k.ctx = inc) || (decide (k.ctx = vic) && k.krec.recl))
  | _ => false

/-- The slot, core strands and tiles that a kernel's group takes on a core, where R27 and R258 let it. A core has 4 slots and 4 strands, a split
one too (R17, R19). Saved groups of the context keep theirs (spec/14: from placement to the end). -/
def State.room (s : State) (k : Kernel) (core : Nat) : Option (Nat × List Nat × List Nat) :=
  let c := s.core core
  let upper := c.upperFor k.ctx
  let saved := s.groups.filter fun g => decide (g.place.core = core) && decide (g.state = .preempted) && decide (g.place.ctx = k.ctx)
  let here := s.groupsOn core ++ saved
  let slots := freeOf 4 (here.map (·.place.slot))
  let taken := (s.strands.filter fun t => decide (t.g.core = core)) ++ saved.flatMap fun g => (g.saved.map (·.strands)).getD []
  let strands := freeOf 4 (taken.map (·.hs))
  let tileSet := if c.halves.isNone then [0, 1, 2, 3] else if upper then [2, 3] else [0, 1]
  let tiles := tileSet.filter fun t => !(here.any fun g => g.place.tiles.contains t)
  match slots with
  | slot :: _ =>
    if s.meadowUp core && s.ownsCore k core && c.fits k upper && decide (k.krec.strands ≤ strands.length) &&
        decide (k.krec.tiles ≤ tiles.length) then
      some (slot, strands.take k.krec.strands, tiles.take k.krec.tiles)
    else none
  | [] => none

/-- A strand at group start (Table 2.2). -/
def startStrand (s : State) (k : Kernel) (g : Place) (tvec : W64) (idx : List W64) (n hs : Nat) : Strand :=
  let r := k.krec
  let t0 : Strand := { live := true, sidx := n, hs := hs, g := g, pc := r.entry, tvec := tvec,
                       wg := (s.core g.core).heldLanes g }
  let sp : W64 :=
    if r.stksz = 0 then 0 else r.stkbase + BitVec.ofNat 64 ((4 * (4 * g.core + g.slot) + n + 1) * r.stksz)
  let t1 := ((t0.wx 2 sp).wx 3 (BitVec.ofNat 64 (g.core % 24 * 2 ^ 22 + g.upper.toNat * 2 ^ 21))).wx 14 (BitVec.ofNat 64 g.stage)
  let t2 := t1.wx 15 r.args
  idx.zipIdx.foldl (fun t e => t.wx (BitVec.ofNat 5 (8 + e.2)) e.1) t2

/-- The core handed to a context: another context's scratchpad is cleared (R258), its dirty marks with it. -/
def Work.takeCore (w : Work) (core ctx : Nat) : Work :=
  let c := w.st.core core
  if c.halves.isSome ∨ c.owner = some ctx then w
  else
    (w.put (.clear .sp (core * 2 ^ 22) (2 ^ 22))).mod fun s =>
      s.setCore { c.emptyRing with owner := some ctx, dirtySeal := List.range 1024, dirtyTake := [] }

/-- A kernel's next iteration placed on a core (R285, R286). In stride service the walker's pass value of the queue advances (R42). -/
def Work.placeGroup (w0 : Work) (k : Kernel) (core : Nat) (slot : Nat) (hss tiles : List Nat) : Work :=
  let w := w0.takeCore core k.ctx
  let s := w.st
  let c := s.core core
  let gid := s.nextId
  let upper := c.upperFor k.ctx
  let g : Place := { protoPlace k core k.krec.stage upper with gid := gid, slot := slot, tiles := tiles }
  let idx := k.krec.indices k.next
  let tvec := ((s.ctx? k.ctx).map (·.tvec)).getD 0
  let strands := hss.zipIdx.map fun e => startStrand s k g tvec idx e.2 e.1
  let stride := decide (s.svcmode ≠ 0)
  let taken := upper || s.groups.any fun e => decide (e.place.core = core) && decide (e.state = .preempted) &&
    decide (e.place.ctx ≠ k.ctx) && s.runs e.place.ctx
  let group : Group := ⟨g, idx, .assigned, taken, 0, 0, false, false, false, none, none⟩
  let c1 := tiles.foldl (fun (k : Core) t => if h : t < 4 then { k with tiles := k.tiles.set t 0 h } else k) c
  let last := decide (k.krec.total ≤ k.next + 1)
  w.mod fun s =>
    let s1 := (s.setCore { c1 with upperHad := c1.upperHad || upper }).mapKernel k.kid fun e =>
      { e with next := e.next + 1, state := if last then .draining else e.state }
    let s2 := s1.mapQueue k.queue fun q =>
      { q with kernels := if last then q.kernels.filter (fun i => decide (i ≠ k.kid)) else q.kernels,
               placedAt := gid + 1, pass := if stride then min (2 ^ 64 - 1) (q.pass + strideOf q) else q.pass }
    { s2 with nextId := gid + 1, groups := s2.groups ++ [group], parked := s2.parked ++ strands,
              walkLast := if stride then ((s.queue? k.queue).map (·.pass)).getD 0 else s2.walkLast }

/-- The kernel that a queue's walker hands out from. GMAX counts saved groups too, as the save area has one record for each (R256, R260, log
60). -/
def State.walking (s : State) (q : Queue) : Option Kernel :=
  match q.state, q.kernels with
  | .active, kid :: _ =>
    match s.kernel? kid with
    | some k =>
      let held := (s.groups.filter fun g => decide (g.place.ctx = k.ctx)).length
      let cap := ((s.ctx? k.ctx).map (·.gmax)).getD 0
      if k.state = .walking ∧ held < cap then some k else none
    | none => none
  | _, _ => none

/-- The queues whose walkers have an iteration to hand out. -/
def State.walkReady (s : State) : List Nat := (s.queues.filter fun q => (s.walking q).isSome).map (·.hw)

/-- The walkers' pass values raised for the queues that become ready, as R42 raises those of a core. A seal stop leaves them as they are. -/
def State.raiseWalk (s : State) : State :=
  if s.svcmode = 0 ∨ s.stopped then s
  else
    let now := s.walkReady
    let least := (leastOf ((s.queues.filter fun q => now.contains q.hw && s.walkPrev.contains q.hw).map (·.pass))).getD s.walkLast
    { s with
      walkPrev := now,
      queues := s.queues.map fun q =>
        if now.contains q.hw && !s.walkPrev.contains q.hw then { q with pass := max q.pass least } else q }

/-- The lowest core with room for a kernel. -/
def State.coreFor (s : State) (k : Kernel) : Option (Nat × Nat × List Nat × List Nat) :=
  (List.range 144).findSome? fun c => (s.room k c).map fun r => (c, r.1, r.2.1, r.2.2)

/-- Whether offer `a` stands before offer `b` (R277, R42). -/
def offerBefore (s : State) (a b : Queue) : Bool :=
  if s.svcmode = 0 then
    let pa : Nat := ((s.ctx? a.ctx).map (·.prio)).getD 0
    let pb : Nat := ((s.ctx? b.ctx).map (·.prio)).getD 0
    if pa ≠ pb then decide (pb < pa)
    else if a.placedAt ≠ b.placedAt then decide (a.placedAt < b.placedAt)
    else decide (a.hw < b.hw)
  else if a.pass ≠ b.pass then decide (a.pass < b.pass)
  else decide (a.hw < b.hw)

/-- The walkers' next placement, where there is one. -/
def Work.walk (w : Work) : Option Work :=
  let s := w.st
  let offers := s.queues.filterMap fun q =>
    match s.walking q with
    | some k => (s.coreFor k).map fun r => (q, k, r)
    | none => none
  match bestOffer (fun a b => offerBefore s a.1 b.1) offers with
  | some (_, k, c, slot, hss, tiles) => some (w.placeGroup k c slot hss tiles)
  | none => none

/-- `WALKER_PLACE`: one iteration handed out. No walker places one while the module stops for a seal (R336). -/
def execWalkerPlace (s : State) : Host.Outcome State Fault Refusal :=
  s.finish (if !s.stopped then (s.work.walk).getD s.work else s.work)

/-! ### Kernels from state to state (R287 to R289) -/

/-- Whether a kernel's dependents may launch (R288). -/
def State.dependencyMet (s : State) (k : Kernel) : Bool :=
  decide (k.state = .draining) && decide (k.next = k.krec.total) && !k.earlyFatal &&
  (s.groups.filter fun g => decide (g.place.kid = k.kid)).all fun g => g.triggered

/-- STATUS of a kernel that ends (R289). -/
def Kernel.endStatus (k : Kernel) (discarded : Bool) : Nat :=
  if discarded then 3 else if k.failed then 2 else if k.unplaceable then 4 else 1

/-- A kernel whose predecessor has ended: its dependency met, or failed. -/
def freeDependent (kid : Nat) (met : Bool) (e : Kernel) : Kernel :=
  if e.dep = some kid then { e with dep := none, depFailed := !met } else e

/-- The store of END as a kernel ends: none where its page has been unmapped (log 69). -/
def Kernel.endWrite (k : Kernel) (status : Nat) : Option Store :=
  k.endStore.map fun st => st.withBytes (leBytes 8 (k.nfatal * 2 ^ 32 + status))

/-- A kernel ends: END is written, dependents see its status, its queue may fall idle. -/
def Work.endKernel (w : Work) (k : Kernel) (status : Nat) : Work :=
  ((k.endWrite status).toList.foldl (fun j st => j.hubStore k.ctx st) w).mod fun s =>
    let met := decide (status = 1) || s.dependencyMet k
    let others := s.kernels.filter fun e => decide (e.kid ≠ k.kid)
    let s1 := { s with kernels := others.map (freeDependent k.kid met) }
    s1.mapQueue k.queue fun q =>
      let rest := q.kernels.filter fun i => decide (i ≠ k.kid)
      let busy := s1.kernels.any fun e => decide (e.queue = k.queue)
      { q with kernels := rest, state := if q.state = .active ∧ !busy then .idle else q.state,
               before := if q.before = .active ∧ !busy then .idle else q.before }

/-- The end of a kernel, where its END can be written: a full undo log or hold keeps it waiting, as it keeps any other store (R280, R328). -/
def Work.endWhenFree (w : Work) (k : Kernel) (status : Nat) : Option Work :=
  if (k.endWrite status).all w.canPerform then some (w.endKernel k status) else none

/-- A kernel discarded with status 3 (R287): it ends, or it stands ended, off its queue, until its END can be written. -/
def Work.discardKernel (w : Work) (k : Kernel) : Work :=
  (w.endWhenFree k 3).getD (w.mod fun s => s.mapKernel k.kid fun e => { e with state := .ended })

/-- The next move of a kernel that needs no walker: a dependency met, the head of its queue reached, unplaceable, ended. -/
def Work.kernelStep (w : Work) (k : Kernel) : Option Work :=
  let s := w.st
  let headOf := ((s.queue? k.queue).map fun q => decide (q.kernels.head? = some k.kid)).getD false
  let depMet : Bool := match k.dep with
    | none => true
    | some d => ((s.kernel? d).map s.dependencyMet).getD true
  if k.dep.isSome ∧ depMet then some (w.mod fun s => s.mapKernel k.kid fun e => { e with dep := none })
  else
    match k.state with
    | .queued =>
      if headOf then
        some (w.mod fun s => s.mapKernel k.kid fun e => { e with state := if k.dep.isNone ∧ !k.depFailed then .walking else .held })
      else none
    | .held =>
      if k.depFailed then w.endWhenFree k 3
      else if k.dep.isNone then some (w.mod fun s => s.mapKernel k.kid fun e => { e with state := .walking })
      else none
    | .walking =>
      let fit := (List.range 144).any fun c => s.eligible k c
      if fit then none
      else some (w.mod fun s =>
        (s.mapKernel k.kid fun e => { e with state := .draining, unplaceable := true }).mapQueue k.queue fun q =>
          { q with kernels := q.kernels.filter fun i => decide (i ≠ k.kid) })
    | .draining =>
      let busy := s.groups.any fun g => decide (g.place.kid = k.kid)
      if busy then none else w.endWhenFree k (k.endStatus false)
    | .ended => w.endWhenFree k 3

/-- Kernel moves until none is left. -/
def Work.settleKernels (w : Work) (fuel : Nat) : Work :=
  match fuel with
  | 0 => w
  | n + 1 =>
    match w.st.kernels.findSome? w.kernelStep with
    | some k => k.settleKernels n
    | none => w

/-! ### The end of a group (R293, R294) -/

/-- Retirements of lane groups, of the matrix engine and of banks take effect when a core has no groups (R25, R343). -/
def Core.applyRetirements (c : Core) : Core :=
  { c with lanes := c.lanes &&& ~~~c.retireLanes, mxok := c.mxok && !c.retireMx, banksBad := c.banksBad ||| c.retireBanks,
           retireLanes := 0, retireMx := false, retireBanks := 0 }

/-- A group's fatal end discards its suspended copies with their faults (R293 step 2). -/
def State.discardSuspended (s : State) (gid : Nat) : State :=
  { s with cmds := s.cmds.filter fun c =>
      match c.body with
      | .copy _ _ _ (some _) _ => decide (c.gid ≠ gid)
      | _ => true }

/-- Whether every command and held store of a group has completed. -/
def State.groupQuiet (s : State) (gid : Nat) : Bool :=
  !(s.cmds.any fun c => decide (c.gid = gid)) && !(s.queries.any fun c => decide (c.gid = gid)) &&
  s.strands.all fun t => decide (t.g.gid ≠ gid) || t.pend.isEmpty

/-- A kernel marked failed by a group's fatal end (R293 step 4). -/
def State.markFailed (s : State) (g : Group) : State :=
  let s1 := s.mapKernel g.place.kid fun k =>
    { k with failed := true, nfatal := k.nfatal + 1, earlyFatal := k.earlyFatal || !g.triggered,
             state := if k.state = .walking then .draining else k.state }
  s1.mapQueue g.place.queue fun q => { q with kernels := q.kernels.filter fun i => decide (i ≠ g.place.kid) }

/-- The group gone: its strands, slot and tiles are free, and the core is settled when it is empty. -/
def State.removeGroup (s : State) (g : Group) : State :=
  let gone := fun (t : Strand) => decide (t.g.gid = g.place.gid)
  let s1 := { s with
    groups := s.groups.filter fun e => decide (e.place.gid ≠ g.place.gid),
    strand := if gone s.strand then {} else s.strand,
    parked := s.parked.filter fun t => !gone t }
  if (s1.groupsOn g.place.core).isEmpty then s1.setCore (s1.core g.place.core).applyRetirements else s1

/-- A context whose last group has ended with every queue empty is idle (Table 11.2). -/
def State.idleCheck (s : State) : State :=
  { s with ctxs := s.ctxs.map fun c =>
      let busy := s.groups.any (fun g => decide (g.place.ctx = c.num)) || s.kernels.any fun k => decide (k.ctx = c.num)
      if c.state = .live ∧ !busy then { c with state := .idle } else c }

/-- Groups whose every strand has triggered or ended have triggered (R234); a fatal end is no trigger (Table 13.5). -/
def State.triggerCheck (s : State) : State :=
  { s with groups := s.groups.map fun g =>
      { g with triggered := g.triggered || (decide (g.state ≠ .preempted) && !g.failed &&
        s.strands.all fun t => decide (t.g.gid ≠ g.place.gid) || t.trigged || t.ended) } }

end Sys2Proof.Machine
end

