-- ==== Sys2Proof/Machine/SaveArea.lean ====
section
/-! DEFINITION. What the device writes through the captured pages of a context: the save area with its records and images, and the
dump region with its dumps (spec/11 R257, R260, R261, R263, R269 to R272; spec/15 R303). The layouts inside the fields that the tables name are
the model's (log 56). -/

namespace Sys2Proof.Machine

/-! ### Strands as bytes (Table 11.5) -/

/-- A loop's state in 100 bytes: whether it stands and is suspended, its block, its counters, and its descriptor (R215, Table 5.18); a running
value between slab steps, and a strip checkpoint as bytes. -/
def counterBytes (l : List Nat) : List Byte := padTo 12 (l.flatMap (leBytes 2))
def loopBytes (l : Option Loop) : List Byte :=
  match l with
  | none => words8 [0]
  | some x => words8 [1 + x.suspended.toNat, x.start.toNat, x.stop.toNat] ++ counterBytes x.c ++ counterBytes x.cnt ++
      padTo 4 (x.regs.flatMap (leBytes 1)) ++
      (padTo 48 (x.inc.flatMap fun row => padTo 12 (row.flatMap fun d => leBytes 2 (BitVec.ofInt 16 d).toNat)))

def intWord (x : Int) (n : Nat) : Nat := (BitVec.ofInt (8 * n) x).toNat

def valBytes (v : Val) : List Byte :=
  match v with
  | .nan => words8 [0]
  | .inf n => words8 [1, n.toNat]
  | .fin n m e => words8 [2, n.toNat, intWord e 8] ++ leBytes 64 m

def carryBytes (c : Carry) : List Byte :=
  match c with
  | .none => leBytes 1 0
  | .sum s any nv => leBytes 1 1 ++ [s.nan, s.pinf, s.ninf, s.allNeg, s.allPos, any, nv].flatMap (fun b => leBytes 1 b.toNat) ++
      leBytes 8 (intWord s.exp 8) ++ leBytes 128 (intWord s.mant 128)
  | .ext v any nv => leBytes 1 2 ++ leBytes 1 any.toNat ++ leBytes 1 nv.toNat ++ valBytes v
  | .bits n any => leBytes 1 3 ++ leBytes 1 any.toNat ++ leBytes 8 n
  | .best f i v code => leBytes 1 4 ++ leBytes 1 f.toNat ++ leBytes 4 i ++ leBytes 8 code ++ valBytes v
  | .count n => leBytes 1 5 ++ leBytes 4 n
  | .first i => leBytes 1 6 ++ leBytes 4 (i.getD (2 ^ 32 - 1))
  | .nodes l => leBytes 1 7 ++ l.flatMap fun e => leBytes 4 e.1 ++ leBytes 4 (e.2.getD (2 ^ 32 - 1))

def ckptBytes (c : Option Ckpt) : List Byte :=
  match c with
  | none => leBytes 1 0
  | some k => leBytes 1 1 ++ leBytes 4 (k.xs.foldl (fun n e => setBits n e.1 1 1) 0) ++ padTo 248 (words8 (k.xs.map (·.2.toNat))) ++
      words8 [k.fflags.toNat, k.vl.toNat, k.vtype.toNat] ++ leBytes 1 k.loop.isSome.toNat ++
      counterBytes ((k.loop.map (·.c)).getD [])

/-- The scalar registers and CSRs of a strand. -/
def scalarBytes (t : Strand) : List Byte :=
  words8 ((List.range 32).map (fun r => (t.rx (BitVec.ofNat 5 r)).toNat) ++
    [t.pc.toNat, t.fflags.toNat, t.ckmask.toNat, t.vl.toNat, t.vtype.toNat, t.vstart.toNat, t.vslab.toNat, t.tags.toNat,
     t.hqstat.toNat, t.status.toNat, t.tvec.toNat, t.epc.toNat, t.cause.toNat, t.tval.toNat, t.hscratch.toNat, t.tmcmp.toNat,
     t.cvret.toNat])

/-- The CSRs of a strand record. Its `epc` field keeps the convoy that the strand resumes at, a handler's own where it stands in one (R39,
R263). -/
def savedRegs (t : Strand) : List Byte :=
  words8 [t.fflags.toNat, t.ckmask.toNat, t.vl.toNat, t.vtype.toNat, t.vstart.toNat, t.vslab.toNat, t.tags.toNat, t.hqstat.toNat,
    t.status.toNat, t.tvec.toNat, t.pc.toNat, t.cause.toNat, t.tval.toNat, t.hscratch.toNat,
    t.tmcmp.toNat, t.cvret.toNat]

/-- A command as dispatched, its tag and its vector-start value, in 64 bytes: its word, its kind, the registers that its fields name, how far
it has come, and how many rows a gather has (log 56). -/
def cmdBytes (c : Cmd) : List Byte :=
  let head := fun (kind tag fault progress rows : Nat) =>
    padTo 64 (leBytes 4 c.word.toNat ++ leBytes 1 kind ++ leBytes 1 tag ++ leBytes 1 c.ch ++ leBytes 1 fault ++ leBytes 8 progress ++
      padTo 40 (words8 (c.regs.map (·.toNat))) ++ leBytes 8 rows)
  match c.body with
  | .copy tag (.gath _ _ rows _) p f _ => head 1 tag f.isSome.toNat p rows.length
  | .copy tag (.get _ _ _ n _ _) p f _ => head 1 tag f.isSome.toNat p n
  | .copy tag _ p f _ => head 1 tag f.isSome.toNat p 0
  | .atom _ _ _ _ _ _ sent => head 2 0 0 sent.toNat 0
  | .put _ sent => head 3 0 0 sent.toNat 0
  | .rest asks _ _ _ => head 4 0 0 asks.length 0

/-- A strand's copy records: 32 for each of the 4 channels. -/
def copyRecords (cmds : List Cmd) : List (Nat × List Byte) :=
  (List.range 4).map fun ch => (ch * 2048, ((cmds.filter fun c => decide (c.ch = ch)).take 32).flatMap cmdBytes)

/-- The strand record (Table 11.5), as pieces at their offsets. -/
def strandPieces (t : Strand) (cmds : List Cmd) : List (Nat × List Byte) :=
  [(0, words8 ((List.range 31).map fun r => (t.rx (BitVec.ofNat 5 (r + 1))).toNat) ++ words8 [0]),
   (256, savedRegs t ++ padTo 128 (loopBytes t.loop)),
   (512, padTo 512 (leBytes 4 t.liveV.toNat ++ leBytes 1 t.liveK.toNat ++ leBytes 1 t.liveT.toNat ++ leBytes 1 t.rewound.toNat ++
      padTo 296 (ckptBytes t.ckpt) ++ words8 [t.stripPc.toNat, t.epc.toNat, t.tslab.toNat, t.tstart.toNat] ++ carryBytes t.carry)),
   (1024, leBytes 4096 (t.done.toList.getD 0 0).toNat),
   (5 * 1024, t.v.toList.flatMap fun v => leBytes 4096 v.toNat),
   (133 * 1024, (t.k.toList.drop 1).flatMap fun v => leBytes 4096 v.toNat)] ++
  (copyRecords cmds).map (fun e => (145 * 1024 + e.1, e.2)) ++
  (match t.window with
   | none => []
   | some w => (List.range 16).map (fun l => (153 * 1024 + l * 65536, Mem.readN w.copies (l * 65536) w.size)) ++
      [(1177 * 1024 - 24, words8 [w.base, w.size, w.desc.toNat])]) ++
  [(1177 * 1024, (t.done.toList.drop 1).flatMap fun v => leBytes 4096 v.toNat)]

/-! ### Group records (Table 11.4, R303) -/

/-- The number of a barrier in a record, and a barrier or a ring channel as words. -/
def barNum (b : BarId) : Nat :=
  match b with
  | .meadow m n => m * 256 + n
  | .device n => 0x8000 + n
def barrierBytes (b : Barrier) : List Byte := words8 [b.bound.toNat, b.ctx, b.npart, b.timeout, b.gen, b.count]
def channelBytes (r : Ring) : List Byte := words8 [r.bound.toNat, r.ctx, r.timeout, r.lw] ++ leBytes 32 r.map.toNat

/-- The barriers bound to a context. -/
def State.boundBars (s : State) (ctx : Nat) : List BarId :=
  ((s.mbars.filter fun e => e.2.2.bound && decide (e.2.2.ctx = ctx)).map fun e => BarId.meadow e.1 e.2.1) ++
    (s.dbars.filter fun e => e.2.bound && decide (e.2.ctx = ctx)).map fun e => BarId.device e.1

/-- A strand's participation: at each bound barrier the generation of its last arrival and whether it waits there, and the iteration that it
waits for on a ring channel (R303). -/
def State.participation (s : State) (t : Strand) (k : Wait) : List Byte :=
  ((s.boundBars t.g.ctx).flatMap fun b =>
    let waits := match k with
      | .barrier x _ => decide (x = b)
      | _ => false
    match t.arrived.find? fun e => decide (e.1 = b) with
    | some (_, gen) => leBytes 2 (barNum b) ++ leBytes 1 1 ++ leBytes 1 waits.toNat ++ leBytes 4 gen
    | none => leBytes 2 (barNum b) ++ leBytes 1 0 ++ leBytes 1 waits.toNat ++ leBytes 4 0) ++
  (match k with
   | .ring _ st i => leBytes 2 st ++ leBytes 1 2 ++ leBytes 1 1 ++ leBytes 4 i
   | _ => [])

/-- What a record is written of: the strands of a group with what they wait for, its tiles and its commands. -/
structure Contents where
  strands : List Strand
  waits : List Wait
  tiles : List TileReg
  cmds : List Cmd
  deriving DecidableEq, Repr

/-- A strand as its record holds it: not waiting, its word to dispatch again, and the block of its loop to be fetched again (log 75). -/
def Strand.record (t : Strand) : Strand := { t with waiting := .none, waitT := 0, snap := none, loop := t.loop.map Loop.unread }

/-- The strands of a group, live or saved. -/
def State.strandsOf (s : State) (g : Group) : List Strand :=
  match g.saved with
  | some v => v.strands
  | none => s.strands.filter fun t => decide (t.g.gid = g.place.gid)

/-- The tiles that a group holds. -/
def State.tilesOf (s : State) (g : Group) : List TileReg :=
  match g.saved with
  | some v => v.tiles
  | none => (List.range g.place.tiles.length).map fun t => s.tile g.place t

/-- The commands of a group. -/
def State.cmdsFor (s : State) (gid : Nat) : List Cmd := s.cmds.filter fun c => decide (c.gid = gid)

/-- What a strand of a group waits for, or waited for as the group ended fatally (R303). -/
def Group.waitOf (g : Group) (t : Strand) : Wait :=
  match g.fatal with
  | some f => ((f.waits.find? fun e => decide (e.1 = t.sidx)).map (·.2)).getD t.waiting
  | none => t.waiting

/-- Where the record of a strand begins in its group's (Table 11.4). -/
def strandAt (sidx : Nat) : Nat := 260 * 1024 + sidx * (1920 * 1024)

/-- What a group's record holds now. -/
def State.contents (s : State) (g : Group) : Contents :=
  match g.saved with
  | some v => ⟨v.strands, v.waits, v.tiles, v.cmds⟩
  | none => ⟨s.strandsOf g, (s.strandsOf g).map g.waitOf, s.tilesOf g, s.cmdsFor g.place.gid⟩

/-- The group record (Table 11.4), as pieces. `code` is 1 pre-empted, 2 sealed. -/
def State.groupPieces (s : State) (g : Group) (code : Nat) (h : Contents) : List (Nat × List Byte) :=
  let kva := ((s.kernel? g.place.kid).map (·.va.toNat)).getD 0
  [(0, padTo 4096 (words8 [code, g.place.core, g.place.slot, kva, h.tiles.length, h.strands.length, g.waitCount] ++
      (h.strands.zip h.waits).flatMap fun e => leBytes 8 e.1.sidx ++ s.participation e.1 e.2))] ++
  h.tiles.zipIdx.map (fun e => (4096 + 65536 * e.2, leBytes 65536 e.1.toNat)) ++
  h.strands.flatMap fun t =>
    (strandPieces t (h.cmds.filter fun c => decide (c.sidx = t.sidx))).map fun e => (strandAt t.sidx + e.1, e.2)

/-! ### The save area (Table 11.3) -/

/-- Bytes of a save area for GMAX groups. -/
def saveAreaBytes (gmax : Nat) : Nat := 4096 + 3 * partBytes gmax

/-- The header: the seal half in force, the interval of each, and how many groups are saved. -/
def Work.writeHeader (w : Work) (ctx : Nat) : Work :=
  match w.st.ctx? ctx with
  | none => w
  | some c =>
    let saved := (w.st.groups.filter fun g => decide (g.place.ctx = ctx) && decide (g.state = .preempted)).length
    w.putPieces c.savePages 0 [(0, padTo 4096 (words8 [c.num, c.gmax, c.valid.toNat, c.sealrin0, c.sealrin1, saved]))]

/-- A record of a part written, or marked empty. -/
def Work.writeRecord (w : Work) (c : Ctx) (p i : Nat) (l : List (Nat × List Byte)) : Work :=
  let base := c.part p + i * 2 ^ 23
  (w.clearRegion c.savePages base (2 ^ 23) 6).putPieces c.savePages base l

/-- The lowest record that no saved group of a context has. -/
def State.freeRecord (s : State) (ctx : Nat) : Nat :=
  let used := (s.groups.filter fun g => decide (g.place.ctx = ctx)).filterMap fun g => g.saved.map (·.num)
  (freeOf (used.length + 1) used).headD 0

/-- The blocks of a core dirtied since the previous seal that are a context's: its half's on a split core (R267). -/
def CoreImage.dirtyOf (e : CoreImage) (ctx : Nat) : List Nat :=
  match e.reclaim.halves with
  | some (inc, vic) => e.dirtySeal.filter fun b => if b < 512 then decide (vic = ctx) else decide (inc = ctx)
  | none => if e.owner = some ctx then e.dirtySeal else []

/-- One context's part of a seal image in the half that VALID does not name (R261): its groups, and of its cores' scratchpad and saved images the
blocks dirtied since the previous seal, each core's bitmap anew. -/
def Work.sealHalf (w : Work) (im : Image) (c : Ctx) : Work :=
  let p := if c.valid then 1 else 2
  let s := { w.st with strand := {}, parked := im.strands, groups := im.groups, kernels := im.kernels, cmds := im.cmds,
                       mbars := im.mbars, dbars := im.dbars, rings := im.rings,
                       cores := im.cores.map fun (k : CoreImage) => { id := k.id, tiles := k.tiles } }
  let mine := im.groups.filter fun g => decide (g.place.ctx = c.num)
  let k1 := mine.zipIdx.foldl (fun (k : Work) e =>
    k.writeRecord c p e.2 (s.groupPieces e.1 (if e.1.state = .preempted then 1 else 2) (s.contents e.1))) w
  let k2 := (fromTo mine.length c.gmax).foldl (fun (k : Work) i => k.writeRecord c p i []) k1
  let dirty : List Nat := (im.cores.filter fun (e : CoreImage) => !(e.dirtyOf c.num).isEmpty).map CoreImage.id
  (((w.st.ctx? c.num).getD c).saveCores ++ dirty).eraseDups.foldl (fun (k : Work) n =>
    let live : List ImagePart := (im.cores.filter fun (e : CoreImage) => decide (e.id = n)).map fun e =>
      ⟨e.dirtyOf c.num, im.sp, n * 2 ^ 22, 0⟩
    k.writeImage c p n (live ++ c.imageParts n SpImage.dirty)) k2

/-- Every context's part of a seal image. -/
def Work.writeSeal (w : Work) (im : Image) : Work :=
  (im.ctxs.filter fun c => decide (c.state ≠ .free) && decide (c.state ≠ .ended)).foldl (fun k c => k.sealHalf im c) w

/-- The records of pre-emption of a context as a rollback leaves them (R261): those of its pre-empted groups and their images as they were at
the seal, the others empty; and the header. -/
def Work.emptyRecords (w : Work) (c : Ctx) : Work :=
  let saved := w.st.groups.filter fun g => decide (g.place.ctx = c.num) && g.saved.isSome
  let used := saved.filterMap fun g => g.saved.map (·.num)
  let k := (freeOf c.gmax used).foldl (fun (k : Work) i => k.putPieces c.savePages (c.part 0 + i * 2 ^ 23) [(0, words8 [0])]) w
  let k1 := saved.foldl (fun (k : Work) g =>
    match g.saved with
    | some v => k.writeRecord c 0 v.num (w.st.groupPieces g 1 (w.st.contents g))
    | none => k) k
  (((c.images.map SpImage.core).eraseDups).foldl (fun (k : Work) n => k.writeImage c 0 n (c.imageParts n SpImage.blocks)) k1).writeHeader c.num

/-! ### Dumps (R270 to R272) -/

/-- The plain text of the eight sections of a dump for a group (Table 11.7). A group whose record is lost leaves its own sections empty. -/
def dumpTexts (s : State) (g : Group) (lost : Bool) : List (List Byte) :=
  let h := s.contents g
  let own := fun (l : List Byte) => if lost then [] else l
  [ own (h.strands.flatMap scalarBytes),
    own (h.strands.flatMap fun t => t.v.toList.flatMap fun v => leBytes 4096 v.toNat),
    own (h.strands.flatMap fun t => (t.k.toList.drop 1).flatMap fun v => leBytes 4096 v.toNat),
    own (h.tiles.flatMap fun t => leBytes 65536 t.toNat),
    own (Mem.readN s.sp (g.place.core * 2 ^ 22) (2 ^ 22)),
    ((s.mbars.filter fun b => decide (b.2.2.ctx = g.place.ctx)).flatMap fun b => barrierBytes b.2.2) ++
      ((s.dbars.filter fun b => decide (b.2.ctx = g.place.ctx)).flatMap fun b => barrierBytes b.2) ++
      ((s.rings.filter fun r => decide (r.2.2.ctx = g.place.ctx)).flatMap fun r => channelBytes r.2.2) ++
      own ((h.strands.zip h.waits).flatMap fun e => leBytes 8 e.1.sidx ++ s.participation e.1 e.2),
    own (words8 (h.strands.map fun t => t.tags.toNat) ++ h.cmds.flatMap cmdBytes),
    leBytes 8 (s.core g.place.core).trcctl.toNat ++ (ringBytes (s.core g.place.core) g.place.upper).flatten ]

/-- The nonce of a section (R270): the serial, the section's kind, the context number, two zero bytes, little-endian. -/
def dumpNonce (serial kind ctx : Nat) : Nat := serial + kind * 2 ^ 64 + ctx * 2 ^ 72

/-- The clear header of a dump, 256 bytes. -/
def dumpHeader (ctx : Nat) (tenant : W64) (d : Dump) : List Byte :=
  padTo 256 (words8 [ctx, tenant.toNat, d.seq, d.serial, d.reason, d.epc.toNat, d.tval.toNat, d.rin, d.gcoord.toNat, d.cycle.toNat, 8])

/-- A section: its header of 32 bytes, with kind, length, nonce and tag, then its ciphertext. -/
def sectionBytes (key serial ctx : Nat) (header : List Byte) (kind : Nat) (text : List Byte) : List Byte :=
  let n := dumpNonce serial kind ctx
  let out := Config.gcmSeal key n header text
  leBytes 1 kind ++ leBytes 3 text.length ++ leBytes 12 n ++ padTo 16 (out.drop text.length) ++ out.take text.length

/-- A dump as it lies in its slot. -/
def dumpBytes (d : Dump) : List Byte := d.bytes

/-- The dump region's header: the dumps written, those lost, and the state of each slot. -/
def Work.headOf (w : Work) (c : Ctx) : Work :=
  w.putPieces c.dumpPages 0 [(0, padTo 4096 (words8 ([c.dumped, c.lost] ++ c.dumps.map fun d => d.isSome.toNat)))]
def Work.dumpHead (w : Work) (ctx : Nat) : Work :=
  match w.st.ctx? ctx with
  | none => w
  | some c => w.headOf c

/-- What a dump's clear header says of the failing strand. -/
structure DumpHead where
  reason : Nat
  epc : W64
  tval : W64
  gcoord : W64
  deriving DecidableEq, Repr

/-- A dump written into the first free slot of a context, or lost (R270, R272). -/
def Work.writeDump (w : Work) (ctx : Nat) (h : DumpHead) (texts : List (List Byte)) : Work :=
  let lose := fun (k : Work) => (k.mod fun s => s.mapCtx ctx fun c => { c with lost := c.lost + 1 }).dumpHead ctx
  match w.st.ctx? ctx with
  | none => w
  | some c =>
    let serial := w.st.mgmt.dumpSerial
    match c.dumps.findIdx? (·.isNone) with
    | none => lose w
    | some i =>
      if 2 ^ 64 ≤ serial + 1 then lose w
      else
        let cycle := (w.st.core (h.gcoord.toNat % 256)).cycle
        let d : Dump := ⟨c.dumped + 1, serial, h.reason, h.epc, h.tval, w.st.rin.toNat, h.gcoord, cycle, []⟩
        let header := dumpHeader ctx c.tenant d
        let bytes := header ++ texts.zipIdx.flatMap fun e => sectionBytes c.dumpKey serial ctx header (e.2 + 1) e.1
        let k := w.mod fun s =>
          let s1 := s.mapCtx ctx fun c => { c with dumps := c.dumps.set i (some { d with bytes := bytes }), dumped := c.dumped + 1 }
          { s1 with mgmt := { s1.mgmt with dumpSerial := serial + 1 } }
        (k.putPieces c.dumpPages 0 [(4096 + i * 2 ^ 23, bytes)]).dumpHead ctx

/-- The cells of a memory as the writes of the step leave it. -/
def Work.memNow (w : Work) (t : Tgt) : Mem :=
  w.ws.foldl (fun m wr =>
    match wr with
    | .put t' a bs _ _ => if t' = t then Mem.write m a bs else m
    | .clear t' a n => if t' = t then Mem.clear m a n else m) (w.st.memOf t)

/-- A group's dump. It takes the scratchpad as the writes of the step so far leave it (R38, R270). -/
def Work.dumpGroup (w : Work) (g : Group) (lost : Bool) (h : DumpHead) : Work :=
  w.writeDump g.place.ctx h (dumpTexts { w.st with sp := w.memNow .sp } g lost)

/-- The dump of a group's fatal end (R293 step 3). -/
def Work.fatalDump (w : Work) (g : Group) (f : Fatal) : Work := w.dumpGroup g false ⟨f.code, f.epc, f.tval, f.gcoord⟩

end Sys2Proof.Machine
end

