-- ==== Sys2Proof/Machine/Context.lean ====
section
/-! DEFINITION. Forced pre-emption, lane reclaim, the return of lanes, the restoring of groups, the ending of a context, and what follows at
once from a step (spec/11 R258 to R269; spec/12 R275; spec/14 R293 to R295; spec/09 R208; spec/25 R383 to R387). -/

namespace Sys2Proof.Machine

/-! ### Groups saved (R38, R263) -/

/-- Whether another unit is still to answer a word of a strand (R387). -/
def Flight.out (f : Flight) : Bool :=
  match f with
  | .atomic _ => true
  | .folds n _ => decide (n ≠ 0)
  | _ => false

/-- A response that has arrived completes its word before a save, as the word itself would on its next dispatch: an atomic's result, the trap
of a bad line, the end of an `accm` (R387). -/
def Work.finishAtomics (w : Work) (p : Strand → Bool) : Work :=
  ((w.st.strands.filter p).map Strand.sid).foldl (fun k sid =>
    k.onStrand sid fun j =>
      match j.cur.flight with
      | .atomicDone r old fl => j.atomReturn r old.toNat fl
      | .atomicBad code va => (j.upd fun s => { s with flight := .none }).trapWord ⟨code, 0, va⟩
      | .folds 0 _ => (j.upd fun s => { s with flight := .none }).retire
      | _ => j) w

/-- A copy cut back to its progress value (R208). -/
def Cmd.cutBack (c : Cmd) : Cmd :=
  match c.body with
  | .copy tag b p f .asked => { c with body := .copy tag b p f .moving }
  | _ => c

/-- Whether a forced stop must wait: an answer to a word of a strand is still to come (R387). -/
def State.atomicOut (s : State) (p : Strand → Bool) : Bool := s.strands.any fun t => p t && t.flight.out

/-- The groups of a context on a core, or on one half of it, that stand there. -/
def State.mine (s : State) (core ctx : Nat) (upper : Option Bool) : List Group :=
  (s.groupsOn core).filter fun g => decide (g.place.ctx = ctx) && (upper.map fun u => decide (g.place.upper = u)).getD true

/-- Whether groups of a context on a core may be forced off now: none is assigned and still to dispatch, or already ending (Table 14.1), no
answer is out (R387), and no timeout has come, which goes first (R39, R298, R301). -/
def State.mayForceOff (s : State) (core ctx : Nat) (upper : Option Bool) : Bool :=
  let p := fun (t : Strand) => (s.mine core ctx upper).any fun g => decide (g.place.gid = t.g.gid)
  (s.mine core ctx upper).all (fun g => decide (g.state = .running) && !g.ending) && !s.atomicOut p &&
  !s.strands.any fun t => p t && s.expiring t

/-- A group written into its record, with copies and tiles (R263 steps 2 and 3). -/
def Work.saveGroup (w : Work) (g : Group) : Work :=
  let num := w.st.freeRecord g.place.ctx
  let ts := w.st.strandsOf g
  let v : Saved := ⟨num, ts.map Strand.record, ts.map (·.waiting), w.st.tilesOf g, (w.st.cmdsFor g.place.gid).map Cmd.cutBack⟩
  let gone := fun (gid : Nat) => decide (gid = g.place.gid)
  let k := w.mod fun s =>
    { s.mapGroup g.place.gid fun e => { e with state := .preempted, readyRun := 0, saved := some v } with
      strand := if gone s.strand.g.gid && s.strand.live then {} else s.strand,
      parked := s.parked.filter fun t => !gone t.g.gid,
      cmds := s.cmds.filter fun c => !gone c.gid }
  match k.st.ctx? g.place.ctx with
  | none => k
  | some c => (k.writeRecord c 0 num (k.st.groupPieces g 1 ⟨v.strands, v.waits, v.tiles, v.cmds⟩)).writeHeader c.num

/-- The groups of a context on a core, or on one half of it, stopped at their boundaries and saved: their held stores are performed, and a
response that has come completes its word (R38, R263 steps 1 to 3). -/
def Work.saveGroups (w : Work) (core ctx : Nat) (upper : Option Bool) : Work :=
  let gids := (w.st.mine core ctx upper).map (·.place.gid)
  let p := fun (t : Strand) => gids.contains t.g.gid
  let k := ((w.finishAtomics p).drainStrands p).mod fun s => s.event p 3
  gids.foldl (fun j gid =>
    match j.st.group? gid with
    | some g => j.saveGroup g
    | none => j) k

/-- The blocks of a core that the step's own writes to its scratchpad have dirtied, and such writes once their blocks have been saved. -/
def Write.spBlocks (core : Nat) (w : Write) : List Nat :=
  match w with
  | .put .sp a bs _ false =>
    if a / 2 ^ 22 = core ∧ !bs.isEmpty then addBlocks [] (a % 2 ^ 22 / 4096) ((a % 2 ^ 22 + bs.length - 1) / 4096 + 1 - a % 2 ^ 22 / 4096)
    else []
  | _ => []
def Write.settled (lo hi : Nat) (w : Write) : Write :=
  match w with
  | .put .sp a bs o raw => .put .sp a bs o (raw || overlap lo hi a (a + bs.length))
  | x => x

/-- The dirty blocks of a part of a core's scratchpad, those that the step itself has written among them, into the core's pre-emption image,
and the part cleared (R263 step 4, R267 step 2). -/
def Work.saveScratchpad (w : Work) (core ctx lo n : Nat) : Work :=
  let base := core * 2 ^ 22 + lo
  let key := core * 2 + lo / 2 ^ 21
  let image := Mem.window (w.memNow .sp) base n
  let c := w.st.core core
  let inside := fun (b : Nat) => decide (lo / 4096 ≤ b) && decide (b < (lo + n) / 4096)
  let marks := fun (l : List Nat) => ((l ++ w.ws.flatMap (Write.spBlocks core)).filter inside).eraseDups
  let blocks := marks c.dirtyTake
  let k := (({ w with ws := w.ws.map (Write.settled base (base + n)) } : Work).put (.clear .sp base n)).mod fun s =>
    (s.setCore { c with dirtyTake := c.dirtyTake.filter fun b => !blocks.contains b,
                        dirtySeal := (List.range 1024).filter fun b => c.dirtySeal.contains b || inside b }).mapCtx ctx fun x =>
      { x with images := ⟨key, blocks, image, marks c.dirtySeal⟩ :: x.images.filter fun e => decide (e.key ≠ key) }
  match k.st.ctx? ctx with
  | none => k
  | some x => k.writeImage x 0 core (x.imageParts core SpImage.blocks)

/-- A part of a core's scratchpad restored from an image, in banks that are awake (R238, R266, R268): its blocks stand as they were saved, and so
do the marks of those written since the last seal (R261). -/
def Work.restoreScratchpad (w : Work) (core ctx lo : Nat) : Work :=
  match (w.st.ctx? ctx).bind fun c => c.images.find? fun e => decide (e.key = core * 2 + lo / 2 ^ 21) with
  | none => w
  | some e =>
    let k := e.blocks.foldl (fun (k : Work) b =>
      k.put (.put .sp (core * 2 ^ 22 + b * 4096) (Mem.readN e.mem (b * 4096 - lo) 4096) 0 true)) (w.wakeBanks core)
    k.mod fun s =>
      let c := s.core core
      (s.setCore { c with
        dirtyTake := e.blocks.foldl addBlock c.dirtyTake,
        dirtySeal := e.dirty.foldl addBlock (c.dirtySeal.filter fun b => !e.blocks.contains b) }).mapCtx ctx fun x =>
          { x with images := x.images.filter fun i => decide (i.key ≠ e.key) }

/-- The groups of a context forced off a core (R263), the core then owned by `next`. -/
def Work.forceOff (w : Work) (core ctx next : Nat) : Work :=
  ((w.saveGroups core ctx none).saveScratchpad core ctx 0 (2 ^ 22)).mod fun s =>
    s.setCore { (s.core core).applyRetirements.emptyRing with owner := some next, reclaim := .none }

/-! ### Lane reclaim (R267, R268) -/

/-- A marked core splits once every victim strand that runs has passed its `vlset` (R267 steps 2 and 3). Strips that hold stores go on holding them
(R141): what they write above then goes into the victim's image. -/
def Work.splitCore (w : Work) (c : Core) : Work :=
  match c.reclaim with
  | .marked ctx vic =>
    let p := fun (t : Strand) => decide (t.g.core = c.id) && decide (t.g.ctx = vic)
    if (w.st.strands.filter p).all (fun t => t.reclaimed || t.ended) then
      (w.saveScratchpad c.id vic (2 ^ 21) (2 ^ 21)).mod fun s =>
        (s.setCore { s.core c.id with reclaim := .split ctx vic, upperHad := false }).event p 7
    else w
  | _ => w

/-- A split core whose upper half holds no group gives its lanes back: the victim's upper scratchpad blocks are restored (R268), and what asks for
the core meanwhile is to take it from the victim. Where the victim has been destroyed the core is whole again, and passes to the incoming context,
whose upper half stays as it is (R366). -/
def Work.joinCore (w : Work) (c : Core) : Work :=
  match c.halves with
  | some (inc, vic) =>
    if vic = noCtx then w.mod fun s => s.setCore { (s.core c.id).emptyRing with reclaim := .none, owner := some inc }
    else ((w.put (.clear .sp (c.id * 2 ^ 22 + 2 ^ 21) (2 ^ 21))).restoreScratchpad c.id vic (2 ^ 21)).mod fun s =>
      (s.setCore { s.core c.id with reclaim := c.reclaim.joined }).event
        (fun t => decide (t.g.core = c.id) && decide (t.g.ctx = vic) && !t.g.upper) 8
  | none => w

/-- Whether every group of the incoming context on a split core's upper half has ended: it has had some, or has none to come. -/
def State.upperFree (s : State) (c : Core) : Bool :=
  match c.halves with
  | some (inc, _) =>
    !((s.groupsOn c.id).any fun g => g.place.upper) &&
    (c.upperHad || !(s.kernels.any fun k => decide (k.ctx = inc) && decide (k.state ≠ .draining)))
  | none => false

/-- A context's groups off a core, which stays its own until it passes on, with its trace ring (R258, R366): off its half of a split one, else
off all of it. -/
def Work.leaveCore (w : Work) (core ctx : Nat) : Work :=
  let c := w.st.core core
  match c.halves with
  | some (inc, _) =>
    let upper := decide (inc = ctx)
    let k := w.saveGroups core ctx (some upper)
    if upper then (k.saveScratchpad core ctx (2 ^ 21) (2 ^ 21)).joinCore c else k.saveScratchpad core ctx 0 (2 ^ 21)
  | none => ((w.saveGroups core ctx none).saveScratchpad core ctx 0 (2 ^ 22)).mod fun s =>
      s.setCore { (s.core core).applyRetirements with reclaim := .none }

/-! ### Pre-emption (R262 to R264) -/

/-- Whether a context may be granted a core that others hold (R262, R265): its priority is above that of every context holding groups there, and
it has not handed lanes back to one of them within 200 µs. -/
def State.mayTake (s : State) (core ctx : Nat) : Bool :=
  let prio := fun (n : Nat) => ((s.ctx? n).map (·.prio)).getD 0
  let here := (s.groupsOn core).map (·.place.ctx)
  let held := fun (v : Nat) => ((s.ctx? ctx).map fun c => c.refused.any fun r =>
    decide (r.1 = v) && decide ((s.core r.2.1).cycle.toNat < r.2.2)).getD true
  !here.isEmpty && here.all fun v => decide (v ≠ ctx) && decide (prio v < prio ctx) && !held v

/-- Whether lane reclaim may be taken from a context on a core (R267). -/
def State.reclaimable (s : State) (core vic : Nat) : Bool :=
  (s.groupsOn core).all fun g => decide (g.place.ctx = vic) && g.place.recl && !g.place.prot

/-- A core marked for lane reclaim (R267 step 1): a strand that is already not ready in a wait counts as having reached its `vlset`. -/
def State.mark (s : State) (core ctx vic : Nat) : State :=
  (s.setCore { s.core core with reclaim := .marked ctx vic }).mapStrands fun t =>
    if t.g.core = core ∧ t.g.ctx = vic then { t with reclaimed := decide (t.waiting ≠ .none) } else t

/-- A core asked for on behalf of a context: lane reclaim where every group is reclaimable, else the forced way. A request within a seal stop
waits for the seal (R264), and one for a core that is being handed over waits for that. -/
def State.requestCore (s : State) (core ctx : Nat) : State :=
  let c := s.core core
  if s.stopped then s.setCore { c with want := some ctx }
  else if !s.mayTake core ctx then s
  else
    match c.reclaim with
    | .none =>
      let vic := ((s.groupsOn core).head?.map (·.place.ctx)).getD 0
      if s.reclaimable core vic then s.mark core ctx vic else s.setCore { c with reclaim := .saving ctx vic }
    | .split inc vic => s.setCore { c with reclaim := .clearing ctx inc vic }
    | _ => s.setCore { c with want := some ctx }

/-- Requests that waited, made again. -/
def State.askAgain (s : State) : State :=
  if s.stopped then s
  else
    (s.cores.filter fun c => c.want.isSome && (decide (c.reclaim = .none) || c.halves.isSome)).foldl (fun k c =>
      (k.setCore { k.core c.id with want := none }).requestCore c.id (c.want.getD 0)) s

/-- `PREEMPT_REQUEST`: the resident operating system asks for a core (R262). -/
def execPreemptRequest (core ctx : Nat) (s : State) : Host.Outcome State Fault Refusal :=
  s.finish (s.work.mod fun st => st.requestCore core ctx)

/-- `LANE_RECLAIM_REQUEST` (R267). -/
def execLaneReclaimRequest (core ctx : Nat) (s : State) : Host.Outcome State Fault Refusal :=
  s.finish (s.work.mod fun st => st.requestCore core ctx)

/-- `RECLAIM_TIMEOUT`: a victim strand has not reached its `vlset`; the device pre-empts by force (R267). -/
def execReclaimTimeout (core : Nat) (s : State) : Host.Outcome State Fault Refusal :=
  s.finish (s.work.mod fun st =>
    let c := st.core core
    match c.reclaim with
    | .marked ctx vic => st.setCore { c with reclaim := .saving ctx vic }
    | _ => st)

/-- A save under way, where it can be written now (R264, R387): a seal that falls due meanwhile waits for it. A timeout that has come goes
before it (R39). -/
def State.saveDue (s : State) (c : Core) : Bool :=
  !(s.strands.any fun t => decide (t.g.core = c.id) && s.expiring t) && (!s.stopped || decide (s.rcv.phase = .stopping)) &&
  match c.reclaim with
  | .saving _ vic => s.mayForceOff c.id vic none
  | .clearing _ _ _ => (s.groupsOn c.id).all fun g => s.mayForceOff c.id g.place.ctx none
  | _ => false

/-- A save written: the groups stand in their records, and the core is the incoming context's (R263). -/
def Work.saveCore (w : Work) (c : Core) : Work :=
  match c.reclaim with
  | .saving ctx vic => w.forceOff c.id vic ctx
  | .clearing ctx inc vic =>
    let k := (w.saveGroups c.id inc (some true)).saveScratchpad c.id inc (2 ^ 21) (2 ^ 21)
    ((k.saveGroups c.id vic (some false)).saveScratchpad c.id vic 0 (2 ^ 21)).mod fun s =>
      s.setCore { (s.core c.id).applyRetirements.emptyRing with owner := some ctx, reclaim := .none }
  | _ => w

/-- `PREEMPT_SAVE_DONE`: the victim's groups stand in their records, and the core is the incoming context's (R263). -/
def execPreemptSaveDone (core : Nat) (s : State) : Host.Outcome State Fault Refusal :=
  s.finish (if s.saveDue (s.core core) then s.work.saveCore (s.core core) else s.work)

/-! ### The return of lanes and the restoring of groups (R265, R266, R268) -/

/-- The timer's condition, as sampled at the end of the slab-cycle before. A delivery that falls due while NEST = 1 is held. -/
def State.timerDue (s : State) (t : Strand) : Bool :=
  t.tie && !t.nest && decide (t.tmcmp.toNat ≤ (s.core t.g.core).cycle.toNat)

/-- A strand back at its boundary, its timer sampled anew (R386). -/
def State.sampled (s : State) (t : Strand) : Strand := { t with timerHit := s.timerDue t }

/-- A saved group back on its core. -/
def State.bringBack (s : State) (g : Group) : State :=
  match g.saved with
  | none => s
  | some v =>
    let s1 := v.tiles.zipIdx.foldl (fun (k : State) e => k.setTile g.place e.2 e.1) s
    { s1.mapGroup g.place.gid fun e => { e with state := .running, saved := none } with
      parked := s1.parked ++ v.strands.map s1.sampled,
      cmds := s1.cmds ++ v.cmds }

/-- Whether the slot, the strands and the tiles of a saved group are free on its core (R17, R19, R27). -/
def State.placeFree (s : State) (g : Group) : Bool :=
  let hs := (g.saved.map fun v => v.strands.map (·.hs)).getD []
  (s.groupsOn g.place.core).all (fun e => decide (e.place.slot ≠ g.place.slot) && e.place.tiles.all fun t => !g.place.tiles.contains t) &&
  s.strands.all fun t => decide (t.g.core ≠ g.place.core) || !hs.contains t.hs

/-- Whether a saved group may come back: no seal stop is in force, its context runs, its core has started (R389), that core or its half of it is
held by no other context, and its place there is free. -/
def State.canReturn (s : State) (g : Group) : Bool :=
  let half := match (s.core g.place.core).reclaim with
    | .none => (s.groupsOn g.place.core).all fun e => decide (e.place.ctx = g.place.ctx)
    | .split inc vic => if g.place.upper then decide (inc = g.place.ctx) else decide (vic = g.place.ctx)
    | _ => false
  decide (g.state = .preempted) && s.runs g.place.ctx && half && s.placeFree g && !s.stopped && s.meadowUp g.place.core

/-- The scratchpad image of a context on a core restored, on the halves that it may have there. -/
def Work.restoreImages (w : Work) (core ctx : Nat) : Work :=
  match (w.st.core core).halves with
  | some (inc, _) => w.restoreScratchpad core ctx (if inc = ctx then 2 ^ 21 else 0)
  | none => (w.restoreScratchpad core ctx 0).restoreScratchpad core ctx (2 ^ 21)

/-- A saved group restored, with its core's scratchpad image; its record is empty again (R266). -/
def Work.restoreGroup (w : Work) (g : Group) : Work :=
  let k := ((w.takeCore g.place.core g.place.ctx).restoreImages g.place.core g.place.ctx).mod fun s =>
    ((s.bringBack g).setCore { s.core g.place.core with upperHad := (s.core g.place.core).upperHad || g.place.upper }).event
      (fun t => decide (t.g.gid = g.place.gid)) 4
  match k.st.ctx? g.place.ctx, g.saved with
  | some c, some v => (k.putPieces c.savePages (c.part 0 + v.num * 2 ^ 23) [(0, words8 [0])]).writeHeader c.num
  | _, _ => k

/-- `GROUP_RESTORE`: a saved group resumes on the core it left. -/
def execGroupRestore (gid : Nat) (s : State) : Host.Outcome State Fault Refusal :=
  s.finish (
    match s.group? gid with
    | some g => if s.canReturn g then s.work.restoreGroup g else s.work
    | none => s.work)

/-- Groups of a context saved on a core, restored. -/
def Work.restoreAll (w : Work) (core ctx : Nat) : Work :=
  (w.st.groups.filter fun g => decide (g.place.core = core) && decide (g.place.ctx = ctx)).foldl
    (fun k g => if k.st.canReturn g then k.restoreGroup g else k) w

/-- The context to which a group placed by pre-emption hands its lanes back: the split core's victim, or one with groups saved there. -/
def State.giveTo (s : State) (g : Group) : Option Nat :=
  match (s.core g.place.core).halves with
  | some (_, v) => some v
  | none => (s.groups.find? fun (e : Group) => decide (e.place.core = g.place.core) && decide (e.state = .preempted) &&
      decide (e.place.ctx ≠ g.place.ctx)).map (·.place.ctx)

/-- Waits that count towards the return of lanes (R265). -/
def Wait.gives (k : Wait) : Bool :=
  match k with
  | .barrier _ _ => true
  | .mem _ _ _ _ _ => true
  | _ => false

/-- Whether a group is to hand its lanes back (R265): it was placed by pre-emption, its count has passed 48,000 clocks, and every strand of
it still waits. -/
def State.handsBack (s : State) (g : Group) : Bool :=
  let half := if (s.core g.place.core).halves.isSome then some true else none
  g.byPreempt && decide (g.state = .running) && decide (Config.laneReturnAfter < g.waitCount) && !s.stopped &&
  (s.strandsOf g).all (fun t => t.ended || t.waiting.gives) && s.mayForceOff g.place.core g.place.ctx half

/-- The return of lanes (R265): the groups are saved, and for 200 µs their context is granted no core of that victim. -/
def Work.returnLanes (w : Work) (g : Group) : Work :=
  let core := g.place.core
  let ctx := g.place.ctx
  let c := w.st.core core
  if !w.st.handsBack g then w
  else
    match w.st.giveTo g with
    | none => w
    | some v =>
      let refuse := fun (st : State) => st.mapCtx ctx fun x => { x with refused := (v, core, c.cycle.toNat + 480000) :: x.refused }
      match c.reclaim with
      | .split _ _ => (w.leaveCore core ctx).mod refuse
      | .none => ((w.leaveCore core ctx).mod refuse).restoreAll core v
      | _ => w

/-- `LANE_WAIT_RETURN`. -/
def execLaneWaitReturn (gid : Nat) (s : State) : Host.Outcome State Fault Refusal :=
  s.finish (
    match s.group? gid with
    | none => s.work
    | some g => s.work.returnLanes g)

/-! ### The ending of a context (R259, R269) -/

/-- Barriers and channels of an ending context unbound (R303). -/
def State.unbindAll (s : State) (ctx : Nat) : State :=
  { s with
    mbars := s.mbars.map fun e => (e.1, e.2.1, if e.2.2.ctx = ctx then { e.2.2 with bound := false, count := 0 } else e.2.2),
    dbars := s.dbars.map fun e => (e.1, if e.2.ctx = ctx then { e.2 with bound := false, count := 0 } else e.2),
    rings := s.rings.map fun e => (e.1, e.2.1, if e.2.2.ctx = ctx then { e.2.2 with bound := false, map := 0 } else e.2.2) }

/-- Kernels of a context discarded with status 3 (R287). -/
def Work.discardKernels (w : Work) (ctx : Nat) : Work :=
  (w.st.kernels.filter fun k => decide (k.ctx = ctx)).foldl Work.discardKernel w

/-- The lower half of a split core whose victim is destroyed (R258): cleared, and no context's. -/
def Work.leaveLower (w : Work) (c : Core) (ctx : Nat) : Work :=
  match c.halves with
  | some (_, vic) =>
    if vic = ctx then
      (w.put (.clear .sp (c.id * 2 ^ 22) (2 ^ 21))).mod fun s =>
        let k := s.core c.id
        s.setCore { k with reclaim := k.reclaim.orphaned, dirtyTake := k.dirtyTake.filter fun b => decide (512 ≤ b),
                           dirtySeal := (List.range 1024).filter fun b => decide (b < 512) || k.dirtySeal.contains b }
    else w
  | none => w

/-- The cores of a context that is destroyed (R258): none is its own any more. -/
def Work.leaveCores (w : Work) (ctx : Nat) : Work :=
  (w.st.cores.foldl (fun k e => k.leaveLower e ctx) w).mod fun s =>
    { s with cores := s.cores.map fun k => if k.owner = some ctx then { k with owner := none } else k }

/-- What is under way on a core once a context's groups have gone: what was for it, or of it alone, ends. -/
def Reclaim.without (r : Reclaim) (ctx : Nat) : Reclaim :=
  match r with
  | .saving a b => if a = ctx ∨ b = ctx then .none else r
  | .marked a b => if a = ctx ∨ b = ctx then .none else r
  | .clearing a inc vic => if a = ctx then .split inc vic else r
  | _ => r

/-- The groups of a context removed, saved ones too, with its copies; its Heath commands run on. -/
def State.removeGroups (s : State) (ctx : Nat) : State :=
  let s1 := (s.groups.filter fun g => decide (g.place.ctx = ctx)).foldl State.removeGroup s
  { s1 with
    cmds := s1.cmds.filter fun c => decide (c.ctx ≠ ctx),
    cores := s1.cores.map fun c =>
      { c with want := if c.want = some ctx then none else c.want, reclaim := c.reclaim.without ctx } }

/-- A context enters ending: its groups stop with their held stores performed, its queues close, its kernels are discarded. A
dump is written first where the ending has a fault. -/
def Work.endContext (w : Work) (ctx : Nat) (dump : Work → Work) : Work :=
  match w.st.ctx? ctx with
  | none => w
  | some c =>
    if c.state = .free ∨ c.state = .ending ∨ c.state = .ended then w
    else
      let k := dump (w.drainStrands fun t => decide (t.g.ctx = ctx))
      let k1 := k.mod fun s => s.mapCtx ctx fun c => { c with state := .ending, images := [] }
      let k2 := k1.discardKernels ctx
      k2.mod fun s =>
        let s1 := (s.removeGroups ctx).unbindAll ctx
        { s1 with queues := s1.queues.map fun q => if q.ctx = ctx ∧ q.state ≠ .free then { q with state := .closed, kernels := [] } else q }

/-- The group that a dump without a failing strand is for: on the lowest core, in the lowest slot. -/
def State.dumpGroup (s : State) (ctx : Nat) : Option Group :=
  bestOffer (fun (a b : Group) => decide (a.place.core * 4 + a.place.slot < b.place.core * 4 + b.place.slot))
    (s.groups.filter fun g => decide (g.place.ctx = ctx) && decide (g.state ≠ .preempted))

/-- A context ended for a fault (R269, R290): the dump is for the group whose fault it is, where there is one, with the failing strand, or strand
0, in its header. `lost` holds where the group's record is lost. -/
def Work.endForFault (w : Work) (ctx reason : Nat) (tval : W64) (who : Option Group) (sid : Option Nat) (lost : Bool) : Work :=
  w.endContext ctx fun k =>
    match (match who with
      | some g => some g
      | none => k.st.dumpGroup ctx) with
    | none => k
    | some g =>
      let ts := k.st.strandsOf g
      let lead := match ts.find? fun t => decide (some t.sid = sid) with
        | some t => some t
        | none => ts.find? fun t => decide (t.sidx = 0)
      match lead with
      | some t => k.dumpGroup g lost ⟨reason, t.pc, tval, t.gcoord⟩
      | none => k

/-- A context in ending whose commands have completed, and whose kernels' ENDs are written, has ended (Table 11.2); its query slots become owned
by no one (R351). -/
def State.endedCheck (s : State) : State :=
  let busy := fun (n : Nat) => s.cmds.any (fun e => decide (e.ctx = n)) || s.queries.any (fun q => decide (q.ctx = n)) ||
    s.kernels.any fun k => decide (k.ctx = n)
  let past := (s.ctxs.filter fun c => decide (c.state = .ending) && !busy c.num).map (·.num)
  { s with
    ctxs := s.ctxs.map fun c => if past.contains c.num then { c with state := .ended } else c,
    slots := s.slots.map fun q => if q.owner.any past.contains then { q with owner := none } else q }

/-! ### What follows at once from a step -/

/-- A group whose end is due and whose commands have completed (R294); a fatal one leaves its dump and marks its kernel. -/
def Work.endGroups (w : Work) (fuel : Nat) : Work :=
  match fuel with
  | 0 => w
  | n + 1 =>
    let s := w.st
    match s.groups.find? fun g => g.ending && decide (g.state ≠ .preempted) &&
        (s.discardSuspended g.place.gid).groupQuiet g.place.gid with
    | none => w
    | some g =>
      let k := if g.failed then w.mod fun s => s.discardSuspended g.place.gid else w
      let k1 := match g.fatal with
        | some f => k.fatalDump g f
        | none => k
      (k1.mod fun s => (if g.failed then s.markFailed g else s).removeGroup g).endGroups n

/-- Groups all of whose strands have dispatched run (Table 14.1). -/
def State.runCheck (s : State) : State :=
  { s with groups := s.groups.map fun g =>
      if g.state = .assigned ∧ ((s.strands.filter fun t => decide (t.g.gid = g.place.gid)).all (·.started)) then
        { g with state := .running }
      else g }

/-- Fatal groups lose their suspended copies at once, so that the commands behind them run on (R293 step 2). -/
def State.fatalCheck (s : State) : State :=
  (s.groups.filter fun g => g.failed).foldl (fun k g => k.discardSuspended g.place.gid) s

/-- Cores that have no groups left retire the units that failed (R25). -/
def State.retireIdle (s : State) : State :=
  { s with cores := s.cores.map fun c =>
      if (decide (c.retireLanes ≠ 0) || c.retireMx || decide (c.retireBanks ≠ 0)) && (s.groupsOn c.id).isEmpty then c.applyRetirements
      else c }

/-- Held stores, groups, kernels, contexts and cores moved as far as they go. -/
def Work.housekeep (w : Work) : Work :=
  let k := ((w.mod fun s => s.runCheck.triggerCheck.fatalCheck).settle.wakeAll).endGroups 16
  let k1 := k.settleKernels 64
  let k2 := k1.mod fun s => s.idleCheck.endedCheck
  let k3 := k2.st.cores.foldl Work.splitCore k2
  let k4 := (k3.st.cores.filter k3.st.upperFree).foldl Work.joinCore k3
  k4.mod fun s => s.retireIdle.askAgain.raiseWalk

end Sys2Proof.Machine
end

