-- ==== Sys2Proof/Machine/Heath.lean ====
section
/-! DEFINITION. Heath queries, slot broadcasts and moves: dispatch, the banks' arithmetic, replies and errors (spec/08 R186 to
R196; spec/19 R348 to R362; spec/03 R57 to R60; spec/21 R373, R374). -/

namespace Sys2Proof.Machine

/-! ### Pages, strands and slots -/

/-- What a 2 MiB page of a context is doing (Table 16.3). -/
def State.pageSt (s : State) (ctx page : Nat) : PageSt :=
  (s.pages.find? fun p => decide (p.ctx = ctx) && decide (p.page = page)).getD ⟨ctx, page, 0, false, false, none⟩
def State.setPageSt (s : State) (p : PageSt) : State :=
  { s with pages := upsert (fun q => decide (q.ctx = p.ctx) && decide (q.page = p.page)) p s.pages }
def State.pin (s : State) (ctx : Nat) (pages : List (Nat × Nat)) : State :=
  pages.foldl (fun k p => k.setPageSt { k.pageSt ctx p.1 with pins := (k.pageSt ctx p.1).pins + 1 }) s
def State.unpin (s : State) (ctx : Nat) (pages : List (Nat × Nat)) : State :=
  pages.foldl (fun k p => k.setPageSt { k.pageSt ctx p.1 with pins := (k.pageSt ctx p.1).pins - 1 }) s

/-- The strand of a number changed, on its core or in its group's record (R195). -/
def State.mapSid (s : State) (sid : Nat) (f : Strand → Strand) : State :=
  let g := fun (t : Strand) => if t.live && decide (t.sid = sid) then f t else t
  { s with
    strand := g s.strand, parked := s.parked.map g,
    groups := s.groups.map fun e => { e with saved := e.saved.map fun v => { v with strands := v.strands.map g } } }

/-- The number of a Heath bank (R7, Table 19.1), of its channel, and the 64-byte line within it. -/
def heathBank (pa : Nat) : Nat := 1024 * bitsAt pa 37 4 + 16 * bitsAt pa 11 6 + bitsAt pa 17 4
def heathChan (pa : Nat) : Nat := 64 * bitsAt pa 37 4 + bitsAt pa 11 6
def bankLine (pa : Nat) : Nat := bitsAt pa 21 16 * 32 + bitsAt pa 0 11 / 64

/-- A slot's bytes for a context in a channel, where it is present (R351). -/
def State.slotIn (s : State) (ctx chan slot : Nat) : Option (List Byte) :=
  (s.slots.find? fun q => decide (q.chan = chan) && decide (q.slot = slot) && decide (q.owner = some ctx)).map (·.data)

/-- A slot's bytes in a channel as a bank scans with them: what it holds then, whoever has written it since the slot test (R194). -/
def State.slotData (s : State) (chan slot : Nat) : List Byte :=
  ((s.slots.find? fun q => decide (q.chan = chan) && decide (q.slot = slot)).map (·.data)).getD []

/-! ### The block and its checks (R186 to R189) -/

def qblockOf (n : Nat) : QBlock :=
  let f := fun (lo len : Nat) => bitsAt n (8 * lo) (8 * len)
  { ext := f 0 8, stride := f 8 8, nrec := f 16 4, recb := f 20 2, slot := f 22 1, mode := f 23 1, lo := f 24 4, hi := f 28 4,
    k := f 32 2, fcol := f 34 2, scale := f 36 4, offset := f 40 4, rlim := f 44 4, rdst := f 48 8, clean := decide (f 56 8 = 0) }

def QBlock.filt (b : QBlock) : Nat := b.mode % 4
def QBlock.red (b : QBlock) : Bool := bitAt b.mode 2
def QBlock.touched (b : QBlock) : Nat := b.nrec * b.recb

/-- Whether a kind reads a slot (Table 8.8). -/
def QKind.slotted (k : QKind) (red : Bool) : Bool :=
  match k with
  | .dot => true
  | .top => true
  | .ses => true
  | .max => red
  | .sum => false
  | .cnt => false

/-- Element descriptors of the Heath (R58): `int8`, `uint8`, `int16`, `e4m3`, `e5m2`, FP16. -/
def heathElement (d : Desc) : Bool :=
  [⟨0, 0, 3, 0, 0⟩, ⟨1, 0, 3, 0, 0⟩, ⟨0, 0, 4, 0, 0⟩, ⟨3, 1, 4, 3, 7⟩, ⟨2, 1, 5, 2, 15⟩, ⟨10, 0, 0, 0, 0⟩].contains d

/-- The payload in bytes (Table 8.8). -/
def QKind.payload (k : QKind) (b : QBlock) (m : Nat) : Nat :=
  match k with
  | .dot => 4 * b.nrec
  | .sum => if b.red then 4 else if b.filt = 2 then 4 * (b.hi + 1 - b.lo) else 4 * m
  | .cnt => 8
  | .max => 16
  | .top => 8 * b.k
  | .ses => 4 * (b.hi + 2 - b.lo)

/-- The filter and the reduction that a kind allows. -/
def QKind.modeOk (k : QKind) (b : QBlock) : Bool :=
  match k with
  | .dot => decide (b.filt ≤ 2) && !b.red
  | .sum => true
  | .cnt => !b.red
  | .max => decide (b.filt ≠ 3) || !b.red
  | .top => decide (b.filt ≤ 2) && !b.red
  | .ses => decide (b.filt = 2) && !b.red && decide (1 ≤ b.lo)

/-- The limits of Tables 8.7 and 8.8, and records within their bank (R349). -/
def QBlock.limits (b : QBlock) (k : QKind) (width : Nat) : Bool :=
  let m := b.recb * 8 / width
  decide (1 ≤ b.nrec) && decide (1 ≤ b.recb) && decide (b.recb ≤ 2048) && decide (b.recb * 8 % width = 0) &&
  decide (b.recb ≤ b.stride) && decide (b.stride % 64 = 0) && decide (b.slot < 8) && decide (b.mode < 8) &&
  decide (b.rdst % 32 = 0) && b.clean && decide ((b.k = 0) ↔ (k ≠ .top)) && decide (b.k ≤ 64) && k.modeOk b &&
  (decide (b.filt ≠ 1) || decide (b.fcol < m)) && (decide (b.filt ≠ 2) || (decide (b.lo ≤ b.hi) && decide (b.hi < m))) &&
  (List.range (min b.nrec 32)).all fun q => decide ((b.ext + q * b.stride) % 2048 + b.recb ≤ 2048)

/-- The verdict of R189: 0, REJECT_BOUND 1 or REJECT_BLOCK 2. -/
def QBlock.verdict (b : QBlock) (k : QKind) (width : Nat) : Nat :=
  let p := k.payload b (b.recb * 8 / width)
  if !b.limits k width then 2
  else if (64 < p ∧ b.touched < 32 * p) ∨ 65536 < p ∨ (b.rlim ≠ 0 ∧ b.rlim < p) then 1
  else 0

/-- The format word of a kind (R187). -/
def QKind.formatOk (k : QKind) (red : Bool) (f : Fmt) : Bool :=
  heathElement f.srcA && (if k.slotted red then heathElement f.srcB else f.srcB.isZero) &&
  (if decide (k = .cnt) || decide (k = .max) then f.dst.isZero else decide (f.dst = descFP32)) && !f.sc && !f.sat && decide (f.rm = 0)

/-- Step 3 of R186: the Heath pages from one address to another, or the fault of the first that is not there. -/
def queryPages (s : State) (core ctx : Nat) (va last : Nat) (fuel : Nat) : Except Trap (List (Nat × Nat)) :=
  match fuel with
  | 0 => .ok []
  | n + 1 =>
    if last < va then .ok []
    else
      let a : W64 := BitVec.ofNat 64 va
      if 2 ^ 48 ≤ va then .error ⟨4, 0, a⟩
      else
        let p := s.pageSt ctx (va / 2 ^ 21)
        if p.unmapping ∨ p.migrating ∨ p.evicted.isSome then .error ⟨3, 1, a⟩
        else
          match s.access core ctx a .query with
          | .error t => .error t
          | .ok (.mem .hm pa) =>
            match queryPages s core ctx (va / 2 ^ 21 * 2 ^ 21 + 2 ^ 21) last n with
            | .error t => .error t
            | .ok l => .ok ((va / 2 ^ 21, pa - va % 2 ^ 21) :: l)
          | .ok _ => .error ⟨4, 0, a⟩

/-! ### Dispatch -/

/-- What a Heath command is performed after: the strand's earlier ones, holds of class 5, the range checker (R193, R213). -/
def State.heathAfter (s : State) (env : Option (Nat × Nat)) : List Nat :=
  let t := s.strand
  let holds := t.holds.flatMap fun h => if h.ld.getLsbD 5 || h.st.getLsbD 5 then h.cmds else []
  let range := match env with
    | some (a, b) => s.pendBlockers a b ++ s.envBlockers none (some (a, b))
    | none => []
  s.stillPending (s.heathOf t ++ holds ++ range)

/-- Whether a Heath command is a query. -/
def HCmd.isQuery (c : HCmd) : Bool :=
  match c.body with
  | .query _ _ _ _ _ _ _ => true
  | _ => false

/-- Whether the root has room for one query more of its 1,024 (R355). -/
def State.rootRoom (s : State) : Bool := decide ((s.queries.filter HCmd.isQuery).length < 1024)

/-- The strands whose query words wait for the root, in the order in which they reached it. -/
def State.rootLine (s : State) : List Nat :=
  s.heathLine.filter fun i => s.strands.any fun t => decide (t.sid = i) && decide (t.waiting = .heathRoom)

/-- Whether the root admits a query word of a strand now: it has room, and no other word stands before this one. -/
def State.rootAdmits (s : State) (sid : Nat) : Bool := s.rootRoom && decide ((s.rootLine.headD sid) = sid)

/-- The waits of a Heath word at dispatch: the tag, the strand's 64 commands, and a query's admission by the root (R186, R355). -/
def Work.heathRoom (w : Work) (tag : Nat) (query : Bool) : Option Wait :=
  if w.st.tagBusy tag then some (.tagBusy tag)
  else if 64 ≤ (w.st.heathOf w.cur).length then some .heathRoom
  else if query && !w.st.rootAdmits w.cur.sid then some .heathRoom
  else none

/-- A query word that waits; where the strand's own commands leave room it has reached the root, and stands in its line. -/
def Work.lineUp (w : Work) (k : Wait) : Work :=
  let sid := w.cur.sid
  let reached := decide (k = .heathRoom) && decide ((w.st.heathOf w.cur).length < 64)
  (w.mod fun s => { s with heathLine := if reached && !s.rootLine.contains sid then s.rootLine ++ [sid] else s.rootLine }).wait k

/-- `hqstat` with a different number in flight. -/
def inflight (h : W64) (n : Nat) : W64 := BitVec.ofNat 64 (setBits h.toNat 32 8 n)

/-- Step 5 of R186: the command in flight, its tag clear, its pages pinned. -/
def Work.issueHeath (w : Work) (tag : BitVec 6) (env : Option (Nat × Nat)) (pages : List (Nat × Nat)) (pin : Bool) (b : HBody) : Work :=
  let k := w.upd fun t =>
    { t with tags := t.tags &&& ~~~(BitVec.ofNat 64 (2 ^ tag.toNat)),
             hqstat := inflight t.hqstat (bitsAt t.hqstat.toNat 32 8 + 1) }
  (k.mod fun s =>
    let t := s.strand
    let c : HCmd := ⟨s.nextId, t.g.gid, t.sidx, t.g.ctx, t.g.core, tag.toNat, s.heathAfter env, env,
      pages, s.rin.toNat, b⟩
    let s1 := { s with nextId := s.nextId + 1, queries := s.queries ++ [c], heathLine := s.heathLine.filter fun i => decide (i ≠ t.sid) }
    if pin then s1.pin t.g.ctx pages else s1).retire

/-- A 64-byte block of scratchpad read at dispatch, after the stores and commands that reach it. -/
def Work.readBlock (w : Work) (va : W64) (n : Nat) (align : Nat) : Except Stop (List Byte) :=
  if va.toNat % align ≠ 0 then .error (.trap ⟨2, 0, va⟩)
  else
    match w.st.meadow w.cur.g va n with
    | .error t => .error (.trap t)
    | .ok dev =>
      match w.st.sleeperIn dev n with
      | some a => .error (.wait (.bank (a / 2 ^ 22) (bankOf a)))
      | none =>
        let b := w.st.stillPending (w.st.pendBlockers dev (dev + n) ++ w.st.envBlockers (some (dev, dev + n)) none)
        if b.isEmpty then .ok (w.bytes .sp dev n) else .error (.wait (.cmds b))

/-- A query at its dispatch. DESIGN CHOICE (log 54): a block that names no record translates no page, and one whose records have no byte
translates up to the last record's start; REJECT_BLOCK follows. -/
def Work.query (w : Work) (kind : QKind) (a xf : Reg) (tag : BitVec 6) : Work :=
  let va := w.rx a
  let fw := w.rx xf
  let f := fmtOf fw
  match w.readBlock va 64 64 with
  | .error e => w.stopWord e
  | .ok bytes =>
    let b := qblockOf (leNat bytes)
    if !kind.formatOk b.red f then w.illegal 5 fw
    else
      let last := b.ext + (b.nrec - 1) * b.stride + (b.recb - 1)
      match (if b.nrec = 0 then .ok [] else queryPages w.st w.cur.g.core w.cur.g.ctx b.ext last (2 ^ 27)) with
      | .error t => w.trapWord t
      | .ok pages =>
        let rdst : W64 := BitVec.ofNat 64 b.rdst
        let verdict := b.verdict kind f.srcA.width
        let pay := if verdict = 0 then kind.payload b (b.recb * 8 / f.srcA.width) else 0
        match w.st.meadow w.cur.g rdst 32 with
        | .error t => w.trapWord t
        | .ok dev =>
          match (if pay = 0 then .ok 0 else w.st.meadow w.cur.g (rdst + 32) pay) with
          | .error t => w.trapWord t
          | .ok _ =>
            match w.heathRoom tag.toNat true with
            | some k => w.lineUp k
            | none => w.issueHeath tag (some (dev, dev + 32 + pay)) pages true (.query kind b fw verdict .issued b.offset [])

def execHqDot (a xf : Reg) (tag : BitVec 6) (s : State) : Host.Outcome State Fault Refusal :=
  engineWord (encodeNat (.hqDot a xf tag)) a (fun w => w.query .dot a xf tag) s
def execHqSum (a xf : Reg) (tag : BitVec 6) (s : State) : Host.Outcome State Fault Refusal :=
  engineWord (encodeNat (.hqSum a xf tag)) a (fun w => w.query .sum a xf tag) s
def execHqCnt (a xf : Reg) (tag : BitVec 6) (s : State) : Host.Outcome State Fault Refusal :=
  engineWord (encodeNat (.hqCnt a xf tag)) a (fun w => w.query .cnt a xf tag) s
def execHqMax (a xf : Reg) (tag : BitVec 6) (s : State) : Host.Outcome State Fault Refusal :=
  engineWord (encodeNat (.hqMax a xf tag)) a (fun w => w.query .max a xf tag) s
def execHqTop (a xf : Reg) (tag : BitVec 6) (s : State) : Host.Outcome State Fault Refusal :=
  engineWord (encodeNat (.hqTop a xf tag)) a (fun w => w.query .top a xf tag) s
def execHqSes (a xf : Reg) (tag : BitVec 6) (s : State) : Host.Outcome State Fault Refusal :=
  engineWord (encodeNat (.hqSes a xf tag)) a (fun w => w.query .ses a xf tag) s

/-- `hbcast` (R194): the block is read at dispatch (R186). DESIGN CHOICE (log 82): so is the slot data. -/
def execHbcast (a : Reg) (tag : BitVec 6) (s : State) : Host.Outcome State Fault Refusal :=
  let va := s.strand.rx a
  engineWord (encodeNat (.hbcast a tag)) a (fun w =>
    match w.readBlock va 64 64 with
    | .error e => w.stopWord e
    | .ok bytes =>
      let n := leNat bytes
      let f := fun (lo len : Nat) => bitsAt n (8 * lo) (8 * len)
      let len := f 4 2
      if 7 < f 2 1 ∨ f 3 1 ≠ 0 ∨ len = 0 ∨ 1024 < len ∨ f 6 2 ≠ 0 ∨ f 24 40 ≠ 0 then w.trapWord ⟨4, 0, va⟩
      else
        match w.readBlock (BitVec.ofNat 64 (f 16 8)) len 1 with
        | .error e => w.stopWord e
        | .ok data =>
          match w.heathRoom tag.toNat false with
          | some k => w.wait k
          | none => w.issueHeath tag none [] false (.bcast (f 0 2) (f 8 8) (f 2 1) data)) s

/-- The Heath pages of a range of `hmove`, or its fault: a range that is not all Heath pages of the context is a breach (R196), and a leaf must
allow the read, or the write (R307). -/
def movePages (s : State) (core ctx : Nat) (bad : Trap) (write : Bool) (va len : Nat) : Except Trap (List (Nat × Nat)) :=
  if len = 0 then .ok []
  else
    (List.range ((va + len - 1) / 2 ^ 21 + 1 - va / 2 ^ 21)).foldr (fun j (r : Except Trap (List (Nat × Nat))) =>
      match r with
      | .error t => .error t
      | .ok l =>
        let p := va / 2 ^ 21 + j
        match s.leafFor core ctx (p * 2 ^ 21) with
        | some (leaf, big) =>
          if leafREGION leaf ≠ 1 ∨ 2 ^ 27 ≤ p ∨ (s.pageSt ctx p).evicted.isSome then .error bad
          else if !permits (if write then .write else .read) leaf then .error ⟨4, 0, BitVec.ofNat 64 (max va (p * 2 ^ 21))⟩
          else .ok ((p, physOf leaf big (p * 2 ^ 21)) :: l)
        | none => .error bad) (.ok [])

/-- `hmove` (R196). -/
def execHmove (a b xf : Reg) (tag : BitVec 6) (s : State) : Host.Outcome State Fault Refusal :=
  let i : Instr := .hmove a b xf tag
  let dst := (s.strand.rx a).toNat
  let src := (s.strand.rx b).toNat
  let len := (s.strand.rx xf).toNat
  let bad : Trap := ⟨4, 0, s.strand.rx a⟩
  engineWord (encodeNat i) a (fun w =>
    if !w.cur.priv then w.illegal 3 (zext (encode i))
    else if dst % 64 ≠ 0 ∨ src % 64 ≠ 0 ∨ len % 64 ≠ 0 ∨ overlap dst (dst + len) src (src + len) ∨ 2 ^ 42 < len then w.trapWord bad
    else
        match movePages w.st w.cur.g.core w.cur.g.ctx bad true dst len, movePages w.st w.cur.g.core w.cur.g.ctx bad false src len with
        | .ok x, .ok y =>
          match w.heathRoom tag.toNat false with
          | some k => w.wait k
          | none => w.issueHeath tag none (x ++ y) false (.move dst src len)
        | .error t, _ => w.trapWord t
        | _, .error t => w.trapWord t) s

/-! ### Arithmetic of the banks and the tree (R57 to R60, R188, R353) -/

/-- One output formed from its terms at the root (R60). -/
def heathRoot (terms : List Val) : Nat × Flags :=
  let past := fun (v : Val) =>
    match v with
    | .fin _ _ _ => !(v.abs.lt (.fin false 1 47))
    | _ => false
  let op := terms.any fun v => past v && !v.neg?
  let on := terms.any fun v => past v && v.neg?
  let s := Sum.addAll {} (terms.filter fun v => !past v)
  if s.nan || (s.pinf && s.ninf) || (s.pinf && on) || (s.ninf && op) then (0x7FC00000, flagNV)
  else if s.pinf then (0x7F800000, 0)
  else if s.ninf then (0xFF800000, 0)
  else if op && on then (0x7FC00000, flagNV)
  else if op then (0x7F800000, flagOF ||| flagNX)
  else if on then (0xFF800000, flagOF ||| flagNX)
  else if s.mant = 0 then (0, 0)
  else toFP32 (s.finite 0)

/-- A record as a bank reads it: its number, its channel, its elements, the columns with bad bytes, whether it takes part,
and whether bad bytes decide that. -/
structure Rec where
  idx : Nat
  chan : Nat
  vals : List Val
  bad : List Nat
  part : Bool
  fbad : Bool

/-- FP32 codes as values; a NaN lies in no range. -/
def inRange (lo hi : Nat) (v : Val) : Bool :=
  let a := decodeFloat descFP32 lo
  let b := decodeFloat descFP32 hi
  !v.isNan && !a.isNan && !b.isNan && !(v.lt a) && !(b.lt v)

/-- Codes of `width` bits. -/
def codesAt (width n : Nat) (bs : List Byte) : List Nat :=
  (List.range n).map fun j => leNat ((bs.drop (j * (width / 8))).take (width / 8))

/-- The physical address of a record under the translations of its dispatch. -/
def HCmd.physical (c : HCmd) (va : Nat) : Nat :=
  match c.pages.find? fun p => decide (p.1 = va / 2 ^ 21) with
  | some (_, pa) => pa + va % 2 ^ 21
  | none => 0

/-- Lines of a range that are bad for a query: poisoned, or failed under it (R357). -/
def badLines (s : State) (bad : List Nat) (pa n : Nat) : List Nat :=
  ((List.range ((pa + n - 1) / 64 + 1 - pa / 64)).map (· + pa / 64)).filter fun l => (s.line true l).poison || bad.contains l

/-- Columns with bytes in bad lines. -/
def badColumns (lines : List Nat) (pa n width : Nat) : List Nat :=
  (lines.flatMap fun l =>
    let lo := max (64 * l) pa
    let hi := min (64 * l + 64) (pa + n)
    fromTo ((lo - pa) * 8 / width) (((hi - pa) * 8 - 1) / width + 1)).eraseDups

/-- The bytes of a query's records, read once (R243). -/
def Work.recordBytes (w : Work) (c : HCmd) (b : QBlock) : List (List Byte) :=
  (List.range b.nrec).map fun q => w.bytes .hm (c.physical (b.ext + q * b.stride)) b.recb

/-- A record from its bytes as they were read. -/
def readRec (s : State) (c : HCmd) (b : QBlock) (f : Fmt) (bad : List Nat) (seen : List (List Byte)) (q : Nat) : Rec :=
  let pa := c.physical (b.ext + q * b.stride)
  let width := f.srcA.width
  let vals := (codesAt width (b.recb * 8 / width) (seen.getD q [])).map (decodeVal f.srcA)
  let cols := badColumns (badLines s bad pa b.recb) pa b.recb width
  let fbad := decide (b.filt = 1) && cols.contains b.fcol
  { idx := q, chan := heathChan pa, vals := vals, bad := cols, fbad := fbad,
    part := fbad || decide (b.filt ≠ 1) || inRange b.lo b.hi (vals.getD b.fcol .nan) }

/-- The columns that take part. -/
def QBlock.columns (b : QBlock) (m : Nat) : List Nat := if b.filt = 2 then fromTo b.lo (b.hi + 1) else List.range m

/-- A score: the exact dot product of slot and record over columns, rounded in the bank. -/
def recScore (s : State) (b : QBlock) (f : Fmt) (r : Rec) (cols : List Nat) : Nat × Flags :=
  let width := f.srcB.width
  let slot := s.slotData r.chan b.slot
  let elt := fun (k : Nat) =>
    if 1024 * 8 ≤ (k + 1) * width - 1 then decodeVal f.srcB 0
    else decodeVal f.srcB (leNat ((slot.drop (k * (width / 8))).take (width / 8)))
  heathRoot (cols.map fun k => (Val.mul (elt k) (r.vals.getD k .nan)).1)

/-- Whether bad bytes feed an output over columns that the record enters (R191). -/
def Rec.fed (r : Rec) (cols : List Nat) : Bool := r.fbad || (r.part && cols.any fun k => r.bad.contains k)

/-- NaN above every number (R52). -/
def aboveVal (a b : Val) : Bool := if b.isNan then false else if a.isNan then true else b.lt a

/-- A reply's outputs: payload, flags, outputs replaced, the offset used. -/
structure Reply where
  payload : List Byte
  flags : Flags
  nanout : Nat
  off : Nat

def canonNaN32 : Nat := 0x7FC00000
def words4 (l : List Nat) : List Byte := l.flatMap (leBytes 4)

def replyDot (score : Rec → Nat × Flags) (cols : List Nat) (recs : List Rec) : Reply :=
  let outs := recs.map fun r =>
    if r.fed cols then (canonNaN32, (0 : Flags), 1) else if !r.part then (0xFF800000, 0, 0) else ((score r).1, (score r).2, 0)
  ⟨words4 (outs.map (·.1)), orFlags (outs.map (·.2.1)), (outs.map (·.2.2)).foldl (· + ·) 0, 0⟩

/-- The terms of a column's sum, and whether bad bytes feed it. -/
def sumColumn (b : QBlock) (recs : List Rec) (k : Nat) : List Val × Bool :=
  let fed := recs.any fun r => r.fbad || (r.part && r.bad.contains k)
  (recs.filterMap fun r =>
    let v := r.vals.getD k .nan
    if r.part && (decide (b.filt ≠ 3) || inRange b.lo b.hi v) then some v else none, fed)

def replySum (b : QBlock) (cols : List Nat) (recs : List Rec) : Reply :=
  let sums := cols.map (sumColumn b recs)
  let outs := if b.red then [(sums.flatMap (·.1), sums.any (·.2))] else sums
  let res := outs.map fun e => if e.2 then (canonNaN32, (0 : Flags), 1) else ((heathRoot e.1).1, (heathRoot e.1).2, 0)
  ⟨words4 (res.map (·.1)), orFlags (res.map (·.2.1)), (res.map (·.2.2)).foldl (· + ·) 0, 0⟩

def replyCnt (b : QBlock) (cols : List Nat) (recs : List Rec) : Reply :=
  let hits := fun (r : Rec) => (cols.filter fun k => decide (b.filt ≠ 3) || inRange b.lo b.hi (r.vals.getD k .nan)).length
  let fed := if b.filt = 3 then recs.any fun r => !r.bad.isEmpty else recs.any fun r => r.fbad
  let n := if b.filt ≤ 1 then (recs.filter (·.part)).length else (recs.map hits).foldl (· + ·) 0
  ⟨leBytes 8 (if fed then 2 ^ 64 - 1 else n), 0, if fed then 1 else 0, 0⟩

/-- The best of entries (record, element, code) by value; ties go to the first. -/
def bestEntry (l : List (Nat × Nat × Nat)) : Option (Nat × Nat × Nat) :=
  l.foldl (fun best e =>
    match best with
    | none => some e
    | some x => if aboveVal (decodeFloat descFP32 e.2.2) (decodeFloat descFP32 x.2.2) then some e else best) none

def replyMax (b : QBlock) (score : Rec → Nat × Flags) (cols : List Nat) (recs : List Rec) : Reply :=
  if recs.any fun r => r.fed cols then ⟨words4 [2 ^ 32 - 1, 2 ^ 32 - 1, canonNaN32, 0], 0, 1, 0⟩
  else
    let live := recs.filter (·.part)
    let entries :=
      if b.red then live.map fun r => (r.idx, 2 ^ 32 - 1, (score r).1)
      else live.flatMap fun r => (cols.filter fun k => decide (b.filt ≠ 3) || inRange b.lo b.hi (r.vals.getD k .nan)).map fun k =>
        (r.idx, k, (toFP32 (r.vals.getD k .nan)).1)
    let flagsOf := fun (q : Nat) => if b.red then orFlags ((live.filter fun r => decide (r.idx = q)).map fun r => (score r).2) else 0
    match bestEntry entries with
    | none => ⟨words4 [2 ^ 32 - 1, 2 ^ 32 - 1, 0xFF800000, 0], 0, 0, 0⟩
    | some (r, e, c) =>
      let nan := (decodeFloat descFP32 c).isNan
      ⟨words4 [r, e, if nan then canonNaN32 else c, 0], flagsOf r ||| flagIf nan flagNV, 0, 0⟩

/-- An entry put into a best-first list behind those that are not below it. -/
def insertBest (e : Nat × Nat) (l : List (Nat × Nat)) : List (Nat × Nat) :=
  match l with
  | [] => [e]
  | x :: rest => if aboveVal (decodeFloat descFP32 e.2) (decodeFloat descFP32 x.2) then e :: x :: rest else x :: insertBest e rest

def replyTop (b : QBlock) (score : Rec → Nat × Flags) (cols : List Nat) (recs : List Rec) : Reply :=
  if recs.any fun r => r.fed cols then
    ⟨words4 ((List.range b.k).flatMap fun _ => [2 ^ 32 - 1, canonNaN32]), 0, 1, 0⟩
  else
    let live := recs.filter (·.part)
    let sorted := live.foldl (fun l r => insertBest (r.idx, (score r).1) l) []
    ⟨words4 ((List.range b.k).flatMap fun j =>
        match sorted[j]? with
        | some e => [e.1, e.2]
        | none => [2 ^ 32 - 1, 0xFF800000]),
      orFlags ((live.filter fun r => (sorted.take b.k).any fun e => decide (e.1 = r.idx)).map fun r => (score r).2), 0, 0⟩

/-- The value columns and the key of `hq.ses`: scale × s_q of a record; a bad key word makes it NaN. -/
def sesScore (b : QBlock) (score : Rec → List Nat → Nat × Flags) (r : Rec) : Val :=
  if r.bad.any fun k => decide (k < b.lo) then .nan
  else (Val.mul (decodeFloat descFP32 b.scale) (decodeFloat descFP32 (score r (List.range b.lo)).1)).1

/-- The offset that pass 1 finds (R188). -/
def sesOffset (b : QBlock) (score : Rec → List Nat → Nat × Flags) (recs : List Rec) : Nat :=
  let best := recs.foldl (fun (m : Option Val) r =>
    let v := sesScore b score r
    match m with
    | none => some v
    | some x => if aboveVal v x then some v else m) none
  let c := (toFP32 (best.getD .nan)).1
  if (decodeFloat descFP32 c).isNan then canonNaN32 else c

/-- The reply of `hq.ses`. Its flags are those of its outputs, as R60 gives them at the root (R373). -/
def replySes (b : QBlock) (score : Rec → List Nat → Nat × Flags) (recs : List Rec) (off : Nat) : Reply :=
  let cols := fromTo b.lo (b.hi + 1)
  if recs.any fun r => r.fed (List.range (b.hi + 1)) then ⟨words4 ((List.range (cols.length + 1)).map fun _ => canonNaN32), 0, 1, off⟩
  else
    let terms := recs.map fun r =>
      let x := (Val.add 0 (sesScore b score r) (decodeFloat descFP32 off).negate).1
      (decodeFloat descFP32 (exp2lx (toFP32 x).1).1, r)
    let den := heathRoot (terms.map fun t => grid48 t.1)
    let nums := cols.map fun k => heathRoot (terms.map fun t => grid48 (Val.mul t.1 (t.2.vals.getD k .nan)).1)
    ⟨words4 ((nums ++ [den]).map (·.1)), orFlags ((nums ++ [den]).map (·.2)), 0, off⟩

/-- The reply of a query over its records. -/
def replyOf (w : Work) (kind : QKind) (b : QBlock) (f : Fmt) (off : Nat) (recs : List Rec) : Reply :=
  let m := b.recb * 8 / f.srcA.width
  let cols := b.columns m
  let score := fun (r : Rec) (l : List Nat) => recScore w.st b f r l
  match kind with
  | .dot => replyDot (fun r => score r cols) cols recs
  | .sum => replySum b cols recs
  | .cnt => replyCnt b cols recs
  | .max => replyMax b (fun r => score r cols) cols recs
  | .top => replyTop b (fun r => score r cols) cols recs
  | .ses => replySes b score recs off

/-! ### Errors in banks (R356, R357) -/

/-- HBERR of a bank latches a failing line (R356). DESIGN CHOICE (log 72): a latch that sets VALID clears MULTI. -/
def State.latch (s : State) (bank column line : Nat) : State :=
  let old := (s.hberr.find? fun h => decide (h.bank = bank)).getD ⟨bank, false, false, 0, 0, 0⟩
  let new : Hberr :=
    if old.valid then { old with count := min 4095 (old.count + 1), multi := old.multi || decide (old.line ≠ line) }
    else ⟨bank, true, false, 1, column, line⟩
  { s with hberr := upsert (fun h => decide (h.bank = bank)) new s.hberr }

/-- A line poisoned (R357, R344), and handed to the scrubber. -/
def State.poisonLine (s : State) (heath : Bool) (n : Nat) : State :=
  s.withLines heath (setLine (s.lines heath) n { s.line heath n with poison := true })
def State.handOver (s : State) (heath : Bool) (n : Nat) : State :=
  if s.rcv.handed.contains (heath, n) then s else { s with rcv := { s.rcv with handed := s.rcv.handed ++ [(heath, n)] } }

/-- The Heath command of a strand on a tag. -/
def State.heathCmd (s : State) (sid tag : Nat) : Option HCmd :=
  s.queries.find? fun c => decide (c.gid * 4 + c.sidx = sid) && decide (c.tag = tag)

def State.setHeath (s : State) (c : HCmd) : State :=
  { s with queries := s.queries.map fun e => if e.uid = c.uid then c else e }

/-- Whether a query in that state has its slots and scans its banks. -/
def QState.scans (st : QState) : Bool :=
  match st with
  | .slotOk => true
  | .pass2 _ => true
  | _ => false

/-- The bytes that a query's reply is made of: those that its first pass has read, or those of its records now. -/
def Work.queryBytes (w : Work) (c : HCmd) (b : QBlock) (st : QState) : List (List Byte) :=
  match st with
  | .pass2 seen => seen
  | _ => w.recordBytes c b

/-- `HEATH_BANK_ERROR`: a scan under way reads an uncorrectable word at a physical address of its extent (R354). -/
def execHeathBankError (sid : Nat) (tag : BitVec 6) (pa : Nat) (s : State) : Host.Outcome State Fault Refusal :=
  s.finish (
    match s.heathCmd sid tag.toNat with
    | some c =>
      match c.body with
      | .query kind b fw status st off bad =>
        let width := (fmtOf fw).srcA.width
        let rec? := (List.range b.nrec).find? fun q =>
          let p := c.physical (b.ext + q * b.stride)
          overlap (pa / 32 * 32) (pa / 32 * 32 + 32) p (p + b.recb)
        match rec?, status with
        | some q, 0 =>
          if !st.scans then s.work
          else
          let p := c.physical (b.ext + q * b.stride)
          s.work.mod fun s1 =>
            (((s1.latch (heathBank pa) ((pa / 32 * 32 - p) * 8 / width) (bankLine pa)).poisonLine true (pa / 64)).handOver true
              (pa / 64)).setHeath { c with body := .query kind b fw status st off ((pa / 64) :: bad) }
        | _, _ => s.work
      | _ => s.work
    | none => s.work)

/-! ### Phases and replies (Table 19.3, R190 to R195) -/

/-- Whether the commands before a Heath command are performed, and the stacks it reaches have started (R359). -/
def HCmd.reaches (c : HCmd) (s : State) : Bool :=
  (s.stillPending c.after).isEmpty &&
  (match c.body with
   | .bcast st _ _ _ => (List.range 16).all fun k => !bitAt st k || s.mgmt.stacksOn.getLsbD k
   | _ => c.pages.all fun p => s.stackUp p.2)

/-- The banks that a query has still to scan; none for one that only has its verdict to give. -/
def HCmd.banks (c : HCmd) : List Nat :=
  match c.body with
  | .query _ _ _ _ .slotMissing _ _ => []
  | .query _ b _ 0 _ _ _ => ((List.range b.nrec).map fun q => heathBank (c.physical (b.ext + q * b.stride))).eraseDups
  | _ => []

/-- Whether a bank of a query serves one that was admitted earlier first (R355). -/
def HCmd.queued (c : HCmd) (s : State) : Bool :=
  let mine := c.banks
  (s.queries.takeWhile fun e => decide (e.uid ≠ c.uid)).any fun e => e.reaches s && e.banks.any mine.contains

/-- Whether a Heath command may be performed: it has reached the Heath, its banks serve it next, and no bank of scratchpad that its reply
goes to is waking (R121, R355). -/
def HCmd.ready (c : HCmd) (s : State) : Bool :=
  c.reaches s && !c.queued s &&
  (match c.env with
   | some (a, b) => (s.sleeperIn a (b - a)).isNone
   | none => true)

/-- The channels that hold a query's records. -/
def targetChans (c : HCmd) (b : QBlock) : List Nat :=
  ((List.range b.nrec).map fun q => heathChan (c.physical (b.ext + q * b.stride))).eraseDups

/-- The slot test at the target banks (R192). -/
def State.slotCheck (s : State) (c : HCmd) : HCmd :=
  match c.body with
  | .query kind b fw 0 .issued off bad =>
    let present := !(kind.slotted b.red) || (targetChans c b).all fun ch => (s.slotIn c.ctx ch b.slot).isSome
    { c with body := .query kind b fw 0 (if present then .slotOk else .slotMissing) off bad }
  | _ => c

/-- `HEATH_SLOT_CHECK`. -/
def execHeathSlotCheck (sid : Nat) (tag : BitVec 6) (s : State) : Host.Outcome State Fault Refusal :=
  s.finish (
    match s.heathCmd sid tag.toNat with
    | some c => if c.ready s then s.work.mod fun t => t.setHeath (t.slotCheck c) else s.work
    | none => s.work)

/-- Pass 1 of an `hq.ses` whose offset the device chooses. -/
def Work.passOne (w : Work) (c : HCmd) : HCmd :=
  match c.body with
  | .query .ses b fw 0 .slotOk _ bad =>
    if b.offset ≠ canonNaN32 then c
    else
      let f := fmtOf fw
      let seen := w.recordBytes c b
      let recs := (List.range b.nrec).map (readRec w.st c b f bad seen)
      let fed := recs.any fun r => r.bad.any fun k => decide (k < b.lo)
      let o := if fed then canonNaN32 else (sesOffset b (fun r l => recScore w.st b f r l) recs)
      { c with body := .query .ses b fw 0 (.pass2 seen) o bad }
  | _ => c

/-- `HEATH_PASS1_DONE`. -/
def execHeathPass1Done (sid : Nat) (tag : BitVec 6) (s : State) : Host.Outcome State Fault Refusal :=
  s.finish (
    match s.heathCmd sid tag.toNat with
    | some c => if c.ready s then s.work.mod fun t => t.setHeath (s.work.passOne c) else s.work
    | none => s.work)

/-- The fields `tags` and `hqstat` of a saved strand written into its record, as they stand now (R195, Tables 11.3 to 11.5). -/
def Work.recordTags (w : Work) (sid : Nat) : Work :=
  w.st.groups.foldl (fun k g =>
    match g.saved, k.st.ctx? g.place.ctx with
    | some v, some c => (v.strands.filter fun t => decide (t.sid = sid)).foldl (fun j t =>
        j.putPieces c.savePages (c.part 0 + v.num * 2 ^ 23 + strandAt t.sidx) [(304, words8 [t.tags.toNat, t.hqstat.toNat])]) k
    | _, _ => k) w

/-- A Heath command done: `hqstat`, the tag bit, its pins, its place in flight (R190); in the record too where its strand is saved (R195). -/
def Work.doneHeath (w : Work) (c : HCmd) (status : Nat) (d : Option Delivery) : Work :=
  (w.mod fun s =>
    let pinned := match c.body with
      | .query _ _ _ _ _ _ _ => s.unpin c.ctx c.pages
      | _ => s
    let s1 := { pinned with queries := pinned.queries.filter fun e => decide (e.uid ≠ c.uid) }
    s1.mapSid (c.gid * 4 + c.sidx) fun t =>
      let h := t.hqstat.toNat
      let h1 := setBits (setBits h 20 6 c.tag) 8 8 status
      let h2 := if status = 3 ∨ status = 4 then setBits h1 0 1 1 else h1
      { t with hqstat := inflight (BitVec.ofNat 64 h2) (bitsAt h 32 8 - 1),
               tags := t.tags ||| BitVec.ofNat 64 (2 ^ c.tag),
               deliver := t.deliver ++ d.toList }).recordTags (c.gid * 4 + c.sidx)

/-- The 32-byte reply header (Table 8.9). -/
def replyHeader (status : Nat) (fl : Flags) (n touched banks first nanout off : Nat) : List Byte :=
  leBytes 1 status ++ leBytes 1 fl.toNat ++ leBytes 2 0 ++ leBytes 4 n ++ leBytes 8 touched ++ leBytes 4 banks ++ leBytes 4 first ++
    leBytes 4 nanout ++ leBytes 4 off

/-- Lines of a query's records that are poisoned and that no error of this query has latched yet: latched now (R357), with COLUMN the element at
which the line begins. DESIGN CHOICE (log 72). -/
def Work.latchPoison (w : Work) (c : HCmd) (b : QBlock) (width : Nat) (bad : List Nat) : Work :=
  let hits := (List.range b.nrec).flatMap fun q =>
    let p := c.physical (b.ext + q * b.stride)
    ((badLines w.st [] p b.recb).filter fun l => !bad.contains l).map fun l => (l, (max (64 * l) p - p) * 8 / width)
  hits.foldl (fun k h => k.mod fun s =>
    (s.latch (heathBank (64 * h.1)) h.2 (bankLine (64 * h.1))).handOver true h.1) w

/-- The reply of a query that has passed its phases. -/
def Work.replyQuery (w : Work) (c : HCmd) : Work :=
  match c.body, c.env with
  | .query kind b fw status st off bad, some (dev, _) =>
    let f := fmtOf fw
    if status ≠ 0 then
      (w.contextBytes c.ctx dev (replyHeader status 0 0 b.touched 0 (2 ^ 32 - 1) 0 0) 2).doneHeath c status none
    else
      match st with
      | .issued => w
      | .slotMissing =>
        (w.contextBytes c.ctx dev (replyHeader 4 0 0 b.touched 0 (2 ^ 32 - 1) 0 0) 2).doneHeath c 4
          (some ⟨false, c.tag, 0x0A, 0, BitVec.ofNat 64 b.slot, false, none⟩)
      | _ =>
        if kind = .ses ∧ b.offset = canonNaN32 ∧ st = .slotOk then w
        else
          let recs := (List.range b.nrec).map (readRec w.st c b f bad (w.queryBytes c b st))
          let r := replyOf w kind b f off recs
          let lines := (List.range b.nrec).flatMap fun q => badLines w.st bad (c.physical (b.ext + q * b.stride)) b.recb
          let banks := (lines.map fun l => heathBank (64 * l)).eraseDups
          let st' := if r.nanout ≠ 0 then 3 else 0
          let k := (w.latchPoison c b f.srcA.width bad).contextBytes c.ctx (dev + 32) r.payload 20
          let h := replyHeader st' r.flags r.payload.length b.touched banks.length ((leastOf banks).getD (2 ^ 32 - 1)) r.nanout r.off
          (k.contextBytes c.ctx dev h 2).doneHeath c st'
            (if st' = 3 then some ⟨false, c.tag, 0x09, 0, BitVec.ofNat 64 c.tag, false, none⟩ else none)
  | _, _ => w

/-- `HEATH_REPLY`. -/
def execHeathReply (sid : Nat) (tag : BitVec 6) (s : State) : Host.Outcome State Fault Refusal :=
  s.finish (
    match s.heathCmd sid tag.toNat with
    | some c => if c.ready s then (s.work.replyQuery c).settle else s.work
    | none => s.work)

/-- A slot written in the channels of a broadcast (R194, R351). -/
def State.writeSlots (s : State) (ctx slot stmask chmask : Nat) (data : List Byte) : State :=
  let full := data ++ List.replicate (1024 - data.length) 0
  let chans := (List.range 1024).filter fun c => bitAt stmask (c / 64) && bitAt chmask (c % 64)
  let kept := s.slots.filter fun q => decide (q.slot ≠ slot) || !(bitAt stmask (q.chan / 64) && bitAt chmask (q.chan % 64))
  { s with slots := kept ++ chans.map fun c => ⟨c, slot, some ctx, s.rin.toNat, full⟩ }

def Work.landBcast (w : Work) (c : HCmd) : Work :=
  match c.body with
  | .bcast st ch slot data => (w.mod fun s => s.writeSlots c.ctx slot st ch data).doneHeath c 0 none
  | _ => w

/-- `HBCAST_LAND`. -/
def execHbcastLand (sid : Nat) (tag : BitVec 6) (s : State) : Host.Outcome State Fault Refusal :=
  s.finish (
    match s.heathCmd sid tag.toNat with
    | some c => if c.ready s then (s.work.landBcast c).settle else s.work
    | none => s.work)

/-- Lines of a move, from the first on, with their number and whether it goes on: the move stops at a failing or poisoned line (R196), and
pauses where the undo log has no room for the next line (R280, R333). -/
def Work.moveLines (w : Work) (c : HCmd) (dst src n : Nat) (bad : Option Nat) (k : Nat) : Work × Nat × Bool :=
  match n with
  | 0 => (w, k, true)
  | m + 1 =>
    let ps := c.physical src
    if bad = some k ∨ (w.st.line true (ps / 64)).poison then (w, k, false)
    else if !w.linesFit true [c.physical dst / 64] then (w, k, true)
    else
      (w.put (.put .hm (c.physical dst) (w.bytes .hm ps 64) (w.st.ownerTag c.ctx) false)).moveLines c (dst + 64) (src + 64) m bad (k + 1)

/-- A move carried on as far as the undo log has room for its lines, and done at its end, or at the failing line. -/
def Work.finishMove (w : Work) (c : HCmd) (bad : Option Nat) : Work :=
  match c.body with
  | .move dst src len =>
    let (k, n, ok) := w.moveLines c dst src (len / 64) bad 0
    if ok && decide (n < len / 64) then
      k.mod fun s => s.setHeath { c with body := .move (dst + 64 * n) (src + 64 * n) (len - 64 * n) }
    else k.doneHeath c (if ok then 0 else 3) none
  | _ => w

/-- `HMOVE_DONE`: the move completes, or stops at line `bad` of its source. -/
def execHmoveDone (sid : Nat) (tag : BitVec 6) (bad : Option Nat) (s : State) : Host.Outcome State Fault Refusal :=
  s.finish (
    match s.heathCmd sid tag.toNat with
    | some c => if c.ready s then (s.work.finishMove c bad).settle else s.work
    | none => s.work)

end Sys2Proof.Machine
end

