-- ==== Sys2Proof/Machine/Pages.lean ====
section
/-! DEFINITION. Eviction and restore of Heath pages, the edit port, shoot-downs and the translation log (spec/06 R134; spec/16
R308, R311 to R318). -/

namespace Sys2Proof.Machine

/-- Bytes of a 2 MiB page. -/
def pageLen : Nat := 2 ^ 21

/-! ### `hevict` and `hrestore` (R134, R315) -/

/-- The physical page behind a Heath address of a context; none where the address is no Heath page of it. -/
def State.heathPage (s : State) (core ctx va : Nat) : Option Nat :=
  match s.leafFor core ctx va with
  | some (leaf, big) => if leafREGION leaf = 1 then some (physOf leaf big va) else none
  | none => none

/-- The checks that both words make before they act (R134). `evicted` says which state the page must be in. -/
def State.evictChecks (s : State) (va slot : W64) (evicted : Bool) : Option Trap :=
  let t := s.strand
  if va.toNat % pageLen ≠ 0 then some ⟨2, 0, va⟩
  else if 2 ^ 48 ≤ va.toNat ∨ (s.heathPage t.g.core t.g.ctx va.toNat).isNone ∨
      (s.pageSt t.g.ctx (va.toNat / pageLen)).evicted.isSome ≠ evicted then some ⟨4, 0, va⟩
  else if s.safe.slots ≤ slot.toNat ∨ !s.safe.configured then some ⟨4, 0, slot⟩
  else none

/-- Slots of a whole-memory snapshot: 384 GiB and 2 TiB of 2 MiB (R346). -/
def snapshotSlots : Nat := (384 * 2 ^ 30 + 2 ^ 41) / 2 ^ 21

/-- The safe-tier port that carries slots: the lowest one that is usable. -/
def State.safePort (s : State) : Option Nat := s.firstUsable ((List.range 12).filter fun n => (s.port n).safeTier)

/-- Whether the safe tier's path is usable (R314): the host link, or a safe-tier port. -/
def State.safePath (s : State) : Bool := if s.safe.hostForm then s.hostUp else s.safePort.isSome

/-- Bytes of a slot, where slot `num` begins, and its bytes (Table 16.4): the page's ciphertext, what names it, the nonce and the tag. -/
def slotLen : Nat := pageLen + 64
def SafeSlot.bytes (e : SafeSlot) : List Byte :=
  let named := leBytes 8 e.ctx ++ leBytes 8 e.va ++ leBytes 8 e.rin ++ leBytes 16 e.nonce
  let out := Config.gcmSeal 0 e.nonce named e.text
  padTo pageLen (out.take e.text.length) ++ named ++ padTo 16 (out.drop e.text.length) ++ leBytes 8 0

/-- A slot that leaves the device (R314): into the host's region, past the outbound hold, or as KIND 9 flits on virtual channel 3. -/
def Work.slotOut (w : Work) (e : SafeSlot) : Work :=
  if w.st.safe.hostForm then w.put (.put .host (w.st.safe.base + e.num * slotLen) e.bytes 0 true)
  else
    match w.st.safePort with
    | some n => w.mod fun s => s.sendOn n none [] 9 3 0 (e.num * slotLen) e.bytes
    | none => w

/-- The slot of an evicted page, with the next value of the counter as its nonce (R314). -/
def Work.writeSlot (w : Work) (ctx va num : Nat) (text : List Byte) : Work :=
  let c := w.st.safe.counter + 1
  let e : SafeSlot := ⟨num, ctx, va, w.st.rin.toNat, c.toNat, text⟩
  (w.mod fun s =>
    { s with safe := { s.safe with counter := c }, slotText := e :: s.slotText }).slotOut e

/-- A slot asked for over a safe-tier port (R314). -/
def State.askSlot (s : State) (num : Nat) : State :=
  match s.safe.hostForm, s.safePort with
  | false, some n => s.sendOn n none [] 6 3 0 (num * slotLen) (leBytes 4 slotLen)
  | _, _ => s

/-- What opens from a slot that verifies (R134, R315): its bytes, of the host's region or from a safe-tier port, are some that the device has
encrypted for the context and the page, into whichever slot and however long ago. -/
def Work.slotGood (w : Work) (ctx va num : Nat) (got : Option (List Byte)) : Option SafeSlot :=
  let bytes := if w.st.safe.hostForm then w.bytes .host (w.st.safe.base + num * slotLen) slotLen else got.getD []
  w.st.slotText.find? fun e => decide (e.ctx = ctx) && decide (e.va = va) && decide (e.bytes = bytes)

/-- `hevict`: it forces a seal as `xhold` does, then the page goes out (R315). -/
def execHevict (a b : Reg) (s : State) : Host.Outcome State Fault Refusal :=
  let va := s.strand.rx a
  let slot := s.strand.rx b
  privileged (.hevict a b) (fun w =>
    match w.cur.flight with
    | .evict _ _ => w.wait .flight
    | _ =>
      match w.st.evictChecks va slot false with
      | some t => w.trapWord t
      | none =>
        if 2 ^ 96 ≤ w.st.safe.counter.toNat + 1 then w.trapWord ⟨4, 0, slot⟩
        else
          match s.strand.waiting with
          | .held n =>
            if w.st.heldOut w.cur n then (w.upd fun t => { t with flight := .evict va.toNat slot.toNat }).wait .flight else w
          | _ => w.holdOut) s

/-- `hrestore`: the slot is read and checked while the strand is not ready. -/
def execHrestore (a b : Reg) (s : State) : Host.Outcome State Fault Refusal :=
  let va := s.strand.rx a
  let slot := s.strand.rx b
  privileged (.hrestore a b) (fun w =>
    match w.cur.flight with
    | .restore _ _ _ => w.wait .flight
    | _ =>
      match w.st.evictChecks va slot true with
      | some t => w.trapWord t
      | none =>
        ((w.mod fun s => s.askSlot slot.toNat).upd fun t => { t with flight := .restore va.toNat slot.toNat none }).wait .flight) s

/-- The bytes of a page as the last seal left them (R315): the old bytes of its lines that the interval's writes have replaced stand in the
undo log. -/
def Work.sealedPage (w : Work) (pa : Nat) : List Byte :=
  let n := w.st.rcv.sealed.getD 0
  let old := w.st.undoH.filter fun u => decide (pa / 64 ≤ u.line) && decide (u.line < (pa + pageLen) / 64) && later u.interval n
  old.foldr (fun u bs => overlay pa bs (64 * u.line) u.bytes) (w.bytes .hm pa pageLen)

/-- An eviction's end: the slot holds the page, the page is evicted, the word retires. It waits for the pins. A counter that other evictions have
used up meanwhile fails the word (R314). -/
def Work.finishEvict (w : Work) : Work :=
  let t := w.cur
  match t.flight with
  | .evict va num =>
    let p := w.st.pageSt t.g.ctx (va / pageLen)
    match w.st.heathPage t.g.core t.g.ctx va with
    | none => (w.upd fun s => { s with flight := .none }).trapWord ⟨4, 0, BitVec.ofNat 64 va⟩
    | some pa =>
      if 2 ^ 96 ≤ w.st.safe.counter.toNat + 1 then
        (w.upd fun s => { s with flight := .none }).trapWord ⟨4, 0, BitVec.ofNat 64 num⟩
      else if p.pins ≠ 0 ∨ p.unmapping ∨ p.migrating ∨ !w.st.safePath then w
      else
        ((((w.writeSlot t.g.ctx va num (w.sealedPage pa)).mod fun s =>
          { s.setPageSt { p with evicted := some num } with resting := (pa, s.rin.toNat) :: s.resting }).upd fun s =>
            { s with flight := .none }).note (.mem .hm pa)).retire
  | _ => w

/-- `HEVICT_DONE`. -/
def execHevictDone (sid : Nat) (s : State) : Host.Outcome State Fault Refusal :=
  s.finish (s.work.onStrand sid Work.finishEvict)

/-- A restore's end: the slot verified, the page back and mapped, or access fault with the slot's number (R134, R315). In the port form it waits
for the slot. -/
def Work.finishRestore (w : Work) : Work :=
  let t := w.cur
  match t.flight with
  | .restore va num got =>
    let k := w.upd fun s => { s with flight := .none }
    let bad := k.trapWord ⟨4, 0, BitVec.ofNat 64 num⟩
    match w.st.heathPage t.g.core t.g.ctx va with
    | none => k.trapWord ⟨4, 0, BitVec.ofNat 64 va⟩
    | some pa =>
      if !w.st.safePath ∨ (!w.st.safe.hostForm ∧ got.isNone) ∨ !w.st.stackUp pa ∨ !w.linesFit true (linesOf pa pageLen) then w
      else
        match w.slotGood t.g.ctx va num got with
        | none => bad
        | some e =>
          let p := w.st.pageSt t.g.ctx (va / pageLen)
          (((k.put (.put .hm pa e.text (w.st.ownerTag t.g.ctx) false)).mod fun s => s.setPageSt { p with evicted := none }).note
            (.mem .hm pa)).retire
  | _ => w

/-- `HRESTORE_DONE`. -/
def execHrestoreDone (sid : Nat) (s : State) : Host.Outcome State Fault Refusal :=
  s.finish (s.work.onStrand sid Work.finishRestore)

/-! ### The translation log (R318) -/

/-- A record put into the log; the oldest overflow to flash. -/
def State.logTranslation (s : State) (r : TlogRec) : State :=
  let l := s.tlog ++ [r]
  if 65536 < l.length then { s with tlog := l.drop 1, tlogFlash := s.tlogFlash ++ l.take 1 } else { s with tlog := l }

/-! ### The edit port (R316) -/

/-- The level of an entry at a physical address on the path of a virtual one, and the entry; none off that path. -/
def coverOf (s : State) (held : Nat → Option W64) (va addr level table fuel : Nat) : Option (Nat × W64) :=
  match fuel with
  | 0 => none
  | k + 1 =>
    let at0 := table + 8 * bitsAt va (levelShift level) (if level = 3 then 5 else 9)
    let there : W64 := BitVec.ofNat 64 (leNat (Mem.readN s.fm at0 8))
    if at0 = addr then some (level, there)
    else
      let e := (held level).getD there
      if !leafV e || leafLEAF e then none else coverOf s held va addr (level + 1) (nextTable e) k

/-- The same on the path of the tables, else on one that a cached entry from before an edit still opens (R316). -/
def State.covered (s : State) (ctx va addr : Nat) : Option (Nat × W64) :=
  let root := ((s.ctx? ctx).map (·.root)).getD 0
  match coverOf s noCache va addr 0 root 4 with
  | some r => some r
  | none => s.walks.findSome? fun e =>
    if e.covers ctx va then coverOf s (fun l => if l = e.level then some e.entry else none) va addr 0 root 4 else none

/-- An entry put into a core's translation cache, which holds 1,024 (R308); the oldest make room. -/
def State.cacheLeaf (s : State) (t : TlbEnt) : State :=
  let here := (s.tlb.filter fun e => decide (e.core = t.core) && decide (¬(e.ctx = t.ctx ∧ e.page = t.page ∧ e.big = t.big))) ++ [t]
  { s with tlb := (s.tlb.filter fun e => decide (e.core ≠ t.core)) ++ here.drop (here.length - 1024) }

/-- Leaves below an old upper entry put into a core's cache, `n` free choices of them (log 59). -/
def Work.cacheBelow (w : Work) (core ctx level va : Nat) (old : W64) (n : Nat) : Work :=
  match n with
  | 0 => w
  | k + 1 =>
    let size := 2 ^ levelShift level
    let (v, j) := w.free
    let va' := va / size * size + v.toNat % size
    let next := match walkFrom w.st noCache va' (level + 1) (nextTable old) (3 - level) with
      | some (leaf, big) =>
        let e : TlbEnt := ⟨core, ctx, if big then va' / 2 ^ 21 else va' / 2 ^ 16, big, leaf⟩
        let known := w.st.tlb.any fun x =>
          decide (x.core = core) && decide (x.ctx = ctx) && decide (x.page = e.page) && decide (x.big = big)
        if known then j else j.mod fun s => s.cacheLeaf e
      | none => j
    next.cacheBelow core ctx level va old k

/-- What the caches keep of an entry that an edit replaces: an old leaf stays in the caches of a free choice of cores, and an old entry above the
leaves in the walk caches, and a free choice of at most 1,024 leaves below it in each core (log 59). A malformed entry was in none. -/
def Work.stale (w : Work) (ctx va level : Nat) (old : W64) : Work :=
  let size := 2 ^ levelShift level
  let big := decide (level = 2)
  if !leafV old || malformed level old then w
  else if leafLEAF old then
    (List.range 144).foldl (fun (k : Work) c =>
      let (v, j) := k.free
      let known := j.st.tlb.any fun e => decide (e.core = c) && decide (e.ctx = ctx) && decide (e.page = va / size) && decide (e.big = big)
      if v.getLsbD 0 && !known then j.mod fun s => s.cacheLeaf ⟨c, ctx, va / size, big, old⟩ else j) w
  else
    let k := w.free.2.mod fun s => { s with walks := s.walks ++ [⟨w.st.fresh, ctx, level, va / size, old, []⟩] }
    (List.range 144).foldl (fun (j : Work) c =>
      let (v, i) := j.free
      i.cacheBelow c ctx level va old (v.toNat % 1025)) k

/-- The page of an address marked migrating, from mapped, or its mark cleared (R313, Table 16.3). -/
def State.markMigrating (s : State) (ctx va : Nat) (on : Bool) : State :=
  let p := s.pageSt ctx (va / pageLen)
  if on && ((s.heathPage 0 ctx va).isNone || p.unmapping || p.evicted.isSome) then s else s.setPageSt { p with migrating := on }

/-- An entry written by the hub for the resident operating system: a logged write with the device's owner tag, and its record with the first
address and the length of what the entry covers. `mark` marks the page of `va` migrating, or clears the mark (R313). The length of an entry
off the path is free (log 10). -/
def Work.editEntry (w : Work) (sys ctx va addr : Nat) (entry : W64) (mark : Option Bool) : Work :=
  if !w.linesFit false (linesOf addr 8) then w
  else
    let (first, len, w1) := match w.st.covered ctx va addr with
      | some (level, old) => (va / 2 ^ levelShift level * 2 ^ levelShift level, 2 ^ levelShift level, w.stale ctx va level old)
      | none => (va, w.free.1.toNat, w.free.2)
    let k := (w1.put (.put .fm addr (leBytes 8 entry.toNat) 0 false)).note (.mem .fm addr)
    k.mod fun s =>
      let s1 := s.logTranslation ⟨1, sys, ctx, s.rin.toNat, first, len, entry⟩
      match mark with
      | none => s1
      | some m => s1.markMigrating ctx va m

/-- Whether the page of a leaf is no context's dump region, or one of the same tenant to which the leaf gives no writes (R271). -/
def State.dumpSafe (s : State) (ctx : Nat) (region addr : Nat) (wr : Bool) : Bool :=
  let tenant := (s.ctx? ctx).map (·.tenant)
  decide (region ≠ 0) ||
  (s.ctxs ++ s.mgmt.orphans).all fun c =>
    !c.dumpPages.contains (addr / 2 ^ 21 * 2 ^ 21) || (decide (tenant = some c.tenant) && !wr)

/-- `EDIT_PORT_WRITE`: a doubleword of a page table. No leaf opens a dump region to writes or to another tenant (R271), and none names a region of
the undo log (R332). -/
def execEditPortWrite (sys ctx va addr : Nat) (entry : W64) (mark : Option Bool) (s : State) : Host.Outcome State Fault Refusal :=
  let opens := leafV entry && leafLEAF entry &&
    (!s.dumpSafe ctx (leafREGION entry) (leafADDR entry * 2 ^ 16) (leafWR entry) || inLog (leafREGION entry) (leafADDR entry * 2 ^ 16))
  s.finish (if addr % 8 = 0 ∧ !opens then s.work.editEntry sys ctx va addr entry mark else s.work)

/-! ### Shoot-downs (R317) -/

/-- Whether a cached entry lies in a range. -/
def TlbEnt.inRange (e : TlbEnt) (ctx va len : Nat) : Bool :=
  let size := if e.big then 2 ^ 21 else 2 ^ 16
  decide (e.ctx = ctx) && overlap va (va + len) (e.page * size) (e.page * size + size)

/-- Whether an old entry covers an address of a range: a shoot-down then removes it whole, with the leaves cached below it. -/
def WalkEnt.inRange (e : WalkEnt) (ctx va len : Nat) : Bool :=
  let size := 2 ^ levelShift e.level
  decide (e.ctx = ctx) && overlap va (va + len) (e.page * size) (e.page * size + size)

/-- Whether an access of `n` bytes at a virtual address may have been translated for a range; one whose address is not known may. -/
def meetsRange (va len : Nat) (addr : Option Nat) (n : Nat) : Bool :=
  match addr with
  | some a => overlap va (va + len) a (a + n)
  | none => true

/-- The memory sides of an element group of a copy, as virtual ranges. -/
def CopyBody.touched (b : CopyBody) (g e : Nat) : List (Nat × Nat) :=
  (b.runs g e).flatMap fun r =>
    (if b.srcSp then [] else [(r.src, r.src + r.len)]) ++ if b.dstSp then [] else [(r.dst, r.dst + r.len)]

/-- Whether a command was translated for a page of a range when it dispatched, or moves an element group of the range. -/
def Cmd.holdsOld (c : Cmd) (s : State) (ctx va len : Nat) : Bool :=
  decide (c.ctx = ctx) &&
  (match c.body with
   | .copy _ b p _ st =>
     decide (st = .asked) &&
     (b.touched p (((s.focusStrand (c.gid * 4 + c.sidx)).map fun k => k.strand.slabOf b).getD 1)).any fun r => overlap va (va + len) r.1 r.2
   | .atom _ _ a _ _ _ _ => overlap va (va + len) a (a + 8)
   | .put p _ => p.pages.any fun e => overlap va (va + len) (e.1 * 2 ^ 16) (e.1 * 2 ^ 16 + 2 ^ 16)
   | .rest _ _ l _ => l.any fun p => overlap va (va + len) (p * 2 ^ 16) (p * 2 ^ 16 + 2 ^ 16))

/-- The same for a Heath command, whose pages were translated at its dispatch. -/
def HCmd.holdsOld (c : HCmd) (ctx va len : Nat) : Bool :=
  decide (c.ctx = ctx) && c.pages.any fun p => overlap va (va + len) (p.1 * 2 ^ 21) (p.1 * 2 ^ 21 + 2 ^ 21)

/-- The same for what a strand still has to perform: a held store, a word or a write that another module is answering. -/
def Strand.holdsOld (s : State) (t : Strand) (va len : Nat) : Bool :=
  (t.pend.any fun p => p.stores.any fun st => st.spRange.isNone && meetsRange va len p.va st.len) ||
  (t.remotes.any fun r => s.pendingUid r.uid && meetsRange va len (r.va.map fun a => a / 64 * 64) 64) ||
  (match t.flight with
   | .atomic r => meetsRange va len (some r.va.toNat) 8
   | .folds n a => decide (n ≠ 0) && meetsRange va len (some a.toNat) 65536
   | _ => false)

/-- Whether an access of a context that may have been translated through an entry of a range is still to be performed, by its strands or in its
saved groups: a command, a held store, or a word that another module is answering (R317). -/
def State.oldAccess (s : State) (ctx va len : Nat) : Bool :=
  let saved := (s.groups.filter fun g => decide (g.place.ctx = ctx)).filterMap (·.saved)
  let strands := (s.strands.filter fun t => decide (t.g.ctx = ctx)) ++ saved.flatMap (·.strands)
  (s.cmds ++ saved.flatMap (·.cmds)).any (fun c => c.holdsOld s ctx va len) || s.queries.any (fun c => c.holdsOld ctx va len) ||
  strands.any fun t => t.holdsOld s va len

/-- Whether the END of a kernel is translated for a page of a range. -/
def Kernel.inRange (k : Kernel) (ctx va len : Nat) : Bool :=
  decide (k.ctx = ctx) && overlap (va / 65536 * 65536) (va + len) ((k.va.toNat + 120) / 65536 * 65536) (k.va.toNat + 128)

/-- Kernels whose END lies in a range that has been shot down: it goes where the tables now say, or nowhere (log 69). -/
def State.retarget (s : State) (ctx va len : Nat) : State :=
  { s with kernels := s.kernels.map fun k =>
      if k.inRange ctx va len then
        { k with endStore := match s.access 144 ctx (k.va + 120) .write with
            | .ok p => some (endStoreAt p)
            | .error _ => none }
      else k }

/-- A shoot-down: the held strip stores in the range drain, and those before them in program order; it completes, with its record, once nothing
translated through an old entry is still to be performed. How long strands waited for it is free (log 10). -/
def Work.shoot (w : Work) (sys ctx va len : Nat) : Work × Bool :=
  let inRange := fun a => decide (va ≤ a) && decide (a < va + len)
  let sids := (w.st.strands.filter fun t => decide (t.g.ctx = ctx)).map Strand.sid
  let k := (sids.foldl (fun j sid => j.onStrand sid fun x => x.drainUpTo inRange) w).settle
  if k.st.oldAccess ctx va len then (k, false)
  else
    let (clocks, j) := k.free
    (j.mod fun s =>
      (({ s with
        tlb := s.tlb.filter fun e => !e.inRange ctx va len,
        walks := s.walks.filter fun e => !e.inRange ctx va len }).retarget ctx va len).logTranslation ⟨2, sys, ctx, s.rin.toNat, va, len, clocks⟩, true)

/-- `SHOOT_DOWN`. -/
def execShootDown (sys ctx va len : Nat) (s : State) : Host.Outcome State Fault Refusal := s.finish (s.work.shoot sys ctx va len).1

/-! ### Parity in a translation cache (R308) -/

/-- The levels of the entries above the leaf that a walk passes. -/
def passedLevels (s : State) (held : Nat → Option W64) (va level table fuel : Nat) : List Nat :=
  match fuel with
  | 0 => []
  | k + 1 =>
    let there : W64 := BitVec.ofNat 64
      (leNat (Mem.readN s.fm (table + 8 * bitsAt va (levelShift level) (if level = 3 then 5 else 9)) 8))
    let e := (held level).getD there
    if !leafV e || malformed level e || leafLEAF e then [] else level :: passedLevels s held va (level + 1) (nextTable e) k

/-- A record of a parity error in a unit's entry that covers `size` bytes. -/
def State.logParity (s : State) (unit ctx va size : Nat) : State :=
  s.logTranslation ⟨3, 0xFF, ctx, s.rin.toNat, va / size * size, 0, BitVec.ofNat 64 (unit % 256)⟩

/-- A core's leaf of an address dropped from its cache and fetched again by a walk. -/
def State.refetchLeaf (s : State) (core ctx va : Nat) : State :=
  let hit := fun (e : TlbEnt) =>
    decide (e.core = core) && decide (e.ctx = ctx) && decide (e.page = if e.big then va / 2 ^ 21 else va / 2 ^ 16)
  let kept := { s with tlb := s.tlb.filter fun e => !hit e }
  let size := fun (big : Bool) => if big then 2 ^ 21 else 2 ^ 16
  match kept.walk core ctx va, s.tlb.find? hit with
  | some (leaf, big), old =>
    (kept.cacheLeaf ⟨core, ctx, va / size big, big, leaf⟩).logParity core ctx va (size ((old.map TlbEnt.big).getD big))
  | none, some old => kept.logParity core ctx va (size old.big)
  | none, none => s

/-- An entry of a meadow's walk cache on the path of an address dropped, a free choice of them: the next walk reads it again in the tables. -/
def Work.refetchEntry (w : Work) (core ctx va : Nat) : Work :=
  let s := w.st
  let m := core / 24
  let levels := passedLevels s (s.walkCache m ctx va) va 0 (((s.ctx? ctx).map (·.root)).getD 0) 4
  let (v, k) := w.free
  match levels[v.toNat % levels.length]? with
  | none => w
  | some level =>
    let drop := fun (e : WalkEnt) => if e.covers ctx va && decide (e.level = level) then { e with lost := m :: e.lost } else e
    k.mod fun t => ({ t with walks := t.walks.map drop }).logParity (256 + core) ctx va (2 ^ levelShift level)

/-- `TLB_PARITY_REFETCH`: the entry fetched again by a walk, and its record, with the first address of the entry. A unit number of 256 and a core
names the walk cache that this core's walks use. -/
def execTlbParityRefetch (unit ctx va : Nat) (s : State) : Host.Outcome State Fault Refusal :=
  s.finish (if 256 ≤ unit then s.work.refetchEntry (unit - 256) ctx va else s.work.mod fun t => t.refetchLeaf unit ctx va)

end Sys2Proof.Machine
end

