-- ==== Sys2Proof/Machine/Registers.lean ====
section
/-! DEFINITION. Services, timers, and the registers that system cores and the hub write (spec/02 R41, R43; spec/06 R121, R131, R132;
spec/05 R104; spec/12 R273, R278, R279; spec/15 R297, R300; spec/18 R334; spec/19 R356, R358; spec/20 R364, R365, R367). -/

namespace Sys2Proof.Machine

/-! ### Services (R43) -/

/-- The service that the module is in: recovery, test, normal after the first run root, start-up before. -/
def State.serviceNow (s : State) : BitVec 2 :=
  if s.mgmt.recovering then 3 else if s.mgmt.test then 2 else if s.mgmt.ranRoot then 0 else 1

/-- The service brought up to date: pass values 0 on entering stride service, charges 0 on leaving it, and no queue chosen yet
after a change. -/
def State.changeService (s : State) : State :=
  let new := s.serviceNow
  if new = s.svcmode then s
  else
    let zero : Vector W64 64 := Vector.replicate 64 0
    let entering := decide (s.svcmode = 0)
    let leaving := decide (new = 0)
    { s with
      svcmode := new,
      walkPrev := [],
      walkLast := 0,
      queues := s.queues.map fun q => if entering then { q with pass := 0 } else q,
      cores := s.cores.map fun c =>
        { c with lastQ := none, charge := if leaving then zero else c.charge, pass := if entering then zero else c.pass } }

/-- `TEST_SERVICE_SET`. -/
def execTestServiceSet (on : Bool) (s : State) : Host.Outcome State Fault Refusal :=
  s.finish (s.work.mod fun t => ({ t with mgmt := { t.mgmt with test := on } }).changeService)

/-! ### Timers (R131, R132) and overdue strands (R41) -/

/-- Whether a strand may take an event at its boundary: on its core, no seal stop in force. -/
def State.mayAct (s : State) (t : Strand) : Bool :=
  t.live && !t.ended && !s.stopped

/-- Whether a strand's core is being saved for another context: it has stopped at its boundary (R263). A strand that has still to dispatch
its first convoy goes on: an assigned group is not saved (Table 14.1). -/
def State.beingSaved (s : State) (t : Strand) : Bool :=
  t.started &&
  match (s.core t.g.core).reclaim with
  | .saving _ vic => decide (t.g.ctx = vic)
  | .clearing _ _ _ => true
  | _ => false

/-- Whether a strand takes its timer trap now (R131, R39): it fired at the end of the slab-cycle before and still holds, the strand stands
at a boundary, and no event goes before it, as a timeout does that has come. A word that another unit is completing is no boundary. -/
def State.timerReady (s : State) (t : Strand) : Bool :=
  s.mayAct t && t.timerHit && s.timerDue t && !s.rcv.mustRoll && !s.beingSaved t && decide (t.flight = .none) && !s.expiring t

/-- The timer trap at the strand's boundary. -/
def Work.timerTrap (w : Work) : Work := w.takeTrap true ⟨0x0C, 0, 0⟩

/-- `TIMER_TRAP`. -/
def execTimerTrap (sid : Nat) (s : State) : Host.Outcome State Fault Refusal :=
  s.finish (s.work.onStrand sid fun w => if w.st.timerReady w.cur then w.timerTrap else w)

/-- `WFI_WAKE`: a waiting `wfi` retires once `cycle` ≥ `tmcmp`. -/
def execWfiWake (sid : Nat) (s : State) : Host.Outcome State Fault Refusal :=
  s.finish (s.work.onStrand sid fun w =>
    if decide (w.cur.waiting = .timer) && w.st.mayAct w.cur && decide (w.cur.tmcmp.toNat ≤ (w.st.core w.cur.g.core).cycle.toNat) then
      w.retire
    else w)

/-- `STRAND_OVERDUE`: a strand that stayed ready without issuing for 8,192 slab-cycles. -/
def execStrandOverdue (sid : Nat) (s : State) : Host.Outcome State Fault Refusal :=
  s.finish (s.work.onStrand sid fun w =>
    if w.cur.wasReady && decide (Config.overdueAfter ≤ w.cur.since) then w.upd fun t => { t with overdue := true } else w)

/-! ### The trace ring's controls (R364, R365) -/

/-- `TRCCTL_MARK`. -/
def execTrcctlMark (core : Nat) (mark : BitVec 16) (s : State) : Host.Outcome State Fault Refusal :=
  s.finish (
    if mark = 0 then s.work
    else s.work.mod fun t => t.setCore ((t.core core).record 12 0 false mark.toNat (t.core core).cycle))

/-- Whether a copy-out of a core's ring has to wait: for queued commands whose envelope its stores meet, for stores held back there, or for a
waking bank (R121, R213, R365). -/
def State.ringHeld (s : State) (core : Nat) : Bool :=
  let c := s.core core
  let lo := core * 2 ^ 22 + c.trcOfs.toNat * 64
  let hi := lo + 16384
  !c.copyLeaves false (c.trcOfs.toNat * 64) &&
  (c.sleeping.isSome || s.cmds.any (fun k => decide (k.core = core) && !k.landed && overlapOf lo hi k.env) ||
   s.queries.any (fun k => decide (k.core = core) && overlapOf lo hi k.env) ||
   s.strands.any fun t => t.pend.any fun p => p.stores.any fun st => overlapOf lo hi st.spRange)

/-- `TRCCTL_COPY`. -/
def execTrcctlCopy (core : Nat) (s : State) : Host.Outcome State Fault Refusal :=
  let ofs := (s.core core).trcOfs.toNat * 64
  s.finish (
    if s.ringHeld core then s.work
    else (s.work.ringCopy core false ofs).mod fun t =>
      t.setCore { t.core core with trcCopyErr := (s.core core).copyLeaves false ofs })

/-- `TRCCTL_CLR`. -/
def execTrcctlClr (core : Nat) (s : State) : Host.Outcome State Fault Refusal :=
  s.finish (s.work.mod fun t => t.setCore (t.core core).clearRing)

/-! ### Registers without an event of their own (R104) -/

/-- A queue's weight and tickets as assigned, captured as KIND 5 (R273, R371). -/
def State.assignShare (s : State) (hw : Nat) (f : Queue → Queue) : State :=
  let k := s.mapQueue hw f
  match k.queue? hw with
  | some q => k.capture q.ctx (.tickets hw q.weight q.tickets)
  | none => k

/-- A write to a register; reserved fields are dropped, and so is a value out of its range. A core that hosts a group keeps its banks powered, and
a bank loses what it holds as its power goes: it is found cleared (R121, R238). -/
def Work.writeReg (w : Work) (r : SysReg) (v : W64) : Work :=
  let n := v.toNat
  match r with
  | .hgov =>
    let b := bitsAt n 0 12
    if 150 ≤ b ∧ b ≤ 600 then w.mod fun s => { s with mgmt := { s.mgmt with budget := BitVec.ofNat 12 b } } else w
  | .sealcfg =>
    let p := bitsAt n 0 20
    if 100 ≤ p ∧ p ≤ 1000000 then w.mod fun s => { s with rcv := { s.rcv with nextPeriod := p } } else w
  | .sqsel core => w.mod fun s => s.setCore { s.core core with sqsel := v.setWidth 6 }
  | .sqchg core q =>
    if h : q < 64 then w.mod fun s => s.setCore { s.core core with charge := (s.core core).charge.set q v h } else w
  | .sqpass core q =>
    if h : q < 64 then w.mod fun s => s.setCore { s.core core with pass := (s.core core).pass.set q v h } else w
  | .sqwt q =>
    let x := bitsAt n 0 8
    if x = 0 then w else w.mod fun s => s.assignShare q fun e => { e with weight := x }
  | .sqtkt q =>
    let x := bitsAt n 0 13
    if x = 0 ∨ 4096 < x then w else w.mod fun s => s.assignShare q fun e => { e with tickets := x }
  | .pevctl core => w.mod fun s =>
      s.setCore { s.core core with pevStrm := BitVec.ofNat 4 (bitsAt n 16 4), pevPipes := BitVec.ofNat 10 (bitsAt n 0 10) }
  | .trcctl core => w.mod fun s =>
      s.setCore { s.core core with trcOfs := BitVec.ofNat 16 (bitsAt n 28 16), trcFrz := bitAt n 8,
                                   trcEn := BitVec.ofNat 6 (bitsAt n 0 4 + 48) }
  | .bstate b => w.mod fun s => s.setBarrier b { s.barrier b with gen := bitsAt n 32 32 }
  | .ctxRoot c => w.mod fun s => s.mapCtx c fun e => { e with root := n / 4096 * 4096 }
  | .tvec c => w.mod fun s => s.mapCtx c fun e => { e with tvec := v &&& (BitVec.allOnes 64 - 63) }
  | .bankPower core =>
    if (w.st.groups.any fun g => decide (g.place.core = core) && decide (g.state ≠ .preempted)) then w
    else
      let c := w.st.core core
      let off := v.setWidth 32
      let cut := off &&& ~~~c.banksOff
      (w.clearBanks core (c.banksOff ^^^ off)).mod fun s =>
        s.setCore { c with banksOff := off, dirtySeal := if cut = 0 then c.dirtySeal else List.range 1024 }

/-- `REGISTER_WRITE`. -/
def execRegisterWrite (r : SysReg) (val : W64) (s : State) : Host.Outcome State Fault Refusal := s.finish (s.work.writeReg r val)

/-- `SCRATCHPAD_BANK_WAKE`: the bank is cleared and answers again (R121). -/
def execScratchpadBankWake (core bank : Nat) (s : State) : Host.Outcome State Fault Refusal :=
  let c := s.core core
  s.finish (
    if bank < 32 ∧ c.banksOff.getLsbD bank then
      (s.work.clearBanks core (BitVec.ofNat 32 (2 ^ bank))).mod fun t => t.setCore { c with banksOff := c.banksOff &&& ~~~(BitVec.ofNat 32 (2 ^ bank)) }
    else s.work)

/-! ### Barriers and rings (R297, R300) -/

/-- `BARRIER_CONFIG_WRITE`: BCFG. -/
def execBarrierConfigWrite (b : BarId) (val : W64) (s : State) : Host.Outcome State Fault Refusal :=
  let n := val.toNat
  let old := s.barrier b
  let waits := s.strands.any fun t =>
    match t.waiting with
    | .barrier x _ => decide (x = b)
    | _ => false
  let most : Nat := match b with
    | .meadow _ _ => 96
    | .device _ => 576
  let npart := bitsAt n 32 12
  let bound := bitAt n 63
  let new : Barrier :=
    { old with bound := bound, ctx := bitsAt n 56 6, npart := npart, timeout := bitsAt n 0 32, count := 0 }
  s.finish (
    if old.count ≠ 0 ∨ waits ∨ (bound ∧ (npart = 0 ∨ most < npart)) then s.work
    else s.work.mod fun t => t.setBarrier b new)

/-- `RING_CONFIG_WRITE`: RCFG, or RSTATE where `state` holds. Binding, and a low-water mark written, clear the channel's map (R300, log 39). -/
def execRingConfigWrite (meadow stage : Nat) (state : Bool) (val : W64) (s : State) : Host.Outcome State Fault Refusal :=
  let n := val.toNat
  let old := s.ring meadow stage
  let waits := s.strands.any fun t => decide (t.g.core / 24 = meadow) &&
    (match t.waiting with
     | .ring _ st _ => decide (st = stage)
     | .ringRoom st _ => decide (st = stage)
     | _ => false)
  let new : Ring :=
    if state then { old with lw := bitsAt n 32 32, map := 0 }
    else
      let binds := bitAt n 63 && (!old.bound || decide (old.ctx ≠ bitsAt n 56 6))
      { old with bound := bitAt n 63, ctx := bitsAt n 56 6, timeout := bitsAt n 0 32, map := if binds then 0 else old.map }
  s.finish (if waits then s.work else s.work.mod fun t => t.setRing meadow stage new)

/-- `HBERR_CLEAR`: the fields written 0 are cleared (Table 19.4). -/
def execHberrClear (bank : Nat) (val : W64) (s : State) : Host.Outcome State Fault Refusal :=
  let n := val.toNat
  s.finish (s.work.mod fun t =>
    { t with hberr := t.hberr.map fun h =>
        if h.bank = bank then
          { h with valid := h.valid && bitAt n 63, multi := h.multi && bitAt n 62,
                   count := if bitsAt n 50 12 = 0 then 0 else h.count }
        else h })

end Sys2Proof.Machine
end

