-- ==== Sys2Proof/Machine/Recovery.lean ====
section
/-! DEFINITION. Seals, the outbound hold's release, rollback, containment and the scrubber (spec/18 R329 to R347; spec/02 R37, R38;
spec/07 R143; spec/09 R208, R398; spec/10 R255; spec/11 R259, R261, R269; spec/17 R327, R328). -/

namespace Sys2Proof.Machine

/-! ### Intervals, lines -/

/-- The age of a stamp (R331). -/
def State.age (s : State) (stamp : BitVec 8) : Nat := (s.stampNow - stamp).toNat

/-- The stamp that the scrubber leaves: an age above 96 becomes 96. -/
def State.young (s : State) (stamp : BitVec 8) : BitVec 8 := if 96 < s.age stamp then s.stampNow - 96 else stamp

/-- Whether a stamp is newer than the last committed seal's, and whether a line's is. -/
def State.stampNewer (s : State) (stamp : BitVec 8) : Bool :=
  match s.rcv.sealed with
  | none => false
  | some m => decide (s.age stamp < (s.rin - BitVec.ofNat 32 m).toNat)
def State.lineNewer (s : State) (heath : Bool) (n : Nat) : Bool := s.stampNewer (s.line heath n).stamp

/-- Every stamp kept young, as the sweep that a commit waits for leaves them (R331). -/
def State.sweep (s : State) : State :=
  let f := fun (e : Nat × Line) => (e.1, { e.2 with stamp := s.young e.2.stamp })
  { s with fmLine := s.fmLine.map f, hmLine := s.hmLine.map f, idleStamp := s.young s.idleStamp }

/-! ### Modules that fail or leave (R324, R337) -/

/-- The ports that reach a module go fenced, what they hold for it is discarded, and so are the commands that it still has to answer. -/
def State.fencePeer (s : State) (m : Nat) : State :=
  match s.known m with
  | none => s
  | some p =>
    let others := fun (f : Flit) => decide (f.dest ≠ some (false, m))
    let s1 := p.ports.foldl (fun k n =>
      let q := k.port n
      if q.usable || decide (q.state = .training) then k.setPort n { q with state := .fenced, replay := [], queue := [], owed := 0 }
      else k.setPort n { q with
        replay := q.replay.filter others, queue := q.queue.filter others, owed := ((q.queue.take q.owed).filter others).length }) s
    let left := fun (b : CmdBody) =>
      match b with
      | .rest asks va pages fire => .rest (asks.filter fun k => decide (k ≠ m)) va pages fire
      | _ => b
    { s1 with
      farPuts := s1.farPuts.map fun e => { e with asks := e.asks.filter fun k => decide (k ≠ m) },
      cmds := (s1.cmds.filter fun c =>
        match c.body with
        | .atom _ _ _ _ (some k) _ sent => !(sent && decide (k = m))
        | .put p true =>
          match putSite p p.fill with
          | .remote k _ => decide (k ≠ m)
          | _ => true
        | _ => true).map fun c => { c with body := left c.body } }

/-- A module declared failed (R337). -/
def State.declareFailed (s : State) (m : Nat) : State :=
  { s.fencePeer m with rcv := { (s.fencePeer m).rcv with silent := m :: s.rcv.silent } }

/-- A rollback that another module's error, or its silence, brings about: the coordinator passes ABORT on (R337). -/
def State.mustReturn (s : State) : State :=
  let k := if s.leads then s.tellAll 3 (s.rcv.sealing.getD s.rin.toNat) else s
  { k with rcv := { k.rcv with mustRoll := k.rcv.mustRoll || k.rcv.committed.isSome } }

/-! ### The engines' commands, one step each -/

/-- One move of a command: a copy goes as far as it can, a landed one is performed, an atomic or a put is performed. -/
def Work.advance (w : Work) (u : Nat) : Work :=
  match w.st.cmds.find? fun c => decide (c.uid = u) with
  | none => w
  | some c =>
    match c.body with
    | .copy _ _ _ none .landed => w.doneCmd u
    | .copy tag _ _ _ _ => w.moveCopy (c.gid * 4 + c.sidx) tag fun _ => true
    | .atom _ _ _ _ _ _ _ => if c.mayMove w.st then w.onCmd c fun k => k.performAtom c else w
    | .put _ _ => if c.mayMove w.st then w.onCmd c fun k => k.performPut c else w
    | .rest _ _ _ _ => if c.mayMove w.st then w.onCmd c fun k => k.firePut c else w

/-- Every channel drained as far as it goes (R208, R336 step 5). -/
def Work.drainCmds (w : Work) (fuel : Nat) : Work :=
  match fuel with
  | 0 => w
  | n + 1 => (((w.st.cmds.map (·.uid)).foldl Work.advance w).settle).drainCmds n

/-! ### The outbound hold (R255, R328) -/

/-- The destination of a held write: the host, or the module that its entry named in its interval (R327). -/
def Held.module (h : Held) : Bool × Nat := (decide (h.dest = .host), h.far)

/-- The ports of a held write's module: those that reach it now, or, where the map no longer has it, those of its interval's map (R323, R327). -/
def State.heldPorts (s : State) (h : Held) : List Nat :=
  match (s.map.externals ++ s.map.members).find? fun p => decide (p.far = h.far) with
  | some p => p.ports
  | none => h.ports

/-- Whether the link of a held write is usable (R328). -/
def State.destUp (s : State) (h : Held) : Bool :=
  match h.dest with
  | .host => s.hostUp
  | .external _ => (s.firstUsable (s.heldPorts h)).isSome

/-- One held write let go: to host memory, or as a KIND 3 flit (R323). -/
def Work.letGo (w : Work) (h : Held) : Work :=
  match h.dest with
  | .host => w.put (.put .host h.addr h.bytes 0 true)
  | .external n =>
    match w.st.firstUsable (w.st.heldPorts h) with
    | some i => w.mod fun s => s.sendOn i (some (true, n)) (w.st.heldPorts h) 3 0 0 h.addr h.bytes
    | none => w

/-- The held writes of sealed intervals released in order, per destination; what cannot leave stays and holds back the later writes
to its destination. -/
def Work.releaseFrom (w : Work) (l : List Held) (blocked : List (Bool × Nat)) : Work × List Held :=
  match l with
  | [] => (w, [])
  | h :: rest =>
    if w.st.sealedUpTo h.interval && w.st.destUp h && !blocked.contains h.module then (w.letGo h).releaseFrom rest blocked
    else
      let (k, kept) := w.releaseFrom rest (h.module :: blocked)
      (k, h :: kept)

def Work.releaseHold (w : Work) : Work :=
  let (k, kept) := w.releaseFrom w.st.hold []
  k.mod fun s => { s with hold := kept }

/-! ### The seal (R334 to R338) -/

/-- A strand as it returns from an image: its word dispatches again. The image itself keeps what it waited for (R303). -/
def Strand.sealRecord (t : Strand) : Strand :=
  { t.record with
    flight := match t.flight with
      | .evict _ _ => .none
      | .restore _ _ _ => .none
      | f => f }

/-- A context whose images hold nothing that a seal has still to write (R261). -/
def Ctx.sealedImages (c : Ctx) : Ctx := { c with images := c.images.map fun i => { i with dirty := [] } }

/-- The images of a stop (R336 step 3). -/
def Work.imageOf (w : Work) (n : Nat) : Image :=
  let s := w.st
  { interval := n, strands := s.strands, groups := s.groups, kernels := s.kernels, queues := s.queues,
    ctxs := s.ctxs, mbars := s.mbars, dbars := s.dbars, rings := s.rings, pages := s.pages, cmds := s.cmds.map Cmd.cutBack,
    queries := s.queries, cores := s.cores.map fun c => ⟨c.id, c.tiles, c.owner, c.dirtyTake, c.dirtySeal, c.reclaim⟩,
    sp := w.memNow .sp, replay := s.mgmt.replay, order := s.mgmt.order }

/-- A wait with the interval that it is for renumbered. -/
def Wait.renumber (f : Nat → Nat) (k : Wait) : Wait :=
  match k with
  | .sealed n => .sealed (f n)
  | .held n => .held (f n)
  | w => w

/-- A module that joins takes the domain's interval number (R335): what it wrote in its own interval counts as of n, and its last seal as
of the one before (log 58). -/
def State.joinInterval (s : State) (n : W32) : State :=
  if n = s.rin then s
  else
    let now := s.rin.toNat
    let last := (n - 1).toNat
    let f := fun (k : Nat) => if k = now then n.toNat else last
    let stamp := fun (x : BitVec 8) => if x = s.stampNow then n.setWidth 8 else n.setWidth 8 - 96
    let line := fun (e : Nat × Line) => (e.1, { e.2 with stamp := stamp e.2.stamp })
    let u := fun (e : Undo) => { e with interval := f e.interval, old := { e.old with stamp := n.setWidth 8 - 96 } }
    let image := fun (im : Image) => { im with interval := last }
    { s.mapStrands fun t => { t with waiting := t.waiting.renumber f } with
      rin := n, fmLine := s.fmLine.map line, hmLine := s.hmLine.map line, idleStamp := n.setWidth 8 - 96,
      undoF := s.undoF.map u, undoH := s.undoH.map u, hold := s.hold.map fun h => { h with interval := f h.interval },
      slots := s.slots.map fun q => { q with interval := f q.interval },
      resting := s.resting.map fun e => (e.1, f e.2),
      queries := s.queries.map fun c => { c with interval := f c.interval },
      fns := s.fns.map fun g => { g with cmd := g.cmd.map fun c => { c with sealAt := c.sealAt.map f } },
      rcv := { s.rcv with sealed := s.rcv.sealed.map fun _ => last, committed := s.rcv.committed.map image } }

/-- Whether a log or the hold is nearly full, so that stores may have to wait for the commit (R280, R328). -/
def State.tight (s : State) : Bool :=
  decide (Config.undoCapF < s.undoF.length + 2048) || decide (Config.undoCapH < s.undoH.length + 2048) || !s.holdTakes (2 ^ 17)

/-- A flit of a write or an atomic that a member of the domain has still to receive. -/
def Port.owes (p : Port) : Bool :=
  (p.usable || decide (p.state = .training)) &&
  (p.replay ++ p.queue).any fun f =>
    match f.dest with
    | some (false, _) => decide (f.kind = 3) || decide (f.kind = 4)
    | _ => false

/-- Whether a command or a held store that may still be performed before the images stand has not been (R208, R251 note 11, R336 step 5): one
that waits for another module or for a Heath command, or one that neither a fault, nor a log or hold that the commit must free, holds back. -/
def State.mustDrain (s : State) : Bool :=
  let held := s.strands.flatMap (·.pend)
  let blocked :=
    if s.tight then (s.cmds.filter fun c => c.mayMove s).map (·.uid) ++ (held.filter fun p => (s.stillPending p.cmds).isEmpty).map (·.uid)
    else []
  let stuck := s.behindOf ((s.cmds.filter Cmd.suspended).map (·.uid) ++ blocked)
  !s.farPuts.isEmpty || held.any (fun p => !stuck.contains p.uid) ||
  s.cmds.any fun c =>
    match c.body with
    | .copy _ _ _ _ .asked => true
    | .atom _ _ _ _ _ _ true => true
    | .put _ true => true
    | .rest _ _ _ _ => true
    | _ => !stuck.contains c.uid

/-- Whether the images of a stop may be taken: no answer to a word is out and no timeout has come (R39), so that each strand stands at a boundary;
no save is to be written
(R264); every channel has drained (R208); no `hmove` that can go on is in flight (R313); every write to a member has arrived. -/
def State.mayStop (s : State) : Bool :=
  let stuck := s.stuck
  !s.atomicOut (fun _ => true) && !s.strands.any s.expiring && s.cores.all (fun c => !s.saveDue c) && !s.mustDrain &&
  s.ports.toList.all (fun p => !p.owes) &&
  s.queries.all fun c =>
    match c.body with
    | .move _ _ _ => stuck.contains c.uid || decide (Config.undoCapH ≤ s.undoH.length)
    | _ => true

/-- What is drained at a stop: words that have their answers, the held strip stores, and the channels (R141, R208, R387). -/
def Work.drainStop (w : Work) : Work :=
  let all := fun (_ : Strand) => true
  let k := ((w.finishAtomics all).drainStrands all).settle
  k.drainCmds (k.st.cmds.length * 2 + 1)

/-- Whether the context that the snapshot command in progress names has stopped (R394). -/
def State.snapStops (s : State) : Bool :=
  s.fns.all fun f =>
    match f.cmd.bind (·.again) with
    | some (.snapshot (some n)) =>
      decide (s.rcv.snapFn ≠ some f.num) ||
        !s.ctxs.any fun c => decide (c.num = n) && (decide (c.state = .live) || decide (c.state = .idle))
    | _ => true

/-- Whether a snapshot waits for a seal that begins its stream (R346). -/
def State.snapDue (s : State) : Bool := s.rcv.snapFn.isSome && !s.rcv.snap

/-- The stop taken (R336 steps 2 and 3): `rin` advances, the images stand. One that finds a snapshot's context running again leaves the stream to
the next seal. -/
def Work.takeStop (w : Work) : Work :=
  let k := w.mod fun s => s.event (fun _ => true) 1
  let n := k.st.rin.toNat
  let im := k.imageOf n
  let mem := k.memNow
  k.mod fun s =>
    { s with
      rin := s.rin + 1,
      cores := s.cores.map fun c => { c with dirtySeal := [] },
      ctxs := s.ctxs.map Ctx.sealedImages,
      rcv := { s.rcv with
        phase := .writing, resumed := false, sealing := some n, pending := some im, period := s.rcv.nextPeriod,
        nextRequest := s.rcv.nextRequest || (s.snapDue && !s.snapStops),
        snapAt := if s.snapDue && s.snapStops then some ⟨mem .fm, mem .hm, s.fmLine, s.hmLine, im⟩ else s.rcv.snapAt } }

/-- A step of the stop: the cores stand at their boundaries, what is drained writes in the interval that ends, and once nothing is left to
drain the stop is taken. -/
def Work.stopCores (w : Work) : Work :=
  if w.st.rcv.phase ≠ .stopping ∨ w.st.rcv.mustRoll then w
  else
    let d := w.drainStop
    if d.ws.isEmpty && d.st.mayStop then d.takeStop else d

/-- A module enters a seal: its cores stop. -/
def State.enterSeal (s : State) (n : Nat) : State :=
  { s with rcv := { s.rcv with phase := .stopping, sealing := some n, resumed := false, requested := false, readyFrom := [] } }

/-- Whether a module may start or enter a seal: it runs, it has its initial seal, and it is not to roll back. -/
def State.sealable (s : State) : Bool := decide (s.rcv.phase = .running) && s.rcv.committed.isSome && !s.rcv.mustRoll

/-- A coordinator starts the seal of the current interval: PREPARE to every member and to those that it admits, and its own stop (log 58). -/
def Work.startSeal (w : Work) (byRequest : Bool) : Work :=
  if !w.st.sealable ∨ !w.st.leads then w
  else
    (w.mod fun s =>
      let s0 := { s with rcv := { s.rcv with asked := s.asks } }
      let s1 := (s0.tellAll 0 s.rin.toNat).enterSeal s.rin.toNat
      { s1 with rcv := { s1.rcv with early := if byRequest then min 255 (s1.rcv.early + 1) else s1.rcv.early } }).stopCores

/-- `SEAL_TIMER`: PERIOD has passed on the coordinator. -/
def execSealTimer (s : State) : Host.Outcome State Fault Refusal := s.finish (s.work.startSeal false)

/-- `SEAL_REQUEST`: a request reaches the coordinator; during a seal it is kept for the next. -/
def execSealRequest (module : Nat) (s : State) : Host.Outcome State Fault Refusal :=
  s.finish (
    let w := s.work.mod fun t => t.heard module
    if !s.present.contains module then w
    else
      match s.rcv.phase with
      | .running => w.startSeal true
      | _ => w.mod fun t => { t with rcv := { t.rcv with nextRequest := true } })

/-- The modules that a coordinator has asked in are to join no more with the seal in progress: they get ABORT (log 58). -/
def State.dropAsked (s : State) : State :=
  let k := s.rcv.asked.foldl (fun k m => k.tell m 3 (s.rcv.sealing.getD s.rin.toNat)) s
  { k with rcv := { k.rcv with asked := [] } }

/-- A module that is called into a domain follows as soon as no seal of its own is in progress: it takes the domain's number and enters its seal
(R327, R335, log 58). -/
def Work.joinSeal (w : Work) : Work :=
  match w.st.rcv.called with
  | some n =>
    if w.st.mayJoin && w.st.sealable then
      (w.mod fun t =>
        let t1 := (t.joinInterval n).enterSeal n.toNat
        { t1 with rcv := { t1.rcv with joining := true, called := none } }).stopCores
    else w
  | none => w

/-- `SEAL_PREPARE`: PREPARE has arrived for interval n. A member enters its seal where n is the interval in force, which every member has; a
module that joins takes the domain's number first (R335). -/
def execSealPrepare (n : W32) (s : State) : Host.Outcome State Fault Refusal :=
  let w := s.work.mod State.heardSeal
  s.finish (
    if s.mayJoin then (w.mod fun t => { t.dropAsked with rcv := { t.dropAsked.rcv with called := some n } }).joinSeal
    else if s.rcv.phase = .stopping then w.stopCores
    else if !s.sealable ∨ s.leads ∨ n ≠ s.rin then w
    else (w.mod fun t => t.enterSeal n.toNat).stopCores)

/-- The cores resume in the new interval (R336 step 4). -/
def Work.resumeCores (w : Work) : Work :=
  if w.st.rcv.phase = .writing ∧ !w.st.rcv.resumed then
    w.mod fun s => { s.event (fun _ => true) 2 with rcv := { (s.event (fun _ => true) 2).rcv with resumed := true } }
  else w

/-- `SEAL_RESUME`. -/
def execSealResume (s : State) : Host.Outcome State Fault Refusal := s.finish s.work.resumeCores

/-- The tags by which an error that the scrubber finds in a line is judged: those that the log took of the old contents where they were past
correction (R330), else the line's own. -/
def State.judged (s : State) (heath : Bool) (line : Nat) : Line × Bool :=
  match (s.undo heath).reverse.find? fun u => decide (u.line = line) && u.old.poison with
  | some u => if s.rcv.handed.contains (heath, line) then (u.old, true) else (s.line heath line, false)
  | none => (s.line heath line, false)

/-- A line handed to the scrubber, bad and newer than the last commit: the seal waits for the rollback that it forces (R374). -/
def State.handedNewer (s : State) : Option (Bool × Nat) :=
  if s.rcv.committed.isNone then none
  else s.rcv.handed.find? fun e => (s.judged e.1 e.2).1.poison && s.stampNewer (s.judged e.1 e.2).1.stamp

/-- Whether the seal in progress is agreed: the coordinator has sent COMMIT, to another module, so that no rollback undoes it any more (R337). -/
def State.agreed (s : State) : Bool :=
  decide (s.rcv.phase = .committing) && s.sealWith.any fun m => decide (m ≠ s.domain.self)

/-- Once READY has come from every module of the seal the coordinator sends COMMIT (R336 step 6), unless it must roll back. -/
def State.decideCommit (s : State) : State :=
  if s.rcv.phase = .ready ∧ s.leads ∧ !s.rcv.mustRoll ∧ s.handedNewer.isNone ∧ s.sealWith.all (fun m => s.rcv.readyFrom.contains m) then
    let s1 := s.tellAll 2 (s.rcv.sealing.getD 0)
    { s1 with rcv := { s1.rcv with phase := .committing } }
  else s

/-- The images are in field memory, and READY goes out (R336 step 5), unless a rollback is to come first (R374). -/
def Work.imagesDone (w : Work) : Work :=
  match w.st.rcv.pending with
  | some im =>
    if w.st.rcv.phase = .writing ∧ w.st.rcv.resumed ∧ !w.st.rcv.mustRoll ∧ w.st.handedNewer.isNone then
      (w.writeSeal im).mod fun s =>
        let s1 := { s with rcv := { s.rcv with phase := .ready } }
        if s.leads then ({ s1 with rcv := { s1.rcv with readyFrom := s.domain.self :: s1.rcv.readyFrom } }).decideCommit
        else s1.tell s.coordinator 1 (s.rcv.sealing.getD 0)
    else w
  | none => w

/-- `SEAL_IMAGES_DONE`. -/
def execSealImagesDone (s : State) : Host.Outcome State Fault Refusal := s.finish s.work.imagesDone

/-- `SEAL_READY`: the coordinator receives READY from a member, or from a module that it admits. -/
def execSealReady (module : Nat) (s : State) : Host.Outcome State Fault Refusal :=
  let w := s.work.mod fun t => t.heard module
  s.finish (
    if s.leads && s.rcv.sealing.isSome && s.sealWith.contains module && !s.rcv.readyFrom.contains module then
      w.mod fun t => ({ t with rcv := { t.rcv with readyFrom := module :: t.rcv.readyFrom } }).decideCommit
    else w)

/-- A context's halves at a commit: VALID flips, and the half that it then names has the interval (R261). -/
def Ctx.flip (c : Ctx) (n : Nat) : Ctx :=
  if c.valid then { c with valid := false, sealrin0 := n } else { c with valid := true, sealrin1 := n }

/-- The module numbers at the far ends of the ports of a map (R325). -/
def State.setPeers (s : State) (m : DomainMap) : State :=
  (m.externals ++ m.members).foldl (fun k p => p.ports.foldl (fun j n => j.setPort n { j.port n with peer := p.far }) k) s

/-- Whether a seal that commits brings the pending map into force: it is the one that admits this module, or every module that the map admits has
taken part (R327, log 58). -/
def State.mapReady (s : State) : Bool :=
  s.rcv.joining || !s.leads || s.joiners.all fun m => s.rcv.asked.contains m || s.rcv.silent.contains m

/-- A change of the domain map at its seal (R327): the ports to leaving modules go fenced. -/
def State.newMap (s : State) : State :=
  match s.rcv.mapChange with
  | none => s
  | some m =>
    let stays := fun (n : Nat) => m.members.any fun p => decide (p.num = n)
    let leaving := (s.map.members.map (·.num)).filter fun o => decide (o ≠ s.map.self) && !stays o
    let s1 := (leaving.foldl State.fencePeer s).setPeers m
    { s1 with map := m, rcv := { s1.rcv with mapChange := none, joining := false, silent := s1.rcv.silent.filter stays } }
def State.applyMap (s : State) : State :=
  let k := if s.mapReady then s.newMap else s
  { k with rcv := { k.rcv with asked := [] } }

/-- A byte of field memory as it stood at the seal of interval n: the oldest later undo entry of its line, else memory. -/
def State.sealedByte (s : State) (n a : Nat) : Byte :=
  match s.undoF.find? fun u => later u.interval n && decide (u.line = a / 64) with
  | some u => u.bytes.getD (a % 64) 0
  | none => Mem.read s.fm a

/-- Exports that wait for the seal of interval n copy their bytes as they stood at it, page by page (Table 26.4). -/
def Work.exportAt (w : Work) (n ctx va hostAddr len : Nat) : Work :=
  (List.range len).foldl (fun (k : Work) i =>
    match w.st.leafFor 144 ctx (va + i) with
    | some (leaf, big) => k.put (.put .host (hostAddr + i) [w.st.sealedByte n (physOf leaf big (va + i))] 0 true)
    | none => k) w
def Work.finishExports (w : Work) (n : Nat) : Work :=
  (w.st.fns.filterMap fun f => f.cmd).foldl (fun (k : Work) c =>
    match c.again, c.sealAt with
    | some (.exported ctx va hostAddr len), some m => if m = n then k.exportAt n ctx va hostAddr len else k
    | _, _ => k) w

/-- The undo entries that a commit of interval n leaves: those of later intervals, and those that a snapshot stream retains. Where the stream
begins with the commit, the later ones are the first since (R346). -/
def keepEntries (n : Nat) (begins : Bool) (l : List Undo) : List Undo :=
  (l.filter fun u => later u.interval n || u.retained).map fun u =>
    { u with retained := u.retained || (begins && later u.interval n) }

/-- Whether the safe-tier counter has values for a snapshot (R314). -/
def State.snapFits (s : State) : Bool := decide (s.safe.counter.toNat + snapshotSlots < 2 ^ 96)

/-- A snapshot whose counter values other slots have used up meanwhile: it fails with status 5 (R314). -/
def State.failSnapshot (s : State) : State :=
  { s with
    fns := s.fns.map fun f =>
      if s.rcv.snapFn = some f.num then
        { f with cmd := f.cmd.map fun c => if c.opc = 0x50 then { c with status := some 5 } else c }
      else f,
    rcv := { s.rcv with snapFn := none, snapAt := none } }

/-- Step 7 of R336; the sweep of R331 is behind the commit. The held writes of the interval leave under the map that was in force (R327). -/
def Work.commitSeal (w0 : Work) (ns : Nat) : Work :=
  let w := if w0.st.snapDue && w0.st.rcv.snapAt.isSome && !w0.st.snapFits then w0.mod State.failSnapshot else w0
  match w.st.rcv.pending with
  | none => w
  | some im =>
    let n := im.interval
    let begins := w.st.rcv.snapAt.isSome && !w.st.rcv.snap
    let k := w.mod fun s =>
      let s1 : State :=
        { s with
          ctxs := s.ctxs.map fun c => if c.state = .free then c else c.flip n,
          undoF := keepEntries n begins s.undoF, undoH := keepEntries n begins s.undoH,
          resting := s.resting.filter fun e => later e.2 n,
          safe := if begins then { s.safe with counter := s.safe.counter + BitVec.ofNat 96 snapshotSlots } else s.safe,
          mgmt := { s.mgmt with recovering := false },
          rcv := { s.rcv with
            phase := .running, sealing := none, resumed := false, sealed := some n, committed := some im, pending := none,
            readyFrom := [], requested := s.rcv.requested || s.rcv.nextRequest, nextRequest := false, sealns := min (2 ^ 22 - 1) ns,
            snap := s.rcv.snap || s.rcv.snapAt.isSome, snapNonce := if begins then s.safe.counter.toNat else s.rcv.snapNonce,
            sealLog := s.rcv.sealLog ++ [n],
            sites := if s.rcv.mustRoll then (s.rcv.why.map (·.2)).toList else [] } }
      (s1.sweep.changeService).capture 0 (.seal n)
    let k1 := (k.st.ctxs.map (·.num)).foldl Work.writeHeader k
    ((k1.finishExports n).releaseHold.mod State.applyMap)

/-- The commit at a module whose clock nothing else gives: its time is free (log 10). -/
def Work.commitFree (w : Work) : Work := w.free.2.commitSeal (w.free.1.toNat % 2 ^ 22)

/-- Whether the coordinator's own commit may be made: the seal is agreed, or nothing is to be rolled back first (R337, R374). -/
def State.mayCommit (s : State) : Bool :=
  decide (s.rcv.phase = .committing) && (s.agreed || (!s.rcv.mustRoll && s.handedNewer.isNone))

/-- `SEAL_COMMIT`: COMMIT, with the time from stop to commit in ns. -/
def execSealCommit (ns : Nat) (s : State) : Host.Outcome State Fault Refusal :=
  s.finish (
    if s.leads then (if s.mayCommit then s.work.commitSeal ns else s.work)
    else
      let w := s.work.mod State.heardSeal
      if s.rcv.phase = .ready then w.commitSeal ns else w)

/-- `INITIAL_SEAL`: the resident operating system reports ready; interval 0 seals, and the virtual functions are exposed (R335). -/
def execInitialSeal (s : State) : Host.Outcome State Fault Refusal :=
  s.finish (
    if s.rcv.committed.isSome ∨ s.mgmt.booted.isNone ∨ s.mgmt.sysOn = 0 then s.work
    else
      let im := s.work.imageOf s.rin.toNat
      (s.work.mod fun t =>
        { t with rin := t.rin + 1, mgmt := { t.mgmt with vfsExposed := true },
                 rcv := { t.rcv with phase := .committing, pending := some im } }).commitFree)

/-! ### Rollback (R341) -/

/-- Whether a context is in ending or ended now: a rollback leaves it (R259). -/
def State.lost (s : State) (ctx : Nat) : Bool :=
  s.ctxs.any fun c => decide (c.num = ctx) && (decide (c.state = .ending) || decide (c.state = .ended))

/-- Whether a context of now is one of an image: the number and the incarnation are the same, and its end has not come (R259). -/
def State.same (s : State) (im : Image) (ctx : Nat) : Bool :=
  s.ctxs.any fun c => decide (c.num = ctx) && im.ctxs.any fun e => decide (e.num = c.num) && decide (e.inc = c.inc)
def State.stands (s : State) (im : Image) (ctx : Nat) : Bool := !s.lost ctx && s.same im ctx

/-- Undo entries applied newest first: bytes to memory, tags to their lines; an entry with an error restores its line poisoned. -/
def Work.undoLines (w : Work) (heath : Bool) (l : List Undo) : Work :=
  match l with
  | [] => w
  | u :: rest =>
    let t : Tgt := if heath then .hm else .fm
    let tags := { u.old with poison := u.old.poison || u.bad }
    ((w.put (.put t (64 * u.line) u.bytes 0 true)).mod fun s =>
      s.withLines heath (setLine (s.lines heath) u.line tags)).undoLines heath rest

/-- A context as a rollback leaves it: VALID and SEALRIN stand as they are now (R261), the dumps written since the seal are undone with their
count, and those released since stay released (R293, log 43). One created since the seal returns to created; one whose end came first stays
ended. -/
def rolledCtx (s : State) (im : Image) (c : Ctx) : Ctx :=
  if s.lost c.num then c
  else
    match im.ctxs.find? fun e => decide (e.num = c.num) && decide (e.inc = c.inc) with
    | some e =>
      { e.sealedImages with
        valid := c.valid, sealrin0 := c.sealrin0, sealrin1 := c.sealrin1, saveCores := c.saveCores,
        dumps := c.dumps.map fun d => d.filter fun x => e.dumps.contains (some x) }
    | none => { c with state := .created, images := [], dumps := c.dumps.map fun _ => none, dumped := 0, lost := 0 }

/-- The contexts after a rollback: those of now, and those of the image that are gone since, ended. -/
def rolledCtxs (s : State) (im : Image) : List Ctx :=
  s.ctxs.map (rolledCtx s im) ++
    ((im.ctxs.filter fun e => !(s.ctxs.any fun c => decide (c.num = e.num))).map fun e => { e with state := .ended, images := [] })

/-- A queue after a rollback. -/
def rolledQueue (s : State) (im : Image) (q : Queue) : Queue :=
  if s.lost q.ctx then q
  else
    match im.queues.find? fun e => decide (e.hw = q.hw) && decide (e.ctx = q.ctx) && s.same im q.ctx with
    | some e => { e with weight := q.weight, tickets := q.tickets }
    | none => { q with state := .idle, kernels := [], lastKid := none }

/-- A Heath command reissued from the image, its tag clear (R340). -/
def HCmd.reissue (c : HCmd) : HCmd :=
  match c.body with
  | .query k b fw v _ _ bad => { c with body := .query k b fw v .issued b.offset bad }
  | _ => c

/-- A page of a context that a rollback leaves as it is, pinned by the queries that are in flight then (R311, R354). -/
def rolledPage (l : List HCmd) (p : PageSt) : PageSt :=
  { p with pins := (l.filter fun c => decide (c.ctx = p.ctx) && c.isQuery && c.pages.any fun e => decide (e.1 = p.page)).length }

/-- The parts of the state that come from the images. What belongs to a context in ending or ended stays as it is (R259), but for its Heath
commands: those in flight at the seal are issued again while it is ending, and later ones are gone (R340, R354). Nothing of an earlier incarnation
of a number comes back. -/
def State.fromImage (s : State) (im : Image) : State :=
  let ours := s.stands im
  let ending := fun (ctx : Nat) => s.same im ctx && s.ctxs.any fun c => decide (c.num = ctx) && decide (c.state = .ending)
  let queries := (im.queries.filter fun c => ours c.ctx || ending c.ctx).map HCmd.reissue
  { s with
    strand := {}, parked := ((im.strands.filter fun t => ours t.g.ctx).map Strand.sealRecord) ++ s.strands.filter fun t => s.lost t.g.ctx,
    groups := (im.groups.filter fun g => ours g.place.ctx) ++ s.groups.filter fun g => s.lost g.place.ctx,
    kernels := (im.kernels.filter fun k => ours k.ctx) ++ s.kernels.filter fun k => s.lost k.ctx,
    queues := s.queues.map (rolledQueue s im),
    ctxs := rolledCtxs s im,
    mbars := im.mbars, dbars := im.dbars, rings := im.rings, farPuts := [],
    cmds := im.cmds.filter fun c => ours c.ctx,
    queries := queries,
    pages := (im.pages.filter fun p => ours p.ctx) ++ (s.pages.filter fun p => s.lost p.ctx).map (rolledPage queries),
    cores := s.cores.map fun c =>
      match im.cores.find? fun e => decide (e.id = c.id) with
      | some e => { c with tiles := e.tiles, owner := e.owner, dirtyTake := e.dirtyTake, dirtySeal := [], reclaim := e.reclaim }
      | none => { c with tiles := Vector.replicate 4 0, owner := none, dirtyTake := [], dirtySeal := [], reclaim := .none } }

/-- Host commands whose effect the rollback undid have no reply yet: the firmware performs them again (R393). -/
def State.redoHost (s : State) : State :=
  { s with fns := s.fns.map fun f =>
      { f with cmd := f.cmd.map fun c =>
          if c.again.isSome && c.sealAt.isSome && !(c.sealAt.any s.sealedUpTo) then
            { c with status := none, reply := [], sealAt := none, done := 0, seen := [], redo := true }
          else if c.status.isNone then { c with done := 0, seen := [] }
          else c } }

/-- The owner that a line's tag names ended for an unrebuildable error (R344): a live incarnation with a dump, for the consuming strand's group
where it is that context's own; all contexts for a device tag. -/
def Work.endOwner (w : Work) (owner : BitVec 12) (reason : Nat) (tval : W64) (consumer : Option Strand) : Work :=
  let o := owner.toNat
  let one := fun (k : Work) (ctx : Nat) =>
    match consumer.filter fun t => decide (t.g.ctx = ctx) with
    | some t => k.endForFault ctx reason tval (k.st.group? t.g.gid) (some t.sid) false
    | none => k.endForFault ctx reason tval none none false
  if o % 64 = 0 then
    ((w.st.ctxs.map (·.num)).foldl one w).mod fun s =>
      { s with mgmt := { s.mgmt with failed := true, faultLog := s.mgmt.faultLog ++ [reason] } }
  else if w.st.ctxs.any fun c => decide (c.num = o / 64) && decide (c.inc = o % 64) then one w (o / 64)
  else w

/-- Owners of lines that bad entries restored, ended after the rollback (Table 18.3). -/
def Work.endRestored (w : Work) (heath : Bool) (l : List Undo) : Work :=
  (l.filter (·.bad)).foldl (fun k u => k.endOwner (k.st.line heath u.line).owner 5 (BitVec.ofNat 64 (64 * u.line)) none) w

/-- The undo entries that a rollback to the seal of n leaves; those that a snapshot stream retains stand as of n (R346). -/
def leftEntries (n : Nat) (l : List Undo) : List Undo :=
  (l.filter fun u => !later u.interval n || u.retained).map fun u => if later u.interval n then { u with interval := n } else u

/-- Flits to members that no rollback sends on: writes, atomics and copies of undone intervals that have never left their port. -/
def Port.unsend (p : Port) : Port :=
  { p with queue := p.queue.take p.owed ++ (p.queue.drop p.owed).filter fun f =>
      match f.dest with
      | some (false, _) => decide (6 < f.kind) || decide (f.kind < 3)
      | _ => true }

/-- The banks of the cores after a rollback (R238): those of a core that hosts a group again are awake, others that sleep stay cleared. -/
def Work.settleBanks (w : Work) : Work :=
  (w.st.cores.filter fun c => decide (c.banksOff ≠ 0)).foldl (fun (k : Work) c =>
    if (k.st.groupsOn c.id).isEmpty then
      (k.clearBanks c.id c.banksOff).mod fun s => s.setCore { s.core c.id with dirtySeal := List.range 1024 }
    else k.mod fun s => s.setCore { s.core c.id with banksOff := 0 }) w

/-- What cores still have of contexts that an image names and that stand no more (R258, R259). -/
def Work.dropOthers (w : Work) (gone : List Nat) : Work :=
  gone.foldl (fun (k : Work) n => (k.leaveCores n).mod fun s =>
    { s with cores := s.cores.map fun c => { c with reclaim := c.reclaim.without n } }) w

/-- The rollback to the last committed seal, `begun` the intervals begun on the other members. -/
def Work.returnTo (w : Work) (im : Image) (begun : List Nat) : Work :=
  let n := im.interval
  let undone := fun (l : List Undo) => (l.filter fun u => later u.interval n).reverse
  let uf := undone w.st.undoF
  let uh := undone w.st.undoH
  let good := fun (e : Bool × Nat) => !((if e.1 then uh else uf).any fun u => decide (u.line = e.2))
  let highest := begun.foldl (fun a b => if later b a then b else a) w.st.rin.toNat
  let w1 := (w.undoLines false uf).undoLines true uh
  let w2 := im.sp.foldl (fun (k : Work) c => k.put (.put .sp c.1 [c.2] 0 true)) (w1.put (.clear .sp 0 (144 * 2 ^ 22)))
  let numbers := (w.st.ctxs ++ im.ctxs).map (·.num)
  let others := (numbers.filter fun c => !w.st.stands im c).eraseDups
  let w3 := w2.mod fun s =>
    let s0 := others.foldl State.unbindAll (s.fromImage im)
    let s1 := s0.mapStrands s0.sampled
    { s1 with
      undoF := leftEntries n s1.undoF, undoH := leftEntries n s1.undoH,
      hold := s1.hold.filter fun h => !later h.interval n,
      slots := s1.slots.map fun q => if later q.interval n then { q with owner := none } else q,
      resting := s1.resting.filter fun e => !later e.2 n,
      ports := s1.ports.map Port.unsend,
      tlb := [], walks := [], rin := BitVec.ofNat 32 (highest + 1),
      mgmt := { s1.mgmt with recovering := true, replay := im.replay, order := im.order },
      rcv := { s1.rcv with
        phase := .running, sealing := none, resumed := false, pending := none, nextRequest := false, joining := false, asked := [],
        requested := s1.snapDue || s1.rcv.mapChange.isSome,
        readyFrom := [], snapAt := if s1.rcv.snap then s1.rcv.snapAt else none, mustRoll := false, why := none, due := [],
        oldBad := s1.rcv.oldBad.filter good, handed := s1.rcv.handed.filter fun e => good e || (s1.line e.1 e.2).poison,
        rollbacks := min 255 (s1.rcv.rollbacks + 1),
        rollLog := s1.rcv.rollLog ++ [⟨n, (s1.rcv.why.map (·.1)).getD 0, s1.rcv.why.map (·.2)⟩] } }
  let w4 := ((w3.dropOthers (others.filter fun c => !w.st.lost c)).settleBanks).mod fun s => (((s.changeService).event (fun _ => true) 6).redoHost).capture 0 (.rollback n)
  let w5 := w4.st.ctxs.foldl (fun (k : Work) c => (k.emptyRecords c).dumpHead c.num) w4
  (w5.endRestored false uf).endRestored true uh

/-- A rollback; none without a seal. A seal whose COMMIT the coordinator has sent commits first (R337). -/
def Work.rollback (w : Work) (begun : List Nat) : Work :=
  let k := if w.st.agreed then w.commitFree else w
  match k.st.rcv.committed with
  | none => k.mod fun s => { s with rcv := { s.rcv with mustRoll := false, why := none } }
  | some im => k.returnTo im begun

/-- `ROLLBACK`: the coordinator has gathered the intervals begun on the members. -/
def execRollback (begun : List Nat) (s : State) : Host.Outcome State Fault Refusal := s.finish (s.work.rollback begun)

/-- `SEAL_ABORT`: an ABORT has come: the rollback of every member is due (R337). To a module that stands alone and asks none it only says that the
domain that has called it goes on without it (log 58). -/
def execSealAbort (s : State) : Host.Outcome State Fault Refusal :=
  let w := s.work.mod State.heardSeal
  s.finish (
    if s.agreed then w
    else if s.mayJoin && s.rcv.asked.isEmpty then w.mod fun t => { t with rcv := { t.rcv with called := none } }
    else w.mod State.mustReturn)

/-- `SEAL_READY_TIMEOUT`: 1 ms after PREPARE a READY is missing; the silent modules are failed, and the seal is aborted. -/
def execSealReadyTimeout (s : State) : Host.Outcome State Fault Refusal :=
  s.finish (
    if !s.leads ∨ s.rcv.sealing.isNone ∨ s.rcv.phase = .committing then s.work
    else
      let missing := s.sealWith.filter fun m => decide (m ≠ s.domain.self) && !s.rcv.readyFrom.contains m
      if missing.isEmpty then s.work
      else if s.others.isEmpty then s.work.mod fun t => (t.dropAsked).decideCommit
      else s.work.mod fun t => (missing.foldl State.declareFailed t).mustReturn)

/-- `COORDINATOR_TIMEOUT`: a coordinator silent for 1 ms is replaced; the new one aborts a seal without a COMMIT. -/
def execCoordinatorTimeout (s : State) : Host.Outcome State Fault Refusal :=
  s.finish (
    if s.leads then s.work
    else s.work.mod fun t =>
      let k := t.declareFailed t.coordinator
      if k.leads ∧ k.rcv.sealing.isSome then k.mustReturn else k)

/-- Lines of a snapshot with the poison bit set where the stream could not rebuild them (R346). -/
def poisonLines (heath : Bool) (bad : List (Bool × Nat)) (l : List (Nat × Line)) (idle : Line) : List (Nat × Line) :=
  (bad.filter fun e => decide (e.1 = heath)).foldl (fun k e => setLine k e.2 { lineOf k idle e.2 with poison := true }) l

/-- The lines that a snapshot's stream cannot rebuild (R346): those whose stored words no longer correct where no retained entry holds them, and
those whose retained entry is bad, or was when it was logged. -/
def State.unrebuildable (s : State) : List (Bool × Nat) :=
  let held := fun (heath : Bool) => (s.undo heath).filter (·.retained)
  (s.rcv.oldBad.filter fun e => !(held e.1).any fun u => decide (u.line = e.2)) ++
    ([false, true].flatMap fun heath => ((held heath).filter fun u => u.bad || u.old.poison).map fun u => (heath, u.line))

/-- The slots of a snapshot, field memory's 2 MiB blocks before the Heath's, each with the next of the values that the stream's begin reserved
(R314, R346, log 19). -/
def Work.snapshotOut (w : Work) (p : Snap) : Work :=
  let fmSlots := 384 * 2 ^ 30 / pageLen
  (List.range snapshotSlots).foldl (fun (k : Work) i =>
    let text := if i < fmSlots then Mem.readN p.fm (i * pageLen) pageLen else Mem.readN p.hm ((i - fmSlots) * pageLen) pageLen
    k.slotOut ⟨i, 0, i * pageLen, p.image.interval, k.st.rcv.snapNonce + 1 + i, text⟩) w

/-- `SNAPSHOT_STREAM_END`: the slots hold the module as it stood at the commit, a line that does not rebuild with its poison bit set; retained
entries go (R346). -/
def execSnapshotStreamEnd (s : State) : Host.Outcome State Fault Refusal :=
  s.finish (
    if !s.rcv.snap ∨ !s.safePath then s.work
    else ((s.rcv.snapAt.map s.work.snapshotOut).getD s.work).mod fun t =>
      let n := t.rcv.sealed.getD 0
      let bad := t.unrebuildable
      let keep := fun (l : List Undo) => (l.filter fun u => !u.retained || later u.interval n).map fun u => { u with retained := false }
      let idle : Line := { stamp := t.idleStamp }
      { t with
        undoF := keep t.undoF, undoH := keep t.undoH,
        fns := t.fns.map fun f =>
          if t.rcv.snapFn = some f.num then
            { f with cmd := f.cmd.map fun c => if c.opc = 0x50 then { c with status := some 0 } else c }
          else f,
        rcv := { t.rcv with
          snap := false, snapBad := bad, snapFn := none, snapAt := none,
          tier := t.rcv.snapAt.map fun p =>
            { p with fmLine := poisonLines false bad p.fmLine idle, hmLine := poisonLines true bad p.hmLine idle } } })

/-! ### Containment (R342 to R344, R398) -/

/-- A strip rewind (R143): the checkpoint's loop stands again. What a trap has put aside for its return stays (R128). -/
def Work.rewind (w : Work) (c : Ckpt) : Work :=
  (w.upd fun t =>
    let t1 := c.xs.foldl (fun (k : Strand) e => k.wx (BitVec.ofNat 5 e.1) e.2) t
    { t1 with
      fflags := c.fflags, vl := c.vl, vtype := c.vtype, vslab := 0, vstart := 0, done := Vector.replicate 4 0, carry := .none,
      snap := none, buf := [], buffering := false, rewound := true, redo := true, pc := t.stripPc, loop := c.loop,
      waiting := .none, waitT := 0 }).mod fun s => s.event (fun t => decide (t.sid = w.cur.sid)) 5

/-- A failing unit marked, and whether it is (R343): its core retires it when it next has no groups. -/
def State.retireUnit (s : State) (site : ErrSite) : State :=
  match site with
  | .laneGroup core lg => s.setCore { s.core core with retireLanes := (s.core core).retireLanes ||| BitVec.ofNat 16 (2 ^ lg) }
  | .mirrorPair core p =>
    s.setCore { s.core core with retireLanes := (s.core core).retireLanes ||| BitVec.ofNat 16 (2 ^ p + 2 ^ (p + 8)) }
  | .matrixHalf core _ => s.setCore { s.core core with retireMx := true }
  | .bank core b => s.setCore { s.core core with retireBanks := (s.core core).retireBanks ||| BitVec.ofNat 32 (2 ^ b) }
  | _ => s
def State.unitFailed (s : State) (site : ErrSite) : Bool :=
  match site with
  | .laneGroup core lg => (s.core core).retireLanes.getLsbD lg
  | .mirrorPair core p => (s.core core).retireLanes.getLsbD p
  | .matrixHalf core _ => (s.core core).retireMx
  | .bank core b => (s.core core).retireBanks.getLsbD b
  | _ => false

/-- Whether a site is persistent: consumed since the last commit, or marked failed before and still in use (R343). -/
def State.persists (s : State) (site : ErrSite) : Bool := s.rcv.sites.contains site || s.unitFailed site

/-- A line poisoned, its owner ended, and the trap to the consuming strand where its context still stands. -/
def Work.endLine (w : Work) (heath : Bool) (n : Nat) (trap : Trap) : Work :=
  let t := w.cur
  let owner := (w.st.line heath n).owner
  ((w.mod fun s => s.poisonLine heath n).endOwner owner trap.code trap.tval (some t)).onStrand t.sid fun k =>
    if k.cur.ended then k else k.takeTrap false trap

/-- What a persistent site brings (R343): the line's end, or the unit marked and the trap. -/
def Work.persistent (w : Work) (site : ErrSite) (trap : Trap) : Work :=
  match site with
  | .line h n => w.endLine h n trap
  | _ => (w.mod fun s => s.retireUnit site).takeTrap false trap

/-- Table 18.3 for the strand in front: a persistent site first (R343), then a strip that may be rewound (R143). -/
def Work.consume (w : Work) (site : ErrSite) (addr : W64) (mismatch : Bool) : Work :=
  let t := w.cur
  let trap : Trap := ⟨if mismatch then 7 else 5, 0, addr⟩
  if w.st.rcv.committed.isSome && w.st.persists site then w.persistent site trap
  else
    match (if t.buffering && !t.rewound then t.ckpt else none) with
    | some c => w.rewind c
    | none =>
      if w.st.rcv.committed.isNone then w.takeTrap false trap
      else
        match site with
        | .line h n => if w.st.lineNewer h n then w.contain trap.code site else w.endLine h n trap
        | _ => w.contain trap.code site

/-- The oldest command of a strand's channel that has accesses to make. -/
def State.memoryCmd (s : State) (sid ch : Nat) : Option Cmd := s.oldestCmd sid fun c => decide (c.ch = ch) && !c.landed

/-- A strand's last delivery, as an error consumed at an address. -/
def Strand.lastAs (t : Strand) (addr : W64) : Strand :=
  { t with deliver := t.deliver.dropLast ++ (t.deliver.getLast?.map fun d => { d with code := 5, tval := addr }).toList }

/-- A command that reads a line gone bad, poisoned now: an atomic or a put is dropped (R398), a copy whose walk reads it is suspended (R206,
R309). An atomic or a put that does not read it stays. -/
def Work.spoilCmd (w : Work) (c : Cmd) (addr : W64) : Work :=
  w.onCmd c fun k =>
    let drop := fun (j : Work) => if j.cur.deliver.length = k.cur.deliver.length then k else j.upd fun t => t.lastAs addr
    match c.body with
    | .copy tag b p _ _ =>
      (k.setBody c.uid (.copy tag b p (some ⟨5, 0, addr⟩) .moving)).pendDelivery ⟨false, tag, 5, 0, addr, true, none⟩
    | .atom _ _ _ _ _ _ _ => drop (k.performAtom c)
    | .put _ _ => drop (k.performPut c)
    | .rest _ _ _ _ => k

/-- A command at memory consumes an error in a line that it reads (R309, R398): a newer line forces a rollback, an older one, or one consumed
again, is poisoned, its owner is ended, and the command is spoilt. -/
def Work.consumeCmd (w : Work) (sid ch : Nat) (heath : Bool) (n : Nat) (addr : W64) : Work :=
  match w.st.memoryCmd sid ch with
  | none => w
  | some c =>
    if !c.mayMove w.st then w
    else if w.st.rcv.committed.isSome && w.st.lineNewer heath n && !w.st.rcv.sites.contains (.line heath n) then
      w.contain 5 (.line heath n)
    else
      let owner := (w.st.line heath n).owner
      let k := (w.mod fun s => s.poisonLine heath n).spoilCmd c addr
      if k.st.cmds = w.st.cmds then w else k.endOwner owner 5 addr (w.st.strands.find? fun t => decide (t.sid = sid))

/-- An error in a context's save area ends it (R264, R269): the dump is for the group that was being saved or restored, whose record is lost
where it was being read. -/
def Work.loseSave (w : Work) (ctx sid : Nat) (addr : W64) : Work :=
  let who := (w.st.group? (sid / 4)).filter fun g => decide (g.place.ctx = ctx)
  w.endForFault ctx 0x41 addr who (some sid) ((who.map fun g => g.saved.isSome).getD false)

/-- An error in a dump region: the dump is lost, and the flash log has a record (R270). -/
def Work.loseDump (w : Work) (ctx : Nat) : Work :=
  (w.mod fun s => { s.mapCtx ctx fun c => { c with lost := c.lost + 1 } with
    mgmt := { s.mgmt with faultLog := s.mgmt.faultLog ++ [0x42] } }).dumpHead ctx

/-- `UE_CONSUMED`: an uncorrectable error, or a mismatch of protected mode, is consumed by a strand, by the command at the head of
its channel `ch`, or in the undo log, a save area or a dump region; or a line's words are past correction before its next write. -/
def execUeConsumed (sid : Nat) (site : ErrSite) (addr : W64) (mismatch : Bool) (ch : Option (BitVec 2)) (s : State) :
    Host.Outcome State Fault Refusal :=
  let w := s.work
  s.finish (
    match site, ch with
    | .undoLog heath i, _ => w.mod fun t =>
        t.withUndo heath ((t.undo heath).zipIdx.map fun e => if e.2 = i then { e.1 with bad := true } else e.1)
    | .oldLine heath n, _ => w.mod fun t =>
        { t with rcv := { t.rcv with oldBad := (heath, n) :: t.rcv.oldBad.filter fun e => decide (e ≠ (heath, n)) } }
    | .saveArea ctx, _ => w.loseSave ctx sid addr
    | .dumpRegion ctx, _ => w.loseDump ctx
    | .line heath n, some c => w.consumeCmd sid c.toNat heath n addr
    | _, some _ => w
    | _, none => w.onStrand sid fun k => if k.cur.live && !k.cur.ended then k.consume site addr mismatch else k)

/-- Copy errors consumed at tag waits at persistent sites answered (R207, R343). -/
def Work.answerDue (w : Work) : Work :=
  w.st.rcv.due.foldl (fun (k : Work) d => k.onStrand d.sid fun j => if j.cur.ended then j else j.persistent d.site ⟨5, 0, d.addr⟩)
    (w.mod fun s => { s with rcv := { s.rcv with due := [] } })

/-- A command whose answer a closed window has lost (R324, log 6): an atomic or a put is gone with its request, a copy makes the accesses of its
element group again, and faults. -/
def Work.loseAnswer (w : Work) (c : Cmd) : Work :=
  let cutOff := fun (m : Nat) => (w.st.primary false m).isNone && !w.st.inTraining false m
  match c.body with
  | .copy tag b p none .asked => w.onCmd c fun k =>
      let closed := (b.runs p (k.cur.slabOf b)).any fun r =>
        match copySite k r.src .copyRead with
        | .error _ => true
        | .ok _ => false
      if closed then k.setBody c.uid (.copy tag b p none .moving) else k
  | .atom _ _ _ _ (some m) _ true => if cutOff m then w.doneCmd c.uid else w
  | .put p true =>
    match putSite p p.fill with
    | .remote m _ => if cutOff m then w.doneCmd c.uid else w
    | _ => w
  | .rest asks va pages fire =>
    let left := asks.filter fun m => !cutOff m
    if left.isEmpty && fire.isNone && w.st.carried c.uid then w.doneCmd c.uid
    else if left = asks then w else w.setBody c.uid (.rest left va pages fire)
  | _ => w

/-- What follows at once from a step: those errors, answers that are lost, puts of other modules that are now whole, and what the module does by
itself. -/
def Work.aftermath (w : Work) : Work :=
  let k := w.answerDue.st.cmds.foldl Work.loseAnswer w.answerDue
  k.answerPuts.housekeep

/-! ### The scrubber (R331, R345) -/

/-- The core of a unit. -/
def siteCore (e : ErrSite) : Option Nat :=
  match e with
  | .laneGroup c _ => some c
  | .matrixHalf c _ => some c
  | .mirrorPair c _ => some c
  | .bank c _ => some c
  | .scalarReg c => some c
  | _ => none

/-- A line that the scrubber has done with. -/
def State.unhand (s : State) (e : Bool × Nat) : State :=
  { s with rcv := { s.rcv with handed := s.rcv.handed.filter fun x => decide (x ≠ e) } }

/-- An uncorrectable error found in a line (R345): the next seal must not seal what is newer than the last, and a line that was handed stays
so until the rollback restores it; the owner of an older line is ended (R344). A Heath line is latched in HBERR where no bank has (R357),
with COLUMN 0, since no record is read. DESIGN CHOICE (log 72). -/
def Work.scrubbed (w : Work) (heath : Bool) (line : Nat) : Work :=
  let (tags, old) := w.st.judged heath line
  let latches := heath && (old || !w.st.rcv.handed.contains (heath, line))
  let k := if latches then w.mod fun t => t.latch (heathBank (64 * line)) 0 (bankLine (64 * line)) else w
  if w.st.rcv.committed.isSome && w.st.stampNewer tags.stamp then k.contain 5 (.line heath line)
  else
    ((if old then k else k.mod fun t => t.poisonLine heath line).endOwner tags.owner 0x40 (BitVec.ofNat 64 (64 * line)) none).mod
      fun t => t.unhand (heath, line)

/-- The scrubber's visit to a line that was handed to it, made before the seal (R374). A member that has sent READY asks for ABORT too. -/
def Work.scrubHanded (w : Work) (e : Bool × Nat) : Work :=
  let k := w.scrubbed e.1 e.2
  if w.st.rcv.phase = .ready ∧ !w.st.leads then k.mod fun t => t.tell t.coordinator 3 (t.rcv.sealing.getD t.rin.toNat) else k

/-- `SCRUBBER_VISIT`: the stamp of a line kept young; an uncorrectable error in it, or in an array or a bank of a core with groups, is
handled, and so is a line that was handed as bad and newer, whatever its words say now (R374). -/
def execScrubberVisit (heath : Bool) (line : Nat) (found : Scrub) (s : State) : Host.Outcome State Fault Refusal :=
  let old := s.line heath line
  let w := s.work.mod fun t =>
    if 96 < t.age old.stamp then t.withLines heath (setLine (t.lines heath) line { old with stamp := t.young old.stamp }) else t
  let newer := s.rcv.committed.isSome && s.rcv.handed.contains (heath, line) && (s.judged heath line).1.poison &&
    s.stampNewer (s.judged heath line).1.stamp
  let good := fun (k : Work) => if newer then k.scrubHanded (heath, line) else k.mod fun t => t.unhand (heath, line)
  s.finish (
    match found with
    | .uncorrectable => w.scrubbed heath line
    | .unit site =>
      if s.rcv.committed.isSome && ((siteCore site).map fun c => !(s.groupsOn c).isEmpty).getD false then w.contain 5 site else w
    | .clean => good w
    | .corrected => good w)

/-! ### RCVSTAT (R347) -/

def Phase.code (p : Phase) : Nat :=
  match p with
  | .running => 0
  | .stopping => 1
  | .writing => 2
  | .ready => 3
  | .committing => 4

/-- Register RCVSTAT (Table 18.4): PHASE reads 5 while a rollback is due, and COORD 1 on the coordinator once there is a seal (log 3). -/
def State.rcvstat (s : State) : W64 :=
  let r := s.rcv
  BitVec.ofNat 64 (r.rollbacks * 2 ^ 56 + r.early * 2 ^ 48 + 100 * s.undoF.length / Config.undoCapF * 2 ^ 40 +
    100 * s.undoH.length / Config.undoCapH * 2 ^ 32 + (if r.mustRoll then 5 else r.phase.code) * 2 ^ 24 + r.snap.toNat * 2 ^ 23 +
    (s.leads && r.sealed.isSome).toNat * 2 ^ 22 + r.sealns)

end Sys2Proof.Machine
end

