-- ==== Sys2Proof/Machine/Links.lean ====
section
/-! DEFINITION. Jeore ports, flits and remote accesses as they arrive, and the host link (spec/17 R319 to R328). -/

namespace Sys2Proof.Machine

/-! ### Retry (R322) -/

/-- Whether sequence number `a` stands at or before `b`. -/
def seqLe (a b : BitVec 16) : Bool := decide ((b - a).toNat < 32768)

/-- The flits that an acknowledge of `seq` leaves in the replay buffer. -/
def Port.acked (p : Port) (seq : BitVec 16) : Port := { p with replay := p.replay.filter fun f => !seqLe f.seq seq }

/-- Flits that another port hands over: those sent before behind what the port owes, the new ones ahead of its own. -/
def Port.takeOver (p : Port) (sent new : List Flit) : Port :=
  { p with queue := p.queue.take p.owed ++ sent ++ new ++ p.queue.drop p.owed, owed := (p.queue.take p.owed).length + sent.length }

/-- What a port holds for modules whose primary port is another one goes there: first, in sequence order, what has been sent and not acknowledged
where the port has left up and degraded, then what waits behind (R323). -/
def State.reroute (s : State) (n : Nat) : State :=
  let p := s.port n
  let next := fun (f : Flit) => (s.firstUsable f.route).filter fun m => decide (m ≠ n)
  let goes := fun (l : List Flit) => l.filter fun f => (next f).isSome
  let stay := fun (l : List Flit) => l.filter fun f => (next f).isNone
  let kept := if p.usable then [] else p.replay
  let owed := p.queue.take p.owed
  let new := p.queue.drop p.owed
  let s1 := s.setPort n { p with
    replay := if p.usable then p.replay else stay p.replay, queue := stay owed ++ stay new, owed := (stay owed).length }
  (((goes (kept ++ p.queue)).filterMap next).eraseDups).foldl (fun k m =>
    let mine := fun (l : List Flit) => l.filter fun f => decide (next f = some m)
    k.setPort m ((k.port m).takeOver (mine kept ++ mine owed) (mine new))) s1
def State.rerouteAll (s : State) : State := ((List.range 12).foldl State.reroute s).pumpAll

/-- A port that goes to training; its replay buffer is kept (Table 17.2). -/
def State.retrain (s : State) (n : Nat) : State :=
  if (s.port n).usable then
    (s.setPort n { s.port n with state := .training, refusals := 0, rxRefusals := 0 }).rerouteAll
  else s

/-- How often in a row a sequence number has been refused; the sixteenth time the port retrains (R322). -/
def State.counted (s : State) (n count : Nat) : State :=
  let s1 := s.setPort n { s.port n with retries := min 65535 ((s.port n).retries + 1) }
  if 16 ≤ count then s1.retrain n else s1

/-- A negative acknowledge received: the far end has refused a number of this port's. -/
def State.refusedThere (s : State) (n : Nat) (seq : BitVec 16) : State :=
  let p := s.port n
  let count := if p.refusedSeq = seq then p.refusals + 1 else 1
  (s.setPort n { p with refusals := count, refusedSeq := seq }).counted n count

/-- A negative acknowledge sent: this end has refused the next number. -/
def State.refusedHere (s : State) (n : Nat) : State :=
  let p := s.port n
  let seq := p.rxSeq + 1
  let count := if p.rxRefusedSeq = seq then p.rxRefusals + 1 else 1
  (s.setPort n { p with rxRefusals := count, rxRefusedSeq := seq }).counted n count

/-- `JEORE_ACK`: the flits up to `seq` are free, and those that wait for room follow. -/
def execJeoreAck (port : Nat) (seq : BitVec 16) (s : State) : Host.Outcome State Fault Refusal :=
  s.finish (
    if (s.port port).usable then (s.work.mod fun t => (t.setPort port ((t.port port).acked seq)).pumpAll).settle else s.work)

/-- `JEORE_NAK`: `last` is the last good number; the sender replays from the next one. -/
def execJeoreNak (port : Nat) (last : BitVec 16) (s : State) : Host.Outcome State Fault Refusal :=
  s.finish (
    if (s.port port).usable then
      (s.work.mod fun t =>
        let p := (t.port port).acked last
        (({ t.setPort port p with sent := t.sent ++ p.replay.map fun f => (port, f) }).pumpAll).refusedThere port (last + 1)).settle
    else s.work)

/-- `JEORE_FLIT_BAD`: the flit is dropped, and a negative acknowledge names the last good one. -/
def execJeoreFlitBad (port : Nat) (s : State) : Host.Outcome State Fault Refusal :=
  s.finish (
    if (s.port port).usable then
      s.work.mod fun t =>
        let nak : Flit := ⟨none, 2, 0, 0, (t.port port).rxSeq, 0, 0, [], []⟩
        ({ t with sent := t.sent ++ [(port, nak)] }).refusedHere port
    else s.work)

/-! ### Remote accesses that arrive (R326) -/

/-- `JEORE_REMOTE_WRITE`: performed and logged here, with the owner tag of the writer; a full log or a stack still to start holds
it. -/
def execJeoreRemoteWrite (port : Nat) (heath : Bool) (addr : Nat) (bytes : List Byte) (owner : BitVec 12) (s : State) :
    Host.Outcome State Fault Refusal :=
  let p : Site := .mem (if heath then .hm else .fm) addr
  s.finish (
    if (s.port port).usable ∧ bytes.length ≤ 240 ∧ (s.work.storeWait 64 0 p bytes.length).isNone then
      ((s.work.mod fun t => t.received port 0).note p).put (.put (if heath then .hm else .fm) addr bytes owner false)
    else s.work)

/-- An atomic asked of this module performed at its field memory, or refused at a poisoned line. -/
def Work.farAtomic (w : Work) (port : Nat) (op : AtomOp) (wide : Bool) (addr : Nat) (b c : W64) (sid uid : Nat) (owner : BitVec 12) :
    Work :=
  let n := atomSize wide
  let old := leNat (w.bytes .fm addr n)
  if w.st.poisoned (.mem .fm addr) then w.mod fun t => t.answerAtomic port addr old 0 6 sid uid
  else
    let (new, fl) := atomNew op wide old (atomOperand wide b) (atomOperand wide c)
    let k := match new with
      | some v => w.put (.put .fm addr (leBytes n v) owner false)
      | none => w
    k.mod fun t => t.answerAtomic port addr old fl 0 sid uid

/-- A put asked of this module's combiner, with its row's bytes under the strand's owner tag (log 18). It is answered once what it writes
elsewhere is performed there (R377). -/
def Work.farPerform (w : Work) (port : Nat) (p : Put) (addr sid uid : Nat) (owner : BitVec 12) : Work :=
  let store := fun (k : Work) (site : Site) (bs : List Byte) =>
    match site with
    | .mem t pa => Store.mem (.put t pa bs owner false)
    | _ => k.storeAt site bs
  let old := leNat (w.bytes .fm addr 4)
  let own := w.st.nextId
  let (e, k) := putHere p store { w.mod fun s => { s with nextId := own + 1 } with src := own }
  let asks := k.st.asksOf own
  let fire := match e with
    | .probing zeros => some (p, zeros)
    | _ => none
  if asks.isEmpty && k.st.carried own then k.mod fun t => t.answerAtomic port addr old 0 e.code sid uid
  else k.mod fun t => { t with farPuts := t.farPuts ++ [⟨port, addr, old, sid, uid, own, asks, e.code, fire⟩] }

/-- An answer that a put performed here waits for has come from a module; a bad line drops the combine that it has still to fire (R398). -/
def CmdBody.answered (b : CmdBody) (m bad : Nat) : CmdBody :=
  match b with
  | .rest asks va pages fire => .rest (asks.erase m) va pages (if bad = 0 then fire else none)
  | _ => b
def FarPut.answered (p : FarPut) (m bad : Nat) : FarPut :=
  { p with asks := p.asks.erase m, bad := if p.bad = 0 then bad else p.bad, fire := if bad = 0 then p.fire else none }

/-- `JEORE_ATOMIC_REQUEST`: performed at this module's memory, and answered. A full log holds it. -/
def execJeoreAtomicRequest (port : Nat) (op : AtomOp) (wide : Bool) (addr : Nat) (b c : W64) (who : Asker) (more : AtomRest)
    (s : State) : Host.Outcome State Fault Refusal :=
  let p : Site := .mem .fm addr
  s.finish (
    if !(s.port port).usable ∨ addr % atomSize wide ≠ 0 then s.work
    else
      let len := 34 + ((more.put.map putBytes).getD []).length
      let w := (s.work.mod fun t => t.received port len).note p
      match more.put with
      | some q => if w.putFree q then w.farPerform port q addr who.sid who.uid more.owner else s.work
      | none =>
        if (w.storeWait 64 0 p (atomSize wide)).isNone then w.farAtomic port op wide addr b c who.sid who.uid more.owner else s.work)

/-- A word of a strand that waits for other modules, with one answer: the value of an atomic, or one fold of an `accm` less. -/
def Strand.answerWord (t : Strand) (old : W64) (flags : BitVec 5) (bad : Nat) : Strand :=
  match t.flight with
  | .atomic r => { t with flight := if bad = 0 then .atomicDone r old flags else .atomicBad bad r.va }
  | .folds n va => { t with flight := if bad = 0 then .folds (n - 1) va else .atomicBad bad va, fflags := t.fflags ||| flags }
  | _ => t

/-- The command of a number that another module is to answer, on its channel or in a saved group's record. -/
def State.sentCmd (s : State) (uid : Nat) : Option Cmd :=
  (s.cmds ++ (s.groups.filterMap (·.saved)).flatMap (·.cmds)).find? fun c => decide (c.uid = uid) &&
    (match c.body with
     | .atom _ _ _ _ _ _ sent => sent
     | .put _ sent => sent
     | .rest _ _ _ _ => true
     | _ => false)

/-- The virtual address that a command's delivery names. -/
def Cmd.addr (c : Cmd) : Nat :=
  match c.body with
  | .atom _ _ va _ _ _ _ => va
  | .put p _ => p.fill
  | .rest _ va _ _ => va
  | _ => 0

/-- A strand whose command has its answer: an add's flags noted, or the delivery of a bad line (R221, R398). -/
def Strand.answerCmd (t : Strand) (c : Cmd) (flags : BitVec 5) (bad : Nat) : Strand :=
  if t.sid ≠ c.gid * 4 + c.sidx then t
  else if bad = 0 then t.noteFlags c.ch flags
  else { t with deliver := t.deliver ++ [⟨true, c.ch, bad, 0, BitVec.ofNat 64 c.addr, false, none⟩] }

/-- A duplicate put, by the fill word that its answer brings. -/
def Cmd.isDup (c : Cmd) (old : W64) (bad : Nat) : Option Put :=
  match c.body with
  | .put p _ => if bad = 0 ∧ bitAt old.toNat p.rank then some p else none
  | _ => none

/-- A command answered by another module: gone, a duplicate put counted in DUP (R228), or what is left of a put with one answer less. -/
def Work.answerCmd (w : Work) (c : Cmd) (m : Nat) (old : W64) (flags : BitVec 5) (bad : Nat) : Work :=
  let (k, late, at12) := match c.isDup old bad with
    | some p =>
      if w.st.poisoned (headerSite p 12) then (w, 6, { c with body := .rest [] (p.hva + 12) [] none })
      else (w.deviceAtom .add false (headerSite p 12) 1, bad, c)
    | none => (w, bad, c)
  let less := fun (l : List Cmd) =>
    match c.body with
    | .rest _ _ _ _ => l.map fun e => if e.uid = c.uid then { e with body := e.body.answered m bad } else e
    | _ => l.filter fun e => decide (e.uid ≠ c.uid)
  k.mod fun s =>
    let s1 := s.mapStrands fun t => t.answerCmd at12 flags late
    { s1 with
      cmds := less s1.cmds,
      groups := s1.groups.map fun g =>
        { g with saved := g.saved.map fun v => { v with strands := v.strands.map fun t => t.answerCmd at12 flags late, cmds := less v.cmds } } }

/-- The modules that a command waits for. -/
def Cmd.asked (c : Cmd) : List Nat :=
  match c.body with
  | .rest asks _ _ _ => asks
  | _ => []

/-- Those of some modules that a port reaches, and one of them: which of several has answered is free (log 10). -/
def State.mayAnswer (s : State) (port : Nat) (asks : List Nat) : List Nat :=
  asks.filter fun m => (s.modulesOn port true).contains (false, m)
def Work.oneOf (w : Work) (l : List Nat) : Nat × Work := (((w.st.oneOf l).1).getD 256, w.mod fun s => (s.oneOf l).2)

/-- `JEORE_ATOMIC_RESPONSE`: the answer to a strand's word, to its command, or to a put performed here for another module. The log must have
room for a DUP that it counts (R333). -/
def execJeoreAtomicResponse (port : Nat) (who : Asker) (answer : AtomAnswer) (s : State) : Host.Outcome State Fault Refusal :=
  let w := s.work.mod fun t => t.received port 0
  s.finish (
    if !(s.port port).usable then s.work
    else if who.uid = 0 then w.mod fun t => t.mapSid who.sid fun k => k.answerWord answer.old answer.flags answer.bad
    else
      match s.sentCmd who.uid with
      | some c =>
        let (m, k) := w.oneOf (s.mayAnswer port c.asked)
        match c.isDup answer.old answer.bad with
        | some p =>
          if s.work.linesFit false (siteLines [headerSite p 12] 4) then (k.answerCmd c m answer.old answer.flags answer.bad).settle else s.work
        | none => (k.answerCmd c m answer.old answer.flags answer.bad).settle
      | none =>
        let (m, k) := w.oneOf (s.mayAnswer port ((s.farPuts.filter fun e => decide (e.own = who.uid)).flatMap (·.asks)))
        k.mod fun t =>
          { t with farPuts := t.farPuts.map fun e => if e.own = who.uid then e.answered m answer.bad else e })

/-- `JEORE_COPY_READ_REQUEST`: answered with the bytes of one element group, piece by piece as they were asked for. -/
def execJeoreCopyReadRequest (port : Nat) (first : Nat × Nat) (more : List (Nat × Nat)) (s : State) : Host.Outcome State Fault Refusal :=
  let reads := first :: more
  s.finish (
    if (s.port port).usable ∧ (reads.map (·.2)).sum ≤ 2 ^ 20 then
      let w := reads.foldl (fun (k : Work) r => k.note (.mem .fm (r.1 + r.2 - 1))) (s.work.mod fun t => t.received port (12 * reads.length))
      w.mod fun t => t.replyTo port 7 first.1 (reads.flatMap fun r => w.bytes .fm r.1 r.2)
    else s.work)

/-! ### Port states (R324) -/

/-- A trained port: SEQ counts from 0, and what it kept is sent again. What other ports hold for modules whose primary port it has become
goes there, but what a usable port has sent stays with that port until it is acknowledged (R323). -/
def State.linkUp (s : State) (port : Nat) (wide : Bool) : State :=
  let p := s.port port
  let q := { p with state := if wide then .up else .degraded, wide := wide, seq := 0, rxSeq := 0xFFFF, replay := [],
                    queue := p.replay ++ p.queue, owed := p.replay.length + p.owed, refusals := 0, rxRefusals := 0 }
  (s.setPort port q).rerouteAll

/-- `LINK_TRAINING_COMPLETE`: the port is up on 8 lanes or degraded on 4. -/
def execLinkTrainingComplete (port : Nat) (wide : Bool) (s : State) : Host.Outcome State Fault Refusal :=
  s.finish (
    if (s.port port).state = .training then ((s.work.mod fun t => t.linkUp port wide).releaseHold).settle else s.work)

/-- A port that is retired. What it has not had acknowledged it keeps for the next port of its module (R323, Table 17.2). -/
def Port.retire (p : Port) : Port := { p with state := .retired }

/-- `LINK_TRAINING_TIMEOUT`: training has not completed within 10 ms; the third failure retires the port. -/
def execLinkTrainingTimeout (port : Nat) (s : State) : Host.Outcome State Fault Refusal :=
  s.finish (
    let p := { s.port port with fails := min 3 ((s.port port).fails + 1) }
    if (s.port port).state = .training then
      s.work.mod fun t => t.setPort port (if 3 ≤ p.fails then p.retire else { p with state := .down })
    else s.work)

/-- `LINK_LANE_LOST`. -/
def execLinkLaneLost (port : Nat) (s : State) : Host.Outcome State Fault Refusal := s.finish (s.work.mod fun t => t.retrain port)

/-! ### The host link (R320) -/

def execHostLinkDown (s : State) : Host.Outcome State Fault Refusal := s.finish (s.work.mod fun t => { t with hostUp := false })

/-- `HOST_LINK_UP`: held writes of sealed intervals may leave. -/
def execHostLinkUp (s : State) : Host.Outcome State Fault Refusal :=
  s.finish (s.work.mod fun t => { t with hostUp := true }).releaseHold

/-! ### LNKSTAT (R325) -/

def PState.code (p : PState) : Nat :=
  match p with
  | .down => 0
  | .training => 1
  | .up => 2
  | .degraded => 3
  | .fenced => 4
  | .retired => 5

/-- The held writes that only their link keeps: their seal has committed, and no port of their module is usable, or the host link is not up
(R328). They count at the lowest port of the module; those for the host are the host link's status. -/
def State.linkHeld (s : State) : List Held := s.hold.filter fun h => s.sealedUpTo h.interval && !s.destUp h
def State.hostHeld (s : State) : Nat := (s.linkHeld.filter fun h => decide (h.dest = .host)).length

/-- Register LNKSTAT of a port (Table 17.3). -/
def State.lnkstat (s : State) (n : Nat) : W64 :=
  let p := s.port n
  let held := s.linkHeld.filter fun h => decide (h.dest ≠ .host) && decide (leastOf (s.heldPorts h) = some n)
  BitVec.ofNat 64 (held.length % 2 ^ 16 * 2 ^ 48 + p.retries % 2 ^ 16 * 2 ^ 32 + p.peer % 256 * 2 ^ 8 + p.fails % 4 * 2 ^ 6 + p.wide.toNat * 2 ^ 5 +
    p.state.code)

end Sys2Proof.Machine
end

