-- ==== Sys2Proof/Machine/Bringup.lean ====
section
/-! DEFINITION. Boot, staggered start, the matrix ramp, the Heath governor, heat and module reset (spec/26 R388 to R390, R396;
spec/19 R358). -/

namespace Sys2Proof.Machine

/-! ### Boot (R388, R389) -/

/-- Whether a boot slot passes its checks: its signature, and a version not below the fuse's. -/
def Mgmt.bootable (m : Mgmt) (x : BootSlot) : Bool := x.good && decide (m.fuse ≤ x.version)

/-- A slot of the flash booted. -/
def Mgmt.boot (m : Mgmt) (x : BootSlot) (isB : Bool) : Mgmt :=
  { m with booted := some x, slotB := isB, fuse := x.version, digest := Config.imageDigest x.image 0 }

/-- What the flash's two slots hold once images have been put into them from outside (log 8): none leaves a slot as it is. -/
def Mgmt.flashed (m : Mgmt) (a b : Option BootSlot) : Mgmt := { m with flashA := a.getD m.flashA, flashB := b.getD m.flashB }

/-- `MODULE_BOOT`: slot A of the flash, or slot B where a check of A fails; both failing leave BOOTFAIL. -/
def execModuleBoot (a b : Option BootSlot) (s : State) : Host.Outcome State Fault Refusal :=
  s.finish (
    if s.mgmt.booted.isSome ∨ s.mgmt.bootFail then s.work
    else
      s.work.mod fun t =>
        let m := t.mgmt.flashed a b
        { t with mgmt :=
            if m.bootable m.flashA then m.boot m.flashA false
            else if m.bootable m.flashB then m.boot m.flashB true
            else { m with bootFail := true } })

/-- When a unit starts, in 50 µs from the start of step 6 (Table 26.1). -/
def startTime (u : StartUnit) : Nat :=
  match u with
  | .heathStack k => 2 * k
  | .meadow k => 5 * k
  | .systemCores => 30

/-- Whether every Heath stack and meadow that starts before a time, or at 1,500 µs with the system cores, has started. -/
def Mgmt.startedBefore (m : Mgmt) (u : StartUnit) : Bool :=
  let due := fun (t : Nat) => decide (t < startTime u) || decide (u = .systemCores)
  (List.range 16).all (fun k => !due (2 * k) || m.stacksOn.getLsbD k) && (List.range 6).all fun k => !due (5 * k) || m.meadowsOn.getLsbD k

/-- `UNIT_START`: a unit powers on, in the order of Table 26.1; the hub, Heath stack 0 and meadow 0 start together. -/
def execUnitStart (u : StartUnit) (s : State) : Host.Outcome State Fault Refusal :=
  let m := s.mgmt
  let new : Mgmt := match u with
    | .systemCores => { m with sysOn := 0xFF }
    | .heathStack k =>
      if k = 0 then { m with hubOn := true, stacksOn := m.stacksOn ||| 1, meadowsOn := m.meadowsOn ||| 1 }
      else { m with stacksOn := m.stacksOn ||| BitVec.ofNat 16 (2 ^ k) }
    | .meadow k =>
      if k = 0 then { m with hubOn := true, stacksOn := m.stacksOn ||| 1, meadowsOn := m.meadowsOn ||| 1 }
      else { m with meadowsOn := m.meadowsOn ||| BitVec.ofNat 6 (2 ^ k) }
  s.finish (if m.booted.isSome ∧ m.startedBefore u then s.work.mod fun t => { t with mgmt := new } else s.work)

/-- `MATRIX_IDLE`: no matrix step for 10 µs; the array ramps when it leaves idle (R390). -/
def execMatrixIdle (core : Nat) (s : State) : Host.Outcome State Fault Refusal :=
  s.finish (s.work.mod fun t => t.setCore { t.core core with matBusy := false, matSlabs := 0 })

/-! ### Power and heat -/

/-- The governor's step at the end of a window (R358). -/
def Mgmt.govern (m : Mgmt) (watts : Nat) : Mgmt :=
  let b := m.budget.toNat
  let duty :=
    if b < watts then (if m.duty = 0 then 0 else m.duty - 1)
    else if 10 * watts < 9 * b then (if m.duty = 7 then 7 else m.duty + 1)
    else m.duty
  { m with duty := duty, throt := if duty.toNat < 7 ∧ m.throt.toNat < 65535 then m.throt + 1 else m.throt }

/-- `HEATH_GOVERNOR_WINDOW`: the power measured over 10 µs. -/
def execHeathGovernorWindow (watts : Nat) (s : State) : Host.Outcome State Fault Refusal :=
  s.finish (s.work.mod fun t => { t with mgmt := t.mgmt.govern watts })

/-- `THERMAL_THROTTLE`: the controller lowers the matrix rate and BUDGET; how far is free (log 10). -/
def execThermalThrottle (s : State) : Host.Outcome State Fault Refusal :=
  let w := s.work
  let (x, k) := w.free
  let b := s.mgmt.budget.toNat
  let lower := if b < 150 then b else 150 + x.toNat % (b - 150 + 1)
  s.finish (k.mod fun t => { t with mgmt := { t.mgmt with hot := true, budget := BitVec.ofNat 12 lower } })

/-- A module reset (R396): every unit powered off, every port down; what lies in flash, and what lies outside the module, stays.
The counters in flash skip the unused rest of their reservations, and never return to a lower value (R272, R314). -/
def Work.moduleReset (w : Work) (fns : List Fn) : Work :=
  let skip := fun (n top : Nat) => min top ((n + 65535) / 65536 * 65536)
  let off := ((w.put (.clear .fm 0 (384 * 2 ^ 30))).put (.clear .hm 0 (2 ^ 41))).put (.clear .sp 0 (144 * 2 ^ 22))
  off.mod fun s =>
    { State.reset with
      slotText := s.slotText, tlogFlash := s.tlogFlash, fns := fns, host := s.host,
      agenda := s.agenda, nextId := s.nextId, fresh := s.fresh,
      safe := { State.reset.safe with counter := BitVec.ofNat 96 (skip s.safe.counter.toNat (2 ^ 96 - 1)) },
      rcv := { State.reset.rcv with tier := s.rcv.tier, snapBad := s.rcv.snapBad, rollLog := s.rcv.rollLog, sealLog := s.rcv.sealLog },
      mgmt := { State.reset.mgmt with
        flashA := s.mgmt.flashA, flashB := s.mgmt.flashB, fuse := s.mgmt.fuse, captured := s.mgmt.captured, capSeq := s.mgmt.capSeq,
        dumpSerial := skip s.mgmt.dumpSerial (2 ^ 64 - 1), faultLog := s.mgmt.faultLog, divergeLog := s.mgmt.divergeLog } }

/-- `THERMAL_SHUTDOWN`: a module reset, recorded in the flash log. DESIGN CHOICE (log 63): the record is the code 0x115. -/
def execThermalShutdown (s : State) : Host.Outcome State Fault Refusal :=
  s.finish ((s.work.moduleReset []).mod fun t => { t with mgmt := { t.mgmt with faultLog := t.mgmt.faultLog ++ [0x115] } })

/-- Register HGOV (Table 19.5). -/
def Mgmt.hgov (m : Mgmt) : W64 := BitVec.ofNat 64 (m.throt.toNat * 2 ^ 32 + m.duty.toNat * 2 ^ 16 + m.budget.toNat)

/-- Register HBERR of a bank (Table 19.4). -/
def State.hberrOf (s : State) (bank : Nat) : W64 :=
  let h := (s.hberr.find? fun e => decide (e.bank = bank)).getD ⟨bank, false, false, 0, 0, 0⟩
  BitVec.ofNat 64 (h.valid.toNat * 2 ^ 63 + h.multi.toNat * 2 ^ 62 + h.count % 2 ^ 12 * 2 ^ 50 + bank % 2 ^ 14 * 2 ^ 36 +
    h.column % 2 ^ 11 * 2 ^ 25 + h.line % 2 ^ 21)

end Sys2Proof.Machine
end

