-- ==== Sys2Proof/Machine/HostCmd.lean ====
section
/-! DEFINITION. The host command set: the command page and register, and each command (spec/26 R391 to R396; spec/11 R256 to R259,
R271; spec/16 R311, R314; spec/17 R327; spec/18 R339, R346; spec/20 R370 to R372). -/

namespace Sys2Proof.Machine

/-! ### Functions (R391, R392) -/

def State.fn? (s : State) (n : Nat) : Option Fn := s.fns.find? fun f => decide (f.num = n)
def State.setFn (s : State) (f : Fn) : State := { s with fns := upsert (fun e => decide (e.num = f.num)) f s.fns }
def State.mapFn (s : State) (n : Nat) (g : Fn → Fn) : State :=
  { s with fns := s.fns.map fun f => if f.num = n then g f else f }

/-- The opcodes of Table 26.4. -/
def hostOpcodes : List Nat :=
  [0x01, 0x02, 0x10, 0x11, 0x12, 0x13, 0x20, 0x21, 0x30, 0x31, 0x40, 0x50, 0x51, 0x60, 0x70, 0x71, 0x7F]

/-- The command that a write of CMDREG starts: status 1 for an unknown opcode, 2 for a wrong SEQ or a LEN out of range, 6 for any
command but identify after a failed boot. -/
def startCmd (bootFail : Bool) (opc seq len want : Nat) : HostCmd :=
  let bad :=
    if seq ≠ want ∨ 1984 < len then some 2
    else if !hostOpcodes.contains opc then some 1
    else if bootFail && decide (opc ≠ 1) then some 6
    else none
  ⟨opc, none, bad, [], none, 0, [], false⟩

/-- `CMDREG_WRITE`: the header and the parameters stand in the command page, and `val` is written to CMDREG. Virtual functions answer once they are
exposed (R388). -/
def execCmdregWrite (fn : Nat) (opc : BitVec 16) (seq : W32) (page : CmdParam) (val : W64) (s : State) :
    Host.Outcome State Fault Refusal :=
  let f := (s.fn? fn).getD { num := fn }
  s.finish (
    if !s.hostUp ∨ 16 < fn ∨ (fn ≠ 0 ∧ !s.mgmt.vfsExposed) then s.work
    else if f.busy then s.work.mod fun t => t.setFn { f with overrun := true }
    else s.work.mod fun t =>
      t.setFn { f with
        seq := BitVec.ofNat 32 (bitsAt val.toNat 32 32), busy := true, hdrOpc := opc, hdrSeq := seq, hdrLen := page.len,
        param := page.bytes.take 1984,
        cmd := some (startCmd s.mgmt.bootFail opc.toNat seq.toNat page.len.toNat (bitsAt val.toNat 32 32)) })

/-- Register CMDREG (Table 26.3). -/
def Fn.cmdreg (f : Fn) : W64 :=
  BitVec.ofNat 64 (f.seq.toNat * 2 ^ 32 + f.busy.toNat * 2 ^ 31 + f.overrun.toNat * 2 ^ 30 + f.last % 256 * 2 ^ 8)

/-- `COMMAND_REPLY`: the reply is written, then RSEQ; BUSY clears, and the function's vector is signalled. The first run root that
is done ends start-up service (R43). -/
def execCommandReply (fn : Nat) (s : State) : Host.Outcome State Fault Refusal :=
  s.finish (
    match s.fn? fn with
    | none => s.work
    | some f =>
      match f.cmd with
      | none => s.work
      | some c =>
        match c.status with
        | none => s.work
        | some st =>
          if !c.sealAt.all s.sealedUpTo then s.work
          else s.work.mod fun t =>
            let g := { f with status := BitVec.ofNat 32 st, rseq := f.hdrSeq, rlen := BitVec.ofNat 32 c.reply.length, reply := c.reply,
                              busy := false, last := st, msix := f.msix + 1, cmd := none }
            let ran := t.mgmt.ranRoot || (decide (c.opc = 0x40) && decide (st = 0))
            ({ t.setFn g with mgmt := { t.mgmt with ranRoot := ran } }).changeService)

/-- The outcome of a command: its status, its reply, and whether the reply waits for a forced seal (R393). -/
structure Answer where
  status : Nat
  reply : List Byte
  seals : Bool

/-- The answer recorded with the function; a command that must seal asks for it. -/
def Work.answer (w : Work) (fn : Nat) (op : Option HostOp) (a : Answer) : Work :=
  let k := if a.seals then w.mod State.askSeal else w
  k.mod fun s => s.mapFn fn fun f =>
    { f with cmd := f.cmd.map fun c =>
        { c with again := op, status := some a.status, reply := a.reply, sealAt := if a.seals then some s.rin.toNat else none } }

/-- A command that has to wait: the firmware goes on with it (R393). -/
def Work.later (w : Work) (fn : Nat) (op : HostOp) : Work :=
  w.mod fun s => s.mapFn fn fun f => { f with cmd := f.cmd.map fun c => { c with again := some op } }

/-- A refusal. -/
def Work.decline (w : Work) (fn status : Nat) : Work := w.answer fn none ⟨status, [], false⟩

/-- A command's work, where its function has started it and it has no status yet; a PF0 command from a virtual function gets
status 3. -/
def Work.command (w : Work) (fn opc : Nat) (pf0 : Bool) (run : Work → Work) : Work :=
  match (w.st.fn? fn).bind (·.cmd) with
  | some c =>
    if c.opc ≠ opc ∨ c.status.isSome then w
    else if pf0 ∧ fn ≠ 0 then w.decline fn 3
    else run w
  | none => w

/-- A command on a context of the function that created it, else status 4 (R394). -/
def Work.onContext (w : Work) (fn ctx : Nat) (run : Ctx → Work → Work) : Work :=
  match w.st.ctx? ctx with
  | some c => if c.state = .free ∨ c.fn ≠ fn then w.decline fn 4 else run c w
  | none => w.decline fn 4

/-! ### identify and attest (R394, R395) -/

/-- Retired lane groups, matrix engines and cores out of service, by core. -/
def State.retirement (s : State) : List Byte :=
  (List.range 144).flatMap fun n =>
    let c := s.core n
    leBytes 2 (~~~c.lanes).toNat ++ leBytes 1 (!c.mxok).toNat ++ leBytes 4 c.banksBad.toNat

def State.identity (s : State) : List Byte :=
  words8 [Config.partId, Config.revisionId, Config.serialId, (s.mgmt.booted.map (·.version)).getD 0, s.mgmt.slotB.toNat,
    s.mgmt.bootFail.toNat] ++ s.retirement

/-- `IDENTIFY`. -/
def execIdentify (fn : Nat) (s : State) : Host.Outcome State Fault Refusal :=
  s.finish (s.work.command fn 0x01 false fun w => w.answer fn none ⟨0, s.identity, false⟩)

/-- The report and its signature of 3,309 bytes. -/
def State.report (s : State) (nonce : List Byte) : List Byte :=
  let b := s.mgmt.booted.getD ⟨0, 0, false⟩
  let report := nonce ++ words8 [Config.serialId, s.mgmt.slotB.toNat, b.version] ++ leBytes 64 (Config.imageDigest b.image 0) ++
    leBytes 64 (Config.imageDigest b.image 1) ++ s.retirement
  report ++ (List.range 3309).map fun i => (Config.attestSign report).getD i 0

/-- `ATTEST`: the report, then the signature, go to the host buffer before the reply. -/
def execAttest (fn : Nat) (nonce : List Byte) (buf len : Nat) (s : State) : Host.Outcome State Fault Refusal :=
  s.finish (s.work.command fn 0x02 false fun w =>
    let bytes := s.report nonce
    if nonce.length ≠ 32 ∨ len < 8192 ∨ len < bytes.length then w.decline fn 2
    else (w.put (.put .host buf bytes 0 true)).answer fn none ⟨0, leBytes 8 bytes.length, false⟩)

/-! ### Contexts (R256 to R259) -/

/-- The physical address of the leaf entry for a page of a context, where its tables stand. -/
def leafSlot (s : State) (big : Bool) (va level table fuel : Nat) : Option Nat :=
  match fuel with
  | 0 => none
  | k + 1 =>
    let here := table + 8 * bitsAt va (levelShift level) (if level = 3 then 5 else 9)
    if level = (if big then 2 else 3) then some here
    else
      let e : W64 := BitVec.ofNat 64 (leNat (Mem.readN s.fm here 8))
      if !leafV e || leafLEAF e || malformed level e then none else leafSlot s big va (level + 1) (nextTable e) k

/-- Whether a table, or one below it, has a leaf on a 2 MiB page of field memory. -/
def State.tableMaps (s : State) (page level table fuel : Nat) : Bool :=
  match fuel with
  | 0 => false
  | k + 1 =>
    (List.range (if level = 3 then 32 else 512)).any fun i =>
      let e : W64 := BitVec.ofNat 64 (leNat (Mem.readN s.fm (table + 8 * i) 8))
      leafV e && !malformed level e &&
      if leafLEAF e then decide (leafREGION e = 0) && decide (leafADDR e * 2 ^ 16 / 2 ^ 21 * 2 ^ 21 = page)
      else s.tableMaps page (level + 1) (nextTable e) k

/-- The ranges of Table 11.1. -/
def ctxOk (p : CtxParams) : Bool :=
  decide (p.num < 64) && decide (p.prio ≤ 7) && decide (1 ≤ p.gmax) && decide (p.gmax ≤ 576) && decide (1 ≤ p.shares.length) &&
  decide (p.shares.length ≤ 8) && p.shares.all (fun e => decide (e.1 ≤ 255) && decide (e.2 ≤ 4096)) &&
  decide (1 ≤ p.dumpSlots) && decide (p.dumpSlots ≤ 8) && decide (saveAreaBytes p.gmax ≤ p.savePages.length * 2 ^ 21) &&
  decide (4096 + p.dumpSlots * 2 ^ 23 ≤ p.dumpPages.length * 2 ^ 21) &&
  decide (p.dumpVa % 2 ^ 21 = 0) && decide (p.dumpVa + p.dumpPages.length * 2 ^ 21 ≤ 2 ^ 48) &&
  (p.savePages ++ p.dumpPages).all (fun a => decide (a % 2 ^ 21 = 0) && decide (a < 384 * 2 ^ 30))

/-- Whether the device may capture the pages of a new context (R257): no two are one, none lies in the undo log (R332), none is captured for
another, and no table maps one, so that no other context reads the region (R271); nor does the region lie where another of the tenant's does
(log 62). -/
def State.capturable (s : State) (p : CtxParams) : Bool :=
  let pages := p.savePages ++ p.dumpPages
  let last := p.dumpVa + p.dumpPages.length * 2 ^ 21
  decide (pages.eraseDups.length = pages.length) &&
  pages.all (fun a => !inLog 0 a &&
    (s.ctxs ++ s.mgmt.orphans).all (fun c => !(c.savePages ++ c.dumpPages).contains a) &&
    s.ctxs.all fun c => !s.tableMaps a 0 c.root 4) &&
  (s.ctxs ++ s.mgmt.orphans).all fun c =>
    decide (c.tenant ≠ p.tenant) || !overlap p.dumpVa last c.dumpVa (c.dumpVa + c.dumpPages.length * 2 ^ 21)

/-- The next incarnation of a context number: 1 to 63, then 1 again (R329). -/
def State.nextInc (s : State) (num : Nat) : Nat :=
  match s.incs.find? fun e => decide (e.1 = num) with
  | some (_, i) => if 63 ≤ i then 1 else i + 1
  | none => 1

/-- Hardware queues that no context has. -/
def State.freeQueues (s : State) : List Nat := freeOf 64 ((s.queues.filter fun q => decide (q.state ≠ .free)).map (·.hw))

/-- A context created, its queues assigned with weight 16 and 256 tickets where no other values are given (R273). -/
def State.createCtx (s : State) (fn : Nat) (p : CtxParams) : State :=
  let inc := s.nextInc p.num
  let hws := s.freeQueues.take p.shares.length
  let c : Ctx :=
    { num := p.num, state := .created, fn := fn, tenant := p.tenant, prio := p.prio, gmax := p.gmax, queues := hws,
      dumpSlots := p.dumpSlots, dumpKey := p.dumpKey, savePages := p.savePages, dumpPages := p.dumpPages, dumpVa := p.dumpVa, inc := inc,
      root := p.root / 4096 * 4096, tvec := p.tvec &&& (BitVec.allOnes 64 - 63), dumps := List.replicate p.dumpSlots none,
      dumped := 0, lost := 0, valid := false, sealrin0 := 0, sealrin1 := 0, images := [],
      saveCores := [], refused := [] }
  let qs := (hws.zip p.shares).map fun e =>
    ({ hw := e.1, ctx := p.num, state := .idle, weight := if e.2.1 = 0 then 16 else e.2.1,
       tickets := if e.2.2 = 0 then 256 else e.2.2, kernels := [], pass := 0, placedAt := 0, before := .idle, lastKid := none, stalledIn := 0 } : Queue)
  let zeroed := fun (k : Core) => hws.foldl (fun (c : Core) q =>
    if h : q < 64 then { c with charge := c.charge.set q 0 h, pass := c.pass.set q 0 h } else c) k
  let s1 : State :=
    { s with
      ctxs := (s.ctxs.filter fun e => decide (e.num ≠ p.num)) ++ [c],
      queues := (s.queues.filter fun q => !hws.contains q.hw) ++ qs,
      cores := s.cores.map zeroed,
      incs := (p.num, inc) :: s.incs.filter fun e => decide (e.1 ≠ p.num) }
  (qs.foldl (fun (k : State) q => k.capture p.num (.tickets q.hw q.weight q.tickets)) (s1.capture p.num (.create p)))

/-- Whether the firmware performs a function's command again after a rollback (R393). -/
def State.redoes (s : State) (fn : Nat) : Bool := (((s.fn? fn).bind (·.cmd)).map (·.redo)).getD false

def doCreate (fn : Nat) (p : CtxParams) (w : Work) : Work :=
  let s := w.st
  let again := s.ctxs.any fun c => decide (c.num = p.num) && decide (c.state = .created) && decide (c.fn = fn)
  let reply : Answer := ⟨0, leBytes 1 p.num, true⟩
  let full := decide (64 ≤ (s.ctxs.filter fun c => decide (c.state ≠ .free)).length)
  if s.redoes fn && again then w.answer fn (some (.create p)) reply
  else if !ctxOk p then w.decline fn 2
  else if full || decide (s.freeQueues.length < p.shares.length) then w.decline fn 5
  else if s.ctxs.any fun c => decide (c.num = p.num) && decide (c.state ≠ .free) then w.later fn (.create p)
  else if !s.capturable p then w.decline fn 5
  else (((w.mod fun t => t.createCtx fn p).writeHeader p.num).dumpHead p.num).answer fn (some (.create p)) reply

/-- `CREATE_CONTEXT`. -/
def execCreateContext (fn : Nat) (p : CtxParams) (s : State) : Host.Outcome State Fault Refusal :=
  s.finish (s.work.command fn 0x10 false (doCreate fn p))

/-- The leaf of a dump region's page: read-only (R271). -/
def dumpLeaf (page : Nat) : W64 := BitVec.ofNat 64 (page + 7)

/-- The places of a dump region in a context's tables: its address, the entry's place, and the leaf that is to stand there. -/
def State.dumpSlots (s : State) (c d : Ctx) : List (Nat × Nat × W64) :=
  d.dumpPages.zipIdx.filterMap fun e =>
    (leafSlot s true (d.dumpVa + e.2 * 2 ^ 21) 0 c.root 4).map fun a => (d.dumpVa + e.2 * 2 ^ 21, a, dumpLeaf e.1)
def State.entryAt (s : State) (a : Nat) : W64 := BitVec.ofNat 64 (leNat (Mem.readN s.fm a 8))

/-- The contexts of a region's tenant, and those among them whose tables map it. -/
def State.tenantOf (s : State) (d : Ctx) : List Ctx :=
  s.ctxs.filter fun c => decide (c.tenant = d.tenant) && decide (c.state ≠ .free) && decide (c.state ≠ .ended)
def State.mappers (s : State) (d : Ctx) : List Ctx :=
  (s.tenantOf d).filter fun c => (s.dumpSlots c d).any fun e => decide (s.entryAt e.2.1 = e.2.2)

/-- A context freed: its queues return to the pool, its pages and pins are gone, cores that it held last belong to none, and what
dumps it has stay its tenant's (Tables 11.2, 12.1, 16.3, R258). -/
def State.freeCtx (s : State) (c : Ctx) : State :=
  { s with
    ctxs := s.ctxs.filter fun e => decide (e.num ≠ c.num),
    queues := s.queues.filter fun q => decide (q.ctx ≠ c.num),
    pages := s.pages.filter fun p => decide (p.ctx ≠ c.num),
    tlb := s.tlb.filter fun e => decide (e.ctx ≠ c.num),
    walks := s.walks.filter fun e => decide (e.ctx ≠ c.num),
    mgmt := if c.dumps.any (·.isSome) || !(s.mappers c).isEmpty then { s.mgmt with orphans := s.mgmt.orphans ++ [{ c with state := .free }] } else s.mgmt }

/-- Destroying a context: ending from created, idle, stopped or live, with its queues free at once (Table 12.1), free from ended; its half of
a split core passes to no one (R258), and its held writes are discarded (R328). -/
def Work.destroy (w : Work) (c : Ctx) : Work :=
  let k :=
    if c.state = .ended then
      (w.leaveCores c.num).mod fun s => s.freeCtx c
    else (w.endContext c.num fun k => k).mod fun s => { s with queues := s.queues.filter fun q => decide (q.ctx ≠ c.num) }
  k.mod fun s => { s with hold := s.hold.filter fun h => decide (h.ctx ≠ c.num) }

/-- A destroy. `ended` says that the context stood ended as the command first came: performed again after a rollback (R393), it frees that
context, and leaves one that it had ended as it is. -/
def doDestroy (fn ctx : Nat) (ended : Bool) (w : Work) : Work :=
  let redo := w.st.redoes fn
  if redo && ended && (w.st.ctx? ctx).isNone then w.answer fn (some (.destroy ctx true)) ⟨0, [], true⟩
  else
    w.onContext fn ctx fun c k =>
      if redo && !ended && (decide (c.state = .ending) || decide (c.state = .ended)) then
        k.answer fn (some (.destroy ctx false)) ⟨0, [], true⟩
      else if c.state = .ending then k.decline fn 6
      else (k.destroy c).answer fn (some (.destroy ctx (decide (c.state = .ended)))) ⟨0, [], true⟩

/-- `DESTROY_CONTEXT`. -/
def execDestroyContext (fn ctx : Nat) (s : State) : Host.Outcome State Fault Refusal :=
  s.finish (s.work.command fn 0x11 false (doDestroy fn ctx false))

/-- A context stopped: every group forced off its core and saved, its queues fenced (Tables 11.2 and 12.1). -/
def Work.stopCtx (w : Work) (ctx : Nat) : Work :=
  let cores := ((w.st.groups.filter fun g => decide (g.place.ctx = ctx) && decide (g.state ≠ .preempted)).map (·.place.core)).eraseDups
  let k := cores.foldl (fun (k : Work) core => k.leaveCore core ctx) w
  k.mod fun s =>
    let s1 := s.mapCtx ctx fun c => { c with state := .stopped }
    { s1 with queues := s1.queues.map fun q =>
        if q.ctx = ctx ∧ (q.state = .idle ∨ q.state = .active ∨ q.state = .stalled) then
          { q with state := .fenced, before := if q.state = .idle then .idle else .active }
        else q }

/-- Whether a context may be stopped in this step: no seal stop, and each of its groups may be forced off (R263, R387). -/
def State.mayForce (s : State) (ctx : Nat) : Bool :=
  !s.stopped && (s.groups.filter fun g => decide (g.place.ctx = ctx) && decide (g.state ≠ .preempted)).all fun g =>
    s.mayForceOff g.place.core ctx none

def doStop (fn ctx : Nat) (w : Work) : Work :=
  w.onContext fn ctx fun c k =>
    if c.state ≠ .live ∧ c.state ≠ .idle then k.decline fn 6
    else if !k.st.mayForce ctx then k.later fn (.stop ctx)
    else (k.stopCtx ctx).answer fn (some (.stop ctx)) ⟨0, [], true⟩

/-- `STOP`. -/
def execStopContext (fn ctx : Nat) (s : State) : Host.Outcome State Fault Refusal :=
  s.finish (s.work.command fn 0x12 false (doStop fn ctx))

/-- A stopped context resumed: live, or idle where no group was saved (log 44); its queues as before the fence. -/
def State.resumeCtx (s : State) (ctx : Nat) : State :=
  let saved := s.groups.any fun g => decide (g.place.ctx = ctx)
  let s1 := s.mapCtx ctx fun c => { c with state := if saved then .live else .idle }
  { s1 with queues := s1.queues.map fun q => if q.ctx = ctx ∧ q.state = .fenced then { q with state := q.before } else q }

def doResume (fn ctx : Nat) (w : Work) : Work :=
  w.onContext fn ctx fun c k =>
    if c.state ≠ .stopped then k.decline fn 6
    else (k.mod fun s => s.resumeCtx ctx).answer fn (some (.resume ctx)) ⟨0, [], true⟩

/-- `RESUME`. -/
def execResumeContext (fn ctx : Nat) (s : State) : Host.Outcome State Fault Refusal :=
  s.finish (s.work.command fn 0x13 false (doResume fn ctx))

/-! ### Pages (R311, R316, R317) -/

/-- Size of a page. -/
def mapPage (p : MapParams) : Nat := if p.big then 2 ^ 21 else 2 ^ 16

/-- Whether Heath pages lie in the stack that a map command names, or for 0xFF each in the stack behind the one before it (R350). -/
def onStack (stack : Nat) (l : List Nat) : Bool :=
  match l with
  | [] => true
  | a :: rest =>
    (decide (stack = 0xFF) || decide (bitsAt a 37 4 = stack)) &&
    (match rest with
     | [] => true
     | b :: _ => decide (stack ≠ 0xFF) || decide (bitsAt b 37 4 = (bitsAt a 37 4 + 1) % 16)) && onStack stack rest

/-- The field ranges of a map command. No page of it lies in a region of the undo log (R332, log 78). -/
def mapOk (p : MapParams) : Bool :=
  decide (p.va % mapPage p = 0) && !p.addrs.isEmpty && decide (p.va + p.addrs.length * mapPage p ≤ 2 ^ 48) && decide (p.region ≤ 3) &&
  (decide (p.region ≠ 1) || (p.big && (decide (p.stack < 16) || decide (p.stack = 0xFF)))) &&
  (decide (p.region = 3) || (decide (p.module = 0) && !p.xmod)) && decide (p.module < 256) &&
  p.addrs.all (fun a => decide (a % mapPage p = 0) && decide (a < 2 ^ 56)) &&
  (decide (p.region ≠ 0) || p.addrs.all fun a => decide (a < 384 * 2 ^ 30)) &&
  (decide (p.region ≠ 1) || p.addrs.all fun a => decide (a < 2 ^ 41)) && p.addrs.all fun a => !inLog p.region a

/-- The pages of a map command with their entries' places; none while a table on a path is missing. -/
def mapSlots (s : State) (root : Nat) (p : MapParams) : Option (List (Nat × Nat × Nat)) :=
  p.addrs.zipIdx.foldr (fun e r =>
    match r, leafSlot s p.big (p.va + e.2 * mapPage p) 0 root 4 with
    | some l, some slot => some ((p.va + e.2 * mapPage p, slot, e.1) :: l)
    | _, _ => none) (some [])

/-- The system core that acts for the resident operating system: which one is free (log 10). -/
def Work.sysCore (w : Work) : Nat × Work := (w.free.1.toNat % 8, w.free.2)

/-- A map: the leaves written through the edit port. A page that is mapped already is refused; while the tables on the way are still
missing the resident operating system adds them through the edit port first. A Heath page evicted since the last seal is not used again before
the next (R315); pages that the stack or a dump region does not allow are none for this command (R271, R350). -/
def doMap (fn : Nat) (p : MapParams) (w : Work) : Work :=
  w.onContext fn p.ctx fun c k =>
    if !mapOk p then k.decline fn 2
    else if c.state = .ending ∨ c.state = .ended then k.decline fn 6
    else
      match mapSlots k.st c.root p with
      | none => k.later fn (.map p)
      | some l =>
        if l.any fun e => leafV (BitVec.ofNat 64 (leNat (Mem.readN k.st.fm e.2.1 8))) then k.decline fn 6
        else if (decide (p.region = 1) && !onStack p.stack p.addrs) || !p.addrs.all fun a => k.st.dumpSafe p.ctx p.region a p.wr then
          k.decline fn 5
        else if !k.linesFit false (l.map fun e => e.2.1 / 64) ||
            (decide (p.region = 1) && p.addrs.any fun a => k.st.resting.any fun e => decide (e.1 = a))
        then k.later fn (.map p)
        else
          let (sys, k1) := k.sysCore
          (l.foldl (fun (j : Work) e => j.editEntry sys p.ctx e.1 e.2.1 (leafOf p e.2.2) none) k1).answer fn (some (.map p)) ⟨0, [], true⟩

/-- `MAP`. -/
def execMapPages (fn : Nat) (p : MapParams) (s : State) : Host.Outcome State Fault Refusal :=
  s.finish (s.work.command fn 0x20 false (doMap fn p))

/-- The mapped pages of a range: virtual address, size, and the entry's place. -/
def mappedIn (s : State) (root va stop fuel : Nat) : List (Nat × Bool × W64) :=
  match fuel with
  | 0 => []
  | n + 1 =>
    if stop ≤ va then []
    else
      match walkFrom s noCache va 0 root 4 with
      | some (leaf, big) =>
        let size := if big then 2 ^ 21 else 2 ^ 16
        (va / size * size, big, leaf) :: mappedIn s root (va / size * size + size) stop n
      | none => mappedIn s root (va / 2 ^ 16 * 2 ^ 16 + 2 ^ 16) stop n

/-- Whether a physical page is a context's save area or dump region, pinned for good (R257). -/
def State.pinnedForGood (s : State) (leaf : W64) : Bool :=
  decide (leafREGION leaf = 0) &&
  s.ctxs.any fun c => (c.savePages ++ c.dumpPages).contains (leafADDR leaf * 2 ^ 16 / 2 ^ 21 * 2 ^ 21)

/-- Whether a page is evicted or migrating: no unmap takes it out of that state (Table 16.3). -/
def PageSt.away (p : PageSt) : Bool := p.migrating || p.evicted.isSome

/-- The entries of pages cleared, and their range shot down; the command is answered once that is complete (R317). -/
def Work.clearLeaves (w : Work) (fn ctx va len : Nat) (slots : List (Nat × Nat)) : Work :=
  let (sys, k1) := w.sysCore
  let k2 := slots.foldl (fun (j : Work) e => j.editEntry sys ctx e.1 e.2 0 none) k1
  match k2.shoot sys ctx va len with
  | (k3, true) =>
    (k3.mod fun s => { s with pages := s.pages.filter fun q =>
        !(decide (q.ctx = ctx) && overlap va (va + len) (q.page * 2 ^ 21) (q.page * 2 ^ 21 + 2 ^ 21)) }).answer fn
      (some (.unmap ctx va len)) ⟨0, [], true⟩
  | (k3, false) => k3.later fn (.unmap ctx va len)

/-- An unmap: pinned pages are marked and waited for; then the entries are cleared and the range shot down. DEDUCED (log 71): while one page of
the range is pinned, all of them stay mapped and are marked. -/
def doUnmap (fn ctx va len : Nat) (w : Work) : Work :=
  w.onContext fn ctx fun c k =>
    if va % 2 ^ 16 ≠ 0 ∨ len % 2 ^ 16 ≠ 0 ∨ len = 0 ∨ 2 ^ 48 < va + len then k.decline fn 2
    else
      let l := mappedIn k.st c.root va (va + len) (len / 2 ^ 16 + 1)
      let vpages := (l.map fun e => e.1 / 2 ^ 21).eraseDups
      if l.any (fun e => k.st.pinnedForGood e.2.2) || vpages.any fun v => (k.st.pageSt ctx v).away then k.decline fn 6
      else
        let slots := l.filterMap fun e => (leafSlot k.st e.2.1 e.1 0 c.root 4).map fun a => (e.1, a)
        if (vpages.any fun v => decide ((k.st.pageSt ctx v).pins ≠ 0)) || !k.linesFit false (slots.map fun e => e.2 / 64) then
          (k.mod fun s => vpages.foldl (fun (t : State) v => t.setPageSt { t.pageSt ctx v with unmapping := true }) s).later fn
            (.unmap ctx va len)
        else k.clearLeaves fn ctx va len slots

/-- `UNMAP`. -/
def execUnmapPages (fn ctx va len : Nat) (s : State) : Host.Outcome State Fault Refusal :=
  s.finish (s.work.command fn 0x21 false (doUnmap fn ctx va len))

/-! ### Import and export (R339, R394) -/

/-- The pieces of a virtual range that lie within pages: place, bytes; none where a page is not in the regions allowed. -/
def hostPieces (s : State) (ctx va len : Nat) (heathToo : Bool) (fuel : Nat) : Option (List (Tgt × Nat × Nat)) :=
  match fuel with
  | 0 => some []
  | n + 1 =>
    if len = 0 then some []
    else
      let m := min len (2 ^ 16 - va % 2 ^ 16)
      match s.leafFor 144 ctx va with
      | none => none
      | some (leaf, big) =>
        let pa := physOf leaf big va
        let t : Option Tgt := if leafREGION leaf = 0 then some .fm else if leafREGION leaf = 1 ∧ heathToo then some .hm else none
        match t, hostPieces s ctx (va + m) (len - m) heathToo n with
        | some t, some l => some ((t, pa, m) :: l)
        | _, _ => none

/-- Bytes imported to the pieces of a range: logged writes with the context's owner tag. -/
def Work.importTo (w : Work) (ctx : Nat) (l : List (Tgt × Nat × Nat)) (bytes : List Byte) : Work :=
  match l with
  | [] => w
  | (t, pa, n) :: rest =>
    ((w.put (.put t pa (bytes.take n) (w.st.ownerTag ctx) false)).note (.mem t pa)).importTo ctx rest (bytes.drop n)

/-- How many bytes of the pieces of a range may be written now, line after line: the log of each memory has room for its lines, and the stacks have
started (R333, R359). -/
def Work.importRoom (w : Work) (l : List (Tgt × Nat × Nat)) : Nat :=
  match l with
  | [] => 0
  | (t, pa, n) :: rest =>
    let heath := decide (t = .hm)
    let lines := linesOf pa n
    if heath && !w.st.stackUp pa then 0
    else if w.linesFit heath lines then n + (w.put (.put t pa (List.replicate n 0) 0 false)).importRoom rest
    else
      let k := ((List.range (lines.length + 1)).filter fun j => w.linesFit heath (lines.take j)).foldl max 0
      min n (64 * k - pa % 64)

/-- The bytes that a function's import has written so far, and how many. -/
def State.importSeen (s : State) (fn : Nat) : List Byte := (((s.fn? fn).bind (·.cmd)).map (·.seen)).getD []
def State.imported (s : State) (fn : Nat) : Nat := (((s.fn? fn).bind (·.cmd)).map (·.done)).getD 0

/-- An import: as many bytes as the logs have room for, and the rest when a commit has freed entries (R333, R339). `done` bytes are written
already. -/
def doImport (fn ctx va hostAddr len done : Nat) (w : Work) : Work :=
  let op : HostOp := .imported ctx va hostAddr len
  w.onContext fn ctx fun c k =>
    if c.state = .ending ∨ c.state = .ended then k.decline fn 6
    else if 2 ^ 48 < va + len then k.decline fn 2
    else
      match hostPieces k.st ctx va len true (len / 2 ^ 16 + 2), hostPieces k.st ctx (va + done) (len - done) true (len / 2 ^ 16 + 2) with
      | some _, some l =>
        let n := k.importRoom l
        let bytes := Mem.readN k.st.host (hostAddr + done) n
        let k1 := k.importTo ctx l bytes
        if done + n < len then
          (k1.later fn op).mod fun s =>
            (if n = 0 then s else s.askSeal).mapFn fn fun f =>
              { f with cmd := f.cmd.map fun x => { x with done := done + n, seen := x.seen ++ bytes } }
        else
          (k1.mod fun s => s.capture ctx (.imported va hostAddr (s.importSeen fn ++ bytes))).answer fn (some op) ⟨0, [], true⟩
      | _, _ => k.decline fn 2

/-- `IMPORT`. -/
def execHostImport (fn ctx va hostAddr len : Nat) (s : State) : Host.Outcome State Fault Refusal :=
  s.finish (s.work.command fn 0x30 false (doImport fn ctx va hostAddr len (s.imported fn)))

/-- An export forces a seal; its bytes are copied at that seal's commit. -/
def doExport (fn ctx va hostAddr len : Nat) (w : Work) : Work :=
  w.onContext fn ctx fun _ k =>
    if 2 ^ 48 < va + len then k.decline fn 2
    else
      match hostPieces k.st ctx va len false (len / 2 ^ 16 + 2) with
      | none => k.decline fn 2
      | some _ => k.answer fn (some (.exported ctx va hostAddr len)) ⟨0, [], true⟩

/-- `EXPORT`. -/
def execHostExport (fn ctx va hostAddr len : Nat) (s : State) : Host.Outcome State Fault Refusal :=
  s.finish (s.work.command fn 0x31 false (doExport fn ctx va hostAddr len))

/-! ### Run root (R259) -/

/-- A context's root kernel on its queue 0: the `qput` status and the step; none where the record cannot be read. -/
def Work.queueRoot (w : Work) (c : Ctx) (recVa : Nat) : Option (Nat × Work) :=
  match w.readRecord 144 c.num (BitVec.ofNat 64 recVa) with
  | .error _ => none
  | .ok (r, endSt, k) =>
    let (code, k1) := k.acceptKernel c.num 0 (BitVec.ofNat 64 recVa) r endSt
    if code = 0 then
      some (0, k1.mod fun s => (s.mapCtx c.num fun e => { e with state := .live }).capture c.num (.runRoot recVa))
    else some (code, k1)

/-- Whether the clearing of END that goes with an acceptance has to wait, as any store does (R280, R289). -/
def Work.rootWaits (w : Work) (c : Ctx) (recVa : Nat) : Bool :=
  match w.readRecord 144 c.num (BitVec.ofNat 64 recVa) with
  | .error _ => false
  | .ok (_, endSt, k) => (k.hubWait recVa (endSt.withBytes (leBytes 8 0))).isSome

def doRunRoot (fn ctx recVa : Nat) (w : Work) : Work :=
  w.onContext fn ctx fun c k =>
    if c.state = .stopped ∨ c.state = .ending ∨ c.state = .ended then k.decline fn 6
    else if 2 ^ 48 ≤ recVa then k.decline fn 2
    else
      match k.queueRoot c recVa with
      | none => k.decline fn 2
      | some (code, k1) => if k.rootWaits c recVa then k.later fn (.runRoot ctx recVa)
                           else k1.answer fn (some (.runRoot ctx recVa)) ⟨0, leBytes 8 code, true⟩

/-- `RUN_ROOT`. -/
def execRunRoot (fn ctx recVa : Nat) (s : State) : Host.Outcome State Fault Refusal :=
  s.finish (s.work.command fn 0x40 false (doRunRoot fn ctx recVa))

/-! ### Snapshot and restore (R346) -/

/-- A snapshot: the named context stops, a seal is forced, and its stream begins at the commit. -/
def doSnapshot (fn : Nat) (ctx : Option Nat) (w : Work) : Work :=
  let s := w.st
  if !s.safe.configured ∨ s.safe.slots < snapshotSlots ∨ 2 ^ 96 ≤ s.safe.counter.toNat + snapshotSlots then w.decline fn 5
  else if s.rcv.snap ∨ s.rcv.snapFn.isSome then w.decline fn 6
  else
    let begin' := fun (k : Work) =>
      (k.mod fun t => { t with rcv := { t.rcv with snapFn := some fn } }).mod fun t =>
        (t.askSeal).mapFn fn fun f => { f with cmd := f.cmd.map fun c => { c with again := some (.snapshot ctx) } }
    match ctx with
    | none => begin' w
    | some n =>
      w.onContext fn n fun c k =>
        if c.state = .stopped then begin' k
        else if c.state ≠ .live ∧ c.state ≠ .idle then k.decline fn 6
        else if !k.st.mayForce n then k.later fn (.snapshot ctx)
        else begin' (k.stopCtx n)

/-- `SNAPSHOT`. -/
def execSnapshot (fn : Nat) (ctx : Option Nat) (s : State) : Host.Outcome State Fault Refusal :=
  s.finish (s.work.command fn 0x50 false (doSnapshot fn ctx))

/-- A context of a snapshot as it returns: stopped. -/
def stoppedCtx (c : Ctx) : Ctx := if c.state = .ending ∨ c.state = .ended ∨ c.state = .free then c else { c with state := .stopped }

/-- A group of a snapshot as record `num` of its context. -/
def savedGroup (im : Image) (g : Group) (num : Nat) : Group :=
  if g.state = .preempted then { g with saved := g.saved.map fun v => { v with num := num } }
  else
    let tiles := ((im.cores.find? fun c => decide (c.id = g.place.core)).map (·.tiles)).getD (Vector.replicate 4 0)
    let ts := im.strands.filter fun t => decide (t.g.gid = g.place.gid)
    { g with state := .preempted,
             saved := some ⟨num, ts.map Strand.sealRecord, ts.map g.waitOf, g.place.tiles.map fun t => tiles.getD t 0,
                            im.cmds.filter fun c => decide (c.gid = g.place.gid)⟩ }
def savedGroups (im : Image) (l before : List Group) : List Group :=
  match l with
  | [] => []
  | g :: rest =>
    savedGroup im g (before.filter fun e => decide (e.place.ctx = g.place.ctx)).length :: savedGroups im rest (g :: before)

/-- The contexts of a snapshot back in the module, each core's scratchpad, or half of it, in the image of the context it belongs to. -/
def State.fromSnap (s : State) (p : Snap) : State :=
  let im := p.image
  let half := fun (k : CoreImage) (upper : Bool) =>
    (⟨k.id * 2 + upper.toNat, (List.range 512).map (· + 512 * upper.toNat),
      Mem.window im.sp (k.id * 2 ^ 22 + upper.toNat * 2 ^ 21) (2 ^ 21), []⟩ : SpImage)
  let imagesOf := fun (c : Ctx) => im.cores.flatMap fun (k : CoreImage) =>
    match k.reclaim.halves with
    | some (inc, vic) => (if vic = c.num then [half k false] else []) ++ (if inc = c.num then [half k true] else [])
    | none => if k.owner = some c.num then [⟨k.id * 2, List.range 1024, Mem.window im.sp (k.id * 2 ^ 22) (2 ^ 22), []⟩] else []
  let clean := fun (e : Nat × Line) => (e.1, { e.2 with stamp := s.stampNow - 96 })
  { s with
    strand := {}, parked := [], cmds := [], queries := [], tlb := [], walks := [], undoF := [], undoH := [],
    fmLine := p.fmLine.map clean, hmLine := p.hmLine.map clean, idleStamp := s.stampNow - 96,
    groups := savedGroups im im.groups [], kernels := im.kernels,
    ctxs := im.ctxs.map fun c =>
      let l := c.sealedImages.images ++ imagesOf c
      { stoppedCtx c with images := l, saveCores := (l.map SpImage.core).eraseDups },
    queues := im.queues.map fun q =>
      if q.state = .free ∨ q.state = .closed ∨ q.state = .fenced then q
      else { q with state := .fenced, before := if q.state = .idle then .idle else .active },
    mbars := im.mbars, dbars := im.dbars, rings := im.rings,
    pages := im.pages.map fun q => { q with pins := 0 },
    cores := s.cores.map fun c => { c with owner := none, reclaim := .none, dirtySeal := [], dirtyTake := [] } }

/-- The cells of a memory as writes. -/
def Work.fill (w : Work) (t : Tgt) (m : Mem) : Work := m.foldl (fun (k : Work) c => k.put (.put t c.1 [c.2] 0 true)) w

/-- A restore: the module as the snapshot holds it, its contexts stopped. It stands as a seal of its own (log 19). It waits until every
stack of the Heath has started (R359, R389). -/
def doRestore (fn : Nat) (w : Work) : Work :=
  match w.st.rcv.tier with
  | none => w.decline fn 6
  | some p =>
    if w.st.stopped ∨ w.st.ctxs.any (fun c => decide (c.state = .live) || decide (c.state = .ending)) ∨ !w.st.safePath then w.decline fn 6
    else if w.st.mgmt.stacksOn ≠ BitVec.allOnes 16 then w.later fn .restore
    else
      let cleared := ((w.put (.clear .fm 0 (384 * 2 ^ 30))).put (.clear .hm 0 (2 ^ 41))).put (.clear .sp 0 (144 * 2 ^ 22))
      let k := ((cleared.fill .fm p.fm).fill .hm p.hm).mod fun s => s.fromSnap p
      let im := k.imageOf (w.st.rcv.sealed.getD 0)
      (k.mod fun s => { s with rcv := { s.rcv with committed := some im, pending := s.rcv.pending.map fun _ => im } }).answer fn none
        ⟨0, [], false⟩

/-- `RESTORE`. -/
def execRestoreModule (fn : Nat) (s : State) : Host.Outcome State Fault Refusal :=
  s.finish (s.work.command fn 0x51 true (doRestore fn))

/-! ### Read dump (R271, R370) -/

/-- A record of the translation log (Table 16.6). -/
def tlogBytes (r : TlogRec) : List Byte :=
  leBytes 1 r.kind ++ leBytes 1 r.sys ++ leBytes 1 r.ctx ++ leBytes 1 0 ++ leBytes 4 r.rin ++ leBytes 8 r.va ++ leBytes 8 r.len ++
    leBytes 8 r.last.toNat

/-- The dump slots of a tenant, its contexts' first, then those that outlived theirs. -/
def State.tenantDumps (s : State) (tenant : W64) : List (Option Dump) :=
  ((s.ctxs.filter fun c => decide (c.tenant = tenant)).flatMap (·.dumps)) ++
    (s.mgmt.orphans.filter fun o => decide (o.tenant = tenant)).flatMap (·.dumps)

/-- Whether a function may read a tenant's dumps: physical function 0, or one that created a context of that tenant (R271, R394). -/
def State.readsDumps (s : State) (fn : Nat) (tenant : W64) : Bool :=
  decide (fn = 0) || (s.ctxs ++ s.mgmt.orphans).any fun c => decide (c.tenant = tenant) && decide (c.fn = fn)

/-- Slot `n` of a tenant freed. -/
def freeSlot (l : List (List (Option Dump))) (n : Nat) : List (List (Option Dump)) :=
  match l with
  | [] => []
  | x :: rest => if n < x.length then x.set n none :: rest else x :: freeSlot rest (n - x.length)
def State.releaseDump (s : State) (tenant : W64) (n : Nat) : State :=
  let mine := s.ctxs.filter fun c => decide (c.tenant = tenant)
  let orph := s.mgmt.orphans.filter fun o => decide (o.tenant = tenant)
  let new := freeSlot ((mine ++ orph).map (·.dumps)) n
  let pairs := (mine.map (·.num)).zip new
  { s with
    ctxs := s.ctxs.map fun c =>
      match pairs.find? fun e => decide (e.1 = c.num) with
      | some e => { c with dumps := e.2 }
      | none => c,
    mgmt := { s.mgmt with orphans := (s.mgmt.orphans.filter fun o => decide (o.tenant ≠ tenant)) ++
      (orph.zip (new.drop mine.length)).map fun e => { e.1 with dumps := e.2 } } }

/-- A slot of a tenant freed, with what the headers of its regions then say (R270); a context that is gone keeps its region until its last
dump has been released. -/
def Work.releaseSlot (w : Work) (tenant : W64) (n : Nat) : Work :=
  let k := w.mod fun t => t.releaseDump tenant n
  let j := ((k.st.ctxs ++ k.st.mgmt.orphans).filter fun c => decide (c.tenant = tenant)).foldl Work.headOf k
  j.mod fun t =>
    { t with mgmt := { t.mgmt with orphans := t.mgmt.orphans.filter fun o => o.dumps.any (·.isSome) || !(t.mappers o).isEmpty } }

/-- The regions of a tenant's dumps in its contexts' tables (R271, log 62): an entry that is empty gets its leaf as soon as the tables above
it stand, and a region whose last dump has been released by a context that is gone is taken out and shot down before it goes. -/
def Work.mapDumps (w : Work) : Work :=
  let s := w.st
  let wanted := (s.ctxs ++ s.mgmt.orphans.filter fun o => o.dumps.any (·.isSome)).findSome? fun d =>
    (s.tenantOf d).findSome? fun c =>
      ((s.dumpSlots c d).find? fun e => !leafV (s.entryAt e.2.1) && w.linesFit false (linesOf e.2.1 8)).map fun e => (c, e)
  match wanted with
  | some (c, va, a, leaf) => (w.sysCore.2).editEntry w.sysCore.1 c.num va a leaf none
  | none =>
    match s.mgmt.orphans.find? fun o => !o.dumps.any (·.isSome) with
    | none => w
    | some o =>
      let len := o.dumpPages.length * 2 ^ 21
      match s.mappers o with
      | [] => w.mod fun t => { t with mgmt := { t.mgmt with orphans := t.mgmt.orphans.erase o } }
      | c :: _ =>
        let l := (s.dumpSlots c o).filter fun e => decide (s.entryAt e.2.1 = e.2.2)
        if s.oldAccess c.num o.dumpVa len || !w.linesFit false (l.map fun e => e.2.1 / 64) then w
        else
          ((l.foldl (fun (k : Work) e => k.editEntry w.sysCore.1 c.num e.1 e.2.1 0 none) w.sysCore.2).shoot w.sysCore.1 c.num o.dumpVa len).1

/-- `READ_DUMP`: a dump slot of the tenant, or the translation log; through physical function 0 every record of the log. -/
def execReadDump (fn : Nat) (tenant : W64) (slot : Option Nat) (release : Bool) (hostAddr : Nat) (s : State) :
    Host.Outcome State Fault Refusal :=
  s.finish (s.work.command fn 0x60 false fun w =>
    let send := fun (k : Work) (bs : List Byte) =>
      (k.put (.put .host hostAddr bs 0 true)).answer fn none ⟨0, leBytes 8 bs.length, false⟩
    match slot with
    | none =>
      let of := fun (n : Nat) => s.ctxs.any fun c => decide (c.num = n) && decide (c.tenant = tenant)
      send w (((s.tlogFlash ++ s.tlog).filter fun r => decide (fn = 0) || of r.ctx).flatMap tlogBytes)
    | some n =>
      if !s.readsDumps fn tenant then w.decline fn 4
      else
        match (s.tenantDumps tenant)[n]? with
        | none => w.decline fn 2
        | some none => w.decline fn 6
        | some (some d) => send (if release then w.releaseSlot tenant n else w) d.bytes)

/-! ### Configuration (R314, R323, R327, R371) -/

def allPorts (l : List Peer) : List Nat := l.flatMap (·.ports)

/-- The ranges of a configure-links command: at most 256 modules and entries, ports 0 to 11, none of them of the safe tier. -/
def linksOk (p : LinkParams) (s : State) : Bool :=
  let peers := p.members ++ p.externals
  decide (p.self < 256) && decide (p.members.length ≤ 256) && decide (p.externals.length ≤ 256) &&
  peers.all (fun e => decide (e.num < 256) && decide (e.far < 256)) &&
  (allPorts peers ++ p.enable ++ p.disable ++ p.retire).all (fun n => decide (n < 12)) &&
  (allPorts peers).all fun n => !(s.port n).safeTier

/-- The port events of a configure-links command (Table 17.2). What a port that leaves has not had acknowledged goes on where its module has
another usable port (R323). Elsewhere a port that is disabled discards it, and one that is retired keeps it for a port that comes up later. -/
def State.switchPorts (s : State) (p : LinkParams) : State :=
  let on := p.enable.foldl (fun (k : State) n =>
    let q := k.port n
    if q.state = .down ∨ q.state = .fenced then k.setPort n { q with state := .training } else k) s
  let leave := fun (new : PState) (k : State) (n : Nat) =>
    if (k.port n).state = .retired then k else (k.setPort n { k.port n with state := new }).rerouteAll
  let off := p.disable.foldl (fun (k : State) n =>
    let k1 := leave .down k n
    if (k1.port n).state = .retired then k1 else k1.setPort n { k1.port n with replay := [], queue := [], owed := 0 }) on
  p.retire.foldl (leave .retired) off

/-- A map accepted: it waits for its seal. In a seal that is not agreed yet, the modules that it admits are asked in at once, and those that
an earlier one would have admitted are let go (R327, log 58). -/
def State.acceptMap (s : State) (map : DomainMap) : State :=
  let pends := fun (t : State) (m : Option DomainMap) => { t with rcv := { t.rcv with mapChange := m, called := none } }
  let new := pends s (if map = s.map then none else some map)
  let under := s.leads && !s.rcv.joining &&
    (decide (s.rcv.phase = .stopping) || decide (s.rcv.phase = .writing) || decide (s.rcv.phase = .ready))
  let asked := if under then new.asks else s.rcv.asked
  let n := s.rcv.sealing.getD s.rin.toNat
  let away := (s.rcv.asked.filter fun m => !asked.contains m).foldl (fun k m => k.tell m 3 n) s
  let k := (asked.filter fun m => !s.rcv.asked.contains m).foldl (fun k m => k.tell m 0 n) (pends away new.rcv.mapChange)
  let t := { k with rcv := { k.rcv with asked := asked, readyFrom := k.rcv.readyFrom.filter fun m => s.present.contains m || asked.contains m } }
  if map = s.map then t else t.askSeal

/-- `CONFIGURE_LINKS`: ports at once, the domain map at the first seal that completes. -/
def execConfigureLinks (fn : Nat) (p : LinkParams) (s : State) : Host.Outcome State Fault Refusal :=
  s.finish (s.work.command fn 0x70 true fun w =>
    if !linksOk p s then w.decline fn 2
    else
      let map : DomainMap := ⟨p.self, p.members, p.externals⟩
      (w.mod fun t => (t.switchPorts p).acceptMap map).answer fn none ⟨0, [], false⟩)

/-- Bytes of a safe-tier slot (Table 16.4). -/
def slotBytes : Nat := 2 ^ 21 + 64

def mgmtOk (p : MgmtParams) (s : State) : Bool :=
  decide (2000 ≤ p.powerCap) && decide (p.powerCap ≤ 4200) &&
  (if p.hostForm then p.ports.isEmpty
   else decide (1 ≤ p.ports.length) && decide (p.ports.length ≤ 12) &&
     let maps := s.map :: s.rcv.mapChange.toList
     p.ports.all fun n => decide (n < 12) && !(allPorts (maps.flatMap fun m => m.members ++ m.externals)).contains n)

/-- `CONFIGURE_MANAGEMENT`: the safe tier, capture and the power cap. -/
def execConfigureManagement (fn : Nat) (p : MgmtParams) (s : State) : Host.Outcome State Fault Refusal :=
  s.finish (s.work.command fn 0x71 true fun w =>
    if !mgmtOk p s then w.decline fn 2
    else
      (w.mod fun t =>
        let ended := if t.mgmt.capture && !p.capture then t.capture 0 .stop else t
        let ports := ended.ports.zipIdx.map fun e => { e.1 with safeTier := !p.hostForm && p.ports.contains e.2 }
        { ended with
          ports := ports,
          safe := { ended.safe with configured := true, hostForm := p.hostForm, base := p.base, size := p.size,
                                    slots := if p.hostForm then p.size / slotBytes else p.slots },
          mgmt := { ended.mgmt with capture := p.capture, powerCap := p.powerCap } }).answer fn none ⟨0, [], false⟩)

/-! ### Resets (R396) -/

/-- The contexts of a function destroyed, without dumps. -/
def Work.destroyAll (w : Work) (fn : Nat) : Work :=
  (w.st.ctxs.filter fun c => decide (c.fn = fn)).foldl (fun (k : Work) c => k.destroy c) w

/-- `RESET_FUNCTION`: the command of the function, or a function-level reset, after which an outstanding command gets no reply. -/
def execResetFunction (fn : Nat) (s : State) : Host.Outcome State Fault Refusal :=
  let k := s.work.destroyAll fn
  s.finish (
    match (s.fn? fn).bind (·.cmd) with
    | some c =>
      if c.opc = 0x7F ∧ c.status.isNone then k.answer fn none ⟨0, [], false⟩
      else k.mod fun t => t.mapFn fn fun f => { f with busy := false, cmd := none }
    | none => k)

/-- `RESET_MODULE`: the reply is written, then the module resets; the command page keeps it. -/
def execResetModule (fn : Nat) (s : State) : Host.Outcome State Fault Refusal :=
  s.finish (s.work.command fn 0x7F true fun w =>
    let seq := ((s.fn? fn).map (·.hdrSeq)).getD 0
    w.moduleReset [{ num := fn, rseq := seq, msix := ((s.fn? fn).map (·.msix)).getD 0 + 1 }])

/-! ### Commands carried on (R393), replay (R372) -/

/-- The context that a snapshot names stopped again where a rollback before its seal has set it running (R393, R394). -/
def Work.stopAgain (w : Work) (ctx : Option Nat) : Work :=
  match ctx.bind w.st.ctx? with
  | some c =>
    if (c.state = .live ∨ c.state = .idle) ∧ !w.st.rcv.snap ∧ w.st.mayForce c.num then w.stopCtx c.num else w
  | none => w

/-- A command that a rollback undid, or that waits, performed by the firmware. -/
def Work.carryOn (w : Work) (f : Fn) : Work :=
  match f.cmd with
  | none => w
  | some c =>
    if c.status.isSome then w
    else
      match c.again with
      | none => w
      | some (.create p) => doCreate f.num p w
      | some (.destroy n e) => doDestroy f.num n e w
      | some (.stop n) => doStop f.num n w
      | some (.resume n) => doResume f.num n w
      | some (.map p) => doMap f.num p w
      | some (.unmap n va len) => doUnmap f.num n va len w
      | some (.imported n va h len) => doImport f.num n va h len c.done w
      | some (.exported n va h len) => doExport f.num n va h len w
      | some (.runRoot n va) => doRunRoot f.num n va w
      | some (.snapshot n) => if w.st.rcv.snapFn = some f.num then w.stopAgain n else doSnapshot f.num n w
      | some .restore => doRestore f.num w

/-- A snapshot's context stopped again, ahead of the seal that is to begin its stream. -/
def Work.stopNamed (w : Work) : Work :=
  w.st.fns.foldl (fun (k : Work) f =>
    match f.cmd.bind (·.again) with
    | some (.snapshot n) => if k.st.rcv.snapFn = some f.num then k.stopAgain n else k
    | _ => k) w

/-- One captured input performed at a replay, where it can be done now, with what is left of it: an import goes on as the logs have room, and a
run root is given again until its queue takes it. -/
def Work.replayEntry (w : Work) (e : Capture) : Option (Work × Option Capture) :=
  match e.body with
  | .create p =>
    if (w.st.ctx? p.num).isSome || decide (w.st.freeQueues.length < p.shares.length) || !w.st.capturable p then none
    else some ((((w.mod fun s => s.createCtx 0 p).writeHeader p.num).dumpHead p.num), none)
  | .tickets q weight tickets => some (w.mod fun s => s.mapQueue q fun x => { x with weight := weight, tickets := tickets }, none)
  | .imported va hostAddr bytes =>
    match hostPieces w.st e.ctx va bytes.length true (bytes.length / 2 ^ 16 + 2) with
    | some l =>
      let n := w.importRoom l
      let left := bytes.drop n
      if n = 0 ∧ !bytes.isEmpty then none
      else some (w.importTo e.ctx l (bytes.take n),
        if left.isEmpty then none else some { e with body := .imported (va + n) hostAddr left })
    | none => none
  | .runRoot recVa =>
    match w.st.ctx? e.ctx with
    | some c =>
      if c.state = .stopped ∨ c.state = .ending ∨ c.state = .ended ∨ w.rootWaits c recVa then none
      else
        match w.queueRoot c recVa with
        | some (0, k) => some (k, none)
        | _ => none
    | none => none
  | _ => some (w, none)

/-- The inputs of a replay in capture order, each as soon as it can be done (R372). -/
def Work.replayNext (w : Work) : Work :=
  match w.st.mgmt.inputs with
  | [] => w
  | e :: rest =>
    match w.replayEntry e with
    | none => w
    | some (k, left) => k.mod fun s => { s with mgmt := { s.mgmt with inputs := left.toList ++ rest } }

/-- The entries that a replay performs. -/
def isInput (e : Capture) : Bool :=
  match e.body with
  | .create _ => true
  | .tickets _ _ _ => true
  | .imported _ _ _ => true
  | .runRoot _ => true
  | _ => false

/-- Entries that a replay compares with: accepted `qput` words that are not void, and the end. -/
def expected (l : List Capture) : List Capture :=
  (notVoid l).filter fun e =>
    match e.body with
    | .put _ _ _ => true
    | .stop => true
    | _ => false

/-- `REPLAY_START`: in test service the controller re-creates the contexts and performs the captured inputs one after another. A capture that is
enabled ends with it (Table 20.6). -/
def execReplayStart (s : State) : Host.Outcome State Fault Refusal :=
  s.finish (
    if !s.mgmt.test ∨ s.mgmt.replay.isSome ∨ s.mgmt.captured.isEmpty then s.work
    else
      s.work.mod fun t =>
        let k := if t.mgmt.capture then t.capture 0 .stop else t
        { k with mgmt := { k.mgmt with
            replay := some (expected k.mgmt.captured), inputs := k.mgmt.captured.filter isInput, diverged := false, capture := false } })

/-- At the captured end the controller stops the contexts (R372). -/
def Work.endReplay (w : Work) : Work :=
  match w.st.mgmt.replay with
  | some (e :: _) =>
    if e.body = .stop then
      let live := (w.st.ctxs.filter fun c => decide (c.state = .live) || decide (c.state = .idle)).map (·.num)
      if live.all w.st.mayForce then
        (live.foldl (fun (k : Work) n => k.stopCtx n) w).mod fun s => { s with mgmt := { s.mgmt with replay := none } }
      else w
    else w
  | _ => w

end Sys2Proof.Machine
end

