-- ==== Sys2Proof/Machine/Sequencer.lean ====
section
/-! DEFINITION. The convoy sequencer: which strands are ready, the choice of a slab-cycle, what it charges, the clock, and what the
units beside the cores do meanwhile (spec/02 R39 to R44; spec/06 R131; spec/11 R262 to R268; spec/12 R275, R280; spec/18 R333, R336). -/

namespace Sys2Proof.Machine

/-! ### Ready strands (R44) -/

/-- Whether a delivery ends the wait of the strand in front (R210). -/
def Strand.delivery (t : Strand) (tags : W64) (chs : BitVec 4) (all : Bool) : Bool := !t.nest && (t.due tags chs all).isSome

/-- Whether the wait of the strand in front is over. A poll of a value that is free, or one that stops, ends its wait (log 10). A wait that its
timeout has ended is over (R232, R298, R301). -/
def State.waitOver (s : State) : Bool :=
  let t := s.strand
  match t.waiting with
  | .none => true
  | .tags any m => t.delivery m 0 false || (if any then decide (t.tags &&& m ≠ 0) else decide (t.tags &&& m = m))
  | .drained l chs all =>
    t.delivery (BitVec.allOnes 64) chs all || (if all then s.inFlight.isEmpty else (s.stillPending l).isEmpty)
  | .cmds l => (s.stillPending l).isEmpty
  | .room ch => decide ((s.onChannels (BitVec.ofNat 4 (2 ^ ch))).length < 32)
  | .heathRoom => decide ((s.heathOf t).length < 64) && (!s.rootLine.contains t.sid || s.rootAdmits t.sid)
  | .tagBusy tag => !s.tagBusy tag
  | .barrier b g => decide ((s.barrier b).gen ≠ g)
  | .ring _ st i => (s.ring (t.g.core / 24) st).posted i
  | .ringRoom st i => ((s.ring (t.g.core / 24) st).post i).isSome
  | .mem _ va old _ _ =>
    match s.work.watched va with
    | .ok (v, k) => decide (k.st.fresh ≠ s.fresh) || decide (v ≠ old)
    | .error _ => true
  | .written => true
  | .timer => decide (t.tmcmp.toNat ≤ (s.core t.g.core).cycle.toNat)
  | .sealed n => s.sealedUpTo n
  | .held n => s.heldOut t n
  | .groupOthers => s.othersEnded
  | .log heath _ lines => s.work.linesFit heath lines
  | .holdFull n => s.holdTakes n
  | .migrating page => !(s.pages.any fun q => decide (q.ctx = t.g.ctx) && decide (q.page = page) && q.migrating)
  | .flight =>
    !t.flight.out &&
    match t.flight with
    | .evict _ _ => false
    | .restore _ _ _ => false
    | _ => true
  | .bank core b => !(s.core core).banksOff.getLsbD b
  | .link m => (s.primary false m).isSome || !s.inTraining false m
  | .stack k => s.mgmt.stacksOn.getLsbD k

/-- Whether something of a strand waits on a port in training (R324): a remote store that its port has still to send, or a command. -/
def State.portStalls (s : State) (t : Strand) : Bool :=
  (t.remotes.any fun e => s.ports.any fun p => decide (p.state = .training) && p.queue.any fun f => decide (f.uid = e.uid)) ||
  s.cmds.any fun c => decide (c.gid * 4 + c.sidx = t.sid) && c.portHeld s

/-- A strand that may issue in this slab-cycle. -/
def State.ready (s : State) (t : Strand) : Bool :=
  s.mayAct t && !s.rcv.mustRoll && !s.beingSaved t && (s.pendWait t).isNone && !s.portStalls t &&
  ((s.focusStrand t.sid).map State.waitOver).getD false

/-- The ready strands of a core. -/
def State.readyOn (s : State) (core : Nat) : List Strand := s.strands.filter fun t => decide (t.g.core = core) && s.ready t

/-! ### The raising rule (R40, R42) -/

def State.weightOf (s : State) (q : Nat) : Nat := ((s.queue? q).map (·.weight)).getD 1
def State.strideFor (s : State) (q : Nat) : Nat := ((s.queue? q).map strideOf).getD 0

/-- A core's charge and pass value of a queue. -/
def Core.chargeOf (c : Core) (q : Nat) : Nat := if h : q < 64 then (c.charge[q]).toNat else 0
def Core.passOf (c : Core) (q : Nat) : Nat := if h : q < 64 then (c.pass[q]).toNat else 0
def Core.setCharge (c : Core) (q n : Nat) : Core :=
  if h : q < 64 then { c with charge := c.charge.set q (BitVec.ofNat 64 (min (2 ^ 64 - 1) n)) h } else c
def Core.setPass (c : Core) (q n : Nat) : Core :=
  if h : q < 64 then { c with pass := c.pass.set q (BitVec.ofNat 64 (min (2 ^ 64 - 1) n)) h } else c

/-- The least charge and weight of a list by charge per weight. -/
def leastShare (l : List (Nat × Nat)) : Option (Nat × Nat) := bestOffer (fun a b => decide (a.1 * b.2 < b.1 * a.2)) l

/-- A core's charges, or pass values, raised for the queues that become ready, against those that were ready and still are; where
there are none, against the queue chosen last, and else 0. -/
def State.raiseFor (s : State) (c : Core) (queues : List Nat) : Core :=
  let old := queues.filter c.readyPrev.contains
  let new := queues.filter fun q => !c.readyPrev.contains q
  let up :=
    if s.svcmode = 0 then
      let share := match leastShare (old.map fun q => (c.chargeOf q, s.weightOf q)) with
        | some r => r
        | none => match c.lastQ with
          | some l => (l.2.1.toNat, l.1)
          | none => (0, 1)
      new.foldl (fun (k : Core) q => k.setCharge q (max (k.chargeOf q) (share.1 * s.weightOf q / share.2))) c
    else
      let least := match leastOf (old.map c.passOf) with
        | some p => p
        | none => (c.lastQ.map fun l => l.2.2.toNat).getD 0
      new.foldl (fun (k : Core) q => k.setPass q (max (k.passOf q) least)) c
  { up with readyPrev := queues }

/-- The state in which the sequencer of a core chooses. A seal stop leaves the sequencer as it is. -/
def State.raised (s : State) (core : Nat) : State :=
  if s.stopped then s else s.setCore (s.raiseFor (s.core core) ((s.readyOn core).map (·.g.queue)).eraseDups)

/-! ### The choice (R40 to R42) -/

/-- A ready strand as the sequencer compares it. -/
structure Offer where
  sid : Nat
  hw : Nat
  hs : Nat
  left : Nat
  since : Nat
  overdue : Bool
  charge : Nat
  pass : Nat
  weight : Nat
  deriving DecidableEq, Repr

/-- Whether the strand in front issues slab steps next: it is between the steps of a convoy, or the word at its pc has them. -/
def State.stepsNext (s : State) : Bool :=
  s.strand.snap.isSome ||
  match s.work.fetch s.strand.pc with
  | .ok (x, _) => mayChain x.toNat
  | .error _ => false

/-- The remaining elements of the convoy of the strand in front: `vl` − `vslab` × E, 0 for a scalar convoy. -/
def State.remaining (s : State) : Nat :=
  if s.stepsNext then s.strand.vl.toNat - s.strand.vslab.toNat * s.strand.epr s.strand.sew else 0

def State.offer (s : State) (t : Strand) : Offer :=
  let c := s.core t.g.core
  { sid := t.sid, hw := t.g.queue, hs := t.hs, left := ((s.focusStrand t.sid).map State.remaining).getD 0, since := t.since,
    overdue := t.overdue, charge := c.chargeOf t.g.queue, pass := c.passOf t.g.queue, weight := s.weightOf t.g.queue }

/-- Whether offer `a` is chosen before offer `b`. -/
def issueBefore (stride : Bool) (a b : Offer) : Bool :=
  let tail := if a.left ≠ b.left then decide (a.left < b.left) else decide (a.hs < b.hs)
  if a.overdue ≠ b.overdue then a.overdue
  else if a.overdue then (if a.since ≠ b.since then decide (b.since < a.since) else decide (a.hs < b.hs))
  else if stride then
    if a.pass ≠ b.pass then decide (a.pass < b.pass) else if a.hw ≠ b.hw then decide (a.hw < b.hw) else tail
  else if a.charge * b.weight ≠ b.charge * a.weight then decide (a.charge * b.weight < b.charge * a.weight)
  else tail

/-- Whether lane reclaim splits a core (R267). -/
def Core.isSplit (c : Core) : Bool := c.halves.isSome

/-- Whether a strand is of the half that chooses now. -/
def Core.choosesFor (c : Core) (t : Strand) : Bool := !c.isSplit || decide (t.g.upper = c.half)

/-- The strand that a core chooses. -/
def State.chosen (s : State) (core : Nat) : Option Offer :=
  bestOffer (issueBefore (decide (s.svcmode ≠ 0))) (((s.readyOn core).filter (s.core core).choosesFor).map s.offer)

/-- What a choice charges: the convoy's grouping, 1 for a scalar convoy. -/
def State.grouping (s : State) : Nat := if s.stepsNext then s.strand.grp else 1

/-- The chosen queue charged, or its pass value advanced. -/
def State.charged (s : State) (core : Nat) (o : Offer) (g : Nat) : State :=
  let c := s.core core
  let c1 := if s.svcmode = 0 then c.setCharge o.hw (o.charge + g) else c.setPass o.hw (o.pass + s.strideFor o.hw)
  s.setCore { c1 with lastQ := some (o.weight, BitVec.ofNat 64 o.charge, BitVec.ofNat 64 o.pass) }

/-- An undo-log stall that has ended, as the strand's word has issued, is traced with its clocks and its store (KIND 7). -/
def Work.endStall (w : Work) (k : Wait) : Work :=
  match k with
  | .log _ va _ => (w.trace 7 (min (2 ^ 32 - 1) w.cur.stalled) (BitVec.ofNat 64 va)).upd fun t => { t with stalled := 0 }
  | .holdFull _ => w.upd fun t => { t with stalled := 0 }
  | _ => w

/-- The state in which the chosen strand issues: it stands in front, it has dispatched, and its queue is charged. DESIGN CHOICE (log 80): the word
itself already finds the charge, or the pass value, of its own slab-cycle in `sqchg` and `sqpass`. -/
def State.takeUp (s : State) (core : Nat) (o : Offer) : Option State :=
  (s.focusStrand o.sid).map fun k =>
    let c := k.charged core o k.grouping
    { c with strand := { c.strand with started := true } }

/-! ### The units beside the cores -/

/-- The next move of a seal (R334, R336): the stop, the resume, the images, the commit, or a request. -/
def Work.sealMove (w : Work) : Option Work :=
  let s := w.st
  match s.rcv.phase with
  | .stopping => if s.rcv.mustRoll then none else some w.stopCores
  | .writing =>
    if s.rcv.mustRoll then none
    else if !s.rcv.resumed then some w.resumeCores
    else match s.handedNewer with
      | some e => some (w.scrubHanded e)
      | none => some w.imagesDone
  | .ready =>
    if s.rcv.mustRoll then none
    else match s.handedNewer with
      | some e => some (w.scrubHanded e)
      | none => if !s.leads then none else if s.decideCommit.rcv.phase = .ready then none else some (w.mod State.decideCommit)
  | .committing =>
    if !s.leads then none
    else if s.mayCommit then some w.commitFree
    else if s.rcv.mustRoll then none
    else s.handedNewer.map w.scrubHanded
  | .running =>
    if s.rcv.called.isSome && s.mayJoin && s.sealable then some w.joinSeal
    else if !s.rcv.requested || !s.sealable then none
    else if s.leads then some (w.startSeal true)
    else some (w.mod fun t => { t.tell t.coordinator 4 t.rin.toNat with rcv := { t.rcv with requested := false } })

/-- A list from its nth entry on, the earlier ones behind. -/
def rotated {α : Type} (l : List α) (n : Nat) : List α := l.drop (n % l.length) ++ l.take (n % l.length)

/-- One command of class 4 that can move. -/
def Work.cmdMove (w : Work) : Option Work :=
  let can := fun (c : Cmd) =>
    match c.body with
    | .copy _ _ _ none .landed => true
    | _ => c.mayMove w.st
  ((rotated w.st.cmds w.st.turn).find? can).map fun c => (w.advance c.uid).settle

/-- The next phase of one Heath command (R190). -/
def Work.heathStep (w : Work) (c : HCmd) : Work :=
  match c.body with
  | .query kind b _ 0 st _ _ =>
    match st with
    | .issued => w.mod fun s => s.setHeath (s.slotCheck c)
    | .slotOk => if kind = .ses ∧ b.offset = canonNaN32 then w.mod fun s => s.setHeath (w.passOne c) else w.replyQuery c
    | _ => w.replyQuery c
  | .query _ _ _ _ _ _ _ => w.replyQuery c
  | .bcast _ _ _ _ => w.landBcast c
  | .move _ _ _ => w.finishMove c none
def Work.heathMove (w : Work) : Option Work :=
  ((rotated w.st.queries w.st.turn).find? fun c => c.ready w.st).map fun c => (w.heathStep c).settle

/-- A save under way that can be written (R263, R264, R387). -/
def Work.saveMove (w : Work) : Option Work := (w.st.cores.find? w.st.saveDue).map w.saveCore

/-- The walkers' next placement. -/
def Work.walkMove (w : Work) : Option Work := if w.st.stopped then none else w.walk

/-- A saved group that comes back: its core is its context's, or no one's, or that of a context with nothing left to place. -/
def Work.restoreMove (w : Work) : Option Work :=
  let s := w.st
  let free := fun (g : Group) =>
    (s.core g.place.core).isSplit ||
    match (s.core g.place.core).owner with
    | none => true
    | some n => decide (n = g.place.ctx) || !(s.kernels.any fun k => decide (k.ctx = n) && decide (k.state ≠ .draining))
  (s.groups.find? fun g => s.canReturn g && free g).map w.restoreGroup

/-- A return of lanes that is due (R265). -/
def Work.laneMove (w : Work) : Option Work := (w.st.groups.find? w.st.handsBack).map w.returnLanes

/-- One move of the units beside the cores, each kind first in its turn; then what waits for evictions, host commands and a replay. -/
def Work.engines (w : Work) : Work :=
  let kinds : List (Work → Option Work) :=
    [Work.sealMove, Work.cmdMove, Work.heathMove, Work.saveMove, Work.walkMove, Work.restoreMove, Work.laneMove]
  let named := w.stopNamed
  let k := ((rotated kinds w.st.turn).findSome? fun f => f named).getD named
  let paged := (k.st.strands.map Strand.sid).foldl (fun (j : Work) i => j.onStrand i fun x => x.finishEvict.finishRestore) k
  ((paged.st.fns.foldl Work.carryOn paged).mapDumps.replayNext).endReplay

/-! ### The clock -/

/-- Waits that a timeout bounds. -/
def Wait.timed (k : Wait) : Bool :=
  match k with
  | .barrier _ _ => true
  | .ring _ _ _ => true
  | .mem _ _ _ _ _ => true
  | _ => false

/-- How long a strand has been ready without issuing (R41). -/
def Strand.counted (t : Strand) (ready issued : Bool) : Strand :=
  if issued then { t with since := 0, wasReady := true, overdue := false }
  else if ready then
    { t with since := t.since + 1, wasReady := true, overdue := t.overdue || decide (Config.overdueAfter ≤ t.since + 1) }
  else { t with since := 0, wasReady := false, overdue := false }

/-- The waiting count of a group placed by pre-emption (R265). -/
def State.countGroup (s : State) (core : Nat) (ready : List Nat) (g : Group) : Group :=
  let ts := s.strands.filter fun t => decide (t.g.gid = g.place.gid) && !t.ended
  if !g.byPreempt ∨ g.place.core ≠ core ∨ g.state = .preempted then g
  else if ts.any fun t => ready.contains t.sid then
    { g with readyRun := g.readyRun + 1, waitCount := if Config.laneReturnReset ≤ g.readyRun + 1 then 0 else g.waitCount }
  else if !ts.isEmpty && ts.all fun t => t.waiting.gives then { g with waitCount := g.waitCount + 1, readyRun := 0 }
  else { g with readyRun := 0 }

/-- Whether the wait of a strand is still to end. -/
def State.stillWaits (s : State) (t : Strand) : Bool := !(((s.focusStrand t.sid).map State.waitOver).getD true)

/-- Whether a strand stalls on a full log or hold: at its word, or behind the stores that its strip has drained (R280, R328). -/
def State.stallsNow (s : State) (t : Strand) : Bool := !t.ended && ((t.waiting.stalls && s.stillWaits t) || s.pendStalls t)

/-- A strand at the end of a slab-cycle (R131, R232, R280, R298, R301): its timer is sampled and its counts go on. -/
def State.tick (s : State) (t : Strand) : Strand :=
  { t with
    timerHit := s.timerDue t,
    waitT := if t.waiting.timed && !s.stopped then t.waitT + 1 else t.waitT,
    stalled := if s.stallsNow t then t.stalled + 1 else t.stalled }

/-- A slab-cycle's end on a core (R131, R265, R280): the timer is sampled, the counts go on, the clock advances. -/
def State.clock (s : State) (core : Nat) (ready : List Nat) : State :=
  let on := fun (t : Strand) => decide (t.g.core = core)
  let stalled := s.strands.any fun t => on t && s.stallsNow t
  let s1 := s.mapStrands fun t => if on t then s.tick t else t
  let s2 := if s.stopped then s1 else { s1 with groups := s1.groups.map (s1.countGroup core ready) }
  let c := (s2.core core).settled
  s2.setCore { c with
    cycle := c.cycle + 1, half := false, trcQueue := c.trcQueue - 2, undostall := if stalled then c.undostall + 1 else c.undostall }

/-- The core whose sequencer is next: the following one that has strands. -/
def State.nextFocus (s : State) : Nat :=
  let cores := (s.strands.filter fun t => !t.ended).map (·.g.core)
  match leastOf (cores.filter fun c => decide (s.focus < c)) with
  | some c => c
  | none => (leastOf cores).getD s.focus

/-- Queues whose every ready strand is stalled, and those for which the early seal that this forced has completed, so that none is any more
(Table 12.1); a seal stop makes no difference. -/
def State.stallCheck (s : State) : State :=
  let waits := fun (q : Nat) => s.strands.any fun t => decide (t.g.queue = q) && s.stallsNow t
  let runs := fun (q : Nat) => s.strands.any fun t =>
    decide (t.g.queue = q) && !t.ended && !s.stillWaits t && (s.pendWait t).isNone && !s.portStalls t
  let stalls := fun (q : Queue) => { q with state := .stalled, stalledIn := s.rin.toNat }
  { s with queues := s.queues.map fun q =>
      if q.state = .active ∧ waits q.hw ∧ !runs q.hw then stalls q
      else if q.state = .stalled ∧ s.sealedUpTo q.stalledIn then (if waits q.hw then stalls q else { q with state := .active })
      else q }

/-- An early seal asked for at 75 % of a log (R333), or for a full hold (R328). -/
def State.fillCheck (s : State) : State :=
  let full := decide (3 * Config.undoCapF ≤ 4 * s.undoF.length) || decide (3 * Config.undoCapH ≤ 4 * s.undoH.length) ||
    s.strands.any s.stallsNow
  if full && decide (s.rcv.phase = .running) && !s.rcv.requested then s.askSeal else s

/-- Numbers in ascending order. -/
def ascending (l : List Nat) : List Nat := l.foldr (fun n k => k.takeWhile (fun m => decide (m < n)) ++ n :: k.dropWhile fun m => decide (m < n)) []

/-- The clocks of all cores level with the one that is ahead, those that came to hold strands within the clock, or hold none, among them
(R131, R386): their timers are sampled. -/
def State.levelled (s : State) : State :=
  let now := (s.cores.map (·.cycle)).foldl (fun (a b : W64) => if a.toNat < b.toNat then b else a) s.idleCycle
  let k := { s with idleCycle := now, cores := s.cores.map fun (c : Core) => { c.settled with cycle := now } }
  k.mapStrands fun t => if (s.core t.g.core).cycle = now then t else k.sampled t

/-- The end of an arithmetic clock, which every core has run: waits whose timeout has come end, no advance, post or store of the clock having ended
them (R298, R299, R301), those of a group in the order of their strands (R293), and all clocks stand level. -/
def Work.endRound (w : Work) : Work :=
  ((ascending ((w.st.strands.filter w.st.expiring).map Strand.sid)).foldl (fun (k : Work) sid => k.onStrand sid Work.expire) w).mod
    State.levelled

/-- The end of a slab-cycle of a core, or of one half's choice where the core is split: what follows at once from the step, the
counts, the clock, and the next core. -/
def Work.endCycle (w : Work) (core : Nat) (ready : List Nat) (issued : Option Nat) : Work :=
  let k := (if w.st.turn % 64 = 63 then w.engines else w).aftermath
  let c := k.st.core core
  let first := c.isSplit && !c.half
  let k1 := k.mod fun s =>
    let s1 := s.mapStrands fun t =>
      if t.g.core = core ∧ c.choosesFor t then t.counted (ready.contains t.sid) (decide (issued = some t.sid)) else t
    let s2 := if first then s1.setCore { c with half := true } else (s1.clock core ready).stallCheck
    s2.fillCheck
  let next := if first then k1.st.focus else k1.st.nextFocus
  let k2 := if !first && decide (next ≤ k1.st.focus) then k1.endRound else k1
  k2.mod fun s => { s with turn := s.turn + 1, focus := next }

/-- The pipe of a word without slab steps (R367): the engine interface, the matrix engine, or the scalar pipe. DESIGN CHOICE (log 73). -/
def wordPipe (w : Nat) : Nat :=
  let m := majorOf w
  if 0x36 ≤ m ∧ m ≤ 0x3E then 9 else if m = 0x30 ∨ m = 0x31 then 7 else 0

/-- A word enters its pipe: one without slab steps dispatches at a convoy boundary, and begins its pipe event. -/
def State.enter (s : State) (x : W32) : State :=
  if mayChain x.toNat then s
  else
    let k := { s with strand := s.strand.noSteps }
    if s.strand.waiting = .none then k.pipeEvent 10 (wordPipe x.toNat) 0 0 s.strand.pc else k

/-- A word without slab steps that has retired leaves its pipe. -/
def Work.leave (w : Work) (x : W32) (before : Strand) : Work :=
  if mayChain x.toNat || decide (w.cur.cvret = before.cvret) then w
  else w.mod fun s => s.pipeEvent 11 (wordPipe x.toNat) 0 0 before.pc

/-- What follows an issue. A word that turned out to wait has issued nothing, and its queue is not charged. -/
def Work.afterIssue (w : Work) (before : State) (core : Nat) (o : Offer) : Work :=
  let waits := w.st.strands.any fun t => decide (t.sid = o.sid) && !t.ended && decide (t.waiting ≠ .none)
  let ready := (before.readyOn core).map Strand.sid
  if waits then
    (w.mod fun s =>
      let c := s.core core
      let b := before.core core
      s.setCore { (c.setCharge o.hw o.charge).setPass o.hw o.pass with lastQ := b.lastQ }).endCycle core (ready.erase o.sid) none
  else
    let go := match before.focusStrand o.sid with
      | none => w
      | some b => w.onStrand o.sid fun k =>
          let j := k.endStall b.strand.waiting
          match b.strand.snap, b.work.fetch b.strand.pc with
          | none, .ok (x, _) => j.leave x b.strand
          | _, _ => j
    go.endCycle core ready (some o.sid)

/-! ### A slab-cycle -/

/-- The strand of a core whose timer fired at the end of the slab-cycle before, after every event that goes before it (R39). -/
def State.timerStrand (s : State) (core : Nat) : Option Nat :=
  (s.strands.find? fun t =>
    decide (t.g.core = core) && s.timerReady t).map Strand.sid

/-- The next word of the strand in front, performed by `issue`: between slab steps the one that its convoy dispatched with, else the word
at its pc; a fault of its fetch is its trap (check 1). -/
def dispatch (issue : W32 → State → Host.Outcome State Fault Refusal) (s : State) : Host.Outcome State Fault Refusal :=
  match s.strand.snap with
  | some d => issue (d.words.headD 0) s
  | none =>
    match s.work.fetch s.strand.pc with
    | .error t => s.finish (s.work.takeTrap false t)
    | .ok (x, w) =>
      if w.absent then .fault .absentMemory
      else issue x (w.st.enter x)

/-- One slab-cycle of a core: a timer trap that is due, else the chosen strand's word or slab step, else the units beside it. -/
def slabCycleWith (issue : W32 → State → Host.Outcome State Fault Refusal) (core : Nat) (s : State) :
    Host.Outcome State Fault Refusal :=
  match s.timerStrand core with
  | some sid => s.finish (s.work.onStrand sid Work.timerTrap)
  | none =>
    let r := s.raised core
    match r.chosen core with
    | none => s.finish ((r.work.engines).endCycle core [] none)
    | some o =>
      match r.takeUp core o with
      | none => s.finish r.work
      | some k =>
        match dispatch issue k with
        | .next t => t.finish (t.work.afterIssue r core o)
        | .fault f => .fault f
        | .refused f => .refused f

/-! ### Words that name no instruction, and words by their bits -/

/-- A word that checks 2 to 4 stop, behind the fetch of its convoy (check 1). A vector-class word is checked with its convoy. -/
def Work.undecoded (w : Work) (x : W32) (e : DecodeError) : Work :=
  if vectorClass x.toNat then convoyOf x w
  else
    match w.convoyWords x with
    | .error t => w.takeTrap false t
    | .ok (_, k) =>
      match e with
      | .framing => k.illegal 2 w.cur.pc
      | .undefined => k.illegal 0 (zext x)
      | .reserved => k.illegal 1 (zext x)
      | .badField => k.illegal 4 (zext x)

/-- An instruction of the majors below 0x3C performed, as the dispatch performs it. -/
def issueLow (i : Instr) (s : State) : Host.Outcome State Fault Refusal :=
  match i with
  | .add d a b => execAdd d a b s
  | .sub d a b => execSub d a b s
  | .and d a b => execAnd d a b s
  | .or d a b => execOr d a b s
  | .xor d a b => execXor d a b s
  | .sll d a b => execSll d a b s
  | .srl d a b => execSrl d a b s
  | .sra d a b => execSra d a b s
  | .slt d a b => execSlt d a b s
  | .sltu d a b => execSltu d a b s
  | .mul d a b => execMul d a b s
  | .mulh d a b => execMulh d a b s
  | .mulhu d a b => execMulhu d a b s
  | .div d a b => execDiv d a b s
  | .divu d a b => execDivu d a b s
  | .rem d a b => execRem d a b s
  | .remu d a b => execRemu d a b s
  | .min d a b => execMin d a b s
  | .max d a b => execMax d a b s
  | .minu d a b => execMinu d a b s
  | .maxu d a b => execMaxu d a b s
  | .clz d a => execClz d a s
  | .ctz d a => execCtz d a s
  | .popc d a => execPopc d a s
  | .zextb d a => execZextb d a s
  | .zexth d a => execZexth d a s
  | .zextw d a => execZextw d a s
  | .sextb d a => execSextb d a s
  | .sexth d a => execSexth d a s
  | .sextw d a => execSextw d a s
  | .addi d a imm => execAddi d a imm s
  | .andi d a imm => execAndi d a imm s
  | .ori d a imm => execOri d a imm s
  | .xori d a imm => execXori d a imm s
  | .slti d a imm => execSlti d a imm s
  | .sltiu d a imm => execSltiu d a imm s
  | .slli d a sh => execSlli d a sh s
  | .srli d a sh => execSrli d a sh s
  | .srai d a sh => execSrai d a sh s
  | .lhi d imm => execLhi d imm s
  | .lpc d imm => execLpc d imm s
  | .fadd d a b rm => execFadd d a b rm s
  | .fsub d a b rm => execFsub d a b rm s
  | .fmul d a b rm => execFmul d a b rm s
  | .fdiv d a b rm => execFdiv d a b rm s
  | .fsqrt d a rm => execFsqrt d a rm s
  | .fmin d a b => execFmin d a b s
  | .fmax d a b => execFmax d a b s
  | .feq d a b => execFeq d a b s
  | .flt d a b => execFlt d a b s
  | .fle d a b => execFle d a b s
  | .fcvtSL d a rm => execFcvtSL d a rm s
  | .fcvtLS d a rm => execFcvtLS d a rm s
  | .fclass d a => execFclass d a s
  | .fmadd d a b cc rm => execFmadd d a b cc rm s
  | .fmsub d a b cc rm => execFmsub d a b cc rm s
  | .fnmadd d a b cc rm => execFnmadd d a b cc rm s
  | .fnmsub d a b cc rm => execFnmsub d a b cc rm s
  | .beq a b off => execBeq a b off s
  | .bne a b off => execBne a b off s
  | .blt a b off => execBlt a b off s
  | .bge a b off => execBge a b off s
  | .bltu a b off => execBltu a b off s
  | .bgeu a b off => execBgeu a b off s
  | .jal d imm => execJal d imm s
  | .jalr d a imm => execJalr d a imm s
  | .ldB d a st imm => execLdB d a st imm s
  | .ldH d a st imm => execLdH d a st imm s
  | .ldW d a st imm => execLdW d a st imm s
  | .ldD d a st imm => execLdD d a st imm s
  | .stB d a st imm => execStB d a st imm s
  | .stH d a st imm => execStH d a st imm s
  | .stW d a st imm => execStW d a st imm s
  | .stD d a st imm => execStD d a st imm s
  | .spldB d a st imm => execSpldB d a st imm s
  | .spldH d a st imm => execSpldH d a st imm s
  | .spldW d a st imm => execSpldW d a st imm s
  | .spldD d a st imm => execSpldD d a st imm s
  | .spstB d a st imm => execSpstB d a st imm s
  | .spstH d a st imm => execSpstH d a st imm s
  | .spstW d a st imm => execSpstW d a st imm s
  | .spstD d a st imm => execSpstD d a st imm s
  | .csrr d csr => execCsrr d csr s
  | .csrw d a csr => execCsrw d a csr s
  | .csrs d a csr => execCsrs d a csr s
  | .csrc d a csr => execCsrc d a csr s
  | .svc => execSvc s
  | .tret => execTret s
  | .brk code => execBrk code s
  | .wfi => execWfi s
  | .gend => execGend s
  | .lend => execLend s
  | .hevict a b => execHevict a b s
  | .hrestore a b => execHrestore a b s
  | .lbuf d imm => execLbuf d imm s
  | .vlset d a gc sew => execVlset d a gc sew s
  | .mzero t => execMzero t s
  | .mld t a => execMld t a s
  | .mldT8 t a => execMldT8 t a s
  | .mldT16 t a => execMldT16 t a s
  | .mst t a => execMst t a s
  | .mcvt t xf => execMcvt t xf s
  | .mrowr t a b => execMrowr t a b s
  | .mroww t a b => execMroww t a b s
  | .hqDot a xf tag => execHqDot a xf tag s
  | .hqSum a xf tag => execHqSum a xf tag s
  | .hqCnt a xf tag => execHqCnt a xf tag s
  | .hqMax a xf tag => execHqMax a xf tag s
  | .hqTop a xf tag => execHqTop a xf tag s
  | .hqSes a xf tag => execHqSes a xf tag s
  | .hbcast a tag => execHbcast a tag s
  | .hmove a b xf tag => execHmove a b xf tag s
  | .cblkIn a b xf tag ch => execCblkIn a b xf tag ch s
  | .cblkOut a b xf tag ch => execCblkOut a b xf tag ch s
  | .cblkSs a b xf tag ch => execCblkSs a b xf tag ch s
  | .cblkVv a b xf tag ch => execCblkVv a b xf tag ch s
  | .cnestIn a b xf tag ch => execCnestIn a b xf tag ch s
  | .cnestOut a b xf tag ch => execCnestOut a b xf tag ch s
  | .cnestSs a b xf tag ch => execCnestSs a b xf tag ch s
  | .cnestVv a b xf tag ch => execCnestVv a b xf tag ch s
  | .cnestInT8 a b xf tag ch => execCnestInT8 a b xf tag ch s
  | .cnestInT16 a b xf tag ch => execCnestInT16 a b xf tag ch s
  | .cgathIn a b xf tag ch => execCgathIn a b xf tag ch s
  | .cgathOut a b xf tag ch => execCgathOut a b xf tag ch s
  | .cgetV a b tag ch => execCgetV a b tag ch s
  | .cgetVs a b tag ch => execCgetVs a b tag ch s
  | .cwaitAny a => execCwaitAny a s
  | .cwaitAll a => execCwaitAll a s
  | .cfirst a b => execCfirst a b s
  | .cdrain ch => execCdrain ch s
  | .cfence mask => execCfence mask s
  | _ => vectorWord i s

/-- A row of the majors 0x3C to 0x3E, which is performed where the word is the one that its fields encode (check 4). -/
def highRow (w row : Nat) (run : State → Host.Outcome State Fault Refusal) (s : State) : Host.Outcome State Fault Refusal :=
  if row = w then run s else s.finish (s.work.undecoded (BitVec.ofNat 32 w) .reserved)

/-- The word of major 0x3C performed. -/
def issueAtomic (w : Nat) (s : State) : Host.Outcome State Fault Refusal :=
  match w % 32 with
  | 0 =>
    if rd w = 0 then highRow w (wordOf 0x78000000 [at15 (ra w), at10 (rb w), put (field 2 5 w) 5]) (execAaddWNoret (ra w) (rb w) (field 2 5 w)) s
    else highRow w (wordOf 0x78000000 [at20 (rd w), at15 (ra w), at10 (rb w)]) (execAaddW (rd w) (ra w) (rb w)) s
  | 1 =>
    if rd w = 0 then highRow w (wordOf 0x78000001 [at15 (ra w), at10 (rb w), put (field 2 5 w) 5]) (execAaddDNoret (ra w) (rb w) (field 2 5 w)) s
    else highRow w (wordOf 0x78000001 [at20 (rd w), at15 (ra w), at10 (rb w)]) (execAaddD (rd w) (ra w) (rb w)) s
  | 2 =>
    if rd w = 0 then highRow w (wordOf 0x78000002 [at15 (ra w), at10 (rb w), put (field 2 5 w) 5]) (execAandWNoret (ra w) (rb w) (field 2 5 w)) s
    else highRow w (wordOf 0x78000002 [at20 (rd w), at15 (ra w), at10 (rb w)]) (execAandW (rd w) (ra w) (rb w)) s
  | 3 =>
    if rd w = 0 then highRow w (wordOf 0x78000003 [at15 (ra w), at10 (rb w), put (field 2 5 w) 5]) (execAandDNoret (ra w) (rb w) (field 2 5 w)) s
    else highRow w (wordOf 0x78000003 [at20 (rd w), at15 (ra w), at10 (rb w)]) (execAandD (rd w) (ra w) (rb w)) s
  | 4 =>
    if rd w = 0 then highRow w (wordOf 0x78000004 [at15 (ra w), at10 (rb w), put (field 2 5 w) 5]) (execAorWNoret (ra w) (rb w) (field 2 5 w)) s
    else highRow w (wordOf 0x78000004 [at20 (rd w), at15 (ra w), at10 (rb w)]) (execAorW (rd w) (ra w) (rb w)) s
  | 5 =>
    if rd w = 0 then highRow w (wordOf 0x78000005 [at15 (ra w), at10 (rb w), put (field 2 5 w) 5]) (execAorDNoret (ra w) (rb w) (field 2 5 w)) s
    else highRow w (wordOf 0x78000005 [at20 (rd w), at15 (ra w), at10 (rb w)]) (execAorD (rd w) (ra w) (rb w)) s
  | 6 =>
    if rd w = 0 then highRow w (wordOf 0x78000006 [at15 (ra w), at10 (rb w), put (field 2 5 w) 5]) (execAxorWNoret (ra w) (rb w) (field 2 5 w)) s
    else highRow w (wordOf 0x78000006 [at20 (rd w), at15 (ra w), at10 (rb w)]) (execAxorW (rd w) (ra w) (rb w)) s
  | 7 =>
    if rd w = 0 then highRow w (wordOf 0x78000007 [at15 (ra w), at10 (rb w), put (field 2 5 w) 5]) (execAxorDNoret (ra w) (rb w) (field 2 5 w)) s
    else highRow w (wordOf 0x78000007 [at20 (rd w), at15 (ra w), at10 (rb w)]) (execAxorD (rd w) (ra w) (rb w)) s
  | 8 =>
    if rd w = 0 then highRow w (wordOf 0x78000008 [at15 (ra w), at10 (rb w), put (field 2 5 w) 5]) (execAminWNoret (ra w) (rb w) (field 2 5 w)) s
    else highRow w (wordOf 0x78000008 [at20 (rd w), at15 (ra w), at10 (rb w)]) (execAminW (rd w) (ra w) (rb w)) s
  | 9 =>
    if rd w = 0 then highRow w (wordOf 0x78000009 [at15 (ra w), at10 (rb w), put (field 2 5 w) 5]) (execAminDNoret (ra w) (rb w) (field 2 5 w)) s
    else highRow w (wordOf 0x78000009 [at20 (rd w), at15 (ra w), at10 (rb w)]) (execAminD (rd w) (ra w) (rb w)) s
  | 10 =>
    if rd w = 0 then highRow w (wordOf 0x7800000A [at15 (ra w), at10 (rb w), put (field 2 5 w) 5]) (execAmaxWNoret (ra w) (rb w) (field 2 5 w)) s
    else highRow w (wordOf 0x7800000A [at20 (rd w), at15 (ra w), at10 (rb w)]) (execAmaxW (rd w) (ra w) (rb w)) s
  | 11 =>
    if rd w = 0 then highRow w (wordOf 0x7800000B [at15 (ra w), at10 (rb w), put (field 2 5 w) 5]) (execAmaxDNoret (ra w) (rb w) (field 2 5 w)) s
    else highRow w (wordOf 0x7800000B [at20 (rd w), at15 (ra w), at10 (rb w)]) (execAmaxD (rd w) (ra w) (rb w)) s
  | 12 =>
    if rd w = 0 then highRow w (wordOf 0x7800000C [at15 (ra w), at10 (rb w), put (field 2 5 w) 5]) (execAminuWNoret (ra w) (rb w) (field 2 5 w)) s
    else highRow w (wordOf 0x7800000C [at20 (rd w), at15 (ra w), at10 (rb w)]) (execAminuW (rd w) (ra w) (rb w)) s
  | 13 =>
    if rd w = 0 then highRow w (wordOf 0x7800000D [at15 (ra w), at10 (rb w), put (field 2 5 w) 5]) (execAminuDNoret (ra w) (rb w) (field 2 5 w)) s
    else highRow w (wordOf 0x7800000D [at20 (rd w), at15 (ra w), at10 (rb w)]) (execAminuD (rd w) (ra w) (rb w)) s
  | 14 =>
    if rd w = 0 then highRow w (wordOf 0x7800000E [at15 (ra w), at10 (rb w), put (field 2 5 w) 5]) (execAmaxuWNoret (ra w) (rb w) (field 2 5 w)) s
    else highRow w (wordOf 0x7800000E [at20 (rd w), at15 (ra w), at10 (rb w)]) (execAmaxuW (rd w) (ra w) (rb w)) s
  | 15 =>
    if rd w = 0 then highRow w (wordOf 0x7800000F [at15 (ra w), at10 (rb w), put (field 2 5 w) 5]) (execAmaxuDNoret (ra w) (rb w) (field 2 5 w)) s
    else highRow w (wordOf 0x7800000F [at20 (rd w), at15 (ra w), at10 (rb w)]) (execAmaxuD (rd w) (ra w) (rb w)) s
  | 16 =>
    if rd w = 0 then highRow w (wordOf 0x78000010 [at15 (ra w), at10 (rb w), put (field 2 5 w) 5]) (execAswpWNoret (ra w) (rb w) (field 2 5 w)) s
    else highRow w (wordOf 0x78000010 [at20 (rd w), at15 (ra w), at10 (rb w)]) (execAswpW (rd w) (ra w) (rb w)) s
  | 17 =>
    if rd w = 0 then highRow w (wordOf 0x78000011 [at15 (ra w), at10 (rb w), put (field 2 5 w) 5]) (execAswpDNoret (ra w) (rb w) (field 2 5 w)) s
    else highRow w (wordOf 0x78000011 [at20 (rd w), at15 (ra w), at10 (rb w)]) (execAswpD (rd w) (ra w) (rb w)) s
  | 18 => highRow w (wordOf 0x78000012 [at20 (rd w), at15 (ra w), at10 (rb w), at5 (rf w)]) (execAcasW (rd w) (ra w) (rb w) (rf w)) s
  | 19 => highRow w (wordOf 0x78000013 [at20 (rd w), at15 (ra w), at10 (rb w), at5 (rf w)]) (execAcasD (rd w) (ra w) (rb w) (rf w)) s
  | 20 =>
    if rd w = 0 then highRow w (wordOf 0x78000014 [at15 (ra w), at10 (rb w), put (field 2 5 w) 5]) (execAfaddWNoret (ra w) (rb w) (field 2 5 w)) s
    else highRow w (wordOf 0x78000014 [at20 (rd w), at15 (ra w), at10 (rb w)]) (execAfaddW (rd w) (ra w) (rb w)) s
  | 21 => highRow w (wordOf 0x78000015 [at20 (rd w), at15 (ra w), at10 (rb w)]) (execAincbW (rd w) (ra w) (rb w)) s
  | 22 => highRow w (wordOf 0x78000016 [at20 (rd w), at15 (ra w), at10 (rb w)]) (execAincbD (rd w) (ra w) (rb w)) s
  | _ => s.finish (s.work.undecoded (BitVec.ofNat 32 w) .undefined)

/-- The word of major 0x3D performed. -/
def issueStripAtomic (w : Nat) (s : State) : Host.Outcome State Fault Refusal :=
  match w % 8 with
  | 0 => highRow w (wordOf 0x7A000000 [at20 (rd w), at15 (ra w), at10 (rb w), put (field 2 3 w) 3]) (execAaddscan (rd w) (ra w) (rb w) (field 2 3 w)) s
  | 1 => highRow w (wordOf 0x7A000001 [at20 (rd w), at15 (ra w), at10 (rb w), at5 (rf w), put (field 2 3 w) 3]) (execCmbput (rd w) (ra w) (rb w) (rf w) (field 2 3 w)) s
  | 2 => highRow w (wordOf 0x7A000002 [at15 (ra w), at10 (rb w)]) (execCmbputZ (ra w) (rb w)) s
  | _ => s.finish (s.work.undecoded (BitVec.ofNat 32 w) .undefined)

/-- The word of major 0x3E performed. -/
def issueSync (w : Nat) (s : State) : Host.Outcome State Fault Refusal :=
  match w % 32 with
  | 0 => highRow w (wordOf 0x7C000000 [put (field 8 17 w) 17, put (field 8 9 w) 9]) (execSbar (field 8 17 w) (field 8 9 w)) s
  | 1 => highRow w (wordOf 0x7C000001 [put (field 2 5 w) 5]) (execFenceRel (field 2 5 w)) s
  | 2 => highRow w (wordOf 0x7C000002 [put (field 2 5 w) 5]) (execFenceAcq (field 2 5 w)) s
  | 3 => highRow w (wordOf 0x7C000003 [at20 (rd w), at15 (ra w), put (field 2 5 w) 5]) (execLdAcqW (rd w) (ra w) (field 2 5 w)) s
  | 4 => highRow w (wordOf 0x7C000004 [at20 (rd w), at15 (ra w), put (field 2 5 w) 5]) (execLdAcqD (rd w) (ra w) (field 2 5 w)) s
  | 5 => highRow w (wordOf 0x7C000005 [at15 (ra w), at10 (rb w), put (field 2 5 w) 5]) (execStRelW (ra w) (rb w) (field 2 5 w)) s
  | 6 => highRow w (wordOf 0x7C000006 [at15 (ra w), at10 (rb w), put (field 2 5 w) 5]) (execStRelD (ra w) (rb w) (field 2 5 w)) s
  | 7 => highRow w (wordOf 0x7C000007 [at15 (ra w), at10 (rb w)]) (execAccw (ra w) (rb w)) s
  | 8 => highRow w (wordOf 0x7C000008 [at15 (ra w)]) (execAccm (ra w)) s
  | 9 => highRow w (wordOf 0x7C000009 [at15 (ra w), at10 (rb w)]) (execIpost (ra w) (rb w)) s
  | 10 => highRow w (wordOf 0x7C00000A [at20 (rd w), at15 (ra w), at10 (rb w)]) (execIwait (rd w) (ra w) (rb w)) s
  | 11 => highRow w (wordOf 0x7C00000B [at20 (rd w), at15 (ra w)]) (execMbarArr (rd w) (ra w)) s
  | 12 => highRow w (wordOf 0x7C00000C [at15 (ra w), at10 (rb w)]) (execMbarWait (ra w) (rb w)) s
  | 13 => highRow w (wordOf 0x7C00000D [at20 (rd w), at15 (ra w)]) (execDbarArr (rd w) (ra w)) s
  | 14 => highRow w (wordOf 0x7C00000E [at15 (ra w), at10 (rb w)]) (execDbarWait (ra w) (rb w)) s
  | 15 => highRow w (wordOf 0x7C00000F [at20 (rd w), at15 (ra w), at10 (rb w), at5 (rf w)]) (execMwait (rd w) (ra w) (rb w) (rf w)) s
  | 16 => highRow w (wordOf 0x7C000010 [at20 (rd w), at15 (ra w), at10 (rb w)]) (execQput (rd w) (ra w) (rb w)) s
  | 17 => highRow w 0x7C000011 (execKtrig) s
  | 18 => highRow w 0x7C000012 (execSeal) s
  | 19 => highRow w 0x7C000013 (execXhold) s
  | _ => s.finish (s.work.undecoded (BitVec.ofNat 32 w) .undefined)

/-- A word performed: checks 2 to 4, then its meaning, which `low` gives for the majors below 0x3C. -/
def issueWord (low : Instr → State → Host.Outcome State Fault Refusal) (x : W32) (s : State) :
    Host.Outcome State Fault Refusal :=
  let w := x.toNat
  if chained w && !mayChain w then s.finish (s.work.undecoded x .framing)
  else
    match majorOf w with
    | 0x3C => issueAtomic w s
    | 0x3D => issueStripAtomic w s
    | 0x3E => issueSync w s
    | _ =>
      match checkRow w (selectLow w) with
      | .ok i => low i s
      | .error e => s.finish (s.work.undecoded x e)

/-- What follows at once from an event. -/
def settled (r : Host.Outcome State Fault Refusal) : Host.Outcome State Fault Refusal :=
  match r with
  | .next t => t.finish t.work.aftermath
  | .fault f => .fault f
  | .refused f => .refused f

/-- A rollback that falls due is performed at once where no other module's interval has to be gathered (R341). -/
def State.rollsAlone (s : State) : Bool :=
  s.rcv.mustRoll && (s.present.all (fun m => decide (m = s.domain.self)) || s.rcv.committed.isNone)
def State.rollAlone (s : State) : Host.Outcome State Fault Refusal := s.finish (s.work.rollback []).aftermath

/-- `SLAB_CYCLE`: the sequencer of a core picks a ready strand, advances its convoy one step, and charges its queue. -/
def execSlabCycle (core : Nat) (s : State) : Host.Outcome State Fault Refusal := slabCycleWith (issueWord issueLow) core s

end Sys2Proof.Machine
end

