-- ==== Sys2Proof/Machine/Dispatch.lean ====
section
/-! DEFINITION. The dispatch: one arm per constructor of Instr. -/

namespace Sys2Proof.Machine

def exec (i : Instr) (s : State) : Host.Outcome State Fault Refusal :=
  match i with
  | .add d a b => Sys2Proof.Machine.execAdd d a b s
  | .sub d a b => Sys2Proof.Machine.execSub d a b s
  | .and d a b => Sys2Proof.Machine.execAnd d a b s
  | .or d a b => Sys2Proof.Machine.execOr d a b s
  | .xor d a b => Sys2Proof.Machine.execXor d a b s
  | .sll d a b => Sys2Proof.Machine.execSll d a b s
  | .srl d a b => Sys2Proof.Machine.execSrl d a b s
  | .sra d a b => Sys2Proof.Machine.execSra d a b s
  | .slt d a b => Sys2Proof.Machine.execSlt d a b s
  | .sltu d a b => Sys2Proof.Machine.execSltu d a b s
  | .mul d a b => Sys2Proof.Machine.execMul d a b s
  | .mulh d a b => Sys2Proof.Machine.execMulh d a b s
  | .mulhu d a b => Sys2Proof.Machine.execMulhu d a b s
  | .div d a b => Sys2Proof.Machine.execDiv d a b s
  | .divu d a b => Sys2Proof.Machine.execDivu d a b s
  | .rem d a b => Sys2Proof.Machine.execRem d a b s
  | .remu d a b => Sys2Proof.Machine.execRemu d a b s
  | .min d a b => Sys2Proof.Machine.execMin d a b s
  | .max d a b => Sys2Proof.Machine.execMax d a b s
  | .minu d a b => Sys2Proof.Machine.execMinu d a b s
  | .maxu d a b => Sys2Proof.Machine.execMaxu d a b s
  | .clz d a => Sys2Proof.Machine.execClz d a s
  | .ctz d a => Sys2Proof.Machine.execCtz d a s
  | .popc d a => Sys2Proof.Machine.execPopc d a s
  | .zextb d a => Sys2Proof.Machine.execZextb d a s
  | .zexth d a => Sys2Proof.Machine.execZexth d a s
  | .zextw d a => Sys2Proof.Machine.execZextw d a s
  | .sextb d a => Sys2Proof.Machine.execSextb d a s
  | .sexth d a => Sys2Proof.Machine.execSexth d a s
  | .sextw d a => Sys2Proof.Machine.execSextw d a s
  | .addi d a imm => Sys2Proof.Machine.execAddi d a imm s
  | .andi d a imm => Sys2Proof.Machine.execAndi d a imm s
  | .ori d a imm => Sys2Proof.Machine.execOri d a imm s
  | .xori d a imm => Sys2Proof.Machine.execXori d a imm s
  | .slti d a imm => Sys2Proof.Machine.execSlti d a imm s
  | .sltiu d a imm => Sys2Proof.Machine.execSltiu d a imm s
  | .slli d a sh => Sys2Proof.Machine.execSlli d a sh s
  | .srli d a sh => Sys2Proof.Machine.execSrli d a sh s
  | .srai d a sh => Sys2Proof.Machine.execSrai d a sh s
  | .lhi d imm => Sys2Proof.Machine.execLhi d imm s
  | .lpc d imm => Sys2Proof.Machine.execLpc d imm s
  | .fadd d a b rm => Sys2Proof.Machine.execFadd d a b rm s
  | .fsub d a b rm => Sys2Proof.Machine.execFsub d a b rm s
  | .fmul d a b rm => Sys2Proof.Machine.execFmul d a b rm s
  | .fdiv d a b rm => Sys2Proof.Machine.execFdiv d a b rm s
  | .fsqrt d a rm => Sys2Proof.Machine.execFsqrt d a rm s
  | .fmin d a b => Sys2Proof.Machine.execFmin d a b s
  | .fmax d a b => Sys2Proof.Machine.execFmax d a b s
  | .feq d a b => Sys2Proof.Machine.execFeq d a b s
  | .flt d a b => Sys2Proof.Machine.execFlt d a b s
  | .fle d a b => Sys2Proof.Machine.execFle d a b s
  | .fcvtSL d a rm => Sys2Proof.Machine.execFcvtSL d a rm s
  | .fcvtLS d a rm => Sys2Proof.Machine.execFcvtLS d a rm s
  | .fclass d a => Sys2Proof.Machine.execFclass d a s
  | .fmadd d a b cc rm => Sys2Proof.Machine.execFmadd d a b cc rm s
  | .fmsub d a b cc rm => Sys2Proof.Machine.execFmsub d a b cc rm s
  | .fnmadd d a b cc rm => Sys2Proof.Machine.execFnmadd d a b cc rm s
  | .fnmsub d a b cc rm => Sys2Proof.Machine.execFnmsub d a b cc rm s
  | .beq a b off => Sys2Proof.Machine.execBeq a b off s
  | .bne a b off => Sys2Proof.Machine.execBne a b off s
  | .blt a b off => Sys2Proof.Machine.execBlt a b off s
  | .bge a b off => Sys2Proof.Machine.execBge a b off s
  | .bltu a b off => Sys2Proof.Machine.execBltu a b off s
  | .bgeu a b off => Sys2Proof.Machine.execBgeu a b off s
  | .jal d imm => Sys2Proof.Machine.execJal d imm s
  | .jalr d a imm => Sys2Proof.Machine.execJalr d a imm s
  | .ldB d a st imm => Sys2Proof.Machine.execLdB d a st imm s
  | .ldH d a st imm => Sys2Proof.Machine.execLdH d a st imm s
  | .ldW d a st imm => Sys2Proof.Machine.execLdW d a st imm s
  | .ldD d a st imm => Sys2Proof.Machine.execLdD d a st imm s
  | .stB d a st imm => Sys2Proof.Machine.execStB d a st imm s
  | .stH d a st imm => Sys2Proof.Machine.execStH d a st imm s
  | .stW d a st imm => Sys2Proof.Machine.execStW d a st imm s
  | .stD d a st imm => Sys2Proof.Machine.execStD d a st imm s
  | .spldB d a st imm => Sys2Proof.Machine.execSpldB d a st imm s
  | .spldH d a st imm => Sys2Proof.Machine.execSpldH d a st imm s
  | .spldW d a st imm => Sys2Proof.Machine.execSpldW d a st imm s
  | .spldD d a st imm => Sys2Proof.Machine.execSpldD d a st imm s
  | .spstB d a st imm => Sys2Proof.Machine.execSpstB d a st imm s
  | .spstH d a st imm => Sys2Proof.Machine.execSpstH d a st imm s
  | .spstW d a st imm => Sys2Proof.Machine.execSpstW d a st imm s
  | .spstD d a st imm => Sys2Proof.Machine.execSpstD d a st imm s
  | .csrr d csr => Sys2Proof.Machine.execCsrr d csr s
  | .csrw d a csr => Sys2Proof.Machine.execCsrw d a csr s
  | .csrs d a csr => Sys2Proof.Machine.execCsrs d a csr s
  | .csrc d a csr => Sys2Proof.Machine.execCsrc d a csr s
  | .svc => Sys2Proof.Machine.execSvc s
  | .tret => Sys2Proof.Machine.execTret s
  | .brk code => Sys2Proof.Machine.execBrk code s
  | .wfi => Sys2Proof.Machine.execWfi s
  | .gend => Sys2Proof.Machine.execGend s
  | .lend => Sys2Proof.Machine.execLend s
  | .hevict a b => Sys2Proof.Machine.execHevict a b s
  | .hrestore a b => Sys2Proof.Machine.execHrestore a b s
  | .lbuf d imm => Sys2Proof.Machine.execLbuf d imm s
  | .vlset d a gc sew => Sys2Proof.Machine.execVlset d a gc sew s
  | .vadd c d a b xf k => Sys2Proof.Machine.execVadd c d a b xf k s
  | .vsub c d a b xf k => Sys2Proof.Machine.execVsub c d a b xf k s
  | .vmul c d a b xf k => Sys2Proof.Machine.execVmul c d a b xf k s
  | .vdiv c d a b xf k => Sys2Proof.Machine.execVdiv c d a b xf k s
  | .vmin c d a b xf k => Sys2Proof.Machine.execVmin c d a b xf k s
  | .vmax c d a b xf k => Sys2Proof.Machine.execVmax c d a b xf k s
  | .vsqrt c d a xf k => Sys2Proof.Machine.execVsqrt c d a xf k s
  | .vabs c d a xf k => Sys2Proof.Machine.execVabs c d a xf k s
  | .vfma c d a b xf k => Sys2Proof.Machine.execVfma c d a b xf k s
  | .vfms c d a b xf k => Sys2Proof.Machine.execVfms c d a b xf k s
  | .vfnma c d a b xf k => Sys2Proof.Machine.execVfnma c d a b xf k s
  | .vfnms c d a b xf k => Sys2Proof.Machine.execVfnms c d a b xf k s
  | .vmulh c d a b xf k => Sys2Proof.Machine.execVmulh c d a b xf k s
  | .vrem c d a b xf k => Sys2Proof.Machine.execVrem c d a b xf k s
  | .vneg c d a xf k => Sys2Proof.Machine.execVneg c d a xf k s
  | .vand c d a b xf k => Sys2Proof.Machine.execVand c d a b xf k s
  | .vor c d a b xf k => Sys2Proof.Machine.execVor c d a b xf k s
  | .vxor c d a b xf k => Sys2Proof.Machine.execVxor c d a b xf k s
  | .vnot c d a xf k => Sys2Proof.Machine.execVnot c d a xf k s
  | .vsll c d a b xf k => Sys2Proof.Machine.execVsll c d a b xf k s
  | .vsrl c d a b xf k => Sys2Proof.Machine.execVsrl c d a b xf k s
  | .vsra c d a b xf k => Sys2Proof.Machine.execVsra c d a b xf k s
  | .vceq c d a b xf k => Sys2Proof.Machine.execVceq c d a b xf k s
  | .vcne c d a b xf k => Sys2Proof.Machine.execVcne c d a b xf k s
  | .vclt c d a b xf k => Sys2Proof.Machine.execVclt c d a b xf k s
  | .vcle c d a b xf k => Sys2Proof.Machine.execVcle c d a b xf k s
  | .vcgt c d a b xf k => Sys2Proof.Machine.execVcgt c d a b xf k s
  | .vcge c d a b xf k => Sys2Proof.Machine.execVcge c d a b xf k s
  | .vcun c d a b xf k => Sys2Proof.Machine.execVcun c d a b xf k s
  | .vsel c d a b xf k => Sys2Proof.Machine.execVsel c d a b xf k s
  | .kand c d a b => Sys2Proof.Machine.execKand c d a b s
  | .kor c d a b => Sys2Proof.Machine.execKor c d a b s
  | .kxor c d a b => Sys2Proof.Machine.execKxor c d a b s
  | .knot c d a => Sys2Proof.Machine.execKnot c d a s
  | .kpopc c d a k => Sys2Proof.Machine.execKpopc c d a k s
  | .kfirst c d a k => Sys2Proof.Machine.execKfirst c d a k s
  | .vcvt c d a xf k => Sys2Proof.Machine.execVcvt c d a xf k s
  | .vcvtS c d a b xf k => Sys2Proof.Machine.execVcvtS c d a b xf k s
  | .vredsum c d a xf k => Sys2Proof.Machine.execVredsum c d a xf k s
  | .vredmin c d a xf k => Sys2Proof.Machine.execVredmin c d a xf k s
  | .vredmax c d a xf k => Sys2Proof.Machine.execVredmax c d a xf k s
  | .vredand c d a xf k => Sys2Proof.Machine.execVredand c d a xf k s
  | .vredor c d a xf k => Sys2Proof.Machine.execVredor c d a xf k s
  | .vscan c d a xf k => Sys2Proof.Machine.execVscan c d a xf k s
  | .vscanx c d a xf k => Sys2Proof.Machine.execVscanx c d a xf k s
  | .vmaxi c d a xf k => Sys2Proof.Machine.execVmaxi c d a xf k s
  | .vmini c d a xf k => Sys2Proof.Machine.execVmini c d a xf k s
  | .vmaxic c d a xf k => Sys2Proof.Machine.execVmaxic c d a xf k s
  | .vperm c d a b xf k => Sys2Proof.Machine.execVperm c d a b xf k s
  | .vslideup c d a b xf k => Sys2Proof.Machine.execVslideup c d a b xf k s
  | .vslidedn c d a b xf k => Sys2Proof.Machine.execVslidedn c d a b xf k s
  | .vbcast c d a xf k => Sys2Proof.Machine.execVbcast c d a xf k s
  | .vmvxs c d a xf k => Sys2Proof.Machine.execVmvxs c d a xf k s
  | .vmvsx c d a xf k => Sys2Proof.Machine.execVmvsx c d a xf k s
  | .vcompress c d a xf k => Sys2Proof.Machine.execVcompress c d a xf k s
  | .vid c d xf k => Sys2Proof.Machine.execVid c d xf k s
  | .vexp2 c d a xf k => Sys2Proof.Machine.execVexp2 c d a xf k s
  | .vlog2 c d a xf k => Sys2Proof.Machine.execVlog2 c d a xf k s
  | .vrcp c d a xf k => Sys2Proof.Machine.execVrcp c d a xf k s
  | .vrsqrt c d a xf k => Sys2Proof.Machine.execVrsqrt c d a xf k s
  | .vld c d a st k => Sys2Proof.Machine.execVld c d a st k s
  | .vlds c d a b st k => Sys2Proof.Machine.execVlds c d a b st k s
  | .vldx c d a b st k => Sys2Proof.Machine.execVldx c d a b st k s
  | .vldsp c d a st k => Sys2Proof.Machine.execVldsp c d a st k s
  | .vldm c d a k => Sys2Proof.Machine.execVldm c d a k s
  | .vldxsp c d a b st k => Sys2Proof.Machine.execVldxsp c d a b st k s
  | .vst c d a st k => Sys2Proof.Machine.execVst c d a st k s
  | .vsts c d a b st k => Sys2Proof.Machine.execVsts c d a b st k s
  | .vstx c d a b st k => Sys2Proof.Machine.execVstx c d a b st k s
  | .vstsp c d a st k => Sys2Proof.Machine.execVstsp c d a st k s
  | .vstm c d a k => Sys2Proof.Machine.execVstm c d a k s
  | .vstxsp c d a b st k => Sys2Proof.Machine.execVstxsp c d a b st k s
  | .tacc c t a b xf => Sys2Proof.Machine.execTacc c t a b xf s
  | .taccS c t a b xf => Sys2Proof.Machine.execTaccS c t a b xf s
  | .mzero t => Sys2Proof.Machine.execMzero t s
  | .mld t a => Sys2Proof.Machine.execMld t a s
  | .mldT8 t a => Sys2Proof.Machine.execMldT8 t a s
  | .mldT16 t a => Sys2Proof.Machine.execMldT16 t a s
  | .mst t a => Sys2Proof.Machine.execMst t a s
  | .mcvt t xf => Sys2Proof.Machine.execMcvt t xf s
  | .mrowr t a b => Sys2Proof.Machine.execMrowr t a b s
  | .mroww t a b => Sys2Proof.Machine.execMroww t a b s
  | .tdstep c d a b xf k => Sys2Proof.Machine.execTdstep c d a b xf k s
  | .tdleaf c d a b xf k => Sys2Proof.Machine.execTdleaf c d a b xf k s
  | .tdregrp c d a b k => Sys2Proof.Machine.execTdregrp c d a b k s
  | .tdpathR c d a k => Sys2Proof.Machine.execTdpathR c d a k s
  | .tdpathW c d a k => Sys2Proof.Machine.execTdpathW c d a k s
  | .tdaddr c d a b k => Sys2Proof.Machine.execTdaddr c d a b k s
  | .hqDot a xf tag => Sys2Proof.Machine.execHqDot a xf tag s
  | .hqSum a xf tag => Sys2Proof.Machine.execHqSum a xf tag s
  | .hqCnt a xf tag => Sys2Proof.Machine.execHqCnt a xf tag s
  | .hqMax a xf tag => Sys2Proof.Machine.execHqMax a xf tag s
  | .hqTop a xf tag => Sys2Proof.Machine.execHqTop a xf tag s
  | .hqSes a xf tag => Sys2Proof.Machine.execHqSes a xf tag s
  | .hbcast a tag => Sys2Proof.Machine.execHbcast a tag s
  | .hmove a b xf tag => Sys2Proof.Machine.execHmove a b xf tag s
  | .cblkIn a b xf tag ch => Sys2Proof.Machine.execCblkIn a b xf tag ch s
  | .cblkOut a b xf tag ch => Sys2Proof.Machine.execCblkOut a b xf tag ch s
  | .cblkSs a b xf tag ch => Sys2Proof.Machine.execCblkSs a b xf tag ch s
  | .cblkVv a b xf tag ch => Sys2Proof.Machine.execCblkVv a b xf tag ch s
  | .cnestIn a b xf tag ch => Sys2Proof.Machine.execCnestIn a b xf tag ch s
  | .cnestOut a b xf tag ch => Sys2Proof.Machine.execCnestOut a b xf tag ch s
  | .cnestSs a b xf tag ch => Sys2Proof.Machine.execCnestSs a b xf tag ch s
  | .cnestVv a b xf tag ch => Sys2Proof.Machine.execCnestVv a b xf tag ch s
  | .cnestInT8 a b xf tag ch => Sys2Proof.Machine.execCnestInT8 a b xf tag ch s
  | .cnestInT16 a b xf tag ch => Sys2Proof.Machine.execCnestInT16 a b xf tag ch s
  | .cgathIn a b xf tag ch => Sys2Proof.Machine.execCgathIn a b xf tag ch s
  | .cgathOut a b xf tag ch => Sys2Proof.Machine.execCgathOut a b xf tag ch s
  | .cgetV a b tag ch => Sys2Proof.Machine.execCgetV a b tag ch s
  | .cgetVs a b tag ch => Sys2Proof.Machine.execCgetVs a b tag ch s
  | .cwaitAny a => Sys2Proof.Machine.execCwaitAny a s
  | .cwaitAll a => Sys2Proof.Machine.execCwaitAll a s
  | .cfirst a b => Sys2Proof.Machine.execCfirst a b s
  | .cdrain ch => Sys2Proof.Machine.execCdrain ch s
  | .cfence mask => Sys2Proof.Machine.execCfence mask s
  | .aaddW d a b => Sys2Proof.Machine.execAaddW d a b s
  | .aaddWNoret a b ch => Sys2Proof.Machine.execAaddWNoret a b ch s
  | .aaddD d a b => Sys2Proof.Machine.execAaddD d a b s
  | .aaddDNoret a b ch => Sys2Proof.Machine.execAaddDNoret a b ch s
  | .aandW d a b => Sys2Proof.Machine.execAandW d a b s
  | .aandWNoret a b ch => Sys2Proof.Machine.execAandWNoret a b ch s
  | .aandD d a b => Sys2Proof.Machine.execAandD d a b s
  | .aandDNoret a b ch => Sys2Proof.Machine.execAandDNoret a b ch s
  | .aorW d a b => Sys2Proof.Machine.execAorW d a b s
  | .aorWNoret a b ch => Sys2Proof.Machine.execAorWNoret a b ch s
  | .aorD d a b => Sys2Proof.Machine.execAorD d a b s
  | .aorDNoret a b ch => Sys2Proof.Machine.execAorDNoret a b ch s
  | .axorW d a b => Sys2Proof.Machine.execAxorW d a b s
  | .axorWNoret a b ch => Sys2Proof.Machine.execAxorWNoret a b ch s
  | .axorD d a b => Sys2Proof.Machine.execAxorD d a b s
  | .axorDNoret a b ch => Sys2Proof.Machine.execAxorDNoret a b ch s
  | .aminW d a b => Sys2Proof.Machine.execAminW d a b s
  | .aminWNoret a b ch => Sys2Proof.Machine.execAminWNoret a b ch s
  | .aminD d a b => Sys2Proof.Machine.execAminD d a b s
  | .aminDNoret a b ch => Sys2Proof.Machine.execAminDNoret a b ch s
  | .amaxW d a b => Sys2Proof.Machine.execAmaxW d a b s
  | .amaxWNoret a b ch => Sys2Proof.Machine.execAmaxWNoret a b ch s
  | .amaxD d a b => Sys2Proof.Machine.execAmaxD d a b s
  | .amaxDNoret a b ch => Sys2Proof.Machine.execAmaxDNoret a b ch s
  | .aminuW d a b => Sys2Proof.Machine.execAminuW d a b s
  | .aminuWNoret a b ch => Sys2Proof.Machine.execAminuWNoret a b ch s
  | .aminuD d a b => Sys2Proof.Machine.execAminuD d a b s
  | .aminuDNoret a b ch => Sys2Proof.Machine.execAminuDNoret a b ch s
  | .amaxuW d a b => Sys2Proof.Machine.execAmaxuW d a b s
  | .amaxuWNoret a b ch => Sys2Proof.Machine.execAmaxuWNoret a b ch s
  | .amaxuD d a b => Sys2Proof.Machine.execAmaxuD d a b s
  | .amaxuDNoret a b ch => Sys2Proof.Machine.execAmaxuDNoret a b ch s
  | .aswpW d a b => Sys2Proof.Machine.execAswpW d a b s
  | .aswpWNoret a b ch => Sys2Proof.Machine.execAswpWNoret a b ch s
  | .aswpD d a b => Sys2Proof.Machine.execAswpD d a b s
  | .aswpDNoret a b ch => Sys2Proof.Machine.execAswpDNoret a b ch s
  | .acasW d a b cmp => Sys2Proof.Machine.execAcasW d a b cmp s
  | .acasD d a b cmp => Sys2Proof.Machine.execAcasD d a b cmp s
  | .afaddW d a b => Sys2Proof.Machine.execAfaddW d a b s
  | .afaddWNoret a b ch => Sys2Proof.Machine.execAfaddWNoret a b ch s
  | .aincbW d a b => Sys2Proof.Machine.execAincbW d a b s
  | .aincbD d a b => Sys2Proof.Machine.execAincbD d a b s
  | .aaddscan d a b k => Sys2Proof.Machine.execAaddscan d a b k s
  | .cmbput d a b xf k => Sys2Proof.Machine.execCmbput d a b xf k s
  | .cmbputZ a b => Sys2Proof.Machine.execCmbputZ a b s
  | .sbar pre post => Sys2Proof.Machine.execSbar pre post s
  | .fenceRel sc => Sys2Proof.Machine.execFenceRel sc s
  | .fenceAcq sc => Sys2Proof.Machine.execFenceAcq sc s
  | .ldAcqW d a sc => Sys2Proof.Machine.execLdAcqW d a sc s
  | .ldAcqD d a sc => Sys2Proof.Machine.execLdAcqD d a sc s
  | .stRelW a b sc => Sys2Proof.Machine.execStRelW a b sc s
  | .stRelD a b sc => Sys2Proof.Machine.execStRelD a b sc s
  | .accw a b => Sys2Proof.Machine.execAccw a b s
  | .accm a => Sys2Proof.Machine.execAccm a s
  | .ipost a b => Sys2Proof.Machine.execIpost a b s
  | .iwait d a b => Sys2Proof.Machine.execIwait d a b s
  | .mbarArr d a => Sys2Proof.Machine.execMbarArr d a s
  | .mbarWait a b => Sys2Proof.Machine.execMbarWait a b s
  | .dbarArr d a => Sys2Proof.Machine.execDbarArr d a s
  | .dbarWait a b => Sys2Proof.Machine.execDbarWait a b s
  | .mwait d a b tmo => Sys2Proof.Machine.execMwait d a b tmo s
  | .qput d a b => Sys2Proof.Machine.execQput d a b s
  | .ktrig => Sys2Proof.Machine.execKtrig s
  | .sealWord => Sys2Proof.Machine.execSeal s
  | .xhold => Sys2Proof.Machine.execXhold s
  | .slabCycle core => Sys2Proof.Machine.execSlabCycle core s
  | .strandOverdue sid => Sys2Proof.Machine.execStrandOverdue sid s
  | .timerTrap sid => Sys2Proof.Machine.execTimerTrap sid s
  | .wfiWake sid => Sys2Proof.Machine.execWfiWake sid s
  | .trcctlMark core mark => Sys2Proof.Machine.execTrcctlMark core mark s
  | .trcctlCopy core => Sys2Proof.Machine.execTrcctlCopy core s
  | .trcctlClr core => Sys2Proof.Machine.execTrcctlClr core s
  | .registerWrite r val => Sys2Proof.Machine.execRegisterWrite r val s
  | .barrierConfigWrite b val => Sys2Proof.Machine.execBarrierConfigWrite b val s
  | .ringConfigWrite meadow stage state val => Sys2Proof.Machine.execRingConfigWrite meadow stage state val s
  | .hberrClear bank val => Sys2Proof.Machine.execHberrClear bank val s
  | .editPortWrite sys ctx va addr entry mark => Sys2Proof.Machine.execEditPortWrite sys ctx va addr entry mark s
  | .shootDown sys ctx va len => Sys2Proof.Machine.execShootDown sys ctx va len s
  | .tlbParityRefetch core ctx va => Sys2Proof.Machine.execTlbParityRefetch core ctx va s
  | .copyLand sid tag => Sys2Proof.Machine.execCopyLand sid tag s
  | .copyFault sid tag => Sys2Proof.Machine.execCopyFault sid tag s
  | .copySourceError sid tag e => Sys2Proof.Machine.execCopySourceError sid tag e s
  | .copySourcePoison sid tag => Sys2Proof.Machine.execCopySourcePoison sid tag s
  | .atomicResponse sid => Sys2Proof.Machine.execAtomicResponse sid s
  | .noreturnAtomicPerform sid ch => Sys2Proof.Machine.execNoreturnAtomicPerform sid ch s
  | .cmbputPerform sid => Sys2Proof.Machine.execCmbputPerform sid s
  | .heathSlotCheck sid tag => Sys2Proof.Machine.execHeathSlotCheck sid tag s
  | .heathPass1Done sid tag => Sys2Proof.Machine.execHeathPass1Done sid tag s
  | .heathBankError sid tag pa => Sys2Proof.Machine.execHeathBankError sid tag pa s
  | .heathReply sid tag => Sys2Proof.Machine.execHeathReply sid tag s
  | .hbcastLand sid tag => Sys2Proof.Machine.execHbcastLand sid tag s
  | .hmoveDone sid tag bad => Sys2Proof.Machine.execHmoveDone sid tag bad s
  | .hevictDone sid => Sys2Proof.Machine.execHevictDone sid s
  | .hrestoreDone sid => Sys2Proof.Machine.execHrestoreDone sid s
  | .barrierTimeout sid => Sys2Proof.Machine.execBarrierTimeout sid s
  | .iwaitTimeout sid => Sys2Proof.Machine.execIwaitTimeout sid s
  | .mwaitTimeout sid => Sys2Proof.Machine.execMwaitTimeout sid s
  | .walkerPlace => Sys2Proof.Machine.execWalkerPlace s
  | .preemptRequest core ctx => Sys2Proof.Machine.execPreemptRequest core ctx s
  | .preemptSaveDone core => Sys2Proof.Machine.execPreemptSaveDone core s
  | .laneReclaimRequest core ctx => Sys2Proof.Machine.execLaneReclaimRequest core ctx s
  | .reclaimTimeout core => Sys2Proof.Machine.execReclaimTimeout core s
  | .laneWaitReturn gid => Sys2Proof.Machine.execLaneWaitReturn gid s
  | .groupRestore gid => Sys2Proof.Machine.execGroupRestore gid s
  | .ueConsumed sid site addr mismatch ch => Sys2Proof.Machine.execUeConsumed sid site addr mismatch ch s
  | .scrubberVisit heath line found => Sys2Proof.Machine.execScrubberVisit heath line found s
  | .sealTimer => Sys2Proof.Machine.execSealTimer s
  | .sealRequest module => Sys2Proof.Machine.execSealRequest module s
  | .sealPrepare n => Sys2Proof.Machine.execSealPrepare n s
  | .sealResume => Sys2Proof.Machine.execSealResume s
  | .sealImagesDone => Sys2Proof.Machine.execSealImagesDone s
  | .sealReady module => Sys2Proof.Machine.execSealReady module s
  | .sealCommit ns => Sys2Proof.Machine.execSealCommit ns s
  | .sealAbort => Sys2Proof.Machine.execSealAbort s
  | .sealReadyTimeout => Sys2Proof.Machine.execSealReadyTimeout s
  | .coordinatorTimeout => Sys2Proof.Machine.execCoordinatorTimeout s
  | .rollback begun => Sys2Proof.Machine.execRollback begun s
  | .initialSeal => Sys2Proof.Machine.execInitialSeal s
  | .snapshotStreamEnd => Sys2Proof.Machine.execSnapshotStreamEnd s
  | .jeoreAck port seq => Sys2Proof.Machine.execJeoreAck port seq s
  | .jeoreNak port last => Sys2Proof.Machine.execJeoreNak port last s
  | .jeoreFlitBad port => Sys2Proof.Machine.execJeoreFlitBad port s
  | .jeoreRemoteWrite port heath addr bytes owner => Sys2Proof.Machine.execJeoreRemoteWrite port heath addr bytes owner s
  | .jeoreAtomicRequest port op wide addr b c who more => Sys2Proof.Machine.execJeoreAtomicRequest port op wide addr b c who more s
  | .jeoreAtomicResponse port who answer => Sys2Proof.Machine.execJeoreAtomicResponse port who answer s
  | .jeoreCopyReadRequest port first more => Sys2Proof.Machine.execJeoreCopyReadRequest port first more s
  | .jeoreCopyReadData port copy bytes => Sys2Proof.Machine.execJeoreCopyReadData port copy bytes s
  | .linkTrainingComplete port wide => Sys2Proof.Machine.execLinkTrainingComplete port wide s
  | .linkTrainingTimeout port => Sys2Proof.Machine.execLinkTrainingTimeout port s
  | .linkLaneLost port => Sys2Proof.Machine.execLinkLaneLost port s
  | .hostLinkDown => Sys2Proof.Machine.execHostLinkDown s
  | .hostLinkUp => Sys2Proof.Machine.execHostLinkUp s
  | .moduleBoot a b => Sys2Proof.Machine.execModuleBoot a b s
  | .unitStart u => Sys2Proof.Machine.execUnitStart u s
  | .matrixIdle core => Sys2Proof.Machine.execMatrixIdle core s
  | .heathGovernorWindow watts => Sys2Proof.Machine.execHeathGovernorWindow watts s
  | .thermalThrottle => Sys2Proof.Machine.execThermalThrottle s
  | .thermalShutdown => Sys2Proof.Machine.execThermalShutdown s
  | .commandReply fn => Sys2Proof.Machine.execCommandReply fn s
  | .identify fn => Sys2Proof.Machine.execIdentify fn s
  | .attest fn nonce buf len => Sys2Proof.Machine.execAttest fn nonce buf len s
  | .createContext fn p => Sys2Proof.Machine.execCreateContext fn p s
  | .destroyContext fn ctx => Sys2Proof.Machine.execDestroyContext fn ctx s
  | .stopContext fn ctx => Sys2Proof.Machine.execStopContext fn ctx s
  | .resumeContext fn ctx => Sys2Proof.Machine.execResumeContext fn ctx s
  | .mapPages fn p => Sys2Proof.Machine.execMapPages fn p s
  | .unmapPages fn ctx va len => Sys2Proof.Machine.execUnmapPages fn ctx va len s
  | .hostImport fn ctx va hostAddr len => Sys2Proof.Machine.execHostImport fn ctx va hostAddr len s
  | .hostExport fn ctx va hostAddr len => Sys2Proof.Machine.execHostExport fn ctx va hostAddr len s
  | .runRoot fn ctx recVa => Sys2Proof.Machine.execRunRoot fn ctx recVa s
  | .snapshot fn ctx => Sys2Proof.Machine.execSnapshot fn ctx s
  | .restoreModule fn => Sys2Proof.Machine.execRestoreModule fn s
  | .readDump fn tenant slot release hostAddr => Sys2Proof.Machine.execReadDump fn tenant slot release hostAddr s
  | .configureLinks fn p => Sys2Proof.Machine.execConfigureLinks fn p s
  | .configureManagement fn p => Sys2Proof.Machine.execConfigureManagement fn p s
  | .resetFunction fn => Sys2Proof.Machine.execResetFunction fn s
  | .resetModule fn => Sys2Proof.Machine.execResetModule fn s
  | .cmdregWrite fn opc seq len val => Sys2Proof.Machine.execCmdregWrite fn opc seq len val s
  | .scratchpadBankWake core bank => Sys2Proof.Machine.execScratchpadBankWake core bank s
  | .copyPerformed sid tag => Sys2Proof.Machine.execCopyPerformed sid tag s
  | .replayStart => Sys2Proof.Machine.execReplayStart s
  | .testServiceSet on => Sys2Proof.Machine.execTestServiceSet on s

end Sys2Proof.Machine
end

