-- ==== Sys2Proof/Machine/Step.lean ====
section
/-! DEFINITION. One step: a rollback that is due, an event of the agenda, else a slab-cycle of the core in focus, which fetches a word
at the chosen strand's pc and executes it (spec/02 R39, R40; logs 1 and 4). -/

namespace Sys2Proof.Machine

def step (s : State) : Host.Outcome State Fault Refusal :=
  if s.rollsAlone then s.rollAlone
  else
    match s.agenda with
    | i :: rest => settled (exec i { s with agenda := rest })
    | [] => if s.rcv.mustRoll then .next s else slabCycleWith (issueWord exec) s.focus s

/-- The state whose next step fetches and runs the instruction with the bits given (log 1): a strand on core 0 of context 0 with its
pc at 0, a translation of its page to field memory 0 that may be executed, and the word stored there. -/
def State.withFetchWord (s : State) (nbits w : Nat) : State :=
  { s with
    strand := { live := true, wg := List.range 16 },
    parked := [], agenda := [], focus := 0,
    cores := s.cores.filter fun c => decide (c.id ≠ 0),
    tlb := [⟨0, 0, 0, false, 0x17⟩],
    pages := s.pages.filter fun p => decide (p.ctx ≠ 0),
    fmLine := s.fmLine.filter fun l => decide (l.1 ≠ 0),
    fm := Mem.write s.fm 0 (tableBytes nbits w),
    rcv := { s.rcv with phase := .running, mustRoll := false } }

end Sys2Proof.Machine
end

