-- ==== Sys2Proof/Safety.lean ====
section
/-! DEFINITION. What a safe run keeps, and the terms that claims about single words use: the strand that goes on behind a word, the
state that a word with a register result leaves, and what a frame keeps. -/

namespace Sys2Proof.Machine

/-- Every memory is in canonical form. -/
def State.memWf (s : State) : Bool := Mem.wf s.fm && Mem.wf s.hm && Mem.wf s.sp && Mem.wf s.host

/-- The strand that goes on at `target` behind a single-word convoy (R91, R214): one convoy more has retired, and nothing is waited for. -/
def Strand.retired (t : Strand) (target : W64) : Strand :=
  { t.goTo target with waiting := .none, waitT := 0, cvret := t.cvret + 1, started := true }

/-- The same at the following word. -/
def Strand.nextWord (t : Strand) : Strand := t.retired (t.pc + 4)

/-- The strand once the buffering of its strip has ended (Table 7.3). -/
def Strand.drained (t : Strand) : Strand := { t with buf := [], buffering := false }

/-- The state whose issuing strand is another one. -/
def State.withStrand (s : State) (t : Strand) : State := { s with strand := t }

/-- The state after a word whose one effect is a value in x(d). -/
def State.wrote (s : State) (d : Reg) (v : W64) : State := s.withStrand (s.strand.wx d v).nextWord

/-- Every byte of every memory reads as before. -/
def State.sameBytes (s t : State) : Prop := ∀ g a, Mem.read (t.memOf g) a = Mem.read (s.memOf g) a

/-- Every byte of every memory reads as before, but for `n` bytes of one memory from an address on. -/
def State.sameBytesBut (s t : State) (g : Tgt) (a n : Nat) : Prop :=
  ∀ h b, ¬(h = g ∧ a ≤ b ∧ b < a + n) → Mem.read (t.memOf h) b = Mem.read (s.memOf h) b

/-- The special registers of a strand that only a CSR word, a trap or `tret` writes (Table 5.21). -/
def Strand.specials (s : Strand) :
    W64 × W64 × W64 × W64 × BitVec 5 × W64 × W64 × BitVec 17 × W64 × W64 × W64 :=
  (s.ckmask, s.vtype, s.tags, s.hqstat, s.status, s.tvec, s.epc, s.cause, s.tval, s.hscratch, s.tmcmp)

/-- The vector side of a strand: vector and mask registers, `vl`, `vstart` and `vslab`. -/
def Strand.vectors (s : Strand) : Vector VReg 32 × Vector VReg 4 × W64 × W64 × W64 := (s.v, s.k, s.vl, s.vstart, s.vslab)

/-- A strand outside a loop pass, whose stores go straight to memory and wait for nothing. -/
def Strand.plain (s : Strand) : Bool :=
  s.loop.isNone && !s.buffering && s.buf.isEmpty && s.pend.isEmpty && s.holds.isEmpty && s.remotes.isEmpty

/-- An outcome that is the entry of a synchronous trap at the strand's own convoy (R127): what the trap registers and the status hold,
where the strand goes on, and that no x, vector or mask register has changed. -/
def TrapsAs (r : Host.Outcome State Fault Refusal) (s : State) (code sub : Nat) (tval : W64) : Prop :=
  ∃ t, r = .next t ∧ t.strand.epc = s.strand.pc ∧ t.strand.cause = BitVec.ofNat 17 (sub * 256 + code) ∧ t.strand.tval = tval ∧
    t.strand.status.getLsbD 0 = true ∧ t.strand.status.getLsbD 1 = s.strand.status.getLsbD 0 ∧
    t.strand.status.getLsbD 2 = false ∧ t.strand.status.getLsbD 3 = s.strand.status.getLsbD 2 ∧
    t.strand.status.getLsbD 4 = true ∧ t.strand.pc = s.strand.tvec &&& (BitVec.allOnes 64 - 63) ∧ t.strand.x = s.strand.x ∧
    t.strand.v = s.strand.v ∧ t.strand.k = s.strand.k

/-- The address of a scalar access of 2^k bytes (R117). -/
def State.scalarVa (s : State) (a : Reg) (imm : BitVec 11) (k : Nat) : W64 :=
  s.strand.rx a + imm.signExtend 64 * BitVec.ofNat 64 (2 ^ k)

/-- A virtual address of field memory that the strand's context may read, or write, at a physical address that exists. -/
def State.fieldSite (s : State) (va : W64) (write : Bool) (pa : Nat) : Prop :=
  va.toNat < 2 ^ 48 ∧ pa < 384 * 2 ^ 30 ∧
  ∃ leaf big, s.leafFor s.strand.g.core s.strand.g.ctx va.toNat = some (leaf, big) ∧ physOf leaf big va.toNat = pa ∧
    leafREGION leaf = 0 ∧ (if write then leafWR leaf else leafRD leaf) = true ∧
    s.pages.all (fun q => !(decide (q.ctx = s.strand.g.ctx) && decide (q.page = va.toNat / 2 ^ 21) && q.evicted.isSome)) = true

/-- A virtual address to which the strand's stores go to a place that exists (R118). -/
def State.storeSite (s : State) (va : W64) (p : Site) : Prop :=
  va.toNat < 2 ^ 48 ∧ s.access s.strand.g.core s.strand.g.ctx va .write = .ok p ∧ p.exists? = true

/-- The number that `n` bytes of a memory hold, sign-extended to 64 bits, the lowest address lowest. -/
def loaded (m : Mem) (a k : Nat) : W64 :=
  match k with
  | 0 => (Mem.read m a).signExtend 64
  | 1 => (Mem.read m (a + 1) ++ Mem.read m a).signExtend 64
  | 2 => (Mem.read m (a + 3) ++ Mem.read m (a + 2) ++ Mem.read m (a + 1) ++ Mem.read m a).signExtend 64
  | _ => (Mem.read m (a + 7) ++ Mem.read m (a + 6) ++ Mem.read m (a + 5) ++ Mem.read m (a + 4) ++
      Mem.read m (a + 3) ++ Mem.read m (a + 2) ++ Mem.read m (a + 1) ++ Mem.read m a).signExtend 64

end Sys2Proof.Machine
end

