-- ==== Sys2Proof/Certificates/Slice0/Obligations.lean ====
section
/-! DEFINITION. The statements for the provers. -/

section

open Sys2Proof Sys2Proof.Machine

/-- R109, Table 6.2: what each word of major 0x01 leaves, in every state. A write to x0 is discarded (`State.wrote`, R106). -/
def Obligations.IntegerWordsWriteTheirValue : Prop :=
  ∀ (d a b : Reg) (s : State), let x := s.strand.rx a; let y := s.strand.rx b; let sh := y.toNat % 64
    exec (.add d a b) s = .next (s.wrote d (x + y)) ∧
    exec (.sub d a b) s = .next (s.wrote d (x - y)) ∧
    exec (.and d a b) s = .next (s.wrote d (x &&& y)) ∧
    exec (.or d a b) s = .next (s.wrote d (x ||| y)) ∧
    exec (.xor d a b) s = .next (s.wrote d (x ^^^ y)) ∧
    exec (.sll d a b) s = .next (s.wrote d (x <<< sh)) ∧
    exec (.srl d a b) s = .next (s.wrote d (x >>> sh)) ∧
    exec (.sra d a b) s = .next (s.wrote d (x.sshiftRight sh)) ∧
    exec (.slt d a b) s = .next (s.wrote d (if x.slt y then 1 else 0)) ∧
    exec (.sltu d a b) s = .next (s.wrote d (if x < y then 1 else 0)) ∧
    exec (.mul d a b) s = .next (s.wrote d (x * y)) ∧
    exec (.mulh d a b) s = .next (s.wrote d ((x.signExtend 128 * y.signExtend 128).extractLsb' 64 64)) ∧
    exec (.mulhu d a b) s = .next (s.wrote d ((x.setWidth 128 * y.setWidth 128).extractLsb' 64 64)) ∧
    exec (.div d a b) s = .next (s.wrote d (if y = 0 then -1 else x.sdiv y)) ∧
    exec (.divu d a b) s = .next (s.wrote d (if y = 0 then BitVec.allOnes 64 else x / y)) ∧
    exec (.rem d a b) s = .next (s.wrote d (if y = 0 then x else x.srem y)) ∧
    exec (.remu d a b) s = .next (s.wrote d (if y = 0 then x else x % y)) ∧
    exec (.min d a b) s = .next (s.wrote d (if x.slt y then x else y)) ∧
    exec (.max d a b) s = .next (s.wrote d (if x.slt y then y else x)) ∧
    exec (.minu d a b) s = .next (s.wrote d (if x < y then x else y)) ∧
    exec (.maxu d a b) s = .next (s.wrote d (if x < y then y else x)) ∧
    exec (.clz d a) s = .next (s.wrote d (BitVec.ofNat 64 ((List.range 64).takeWhile fun k => !x.getLsbD (63 - k)).length)) ∧
    exec (.ctz d a) s = .next (s.wrote d (BitVec.ofNat 64 ((List.range 64).takeWhile fun k => !x.getLsbD k).length)) ∧
    exec (.popc d a) s = .next (s.wrote d (BitVec.ofNat 64 ((List.range 64).filter fun k => x.getLsbD k).length)) ∧
    exec (.zextb d a) s = .next (s.wrote d (x &&& 0xFF)) ∧
    exec (.zexth d a) s = .next (s.wrote d (x &&& 0xFFFF)) ∧
    exec (.zextw d a) s = .next (s.wrote d (x &&& 0xFFFFFFFF)) ∧
    exec (.sextb d a) s = .next (s.wrote d ((x <<< 56).sshiftRight 56)) ∧
    exec (.sexth d a) s = .next (s.wrote d ((x <<< 48).sshiftRight 48)) ∧
    exec (.sextw d a) s = .next (s.wrote d ((x <<< 32).sshiftRight 32))

/-- R110, Table 6.3: division answers a next state for every operand pair, its borderline results among them. -/
def Obligations.DivisionNeverTraps : Prop :=
  ∀ (d a b : Reg) (s : State), let x := s.strand.rx a; let y := s.strand.rx b; let least : W64 := 0x8000000000000000
    (y = 0 →
      exec (.div d a b) s = .next (s.wrote d (-1)) ∧ exec (.rem d a b) s = .next (s.wrote d x) ∧
      exec (.divu d a b) s = .next (s.wrote d 0xFFFFFFFFFFFFFFFF) ∧ exec (.remu d a b) s = .next (s.wrote d x)) ∧
    (x = least → y = -1 →
      exec (.div d a b) s = .next (s.wrote d least) ∧ exec (.rem d a b) s = .next (s.wrote d 0) ∧
      exec (.divu d a b) s = .next (s.wrote d 0) ∧ exec (.remu d a b) s = .next (s.wrote d least)) ∧
    (y ≠ 0 →
      exec (.div d a b) s = .next (s.wrote d (x.sdiv y)) ∧ exec (.rem d a b) s = .next (s.wrote d (x.srem y)) ∧
      exec (.divu d a b) s = .next (s.wrote d (x / y)) ∧ exec (.remu d a b) s = .next (s.wrote d (x % y)))

/-- R111, R112 and R113: the immediate words, the shifts by an immediate, `lhi` and `lpc`. -/
def Obligations.ImmediateWordsWriteTheirValue : Prop :=
  ∀ (d a : Reg) (imm : BitVec 15) (sh : BitVec 6) (page : BitVec 20) (s : State),
    let x := s.strand.rx a; let y : W64 := imm.signExtend 64
    exec (.addi d a imm) s = .next (s.wrote d (x + y)) ∧
    exec (.andi d a imm) s = .next (s.wrote d (x &&& y)) ∧
    exec (.ori d a imm) s = .next (s.wrote d (x ||| y)) ∧
    exec (.xori d a imm) s = .next (s.wrote d (x ^^^ y)) ∧
    exec (.slti d a imm) s = .next (s.wrote d (if x.slt y then 1 else 0)) ∧
    exec (.sltiu d a imm) s = .next (s.wrote d (if x < y then 1 else 0)) ∧
    exec (.slli d a sh) s = .next (s.wrote d (x <<< sh.toNat)) ∧
    exec (.srli d a sh) s = .next (s.wrote d (x >>> sh.toNat)) ∧
    exec (.srai d a sh) s = .next (s.wrote d (x.sshiftRight sh.toNat)) ∧
    exec (.lhi d page) s = .next (s.wrote d (page.signExtend 64 * 4096)) ∧
    exec (.lpc d page) s = .next (s.wrote d (s.strand.pc + page.signExtend 64 * 4096))

/-- R106: the hard-wired register, and a word that names it as its destination. -/
def Obligations.ZeroRegisterDiscardsWrites : Prop :=
  ∀ (a b : Reg) (imm : BitVec 15) (s : State),
    s.strand.rx 0 = 0 ∧
    exec (.add 0 a b) s = .next (s.withStrand s.strand.nextWord) ∧
    exec (.mul 0 a b) s = .next (s.withStrand s.strand.nextWord) ∧
    exec (.addi 0 a imm) s = .next (s.withStrand s.strand.nextWord) ∧
    ∀ (d r : Reg) (v : W64), r ≠ 0 → (s.strand.wx d v).rx r = if r = d then v else s.strand.rx r

/-- R107, R114 to R116: the FP32 words read bits 31:0, round once with the word's mode into FP32 and raise flags at retirement. -/
def Obligations.FloatWordsRoundOnce : Prop :=
  ∀ (d a b c : Reg) (rm : BitVec 2) (s : State),
    let x := decodeFloat descFP32 ((s.strand.rx a).toNat % 2 ^ 32)
    let y := decodeFloat descFP32 ((s.strand.rx b).toNat % 2 ^ 32)
    let z := decodeFloat descFP32 ((s.strand.rx c).toNat % 2 ^ 32)
    let leaves := fun (i : Instr) (r : Nat × Flags) =>
      exec i s = .next ((s.withStrand { s.strand with fflags := s.strand.fflags ||| r.2 }).wrote d (BitVec.ofNat 64 r.1))
    let rounded := fun (r : Val × Flags) => roundOp r descFP32 rm.toNat false
    leaves (.fadd d a b rm) (rounded (Val.add rm.toNat x y)) ∧
    leaves (.fsub d a b rm) (rounded (Val.add rm.toNat x y.negate)) ∧
    leaves (.fmul d a b rm) (rounded (Val.mul x y)) ∧
    leaves (.fdiv d a b rm) (divInto x y descFP32 rm.toNat false) ∧
    leaves (.fsqrt d a rm) (rounded (Val.sqrt x)) ∧
    leaves (.fmin d a b) (toFP32 (Val.minmax false x y)) ∧
    leaves (.fmax d a b) (toFP32 (Val.minmax true x y)) ∧
    leaves (.feq d a b) (if x.eqv y then 1 else 0, 0) ∧
    leaves (.flt d a b) (if x.lt y then 1 else 0, 0) ∧
    leaves (.fle d a b) (if x.lt y || x.eqv y then 1 else 0, 0) ∧
    leaves (.fcvtSL d a rm) (encodeFloat (Val.ofInt (s.strand.rx a).toInt) descFP32 rm.toNat false) ∧
    leaves (.fcvtLS d a rm) (encodeToInt x descI64 rm.toNat) ∧
    leaves (.fclass d a) (2 ^ classBit ((s.strand.rx a).toNat % 2 ^ 32), 0) ∧
    leaves (.fmadd d a b c rm) (rounded (fusedVal 0 rm.toNat x y z)) ∧
    leaves (.fmsub d a b c rm) (rounded (fusedVal 1 rm.toNat x y z)) ∧
    leaves (.fnmadd d a b c rm) (rounded (fusedVal 2 rm.toNat x y z)) ∧
    leaves (.fnmsub d a b c rm) (rounded (fusedVal 3 rm.toNat x y z))

/-- R122 and R88: where each branch goes on, and that it changes nothing else of the strand and no memory. A taken branch is
recorded in the trace ring of its core (R123). -/
def Obligations.BranchesGoWhereTheComparisonSays : Prop :=
  ∀ (a b : Reg) (off : BitVec 15) (s : State),
    let x := s.strand.rx a; let y := s.strand.rx b; let target := s.strand.pc + off.signExtend 64 * 4
    let goes := fun (i : Instr) (taken : Bool) =>
      ∃ t, exec i s = .next t ∧ t.strand = s.strand.retired (if taken then target else s.strand.pc + 4) ∧ s.sameBytes t
    goes (.beq a b off) (x == y) ∧ goes (.bne a b off) (x != y) ∧
    goes (.blt a b off) (x.slt y) ∧ goes (.bge a b off) (!x.slt y) ∧
    goes (.bltu a b off) (x.ult y) ∧ goes (.bgeu a b off) (!x.ult y)

/-- R123 and R88: the two jumps, and the trap of a misaligned `jalr` target outside a handler. -/
def Obligations.JumpsLinkAndGo : Prop :=
  ∀ (d a : Reg) (imm : BitVec 15) (off : BitVec 20) (s : State),
    let target := s.strand.rx a + imm.signExtend 64
    (∃ t, exec (.jal d off) s = .next t ∧
      t.strand = (s.strand.wx d (s.strand.pc + 4)).retired (s.strand.pc + off.signExtend 64 * 4) ∧ s.sameBytes t) ∧
    (target.toNat % 4 = 0 → ∃ t, exec (.jalr d a imm) s = .next t ∧
      t.strand = (s.strand.wx d (s.strand.pc + 4)).retired target ∧ s.sameBytes t) ∧
    (target.toNat % 4 ≠ 0 → s.strand.nest = false → ∃ t, exec (.jalr d a imm) s = .next t ∧
      t.strand.x = s.strand.x ∧ t.strand.cause = 2 ∧ t.strand.tval = target ∧ t.strand.epc = s.strand.pc ∧
      t.strand.pc = s.strand.tvec &&& (BitVec.allOnes 64 - 63))

/-- R117 to R119: `ld` from field memory, of every size. -/
def Obligations.LoadsWriteSignExtendedBytes : Prop :=
  ∀ (d a : Reg) (st : BitVec 2) (imm : BitVec 11) (s : State) (pa : Nat),
    let reads := fun (i : Instr) (k : Nat) =>
      let va := s.scalarVa a imm k
      va.toNat % 2 ^ k = 0 → s.fieldSite va false pa → (s.line false (pa / 64)).poison = false →
      s.strand.holds = [] → s.strand.pend = [] → s.strand.buf = [] → s.strand.remotes = [] →
      ∃ t, exec i s = .next t ∧ t.strand = (s.strand.wx d (loaded s.fm pa k)).nextWord ∧ s.sameBytes t
    reads (.ldB d a st imm) 0 ∧ reads (.ldH d a st imm) 1 ∧ reads (.ldW d a st imm) 2 ∧ reads (.ldD d a st imm) 3

/-- R117 to R119, R141, R241 and R326: `st` of every size to each region that takes it, with its frame. The fields of the flit are log 56's. -/
def Obligations.StoresWriteTheLowBytes : Prop :=
  ∀ (d a : Reg) (st : BitVec 2) (imm : BitVec 11) (s : State) (pa : Nat),
    let writes := fun (i : Instr) (k : Nat) =>
      let va := s.scalarVa a imm k
      let v := (s.strand.rx d).toNat
      let owner := s.ownerTag s.strand.g.ctx
      let lands := fun (t : State) (g : Tgt) => s.sameBytesBut t g pa (2 ^ k) ∧
        ∀ j, j < 2 ^ k → Mem.read (t.memOf g) (pa + j) = (s.strand.rx d).extractLsb' (8 * j) 8
      va.toNat % 2 ^ k = 0 →
      (s.storeSite va (.mem .fm pa) → s.undoF.length < Config.undoCapF → s.strand.plain = true →
        ∃ t, exec i s = .next t ∧ t.strand = s.strand.nextWord ∧ lands t .fm) ∧
      (s.storeSite va (.mem .fm pa) → s.undoF.length < Config.undoCapF →
        s.strand.buffering = true → bufBytes s.strand.buf + 2 ^ k ≤ 16384 →
        ∃ t, exec i s = .next t ∧ s.sameBytes t ∧ t.strand = { s.strand with
          buf := s.strand.buf ++ [(⟨st.toNat, some va.toNat, .mem (.put .fm pa (leBytes (2 ^ k) v) owner false)⟩ : BufStore)] }.nextWord) ∧
      (s.storeSite va (.mem .hm pa) → s.undoH.length < Config.undoCapH → s.stackUp pa = true →
        (∀ q ∈ s.pages, q.ctx = s.strand.g.ctx → q.page = va.toNat / 2 ^ 21 → q.migrating = false) → s.strand.plain = true →
        ∃ t, exec i s = .next t ∧ t.strand = s.strand.nextWord ∧ lands t .hm) ∧
      (s.storeSite va (.ext .host pa) → s.holdTakes (2 ^ k) = true → s.strand.plain = true → s.everyEarlier = [] →
        ∃ t, exec i s = .next t ∧ t.strand = s.strand.nextWord ∧ s.sameBytes t ∧
          t.hold = s.hold ++
            [⟨s.rin.toNat, .host, 0, [], pa, leBytes (2 ^ k) v, s.strand.g.ctx, s.strand.g.gid, s.strand.sidx⟩]) ∧
      (∀ m n, s.storeSite va (.remote m pa) → s.primary false m = some n → s.strand.plain = true →
        ∃ t, exec i s = .next t ∧ s.sameBytes t ∧
          t.strand = { s.strand with remotes := [⟨s.nextId, st.toNat, some va.toNat⟩] }.nextWord ∧
          ∃ f, (f ∈ (t.port n).queue ∨ f ∈ (t.port n).replay) ∧ f.dest = some (false, m) ∧ f.kind = 3 ∧ f.vc = 0 ∧
            f.uid = s.nextId ∧ f.addr = pa ∧ f.bytes = leBytes (2 ^ k) v)
    writes (.stB d a st imm) 0 ∧ writes (.stH d a st imm) 1 ∧ writes (.stW d a st imm) 2 ∧ writes (.stD d a st imm) 3

/-- R117, R119 and R121: `spld` and `spst`, of every size, with their frames. -/
def Obligations.ScratchpadWordsReadAndWrite : Prop :=
  ∀ (d a : Reg) (st : BitVec 2) (imm : BitVec 11) (s : State) (dev : Nat),
    let reads := fun (i : Instr) (k : Nat) =>
      let va := s.scalarVa a imm k
      va.toNat % 2 ^ k = 0 → s.meadow s.strand.g va (2 ^ k) = .ok dev → s.bankAsleep dev = false →
      s.strand.plain = true →
      ∃ t, exec i s = .next t ∧ t.strand = (s.strand.wx d (loaded s.sp dev k)).nextWord ∧ s.sameBytes t
    let writes := fun (i : Instr) (k : Nat) =>
      let va := s.scalarVa a imm k
      va.toNat % 2 ^ k = 0 → s.meadow s.strand.g va (2 ^ k) = .ok dev → s.bankAsleep dev = false →
      s.strand.plain = true → s.envBlockers none (some (dev, dev + 2 ^ k)) = [] →
      ∃ t, exec i s = .next t ∧ t.strand = s.strand.nextWord ∧ s.sameBytesBut t .sp dev (2 ^ k) ∧
        ∀ j, j < 2 ^ k → Mem.read t.sp (dev + j) = (s.strand.rx d).extractLsb' (8 * j) 8
    reads (.spldB d a st imm) 0 ∧ reads (.spldH d a st imm) 1 ∧ reads (.spldW d a st imm) 2 ∧ reads (.spldD d a st imm) 3 ∧
    writes (.spstB d a st imm) 0 ∧ writes (.spstH d a st imm) 1 ∧ writes (.spstW d a st imm) 2 ∧ writes (.spstD d a st imm) 3

/-- R117 with R127: which trap a scalar access takes, first failure first, for words of every size (k = 0 to 3). -/
def Obligations.ScalarAccessesAreCheckedInOrder : Prop :=
  ∀ (d a : Reg) (st : BitVec 2) (imm : BitVec 11) (s : State), s.strand.nest = false →
    let checks := fun (ld sto spl sps : Instr) (k : Nat) =>
      let va := s.scalarVa a imm k
      (va.toNat % 2 ^ k ≠ 0 →
        TrapsAs (exec ld s) s 2 0 va ∧ TrapsAs (exec sto s) s 2 0 va ∧ TrapsAs (exec spl s) s 2 0 va ∧ TrapsAs (exec sps s) s 2 0 va) ∧
      (va.toNat % 2 ^ k = 0 → 2 ^ 48 ≤ va.toNat → TrapsAs (exec ld s) s 4 0 va ∧ TrapsAs (exec sto s) s 4 0 va) ∧
      (va.toNat % 2 ^ k = 0 → (2 ^ 27 ≤ va.toNat ∨ 24 ≤ va.toNat / 2 ^ 22 % 32) →
        TrapsAs (exec spl s) s 4 2 va ∧ TrapsAs (exec sps s) s 4 2 va) ∧
      (va.toNat % 2 ^ k = 0 → va.toNat < 2 ^ 48 → s.leafFor s.strand.g.core s.strand.g.ctx va.toNat = none →
        TrapsAs (exec ld s) s 3 1 va ∧ TrapsAs (exec sto s) s 3 2 va)
    checks (.ldB d a st imm) (.stB d a st imm) (.spldB d a st imm) (.spstB d a st imm) 0 ∧
    checks (.ldH d a st imm) (.stH d a st imm) (.spldH d a st imm) (.spstH d a st imm) 1 ∧
    checks (.ldW d a st imm) (.stW d a st imm) (.spldW d a st imm) (.spstW d a st imm) 2 ∧
    checks (.ldD d a st imm) (.stD d a st imm) (.spldD d a st imm) (.spstD d a st imm) 3

/-- R329 and R330: what a scalar store to field memory or to the Heath does to the line tags and the undo logs; R141: none of it while the strip
store buffer keeps the store. -/
def Obligations.FirstStoreOfAnIntervalLogsTheLine : Prop :=
  ∀ (d a : Reg) (st : BitVec 2) (imm : BitVec 11) (s : State) (pa : Nat),
    let logs := fun (i : Instr) (k : Nat) =>
      let va := s.scalarVa a imm k
      let line := pa / 64
      let logged := fun (heath : Bool) =>
        ∃ t, exec i s = .next t ∧
          (t.line heath line).stamp = s.rin.setWidth 8 ∧ (t.line heath line).owner = s.ownerTag s.strand.g.ctx ∧
          (∀ n, n ≠ line → t.line heath n = s.line heath n) ∧ t.lines (!heath) = s.lines (!heath) ∧ t.undo (!heath) = s.undo (!heath) ∧
          ((s.line heath line).stamp = s.rin.setWidth 8 → t.undo heath = s.undo heath) ∧
          ((s.line heath line).stamp ≠ s.rin.setWidth 8 → ∃ u : Undo, t.undo heath = s.undo heath ++ [u] ∧ u.line = line ∧
            u.old = { s.line heath line with poison := (s.line heath line).poison || s.rcv.oldBad.contains (heath, line) } ∧
            u.interval = s.rin.toNat ∧ u.bytes.length = 64 ∧
            ∀ j, j < 64 → u.bytes[j]? = some (Mem.read (if heath then s.hm else s.fm) (64 * line + j)))
      va.toNat % 2 ^ k = 0 →
      (s.storeSite va (.mem .fm pa) → s.undoF.length < Config.undoCapF → s.strand.plain = true → logged false) ∧
      (s.storeSite va (.mem .hm pa) → s.undoH.length < Config.undoCapH → s.stackUp pa = true →
        (∀ q ∈ s.pages, q.ctx = s.strand.g.ctx → q.page = va.toNat / 2 ^ 21 → q.migrating = false) → s.strand.plain = true →
        logged true) ∧
      (s.storeSite va (.mem .fm pa) → s.undoF.length < Config.undoCapF →
        s.strand.buffering = true → bufBytes s.strand.buf + 2 ^ k ≤ 16384 →
        ∃ t, exec i s = .next t ∧ t.fmLine = s.fmLine ∧ t.hmLine = s.hmLine ∧ t.undoF = s.undoF ∧ t.undoH = s.undoH)
    logs (.stB d a st imm) 0 ∧ logs (.stH d a st imm) 1 ∧ logs (.stW d a st imm) 2 ∧ logs (.stD d a st imm) 3

/-- R104, R105, R124 and R125: `csrr` and what the numbers of Table 5.21 name; then the writing CSR words, where `put` says which register a
number is and what of the value it keeps. A CSR word stands at a convoy boundary: its `vstart` and `vslab` are those that the trap saved and
that `tret` returns to, 0 outside a handler (log 55). That a per-core register which the half choosing first writes stands from the end of the
slab-cycle on, for both halves of a split core, is log 83's reading of R124. -/
def Obligations.CsrWordsReadAndWrite : Prop :=
  (
  ∀ (d : Reg) (csr : BitVec 12) (s : State),
    (csrKnown csr.toNat = true → (csr.toNat / 1024 % 4 = 2 → s.strand.priv = true) →
      exec (.csrr d csr) s = .next (s.wrote d (s.csr csr.toNat))) ∧
    let t := s.strand; let c := s.core t.g.core; let lanes := (c.lanesFor t.g).length
    s.csr 0x000 = t.fflags.setWidth 64 ∧ s.csr 0x001 = t.ckmask ∧ s.csr 0x400 = t.vl ∧ s.csr 0x401 = t.vtype ∧
    s.csr 0x402 = t.tstart ∧ s.csr 0x403 = t.tslab ∧ s.csr 0x404 = t.tags ∧ s.csr 0x405 = t.hqstat ∧
    s.csr 0x800 = t.status.setWidth 64 ∧ s.csr 0x801 = t.tvec ∧ s.csr 0x802 = t.epc ∧ s.csr 0x803 = t.cause.setWidth 64 ∧
    s.csr 0x804 = t.tval ∧ s.csr 0x805 = t.hscratch ∧ s.csr 0x806 = t.tmcmp ∧
    s.csr 0x807 = BitVec.ofNat 64 (c.pevDrop.toNat * 2 ^ 48 + c.pevStrm.toNat * 2 ^ 16 + c.pevPipes.toNat) ∧
    s.csr 0x808 = BitVec.ofNat 64 (c.trcWraps.toNat * 2 ^ 54 + c.trcHead.toNat * 2 ^ 44 + c.trcOfs.toNat * 2 ^ 28 +
      c.trcCopyErr.toNat * 2 ^ 11 + c.trcFrz.toNat * 2 ^ 8 + c.trcEn.toNat) ∧
    (match s.queues.find? fun q => decide (q.hw = c.sqsel.toNat) && decide (q.ctx = t.g.ctx) && decide (q.state ≠ .free) with
     | none => s.csr 0x810 = BitVec.ofNat 64 c.sqsel.toNat ∧ s.csr 0x811 = 0 ∧ s.csr 0x812 = 0 ∧ s.csr 0x813 = 0 ∧ s.csr 0x814 = 0
     | some q =>
       s.csr 0x810 = BitVec.ofNat 64 (64 + c.sqsel.toNat) ∧ s.csr 0x811 = c.charge[c.sqsel.toNat]'(c.sqsel.isLt) ∧
       s.csr 0x812 = BitVec.ofNat 64 q.weight ∧ s.csr 0x813 = BitVec.ofNat 64 (2 ^ 20 / q.tickets * 2 ^ 32 + q.tickets) ∧
       s.csr 0x814 = c.pass[c.sqsel.toNat]'(c.sqsel.isLt)) ∧
    s.csr 0xC00 = t.gcoord ∧
    s.csr 0xC01 = BitVec.ofNat 64 (2048 * lanes * 2 ^ 48 + 64 * lanes * 2 ^ 32 + t.g.prot.toNat * 2 ^ 22 + c.mxok.toNat * 2 ^ 21 +
      lanes * 2 ^ 16 + 8 * lanes * 2 ^ 8) ∧
    s.csr 0xC02 = BitVec.ofNat 64 (8 * lanes) ∧
    s.csr 0xC03 = s.rin.setWidth 64 ∧ s.csr 0xC04 = c.cycle ∧ s.csr 0xC05 = t.cvret ∧ s.csr 0xC06 = s.svcmode.setWidth 64 ∧
    s.csr 0xC07 = c.undostall) ∧
  ∀ (d a : Reg) (s : State), let t := s.strand; let c := s.core t.g.core; let x := t.rx a
    let each := fun (n : BitVec 12) (old : W64) (fits : W64 → Prop) (put : W64 → State) =>
      (fits x → exec (.csrw d a n) s = .next ((put x).wrote d old)) ∧
      (a ≠ 0 → fits (old ||| x) → exec (.csrs d a n) s = .next ((put (old ||| x)).wrote d old)) ∧
      (a ≠ 0 → fits (old &&& ~~~x) → exec (.csrc d a n) s = .next ((put (old &&& ~~~x)).wrote d old)) ∧
      exec (.csrs d 0 n) s = .next (s.wrote d old) ∧ exec (.csrc d 0 n) s = .next (s.wrote d old)
    let all := fun (n : BitVec 12) (old : W64) (put : W64 → Strand) => each n old (fun _ => True) (fun v => s.withStrand (put v))
    let alone := c.halves = none ∨ c.half = true
    let late := fun (n : BitVec 12) => ({ c with late := c.late ++ [⟨n.toNat, t.hs, t.g.upper, c.sqsel, x, c.copyLeaves t.g.upper (c.copyAt t.g.upper x)⟩] } : Core)
    let core := fun (n : BitVec 12) (old : W64) (put : W64 → Core) =>
      (alone → each n old (fun _ => True) (fun v => s.setCore (put v))) ∧
      (¬alone → exec (.csrw d a n) s = .next ((s.setCore (late n)).wrote d old) ∧ (c.late = [] → (late n).settled = put x))
    let clamped := fun (u : State) (v : W64) => if u.vlmax < v.toNat then BitVec.ofNat 64 u.vlmax else v
    all 0x000 (t.fflags.setWidth 64) (fun v => { t with fflags := v.setWidth 5 }) ∧
    all 0x001 t.ckmask (fun v => { t with ckmask := v &&& 0xFFFFFFFE }) ∧
    (t.priv = true →
      all 0x400 t.vl (fun v => { t with vl := clamped s v }) ∧
      all 0x401 t.vtype (fun v =>
        let u := { t with vtype := v &&& 0x800000000000000F }
        { u with vl := clamped (s.withStrand u) t.vl }) ∧
      all 0x402 t.tstart (fun v => { t with tstart := v }) ∧
      all 0x403 t.tslab (fun v => { t with tslab := v }) ∧
      all 0x404 t.tags (fun v => { t with tags := v }) ∧
      all 0x405 t.hqstat (fun v => { t with hqstat := (t.hqstat &&& 0xFF00000000) ||| (v &&& 0x03F0FF01) }) ∧
      all 0x800 (t.status.setWidth 64) (fun v => { t with status := (v.setWidth 5 &&& 0x1E) ||| (t.status &&& 1) }) ∧
      all 0x801 t.tvec (fun v => { t with tvec := v &&& (BitVec.allOnes 64 - 63) }) ∧
      all 0x802 t.epc (fun v => { t with epc := v }) ∧
      all 0x803 (t.cause.setWidth 64) (fun v => { t with cause := v.setWidth 17 }) ∧
      all 0x804 t.tval (fun v => { t with tval := v }) ∧
      all 0x805 t.hscratch (fun v => { t with hscratch := v }) ∧
      all 0x806 t.tmcmp (fun v => { t with tmcmp := v }) ∧
      core 0x807 (s.csr 0x807) (fun v =>
        { c with pevStrm := BitVec.ofNat 4 (v.toNat / 2 ^ 16), pevPipes := BitVec.ofNat 10 v.toNat }) ∧
      (alone → each 0x808 (s.csr 0x808) (fun v => v.toNat / 2 ^ 9 % 4 = 0 ∧ v.toNat / 2 ^ 12 % 2 ^ 16 = 0) (fun v =>
        s.setCore (if t.g.upper then c else
          { c with trcOfs := BitVec.ofNat 16 (v.toNat / 2 ^ 28), trcFrz := decide (v.toNat / 2 ^ 8 % 2 = 1),
                   trcEn := BitVec.ofNat 6 (v.toNat % 16 + 48) }))) ∧
      (alone → t.g.upper = false → x.toNat / 2 ^ 9 % 4 = 1 → x.toNat / 2 ^ 12 % 2 ^ 16 = 0 →
        ∃ u, exec (.csrw d a 0x808) s = .next u ∧ u.strand = (s.wrote d (s.csr 0x808)).strand ∧ s.sameBytes u ∧
          let e := u.core t.g.core
          e.ring = [] ∧ e.trcWraps = 0 ∧ e.trcHead = 0 ∧ e.pevDrop = 0) ∧
      core 0x810 (s.csr 0x810) (fun v => { c with sqsel := v.setWidth 6 }) ∧
      (alone → each 0x811 (s.csr 0x811) (fun _ => True) (fun v =>
        if s.selected.isSome then s.setCore { c with charge := c.charge.set c.sqsel.toNat v c.sqsel.isLt } else s)) ∧
      each 0x812 (s.csr 0x812) (fun _ => True) (fun _ => s) ∧ each 0x813 (s.csr 0x813) (fun _ => True) (fun _ => s) ∧
      (alone → each 0x814 (s.csr 0x814) (fun _ => True) (fun v =>
        if s.selected.isSome then s.setCore { c with pass := c.pass.set c.sqsel.toNat v c.sqsel.isLt } else s)) ∧
      (¬alone → ∀ n, n = 0x808 ∨ n = 0x811 ∨ n = 0x814 → x.toNat / 2 ^ 10 % 2 = 0 → s.selected.isSome = true →
        exec (.csrw d a n) s = .next ((s.setCore (late n)).wrote d (s.csr n.toNat))))

/-- R104: the class checks of CSR words, by bits 11:10 of the number, and the check of an unknown number behind them. -/
def Obligations.CsrClassesGuard : Prop :=
  ∀ (d a : Reg) (csr : BitVec 12) (s : State), s.strand.nest = false →
    let cls := csr.toNat / 1024 % 4
    let word := fun (op : Nat) (b : Reg) => csrWord op d b csr
    let closedToReads := cls = 2 ∧ s.strand.priv = false
    let closedToWrites := cls = 3 ∨ (cls ≠ 0 ∧ s.strand.priv = false)
    (closedToWrites →
      TrapsAs (exec (.csrw d a csr) s) s 1 3 (word 1 a) ∧
      (a ≠ 0 → TrapsAs (exec (.csrs d a csr) s) s 1 3 (word 2 a) ∧ TrapsAs (exec (.csrc d a csr) s) s 1 3 (word 3 a))) ∧
    (closedToReads →
      TrapsAs (exec (.csrr d csr) s) s 1 3 (word 0 0) ∧
      TrapsAs (exec (.csrs d 0 csr) s) s 1 3 (word 2 0) ∧ TrapsAs (exec (.csrc d 0 csr) s) s 1 3 (word 3 0)) ∧
    (¬closedToWrites → csrKnown csr.toNat = false →
      TrapsAs (exec (.csrw d a csr) s) s 1 4 (word 1 a) ∧
      (a ≠ 0 → TrapsAs (exec (.csrs d a csr) s) s 1 4 (word 2 a) ∧ TrapsAs (exec (.csrc d a csr) s) s 1 4 (word 3 a))) ∧
    (¬closedToReads → csrKnown csr.toNat = false →
      TrapsAs (exec (.csrr d csr) s) s 1 4 (word 0 0) ∧
      TrapsAs (exec (.csrs d 0 csr) s) s 1 4 (word 2 0) ∧ TrapsAs (exec (.csrc d 0 csr) s) s 1 4 (word 3 0))

/-- R127: the one operation by which every exception is taken. `tslab`, `tstart`, `tcarry` and `tdone` kept apart for the return, and the
handler's own cleared, are the model's choice (log 55). -/
def Obligations.TakingATrap : Prop :=
  ∀ (w : Work) (async : Bool) (tr : Trap), let s := w.cur
    ((async = true ∨ s.nest = false) →
      let t := (w.takeTrap async tr).cur
      t.epc = s.pc ∧ t.cause = BitVec.ofNat 17 (async.toNat * 65536 + tr.sub * 256 + tr.code) ∧ t.tval = tr.tval ∧
      t.status.getLsbD 0 = true ∧ t.status.getLsbD 1 = s.status.getLsbD 0 ∧ t.status.getLsbD 2 = false ∧
      t.status.getLsbD 3 = s.status.getLsbD 2 ∧ t.status.getLsbD 4 = true ∧
      t.pc = s.tvec &&& (BitVec.allOnes 64 - 63) ∧
      t.tslab = s.vslab ∧ t.tstart = s.vstart ∧ t.tcarry = s.carry ∧ t.tdone = s.done ∧ t.carryAt = some s.pc ∧
      t.vslab = 0 ∧ t.vstart = 0 ∧ t.carry = .none ∧ t.done = Vector.replicate 4 0 ∧ t.waiting = .none ∧ t.x = s.x ∧ t.v = s.v ∧ t.k = s.k ∧
      t.fflags = s.fflags ∧ t.tvec = s.tvec ∧ t.hscratch = s.hscratch) ∧
    (async = false → s.nest = true → s.live = true →
      (w.takeTrap async tr).cur.ended = true ∧ (w.takeTrap async tr).cur.epc = s.epc ∧
      ∀ g, w.st.group? s.g.gid = some g → g.fatal = none → ∃ g', (w.takeTrap async tr).st.group? s.g.gid = some g' ∧
        g'.ending = true ∧ g'.fatal = some ⟨s.sidx, tr.code, s.pc, tr.tval, s.gcoord,
          (w.st.strands.filter fun t => decide (t.g.gid = s.g.gid)).map fun t => (t.sidx, t.waiting)⟩)

/-- R129: `svc`. -/
def Obligations.SvcTraps : Prop :=
  ∀ (s : State),
    encode .svc = 0x3A000000 ∧
    (s.strand.nest = false → TrapsAs (exec .svc s) s 0x0E 0 0) ∧
    (s.strand.nest = true → s.strand.live = true → ∃ t, exec .svc s = .next t ∧ t.strand.ended = true ∧
      ∀ g, s.group? s.strand.g.gid = some g → g.fatal = none →
        ∃ g' l, t.group? s.strand.g.gid = some g' ∧ g'.ending = true ∧
          g'.fatal = some ⟨s.strand.sidx, 0x0E, s.strand.pc, 0, s.strand.gcoord, l⟩)

/-- R130: `brk`. R128: the return from an exception, with R215 for the loop; `tslab` and `tstart` are `vslab` and `vstart` as the handler
reads and writes them (log 55). -/
def Obligations.BrkTrapsAndTretReturns : Prop :=
  (∀ (code : BitVec 5) (s : State), s.strand.nest = false →
    TrapsAs (exec (.brk code) s) s 0x0D code.toNat (BitVec.ofNat 64 (0x3A000002 + code.toNat * 32))) ∧
  ∀ (s : State), s.strand.priv = true → let p := s.strand
    ∃ t, exec .tret s = .next t ∧ t.strand.pc = p.epc ∧ t.strand.cvret = p.cvret + 1 ∧
      t.strand.status.getLsbD 0 = p.status.getLsbD 1 ∧ t.strand.status.getLsbD 1 = p.status.getLsbD 1 ∧
      t.strand.status.getLsbD 2 = p.status.getLsbD 3 ∧ t.strand.status.getLsbD 3 = p.status.getLsbD 3 ∧
      t.strand.status.getLsbD 4 = false ∧ t.strand.vslab = p.tslab ∧ t.strand.vstart = p.tstart ∧
      (p.carryAt = some p.epc → t.strand.carry = p.tcarry ∧ t.strand.done = p.tdone) ∧
      (p.carryAt ≠ some p.epc → t.strand.carry = .none ∧ t.strand.done = Vector.replicate 4 0) ∧
      (p.loop = none → t.strand.loop = none) ∧
      (∀ l, p.loop = some l → l.suspended = true →
        (l.start ≤ p.epc → p.epc < l.stop → t.strand.loop = some { l with suspended := false }) ∧
        (¬(l.start ≤ p.epc ∧ p.epc < l.stop) → t.strand.loop = none)) ∧
      t.strand.x = p.x ∧ t.strand.v = p.v ∧ t.strand.k = p.k ∧ t.strand.vl = p.vl ∧ t.strand.fflags = p.fflags ∧
      t.strand.specials = { p with status := t.strand.status }.specials ∧ s.sameBytes t

/-- R132: `wfi`. -/
def Obligations.WfiWaitsForTheTimer : Prop :=
  ∀ (s : State), s.strand.priv = true →
    let cycle := (s.core s.strand.g.core).cycle
    (s.strand.tmcmp ≤ cycle → exec .wfi s = .next (s.withStrand s.strand.nextWord)) ∧
    (cycle < s.strand.tmcmp → exec .wfi s = .next (s.withStrand { s.strand with waiting := .timer }))

/-- Check 5 of Table 5.19: the privileged words outside handler level. -/
def Obligations.PrivilegedWordsAreIllegalAtGroupLevel : Prop :=
  ∀ (a b xf : Reg) (tag : BitVec 6) (s : State), s.strand.priv = false → s.strand.nest = false →
    let illegal := fun (i : Instr) => TrapsAs (exec i s) s 1 3 ((encode i).setWidth 64)
    illegal .tret ∧ illegal .wfi ∧ illegal (.hevict a b) ∧ illegal (.hrestore a b) ∧ illegal (.hmove a b xf tag)

/-- R133 and R291 to R293: `gend`. R214 and R101: `lend` that is reached, and `lbuf`; `fetchWords`, `fetchBlock`, `scanBlock` and `loopOf`
are its fetches and its checks of Table 5.19; that the passes run from the words fetched here is log 75's reading of R214. -/
def Obligations.EndAndLoopWords : Prop :=
  ∀ (d : Reg) (imm : BitVec 20) (s : State),
    (s.strand.priv = false → s.strand.buf = [] → s.strand.deliver = [] → s.inFlight = [] →
      (s.strand.sidx = 0 → s.othersEnded = true) →
      ∃ t, exec .gend s = .next t ∧ t.strand = { s.strand.drained.nextWord with ended := true } ∧ s.sameBytes t ∧
        (s.strand.sidx = 0 → ∀ g, s.group? s.strand.g.gid = some g → t.group? s.strand.g.gid = some { g with ending := true }) ∧
        (s.strand.sidx ≠ 0 → t.groups = s.groups)) ∧
    (s.strand.priv = true → s.strand.live = true → s.work.bufWait = none → ∃ t, exec .gend s = .next t ∧ t.strand.ended = true ∧
      ∀ g, s.group? s.strand.g.gid = some g → g.fatal = none → ∃ g' l, t.group? s.strand.g.gid = some g' ∧ g'.ending = true ∧
        g'.fatal = some ⟨s.strand.sidx, s.strand.cause.toNat % 256, s.strand.epc, s.strand.tval, s.strand.gcoord, l⟩) ∧
    exec .lend s = .next (s.withStrand s.strand.nextWord) ∧
    (let desc := s.strand.pc + imm.signExtend 64 * 4
      ∀ ws w1 block w2 stop l, s.strand.loop = none → fetchWords s.work desc 16 = .ok (ws, w1) →
      fetchBlock w1 (s.strand.pc + 4) (d.toNat + 1) 0 129 = .ok (block, w2) → scanBlock block 0 = .ok stop →
      loopOf (s.strand.pc + 4) stop (packWords ws) = some l → (Instr.lbuf d imm).wf = true → desc.toNat % 64 = 0 →
      w2.absent = false →
      exec (.lbuf d imm) s = .next (s.withStrand { s.strand with loop := some { l with words := block.dropLast } }.nextWord))

/-- R140 to R144, with R26 for a reclaimable group and R280 for the wait: `vlset`, and the strip checkpoint that it takes before it writes x(d). -/
def Obligations.VlsetOpensAStrip : Prop :=
  ∀ (d a : Reg) (gc sew : BitVec 2) (s : State),
    let held := (s.core s.strand.g.core).heldLanes s.strand.g
    let vlmax := 4 * 2 ^ gc.toNat * 64 * held.length * 8 / (8 * 2 ^ sew.toNat)
    let vl := BitVec.ofNat 64 (min (s.strand.rx a).toNat vlmax)
    (s.work.bufWait = none →
    ∃ t, exec (.vlset d a gc sew) s = .next t ∧ t.strand.vl = vl ∧
      (s.strand.loop = none → t.strand.rx d = if d = 0 then 0 else vl) ∧
      t.strand.sew = 8 * 2 ^ sew.toNat ∧ t.strand.grp = 2 ^ gc.toNat ∧ t.strand.unset = false ∧
      t.strand.vslab = 0 ∧ t.strand.vstart = 0 ∧ t.strand.wg = held ∧ t.strand.buffering = true ∧ t.strand.buf = [] ∧
      t.strand.liveV = 0 ∧ t.strand.liveK = 0 ∧ t.strand.liveT = 0 ∧ t.strand.stripPc = s.strand.pc ∧
      (∃ ck, t.strand.ckpt = some ck ∧ ck.fflags = s.strand.fflags ∧ ck.vl = s.strand.vl ∧ ck.vtype = s.strand.vtype ∧
        (s.strand.loop = none → ck.loop = none ∧
          ∀ n v, (n, v) ∈ ck.xs ↔ 0 < n ∧ n < 32 ∧ s.strand.ckmask.getLsbD n = true ∧ v = s.strand.rx (BitVec.ofNat 5 n))) ∧
      t.strand.rewound = (s.strand.rewound && s.strand.redo && decide (s.strand.pc = s.strand.stripPc)) ∧
      (s.strand.g.recl = false → t.strand.v = s.strand.v ∧ t.strand.k = s.strand.k) ∧
      (s.strand.g.recl = true → t.strand.v = Vector.replicate 32 0 ∧ ∀ n, n ≠ 0 → t.strand.rk n = 0) ∧
      t.strand.fflags = s.strand.fflags ∧ t.strand.specials.2.2 = s.strand.specials.2.2) ∧
    ∀ k, s.work.bufWait = some k →
      ∃ t, exec (.vlset d a gc sew) s = .next t ∧ t.strand = { s.strand with waiting := k } ∧ s.sameBytes t

namespace Sys2Proof.Machine

/-- Where an unchained vector-class word dispatches: all checks passed, a step left to run, no copy into its registers in flight, and, at
its convoy's first step, what it reads there read. -/
structure VectorReady (i : Instr) (m : Member) (s : State) : Prop where
  member : memberOf i = some m
  wf : i.wf = true
  alone : chained (encodeNat i) = false
  checks : checkMember s.strand (s.strand.place m (encode i) s.strand.pc) [] [] = none
  lanes : s.strand.epr s.strand.sew ≠ 0
  left : s.strand.vslab.toNat * s.strand.epr s.strand.sew < s.strand.vl.toNat
  copies : s.getBlockers ((s.strand.place m (encode i) s.strand.pc).readRegs s.strand.sew s.strand.grp ++
    (s.strand.place m (encode i) s.strand.pc).writeRegs s.strand.sew s.strand.grp) = []
  opens : s.strand.snap.isNone = true → ∃ trees, m.onDispatch (s.strand.place m (encode i) s.strand.pc).fmt s.work = .ok trees
  same : ∀ d, s.strand.snap = some d → d.words = [encode i]

/-- The elements of the present slab step: from the first to the one behind the last, and whether the step is the convoy's last. -/
def Strand.stepLo (s : Strand) : Nat := s.vslab.toNat * s.epr s.sew
def Strand.stepHi (s : Strand) : Nat := min s.vl.toNat (s.stepLo + s.epr s.sew)
def Strand.stepLast (s : Strand) : Bool := decide (s.vl.toNat ≤ s.stepLo + s.epr s.sew)

/-- The active elements of the present step under a mask (R136). -/
def Strand.stepActive (s : Strand) (k : BitVec 2) : List Nat :=
  (fromTo s.stepLo s.stepHi).filter fun i => (s.rk k).getLsbD i

/-- Results of elements written one after the other in ascending order, each from the strand that those before it left (R139). -/
def Strand.eachWritten (s : Strand) (d : Reg) (width : Nat) (l : List Nat) (f : Strand → Nat → Nat × Flags) : Strand :=
  l.foldl (fun t i => (t.setElt d width i (f t i).1).raise (f t i).2) s

/-- What an elementwise word computes (Table 7.5, R148, R150, R152, R156, R157, R159, R185): its destination and container width, its
format register, which elements of the step it gives, and the code and flags of an element, from the strand as the convoy dispatched
and the strand that the elements before it left; none where the element stays undisturbed. -/
structure ElementRule where
  d : Reg
  width : Fmt → Nat
  xf : Reg
  elements : Strand → List Nat
  code : Fmt → Strand → Strand → Nat → Option (Nat × Flags)

/-- Results of elements written one after the other in ascending order. -/
def Strand.eachFound (s : Strand) (d : Reg) (width : Nat) (l : List Nat) (f : Strand → Nat → Option (Nat × Flags)) : Strand :=
  l.foldl (fun t i =>
    match f t i with
    | some r => (t.setElt d width i r.1).raise r.2
    | none => t) s

/-- A word whose result depends on the codes of its sources and of its old destination. -/
def codesRule (d a b xf : Reg) (k : BitVec 2) (code : Fmt → Nat → Nat → Nat → Nat × Flags) : ElementRule :=
  ⟨d, fun f => f.dst.width, xf, fun t => t.stepActive k, fun f _ u j =>
    some (code f (u.elt a f.srcA.width j) (u.elt b f.srcB.width j) (u.elt d f.dst.width j))⟩

/-- A word whose result depends on the dispatch strand and the element's number. -/
def placesRule (d xf : Reg) (k : BitVec 2) (code : Fmt → Strand → Nat → Option (Nat × Flags)) : ElementRule :=
  ⟨d, fun f => f.dst.width, xf, fun t => t.stepActive k, fun f t _ j => code f t j⟩

/-- A descent word from a 64-bit element to a 64-bit element. -/
def pathRule (d a : Reg) (k : BitVec 2) (code : Nat → Nat) : ElementRule :=
  ⟨d, fun _ => 64, 0, fun t => t.stepActive k, fun _ _ u j => some (code (u.elt a 64 j), 0)⟩

/-- Integers are computed exactly and wrapped or clamped into the destination; anything else exactly and rounded once (R138). -/
def bothWays (int : Int → Int → Int → Int) (flt : Nat → Val → Val → Val → Val × Flags) (f : Fmt) (x y z : Nat) : Nat × Flags :=
  if f.srcA.isInt && f.srcB.isInt && f.dst.isInt then
    (intInto f.dst f.sat (int (decodeInt f.srcA x) (decodeInt f.srcB y) (decodeInt f.dst z)), 0)
  else roundOp (flt f.rm (decodeVal f.srcA x) (decodeVal f.srcB y) (decodeVal f.dst z)) f.dst f.rm f.sat

/-- The same for a word of one source. -/
def oneWay (int : Int → Int) (flt : Val → Val × Flags) (f : Fmt) (x _y _z : Nat) : Nat × Flags :=
  if f.srcA.isInt && f.dst.isInt then (intInto f.dst f.sat (int (decodeInt f.srcA x)), 0)
  else roundOp (flt (decodeVal f.srcA x)) f.dst f.rm f.sat

/-- Division (Table 7.5, R147): the quotient truncated toward zero, all ones for a divisor of zero; floats as R49 divides. -/
def divided (f : Fmt) (x y _z : Nat) : Nat × Flags :=
  if f.srcA.isInt && f.srcB.isInt && f.dst.isInt then
    if decodeInt f.srcB y = 0 then (2 ^ f.dst.width - 1, 0)
    else (intInto f.dst f.sat (Int.tdiv (decodeInt f.srcA x) (decodeInt f.srcB y)), 0)
  else divInto (decodeVal f.srcA x) (decodeVal f.srcB y) f.dst f.rm f.sat

/-- The remainder of truncating division; the dividend for a divisor of zero (R147). -/
def leftOver (x y _z : Int) : Int := if y = 0 then x else Int.tmod x y

/-- The integer square root rounded by RM; 0 for a negative operand. -/
def rooted (f : Fmt) (x _y _z : Nat) : Nat × Flags :=
  if f.srcA.isInt && f.dst.isInt then (intSqrt f (decodeInt f.srcA x), 0)
  else roundOp (Val.sqrt (decodeVal f.srcA x)) f.dst f.rm f.sat

/-- The elementwise words (spec/07, and the path words of spec/08). -/
def elementRule (i : Instr) : Option ElementRule :=
  match i with
  | .vadd _ d a b xf k => some (codesRule d a b xf k (bothWays (fun x y _ => x + y) (fun rm x y _ => Val.add rm x y)))
  | .vsub _ d a b xf k => some (codesRule d a b xf k (bothWays (fun x y _ => x - y) (fun rm x y _ => Val.add rm x y.negate)))
  | .vmul _ d a b xf k => some (codesRule d a b xf k (bothWays (fun x y _ => x * y) (fun _ x y _ => Val.mul x y)))
  | .vdiv _ d a b xf k => some (codesRule d a b xf k divided)
  | .vmin _ d a b xf k =>
    some (codesRule d a b xf k (bothWays (fun x y _ => if x < y then x else y) (fun _ x y _ => (Val.minmax false x y, 0))))
  | .vmax _ d a b xf k =>
    some (codesRule d a b xf k (bothWays (fun x y _ => if x < y then y else x) (fun _ x y _ => (Val.minmax true x y, 0))))
  | .vsqrt _ d a xf k => some (codesRule d a 0 xf k rooted)
  | .vabs _ d a xf k => some (codesRule d a 0 xf k (oneWay (fun x => x.natAbs) (fun x => (x.abs, 0))))
  | .vfma _ d a b xf k => some (codesRule d a b xf k (bothWays (fun x y z => x * y + z) (fun rm x y z => fusedVal 0 rm x y z)))
  | .vfms _ d a b xf k => some (codesRule d a b xf k (bothWays (fun x y z => x * y - z) (fun rm x y z => fusedVal 1 rm x y z)))
  | .vfnma _ d a b xf k => some (codesRule d a b xf k (bothWays (fun x y z => -(x * y) - z) (fun rm x y z => fusedVal 2 rm x y z)))
  | .vfnms _ d a b xf k => some (codesRule d a b xf k (bothWays (fun x y z => -(x * y) + z) (fun rm x y z => fusedVal 3 rm x y z)))
  | .vmulh _ d a b xf k => some (codesRule d a b xf k fun f x y _ =>
      (wrapTo f.dst.width (decodeInt f.srcA x * decodeInt f.srcB y / ((2 ^ f.dst.width : Nat) : Int)), 0))
  | .vrem _ d a b xf k => some (codesRule d a b xf k (bothWays leftOver (fun rm x y _ => Val.rem rm x y)))
  | .vneg _ d a xf k => some (codesRule d a 0 xf k (oneWay (fun x => -x) (fun x => (x.negate, 0))))
  | .vand _ d a b xf k => some (codesRule d a b xf k fun _ x y _ => (x &&& y, 0))
  | .vor _ d a b xf k => some (codesRule d a b xf k fun _ x y _ => (x ||| y, 0))
  | .vxor _ d a b xf k => some (codesRule d a b xf k fun _ x y _ => (x ^^^ y, 0))
  | .vnot _ d a xf k => some (codesRule d a 0 xf k fun f x _ _ => (2 ^ f.dst.width - 1 - x, 0))
  | .vsll _ d a b xf k => some (codesRule d a b xf k fun f x y _ => (x <<< (y % f.dst.width) % 2 ^ f.dst.width, 0))
  | .vsrl _ d a b xf k => some (codesRule d a b xf k fun f x y _ => (x >>> (y % f.dst.width), 0))
  | .vsra _ d a b xf k => some (codesRule d a b xf k fun f x y _ =>
      (wrapTo f.dst.width (signed f.dst.width x / ((2 ^ (y % f.dst.width) : Nat) : Int)), 0))
  | .vsel _ d a b xf k => some ⟨d, fun f => f.dst.width, xf, fun t => fromTo t.stepLo t.stepHi, fun f _ u j =>
      some (if (u.rk k).getLsbD j then u.elt a f.dst.width j else u.elt b f.dst.width j, 0)⟩
  | .vcvt _ d a xf k => some (codesRule d a 0 xf k fun f x _ _ =>
      if f.srcA.isInt && f.dst.isInt then (intInto f.dst f.sat (decodeInt f.srcA x), 0)
      else encodeVal (decodeVal f.srcA x) f.dst f.rm f.sat)
  | .vcvtS _ d a b xf k => some (codesRule d a b xf k fun f x y _ =>
      if y = 0xFF then ((nanInto f.dst).1, 0)
      else roundOp (Val.mul (decodeVal f.srcA x) (decodeVal descE8M0 y)) f.dst f.rm f.sat)
  | .vperm _ d a b xf k => some (placesRule d xf k fun f t j =>
      let n := decodeInt f.srcB (t.dispatchElt b f.srcB.width j)
      some (if 0 ≤ n ∧ n < (t.vl.toNat : Int) then t.dispatchElt a f.srcA.width n.toNat else 0, 0))
  | .vslideup _ d a b xf k => some (placesRule d xf k fun f t j =>
      if (t.sx b).toNat ≤ j then some (t.dispatchElt a f.srcA.width (j - (t.sx b).toNat), 0) else none)
  | .vslidedn _ d a b xf k => some (placesRule d xf k fun f t j =>
      some (if j + (t.sx b).toNat < t.vl.toNat then t.dispatchElt a f.srcA.width (j + (t.sx b).toNat) else 0, 0))
  | .vbcast _ d a xf k => some (placesRule d xf k fun f t _ => some ((t.sx a).toNat % 2 ^ f.dst.width, 0))
  | .vmvsx _ d a xf k => some ⟨d, fun f => f.dst.width, xf, fun t => (t.stepActive k).filter fun j => decide (j = 0), fun f t _ _ =>
      some ((t.sx a).toNat % 2 ^ f.dst.width, 0)⟩
  | .vid _ d xf k => some (placesRule d xf k fun f _ j =>
      some (if f.dst.isInt then (intInto f.dst f.sat j, 0) else encodeVal (Val.ofInt j) f.dst f.rm f.sat))
  | .vexp2 _ d a xf k => some (codesRule d a 0 xf k fun f x _ _ =>
      let y := exp2lx (toFP32 (decodeVal f.srcA x)).1
      if f.dst = descFP32 then y
      else ((encodeFloat (decodeFloat descFP32 y.1) f.dst 0 f.sat).1, y.2 ||| (encodeFloat (decodeFloat descFP32 y.1) f.dst 0 f.sat).2))
  | .vlog2 _ d a xf k => some (codesRule d a 0 xf k fun f x _ _ => log2Code f (decodeVal f.srcA x))
  | .vrcp _ d a xf k => some (codesRule d a 0 xf k fun f x _ _ => divInto .one (decodeVal f.srcA x) f.dst f.rm f.sat)
  | .vrsqrt _ d a xf k => some (codesRule d a 0 xf k fun f x _ _ => rsqrtCode f (decodeVal f.srcA x))
  | .tdpathR _ d a k => some (pathRule d a k fun n => (nodeOf n).getD (2 ^ 64 - 1))
  | .tdpathW _ d a k => some (pathRule d a k fun n =>
      if 65534 < n then 0xFFF else nodeState 0 (n + 1 - 2 ^ levelOf n) (levelOf n))
  | _ => none

end Sys2Proof.Machine

/-- R29 to R34: one dispatch of a convoy is one slab step of its members. The second clause is an unchained word, with its own checks. -/
def Obligations.VectorWordsRunOneStep : Prop :=
  ∀ (i : Instr) (s : State) (k : Work),
    let t := s.strand
    let e := t.epr t.sew
    let ends := fun (l : List Placed) =>
      ∃ u, exec i s = .next u ∧ u = s.commit (k.closeStep l t.vslab.toNat e t.stepLast) ∧
        (t.stepLast = true → u.strand.vslab = 0 ∧ u.strand.vstart = 0 ∧ u.strand.carry = .none ∧
          u.strand.done = Vector.replicate 4 0 ∧ u.strand.cvret = k.cur.cvret + 1 ∧
          (k.cur.loop = none → u.strand.pc = k.cur.pc + BitVec.ofNat 64 (4 * l.length))) ∧
        (t.stepLast = false → u.strand.vslab = BitVec.ofNat 64 (t.vslab.toNat + 1) ∧ u.strand.pc = k.cur.pc ∧
          u.strand.vstart = BitVec.ofNat 64 ((t.vslab.toNat + 1) * e) ∧ u.strand.cvret = k.cur.cvret)
    (∀ (words : List W32) (w : Work) (l : List Placed) (trees : List (Nat × Nat)), (memberOf i).isSome = true →
      s.work.convoyWords (encode i) = .ok (words, w) → badFrame 0 [] [] words = none →
      placeAll t words t.pc [] [] = .ok l → e ≠ 0 → t.vslab.toNat * e < t.vl.toNat →
      s.getBlockers (l.flatMap fun p => p.readRegs t.sew t.grp ++ p.writeRegs t.sew t.grp) = [] →
      (t.snap.isNone = true → dispatchReads l w = .ok trees) →
      performAll l t.stepLo t.stepHi t.stepLast 0 (w.openStep l trees) = .ok k → k.absent = false →
      ends l) ∧
    (∀ (m : Member) (trees : List (Nat × Nat)), VectorReady i m s →
      let p := t.place m (encode i) t.pc
      let c : StepCtx := ⟨t.stepLo, t.stepHi, t.stepLast, p.fmt, m.k, 0, false⟩
      (t.snap.isNone = true → m.onDispatch p.fmt s.work = .ok trees) →
      m.perform c ((s.work.openStep [p] trees).touchMember p c) = .ok k →
      k.absent = false → ends [p])

/-- R136, R138, R139 and Tables 7.5 to 7.7, R185: results and frame of the words of `elementRule`. The model's readings: the flags that `vid`
raises as it rounds into a float (log 66), `vexp2` without flags for its rounding before the power (log 54), and the sign of a zero `vrem` (log
20). -/
def Obligations.ElementwiseWordsWriteActiveElements : Prop :=
  ∀ (i : Instr) (m : Member) (s : State) (r : ElementRule), VectorReady i m s → elementRule i = some r →
    s.strand.buf = [] →
    let t := s.strand
    let f := fmtOf (t.sx r.xf)
    let result := t.eachFound r.d (r.width f) (r.elements t) fun u j => r.code f t u j
    ∃ u, exec i s = .next u ∧ u.strand.v = result.v ∧ u.strand.fflags = result.fflags ∧ u.strand.k = t.k ∧
      u.strand.vl = t.vl ∧ u.strand.specials = t.specials ∧ (t.loop = none → u.strand.x = t.x) ∧
      (∀ c, (u.core c).tiles = (s.core c).tiles) ∧ s.sameBytes u

/-- R149 and R151: the words that write a mask. The destination of a well-formed one is k1 to k3. -/
def Obligations.MaskWordsWriteTheirBits : Prop :=
  ∀ (d a b xf : Reg) (k : BitVec 2) (s : State) (m : Member), s.strand.buf = [] →
    let t := s.strand
    let f := fmtOf (t.sx xf)
    let x := fun j => decodeVal f.srcA (t.elt a f.srcA.width j)
    let y := fun j => decodeVal f.srcB (t.elt b f.srcB.width j)
    let ka := fun j => (t.rk (a.setWidth 2)).getLsbD j
    let kb := fun j => (t.rk (b.setWidth 2)).getLsbD j
    let leaves := fun (i : Instr) (l : List Nat) (truth : Nat → Bool) =>
      VectorReady i m s → ∃ u, exec i s = .next u ∧ u.strand.v = t.v ∧ u.strand.fflags = t.fflags ∧
        (t.loop = none → u.strand.x = t.x) ∧ s.sameBytes u ∧
        (∀ n : BitVec 2, n ≠ d.setWidth 2 → u.strand.rk n = t.rk n) ∧
        ∀ j, j < 32768 → (u.strand.rk (d.setWidth 2)).getLsbD j =
          if l.contains j then truth j else (t.rk (d.setWidth 2)).getLsbD j
    let step := fromTo t.stepLo t.stepHi
    leaves (.vceq false d a b xf k) (t.stepActive k) (fun j => (x j).eqv (y j)) ∧
    leaves (.vcne false d a b xf k) (t.stepActive k) (fun j => !(x j).eqv (y j)) ∧
    leaves (.vclt false d a b xf k) (t.stepActive k) (fun j => (x j).lt (y j)) ∧
    leaves (.vcle false d a b xf k) (t.stepActive k) (fun j => (x j).lt (y j) || (x j).eqv (y j)) ∧
    leaves (.vcgt false d a b xf k) (t.stepActive k) (fun j => (y j).lt (x j)) ∧
    leaves (.vcge false d a b xf k) (t.stepActive k) (fun j => (y j).lt (x j) || (y j).eqv (x j)) ∧
    leaves (.vcun false d a b xf k) (t.stepActive k) (fun j => (x j).isNan || (y j).isNan) ∧
    leaves (.kand false d a b) step (fun j => ka j && kb j) ∧
    leaves (.kor false d a b) step (fun j => ka j || kb j) ∧
    leaves (.kxor false d a b) step (fun j => ka j != kb j) ∧
    leaves (.knot false d a) step (fun j => !ka j)

/-- Checks 7 to 11 of Table 5.19 on an unchained word of the majors 0x21 to 0x34, in their order, and checks 6 to 10 on the words of a tile that stand
alone (`mzero` and major 0x31). The places of `sewOk` and `extraOk` among them are the model's choice (log 54), and that a word which demands a
format and whose xf is 0 has an invalid format word of 0, subcode 5, is its reading (log 64). -/
def Obligations.VectorWordsAreCheckedFirst : Prop :=
  (∀ (t a b xf : Reg) (i : Instr) (s : State), s.strand.nest = false →
    i ∈ [.mzero t, .mld t a, .mldT8 t a, .mldT16 t a, .mst t a, .mcvt t xf, .mrowr t a b, .mroww t a b] →
    let word : W64 := (encode i).setWidth 64
    (i.wf = false → TrapsAs (exec i s) s 1 4 word) ∧
    (i.wf = true → s.strand.unset = true → TrapsAs (exec i s) s 1 6 word) ∧
    (i.wf = true → s.strand.unset = false →
      (s.strand.g.nomx = true → TrapsAs (exec i s) s 8 0 word) ∧
      (s.strand.g.nomx = false →
        (s.strand.g.tiles.length ≤ t.toNat → TrapsAs (exec i s) s 1 7 word) ∧
        (t.toNat < s.strand.g.tiles.length → i = .mcvt t xf → okMcvt (fmtOf (s.strand.rx xf)) = false →
          TrapsAs (exec i s) s 1 5 (s.strand.rx xf))))) ∧
  ∀ (i : Instr) (m : Member) (s : State), memberOf i = some m → i.wf = true → chained (encodeNat i) = false →
    (∀ d, s.strand.snap = some d → d.words = [encode i]) → s.strand.nest = false →
    let t := s.strand
    let p := t.place m (encode i) t.pc
    let word : W64 := (encode i).setWidth 64
    let tileOk := ∀ n, m.tile = some n → n.toNat < t.g.tiles.length
    let fmtOk := m.fmtReg.isSome = true → m.fmtOk t.sew p.fmt = true
    let misplaced := fun (o : Operand) =>
      let span := if o.single then 1 else max 1 (t.grp * o.width / t.sew)
      o.m.toNat % span ≠ 0 ∨ 32 < o.m.toNat + span
    let operands := m.reads t.sew p.fmt ++ m.writes t.sew p.fmt
    (t.unset = true → TrapsAs (exec i s) s 1 6 word) ∧
    (t.unset = false →
      (m.matrix = true → t.g.nomx = true → TrapsAs (exec i s) s 8 0 word) ∧
      (¬(m.matrix = true ∧ t.g.nomx = true) →
        (¬tileOk → TrapsAs (exec i s) s 1 7 word) ∧
        (tileOk → m.sewOk t.sew = false → TrapsAs (exec i s) s 1 6 word) ∧
        (tileOk → m.sewOk t.sew = true →
          (¬fmtOk → TrapsAs (exec i s) s 1 5 p.fw) ∧
          (fmtOk → (∃ o ∈ operands, misplaced o) → TrapsAs (exec i s) s 1 4 word) ∧
          (fmtOk → (∀ o ∈ operands, ¬misplaced o) →
            (m.extraOk t.sew t.grp p.fmt = false → TrapsAs (exec i s) s 1 4 word) ∧
            (m.extraOk t.sew t.grp p.fmt = true → checkMember t p [] [] = none)))))

namespace Sys2Proof.Machine

/-- One element's part of a scan: the strand, the sum so far and whether any element was active (R154). -/
def scanned (excl : Bool) (f : Fmt) (d a : Reg) (p : Strand × Sum × Bool) (j : Nat) : Strand × Sum × Bool :=
  let after := p.2.1.add (decodeVal f.srcA (p.1.elt a f.srcA.width j))
  let r := if excl then (if p.2.2 then prefixCode f p.2.1 else f.into .zero) else prefixCode f after
  ((p.1.setElt d f.dst.width j r.1).raise r.2, after, true)

/-- One element's part of a compress: the strand and the number of elements packed so far (R158). -/
def packed (f : Fmt) (d a : Reg) (p : Strand × Nat) (j : Nat) : Strand × Nat :=
  (p.1.setElt d f.dst.width p.2 (p.1.elt a f.srcA.width j), p.2 + 1)

end Sys2Proof.Machine

/-- R151, R153 to R155, R157 and R158, with the convoy carry of R35. The model's readings: `vredmin` and `vredmax` over infinities of both signs
without NV (log 65), and the sign of a zero prefix of a scan and its NV (log 27). -/
def Obligations.ReductionsCarryTheirValue : Prop :=
  ∀ (d a xf : Reg) (k : BitVec 2) (s : State) (m : Member), s.strand.buf = [] →
    let t := s.strand
    let f := fmtOf (t.sx xf)
    let act := t.stepActive k
    let src := fun j => decodeVal f.srcA (t.elt a f.srcA.width j)
    let w := f.dst.width
    let leaves := fun (i : Instr) (holds : State → Prop) =>
      VectorReady i m s → ∃ u, exec i s = .next u ∧ holds u ∧ u.strand.k = t.k ∧ u.strand.vl = t.vl ∧
        u.strand.specials = t.specials ∧ (∀ c, (u.core c).tiles = (s.core c).tiles) ∧ s.sameBytes u
    let vectors := fun (u : State) (r : Strand) => u.strand.v = r.v ∧ u.strand.fflags = r.fflags
    let gives := fun (u : State) (v : W64) => t.loop = none → u.strand.x = (t.wx d v).x
    let noX := fun (u : State) => t.loop = none → u.strand.x = t.x
    -- a running value: written at the last step where any element was active, else kept in the carry
    let reduces := fun (i : Instr) (any : Bool) (next : Carry) (r : Nat × Flags) =>
      leaves i fun u => noX u ∧
        (t.stepLast = false → vectors u t ∧ u.strand.carry = next) ∧
        (t.stepLast = true → vectors u (if any || !act.isEmpty then (t.setElt d w 0 r.1).raise r.2 else t))
    let numeric := fun (v : Val) => ((f.into v).1, (f.into v).2 ||| flagIf v.isNan flagNV)
    let index := fun (i : Instr) (min clear : Bool) =>
      leaves i fun u => noX u ∧
        let best := act.foldl (takeBest min f a t) t.carry
        (t.stepLast = false → vectors u t ∧ u.strand.carry = best) ∧
        (t.stepLast = true → vectors u (
          match best with
          | .best true j v code =>
            let q := if clear then t.setElt a f.srcA.width j (clearCode f.srcA) else t
            let out := if v.isNan then (canonNan f.srcA, flagNV) else (code, 0)
            ((q.setElt d 64 0 j).setElt d 64 1 out.1).raise out.2
          | _ => (t.setElt d 64 0 (2 ^ 64 - 1)).setElt d 64 1 0))
    (∀ n, (t.carry = .none ∧ n = 0 ∨ t.carry = .count n) →
      let total := n + (act.filter fun j => (t.rk (a.setWidth 2)).getLsbD j).length
      leaves (.kpopc false d a k) fun u => vectors u t ∧
        (t.stepLast = true → gives u (BitVec.ofNat 64 total)) ∧
        (t.stepLast = false → noX u ∧ u.strand.carry = .count total)) ∧
    (∀ o, (t.carry = .none ∧ o = none ∨ t.carry = .first o) →
      let found := o.or (act.filter fun j => (t.rk (a.setWidth 2)).getLsbD j).head?
      leaves (.kfirst false d a k) fun u => vectors u t ∧
        (t.stepLast = true → gives u (match found with
          | some j => BitVec.ofNat 64 j
          | none => BitVec.allOnes 64)) ∧
        (t.stepLast = false → noX u ∧ u.strand.carry = .first found)) ∧
    (let x := t.elt a f.srcA.width 0;
      leaves (.vmvxs false d a xf k) fun u => vectors u t ∧
        (0 ∈ act → gives u (if f.srcA.cls = 0 then BitVec.ofInt 64 (signed f.srcA.width x) else BitVec.ofNat 64 x)) ∧
        (0 ∉ act → noX u)) ∧
    (∀ acc any, (t.carry = .none ∧ acc = Sum.add {} (decodeVal f.dst (t.elt d w 0)) ∧ any = false ∨
        t.carry = .sum acc any false) →
      let acc' := act.foldl (fun q j => q.add (src j)) acc
      reduces (.vredsum false d a xf k) any (.sum acc' (any || !act.isEmpty) false) (numeric (acc'.value f.rm))) ∧
    (∀ acc any, (t.carry = .none ∧ acc = decodeVal f.dst (t.elt d w 0) ∧ any = false ∨ t.carry = .ext acc any false) →
      let by' := fun (max : Bool) => act.foldl (fun q j => Val.minmax max q (src j)) acc
      reduces (.vredmin false d a xf k) any (.ext (by' false) (any || !act.isEmpty) false) (numeric (by' false)) ∧
      reduces (.vredmax false d a xf k) any (.ext (by' true) (any || !act.isEmpty) false) (numeric (by' true))) ∧
    (∀ acc any, (t.carry = .none ∧ acc = t.elt d w 0 ∧ any = false ∨ t.carry = .bits acc any) →
      let all := act.foldl (fun q j => q &&& t.elt a f.srcA.width j) acc
      let some' := act.foldl (fun q j => q ||| t.elt a f.srcA.width j) acc
      reduces (.vredand false d a xf k) any (.bits all (any || !act.isEmpty)) (all, 0) ∧
      reduces (.vredor false d a xf k) any (.bits some' (any || !act.isEmpty)) (some', 0)) ∧
    (∀ acc any, (t.carry = .none ∧ acc = {} ∧ any = false ∨ t.carry = .sum acc any false) →
      let scan := fun (i : Instr) (excl : Bool) =>
        let r := act.foldl (scanned excl f d a) (t, acc, any)
        leaves i fun u => noX u ∧ vectors u r.1 ∧
          (t.stepLast = false → u.strand.carry = if act.isEmpty then t.carry else .sum r.2.1 true false)
      scan (.vscan false d a xf k) false ∧ scan (.vscanx false d a xf k) true) ∧
    index (.vmaxi false d a xf k) false false ∧ index (.vmini false d a xf k) true false ∧
    index (.vmaxic false d a xf k) false true ∧
    (∀ n, (t.carry = .none ∧ n = 0 ∨ t.carry = .count n) →
      let r := act.foldl (packed f d a) (t, n)
      leaves (.vcompress false d a xf k) fun u => noX u ∧ vectors u r.1 ∧
        (t.stepLast = false → u.strand.carry = if act.isEmpty then t.carry else .count r.2))

/-- R160 to R166 with the done masks of R36 and the strip store buffer of R141. -/
def Obligations.VectorLoadsAndStores : Prop :=
  ∀ (d a b : Reg) (st k : BitVec 2) (s : State) (m : Member),
    let t := s.strand
    let z := t.sew / 8
    let act := t.stepActive k
    let todo := act.filter fun j => !((t.resume (t.epr t.sew)).done.getD 0 0).getLsbD j
    let bytes := fun j => leBytes z (t.elt d t.sew j)
    t.window = none → t.buf = [] → t.pend = [] → t.holds = [] → t.remotes = [] →
    let frame := fun (u : State) => u.strand.k = t.k ∧ u.strand.fflags = t.fflags ∧ u.strand.vl = t.vl ∧
      u.strand.specials = t.specials ∧ (t.loop = none → u.strand.x = t.x)
    -- `src` is where an element of the strand as it stands then lies, and its memory
    let loads := fun (i : Instr) (l : List Nat) (g : Tgt) (pa : Nat → Nat) (found : Strand → Nat → Prop) =>
      VectorReady i m s →
      let put := fun (u : Strand) (j : Nat) => u.setElt d t.sew j (leNat (Mem.readN (s.memOf g) (pa j) z))
      (∀ l1 j l2, l = l1 ++ j :: l2 → found (l1.foldl put t) j) →
      ∃ u, exec i s = .next u ∧ u.strand.v = (l.foldl put t).v ∧ frame u ∧ s.sameBytes u
    let stores := fun (i : Instr) (l : List Nat) (g : Tgt) (cls : Nat) (owner : BitVec 12) (va : Nat → Option Nat)
        (pa : Nat → Nat) (found : Nat → Prop) =>
      VectorReady i m s → (∀ j ∈ l, found j) → s.undoF.length + l.length ≤ Config.undoCapF →
      (t.buffering = false →
        ∃ u, exec i s = .next u ∧ u.memOf g = l.foldl (fun q j => Mem.write q (pa j) (bytes j)) (s.memOf g) ∧
          (∀ h, h ≠ g → u.memOf h = s.memOf h) ∧ u.strand.v = t.v ∧ frame u) ∧
      (t.buffering = true → l.length * z ≤ Config.stripBytes →
        ∃ u, exec i s = .next u ∧ u.strand.buf = l.map (fun j => ⟨cls, va j, Store.mem (.put g (pa j) (bytes j) owner false)⟩) ∧
          u.strand.v = t.v ∧ frame u ∧ s.sameBytes u)
    let field := fun (va : W64) (acc : Acc) (pa : Nat) =>
      s.checkVirtual t.g.core t.g.ctx va z acc = .ok (.mem .fm pa) ∧ pa + z ≤ 384 * 2 ^ 30
    let reads := fun (va : W64) (pa : Nat) => field va .read pa ∧ (s.line false (pa / 64)).poison = false
    let writes := fun (va : W64) (pa : Nat) => field va .write pa
    let pad := fun (va : W64) (dev : Nat) =>
      va.toNat % z = 0 ∧ s.meadow t.g va z = .ok dev ∧ s.bankAsleep dev = false
    let padFree := fun (va : W64) (dev : Nat) => pad va dev ∧ s.envBlockers none (some (dev, dev + z)) = []
    let unit := fun j => t.sx a + BitVec.ofNat 64 (j * z)
    let strided := fun j => t.sx a + BitVec.ofNat 64 j * t.sx b
    let indexed := fun (u : Strand) j => t.sx a + BitVec.ofNat 64 (u.elt b t.sew j)
    let paired := fun j => pairAddr (t.dispatchPair a) (s.tlen t.g) z j
    let own := s.ownerTag t.g.ctx
    (∀ pa : Nat → Nat,
      loads (.vld false d a st k) act .fm pa (fun _ j => reads (unit j) (pa j)) ∧
      loads (.vlds false d a b st k) act .fm pa (fun _ j => reads (strided j) (pa j)) ∧
      loads (.vldx false d a b st k) todo .fm pa (fun u j => reads (indexed u j) (pa j)) ∧
      loads (.vldsp false d a st k) act .sp pa (fun _ j => pad (unit j) (pa j)) ∧
      loads (.vldm false d a k) act .sp pa (fun _ j => ∃ va, paired j = .ok va ∧ pad va (pa j) ∧ s.readBlockers (pa j) (pa j + z) = []) ∧
      loads (.vldxsp false d a b st k) todo .sp pa (fun u j => pad (indexed u j) (pa j)) ∧
      stores (.vst false d a st k) act .fm st.toNat own (fun j => some (unit j).toNat) pa (fun j => writes (unit j) (pa j)) ∧
      stores (.vsts false d a b st k) act .fm st.toNat own (fun j => some (strided j).toNat) pa (fun j => writes (strided j) (pa j)) ∧
      stores (.vstx false d a b st k) todo .fm st.toNat own (fun j => some (indexed t j).toNat) pa (fun j => writes (indexed t j) (pa j)) ∧
      stores (.vstsp false d a st k) act .sp st.toNat 0 (fun _ => none) pa (fun j => padFree (unit j) (pa j)) ∧
      stores (.vstm false d a k) act .sp 6 0 (fun _ => none) pa (fun j => ∃ va, paired j = .ok va ∧ padFree va (pa j)) ∧
      stores (.vstxsp false d a b st k) todo .sp st.toNat 0 (fun _ => none) pa (fun j => padFree (indexed t j) (pa j))) ∧
    (∀ (l1 l2 : List Nat) (j : Nat) (tr : Trap) (pa : Nat → Nat), act = l1 ++ j :: l2 → t.nest = false →
      let faults := fun (i : Instr) (va : Nat → W64) =>
        VectorReady i m s → (∀ q ∈ l1, reads (va q) (pa q)) →
        s.checkVirtual t.g.core t.g.ctx (va j) z .read = .error tr →
        TrapsAs (exec i s) s tr.code tr.sub tr.tval ∧
        ∀ u, exec i s = .next u → u.strand.v = t.v ∧ u.strand.tslab = t.vslab ∧ u.strand.tstart = BitVec.ofNat 64 t.stepLo
      faults (.vld false d a st k) unit ∧ faults (.vlds false d a b st k) strided)

/-- R168, R172 to R177: the words of major 0x31 and `mzero`, with their frames. T is `tlen`. -/
def Obligations.TileWordsMoveAndConvert : Prop :=
  ∀ (t a b xf : Reg) (s : State) (l : List Nat), let g := s.strand.g; let n := s.tlen g; let ph := g.phys t.toNat
    ph < 4 → s.strand.plain = true →
    let ready := fun (i : Instr) => s.work.tileChecks i t = none
    let leaves := fun (i : Instr) (holds : State → Prop) =>
      ∃ u, exec i s = .next u ∧ holds u ∧ u.strand.pc = s.strand.pc + 4 ∧ u.strand.x = s.strand.x ∧
        u.strand.specials = s.strand.specials ∧
        ∀ c j, ¬(c = g.core ∧ j = ph) → (u.core c).tiles.getD j 0 = (s.core c).tiles.getD j 0
    let words := fun (u : State) (w : Nat → Nat → Nat) =>
      s.sameBytes u ∧ u.strand.vectors = s.strand.vectors ∧ ∀ i j, i < n → j < n → tileWord (u.tile g t.toNat) i j = w i j
    let same := fun (u : State) => u.tile g t.toNat = s.tile g t.toNat
    -- no earlier command of the strand is still to write the rows (R251)
    let free := fun (len : Nat) => ∀ dev ∈ l, s.readBlockers dev (dev + len) = []
    let byte := fun (j k : Nat) => (Mem.read s.sp (l.getD j 0 + k)).toNat
    (ready (.mzero t) → leaves (.mzero t) fun u => words u fun _ _ => 0) ∧
    (ready (.mld t a) → tilePlace s.work a 4 n (4 * n) = .ok l → free (4 * n) →
      leaves (.mld t a) fun u => words u fun i j => leNat (Mem.readN s.sp (l.getD i 0 + 4 * j) 4)) ∧
    (ready (.mldT8 t a) → tilePlace s.work a 1 (4 * n) n = .ok l → free n →
      leaves (.mldT8 t a) fun u => words u fun i j =>
        byte (4 * j) i + 2 ^ 8 * byte (4 * j + 1) i + 2 ^ 16 * byte (4 * j + 2) i + 2 ^ 24 * byte (4 * j + 3) i) ∧
    (ready (.mldT16 t a) → tilePlace s.work a 2 (2 * n) (2 * n) = .ok l → free (2 * n) →
      leaves (.mldT16 t a) fun u => words u fun i j =>
        leNat (Mem.readN s.sp (l.getD (2 * j) 0 + 2 * i) 2) + 2 ^ 16 * leNat (Mem.readN s.sp (l.getD (2 * j + 1) 0 + 2 * i) 2)) ∧
    (ready (.mst t a) → tilePlace s.work a 4 n (4 * n) = .ok l → (∀ dev ∈ l, s.envBlockers none (some (dev, dev + 4 * n)) = []) →
      leaves (.mst t a) fun u => same u ∧ u.strand.vectors = s.strand.vectors ∧
        u.sp = l.zipIdx.foldl (fun m r =>
          Mem.write m r.1 (leBytes (4 * n) (bitsAt (s.tile g t.toNat).toNat (r.2 * 4096) (32 * n)))) s.sp ∧
        u.fm = s.fm ∧ u.hm = s.hm ∧ u.host = s.host) ∧
    (ready (.mcvt t xf) → let f := fmtOf (s.strand.rx xf); okMcvt f = true →
      let code := fun i j => convertCode f.srcA f.dst f.rm f.sat (tileWord (s.tile g t.toNat) i j)
      leaves (.mcvt t xf) fun u => (words u fun i j => (code i j).1 % 2 ^ 32) ∧
        u.strand.fflags = s.strand.fflags ||| (tileFlags n code).2) ∧
    ((s.strand.rx b).toNat < n → s.getBlockers [a.toNat] = [] → let r := (s.strand.rx b).toNat
      (ready (.mrowr t a b) → leaves (.mrowr t a b) fun u => same u ∧ s.sameBytes u ∧ u.strand.k = s.strand.k ∧
        u.strand.v = (s.strand.eachWritten a 32 (List.range n) fun _ j => (tileWord (s.tile g t.toNat) r j, 0)).v) ∧
      (ready (.mroww t a b) → leaves (.mroww t a b) fun u => words u fun i j =>
        if i = r then s.strand.elt a 32 j else tileWord (s.tile g t.toNat) i j))

namespace Sys2Proof.Machine

/-- One element's part of `tdstep`, given the dot product of a token row with a node (R182). -/
def steppedDown (tree : Tree) (d a : Reg) (dot : Nat → Nat → Val × Flags) (u : Strand) (j : Nat) : Strand :=
  let st := u.elt d 64 j
  match nodeIn tree st with
  | none => u.raise flagNV
  | some n =>
    if nodeDepth st = tree.depth - 1 then u
    else
      let r := dot (u.elt a 64 j) n
      let y := toFP32 r.1
      let right := !r.1.isNan && !bitAt y.1 31
      let margin := if r.1.isNan then 0x7FC00000 else y.1 % 2 ^ 31
      (u.setElt d 64 j (nodeState margin (2 * nodePath st + right.toNat) (nodeDepth st + 1))).raise (r.2 ||| y.2)

/-- One element's part of `tdleaf` (R183). -/
def atLeaf (tree : Tree) (f : Fmt) (d a : Reg) (dot : Nat → Nat → Val × Flags) (u : Strand) (j : Nat) : Strand :=
  let st := u.elt d 64 j
  let bad := (u.setElt d f.dst.width j (nanInto f.dst).1).raise flagNV
  match nodeIn tree st with
  | none => bad
  | some n =>
    if nodeDepth st ≠ tree.depth - 1 then bad
    else
      let x := dot (u.elt a 64 j) n
      let r := if f.srcA.isInt && f.srcB.isInt && f.dst.isInt then (intInto f.dst f.sat x.1.toInt, 0) else roundOp x f.dst f.rm f.sat
      (u.setElt d f.dst.width j r.1).raise r.2

end Sys2Proof.Machine

/-- R168 to R170, R179 to R185: `tacc`, `tacc.s` and the words of major 0x34 that read a tree, with their frames. That `tdaddr`, which reads no
scratchpad element, judges no alignment of the descriptor's bases and strides (`has 1 1`) is log 25's reading of R179. -/
def Obligations.MatrixStepAndDescent : Prop :=
  ∀ (d a b xf : Reg) (k : BitVec 2) (s : State) (m : Member), s.strand.buf = [] → s.strand.pend = [] → s.strand.holds = [] → s.strand.remotes = [] →
    let t := s.strand
    let f := fmtOf (t.sx xf)
    let e := t.epr t.sew
    let n := s.tlen t.g
    let act := t.stepActive k
    let frame := fun (u : State) => u.strand.k = t.k ∧ u.strand.vl = t.vl ∧ u.strand.specials = t.specials ∧
      (t.loop = none → u.strand.x = t.x)
    let adds := fun (i : Instr) (scaled : Bool) => VectorReady i m s → t.g.phys d.toNat < 4 →
      let word := taccElement scaled a b f t n (e / n) t.stepLo (t.stepLo / e) t.vl.toNat (s.tile t.g d.toNat)
      ∃ u, exec i s = .next u ∧
        (∀ p q, p < n → q < n → tileWord (u.tile t.g d.toNat) p q = (word p q).1 % 2 ^ 32) ∧
        u.strand.fflags = t.fflags ||| (tileFlags n word).2 ∧ u.strand.v = t.v ∧ frame u ∧ s.sameBytes u ∧
        ∀ c j, ¬(c = t.g.core ∧ j = t.g.phys d.toNat) → (u.core c).tiles.getD j 0 = (s.core c).tiles.getD j 0
    let leaves := fun (i : Instr) (r : Strand) =>
      ∃ u, exec i s = .next u ∧ u.strand.v = r.v ∧ u.strand.fflags = r.fflags ∧ frame u ∧ s.sameBytes u ∧
        ∀ c, (u.core c).tiles = (s.core c).tiles
    -- the dot products that the elements of the step need, each from the strand that those before it left
    let dots := fun (tree : Tree) (wanted : Nat → Bool) (go : Strand → Nat → Strand) (dot : Nat → Nat → Val × Flags) =>
      ∀ l1 j l2, act = l1 ++ j :: l2 → let u := l1.foldl go t
        ∀ node, nodeIn tree (u.elt d 64 j) = some node → wanted (nodeDepth (u.elt d 64 j)) = true →
          s.work.dot tree f (u.elt a 64 j) node = .ok (dot (u.elt a 64 j) node)
    -- the descriptor that the convoy read at its dispatch, which is now at its first step (R179)
    let has := fun (ws ts : Nat) (tree : Tree) =>
      (t.snap = none → ∃ n, s.work.readTree b ws ts = .ok n ∧ treeOf n = tree) ∧ (t.snap ≠ none → t.tree b = tree)
    adds (.tacc false d a b xf) false ∧ adds (.taccS false d a b xf) true ∧
    (∀ (tree : Tree) (dot : Nat → Nat → Val × Flags),
      has (f.srcB.width / 8) (f.srcA.width / 8) tree →
      (VectorReady (.tdstep false d a b xf k) m s →
        dots tree (fun x => decide (x ≠ tree.depth - 1)) (steppedDown tree d a dot) dot →
        leaves (.tdstep false d a b xf k) (act.foldl (steppedDown tree d a dot) t)) ∧
      (VectorReady (.tdleaf false d a b xf k) m s →
        dots tree (fun x => decide (x = tree.depth - 1)) (atLeaf tree f d a dot) dot →
        leaves (.tdleaf false d a b xf k) (act.foldl (atLeaf tree f d a dot) t))) ∧
    (∀ (tree : Tree), has 1 1 tree → VectorReady (.tdaddr false d a b k) m s →
      leaves (.tdaddr false d a b k) (t.eachWritten d 64 act fun u j =>
        (match nodeIn tree (u.elt a 64 j) with
          | some node => tree.wbase + node * tree.nstride
          | none => 2 ^ 64 - 1, 0))) ∧
    (VectorReady (.tdregrp false d a b k) m s →
      let seen := seenNodes t.carry ++ act.map fun j => (j, nodeOf (t.elt a 64 j))
      (t.stepLast = false → ∃ u, exec (.tdregrp false d a b k) s = .next u ∧ u.strand.carry = .nodes seen ∧
        u.strand.v = t.v ∧ frame u ∧ s.sameBytes u) ∧
      (t.stepLast = true →
        let good := seen.filterMap fun p => p.2.map fun node => (node, p.1)
        let order := (good.foldl (fun l p => insertByNode p l) []).map (·.2) ++
          (seen.filter fun p => p.2.isNone).map (·.1)
        let counts := nodeCounts (good.map (·.1))
        let regrouped := order.zipIdx.foldl (fun u p => u.setElt d 64 p.2 p.1) t
        (counts = [] → leaves (.tdregrp false d a b k) regrouped) ∧
        (∀ dev, counts ≠ [] → t.buffering = false → s.meadow t.g (t.sx b) counts.length = .ok dev →
          s.sleeperIn dev counts.length = none → s.envBlockers none (some (dev, dev + counts.length)) = [] →
          ∃ u, exec (.tdregrp false d a b k) s = .next u ∧ u.sp = Mem.write s.sp dev counts ∧
            s.sameBytesBut u .sp dev counts.length ∧ u.strand.v = regrouped.v ∧ frame u)))

namespace Sys2Proof.Machine

/-- A strand's command of class 4 as it stands on a channel behind what it is performed after (R211 to R213): `wr` is what it writes of
its envelope, `xw` whether it makes external writes, `word` the word, which is kept with the registers that its fields name. -/
def State.queued (s : State) (word ch : Nat) (env wr : Option (Nat × Nat)) (xw : Bool) (b : CmdBody) : Cmd :=
  ⟨s.nextId, s.strand.g.gid, s.strand.sidx, s.strand.g.ctx, s.strand.g.core, ch, s.commandAfter ch env wr xw, env, wr, xw,
    BitVec.ofNat 32 word, s.strand.cmdRegs word, b⟩

/-- A word that has put a command on a channel: the strand that goes on, the command, its number used, no byte changed. -/
def Queues (r : Host.Outcome State Fault Refusal) (s : State) (u : Strand) (c : Cmd) : Prop :=
  ∃ t, r = .next t ∧ t.strand = u ∧ t.cmds = s.cmds ++ [c] ∧ t.nextId = s.nextId + 1 ∧ s.sameBytes t

/-- A word that leaves the issuing strand as `u` and every byte as it was. -/
def Leaves (r : Host.Outcome State Fault Refusal) (s : State) (u : Strand) : Prop :=
  ∃ t, r = .next t ∧ t.strand = u ∧ s.sameBytes t

/-- Room on a channel of the strand (R212). -/
def State.hasRoom (s : State) (ch : Nat) : Prop := (s.onChannels (BitVec.ofNat 4 (2 ^ ch))).length < 32

end Sys2Proof.Machine

/-- R209 to R211 and R398: the tag operations. A mask of 0 in `cfence` is an illegal instruction. -/
def Obligations.TagWordsWaitForTheirBits : Prop :=
  ∀ (a b : Reg) (ch : BitVec 2) (mask : BitVec 4) (s : State), s.strand.buf = [] →
    let t := s.strand.drained
    let m := t.rx a
    let v := t.tags &&& t.rx b
    let chs : BitVec 4 := BitVec.ofNat 4 (2 ^ ch.toNat)
    let takes := fun (i : Instr) (d : Delivery) => ∃ u, exec i s = .next u ∧ u.strand.epc = t.pc ∧
      u.strand.cause = BitVec.ofNat 17 (65536 + d.sub * 256 + d.code) ∧ u.strand.tval = d.tval ∧
      u.strand.deliver = t.deliver.erase d ∧ u.strand.pc = t.tvec &&& (BitVec.allOnes 64 - 63) ∧ u.strand.x = t.x
    (t.deliver = [] →
      (m = 0 ∨ t.tags &&& m ≠ 0 → Leaves (exec (.cwaitAny a) s) s t.nextWord) ∧
      (m ≠ 0 → t.tags &&& m = 0 → Leaves (exec (.cwaitAny a) s) s { t with waiting := .tags true m }) ∧
      (t.tags &&& m = m → Leaves (exec (.cwaitAll a) s) s t.nextWord) ∧
      (t.tags &&& m ≠ m → Leaves (exec (.cwaitAll a) s) s { t with waiting := .tags false m }) ∧
      (v = 0 → Leaves (exec (.cfirst a b) s) s (t.wx a (BitVec.allOnes 64)).nextWord) ∧
      (∀ n, n < 64 → v.getLsbD n = true → (∀ j, j < n → v.getLsbD j = false) →
        Leaves (exec (.cfirst a b) s) s (t.wx a (BitVec.ofNat 64 n)).nextWord) ∧
      (s.onChannels chs = [] → Leaves (exec (.cdrain ch) s) s (t.collect chs).nextWord) ∧
      (s.onChannels chs ≠ [] → Leaves (exec (.cdrain ch) s) s { t with waiting := .drained (s.onChannels chs) chs false }) ∧
      (mask ≠ 0 → Leaves (exec (.cfence mask) s) s
        { t.collect mask with fences := t.fences ++ [(mask, s.onChannels mask)] }.nextWord)) ∧
    (t.nest = false →
      TrapsAs (exec (.cfence 0) s) s 1 1 (BitVec.ofNat 64 (encodeNat (.cfence 0))) ∧
      ∀ d, d.contain = none →
        (t.due m 0 false = some d → takes (.cwaitAny a) d ∧ takes (.cwaitAll a) d) ∧
        (t.due (t.rx b) 0 false = some d → takes (.cfirst a b) d) ∧
        (t.due 0 chs false = some d → takes (.cdrain ch) d) ∧
        (mask ≠ 0 → t.due 0 mask false = some d → takes (.cfence mask) d))

/-- R199 to R204: the dispatch of the fourteen copies. The plan of a copy is what its own checks answer. -/
def Obligations.CopyWordsQueueTheirCopy : Prop :=
  ∀ (a b c : Reg) (tag : BitVec 6) (ch : BitVec 2) (s : State),
    s.strand.buf = [] → s.tagBusy tag.toNat = false → s.hasRoom ch.toNat →
    let t := s.strand.drained
    let x := t.rx c
    let queues := fun (i : Instr) (k : Checked) =>
      Queues (exec i s) s { t with tags := t.tags &&& ~~~(BitVec.ofNat 64 (2 ^ tag.toNat)) }.nextWord
        (s.queued (encodeNat i) ch.toNat k.env k.wr (k.body.targets.any (s.external t.g.core t.g.ctx)) (.copy tag.toNat k.body 0 none .moving))
    let plan := fun (i : Instr) (dstSp srcSp : Bool) (shape : Work → Except Stop Shape) =>
      shapedCopy (s.engineWork (encodeNat i) a) dstSp srcSp (t.rx a) (t.rx b) shape
    (x.toNat ≤ 2 ^ 32 → queues (.cblkVv a b c tag ch) ⟨none, none, .nest false false (t.rx a).toNat (t.rx b).toNat [x.toNat] [] [] 0⟩) ∧
    ∀ k,
      (let i := .cblkIn a b c tag ch; plan i true false (blockShape x) = .ok k → queues i k) ∧
      (let i := .cblkOut a b c tag ch; plan i false true (blockShape x) = .ok k → queues i k) ∧
      (let i := .cblkSs a b c tag ch; plan i true true (blockShape x) = .ok k → queues i k) ∧
      (let i := .cnestIn a b c tag ch; plan i true false (nestShape x 0) = .ok k → queues i k) ∧
      (let i := .cnestOut a b c tag ch; plan i false true (nestShape x 0) = .ok k → queues i k) ∧
      (let i := .cnestSs a b c tag ch; plan i true true (nestShape x 0) = .ok k → queues i k) ∧
      (let i := .cnestVv a b c tag ch; plan i false false (nestShape x 0) = .ok k → queues i k) ∧
      (let i := .cnestInT8 a b c tag ch; plan i true false (nestShape x 1) = .ok k → queues i k) ∧
      (let i := .cnestInT16 a b c tag ch; plan i true false (nestShape x 2) = .ok k → queues i k) ∧
      (let i := .cgathIn a b c tag ch;
        gatherCopy i false a b c (s.engineWork (encodeNat i) a) = .ok k → queues i k) ∧
      (let i := .cgathOut a b c tag ch;
        gatherCopy i true b a c (s.engineWork (encodeNat i) a) = .ok k → queues i k) ∧
      (let i := .cgetV a b tag ch;
        getCopy i false a b (s.engineWork (encodeNat i) a) = .ok k → queues i k) ∧
      (let i := .cgetVs a b tag ch;
        getCopy i true a b (s.engineWork (encodeNat i) a) = .ok k → queues i k)

/-- R186, R189, R194 and R196: the dispatch of the Heath words. By the model's choice a block with NREC = 0 translates no page
and one with RECB = 0 translates up to its last record's start (log 54), and `hbcast` reads the slot data at SRC at its
dispatch, as it reads its block (log 82). -/
def Obligations.HeathWordsGoInFlight : Prop :=
  ∀ (a b c : Reg) (tag : BitVec 6) (s : State),
    s.strand.buf = [] → s.tagBusy tag.toNat = false → (s.heathOf s.strand).length < 64 →
    let t := s.strand.drained
    let gone : Strand := { t with tags := t.tags &&& ~~~(BitVec.ofNat 64 (2 ^ tag.toNat)),
                                  hqstat := inflight t.hqstat (bitsAt t.hqstat.toNat 32 8 + 1) }
    let flies := fun (i : Instr) (env : Option (Nat × Nat)) (pages pinned : List (Nat × Nat)) (body : HBody) =>
      ∃ u, exec i s = .next u ∧ u.strand = gone.nextWord ∧ s.sameBytes u ∧ u.nextId = s.nextId + 1 ∧
        u.pages = (s.pin t.g.ctx pinned).pages ∧
        u.queries = s.queries ++ [⟨s.nextId, t.g.gid, t.sidx, t.g.ctx, t.g.core, tag.toNat, s.heathAfter env, env, pages,
          s.rin.toNat, body⟩]
    let asks := fun (i : Instr) (kind : QKind) =>
      let w := s.engineWork (encodeNat i) a
      let fw := t.rx c
      let f := fmtOf fw
      (s.queries.filter HCmd.isQuery).length < 1024 → (∀ sid, s.rootLine.head? = some sid → sid = s.strand.sid) →
      ∀ bytes pages dev, w.readBlock (t.rx a) 64 64 = .ok bytes →
        let q := qblockOf (leNat bytes)
        let verdict := q.verdict kind f.srcA.width
        let pay := if verdict = 0 then kind.payload q (q.recb * 8 / f.srcA.width) else 0
        kind.formatOk q.red f = true →
        (if q.nrec = 0 then .ok [] else
          queryPages w.st t.g.core t.g.ctx q.ext (q.ext + (q.nrec - 1) * q.stride + (q.recb - 1)) (2 ^ 27)) = .ok pages →
        w.st.meadow t.g (BitVec.ofNat 64 q.rdst) 32 = .ok dev →
        (pay = 0 ∨ ∃ d2, w.st.meadow t.g (BitVec.ofNat 64 q.rdst + 32) pay = .ok d2) →
        flies i (some (dev, dev + 32 + pay)) pages pages (.query kind q fw verdict .issued q.offset [])
    asks (.hqDot a c tag) .dot ∧ asks (.hqSum a c tag) .sum ∧ asks (.hqCnt a c tag) .cnt ∧ asks (.hqMax a c tag) .max ∧
    asks (.hqTop a c tag) .top ∧ asks (.hqSes a c tag) .ses ∧
    (∀ bytes data, let w := s.engineWork (encodeNat (.hbcast a tag)) a
      let f := fun (lo len : Nat) => bitsAt (leNat bytes) (8 * lo) (8 * len)
      w.readBlock (t.rx a) 64 64 = .ok bytes → f 2 1 ≤ 7 → f 3 1 = 0 → 1 ≤ f 4 2 → f 4 2 ≤ 1024 → f 6 2 = 0 → f 24 40 = 0 →
      w.readBlock (BitVec.ofNat 64 (f 16 8)) (f 4 2) 1 = .ok data →
      flies (.hbcast a tag) none [] [] (.bcast (f 0 2) (f 8 8) (f 2 1) data)) ∧
    (let dst := (t.rx a).toNat
     let src := (t.rx b).toNat
     let len := (t.rx c).toNat
     t.priv = true → dst % 64 = 0 → src % 64 = 0 → len % 64 = 0 → len ≤ 2 ^ 42 → overlap dst (dst + len) src (src + len) = false →
      ∀ x y, movePages s t.g.core t.g.ctx ⟨4, 0, t.rx a⟩ true dst len = .ok x →
        movePages s t.g.core t.g.ctx ⟨4, 0, t.rx a⟩ false src len = .ok y →
        flies (.hmove a b c tag) none (x ++ y) [] (.move dst src len))

/-- R220 to R222, Table 9.8: the returning atomics on field memory, with their frame. -/
def Obligations.ReturningAtomicsReadModifyWrite : Prop :=
  ∀ (d a b c : Reg) (s : State) (pa : Nat), let t := s.strand.drained
    s.strand.buf = [] → s.strand.holds = [] → s.strand.pend = [] → s.strand.flight = .none →
    s.undoF.length < Config.undoCapF → pa + 8 ≤ 384 * 2 ^ 30 → (s.line false (pa / 64)).poison = false →
    let does := fun (i : Instr) (n : Nat) (new : Nat → Nat → Nat → Option Nat) (result : Nat → W64) (fl : Nat → Nat → Flags) =>
      let old := leNat (Mem.readN s.fm pa n)
      let x := (t.rx b).toNat % 2 ^ (8 * n)
      let y := (t.rx c).toNat % 2 ^ (8 * n)
      s.checkVirtual t.g.core t.g.ctx (t.rx a) n .atomic = .ok (.mem .fm pa) →
      ∃ u, exec i s = .next u ∧ u.strand = ((t.raise (fl old x)).wx d (result old)).nextWord ∧ s.sameBytesBut u .fm pa n ∧
        Mem.readN u.fm pa n = leBytes n ((new old x y).getD old)
    let plain := fun (iw id : Instr) (new : Nat → Nat → Nat → Nat → Option Nat) =>
      does iw 4 (new 32) (fun o => (BitVec.ofNat 32 o).signExtend 64) (fun _ _ => 0) ∧
      does id 8 (new 64) (fun o => BitVec.ofNat 64 o) (fun _ _ => 0)
    plain (.aaddW d a b) (.aaddD d a b) (fun n o x _ => some ((o + x) % 2 ^ n)) ∧
    plain (.aandW d a b) (.aandD d a b) (fun _ o x _ => some (o &&& x)) ∧
    plain (.aorW d a b) (.aorD d a b) (fun _ o x _ => some (o ||| x)) ∧
    plain (.axorW d a b) (.axorD d a b) (fun _ o x _ => some (o ^^^ x)) ∧
    plain (.aminW d a b) (.aminD d a b) (fun n o x _ => some (if signed n x < signed n o then x else o)) ∧
    plain (.amaxW d a b) (.amaxD d a b) (fun n o x _ => some (if signed n o < signed n x then x else o)) ∧
    plain (.aminuW d a b) (.aminuD d a b) (fun _ o x _ => some (if x < o then x else o)) ∧
    plain (.amaxuW d a b) (.amaxuD d a b) (fun _ o x _ => some (if o < x then x else o)) ∧
    plain (.aswpW d a b) (.aswpD d a b) (fun _ _ x _ => some x) ∧
    plain (.acasW d a b c) (.acasD d a b c) (fun _ o x y => if o = y then some x else none) ∧
    plain (.aincbW d a b) (.aincbD d a b) (fun _ o x _ => if o < x then some (o + 1) else none) ∧
    does (.afaddW d a b) 4 (fun o x _ => some (afadd o x).1) (fun o => BitVec.ofNat 64 o) (fun o x => (afadd o x).2)

/-- R219, R220 and R222: the dispatch of the no-return atomics. -/
def Obligations.NoReturnAtomicsQueue : Prop :=
  ∀ (a b : Reg) (ch : BitVec 2) (s : State) (pa : Nat), s.strand.buf = [] → s.hasRoom ch.toNat →
    let t := s.strand.drained
    let queues := fun (i : Instr) (op : AtomOp) (wide : Bool) =>
      let n := if wide then 8 else 4
      s.checkVirtual t.g.core t.g.ctx (t.rx a) n .atomic = .ok (.mem .fm pa) →
      Queues (exec i s) s t.nextWord
        (s.queued (encodeNat i) ch.toNat none none false (.atom op wide (t.rx a).toNat pa none (BitVec.ofNat 64 ((t.rx b).toNat % 2 ^ (8 * n))) false))
    let both := fun (iw id : Instr) (op : AtomOp) => queues iw op false ∧ queues id op true
    both (.aaddWNoret a b ch) (.aaddDNoret a b ch) .add ∧ both (.aandWNoret a b ch) (.aandDNoret a b ch) .and ∧
    both (.aorWNoret a b ch) (.aorDNoret a b ch) .or ∧ both (.axorWNoret a b ch) (.axorDNoret a b ch) .xor ∧
    both (.aminWNoret a b ch) (.aminDNoret a b ch) .min ∧ both (.amaxWNoret a b ch) (.amaxDNoret a b ch) .max ∧
    both (.aminuWNoret a b ch) (.aminuDNoret a b ch) .minu ∧ both (.amaxuWNoret a b ch) (.amaxuDNoret a b ch) .maxu ∧
    both (.aswpWNoret a b ch) (.aswpDNoret a b ch) .swp ∧ queues (.afaddWNoret a b ch) .fadd false

/-- R223 to R228: `aaddscan`, `cmbput`, `cmbput.z`, `accw` and `accm`. By the model's reading (log 28) `accm` translates every
element before its first fold, and the elements of other modules are folded there while the word waits. -/
def Obligations.ScansPutsAndWindows : Prop :=
  ∀ (d a b c : Reg) (k : BitVec 2) (s : State) (pa : Nat), s.strand.buf = [] → s.strand.holds = [] → s.strand.pend = [] → s.strand.remotes = [] →
    pa + 64 ≤ 384 * 2 ^ 30 → s.undoF.length < Config.undoCapF →
    let t := s.strand.drained
    (∀ va, t.flight = .folds 0 va → Leaves (exec (.accm a) s) s { t with flight := .none }.nextWord) ∧
    (t.flight = .none →
    let free := fun (l : List Reg) =>
      t.spansOk l = true ∧ s.getBlockers (regsOf (l.map fun r => group r t.sew) t.sew t.grp) = []
    (∀ (n : Nat), 8 * n = t.sew → (n = 4 ∨ n = 8) → free [b, d] → t.spansOk [d, b] = true →
      t.groupsMeet d b = false →
      (s.line false (pa / 64)).poison = false → s.checkVirtual t.g.core t.g.ctx (t.rx a) n .atomic = .ok (.mem .fm pa) →
      let old := leNat (Mem.readN s.fm pa n)
      let pre := scanPrefixes t b k
      ∃ u, exec (.aaddscan d a b k) s = .next u ∧
        (pre.1 = [] → s.sameBytes u ∧ u.strand.v = t.v) ∧
        (pre.1 ≠ [] → s.sameBytesBut u .fm pa n ∧ leNat (Mem.readN u.fm pa n) = (old + pre.2) % 2 ^ t.sew ∧
          u.strand.v = (pre.1.foldl (fun q e => q.setElt d t.sew e.1 ((old + e.2) % 2 ^ t.sew)) t).v) ∧
        u.strand.k = t.k ∧ u.strand.fflags = t.fflags ∧ u.strand.specials = t.specials ∧ (t.loop = none → u.strand.x = t.x)) ∧
    (let x := t.rx b
      let h := headerOf (leNat (Mem.readN s.fm pa 64))
      let tok := x.toNat / 256
      let r := x.toNat % 256
      let slots := h.slots + tok * h.nrank * 4 * h.rowe
      let wide := (descOf h.outd).width / 8
      let put := fun (word : Nat) (zero : Bool) (row : List Nat) (pages : List (Nat × Option Nat × Nat)) =>
        s.queued word 0 none none false (.put ⟨zero, row, r, pa, (t.rx a).toNat, none, h.nrank, h.rowe, BitVec.ofNat 20 h.outd, slots, h.fill + 4 * tok,
          h.out + tok * h.outp, h.doneA, pages⟩ false)
      let spans := putUses slots (h.nrank * 4 * h.rowe) (h.fill + 4 * tok) (h.out + tok * h.outp) (h.rowe * wide) h.doneA
      s.checkVirtual t.g.core t.g.ctx (t.rx a) 64 .read = .ok (.mem .fm pa) →
      (∃ p, s.access t.g.core t.g.ctx (t.rx a) .write = .ok p) → (s.line false (pa / 64)).poison = false →
      h.ok = true → tok < h.ntok → r < h.nrank → s.hasRoom 0 → ∀ pages,
      (putPages (s.engineWork (stripWord 2 0 a b 0 0).toNat a) ⟨4, 0, x⟩ spans = .ok pages →
        Queues (exec (.cmbputZ a b) s) s t.nextWord (put (stripWord 2 0 a b 0 0).toNat true [] pages)) ∧
      (okPut t.sew (fmtOf (t.rx c)) = true → free [d] → t.vl.toNat = h.rowe →
        putPages (s.engineWork (stripWord 1 d a b c k).toNat a) ⟨4, 0, x⟩ spans = .ok pages →
        let codes := putRow t d k (fmtOf (t.rx c))
        ∃ u, exec (.cmbput d a b c k) s = .next u ∧ u.cmds = s.cmds ++ [put (stripWord 1 d a b c k).toNat false (codes.map (·.1)) pages] ∧
          u.strand.v = t.v ∧ u.strand.fflags = t.fflags ||| orFlags (codes.map (·.2)) ∧ u.strand.specials = t.specials ∧
          (t.loop = none → u.strand.x = t.x) ∧ s.sameBytes u)) ∧
    (let n := (t.rx b).toNat
      let size := n % 2 ^ 17
      let desc := n / 2 ^ 32
      ∀ leaf big, (t.rx a).toNat % 64 = 0 → (t.rx a).toNat < 2 ^ 48 →
      s.leafFor t.g.core t.g.ctx (t.rx a).toNat = some (leaf, big) → leafREGION leaf = 0 →
      1 ≤ size → size ≤ 65536 → size % 64 = 0 → n = size + desc * 2 ^ 32 → desc < 2 ^ 20 → windowDesc desc = true →
      t.window = none → t.g.recl = false →
      Leaves (exec (.accw a b) s) s { t with window := some ⟨(t.rx a).toNat, size, BitVec.ofNat 20 desc, []⟩ }.nextWord) ∧
    (∀ win sites, t.window = some win → (t.rx a).toNat = win.base →
      let w := s.engineWork (0x7C000008 + a.toNat * 2 ^ 15) a
      let f := descOf win.desc.toNat
      let z := f.width / 8
      windowSites w win.base z (win.size / z) = .ok sites → (∀ e ∈ sites, e.2.exists? = true) →
      w.linesFit false (siteLines (sites.map (·.2)) z) = true →
      let lanes := (s.core t.g.core).heldLanes t.g
      let folded := sites.foldl (foldElement win f z lanes) w
      ∃ u, exec (.accm a) s = .next u ∧ u.fm = (s.commit folded).fm ∧ u.strand.window = none ∧
        u.strand.fflags = folded.cur.fflags ∧ u.strand.specials = t.specials ∧ u.strand.vectors = t.vectors ∧
        (t.loop = none → u.strand.x = t.x) ∧ (farCount sites = 0 → u.strand.waiting = .none ∧ u.strand.cvret = t.cvret + 1) ∧
        (farCount sites ≠ 0 → u.strand.flight = .folds (farCount sites) (BitVec.ofNat 64 win.base) ∧ u.strand.waiting = .flight)))

/-- R216 to R218: the ordering words. What a release orders is every class, but class 5 only at device and system scope. -/
def Obligations.OrderingWordsHoldLaterAccesses : Prop :=
  ∀ (d a b : Reg) (pre post : BitVec 8) (sc : BitVec 2) (s : State) (pa : Nat), s.strand.buf = [] →
    let t := s.strand.drained
    let held := fun (ld st : BitVec 8) (rel : Bool) (l : List Nat) =>
      if l = [] then t else { t with holds := t.holds ++ [⟨ld, st, l, rel⟩] }
    let m : BitVec 8 := if 2 ≤ sc.toNat then 0xFF else 0xDF
    Leaves (exec (.sbar pre post) s) s (held post post false (s.earlier pre)).nextWord ∧
    Leaves (exec (.fenceRel sc) s) s (held (m &&& 0x30) m true (s.earlier m ++ s.farStores sc ++ s.earlierReleases)).nextWord ∧
    Leaves (exec (.fenceAcq sc) s) s t.nextWord ∧
    (t.holds = [] → t.pend = [] → t.remotes = [] → (s.line false (pa / 64)).poison = false → ∀ k, (k = 2 ∨ k = 3) →
      (t.rx a).toNat % 2 ^ k = 0 → s.fieldSite (t.rx a) false pa →
      Leaves (exec (if k = 2 then .ldAcqW d a sc else .ldAcqD d a sc) s) s (t.wx d (loaded s.fm pa k)).nextWord) ∧
    (t.holds = [] → t.pend = [] → t.remotes = [] → s.earlier m = [] → s.undoF.length < Config.undoCapF → ∀ k, (k = 2 ∨ k = 3) →
      (t.rx a).toNat % 2 ^ k = 0 → s.fieldSite (t.rx a) true pa →
      ∃ u, exec (if k = 2 then .stRelW a b sc else .stRelD a b sc) s = .next u ∧ u.strand = t.nextWord ∧
        s.sameBytesBut u .fm pa (2 ^ k) ∧ ∀ j, j < 2 ^ k → Mem.read u.fm (pa + j) = (t.rx b).extractLsb' (8 * j) 8)

/-- R230, R296 and R298: `mbar.arr`, `mbar.wait`, `dbar.arr` and `dbar.wait`. By the model's reading (log 6) an arrival, being a
release, makes its strand wait while an earlier access of its own is pending. -/
def Obligations.BarriersCountArrivals : Prop :=
  ∀ (d a b : Reg) (meadow : Bool) (s : State), s.strand.buf = [] →
    let t := s.strand.drained
    let n := (t.rx a).toNat
    let id := if meadow then BarId.meadow (t.g.core / 24) n else BarId.device n
    let bar := s.barrier id
    let arr : Instr := if meadow then .mbarArr d a else .dbarArr d a
    let wait : Instr := if meadow then .mbarWait a b else .dbarWait a b
    let g := (t.rx b).toNat % 2 ^ 32
    let mine := n < (if meadow then 32 else 16) ∧ bar.bound = true ∧ bar.ctx = t.g.ctx
    (mine →
      (let before := s.earlier (if meadow then 0xDF else 0xFF) ++ s.earlierReleases
      (before ≠ [] → Leaves (exec arr s) s { t with waiting := .cmds before }) ∧
      (before = [] →
        ∃ u, exec arr s = .next u ∧ s.sameBytes u ∧
          u.strand = ({ t with arrived := upsert (fun e => decide (e.1 = id)) (id, bar.gen) t.arrived }.wx d
            (BitVec.ofNat 64 bar.gen)).nextWord ∧
          (bar.count + 1 ≠ bar.npart → u.barrier id = { bar with count := bar.count + 1 }) ∧
          (bar.count + 1 = bar.npart → u.barrier id = { bar with gen := (bar.gen + 1) % 2 ^ 32, count := 0 }) ∧
          ∀ other, other ≠ id → u.barrier other = s.barrier other)) ∧
      (bar.gen ≠ g → Leaves (exec wait s) s t.nextWord) ∧
      (bar.gen = g → Leaves (exec wait s) s { t with waiting := .barrier id g })) ∧
    (¬mine → t.nest = false → TrapsAs (exec arr s) s 4 0 (t.rx a) ∧ TrapsAs (exec wait s) s 4 0 (t.rx a))

/-- R231, R232, R300 and R301: `ipost`, `iwait` and `mwait` on field memory. -/
def Obligations.RingAndMemoryWaits : Prop :=
  ∀ (d a b c : Reg) (s : State) (pa : Nat), s.strand.buf = [] →
    let t := s.strand.drained
    let n := (t.rx a).toNat
    let m := t.g.core / 24
    let ring := s.ring m n
    let i := (t.rx b).toNat % 2 ^ 32
    (n ≤ 15 → ring.bound = true → ring.ctx = t.g.ctx →
      (s.earlier 0xDF = [] → s.earlierReleases = [] → (2 ^ 31 ≤ ring.above i ∨ ring.above i < 256) → ring.lw < 2 ^ 32 →
        ∃ u, exec (.ipost a b) s = .next u ∧ u.strand = t.nextWord ∧ s.sameBytes u ∧ (u.ring m n).posted i = true ∧
          ∀ j, j < 2 ^ 32 → (ring.above j < 2 ^ 31 ∨ 2 ^ 31 + 256 ≤ ring.above j) →
            ring.posted j = true → (u.ring m n).posted j = true) ∧
      (ring.posted i = true → Leaves (exec (.iwait d a b) s) s (t.wx d 0).nextWord) ∧
      (ring.posted i = false → Leaves (exec (.iwait d a b) s) s { t with waiting := .ring d n i })) ∧
    (let wait : Wait := .mem d (t.rx a) (t.rx b) (t.rx c) (some pa);
      (t.waiting = .written → Leaves (exec (.mwait d a b c) s) s (t.wx d 0).nextWord) ∧
      (t.waiting ≠ .written → (t.rx a).toNat % 8 = 0 → s.fieldSite (t.rx a) false pa →
        (s.line false (pa / 64)).poison = false → t.holds = [] → t.pend = [] → t.remotes = [] →
        let v := loaded s.fm pa 3
        (v ≠ t.rx b → Leaves (exec (.mwait d a b c) s) s (t.wx d 0).nextWord) ∧
        (v = t.rx b → Leaves (exec (.mwait d a b c) s) s { t with waiting := wait })))

/-- R233 to R236 and R276: the words that reach the hub and the coordinator. -/
def Obligations.HubWords : Prop :=
  ∀ (d a b : Reg) (s : State), s.strand.buf = [] → s.earlier 0xFF = [] → s.earlierReleases = [] →
    let t := s.strand.drained
    let w := s.engineWork (syncWord 16 d a b 0) a
    (∀ r endSt k, w.readRecord t.g.core t.g.ctx (t.rx b) = .ok (r, endSt, k) → k.absent = false →
      let accept := k.acceptKernel t.g.ctx (t.rx a).toNat (t.rx b) r endSt;
      (accept.1 = 0 → k.hubWait (t.rx b).toNat (endSt.withBytes (leBytes 8 0)) = none) →
      ∃ u, exec (.qput d a b) s = .next u ∧ u.strand = (t.wx d (BitVec.ofNat 64 accept.1)).nextWord ∧
        (accept.1 ≠ 0 → u.kernels = s.kernels ∧ u.queues = s.queues ∧ s.sameBytes u) ∧
        (accept.1 = 0 → ∃ kern, u.kernels = s.kernels ++ [kern] ∧ kern.kid = s.nextId ∧ kern.ctx = t.g.ctx ∧
          kern.krec = r ∧ kern.state = .queued ∧ kern.next = 0 ∧ u.nextId = s.nextId + 1)) ∧
    Leaves (exec .ktrig s) s { t with trigged := true }.nextWord ∧
    (∀ n, t.waiting = .sealed n → s.sealedUpTo n = true → Leaves (exec .sealWord s) s t.nextWord) ∧
    (∀ n, t.waiting = .held n → s.heldOut t n = true → Leaves (exec .xhold s) s t.nextWord) ∧
    (t.waiting = .none → ∀ i, (i = .sealWord ∨ i = .xhold) → ∃ u, exec i s = .next u ∧
      u.strand = { t with waiting := if i = .sealWord then .sealed s.rin.toNat else .held s.rin.toNat } ∧ s.sameBytes u ∧
      (s.rcv.phase = .running → u.rcv = { s.rcv with requested := true }) ∧
      (s.rcv.phase = .stopping → u.rcv = s.rcv) ∧
      (s.rcv.phase ≠ .running → s.rcv.phase ≠ .stopping → u.rcv = { s.rcv with nextRequest := true }))

/-- R134, R314 and R315: the eviction and the restore of a page, from word to completion. -/
def Obligations.PagesGoOutAndComeBack : Prop :=
  ∀ (a b : Reg) (s : State), s.strand.live = true →
    let t := s.strand
    let va := (t.rx a).toNat
    let slot := (t.rx b).toNat
    (t.priv = true → t.flight = .none →
      (s.evictChecks (t.rx a) (t.rx b) false = none → s.safe.counter.toNat + 1 < 2 ^ 96 →
        ((∀ n, t.waiting ≠ .held n) → Leaves (exec (.hevict a b) s) s { t with waiting := .held s.rin.toNat }) ∧
        ∀ n, t.waiting = .held n → s.heldOut t n = true →
          Leaves (exec (.hevict a b) s) s { t with flight := .evict va slot, waiting := .flight }) ∧
      (s.evictChecks (t.rx a) (t.rx b) true = none →
        ∃ u, exec (.hrestore a b) s = .next u ∧ u.strand = { t with flight := .restore va slot none, waiting := .flight } ∧
          s.sameBytes u ∧ u.ports = (s.askSlot slot).ports)) ∧
    (∀ page num pa, s.strand.flight = .evict page num → s.heathPage t.g.core t.g.ctx page = some pa →
      let q := s.pageSt t.g.ctx (page / 2 ^ 21)
      q.pins = 0 → q.unmapping = false → q.migrating = false → s.safePath = true → s.safe.counter.toNat + 1 < 2 ^ 96 →
      pa + 2 ^ 21 ≤ 2 ^ 41 →
      ∃ u, exec (.hevictDone s.strand.sid) s = .next u ∧ u.strand = { s.strand with flight := .none }.nextWord ∧
        u.safe.counter = s.safe.counter + 1 ∧ (u.pageSt t.g.ctx (page / 2 ^ 21)).evicted = some num ∧
        u.slotText.head? = some ⟨num, t.g.ctx, page, s.rin.toNat, s.safe.counter.toNat + 1, s.work.sealedPage pa⟩ ∧
        (s.undoH = [] → s.work.sealedPage pa = Mem.readN s.hm pa (2 ^ 21)) ∧ (s.safe.hostForm = false → s.sameBytes u) ∧
        (s.safe.hostForm = true → s.sameBytesBut u .host (s.safe.base + num * slotLen) slotLen)) ∧
    (∀ page num pa got, s.strand.flight = .restore page num got → s.heathPage t.g.core t.g.ctx page = some pa →
      s.safePath = true → (s.safe.hostForm = true ∨ got.isSome = true) →
      s.stackUp pa = true →
      s.undoH.length + 32768 ≤ Config.undoCapH → pa + 2 ^ 21 ≤ 2 ^ 41 →
      (∀ e, s.work.slotGood t.g.ctx page num got = some e → e.text.length = 2 ^ 21 →
        ∃ u, exec (.hrestoreDone s.strand.sid) s = .next u ∧ u.strand = { s.strand with flight := .none }.nextWord ∧
          (u.pageSt t.g.ctx (page / 2 ^ 21)).evicted = none ∧ Mem.readN u.hm pa (2 ^ 21) = e.text ∧
          s.sameBytesBut u .hm pa (2 ^ 21)) ∧
      (s.work.slotGood t.g.ctx page num got = none → t.nest = false → t.buf = [] →
        TrapsAs (exec (.hrestoreDone s.strand.sid) s) s 4 0 (BitVec.ofNat 64 num)))

/-- R41, R131, R132, R232, R298 and R301: the events at a strand's boundary. That a word under way at another unit goes before a timer is the
model's reading (log 36), and that an event whose condition does not hold changes nothing its choice (log 52). -/
def Obligations.BoundaryEventsAct : Prop :=
  ∀ (s : State), s.strand.live = true →
    let t := s.strand
    (s.timerReady t = true →
      ∃ u, exec (.timerTrap t.sid) s = .next u ∧ u.strand.epc = t.pc ∧ u.strand.cause = 0x1000C ∧ u.strand.tval = 0 ∧
        u.strand.pc = t.tvec &&& (BitVec.allOnes 64 - 63) ∧ u.strand.status.getLsbD 2 = false ∧
        u.strand.status.getLsbD 4 = true ∧ u.strand.x = t.x) ∧
    (s.timerReady t = false → exec (.timerTrap t.sid) s = .next s) ∧
    (t.waiting = .timer → s.mayAct t = true → t.tmcmp ≤ (s.core t.g.core).cycle →
      exec (.wfiWake t.sid) s = .next (s.withStrand t.nextWord)) ∧
    (t.wasReady = true → 8192 ≤ t.since → exec (.strandOverdue t.sid) s = .next (s.withStrand { t with overdue := true })) ∧
    (∀ id g, t.waiting = .barrier id g → (s.barrier id).gen = g → (s.barrier id).timeout ≠ 0 →
      (s.barrier id).timeout ≤ t.waitT → t.nest = false →
      TrapsAs (exec (.barrierTimeout t.sid) s) s 0x0B (timeoutTrap id).sub (timeoutTrap id).tval) ∧
    (∀ d st i, let r := s.ring (t.g.core / 24) st
      t.waiting = .ring d st i → r.posted i = false → r.timeout ≠ 0 → r.timeout ≤ t.waitT →
      exec (.iwaitTimeout t.sid) s = .next (s.wrote d 1)) ∧
    (∀ d va old tmo pa at', t.waiting = .mem d va old tmo at' → va.toNat % 8 = 0 → s.fieldSite va false pa →
      (s.line false (pa / 64)).poison = false → t.holds = [] → t.pend = [] → t.remotes = [] → t.buf = [] → loaded s.fm pa 3 = old →
      tmo.toNat ≠ 0 → tmo.toNat ≤ t.waitT → exec (.mwaitTimeout t.sid) s = .next (s.wrote d 1))

/-- R43, R104, R121, R238, R278, R279, R334, R358, R363 to R365 and R367: the events that write registers of a core or of the module. That a
register write is an event is the model's choice (log 51), and so are the order of recovery and test service (log 40), what holds a
copy-out back (log 73), and that a bank loses what it holds as its power goes (log 85). -/
def Obligations.RegisterEventsWrite : Prop :=
  ∀ (core bank hw : Nat) (mark : BitVec 16) (v : W64) (on : Bool) (s : State),
    let c := s.core core
    let base := core * 2 ^ 22 + c.trcOfs.toNat * 64
    (mark ≠ 0 → c.trcFrz = false → ∃ t, exec (.trcctlMark core mark) s = .next t ∧ s.sameBytes t ∧
      ((t.core core).ring.head?.map fun r => (r.kind, r.a, r.b)) = some (12, mark.toNat, c.cycle)) ∧
    (exec (.trcctlMark core 0) s = .next s) ∧
    (c.halves = none → s.ringHeld core = false → c.trcOfs.toNat * 64 + 16384 ≤ 2 ^ 22 → c.ring.length ≤ 1024 →
      ∃ t, exec (.trcctlCopy core) s = .next t ∧ (t.core core).trcCopyErr = false ∧ s.sameBytesBut t .sp base 16384 ∧
        ∀ j, j < 1024 → Mem.readN t.sp (base + 16 * j) 16 = (ringBytes c false).getD j []) ∧
    (2 ^ 22 < c.trcOfs.toNat * 64 + 16384 →
      ∃ t, exec (.trcctlCopy core) s = .next t ∧ (t.core core).trcCopyErr = true ∧ s.sameBytes t) ∧
    (∃ t, exec (.trcctlClr core) s = .next t ∧ (t.core core).ring = [] ∧ (t.core core).trcWraps = 0 ∧
      (t.core core).trcHead = 0 ∧ (t.core core).pevDrop = 0 ∧ s.sameBytes t) ∧
    (let b := v.toNat % 4096;
      (150 ≤ b ∧ b ≤ 600 → ∃ t, exec (.registerWrite .hgov v) s = .next t ∧ t.mgmt.budget.toNat = b) ∧
      (¬(150 ≤ b ∧ b ≤ 600) → exec (.registerWrite .hgov v) s = .next s)) ∧
    (let p := v.toNat % 2 ^ 20;
      (100 ≤ p ∧ p ≤ 1000000 → ∃ t, exec (.registerWrite .sealcfg v) s = .next t ∧ t.rcv.nextPeriod = p ∧ t.rcv.period = s.rcv.period) ∧
      (¬(100 ≤ p ∧ p ≤ 1000000) → exec (.registerWrite .sealcfg v) s = .next s)) ∧
    (∃ t, exec (.registerWrite (.sqsel core) v) s = .next t ∧ (t.core core).sqsel = v.setWidth 6) ∧
    (hw < 64 → ∃ t, exec (.registerWrite (.sqchg core hw) v) s = .next t ∧ (t.core core).chargeOf hw = v.toNat ∧
      ∀ q, q ≠ hw → (t.core core).chargeOf q = c.chargeOf q) ∧
    (hw < 64 → ∃ t, exec (.registerWrite (.sqpass core hw) v) s = .next t ∧ (t.core core).passOf hw = v.toNat ∧
      ∀ q, q ≠ hw → (t.core core).passOf q = c.passOf q) ∧
    ((s.groups.any fun g => decide (g.place.core = core) && decide (g.state ≠ .preempted)) = false →
      let turns := fun (b : Nat) => c.banksOff.getLsbD b != v.getLsbD b
      ∃ t, exec (.registerWrite (.bankPower core) v) s = .next t ∧ (t.core core).banksOff = v.setWidth 32 ∧
        (∀ a, a < 2 ^ 22 → turns (a / 128 % 32) = true → Mem.read t.sp (core * 2 ^ 22 + a) = 0) ∧
        (∀ a, ¬(core * 2 ^ 22 ≤ a ∧ a < core * 2 ^ 22 + 2 ^ 22 ∧ turns (a / 128 % 32) = true) → Mem.read t.sp a = Mem.read s.sp a) ∧
        t.fm = s.fm ∧ t.hm = s.hm ∧ t.host = s.host) ∧
    ((s.groups.any fun g => decide (g.place.core = core) && decide (g.state ≠ .preempted)) = true →
      exec (.registerWrite (.bankPower core) v) s = .next s) ∧
    (bank < 32 → c.banksOff.getLsbD bank = true →
      ∃ t, exec (.scratchpadBankWake core bank) s = .next t ∧ (t.core core).banksOff.getLsbD bank = false ∧
        (∀ a, a < 2 ^ 22 → a / 128 % 32 = bank → Mem.read t.sp (core * 2 ^ 22 + a) = 0) ∧
        (∀ a, ¬(core * 2 ^ 22 ≤ a ∧ a < core * 2 ^ 22 + 2 ^ 22 ∧ a / 128 % 32 = bank) → Mem.read t.sp a = Mem.read s.sp a) ∧
        t.fm = s.fm ∧ t.hm = s.hm ∧ t.host = s.host) ∧
    (∃ t, exec (.testServiceSet on) s = .next t ∧ t.mgmt = { s.mgmt with test := on } ∧ s.sameBytes t ∧
      t.svcmode = if s.mgmt.recovering then 3 else if on then 2 else if s.mgmt.ranRoot then 0 else 1)

/-- R297, R300, R308, R316 to R318 and R356: what system cores and the hub write. The model's own readings: what clears a ring's map (log 39), the
edit port's mark of a migrating page and where the log overflows (log 38), which entry a parity error leaves and what the caches keep of an old
one (log 59), that the edit port drops a leaf that opens a dump region (log 62) or names the undo log's place in field memory (log 78), and that an
edit at a misaligned address changes nothing (log 52). -/
def Obligations.HubConfigurationEvents : Prop :=
  ∀ (s : State) (v : W64),
    (∀ b, let old := s.barrier b
      let most := match b with
        | .meadow _ _ => 96
        | .device _ => 576
      let np := v.toNat / 2 ^ 32 % 4096
      let waits := s.strands.any fun t => match t.waiting with
        | .barrier x _ => decide (x = b)
        | _ => false
      let fits := v.getLsbD 63 = true → 1 ≤ np ∧ np ≤ most
      (old.count = 0 → waits = false → fits → ∃ t, exec (.barrierConfigWrite b v) s = .next t ∧ s.sameBytes t ∧
        t.barrier b = ⟨v.getLsbD 63, v.toNat / 2 ^ 56 % 64, np, v.toNat % 2 ^ 32, old.gen, 0⟩) ∧
      (old.count ≠ 0 ∨ waits = true ∨ ¬fits → exec (.barrierConfigWrite b v) s = .next s)) ∧
    (∀ m st, let waits := s.strands.any fun t => decide (t.g.core / 24 = m) && (match t.waiting with
        | .ring _ x _ => decide (x = st)
        | .ringRoom x _ => decide (x = st)
        | _ => false)
      let old := s.ring m st
      (waits = false →
        (∃ t, exec (.ringConfigWrite m st true v) s = .next t ∧ s.sameBytes t ∧
          t.ring m st = { old with lw := v.toNat / 2 ^ 32, map := 0 }) ∧
        (∃ t, exec (.ringConfigWrite m st false v) s = .next t ∧ s.sameBytes t ∧
          t.ring m st = { old with bound := v.getLsbD 63, ctx := v.toNat / 2 ^ 56 % 64, timeout := v.toNat % 2 ^ 32,
                                           map := if v.getLsbD 63 = true ∧ (old.bound = false ∨ old.ctx ≠ v.toNat / 2 ^ 56 % 64) then 0 else old.map })) ∧
      (waits = true → ∀ k, exec (.ringConfigWrite m st k v) s = .next s)) ∧
    (∀ bank h, (s.hberr.find? fun e => decide (e.bank = bank)) = some h →
      ∃ t, exec (.hberrClear bank v) s = .next t ∧ s.sameBytes t ∧ (t.hberr.find? fun e => decide (e.bank = bank)) =
        some { h with valid := h.valid && v.getLsbD 63, multi := h.multi && v.getLsbD 62,
                      count := if v.toNat / 2 ^ 50 % 4096 = 0 then 0 else h.count }) ∧
    (∀ sys ctx va addr mark,
      let pa := leafADDR v * 2 ^ 16
      let opens := leafV v && leafLEAF v && (!s.dumpSafe ctx (leafREGION v) pa (leafWR v) || inLog (leafREGION v) pa)
      (addr % 8 ≠ 0 ∨ opens = true → exec (.editPortWrite sys ctx va addr v mark) s = .next s) ∧
      (addr % 8 = 0 → opens = false → addr < 384 * 2 ^ 30 → s.undoF.length < Config.undoCapF →
        ∃ t r, exec (.editPortWrite sys ctx va addr v mark) s = .next t ∧ Mem.readN t.fm addr 8 = leBytes 8 v.toNat ∧
          s.sameBytesBut t .fm addr 8 ∧ t.tlogFlash ++ t.tlog = s.tlogFlash ++ s.tlog ++ [r] ∧ r.kind = 1 ∧ r.sys = sys ∧
          r.ctx = ctx ∧ r.rin = s.rin.toNat ∧ r.last = v ∧
          (∀ level old, s.covered ctx va addr = some (level, old) →
            r.va = va / 2 ^ levelShift level * 2 ^ levelShift level ∧ r.len = 2 ^ levelShift level) ∧
          (mark = some false → (t.pageSt ctx (va / 2 ^ 21)).migrating = false))) ∧
    (∀ sys ctx va len, (∀ t ∈ s.strands, t.buf = [] ∧ t.pend = []) → s.oldAccess ctx va len = false →
      ∃ t r, exec (.shootDown sys ctx va len) s = .next t ∧ t.tlb = s.tlb.filter (fun e => !e.inRange ctx va len) ∧
        t.walks = s.walks.filter (fun e => !e.inRange ctx va len) ∧
        t.tlogFlash ++ t.tlog = s.tlogFlash ++ s.tlog ++ [r] ∧ r.kind = 2 ∧ r.sys = sys ∧ r.ctx = ctx ∧ r.rin = s.rin.toNat ∧
        r.va = va ∧ r.len = len ∧ s.sameBytes t) ∧
    (∀ core ctx va, core < 144 →
      let m := core / 24
      let levels := passedLevels s (s.walkCache m ctx va) va 0 (((s.ctx? ctx).map (·.root)).getD 0) 4
      let logs := fun (t : State) (size : Nat) => t.tlogFlash ++ t.tlog =
        s.tlogFlash ++ s.tlog ++ [⟨3, 0xFF, ctx, s.rin.toNat, va / size * size, 0, BitVec.ofNat 64 core⟩]
      (levels = [] → exec (.tlbParityRefetch (256 + core) ctx va) s = .next s) ∧
      (levels ≠ [] → ∃ t, exec (.tlbParityRefetch (256 + core) ctx va) s = .next t ∧ s.sameBytes t ∧ t.tlb = s.tlb ∧
        ∃ level ∈ levels, t.walkCache m ctx va level = none ∧ logs t (2 ^ levelShift level) ∧
          ∀ other, other ≠ m → ∀ c v l, t.walkCache other c v l = s.walkCache other c v l) ∧
      let hit := fun (e : TlbEnt) =>
        decide (e.core = core) && decide (e.ctx = ctx) && decide (e.page = if e.big then va / 2 ^ 21 else va / 2 ^ 16)
      let kept := { s with tlb := s.tlb.filter fun e => !hit e }
      let old := s.tlb.find? hit
      (kept.walk core ctx va = none → old = none → exec (.tlbParityRefetch core ctx va) s = .next s) ∧
      (∀ e, kept.walk core ctx va = none → old = some e →
        ∃ t, exec (.tlbParityRefetch core ctx va) s = .next t ∧ s.sameBytes t ∧ t.tlb = kept.tlb ∧ logs t (if e.big then 2 ^ 21 else 2 ^ 16)) ∧
      (∀ leaf big, kept.walk core ctx va = some (leaf, big) →
        ∃ t, exec (.tlbParityRefetch core ctx va) s = .next t ∧ s.sameBytes t ∧
          t.tlb.getLast? = some ⟨core, ctx, if big then va / 2 ^ 21 else va / 2 ^ 16, big, leaf⟩ ∧
          t.leafFor core ctx va = some (leaf, big) ∧ logs t (if (old.map (·.big)).getD big then 2 ^ 21 else 2 ^ 16)))

/-- R205 to R207 and R326: the events of a copy. `k` is the step in which its element groups have moved, as work of the command. -/
def Obligations.CopyEventsMoveTheirGroups : Prop :=
  ∀ (tag : BitVec 6) (s : State) (c : Cmd) (b : CopyBody) (p : Nat), s.strand.live = true →
    let t := s.strand
    let sid := t.sid
    let total := groupsOf b (t.slabOf b)
    let w : Work := { s.work with src := c.uid }
    let bit : W64 := BitVec.ofNat 64 (2 ^ tag.toNat)
    let becomes := fun (u : State) (k : Work) (body : CmdBody) =>
      u.cmds = k.st.cmds.map (fun e => if e.uid = c.uid then { e with body := body } else e) ∧
      ∀ g, u.memOf g = (s.commit k).memOf g
    (s.copyOn sid tag.toNat = some c → c.body = .copy tag.toNat b p none .moving → c.mayMove s = true → ∀ k n, k.absent = false →
      (moveFrom b total w p (total + 1 - p) = (k, n, .landed) →
        ∃ u, exec (.copyLand sid tag) s = .next u ∧ u.strand = { k.cur with tags := k.cur.tags ||| bit } ∧
          becomes u k (.copy tag.toNat b n none .landed)) ∧
      (∀ f, moveFrom b total w p (total + 1 - p) = (k, n, .fault f) →
        ∃ u, exec (.copyFault sid tag) s = .next u ∧
          u.strand = { k.cur with deliver := k.cur.deliver ++ [⟨false, tag.toNat, f.code, f.sub, f.tval, true, none⟩] } ∧
          becomes u k (.copy tag.toNat b n (some f) .moving)) ∧
      (∀ va, moveFrom b total w p (total + 1 - p) = (k, n, .poison va) →
        ∃ u, exec (.copySourcePoison sid tag) s = .next u ∧
          u.strand = { k.cur with
            tags := k.cur.tags ||| bit,
            deliver := k.cur.deliver ++ [⟨false, tag.toNat, 6, 0, BitVec.ofNat 64 va, false, none⟩] } ∧
          becomes u k (.copy tag.toNat b n none .landed)) ∧
      (∀ g addr, g < total → p ≤ g →
        ((b.runs g (t.slabOf b)).any fun r => decide (r.src ≤ addr) && decide (addr < r.src + r.len)) = true →
        moveFrom b g w p (g + 1 - p) = (k, n, .landed) →
        ∃ u, exec (.copySourceError sid tag ⟨g, addr⟩) s = .next u ∧
          u.strand = { k.cur with
            tags := k.cur.tags ||| bit,
            deliver := k.cur.deliver ++
              [⟨false, tag.toNat, 5, 0, BitVec.ofNat 64 addr, false, some (sourceSite w b.srcSp addr)⟩] } ∧
          becomes u k (.copy tag.toNat b n none .landed))) ∧
    (∀ port bytes k, s.copyOn sid tag.toNat = some c → c.body = .copy tag.toNat b p none .asked → k.absent = false →
      (s.port port).usable = true → (s.port port).safeTier = false →
      moveWith { (s.work.mod fun x => x.received port bytes.length) with src := c.uid } b p bytes = .ok k →
      ∃ u, exec (.jeoreCopyReadData port ⟨sid, tag⟩ bytes) s = .next u ∧ u.strand = k.cur ∧
        becomes u k (.copy tag.toNat b (p + 1) none .moving)) ∧
    ((s.cmds.find? fun e => decide (e.gid * 4 + e.sidx = sid) && (match e.body with
        | .copy x _ _ _ st => decide (x = tag.toNat) && decide (st = .landed)
        | _ => false)) = some c →
      ∃ u, exec (.copyPerformed sid tag) s = .next u ∧ u.cmds = s.cmds.filter fun e => decide (e.uid ≠ c.uid))

/-- R212, R221, R222, R228, R229, R326 and R398: the events of atomics and puts of the strand in front. -/
def Obligations.AtomicEventsPerform : Prop :=
  ∀ (s : State) (c : Cmd) (pa : Nat), s.strand.live = true → (∀ t ∈ s.strands, t.pend = []) → pa < 384 * 2 ^ 30 →
    s.undoF.length < Config.undoCapF →
    let t := s.strand
    let gone := s.cmds.filter fun e => decide (e.uid ≠ c.uid)
    (∀ (ch : BitVec 2) op wide va (b : W64), (s.oldestCmd t.sid fun e => e.isAtom ch.toNat) = some c → c.mayMove s = true →
      c.body = .atom op wide va pa none b false → (s.line false (pa / 64)).poison = false →
      let n := if wide then 8 else 4
      pa % n = 0 →
      let old := leNat (Mem.readN s.fm pa n)
      let new := atomNew op wide old b.toNat 0
      ∃ u, exec (.noreturnAtomicPerform t.sid ch) s = .next u ∧ u.cmds = gone ∧ s.sameBytesBut u .fm pa n ∧
        Mem.readN u.fm pa n = leBytes n (new.1.getD old) ∧ u.strand.nrflags[ch.toNat]'(ch.isLt) = t.nrflags[ch.toNat]'(ch.isLt) ||| new.2) ∧
    (∀ port r (old : W64) (fl : BitVec 5), (s.port port).usable = true → t.flight = .atomic r →
      ∃ u, exec (.jeoreAtomicResponse port ⟨t.sid, 0⟩ ⟨old, fl, 0⟩) s = .next u ∧ u.strand = { t with flight := .atomicDone r old fl } ∧
        s.sameBytes u) ∧
    (∀ port op wide va m (b old : W64) (fl : BitVec 5), (s.port port).usable = true → c.uid ≠ 0 → s.sentCmd c.uid = some c →
      c.gid * 4 + c.sidx = t.sid → c.ch < 4 → c.body = .atom op wide va pa (some m) b true →
      ∃ u, exec (.jeoreAtomicResponse port ⟨t.sid, c.uid⟩ ⟨old, fl, 0⟩) s = .next u ∧ u.cmds = gone ∧
        u.strand = t.noteFlags c.ch fl ∧ s.sameBytes u) ∧
    (∀ r (old : W64) (fl : BitVec 5), t.flight = .atomicDone r old fl → r.scan = none →
      let v : W64 := if r.wide || r.isF then old else (old.setWidth 32).signExtend 64
      exec (.atomicResponse t.sid) s = .next ((s.withStrand { t.raise fl with flight := .none }).wrote r.d v)) ∧
    (∀ p, (s.oldestCmd t.sid fun e => match e.body with
        | .put _ _ => true
        | _ => false) = some c → c.body = .put p false → c.mayMove s = true → s.work.putFree p = true → p.zero = true → p.rank < 8 →
      p.fill % 4 = 0 → putSite p p.fill = .mem .fm pa → (s.line false (pa / 64)).poison = false →
      let word := leNat (Mem.readN s.fm pa 4)
      let filled := setBits (word % 256) p.rank 1 1
      (word < 2 ^ 16 → bitAt word p.rank = false → filled ≠ 2 ^ p.nrank - 1 → s.carried c.uid = true →
        ∃ u, exec (.cmbputPerform t.sid) s = .next u ∧ u.cmds = gone ∧ s.sameBytesBut u .fm pa 4 ∧
          leNat (Mem.readN u.fm pa 4) = filled + 256 * setBits (word / 256) p.rank 1 1) ∧
      (bitAt word p.rank = true → p.home = none → p.hdr + 64 ≤ 384 * 2 ^ 30 →
        let bad := (s.line false ((p.hdr + 12) / 64)).poison
        (bad = false → ∃ u, exec (.cmbputPerform t.sid) s = .next u ∧ u.cmds = gone ∧ s.sameBytesBut u .fm (p.hdr + 12) 4 ∧
          leNat (Mem.readN u.fm (p.hdr + 12) 4) = (leNat (Mem.readN s.fm (p.hdr + 12) 4) + 1) % 2 ^ 32) ∧
        (bad = true → s.carried c.uid = true → ∃ u, exec (.cmbputPerform t.sid) s = .next u ∧ u.cmds = gone ∧ s.sameBytes u ∧
          u.strand.deliver = t.deliver ++ [⟨true, c.ch, 6, 0, BitVec.ofNat 64 (p.hva + 12), false, none⟩])))

/-- R190 to R196, R351, R356 and R357: the events of a Heath command. The model's own readings: an error event of a query that scans no bank
changes nothing (log 52), a slot is present or missing for a channel as a whole (log 34), and FLAGS is the OR of what the outputs raise (log 29). -/
def Obligations.HeathEventsComplete : Prop :=
  ∀ (s : State) (tag : BitVec 6) (c : HCmd), s.strand.live = true → (∀ t ∈ s.strands, t.pend = []) →
    s.heathCmd s.strand.sid tag.toNat = some c →
    (∀ g ∈ s.groups, ∀ v, g.saved = some v → ∀ t ∈ v.strands, t.sid ≠ s.strand.sid) →
    let sid := s.strand.sid
    let done := fun (u : State) (status : Nat) => u.queries = s.queries.filter (fun e => decide (e.uid ≠ c.uid)) ∧
      u.strand.tags = s.strand.tags ||| BitVec.ofNat 64 (2 ^ tag.toNat) ∧
      let h := u.strand.hqstat.toNat
      bitsAt h 20 6 = tag.toNat ∧ bitsAt h 8 8 = status ∧ bitsAt h 32 8 = bitsAt s.strand.hqstat.toNat 32 8 - 1 ∧
      bitAt h 0 = (bitAt s.strand.hqstat.toNat 0 || decide (status = 3 ∨ status = 4))
    let owes := fun (u : State) (l : List (Nat × W64)) =>
      u.strand.deliver = s.strand.deliver ++ l.map fun e => ⟨false, tag.toNat, e.1, 0, e.2, false, none⟩
    (c.ready s = true →
      (∀ kind b fw off bad, c.body = .query kind b fw 0 .issued off bad →
        let present := kind.slotted b.red = true → ∀ ch ∈ targetChans c b, (s.slotIn c.ctx ch b.slot).isSome = true
        (present → exec (.heathSlotCheck sid tag) s = .next (s.setHeath { c with body := .query kind b fw 0 .slotOk off bad })) ∧
        (¬present → exec (.heathSlotCheck sid tag) s = .next (s.setHeath { c with body := .query kind b fw 0 .slotMissing off bad }))) ∧
      (∀ kind b fw status st off bad dev stop, c.body = .query kind b fw status st off bad → c.env = some (dev, stop) →
        (∀ x, s.ctx? c.ctx = some x → x.images = []) →
        (status ≠ 0 → status < 256 → dev % 32 = 0 → s.spAllowed { ctx := c.ctx } dev = true →
          ∃ u, exec (.heathReply sid tag) s = .next u ∧ done u status ∧ owes u [] ∧ s.sameBytesBut u .sp dev 32 ∧
          Mem.readN u.sp dev 32 = replyHeader status 0 0 b.touched 0 (2 ^ 32 - 1) 0 0) ∧
        (status = 0 → st = .slotMissing → dev % 32 = 0 → s.spAllowed { ctx := c.ctx } dev = true →
          ∃ u, exec (.heathReply sid tag) s = .next u ∧ done u 4 ∧ owes u [(0x0A, BitVec.ofNat 64 b.slot)] ∧ s.sameBytesBut u .sp dev 32 ∧
            Mem.readN u.sp dev 32 = replyHeader 4 0 0 b.touched 0 (2 ^ 32 - 1) 0 0) ∧
        (status = 0 → st.scans = true → ¬(kind = .ses ∧ b.offset = 0x7FC00000 ∧ st = .slotOk) →
          let recs := (List.range b.nrec).map (readRec s c b (fmtOf fw) bad (s.work.queryBytes c b st))
          let a := replyOf s.work kind b (fmtOf fw) off recs
          let n := a.payload.length
          let lines := (List.range b.nrec).flatMap fun q => badLines s bad (c.physical (b.ext + q * b.stride)) b.recb
          let banks := (lines.map fun l => heathBank (64 * l)).eraseDups
          let verdict := if a.nanout ≠ 0 then 3 else 0
          dev % 32 = 0 → n ≤ 65536 → (∀ j, j < 32 + n → s.spAllowed { ctx := c.ctx } (dev + j) = true) →
          ∃ u, exec (.heathReply sid tag) s = .next u ∧ done u verdict ∧
            owes u (if verdict = 3 then [(0x09, tag.setWidth 64)] else []) ∧ s.sameBytesBut u .sp dev (32 + n) ∧
            Mem.readN u.sp dev 32 = replyHeader verdict a.flags n b.touched banks.length ((leastOf banks).getD (2 ^ 32 - 1)) a.nanout a.off ∧
            Mem.readN u.sp (dev + 32) n = a.payload)) ∧
      (∀ st ch slot data, c.body = .bcast st ch slot data → data.length ≤ 1024 →
        ∃ u, exec (.hbcastLand sid tag) s = .next u ∧ done u 0 ∧ owes u [] ∧ s.sameBytes u ∧
          ∀ n, n < 1024 → bitAt st (n / 64) = true → bitAt ch (n % 64) = true →
            u.slotIn c.ctx n slot = some (data ++ List.replicate (1024 - data.length) 0)) ∧
      (∀ dst src len bad k n ok, c.body = .move dst src len → s.work.moveLines c dst src (len / 64) bad 0 = (k, n, ok) →
        ∃ u, exec (.hmoveDone sid tag bad) s = .next u ∧ u.hm = (s.commit k).hm ∧ u.fm = s.fm ∧ u.sp = s.sp ∧
          (ok = true → len / 64 ≤ n → done u 0 ∧ owes u []) ∧
          (ok = false → done u 3 ∧ owes u []) ∧
          (ok = true → n < len / 64 → u.queries = (s.setHeath { c with body := .move (dst + 64 * n) (src + 64 * n) (len - 64 * n) }).queries ∧
            u.strand = s.strand))) ∧
    (∀ b fw off bad, c.ready s = true → c.body = .query .ses b fw 0 .slotOk off bad → b.offset = 0x7FC00000 →
      let seen := s.work.recordBytes c b
      let recs := (List.range b.nrec).map (readRec s c b (fmtOf fw) bad seen)
      let spoilt := recs.any fun r => r.bad.any fun k => decide (k < b.lo)
      let o := if spoilt then 0x7FC00000 else sesOffset b (fun r l => recScore s b (fmtOf fw) r l) recs
      exec (.heathPass1Done sid tag) s = .next (s.setHeath { c with body := .query .ses b fw 0 (.pass2 seen) o bad })) ∧
    (∀ kind b fw st off bad pa, c.body = .query kind b fw 0 st off bad → st = .issued ∨ st = .slotMissing →
      exec (.heathBankError sid tag pa) s = .next s) ∧
    (∀ kind b fw st off bad pa q, c.body = .query kind b fw 0 st off bad → st.scans = true → q < b.nrec →
      (∀ j, j < q → overlap (pa / 32 * 32) (pa / 32 * 32 + 32) (c.physical (b.ext + j * b.stride))
        (c.physical (b.ext + j * b.stride) + b.recb) = false) →
      overlap (pa / 32 * 32) (pa / 32 * 32 + 32) (c.physical (b.ext + q * b.stride)) (c.physical (b.ext + q * b.stride) + b.recb) = true →
      ∃ u, exec (.heathBankError sid tag pa) s = .next u ∧ (u.line true (pa / 64)).poison = true ∧ s.sameBytes u ∧
        u.rcv.handed.contains (true, pa / 64) = true ∧
        (∀ e ∈ s.queries, e.uid = c.uid → { c with body := .query kind b fw 0 st off ((pa / 64) :: bad) } ∈ u.queries))

/-- R262 to R267, R285 and R286: the events that place, save and restore groups. The field that keeps a request is the model's own (log 4), and
that a request or a placement which may not take effect changes nothing is its choice (log 52). -/
def Obligations.GroupsArePlacedSavedAndRestored : Prop :=
  ∀ (core ctx gid : Nat) (s : State), let c := s.core core
    (s.stopped = true → exec .walkerPlace s = .next s) ∧
    (s.stopped = false → ∀ w, s.work.walk = some w →
      ∃ t g kern new, exec .walkerPlace s = .next t ∧ kern ∈ s.kernels ∧ t.groups = s.groups ++ [g] ∧ g.place.gid = s.nextId ∧
        g.state = .assigned ∧ g.place.kid = kern.kid ∧ g.iter = kern.krec.indices kern.next ∧ t.parked = s.parked ++ new ∧
        ∀ u ∈ new, u.live = true ∧ u.g = g.place ∧ u.pc = kern.krec.entry ∧ u.unset = true ∧ u.status = 0 ∧ u.rx 15 = kern.krec.args) ∧
    (∀ i, (i = .preemptRequest core ctx ∨ i = .laneReclaimRequest core ctx) →
      (s.stopped = true → exec i s = .next (s.setCore { c with want := some ctx })) ∧
      (s.stopped = false → s.mayTake core ctx = false → exec i s = .next s) ∧
      (s.stopped = false → s.mayTake core ctx = true →
        (c.reclaim = .none → let vic := ((s.groupsOn core).head?.map (·.place.ctx)).getD 0
          exec i s = .next (if s.reclaimable core vic then s.mark core ctx vic else s.setCore { c with reclaim := .saving ctx vic })) ∧
        (∀ inc vic, c.reclaim = .split inc vic → exec i s = .next (s.setCore { c with reclaim := .clearing ctx inc vic })) ∧
        (c.reclaim ≠ .none → c.halves = none → exec i s = .next (s.setCore { c with want := some ctx })))) ∧
    (∀ vic, c.reclaim = .marked ctx vic →
      exec (.reclaimTimeout core) s = .next (s.setCore { c with reclaim := .saving ctx vic })) ∧
    (∀ vic, c.reclaim = .saving ctx vic → s.saveDue c = true →
      ∃ t, exec (.preemptSaveDone core) s = .next t ∧ (t.core core).owner = some ctx ∧ (t.core core).reclaim = .none ∧
        (∀ a, a < 2 ^ 22 → Mem.read t.sp (core * 2 ^ 22 + a) = 0) ∧
        ∀ g ∈ t.groups, g.place.core = core → g.place.ctx = vic → g.state = .preempted ∨ g.state = .done) ∧
    (∀ g v x, s.group? gid = some g → s.handsBack g = true → s.giveTo g = some v →
      ((s.core g.place.core).reclaim = .none ∨ ∃ i j, (s.core g.place.core).reclaim = .split i j) → s.ctx? g.place.ctx = some x →
      ∃ t y, exec (.laneWaitReturn gid) s = .next t ∧ t.ctx? g.place.ctx = some y ∧
        (v, g.place.core, (s.core g.place.core).cycle.toNat + 480000) ∈ y.refused) ∧
    (∀ g v, s.group? gid = some g → s.canReturn g = true → g.saved = some v →
      ∃ t, exec (.groupRestore gid) s = .next t ∧ t.cmds = s.cmds ++ v.cmds ∧ t.parked = s.parked ++ v.strands.map s.sampled ∧
        ∀ e ∈ t.groups, e.place.gid = gid → e.saved = none ∧ e.state ≠ .preempted)

/-- R143, R314, R331, R334 to R337, R342 to R346 and R374: the events of a seal, an error and the scrubber. The model's own readings: how a
joining module takes the domain's number and what becomes of modules that a lone one has asked in (log 58), that a seal whose COMMIT has gone
to another module is agreed, so that an ABORT undoes it no more (log 84), and a snapshot's slots, when its nonces are reserved and what its end
counts as not rebuilt (log 19). -/
def Obligations.SealsRunTheirPhases : Prop :=
  ∀ (module ns line : Nat) (n : W32) (heath : Bool) (s : State),
    let quiet := s.mayStop = true ∧ s.cmds = [] ∧ ∀ u ∈ s.strands, u.buf = [] ∧ u.pend = [] ∧ u.flight = .none
    let stops := fun (i : Instr) (now : W32) => ∃ t, exec i s = .next t ∧ t.rcv.sealing = some now.toNat ∧ t.rcv.resumed = false ∧
      (t.rcv.phase = .stopping ∨ t.rcv.phase = .writing) ∧
      (quiet → now = s.rin → t.rin = now + 1 ∧ t.rcv.phase = .writing ∧
        ∃ im, t.rcv.pending = some im ∧ im.interval = now.toNat)
    (s.sealable = true →
      (s.leads = true → stops .sealTimer s.rin ∧ (s.present.contains module = true → stops (.sealRequest module) s.rin)) ∧
      (s.leads = false → s.mayJoin = false → stops (.sealPrepare s.rin) s.rin)) ∧
    (s.mayJoin = true → (s.sealable = true → stops (.sealPrepare n) n) ∧
      (s.sealable = false → ∃ t, exec (.sealPrepare n) s = .next t ∧ t.rcv = { s.rcv with called := some n, asked := [] } ∧ s.sameBytes t)) ∧
    (s.rcv.phase ≠ .running → s.present.contains module = true →
      exec (.sealRequest module) s = .next { s.heard module with rcv := { s.rcv with nextRequest := true } }) ∧
    (s.rcv.phase = .writing → s.rcv.resumed = false →
      ∃ t, exec .sealResume s = .next t ∧ t.rcv = { s.rcv with resumed := true } ∧ t.rin = s.rin ∧ s.sameBytes t) ∧
    (s.rcv.phase = .writing → s.rcv.resumed = true → s.rcv.mustRoll = false → s.rcv.pending.isSome = true →
      s.handedNewer = none →
      ∃ t, exec .sealImagesDone s = .next t ∧ (∀ g a, g ≠ .fm → Mem.read (t.memOf g) a = Mem.read (s.memOf g) a) ∧
        (s.leads = false → t.rcv.phase = .ready) ∧
        (s.leads = true → t.rcv.readyFrom = s.domain.self :: s.rcv.readyFrom ∧
          t.rcv.phase = if s.sealWith.all (fun m => t.rcv.readyFrom.contains m) then .committing else .ready)) ∧
    (s.leads = true → s.rcv.sealing.isSome = true → s.sealWith.contains module = true → s.rcv.readyFrom.contains module = false →
      ∃ t, exec (.sealReady module) s = .next t ∧ t.rcv.readyFrom = module :: s.rcv.readyFrom ∧ s.sameBytes t) ∧
    (∀ im, s.rcv.pending = some im → (s.leads = true ∧ s.mayCommit = true ∨ s.leads = false ∧ s.rcv.phase = .ready) →
      let begins := s.rcv.snapAt.isSome && !s.rcv.snap && (s.rcv.snapFn.isNone || decide (s.safe.counter.toNat + 1245184 < 2 ^ 96))
      ∃ t, exec (.sealCommit ns) s = .next t ∧ t.rin = s.rin ∧ t.rcv.phase = .running ∧ t.rcv.sealed = some im.interval ∧
        t.rcv.committed = some im ∧ t.rcv.pending = none ∧ t.rcv.sealing = none ∧ t.mgmt.recovering = false ∧
        t.safe.counter = (if begins then s.safe.counter + 1245184 else s.safe.counter) ∧
        t.undoF = keepEntries im.interval begins s.undoF ∧ t.undoH = keepEntries im.interval begins s.undoH) ∧
    (s.leads = true → s.mayCommit = false → exec (.sealCommit ns) s = .next s) ∧
    (s.leads = true → s.rcv.sealing.isSome = true → s.rcv.phase ≠ .committing →
      let missing := s.sealWith.filter fun m => decide (m ≠ s.domain.self) && !s.rcv.readyFrom.contains m
      missing ≠ [] → ∃ t, exec .sealReadyTimeout s = .next t ∧ s.sameBytes t ∧
        (s.others ≠ [] → (∀ m ∈ missing, m ∈ t.rcv.silent) ∧ (s.rcv.committed.isSome = true → t.rcv.mustRoll = true)) ∧
        (s.others = [] → t.rcv.asked = [] ∧ t.rcv.silent = s.rcv.silent ∧ t.rcv.mustRoll = s.rcv.mustRoll)) ∧
    (∃ t, exec .sealAbort s = .next t ∧ s.sameBytes t ∧
      (s.agreed = true → t.rcv = s.rcv) ∧
      (s.agreed = false → s.mayJoin = true → s.rcv.asked = [] → t.rcv = { s.rcv with called := none }) ∧
      (s.agreed = false → (s.mayJoin = false ∨ s.rcv.asked ≠ []) → s.rcv.committed.isSome = true → t.rcv.mustRoll = true)) ∧
    (s.leads = false → ∃ t, exec .coordinatorTimeout s = .next t ∧ t.rcv.silent = s.coordinator :: s.rcv.silent ∧ s.sameBytes t) ∧
    (s.rcv.committed = none → s.mgmt.booted.isSome = true → s.mgmt.sysOn ≠ 0 →
      ∃ t im, exec .initialSeal s = .next t ∧ t.rin = s.rin + 1 ∧ t.rcv.committed = some im ∧ im.interval = s.rin.toNat ∧
        t.rcv.sealed = some s.rin.toNat ∧ t.rcv.phase = .running ∧ t.mgmt.vfsExposed = true) ∧
    (s.rcv.snap = true → s.safePath = true → ∃ t, exec .snapshotStreamEnd s = .next t ∧ t.rcv.snap = false ∧ t.rcv.snapFn = none ∧
      t.rcv.snapBad = s.unrebuildable ∧ t.rcv.tier.isSome = s.rcv.snapAt.isSome ∧
      (∀ u ∈ t.undoF ++ t.undoH, u.retained = false) ∧ s.sameBytesBut t .host s.safe.base (1245184 * slotLen) ∧
      (s.safe.hostForm = true → ∀ p i, s.rcv.snapAt = some p → i < 196608 →
        Mem.readN t.host (s.safe.base + i * slotLen) slotLen =
          (⟨i, 0, i * 2 ^ 21, p.image.interval, s.rcv.snapNonce + 1 + i, Mem.readN p.fm (i * 2 ^ 21) (2 ^ 21)⟩ : SafeSlot).bytes)) ∧
    let saved := fun (u : Strand) => (u.epc, u.cause, u.tval, u.status, u.tslab, u.tstart, u.tcarry, u.tdone, u.carryAt)
    (s.strand.live = true → s.strand.ended = false → ∀ core bank addr mismatch,
      (s.rcv.committed = none ∨ s.persists (.bank core bank) = false → s.strand.buffering = true → s.strand.rewound = false →
        ∀ ck, s.strand.ckpt = some ck →
        ∃ t, exec (.ueConsumed s.strand.sid (.bank core bank) addr mismatch none) s = .next t ∧ t.strand.pc = s.strand.stripPc ∧
          t.strand.vslab = 0 ∧ t.strand.vstart = 0 ∧ t.strand.vl = ck.vl ∧ t.strand.vtype = ck.vtype ∧ t.strand.loop = ck.loop ∧
          saved t.strand = saved s.strand ∧ t.strand.fflags = ck.fflags ∧
          t.strand.buf = [] ∧ t.strand.rewound = true ∧ s.sameBytes t) ∧
      (s.strand.buffering = false → s.rcv.committed = none → s.strand.nest = false →
        TrapsAs (exec (.ueConsumed s.strand.sid (.bank core bank) addr mismatch none) s) s (if mismatch then 7 else 5) 0 addr)) ∧
    let newer := s.rcv.committed.isSome && s.rcv.handed.contains (heath, line) && (s.judged heath line).1.poison &&
      s.stampNewer (s.judged heath line).1.stamp
    (∃ t, exec (.scrubberVisit heath line .clean) s = .next t ∧ s.sameBytes t ∧ t.age (t.line heath line).stamp ≤ 96 ∧
      (96 < s.age (s.line heath line).stamp → t.age (t.line heath line).stamp = 96) ∧
      (t.line heath line).owner = (s.line heath line).owner ∧ (t.line heath line).poison = (s.line heath line).poison ∧
      (newer = true → t.rcv.mustRoll = true ∧ t.rcv.handed = s.rcv.handed) ∧
      (newer = false → t.rcv.mustRoll = s.rcv.mustRoll ∧ (heath, line) ∉ t.rcv.handed))

/-- R341: the rollback to the last committed seal. That it empties the translation caches, and what it keeps beside, is the model's reading (log 43),
and so is what it makes of a seal whose COMMIT has gone to another module (log 84) and of sleeping banks (log 85). -/
def Obligations.RollbackRestoresTheSeal : Prop :=
  ∀ (begun : List Nat) (s : State) (im : Image), s.rcv.committed = some im → s.agreed = false →
    (∀ u ∈ s.undoF ++ s.undoH, u.bad = false ∧ u.bytes.length = 64) → Mem.wf im.sp = true →
    let n := im.interval
    let sealedOf := fun (l : List Undo) (m : Mem) (a : Nat) =>
      match l.find? fun u => later u.interval n && decide (u.line = a / 64) with
      | some u => u.bytes.getD (a % 64) 0
      | none => Mem.read m a
    ∃ t, exec (.rollback begun) s = .next t ∧
      (∀ a, (∀ c ∈ s.ctxs ++ im.ctxs, ∀ p ∈ c.savePages ++ c.dumpPages, ¬(p ≤ a ∧ a < p + 2 ^ 21)) → Mem.read t.fm a = sealedOf s.undoF s.fm a) ∧
      (∀ a, Mem.read t.hm a = sealedOf s.undoH s.hm a) ∧
      ((∀ c ∈ s.ctxs ++ im.ctxs, s.lost c.num = true ∨ s.stands im c.num = true) → ∀ a, a < 144 * 2 ^ 22 →
        Mem.read t.sp a = Mem.read im.sp a ∨ ((s.core (a / 2 ^ 22)).banksOff.getLsbD (a / 128 % 32) = true ∧ Mem.read t.sp a = 0)) ∧
      t.host = s.host ∧
      t.strand.live = false ∧
      t.parked = ((im.strands.filter fun u => s.stands im u.g.ctx).map Strand.sealRecord ++
        s.strands.filter fun u => s.lost u.g.ctx).map s.sampled ∧
      t.rin = BitVec.ofNat 32 (begun.foldl (fun a b => if later b a then b else a) s.rin.toNat + 1) ∧
      t.hold = s.hold.filter (fun h => !later h.interval n) ∧ t.undoF = leftEntries n s.undoF ∧
      t.undoH = leftEntries n s.undoH ∧ t.tlb = [] ∧ t.walks = [] ∧ t.svcmode = 3 ∧ t.mgmt.recovering = true ∧
      t.rcv.phase = .running ∧ t.rcv.mustRoll = false ∧ t.rcv.rollbacks = min 255 (s.rcv.rollbacks + 1)

/-- R320, R322 to R324 and R326: the events of the links. The model's own choices: the layout of an atomic's answer and the places of a replay
buffer that others leave to the seal protocol (log 56), the writer's tag in a flit (log 42), and which of the modules that share a port is
answered (logs 10 and 18). -/
def Obligations.LinkEventsServe : Prop :=
  ∀ (port : Nat) (seq : BitVec 16) (s : State), (∀ t ∈ s.strands, t.pend = []) → let p := s.port port
    let rest := fun (n : BitVec 16) => p.replay.filter fun f => !seqLe f.seq n
    let backs := fun (inside : Bool) => match s.modulesOn port inside with
      | [] => [some port]
      | l => l.map fun (e : Bool × Nat) => s.primary e.1 e.2
    let answers := fun (inside : Bool) (t : State) (n : Nat) (l : List Flit) => some n ∈ backs inside ∧ t.sent = s.sent ++ l.map fun f => (n, f)
    let room := fun (inside : Bool) (flits : Nat) => ∀ b ∈ backs inside, ∃ n, b = some n ∧ (s.port n).usable = true ∧
      (s.port n).replay.length + flits ≤ 4032 ∧ ∀ f : Flit, f.dest ∈ (s.modulesOn port inside).map some → s.overtakes n f = false
    (p.usable = true → (∀ n, (s.port n).queue = []) →
      (∃ t, exec (.jeoreAck port seq) s = .next t ∧ t.port port = { p with replay := rest seq } ∧ t.sent = s.sent ∧ s.sameBytes t) ∧
      ((p.refusedSeq = seq + 1 → p.refusals + 1 < 16) →
        ∃ t, exec (.jeoreNak port seq) s = .next t ∧ s.sameBytes t ∧ (t.port port).replay = rest seq ∧
          t.sent = s.sent ++ (rest seq).map fun f => (port, f)) ∧
      ((p.rxRefusedSeq = p.rxSeq + 1 → p.rxRefusals + 1 < 16) →
        ∃ t f, exec (.jeoreFlitBad port) s = .next t ∧ s.sameBytes t ∧ t.sent = s.sent ++ [(port, f)] ∧ f.kind = 2 ∧
          f.ackSeq = p.rxSeq) ∧
      (∀ heath addr bytes owner, bytes ≠ [] → bytes.length ≤ 240 →
        let g := if heath then Tgt.hm else Tgt.fm
        (s.work.storeWait 64 0 (.mem g addr) bytes.length).isNone = true → (Site.mem g addr).exists? = true →
        ∃ t, exec (.jeoreRemoteWrite port heath addr bytes owner) s = .next t ∧ Mem.readN (t.memOf g) addr bytes.length = bytes ∧
          s.sameBytesBut t g addr bytes.length ∧ (t.line heath (addr / 64)).owner = owner ∧ (t.port port).rxSeq = p.rxSeq + 1) ∧
      (∀ op wide addr (b c : W64) sid uid owner, addr < 384 * 2 ^ 30 → s.undoF.length < Config.undoCapF →
        (s.line false (addr / 64)).poison = false → room true 1 →
        let n := if wide then 8 else 4
        let old := leNat (Mem.readN s.fm addr n)
        let new := atomNew op wide old (b.toNat % 2 ^ (8 * n)) (c.toNat % 2 ^ (8 * n))
        addr % n = 0 →
        ∃ t q f, exec (.jeoreAtomicRequest port op wide addr b c ⟨sid, uid⟩ ⟨owner, none⟩) s = .next t ∧ s.sameBytesBut t .fm addr n ∧
          Mem.readN t.fm addr n = leBytes n (new.1.getD old) ∧ answers true t q [f] ∧ f.kind = 5 ∧
          f.bytes = leBytes 8 old ++ leBytes 1 new.2.toNat ++ leBytes 1 0 ++ leBytes 8 sid ++ leBytes 8 uid) ∧
      (∀ (first : Nat × Nat) (more : List (Nat × Nat)), let reads := first :: more; let total := (reads.map (·.2)).sum
        total ≤ 2 ^ 20 → (∀ e ∈ reads, e.1 + e.2 ≤ 384 * 2 ^ 30) → room false (total / payloadRoom + 1) →
        ∃ (t : State) (q : Nat) (fs : List Flit), exec (.jeoreCopyReadRequest port first more) s = .next t ∧ answers false t q fs ∧
          (∀ f ∈ fs, f.kind = 7) ∧ fs.flatMap (·.bytes) = reads.flatMap (fun e => Mem.readN s.fm e.1 e.2) ∧ s.sameBytes t)) ∧
    (p.usable = true → ∃ t, exec (.linkLaneLost port) s = .next t ∧ (t.port port).state = .training ∧ s.sameBytes t) ∧
    (p.state = .training →
      (∀ wide, ∃ t, exec (.linkTrainingComplete port wide) s = .next t ∧
        (t.port port).state = if wide then .up else .degraded) ∧
      ∃ t, exec (.linkTrainingTimeout port) s = .next t ∧ (t.port port).fails = min 3 (p.fails + 1) ∧
        (t.port port).state = if 3 ≤ p.fails + 1 then .retired else .down) ∧
    exec .hostLinkDown s = .next { s with hostUp := false } ∧
    ∃ t, exec .hostLinkUp s = .next t ∧ t.hostUp = true ∧ t.fm = s.fm ∧ t.hm = s.hm ∧ t.sp = s.sp

/-- R358, R388 to R390 and R396: the events of bring-up, power and heat. The model's own choices: that a boot brings images into the flash slots
(log 8), that a unit starts only behind those of earlier times and the system cores behind all (log 74), that a start out of turn changes nothing
(log 52), how far a throttle lowers BUDGET (log 10), what lies outside the module at a shutdown (log 46), and a flash record's form (log 63). -/
def Obligations.BringUpAndHeat : Prop :=
  ∀ (newA newB : Option BootSlot) (watts core k : Nat) (s : State), let m := s.mgmt
    let a := newA.getD m.flashA
    let b := newB.getD m.flashB
    let ok := fun (x : BootSlot) => x.good = true ∧ m.fuse ≤ x.version
    (m.booted = none → m.bootFail = false →
      (ok a → ∃ t, exec (.moduleBoot newA newB) s = .next t ∧ t.mgmt.booted = some a ∧ t.mgmt.slotB = false ∧ t.mgmt.fuse = a.version) ∧
      (¬ok a → ok b → ∃ t, exec (.moduleBoot newA newB) s = .next t ∧ t.mgmt.booted = some b ∧ t.mgmt.slotB = true ∧
        t.mgmt.fuse = b.version) ∧
      (¬ok a → ¬ok b → exec (.moduleBoot newA newB) s = .next { s with mgmt := { m with flashA := a, flashB := b, bootFail := true } })) ∧
    (m.booted.isSome = true →
      let before := fun (time : Nat) => (∀ j, j < 16 → 2 * j < time → m.stacksOn.getLsbD j = true) ∧
        ∀ j, j < 6 → 5 * j < time → m.meadowsOn.getLsbD j = true
      let first := fun (t : State) => t.mgmt.hubOn = true ∧ t.mgmt.stacksOn.getLsbD 0 = true ∧ t.mgmt.meadowsOn.getLsbD 0 = true
      (k < 16 → before (2 * k) → ∃ t, exec (.unitStart (.heathStack k)) s = .next t ∧ t.mgmt.stacksOn.getLsbD k = true ∧
        (∀ j, j ≠ k → t.mgmt.stacksOn.getLsbD j = m.stacksOn.getLsbD j) ∧ (k = 0 → first t)) ∧
      (k < 6 → before (5 * k) → ∃ t, exec (.unitStart (.meadow k)) s = .next t ∧ t.mgmt.meadowsOn.getLsbD k = true ∧
        (∀ j, j ≠ k → t.mgmt.meadowsOn.getLsbD j = m.meadowsOn.getLsbD j) ∧ (k = 0 → first t)) ∧
      (before 31 → exec (.unitStart .systemCores) s = .next { s with mgmt := { m with sysOn := 0xFF } }) ∧
      (¬before 31 → exec (.unitStart .systemCores) s = .next s)) ∧
    exec (.matrixIdle core) s = .next (s.setCore { s.core core with matBusy := false, matSlabs := 0 }) ∧
    (∃ t, exec (.heathGovernorWindow watts) s = .next t ∧ t.mgmt.budget = m.budget ∧
      (m.budget.toNat < watts → t.mgmt.duty.toNat = m.duty.toNat - 1) ∧
      (m.budget.toNat ≥ watts → 10 * watts < 9 * m.budget.toNat → t.mgmt.duty.toNat = min 7 (m.duty.toNat + 1)) ∧
      (m.budget.toNat ≥ watts → 10 * watts ≥ 9 * m.budget.toNat → t.mgmt.duty = m.duty) ∧
      (t.mgmt.duty = 7 → t.mgmt.throt = m.throt) ∧
      (t.mgmt.duty ≠ 7 → t.mgmt.throt.toNat = min 65535 (m.throt.toNat + 1))) ∧
    (∃ t, exec .thermalThrottle s = .next t ∧ t.mgmt.hot = true ∧ t.mgmt.budget.toNat ≤ m.budget.toNat ∧
      (150 ≤ m.budget.toNat → 150 ≤ t.mgmt.budget.toNat) ∧ s.sameBytes t) ∧
    (∃ t, exec .thermalShutdown s = .next t ∧ t.ctxs = [] ∧ t.groups = [] ∧ t.strand.live = false ∧ t.parked = [] ∧
      (∀ x, x < 384 * 2 ^ 30 → Mem.read t.fm x = 0) ∧ (∀ x, x < 2 ^ 41 → Mem.read t.hm x = 0) ∧
      (∀ x, x < 144 * 2 ^ 22 → Mem.read t.sp x = 0) ∧ t.host = s.host ∧ t.slotText = s.slotText ∧ t.tlogFlash = s.tlogFlash ∧
      t.mgmt.fuse = m.fuse ∧ t.mgmt.flashA = m.flashA ∧ t.mgmt.flashB = m.flashB ∧ t.mgmt.divergeLog = m.divergeLog ∧
      t.mgmt.faultLog = m.faultLog ++ [0x115])

namespace Sys2Proof.Machine

/-- A command that a function has started and that has no status yet (R392). -/
def State.started (s : State) (fn opc : Nat) (f : Fn) (c : HostCmd) : Prop :=
  s.fn? fn = some f ∧ f.cmd = some c ∧ c.opc = opc ∧ c.status = none

/-- The function once its command has an answer; `seals` says that the reply waits for the seal of the current interval (R393). -/
def Fn.answered (f : Fn) (c : HostCmd) (op : Option HostOp) (status : Nat) (reply : List Byte) (seals : Bool) (rin : W32) : Fn :=
  { f with cmd := some { c with again := op, status := some status, reply := reply, sealAt := if seals then some rin.toNat else none } }

end Sys2Proof.Machine

/-- R43, R271, R372 and R391 to R395: the commands that change no context. The numbering of a tenant's dump slots over its contexts, and which
functions may read them, are the model's choice (log 31). -/
def Obligations.CommandsStartAndReply : Prop :=
  ∀ (fn len buf : Nat) (opc : BitVec 16) (seq : W32) (page : CmdParam) (v : W64) (nonce : List Byte) (f : Fn) (c : HostCmd) (s : State),
    (s.hostUp = true → fn ≤ 16 → (fn = 0 ∨ s.mgmt.vfsExposed = true) →
      let g := (s.fn? fn).getD { num := fn }
      (g.busy = true → ∃ t, exec (.cmdregWrite fn opc seq page v) s = .next t ∧ t.fn? fn = some { g with overrun := true }) ∧
      (g.busy = false → ∃ t, exec (.cmdregWrite fn opc seq page v) s = .next t ∧ t.fn? fn = some
        { g with seq := BitVec.ofNat 32 (v.toNat / 2 ^ 32), busy := true, hdrOpc := opc, hdrSeq := seq, hdrLen := page.len,
                 param := page.bytes.take 1984,
                 cmd := some (startCmd s.mgmt.bootFail opc.toNat seq.toNat page.len.toNat (v.toNat / 2 ^ 32)) })) ∧
    (∀ st, s.fn? fn = some f → f.cmd = some c → c.status = some st → c.sealAt.all s.sealedUpTo = true →
      ∃ t, exec (.commandReply fn) s = .next t ∧ s.sameBytes t ∧
        t.fn? fn = some { f with status := BitVec.ofNat 32 st, rseq := f.hdrSeq, rlen := BitVec.ofNat 32 c.reply.length,
                                    reply := c.reply, busy := false, last := st,
                                    msix := f.msix + 1, cmd := none } ∧
        (c.opc = 0x40 → st = 0 → t.mgmt.ranRoot = true)) ∧
    (s.started fn 0x01 f c → ∃ t, exec (.identify fn) s = .next t ∧ s.sameBytes t ∧
      t.fn? fn = some (f.answered c none 0 s.identity false s.rin)) ∧
    (s.started fn 0x02 f c → nonce.length = 32 → 8192 ≤ len → ∃ t, exec (.attest fn nonce buf len) s = .next t ∧
      Mem.readN t.host buf (s.report nonce).length = s.report nonce ∧ s.sameBytesBut t .host buf (s.report nonce).length ∧
      t.fn? fn = some (f.answered c none 0 (leBytes 8 (s.report nonce).length) false s.rin)) ∧
    (s.started fn 0x60 f c → ∀ tenant slot, (s.readsDumps fn tenant = false →
        ∃ t, exec (.readDump fn tenant (some slot) false buf) s = .next t ∧ s.sameBytes t ∧ t.fn? fn = some (f.answered c none 4 [] false s.rin)) ∧
      (s.readsDumps fn tenant = true →
      (∀ d, (s.tenantDumps tenant)[slot]? = some (some d) → ∃ t, exec (.readDump fn tenant (some slot) false buf) s = .next t ∧
        Mem.readN t.host buf d.bytes.length = d.bytes ∧ s.sameBytesBut t .host buf d.bytes.length ∧
        t.fn? fn = some (f.answered c none 0 (leBytes 8 d.bytes.length) false s.rin)) ∧
      ((s.tenantDumps tenant)[slot]? = some none → ∃ t, exec (.readDump fn tenant (some slot) false buf) s = .next t ∧
        s.sameBytes t ∧ t.fn? fn = some (f.answered c none 6 [] false s.rin)))) ∧
    (s.mgmt.test = true → s.mgmt.replay = none → s.mgmt.captured ≠ [] →
      let k := if s.mgmt.capture then s.capture 0 .stop else s
      ∃ t, exec .replayStart s = .next t ∧ t.mgmt.replay = some (expected k.mgmt.captured) ∧ t.mgmt.captured = k.mgmt.captured ∧
        t.mgmt.inputs = k.mgmt.captured.filter isInput ∧ t.mgmt.capture = false ∧ t.mgmt.diverged = false ∧ s.sameBytes t)

/-- R256, R259, R271, R275, R311, R316, R339, R346, R350, R393 and R394: the commands on contexts. -/
def Obligations.ContextCommandsAct : Prop :=
  ∀ (fn ctx va host len : Nat) (f : Fn) (c : HostCmd) (x : Ctx) (s : State),
    let answers := fun (i : Instr) (op : HostOp) (reply : List Byte) (holds : State → Prop) =>
      ∃ t, exec i s = .next t ∧ t.fn? fn = some (f.answered c (some op) 0 reply true s.rin) ∧ holds t
    let mine := s.ctx? ctx = some x ∧ x.fn = fn
    (∀ p, s.started fn 0x10 f c → c.again = none → ctxOk p = true → s.capturable p = true →
      (s.ctxs.filter fun e => decide (e.state ≠ .free)).length < 64 → p.shares.length ≤ s.freeQueues.length →
      (∀ e ∈ s.ctxs, e.num = p.num → e.state = .free) →
      answers (.createContext fn p) (.create p) [BitVec.ofNat 8 p.num] fun t =>
        (∀ g a, (g = .fm → ∀ q ∈ p.savePages ++ p.dumpPages, ¬(q ≤ a ∧ a < q + 2 ^ 21)) →
          Mem.read (t.memOf g) a = Mem.read (s.memOf g) a) ∧
        ∃ y, t.ctx? p.num = some y ∧ y.state = .created ∧ y.fn = fn ∧ y.tenant = p.tenant ∧ y.prio = p.prio ∧ y.gmax = p.gmax ∧
          y.queues = s.freeQueues.take p.shares.length ∧ y.inc = s.nextInc p.num ∧ y.tvec = p.tvec &&& (BitVec.allOnes 64 - 63)) ∧
    (s.started fn 0x11 f c → mine →
      (x.state = .created ∨ x.state = .idle ∨ x.state = .stopped ∨ x.state = .live →
        answers (.destroyContext fn ctx) (.destroy ctx false) [] fun t =>
          (∃ y, t.ctx? ctx = some y ∧ y.state = .ending) ∧ ∀ q ∈ t.queues, q.ctx ≠ ctx) ∧
      (x.state = .ended → c.redo = false →
        answers (.destroyContext fn ctx) (.destroy ctx true) [] fun t => t.ctx? ctx = none ∧ (∀ q ∈ t.queues, q.ctx ≠ ctx) ∧
          ((∀ k ∈ s.cores, ∀ inc, k.reclaim ≠ .split inc ctx) → s.sameBytes t))) ∧
    (s.started fn 0x12 f c → mine → (x.state = .live ∨ x.state = .idle) → s.mayForce ctx = true →
      answers (.stopContext fn ctx) (.stop ctx) [] fun t => ∃ y, t.ctx? ctx = some y ∧ y.state = .stopped) ∧
    (s.started fn 0x13 f c → mine → x.state = .stopped →
      answers (.resumeContext fn ctx) (.resume ctx) [] fun t => s.sameBytes t ∧
        ∃ y, t.ctx? ctx = some y ∧ y.state = (if s.groups.any (fun g => decide (g.place.ctx = ctx)) then .live else .idle)) ∧
    (∀ p a slot, s.started fn 0x20 f c → mine → p.ctx = ctx → p.addrs = [a] → mapOk p = true → x.state ≠ .free → x.state ≠ .ending →
      x.state ≠ .ended → leafSlot s p.big p.va 0 x.root 4 = some slot → slot % 8 = 0 → slot < 384 * 2 ^ 30 → s.undoF.length < Config.undoCapF →
      (p.region ≠ 1 ∨ (onStack p.stack [a] = true ∧ ∀ e ∈ s.resting, e.1 ≠ a)) → s.dumpSafe ctx p.region a p.wr = true → leafV (BitVec.ofNat 64 (leNat (Mem.readN s.fm slot 8))) = false →
      answers (.mapPages fn p) (.map p) [] fun t => Mem.readN t.fm slot 8 = leBytes 8 (leafOf p a).toNat ∧ s.sameBytesBut t .fm slot 8) ∧
    (∀ leaf slot, s.started fn 0x21 f c → mine → x.state ≠ .free → va % 2 ^ 16 = 0 → va + 2 ^ 16 ≤ 2 ^ 48 →
      walkFrom s noCache va 0 x.root 4 = some (leaf, false) → s.pinnedForGood leaf = false → (s.pageSt ctx (va / 2 ^ 21)).pins = 0 →
      (s.pageSt ctx (va / 2 ^ 21)).away = false → s.oldAccess ctx va (2 ^ 16) = false → (∀ t ∈ s.strands, t.buf = [] ∧ t.pend = []) →
      leafSlot s false va 0 x.root 4 = some slot → slot % 8 = 0 → slot < 384 * 2 ^ 30 → s.undoF.length < Config.undoCapF →
      answers (.unmapPages fn ctx va (2 ^ 16)) (.unmap ctx va (2 ^ 16)) [] fun t =>
        Mem.readN t.fm slot 8 = leBytes 8 0 ∧ s.sameBytesBut t .fm slot 8 ∧ (∀ e ∈ t.tlb, e.inRange ctx va (2 ^ 16) = false) ∧
        ∀ e ∈ t.walks, e.inRange ctx va (2 ^ 16) = false) ∧
    (∀ leaf big, s.started fn 0x30 f c → c.done = 0 → mine → x.state ≠ .free → x.state ≠ .ending → x.state ≠ .ended → 1 ≤ len →
      va % 2 ^ 16 + len ≤ 2 ^ 16 → va + len ≤ 2 ^ 48 → s.leafFor 144 ctx va = some (leaf, big) → leafREGION leaf = 0 →
      let pa := physOf leaf big va
      pa < 384 * 2 ^ 30 → s.undoF.length + len / 64 + 3 ≤ Config.undoCapF → s.undoH.length + len / 64 + 3 ≤ Config.undoCapH →
      answers (.hostImport fn ctx va host len) (.imported ctx va host len) [] fun t =>
        Mem.readN t.fm pa len = Mem.readN s.host host len ∧ s.sameBytesBut t .fm pa len) ∧
    (s.started fn 0x31 f c → mine → x.state ≠ .free → va + len ≤ 2 ^ 48 →
      (hostPieces s ctx va len false (len / 2 ^ 16 + 2)).isSome = true →
      answers (.hostExport fn ctx va host len) (.exported ctx va host len) [] s.sameBytes) ∧
    (∀ im ns, s.leads = true → s.mayCommit = true → s.rcv.pending = some im → s.fns = [f] → f.cmd = some c →
      c.again = some (.exported ctx va host len) → c.sealAt = some im.interval → s.hold = [] →
      (∀ j, j < len → (s.leafFor 144 ctx (va + j)).isSome = true) →
      ∃ t, exec (.sealCommit ns) s = .next t ∧
        (∀ j leaf big, j < len → s.leafFor 144 ctx (va + j) = some (leaf, big) →
          Mem.read t.host (host + j) = s.sealedByte im.interval (physOf leaf big (va + j))) ∧
        ∀ a, ¬(host ≤ a ∧ a < host + len) → Mem.read t.host a = Mem.read s.host a) ∧
    (∀ k, s.started fn 0x40 f c → mine → (x.state = .created ∨ x.state = .idle ∨ x.state = .live) → va < 2 ^ 48 →
      s.work.queueRoot x va = some (0, k) → k.absent = false → s.work.rootWaits x va = false →
      answers (.runRoot fn ctx va) (.runRoot ctx va) (leBytes 8 0) fun t => ∃ y, t.ctx? ctx = some y ∧ y.state = .live) ∧
    (s.started fn 0x50 f c → s.safe.configured = true → snapshotSlots ≤ s.safe.slots →
      s.safe.counter.toNat + snapshotSlots < 2 ^ 96 → s.rcv.snap = false → s.rcv.snapFn = none →
      ∃ t, exec (.snapshot fn none) s = .next t ∧ t.rcv.snapFn = some fn ∧ s.sameBytes t ∧
        (t.rcv.requested = true ∨ t.rcv.nextRequest = true ∨ s.rcv.phase = .stopping))

/-- R314, R323, R327, R346, R371, R394 and R396: the commands of physical function 0, and the reset of a function. That the reply page outlasts a
module reset is the model's choice (log 46), as is the host link's state then (log 5). -/
def Obligations.ManagementCommandsAct : Prop :=
  ∀ (fn : Nat) (f : Fn) (c : HostCmd) (s : State) (lp : LinkParams) (mp : MgmtParams),
    let answered := fun (t : State) (n st : Nat) => t.fn? n = some (f.answered c none st [] false s.rin)
    (fn ≠ 0 →
      (s.started fn 0x51 f c → ∃ t, exec (.restoreModule fn) s = .next t ∧ answered t fn 3 ∧ s.sameBytes t) ∧
      (s.started fn 0x70 f c → ∃ t, exec (.configureLinks fn lp) s = .next t ∧ answered t fn 3 ∧ t.map = s.map ∧ t.ports = s.ports) ∧
      (s.started fn 0x71 f c → ∃ t, exec (.configureManagement fn mp) s = .next t ∧ answered t fn 3 ∧ t.safe = s.safe) ∧
      (s.started fn 0x7F f c → ∃ t, exec (.resetModule fn) s = .next t ∧ answered t fn 3 ∧ s.sameBytes t)) ∧
    (s.started 0 0x70 f c →
      (linksOk lp s = false → ∃ t, exec (.configureLinks 0 lp) s = .next t ∧ answered t 0 2 ∧ t.ports = s.ports) ∧
      (linksOk lp s = true → ∃ t, exec (.configureLinks 0 lp) s = .next t ∧ answered t 0 0 ∧ t.map = s.map ∧
        (s.rcv.phase = .running → s.rcv.asked = [] → t.ports = (s.switchPorts lp).ports) ∧
        t.rcv.mapChange = if s.map = ⟨lp.self, lp.members, lp.externals⟩ then none else some ⟨lp.self, lp.members, lp.externals⟩)) ∧
    (s.started 0 0x71 f c → mgmtOk mp s = true → ∃ t, exec (.configureManagement 0 mp) s = .next t ∧ answered t 0 0 ∧
      t.safe.configured = true ∧ t.safe.hostForm = mp.hostForm ∧ t.safe.base = mp.base ∧
      t.safe.slots = (if mp.hostForm then mp.size / (2 ^ 21 + 64) else mp.slots) ∧ t.safe.counter = s.safe.counter ∧
      t.mgmt.capture = mp.capture ∧ t.mgmt.powerCap = mp.powerCap ∧ s.sameBytes t) ∧
    (∀ p, s.started 0 0x51 f c → s.rcv.tier = some p → s.stopped = false → s.safePath = true →
      (∀ e ∈ s.ctxs, e.state ≠ .live ∧ e.state ≠ .ending) → Mem.wf p.fm = true → Mem.wf p.hm = true →
      (s.mgmt.stacksOn ≠ 0xFFFF →
        ∃ t, exec (.restoreModule 0) s = .next t ∧ t.fn? 0 = some { f with cmd := some { c with again := some .restore } } ∧ s.sameBytes t) ∧
      (s.mgmt.stacksOn = 0xFFFF → ∃ t, exec (.restoreModule 0) s = .next t ∧ answered t 0 0 ∧
        (∀ a, a < 384 * 2 ^ 30 → Mem.read t.fm a = Mem.read p.fm a) ∧ (∀ a, a < 2 ^ 41 → Mem.read t.hm a = Mem.read p.hm a) ∧
        t.strand.live = false ∧ t.parked = [] ∧ ∀ e ∈ t.ctxs, e.state = .stopped ∨ e.state = .ending ∨ e.state = .ended ∨ e.state = .free)) ∧
    (∀ x, s.started fn 0x7F f c → s.ctxs.filter (fun e => decide (e.fn = fn)) = [x] → s.ctx? x.num = some x →
      (x.state = .created ∨ x.state = .idle ∨ x.state = .stopped ∨ x.state = .live) →
      ∃ t y, exec (.resetFunction fn) s = .next t ∧ answered t fn 0 ∧ t.ctx? x.num = some y ∧ y.state = .ending) ∧
    (s.started 0 0x7F f c → ∃ t, exec (.resetModule 0) s = .next t ∧ t.ctxs = [] ∧ t.parked = [] ∧ t.hostUp = false ∧
      (∀ a, a < 384 * 2 ^ 30 → Mem.read t.fm a = 0) ∧ t.fns = [{ num := 0, rseq := f.hdrSeq, msix := f.msix + 1 }])

/-- What the tables of registers give for reset (Tables 2.3, 5.21, 5.22, 17.2, 18.1, 19.5, 20.3). That the host link is down and that
memory lists nothing, so that every byte reads 0, are choices of the model (logs 5 and 2), and so is the 0 of the x registers of a strand that
is not live (log 3). The memories are in canonical form: the
invariant of `Obligations.StepKeepsMemoriesCanonical` holds after reset. -/
def Obligations.ResetLeaves : Prop :=
  let s := State.reset
  s.memWf = true ∧
  s.svcmode = 1 ∧ s.rin = 0 ∧ s.rcv.period = 2000 ∧ s.rcv.phase = .running ∧ s.rcv.committed = none ∧ s.rcv.rollbacks = 0 ∧
  s.ctxs = [] ∧ s.groups = [] ∧ s.queues = [] ∧ s.kernels = [] ∧ s.cmds = [] ∧ s.queries = [] ∧ s.hold = [] ∧
  s.undoF = [] ∧ s.undoH = [] ∧ s.tlog = [] ∧ s.hberr = [] ∧
  (∀ n, (s.port n).state = .down) ∧ s.hostUp = false ∧
  s.mgmt.budget = 600 ∧ s.mgmt.duty = 7 ∧ s.mgmt.throt = 0 ∧ s.mgmt.vfsExposed = false ∧
  s.strand.live = false ∧ s.parked = [] ∧ s.strand.vtype = 0x8000000000000000 ∧ s.strand.status = 0 ∧ s.strand.tags = 0 ∧
  (∀ r, s.strand.rx r = 0) ∧
  (∀ n, (s.core n).cycle = 0 ∧ (s.core n).trcEn = 0x3F ∧ (s.core n).lanes = 0xFFFF ∧ (s.core n).mxok = true) ∧
  ∀ g a, Mem.read (s.memOf g) a = 0

/-- Equal memories stay equal data: the canonical form is kept by every step from every state. -/
def Obligations.StepKeepsMemoriesCanonical : Prop :=
  ∀ (s t : State), s.memWf = true → step s = .next t → t.memWf = true

/-- R86 to R101: no bit of an encoding is dropped, over every row of the opcode table that is a word. -/
def Obligations.DecodeOfEncode : Prop :=
  ∀ (i : Instr), i.isWord = true → i.wf = true → decode (encode i) = .ok i

/-- The worked encodings that the spec prints beside Tables 5.8, 6.2 to 6.6, 7.3 to 7.14, 8.2 to 8.6 and 9.3 to 9.12. -/
def Obligations.TableWordsDecode : Prop :=
  decode 0x02531C00 = .ok (.add 5 6 7) ∧
  decode 0x05E01000 = .ok (.addi 30 0 0x1000) ∧
  decode 0x1094C003 = .ok (.srai 9 9 3) ∧
  decode 0x14900002 = .ok (.lpc 9 2) ∧
  decode 0x16A5B023 = .ok (.fdiv 10 11 12 1) ∧
  decode 0x184298E0 = .ok (.fmadd 4 5 6 7 0) ∧
  decode 0x2E008000 = .ok (.jalr 0 1 0) ∧
  decode 0x31479800 = .ok (.ldD 20 15 0 0) ∧
  decode 0x3271D002 = .ok (.stW 7 3 2 2) ∧
  decode 0x38500C04 = .ok (.csrr 5 0xC04) ∧
  decode 0x3A000001 = .ok .tret ∧
  decode 0x3A0000E2 = .ok (.brk 7) ∧
  decode 0x4095000A = .ok (.vlset 9 10 2 2) ∧
  decode 0x44801200 = .ok (.vfma false 8 0 4 16 0) ∧
  decode 0x48110E30 = .ok (.vceq false 1 2 3 17 2) ∧
  decode 0x50610242 = .ok (.vmaxic false 6 2 18 0) ∧
  decode 0xD80A0004 = .ok (.vldm true 0 20 0) ∧
  decode 0x5A82B002 = .ok (.vstx false 8 5 12 0 0) ∧
  decode 0x60001200 = .ok (.tacc false 0 0 4 16) ∧
  decode 0x622A0001 = .ok (.mldT8 2 20) ∧
  decode 0x68415200 = .ok (.tdstep false 4 2 20 16 0) ∧
  decode 0x6D404050 = .ok (.hqDot 20 16 5) ∧
  decode 0x714AD830 = .ok (.cblkIn 20 21 22 3 0) ∧
  decode 0x75F96C14 = .ok (.cnestInT8 31 18 27 1 1) ∧
  decode 0x77E00403 = .ok (.cwaitAll 30) ∧
  decode 0x78029821 = .ok (.aaddDNoret 5 6 1) ∧
  decode 0x79284413 = .ok (.acasD 18 16 17 0) ∧
  decode 0x7A8A5601 = .ok (.cmbput 8 20 21 16 0) ∧
  decode 0x7C020400 = .ok (.sbar 1 2) ∧
  decode 0x7C530044 = .ok (.ldAcqD 5 6 2) ∧
  decode 0x7C95000B = .ok (.mbarArr 9 10) ∧
  decode 0x7D384A8F = .ok (.mwait 19 16 18 20) ∧
  decode 0x7D6AD010 = .ok (.qput 22 21 20)

/-- What `step` adds around `exec`: the choice of an event, or of a core and its strand (R39, R40), the fetch (R33), and the end of the
slab-cycle. `SLAB_CYCLE` as an instruction is the same for the core it names. -/
def Obligations.StepRunsTheDecodedInstruction : Prop :=
  (∀ (s : State) (core : Nat), s.timerStrand core = none → let r := s.raised core
    ∀ (o : Offer) (k k' t : State) (x : W32) (i : Instr), r.chosen core = some o → r.takeUp core o = some k →
      ((k.strand.snap = none ∧ ∃ w, k.work.fetch k.strand.pc = .ok (x, w) ∧ w.absent = false ∧ k' = w.st.enter x) ∨
        (∃ d, k.strand.snap = some d ∧ x = d.words.headD 0 ∧ k' = k)) →
      decodeRaw x = .ok i → exec i k' = .next t → (t.work.afterIssue r core o).absent = false →
      exec (.slabCycle core) s = .next (t.commit (t.work.afterIssue r core o)) ∧
      (core = s.focus → s.rollsAlone = false → s.agenda = [] → s.rcv.mustRoll = false →
        step s = .next (t.commit (t.work.afterIssue r core o)))) ∧
  (∀ (s : State) (core : Nat), s.timerStrand core = none → let r := s.raised core
    (∀ (o : Offer) (k : State) (x : W32) (d a b : Reg), r.chosen core = some o → r.takeUp core o = some k → k.strand.snap = none →
      ∀ w, k.work.fetch k.strand.pc = .ok (x, w) → w.absent = false → decodeRaw x = .ok (.add d a b) →
      let q := w.st.enter x
      let t := q.wrote d (q.strand.rx a + q.strand.rx b)
      (t.work.afterIssue r core o).absent = false →
      exec (.slabCycle core) s = .next (t.commit (t.work.afterIssue r core o))) ∧
    (r.chosen core = none → (r.work.engines.endCycle core [] none).absent = false →
      exec (.slabCycle core) s = .next (s.commit (r.work.engines.endCycle core [] none)))) ∧
  (∀ (s : State) (core sid : Nat), s.timerStrand core = some sid →
    exec (.slabCycle core) s = s.finish (s.work.onStrand sid Work.timerTrap)) ∧
  (∀ (s t : State) (i : Instr) (rest : List Instr), s.rollsAlone = false → s.agenda = i :: rest →
    exec i { s with agenda := rest } = .next t → t.work.aftermath.absent = false →
    step s = .next (t.commit t.work.aftermath)) ∧
  (∀ (s : State), s.rollsAlone = true → step s = s.finish (s.work.rollback []).aftermath) ∧
  ∀ (s : State), s.rollsAlone = false → s.agenda = [] → s.rcv.mustRoll = true → step s = .next s

/-- Checks 1 to 4 of Table 5.19 on a scalar word, and checks 1 to 4 and 6 on the words of a vector-class convoy, of which an earlier one is checked
fully before a later one (R103). -/
def Obligations.UndefinedWordsAreIllegal : Prop :=
  (∀ (x : W32) (s : State), s.strand.nest = false → vectorClass x.toNat = false →
    (decodeRaw x = .error .framing →
      (∀ l k, s.work.convoyWords x = .ok (l, k) → k.absent = false → TrapsAs (issueWord exec x s) s 1 2 s.strand.pc) ∧
      (∀ t, s.work.convoyWords x = .error t → TrapsAs (issueWord exec x s) s t.code t.sub t.tval)) ∧
    (decodeRaw x = .error .undefined → TrapsAs (issueWord exec x s) s 1 0 (x.setWidth 64)) ∧
    (decodeRaw x = .error .reserved → TrapsAs (issueWord exec x s) s 1 1 (x.setWidth 64)) ∧
    (chained x.toNat = true → decodeRaw x = .error .framing)) ∧
  ∀ (x : W32) (s : State), s.strand.nest = false → vectorClass x.toNat = true →
    (∀ t, s.work.convoyWords x = .error t → TrapsAs (issueWord exec x s) s t.code t.sub t.tval) ∧
    ∀ l k, s.work.convoyWords x = .ok (l, k) → k.absent = false →
      (mayChain x.toNat = true ∨ chained x.toNat = true ∨ ∃ e, decodeMember x = .error e) →
      (∀ n, badFrame 0 [] [] l = some n → TrapsAs (issueWord exec x s) s 1 2 (s.strand.pc + BitVec.ofNat 64 (4 * n))) ∧
      (badFrame 0 [] [] l = none → ∀ pre y post ps, l = pre ++ y :: post → placeAll s.strand pre s.strand.pc [] [] = .ok ps →
        (decodeMember y = .error .undefined → TrapsAs (issueWord exec x s) s 1 0 (y.setWidth 64)) ∧
        (decodeMember y = .error .reserved → TrapsAs (issueWord exec x s) s 1 1 (y.setWidth 64)) ∧
        (∀ i, decodeMember y = .ok i → i.wf = false → TrapsAs (issueWord exec x s) s 1 4 (y.setWidth 64)))

end
end

