-- ==== Sys2Proof/Laws/Memory.lean ====
section
/-! SUPPORT. The laws of canonical memories: a write is read back and leaves every other byte, every operation keeps the form,
and two memories in the form that read alike are equal. -/

namespace Sys2Proof.Machine

/-- The canonical form as two facts about the whole list. -/
theorem Mem.wf_iff (m : Mem) : m.wf = true ↔ (∀ c ∈ m, c.2 ≠ 0) ∧ m.Pairwise (fun c d => c.1 < d.1) := by
  induction m with
  | nil => simp [Mem.wf]
  | cons c rest ih =>
    obtain ⟨a, b⟩ := c
    cases rest with
    | nil => simp [Mem.wf]
    | cons d rest =>
      obtain ⟨a', b'⟩ := d
      simp only [Mem.wf, Bool.and_eq_true, decide_eq_true_eq, ih]
      constructor
      · rintro ⟨⟨hb, hlt⟩, hall, hp⟩
        refine ⟨?_, List.pairwise_cons.2 ⟨?_, hp⟩⟩
        · intro c hc
          rcases List.mem_cons.1 hc with rfl | hc
          · exact hb
          · exact hall c hc
        · intro c hc
          rcases List.mem_cons.1 hc with rfl | hc
          · exact hlt
          · exact Nat.lt_trans hlt ((List.pairwise_cons.1 hp).1 c hc)
      · rintro ⟨hall, hp⟩
        have hp' := List.pairwise_cons.1 hp
        exact ⟨⟨hall _ (List.mem_cons_self ..), hp'.1 _ (List.mem_cons_self ..)⟩,
          fun c hc => hall c (List.mem_cons_of_mem _ hc), hp'.2⟩

theorem cellsOf_mem (a : Nat) (bs : List Byte) (c : Host.Cell) (h : c ∈ cellsOf a bs) :
    c.2 ≠ 0 ∧ a ≤ c.1 ∧ c.1 < a + bs.length := by
  induction bs generalizing a with
  | nil => simp [cellsOf] at h
  | cons b rest ih =>
    simp only [cellsOf] at h
    split at h
    · obtain ⟨h0, h1, h2⟩ := ih (a + 1) h
      exact ⟨h0, by omega, by simp only [List.length_cons]; omega⟩
    · rename_i hb
      rcases List.mem_cons.1 h with rfl | h
      · exact ⟨hb, Nat.le_refl _, by simp only [List.length_cons]; omega⟩
      · obtain ⟨h0, h1, h2⟩ := ih (a + 1) h
        exact ⟨h0, by omega, by simp only [List.length_cons]; omega⟩

theorem cellsOf_sorted (a : Nat) (bs : List Byte) : (cellsOf a bs).Pairwise (fun c d => c.1 < d.1) := by
  induction bs generalizing a with
  | nil => simp [cellsOf]
  | cons b rest ih =>
    simp only [cellsOf]
    split
    · exact ih (a + 1)
    · exact List.pairwise_cons.2 ⟨fun c hc => (cellsOf_mem (a + 1) rest c hc).2.1, ih (a + 1)⟩

/-- A write keeps the canonical form. -/
theorem Mem.write_wf (m : Mem) (a : Nat) (bs : List Byte) (h : m.wf = true) : (m.write a bs).wf = true := by
  rw [Mem.wf_iff] at h ⊢
  obtain ⟨hz, hp⟩ := h
  simp only [Mem.write, Mem.below, Mem.above]
  refine ⟨?_, ?_⟩
  · intro c hc
    rcases List.mem_append.1 hc with hc | hc
    · exact hz c (List.mem_filter.1 hc).1
    · rcases List.mem_append.1 hc with hc | hc
      · exact (cellsOf_mem a bs c hc).1
      · exact hz c (List.mem_filter.1 hc).1
  · refine List.pairwise_append.2 ⟨hp.filter _, List.pairwise_append.2 ⟨cellsOf_sorted a bs, hp.filter _, ?_⟩, ?_⟩
    · intro c hc d hd
      have h1 := cellsOf_mem a bs c hc
      have h2 := (List.mem_filter.1 hd).2
      simp only [decide_eq_true_eq] at h2
      omega
    · intro c hc d hd
      have h1 := (List.mem_filter.1 hc).2
      simp only [decide_eq_true_eq] at h1
      rcases List.mem_append.1 hd with hd | hd
      · have := cellsOf_mem a bs d hd; omega
      · have h2 := (List.mem_filter.1 hd).2
        simp only [decide_eq_true_eq] at h2
        omega

/-- Clearing a range keeps the canonical form. -/
theorem Mem.clear_wf (m : Mem) (a n : Nat) (h : m.wf = true) : (m.clear a n).wf = true := by
  rw [Mem.wf_iff] at h ⊢
  obtain ⟨hz, hp⟩ := h
  simp only [Mem.clear, Mem.below, Mem.above]
  refine ⟨?_, List.pairwise_append.2 ⟨hp.filter _, hp.filter _, ?_⟩⟩
  · intro c hc
    rcases List.mem_append.1 hc with hc | hc <;> exact hz c (List.mem_filter.1 hc).1
  · intro c hc d hd
    have h1 := (List.mem_filter.1 hc).2
    have h2 := (List.mem_filter.1 hd).2
    simp only [decide_eq_true_eq] at h1 h2
    omega

theorem Mem.read_append (m n : Mem) (a : Nat) :
    Mem.read (m ++ n) a = if m.any (fun c => decide (c.1 = a)) then Mem.read m a else Mem.read n a := by
  induction m with
  | nil => simp
  | cons c rest ih =>
    obtain ⟨k, b⟩ := c
    by_cases hk : k = a
    · simp [Mem.read, hk]
    · simp [Mem.read, hk, ih]

theorem Mem.read_absent (m : Mem) (a : Nat) (h : ∀ c ∈ m, c.1 ≠ a) : Mem.read m a = 0 := by
  induction m with
  | nil => rfl
  | cons c rest ih =>
    obtain ⟨k, b⟩ := c
    have hk : k ≠ a := h (k, b) (List.mem_cons_self ..)
    simp only [Mem.read, hk, if_false]
    exact ih fun d hd => h d (List.mem_cons_of_mem _ hd)

theorem Mem.read_filter (m : Mem) (p : Host.Cell → Bool) (a : Nat) (h : ∀ b, p (a, b) = true) :
    Mem.read (m.filter p) a = Mem.read m a := by
  induction m with
  | nil => rfl
  | cons c rest ih =>
    obtain ⟨k, b⟩ := c
    by_cases hk : k = a
    · subst hk; simp [List.filter, h, Mem.read]
    · by_cases hp : p (k, b) = true
      · simp [List.filter, hp, Mem.read, hk, ih]
      · simp [List.filter, hp, Mem.read, hk, ih]

theorem cellsOf_read (a : Nat) (bs : List Byte) (x : Nat) :
    Mem.read (cellsOf a bs) x = if a ≤ x then bs.getD (x - a) 0 else 0 := by
  induction bs generalizing a with
  | nil => simp [cellsOf, Mem.read]
  | cons b rest ih =>
    by_cases hx : x = a
    · subst hx
      by_cases hb : b = 0
      · subst hb
        have hno : ∀ c ∈ cellsOf (x + 1) rest, c.1 ≠ x := fun c hc => by
          have := cellsOf_mem _ _ _ hc; omega
        simp [cellsOf, Mem.read_absent _ _ hno]
      · simp only [cellsOf, if_neg hb, Mem.read, if_true]; simp
    · have hstep : Mem.read (cellsOf a (b :: rest)) x = Mem.read (cellsOf (a + 1) rest) x := by
        simp only [cellsOf]
        split
        · rfl
        · simp [Mem.read, Ne.symm hx]
      rw [hstep, ih]
      by_cases hle : a + 1 ≤ x
      · have : x - a = (x - (a + 1)) + 1 := by omega
        simp [hle, show a ≤ x by omega, this]
      · simp [hle, show ¬ a ≤ x by omega]

/-- A byte of a write is read back, and every other byte reads as before. -/
theorem Mem.read_write (m : Mem) (a : Nat) (bs : List Byte) (x : Nat) :
    Mem.read (m.write a bs) x = if a ≤ x ∧ x < a + bs.length then bs.getD (x - a) 0 else Mem.read m x := by
  have hbelow : ∀ n : Mem, (∀ c ∈ n, c.1 ≠ x) → n.any (fun c => decide (c.1 = x)) = false := fun n hn => by
    simp only [List.any_eq_false, decide_eq_true_eq]; exact hn
  by_cases h1 : x < a
  · have hr : ¬ (a ≤ x ∧ x < a + bs.length) := by omega
    rw [if_neg hr]
    have hrest : Mem.read (cellsOf a bs ++ Mem.above m (a + bs.length)) x = 0 := by
      apply Mem.read_absent
      intro c hc
      rcases List.mem_append.1 hc with hc | hc
      · have := cellsOf_mem _ _ _ hc; omega
      · have := (List.mem_filter.1 hc).2
        simp only [decide_eq_true_eq] at this; omega
    have hb : Mem.read (Mem.below m a) x = Mem.read m x := Mem.read_filter _ _ _ fun b => by simp [h1]
    rw [Mem.write, Mem.read_append]
    split
    · exact hb
    · rename_i hn
      rw [hrest, ← hb, Mem.read_absent]
      intro c hc hx
      exact hn (List.any_eq_true.2 ⟨c, hc, by simp [hx]⟩)
  · have hb : (Mem.below m a).any (fun c => decide (c.1 = x)) = false := hbelow _ fun c hc => by
      have := (List.mem_filter.1 hc).2
      simp only [decide_eq_true_eq] at this; omega
    rw [Mem.write, Mem.read_append, hb]
    simp only [Bool.false_eq_true, if_false]
    by_cases h2 : x < a + bs.length
    · rw [if_pos ⟨by omega, h2⟩, Mem.read_append]
      have hc : Mem.read (cellsOf a bs) x = bs.getD (x - a) 0 := by
        rw [cellsOf_read, if_pos (by omega)]
      split
      · exact hc
      · rename_i hn
        rw [Mem.read_absent (Mem.above m (a + bs.length)) x, ← hc, Mem.read_absent]
        · intro c hcm hx
          exact hn (List.any_eq_true.2 ⟨c, hcm, by simp [hx]⟩)
        · intro c hcm
          have := (List.mem_filter.1 hcm).2
          simp only [decide_eq_true_eq] at this; omega
    · rw [if_neg (by omega), Mem.read_append]
      have hc : (cellsOf a bs).any (fun c => decide (c.1 = x)) = false := hbelow _ fun c hc => by
        have := cellsOf_mem _ _ _ hc; omega
      rw [hc]
      simp only [Bool.false_eq_true, if_false]
      exact Mem.read_filter _ _ _ fun b => by simp; omega

theorem Mem.read_clear (m : Mem) (a n x : Nat) :
    Mem.read (m.clear a n) x = if a ≤ x ∧ x < a + n then 0 else Mem.read m x := by
  by_cases h : a ≤ x ∧ x < a + n
  · rw [if_pos h]
    apply Mem.read_absent
    intro c hc
    rcases List.mem_append.1 hc with hc | hc <;>
    · have := (List.mem_filter.1 hc).2
      simp only [decide_eq_true_eq] at this; omega
  · rw [if_neg h, Mem.clear, Mem.read_append]
    by_cases h1 : x < a
    · have hb : Mem.read (Mem.below m a) x = Mem.read m x := Mem.read_filter _ _ _ fun b => by simp [h1]
      split
      · exact hb
      · rename_i hn
        rw [← hb, Mem.read_absent (Mem.below m a), Mem.read_absent]
        · intro c hc
          have := (List.mem_filter.1 hc).2
          simp only [decide_eq_true_eq] at this; omega
        · intro c hc hx
          exact hn (List.any_eq_true.2 ⟨c, hc, by simp [hx]⟩)
    · have hb : (Mem.below m a).any (fun c => decide (c.1 = x)) = false := by
        simp only [List.any_eq_false, decide_eq_true_eq]
        intro c hc
        have := (List.mem_filter.1 hc).2
        simp only [decide_eq_true_eq] at this; omega
      rw [hb]
      simp only [Bool.false_eq_true, if_false]
      exact Mem.read_filter _ _ _ fun b => by simp; omega

/-- Memories in canonical form that read alike are equal. -/
theorem Mem.ext_of_wf (m n : Mem) (hm : m.wf = true) (hn : n.wf = true) (h : ∀ a, Mem.read m a = Mem.read n a) : m = n := by
  rw [Mem.wf_iff] at hm hn
  induction m generalizing n with
  | nil =>
    cases n with
    | nil => rfl
    | cons c rest =>
      have := h c.1
      simp only [Mem.read, if_true] at this
      exact absurd this.symm (hn.1 c (List.mem_cons_self ..))
  | cons c rest ih =>
    cases n with
    | nil =>
      have := h c.1
      simp only [Mem.read, if_true] at this
      exact absurd this (hm.1 c (List.mem_cons_self ..))
    | cons d rest' =>
      obtain ⟨a, b⟩ := c
      obtain ⟨a', b'⟩ := d
      have hb : b ≠ 0 := hm.1 (a, b) (List.mem_cons_self ..)
      have hb' : b' ≠ 0 := hn.1 (a', b') (List.mem_cons_self ..)
      have hpm := List.pairwise_cons.1 hm.2
      have hpn := List.pairwise_cons.1 hn.2
      have low : ∀ (l : Mem) (k x : Nat), (∀ c ∈ l, k < c.1) → x ≤ k → Mem.read l x = 0 := fun l k x hl hx =>
        Mem.read_absent l x fun c hc => by have := hl c hc; omega
      have haa : a = a' := by
        rcases Nat.lt_trichotomy a a' with hlt | heq | hgt
        · have := h a
          simp only [Mem.read, if_true, show ¬ a' = a by omega, if_false] at this
          rw [low rest' a' a hpn.1 (by omega)] at this
          exact absurd this hb
        · exact heq
        · have := h a'
          simp only [Mem.read, if_true, show ¬ a = a' by omega, if_false] at this
          rw [low rest a a' hpm.1 (by omega)] at this
          exact absurd this.symm hb'
      subst haa
      have hbb : b = b' := by simpa [Mem.read] using h a
      subst hbb
      have hrest : ∀ x, Mem.read rest x = Mem.read rest' x := fun x => by
        by_cases hx : a = x
        · subst hx; rw [low rest a a hpm.1 (Nat.le_refl _), low rest' a a hpn.1 (Nat.le_refl _)]
        · simpa [Mem.read, hx] using h x
      rw [ih rest' ⟨fun c hc => hm.1 c (List.mem_cons_of_mem _ hc), hpm.2⟩
        ⟨fun c hc => hn.1 c (List.mem_cons_of_mem _ hc), hpn.2⟩ hrest]

end Sys2Proof.Machine
end

