-- ==== Sys2Proof/Laws/Commit.lean ====
section
/-! SUPPORT. What a commit does to the memories, and that it keeps their canonical form. -/

namespace Sys2Proof.Machine

theorem memWf_iff (s : State) : s.memWf = true ↔ ∀ t, (s.memOf t).wf = true := by
  simp only [State.memWf, Bool.and_eq_true]
  constructor
  · rintro ⟨⟨⟨h1, h2⟩, h3⟩, h4⟩ t
    cases t <;> assumption
  · intro h
    exact ⟨⟨⟨h .fm, h .hm⟩, h .sp⟩, h .host⟩

@[simp] theorem memOf_withMem (s : State) (t u : Tgt) (m : Mem) :
    (s.withMem t m).memOf u = if u = t then m else s.memOf u := by
  cases t <;> cases u <;> rfl

@[simp] theorem memOf_setCore (s : State) (c : Core) (t : Tgt) : (s.setCore c).memOf t = s.memOf t := by cases t <;> rfl
@[simp] theorem memOf_withLines (s : State) (b : Bool) (l : List (Nat × Line)) (t : Tgt) :
    (s.withLines b l).memOf t = s.memOf t := by cases b <;> cases t <;> rfl
@[simp] theorem memOf_withUndo (s : State) (b : Bool) (l : List Undo) (t : Tgt) :
    (s.withUndo b l).memOf t = s.memOf t := by cases b <;> cases t <;> rfl

@[simp] theorem memOf_touchLine (s : State) (b : Bool) (n : Nat) (o : BitVec 12) (w : Bool) (t : Tgt) :
    (touchLine s b n o w).memOf t = s.memOf t := by
  have hr : ∀ (u : State) (r : Recovery), ({ u with rcv := r }).memOf t = u.memOf t := fun u r => by cases t <;> rfl
  simp only [touchLine, memOf_withLines]
  split
  · rw [hr]; split <;> simp
  · split <;> simp

@[simp] theorem memOf_touchLines (k : Nat) (s : State) (b : Bool) (a l : Nat) (o : BitVec 12) (t : Tgt) :
    (touchLines s b a l o k).memOf t = s.memOf t := by
  induction k generalizing s with
  | zero => rfl
  | succ k ih => simp only [touchLines]; rw [ih]; simp

@[simp] theorem memOf_markDirty (s : State) (a l : Nat) (t : Tgt) : (markDirty s a l).memOf t = s.memOf t := by
  simp only [markDirty]
  split <;> simp

/-- A write changes the memory it names and no other, to the memory written or cleared. -/
theorem memOf_applyWrite (s : State) (w : Write) (t : Tgt) :
    (applyWrite s w).memOf t =
      match w with
      | .put u a bs _ _ => if t = u then Mem.write (s.memOf t) a bs else s.memOf t
      | .clear u a n => if t = u then Mem.clear (s.memOf t) a n else s.memOf t := by
  cases w with
  | put u a bs o raw =>
    simp only [applyWrite, memOf_withMem]
    by_cases h : t = u
    · subst h
      simp only [if_true]
      congr 1
      split
      · rfl
      · cases t <;> simp
    · simp only [if_neg h]
      split
      · rfl
      · cases u <;> simp
  | clear u a n =>
    simp only [applyWrite, memOf_withMem]
    split
    · rename_i h; subst h; rfl
    · rfl

theorem applyWrite_memWf (s : State) (w : Write) (h : s.memWf = true) : (applyWrite s w).memWf = true := by
  rw [memWf_iff] at h ⊢
  intro t
  rw [memOf_applyWrite]
  cases w with
  | put u a bs o raw =>
    simp only
    split
    · exact Mem.write_wf _ _ _ (h t)
    · exact h t
  | clear u a n =>
    simp only
    split
    · exact Mem.clear_wf _ _ _ (h t)
    · exact h t

@[simp] theorem memOf_base (s : State) (w : Work) (t : Tgt) : (s.base w).memOf t = s.memOf t := by cases t <;> rfl

/-- The commit of a step keeps the canonical form. -/
theorem commit_memWf (s : State) (w : Work) (h : s.memWf = true) : (s.commit w).memWf = true := by
  have hb : (s.base w).memWf = true := by
    rw [memWf_iff] at h ⊢
    intro t; rw [memOf_base]; exact h t
  simp only [State.commit]
  generalize s.base w = b at hb
  induction w.ws generalizing b with
  | nil => exact hb
  | cons x rest ih => exact ih (applyWrite b x) (applyWrite_memWf b x hb)

theorem finish_next (s t : State) (w : Work) (h : s.finish w = .next t) : w.absent = false ∧ t = s.commit w := by
  simp only [State.finish] at h
  split at h
  · cases h
  · rename_i ha
    exact ⟨by simpa using ha, by injection h with h; exact h.symm⟩

theorem finish_memWf (s t : State) (w : Work) (h : s.finish w = .next t) (hs : s.memWf = true) : t.memWf = true := by
  rw [(finish_next s t w h).2]
  exact commit_memWf s w hs

end Sys2Proof.Machine
end

