-- ==== Sys2Proof/Laws/Finish.lean ====
section
/-! SUPPORT. Every meaning but a slab-cycle's ends with `State.finish` of one step in the making: it answers a next state, the commit
of that step, or the fault of an absent address. -/

namespace Sys2Proof.Machine

theorem finish_finishes (s : State) (w : Work) : ∃ out, s.finish w = s.finish out := ⟨w, rfl⟩

theorem vectorWord_finishes (i : Instr) (s : State) :
    ∃ out, vectorWord i s = s.finish out := by
  unfold vectorWord
  first | exact finish_finishes _ _ | (repeat' split) <;> exact finish_finishes _ _
theorem returning_finishes (fn : Nat) (op : AtomOp) (wide : Bool) (d a b c : Reg) (s : State) :
    ∃ out, returning fn op wide d a b c s = s.finish out := by
  unfold returning
  first | exact finish_finishes _ _ | (repeat' split) <;> exact finish_finishes _ _
theorem binary_finishes (f : W64 → W64 → W64) (d a b : Reg) (s : State) :
    ∃ out, binary f d a b s = s.finish out := by
  unfold binary
  first | exact finish_finishes _ _ | (repeat' split) <;> exact finish_finishes _ _
theorem noReturn_finishes (fn : Nat) (op : AtomOp) (wide : Bool) (a b : Reg) (ch : BitVec 2) (s : State) :
    ∃ out, noReturn fn op wide a b ch s = s.finish out := by
  unfold noReturn
  first | exact finish_finishes _ _ | (repeat' split) <;> exact finish_finishes _ _
theorem engineWord_finishes (word : Nat) (a : Reg) (run : Work → Work) (s : State) :
    ∃ out, engineWord word a run s = s.finish out := by
  unfold engineWord
  first | exact finish_finishes _ _ | (repeat' split) <;> exact finish_finishes _ _
theorem copyWord_finishes (i : Instr) (dstSp srcSp : Bool) (a b xf : Reg) (tag : BitVec 6) (ch : BitVec 2) (nest : Bool) (g : Nat) (s : State) :
    ∃ out, copyWord i dstSp srcSp a b xf tag ch nest g s = s.finish out := by
  unfold copyWord
  first | exact finish_finishes _ _ | (repeat' split) <;> exact finish_finishes _ _
theorem unary_finishes (f : W64 → W64) (d a : Reg) (s : State) :
    ∃ out, unary f d a s = s.finish out := by
  unfold unary
  first | exact finish_finishes _ _ | (repeat' split) <;> exact finish_finishes _ _
theorem immediate_finishes (f : W64 → W64 → W64) (d a : Reg) (imm : W64) (s : State) :
    ∃ out, immediate f d a imm s = s.finish out := by
  unfold immediate
  first | exact finish_finishes _ _ | (repeat' split) <;> exact finish_finishes _ _
theorem fpBinary_finishes (f : Val → Val → Nat × Flags) (d a b : Reg) (s : State) :
    ∃ out, fpBinary f d a b s = s.finish out := by
  unfold fpBinary
  first | exact finish_finishes _ _ | (repeat' split) <;> exact finish_finishes _ _
theorem branch_finishes (c : W64 → W64 → Bool) (a b : Reg) (off : BitVec 15) (s : State) :
    ∃ out, branch c a b off s = s.finish out := by
  unfold branch
  first | exact finish_finishes _ _ | (repeat' split) <;> exact finish_finishes _ _
theorem fusedWord_finishes (op : Nat) (d a b c : Reg) (rm : BitVec 2) (s : State) :
    ∃ out, fusedWord op d a b c rm s = s.finish out := by
  unfold fusedWord
  first | exact finish_finishes _ _ | (repeat' split) <;> exact finish_finishes _ _
theorem loadWord_finishes (sz : Nat) (d a : Reg) (st : BitVec 2) (imm : BitVec 11) (s : State) :
    ∃ out, loadWord sz d a st imm s = s.finish out := by
  unfold loadWord
  first | exact finish_finishes _ _ | (repeat' split) <;> exact finish_finishes _ _
theorem storeWord_finishes (sz : Nat) (d a : Reg) (st : BitVec 2) (imm : BitVec 11) (s : State) :
    ∃ out, storeWord sz d a st imm s = s.finish out := by
  unfold storeWord
  first | exact finish_finishes _ _ | (repeat' split) <;> exact finish_finishes _ _
theorem loadSpWord_finishes (sz : Nat) (d a : Reg) (st : BitVec 2) (imm : BitVec 11) (s : State) :
    ∃ out, loadSpWord sz d a st imm s = s.finish out := by
  unfold loadSpWord
  first | exact finish_finishes _ _ | (repeat' split) <;> exact finish_finishes _ _
theorem storeSpWord_finishes (sz : Nat) (d a : Reg) (st : BitVec 2) (imm : BitVec 11) (s : State) :
    ∃ out, storeSpWord sz d a st imm s = s.finish out := by
  unfold storeSpWord
  first | exact finish_finishes _ _ | (repeat' split) <;> exact finish_finishes _ _
theorem csrAccess_finishes (op : Nat) (d a : Reg) (csr : BitVec 12) (s : State) :
    ∃ out, csrAccess op d a csr s = s.finish out := by
  unfold csrAccess
  first | exact finish_finishes _ _ | (repeat' split) <;> exact finish_finishes _ _
theorem tileLoad_finishes (i : Instr) (t a : Reg) (align : Nat) (rows len : Nat → Nat) (word : List Nat → Nat → Nat → Nat) (s : State) :
    ∃ out, tileLoad i t a align rows len word s = s.finish out := by
  unfold tileLoad
  first | exact finish_finishes _ _ | (repeat' split) <;> exact finish_finishes _ _
theorem privileged_finishes (i : Instr) (run : Work → Work) (s : State) :
    ∃ out, privileged i run s = s.finish out := by
  unfold privileged
  first | exact finish_finishes _ _ | (repeat' split) <;> exact finish_finishes _ _
theorem loadAcquire_finishes (fn z : Nat) (d a : Reg) (sc : BitVec 2) (s : State) :
    ∃ out, loadAcquire fn z d a sc s = s.finish out := by
  unfold loadAcquire
  first | exact finish_finishes _ _ | (repeat' split) <;> exact finish_finishes _ _
theorem storeRelease_finishes (fn z : Nat) (a b : Reg) (sc : BitVec 2) (s : State) :
    ∃ out, storeRelease fn z a b sc s = s.finish out := by
  unfold storeRelease
  first | exact finish_finishes _ _ | (repeat' split) <;> exact finish_finishes _ _
theorem arriveWord_finishes (fn : Nat) (meadow : Bool) (d a : Reg) (s : State) :
    ∃ out, arriveWord fn meadow d a s = s.finish out := by
  unfold arriveWord
  first | exact finish_finishes _ _ | (repeat' split) <;> exact finish_finishes _ _
theorem waitWord_finishes (fn : Nat) (meadow : Bool) (a b : Reg) (s : State) :
    ∃ out, waitWord fn meadow a b s = s.finish out := by
  unfold waitWord
  first | exact finish_finishes _ _ | (repeat' split) <;> exact finish_finishes _ _
theorem tileWordOn_finishes (i : Instr) (t : Reg) (run : Work → Except Stop Work) (s : State) :
    ∃ out, tileWordOn i t run s = s.finish out := by
  unfold tileWordOn
  first | exact finish_finishes _ _ | (repeat' split) <;> exact finish_finishes _ _

theorem execAdd_finishes (d a b : Reg) (s : State) : ∃ out, execAdd d a b s = s.finish out :=
  binary_finishes ..
theorem execSub_finishes (d a b : Reg) (s : State) : ∃ out, execSub d a b s = s.finish out :=
  binary_finishes ..
theorem execAnd_finishes (d a b : Reg) (s : State) : ∃ out, execAnd d a b s = s.finish out :=
  binary_finishes ..
theorem execOr_finishes (d a b : Reg) (s : State) : ∃ out, execOr d a b s = s.finish out :=
  binary_finishes ..
theorem execXor_finishes (d a b : Reg) (s : State) : ∃ out, execXor d a b s = s.finish out :=
  binary_finishes ..
theorem execSll_finishes (d a b : Reg) (s : State) : ∃ out, execSll d a b s = s.finish out :=
  binary_finishes ..
theorem execSrl_finishes (d a b : Reg) (s : State) : ∃ out, execSrl d a b s = s.finish out :=
  binary_finishes ..
theorem execSra_finishes (d a b : Reg) (s : State) : ∃ out, execSra d a b s = s.finish out :=
  binary_finishes ..
theorem execSlt_finishes (d a b : Reg) (s : State) : ∃ out, execSlt d a b s = s.finish out :=
  binary_finishes ..
theorem execSltu_finishes (d a b : Reg) (s : State) : ∃ out, execSltu d a b s = s.finish out :=
  binary_finishes ..
theorem execMul_finishes (d a b : Reg) (s : State) : ∃ out, execMul d a b s = s.finish out :=
  binary_finishes ..
theorem execMulh_finishes (d a b : Reg) (s : State) : ∃ out, execMulh d a b s = s.finish out :=
  binary_finishes ..
theorem execMulhu_finishes (d a b : Reg) (s : State) : ∃ out, execMulhu d a b s = s.finish out :=
  binary_finishes ..
theorem execDiv_finishes (d a b : Reg) (s : State) : ∃ out, execDiv d a b s = s.finish out :=
  binary_finishes ..
theorem execDivu_finishes (d a b : Reg) (s : State) : ∃ out, execDivu d a b s = s.finish out :=
  binary_finishes ..
theorem execRem_finishes (d a b : Reg) (s : State) : ∃ out, execRem d a b s = s.finish out :=
  binary_finishes ..
theorem execRemu_finishes (d a b : Reg) (s : State) : ∃ out, execRemu d a b s = s.finish out :=
  binary_finishes ..
theorem execMin_finishes (d a b : Reg) (s : State) : ∃ out, execMin d a b s = s.finish out :=
  binary_finishes ..
theorem execMax_finishes (d a b : Reg) (s : State) : ∃ out, execMax d a b s = s.finish out :=
  binary_finishes ..
theorem execMinu_finishes (d a b : Reg) (s : State) : ∃ out, execMinu d a b s = s.finish out :=
  binary_finishes ..
theorem execMaxu_finishes (d a b : Reg) (s : State) : ∃ out, execMaxu d a b s = s.finish out :=
  binary_finishes ..
theorem execClz_finishes (d a : Reg) (s : State) : ∃ out, execClz d a s = s.finish out :=
  unary_finishes ..
theorem execCtz_finishes (d a : Reg) (s : State) : ∃ out, execCtz d a s = s.finish out :=
  unary_finishes ..
theorem execPopc_finishes (d a : Reg) (s : State) : ∃ out, execPopc d a s = s.finish out :=
  unary_finishes ..
theorem execZextb_finishes (d a : Reg) (s : State) : ∃ out, execZextb d a s = s.finish out :=
  unary_finishes ..
theorem execZexth_finishes (d a : Reg) (s : State) : ∃ out, execZexth d a s = s.finish out :=
  unary_finishes ..
theorem execZextw_finishes (d a : Reg) (s : State) : ∃ out, execZextw d a s = s.finish out :=
  unary_finishes ..
theorem execSextb_finishes (d a : Reg) (s : State) : ∃ out, execSextb d a s = s.finish out :=
  unary_finishes ..
theorem execSexth_finishes (d a : Reg) (s : State) : ∃ out, execSexth d a s = s.finish out :=
  unary_finishes ..
theorem execSextw_finishes (d a : Reg) (s : State) : ∃ out, execSextw d a s = s.finish out :=
  unary_finishes ..
theorem execAddi_finishes (d a : Reg) (imm : BitVec 15) (s : State) : ∃ out, execAddi d a imm s = s.finish out :=
  immediate_finishes ..
theorem execAndi_finishes (d a : Reg) (imm : BitVec 15) (s : State) : ∃ out, execAndi d a imm s = s.finish out :=
  immediate_finishes ..
theorem execOri_finishes (d a : Reg) (imm : BitVec 15) (s : State) : ∃ out, execOri d a imm s = s.finish out :=
  immediate_finishes ..
theorem execXori_finishes (d a : Reg) (imm : BitVec 15) (s : State) : ∃ out, execXori d a imm s = s.finish out :=
  immediate_finishes ..
theorem execSlti_finishes (d a : Reg) (imm : BitVec 15) (s : State) : ∃ out, execSlti d a imm s = s.finish out :=
  immediate_finishes ..
theorem execSltiu_finishes (d a : Reg) (imm : BitVec 15) (s : State) : ∃ out, execSltiu d a imm s = s.finish out :=
  immediate_finishes ..
theorem execSlli_finishes (d a : Reg) (sh : BitVec 6) (s : State) : ∃ out, execSlli d a sh s = s.finish out :=
  immediate_finishes ..
theorem execSrli_finishes (d a : Reg) (sh : BitVec 6) (s : State) : ∃ out, execSrli d a sh s = s.finish out :=
  immediate_finishes ..
theorem execSrai_finishes (d a : Reg) (sh : BitVec 6) (s : State) : ∃ out, execSrai d a sh s = s.finish out :=
  immediate_finishes ..
theorem execLhi_finishes (d : Reg) (imm : BitVec 20) (s : State) : ∃ out, execLhi d imm s = s.finish out := by
  unfold execLhi
  first | exact finish_finishes _ _ | (repeat' split) <;> exact finish_finishes _ _
theorem execLpc_finishes (d : Reg) (imm : BitVec 20) (s : State) : ∃ out, execLpc d imm s = s.finish out := by
  unfold execLpc
  first | exact finish_finishes _ _ | (repeat' split) <;> exact finish_finishes _ _
theorem execFadd_finishes (d a b : Reg) (rm : BitVec 2) (s : State) : ∃ out, execFadd d a b rm s = s.finish out :=
  fpBinary_finishes ..
theorem execFsub_finishes (d a b : Reg) (rm : BitVec 2) (s : State) : ∃ out, execFsub d a b rm s = s.finish out :=
  fpBinary_finishes ..
theorem execFmul_finishes (d a b : Reg) (rm : BitVec 2) (s : State) : ∃ out, execFmul d a b rm s = s.finish out :=
  fpBinary_finishes ..
theorem execFdiv_finishes (d a b : Reg) (rm : BitVec 2) (s : State) : ∃ out, execFdiv d a b rm s = s.finish out :=
  fpBinary_finishes ..
theorem execFsqrt_finishes (d a : Reg) (rm : BitVec 2) (s : State) : ∃ out, execFsqrt d a rm s = s.finish out := by
  unfold execFsqrt
  first | exact finish_finishes _ _ | (repeat' split) <;> exact finish_finishes _ _
theorem execFmin_finishes (d a b : Reg) (s : State) : ∃ out, execFmin d a b s = s.finish out :=
  fpBinary_finishes ..
theorem execFmax_finishes (d a b : Reg) (s : State) : ∃ out, execFmax d a b s = s.finish out :=
  fpBinary_finishes ..
theorem execFeq_finishes (d a b : Reg) (s : State) : ∃ out, execFeq d a b s = s.finish out :=
  fpBinary_finishes ..
theorem execFlt_finishes (d a b : Reg) (s : State) : ∃ out, execFlt d a b s = s.finish out :=
  fpBinary_finishes ..
theorem execFle_finishes (d a b : Reg) (s : State) : ∃ out, execFle d a b s = s.finish out :=
  fpBinary_finishes ..
theorem execFcvtSL_finishes (d a : Reg) (rm : BitVec 2) (s : State) : ∃ out, execFcvtSL d a rm s = s.finish out := by
  unfold execFcvtSL
  first | exact finish_finishes _ _ | (repeat' split) <;> exact finish_finishes _ _
theorem execFcvtLS_finishes (d a : Reg) (rm : BitVec 2) (s : State) : ∃ out, execFcvtLS d a rm s = s.finish out := by
  unfold execFcvtLS
  first | exact finish_finishes _ _ | (repeat' split) <;> exact finish_finishes _ _
theorem execFclass_finishes (d a : Reg) (s : State) : ∃ out, execFclass d a s = s.finish out := by
  unfold execFclass
  first | exact finish_finishes _ _ | (repeat' split) <;> exact finish_finishes _ _
theorem execFmadd_finishes (d a b cc : Reg) (rm : BitVec 2) (s : State) : ∃ out, execFmadd d a b cc rm s = s.finish out :=
  fusedWord_finishes ..
theorem execFmsub_finishes (d a b cc : Reg) (rm : BitVec 2) (s : State) : ∃ out, execFmsub d a b cc rm s = s.finish out :=
  fusedWord_finishes ..
theorem execFnmadd_finishes (d a b cc : Reg) (rm : BitVec 2) (s : State) : ∃ out, execFnmadd d a b cc rm s = s.finish out :=
  fusedWord_finishes ..
theorem execFnmsub_finishes (d a b cc : Reg) (rm : BitVec 2) (s : State) : ∃ out, execFnmsub d a b cc rm s = s.finish out :=
  fusedWord_finishes ..
theorem execBeq_finishes (a b : Reg) (off : BitVec 15) (s : State) : ∃ out, execBeq a b off s = s.finish out :=
  branch_finishes ..
theorem execBne_finishes (a b : Reg) (off : BitVec 15) (s : State) : ∃ out, execBne a b off s = s.finish out :=
  branch_finishes ..
theorem execBlt_finishes (a b : Reg) (off : BitVec 15) (s : State) : ∃ out, execBlt a b off s = s.finish out :=
  branch_finishes ..
theorem execBge_finishes (a b : Reg) (off : BitVec 15) (s : State) : ∃ out, execBge a b off s = s.finish out :=
  branch_finishes ..
theorem execBltu_finishes (a b : Reg) (off : BitVec 15) (s : State) : ∃ out, execBltu a b off s = s.finish out :=
  branch_finishes ..
theorem execBgeu_finishes (a b : Reg) (off : BitVec 15) (s : State) : ∃ out, execBgeu a b off s = s.finish out :=
  branch_finishes ..
theorem execJal_finishes (d : Reg) (imm : BitVec 20) (s : State) : ∃ out, execJal d imm s = s.finish out := by
  unfold execJal
  first | exact finish_finishes _ _ | (repeat' split) <;> exact finish_finishes _ _
theorem execJalr_finishes (d a : Reg) (imm : BitVec 15) (s : State) : ∃ out, execJalr d a imm s = s.finish out := by
  unfold execJalr
  first | exact finish_finishes _ _ | (repeat' split) <;> exact finish_finishes _ _
theorem execLdB_finishes (d a : Reg) (st : BitVec 2) (imm : BitVec 11) (s : State) : ∃ out, execLdB d a st imm s = s.finish out :=
  loadWord_finishes ..
theorem execLdH_finishes (d a : Reg) (st : BitVec 2) (imm : BitVec 11) (s : State) : ∃ out, execLdH d a st imm s = s.finish out :=
  loadWord_finishes ..
theorem execLdW_finishes (d a : Reg) (st : BitVec 2) (imm : BitVec 11) (s : State) : ∃ out, execLdW d a st imm s = s.finish out :=
  loadWord_finishes ..
theorem execLdD_finishes (d a : Reg) (st : BitVec 2) (imm : BitVec 11) (s : State) : ∃ out, execLdD d a st imm s = s.finish out :=
  loadWord_finishes ..
theorem execStB_finishes (d a : Reg) (st : BitVec 2) (imm : BitVec 11) (s : State) : ∃ out, execStB d a st imm s = s.finish out :=
  storeWord_finishes ..
theorem execStH_finishes (d a : Reg) (st : BitVec 2) (imm : BitVec 11) (s : State) : ∃ out, execStH d a st imm s = s.finish out :=
  storeWord_finishes ..
theorem execStW_finishes (d a : Reg) (st : BitVec 2) (imm : BitVec 11) (s : State) : ∃ out, execStW d a st imm s = s.finish out :=
  storeWord_finishes ..
theorem execStD_finishes (d a : Reg) (st : BitVec 2) (imm : BitVec 11) (s : State) : ∃ out, execStD d a st imm s = s.finish out :=
  storeWord_finishes ..
theorem execSpldB_finishes (d a : Reg) (st : BitVec 2) (imm : BitVec 11) (s : State) : ∃ out, execSpldB d a st imm s = s.finish out :=
  loadSpWord_finishes ..
theorem execSpldH_finishes (d a : Reg) (st : BitVec 2) (imm : BitVec 11) (s : State) : ∃ out, execSpldH d a st imm s = s.finish out :=
  loadSpWord_finishes ..
theorem execSpldW_finishes (d a : Reg) (st : BitVec 2) (imm : BitVec 11) (s : State) : ∃ out, execSpldW d a st imm s = s.finish out :=
  loadSpWord_finishes ..
theorem execSpldD_finishes (d a : Reg) (st : BitVec 2) (imm : BitVec 11) (s : State) : ∃ out, execSpldD d a st imm s = s.finish out :=
  loadSpWord_finishes ..
theorem execSpstB_finishes (d a : Reg) (st : BitVec 2) (imm : BitVec 11) (s : State) : ∃ out, execSpstB d a st imm s = s.finish out :=
  storeSpWord_finishes ..
theorem execSpstH_finishes (d a : Reg) (st : BitVec 2) (imm : BitVec 11) (s : State) : ∃ out, execSpstH d a st imm s = s.finish out :=
  storeSpWord_finishes ..
theorem execSpstW_finishes (d a : Reg) (st : BitVec 2) (imm : BitVec 11) (s : State) : ∃ out, execSpstW d a st imm s = s.finish out :=
  storeSpWord_finishes ..
theorem execSpstD_finishes (d a : Reg) (st : BitVec 2) (imm : BitVec 11) (s : State) : ∃ out, execSpstD d a st imm s = s.finish out :=
  storeSpWord_finishes ..
theorem execCsrr_finishes (d : Reg) (csr : BitVec 12) (s : State) : ∃ out, execCsrr d csr s = s.finish out :=
  csrAccess_finishes ..
theorem execCsrw_finishes (d a : Reg) (csr : BitVec 12) (s : State) : ∃ out, execCsrw d a csr s = s.finish out :=
  csrAccess_finishes ..
theorem execCsrs_finishes (d a : Reg) (csr : BitVec 12) (s : State) : ∃ out, execCsrs d a csr s = s.finish out :=
  csrAccess_finishes ..
theorem execCsrc_finishes (d a : Reg) (csr : BitVec 12) (s : State) : ∃ out, execCsrc d a csr s = s.finish out :=
  csrAccess_finishes ..
theorem execSvc_finishes (s : State) : ∃ out, execSvc s = s.finish out := by
  unfold execSvc
  first | exact finish_finishes _ _ | (repeat' split) <;> exact finish_finishes _ _
theorem execTret_finishes (s : State) : ∃ out, execTret s = s.finish out :=
  privileged_finishes ..
theorem execBrk_finishes (code : BitVec 5) (s : State) : ∃ out, execBrk code s = s.finish out := by
  unfold execBrk
  first | exact finish_finishes _ _ | (repeat' split) <;> exact finish_finishes _ _
theorem execWfi_finishes (s : State) : ∃ out, execWfi s = s.finish out :=
  privileged_finishes ..
theorem execGend_finishes (s : State) : ∃ out, execGend s = s.finish out := by
  unfold execGend
  first | exact finish_finishes _ _ | (repeat' split) <;> exact finish_finishes _ _
theorem execLend_finishes (s : State) : ∃ out, execLend s = s.finish out := by
  unfold execLend
  first | exact finish_finishes _ _ | (repeat' split) <;> exact finish_finishes _ _
theorem execHevict_finishes (a b : Reg) (s : State) : ∃ out, execHevict a b s = s.finish out := by
  unfold execHevict
  first | exact finish_finishes _ _ | (repeat' split) <;> exact finish_finishes _ _
theorem execHrestore_finishes (a b : Reg) (s : State) : ∃ out, execHrestore a b s = s.finish out := by
  unfold execHrestore
  first | exact finish_finishes _ _ | (repeat' split) <;> exact finish_finishes _ _
theorem execLbuf_finishes (d : Reg) (imm : BitVec 20) (s : State) : ∃ out, execLbuf d imm s = s.finish out := by
  unfold execLbuf
  first | exact finish_finishes _ _ | (repeat' split) <;> exact finish_finishes _ _
theorem execVlset_finishes (d a : Reg) (gc sew : BitVec 2) (s : State) : ∃ out, execVlset d a gc sew s = s.finish out := by
  unfold execVlset
  first | exact finish_finishes _ _ | (repeat' split) <;> exact finish_finishes _ _
theorem execVadd_finishes (c : Bool) (d a b xf : Reg) (k : BitVec 2) (s : State) : ∃ out, execVadd c d a b xf k s = s.finish out :=
  vectorWord_finishes ..
theorem execVsub_finishes (c : Bool) (d a b xf : Reg) (k : BitVec 2) (s : State) : ∃ out, execVsub c d a b xf k s = s.finish out :=
  vectorWord_finishes ..
theorem execVmul_finishes (c : Bool) (d a b xf : Reg) (k : BitVec 2) (s : State) : ∃ out, execVmul c d a b xf k s = s.finish out :=
  vectorWord_finishes ..
theorem execVdiv_finishes (c : Bool) (d a b xf : Reg) (k : BitVec 2) (s : State) : ∃ out, execVdiv c d a b xf k s = s.finish out :=
  vectorWord_finishes ..
theorem execVmin_finishes (c : Bool) (d a b xf : Reg) (k : BitVec 2) (s : State) : ∃ out, execVmin c d a b xf k s = s.finish out :=
  vectorWord_finishes ..
theorem execVmax_finishes (c : Bool) (d a b xf : Reg) (k : BitVec 2) (s : State) : ∃ out, execVmax c d a b xf k s = s.finish out :=
  vectorWord_finishes ..
theorem execVsqrt_finishes (c : Bool) (d a xf : Reg) (k : BitVec 2) (s : State) : ∃ out, execVsqrt c d a xf k s = s.finish out :=
  vectorWord_finishes ..
theorem execVabs_finishes (c : Bool) (d a xf : Reg) (k : BitVec 2) (s : State) : ∃ out, execVabs c d a xf k s = s.finish out :=
  vectorWord_finishes ..
theorem execVfma_finishes (c : Bool) (d a b xf : Reg) (k : BitVec 2) (s : State) : ∃ out, execVfma c d a b xf k s = s.finish out :=
  vectorWord_finishes ..
theorem execVfms_finishes (c : Bool) (d a b xf : Reg) (k : BitVec 2) (s : State) : ∃ out, execVfms c d a b xf k s = s.finish out :=
  vectorWord_finishes ..
theorem execVfnma_finishes (c : Bool) (d a b xf : Reg) (k : BitVec 2) (s : State) : ∃ out, execVfnma c d a b xf k s = s.finish out :=
  vectorWord_finishes ..
theorem execVfnms_finishes (c : Bool) (d a b xf : Reg) (k : BitVec 2) (s : State) : ∃ out, execVfnms c d a b xf k s = s.finish out :=
  vectorWord_finishes ..
theorem execVmulh_finishes (c : Bool) (d a b xf : Reg) (k : BitVec 2) (s : State) : ∃ out, execVmulh c d a b xf k s = s.finish out :=
  vectorWord_finishes ..
theorem execVrem_finishes (c : Bool) (d a b xf : Reg) (k : BitVec 2) (s : State) : ∃ out, execVrem c d a b xf k s = s.finish out :=
  vectorWord_finishes ..
theorem execVneg_finishes (c : Bool) (d a xf : Reg) (k : BitVec 2) (s : State) : ∃ out, execVneg c d a xf k s = s.finish out :=
  vectorWord_finishes ..
theorem execVand_finishes (c : Bool) (d a b xf : Reg) (k : BitVec 2) (s : State) : ∃ out, execVand c d a b xf k s = s.finish out :=
  vectorWord_finishes ..
theorem execVor_finishes (c : Bool) (d a b xf : Reg) (k : BitVec 2) (s : State) : ∃ out, execVor c d a b xf k s = s.finish out :=
  vectorWord_finishes ..
theorem execVxor_finishes (c : Bool) (d a b xf : Reg) (k : BitVec 2) (s : State) : ∃ out, execVxor c d a b xf k s = s.finish out :=
  vectorWord_finishes ..
theorem execVnot_finishes (c : Bool) (d a xf : Reg) (k : BitVec 2) (s : State) : ∃ out, execVnot c d a xf k s = s.finish out :=
  vectorWord_finishes ..
theorem execVsll_finishes (c : Bool) (d a b xf : Reg) (k : BitVec 2) (s : State) : ∃ out, execVsll c d a b xf k s = s.finish out :=
  vectorWord_finishes ..
theorem execVsrl_finishes (c : Bool) (d a b xf : Reg) (k : BitVec 2) (s : State) : ∃ out, execVsrl c d a b xf k s = s.finish out :=
  vectorWord_finishes ..
theorem execVsra_finishes (c : Bool) (d a b xf : Reg) (k : BitVec 2) (s : State) : ∃ out, execVsra c d a b xf k s = s.finish out :=
  vectorWord_finishes ..
theorem execVceq_finishes (c : Bool) (d a b xf : Reg) (k : BitVec 2) (s : State) : ∃ out, execVceq c d a b xf k s = s.finish out :=
  vectorWord_finishes ..
theorem execVcne_finishes (c : Bool) (d a b xf : Reg) (k : BitVec 2) (s : State) : ∃ out, execVcne c d a b xf k s = s.finish out :=
  vectorWord_finishes ..
theorem execVclt_finishes (c : Bool) (d a b xf : Reg) (k : BitVec 2) (s : State) : ∃ out, execVclt c d a b xf k s = s.finish out :=
  vectorWord_finishes ..
theorem execVcle_finishes (c : Bool) (d a b xf : Reg) (k : BitVec 2) (s : State) : ∃ out, execVcle c d a b xf k s = s.finish out :=
  vectorWord_finishes ..
theorem execVcgt_finishes (c : Bool) (d a b xf : Reg) (k : BitVec 2) (s : State) : ∃ out, execVcgt c d a b xf k s = s.finish out :=
  vectorWord_finishes ..
theorem execVcge_finishes (c : Bool) (d a b xf : Reg) (k : BitVec 2) (s : State) : ∃ out, execVcge c d a b xf k s = s.finish out :=
  vectorWord_finishes ..
theorem execVcun_finishes (c : Bool) (d a b xf : Reg) (k : BitVec 2) (s : State) : ∃ out, execVcun c d a b xf k s = s.finish out :=
  vectorWord_finishes ..
theorem execVsel_finishes (c : Bool) (d a b xf : Reg) (k : BitVec 2) (s : State) : ∃ out, execVsel c d a b xf k s = s.finish out :=
  vectorWord_finishes ..
theorem execKand_finishes (c : Bool) (d a b : Reg) (s : State) : ∃ out, execKand c d a b s = s.finish out :=
  vectorWord_finishes ..
theorem execKor_finishes (c : Bool) (d a b : Reg) (s : State) : ∃ out, execKor c d a b s = s.finish out :=
  vectorWord_finishes ..
theorem execKxor_finishes (c : Bool) (d a b : Reg) (s : State) : ∃ out, execKxor c d a b s = s.finish out :=
  vectorWord_finishes ..
theorem execKnot_finishes (c : Bool) (d a : Reg) (s : State) : ∃ out, execKnot c d a s = s.finish out :=
  vectorWord_finishes ..
theorem execKpopc_finishes (c : Bool) (d a : Reg) (k : BitVec 2) (s : State) : ∃ out, execKpopc c d a k s = s.finish out :=
  vectorWord_finishes ..
theorem execKfirst_finishes (c : Bool) (d a : Reg) (k : BitVec 2) (s : State) : ∃ out, execKfirst c d a k s = s.finish out :=
  vectorWord_finishes ..
theorem execVcvt_finishes (c : Bool) (d a xf : Reg) (k : BitVec 2) (s : State) : ∃ out, execVcvt c d a xf k s = s.finish out :=
  vectorWord_finishes ..
theorem execVcvtS_finishes (c : Bool) (d a b xf : Reg) (k : BitVec 2) (s : State) : ∃ out, execVcvtS c d a b xf k s = s.finish out :=
  vectorWord_finishes ..
theorem execVredsum_finishes (c : Bool) (d a xf : Reg) (k : BitVec 2) (s : State) : ∃ out, execVredsum c d a xf k s = s.finish out :=
  vectorWord_finishes ..
theorem execVredmin_finishes (c : Bool) (d a xf : Reg) (k : BitVec 2) (s : State) : ∃ out, execVredmin c d a xf k s = s.finish out :=
  vectorWord_finishes ..
theorem execVredmax_finishes (c : Bool) (d a xf : Reg) (k : BitVec 2) (s : State) : ∃ out, execVredmax c d a xf k s = s.finish out :=
  vectorWord_finishes ..
theorem execVredand_finishes (c : Bool) (d a xf : Reg) (k : BitVec 2) (s : State) : ∃ out, execVredand c d a xf k s = s.finish out :=
  vectorWord_finishes ..
theorem execVredor_finishes (c : Bool) (d a xf : Reg) (k : BitVec 2) (s : State) : ∃ out, execVredor c d a xf k s = s.finish out :=
  vectorWord_finishes ..
theorem execVscan_finishes (c : Bool) (d a xf : Reg) (k : BitVec 2) (s : State) : ∃ out, execVscan c d a xf k s = s.finish out :=
  vectorWord_finishes ..
theorem execVscanx_finishes (c : Bool) (d a xf : Reg) (k : BitVec 2) (s : State) : ∃ out, execVscanx c d a xf k s = s.finish out :=
  vectorWord_finishes ..
theorem execVmaxi_finishes (c : Bool) (d a xf : Reg) (k : BitVec 2) (s : State) : ∃ out, execVmaxi c d a xf k s = s.finish out :=
  vectorWord_finishes ..
theorem execVmini_finishes (c : Bool) (d a xf : Reg) (k : BitVec 2) (s : State) : ∃ out, execVmini c d a xf k s = s.finish out :=
  vectorWord_finishes ..
theorem execVmaxic_finishes (c : Bool) (d a xf : Reg) (k : BitVec 2) (s : State) : ∃ out, execVmaxic c d a xf k s = s.finish out :=
  vectorWord_finishes ..
theorem execVperm_finishes (c : Bool) (d a b xf : Reg) (k : BitVec 2) (s : State) : ∃ out, execVperm c d a b xf k s = s.finish out :=
  vectorWord_finishes ..
theorem execVslideup_finishes (c : Bool) (d a b xf : Reg) (k : BitVec 2) (s : State) : ∃ out, execVslideup c d a b xf k s = s.finish out :=
  vectorWord_finishes ..
theorem execVslidedn_finishes (c : Bool) (d a b xf : Reg) (k : BitVec 2) (s : State) : ∃ out, execVslidedn c d a b xf k s = s.finish out :=
  vectorWord_finishes ..
theorem execVbcast_finishes (c : Bool) (d a xf : Reg) (k : BitVec 2) (s : State) : ∃ out, execVbcast c d a xf k s = s.finish out :=
  vectorWord_finishes ..
theorem execVmvxs_finishes (c : Bool) (d a xf : Reg) (k : BitVec 2) (s : State) : ∃ out, execVmvxs c d a xf k s = s.finish out :=
  vectorWord_finishes ..
theorem execVmvsx_finishes (c : Bool) (d a xf : Reg) (k : BitVec 2) (s : State) : ∃ out, execVmvsx c d a xf k s = s.finish out :=
  vectorWord_finishes ..
theorem execVcompress_finishes (c : Bool) (d a xf : Reg) (k : BitVec 2) (s : State) : ∃ out, execVcompress c d a xf k s = s.finish out :=
  vectorWord_finishes ..
theorem execVid_finishes (c : Bool) (d xf : Reg) (k : BitVec 2) (s : State) : ∃ out, execVid c d xf k s = s.finish out :=
  vectorWord_finishes ..
theorem execVexp2_finishes (c : Bool) (d a xf : Reg) (k : BitVec 2) (s : State) : ∃ out, execVexp2 c d a xf k s = s.finish out :=
  vectorWord_finishes ..
theorem execVlog2_finishes (c : Bool) (d a xf : Reg) (k : BitVec 2) (s : State) : ∃ out, execVlog2 c d a xf k s = s.finish out :=
  vectorWord_finishes ..
theorem execVrcp_finishes (c : Bool) (d a xf : Reg) (k : BitVec 2) (s : State) : ∃ out, execVrcp c d a xf k s = s.finish out :=
  vectorWord_finishes ..
theorem execVrsqrt_finishes (c : Bool) (d a xf : Reg) (k : BitVec 2) (s : State) : ∃ out, execVrsqrt c d a xf k s = s.finish out :=
  vectorWord_finishes ..
theorem execVld_finishes (c : Bool) (d a : Reg) (st k : BitVec 2) (s : State) : ∃ out, execVld c d a st k s = s.finish out :=
  vectorWord_finishes ..
theorem execVlds_finishes (c : Bool) (d a b : Reg) (st k : BitVec 2) (s : State) : ∃ out, execVlds c d a b st k s = s.finish out :=
  vectorWord_finishes ..
theorem execVldx_finishes (c : Bool) (d a b : Reg) (st k : BitVec 2) (s : State) : ∃ out, execVldx c d a b st k s = s.finish out :=
  vectorWord_finishes ..
theorem execVldsp_finishes (c : Bool) (d a : Reg) (st k : BitVec 2) (s : State) : ∃ out, execVldsp c d a st k s = s.finish out :=
  vectorWord_finishes ..
theorem execVldm_finishes (c : Bool) (d a : Reg) (k : BitVec 2) (s : State) : ∃ out, execVldm c d a k s = s.finish out :=
  vectorWord_finishes ..
theorem execVldxsp_finishes (c : Bool) (d a b : Reg) (st k : BitVec 2) (s : State) : ∃ out, execVldxsp c d a b st k s = s.finish out :=
  vectorWord_finishes ..
theorem execVst_finishes (c : Bool) (d a : Reg) (st k : BitVec 2) (s : State) : ∃ out, execVst c d a st k s = s.finish out :=
  vectorWord_finishes ..
theorem execVsts_finishes (c : Bool) (d a b : Reg) (st k : BitVec 2) (s : State) : ∃ out, execVsts c d a b st k s = s.finish out :=
  vectorWord_finishes ..
theorem execVstx_finishes (c : Bool) (d a b : Reg) (st k : BitVec 2) (s : State) : ∃ out, execVstx c d a b st k s = s.finish out :=
  vectorWord_finishes ..
theorem execVstsp_finishes (c : Bool) (d a : Reg) (st k : BitVec 2) (s : State) : ∃ out, execVstsp c d a st k s = s.finish out :=
  vectorWord_finishes ..
theorem execVstm_finishes (c : Bool) (d a : Reg) (k : BitVec 2) (s : State) : ∃ out, execVstm c d a k s = s.finish out :=
  vectorWord_finishes ..
theorem execVstxsp_finishes (c : Bool) (d a b : Reg) (st k : BitVec 2) (s : State) : ∃ out, execVstxsp c d a b st k s = s.finish out :=
  vectorWord_finishes ..
theorem execTacc_finishes (c : Bool) (t a b xf : Reg) (s : State) : ∃ out, execTacc c t a b xf s = s.finish out :=
  vectorWord_finishes ..
theorem execTaccS_finishes (c : Bool) (t a b xf : Reg) (s : State) : ∃ out, execTaccS c t a b xf s = s.finish out :=
  vectorWord_finishes ..
theorem execMzero_finishes (t : Reg) (s : State) : ∃ out, execMzero t s = s.finish out :=
  tileWordOn_finishes ..
theorem execMld_finishes (t a : Reg) (s : State) : ∃ out, execMld t a s = s.finish out :=
  tileLoad_finishes ..
theorem execMldT8_finishes (t a : Reg) (s : State) : ∃ out, execMldT8 t a s = s.finish out :=
  tileLoad_finishes ..
theorem execMldT16_finishes (t a : Reg) (s : State) : ∃ out, execMldT16 t a s = s.finish out :=
  tileLoad_finishes ..
theorem execMst_finishes (t a : Reg) (s : State) : ∃ out, execMst t a s = s.finish out := by
  unfold execMst
  first | exact finish_finishes _ _ | (repeat' split) <;> exact finish_finishes _ _
theorem execMcvt_finishes (t xf : Reg) (s : State) : ∃ out, execMcvt t xf s = s.finish out := by
  unfold execMcvt
  first | exact finish_finishes _ _ | (repeat' split) <;> exact finish_finishes _ _
theorem execMrowr_finishes (t a b : Reg) (s : State) : ∃ out, execMrowr t a b s = s.finish out := by
  unfold execMrowr
  first | exact finish_finishes _ _ | (repeat' split) <;> exact finish_finishes _ _
theorem execMroww_finishes (t a b : Reg) (s : State) : ∃ out, execMroww t a b s = s.finish out := by
  unfold execMroww
  first | exact finish_finishes _ _ | (repeat' split) <;> exact finish_finishes _ _
theorem execTdstep_finishes (c : Bool) (d a b xf : Reg) (k : BitVec 2) (s : State) : ∃ out, execTdstep c d a b xf k s = s.finish out :=
  vectorWord_finishes ..
theorem execTdleaf_finishes (c : Bool) (d a b xf : Reg) (k : BitVec 2) (s : State) : ∃ out, execTdleaf c d a b xf k s = s.finish out :=
  vectorWord_finishes ..
theorem execTdregrp_finishes (c : Bool) (d a b : Reg) (k : BitVec 2) (s : State) : ∃ out, execTdregrp c d a b k s = s.finish out :=
  vectorWord_finishes ..
theorem execTdpathR_finishes (c : Bool) (d a : Reg) (k : BitVec 2) (s : State) : ∃ out, execTdpathR c d a k s = s.finish out :=
  vectorWord_finishes ..
theorem execTdpathW_finishes (c : Bool) (d a : Reg) (k : BitVec 2) (s : State) : ∃ out, execTdpathW c d a k s = s.finish out :=
  vectorWord_finishes ..
theorem execTdaddr_finishes (c : Bool) (d a b : Reg) (k : BitVec 2) (s : State) : ∃ out, execTdaddr c d a b k s = s.finish out :=
  vectorWord_finishes ..
theorem execHqDot_finishes (a xf : Reg) (tag : BitVec 6) (s : State) : ∃ out, execHqDot a xf tag s = s.finish out :=
  engineWord_finishes ..
theorem execHqSum_finishes (a xf : Reg) (tag : BitVec 6) (s : State) : ∃ out, execHqSum a xf tag s = s.finish out :=
  engineWord_finishes ..
theorem execHqCnt_finishes (a xf : Reg) (tag : BitVec 6) (s : State) : ∃ out, execHqCnt a xf tag s = s.finish out :=
  engineWord_finishes ..
theorem execHqMax_finishes (a xf : Reg) (tag : BitVec 6) (s : State) : ∃ out, execHqMax a xf tag s = s.finish out :=
  engineWord_finishes ..
theorem execHqTop_finishes (a xf : Reg) (tag : BitVec 6) (s : State) : ∃ out, execHqTop a xf tag s = s.finish out :=
  engineWord_finishes ..
theorem execHqSes_finishes (a xf : Reg) (tag : BitVec 6) (s : State) : ∃ out, execHqSes a xf tag s = s.finish out :=
  engineWord_finishes ..
theorem execHbcast_finishes (a : Reg) (tag : BitVec 6) (s : State) : ∃ out, execHbcast a tag s = s.finish out := by
  unfold execHbcast
  first | exact finish_finishes _ _ | (repeat' split) <;> exact finish_finishes _ _
theorem execHmove_finishes (a b xf : Reg) (tag : BitVec 6) (s : State) : ∃ out, execHmove a b xf tag s = s.finish out := by
  unfold execHmove
  first | exact finish_finishes _ _ | (repeat' split) <;> exact finish_finishes _ _
theorem execCblkIn_finishes (a b xf : Reg) (tag : BitVec 6) (ch : BitVec 2) (s : State) : ∃ out, execCblkIn a b xf tag ch s = s.finish out :=
  copyWord_finishes ..
theorem execCblkOut_finishes (a b xf : Reg) (tag : BitVec 6) (ch : BitVec 2) (s : State) : ∃ out, execCblkOut a b xf tag ch s = s.finish out :=
  copyWord_finishes ..
theorem execCblkSs_finishes (a b xf : Reg) (tag : BitVec 6) (ch : BitVec 2) (s : State) : ∃ out, execCblkSs a b xf tag ch s = s.finish out :=
  copyWord_finishes ..
theorem execCblkVv_finishes (a b xf : Reg) (tag : BitVec 6) (ch : BitVec 2) (s : State) : ∃ out, execCblkVv a b xf tag ch s = s.finish out :=
  copyWord_finishes ..
theorem execCnestIn_finishes (a b xf : Reg) (tag : BitVec 6) (ch : BitVec 2) (s : State) : ∃ out, execCnestIn a b xf tag ch s = s.finish out :=
  copyWord_finishes ..
theorem execCnestOut_finishes (a b xf : Reg) (tag : BitVec 6) (ch : BitVec 2) (s : State) : ∃ out, execCnestOut a b xf tag ch s = s.finish out :=
  copyWord_finishes ..
theorem execCnestSs_finishes (a b xf : Reg) (tag : BitVec 6) (ch : BitVec 2) (s : State) : ∃ out, execCnestSs a b xf tag ch s = s.finish out :=
  copyWord_finishes ..
theorem execCnestVv_finishes (a b xf : Reg) (tag : BitVec 6) (ch : BitVec 2) (s : State) : ∃ out, execCnestVv a b xf tag ch s = s.finish out :=
  copyWord_finishes ..
theorem execCnestInT8_finishes (a b xf : Reg) (tag : BitVec 6) (ch : BitVec 2) (s : State) : ∃ out, execCnestInT8 a b xf tag ch s = s.finish out :=
  copyWord_finishes ..
theorem execCnestInT16_finishes (a b xf : Reg) (tag : BitVec 6) (ch : BitVec 2) (s : State) : ∃ out, execCnestInT16 a b xf tag ch s = s.finish out :=
  copyWord_finishes ..
theorem execCgathIn_finishes (a b xf : Reg) (tag : BitVec 6) (ch : BitVec 2) (s : State) : ∃ out, execCgathIn a b xf tag ch s = s.finish out :=
  engineWord_finishes ..
theorem execCgathOut_finishes (a b xf : Reg) (tag : BitVec 6) (ch : BitVec 2) (s : State) : ∃ out, execCgathOut a b xf tag ch s = s.finish out :=
  engineWord_finishes ..
theorem execCgetV_finishes (a b : Reg) (tag : BitVec 6) (ch : BitVec 2) (s : State) : ∃ out, execCgetV a b tag ch s = s.finish out :=
  engineWord_finishes ..
theorem execCgetVs_finishes (a b : Reg) (tag : BitVec 6) (ch : BitVec 2) (s : State) : ∃ out, execCgetVs a b tag ch s = s.finish out :=
  engineWord_finishes ..
theorem execCwaitAny_finishes (a : Reg) (s : State) : ∃ out, execCwaitAny a s = s.finish out := by
  unfold execCwaitAny
  first | exact finish_finishes _ _ | (repeat' split) <;> exact finish_finishes _ _
theorem execCwaitAll_finishes (a : Reg) (s : State) : ∃ out, execCwaitAll a s = s.finish out := by
  unfold execCwaitAll
  first | exact finish_finishes _ _ | (repeat' split) <;> exact finish_finishes _ _
theorem execCfirst_finishes (a b : Reg) (s : State) : ∃ out, execCfirst a b s = s.finish out := by
  unfold execCfirst
  first | exact finish_finishes _ _ | (repeat' split) <;> exact finish_finishes _ _
theorem execCdrain_finishes (ch : BitVec 2) (s : State) : ∃ out, execCdrain ch s = s.finish out := by
  unfold execCdrain
  first | exact finish_finishes _ _ | (repeat' split) <;> exact finish_finishes _ _
theorem execCfence_finishes (mask : BitVec 4) (s : State) : ∃ out, execCfence mask s = s.finish out :=
  engineWord_finishes ..
theorem execAaddW_finishes (d a b : Reg) (s : State) : ∃ out, execAaddW d a b s = s.finish out :=
  returning_finishes ..
theorem execAaddWNoret_finishes (a b : Reg) (ch : BitVec 2) (s : State) : ∃ out, execAaddWNoret a b ch s = s.finish out :=
  noReturn_finishes ..
theorem execAaddD_finishes (d a b : Reg) (s : State) : ∃ out, execAaddD d a b s = s.finish out :=
  returning_finishes ..
theorem execAaddDNoret_finishes (a b : Reg) (ch : BitVec 2) (s : State) : ∃ out, execAaddDNoret a b ch s = s.finish out :=
  noReturn_finishes ..
theorem execAandW_finishes (d a b : Reg) (s : State) : ∃ out, execAandW d a b s = s.finish out :=
  returning_finishes ..
theorem execAandWNoret_finishes (a b : Reg) (ch : BitVec 2) (s : State) : ∃ out, execAandWNoret a b ch s = s.finish out :=
  noReturn_finishes ..
theorem execAandD_finishes (d a b : Reg) (s : State) : ∃ out, execAandD d a b s = s.finish out :=
  returning_finishes ..
theorem execAandDNoret_finishes (a b : Reg) (ch : BitVec 2) (s : State) : ∃ out, execAandDNoret a b ch s = s.finish out :=
  noReturn_finishes ..
theorem execAorW_finishes (d a b : Reg) (s : State) : ∃ out, execAorW d a b s = s.finish out :=
  returning_finishes ..
theorem execAorWNoret_finishes (a b : Reg) (ch : BitVec 2) (s : State) : ∃ out, execAorWNoret a b ch s = s.finish out :=
  noReturn_finishes ..
theorem execAorD_finishes (d a b : Reg) (s : State) : ∃ out, execAorD d a b s = s.finish out :=
  returning_finishes ..
theorem execAorDNoret_finishes (a b : Reg) (ch : BitVec 2) (s : State) : ∃ out, execAorDNoret a b ch s = s.finish out :=
  noReturn_finishes ..
theorem execAxorW_finishes (d a b : Reg) (s : State) : ∃ out, execAxorW d a b s = s.finish out :=
  returning_finishes ..
theorem execAxorWNoret_finishes (a b : Reg) (ch : BitVec 2) (s : State) : ∃ out, execAxorWNoret a b ch s = s.finish out :=
  noReturn_finishes ..
theorem execAxorD_finishes (d a b : Reg) (s : State) : ∃ out, execAxorD d a b s = s.finish out :=
  returning_finishes ..
theorem execAxorDNoret_finishes (a b : Reg) (ch : BitVec 2) (s : State) : ∃ out, execAxorDNoret a b ch s = s.finish out :=
  noReturn_finishes ..
theorem execAminW_finishes (d a b : Reg) (s : State) : ∃ out, execAminW d a b s = s.finish out :=
  returning_finishes ..
theorem execAminWNoret_finishes (a b : Reg) (ch : BitVec 2) (s : State) : ∃ out, execAminWNoret a b ch s = s.finish out :=
  noReturn_finishes ..
theorem execAminD_finishes (d a b : Reg) (s : State) : ∃ out, execAminD d a b s = s.finish out :=
  returning_finishes ..
theorem execAminDNoret_finishes (a b : Reg) (ch : BitVec 2) (s : State) : ∃ out, execAminDNoret a b ch s = s.finish out :=
  noReturn_finishes ..
theorem execAmaxW_finishes (d a b : Reg) (s : State) : ∃ out, execAmaxW d a b s = s.finish out :=
  returning_finishes ..
theorem execAmaxWNoret_finishes (a b : Reg) (ch : BitVec 2) (s : State) : ∃ out, execAmaxWNoret a b ch s = s.finish out :=
  noReturn_finishes ..
theorem execAmaxD_finishes (d a b : Reg) (s : State) : ∃ out, execAmaxD d a b s = s.finish out :=
  returning_finishes ..
theorem execAmaxDNoret_finishes (a b : Reg) (ch : BitVec 2) (s : State) : ∃ out, execAmaxDNoret a b ch s = s.finish out :=
  noReturn_finishes ..
theorem execAminuW_finishes (d a b : Reg) (s : State) : ∃ out, execAminuW d a b s = s.finish out :=
  returning_finishes ..
theorem execAminuWNoret_finishes (a b : Reg) (ch : BitVec 2) (s : State) : ∃ out, execAminuWNoret a b ch s = s.finish out :=
  noReturn_finishes ..
theorem execAminuD_finishes (d a b : Reg) (s : State) : ∃ out, execAminuD d a b s = s.finish out :=
  returning_finishes ..
theorem execAminuDNoret_finishes (a b : Reg) (ch : BitVec 2) (s : State) : ∃ out, execAminuDNoret a b ch s = s.finish out :=
  noReturn_finishes ..
theorem execAmaxuW_finishes (d a b : Reg) (s : State) : ∃ out, execAmaxuW d a b s = s.finish out :=
  returning_finishes ..
theorem execAmaxuWNoret_finishes (a b : Reg) (ch : BitVec 2) (s : State) : ∃ out, execAmaxuWNoret a b ch s = s.finish out :=
  noReturn_finishes ..
theorem execAmaxuD_finishes (d a b : Reg) (s : State) : ∃ out, execAmaxuD d a b s = s.finish out :=
  returning_finishes ..
theorem execAmaxuDNoret_finishes (a b : Reg) (ch : BitVec 2) (s : State) : ∃ out, execAmaxuDNoret a b ch s = s.finish out :=
  noReturn_finishes ..
theorem execAswpW_finishes (d a b : Reg) (s : State) : ∃ out, execAswpW d a b s = s.finish out :=
  returning_finishes ..
theorem execAswpWNoret_finishes (a b : Reg) (ch : BitVec 2) (s : State) : ∃ out, execAswpWNoret a b ch s = s.finish out :=
  noReturn_finishes ..
theorem execAswpD_finishes (d a b : Reg) (s : State) : ∃ out, execAswpD d a b s = s.finish out :=
  returning_finishes ..
theorem execAswpDNoret_finishes (a b : Reg) (ch : BitVec 2) (s : State) : ∃ out, execAswpDNoret a b ch s = s.finish out :=
  noReturn_finishes ..
theorem execAcasW_finishes (d a b cmp : Reg) (s : State) : ∃ out, execAcasW d a b cmp s = s.finish out :=
  returning_finishes ..
theorem execAcasD_finishes (d a b cmp : Reg) (s : State) : ∃ out, execAcasD d a b cmp s = s.finish out :=
  returning_finishes ..
theorem execAfaddW_finishes (d a b : Reg) (s : State) : ∃ out, execAfaddW d a b s = s.finish out :=
  returning_finishes ..
theorem execAfaddWNoret_finishes (a b : Reg) (ch : BitVec 2) (s : State) : ∃ out, execAfaddWNoret a b ch s = s.finish out :=
  noReturn_finishes ..
theorem execAincbW_finishes (d a b : Reg) (s : State) : ∃ out, execAincbW d a b s = s.finish out :=
  returning_finishes ..
theorem execAincbD_finishes (d a b : Reg) (s : State) : ∃ out, execAincbD d a b s = s.finish out :=
  returning_finishes ..
theorem execAaddscan_finishes (d a b : Reg) (k : BitVec 2) (s : State) : ∃ out, execAaddscan d a b k s = s.finish out := by
  unfold execAaddscan
  first | exact finish_finishes _ _ | (repeat' split) <;> exact finish_finishes _ _
theorem execCmbput_finishes (d a b xf : Reg) (k : BitVec 2) (s : State) : ∃ out, execCmbput d a b xf k s = s.finish out := by
  unfold execCmbput
  first | exact finish_finishes _ _ | (repeat' split) <;> exact finish_finishes _ _
theorem execCmbputZ_finishes (a b : Reg) (s : State) : ∃ out, execCmbputZ a b s = s.finish out :=
  engineWord_finishes ..
theorem execSbar_finishes (pre post : BitVec 8) (s : State) : ∃ out, execSbar pre post s = s.finish out :=
  engineWord_finishes ..
theorem execFenceRel_finishes (sc : BitVec 2) (s : State) : ∃ out, execFenceRel sc s = s.finish out :=
  engineWord_finishes ..
theorem execFenceAcq_finishes (sc : BitVec 2) (s : State) : ∃ out, execFenceAcq sc s = s.finish out :=
  engineWord_finishes ..
theorem execLdAcqW_finishes (d a : Reg) (sc : BitVec 2) (s : State) : ∃ out, execLdAcqW d a sc s = s.finish out :=
  loadAcquire_finishes ..
theorem execLdAcqD_finishes (d a : Reg) (sc : BitVec 2) (s : State) : ∃ out, execLdAcqD d a sc s = s.finish out :=
  loadAcquire_finishes ..
theorem execStRelW_finishes (a b : Reg) (sc : BitVec 2) (s : State) : ∃ out, execStRelW a b sc s = s.finish out :=
  storeRelease_finishes ..
theorem execStRelD_finishes (a b : Reg) (sc : BitVec 2) (s : State) : ∃ out, execStRelD a b sc s = s.finish out :=
  storeRelease_finishes ..
theorem execAccw_finishes (a b : Reg) (s : State) : ∃ out, execAccw a b s = s.finish out := by
  unfold execAccw
  first | exact finish_finishes _ _ | (repeat' split) <;> exact finish_finishes _ _
theorem execAccm_finishes (a : Reg) (s : State) : ∃ out, execAccm a s = s.finish out := by
  unfold execAccm
  first | exact finish_finishes _ _ | (repeat' split) <;> exact finish_finishes _ _
theorem execIpost_finishes (a b : Reg) (s : State) : ∃ out, execIpost a b s = s.finish out := by
  unfold execIpost
  first | exact finish_finishes _ _ | (repeat' split) <;> exact finish_finishes _ _
theorem execIwait_finishes (d a b : Reg) (s : State) : ∃ out, execIwait d a b s = s.finish out := by
  unfold execIwait
  first | exact finish_finishes _ _ | (repeat' split) <;> exact finish_finishes _ _
theorem execMbarArr_finishes (d a : Reg) (s : State) : ∃ out, execMbarArr d a s = s.finish out :=
  arriveWord_finishes ..
theorem execMbarWait_finishes (a b : Reg) (s : State) : ∃ out, execMbarWait a b s = s.finish out :=
  waitWord_finishes ..
theorem execDbarArr_finishes (d a : Reg) (s : State) : ∃ out, execDbarArr d a s = s.finish out :=
  arriveWord_finishes ..
theorem execDbarWait_finishes (a b : Reg) (s : State) : ∃ out, execDbarWait a b s = s.finish out :=
  waitWord_finishes ..
theorem execMwait_finishes (d a b tmo : Reg) (s : State) : ∃ out, execMwait d a b tmo s = s.finish out := by
  unfold execMwait
  first | exact finish_finishes _ _ | (repeat' split) <;> exact finish_finishes _ _
theorem execQput_finishes (d a b : Reg) (s : State) : ∃ out, execQput d a b s = s.finish out := by
  unfold execQput
  first | exact finish_finishes _ _ | (repeat' split) <;> exact finish_finishes _ _
theorem execKtrig_finishes (s : State) : ∃ out, execKtrig s = s.finish out :=
  engineWord_finishes ..
theorem execSeal_finishes (s : State) : ∃ out, execSeal s = s.finish out :=
  engineWord_finishes ..
theorem execXhold_finishes (s : State) : ∃ out, execXhold s = s.finish out :=
  engineWord_finishes ..
theorem execStrandOverdue_finishes (sid : Nat) (s : State) : ∃ out, execStrandOverdue sid s = s.finish out := by
  unfold execStrandOverdue
  first | exact finish_finishes _ _ | (repeat' split) <;> exact finish_finishes _ _
theorem execTimerTrap_finishes (sid : Nat) (s : State) : ∃ out, execTimerTrap sid s = s.finish out := by
  unfold execTimerTrap
  first | exact finish_finishes _ _ | (repeat' split) <;> exact finish_finishes _ _
theorem execWfiWake_finishes (sid : Nat) (s : State) : ∃ out, execWfiWake sid s = s.finish out := by
  unfold execWfiWake
  first | exact finish_finishes _ _ | (repeat' split) <;> exact finish_finishes _ _
theorem execTrcctlMark_finishes (core : Nat) (mark : BitVec 16) (s : State) : ∃ out, execTrcctlMark core mark s = s.finish out := by
  unfold execTrcctlMark
  first | exact finish_finishes _ _ | (repeat' split) <;> exact finish_finishes _ _
theorem execTrcctlCopy_finishes (core : Nat) (s : State) : ∃ out, execTrcctlCopy core s = s.finish out := by
  unfold execTrcctlCopy
  first | exact finish_finishes _ _ | (repeat' split) <;> exact finish_finishes _ _
theorem execTrcctlClr_finishes (core : Nat) (s : State) : ∃ out, execTrcctlClr core s = s.finish out := by
  unfold execTrcctlClr
  first | exact finish_finishes _ _ | (repeat' split) <;> exact finish_finishes _ _
theorem execRegisterWrite_finishes (r : SysReg) (val : W64) (s : State) : ∃ out, execRegisterWrite r val s = s.finish out := by
  unfold execRegisterWrite
  first | exact finish_finishes _ _ | (repeat' split) <;> exact finish_finishes _ _
theorem execBarrierConfigWrite_finishes (b : BarId) (val : W64) (s : State) : ∃ out, execBarrierConfigWrite b val s = s.finish out := by
  unfold execBarrierConfigWrite
  first | exact finish_finishes _ _ | (repeat' split) <;> exact finish_finishes _ _
theorem execRingConfigWrite_finishes (meadow stage : Nat) (state : Bool) (val : W64) (s : State) : ∃ out, execRingConfigWrite meadow stage state val s = s.finish out := by
  unfold execRingConfigWrite
  first | exact finish_finishes _ _ | (repeat' split) <;> exact finish_finishes _ _
theorem execHberrClear_finishes (bank : Nat) (val : W64) (s : State) : ∃ out, execHberrClear bank val s = s.finish out := by
  unfold execHberrClear
  first | exact finish_finishes _ _ | (repeat' split) <;> exact finish_finishes _ _
theorem execEditPortWrite_finishes (sys ctx va addr : Nat) (entry : W64) (mark : Option Bool) (s : State) : ∃ out, execEditPortWrite sys ctx va addr entry mark s = s.finish out := by
  unfold execEditPortWrite
  first | exact finish_finishes _ _ | (repeat' split) <;> exact finish_finishes _ _
theorem execShootDown_finishes (sys ctx va len : Nat) (s : State) : ∃ out, execShootDown sys ctx va len s = s.finish out := by
  unfold execShootDown
  first | exact finish_finishes _ _ | (repeat' split) <;> exact finish_finishes _ _
theorem execTlbParityRefetch_finishes (unit ctx va : Nat) (s : State) : ∃ out, execTlbParityRefetch unit ctx va s = s.finish out := by
  unfold execTlbParityRefetch
  first | exact finish_finishes _ _ | (repeat' split) <;> exact finish_finishes _ _
theorem execCopyLand_finishes (sid : Nat) (tag : BitVec 6) (s : State) : ∃ out, execCopyLand sid tag s = s.finish out := by
  unfold execCopyLand
  first | exact finish_finishes _ _ | (repeat' split) <;> exact finish_finishes _ _
theorem execCopyFault_finishes (sid : Nat) (tag : BitVec 6) (s : State) : ∃ out, execCopyFault sid tag s = s.finish out := by
  unfold execCopyFault
  first | exact finish_finishes _ _ | (repeat' split) <;> exact finish_finishes _ _
theorem execCopySourceError_finishes (sid : Nat) (tag : BitVec 6) (found : SourceError) (s : State) : ∃ out, execCopySourceError sid tag found s = s.finish out := by
  unfold execCopySourceError
  first | exact finish_finishes _ _ | (repeat' split) <;> exact finish_finishes _ _
theorem execCopySourcePoison_finishes (sid : Nat) (tag : BitVec 6) (s : State) : ∃ out, execCopySourcePoison sid tag s = s.finish out := by
  unfold execCopySourcePoison
  first | exact finish_finishes _ _ | (repeat' split) <;> exact finish_finishes _ _
theorem execAtomicResponse_finishes (sid : Nat) (s : State) : ∃ out, execAtomicResponse sid s = s.finish out := by
  unfold execAtomicResponse
  first | exact finish_finishes _ _ | (repeat' split) <;> exact finish_finishes _ _
theorem execNoreturnAtomicPerform_finishes (sid : Nat) (ch : BitVec 2) (s : State) : ∃ out, execNoreturnAtomicPerform sid ch s = s.finish out := by
  unfold execNoreturnAtomicPerform
  first | exact finish_finishes _ _ | (repeat' split) <;> exact finish_finishes _ _
theorem execCmbputPerform_finishes (sid : Nat) (s : State) : ∃ out, execCmbputPerform sid s = s.finish out := by
  unfold execCmbputPerform
  first | exact finish_finishes _ _ | (repeat' split) <;> exact finish_finishes _ _
theorem execHeathSlotCheck_finishes (sid : Nat) (tag : BitVec 6) (s : State) : ∃ out, execHeathSlotCheck sid tag s = s.finish out := by
  unfold execHeathSlotCheck
  first | exact finish_finishes _ _ | (repeat' split) <;> exact finish_finishes _ _
theorem execHeathPass1Done_finishes (sid : Nat) (tag : BitVec 6) (s : State) : ∃ out, execHeathPass1Done sid tag s = s.finish out := by
  unfold execHeathPass1Done
  first | exact finish_finishes _ _ | (repeat' split) <;> exact finish_finishes _ _
theorem execHeathBankError_finishes (sid : Nat) (tag : BitVec 6) (pa : Nat) (s : State) : ∃ out, execHeathBankError sid tag pa s = s.finish out := by
  unfold execHeathBankError
  first | exact finish_finishes _ _ | (repeat' split) <;> exact finish_finishes _ _
theorem execHeathReply_finishes (sid : Nat) (tag : BitVec 6) (s : State) : ∃ out, execHeathReply sid tag s = s.finish out := by
  unfold execHeathReply
  first | exact finish_finishes _ _ | (repeat' split) <;> exact finish_finishes _ _
theorem execHbcastLand_finishes (sid : Nat) (tag : BitVec 6) (s : State) : ∃ out, execHbcastLand sid tag s = s.finish out := by
  unfold execHbcastLand
  first | exact finish_finishes _ _ | (repeat' split) <;> exact finish_finishes _ _
theorem execHmoveDone_finishes (sid : Nat) (tag : BitVec 6) (bad : Option Nat) (s : State) : ∃ out, execHmoveDone sid tag bad s = s.finish out := by
  unfold execHmoveDone
  first | exact finish_finishes _ _ | (repeat' split) <;> exact finish_finishes _ _
theorem execHevictDone_finishes (sid : Nat) (s : State) : ∃ out, execHevictDone sid s = s.finish out := by
  unfold execHevictDone
  first | exact finish_finishes _ _ | (repeat' split) <;> exact finish_finishes _ _
theorem execHrestoreDone_finishes (sid : Nat) (s : State) : ∃ out, execHrestoreDone sid s = s.finish out := by
  unfold execHrestoreDone
  first | exact finish_finishes _ _ | (repeat' split) <;> exact finish_finishes _ _
theorem execBarrierTimeout_finishes (sid : Nat) (s : State) : ∃ out, execBarrierTimeout sid s = s.finish out := by
  unfold execBarrierTimeout
  first | exact finish_finishes _ _ | (repeat' split) <;> exact finish_finishes _ _
theorem execIwaitTimeout_finishes (sid : Nat) (s : State) : ∃ out, execIwaitTimeout sid s = s.finish out := by
  unfold execIwaitTimeout
  first | exact finish_finishes _ _ | (repeat' split) <;> exact finish_finishes _ _
theorem execMwaitTimeout_finishes (sid : Nat) (s : State) : ∃ out, execMwaitTimeout sid s = s.finish out := by
  unfold execMwaitTimeout
  first | exact finish_finishes _ _ | (repeat' split) <;> exact finish_finishes _ _
theorem execWalkerPlace_finishes (s : State) : ∃ out, execWalkerPlace s = s.finish out := by
  unfold execWalkerPlace
  first | exact finish_finishes _ _ | (repeat' split) <;> exact finish_finishes _ _
theorem execPreemptRequest_finishes (core ctx : Nat) (s : State) : ∃ out, execPreemptRequest core ctx s = s.finish out := by
  unfold execPreemptRequest
  first | exact finish_finishes _ _ | (repeat' split) <;> exact finish_finishes _ _
theorem execPreemptSaveDone_finishes (core : Nat) (s : State) : ∃ out, execPreemptSaveDone core s = s.finish out := by
  unfold execPreemptSaveDone
  first | exact finish_finishes _ _ | (repeat' split) <;> exact finish_finishes _ _
theorem execLaneReclaimRequest_finishes (core ctx : Nat) (s : State) : ∃ out, execLaneReclaimRequest core ctx s = s.finish out := by
  unfold execLaneReclaimRequest
  first | exact finish_finishes _ _ | (repeat' split) <;> exact finish_finishes _ _
theorem execReclaimTimeout_finishes (core : Nat) (s : State) : ∃ out, execReclaimTimeout core s = s.finish out := by
  unfold execReclaimTimeout
  first | exact finish_finishes _ _ | (repeat' split) <;> exact finish_finishes _ _
theorem execLaneWaitReturn_finishes (gid : Nat) (s : State) : ∃ out, execLaneWaitReturn gid s = s.finish out := by
  unfold execLaneWaitReturn
  first | exact finish_finishes _ _ | (repeat' split) <;> exact finish_finishes _ _
theorem execGroupRestore_finishes (gid : Nat) (s : State) : ∃ out, execGroupRestore gid s = s.finish out := by
  unfold execGroupRestore
  first | exact finish_finishes _ _ | (repeat' split) <;> exact finish_finishes _ _
theorem execUeConsumed_finishes (sid : Nat) (site : ErrSite) (addr : W64) (mismatch : Bool) (ch : Option (BitVec 2)) (s : State) : ∃ out, execUeConsumed sid site addr mismatch ch s = s.finish out := by
  unfold execUeConsumed
  first | exact finish_finishes _ _ | (repeat' split) <;> exact finish_finishes _ _
theorem execScrubberVisit_finishes (heath : Bool) (line : Nat) (found : Scrub) (s : State) : ∃ out, execScrubberVisit heath line found s = s.finish out := by
  unfold execScrubberVisit
  first | exact finish_finishes _ _ | (repeat' split) <;> exact finish_finishes _ _
theorem execSealTimer_finishes (s : State) : ∃ out, execSealTimer s = s.finish out := by
  unfold execSealTimer
  first | exact finish_finishes _ _ | (repeat' split) <;> exact finish_finishes _ _
theorem execSealRequest_finishes (module : Nat) (s : State) : ∃ out, execSealRequest module s = s.finish out := by
  unfold execSealRequest
  first | exact finish_finishes _ _ | (repeat' split) <;> exact finish_finishes _ _
theorem execSealPrepare_finishes (n : W32) (s : State) : ∃ out, execSealPrepare n s = s.finish out := by
  unfold execSealPrepare
  first | exact finish_finishes _ _ | (repeat' split) <;> exact finish_finishes _ _
theorem execSealResume_finishes (s : State) : ∃ out, execSealResume s = s.finish out := by
  unfold execSealResume
  first | exact finish_finishes _ _ | (repeat' split) <;> exact finish_finishes _ _
theorem execSealImagesDone_finishes (s : State) : ∃ out, execSealImagesDone s = s.finish out := by
  unfold execSealImagesDone
  first | exact finish_finishes _ _ | (repeat' split) <;> exact finish_finishes _ _
theorem execSealReady_finishes (module : Nat) (s : State) : ∃ out, execSealReady module s = s.finish out := by
  unfold execSealReady
  first | exact finish_finishes _ _ | (repeat' split) <;> exact finish_finishes _ _
theorem execSealCommit_finishes (ns : Nat) (s : State) : ∃ out, execSealCommit ns s = s.finish out := by
  unfold execSealCommit
  first | exact finish_finishes _ _ | (repeat' split) <;> exact finish_finishes _ _
theorem execSealAbort_finishes (s : State) : ∃ out, execSealAbort s = s.finish out := by
  unfold execSealAbort
  first | exact finish_finishes _ _ | (repeat' split) <;> exact finish_finishes _ _
theorem execSealReadyTimeout_finishes (s : State) : ∃ out, execSealReadyTimeout s = s.finish out := by
  unfold execSealReadyTimeout
  first | exact finish_finishes _ _ | (repeat' split) <;> exact finish_finishes _ _
theorem execCoordinatorTimeout_finishes (s : State) : ∃ out, execCoordinatorTimeout s = s.finish out := by
  unfold execCoordinatorTimeout
  first | exact finish_finishes _ _ | (repeat' split) <;> exact finish_finishes _ _
theorem execRollback_finishes (begun : List Nat) (s : State) : ∃ out, execRollback begun s = s.finish out := by
  unfold execRollback
  first | exact finish_finishes _ _ | (repeat' split) <;> exact finish_finishes _ _
theorem execInitialSeal_finishes (s : State) : ∃ out, execInitialSeal s = s.finish out := by
  unfold execInitialSeal
  first | exact finish_finishes _ _ | (repeat' split) <;> exact finish_finishes _ _
theorem execSnapshotStreamEnd_finishes (s : State) : ∃ out, execSnapshotStreamEnd s = s.finish out := by
  unfold execSnapshotStreamEnd
  first | exact finish_finishes _ _ | (repeat' split) <;> exact finish_finishes _ _
theorem execJeoreAck_finishes (port : Nat) (seq : BitVec 16) (s : State) : ∃ out, execJeoreAck port seq s = s.finish out := by
  unfold execJeoreAck
  first | exact finish_finishes _ _ | (repeat' split) <;> exact finish_finishes _ _
theorem execJeoreNak_finishes (port : Nat) (last : BitVec 16) (s : State) : ∃ out, execJeoreNak port last s = s.finish out := by
  unfold execJeoreNak
  first | exact finish_finishes _ _ | (repeat' split) <;> exact finish_finishes _ _
theorem execJeoreFlitBad_finishes (port : Nat) (s : State) : ∃ out, execJeoreFlitBad port s = s.finish out := by
  unfold execJeoreFlitBad
  first | exact finish_finishes _ _ | (repeat' split) <;> exact finish_finishes _ _
theorem execJeoreRemoteWrite_finishes (port : Nat) (heath : Bool) (addr : Nat) (bytes : List Byte) (owner : BitVec 12) (s : State) : ∃ out, execJeoreRemoteWrite port heath addr bytes owner s = s.finish out := by
  unfold execJeoreRemoteWrite
  first | exact finish_finishes _ _ | (repeat' split) <;> exact finish_finishes _ _
theorem execJeoreAtomicRequest_finishes (port : Nat) (op : AtomOp) (wide : Bool) (addr : Nat) (b c : W64) (who : Asker) (more : AtomRest) (s : State) : ∃ out, execJeoreAtomicRequest port op wide addr b c who more s = s.finish out := by
  unfold execJeoreAtomicRequest
  first | exact finish_finishes _ _ | (repeat' split) <;> exact finish_finishes _ _
theorem execJeoreAtomicResponse_finishes (port : Nat) (who : Asker) (answer : AtomAnswer) (s : State) : ∃ out, execJeoreAtomicResponse port who answer s = s.finish out := by
  unfold execJeoreAtomicResponse
  first | exact finish_finishes _ _ | (repeat' split) <;> exact finish_finishes _ _
theorem execJeoreCopyReadRequest_finishes (port : Nat) (first : Nat × Nat) (more : List (Nat × Nat)) (s : State) : ∃ out, execJeoreCopyReadRequest port first more s = s.finish out := by
  unfold execJeoreCopyReadRequest
  first | exact finish_finishes _ _ | (repeat' split) <;> exact finish_finishes _ _
theorem execJeoreCopyReadData_finishes (port : Nat) (copy : CopyName) (bytes : List Byte) (s : State) : ∃ out, execJeoreCopyReadData port copy bytes s = s.finish out := by
  unfold execJeoreCopyReadData
  first | exact finish_finishes _ _ | (repeat' split) <;> exact finish_finishes _ _
theorem execLinkTrainingComplete_finishes (port : Nat) (wide : Bool) (s : State) : ∃ out, execLinkTrainingComplete port wide s = s.finish out := by
  unfold execLinkTrainingComplete
  first | exact finish_finishes _ _ | (repeat' split) <;> exact finish_finishes _ _
theorem execLinkTrainingTimeout_finishes (port : Nat) (s : State) : ∃ out, execLinkTrainingTimeout port s = s.finish out := by
  unfold execLinkTrainingTimeout
  first | exact finish_finishes _ _ | (repeat' split) <;> exact finish_finishes _ _
theorem execLinkLaneLost_finishes (port : Nat) (s : State) : ∃ out, execLinkLaneLost port s = s.finish out := by
  unfold execLinkLaneLost
  first | exact finish_finishes _ _ | (repeat' split) <;> exact finish_finishes _ _
theorem execHostLinkDown_finishes (s : State) : ∃ out, execHostLinkDown s = s.finish out := by
  unfold execHostLinkDown
  first | exact finish_finishes _ _ | (repeat' split) <;> exact finish_finishes _ _
theorem execHostLinkUp_finishes (s : State) : ∃ out, execHostLinkUp s = s.finish out := by
  unfold execHostLinkUp
  first | exact finish_finishes _ _ | (repeat' split) <;> exact finish_finishes _ _
theorem execModuleBoot_finishes (a b : Option BootSlot) (s : State) : ∃ out, execModuleBoot a b s = s.finish out := by
  unfold execModuleBoot
  first | exact finish_finishes _ _ | (repeat' split) <;> exact finish_finishes _ _
theorem execUnitStart_finishes (u : StartUnit) (s : State) : ∃ out, execUnitStart u s = s.finish out := by
  unfold execUnitStart
  first | exact finish_finishes _ _ | (repeat' split) <;> exact finish_finishes _ _
theorem execMatrixIdle_finishes (core : Nat) (s : State) : ∃ out, execMatrixIdle core s = s.finish out := by
  unfold execMatrixIdle
  first | exact finish_finishes _ _ | (repeat' split) <;> exact finish_finishes _ _
theorem execHeathGovernorWindow_finishes (watts : Nat) (s : State) : ∃ out, execHeathGovernorWindow watts s = s.finish out := by
  unfold execHeathGovernorWindow
  first | exact finish_finishes _ _ | (repeat' split) <;> exact finish_finishes _ _
theorem execThermalThrottle_finishes (s : State) : ∃ out, execThermalThrottle s = s.finish out := by
  unfold execThermalThrottle
  first | exact finish_finishes _ _ | (repeat' split) <;> exact finish_finishes _ _
theorem execThermalShutdown_finishes (s : State) : ∃ out, execThermalShutdown s = s.finish out := by
  unfold execThermalShutdown
  first | exact finish_finishes _ _ | (repeat' split) <;> exact finish_finishes _ _
theorem execCommandReply_finishes (fn : Nat) (s : State) : ∃ out, execCommandReply fn s = s.finish out := by
  unfold execCommandReply
  first | exact finish_finishes _ _ | (repeat' split) <;> exact finish_finishes _ _
theorem execIdentify_finishes (fn : Nat) (s : State) : ∃ out, execIdentify fn s = s.finish out := by
  unfold execIdentify
  first | exact finish_finishes _ _ | (repeat' split) <;> exact finish_finishes _ _
theorem execAttest_finishes (fn : Nat) (nonce : List Byte) (buf len : Nat) (s : State) : ∃ out, execAttest fn nonce buf len s = s.finish out := by
  unfold execAttest
  first | exact finish_finishes _ _ | (repeat' split) <;> exact finish_finishes _ _
theorem execCreateContext_finishes (fn : Nat) (p : CtxParams) (s : State) : ∃ out, execCreateContext fn p s = s.finish out := by
  unfold execCreateContext
  first | exact finish_finishes _ _ | (repeat' split) <;> exact finish_finishes _ _
theorem execDestroyContext_finishes (fn ctx : Nat) (s : State) : ∃ out, execDestroyContext fn ctx s = s.finish out := by
  unfold execDestroyContext
  first | exact finish_finishes _ _ | (repeat' split) <;> exact finish_finishes _ _
theorem execStopContext_finishes (fn ctx : Nat) (s : State) : ∃ out, execStopContext fn ctx s = s.finish out := by
  unfold execStopContext
  first | exact finish_finishes _ _ | (repeat' split) <;> exact finish_finishes _ _
theorem execResumeContext_finishes (fn ctx : Nat) (s : State) : ∃ out, execResumeContext fn ctx s = s.finish out := by
  unfold execResumeContext
  first | exact finish_finishes _ _ | (repeat' split) <;> exact finish_finishes _ _
theorem execMapPages_finishes (fn : Nat) (p : MapParams) (s : State) : ∃ out, execMapPages fn p s = s.finish out := by
  unfold execMapPages
  first | exact finish_finishes _ _ | (repeat' split) <;> exact finish_finishes _ _
theorem execUnmapPages_finishes (fn ctx va len : Nat) (s : State) : ∃ out, execUnmapPages fn ctx va len s = s.finish out := by
  unfold execUnmapPages
  first | exact finish_finishes _ _ | (repeat' split) <;> exact finish_finishes _ _
theorem execHostImport_finishes (fn ctx va hostAddr len : Nat) (s : State) : ∃ out, execHostImport fn ctx va hostAddr len s = s.finish out := by
  unfold execHostImport
  first | exact finish_finishes _ _ | (repeat' split) <;> exact finish_finishes _ _
theorem execHostExport_finishes (fn ctx va hostAddr len : Nat) (s : State) : ∃ out, execHostExport fn ctx va hostAddr len s = s.finish out := by
  unfold execHostExport
  first | exact finish_finishes _ _ | (repeat' split) <;> exact finish_finishes _ _
theorem execRunRoot_finishes (fn ctx recVa : Nat) (s : State) : ∃ out, execRunRoot fn ctx recVa s = s.finish out := by
  unfold execRunRoot
  first | exact finish_finishes _ _ | (repeat' split) <;> exact finish_finishes _ _
theorem execSnapshot_finishes (fn : Nat) (ctx : Option Nat) (s : State) : ∃ out, execSnapshot fn ctx s = s.finish out := by
  unfold execSnapshot
  first | exact finish_finishes _ _ | (repeat' split) <;> exact finish_finishes _ _
theorem execRestoreModule_finishes (fn : Nat) (s : State) : ∃ out, execRestoreModule fn s = s.finish out := by
  unfold execRestoreModule
  first | exact finish_finishes _ _ | (repeat' split) <;> exact finish_finishes _ _
theorem execReadDump_finishes (fn : Nat) (tenant : W64) (slot : Option Nat) (release : Bool) (hostAddr : Nat) (s : State) : ∃ out, execReadDump fn tenant slot release hostAddr s = s.finish out := by
  unfold execReadDump
  first | exact finish_finishes _ _ | (repeat' split) <;> exact finish_finishes _ _
theorem execConfigureLinks_finishes (fn : Nat) (p : LinkParams) (s : State) : ∃ out, execConfigureLinks fn p s = s.finish out := by
  unfold execConfigureLinks
  first | exact finish_finishes _ _ | (repeat' split) <;> exact finish_finishes _ _
theorem execConfigureManagement_finishes (fn : Nat) (p : MgmtParams) (s : State) : ∃ out, execConfigureManagement fn p s = s.finish out := by
  unfold execConfigureManagement
  first | exact finish_finishes _ _ | (repeat' split) <;> exact finish_finishes _ _
theorem execResetFunction_finishes (fn : Nat) (s : State) : ∃ out, execResetFunction fn s = s.finish out := by
  unfold execResetFunction
  first | exact finish_finishes _ _ | (repeat' split) <;> exact finish_finishes _ _
theorem execResetModule_finishes (fn : Nat) (s : State) : ∃ out, execResetModule fn s = s.finish out := by
  unfold execResetModule
  first | exact finish_finishes _ _ | (repeat' split) <;> exact finish_finishes _ _
theorem execCmdregWrite_finishes (fn : Nat) (opc : BitVec 16) (seq : W32) (page : CmdParam) (val : W64) (s : State) : ∃ out, execCmdregWrite fn opc seq page val s = s.finish out := by
  unfold execCmdregWrite
  first | exact finish_finishes _ _ | (repeat' split) <;> exact finish_finishes _ _
theorem execScratchpadBankWake_finishes (core bank : Nat) (s : State) : ∃ out, execScratchpadBankWake core bank s = s.finish out := by
  unfold execScratchpadBankWake
  first | exact finish_finishes _ _ | (repeat' split) <;> exact finish_finishes _ _
theorem execCopyPerformed_finishes (sid : Nat) (tag : BitVec 6) (s : State) : ∃ out, execCopyPerformed sid tag s = s.finish out := by
  unfold execCopyPerformed
  first | exact finish_finishes _ _ | (repeat' split) <;> exact finish_finishes _ _
theorem execReplayStart_finishes (s : State) : ∃ out, execReplayStart s = s.finish out := by
  unfold execReplayStart
  first | exact finish_finishes _ _ | (repeat' split) <;> exact finish_finishes _ _
theorem execTestServiceSet_finishes (on : Bool) (s : State) : ∃ out, execTestServiceSet on s = s.finish out := by
  unfold execTestServiceSet
  first | exact finish_finishes _ _ | (repeat' split) <;> exact finish_finishes _ _

end Sys2Proof.Machine
end

