-- ==== Sys2Proof/Laws/Dispatch.lean ====
section
/-! SUPPORT. `exec` by constructor, and what every instruction but a slab-cycle ends with. -/

namespace Sys2Proof.Machine

@[simp] theorem exec_add (d a b : Reg) (s : State) : exec (.add d a b) s = execAdd d a b s := rfl
@[simp] theorem exec_sub (d a b : Reg) (s : State) : exec (.sub d a b) s = execSub d a b s := rfl
@[simp] theorem exec_and (d a b : Reg) (s : State) : exec (.and d a b) s = execAnd d a b s := rfl
@[simp] theorem exec_or (d a b : Reg) (s : State) : exec (.or d a b) s = execOr d a b s := rfl
@[simp] theorem exec_xor (d a b : Reg) (s : State) : exec (.xor d a b) s = execXor d a b s := rfl
@[simp] theorem exec_sll (d a b : Reg) (s : State) : exec (.sll d a b) s = execSll d a b s := rfl
@[simp] theorem exec_srl (d a b : Reg) (s : State) : exec (.srl d a b) s = execSrl d a b s := rfl
@[simp] theorem exec_sra (d a b : Reg) (s : State) : exec (.sra d a b) s = execSra d a b s := rfl
@[simp] theorem exec_slt (d a b : Reg) (s : State) : exec (.slt d a b) s = execSlt d a b s := rfl
@[simp] theorem exec_sltu (d a b : Reg) (s : State) : exec (.sltu d a b) s = execSltu d a b s := rfl
@[simp] theorem exec_mul (d a b : Reg) (s : State) : exec (.mul d a b) s = execMul d a b s := rfl
@[simp] theorem exec_mulh (d a b : Reg) (s : State) : exec (.mulh d a b) s = execMulh d a b s := rfl
@[simp] theorem exec_mulhu (d a b : Reg) (s : State) : exec (.mulhu d a b) s = execMulhu d a b s := rfl
@[simp] theorem exec_div (d a b : Reg) (s : State) : exec (.div d a b) s = execDiv d a b s := rfl
@[simp] theorem exec_divu (d a b : Reg) (s : State) : exec (.divu d a b) s = execDivu d a b s := rfl
@[simp] theorem exec_rem (d a b : Reg) (s : State) : exec (.rem d a b) s = execRem d a b s := rfl
@[simp] theorem exec_remu (d a b : Reg) (s : State) : exec (.remu d a b) s = execRemu d a b s := rfl
@[simp] theorem exec_min (d a b : Reg) (s : State) : exec (.min d a b) s = execMin d a b s := rfl
@[simp] theorem exec_max (d a b : Reg) (s : State) : exec (.max d a b) s = execMax d a b s := rfl
@[simp] theorem exec_minu (d a b : Reg) (s : State) : exec (.minu d a b) s = execMinu d a b s := rfl
@[simp] theorem exec_maxu (d a b : Reg) (s : State) : exec (.maxu d a b) s = execMaxu d a b s := rfl
@[simp] theorem exec_clz (d a : Reg) (s : State) : exec (.clz d a) s = execClz d a s := rfl
@[simp] theorem exec_ctz (d a : Reg) (s : State) : exec (.ctz d a) s = execCtz d a s := rfl
@[simp] theorem exec_popc (d a : Reg) (s : State) : exec (.popc d a) s = execPopc d a s := rfl
@[simp] theorem exec_zextb (d a : Reg) (s : State) : exec (.zextb d a) s = execZextb d a s := rfl
@[simp] theorem exec_zexth (d a : Reg) (s : State) : exec (.zexth d a) s = execZexth d a s := rfl
@[simp] theorem exec_zextw (d a : Reg) (s : State) : exec (.zextw d a) s = execZextw d a s := rfl
@[simp] theorem exec_sextb (d a : Reg) (s : State) : exec (.sextb d a) s = execSextb d a s := rfl
@[simp] theorem exec_sexth (d a : Reg) (s : State) : exec (.sexth d a) s = execSexth d a s := rfl
@[simp] theorem exec_sextw (d a : Reg) (s : State) : exec (.sextw d a) s = execSextw d a s := rfl
@[simp] theorem exec_addi (d a : Reg) (imm : BitVec 15) (s : State) : exec (.addi d a imm) s = execAddi d a imm s := rfl
@[simp] theorem exec_andi (d a : Reg) (imm : BitVec 15) (s : State) : exec (.andi d a imm) s = execAndi d a imm s := rfl
@[simp] theorem exec_ori (d a : Reg) (imm : BitVec 15) (s : State) : exec (.ori d a imm) s = execOri d a imm s := rfl
@[simp] theorem exec_xori (d a : Reg) (imm : BitVec 15) (s : State) : exec (.xori d a imm) s = execXori d a imm s := rfl
@[simp] theorem exec_slti (d a : Reg) (imm : BitVec 15) (s : State) : exec (.slti d a imm) s = execSlti d a imm s := rfl
@[simp] theorem exec_sltiu (d a : Reg) (imm : BitVec 15) (s : State) : exec (.sltiu d a imm) s = execSltiu d a imm s := rfl
@[simp] theorem exec_slli (d a : Reg) (sh : BitVec 6) (s : State) : exec (.slli d a sh) s = execSlli d a sh s := rfl
@[simp] theorem exec_srli (d a : Reg) (sh : BitVec 6) (s : State) : exec (.srli d a sh) s = execSrli d a sh s := rfl
@[simp] theorem exec_srai (d a : Reg) (sh : BitVec 6) (s : State) : exec (.srai d a sh) s = execSrai d a sh s := rfl
@[simp] theorem exec_lhi (d : Reg) (imm : BitVec 20) (s : State) : exec (.lhi d imm) s = execLhi d imm s := rfl
@[simp] theorem exec_lpc (d : Reg) (imm : BitVec 20) (s : State) : exec (.lpc d imm) s = execLpc d imm s := rfl
@[simp] theorem exec_fadd (d a b : Reg) (rm : BitVec 2) (s : State) : exec (.fadd d a b rm) s = execFadd d a b rm s := rfl
@[simp] theorem exec_fsub (d a b : Reg) (rm : BitVec 2) (s : State) : exec (.fsub d a b rm) s = execFsub d a b rm s := rfl
@[simp] theorem exec_fmul (d a b : Reg) (rm : BitVec 2) (s : State) : exec (.fmul d a b rm) s = execFmul d a b rm s := rfl
@[simp] theorem exec_fdiv (d a b : Reg) (rm : BitVec 2) (s : State) : exec (.fdiv d a b rm) s = execFdiv d a b rm s := rfl
@[simp] theorem exec_fsqrt (d a : Reg) (rm : BitVec 2) (s : State) : exec (.fsqrt d a rm) s = execFsqrt d a rm s := rfl
@[simp] theorem exec_fmin (d a b : Reg) (s : State) : exec (.fmin d a b) s = execFmin d a b s := rfl
@[simp] theorem exec_fmax (d a b : Reg) (s : State) : exec (.fmax d a b) s = execFmax d a b s := rfl
@[simp] theorem exec_feq (d a b : Reg) (s : State) : exec (.feq d a b) s = execFeq d a b s := rfl
@[simp] theorem exec_flt (d a b : Reg) (s : State) : exec (.flt d a b) s = execFlt d a b s := rfl
@[simp] theorem exec_fle (d a b : Reg) (s : State) : exec (.fle d a b) s = execFle d a b s := rfl
@[simp] theorem exec_fcvtSL (d a : Reg) (rm : BitVec 2) (s : State) : exec (.fcvtSL d a rm) s = execFcvtSL d a rm s := rfl
@[simp] theorem exec_fcvtLS (d a : Reg) (rm : BitVec 2) (s : State) : exec (.fcvtLS d a rm) s = execFcvtLS d a rm s := rfl
@[simp] theorem exec_fclass (d a : Reg) (s : State) : exec (.fclass d a) s = execFclass d a s := rfl
@[simp] theorem exec_fmadd (d a b cc : Reg) (rm : BitVec 2) (s : State) : exec (.fmadd d a b cc rm) s = execFmadd d a b cc rm s := rfl
@[simp] theorem exec_fmsub (d a b cc : Reg) (rm : BitVec 2) (s : State) : exec (.fmsub d a b cc rm) s = execFmsub d a b cc rm s := rfl
@[simp] theorem exec_fnmadd (d a b cc : Reg) (rm : BitVec 2) (s : State) : exec (.fnmadd d a b cc rm) s = execFnmadd d a b cc rm s := rfl
@[simp] theorem exec_fnmsub (d a b cc : Reg) (rm : BitVec 2) (s : State) : exec (.fnmsub d a b cc rm) s = execFnmsub d a b cc rm s := rfl
@[simp] theorem exec_beq (a b : Reg) (off : BitVec 15) (s : State) : exec (.beq a b off) s = execBeq a b off s := rfl
@[simp] theorem exec_bne (a b : Reg) (off : BitVec 15) (s : State) : exec (.bne a b off) s = execBne a b off s := rfl
@[simp] theorem exec_blt (a b : Reg) (off : BitVec 15) (s : State) : exec (.blt a b off) s = execBlt a b off s := rfl
@[simp] theorem exec_bge (a b : Reg) (off : BitVec 15) (s : State) : exec (.bge a b off) s = execBge a b off s := rfl
@[simp] theorem exec_bltu (a b : Reg) (off : BitVec 15) (s : State) : exec (.bltu a b off) s = execBltu a b off s := rfl
@[simp] theorem exec_bgeu (a b : Reg) (off : BitVec 15) (s : State) : exec (.bgeu a b off) s = execBgeu a b off s := rfl
@[simp] theorem exec_jal (d : Reg) (imm : BitVec 20) (s : State) : exec (.jal d imm) s = execJal d imm s := rfl
@[simp] theorem exec_jalr (d a : Reg) (imm : BitVec 15) (s : State) : exec (.jalr d a imm) s = execJalr d a imm s := rfl
@[simp] theorem exec_ldB (d a : Reg) (st : BitVec 2) (imm : BitVec 11) (s : State) : exec (.ldB d a st imm) s = execLdB d a st imm s := rfl
@[simp] theorem exec_ldH (d a : Reg) (st : BitVec 2) (imm : BitVec 11) (s : State) : exec (.ldH d a st imm) s = execLdH d a st imm s := rfl
@[simp] theorem exec_ldW (d a : Reg) (st : BitVec 2) (imm : BitVec 11) (s : State) : exec (.ldW d a st imm) s = execLdW d a st imm s := rfl
@[simp] theorem exec_ldD (d a : Reg) (st : BitVec 2) (imm : BitVec 11) (s : State) : exec (.ldD d a st imm) s = execLdD d a st imm s := rfl
@[simp] theorem exec_stB (d a : Reg) (st : BitVec 2) (imm : BitVec 11) (s : State) : exec (.stB d a st imm) s = execStB d a st imm s := rfl
@[simp] theorem exec_stH (d a : Reg) (st : BitVec 2) (imm : BitVec 11) (s : State) : exec (.stH d a st imm) s = execStH d a st imm s := rfl
@[simp] theorem exec_stW (d a : Reg) (st : BitVec 2) (imm : BitVec 11) (s : State) : exec (.stW d a st imm) s = execStW d a st imm s := rfl
@[simp] theorem exec_stD (d a : Reg) (st : BitVec 2) (imm : BitVec 11) (s : State) : exec (.stD d a st imm) s = execStD d a st imm s := rfl
@[simp] theorem exec_spldB (d a : Reg) (st : BitVec 2) (imm : BitVec 11) (s : State) : exec (.spldB d a st imm) s = execSpldB d a st imm s := rfl
@[simp] theorem exec_spldH (d a : Reg) (st : BitVec 2) (imm : BitVec 11) (s : State) : exec (.spldH d a st imm) s = execSpldH d a st imm s := rfl
@[simp] theorem exec_spldW (d a : Reg) (st : BitVec 2) (imm : BitVec 11) (s : State) : exec (.spldW d a st imm) s = execSpldW d a st imm s := rfl
@[simp] theorem exec_spldD (d a : Reg) (st : BitVec 2) (imm : BitVec 11) (s : State) : exec (.spldD d a st imm) s = execSpldD d a st imm s := rfl
@[simp] theorem exec_spstB (d a : Reg) (st : BitVec 2) (imm : BitVec 11) (s : State) : exec (.spstB d a st imm) s = execSpstB d a st imm s := rfl
@[simp] theorem exec_spstH (d a : Reg) (st : BitVec 2) (imm : BitVec 11) (s : State) : exec (.spstH d a st imm) s = execSpstH d a st imm s := rfl
@[simp] theorem exec_spstW (d a : Reg) (st : BitVec 2) (imm : BitVec 11) (s : State) : exec (.spstW d a st imm) s = execSpstW d a st imm s := rfl
@[simp] theorem exec_spstD (d a : Reg) (st : BitVec 2) (imm : BitVec 11) (s : State) : exec (.spstD d a st imm) s = execSpstD d a st imm s := rfl
@[simp] theorem exec_csrr (d : Reg) (csr : BitVec 12) (s : State) : exec (.csrr d csr) s = execCsrr d csr s := rfl
@[simp] theorem exec_csrw (d a : Reg) (csr : BitVec 12) (s : State) : exec (.csrw d a csr) s = execCsrw d a csr s := rfl
@[simp] theorem exec_csrs (d a : Reg) (csr : BitVec 12) (s : State) : exec (.csrs d a csr) s = execCsrs d a csr s := rfl
@[simp] theorem exec_csrc (d a : Reg) (csr : BitVec 12) (s : State) : exec (.csrc d a csr) s = execCsrc d a csr s := rfl
@[simp] theorem exec_svc (s : State) : exec .svc s = execSvc s := rfl
@[simp] theorem exec_tret (s : State) : exec .tret s = execTret s := rfl
@[simp] theorem exec_brk (code : BitVec 5) (s : State) : exec (.brk code) s = execBrk code s := rfl
@[simp] theorem exec_wfi (s : State) : exec .wfi s = execWfi s := rfl
@[simp] theorem exec_gend (s : State) : exec .gend s = execGend s := rfl
@[simp] theorem exec_lend (s : State) : exec .lend s = execLend s := rfl
@[simp] theorem exec_hevict (a b : Reg) (s : State) : exec (.hevict a b) s = execHevict a b s := rfl
@[simp] theorem exec_hrestore (a b : Reg) (s : State) : exec (.hrestore a b) s = execHrestore a b s := rfl
@[simp] theorem exec_lbuf (d : Reg) (imm : BitVec 20) (s : State) : exec (.lbuf d imm) s = execLbuf d imm s := rfl
@[simp] theorem exec_vlset (d a : Reg) (gc sew : BitVec 2) (s : State) : exec (.vlset d a gc sew) s = execVlset d a gc sew s := rfl
@[simp] theorem exec_vadd (c : Bool) (d a b xf : Reg) (k : BitVec 2) (s : State) : exec (.vadd c d a b xf k) s = execVadd c d a b xf k s := rfl
@[simp] theorem exec_vsub (c : Bool) (d a b xf : Reg) (k : BitVec 2) (s : State) : exec (.vsub c d a b xf k) s = execVsub c d a b xf k s := rfl
@[simp] theorem exec_vmul (c : Bool) (d a b xf : Reg) (k : BitVec 2) (s : State) : exec (.vmul c d a b xf k) s = execVmul c d a b xf k s := rfl
@[simp] theorem exec_vdiv (c : Bool) (d a b xf : Reg) (k : BitVec 2) (s : State) : exec (.vdiv c d a b xf k) s = execVdiv c d a b xf k s := rfl
@[simp] theorem exec_vmin (c : Bool) (d a b xf : Reg) (k : BitVec 2) (s : State) : exec (.vmin c d a b xf k) s = execVmin c d a b xf k s := rfl
@[simp] theorem exec_vmax (c : Bool) (d a b xf : Reg) (k : BitVec 2) (s : State) : exec (.vmax c d a b xf k) s = execVmax c d a b xf k s := rfl
@[simp] theorem exec_vsqrt (c : Bool) (d a xf : Reg) (k : BitVec 2) (s : State) : exec (.vsqrt c d a xf k) s = execVsqrt c d a xf k s := rfl
@[simp] theorem exec_vabs (c : Bool) (d a xf : Reg) (k : BitVec 2) (s : State) : exec (.vabs c d a xf k) s = execVabs c d a xf k s := rfl
@[simp] theorem exec_vfma (c : Bool) (d a b xf : Reg) (k : BitVec 2) (s : State) : exec (.vfma c d a b xf k) s = execVfma c d a b xf k s := rfl
@[simp] theorem exec_vfms (c : Bool) (d a b xf : Reg) (k : BitVec 2) (s : State) : exec (.vfms c d a b xf k) s = execVfms c d a b xf k s := rfl
@[simp] theorem exec_vfnma (c : Bool) (d a b xf : Reg) (k : BitVec 2) (s : State) : exec (.vfnma c d a b xf k) s = execVfnma c d a b xf k s := rfl
@[simp] theorem exec_vfnms (c : Bool) (d a b xf : Reg) (k : BitVec 2) (s : State) : exec (.vfnms c d a b xf k) s = execVfnms c d a b xf k s := rfl
@[simp] theorem exec_vmulh (c : Bool) (d a b xf : Reg) (k : BitVec 2) (s : State) : exec (.vmulh c d a b xf k) s = execVmulh c d a b xf k s := rfl
@[simp] theorem exec_vrem (c : Bool) (d a b xf : Reg) (k : BitVec 2) (s : State) : exec (.vrem c d a b xf k) s = execVrem c d a b xf k s := rfl
@[simp] theorem exec_vneg (c : Bool) (d a xf : Reg) (k : BitVec 2) (s : State) : exec (.vneg c d a xf k) s = execVneg c d a xf k s := rfl
@[simp] theorem exec_vand (c : Bool) (d a b xf : Reg) (k : BitVec 2) (s : State) : exec (.vand c d a b xf k) s = execVand c d a b xf k s := rfl
@[simp] theorem exec_vor (c : Bool) (d a b xf : Reg) (k : BitVec 2) (s : State) : exec (.vor c d a b xf k) s = execVor c d a b xf k s := rfl
@[simp] theorem exec_vxor (c : Bool) (d a b xf : Reg) (k : BitVec 2) (s : State) : exec (.vxor c d a b xf k) s = execVxor c d a b xf k s := rfl
@[simp] theorem exec_vnot (c : Bool) (d a xf : Reg) (k : BitVec 2) (s : State) : exec (.vnot c d a xf k) s = execVnot c d a xf k s := rfl
@[simp] theorem exec_vsll (c : Bool) (d a b xf : Reg) (k : BitVec 2) (s : State) : exec (.vsll c d a b xf k) s = execVsll c d a b xf k s := rfl
@[simp] theorem exec_vsrl (c : Bool) (d a b xf : Reg) (k : BitVec 2) (s : State) : exec (.vsrl c d a b xf k) s = execVsrl c d a b xf k s := rfl
@[simp] theorem exec_vsra (c : Bool) (d a b xf : Reg) (k : BitVec 2) (s : State) : exec (.vsra c d a b xf k) s = execVsra c d a b xf k s := rfl
@[simp] theorem exec_vceq (c : Bool) (d a b xf : Reg) (k : BitVec 2) (s : State) : exec (.vceq c d a b xf k) s = execVceq c d a b xf k s := rfl
@[simp] theorem exec_vcne (c : Bool) (d a b xf : Reg) (k : BitVec 2) (s : State) : exec (.vcne c d a b xf k) s = execVcne c d a b xf k s := rfl
@[simp] theorem exec_vclt (c : Bool) (d a b xf : Reg) (k : BitVec 2) (s : State) : exec (.vclt c d a b xf k) s = execVclt c d a b xf k s := rfl
@[simp] theorem exec_vcle (c : Bool) (d a b xf : Reg) (k : BitVec 2) (s : State) : exec (.vcle c d a b xf k) s = execVcle c d a b xf k s := rfl
@[simp] theorem exec_vcgt (c : Bool) (d a b xf : Reg) (k : BitVec 2) (s : State) : exec (.vcgt c d a b xf k) s = execVcgt c d a b xf k s := rfl
@[simp] theorem exec_vcge (c : Bool) (d a b xf : Reg) (k : BitVec 2) (s : State) : exec (.vcge c d a b xf k) s = execVcge c d a b xf k s := rfl
@[simp] theorem exec_vcun (c : Bool) (d a b xf : Reg) (k : BitVec 2) (s : State) : exec (.vcun c d a b xf k) s = execVcun c d a b xf k s := rfl
@[simp] theorem exec_vsel (c : Bool) (d a b xf : Reg) (k : BitVec 2) (s : State) : exec (.vsel c d a b xf k) s = execVsel c d a b xf k s := rfl
@[simp] theorem exec_kand (c : Bool) (d a b : Reg) (s : State) : exec (.kand c d a b) s = execKand c d a b s := rfl
@[simp] theorem exec_kor (c : Bool) (d a b : Reg) (s : State) : exec (.kor c d a b) s = execKor c d a b s := rfl
@[simp] theorem exec_kxor (c : Bool) (d a b : Reg) (s : State) : exec (.kxor c d a b) s = execKxor c d a b s := rfl
@[simp] theorem exec_knot (c : Bool) (d a : Reg) (s : State) : exec (.knot c d a) s = execKnot c d a s := rfl
@[simp] theorem exec_kpopc (c : Bool) (d a : Reg) (k : BitVec 2) (s : State) : exec (.kpopc c d a k) s = execKpopc c d a k s := rfl
@[simp] theorem exec_kfirst (c : Bool) (d a : Reg) (k : BitVec 2) (s : State) : exec (.kfirst c d a k) s = execKfirst c d a k s := rfl
@[simp] theorem exec_vcvt (c : Bool) (d a xf : Reg) (k : BitVec 2) (s : State) : exec (.vcvt c d a xf k) s = execVcvt c d a xf k s := rfl
@[simp] theorem exec_vcvtS (c : Bool) (d a b xf : Reg) (k : BitVec 2) (s : State) : exec (.vcvtS c d a b xf k) s = execVcvtS c d a b xf k s := rfl
@[simp] theorem exec_vredsum (c : Bool) (d a xf : Reg) (k : BitVec 2) (s : State) : exec (.vredsum c d a xf k) s = execVredsum c d a xf k s := rfl
@[simp] theorem exec_vredmin (c : Bool) (d a xf : Reg) (k : BitVec 2) (s : State) : exec (.vredmin c d a xf k) s = execVredmin c d a xf k s := rfl
@[simp] theorem exec_vredmax (c : Bool) (d a xf : Reg) (k : BitVec 2) (s : State) : exec (.vredmax c d a xf k) s = execVredmax c d a xf k s := rfl
@[simp] theorem exec_vredand (c : Bool) (d a xf : Reg) (k : BitVec 2) (s : State) : exec (.vredand c d a xf k) s = execVredand c d a xf k s := rfl
@[simp] theorem exec_vredor (c : Bool) (d a xf : Reg) (k : BitVec 2) (s : State) : exec (.vredor c d a xf k) s = execVredor c d a xf k s := rfl
@[simp] theorem exec_vscan (c : Bool) (d a xf : Reg) (k : BitVec 2) (s : State) : exec (.vscan c d a xf k) s = execVscan c d a xf k s := rfl
@[simp] theorem exec_vscanx (c : Bool) (d a xf : Reg) (k : BitVec 2) (s : State) : exec (.vscanx c d a xf k) s = execVscanx c d a xf k s := rfl
@[simp] theorem exec_vmaxi (c : Bool) (d a xf : Reg) (k : BitVec 2) (s : State) : exec (.vmaxi c d a xf k) s = execVmaxi c d a xf k s := rfl
@[simp] theorem exec_vmini (c : Bool) (d a xf : Reg) (k : BitVec 2) (s : State) : exec (.vmini c d a xf k) s = execVmini c d a xf k s := rfl
@[simp] theorem exec_vmaxic (c : Bool) (d a xf : Reg) (k : BitVec 2) (s : State) : exec (.vmaxic c d a xf k) s = execVmaxic c d a xf k s := rfl
@[simp] theorem exec_vperm (c : Bool) (d a b xf : Reg) (k : BitVec 2) (s : State) : exec (.vperm c d a b xf k) s = execVperm c d a b xf k s := rfl
@[simp] theorem exec_vslideup (c : Bool) (d a b xf : Reg) (k : BitVec 2) (s : State) : exec (.vslideup c d a b xf k) s = execVslideup c d a b xf k s := rfl
@[simp] theorem exec_vslidedn (c : Bool) (d a b xf : Reg) (k : BitVec 2) (s : State) : exec (.vslidedn c d a b xf k) s = execVslidedn c d a b xf k s := rfl
@[simp] theorem exec_vbcast (c : Bool) (d a xf : Reg) (k : BitVec 2) (s : State) : exec (.vbcast c d a xf k) s = execVbcast c d a xf k s := rfl
@[simp] theorem exec_vmvxs (c : Bool) (d a xf : Reg) (k : BitVec 2) (s : State) : exec (.vmvxs c d a xf k) s = execVmvxs c d a xf k s := rfl
@[simp] theorem exec_vmvsx (c : Bool) (d a xf : Reg) (k : BitVec 2) (s : State) : exec (.vmvsx c d a xf k) s = execVmvsx c d a xf k s := rfl
@[simp] theorem exec_vcompress (c : Bool) (d a xf : Reg) (k : BitVec 2) (s : State) : exec (.vcompress c d a xf k) s = execVcompress c d a xf k s := rfl
@[simp] theorem exec_vid (c : Bool) (d xf : Reg) (k : BitVec 2) (s : State) : exec (.vid c d xf k) s = execVid c d xf k s := rfl
@[simp] theorem exec_vexp2 (c : Bool) (d a xf : Reg) (k : BitVec 2) (s : State) : exec (.vexp2 c d a xf k) s = execVexp2 c d a xf k s := rfl
@[simp] theorem exec_vlog2 (c : Bool) (d a xf : Reg) (k : BitVec 2) (s : State) : exec (.vlog2 c d a xf k) s = execVlog2 c d a xf k s := rfl
@[simp] theorem exec_vrcp (c : Bool) (d a xf : Reg) (k : BitVec 2) (s : State) : exec (.vrcp c d a xf k) s = execVrcp c d a xf k s := rfl
@[simp] theorem exec_vrsqrt (c : Bool) (d a xf : Reg) (k : BitVec 2) (s : State) : exec (.vrsqrt c d a xf k) s = execVrsqrt c d a xf k s := rfl
@[simp] theorem exec_vld (c : Bool) (d a : Reg) (st k : BitVec 2) (s : State) : exec (.vld c d a st k) s = execVld c d a st k s := rfl
@[simp] theorem exec_vlds (c : Bool) (d a b : Reg) (st k : BitVec 2) (s : State) : exec (.vlds c d a b st k) s = execVlds c d a b st k s := rfl
@[simp] theorem exec_vldx (c : Bool) (d a b : Reg) (st k : BitVec 2) (s : State) : exec (.vldx c d a b st k) s = execVldx c d a b st k s := rfl
@[simp] theorem exec_vldsp (c : Bool) (d a : Reg) (st k : BitVec 2) (s : State) : exec (.vldsp c d a st k) s = execVldsp c d a st k s := rfl
@[simp] theorem exec_vldm (c : Bool) (d a : Reg) (k : BitVec 2) (s : State) : exec (.vldm c d a k) s = execVldm c d a k s := rfl
@[simp] theorem exec_vldxsp (c : Bool) (d a b : Reg) (st k : BitVec 2) (s : State) : exec (.vldxsp c d a b st k) s = execVldxsp c d a b st k s := rfl
@[simp] theorem exec_vst (c : Bool) (d a : Reg) (st k : BitVec 2) (s : State) : exec (.vst c d a st k) s = execVst c d a st k s := rfl
@[simp] theorem exec_vsts (c : Bool) (d a b : Reg) (st k : BitVec 2) (s : State) : exec (.vsts c d a b st k) s = execVsts c d a b st k s := rfl
@[simp] theorem exec_vstx (c : Bool) (d a b : Reg) (st k : BitVec 2) (s : State) : exec (.vstx c d a b st k) s = execVstx c d a b st k s := rfl
@[simp] theorem exec_vstsp (c : Bool) (d a : Reg) (st k : BitVec 2) (s : State) : exec (.vstsp c d a st k) s = execVstsp c d a st k s := rfl
@[simp] theorem exec_vstm (c : Bool) (d a : Reg) (k : BitVec 2) (s : State) : exec (.vstm c d a k) s = execVstm c d a k s := rfl
@[simp] theorem exec_vstxsp (c : Bool) (d a b : Reg) (st k : BitVec 2) (s : State) : exec (.vstxsp c d a b st k) s = execVstxsp c d a b st k s := rfl
@[simp] theorem exec_tacc (c : Bool) (t a b xf : Reg) (s : State) : exec (.tacc c t a b xf) s = execTacc c t a b xf s := rfl
@[simp] theorem exec_taccS (c : Bool) (t a b xf : Reg) (s : State) : exec (.taccS c t a b xf) s = execTaccS c t a b xf s := rfl
@[simp] theorem exec_mzero (t : Reg) (s : State) : exec (.mzero t) s = execMzero t s := rfl
@[simp] theorem exec_mld (t a : Reg) (s : State) : exec (.mld t a) s = execMld t a s := rfl
@[simp] theorem exec_mldT8 (t a : Reg) (s : State) : exec (.mldT8 t a) s = execMldT8 t a s := rfl
@[simp] theorem exec_mldT16 (t a : Reg) (s : State) : exec (.mldT16 t a) s = execMldT16 t a s := rfl
@[simp] theorem exec_mst (t a : Reg) (s : State) : exec (.mst t a) s = execMst t a s := rfl
@[simp] theorem exec_mcvt (t xf : Reg) (s : State) : exec (.mcvt t xf) s = execMcvt t xf s := rfl
@[simp] theorem exec_mrowr (t a b : Reg) (s : State) : exec (.mrowr t a b) s = execMrowr t a b s := rfl
@[simp] theorem exec_mroww (t a b : Reg) (s : State) : exec (.mroww t a b) s = execMroww t a b s := rfl
@[simp] theorem exec_tdstep (c : Bool) (d a b xf : Reg) (k : BitVec 2) (s : State) : exec (.tdstep c d a b xf k) s = execTdstep c d a b xf k s := rfl
@[simp] theorem exec_tdleaf (c : Bool) (d a b xf : Reg) (k : BitVec 2) (s : State) : exec (.tdleaf c d a b xf k) s = execTdleaf c d a b xf k s := rfl
@[simp] theorem exec_tdregrp (c : Bool) (d a b : Reg) (k : BitVec 2) (s : State) : exec (.tdregrp c d a b k) s = execTdregrp c d a b k s := rfl
@[simp] theorem exec_tdpathR (c : Bool) (d a : Reg) (k : BitVec 2) (s : State) : exec (.tdpathR c d a k) s = execTdpathR c d a k s := rfl
@[simp] theorem exec_tdpathW (c : Bool) (d a : Reg) (k : BitVec 2) (s : State) : exec (.tdpathW c d a k) s = execTdpathW c d a k s := rfl
@[simp] theorem exec_tdaddr (c : Bool) (d a b : Reg) (k : BitVec 2) (s : State) : exec (.tdaddr c d a b k) s = execTdaddr c d a b k s := rfl
@[simp] theorem exec_hqDot (a xf : Reg) (tag : BitVec 6) (s : State) : exec (.hqDot a xf tag) s = execHqDot a xf tag s := rfl
@[simp] theorem exec_hqSum (a xf : Reg) (tag : BitVec 6) (s : State) : exec (.hqSum a xf tag) s = execHqSum a xf tag s := rfl
@[simp] theorem exec_hqCnt (a xf : Reg) (tag : BitVec 6) (s : State) : exec (.hqCnt a xf tag) s = execHqCnt a xf tag s := rfl
@[simp] theorem exec_hqMax (a xf : Reg) (tag : BitVec 6) (s : State) : exec (.hqMax a xf tag) s = execHqMax a xf tag s := rfl
@[simp] theorem exec_hqTop (a xf : Reg) (tag : BitVec 6) (s : State) : exec (.hqTop a xf tag) s = execHqTop a xf tag s := rfl
@[simp] theorem exec_hqSes (a xf : Reg) (tag : BitVec 6) (s : State) : exec (.hqSes a xf tag) s = execHqSes a xf tag s := rfl
@[simp] theorem exec_hbcast (a : Reg) (tag : BitVec 6) (s : State) : exec (.hbcast a tag) s = execHbcast a tag s := rfl
@[simp] theorem exec_hmove (a b xf : Reg) (tag : BitVec 6) (s : State) : exec (.hmove a b xf tag) s = execHmove a b xf tag s := rfl
@[simp] theorem exec_cblkIn (a b xf : Reg) (tag : BitVec 6) (ch : BitVec 2) (s : State) : exec (.cblkIn a b xf tag ch) s = execCblkIn a b xf tag ch s := rfl
@[simp] theorem exec_cblkOut (a b xf : Reg) (tag : BitVec 6) (ch : BitVec 2) (s : State) : exec (.cblkOut a b xf tag ch) s = execCblkOut a b xf tag ch s := rfl
@[simp] theorem exec_cblkSs (a b xf : Reg) (tag : BitVec 6) (ch : BitVec 2) (s : State) : exec (.cblkSs a b xf tag ch) s = execCblkSs a b xf tag ch s := rfl
@[simp] theorem exec_cblkVv (a b xf : Reg) (tag : BitVec 6) (ch : BitVec 2) (s : State) : exec (.cblkVv a b xf tag ch) s = execCblkVv a b xf tag ch s := rfl
@[simp] theorem exec_cnestIn (a b xf : Reg) (tag : BitVec 6) (ch : BitVec 2) (s : State) : exec (.cnestIn a b xf tag ch) s = execCnestIn a b xf tag ch s := rfl
@[simp] theorem exec_cnestOut (a b xf : Reg) (tag : BitVec 6) (ch : BitVec 2) (s : State) : exec (.cnestOut a b xf tag ch) s = execCnestOut a b xf tag ch s := rfl
@[simp] theorem exec_cnestSs (a b xf : Reg) (tag : BitVec 6) (ch : BitVec 2) (s : State) : exec (.cnestSs a b xf tag ch) s = execCnestSs a b xf tag ch s := rfl
@[simp] theorem exec_cnestVv (a b xf : Reg) (tag : BitVec 6) (ch : BitVec 2) (s : State) : exec (.cnestVv a b xf tag ch) s = execCnestVv a b xf tag ch s := rfl
@[simp] theorem exec_cnestInT8 (a b xf : Reg) (tag : BitVec 6) (ch : BitVec 2) (s : State) : exec (.cnestInT8 a b xf tag ch) s = execCnestInT8 a b xf tag ch s := rfl
@[simp] theorem exec_cnestInT16 (a b xf : Reg) (tag : BitVec 6) (ch : BitVec 2) (s : State) : exec (.cnestInT16 a b xf tag ch) s = execCnestInT16 a b xf tag ch s := rfl
@[simp] theorem exec_cgathIn (a b xf : Reg) (tag : BitVec 6) (ch : BitVec 2) (s : State) : exec (.cgathIn a b xf tag ch) s = execCgathIn a b xf tag ch s := rfl
@[simp] theorem exec_cgathOut (a b xf : Reg) (tag : BitVec 6) (ch : BitVec 2) (s : State) : exec (.cgathOut a b xf tag ch) s = execCgathOut a b xf tag ch s := rfl
@[simp] theorem exec_cgetV (a b : Reg) (tag : BitVec 6) (ch : BitVec 2) (s : State) : exec (.cgetV a b tag ch) s = execCgetV a b tag ch s := rfl
@[simp] theorem exec_cgetVs (a b : Reg) (tag : BitVec 6) (ch : BitVec 2) (s : State) : exec (.cgetVs a b tag ch) s = execCgetVs a b tag ch s := rfl
@[simp] theorem exec_cwaitAny (a : Reg) (s : State) : exec (.cwaitAny a) s = execCwaitAny a s := rfl
@[simp] theorem exec_cwaitAll (a : Reg) (s : State) : exec (.cwaitAll a) s = execCwaitAll a s := rfl
@[simp] theorem exec_cfirst (a b : Reg) (s : State) : exec (.cfirst a b) s = execCfirst a b s := rfl
@[simp] theorem exec_cdrain (ch : BitVec 2) (s : State) : exec (.cdrain ch) s = execCdrain ch s := rfl
@[simp] theorem exec_cfence (mask : BitVec 4) (s : State) : exec (.cfence mask) s = execCfence mask s := rfl
@[simp] theorem exec_aaddW (d a b : Reg) (s : State) : exec (.aaddW d a b) s = execAaddW d a b s := rfl
@[simp] theorem exec_aaddWNoret (a b : Reg) (ch : BitVec 2) (s : State) : exec (.aaddWNoret a b ch) s = execAaddWNoret a b ch s := rfl
@[simp] theorem exec_aaddD (d a b : Reg) (s : State) : exec (.aaddD d a b) s = execAaddD d a b s := rfl
@[simp] theorem exec_aaddDNoret (a b : Reg) (ch : BitVec 2) (s : State) : exec (.aaddDNoret a b ch) s = execAaddDNoret a b ch s := rfl
@[simp] theorem exec_aandW (d a b : Reg) (s : State) : exec (.aandW d a b) s = execAandW d a b s := rfl
@[simp] theorem exec_aandWNoret (a b : Reg) (ch : BitVec 2) (s : State) : exec (.aandWNoret a b ch) s = execAandWNoret a b ch s := rfl
@[simp] theorem exec_aandD (d a b : Reg) (s : State) : exec (.aandD d a b) s = execAandD d a b s := rfl
@[simp] theorem exec_aandDNoret (a b : Reg) (ch : BitVec 2) (s : State) : exec (.aandDNoret a b ch) s = execAandDNoret a b ch s := rfl
@[simp] theorem exec_aorW (d a b : Reg) (s : State) : exec (.aorW d a b) s = execAorW d a b s := rfl
@[simp] theorem exec_aorWNoret (a b : Reg) (ch : BitVec 2) (s : State) : exec (.aorWNoret a b ch) s = execAorWNoret a b ch s := rfl
@[simp] theorem exec_aorD (d a b : Reg) (s : State) : exec (.aorD d a b) s = execAorD d a b s := rfl
@[simp] theorem exec_aorDNoret (a b : Reg) (ch : BitVec 2) (s : State) : exec (.aorDNoret a b ch) s = execAorDNoret a b ch s := rfl
@[simp] theorem exec_axorW (d a b : Reg) (s : State) : exec (.axorW d a b) s = execAxorW d a b s := rfl
@[simp] theorem exec_axorWNoret (a b : Reg) (ch : BitVec 2) (s : State) : exec (.axorWNoret a b ch) s = execAxorWNoret a b ch s := rfl
@[simp] theorem exec_axorD (d a b : Reg) (s : State) : exec (.axorD d a b) s = execAxorD d a b s := rfl
@[simp] theorem exec_axorDNoret (a b : Reg) (ch : BitVec 2) (s : State) : exec (.axorDNoret a b ch) s = execAxorDNoret a b ch s := rfl
@[simp] theorem exec_aminW (d a b : Reg) (s : State) : exec (.aminW d a b) s = execAminW d a b s := rfl
@[simp] theorem exec_aminWNoret (a b : Reg) (ch : BitVec 2) (s : State) : exec (.aminWNoret a b ch) s = execAminWNoret a b ch s := rfl
@[simp] theorem exec_aminD (d a b : Reg) (s : State) : exec (.aminD d a b) s = execAminD d a b s := rfl
@[simp] theorem exec_aminDNoret (a b : Reg) (ch : BitVec 2) (s : State) : exec (.aminDNoret a b ch) s = execAminDNoret a b ch s := rfl
@[simp] theorem exec_amaxW (d a b : Reg) (s : State) : exec (.amaxW d a b) s = execAmaxW d a b s := rfl
@[simp] theorem exec_amaxWNoret (a b : Reg) (ch : BitVec 2) (s : State) : exec (.amaxWNoret a b ch) s = execAmaxWNoret a b ch s := rfl
@[simp] theorem exec_amaxD (d a b : Reg) (s : State) : exec (.amaxD d a b) s = execAmaxD d a b s := rfl
@[simp] theorem exec_amaxDNoret (a b : Reg) (ch : BitVec 2) (s : State) : exec (.amaxDNoret a b ch) s = execAmaxDNoret a b ch s := rfl
@[simp] theorem exec_aminuW (d a b : Reg) (s : State) : exec (.aminuW d a b) s = execAminuW d a b s := rfl
@[simp] theorem exec_aminuWNoret (a b : Reg) (ch : BitVec 2) (s : State) : exec (.aminuWNoret a b ch) s = execAminuWNoret a b ch s := rfl
@[simp] theorem exec_aminuD (d a b : Reg) (s : State) : exec (.aminuD d a b) s = execAminuD d a b s := rfl
@[simp] theorem exec_aminuDNoret (a b : Reg) (ch : BitVec 2) (s : State) : exec (.aminuDNoret a b ch) s = execAminuDNoret a b ch s := rfl
@[simp] theorem exec_amaxuW (d a b : Reg) (s : State) : exec (.amaxuW d a b) s = execAmaxuW d a b s := rfl
@[simp] theorem exec_amaxuWNoret (a b : Reg) (ch : BitVec 2) (s : State) : exec (.amaxuWNoret a b ch) s = execAmaxuWNoret a b ch s := rfl
@[simp] theorem exec_amaxuD (d a b : Reg) (s : State) : exec (.amaxuD d a b) s = execAmaxuD d a b s := rfl
@[simp] theorem exec_amaxuDNoret (a b : Reg) (ch : BitVec 2) (s : State) : exec (.amaxuDNoret a b ch) s = execAmaxuDNoret a b ch s := rfl
@[simp] theorem exec_aswpW (d a b : Reg) (s : State) : exec (.aswpW d a b) s = execAswpW d a b s := rfl
@[simp] theorem exec_aswpWNoret (a b : Reg) (ch : BitVec 2) (s : State) : exec (.aswpWNoret a b ch) s = execAswpWNoret a b ch s := rfl
@[simp] theorem exec_aswpD (d a b : Reg) (s : State) : exec (.aswpD d a b) s = execAswpD d a b s := rfl
@[simp] theorem exec_aswpDNoret (a b : Reg) (ch : BitVec 2) (s : State) : exec (.aswpDNoret a b ch) s = execAswpDNoret a b ch s := rfl
@[simp] theorem exec_acasW (d a b cmp : Reg) (s : State) : exec (.acasW d a b cmp) s = execAcasW d a b cmp s := rfl
@[simp] theorem exec_acasD (d a b cmp : Reg) (s : State) : exec (.acasD d a b cmp) s = execAcasD d a b cmp s := rfl
@[simp] theorem exec_afaddW (d a b : Reg) (s : State) : exec (.afaddW d a b) s = execAfaddW d a b s := rfl
@[simp] theorem exec_afaddWNoret (a b : Reg) (ch : BitVec 2) (s : State) : exec (.afaddWNoret a b ch) s = execAfaddWNoret a b ch s := rfl
@[simp] theorem exec_aincbW (d a b : Reg) (s : State) : exec (.aincbW d a b) s = execAincbW d a b s := rfl
@[simp] theorem exec_aincbD (d a b : Reg) (s : State) : exec (.aincbD d a b) s = execAincbD d a b s := rfl
@[simp] theorem exec_aaddscan (d a b : Reg) (k : BitVec 2) (s : State) : exec (.aaddscan d a b k) s = execAaddscan d a b k s := rfl
@[simp] theorem exec_cmbput (d a b xf : Reg) (k : BitVec 2) (s : State) : exec (.cmbput d a b xf k) s = execCmbput d a b xf k s := rfl
@[simp] theorem exec_cmbputZ (a b : Reg) (s : State) : exec (.cmbputZ a b) s = execCmbputZ a b s := rfl
@[simp] theorem exec_sbar (pre post : BitVec 8) (s : State) : exec (.sbar pre post) s = execSbar pre post s := rfl
@[simp] theorem exec_fenceRel (sc : BitVec 2) (s : State) : exec (.fenceRel sc) s = execFenceRel sc s := rfl
@[simp] theorem exec_fenceAcq (sc : BitVec 2) (s : State) : exec (.fenceAcq sc) s = execFenceAcq sc s := rfl
@[simp] theorem exec_ldAcqW (d a : Reg) (sc : BitVec 2) (s : State) : exec (.ldAcqW d a sc) s = execLdAcqW d a sc s := rfl
@[simp] theorem exec_ldAcqD (d a : Reg) (sc : BitVec 2) (s : State) : exec (.ldAcqD d a sc) s = execLdAcqD d a sc s := rfl
@[simp] theorem exec_stRelW (a b : Reg) (sc : BitVec 2) (s : State) : exec (.stRelW a b sc) s = execStRelW a b sc s := rfl
@[simp] theorem exec_stRelD (a b : Reg) (sc : BitVec 2) (s : State) : exec (.stRelD a b sc) s = execStRelD a b sc s := rfl
@[simp] theorem exec_accw (a b : Reg) (s : State) : exec (.accw a b) s = execAccw a b s := rfl
@[simp] theorem exec_accm (a : Reg) (s : State) : exec (.accm a) s = execAccm a s := rfl
@[simp] theorem exec_ipost (a b : Reg) (s : State) : exec (.ipost a b) s = execIpost a b s := rfl
@[simp] theorem exec_iwait (d a b : Reg) (s : State) : exec (.iwait d a b) s = execIwait d a b s := rfl
@[simp] theorem exec_mbarArr (d a : Reg) (s : State) : exec (.mbarArr d a) s = execMbarArr d a s := rfl
@[simp] theorem exec_mbarWait (a b : Reg) (s : State) : exec (.mbarWait a b) s = execMbarWait a b s := rfl
@[simp] theorem exec_dbarArr (d a : Reg) (s : State) : exec (.dbarArr d a) s = execDbarArr d a s := rfl
@[simp] theorem exec_dbarWait (a b : Reg) (s : State) : exec (.dbarWait a b) s = execDbarWait a b s := rfl
@[simp] theorem exec_mwait (d a b tmo : Reg) (s : State) : exec (.mwait d a b tmo) s = execMwait d a b tmo s := rfl
@[simp] theorem exec_qput (d a b : Reg) (s : State) : exec (.qput d a b) s = execQput d a b s := rfl
@[simp] theorem exec_ktrig (s : State) : exec .ktrig s = execKtrig s := rfl
@[simp] theorem exec_sealWord (s : State) : exec .sealWord s = execSeal s := rfl
@[simp] theorem exec_xhold (s : State) : exec .xhold s = execXhold s := rfl
@[simp] theorem exec_slabCycle (core : Nat) (s : State) : exec (.slabCycle core) s = execSlabCycle core s := rfl
@[simp] theorem exec_strandOverdue (sid : Nat) (s : State) : exec (.strandOverdue sid) s = execStrandOverdue sid s := rfl
@[simp] theorem exec_timerTrap (sid : Nat) (s : State) : exec (.timerTrap sid) s = execTimerTrap sid s := rfl
@[simp] theorem exec_wfiWake (sid : Nat) (s : State) : exec (.wfiWake sid) s = execWfiWake sid s := rfl
@[simp] theorem exec_trcctlMark (core : Nat) (mark : BitVec 16) (s : State) : exec (.trcctlMark core mark) s = execTrcctlMark core mark s := rfl
@[simp] theorem exec_trcctlCopy (core : Nat) (s : State) : exec (.trcctlCopy core) s = execTrcctlCopy core s := rfl
@[simp] theorem exec_trcctlClr (core : Nat) (s : State) : exec (.trcctlClr core) s = execTrcctlClr core s := rfl
@[simp] theorem exec_registerWrite (r : SysReg) (val : W64) (s : State) : exec (.registerWrite r val) s = execRegisterWrite r val s := rfl
@[simp] theorem exec_barrierConfigWrite (b : BarId) (val : W64) (s : State) : exec (.barrierConfigWrite b val) s = execBarrierConfigWrite b val s := rfl
@[simp] theorem exec_ringConfigWrite (meadow stage : Nat) (state : Bool) (val : W64) (s : State) : exec (.ringConfigWrite meadow stage state val) s = execRingConfigWrite meadow stage state val s := rfl
@[simp] theorem exec_hberrClear (bank : Nat) (val : W64) (s : State) : exec (.hberrClear bank val) s = execHberrClear bank val s := rfl
@[simp] theorem exec_editPortWrite (sys ctx va addr : Nat) (entry : W64) (mark : Option Bool) (s : State) : exec (.editPortWrite sys ctx va addr entry mark) s = execEditPortWrite sys ctx va addr entry mark s := rfl
@[simp] theorem exec_shootDown (sys ctx va len : Nat) (s : State) : exec (.shootDown sys ctx va len) s = execShootDown sys ctx va len s := rfl
@[simp] theorem exec_tlbParityRefetch (unit ctx va : Nat) (s : State) : exec (.tlbParityRefetch unit ctx va) s = execTlbParityRefetch unit ctx va s := rfl
@[simp] theorem exec_copyLand (sid : Nat) (tag : BitVec 6) (s : State) : exec (.copyLand sid tag) s = execCopyLand sid tag s := rfl
@[simp] theorem exec_copyFault (sid : Nat) (tag : BitVec 6) (s : State) : exec (.copyFault sid tag) s = execCopyFault sid tag s := rfl
@[simp] theorem exec_copySourceError (sid : Nat) (tag : BitVec 6) (found : SourceError) (s : State) : exec (.copySourceError sid tag found) s = execCopySourceError sid tag found s := rfl
@[simp] theorem exec_copySourcePoison (sid : Nat) (tag : BitVec 6) (s : State) : exec (.copySourcePoison sid tag) s = execCopySourcePoison sid tag s := rfl
@[simp] theorem exec_atomicResponse (sid : Nat) (s : State) : exec (.atomicResponse sid) s = execAtomicResponse sid s := rfl
@[simp] theorem exec_noreturnAtomicPerform (sid : Nat) (ch : BitVec 2) (s : State) : exec (.noreturnAtomicPerform sid ch) s = execNoreturnAtomicPerform sid ch s := rfl
@[simp] theorem exec_cmbputPerform (sid : Nat) (s : State) : exec (.cmbputPerform sid) s = execCmbputPerform sid s := rfl
@[simp] theorem exec_heathSlotCheck (sid : Nat) (tag : BitVec 6) (s : State) : exec (.heathSlotCheck sid tag) s = execHeathSlotCheck sid tag s := rfl
@[simp] theorem exec_heathPass1Done (sid : Nat) (tag : BitVec 6) (s : State) : exec (.heathPass1Done sid tag) s = execHeathPass1Done sid tag s := rfl
@[simp] theorem exec_heathBankError (sid : Nat) (tag : BitVec 6) (pa : Nat) (s : State) : exec (.heathBankError sid tag pa) s = execHeathBankError sid tag pa s := rfl
@[simp] theorem exec_heathReply (sid : Nat) (tag : BitVec 6) (s : State) : exec (.heathReply sid tag) s = execHeathReply sid tag s := rfl
@[simp] theorem exec_hbcastLand (sid : Nat) (tag : BitVec 6) (s : State) : exec (.hbcastLand sid tag) s = execHbcastLand sid tag s := rfl
@[simp] theorem exec_hmoveDone (sid : Nat) (tag : BitVec 6) (bad : Option Nat) (s : State) : exec (.hmoveDone sid tag bad) s = execHmoveDone sid tag bad s := rfl
@[simp] theorem exec_hevictDone (sid : Nat) (s : State) : exec (.hevictDone sid) s = execHevictDone sid s := rfl
@[simp] theorem exec_hrestoreDone (sid : Nat) (s : State) : exec (.hrestoreDone sid) s = execHrestoreDone sid s := rfl
@[simp] theorem exec_barrierTimeout (sid : Nat) (s : State) : exec (.barrierTimeout sid) s = execBarrierTimeout sid s := rfl
@[simp] theorem exec_iwaitTimeout (sid : Nat) (s : State) : exec (.iwaitTimeout sid) s = execIwaitTimeout sid s := rfl
@[simp] theorem exec_mwaitTimeout (sid : Nat) (s : State) : exec (.mwaitTimeout sid) s = execMwaitTimeout sid s := rfl
@[simp] theorem exec_walkerPlace (s : State) : exec .walkerPlace s = execWalkerPlace s := rfl
@[simp] theorem exec_preemptRequest (core ctx : Nat) (s : State) : exec (.preemptRequest core ctx) s = execPreemptRequest core ctx s := rfl
@[simp] theorem exec_preemptSaveDone (core : Nat) (s : State) : exec (.preemptSaveDone core) s = execPreemptSaveDone core s := rfl
@[simp] theorem exec_laneReclaimRequest (core ctx : Nat) (s : State) : exec (.laneReclaimRequest core ctx) s = execLaneReclaimRequest core ctx s := rfl
@[simp] theorem exec_reclaimTimeout (core : Nat) (s : State) : exec (.reclaimTimeout core) s = execReclaimTimeout core s := rfl
@[simp] theorem exec_laneWaitReturn (gid : Nat) (s : State) : exec (.laneWaitReturn gid) s = execLaneWaitReturn gid s := rfl
@[simp] theorem exec_groupRestore (gid : Nat) (s : State) : exec (.groupRestore gid) s = execGroupRestore gid s := rfl
@[simp] theorem exec_ueConsumed (sid : Nat) (site : ErrSite) (addr : W64) (mismatch : Bool) (ch : Option (BitVec 2)) (s : State) : exec (.ueConsumed sid site addr mismatch ch) s = execUeConsumed sid site addr mismatch ch s := rfl
@[simp] theorem exec_scrubberVisit (heath : Bool) (line : Nat) (found : Scrub) (s : State) : exec (.scrubberVisit heath line found) s = execScrubberVisit heath line found s := rfl
@[simp] theorem exec_sealTimer (s : State) : exec .sealTimer s = execSealTimer s := rfl
@[simp] theorem exec_sealRequest (module : Nat) (s : State) : exec (.sealRequest module) s = execSealRequest module s := rfl
@[simp] theorem exec_sealPrepare (n : W32) (s : State) : exec (.sealPrepare n) s = execSealPrepare n s := rfl
@[simp] theorem exec_sealResume (s : State) : exec .sealResume s = execSealResume s := rfl
@[simp] theorem exec_sealImagesDone (s : State) : exec .sealImagesDone s = execSealImagesDone s := rfl
@[simp] theorem exec_sealReady (module : Nat) (s : State) : exec (.sealReady module) s = execSealReady module s := rfl
@[simp] theorem exec_sealCommit (ns : Nat) (s : State) : exec (.sealCommit ns) s = execSealCommit ns s := rfl
@[simp] theorem exec_sealAbort (s : State) : exec .sealAbort s = execSealAbort s := rfl
@[simp] theorem exec_sealReadyTimeout (s : State) : exec .sealReadyTimeout s = execSealReadyTimeout s := rfl
@[simp] theorem exec_coordinatorTimeout (s : State) : exec .coordinatorTimeout s = execCoordinatorTimeout s := rfl
@[simp] theorem exec_rollback (begun : List Nat) (s : State) : exec (.rollback begun) s = execRollback begun s := rfl
@[simp] theorem exec_initialSeal (s : State) : exec .initialSeal s = execInitialSeal s := rfl
@[simp] theorem exec_snapshotStreamEnd (s : State) : exec .snapshotStreamEnd s = execSnapshotStreamEnd s := rfl
@[simp] theorem exec_jeoreAck (port : Nat) (seq : BitVec 16) (s : State) : exec (.jeoreAck port seq) s = execJeoreAck port seq s := rfl
@[simp] theorem exec_jeoreNak (port : Nat) (last : BitVec 16) (s : State) : exec (.jeoreNak port last) s = execJeoreNak port last s := rfl
@[simp] theorem exec_jeoreFlitBad (port : Nat) (s : State) : exec (.jeoreFlitBad port) s = execJeoreFlitBad port s := rfl
@[simp] theorem exec_jeoreRemoteWrite (port : Nat) (heath : Bool) (addr : Nat) (bytes : List Byte) (owner : BitVec 12) (s : State) : exec (.jeoreRemoteWrite port heath addr bytes owner) s = execJeoreRemoteWrite port heath addr bytes owner s := rfl
@[simp] theorem exec_jeoreAtomicRequest (port : Nat) (op : AtomOp) (wide : Bool) (addr : Nat) (b c : W64) (who : Asker) (more : AtomRest) (s : State) : exec (.jeoreAtomicRequest port op wide addr b c who more) s = execJeoreAtomicRequest port op wide addr b c who more s := rfl
@[simp] theorem exec_jeoreAtomicResponse (port : Nat) (who : Asker) (answer : AtomAnswer) (s : State) : exec (.jeoreAtomicResponse port who answer) s = execJeoreAtomicResponse port who answer s := rfl
@[simp] theorem exec_jeoreCopyReadRequest (port : Nat) (first : Nat × Nat) (more : List (Nat × Nat)) (s : State) : exec (.jeoreCopyReadRequest port first more) s = execJeoreCopyReadRequest port first more s := rfl
@[simp] theorem exec_jeoreCopyReadData (port : Nat) (copy : CopyName) (bytes : List Byte) (s : State) : exec (.jeoreCopyReadData port copy bytes) s = execJeoreCopyReadData port copy bytes s := rfl
@[simp] theorem exec_linkTrainingComplete (port : Nat) (wide : Bool) (s : State) : exec (.linkTrainingComplete port wide) s = execLinkTrainingComplete port wide s := rfl
@[simp] theorem exec_linkTrainingTimeout (port : Nat) (s : State) : exec (.linkTrainingTimeout port) s = execLinkTrainingTimeout port s := rfl
@[simp] theorem exec_linkLaneLost (port : Nat) (s : State) : exec (.linkLaneLost port) s = execLinkLaneLost port s := rfl
@[simp] theorem exec_hostLinkDown (s : State) : exec .hostLinkDown s = execHostLinkDown s := rfl
@[simp] theorem exec_hostLinkUp (s : State) : exec .hostLinkUp s = execHostLinkUp s := rfl
@[simp] theorem exec_moduleBoot (a b : Option BootSlot) (s : State) : exec (.moduleBoot a b) s = execModuleBoot a b s := rfl
@[simp] theorem exec_unitStart (u : StartUnit) (s : State) : exec (.unitStart u) s = execUnitStart u s := rfl
@[simp] theorem exec_matrixIdle (core : Nat) (s : State) : exec (.matrixIdle core) s = execMatrixIdle core s := rfl
@[simp] theorem exec_heathGovernorWindow (watts : Nat) (s : State) : exec (.heathGovernorWindow watts) s = execHeathGovernorWindow watts s := rfl
@[simp] theorem exec_thermalThrottle (s : State) : exec .thermalThrottle s = execThermalThrottle s := rfl
@[simp] theorem exec_thermalShutdown (s : State) : exec .thermalShutdown s = execThermalShutdown s := rfl
@[simp] theorem exec_commandReply (fn : Nat) (s : State) : exec (.commandReply fn) s = execCommandReply fn s := rfl
@[simp] theorem exec_identify (fn : Nat) (s : State) : exec (.identify fn) s = execIdentify fn s := rfl
@[simp] theorem exec_attest (fn : Nat) (nonce : List Byte) (buf len : Nat) (s : State) : exec (.attest fn nonce buf len) s = execAttest fn nonce buf len s := rfl
@[simp] theorem exec_createContext (fn : Nat) (p : CtxParams) (s : State) : exec (.createContext fn p) s = execCreateContext fn p s := rfl
@[simp] theorem exec_destroyContext (fn ctx : Nat) (s : State) : exec (.destroyContext fn ctx) s = execDestroyContext fn ctx s := rfl
@[simp] theorem exec_stopContext (fn ctx : Nat) (s : State) : exec (.stopContext fn ctx) s = execStopContext fn ctx s := rfl
@[simp] theorem exec_resumeContext (fn ctx : Nat) (s : State) : exec (.resumeContext fn ctx) s = execResumeContext fn ctx s := rfl
@[simp] theorem exec_mapPages (fn : Nat) (p : MapParams) (s : State) : exec (.mapPages fn p) s = execMapPages fn p s := rfl
@[simp] theorem exec_unmapPages (fn ctx va len : Nat) (s : State) : exec (.unmapPages fn ctx va len) s = execUnmapPages fn ctx va len s := rfl
@[simp] theorem exec_hostImport (fn ctx va hostAddr len : Nat) (s : State) : exec (.hostImport fn ctx va hostAddr len) s = execHostImport fn ctx va hostAddr len s := rfl
@[simp] theorem exec_hostExport (fn ctx va hostAddr len : Nat) (s : State) : exec (.hostExport fn ctx va hostAddr len) s = execHostExport fn ctx va hostAddr len s := rfl
@[simp] theorem exec_runRoot (fn ctx recVa : Nat) (s : State) : exec (.runRoot fn ctx recVa) s = execRunRoot fn ctx recVa s := rfl
@[simp] theorem exec_snapshot (fn : Nat) (ctx : Option Nat) (s : State) : exec (.snapshot fn ctx) s = execSnapshot fn ctx s := rfl
@[simp] theorem exec_restoreModule (fn : Nat) (s : State) : exec (.restoreModule fn) s = execRestoreModule fn s := rfl
@[simp] theorem exec_readDump (fn : Nat) (tenant : W64) (slot : Option Nat) (release : Bool) (hostAddr : Nat) (s : State) : exec (.readDump fn tenant slot release hostAddr) s = execReadDump fn tenant slot release hostAddr s := rfl
@[simp] theorem exec_configureLinks (fn : Nat) (p : LinkParams) (s : State) : exec (.configureLinks fn p) s = execConfigureLinks fn p s := rfl
@[simp] theorem exec_configureManagement (fn : Nat) (p : MgmtParams) (s : State) : exec (.configureManagement fn p) s = execConfigureManagement fn p s := rfl
@[simp] theorem exec_resetFunction (fn : Nat) (s : State) : exec (.resetFunction fn) s = execResetFunction fn s := rfl
@[simp] theorem exec_resetModule (fn : Nat) (s : State) : exec (.resetModule fn) s = execResetModule fn s := rfl
@[simp] theorem exec_cmdregWrite (fn : Nat) (opc : BitVec 16) (seq : W32) (page : CmdParam) (val : W64) (s : State) : exec (.cmdregWrite fn opc seq page val) s = execCmdregWrite fn opc seq page val s := rfl
@[simp] theorem exec_scratchpadBankWake (core bank : Nat) (s : State) : exec (.scratchpadBankWake core bank) s = execScratchpadBankWake core bank s := rfl
@[simp] theorem exec_copyPerformed (sid : Nat) (tag : BitVec 6) (s : State) : exec (.copyPerformed sid tag) s = execCopyPerformed sid tag s := rfl
@[simp] theorem exec_replayStart (s : State) : exec .replayStart s = execReplayStart s := rfl
@[simp] theorem exec_testServiceSet (on : Bool) (s : State) : exec (.testServiceSet on) s = execTestServiceSet on s := rfl

theorem exec_finishes (i : Instr) (s : State) (h : ∀ c, i ≠ .slabCycle c) : ∃ out, exec i s = s.finish out := by
  cases i with
  | add => exact execAdd_finishes ..
  | sub => exact execSub_finishes ..
  | and => exact execAnd_finishes ..
  | or => exact execOr_finishes ..
  | xor => exact execXor_finishes ..
  | sll => exact execSll_finishes ..
  | srl => exact execSrl_finishes ..
  | sra => exact execSra_finishes ..
  | slt => exact execSlt_finishes ..
  | sltu => exact execSltu_finishes ..
  | mul => exact execMul_finishes ..
  | mulh => exact execMulh_finishes ..
  | mulhu => exact execMulhu_finishes ..
  | div => exact execDiv_finishes ..
  | divu => exact execDivu_finishes ..
  | rem => exact execRem_finishes ..
  | remu => exact execRemu_finishes ..
  | min => exact execMin_finishes ..
  | max => exact execMax_finishes ..
  | minu => exact execMinu_finishes ..
  | maxu => exact execMaxu_finishes ..
  | clz => exact execClz_finishes ..
  | ctz => exact execCtz_finishes ..
  | popc => exact execPopc_finishes ..
  | zextb => exact execZextb_finishes ..
  | zexth => exact execZexth_finishes ..
  | zextw => exact execZextw_finishes ..
  | sextb => exact execSextb_finishes ..
  | sexth => exact execSexth_finishes ..
  | sextw => exact execSextw_finishes ..
  | addi => exact execAddi_finishes ..
  | andi => exact execAndi_finishes ..
  | ori => exact execOri_finishes ..
  | xori => exact execXori_finishes ..
  | slti => exact execSlti_finishes ..
  | sltiu => exact execSltiu_finishes ..
  | slli => exact execSlli_finishes ..
  | srli => exact execSrli_finishes ..
  | srai => exact execSrai_finishes ..
  | lhi => exact execLhi_finishes ..
  | lpc => exact execLpc_finishes ..
  | fadd => exact execFadd_finishes ..
  | fsub => exact execFsub_finishes ..
  | fmul => exact execFmul_finishes ..
  | fdiv => exact execFdiv_finishes ..
  | fsqrt => exact execFsqrt_finishes ..
  | fmin => exact execFmin_finishes ..
  | fmax => exact execFmax_finishes ..
  | feq => exact execFeq_finishes ..
  | flt => exact execFlt_finishes ..
  | fle => exact execFle_finishes ..
  | fcvtSL => exact execFcvtSL_finishes ..
  | fcvtLS => exact execFcvtLS_finishes ..
  | fclass => exact execFclass_finishes ..
  | fmadd => exact execFmadd_finishes ..
  | fmsub => exact execFmsub_finishes ..
  | fnmadd => exact execFnmadd_finishes ..
  | fnmsub => exact execFnmsub_finishes ..
  | beq => exact execBeq_finishes ..
  | bne => exact execBne_finishes ..
  | blt => exact execBlt_finishes ..
  | bge => exact execBge_finishes ..
  | bltu => exact execBltu_finishes ..
  | bgeu => exact execBgeu_finishes ..
  | jal => exact execJal_finishes ..
  | jalr => exact execJalr_finishes ..
  | ldB => exact execLdB_finishes ..
  | ldH => exact execLdH_finishes ..
  | ldW => exact execLdW_finishes ..
  | ldD => exact execLdD_finishes ..
  | stB => exact execStB_finishes ..
  | stH => exact execStH_finishes ..
  | stW => exact execStW_finishes ..
  | stD => exact execStD_finishes ..
  | spldB => exact execSpldB_finishes ..
  | spldH => exact execSpldH_finishes ..
  | spldW => exact execSpldW_finishes ..
  | spldD => exact execSpldD_finishes ..
  | spstB => exact execSpstB_finishes ..
  | spstH => exact execSpstH_finishes ..
  | spstW => exact execSpstW_finishes ..
  | spstD => exact execSpstD_finishes ..
  | csrr => exact execCsrr_finishes ..
  | csrw => exact execCsrw_finishes ..
  | csrs => exact execCsrs_finishes ..
  | csrc => exact execCsrc_finishes ..
  | svc => exact execSvc_finishes ..
  | tret => exact execTret_finishes ..
  | brk => exact execBrk_finishes ..
  | wfi => exact execWfi_finishes ..
  | gend => exact execGend_finishes ..
  | lend => exact execLend_finishes ..
  | hevict => exact execHevict_finishes ..
  | hrestore => exact execHrestore_finishes ..
  | lbuf => exact execLbuf_finishes ..
  | vlset => exact execVlset_finishes ..
  | vadd => exact execVadd_finishes ..
  | vsub => exact execVsub_finishes ..
  | vmul => exact execVmul_finishes ..
  | vdiv => exact execVdiv_finishes ..
  | vmin => exact execVmin_finishes ..
  | vmax => exact execVmax_finishes ..
  | vsqrt => exact execVsqrt_finishes ..
  | vabs => exact execVabs_finishes ..
  | vfma => exact execVfma_finishes ..
  | vfms => exact execVfms_finishes ..
  | vfnma => exact execVfnma_finishes ..
  | vfnms => exact execVfnms_finishes ..
  | vmulh => exact execVmulh_finishes ..
  | vrem => exact execVrem_finishes ..
  | vneg => exact execVneg_finishes ..
  | vand => exact execVand_finishes ..
  | vor => exact execVor_finishes ..
  | vxor => exact execVxor_finishes ..
  | vnot => exact execVnot_finishes ..
  | vsll => exact execVsll_finishes ..
  | vsrl => exact execVsrl_finishes ..
  | vsra => exact execVsra_finishes ..
  | vceq => exact execVceq_finishes ..
  | vcne => exact execVcne_finishes ..
  | vclt => exact execVclt_finishes ..
  | vcle => exact execVcle_finishes ..
  | vcgt => exact execVcgt_finishes ..
  | vcge => exact execVcge_finishes ..
  | vcun => exact execVcun_finishes ..
  | vsel => exact execVsel_finishes ..
  | kand => exact execKand_finishes ..
  | kor => exact execKor_finishes ..
  | kxor => exact execKxor_finishes ..
  | knot => exact execKnot_finishes ..
  | kpopc => exact execKpopc_finishes ..
  | kfirst => exact execKfirst_finishes ..
  | vcvt => exact execVcvt_finishes ..
  | vcvtS => exact execVcvtS_finishes ..
  | vredsum => exact execVredsum_finishes ..
  | vredmin => exact execVredmin_finishes ..
  | vredmax => exact execVredmax_finishes ..
  | vredand => exact execVredand_finishes ..
  | vredor => exact execVredor_finishes ..
  | vscan => exact execVscan_finishes ..
  | vscanx => exact execVscanx_finishes ..
  | vmaxi => exact execVmaxi_finishes ..
  | vmini => exact execVmini_finishes ..
  | vmaxic => exact execVmaxic_finishes ..
  | vperm => exact execVperm_finishes ..
  | vslideup => exact execVslideup_finishes ..
  | vslidedn => exact execVslidedn_finishes ..
  | vbcast => exact execVbcast_finishes ..
  | vmvxs => exact execVmvxs_finishes ..
  | vmvsx => exact execVmvsx_finishes ..
  | vcompress => exact execVcompress_finishes ..
  | vid => exact execVid_finishes ..
  | vexp2 => exact execVexp2_finishes ..
  | vlog2 => exact execVlog2_finishes ..
  | vrcp => exact execVrcp_finishes ..
  | vrsqrt => exact execVrsqrt_finishes ..
  | vld => exact execVld_finishes ..
  | vlds => exact execVlds_finishes ..
  | vldx => exact execVldx_finishes ..
  | vldsp => exact execVldsp_finishes ..
  | vldm => exact execVldm_finishes ..
  | vldxsp => exact execVldxsp_finishes ..
  | vst => exact execVst_finishes ..
  | vsts => exact execVsts_finishes ..
  | vstx => exact execVstx_finishes ..
  | vstsp => exact execVstsp_finishes ..
  | vstm => exact execVstm_finishes ..
  | vstxsp => exact execVstxsp_finishes ..
  | tacc => exact execTacc_finishes ..
  | taccS => exact execTaccS_finishes ..
  | mzero => exact execMzero_finishes ..
  | mld => exact execMld_finishes ..
  | mldT8 => exact execMldT8_finishes ..
  | mldT16 => exact execMldT16_finishes ..
  | mst => exact execMst_finishes ..
  | mcvt => exact execMcvt_finishes ..
  | mrowr => exact execMrowr_finishes ..
  | mroww => exact execMroww_finishes ..
  | tdstep => exact execTdstep_finishes ..
  | tdleaf => exact execTdleaf_finishes ..
  | tdregrp => exact execTdregrp_finishes ..
  | tdpathR => exact execTdpathR_finishes ..
  | tdpathW => exact execTdpathW_finishes ..
  | tdaddr => exact execTdaddr_finishes ..
  | hqDot => exact execHqDot_finishes ..
  | hqSum => exact execHqSum_finishes ..
  | hqCnt => exact execHqCnt_finishes ..
  | hqMax => exact execHqMax_finishes ..
  | hqTop => exact execHqTop_finishes ..
  | hqSes => exact execHqSes_finishes ..
  | hbcast => exact execHbcast_finishes ..
  | hmove => exact execHmove_finishes ..
  | cblkIn => exact execCblkIn_finishes ..
  | cblkOut => exact execCblkOut_finishes ..
  | cblkSs => exact execCblkSs_finishes ..
  | cblkVv => exact execCblkVv_finishes ..
  | cnestIn => exact execCnestIn_finishes ..
  | cnestOut => exact execCnestOut_finishes ..
  | cnestSs => exact execCnestSs_finishes ..
  | cnestVv => exact execCnestVv_finishes ..
  | cnestInT8 => exact execCnestInT8_finishes ..
  | cnestInT16 => exact execCnestInT16_finishes ..
  | cgathIn => exact execCgathIn_finishes ..
  | cgathOut => exact execCgathOut_finishes ..
  | cgetV => exact execCgetV_finishes ..
  | cgetVs => exact execCgetVs_finishes ..
  | cwaitAny => exact execCwaitAny_finishes ..
  | cwaitAll => exact execCwaitAll_finishes ..
  | cfirst => exact execCfirst_finishes ..
  | cdrain => exact execCdrain_finishes ..
  | cfence => exact execCfence_finishes ..
  | aaddW => exact execAaddW_finishes ..
  | aaddWNoret => exact execAaddWNoret_finishes ..
  | aaddD => exact execAaddD_finishes ..
  | aaddDNoret => exact execAaddDNoret_finishes ..
  | aandW => exact execAandW_finishes ..
  | aandWNoret => exact execAandWNoret_finishes ..
  | aandD => exact execAandD_finishes ..
  | aandDNoret => exact execAandDNoret_finishes ..
  | aorW => exact execAorW_finishes ..
  | aorWNoret => exact execAorWNoret_finishes ..
  | aorD => exact execAorD_finishes ..
  | aorDNoret => exact execAorDNoret_finishes ..
  | axorW => exact execAxorW_finishes ..
  | axorWNoret => exact execAxorWNoret_finishes ..
  | axorD => exact execAxorD_finishes ..
  | axorDNoret => exact execAxorDNoret_finishes ..
  | aminW => exact execAminW_finishes ..
  | aminWNoret => exact execAminWNoret_finishes ..
  | aminD => exact execAminD_finishes ..
  | aminDNoret => exact execAminDNoret_finishes ..
  | amaxW => exact execAmaxW_finishes ..
  | amaxWNoret => exact execAmaxWNoret_finishes ..
  | amaxD => exact execAmaxD_finishes ..
  | amaxDNoret => exact execAmaxDNoret_finishes ..
  | aminuW => exact execAminuW_finishes ..
  | aminuWNoret => exact execAminuWNoret_finishes ..
  | aminuD => exact execAminuD_finishes ..
  | aminuDNoret => exact execAminuDNoret_finishes ..
  | amaxuW => exact execAmaxuW_finishes ..
  | amaxuWNoret => exact execAmaxuWNoret_finishes ..
  | amaxuD => exact execAmaxuD_finishes ..
  | amaxuDNoret => exact execAmaxuDNoret_finishes ..
  | aswpW => exact execAswpW_finishes ..
  | aswpWNoret => exact execAswpWNoret_finishes ..
  | aswpD => exact execAswpD_finishes ..
  | aswpDNoret => exact execAswpDNoret_finishes ..
  | acasW => exact execAcasW_finishes ..
  | acasD => exact execAcasD_finishes ..
  | afaddW => exact execAfaddW_finishes ..
  | afaddWNoret => exact execAfaddWNoret_finishes ..
  | aincbW => exact execAincbW_finishes ..
  | aincbD => exact execAincbD_finishes ..
  | aaddscan => exact execAaddscan_finishes ..
  | cmbput => exact execCmbput_finishes ..
  | cmbputZ => exact execCmbputZ_finishes ..
  | sbar => exact execSbar_finishes ..
  | fenceRel => exact execFenceRel_finishes ..
  | fenceAcq => exact execFenceAcq_finishes ..
  | ldAcqW => exact execLdAcqW_finishes ..
  | ldAcqD => exact execLdAcqD_finishes ..
  | stRelW => exact execStRelW_finishes ..
  | stRelD => exact execStRelD_finishes ..
  | accw => exact execAccw_finishes ..
  | accm => exact execAccm_finishes ..
  | ipost => exact execIpost_finishes ..
  | iwait => exact execIwait_finishes ..
  | mbarArr => exact execMbarArr_finishes ..
  | mbarWait => exact execMbarWait_finishes ..
  | dbarArr => exact execDbarArr_finishes ..
  | dbarWait => exact execDbarWait_finishes ..
  | mwait => exact execMwait_finishes ..
  | qput => exact execQput_finishes ..
  | ktrig => exact execKtrig_finishes ..
  | sealWord => exact execSeal_finishes ..
  | xhold => exact execXhold_finishes ..
  | slabCycle c => exact absurd rfl (h c)
  | strandOverdue => exact execStrandOverdue_finishes ..
  | timerTrap => exact execTimerTrap_finishes ..
  | wfiWake => exact execWfiWake_finishes ..
  | trcctlMark => exact execTrcctlMark_finishes ..
  | trcctlCopy => exact execTrcctlCopy_finishes ..
  | trcctlClr => exact execTrcctlClr_finishes ..
  | registerWrite => exact execRegisterWrite_finishes ..
  | barrierConfigWrite => exact execBarrierConfigWrite_finishes ..
  | ringConfigWrite => exact execRingConfigWrite_finishes ..
  | hberrClear => exact execHberrClear_finishes ..
  | editPortWrite => exact execEditPortWrite_finishes ..
  | shootDown => exact execShootDown_finishes ..
  | tlbParityRefetch => exact execTlbParityRefetch_finishes ..
  | copyLand => exact execCopyLand_finishes ..
  | copyFault => exact execCopyFault_finishes ..
  | copySourceError => exact execCopySourceError_finishes ..
  | copySourcePoison => exact execCopySourcePoison_finishes ..
  | atomicResponse => exact execAtomicResponse_finishes ..
  | noreturnAtomicPerform => exact execNoreturnAtomicPerform_finishes ..
  | cmbputPerform => exact execCmbputPerform_finishes ..
  | heathSlotCheck => exact execHeathSlotCheck_finishes ..
  | heathPass1Done => exact execHeathPass1Done_finishes ..
  | heathBankError => exact execHeathBankError_finishes ..
  | heathReply => exact execHeathReply_finishes ..
  | hbcastLand => exact execHbcastLand_finishes ..
  | hmoveDone => exact execHmoveDone_finishes ..
  | hevictDone => exact execHevictDone_finishes ..
  | hrestoreDone => exact execHrestoreDone_finishes ..
  | barrierTimeout => exact execBarrierTimeout_finishes ..
  | iwaitTimeout => exact execIwaitTimeout_finishes ..
  | mwaitTimeout => exact execMwaitTimeout_finishes ..
  | walkerPlace => exact execWalkerPlace_finishes ..
  | preemptRequest => exact execPreemptRequest_finishes ..
  | preemptSaveDone => exact execPreemptSaveDone_finishes ..
  | laneReclaimRequest => exact execLaneReclaimRequest_finishes ..
  | reclaimTimeout => exact execReclaimTimeout_finishes ..
  | laneWaitReturn => exact execLaneWaitReturn_finishes ..
  | groupRestore => exact execGroupRestore_finishes ..
  | ueConsumed => exact execUeConsumed_finishes ..
  | scrubberVisit => exact execScrubberVisit_finishes ..
  | sealTimer => exact execSealTimer_finishes ..
  | sealRequest => exact execSealRequest_finishes ..
  | sealPrepare => exact execSealPrepare_finishes ..
  | sealResume => exact execSealResume_finishes ..
  | sealImagesDone => exact execSealImagesDone_finishes ..
  | sealReady => exact execSealReady_finishes ..
  | sealCommit => exact execSealCommit_finishes ..
  | sealAbort => exact execSealAbort_finishes ..
  | sealReadyTimeout => exact execSealReadyTimeout_finishes ..
  | coordinatorTimeout => exact execCoordinatorTimeout_finishes ..
  | rollback => exact execRollback_finishes ..
  | initialSeal => exact execInitialSeal_finishes ..
  | snapshotStreamEnd => exact execSnapshotStreamEnd_finishes ..
  | jeoreAck => exact execJeoreAck_finishes ..
  | jeoreNak => exact execJeoreNak_finishes ..
  | jeoreFlitBad => exact execJeoreFlitBad_finishes ..
  | jeoreRemoteWrite => exact execJeoreRemoteWrite_finishes ..
  | jeoreAtomicRequest => exact execJeoreAtomicRequest_finishes ..
  | jeoreAtomicResponse => exact execJeoreAtomicResponse_finishes ..
  | jeoreCopyReadRequest => exact execJeoreCopyReadRequest_finishes ..
  | jeoreCopyReadData => exact execJeoreCopyReadData_finishes ..
  | linkTrainingComplete => exact execLinkTrainingComplete_finishes ..
  | linkTrainingTimeout => exact execLinkTrainingTimeout_finishes ..
  | linkLaneLost => exact execLinkLaneLost_finishes ..
  | hostLinkDown => exact execHostLinkDown_finishes ..
  | hostLinkUp => exact execHostLinkUp_finishes ..
  | moduleBoot => exact execModuleBoot_finishes ..
  | unitStart => exact execUnitStart_finishes ..
  | matrixIdle => exact execMatrixIdle_finishes ..
  | heathGovernorWindow => exact execHeathGovernorWindow_finishes ..
  | thermalThrottle => exact execThermalThrottle_finishes ..
  | thermalShutdown => exact execThermalShutdown_finishes ..
  | commandReply => exact execCommandReply_finishes ..
  | identify => exact execIdentify_finishes ..
  | attest => exact execAttest_finishes ..
  | createContext => exact execCreateContext_finishes ..
  | destroyContext => exact execDestroyContext_finishes ..
  | stopContext => exact execStopContext_finishes ..
  | resumeContext => exact execResumeContext_finishes ..
  | mapPages => exact execMapPages_finishes ..
  | unmapPages => exact execUnmapPages_finishes ..
  | hostImport => exact execHostImport_finishes ..
  | hostExport => exact execHostExport_finishes ..
  | runRoot => exact execRunRoot_finishes ..
  | snapshot => exact execSnapshot_finishes ..
  | restoreModule => exact execRestoreModule_finishes ..
  | readDump => exact execReadDump_finishes ..
  | configureLinks => exact execConfigureLinks_finishes ..
  | configureManagement => exact execConfigureManagement_finishes ..
  | resetFunction => exact execResetFunction_finishes ..
  | resetModule => exact execResetModule_finishes ..
  | cmdregWrite => exact execCmdregWrite_finishes ..
  | scratchpadBankWake => exact execScratchpadBankWake_finishes ..
  | copyPerformed => exact execCopyPerformed_finishes ..
  | replayStart => exact execReplayStart_finishes ..
  | testServiceSet => exact execTestServiceSet_finishes ..

end Sys2Proof.Machine
end

