-- ==== Sys2Proof/Laws/Encoding.lean ====
section
/-! SUPPORT. Words as lists of fields: `pack` puts fields side by side, and a field of a packed word is read back. -/

namespace Sys2Proof

/-- A word as its fields, lowest first, each a width and a value. -/
def pack (l : List (Nat × Nat)) : Nat :=
  match l with
  | [] => 0
  | p :: rest => p.2 + 2 ^ p.1 * pack rest

/-- Every field fits into its width. -/
def Fits (l : List (Nat × Nat)) : Prop :=
  match l with
  | [] => True
  | p :: rest => p.2 < 2 ^ p.1 ∧ Fits rest

/-- The field that starts at bit `lo` with width `n`. -/
def look (l : List (Nat × Nat)) (lo n : Nat) : Option Nat :=
  match l with
  | [] => none
  | p :: rest => if lo = 0 then (if p.1 = n then some p.2 else none) else if p.1 ≤ lo then look rest (lo - p.1) n else none

def packWidth (l : List (Nat × Nat)) : Nat :=
  match l with
  | [] => 0
  | p :: rest => p.1 + packWidth rest

theorem pack_lt (l : List (Nat × Nat)) (h : Fits l) : pack l < 2 ^ packWidth l := by
  induction l with
  | nil => simp [pack, packWidth]
  | cons p rest ih =>
    have hr := ih h.2
    have hp := h.1
    simp only [pack, packWidth, Nat.pow_add]
    calc p.2 + 2 ^ p.1 * pack rest < 2 ^ p.1 + 2 ^ p.1 * pack rest := by omega
      _ = 2 ^ p.1 * (pack rest + 1) := by rw [Nat.mul_add, Nat.mul_one, Nat.add_comm]
      _ ≤ 2 ^ p.1 * 2 ^ packWidth rest := Nat.mul_le_mul_left _ hr

/-- A field of a packed word reads back. -/
theorem pack_look (l : List (Nat × Nat)) (lo n v : Nat) (h : Fits l) (hl : look l lo n = some v) :
    pack l / 2 ^ lo % 2 ^ n = v := by
  induction l generalizing lo with
  | nil => cases hl
  | cons p rest ih =>
    simp only [look] at hl
    split at hl
    · rename_i h0
      split at hl
      · rename_i hn
        injection hl with hv
        subst h0 hn hv
        simp only [pack, Nat.pow_zero, Nat.div_one, Nat.add_mul_mod_self_left]
        exact Nat.mod_eq_of_lt h.1
      · cases hl
    · split at hl
      · rename_i hle
        have hd : pack (p :: rest) / 2 ^ p.1 = pack rest := by
          simp only [pack]
          rw [Nat.add_mul_div_left _ _ (Nat.two_pow_pos _), Nat.div_eq_of_lt h.1, Nat.zero_add]
        have hlo : lo = p.1 + (lo - p.1) := by omega
        rw [hlo, Nat.pow_add, ← Nat.div_div_eq_div_mul, hd]
        exact ih _ h.2 hl
      · cases hl

/-- A word that has the fields given. -/
structure Packed (w : Nat) (l : List (Nat × Nat)) : Prop where
  eq : w = pack l
  fits : Fits l

namespace Packed

variable {w : Nat} {l : List (Nat × Nat)}

theorem at' (h : Packed w l) {lo n v : Nat} (hl : look l lo n = some v) : w / 2 ^ lo % 2 ^ n = v :=
  h.eq ▸ pack_look l lo n v h.fits hl

theorem lt (h : Packed w l) (hw : packWidth l = 32) : w < 2 ^ 32 := by
  rw [h.eq, ← hw]; exact pack_lt l h.fits

theorem low {n v : Nat} (h : Packed w l) (hl : look l 0 n = some v) : w % 2 ^ n = v := by
  have := h.at' hl
  rwa [Nat.pow_zero, Nat.div_one] at this

theorem low2 {v : Nat} (h : Packed w l) (hl : look l 0 2 = some v) : w % 4 = v := h.low hl
theorem low3 {v : Nat} (h : Packed w l) (hl : look l 0 3 = some v) : w % 8 = v := h.low hl
theorem low5 {v : Nat} (h : Packed w l) (hl : look l 0 5 = some v) : w % 32 = v := h.low hl
theorem major {v : Nat} (h : Packed w l) (hl : look l 25 6 = some v) : majorOf w = v := h.at' hl

theorem field {n lo : Nat} {x : BitVec n} (h : Packed w l) (hl : look l lo n = some x.toNat) :
    Sys2Proof.field n lo w = x := by
  apply BitVec.eq_of_toNat_eq
  rw [Sys2Proof.field, BitVec.toNat_ofNat]
  exact h.at' hl

theorem rd {x : Reg} (h : Packed w l) (hl : look l 20 5 = some x.toNat) : Sys2Proof.rd w = x := h.field hl
theorem ra {x : Reg} (h : Packed w l) (hl : look l 15 5 = some x.toNat) : Sys2Proof.ra w = x := h.field hl
theorem rb {x : Reg} (h : Packed w l) (hl : look l 10 5 = some x.toNat) : Sys2Proof.rb w = x := h.field hl
theorem rf {x : Reg} (h : Packed w l) (hl : look l 5 5 = some x.toNat) : Sys2Proof.rf w = x := h.field hl

theorem chained {c : Bool} (h : Packed w l) (hl : look l 31 1 = some c.toNat) : Sys2Proof.chained w = c := by
  have := h.at' hl
  simp only [Sys2Proof.chained]
  cases c <;> simp_all

theorem unchained (h : Packed w l) (hl : look l 31 1 = some 0) : Sys2Proof.chained w = false := h.chained (c := false) hl

end Packed

/-! A word and its fields as sums, in steps that name no large number to be counted out. -/

theorem pack_nil : pack [] = 0 := by rw [pack]
theorem pack_cons (n v : Nat) (l : List (Nat × Nat)) : pack ((n, v) :: l) = v + 2 ^ n * pack l := by rw [pack]
theorem wordOf_nil (b : Nat) : wordOf b [] = b := by rw [wordOf, List.foldl]
theorem wordOf_cons (b p : Nat) (l : List Nat) : wordOf b (p :: l) = wordOf (b + p) l := by
  rw [wordOf, List.foldl, ← wordOf]
theorem put_eq {n : Nat} (x : BitVec n) (lo : Nat) : put x lo = x.toNat * 2 ^ lo := by rw [put]
theorem at20_eq (r : Reg) : at20 r = r.toNat * 2 ^ 20 := by rw [at20]
theorem at15_eq (r : Reg) : at15 r = r.toNat * 2 ^ 15 := by rw [at15]
theorem at10_eq (r : Reg) : at10 r = r.toNat * 2 ^ 10 := by rw [at10]
theorem at5_eq (r : Reg) : at5 r = r.toNat * 2 ^ 5 := by rw [at5]
theorem atC_eq (c : Bool) : atC c = c.toNat * 2 ^ 31 := by rw [atC]

theorem toNat_lt_two (c : Bool) : c.toNat < 2 ^ 1 := by cases c <;> decide

end Sys2Proof
end

