-- ==== Sys2Proof/Laws/State.lean ====
section
/-! SUPPORT. What the updates of a state, a strand and a step leave in each field: one lemma per field and update. -/

namespace Sys2Proof.Machine

/-! ### State.setCore -/

@[simp] theorem State.setCore_strand (s : State) (c : Core) : (s.setCore c).strand = s.strand := rfl
@[simp] theorem State.setCore_parked (s : State) (c : Core) : (s.setCore c).parked = s.parked := rfl
@[simp] theorem State.setCore_groups (s : State) (c : Core) : (s.setCore c).groups = s.groups := rfl
@[simp] theorem State.setCore_ctxs (s : State) (c : Core) : (s.setCore c).ctxs = s.ctxs := rfl
@[simp] theorem State.setCore_queues (s : State) (c : Core) : (s.setCore c).queues = s.queues := rfl
@[simp] theorem State.setCore_kernels (s : State) (c : Core) : (s.setCore c).kernels = s.kernels := rfl
@[simp] theorem State.setCore_mbars (s : State) (c : Core) : (s.setCore c).mbars = s.mbars := rfl
@[simp] theorem State.setCore_dbars (s : State) (c : Core) : (s.setCore c).dbars = s.dbars := rfl
@[simp] theorem State.setCore_rings (s : State) (c : Core) : (s.setCore c).rings = s.rings := rfl
@[simp] theorem State.setCore_walkPrev (s : State) (c : Core) : (s.setCore c).walkPrev = s.walkPrev := rfl
@[simp] theorem State.setCore_walkLast (s : State) (c : Core) : (s.setCore c).walkLast = s.walkLast := rfl
@[simp] theorem State.setCore_resting (s : State) (c : Core) : (s.setCore c).resting = s.resting := rfl
@[simp] theorem State.setCore_fm (s : State) (c : Core) : (s.setCore c).fm = s.fm := rfl
@[simp] theorem State.setCore_hm (s : State) (c : Core) : (s.setCore c).hm = s.hm := rfl
@[simp] theorem State.setCore_sp (s : State) (c : Core) : (s.setCore c).sp = s.sp := rfl
@[simp] theorem State.setCore_host (s : State) (c : Core) : (s.setCore c).host = s.host := rfl
@[simp] theorem State.setCore_fmLine (s : State) (c : Core) : (s.setCore c).fmLine = s.fmLine := rfl
@[simp] theorem State.setCore_hmLine (s : State) (c : Core) : (s.setCore c).hmLine = s.hmLine := rfl
@[simp] theorem State.setCore_idleStamp (s : State) (c : Core) : (s.setCore c).idleStamp = s.idleStamp := rfl
@[simp] theorem State.setCore_undoF (s : State) (c : Core) : (s.setCore c).undoF = s.undoF := rfl
@[simp] theorem State.setCore_undoH (s : State) (c : Core) : (s.setCore c).undoH = s.undoH := rfl
@[simp] theorem State.setCore_rin (s : State) (c : Core) : (s.setCore c).rin = s.rin := rfl
@[simp] theorem State.setCore_svcmode (s : State) (c : Core) : (s.setCore c).svcmode = s.svcmode := rfl
@[simp] theorem State.setCore_hold (s : State) (c : Core) : (s.setCore c).hold = s.hold := rfl
@[simp] theorem State.setCore_sent (s : State) (c : Core) : (s.setCore c).sent = s.sent := rfl
@[simp] theorem State.setCore_cmds (s : State) (c : Core) : (s.setCore c).cmds = s.cmds := rfl
@[simp] theorem State.setCore_queries (s : State) (c : Core) : (s.setCore c).queries = s.queries := rfl
@[simp] theorem State.setCore_heathLine (s : State) (c : Core) : (s.setCore c).heathLine = s.heathLine := rfl
@[simp] theorem State.setCore_farPuts (s : State) (c : Core) : (s.setCore c).farPuts = s.farPuts := rfl
@[simp] theorem State.setCore_slots (s : State) (c : Core) : (s.setCore c).slots = s.slots := rfl
@[simp] theorem State.setCore_hberr (s : State) (c : Core) : (s.setCore c).hberr = s.hberr := rfl
@[simp] theorem State.setCore_pages (s : State) (c : Core) : (s.setCore c).pages = s.pages := rfl
@[simp] theorem State.setCore_tlb (s : State) (c : Core) : (s.setCore c).tlb = s.tlb := rfl
@[simp] theorem State.setCore_walks (s : State) (c : Core) : (s.setCore c).walks = s.walks := rfl
@[simp] theorem State.setCore_tlog (s : State) (c : Core) : (s.setCore c).tlog = s.tlog := rfl
@[simp] theorem State.setCore_tlogFlash (s : State) (c : Core) : (s.setCore c).tlogFlash = s.tlogFlash := rfl
@[simp] theorem State.setCore_incs (s : State) (c : Core) : (s.setCore c).incs = s.incs := rfl
@[simp] theorem State.setCore_ports (s : State) (c : Core) : (s.setCore c).ports = s.ports := rfl
@[simp] theorem State.setCore_map (s : State) (c : Core) : (s.setCore c).map = s.map := rfl
@[simp] theorem State.setCore_hostUp (s : State) (c : Core) : (s.setCore c).hostUp = s.hostUp := rfl
@[simp] theorem State.setCore_safe (s : State) (c : Core) : (s.setCore c).safe = s.safe := rfl
@[simp] theorem State.setCore_slotText (s : State) (c : Core) : (s.setCore c).slotText = s.slotText := rfl
@[simp] theorem State.setCore_rcv (s : State) (c : Core) : (s.setCore c).rcv = s.rcv := rfl
@[simp] theorem State.setCore_fns (s : State) (c : Core) : (s.setCore c).fns = s.fns := rfl
@[simp] theorem State.setCore_mgmt (s : State) (c : Core) : (s.setCore c).mgmt = s.mgmt := rfl
@[simp] theorem State.setCore_agenda (s : State) (c : Core) : (s.setCore c).agenda = s.agenda := rfl
@[simp] theorem State.setCore_woken (s : State) (c : Core) : (s.setCore c).woken = s.woken := rfl
@[simp] theorem State.setCore_idleCycle (s : State) (c : Core) : (s.setCore c).idleCycle = s.idleCycle := rfl
@[simp] theorem State.setCore_focus (s : State) (c : Core) : (s.setCore c).focus = s.focus := rfl
@[simp] theorem State.setCore_turn (s : State) (c : Core) : (s.setCore c).turn = s.turn := rfl
@[simp] theorem State.setCore_nextId (s : State) (c : Core) : (s.setCore c).nextId = s.nextId := rfl
@[simp] theorem State.setCore_fresh (s : State) (c : Core) : (s.setCore c).fresh = s.fresh := rfl

/-! ### State.mapGroup -/

@[simp] theorem State.mapGroup_strand (s : State) (n : Nat) (g : Group → Group) :
    (s.mapGroup n g).strand = s.strand := rfl
@[simp] theorem State.mapGroup_parked (s : State) (n : Nat) (g : Group → Group) :
    (s.mapGroup n g).parked = s.parked := rfl
@[simp] theorem State.mapGroup_cores (s : State) (n : Nat) (g : Group → Group) : (s.mapGroup n g).cores = s.cores := rfl
@[simp] theorem State.mapGroup_ctxs (s : State) (n : Nat) (g : Group → Group) : (s.mapGroup n g).ctxs = s.ctxs := rfl
@[simp] theorem State.mapGroup_queues (s : State) (n : Nat) (g : Group → Group) :
    (s.mapGroup n g).queues = s.queues := rfl
@[simp] theorem State.mapGroup_kernels (s : State) (n : Nat) (g : Group → Group) :
    (s.mapGroup n g).kernels = s.kernels := rfl
@[simp] theorem State.mapGroup_mbars (s : State) (n : Nat) (g : Group → Group) : (s.mapGroup n g).mbars = s.mbars := rfl
@[simp] theorem State.mapGroup_dbars (s : State) (n : Nat) (g : Group → Group) : (s.mapGroup n g).dbars = s.dbars := rfl
@[simp] theorem State.mapGroup_rings (s : State) (n : Nat) (g : Group → Group) : (s.mapGroup n g).rings = s.rings := rfl
@[simp] theorem State.mapGroup_walkPrev (s : State) (n : Nat) (g : Group → Group) :
    (s.mapGroup n g).walkPrev = s.walkPrev := rfl
@[simp] theorem State.mapGroup_walkLast (s : State) (n : Nat) (g : Group → Group) :
    (s.mapGroup n g).walkLast = s.walkLast := rfl
@[simp] theorem State.mapGroup_resting (s : State) (n : Nat) (g : Group → Group) :
    (s.mapGroup n g).resting = s.resting := rfl
@[simp] theorem State.mapGroup_fm (s : State) (n : Nat) (g : Group → Group) : (s.mapGroup n g).fm = s.fm := rfl
@[simp] theorem State.mapGroup_hm (s : State) (n : Nat) (g : Group → Group) : (s.mapGroup n g).hm = s.hm := rfl
@[simp] theorem State.mapGroup_sp (s : State) (n : Nat) (g : Group → Group) : (s.mapGroup n g).sp = s.sp := rfl
@[simp] theorem State.mapGroup_host (s : State) (n : Nat) (g : Group → Group) : (s.mapGroup n g).host = s.host := rfl
@[simp] theorem State.mapGroup_fmLine (s : State) (n : Nat) (g : Group → Group) :
    (s.mapGroup n g).fmLine = s.fmLine := rfl
@[simp] theorem State.mapGroup_hmLine (s : State) (n : Nat) (g : Group → Group) :
    (s.mapGroup n g).hmLine = s.hmLine := rfl
@[simp] theorem State.mapGroup_idleStamp (s : State) (n : Nat) (g : Group → Group) :
    (s.mapGroup n g).idleStamp = s.idleStamp := rfl
@[simp] theorem State.mapGroup_undoF (s : State) (n : Nat) (g : Group → Group) : (s.mapGroup n g).undoF = s.undoF := rfl
@[simp] theorem State.mapGroup_undoH (s : State) (n : Nat) (g : Group → Group) : (s.mapGroup n g).undoH = s.undoH := rfl
@[simp] theorem State.mapGroup_rin (s : State) (n : Nat) (g : Group → Group) : (s.mapGroup n g).rin = s.rin := rfl
@[simp] theorem State.mapGroup_svcmode (s : State) (n : Nat) (g : Group → Group) :
    (s.mapGroup n g).svcmode = s.svcmode := rfl
@[simp] theorem State.mapGroup_hold (s : State) (n : Nat) (g : Group → Group) : (s.mapGroup n g).hold = s.hold := rfl
@[simp] theorem State.mapGroup_sent (s : State) (n : Nat) (g : Group → Group) : (s.mapGroup n g).sent = s.sent := rfl
@[simp] theorem State.mapGroup_cmds (s : State) (n : Nat) (g : Group → Group) : (s.mapGroup n g).cmds = s.cmds := rfl
@[simp] theorem State.mapGroup_queries (s : State) (n : Nat) (g : Group → Group) :
    (s.mapGroup n g).queries = s.queries := rfl
@[simp] theorem State.mapGroup_heathLine (s : State) (n : Nat) (g : Group → Group) :
    (s.mapGroup n g).heathLine = s.heathLine := rfl
@[simp] theorem State.mapGroup_farPuts (s : State) (n : Nat) (g : Group → Group) :
    (s.mapGroup n g).farPuts = s.farPuts := rfl
@[simp] theorem State.mapGroup_slots (s : State) (n : Nat) (g : Group → Group) : (s.mapGroup n g).slots = s.slots := rfl
@[simp] theorem State.mapGroup_hberr (s : State) (n : Nat) (g : Group → Group) : (s.mapGroup n g).hberr = s.hberr := rfl
@[simp] theorem State.mapGroup_pages (s : State) (n : Nat) (g : Group → Group) : (s.mapGroup n g).pages = s.pages := rfl
@[simp] theorem State.mapGroup_tlb (s : State) (n : Nat) (g : Group → Group) : (s.mapGroup n g).tlb = s.tlb := rfl
@[simp] theorem State.mapGroup_walks (s : State) (n : Nat) (g : Group → Group) : (s.mapGroup n g).walks = s.walks := rfl
@[simp] theorem State.mapGroup_tlog (s : State) (n : Nat) (g : Group → Group) : (s.mapGroup n g).tlog = s.tlog := rfl
@[simp] theorem State.mapGroup_tlogFlash (s : State) (n : Nat) (g : Group → Group) :
    (s.mapGroup n g).tlogFlash = s.tlogFlash := rfl
@[simp] theorem State.mapGroup_incs (s : State) (n : Nat) (g : Group → Group) : (s.mapGroup n g).incs = s.incs := rfl
@[simp] theorem State.mapGroup_ports (s : State) (n : Nat) (g : Group → Group) : (s.mapGroup n g).ports = s.ports := rfl
@[simp] theorem State.mapGroup_map (s : State) (n : Nat) (g : Group → Group) : (s.mapGroup n g).map = s.map := rfl
@[simp] theorem State.mapGroup_hostUp (s : State) (n : Nat) (g : Group → Group) :
    (s.mapGroup n g).hostUp = s.hostUp := rfl
@[simp] theorem State.mapGroup_safe (s : State) (n : Nat) (g : Group → Group) : (s.mapGroup n g).safe = s.safe := rfl
@[simp] theorem State.mapGroup_slotText (s : State) (n : Nat) (g : Group → Group) :
    (s.mapGroup n g).slotText = s.slotText := rfl
@[simp] theorem State.mapGroup_rcv (s : State) (n : Nat) (g : Group → Group) : (s.mapGroup n g).rcv = s.rcv := rfl
@[simp] theorem State.mapGroup_fns (s : State) (n : Nat) (g : Group → Group) : (s.mapGroup n g).fns = s.fns := rfl
@[simp] theorem State.mapGroup_mgmt (s : State) (n : Nat) (g : Group → Group) : (s.mapGroup n g).mgmt = s.mgmt := rfl
@[simp] theorem State.mapGroup_agenda (s : State) (n : Nat) (g : Group → Group) :
    (s.mapGroup n g).agenda = s.agenda := rfl
@[simp] theorem State.mapGroup_woken (s : State) (n : Nat) (g : Group → Group) : (s.mapGroup n g).woken = s.woken := rfl
@[simp] theorem State.mapGroup_idleCycle (s : State) (n : Nat) (g : Group → Group) :
    (s.mapGroup n g).idleCycle = s.idleCycle := rfl
@[simp] theorem State.mapGroup_focus (s : State) (n : Nat) (g : Group → Group) : (s.mapGroup n g).focus = s.focus := rfl
@[simp] theorem State.mapGroup_turn (s : State) (n : Nat) (g : Group → Group) : (s.mapGroup n g).turn = s.turn := rfl
@[simp] theorem State.mapGroup_nextId (s : State) (n : Nat) (g : Group → Group) :
    (s.mapGroup n g).nextId = s.nextId := rfl
@[simp] theorem State.mapGroup_fresh (s : State) (n : Nat) (g : Group → Group) : (s.mapGroup n g).fresh = s.fresh := rfl

/-! ### State.mapCtx -/

@[simp] theorem State.mapCtx_strand (s : State) (n : Nat) (g : Ctx → Ctx) : (s.mapCtx n g).strand = s.strand := rfl
@[simp] theorem State.mapCtx_parked (s : State) (n : Nat) (g : Ctx → Ctx) : (s.mapCtx n g).parked = s.parked := rfl
@[simp] theorem State.mapCtx_groups (s : State) (n : Nat) (g : Ctx → Ctx) : (s.mapCtx n g).groups = s.groups := rfl
@[simp] theorem State.mapCtx_cores (s : State) (n : Nat) (g : Ctx → Ctx) : (s.mapCtx n g).cores = s.cores := rfl
@[simp] theorem State.mapCtx_queues (s : State) (n : Nat) (g : Ctx → Ctx) : (s.mapCtx n g).queues = s.queues := rfl
@[simp] theorem State.mapCtx_kernels (s : State) (n : Nat) (g : Ctx → Ctx) : (s.mapCtx n g).kernels = s.kernels := rfl
@[simp] theorem State.mapCtx_mbars (s : State) (n : Nat) (g : Ctx → Ctx) : (s.mapCtx n g).mbars = s.mbars := rfl
@[simp] theorem State.mapCtx_dbars (s : State) (n : Nat) (g : Ctx → Ctx) : (s.mapCtx n g).dbars = s.dbars := rfl
@[simp] theorem State.mapCtx_rings (s : State) (n : Nat) (g : Ctx → Ctx) : (s.mapCtx n g).rings = s.rings := rfl
@[simp] theorem State.mapCtx_walkPrev (s : State) (n : Nat) (g : Ctx → Ctx) :
    (s.mapCtx n g).walkPrev = s.walkPrev := rfl
@[simp] theorem State.mapCtx_walkLast (s : State) (n : Nat) (g : Ctx → Ctx) :
    (s.mapCtx n g).walkLast = s.walkLast := rfl
@[simp] theorem State.mapCtx_resting (s : State) (n : Nat) (g : Ctx → Ctx) : (s.mapCtx n g).resting = s.resting := rfl
@[simp] theorem State.mapCtx_fm (s : State) (n : Nat) (g : Ctx → Ctx) : (s.mapCtx n g).fm = s.fm := rfl
@[simp] theorem State.mapCtx_hm (s : State) (n : Nat) (g : Ctx → Ctx) : (s.mapCtx n g).hm = s.hm := rfl
@[simp] theorem State.mapCtx_sp (s : State) (n : Nat) (g : Ctx → Ctx) : (s.mapCtx n g).sp = s.sp := rfl
@[simp] theorem State.mapCtx_host (s : State) (n : Nat) (g : Ctx → Ctx) : (s.mapCtx n g).host = s.host := rfl
@[simp] theorem State.mapCtx_fmLine (s : State) (n : Nat) (g : Ctx → Ctx) : (s.mapCtx n g).fmLine = s.fmLine := rfl
@[simp] theorem State.mapCtx_hmLine (s : State) (n : Nat) (g : Ctx → Ctx) : (s.mapCtx n g).hmLine = s.hmLine := rfl
@[simp] theorem State.mapCtx_idleStamp (s : State) (n : Nat) (g : Ctx → Ctx) :
    (s.mapCtx n g).idleStamp = s.idleStamp := rfl
@[simp] theorem State.mapCtx_undoF (s : State) (n : Nat) (g : Ctx → Ctx) : (s.mapCtx n g).undoF = s.undoF := rfl
@[simp] theorem State.mapCtx_undoH (s : State) (n : Nat) (g : Ctx → Ctx) : (s.mapCtx n g).undoH = s.undoH := rfl
@[simp] theorem State.mapCtx_rin (s : State) (n : Nat) (g : Ctx → Ctx) : (s.mapCtx n g).rin = s.rin := rfl
@[simp] theorem State.mapCtx_svcmode (s : State) (n : Nat) (g : Ctx → Ctx) : (s.mapCtx n g).svcmode = s.svcmode := rfl
@[simp] theorem State.mapCtx_hold (s : State) (n : Nat) (g : Ctx → Ctx) : (s.mapCtx n g).hold = s.hold := rfl
@[simp] theorem State.mapCtx_sent (s : State) (n : Nat) (g : Ctx → Ctx) : (s.mapCtx n g).sent = s.sent := rfl
@[simp] theorem State.mapCtx_cmds (s : State) (n : Nat) (g : Ctx → Ctx) : (s.mapCtx n g).cmds = s.cmds := rfl
@[simp] theorem State.mapCtx_queries (s : State) (n : Nat) (g : Ctx → Ctx) : (s.mapCtx n g).queries = s.queries := rfl
@[simp] theorem State.mapCtx_heathLine (s : State) (n : Nat) (g : Ctx → Ctx) :
    (s.mapCtx n g).heathLine = s.heathLine := rfl
@[simp] theorem State.mapCtx_farPuts (s : State) (n : Nat) (g : Ctx → Ctx) : (s.mapCtx n g).farPuts = s.farPuts := rfl
@[simp] theorem State.mapCtx_slots (s : State) (n : Nat) (g : Ctx → Ctx) : (s.mapCtx n g).slots = s.slots := rfl
@[simp] theorem State.mapCtx_hberr (s : State) (n : Nat) (g : Ctx → Ctx) : (s.mapCtx n g).hberr = s.hberr := rfl
@[simp] theorem State.mapCtx_pages (s : State) (n : Nat) (g : Ctx → Ctx) : (s.mapCtx n g).pages = s.pages := rfl
@[simp] theorem State.mapCtx_tlb (s : State) (n : Nat) (g : Ctx → Ctx) : (s.mapCtx n g).tlb = s.tlb := rfl
@[simp] theorem State.mapCtx_walks (s : State) (n : Nat) (g : Ctx → Ctx) : (s.mapCtx n g).walks = s.walks := rfl
@[simp] theorem State.mapCtx_tlog (s : State) (n : Nat) (g : Ctx → Ctx) : (s.mapCtx n g).tlog = s.tlog := rfl
@[simp] theorem State.mapCtx_tlogFlash (s : State) (n : Nat) (g : Ctx → Ctx) :
    (s.mapCtx n g).tlogFlash = s.tlogFlash := rfl
@[simp] theorem State.mapCtx_incs (s : State) (n : Nat) (g : Ctx → Ctx) : (s.mapCtx n g).incs = s.incs := rfl
@[simp] theorem State.mapCtx_ports (s : State) (n : Nat) (g : Ctx → Ctx) : (s.mapCtx n g).ports = s.ports := rfl
@[simp] theorem State.mapCtx_map (s : State) (n : Nat) (g : Ctx → Ctx) : (s.mapCtx n g).map = s.map := rfl
@[simp] theorem State.mapCtx_hostUp (s : State) (n : Nat) (g : Ctx → Ctx) : (s.mapCtx n g).hostUp = s.hostUp := rfl
@[simp] theorem State.mapCtx_safe (s : State) (n : Nat) (g : Ctx → Ctx) : (s.mapCtx n g).safe = s.safe := rfl
@[simp] theorem State.mapCtx_slotText (s : State) (n : Nat) (g : Ctx → Ctx) :
    (s.mapCtx n g).slotText = s.slotText := rfl
@[simp] theorem State.mapCtx_rcv (s : State) (n : Nat) (g : Ctx → Ctx) : (s.mapCtx n g).rcv = s.rcv := rfl
@[simp] theorem State.mapCtx_fns (s : State) (n : Nat) (g : Ctx → Ctx) : (s.mapCtx n g).fns = s.fns := rfl
@[simp] theorem State.mapCtx_mgmt (s : State) (n : Nat) (g : Ctx → Ctx) : (s.mapCtx n g).mgmt = s.mgmt := rfl
@[simp] theorem State.mapCtx_agenda (s : State) (n : Nat) (g : Ctx → Ctx) : (s.mapCtx n g).agenda = s.agenda := rfl
@[simp] theorem State.mapCtx_woken (s : State) (n : Nat) (g : Ctx → Ctx) : (s.mapCtx n g).woken = s.woken := rfl
@[simp] theorem State.mapCtx_idleCycle (s : State) (n : Nat) (g : Ctx → Ctx) :
    (s.mapCtx n g).idleCycle = s.idleCycle := rfl
@[simp] theorem State.mapCtx_focus (s : State) (n : Nat) (g : Ctx → Ctx) : (s.mapCtx n g).focus = s.focus := rfl
@[simp] theorem State.mapCtx_turn (s : State) (n : Nat) (g : Ctx → Ctx) : (s.mapCtx n g).turn = s.turn := rfl
@[simp] theorem State.mapCtx_nextId (s : State) (n : Nat) (g : Ctx → Ctx) : (s.mapCtx n g).nextId = s.nextId := rfl
@[simp] theorem State.mapCtx_fresh (s : State) (n : Nat) (g : Ctx → Ctx) : (s.mapCtx n g).fresh = s.fresh := rfl

/-! ### State.mapQueue -/

@[simp] theorem State.mapQueue_strand (s : State) (n : Nat) (g : Queue → Queue) :
    (s.mapQueue n g).strand = s.strand := rfl
@[simp] theorem State.mapQueue_parked (s : State) (n : Nat) (g : Queue → Queue) :
    (s.mapQueue n g).parked = s.parked := rfl
@[simp] theorem State.mapQueue_groups (s : State) (n : Nat) (g : Queue → Queue) :
    (s.mapQueue n g).groups = s.groups := rfl
@[simp] theorem State.mapQueue_cores (s : State) (n : Nat) (g : Queue → Queue) : (s.mapQueue n g).cores = s.cores := rfl
@[simp] theorem State.mapQueue_ctxs (s : State) (n : Nat) (g : Queue → Queue) : (s.mapQueue n g).ctxs = s.ctxs := rfl
@[simp] theorem State.mapQueue_kernels (s : State) (n : Nat) (g : Queue → Queue) :
    (s.mapQueue n g).kernels = s.kernels := rfl
@[simp] theorem State.mapQueue_mbars (s : State) (n : Nat) (g : Queue → Queue) : (s.mapQueue n g).mbars = s.mbars := rfl
@[simp] theorem State.mapQueue_dbars (s : State) (n : Nat) (g : Queue → Queue) : (s.mapQueue n g).dbars = s.dbars := rfl
@[simp] theorem State.mapQueue_rings (s : State) (n : Nat) (g : Queue → Queue) : (s.mapQueue n g).rings = s.rings := rfl
@[simp] theorem State.mapQueue_walkPrev (s : State) (n : Nat) (g : Queue → Queue) :
    (s.mapQueue n g).walkPrev = s.walkPrev := rfl
@[simp] theorem State.mapQueue_walkLast (s : State) (n : Nat) (g : Queue → Queue) :
    (s.mapQueue n g).walkLast = s.walkLast := rfl
@[simp] theorem State.mapQueue_resting (s : State) (n : Nat) (g : Queue → Queue) :
    (s.mapQueue n g).resting = s.resting := rfl
@[simp] theorem State.mapQueue_fm (s : State) (n : Nat) (g : Queue → Queue) : (s.mapQueue n g).fm = s.fm := rfl
@[simp] theorem State.mapQueue_hm (s : State) (n : Nat) (g : Queue → Queue) : (s.mapQueue n g).hm = s.hm := rfl
@[simp] theorem State.mapQueue_sp (s : State) (n : Nat) (g : Queue → Queue) : (s.mapQueue n g).sp = s.sp := rfl
@[simp] theorem State.mapQueue_host (s : State) (n : Nat) (g : Queue → Queue) : (s.mapQueue n g).host = s.host := rfl
@[simp] theorem State.mapQueue_fmLine (s : State) (n : Nat) (g : Queue → Queue) :
    (s.mapQueue n g).fmLine = s.fmLine := rfl
@[simp] theorem State.mapQueue_hmLine (s : State) (n : Nat) (g : Queue → Queue) :
    (s.mapQueue n g).hmLine = s.hmLine := rfl
@[simp] theorem State.mapQueue_idleStamp (s : State) (n : Nat) (g : Queue → Queue) :
    (s.mapQueue n g).idleStamp = s.idleStamp := rfl
@[simp] theorem State.mapQueue_undoF (s : State) (n : Nat) (g : Queue → Queue) : (s.mapQueue n g).undoF = s.undoF := rfl
@[simp] theorem State.mapQueue_undoH (s : State) (n : Nat) (g : Queue → Queue) : (s.mapQueue n g).undoH = s.undoH := rfl
@[simp] theorem State.mapQueue_rin (s : State) (n : Nat) (g : Queue → Queue) : (s.mapQueue n g).rin = s.rin := rfl
@[simp] theorem State.mapQueue_svcmode (s : State) (n : Nat) (g : Queue → Queue) :
    (s.mapQueue n g).svcmode = s.svcmode := rfl
@[simp] theorem State.mapQueue_hold (s : State) (n : Nat) (g : Queue → Queue) : (s.mapQueue n g).hold = s.hold := rfl
@[simp] theorem State.mapQueue_sent (s : State) (n : Nat) (g : Queue → Queue) : (s.mapQueue n g).sent = s.sent := rfl
@[simp] theorem State.mapQueue_cmds (s : State) (n : Nat) (g : Queue → Queue) : (s.mapQueue n g).cmds = s.cmds := rfl
@[simp] theorem State.mapQueue_queries (s : State) (n : Nat) (g : Queue → Queue) :
    (s.mapQueue n g).queries = s.queries := rfl
@[simp] theorem State.mapQueue_heathLine (s : State) (n : Nat) (g : Queue → Queue) :
    (s.mapQueue n g).heathLine = s.heathLine := rfl
@[simp] theorem State.mapQueue_farPuts (s : State) (n : Nat) (g : Queue → Queue) :
    (s.mapQueue n g).farPuts = s.farPuts := rfl
@[simp] theorem State.mapQueue_slots (s : State) (n : Nat) (g : Queue → Queue) : (s.mapQueue n g).slots = s.slots := rfl
@[simp] theorem State.mapQueue_hberr (s : State) (n : Nat) (g : Queue → Queue) : (s.mapQueue n g).hberr = s.hberr := rfl
@[simp] theorem State.mapQueue_pages (s : State) (n : Nat) (g : Queue → Queue) : (s.mapQueue n g).pages = s.pages := rfl
@[simp] theorem State.mapQueue_tlb (s : State) (n : Nat) (g : Queue → Queue) : (s.mapQueue n g).tlb = s.tlb := rfl
@[simp] theorem State.mapQueue_walks (s : State) (n : Nat) (g : Queue → Queue) : (s.mapQueue n g).walks = s.walks := rfl
@[simp] theorem State.mapQueue_tlog (s : State) (n : Nat) (g : Queue → Queue) : (s.mapQueue n g).tlog = s.tlog := rfl
@[simp] theorem State.mapQueue_tlogFlash (s : State) (n : Nat) (g : Queue → Queue) :
    (s.mapQueue n g).tlogFlash = s.tlogFlash := rfl
@[simp] theorem State.mapQueue_incs (s : State) (n : Nat) (g : Queue → Queue) : (s.mapQueue n g).incs = s.incs := rfl
@[simp] theorem State.mapQueue_ports (s : State) (n : Nat) (g : Queue → Queue) : (s.mapQueue n g).ports = s.ports := rfl
@[simp] theorem State.mapQueue_map (s : State) (n : Nat) (g : Queue → Queue) : (s.mapQueue n g).map = s.map := rfl
@[simp] theorem State.mapQueue_hostUp (s : State) (n : Nat) (g : Queue → Queue) :
    (s.mapQueue n g).hostUp = s.hostUp := rfl
@[simp] theorem State.mapQueue_safe (s : State) (n : Nat) (g : Queue → Queue) : (s.mapQueue n g).safe = s.safe := rfl
@[simp] theorem State.mapQueue_slotText (s : State) (n : Nat) (g : Queue → Queue) :
    (s.mapQueue n g).slotText = s.slotText := rfl
@[simp] theorem State.mapQueue_rcv (s : State) (n : Nat) (g : Queue → Queue) : (s.mapQueue n g).rcv = s.rcv := rfl
@[simp] theorem State.mapQueue_fns (s : State) (n : Nat) (g : Queue → Queue) : (s.mapQueue n g).fns = s.fns := rfl
@[simp] theorem State.mapQueue_mgmt (s : State) (n : Nat) (g : Queue → Queue) : (s.mapQueue n g).mgmt = s.mgmt := rfl
@[simp] theorem State.mapQueue_agenda (s : State) (n : Nat) (g : Queue → Queue) :
    (s.mapQueue n g).agenda = s.agenda := rfl
@[simp] theorem State.mapQueue_woken (s : State) (n : Nat) (g : Queue → Queue) : (s.mapQueue n g).woken = s.woken := rfl
@[simp] theorem State.mapQueue_idleCycle (s : State) (n : Nat) (g : Queue → Queue) :
    (s.mapQueue n g).idleCycle = s.idleCycle := rfl
@[simp] theorem State.mapQueue_focus (s : State) (n : Nat) (g : Queue → Queue) : (s.mapQueue n g).focus = s.focus := rfl
@[simp] theorem State.mapQueue_turn (s : State) (n : Nat) (g : Queue → Queue) : (s.mapQueue n g).turn = s.turn := rfl
@[simp] theorem State.mapQueue_nextId (s : State) (n : Nat) (g : Queue → Queue) :
    (s.mapQueue n g).nextId = s.nextId := rfl
@[simp] theorem State.mapQueue_fresh (s : State) (n : Nat) (g : Queue → Queue) : (s.mapQueue n g).fresh = s.fresh := rfl

/-! ### State.mapKernel -/

@[simp] theorem State.mapKernel_strand (s : State) (n : Nat) (g : Kernel → Kernel) :
    (s.mapKernel n g).strand = s.strand := rfl
@[simp] theorem State.mapKernel_parked (s : State) (n : Nat) (g : Kernel → Kernel) :
    (s.mapKernel n g).parked = s.parked := rfl
@[simp] theorem State.mapKernel_groups (s : State) (n : Nat) (g : Kernel → Kernel) :
    (s.mapKernel n g).groups = s.groups := rfl
@[simp] theorem State.mapKernel_cores (s : State) (n : Nat) (g : Kernel → Kernel) :
    (s.mapKernel n g).cores = s.cores := rfl
@[simp] theorem State.mapKernel_ctxs (s : State) (n : Nat) (g : Kernel → Kernel) :
    (s.mapKernel n g).ctxs = s.ctxs := rfl
@[simp] theorem State.mapKernel_queues (s : State) (n : Nat) (g : Kernel → Kernel) :
    (s.mapKernel n g).queues = s.queues := rfl
@[simp] theorem State.mapKernel_mbars (s : State) (n : Nat) (g : Kernel → Kernel) :
    (s.mapKernel n g).mbars = s.mbars := rfl
@[simp] theorem State.mapKernel_dbars (s : State) (n : Nat) (g : Kernel → Kernel) :
    (s.mapKernel n g).dbars = s.dbars := rfl
@[simp] theorem State.mapKernel_rings (s : State) (n : Nat) (g : Kernel → Kernel) :
    (s.mapKernel n g).rings = s.rings := rfl
@[simp] theorem State.mapKernel_walkPrev (s : State) (n : Nat) (g : Kernel → Kernel) :
    (s.mapKernel n g).walkPrev = s.walkPrev := rfl
@[simp] theorem State.mapKernel_walkLast (s : State) (n : Nat) (g : Kernel → Kernel) :
    (s.mapKernel n g).walkLast = s.walkLast := rfl
@[simp] theorem State.mapKernel_resting (s : State) (n : Nat) (g : Kernel → Kernel) :
    (s.mapKernel n g).resting = s.resting := rfl
@[simp] theorem State.mapKernel_fm (s : State) (n : Nat) (g : Kernel → Kernel) : (s.mapKernel n g).fm = s.fm := rfl
@[simp] theorem State.mapKernel_hm (s : State) (n : Nat) (g : Kernel → Kernel) : (s.mapKernel n g).hm = s.hm := rfl
@[simp] theorem State.mapKernel_sp (s : State) (n : Nat) (g : Kernel → Kernel) : (s.mapKernel n g).sp = s.sp := rfl
@[simp] theorem State.mapKernel_host (s : State) (n : Nat) (g : Kernel → Kernel) :
    (s.mapKernel n g).host = s.host := rfl
@[simp] theorem State.mapKernel_fmLine (s : State) (n : Nat) (g : Kernel → Kernel) :
    (s.mapKernel n g).fmLine = s.fmLine := rfl
@[simp] theorem State.mapKernel_hmLine (s : State) (n : Nat) (g : Kernel → Kernel) :
    (s.mapKernel n g).hmLine = s.hmLine := rfl
@[simp] theorem State.mapKernel_idleStamp (s : State) (n : Nat) (g : Kernel → Kernel) :
    (s.mapKernel n g).idleStamp = s.idleStamp := rfl
@[simp] theorem State.mapKernel_undoF (s : State) (n : Nat) (g : Kernel → Kernel) :
    (s.mapKernel n g).undoF = s.undoF := rfl
@[simp] theorem State.mapKernel_undoH (s : State) (n : Nat) (g : Kernel → Kernel) :
    (s.mapKernel n g).undoH = s.undoH := rfl
@[simp] theorem State.mapKernel_rin (s : State) (n : Nat) (g : Kernel → Kernel) : (s.mapKernel n g).rin = s.rin := rfl
@[simp] theorem State.mapKernel_svcmode (s : State) (n : Nat) (g : Kernel → Kernel) :
    (s.mapKernel n g).svcmode = s.svcmode := rfl
@[simp] theorem State.mapKernel_hold (s : State) (n : Nat) (g : Kernel → Kernel) :
    (s.mapKernel n g).hold = s.hold := rfl
@[simp] theorem State.mapKernel_sent (s : State) (n : Nat) (g : Kernel → Kernel) :
    (s.mapKernel n g).sent = s.sent := rfl
@[simp] theorem State.mapKernel_cmds (s : State) (n : Nat) (g : Kernel → Kernel) :
    (s.mapKernel n g).cmds = s.cmds := rfl
@[simp] theorem State.mapKernel_queries (s : State) (n : Nat) (g : Kernel → Kernel) :
    (s.mapKernel n g).queries = s.queries := rfl
@[simp] theorem State.mapKernel_heathLine (s : State) (n : Nat) (g : Kernel → Kernel) :
    (s.mapKernel n g).heathLine = s.heathLine := rfl
@[simp] theorem State.mapKernel_farPuts (s : State) (n : Nat) (g : Kernel → Kernel) :
    (s.mapKernel n g).farPuts = s.farPuts := rfl
@[simp] theorem State.mapKernel_slots (s : State) (n : Nat) (g : Kernel → Kernel) :
    (s.mapKernel n g).slots = s.slots := rfl
@[simp] theorem State.mapKernel_hberr (s : State) (n : Nat) (g : Kernel → Kernel) :
    (s.mapKernel n g).hberr = s.hberr := rfl
@[simp] theorem State.mapKernel_pages (s : State) (n : Nat) (g : Kernel → Kernel) :
    (s.mapKernel n g).pages = s.pages := rfl
@[simp] theorem State.mapKernel_tlb (s : State) (n : Nat) (g : Kernel → Kernel) : (s.mapKernel n g).tlb = s.tlb := rfl
@[simp] theorem State.mapKernel_walks (s : State) (n : Nat) (g : Kernel → Kernel) :
    (s.mapKernel n g).walks = s.walks := rfl
@[simp] theorem State.mapKernel_tlog (s : State) (n : Nat) (g : Kernel → Kernel) :
    (s.mapKernel n g).tlog = s.tlog := rfl
@[simp] theorem State.mapKernel_tlogFlash (s : State) (n : Nat) (g : Kernel → Kernel) :
    (s.mapKernel n g).tlogFlash = s.tlogFlash := rfl
@[simp] theorem State.mapKernel_incs (s : State) (n : Nat) (g : Kernel → Kernel) :
    (s.mapKernel n g).incs = s.incs := rfl
@[simp] theorem State.mapKernel_ports (s : State) (n : Nat) (g : Kernel → Kernel) :
    (s.mapKernel n g).ports = s.ports := rfl
@[simp] theorem State.mapKernel_map (s : State) (n : Nat) (g : Kernel → Kernel) : (s.mapKernel n g).map = s.map := rfl
@[simp] theorem State.mapKernel_hostUp (s : State) (n : Nat) (g : Kernel → Kernel) :
    (s.mapKernel n g).hostUp = s.hostUp := rfl
@[simp] theorem State.mapKernel_safe (s : State) (n : Nat) (g : Kernel → Kernel) :
    (s.mapKernel n g).safe = s.safe := rfl
@[simp] theorem State.mapKernel_slotText (s : State) (n : Nat) (g : Kernel → Kernel) :
    (s.mapKernel n g).slotText = s.slotText := rfl
@[simp] theorem State.mapKernel_rcv (s : State) (n : Nat) (g : Kernel → Kernel) : (s.mapKernel n g).rcv = s.rcv := rfl
@[simp] theorem State.mapKernel_fns (s : State) (n : Nat) (g : Kernel → Kernel) : (s.mapKernel n g).fns = s.fns := rfl
@[simp] theorem State.mapKernel_mgmt (s : State) (n : Nat) (g : Kernel → Kernel) :
    (s.mapKernel n g).mgmt = s.mgmt := rfl
@[simp] theorem State.mapKernel_agenda (s : State) (n : Nat) (g : Kernel → Kernel) :
    (s.mapKernel n g).agenda = s.agenda := rfl
@[simp] theorem State.mapKernel_woken (s : State) (n : Nat) (g : Kernel → Kernel) :
    (s.mapKernel n g).woken = s.woken := rfl
@[simp] theorem State.mapKernel_idleCycle (s : State) (n : Nat) (g : Kernel → Kernel) :
    (s.mapKernel n g).idleCycle = s.idleCycle := rfl
@[simp] theorem State.mapKernel_focus (s : State) (n : Nat) (g : Kernel → Kernel) :
    (s.mapKernel n g).focus = s.focus := rfl
@[simp] theorem State.mapKernel_turn (s : State) (n : Nat) (g : Kernel → Kernel) :
    (s.mapKernel n g).turn = s.turn := rfl
@[simp] theorem State.mapKernel_nextId (s : State) (n : Nat) (g : Kernel → Kernel) :
    (s.mapKernel n g).nextId = s.nextId := rfl
@[simp] theorem State.mapKernel_fresh (s : State) (n : Nat) (g : Kernel → Kernel) :
    (s.mapKernel n g).fresh = s.fresh := rfl

/-! ### State.mapStrands -/

@[simp] theorem State.mapStrands_strand (s : State) (f : Strand → Strand) : (s.mapStrands f).strand = f s.strand := rfl
@[simp] theorem State.mapStrands_parked (s : State) (f : Strand → Strand) :
    (s.mapStrands f).parked = s.parked.map f := rfl
@[simp] theorem State.mapStrands_groups (s : State) (f : Strand → Strand) : (s.mapStrands f).groups = s.groups := rfl
@[simp] theorem State.mapStrands_cores (s : State) (f : Strand → Strand) : (s.mapStrands f).cores = s.cores := rfl
@[simp] theorem State.mapStrands_ctxs (s : State) (f : Strand → Strand) : (s.mapStrands f).ctxs = s.ctxs := rfl
@[simp] theorem State.mapStrands_queues (s : State) (f : Strand → Strand) : (s.mapStrands f).queues = s.queues := rfl
@[simp] theorem State.mapStrands_kernels (s : State) (f : Strand → Strand) : (s.mapStrands f).kernels = s.kernels := rfl
@[simp] theorem State.mapStrands_mbars (s : State) (f : Strand → Strand) : (s.mapStrands f).mbars = s.mbars := rfl
@[simp] theorem State.mapStrands_dbars (s : State) (f : Strand → Strand) : (s.mapStrands f).dbars = s.dbars := rfl
@[simp] theorem State.mapStrands_rings (s : State) (f : Strand → Strand) : (s.mapStrands f).rings = s.rings := rfl
@[simp] theorem State.mapStrands_walkPrev (s : State) (f : Strand → Strand) :
    (s.mapStrands f).walkPrev = s.walkPrev := rfl
@[simp] theorem State.mapStrands_walkLast (s : State) (f : Strand → Strand) :
    (s.mapStrands f).walkLast = s.walkLast := rfl
@[simp] theorem State.mapStrands_resting (s : State) (f : Strand → Strand) : (s.mapStrands f).resting = s.resting := rfl
@[simp] theorem State.mapStrands_fm (s : State) (f : Strand → Strand) : (s.mapStrands f).fm = s.fm := rfl
@[simp] theorem State.mapStrands_hm (s : State) (f : Strand → Strand) : (s.mapStrands f).hm = s.hm := rfl
@[simp] theorem State.mapStrands_sp (s : State) (f : Strand → Strand) : (s.mapStrands f).sp = s.sp := rfl
@[simp] theorem State.mapStrands_host (s : State) (f : Strand → Strand) : (s.mapStrands f).host = s.host := rfl
@[simp] theorem State.mapStrands_fmLine (s : State) (f : Strand → Strand) : (s.mapStrands f).fmLine = s.fmLine := rfl
@[simp] theorem State.mapStrands_hmLine (s : State) (f : Strand → Strand) : (s.mapStrands f).hmLine = s.hmLine := rfl
@[simp] theorem State.mapStrands_idleStamp (s : State) (f : Strand → Strand) :
    (s.mapStrands f).idleStamp = s.idleStamp := rfl
@[simp] theorem State.mapStrands_undoF (s : State) (f : Strand → Strand) : (s.mapStrands f).undoF = s.undoF := rfl
@[simp] theorem State.mapStrands_undoH (s : State) (f : Strand → Strand) : (s.mapStrands f).undoH = s.undoH := rfl
@[simp] theorem State.mapStrands_rin (s : State) (f : Strand → Strand) : (s.mapStrands f).rin = s.rin := rfl
@[simp] theorem State.mapStrands_svcmode (s : State) (f : Strand → Strand) : (s.mapStrands f).svcmode = s.svcmode := rfl
@[simp] theorem State.mapStrands_hold (s : State) (f : Strand → Strand) : (s.mapStrands f).hold = s.hold := rfl
@[simp] theorem State.mapStrands_sent (s : State) (f : Strand → Strand) : (s.mapStrands f).sent = s.sent := rfl
@[simp] theorem State.mapStrands_cmds (s : State) (f : Strand → Strand) : (s.mapStrands f).cmds = s.cmds := rfl
@[simp] theorem State.mapStrands_queries (s : State) (f : Strand → Strand) : (s.mapStrands f).queries = s.queries := rfl
@[simp] theorem State.mapStrands_heathLine (s : State) (f : Strand → Strand) :
    (s.mapStrands f).heathLine = s.heathLine := rfl
@[simp] theorem State.mapStrands_farPuts (s : State) (f : Strand → Strand) : (s.mapStrands f).farPuts = s.farPuts := rfl
@[simp] theorem State.mapStrands_slots (s : State) (f : Strand → Strand) : (s.mapStrands f).slots = s.slots := rfl
@[simp] theorem State.mapStrands_hberr (s : State) (f : Strand → Strand) : (s.mapStrands f).hberr = s.hberr := rfl
@[simp] theorem State.mapStrands_pages (s : State) (f : Strand → Strand) : (s.mapStrands f).pages = s.pages := rfl
@[simp] theorem State.mapStrands_tlb (s : State) (f : Strand → Strand) : (s.mapStrands f).tlb = s.tlb := rfl
@[simp] theorem State.mapStrands_walks (s : State) (f : Strand → Strand) : (s.mapStrands f).walks = s.walks := rfl
@[simp] theorem State.mapStrands_tlog (s : State) (f : Strand → Strand) : (s.mapStrands f).tlog = s.tlog := rfl
@[simp] theorem State.mapStrands_tlogFlash (s : State) (f : Strand → Strand) :
    (s.mapStrands f).tlogFlash = s.tlogFlash := rfl
@[simp] theorem State.mapStrands_incs (s : State) (f : Strand → Strand) : (s.mapStrands f).incs = s.incs := rfl
@[simp] theorem State.mapStrands_ports (s : State) (f : Strand → Strand) : (s.mapStrands f).ports = s.ports := rfl
@[simp] theorem State.mapStrands_map (s : State) (f : Strand → Strand) : (s.mapStrands f).map = s.map := rfl
@[simp] theorem State.mapStrands_hostUp (s : State) (f : Strand → Strand) : (s.mapStrands f).hostUp = s.hostUp := rfl
@[simp] theorem State.mapStrands_safe (s : State) (f : Strand → Strand) : (s.mapStrands f).safe = s.safe := rfl
@[simp] theorem State.mapStrands_slotText (s : State) (f : Strand → Strand) :
    (s.mapStrands f).slotText = s.slotText := rfl
@[simp] theorem State.mapStrands_rcv (s : State) (f : Strand → Strand) : (s.mapStrands f).rcv = s.rcv := rfl
@[simp] theorem State.mapStrands_fns (s : State) (f : Strand → Strand) : (s.mapStrands f).fns = s.fns := rfl
@[simp] theorem State.mapStrands_mgmt (s : State) (f : Strand → Strand) : (s.mapStrands f).mgmt = s.mgmt := rfl
@[simp] theorem State.mapStrands_agenda (s : State) (f : Strand → Strand) : (s.mapStrands f).agenda = s.agenda := rfl
@[simp] theorem State.mapStrands_woken (s : State) (f : Strand → Strand) : (s.mapStrands f).woken = s.woken := rfl
@[simp] theorem State.mapStrands_idleCycle (s : State) (f : Strand → Strand) :
    (s.mapStrands f).idleCycle = s.idleCycle := rfl
@[simp] theorem State.mapStrands_focus (s : State) (f : Strand → Strand) : (s.mapStrands f).focus = s.focus := rfl
@[simp] theorem State.mapStrands_turn (s : State) (f : Strand → Strand) : (s.mapStrands f).turn = s.turn := rfl
@[simp] theorem State.mapStrands_nextId (s : State) (f : Strand → Strand) : (s.mapStrands f).nextId = s.nextId := rfl
@[simp] theorem State.mapStrands_fresh (s : State) (f : Strand → Strand) : (s.mapStrands f).fresh = s.fresh := rfl

/-! ### State.withMem -/

@[simp] theorem State.withMem_strand (s : State) (t : Tgt) (m : Mem) :
    (s.withMem t m).strand = s.strand := by cases t <;> rfl
@[simp] theorem State.withMem_parked (s : State) (t : Tgt) (m : Mem) :
    (s.withMem t m).parked = s.parked := by cases t <;> rfl
@[simp] theorem State.withMem_groups (s : State) (t : Tgt) (m : Mem) :
    (s.withMem t m).groups = s.groups := by cases t <;> rfl
@[simp] theorem State.withMem_cores (s : State) (t : Tgt) (m : Mem) :
    (s.withMem t m).cores = s.cores := by cases t <;> rfl
@[simp] theorem State.withMem_ctxs (s : State) (t : Tgt) (m : Mem) : (s.withMem t m).ctxs = s.ctxs := by cases t <;> rfl
@[simp] theorem State.withMem_queues (s : State) (t : Tgt) (m : Mem) :
    (s.withMem t m).queues = s.queues := by cases t <;> rfl
@[simp] theorem State.withMem_kernels (s : State) (t : Tgt) (m : Mem) :
    (s.withMem t m).kernels = s.kernels := by cases t <;> rfl
@[simp] theorem State.withMem_mbars (s : State) (t : Tgt) (m : Mem) :
    (s.withMem t m).mbars = s.mbars := by cases t <;> rfl
@[simp] theorem State.withMem_dbars (s : State) (t : Tgt) (m : Mem) :
    (s.withMem t m).dbars = s.dbars := by cases t <;> rfl
@[simp] theorem State.withMem_rings (s : State) (t : Tgt) (m : Mem) :
    (s.withMem t m).rings = s.rings := by cases t <;> rfl
@[simp] theorem State.withMem_walkPrev (s : State) (t : Tgt) (m : Mem) :
    (s.withMem t m).walkPrev = s.walkPrev := by cases t <;> rfl
@[simp] theorem State.withMem_walkLast (s : State) (t : Tgt) (m : Mem) :
    (s.withMem t m).walkLast = s.walkLast := by cases t <;> rfl
@[simp] theorem State.withMem_resting (s : State) (t : Tgt) (m : Mem) :
    (s.withMem t m).resting = s.resting := by cases t <;> rfl
@[simp] theorem State.withMem_fmLine (s : State) (t : Tgt) (m : Mem) :
    (s.withMem t m).fmLine = s.fmLine := by cases t <;> rfl
@[simp] theorem State.withMem_hmLine (s : State) (t : Tgt) (m : Mem) :
    (s.withMem t m).hmLine = s.hmLine := by cases t <;> rfl
@[simp] theorem State.withMem_idleStamp (s : State) (t : Tgt) (m : Mem) :
    (s.withMem t m).idleStamp = s.idleStamp := by cases t <;> rfl
@[simp] theorem State.withMem_undoF (s : State) (t : Tgt) (m : Mem) :
    (s.withMem t m).undoF = s.undoF := by cases t <;> rfl
@[simp] theorem State.withMem_undoH (s : State) (t : Tgt) (m : Mem) :
    (s.withMem t m).undoH = s.undoH := by cases t <;> rfl
@[simp] theorem State.withMem_rin (s : State) (t : Tgt) (m : Mem) : (s.withMem t m).rin = s.rin := by cases t <;> rfl
@[simp] theorem State.withMem_svcmode (s : State) (t : Tgt) (m : Mem) :
    (s.withMem t m).svcmode = s.svcmode := by cases t <;> rfl
@[simp] theorem State.withMem_hold (s : State) (t : Tgt) (m : Mem) : (s.withMem t m).hold = s.hold := by cases t <;> rfl
@[simp] theorem State.withMem_sent (s : State) (t : Tgt) (m : Mem) : (s.withMem t m).sent = s.sent := by cases t <;> rfl
@[simp] theorem State.withMem_cmds (s : State) (t : Tgt) (m : Mem) : (s.withMem t m).cmds = s.cmds := by cases t <;> rfl
@[simp] theorem State.withMem_queries (s : State) (t : Tgt) (m : Mem) :
    (s.withMem t m).queries = s.queries := by cases t <;> rfl
@[simp] theorem State.withMem_heathLine (s : State) (t : Tgt) (m : Mem) :
    (s.withMem t m).heathLine = s.heathLine := by cases t <;> rfl
@[simp] theorem State.withMem_farPuts (s : State) (t : Tgt) (m : Mem) :
    (s.withMem t m).farPuts = s.farPuts := by cases t <;> rfl
@[simp] theorem State.withMem_slots (s : State) (t : Tgt) (m : Mem) :
    (s.withMem t m).slots = s.slots := by cases t <;> rfl
@[simp] theorem State.withMem_hberr (s : State) (t : Tgt) (m : Mem) :
    (s.withMem t m).hberr = s.hberr := by cases t <;> rfl
@[simp] theorem State.withMem_pages (s : State) (t : Tgt) (m : Mem) :
    (s.withMem t m).pages = s.pages := by cases t <;> rfl
@[simp] theorem State.withMem_tlb (s : State) (t : Tgt) (m : Mem) : (s.withMem t m).tlb = s.tlb := by cases t <;> rfl
@[simp] theorem State.withMem_walks (s : State) (t : Tgt) (m : Mem) :
    (s.withMem t m).walks = s.walks := by cases t <;> rfl
@[simp] theorem State.withMem_tlog (s : State) (t : Tgt) (m : Mem) : (s.withMem t m).tlog = s.tlog := by cases t <;> rfl
@[simp] theorem State.withMem_tlogFlash (s : State) (t : Tgt) (m : Mem) :
    (s.withMem t m).tlogFlash = s.tlogFlash := by cases t <;> rfl
@[simp] theorem State.withMem_incs (s : State) (t : Tgt) (m : Mem) : (s.withMem t m).incs = s.incs := by cases t <;> rfl
@[simp] theorem State.withMem_ports (s : State) (t : Tgt) (m : Mem) :
    (s.withMem t m).ports = s.ports := by cases t <;> rfl
@[simp] theorem State.withMem_map (s : State) (t : Tgt) (m : Mem) : (s.withMem t m).map = s.map := by cases t <;> rfl
@[simp] theorem State.withMem_hostUp (s : State) (t : Tgt) (m : Mem) :
    (s.withMem t m).hostUp = s.hostUp := by cases t <;> rfl
@[simp] theorem State.withMem_safe (s : State) (t : Tgt) (m : Mem) : (s.withMem t m).safe = s.safe := by cases t <;> rfl
@[simp] theorem State.withMem_slotText (s : State) (t : Tgt) (m : Mem) :
    (s.withMem t m).slotText = s.slotText := by cases t <;> rfl
@[simp] theorem State.withMem_rcv (s : State) (t : Tgt) (m : Mem) : (s.withMem t m).rcv = s.rcv := by cases t <;> rfl
@[simp] theorem State.withMem_fns (s : State) (t : Tgt) (m : Mem) : (s.withMem t m).fns = s.fns := by cases t <;> rfl
@[simp] theorem State.withMem_mgmt (s : State) (t : Tgt) (m : Mem) : (s.withMem t m).mgmt = s.mgmt := by cases t <;> rfl
@[simp] theorem State.withMem_agenda (s : State) (t : Tgt) (m : Mem) :
    (s.withMem t m).agenda = s.agenda := by cases t <;> rfl
@[simp] theorem State.withMem_woken (s : State) (t : Tgt) (m : Mem) :
    (s.withMem t m).woken = s.woken := by cases t <;> rfl
@[simp] theorem State.withMem_idleCycle (s : State) (t : Tgt) (m : Mem) :
    (s.withMem t m).idleCycle = s.idleCycle := by cases t <;> rfl
@[simp] theorem State.withMem_focus (s : State) (t : Tgt) (m : Mem) :
    (s.withMem t m).focus = s.focus := by cases t <;> rfl
@[simp] theorem State.withMem_turn (s : State) (t : Tgt) (m : Mem) : (s.withMem t m).turn = s.turn := by cases t <;> rfl
@[simp] theorem State.withMem_nextId (s : State) (t : Tgt) (m : Mem) :
    (s.withMem t m).nextId = s.nextId := by cases t <;> rfl
@[simp] theorem State.withMem_fresh (s : State) (t : Tgt) (m : Mem) :
    (s.withMem t m).fresh = s.fresh := by cases t <;> rfl

/-! ### State.base -/

@[simp] theorem State.base_strand (s : State) (w : Work) : (s.base w).strand = w.st.strand := rfl
@[simp] theorem State.base_parked (s : State) (w : Work) : (s.base w).parked = w.st.parked := rfl
@[simp] theorem State.base_groups (s : State) (w : Work) : (s.base w).groups = w.st.groups := rfl
@[simp] theorem State.base_cores (s : State) (w : Work) : (s.base w).cores = w.st.cores := rfl
@[simp] theorem State.base_ctxs (s : State) (w : Work) : (s.base w).ctxs = w.st.ctxs := rfl
@[simp] theorem State.base_queues (s : State) (w : Work) : (s.base w).queues = w.st.queues := rfl
@[simp] theorem State.base_kernels (s : State) (w : Work) : (s.base w).kernels = w.st.kernels := rfl
@[simp] theorem State.base_mbars (s : State) (w : Work) : (s.base w).mbars = w.st.mbars := rfl
@[simp] theorem State.base_dbars (s : State) (w : Work) : (s.base w).dbars = w.st.dbars := rfl
@[simp] theorem State.base_rings (s : State) (w : Work) : (s.base w).rings = w.st.rings := rfl
@[simp] theorem State.base_walkPrev (s : State) (w : Work) : (s.base w).walkPrev = w.st.walkPrev := rfl
@[simp] theorem State.base_walkLast (s : State) (w : Work) : (s.base w).walkLast = w.st.walkLast := rfl
@[simp] theorem State.base_resting (s : State) (w : Work) : (s.base w).resting = w.st.resting := rfl
@[simp] theorem State.base_fm (s : State) (w : Work) : (s.base w).fm = s.fm := rfl
@[simp] theorem State.base_hm (s : State) (w : Work) : (s.base w).hm = s.hm := rfl
@[simp] theorem State.base_sp (s : State) (w : Work) : (s.base w).sp = s.sp := rfl
@[simp] theorem State.base_host (s : State) (w : Work) : (s.base w).host = s.host := rfl
@[simp] theorem State.base_fmLine (s : State) (w : Work) : (s.base w).fmLine = w.st.fmLine := rfl
@[simp] theorem State.base_hmLine (s : State) (w : Work) : (s.base w).hmLine = w.st.hmLine := rfl
@[simp] theorem State.base_idleStamp (s : State) (w : Work) : (s.base w).idleStamp = w.st.idleStamp := rfl
@[simp] theorem State.base_undoF (s : State) (w : Work) : (s.base w).undoF = w.st.undoF := rfl
@[simp] theorem State.base_undoH (s : State) (w : Work) : (s.base w).undoH = w.st.undoH := rfl
@[simp] theorem State.base_rin (s : State) (w : Work) : (s.base w).rin = w.st.rin := rfl
@[simp] theorem State.base_svcmode (s : State) (w : Work) : (s.base w).svcmode = w.st.svcmode := rfl
@[simp] theorem State.base_hold (s : State) (w : Work) : (s.base w).hold = w.st.hold := rfl
@[simp] theorem State.base_sent (s : State) (w : Work) : (s.base w).sent = w.st.sent := rfl
@[simp] theorem State.base_cmds (s : State) (w : Work) : (s.base w).cmds = w.st.cmds := rfl
@[simp] theorem State.base_queries (s : State) (w : Work) : (s.base w).queries = w.st.queries := rfl
@[simp] theorem State.base_heathLine (s : State) (w : Work) : (s.base w).heathLine = w.st.heathLine := rfl
@[simp] theorem State.base_farPuts (s : State) (w : Work) : (s.base w).farPuts = w.st.farPuts := rfl
@[simp] theorem State.base_slots (s : State) (w : Work) : (s.base w).slots = w.st.slots := rfl
@[simp] theorem State.base_hberr (s : State) (w : Work) : (s.base w).hberr = w.st.hberr := rfl
@[simp] theorem State.base_pages (s : State) (w : Work) : (s.base w).pages = w.st.pages := rfl
@[simp] theorem State.base_tlb (s : State) (w : Work) : (s.base w).tlb = w.st.tlb := rfl
@[simp] theorem State.base_walks (s : State) (w : Work) : (s.base w).walks = w.st.walks := rfl
@[simp] theorem State.base_tlog (s : State) (w : Work) : (s.base w).tlog = w.st.tlog := rfl
@[simp] theorem State.base_tlogFlash (s : State) (w : Work) : (s.base w).tlogFlash = w.st.tlogFlash := rfl
@[simp] theorem State.base_incs (s : State) (w : Work) : (s.base w).incs = w.st.incs := rfl
@[simp] theorem State.base_ports (s : State) (w : Work) : (s.base w).ports = w.st.ports := rfl
@[simp] theorem State.base_map (s : State) (w : Work) : (s.base w).map = w.st.map := rfl
@[simp] theorem State.base_hostUp (s : State) (w : Work) : (s.base w).hostUp = w.st.hostUp := rfl
@[simp] theorem State.base_safe (s : State) (w : Work) : (s.base w).safe = w.st.safe := rfl
@[simp] theorem State.base_slotText (s : State) (w : Work) : (s.base w).slotText = w.st.slotText := rfl
@[simp] theorem State.base_rcv (s : State) (w : Work) : (s.base w).rcv = w.st.rcv := rfl
@[simp] theorem State.base_fns (s : State) (w : Work) : (s.base w).fns = w.st.fns := rfl
@[simp] theorem State.base_mgmt (s : State) (w : Work) : (s.base w).mgmt = w.st.mgmt := rfl
@[simp] theorem State.base_agenda (s : State) (w : Work) : (s.base w).agenda = w.st.agenda := rfl
@[simp] theorem State.base_woken (s : State) (w : Work) : (s.base w).woken = w.st.woken ++ s.wakes w.ws := rfl
@[simp] theorem State.base_idleCycle (s : State) (w : Work) : (s.base w).idleCycle = w.st.idleCycle := rfl
@[simp] theorem State.base_focus (s : State) (w : Work) : (s.base w).focus = w.st.focus := rfl
@[simp] theorem State.base_turn (s : State) (w : Work) : (s.base w).turn = w.st.turn := rfl
@[simp] theorem State.base_nextId (s : State) (w : Work) : (s.base w).nextId = w.st.nextId := rfl
@[simp] theorem State.base_fresh (s : State) (w : Work) : (s.base w).fresh = w.st.fresh := rfl

/-! ### A step in the making -/

@[simp] theorem Work.upd_strand (w : Work) (f : Strand → Strand) : (w.upd f).st.strand = f w.st.strand := rfl
@[simp] theorem Work.upd_parked (w : Work) (f : Strand → Strand) : (w.upd f).st.parked = w.st.parked := rfl
@[simp] theorem Work.upd_groups (w : Work) (f : Strand → Strand) : (w.upd f).st.groups = w.st.groups := rfl
@[simp] theorem Work.upd_cores (w : Work) (f : Strand → Strand) : (w.upd f).st.cores = w.st.cores := rfl
@[simp] theorem Work.upd_ctxs (w : Work) (f : Strand → Strand) : (w.upd f).st.ctxs = w.st.ctxs := rfl
@[simp] theorem Work.upd_queues (w : Work) (f : Strand → Strand) : (w.upd f).st.queues = w.st.queues := rfl
@[simp] theorem Work.upd_kernels (w : Work) (f : Strand → Strand) : (w.upd f).st.kernels = w.st.kernels := rfl
@[simp] theorem Work.upd_mbars (w : Work) (f : Strand → Strand) : (w.upd f).st.mbars = w.st.mbars := rfl
@[simp] theorem Work.upd_dbars (w : Work) (f : Strand → Strand) : (w.upd f).st.dbars = w.st.dbars := rfl
@[simp] theorem Work.upd_rings (w : Work) (f : Strand → Strand) : (w.upd f).st.rings = w.st.rings := rfl
@[simp] theorem Work.upd_walkPrev (w : Work) (f : Strand → Strand) : (w.upd f).st.walkPrev = w.st.walkPrev := rfl
@[simp] theorem Work.upd_walkLast (w : Work) (f : Strand → Strand) : (w.upd f).st.walkLast = w.st.walkLast := rfl
@[simp] theorem Work.upd_resting (w : Work) (f : Strand → Strand) : (w.upd f).st.resting = w.st.resting := rfl
@[simp] theorem Work.upd_fm (w : Work) (f : Strand → Strand) : (w.upd f).st.fm = w.st.fm := rfl
@[simp] theorem Work.upd_hm (w : Work) (f : Strand → Strand) : (w.upd f).st.hm = w.st.hm := rfl
@[simp] theorem Work.upd_sp (w : Work) (f : Strand → Strand) : (w.upd f).st.sp = w.st.sp := rfl
@[simp] theorem Work.upd_host (w : Work) (f : Strand → Strand) : (w.upd f).st.host = w.st.host := rfl
@[simp] theorem Work.upd_fmLine (w : Work) (f : Strand → Strand) : (w.upd f).st.fmLine = w.st.fmLine := rfl
@[simp] theorem Work.upd_hmLine (w : Work) (f : Strand → Strand) : (w.upd f).st.hmLine = w.st.hmLine := rfl
@[simp] theorem Work.upd_idleStamp (w : Work) (f : Strand → Strand) : (w.upd f).st.idleStamp = w.st.idleStamp := rfl
@[simp] theorem Work.upd_undoF (w : Work) (f : Strand → Strand) : (w.upd f).st.undoF = w.st.undoF := rfl
@[simp] theorem Work.upd_undoH (w : Work) (f : Strand → Strand) : (w.upd f).st.undoH = w.st.undoH := rfl
@[simp] theorem Work.upd_rin (w : Work) (f : Strand → Strand) : (w.upd f).st.rin = w.st.rin := rfl
@[simp] theorem Work.upd_svcmode (w : Work) (f : Strand → Strand) : (w.upd f).st.svcmode = w.st.svcmode := rfl
@[simp] theorem Work.upd_hold (w : Work) (f : Strand → Strand) : (w.upd f).st.hold = w.st.hold := rfl
@[simp] theorem Work.upd_sent (w : Work) (f : Strand → Strand) : (w.upd f).st.sent = w.st.sent := rfl
@[simp] theorem Work.upd_cmds (w : Work) (f : Strand → Strand) : (w.upd f).st.cmds = w.st.cmds := rfl
@[simp] theorem Work.upd_queries (w : Work) (f : Strand → Strand) : (w.upd f).st.queries = w.st.queries := rfl
@[simp] theorem Work.upd_heathLine (w : Work) (f : Strand → Strand) : (w.upd f).st.heathLine = w.st.heathLine := rfl
@[simp] theorem Work.upd_farPuts (w : Work) (f : Strand → Strand) : (w.upd f).st.farPuts = w.st.farPuts := rfl
@[simp] theorem Work.upd_slots (w : Work) (f : Strand → Strand) : (w.upd f).st.slots = w.st.slots := rfl
@[simp] theorem Work.upd_hberr (w : Work) (f : Strand → Strand) : (w.upd f).st.hberr = w.st.hberr := rfl
@[simp] theorem Work.upd_pages (w : Work) (f : Strand → Strand) : (w.upd f).st.pages = w.st.pages := rfl
@[simp] theorem Work.upd_tlb (w : Work) (f : Strand → Strand) : (w.upd f).st.tlb = w.st.tlb := rfl
@[simp] theorem Work.upd_walks (w : Work) (f : Strand → Strand) : (w.upd f).st.walks = w.st.walks := rfl
@[simp] theorem Work.upd_tlog (w : Work) (f : Strand → Strand) : (w.upd f).st.tlog = w.st.tlog := rfl
@[simp] theorem Work.upd_tlogFlash (w : Work) (f : Strand → Strand) : (w.upd f).st.tlogFlash = w.st.tlogFlash := rfl
@[simp] theorem Work.upd_incs (w : Work) (f : Strand → Strand) : (w.upd f).st.incs = w.st.incs := rfl
@[simp] theorem Work.upd_ports (w : Work) (f : Strand → Strand) : (w.upd f).st.ports = w.st.ports := rfl
@[simp] theorem Work.upd_map (w : Work) (f : Strand → Strand) : (w.upd f).st.map = w.st.map := rfl
@[simp] theorem Work.upd_hostUp (w : Work) (f : Strand → Strand) : (w.upd f).st.hostUp = w.st.hostUp := rfl
@[simp] theorem Work.upd_safe (w : Work) (f : Strand → Strand) : (w.upd f).st.safe = w.st.safe := rfl
@[simp] theorem Work.upd_slotText (w : Work) (f : Strand → Strand) : (w.upd f).st.slotText = w.st.slotText := rfl
@[simp] theorem Work.upd_rcv (w : Work) (f : Strand → Strand) : (w.upd f).st.rcv = w.st.rcv := rfl
@[simp] theorem Work.upd_fns (w : Work) (f : Strand → Strand) : (w.upd f).st.fns = w.st.fns := rfl
@[simp] theorem Work.upd_mgmt (w : Work) (f : Strand → Strand) : (w.upd f).st.mgmt = w.st.mgmt := rfl
@[simp] theorem Work.upd_agenda (w : Work) (f : Strand → Strand) : (w.upd f).st.agenda = w.st.agenda := rfl
@[simp] theorem Work.upd_woken (w : Work) (f : Strand → Strand) : (w.upd f).st.woken = w.st.woken := rfl
@[simp] theorem Work.upd_idleCycle (w : Work) (f : Strand → Strand) : (w.upd f).st.idleCycle = w.st.idleCycle := rfl
@[simp] theorem Work.upd_focus (w : Work) (f : Strand → Strand) : (w.upd f).st.focus = w.st.focus := rfl
@[simp] theorem Work.upd_turn (w : Work) (f : Strand → Strand) : (w.upd f).st.turn = w.st.turn := rfl
@[simp] theorem Work.upd_nextId (w : Work) (f : Strand → Strand) : (w.upd f).st.nextId = w.st.nextId := rfl
@[simp] theorem Work.upd_fresh (w : Work) (f : Strand → Strand) : (w.upd f).st.fresh = w.st.fresh := rfl
@[simp] theorem Work.upd_ws (w : Work) (f : Strand → Strand) : (w.upd f).ws = w.ws := rfl
@[simp] theorem Work.upd_absent (w : Work) (f : Strand → Strand) : (w.upd f).absent = w.absent := rfl
@[simp] theorem Work.upd_cur (w : Work) (f : Strand → Strand) : (w.upd f).cur = f w.cur := rfl
@[simp] theorem Work.mod_st (w : Work) (f : State → State) : (w.mod f).st = f w.st := rfl
@[simp] theorem Work.mod_ws (w : Work) (f : State → State) : (w.mod f).ws = w.ws := rfl
@[simp] theorem Work.mod_absent (w : Work) (f : State → State) : (w.mod f).absent = w.absent := rfl
@[simp] theorem Work.put_st (w : Work) (wr : Write) : (w.put wr).st = w.st := rfl
@[simp] theorem Work.put_ws (w : Work) (wr : Write) : (w.put wr).ws = w.ws ++ [wr] := rfl
@[simp] theorem Work.put_absent (w : Work) (wr : Write) : (w.put wr).absent = w.absent := rfl
@[simp] theorem State.wakes_nil (s : State) : s.wakes [] = [] := rfl
@[simp] theorem State.work_st (s : State) : s.work.st = s := rfl
@[simp] theorem State.work_ws (s : State) : s.work.ws = [] := rfl
@[simp] theorem State.work_absent (s : State) : s.work.absent = false := rfl
@[simp] theorem Work.wait_live (w : Work) (v : Wait) : (w.wait v).cur.live = w.cur.live := rfl
@[simp] theorem Work.wait_sidx (w : Work) (v : Wait) : (w.wait v).cur.sidx = w.cur.sidx := rfl
@[simp] theorem Work.wait_hs (w : Work) (v : Wait) : (w.wait v).cur.hs = w.cur.hs := rfl
@[simp] theorem Work.wait_g (w : Work) (v : Wait) : (w.wait v).cur.g = w.cur.g := rfl
@[simp] theorem Work.wait_pc (w : Work) (v : Wait) : (w.wait v).cur.pc = w.cur.pc := rfl
@[simp] theorem Work.wait_x (w : Work) (v : Wait) : (w.wait v).cur.x = w.cur.x := rfl
@[simp] theorem Work.wait_v (w : Work) (v : Wait) : (w.wait v).cur.v = w.cur.v := rfl
@[simp] theorem Work.wait_k (w : Work) (v : Wait) : (w.wait v).cur.k = w.cur.k := rfl
@[simp] theorem Work.wait_vl (w : Work) (v : Wait) : (w.wait v).cur.vl = w.cur.vl := rfl
@[simp] theorem Work.wait_vtype (w : Work) (v : Wait) : (w.wait v).cur.vtype = w.cur.vtype := rfl
@[simp] theorem Work.wait_vstart (w : Work) (v : Wait) : (w.wait v).cur.vstart = w.cur.vstart := rfl
@[simp] theorem Work.wait_vslab (w : Work) (v : Wait) : (w.wait v).cur.vslab = w.cur.vslab := rfl
@[simp] theorem Work.wait_fflags (w : Work) (v : Wait) : (w.wait v).cur.fflags = w.cur.fflags := rfl
@[simp] theorem Work.wait_ckmask (w : Work) (v : Wait) : (w.wait v).cur.ckmask = w.cur.ckmask := rfl
@[simp] theorem Work.wait_tags (w : Work) (v : Wait) : (w.wait v).cur.tags = w.cur.tags := rfl
@[simp] theorem Work.wait_hqstat (w : Work) (v : Wait) : (w.wait v).cur.hqstat = w.cur.hqstat := rfl
@[simp] theorem Work.wait_status (w : Work) (v : Wait) : (w.wait v).cur.status = w.cur.status := rfl
@[simp] theorem Work.wait_tvec (w : Work) (v : Wait) : (w.wait v).cur.tvec = w.cur.tvec := rfl
@[simp] theorem Work.wait_epc (w : Work) (v : Wait) : (w.wait v).cur.epc = w.cur.epc := rfl
@[simp] theorem Work.wait_cause (w : Work) (v : Wait) : (w.wait v).cur.cause = w.cur.cause := rfl
@[simp] theorem Work.wait_tval (w : Work) (v : Wait) : (w.wait v).cur.tval = w.cur.tval := rfl
@[simp] theorem Work.wait_hscratch (w : Work) (v : Wait) : (w.wait v).cur.hscratch = w.cur.hscratch := rfl
@[simp] theorem Work.wait_tmcmp (w : Work) (v : Wait) : (w.wait v).cur.tmcmp = w.cur.tmcmp := rfl
@[simp] theorem Work.wait_timerHit (w : Work) (v : Wait) : (w.wait v).cur.timerHit = w.cur.timerHit := rfl
@[simp] theorem Work.wait_cvret (w : Work) (v : Wait) : (w.wait v).cur.cvret = w.cur.cvret := rfl
@[simp] theorem Work.wait_carry (w : Work) (v : Wait) : (w.wait v).cur.carry = w.cur.carry := rfl
@[simp] theorem Work.wait_done (w : Work) (v : Wait) : (w.wait v).cur.done = w.cur.done := rfl
@[simp] theorem Work.wait_tslab (w : Work) (v : Wait) : (w.wait v).cur.tslab = w.cur.tslab := rfl
@[simp] theorem Work.wait_tstart (w : Work) (v : Wait) : (w.wait v).cur.tstart = w.cur.tstart := rfl
@[simp] theorem Work.wait_tcarry (w : Work) (v : Wait) : (w.wait v).cur.tcarry = w.cur.tcarry := rfl
@[simp] theorem Work.wait_tdone (w : Work) (v : Wait) : (w.wait v).cur.tdone = w.cur.tdone := rfl
@[simp] theorem Work.wait_carryAt (w : Work) (v : Wait) : (w.wait v).cur.carryAt = w.cur.carryAt := rfl
@[simp] theorem Work.wait_snap (w : Work) (v : Wait) : (w.wait v).cur.snap = w.cur.snap := rfl
@[simp] theorem Work.wait_buf (w : Work) (v : Wait) : (w.wait v).cur.buf = w.cur.buf := rfl
@[simp] theorem Work.wait_buffering (w : Work) (v : Wait) : (w.wait v).cur.buffering = w.cur.buffering := rfl
@[simp] theorem Work.wait_liveV (w : Work) (v : Wait) : (w.wait v).cur.liveV = w.cur.liveV := rfl
@[simp] theorem Work.wait_liveK (w : Work) (v : Wait) : (w.wait v).cur.liveK = w.cur.liveK := rfl
@[simp] theorem Work.wait_liveT (w : Work) (v : Wait) : (w.wait v).cur.liveT = w.cur.liveT := rfl
@[simp] theorem Work.wait_wrV (w : Work) (v : Wait) : (w.wait v).cur.wrV = w.cur.wrV := rfl
@[simp] theorem Work.wait_wrK (w : Work) (v : Wait) : (w.wait v).cur.wrK = w.cur.wrK := rfl
@[simp] theorem Work.wait_wrT (w : Work) (v : Wait) : (w.wait v).cur.wrT = w.cur.wrT := rfl
@[simp] theorem Work.wait_ckpt (w : Work) (v : Wait) : (w.wait v).cur.ckpt = w.cur.ckpt := rfl
@[simp] theorem Work.wait_rewound (w : Work) (v : Wait) : (w.wait v).cur.rewound = w.cur.rewound := rfl
@[simp] theorem Work.wait_stripPc (w : Work) (v : Wait) : (w.wait v).cur.stripPc = w.cur.stripPc := rfl
@[simp] theorem Work.wait_redo (w : Work) (v : Wait) : (w.wait v).cur.redo = w.cur.redo := rfl
@[simp] theorem Work.wait_loop (w : Work) (v : Wait) : (w.wait v).cur.loop = w.cur.loop := rfl
@[simp] theorem Work.wait_window (w : Work) (v : Wait) : (w.wait v).cur.window = w.cur.window := rfl
@[simp] theorem Work.wait_wg (w : Work) (v : Wait) : (w.wait v).cur.wg = w.cur.wg := rfl
@[simp] theorem Work.wait_waitT (w : Work) (v : Wait) : (w.wait v).cur.waitT = w.cur.waitT := rfl
@[simp] theorem Work.wait_waiting (w : Work) (v : Wait) : (w.wait v).cur.waiting = v := rfl
@[simp] theorem Work.wait_deliver (w : Work) (v : Wait) : (w.wait v).cur.deliver = w.cur.deliver := rfl
@[simp] theorem Work.wait_nrflags (w : Work) (v : Wait) : (w.wait v).cur.nrflags = w.cur.nrflags := rfl
@[simp] theorem Work.wait_holds (w : Work) (v : Wait) : (w.wait v).cur.holds = w.cur.holds := rfl
@[simp] theorem Work.wait_fences (w : Work) (v : Wait) : (w.wait v).cur.fences = w.cur.fences := rfl
@[simp] theorem Work.wait_remotes (w : Work) (v : Wait) : (w.wait v).cur.remotes = w.cur.remotes := rfl
@[simp] theorem Work.wait_pend (w : Work) (v : Wait) : (w.wait v).cur.pend = w.cur.pend := rfl
@[simp] theorem Work.wait_flight (w : Work) (v : Wait) : (w.wait v).cur.flight = w.cur.flight := rfl
@[simp] theorem Work.wait_ended (w : Work) (v : Wait) : (w.wait v).cur.ended = w.cur.ended := rfl
@[simp] theorem Work.wait_trigged (w : Work) (v : Wait) : (w.wait v).cur.trigged = w.cur.trigged := rfl
@[simp] theorem Work.wait_stalled (w : Work) (v : Wait) : (w.wait v).cur.stalled = w.cur.stalled := rfl
@[simp] theorem Work.wait_since (w : Work) (v : Wait) : (w.wait v).cur.since = w.cur.since := rfl
@[simp] theorem Work.wait_wasReady (w : Work) (v : Wait) : (w.wait v).cur.wasReady = w.cur.wasReady := rfl
@[simp] theorem Work.wait_overdue (w : Work) (v : Wait) : (w.wait v).cur.overdue = w.cur.overdue := rfl
@[simp] theorem Work.wait_started (w : Work) (v : Wait) : (w.wait v).cur.started = w.cur.started := rfl
@[simp] theorem Work.wait_reclaimed (w : Work) (v : Wait) : (w.wait v).cur.reclaimed = w.cur.reclaimed := rfl
@[simp] theorem Work.wait_arrived (w : Work) (v : Wait) : (w.wait v).cur.arrived = w.cur.arrived := rfl

/-! ### Strand.wx and Strand.wk -/

@[simp] theorem Strand.wx_live (s : Strand) (r : Reg) (v : W64) :
    (s.wx r v).live = s.live := by unfold Strand.wx; split <;> rfl
@[simp] theorem Strand.wx_sidx (s : Strand) (r : Reg) (v : W64) :
    (s.wx r v).sidx = s.sidx := by unfold Strand.wx; split <;> rfl
@[simp] theorem Strand.wx_hs (s : Strand) (r : Reg) (v : W64) :
    (s.wx r v).hs = s.hs := by unfold Strand.wx; split <;> rfl
@[simp] theorem Strand.wx_g (s : Strand) (r : Reg) (v : W64) : (s.wx r v).g = s.g := by unfold Strand.wx; split <;> rfl
@[simp] theorem Strand.wx_pc (s : Strand) (r : Reg) (v : W64) :
    (s.wx r v).pc = s.pc := by unfold Strand.wx; split <;> rfl
@[simp] theorem Strand.wx_v (s : Strand) (r : Reg) (v : W64) : (s.wx r v).v = s.v := by unfold Strand.wx; split <;> rfl
@[simp] theorem Strand.wx_k (s : Strand) (r : Reg) (v : W64) : (s.wx r v).k = s.k := by unfold Strand.wx; split <;> rfl
@[simp] theorem Strand.wx_vl (s : Strand) (r : Reg) (v : W64) :
    (s.wx r v).vl = s.vl := by unfold Strand.wx; split <;> rfl
@[simp] theorem Strand.wx_vtype (s : Strand) (r : Reg) (v : W64) :
    (s.wx r v).vtype = s.vtype := by unfold Strand.wx; split <;> rfl
@[simp] theorem Strand.wx_vstart (s : Strand) (r : Reg) (v : W64) :
    (s.wx r v).vstart = s.vstart := by unfold Strand.wx; split <;> rfl
@[simp] theorem Strand.wx_vslab (s : Strand) (r : Reg) (v : W64) :
    (s.wx r v).vslab = s.vslab := by unfold Strand.wx; split <;> rfl
@[simp] theorem Strand.wx_fflags (s : Strand) (r : Reg) (v : W64) :
    (s.wx r v).fflags = s.fflags := by unfold Strand.wx; split <;> rfl
@[simp] theorem Strand.wx_ckmask (s : Strand) (r : Reg) (v : W64) :
    (s.wx r v).ckmask = s.ckmask := by unfold Strand.wx; split <;> rfl
@[simp] theorem Strand.wx_tags (s : Strand) (r : Reg) (v : W64) :
    (s.wx r v).tags = s.tags := by unfold Strand.wx; split <;> rfl
@[simp] theorem Strand.wx_hqstat (s : Strand) (r : Reg) (v : W64) :
    (s.wx r v).hqstat = s.hqstat := by unfold Strand.wx; split <;> rfl
@[simp] theorem Strand.wx_status (s : Strand) (r : Reg) (v : W64) :
    (s.wx r v).status = s.status := by unfold Strand.wx; split <;> rfl
@[simp] theorem Strand.wx_tvec (s : Strand) (r : Reg) (v : W64) :
    (s.wx r v).tvec = s.tvec := by unfold Strand.wx; split <;> rfl
@[simp] theorem Strand.wx_epc (s : Strand) (r : Reg) (v : W64) :
    (s.wx r v).epc = s.epc := by unfold Strand.wx; split <;> rfl
@[simp] theorem Strand.wx_cause (s : Strand) (r : Reg) (v : W64) :
    (s.wx r v).cause = s.cause := by unfold Strand.wx; split <;> rfl
@[simp] theorem Strand.wx_tval (s : Strand) (r : Reg) (v : W64) :
    (s.wx r v).tval = s.tval := by unfold Strand.wx; split <;> rfl
@[simp] theorem Strand.wx_hscratch (s : Strand) (r : Reg) (v : W64) :
    (s.wx r v).hscratch = s.hscratch := by unfold Strand.wx; split <;> rfl
@[simp] theorem Strand.wx_tmcmp (s : Strand) (r : Reg) (v : W64) :
    (s.wx r v).tmcmp = s.tmcmp := by unfold Strand.wx; split <;> rfl
@[simp] theorem Strand.wx_timerHit (s : Strand) (r : Reg) (v : W64) :
    (s.wx r v).timerHit = s.timerHit := by unfold Strand.wx; split <;> rfl
@[simp] theorem Strand.wx_cvret (s : Strand) (r : Reg) (v : W64) :
    (s.wx r v).cvret = s.cvret := by unfold Strand.wx; split <;> rfl
@[simp] theorem Strand.wx_carry (s : Strand) (r : Reg) (v : W64) :
    (s.wx r v).carry = s.carry := by unfold Strand.wx; split <;> rfl
@[simp] theorem Strand.wx_done (s : Strand) (r : Reg) (v : W64) :
    (s.wx r v).done = s.done := by unfold Strand.wx; split <;> rfl
@[simp] theorem Strand.wx_tslab (s : Strand) (r : Reg) (v : W64) :
    (s.wx r v).tslab = s.tslab := by unfold Strand.wx; split <;> rfl
@[simp] theorem Strand.wx_tstart (s : Strand) (r : Reg) (v : W64) :
    (s.wx r v).tstart = s.tstart := by unfold Strand.wx; split <;> rfl
@[simp] theorem Strand.wx_tcarry (s : Strand) (r : Reg) (v : W64) :
    (s.wx r v).tcarry = s.tcarry := by unfold Strand.wx; split <;> rfl
@[simp] theorem Strand.wx_tdone (s : Strand) (r : Reg) (v : W64) :
    (s.wx r v).tdone = s.tdone := by unfold Strand.wx; split <;> rfl
@[simp] theorem Strand.wx_carryAt (s : Strand) (r : Reg) (v : W64) :
    (s.wx r v).carryAt = s.carryAt := by unfold Strand.wx; split <;> rfl
@[simp] theorem Strand.wx_snap (s : Strand) (r : Reg) (v : W64) :
    (s.wx r v).snap = s.snap := by unfold Strand.wx; split <;> rfl
@[simp] theorem Strand.wx_buf (s : Strand) (r : Reg) (v : W64) :
    (s.wx r v).buf = s.buf := by unfold Strand.wx; split <;> rfl
@[simp] theorem Strand.wx_buffering (s : Strand) (r : Reg) (v : W64) :
    (s.wx r v).buffering = s.buffering := by unfold Strand.wx; split <;> rfl
@[simp] theorem Strand.wx_liveV (s : Strand) (r : Reg) (v : W64) :
    (s.wx r v).liveV = s.liveV := by unfold Strand.wx; split <;> rfl
@[simp] theorem Strand.wx_liveK (s : Strand) (r : Reg) (v : W64) :
    (s.wx r v).liveK = s.liveK := by unfold Strand.wx; split <;> rfl
@[simp] theorem Strand.wx_liveT (s : Strand) (r : Reg) (v : W64) :
    (s.wx r v).liveT = s.liveT := by unfold Strand.wx; split <;> rfl
@[simp] theorem Strand.wx_wrV (s : Strand) (r : Reg) (v : W64) :
    (s.wx r v).wrV = s.wrV := by unfold Strand.wx; split <;> rfl
@[simp] theorem Strand.wx_wrK (s : Strand) (r : Reg) (v : W64) :
    (s.wx r v).wrK = s.wrK := by unfold Strand.wx; split <;> rfl
@[simp] theorem Strand.wx_wrT (s : Strand) (r : Reg) (v : W64) :
    (s.wx r v).wrT = s.wrT := by unfold Strand.wx; split <;> rfl
@[simp] theorem Strand.wx_ckpt (s : Strand) (r : Reg) (v : W64) :
    (s.wx r v).ckpt = s.ckpt := by unfold Strand.wx; split <;> rfl
@[simp] theorem Strand.wx_rewound (s : Strand) (r : Reg) (v : W64) :
    (s.wx r v).rewound = s.rewound := by unfold Strand.wx; split <;> rfl
@[simp] theorem Strand.wx_stripPc (s : Strand) (r : Reg) (v : W64) :
    (s.wx r v).stripPc = s.stripPc := by unfold Strand.wx; split <;> rfl
@[simp] theorem Strand.wx_redo (s : Strand) (r : Reg) (v : W64) :
    (s.wx r v).redo = s.redo := by unfold Strand.wx; split <;> rfl
@[simp] theorem Strand.wx_loop (s : Strand) (r : Reg) (v : W64) :
    (s.wx r v).loop = s.loop := by unfold Strand.wx; split <;> rfl
@[simp] theorem Strand.wx_window (s : Strand) (r : Reg) (v : W64) :
    (s.wx r v).window = s.window := by unfold Strand.wx; split <;> rfl
@[simp] theorem Strand.wx_wg (s : Strand) (r : Reg) (v : W64) :
    (s.wx r v).wg = s.wg := by unfold Strand.wx; split <;> rfl
@[simp] theorem Strand.wx_waitT (s : Strand) (r : Reg) (v : W64) :
    (s.wx r v).waitT = s.waitT := by unfold Strand.wx; split <;> rfl
@[simp] theorem Strand.wx_waiting (s : Strand) (r : Reg) (v : W64) :
    (s.wx r v).waiting = s.waiting := by unfold Strand.wx; split <;> rfl
@[simp] theorem Strand.wx_deliver (s : Strand) (r : Reg) (v : W64) :
    (s.wx r v).deliver = s.deliver := by unfold Strand.wx; split <;> rfl
@[simp] theorem Strand.wx_nrflags (s : Strand) (r : Reg) (v : W64) :
    (s.wx r v).nrflags = s.nrflags := by unfold Strand.wx; split <;> rfl
@[simp] theorem Strand.wx_holds (s : Strand) (r : Reg) (v : W64) :
    (s.wx r v).holds = s.holds := by unfold Strand.wx; split <;> rfl
@[simp] theorem Strand.wx_fences (s : Strand) (r : Reg) (v : W64) :
    (s.wx r v).fences = s.fences := by unfold Strand.wx; split <;> rfl
@[simp] theorem Strand.wx_remotes (s : Strand) (r : Reg) (v : W64) :
    (s.wx r v).remotes = s.remotes := by unfold Strand.wx; split <;> rfl
@[simp] theorem Strand.wx_pend (s : Strand) (r : Reg) (v : W64) :
    (s.wx r v).pend = s.pend := by unfold Strand.wx; split <;> rfl
@[simp] theorem Strand.wx_flight (s : Strand) (r : Reg) (v : W64) :
    (s.wx r v).flight = s.flight := by unfold Strand.wx; split <;> rfl
@[simp] theorem Strand.wx_ended (s : Strand) (r : Reg) (v : W64) :
    (s.wx r v).ended = s.ended := by unfold Strand.wx; split <;> rfl
@[simp] theorem Strand.wx_trigged (s : Strand) (r : Reg) (v : W64) :
    (s.wx r v).trigged = s.trigged := by unfold Strand.wx; split <;> rfl
@[simp] theorem Strand.wx_stalled (s : Strand) (r : Reg) (v : W64) :
    (s.wx r v).stalled = s.stalled := by unfold Strand.wx; split <;> rfl
@[simp] theorem Strand.wx_since (s : Strand) (r : Reg) (v : W64) :
    (s.wx r v).since = s.since := by unfold Strand.wx; split <;> rfl
@[simp] theorem Strand.wx_wasReady (s : Strand) (r : Reg) (v : W64) :
    (s.wx r v).wasReady = s.wasReady := by unfold Strand.wx; split <;> rfl
@[simp] theorem Strand.wx_overdue (s : Strand) (r : Reg) (v : W64) :
    (s.wx r v).overdue = s.overdue := by unfold Strand.wx; split <;> rfl
@[simp] theorem Strand.wx_started (s : Strand) (r : Reg) (v : W64) :
    (s.wx r v).started = s.started := by unfold Strand.wx; split <;> rfl
@[simp] theorem Strand.wx_reclaimed (s : Strand) (r : Reg) (v : W64) :
    (s.wx r v).reclaimed = s.reclaimed := by unfold Strand.wx; split <;> rfl
@[simp] theorem Strand.wx_arrived (s : Strand) (r : Reg) (v : W64) :
    (s.wx r v).arrived = s.arrived := by unfold Strand.wx; split <;> rfl
@[simp] theorem Strand.wk_live (s : Strand) (n : BitVec 2) (v : VReg) :
    (s.wk n v).live = s.live := by unfold Strand.wk; split <;> rfl
@[simp] theorem Strand.wk_sidx (s : Strand) (n : BitVec 2) (v : VReg) :
    (s.wk n v).sidx = s.sidx := by unfold Strand.wk; split <;> rfl
@[simp] theorem Strand.wk_hs (s : Strand) (n : BitVec 2) (v : VReg) :
    (s.wk n v).hs = s.hs := by unfold Strand.wk; split <;> rfl
@[simp] theorem Strand.wk_g (s : Strand) (n : BitVec 2) (v : VReg) :
    (s.wk n v).g = s.g := by unfold Strand.wk; split <;> rfl
@[simp] theorem Strand.wk_pc (s : Strand) (n : BitVec 2) (v : VReg) :
    (s.wk n v).pc = s.pc := by unfold Strand.wk; split <;> rfl
@[simp] theorem Strand.wk_x (s : Strand) (n : BitVec 2) (v : VReg) :
    (s.wk n v).x = s.x := by unfold Strand.wk; split <;> rfl
@[simp] theorem Strand.wk_v (s : Strand) (n : BitVec 2) (v : VReg) :
    (s.wk n v).v = s.v := by unfold Strand.wk; split <;> rfl
@[simp] theorem Strand.wk_vl (s : Strand) (n : BitVec 2) (v : VReg) :
    (s.wk n v).vl = s.vl := by unfold Strand.wk; split <;> rfl
@[simp] theorem Strand.wk_vtype (s : Strand) (n : BitVec 2) (v : VReg) :
    (s.wk n v).vtype = s.vtype := by unfold Strand.wk; split <;> rfl
@[simp] theorem Strand.wk_vstart (s : Strand) (n : BitVec 2) (v : VReg) :
    (s.wk n v).vstart = s.vstart := by unfold Strand.wk; split <;> rfl
@[simp] theorem Strand.wk_vslab (s : Strand) (n : BitVec 2) (v : VReg) :
    (s.wk n v).vslab = s.vslab := by unfold Strand.wk; split <;> rfl
@[simp] theorem Strand.wk_fflags (s : Strand) (n : BitVec 2) (v : VReg) :
    (s.wk n v).fflags = s.fflags := by unfold Strand.wk; split <;> rfl
@[simp] theorem Strand.wk_ckmask (s : Strand) (n : BitVec 2) (v : VReg) :
    (s.wk n v).ckmask = s.ckmask := by unfold Strand.wk; split <;> rfl
@[simp] theorem Strand.wk_tags (s : Strand) (n : BitVec 2) (v : VReg) :
    (s.wk n v).tags = s.tags := by unfold Strand.wk; split <;> rfl
@[simp] theorem Strand.wk_hqstat (s : Strand) (n : BitVec 2) (v : VReg) :
    (s.wk n v).hqstat = s.hqstat := by unfold Strand.wk; split <;> rfl
@[simp] theorem Strand.wk_status (s : Strand) (n : BitVec 2) (v : VReg) :
    (s.wk n v).status = s.status := by unfold Strand.wk; split <;> rfl
@[simp] theorem Strand.wk_tvec (s : Strand) (n : BitVec 2) (v : VReg) :
    (s.wk n v).tvec = s.tvec := by unfold Strand.wk; split <;> rfl
@[simp] theorem Strand.wk_epc (s : Strand) (n : BitVec 2) (v : VReg) :
    (s.wk n v).epc = s.epc := by unfold Strand.wk; split <;> rfl
@[simp] theorem Strand.wk_cause (s : Strand) (n : BitVec 2) (v : VReg) :
    (s.wk n v).cause = s.cause := by unfold Strand.wk; split <;> rfl
@[simp] theorem Strand.wk_tval (s : Strand) (n : BitVec 2) (v : VReg) :
    (s.wk n v).tval = s.tval := by unfold Strand.wk; split <;> rfl
@[simp] theorem Strand.wk_hscratch (s : Strand) (n : BitVec 2) (v : VReg) :
    (s.wk n v).hscratch = s.hscratch := by unfold Strand.wk; split <;> rfl
@[simp] theorem Strand.wk_tmcmp (s : Strand) (n : BitVec 2) (v : VReg) :
    (s.wk n v).tmcmp = s.tmcmp := by unfold Strand.wk; split <;> rfl
@[simp] theorem Strand.wk_timerHit (s : Strand) (n : BitVec 2) (v : VReg) :
    (s.wk n v).timerHit = s.timerHit := by unfold Strand.wk; split <;> rfl
@[simp] theorem Strand.wk_cvret (s : Strand) (n : BitVec 2) (v : VReg) :
    (s.wk n v).cvret = s.cvret := by unfold Strand.wk; split <;> rfl
@[simp] theorem Strand.wk_carry (s : Strand) (n : BitVec 2) (v : VReg) :
    (s.wk n v).carry = s.carry := by unfold Strand.wk; split <;> rfl
@[simp] theorem Strand.wk_done (s : Strand) (n : BitVec 2) (v : VReg) :
    (s.wk n v).done = s.done := by unfold Strand.wk; split <;> rfl
@[simp] theorem Strand.wk_tslab (s : Strand) (n : BitVec 2) (v : VReg) :
    (s.wk n v).tslab = s.tslab := by unfold Strand.wk; split <;> rfl
@[simp] theorem Strand.wk_tstart (s : Strand) (n : BitVec 2) (v : VReg) :
    (s.wk n v).tstart = s.tstart := by unfold Strand.wk; split <;> rfl
@[simp] theorem Strand.wk_tcarry (s : Strand) (n : BitVec 2) (v : VReg) :
    (s.wk n v).tcarry = s.tcarry := by unfold Strand.wk; split <;> rfl
@[simp] theorem Strand.wk_tdone (s : Strand) (n : BitVec 2) (v : VReg) :
    (s.wk n v).tdone = s.tdone := by unfold Strand.wk; split <;> rfl
@[simp] theorem Strand.wk_carryAt (s : Strand) (n : BitVec 2) (v : VReg) :
    (s.wk n v).carryAt = s.carryAt := by unfold Strand.wk; split <;> rfl
@[simp] theorem Strand.wk_snap (s : Strand) (n : BitVec 2) (v : VReg) :
    (s.wk n v).snap = s.snap := by unfold Strand.wk; split <;> rfl
@[simp] theorem Strand.wk_buf (s : Strand) (n : BitVec 2) (v : VReg) :
    (s.wk n v).buf = s.buf := by unfold Strand.wk; split <;> rfl
@[simp] theorem Strand.wk_buffering (s : Strand) (n : BitVec 2) (v : VReg) :
    (s.wk n v).buffering = s.buffering := by unfold Strand.wk; split <;> rfl
@[simp] theorem Strand.wk_liveV (s : Strand) (n : BitVec 2) (v : VReg) :
    (s.wk n v).liveV = s.liveV := by unfold Strand.wk; split <;> rfl
@[simp] theorem Strand.wk_liveK (s : Strand) (n : BitVec 2) (v : VReg) :
    (s.wk n v).liveK = s.liveK := by unfold Strand.wk; split <;> rfl
@[simp] theorem Strand.wk_liveT (s : Strand) (n : BitVec 2) (v : VReg) :
    (s.wk n v).liveT = s.liveT := by unfold Strand.wk; split <;> rfl
@[simp] theorem Strand.wk_wrV (s : Strand) (n : BitVec 2) (v : VReg) :
    (s.wk n v).wrV = s.wrV := by unfold Strand.wk; split <;> rfl
@[simp] theorem Strand.wk_wrK (s : Strand) (n : BitVec 2) (v : VReg) :
    (s.wk n v).wrK = s.wrK := by unfold Strand.wk; split <;> rfl
@[simp] theorem Strand.wk_wrT (s : Strand) (n : BitVec 2) (v : VReg) :
    (s.wk n v).wrT = s.wrT := by unfold Strand.wk; split <;> rfl
@[simp] theorem Strand.wk_ckpt (s : Strand) (n : BitVec 2) (v : VReg) :
    (s.wk n v).ckpt = s.ckpt := by unfold Strand.wk; split <;> rfl
@[simp] theorem Strand.wk_rewound (s : Strand) (n : BitVec 2) (v : VReg) :
    (s.wk n v).rewound = s.rewound := by unfold Strand.wk; split <;> rfl
@[simp] theorem Strand.wk_stripPc (s : Strand) (n : BitVec 2) (v : VReg) :
    (s.wk n v).stripPc = s.stripPc := by unfold Strand.wk; split <;> rfl
@[simp] theorem Strand.wk_redo (s : Strand) (n : BitVec 2) (v : VReg) :
    (s.wk n v).redo = s.redo := by unfold Strand.wk; split <;> rfl
@[simp] theorem Strand.wk_loop (s : Strand) (n : BitVec 2) (v : VReg) :
    (s.wk n v).loop = s.loop := by unfold Strand.wk; split <;> rfl
@[simp] theorem Strand.wk_window (s : Strand) (n : BitVec 2) (v : VReg) :
    (s.wk n v).window = s.window := by unfold Strand.wk; split <;> rfl
@[simp] theorem Strand.wk_wg (s : Strand) (n : BitVec 2) (v : VReg) :
    (s.wk n v).wg = s.wg := by unfold Strand.wk; split <;> rfl
@[simp] theorem Strand.wk_waitT (s : Strand) (n : BitVec 2) (v : VReg) :
    (s.wk n v).waitT = s.waitT := by unfold Strand.wk; split <;> rfl
@[simp] theorem Strand.wk_waiting (s : Strand) (n : BitVec 2) (v : VReg) :
    (s.wk n v).waiting = s.waiting := by unfold Strand.wk; split <;> rfl
@[simp] theorem Strand.wk_deliver (s : Strand) (n : BitVec 2) (v : VReg) :
    (s.wk n v).deliver = s.deliver := by unfold Strand.wk; split <;> rfl
@[simp] theorem Strand.wk_nrflags (s : Strand) (n : BitVec 2) (v : VReg) :
    (s.wk n v).nrflags = s.nrflags := by unfold Strand.wk; split <;> rfl
@[simp] theorem Strand.wk_holds (s : Strand) (n : BitVec 2) (v : VReg) :
    (s.wk n v).holds = s.holds := by unfold Strand.wk; split <;> rfl
@[simp] theorem Strand.wk_fences (s : Strand) (n : BitVec 2) (v : VReg) :
    (s.wk n v).fences = s.fences := by unfold Strand.wk; split <;> rfl
@[simp] theorem Strand.wk_remotes (s : Strand) (n : BitVec 2) (v : VReg) :
    (s.wk n v).remotes = s.remotes := by unfold Strand.wk; split <;> rfl
@[simp] theorem Strand.wk_pend (s : Strand) (n : BitVec 2) (v : VReg) :
    (s.wk n v).pend = s.pend := by unfold Strand.wk; split <;> rfl
@[simp] theorem Strand.wk_flight (s : Strand) (n : BitVec 2) (v : VReg) :
    (s.wk n v).flight = s.flight := by unfold Strand.wk; split <;> rfl
@[simp] theorem Strand.wk_ended (s : Strand) (n : BitVec 2) (v : VReg) :
    (s.wk n v).ended = s.ended := by unfold Strand.wk; split <;> rfl
@[simp] theorem Strand.wk_trigged (s : Strand) (n : BitVec 2) (v : VReg) :
    (s.wk n v).trigged = s.trigged := by unfold Strand.wk; split <;> rfl
@[simp] theorem Strand.wk_stalled (s : Strand) (n : BitVec 2) (v : VReg) :
    (s.wk n v).stalled = s.stalled := by unfold Strand.wk; split <;> rfl
@[simp] theorem Strand.wk_since (s : Strand) (n : BitVec 2) (v : VReg) :
    (s.wk n v).since = s.since := by unfold Strand.wk; split <;> rfl
@[simp] theorem Strand.wk_wasReady (s : Strand) (n : BitVec 2) (v : VReg) :
    (s.wk n v).wasReady = s.wasReady := by unfold Strand.wk; split <;> rfl
@[simp] theorem Strand.wk_overdue (s : Strand) (n : BitVec 2) (v : VReg) :
    (s.wk n v).overdue = s.overdue := by unfold Strand.wk; split <;> rfl
@[simp] theorem Strand.wk_started (s : Strand) (n : BitVec 2) (v : VReg) :
    (s.wk n v).started = s.started := by unfold Strand.wk; split <;> rfl
@[simp] theorem Strand.wk_reclaimed (s : Strand) (n : BitVec 2) (v : VReg) :
    (s.wk n v).reclaimed = s.reclaimed := by unfold Strand.wk; split <;> rfl
@[simp] theorem Strand.wk_arrived (s : Strand) (n : BitVec 2) (v : VReg) :
    (s.wk n v).arrived = s.arrived := by unfold Strand.wk; split <;> rfl

end Sys2Proof.Machine
end

