-- ==== Sys2Proof/Laws/Ops.lean ====
section
/-! SUPPORT. What each shared operation over registers, stores and exceptions does, said once. -/

namespace Sys2Proof.Machine

/-! ### Registers -/

/-- Register 0 reads zero in every state (R17). -/
@[simp] theorem Strand.rx_zero (s : Strand) : s.rx 0 = 0 := rfl

/-- A read after a write: the value written at that register, unless it is x0, and every other register as before. -/
theorem Strand.rx_wx (s : Strand) (r q : Reg) (v : W64) :
    (s.wx r v).rx q = if q = r ∧ r ≠ 0 then v else s.rx q := by
  by_cases hr : r = 0
  · rw [if_neg (fun h => h.2 hr), Strand.wx, if_pos hr]
  · by_cases hq : q = r
    · subst hq
      rw [if_pos ⟨rfl, hr⟩]
      simp only [Strand.wx, Strand.rx, if_neg hr, Vector.getElem_set_self]
    · have hn : r.toNat ≠ q.toNat := fun h => hq (BitVec.eq_of_toNat_eq h.symm)
      rw [if_neg (fun h => hq h.1)]
      simp only [Strand.wx, Strand.rx, if_neg hr, Vector.getElem_set_ne _ _ hn]

/-- Mask k0 reads all ones in every state. -/
@[simp] theorem Strand.rk_zero (s : Strand) : s.rk 0 = BitVec.allOnes 32768 := rfl

/-- A mask read after a mask write. -/
theorem Strand.rk_wk (s : Strand) (n m : BitVec 2) (v : VReg) :
    (s.wk n v).rk m = if m = n ∧ n ≠ 0 then v else s.rk m := by
  by_cases hn : n = 0
  · rw [if_neg (fun h => h.2 hn), Strand.wk, if_pos hn]
  · by_cases hm : m = n
    · subst hm
      rw [if_pos ⟨rfl, hn⟩]
      simp only [Strand.wk, Strand.rk, if_neg hn, Vector.getElem_set_self]
    · have hne : n.toNat ≠ m.toNat := fun h => hm (BitVec.eq_of_toNat_eq h.symm)
      rw [if_neg (fun h => hm h.1)]
      simp only [Strand.wk, Strand.rk, if_neg hn, Vector.getElem_set_ne _ _ hne]

/-! ### Outcomes -/

/-- A step that reached no absent memory answers its commit. -/
theorem State.finish_next (s : State) (w : Work) (h : w.absent = false) : s.finish w = .next (s.commit w) := by
  simp [State.finish, h]

/-- A next state of a finish is the commit, and no absent memory was reached. -/
theorem State.finish_eq_next (s t : State) (w : Work) (h : s.finish w = .next t) : w.absent = false ∧ t = s.commit w := by
  unfold State.finish at h
  split at h
  · cases h
  · rename_i ha
    cases h
    exact ⟨by simpa using ha, rfl⟩

/-- The commit of a step that writes nothing leaves every memory as it was and the rest as the step made it. -/
theorem State.commit_nil (s : State) (w : Work) (h : w.ws = []) : s.commit w = s.base w := by simp [State.commit, h]

/-! ### Stores -/

/-- A port set anew leaves the strand as it was. -/
@[simp] theorem State.setPort_strand (s : State) (n : Nat) (p : Port) : (s.setPort n p).strand = s.strand := by
  unfold State.setPort
  split <;> rfl

/-- Flits that leave a port change ports and the list of flits sent, and no strand. -/
@[simp] theorem State.pump_strand (s : State) (n : Nat) : (s.pump n).strand = s.strand := by
  simp only [State.pump]
  split
  · exact s.setPort_strand n _
  · rfl

/-- A message sent to a module changes ports and the list of flits sent, and no strand. -/
@[simp] theorem State.sendTo_strand (s : State) (x : Bool) (m k vc u a : Nat) (bs : List Byte) :
    (s.sendTo x m k vc u a bs).strand = s.strand := by
  unfold State.sendTo
  split
  · simp [State.sendOn]
  · rfl

/-- Bytes in captured pages are writes of the step alone. -/
@[simp] theorem Work.putRegion_st (w : Work) (pages : List Nat) (off : Nat) (bs : List Byte) (fuel : Nat) :
    (w.putRegion pages off bs fuel).st = w.st := by
  induction fuel generalizing w off bs with
  | zero => rfl
  | succ k ih =>
    cases bs with
    | nil => rfl
    | cons b rest => 
      unfold Work.putRegion
      split
      · rename_i hk hb _
        cases hk
        cases hb
        exact (ih _ _ _).trans (Work.put_st _ _)
      · rfl
@[simp] theorem Work.putPieces_st (w : Work) (pages : List Nat) (start : Nat) (l : List (Nat × List Byte)) :
    (w.putPieces pages start l).st = w.st := by
  unfold Work.putPieces
  induction l generalizing w with
  | nil => rfl
  | cons e l ih => exact (ih _).trans (Work.putRegion_st _ _ _ _ _)

/-- A core's image written leaves the strand as it was, and so do bytes that go into a context's image. -/
@[simp] theorem Work.writeImage_strand (w : Work) (c : Ctx) (p core : Nat) (l : List ImagePart) :
    (w.writeImage c p core l).st.strand = w.st.strand := by
  simp only [Work.writeImage, Work.mod_st, State.mapCtx_strand, Work.putPieces_st]
@[simp] theorem Work.contextBlock_strand (w : Work) (ctx dev : Nat) (bs : List Byte) :
    (w.contextBlock ctx dev bs).st.strand = w.st.strand := by
  simp only [Work.contextBlock]
  split
  · simp only [Work.writeImage_strand, Work.mod_st, State.mapCtx_strand]
  · split <;> rfl
@[simp] theorem Work.contextBytes_strand (w : Work) (ctx dev : Nat) (bs : List Byte) (fuel : Nat) :
    (w.contextBytes ctx dev bs fuel).st.strand = w.st.strand := by
  induction fuel generalizing w dev bs with
  | zero => rfl
  | succ k ih =>
    simp only [Work.contextBytes]
    split
    · rfl
    · exact (ih _ _ _).trans (Work.contextBlock_strand _ _ _ _)

/-- A write of the strand leaves the strand as it was. -/
@[simp] theorem Work.putOwn_cur (w : Work) (wr : Write) : (w.putOwn wr).cur = w.cur := by
  unfold Work.putOwn
  split
  · split
    · rfl
    · exact Work.contextBytes_strand _ _ _ _ _
  · rfl

/-- A store performed changes of the strand at most the list of its remote writes that no module has acknowledged. -/
theorem Work.perform_cur (w : Work) (st : Store) : ∃ r, (w.perform st).cur = { w.cur with remotes := r } := by
  cases st with
  | mem wr => exact ⟨_, w.putOwn_cur wr⟩
  | ext d a bs => exact ⟨_, rfl⟩
  | remote m a bs =>
    simp only [Work.perform, Work.sendStore]
    generalize (if w.src ≠ 0 then w.src else w.st.nextId) = u
    generalize (if w.src ≠ 0 then w.st.nextId else u + 1) = n
    have h := State.sendTo_strand w.st false m 3 0 u a bs
    refine ⟨(w.cur.remotes.filter fun e => w.st.pendingUid e.uid && decide (e ≠ ⟨u, w.cls, w.va⟩)) ++ [⟨u, w.cls, w.va⟩], ?_⟩
    simp only [Work.upd_cur]
    show (_ : Strand) = _
    simp only [Work.cur, Work.mod, h]

/-- A store issued is performed, or added to the strand's held stores; nothing else of the strand changes but the list of its remote
writes. -/
theorem Work.issueStore_cur (w : Work) (b : Bool) (c : Nat) (va : Option Nat) (st : Store) :
    ∃ l r, (w.issueStore b c va st).cur = { w.cur with pend := w.cur.pend ++ l, remotes := r } := by
  simp only [Work.issueStore]
  split
  · obtain ⟨r, hr⟩ := ({ w with cls := st.classOf c, va := va } : Work).perform_cur st
    exact ⟨[], r, by simpa [Work.cur] using hr⟩
  · exact ⟨_, w.cur.remotes, rfl⟩

/-- Draining the strip store buffer empties it, ends buffering and may add held stores and remote writes; nothing else of the strand
changes. -/
theorem Work.drain_cur (w : Work) :
    ∃ l r, w.drain.cur = { w.cur with buf := [], buffering := false, pend := w.cur.pend ++ l, remotes := r } := by
  have go : ∀ (b : List BufStore) (k : Work),
      ∃ l r, (b.foldl (fun k e => k.issueStore true e.cls e.va e.st) k).cur =
        { k.cur with pend := k.cur.pend ++ l, remotes := r } := by
    intro b
    induction b with
    | nil => exact fun k => ⟨[], k.cur.remotes, by simp⟩
    | cons e b ih =>
      intro k
      obtain ⟨l, r, hl⟩ := ih (k.issueStore true e.cls e.va e.st)
      obtain ⟨m, q, hm⟩ := k.issueStore_cur true e.cls e.va e.st
      refine ⟨m ++ l, r, ?_⟩
      simp only [List.foldl_cons, hl, hm, List.append_assoc]
  obtain ⟨l, r, hl⟩ := go w.cur.buf (w.upd fun s => { s with buf := [], buffering := false })
  exact ⟨l, r, hl⟩

/-! ### Exceptions -/

/-- A trace record leaves the strand as it was. -/
@[simp] theorem Work.trace_cur (w : Work) (kind a : Nat) (b : W64) : (w.trace kind a b).cur = w.cur := by
  simp only [Work.trace]
  split <;> rfl

/-- A trap that is taken (R127): the registers it saves, the status and where the strand goes on. Every other register is
the one before. -/
theorem Work.takeTrap_cur (w : Work) (async : Bool) (t : Trap) (h : ¬(w.cur.nest = true ∧ async = false)) :
    ∃ l r, (w.takeTrap async t).cur =
      { w.cur with
        buf := [], buffering := false, pend := w.cur.pend ++ l, remotes := r,
        epc := w.cur.pc, cause := causeOf async t.sub t.code, tval := t.tval,
        status := statusOf true w.cur.tie false w.cur.priv true,
        pc := w.cur.tvec &&& (BitVec.allOnes 64 - 63),
        tslab := w.cur.vslab, tstart := w.cur.vstart, tcarry := w.cur.carry, tdone := w.cur.done, carryAt := some w.cur.pc,
        vslab := 0, vstart := 0, carry := .none, done := Vector.replicate 4 0, snap := none, waiting := .none, waitT := 0,
        loop := w.cur.loop.map fun l => { l.unread with suspended := true } } := by
  obtain ⟨l, r, hl⟩ := w.drain_cur
  refine ⟨l, r, ?_⟩
  have h' : ¬(w.cur.nest = true ∧ (!async) = true) := by simpa using h
  simp only [Work.takeTrap, if_neg h', Work.upd_cur, Work.trace_cur, hl]
  rfl

/-- A second synchronous trap before the return of the first ends the group (R127, R293). -/
theorem Work.takeTrap_nested (w : Work) (t : Trap) (h : w.cur.nest = true) :
    w.takeTrap false t = w.fatal t.code t.tval w.cur.pc := by
  simp [Work.takeTrap, h]

/-- The strand goes on at the target where no loop is live, with no wait left (R91). -/
theorem Work.retireTo_cur (w : Work) (target : W64) (h : w.cur.loop = none) :
    (w.retireTo target).cur =
      { w.cur with pc := target, waiting := .none, waitT := 0, cvret := w.cur.cvret + 1, started := true } := by
  simp only [Work.retireTo, Work.upd_cur, Strand.goTo, h]

end Sys2Proof.Machine
end

