-- ==== Sys2Proof/Laws/PerInstr.lean ====
section
/-! SUPPORT. A family of statements per instruction: the row that the encoding of a well-formed word selects is the instruction
itself, with every operand. -/

/-- The word of a well-formed instruction has 32 bits, selects that instruction, and carries C = 1 only where it may chain. -/
def Sys2Proof.Laws.Selects.Statement (i : Sys2Proof.Instr) : Prop :=
  i.isWord = true → i.wf = true →
    Sys2Proof.encodeNat i < 2 ^ 32 ∧ Sys2Proof.selectRow (Sys2Proof.encodeNat i) = some i ∧
      (Sys2Proof.chained (Sys2Proof.encodeNat i) = true → Sys2Proof.mayChain (Sys2Proof.encodeNat i) = true)

set_option linter.unusedSimpArgs false

open Sys2Proof
open Sys2Proof.Laws.Selects (Statement)

theorem Sys2Proof.Laws.Selects.add (d : Reg) (a : Reg) (b : Reg) : Statement (.add d a b) := by
  intro _ _
  have h : Packed (encodeNat (.add d a b))
      [(5, 0), (5, 0), (5, b.toNat), (5, a.toNat), (5, d.toNat), (6, 1), (1, 0)] :=
    ⟨by change wordOf _ _ = _; simp only [wordOf_cons, wordOf_nil, put_eq, at20_eq, at15_eq, at10_eq, at5_eq, atC_eq, pack_cons, pack_nil]; omega,
      by decide, by decide, b.isLt, a.isLt, d.isLt, by decide, by decide, trivial⟩
  generalize encodeNat (.add d a b) = w at h ⊢
  exact ⟨h.lt rfl, by simp [selectRow, selectLow, selectInteger, h.major rfl, h.low5 rfl, h.rd (x := d) rfl, h.ra (x := a) rfl, h.rb (x := b) rfl],
    by simp [h.unchained rfl]⟩

theorem Sys2Proof.Laws.Selects.sub (d : Reg) (a : Reg) (b : Reg) : Statement (.sub d a b) := by
  intro _ _
  have h : Packed (encodeNat (.sub d a b))
      [(5, 1), (5, 0), (5, b.toNat), (5, a.toNat), (5, d.toNat), (6, 1), (1, 0)] :=
    ⟨by change wordOf _ _ = _; simp only [wordOf_cons, wordOf_nil, put_eq, at20_eq, at15_eq, at10_eq, at5_eq, atC_eq, pack_cons, pack_nil]; omega,
      by decide, by decide, b.isLt, a.isLt, d.isLt, by decide, by decide, trivial⟩
  generalize encodeNat (.sub d a b) = w at h ⊢
  exact ⟨h.lt rfl, by simp [selectRow, selectLow, selectInteger, h.major rfl, h.low5 rfl, h.rd (x := d) rfl, h.ra (x := a) rfl, h.rb (x := b) rfl],
    by simp [h.unchained rfl]⟩

theorem Sys2Proof.Laws.Selects.and (d : Reg) (a : Reg) (b : Reg) : Statement (.and d a b) := by
  intro _ _
  have h : Packed (encodeNat (.and d a b))
      [(5, 2), (5, 0), (5, b.toNat), (5, a.toNat), (5, d.toNat), (6, 1), (1, 0)] :=
    ⟨by change wordOf _ _ = _; simp only [wordOf_cons, wordOf_nil, put_eq, at20_eq, at15_eq, at10_eq, at5_eq, atC_eq, pack_cons, pack_nil]; omega,
      by decide, by decide, b.isLt, a.isLt, d.isLt, by decide, by decide, trivial⟩
  generalize encodeNat (.and d a b) = w at h ⊢
  exact ⟨h.lt rfl, by simp [selectRow, selectLow, selectInteger, h.major rfl, h.low5 rfl, h.rd (x := d) rfl, h.ra (x := a) rfl, h.rb (x := b) rfl],
    by simp [h.unchained rfl]⟩

theorem Sys2Proof.Laws.Selects.or (d : Reg) (a : Reg) (b : Reg) : Statement (.or d a b) := by
  intro _ _
  have h : Packed (encodeNat (.or d a b))
      [(5, 3), (5, 0), (5, b.toNat), (5, a.toNat), (5, d.toNat), (6, 1), (1, 0)] :=
    ⟨by change wordOf _ _ = _; simp only [wordOf_cons, wordOf_nil, put_eq, at20_eq, at15_eq, at10_eq, at5_eq, atC_eq, pack_cons, pack_nil]; omega,
      by decide, by decide, b.isLt, a.isLt, d.isLt, by decide, by decide, trivial⟩
  generalize encodeNat (.or d a b) = w at h ⊢
  exact ⟨h.lt rfl, by simp [selectRow, selectLow, selectInteger, h.major rfl, h.low5 rfl, h.rd (x := d) rfl, h.ra (x := a) rfl, h.rb (x := b) rfl],
    by simp [h.unchained rfl]⟩

theorem Sys2Proof.Laws.Selects.xor (d : Reg) (a : Reg) (b : Reg) : Statement (.xor d a b) := by
  intro _ _
  have h : Packed (encodeNat (.xor d a b))
      [(5, 4), (5, 0), (5, b.toNat), (5, a.toNat), (5, d.toNat), (6, 1), (1, 0)] :=
    ⟨by change wordOf _ _ = _; simp only [wordOf_cons, wordOf_nil, put_eq, at20_eq, at15_eq, at10_eq, at5_eq, atC_eq, pack_cons, pack_nil]; omega,
      by decide, by decide, b.isLt, a.isLt, d.isLt, by decide, by decide, trivial⟩
  generalize encodeNat (.xor d a b) = w at h ⊢
  exact ⟨h.lt rfl, by simp [selectRow, selectLow, selectInteger, h.major rfl, h.low5 rfl, h.rd (x := d) rfl, h.ra (x := a) rfl, h.rb (x := b) rfl],
    by simp [h.unchained rfl]⟩

theorem Sys2Proof.Laws.Selects.sll (d : Reg) (a : Reg) (b : Reg) : Statement (.sll d a b) := by
  intro _ _
  have h : Packed (encodeNat (.sll d a b))
      [(5, 5), (5, 0), (5, b.toNat), (5, a.toNat), (5, d.toNat), (6, 1), (1, 0)] :=
    ⟨by change wordOf _ _ = _; simp only [wordOf_cons, wordOf_nil, put_eq, at20_eq, at15_eq, at10_eq, at5_eq, atC_eq, pack_cons, pack_nil]; omega,
      by decide, by decide, b.isLt, a.isLt, d.isLt, by decide, by decide, trivial⟩
  generalize encodeNat (.sll d a b) = w at h ⊢
  exact ⟨h.lt rfl, by simp [selectRow, selectLow, selectInteger, h.major rfl, h.low5 rfl, h.rd (x := d) rfl, h.ra (x := a) rfl, h.rb (x := b) rfl],
    by simp [h.unchained rfl]⟩

theorem Sys2Proof.Laws.Selects.srl (d : Reg) (a : Reg) (b : Reg) : Statement (.srl d a b) := by
  intro _ _
  have h : Packed (encodeNat (.srl d a b))
      [(5, 6), (5, 0), (5, b.toNat), (5, a.toNat), (5, d.toNat), (6, 1), (1, 0)] :=
    ⟨by change wordOf _ _ = _; simp only [wordOf_cons, wordOf_nil, put_eq, at20_eq, at15_eq, at10_eq, at5_eq, atC_eq, pack_cons, pack_nil]; omega,
      by decide, by decide, b.isLt, a.isLt, d.isLt, by decide, by decide, trivial⟩
  generalize encodeNat (.srl d a b) = w at h ⊢
  exact ⟨h.lt rfl, by simp [selectRow, selectLow, selectInteger, h.major rfl, h.low5 rfl, h.rd (x := d) rfl, h.ra (x := a) rfl, h.rb (x := b) rfl],
    by simp [h.unchained rfl]⟩

theorem Sys2Proof.Laws.Selects.sra (d : Reg) (a : Reg) (b : Reg) : Statement (.sra d a b) := by
  intro _ _
  have h : Packed (encodeNat (.sra d a b))
      [(5, 7), (5, 0), (5, b.toNat), (5, a.toNat), (5, d.toNat), (6, 1), (1, 0)] :=
    ⟨by change wordOf _ _ = _; simp only [wordOf_cons, wordOf_nil, put_eq, at20_eq, at15_eq, at10_eq, at5_eq, atC_eq, pack_cons, pack_nil]; omega,
      by decide, by decide, b.isLt, a.isLt, d.isLt, by decide, by decide, trivial⟩
  generalize encodeNat (.sra d a b) = w at h ⊢
  exact ⟨h.lt rfl, by simp [selectRow, selectLow, selectInteger, h.major rfl, h.low5 rfl, h.rd (x := d) rfl, h.ra (x := a) rfl, h.rb (x := b) rfl],
    by simp [h.unchained rfl]⟩

theorem Sys2Proof.Laws.Selects.slt (d : Reg) (a : Reg) (b : Reg) : Statement (.slt d a b) := by
  intro _ _
  have h : Packed (encodeNat (.slt d a b))
      [(5, 8), (5, 0), (5, b.toNat), (5, a.toNat), (5, d.toNat), (6, 1), (1, 0)] :=
    ⟨by change wordOf _ _ = _; simp only [wordOf_cons, wordOf_nil, put_eq, at20_eq, at15_eq, at10_eq, at5_eq, atC_eq, pack_cons, pack_nil]; omega,
      by decide, by decide, b.isLt, a.isLt, d.isLt, by decide, by decide, trivial⟩
  generalize encodeNat (.slt d a b) = w at h ⊢
  exact ⟨h.lt rfl, by simp [selectRow, selectLow, selectInteger, h.major rfl, h.low5 rfl, h.rd (x := d) rfl, h.ra (x := a) rfl, h.rb (x := b) rfl],
    by simp [h.unchained rfl]⟩

theorem Sys2Proof.Laws.Selects.sltu (d : Reg) (a : Reg) (b : Reg) : Statement (.sltu d a b) := by
  intro _ _
  have h : Packed (encodeNat (.sltu d a b))
      [(5, 9), (5, 0), (5, b.toNat), (5, a.toNat), (5, d.toNat), (6, 1), (1, 0)] :=
    ⟨by change wordOf _ _ = _; simp only [wordOf_cons, wordOf_nil, put_eq, at20_eq, at15_eq, at10_eq, at5_eq, atC_eq, pack_cons, pack_nil]; omega,
      by decide, by decide, b.isLt, a.isLt, d.isLt, by decide, by decide, trivial⟩
  generalize encodeNat (.sltu d a b) = w at h ⊢
  exact ⟨h.lt rfl, by simp [selectRow, selectLow, selectInteger, h.major rfl, h.low5 rfl, h.rd (x := d) rfl, h.ra (x := a) rfl, h.rb (x := b) rfl],
    by simp [h.unchained rfl]⟩

theorem Sys2Proof.Laws.Selects.mul (d : Reg) (a : Reg) (b : Reg) : Statement (.mul d a b) := by
  intro _ _
  have h : Packed (encodeNat (.mul d a b))
      [(5, 10), (5, 0), (5, b.toNat), (5, a.toNat), (5, d.toNat), (6, 1), (1, 0)] :=
    ⟨by change wordOf _ _ = _; simp only [wordOf_cons, wordOf_nil, put_eq, at20_eq, at15_eq, at10_eq, at5_eq, atC_eq, pack_cons, pack_nil]; omega,
      by decide, by decide, b.isLt, a.isLt, d.isLt, by decide, by decide, trivial⟩
  generalize encodeNat (.mul d a b) = w at h ⊢
  exact ⟨h.lt rfl, by simp [selectRow, selectLow, selectInteger, h.major rfl, h.low5 rfl, h.rd (x := d) rfl, h.ra (x := a) rfl, h.rb (x := b) rfl],
    by simp [h.unchained rfl]⟩

theorem Sys2Proof.Laws.Selects.mulh (d : Reg) (a : Reg) (b : Reg) : Statement (.mulh d a b) := by
  intro _ _
  have h : Packed (encodeNat (.mulh d a b))
      [(5, 11), (5, 0), (5, b.toNat), (5, a.toNat), (5, d.toNat), (6, 1), (1, 0)] :=
    ⟨by change wordOf _ _ = _; simp only [wordOf_cons, wordOf_nil, put_eq, at20_eq, at15_eq, at10_eq, at5_eq, atC_eq, pack_cons, pack_nil]; omega,
      by decide, by decide, b.isLt, a.isLt, d.isLt, by decide, by decide, trivial⟩
  generalize encodeNat (.mulh d a b) = w at h ⊢
  exact ⟨h.lt rfl, by simp [selectRow, selectLow, selectInteger, h.major rfl, h.low5 rfl, h.rd (x := d) rfl, h.ra (x := a) rfl, h.rb (x := b) rfl],
    by simp [h.unchained rfl]⟩

theorem Sys2Proof.Laws.Selects.mulhu (d : Reg) (a : Reg) (b : Reg) : Statement (.mulhu d a b) := by
  intro _ _
  have h : Packed (encodeNat (.mulhu d a b))
      [(5, 12), (5, 0), (5, b.toNat), (5, a.toNat), (5, d.toNat), (6, 1), (1, 0)] :=
    ⟨by change wordOf _ _ = _; simp only [wordOf_cons, wordOf_nil, put_eq, at20_eq, at15_eq, at10_eq, at5_eq, atC_eq, pack_cons, pack_nil]; omega,
      by decide, by decide, b.isLt, a.isLt, d.isLt, by decide, by decide, trivial⟩
  generalize encodeNat (.mulhu d a b) = w at h ⊢
  exact ⟨h.lt rfl, by simp [selectRow, selectLow, selectInteger, h.major rfl, h.low5 rfl, h.rd (x := d) rfl, h.ra (x := a) rfl, h.rb (x := b) rfl],
    by simp [h.unchained rfl]⟩

theorem Sys2Proof.Laws.Selects.div (d : Reg) (a : Reg) (b : Reg) : Statement (.div d a b) := by
  intro _ _
  have h : Packed (encodeNat (.div d a b))
      [(5, 13), (5, 0), (5, b.toNat), (5, a.toNat), (5, d.toNat), (6, 1), (1, 0)] :=
    ⟨by change wordOf _ _ = _; simp only [wordOf_cons, wordOf_nil, put_eq, at20_eq, at15_eq, at10_eq, at5_eq, atC_eq, pack_cons, pack_nil]; omega,
      by decide, by decide, b.isLt, a.isLt, d.isLt, by decide, by decide, trivial⟩
  generalize encodeNat (.div d a b) = w at h ⊢
  exact ⟨h.lt rfl, by simp [selectRow, selectLow, selectInteger, h.major rfl, h.low5 rfl, h.rd (x := d) rfl, h.ra (x := a) rfl, h.rb (x := b) rfl],
    by simp [h.unchained rfl]⟩

theorem Sys2Proof.Laws.Selects.divu (d : Reg) (a : Reg) (b : Reg) : Statement (.divu d a b) := by
  intro _ _
  have h : Packed (encodeNat (.divu d a b))
      [(5, 14), (5, 0), (5, b.toNat), (5, a.toNat), (5, d.toNat), (6, 1), (1, 0)] :=
    ⟨by change wordOf _ _ = _; simp only [wordOf_cons, wordOf_nil, put_eq, at20_eq, at15_eq, at10_eq, at5_eq, atC_eq, pack_cons, pack_nil]; omega,
      by decide, by decide, b.isLt, a.isLt, d.isLt, by decide, by decide, trivial⟩
  generalize encodeNat (.divu d a b) = w at h ⊢
  exact ⟨h.lt rfl, by simp [selectRow, selectLow, selectInteger, h.major rfl, h.low5 rfl, h.rd (x := d) rfl, h.ra (x := a) rfl, h.rb (x := b) rfl],
    by simp [h.unchained rfl]⟩

theorem Sys2Proof.Laws.Selects.rem (d : Reg) (a : Reg) (b : Reg) : Statement (.rem d a b) := by
  intro _ _
  have h : Packed (encodeNat (.rem d a b))
      [(5, 15), (5, 0), (5, b.toNat), (5, a.toNat), (5, d.toNat), (6, 1), (1, 0)] :=
    ⟨by change wordOf _ _ = _; simp only [wordOf_cons, wordOf_nil, put_eq, at20_eq, at15_eq, at10_eq, at5_eq, atC_eq, pack_cons, pack_nil]; omega,
      by decide, by decide, b.isLt, a.isLt, d.isLt, by decide, by decide, trivial⟩
  generalize encodeNat (.rem d a b) = w at h ⊢
  exact ⟨h.lt rfl, by simp [selectRow, selectLow, selectInteger, h.major rfl, h.low5 rfl, h.rd (x := d) rfl, h.ra (x := a) rfl, h.rb (x := b) rfl],
    by simp [h.unchained rfl]⟩

theorem Sys2Proof.Laws.Selects.remu (d : Reg) (a : Reg) (b : Reg) : Statement (.remu d a b) := by
  intro _ _
  have h : Packed (encodeNat (.remu d a b))
      [(5, 16), (5, 0), (5, b.toNat), (5, a.toNat), (5, d.toNat), (6, 1), (1, 0)] :=
    ⟨by change wordOf _ _ = _; simp only [wordOf_cons, wordOf_nil, put_eq, at20_eq, at15_eq, at10_eq, at5_eq, atC_eq, pack_cons, pack_nil]; omega,
      by decide, by decide, b.isLt, a.isLt, d.isLt, by decide, by decide, trivial⟩
  generalize encodeNat (.remu d a b) = w at h ⊢
  exact ⟨h.lt rfl, by simp [selectRow, selectLow, selectInteger, h.major rfl, h.low5 rfl, h.rd (x := d) rfl, h.ra (x := a) rfl, h.rb (x := b) rfl],
    by simp [h.unchained rfl]⟩

theorem Sys2Proof.Laws.Selects.min (d : Reg) (a : Reg) (b : Reg) : Statement (.min d a b) := by
  intro _ _
  have h : Packed (encodeNat (.min d a b))
      [(5, 17), (5, 0), (5, b.toNat), (5, a.toNat), (5, d.toNat), (6, 1), (1, 0)] :=
    ⟨by change wordOf _ _ = _; simp only [wordOf_cons, wordOf_nil, put_eq, at20_eq, at15_eq, at10_eq, at5_eq, atC_eq, pack_cons, pack_nil]; omega,
      by decide, by decide, b.isLt, a.isLt, d.isLt, by decide, by decide, trivial⟩
  generalize encodeNat (.min d a b) = w at h ⊢
  exact ⟨h.lt rfl, by simp [selectRow, selectLow, selectInteger, h.major rfl, h.low5 rfl, h.rd (x := d) rfl, h.ra (x := a) rfl, h.rb (x := b) rfl],
    by simp [h.unchained rfl]⟩

theorem Sys2Proof.Laws.Selects.max (d : Reg) (a : Reg) (b : Reg) : Statement (.max d a b) := by
  intro _ _
  have h : Packed (encodeNat (.max d a b))
      [(5, 18), (5, 0), (5, b.toNat), (5, a.toNat), (5, d.toNat), (6, 1), (1, 0)] :=
    ⟨by change wordOf _ _ = _; simp only [wordOf_cons, wordOf_nil, put_eq, at20_eq, at15_eq, at10_eq, at5_eq, atC_eq, pack_cons, pack_nil]; omega,
      by decide, by decide, b.isLt, a.isLt, d.isLt, by decide, by decide, trivial⟩
  generalize encodeNat (.max d a b) = w at h ⊢
  exact ⟨h.lt rfl, by simp [selectRow, selectLow, selectInteger, h.major rfl, h.low5 rfl, h.rd (x := d) rfl, h.ra (x := a) rfl, h.rb (x := b) rfl],
    by simp [h.unchained rfl]⟩

theorem Sys2Proof.Laws.Selects.minu (d : Reg) (a : Reg) (b : Reg) : Statement (.minu d a b) := by
  intro _ _
  have h : Packed (encodeNat (.minu d a b))
      [(5, 19), (5, 0), (5, b.toNat), (5, a.toNat), (5, d.toNat), (6, 1), (1, 0)] :=
    ⟨by change wordOf _ _ = _; simp only [wordOf_cons, wordOf_nil, put_eq, at20_eq, at15_eq, at10_eq, at5_eq, atC_eq, pack_cons, pack_nil]; omega,
      by decide, by decide, b.isLt, a.isLt, d.isLt, by decide, by decide, trivial⟩
  generalize encodeNat (.minu d a b) = w at h ⊢
  exact ⟨h.lt rfl, by simp [selectRow, selectLow, selectInteger, h.major rfl, h.low5 rfl, h.rd (x := d) rfl, h.ra (x := a) rfl, h.rb (x := b) rfl],
    by simp [h.unchained rfl]⟩

theorem Sys2Proof.Laws.Selects.maxu (d : Reg) (a : Reg) (b : Reg) : Statement (.maxu d a b) := by
  intro _ _
  have h : Packed (encodeNat (.maxu d a b))
      [(5, 20), (5, 0), (5, b.toNat), (5, a.toNat), (5, d.toNat), (6, 1), (1, 0)] :=
    ⟨by change wordOf _ _ = _; simp only [wordOf_cons, wordOf_nil, put_eq, at20_eq, at15_eq, at10_eq, at5_eq, atC_eq, pack_cons, pack_nil]; omega,
      by decide, by decide, b.isLt, a.isLt, d.isLt, by decide, by decide, trivial⟩
  generalize encodeNat (.maxu d a b) = w at h ⊢
  exact ⟨h.lt rfl, by simp [selectRow, selectLow, selectInteger, h.major rfl, h.low5 rfl, h.rd (x := d) rfl, h.ra (x := a) rfl, h.rb (x := b) rfl],
    by simp [h.unchained rfl]⟩

theorem Sys2Proof.Laws.Selects.clz (d : Reg) (a : Reg) : Statement (.clz d a) := by
  intro _ _
  have h : Packed (encodeNat (.clz d a))
      [(5, 21), (10, 0), (5, a.toNat), (5, d.toNat), (6, 1), (1, 0)] :=
    ⟨by change wordOf _ _ = _; simp only [wordOf_cons, wordOf_nil, put_eq, at20_eq, at15_eq, at10_eq, at5_eq, atC_eq, pack_cons, pack_nil]; omega,
      by decide, by decide, a.isLt, d.isLt, by decide, by decide, trivial⟩
  generalize encodeNat (.clz d a) = w at h ⊢
  exact ⟨h.lt rfl, by simp [selectRow, selectLow, selectInteger, h.major rfl, h.low5 rfl, h.rd (x := d) rfl, h.ra (x := a) rfl],
    by simp [h.unchained rfl]⟩

theorem Sys2Proof.Laws.Selects.ctz (d : Reg) (a : Reg) : Statement (.ctz d a) := by
  intro _ _
  have h : Packed (encodeNat (.ctz d a))
      [(5, 22), (10, 0), (5, a.toNat), (5, d.toNat), (6, 1), (1, 0)] :=
    ⟨by change wordOf _ _ = _; simp only [wordOf_cons, wordOf_nil, put_eq, at20_eq, at15_eq, at10_eq, at5_eq, atC_eq, pack_cons, pack_nil]; omega,
      by decide, by decide, a.isLt, d.isLt, by decide, by decide, trivial⟩
  generalize encodeNat (.ctz d a) = w at h ⊢
  exact ⟨h.lt rfl, by simp [selectRow, selectLow, selectInteger, h.major rfl, h.low5 rfl, h.rd (x := d) rfl, h.ra (x := a) rfl],
    by simp [h.unchained rfl]⟩

theorem Sys2Proof.Laws.Selects.popc (d : Reg) (a : Reg) : Statement (.popc d a) := by
  intro _ _
  have h : Packed (encodeNat (.popc d a))
      [(5, 23), (10, 0), (5, a.toNat), (5, d.toNat), (6, 1), (1, 0)] :=
    ⟨by change wordOf _ _ = _; simp only [wordOf_cons, wordOf_nil, put_eq, at20_eq, at15_eq, at10_eq, at5_eq, atC_eq, pack_cons, pack_nil]; omega,
      by decide, by decide, a.isLt, d.isLt, by decide, by decide, trivial⟩
  generalize encodeNat (.popc d a) = w at h ⊢
  exact ⟨h.lt rfl, by simp [selectRow, selectLow, selectInteger, h.major rfl, h.low5 rfl, h.rd (x := d) rfl, h.ra (x := a) rfl],
    by simp [h.unchained rfl]⟩

theorem Sys2Proof.Laws.Selects.zextb (d : Reg) (a : Reg) : Statement (.zextb d a) := by
  intro _ _
  have h : Packed (encodeNat (.zextb d a))
      [(5, 24), (10, 0), (5, a.toNat), (5, d.toNat), (6, 1), (1, 0)] :=
    ⟨by change wordOf _ _ = _; simp only [wordOf_cons, wordOf_nil, put_eq, at20_eq, at15_eq, at10_eq, at5_eq, atC_eq, pack_cons, pack_nil]; omega,
      by decide, by decide, a.isLt, d.isLt, by decide, by decide, trivial⟩
  generalize encodeNat (.zextb d a) = w at h ⊢
  exact ⟨h.lt rfl, by simp [selectRow, selectLow, selectInteger, h.major rfl, h.low5 rfl, h.rd (x := d) rfl, h.ra (x := a) rfl],
    by simp [h.unchained rfl]⟩

theorem Sys2Proof.Laws.Selects.zexth (d : Reg) (a : Reg) : Statement (.zexth d a) := by
  intro _ _
  have h : Packed (encodeNat (.zexth d a))
      [(5, 25), (10, 0), (5, a.toNat), (5, d.toNat), (6, 1), (1, 0)] :=
    ⟨by change wordOf _ _ = _; simp only [wordOf_cons, wordOf_nil, put_eq, at20_eq, at15_eq, at10_eq, at5_eq, atC_eq, pack_cons, pack_nil]; omega,
      by decide, by decide, a.isLt, d.isLt, by decide, by decide, trivial⟩
  generalize encodeNat (.zexth d a) = w at h ⊢
  exact ⟨h.lt rfl, by simp [selectRow, selectLow, selectInteger, h.major rfl, h.low5 rfl, h.rd (x := d) rfl, h.ra (x := a) rfl],
    by simp [h.unchained rfl]⟩

theorem Sys2Proof.Laws.Selects.zextw (d : Reg) (a : Reg) : Statement (.zextw d a) := by
  intro _ _
  have h : Packed (encodeNat (.zextw d a))
      [(5, 26), (10, 0), (5, a.toNat), (5, d.toNat), (6, 1), (1, 0)] :=
    ⟨by change wordOf _ _ = _; simp only [wordOf_cons, wordOf_nil, put_eq, at20_eq, at15_eq, at10_eq, at5_eq, atC_eq, pack_cons, pack_nil]; omega,
      by decide, by decide, a.isLt, d.isLt, by decide, by decide, trivial⟩
  generalize encodeNat (.zextw d a) = w at h ⊢
  exact ⟨h.lt rfl, by simp [selectRow, selectLow, selectInteger, h.major rfl, h.low5 rfl, h.rd (x := d) rfl, h.ra (x := a) rfl],
    by simp [h.unchained rfl]⟩

theorem Sys2Proof.Laws.Selects.sextb (d : Reg) (a : Reg) : Statement (.sextb d a) := by
  intro _ _
  have h : Packed (encodeNat (.sextb d a))
      [(5, 27), (10, 0), (5, a.toNat), (5, d.toNat), (6, 1), (1, 0)] :=
    ⟨by change wordOf _ _ = _; simp only [wordOf_cons, wordOf_nil, put_eq, at20_eq, at15_eq, at10_eq, at5_eq, atC_eq, pack_cons, pack_nil]; omega,
      by decide, by decide, a.isLt, d.isLt, by decide, by decide, trivial⟩
  generalize encodeNat (.sextb d a) = w at h ⊢
  exact ⟨h.lt rfl, by simp [selectRow, selectLow, selectInteger, h.major rfl, h.low5 rfl, h.rd (x := d) rfl, h.ra (x := a) rfl],
    by simp [h.unchained rfl]⟩

theorem Sys2Proof.Laws.Selects.sexth (d : Reg) (a : Reg) : Statement (.sexth d a) := by
  intro _ _
  have h : Packed (encodeNat (.sexth d a))
      [(5, 28), (10, 0), (5, a.toNat), (5, d.toNat), (6, 1), (1, 0)] :=
    ⟨by change wordOf _ _ = _; simp only [wordOf_cons, wordOf_nil, put_eq, at20_eq, at15_eq, at10_eq, at5_eq, atC_eq, pack_cons, pack_nil]; omega,
      by decide, by decide, a.isLt, d.isLt, by decide, by decide, trivial⟩
  generalize encodeNat (.sexth d a) = w at h ⊢
  exact ⟨h.lt rfl, by simp [selectRow, selectLow, selectInteger, h.major rfl, h.low5 rfl, h.rd (x := d) rfl, h.ra (x := a) rfl],
    by simp [h.unchained rfl]⟩

theorem Sys2Proof.Laws.Selects.sextw (d : Reg) (a : Reg) : Statement (.sextw d a) := by
  intro _ _
  have h : Packed (encodeNat (.sextw d a))
      [(5, 29), (10, 0), (5, a.toNat), (5, d.toNat), (6, 1), (1, 0)] :=
    ⟨by change wordOf _ _ = _; simp only [wordOf_cons, wordOf_nil, put_eq, at20_eq, at15_eq, at10_eq, at5_eq, atC_eq, pack_cons, pack_nil]; omega,
      by decide, by decide, a.isLt, d.isLt, by decide, by decide, trivial⟩
  generalize encodeNat (.sextw d a) = w at h ⊢
  exact ⟨h.lt rfl, by simp [selectRow, selectLow, selectInteger, h.major rfl, h.low5 rfl, h.rd (x := d) rfl, h.ra (x := a) rfl],
    by simp [h.unchained rfl]⟩

theorem Sys2Proof.Laws.Selects.addi (d : Reg) (a : Reg) (imm : BitVec 15) : Statement (.addi d a imm) := by
  intro _ _
  have h : Packed (encodeNat (.addi d a imm))
      [(15, imm.toNat), (5, a.toNat), (5, d.toNat), (6, 2), (1, 0)] :=
    ⟨by change wordOf _ _ = _; simp only [wordOf_cons, wordOf_nil, put_eq, at20_eq, at15_eq, at10_eq, at5_eq, atC_eq, pack_cons, pack_nil]; omega,
      imm.isLt, a.isLt, d.isLt, by decide, by decide, trivial⟩
  generalize encodeNat (.addi d a imm) = w at h ⊢
  exact ⟨h.lt rfl, by simp [selectRow, selectLow, h.major rfl, h.rd (x := d) rfl, h.ra (x := a) rfl, h.field (n := 15) (lo := 0) (x := imm) rfl],
    by simp [h.unchained rfl]⟩

theorem Sys2Proof.Laws.Selects.andi (d : Reg) (a : Reg) (imm : BitVec 15) : Statement (.andi d a imm) := by
  intro _ _
  have h : Packed (encodeNat (.andi d a imm))
      [(15, imm.toNat), (5, a.toNat), (5, d.toNat), (6, 3), (1, 0)] :=
    ⟨by change wordOf _ _ = _; simp only [wordOf_cons, wordOf_nil, put_eq, at20_eq, at15_eq, at10_eq, at5_eq, atC_eq, pack_cons, pack_nil]; omega,
      imm.isLt, a.isLt, d.isLt, by decide, by decide, trivial⟩
  generalize encodeNat (.andi d a imm) = w at h ⊢
  exact ⟨h.lt rfl, by simp [selectRow, selectLow, h.major rfl, h.rd (x := d) rfl, h.ra (x := a) rfl, h.field (n := 15) (lo := 0) (x := imm) rfl],
    by simp [h.unchained rfl]⟩

theorem Sys2Proof.Laws.Selects.ori (d : Reg) (a : Reg) (imm : BitVec 15) : Statement (.ori d a imm) := by
  intro _ _
  have h : Packed (encodeNat (.ori d a imm))
      [(15, imm.toNat), (5, a.toNat), (5, d.toNat), (6, 4), (1, 0)] :=
    ⟨by change wordOf _ _ = _; simp only [wordOf_cons, wordOf_nil, put_eq, at20_eq, at15_eq, at10_eq, at5_eq, atC_eq, pack_cons, pack_nil]; omega,
      imm.isLt, a.isLt, d.isLt, by decide, by decide, trivial⟩
  generalize encodeNat (.ori d a imm) = w at h ⊢
  exact ⟨h.lt rfl, by simp [selectRow, selectLow, h.major rfl, h.rd (x := d) rfl, h.ra (x := a) rfl, h.field (n := 15) (lo := 0) (x := imm) rfl],
    by simp [h.unchained rfl]⟩

theorem Sys2Proof.Laws.Selects.xori (d : Reg) (a : Reg) (imm : BitVec 15) : Statement (.xori d a imm) := by
  intro _ _
  have h : Packed (encodeNat (.xori d a imm))
      [(15, imm.toNat), (5, a.toNat), (5, d.toNat), (6, 5), (1, 0)] :=
    ⟨by change wordOf _ _ = _; simp only [wordOf_cons, wordOf_nil, put_eq, at20_eq, at15_eq, at10_eq, at5_eq, atC_eq, pack_cons, pack_nil]; omega,
      imm.isLt, a.isLt, d.isLt, by decide, by decide, trivial⟩
  generalize encodeNat (.xori d a imm) = w at h ⊢
  exact ⟨h.lt rfl, by simp [selectRow, selectLow, h.major rfl, h.rd (x := d) rfl, h.ra (x := a) rfl, h.field (n := 15) (lo := 0) (x := imm) rfl],
    by simp [h.unchained rfl]⟩

theorem Sys2Proof.Laws.Selects.slti (d : Reg) (a : Reg) (imm : BitVec 15) : Statement (.slti d a imm) := by
  intro _ _
  have h : Packed (encodeNat (.slti d a imm))
      [(15, imm.toNat), (5, a.toNat), (5, d.toNat), (6, 6), (1, 0)] :=
    ⟨by change wordOf _ _ = _; simp only [wordOf_cons, wordOf_nil, put_eq, at20_eq, at15_eq, at10_eq, at5_eq, atC_eq, pack_cons, pack_nil]; omega,
      imm.isLt, a.isLt, d.isLt, by decide, by decide, trivial⟩
  generalize encodeNat (.slti d a imm) = w at h ⊢
  exact ⟨h.lt rfl, by simp [selectRow, selectLow, h.major rfl, h.rd (x := d) rfl, h.ra (x := a) rfl, h.field (n := 15) (lo := 0) (x := imm) rfl],
    by simp [h.unchained rfl]⟩

theorem Sys2Proof.Laws.Selects.sltiu (d : Reg) (a : Reg) (imm : BitVec 15) : Statement (.sltiu d a imm) := by
  intro _ _
  have h : Packed (encodeNat (.sltiu d a imm))
      [(15, imm.toNat), (5, a.toNat), (5, d.toNat), (6, 7), (1, 0)] :=
    ⟨by change wordOf _ _ = _; simp only [wordOf_cons, wordOf_nil, put_eq, at20_eq, at15_eq, at10_eq, at5_eq, atC_eq, pack_cons, pack_nil]; omega,
      imm.isLt, a.isLt, d.isLt, by decide, by decide, trivial⟩
  generalize encodeNat (.sltiu d a imm) = w at h ⊢
  exact ⟨h.lt rfl, by simp [selectRow, selectLow, h.major rfl, h.rd (x := d) rfl, h.ra (x := a) rfl, h.field (n := 15) (lo := 0) (x := imm) rfl],
    by simp [h.unchained rfl]⟩

theorem Sys2Proof.Laws.Selects.slli (d : Reg) (a : Reg) (sh : BitVec 6) : Statement (.slli d a sh) := by
  intro _ _
  have h : Packed (encodeNat (.slli d a sh))
      [(6, sh.toNat), (7, 0), (2, 0), (5, a.toNat), (5, d.toNat), (6, 8), (1, 0)] :=
    ⟨by change wordOf _ _ = _; simp only [wordOf_cons, wordOf_nil, put_eq, at20_eq, at15_eq, at10_eq, at5_eq, atC_eq, pack_cons, pack_nil]; omega,
      sh.isLt, by decide, by decide, a.isLt, d.isLt, by decide, by decide, trivial⟩
  generalize encodeNat (.slli d a sh) = w at h ⊢
  exact ⟨h.lt rfl, by simp [selectRow, selectLow, selectShiftImm, h.major rfl, (show w / 8192 % 4 = 0 from h.at' (lo := 13) (n := 2) rfl), h.rd (x := d) rfl, h.ra (x := a) rfl, h.field (n := 6) (lo := 0) (x := sh) rfl],
    by simp [h.unchained rfl]⟩

theorem Sys2Proof.Laws.Selects.srli (d : Reg) (a : Reg) (sh : BitVec 6) : Statement (.srli d a sh) := by
  intro _ _
  have h : Packed (encodeNat (.srli d a sh))
      [(6, sh.toNat), (7, 0), (2, 1), (5, a.toNat), (5, d.toNat), (6, 8), (1, 0)] :=
    ⟨by change wordOf _ _ = _; simp only [wordOf_cons, wordOf_nil, put_eq, at20_eq, at15_eq, at10_eq, at5_eq, atC_eq, pack_cons, pack_nil]; omega,
      sh.isLt, by decide, by decide, a.isLt, d.isLt, by decide, by decide, trivial⟩
  generalize encodeNat (.srli d a sh) = w at h ⊢
  exact ⟨h.lt rfl, by simp [selectRow, selectLow, selectShiftImm, h.major rfl, (show w / 8192 % 4 = 1 from h.at' (lo := 13) (n := 2) rfl), h.rd (x := d) rfl, h.ra (x := a) rfl, h.field (n := 6) (lo := 0) (x := sh) rfl],
    by simp [h.unchained rfl]⟩

theorem Sys2Proof.Laws.Selects.srai (d : Reg) (a : Reg) (sh : BitVec 6) : Statement (.srai d a sh) := by
  intro _ _
  have h : Packed (encodeNat (.srai d a sh))
      [(6, sh.toNat), (7, 0), (2, 2), (5, a.toNat), (5, d.toNat), (6, 8), (1, 0)] :=
    ⟨by change wordOf _ _ = _; simp only [wordOf_cons, wordOf_nil, put_eq, at20_eq, at15_eq, at10_eq, at5_eq, atC_eq, pack_cons, pack_nil]; omega,
      sh.isLt, by decide, by decide, a.isLt, d.isLt, by decide, by decide, trivial⟩
  generalize encodeNat (.srai d a sh) = w at h ⊢
  exact ⟨h.lt rfl, by simp [selectRow, selectLow, selectShiftImm, h.major rfl, (show w / 8192 % 4 = 2 from h.at' (lo := 13) (n := 2) rfl), h.rd (x := d) rfl, h.ra (x := a) rfl, h.field (n := 6) (lo := 0) (x := sh) rfl],
    by simp [h.unchained rfl]⟩

theorem Sys2Proof.Laws.Selects.lhi (d : Reg) (imm : BitVec 20) : Statement (.lhi d imm) := by
  intro _ _
  have h : Packed (encodeNat (.lhi d imm))
      [(20, imm.toNat), (5, d.toNat), (6, 9), (1, 0)] :=
    ⟨by change wordOf _ _ = _; simp only [wordOf_cons, wordOf_nil, put_eq, at20_eq, at15_eq, at10_eq, at5_eq, atC_eq, pack_cons, pack_nil]; omega,
      imm.isLt, d.isLt, by decide, by decide, trivial⟩
  generalize encodeNat (.lhi d imm) = w at h ⊢
  exact ⟨h.lt rfl, by simp [selectRow, selectLow, h.major rfl, h.rd (x := d) rfl, h.field (n := 20) (lo := 0) (x := imm) rfl],
    by simp [h.unchained rfl]⟩

theorem Sys2Proof.Laws.Selects.lpc (d : Reg) (imm : BitVec 20) : Statement (.lpc d imm) := by
  intro _ _
  have h : Packed (encodeNat (.lpc d imm))
      [(20, imm.toNat), (5, d.toNat), (6, 10), (1, 0)] :=
    ⟨by change wordOf _ _ = _; simp only [wordOf_cons, wordOf_nil, put_eq, at20_eq, at15_eq, at10_eq, at5_eq, atC_eq, pack_cons, pack_nil]; omega,
      imm.isLt, d.isLt, by decide, by decide, trivial⟩
  generalize encodeNat (.lpc d imm) = w at h ⊢
  exact ⟨h.lt rfl, by simp [selectRow, selectLow, h.major rfl, h.rd (x := d) rfl, h.field (n := 20) (lo := 0) (x := imm) rfl],
    by simp [h.unchained rfl]⟩

theorem Sys2Proof.Laws.Selects.fadd (d : Reg) (a : Reg) (b : Reg) (rm : BitVec 2) : Statement (.fadd d a b rm) := by
  intro _ _
  have h : Packed (encodeNat (.fadd d a b rm))
      [(5, 0), (2, rm.toNat), (3, 0), (5, b.toNat), (5, a.toNat), (5, d.toNat), (6, 11), (1, 0)] :=
    ⟨by change wordOf _ _ = _; simp only [wordOf_cons, wordOf_nil, put_eq, at20_eq, at15_eq, at10_eq, at5_eq, atC_eq, pack_cons, pack_nil]; omega,
      by decide, rm.isLt, by decide, b.isLt, a.isLt, d.isLt, by decide, by decide, trivial⟩
  generalize encodeNat (.fadd d a b rm) = w at h ⊢
  exact ⟨h.lt rfl, by simp [selectRow, selectLow, selectFloat, h.major rfl, h.low5 rfl, h.rd (x := d) rfl, h.ra (x := a) rfl, h.rb (x := b) rfl, h.field (n := 2) (lo := 5) (x := rm) rfl],
    by simp [h.unchained rfl]⟩

theorem Sys2Proof.Laws.Selects.fsub (d : Reg) (a : Reg) (b : Reg) (rm : BitVec 2) : Statement (.fsub d a b rm) := by
  intro _ _
  have h : Packed (encodeNat (.fsub d a b rm))
      [(5, 1), (2, rm.toNat), (3, 0), (5, b.toNat), (5, a.toNat), (5, d.toNat), (6, 11), (1, 0)] :=
    ⟨by change wordOf _ _ = _; simp only [wordOf_cons, wordOf_nil, put_eq, at20_eq, at15_eq, at10_eq, at5_eq, atC_eq, pack_cons, pack_nil]; omega,
      by decide, rm.isLt, by decide, b.isLt, a.isLt, d.isLt, by decide, by decide, trivial⟩
  generalize encodeNat (.fsub d a b rm) = w at h ⊢
  exact ⟨h.lt rfl, by simp [selectRow, selectLow, selectFloat, h.major rfl, h.low5 rfl, h.rd (x := d) rfl, h.ra (x := a) rfl, h.rb (x := b) rfl, h.field (n := 2) (lo := 5) (x := rm) rfl],
    by simp [h.unchained rfl]⟩

theorem Sys2Proof.Laws.Selects.fmul (d : Reg) (a : Reg) (b : Reg) (rm : BitVec 2) : Statement (.fmul d a b rm) := by
  intro _ _
  have h : Packed (encodeNat (.fmul d a b rm))
      [(5, 2), (2, rm.toNat), (3, 0), (5, b.toNat), (5, a.toNat), (5, d.toNat), (6, 11), (1, 0)] :=
    ⟨by change wordOf _ _ = _; simp only [wordOf_cons, wordOf_nil, put_eq, at20_eq, at15_eq, at10_eq, at5_eq, atC_eq, pack_cons, pack_nil]; omega,
      by decide, rm.isLt, by decide, b.isLt, a.isLt, d.isLt, by decide, by decide, trivial⟩
  generalize encodeNat (.fmul d a b rm) = w at h ⊢
  exact ⟨h.lt rfl, by simp [selectRow, selectLow, selectFloat, h.major rfl, h.low5 rfl, h.rd (x := d) rfl, h.ra (x := a) rfl, h.rb (x := b) rfl, h.field (n := 2) (lo := 5) (x := rm) rfl],
    by simp [h.unchained rfl]⟩

theorem Sys2Proof.Laws.Selects.fdiv (d : Reg) (a : Reg) (b : Reg) (rm : BitVec 2) : Statement (.fdiv d a b rm) := by
  intro _ _
  have h : Packed (encodeNat (.fdiv d a b rm))
      [(5, 3), (2, rm.toNat), (3, 0), (5, b.toNat), (5, a.toNat), (5, d.toNat), (6, 11), (1, 0)] :=
    ⟨by change wordOf _ _ = _; simp only [wordOf_cons, wordOf_nil, put_eq, at20_eq, at15_eq, at10_eq, at5_eq, atC_eq, pack_cons, pack_nil]; omega,
      by decide, rm.isLt, by decide, b.isLt, a.isLt, d.isLt, by decide, by decide, trivial⟩
  generalize encodeNat (.fdiv d a b rm) = w at h ⊢
  exact ⟨h.lt rfl, by simp [selectRow, selectLow, selectFloat, h.major rfl, h.low5 rfl, h.rd (x := d) rfl, h.ra (x := a) rfl, h.rb (x := b) rfl, h.field (n := 2) (lo := 5) (x := rm) rfl],
    by simp [h.unchained rfl]⟩

theorem Sys2Proof.Laws.Selects.fsqrt (d : Reg) (a : Reg) (rm : BitVec 2) : Statement (.fsqrt d a rm) := by
  intro _ _
  have h : Packed (encodeNat (.fsqrt d a rm))
      [(5, 4), (2, rm.toNat), (8, 0), (5, a.toNat), (5, d.toNat), (6, 11), (1, 0)] :=
    ⟨by change wordOf _ _ = _; simp only [wordOf_cons, wordOf_nil, put_eq, at20_eq, at15_eq, at10_eq, at5_eq, atC_eq, pack_cons, pack_nil]; omega,
      by decide, rm.isLt, by decide, a.isLt, d.isLt, by decide, by decide, trivial⟩
  generalize encodeNat (.fsqrt d a rm) = w at h ⊢
  exact ⟨h.lt rfl, by simp [selectRow, selectLow, selectFloat, h.major rfl, h.low5 rfl, h.rd (x := d) rfl, h.ra (x := a) rfl, h.field (n := 2) (lo := 5) (x := rm) rfl],
    by simp [h.unchained rfl]⟩

theorem Sys2Proof.Laws.Selects.fmin (d : Reg) (a : Reg) (b : Reg) : Statement (.fmin d a b) := by
  intro _ _
  have h : Packed (encodeNat (.fmin d a b))
      [(5, 5), (5, 0), (5, b.toNat), (5, a.toNat), (5, d.toNat), (6, 11), (1, 0)] :=
    ⟨by change wordOf _ _ = _; simp only [wordOf_cons, wordOf_nil, put_eq, at20_eq, at15_eq, at10_eq, at5_eq, atC_eq, pack_cons, pack_nil]; omega,
      by decide, by decide, b.isLt, a.isLt, d.isLt, by decide, by decide, trivial⟩
  generalize encodeNat (.fmin d a b) = w at h ⊢
  exact ⟨h.lt rfl, by simp [selectRow, selectLow, selectFloat, h.major rfl, h.low5 rfl, h.rd (x := d) rfl, h.ra (x := a) rfl, h.rb (x := b) rfl],
    by simp [h.unchained rfl]⟩

theorem Sys2Proof.Laws.Selects.fmax (d : Reg) (a : Reg) (b : Reg) : Statement (.fmax d a b) := by
  intro _ _
  have h : Packed (encodeNat (.fmax d a b))
      [(5, 6), (5, 0), (5, b.toNat), (5, a.toNat), (5, d.toNat), (6, 11), (1, 0)] :=
    ⟨by change wordOf _ _ = _; simp only [wordOf_cons, wordOf_nil, put_eq, at20_eq, at15_eq, at10_eq, at5_eq, atC_eq, pack_cons, pack_nil]; omega,
      by decide, by decide, b.isLt, a.isLt, d.isLt, by decide, by decide, trivial⟩
  generalize encodeNat (.fmax d a b) = w at h ⊢
  exact ⟨h.lt rfl, by simp [selectRow, selectLow, selectFloat, h.major rfl, h.low5 rfl, h.rd (x := d) rfl, h.ra (x := a) rfl, h.rb (x := b) rfl],
    by simp [h.unchained rfl]⟩

theorem Sys2Proof.Laws.Selects.feq (d : Reg) (a : Reg) (b : Reg) : Statement (.feq d a b) := by
  intro _ _
  have h : Packed (encodeNat (.feq d a b))
      [(5, 7), (5, 0), (5, b.toNat), (5, a.toNat), (5, d.toNat), (6, 11), (1, 0)] :=
    ⟨by change wordOf _ _ = _; simp only [wordOf_cons, wordOf_nil, put_eq, at20_eq, at15_eq, at10_eq, at5_eq, atC_eq, pack_cons, pack_nil]; omega,
      by decide, by decide, b.isLt, a.isLt, d.isLt, by decide, by decide, trivial⟩
  generalize encodeNat (.feq d a b) = w at h ⊢
  exact ⟨h.lt rfl, by simp [selectRow, selectLow, selectFloat, h.major rfl, h.low5 rfl, h.rd (x := d) rfl, h.ra (x := a) rfl, h.rb (x := b) rfl],
    by simp [h.unchained rfl]⟩

theorem Sys2Proof.Laws.Selects.flt (d : Reg) (a : Reg) (b : Reg) : Statement (.flt d a b) := by
  intro _ _
  have h : Packed (encodeNat (.flt d a b))
      [(5, 8), (5, 0), (5, b.toNat), (5, a.toNat), (5, d.toNat), (6, 11), (1, 0)] :=
    ⟨by change wordOf _ _ = _; simp only [wordOf_cons, wordOf_nil, put_eq, at20_eq, at15_eq, at10_eq, at5_eq, atC_eq, pack_cons, pack_nil]; omega,
      by decide, by decide, b.isLt, a.isLt, d.isLt, by decide, by decide, trivial⟩
  generalize encodeNat (.flt d a b) = w at h ⊢
  exact ⟨h.lt rfl, by simp [selectRow, selectLow, selectFloat, h.major rfl, h.low5 rfl, h.rd (x := d) rfl, h.ra (x := a) rfl, h.rb (x := b) rfl],
    by simp [h.unchained rfl]⟩

theorem Sys2Proof.Laws.Selects.fle (d : Reg) (a : Reg) (b : Reg) : Statement (.fle d a b) := by
  intro _ _
  have h : Packed (encodeNat (.fle d a b))
      [(5, 9), (5, 0), (5, b.toNat), (5, a.toNat), (5, d.toNat), (6, 11), (1, 0)] :=
    ⟨by change wordOf _ _ = _; simp only [wordOf_cons, wordOf_nil, put_eq, at20_eq, at15_eq, at10_eq, at5_eq, atC_eq, pack_cons, pack_nil]; omega,
      by decide, by decide, b.isLt, a.isLt, d.isLt, by decide, by decide, trivial⟩
  generalize encodeNat (.fle d a b) = w at h ⊢
  exact ⟨h.lt rfl, by simp [selectRow, selectLow, selectFloat, h.major rfl, h.low5 rfl, h.rd (x := d) rfl, h.ra (x := a) rfl, h.rb (x := b) rfl],
    by simp [h.unchained rfl]⟩

theorem Sys2Proof.Laws.Selects.fcvtSL (d : Reg) (a : Reg) (rm : BitVec 2) : Statement (.fcvtSL d a rm) := by
  intro _ _
  have h : Packed (encodeNat (.fcvtSL d a rm))
      [(5, 10), (2, rm.toNat), (8, 0), (5, a.toNat), (5, d.toNat), (6, 11), (1, 0)] :=
    ⟨by change wordOf _ _ = _; simp only [wordOf_cons, wordOf_nil, put_eq, at20_eq, at15_eq, at10_eq, at5_eq, atC_eq, pack_cons, pack_nil]; omega,
      by decide, rm.isLt, by decide, a.isLt, d.isLt, by decide, by decide, trivial⟩
  generalize encodeNat (.fcvtSL d a rm) = w at h ⊢
  exact ⟨h.lt rfl, by simp [selectRow, selectLow, selectFloat, h.major rfl, h.low5 rfl, h.rd (x := d) rfl, h.ra (x := a) rfl, h.field (n := 2) (lo := 5) (x := rm) rfl],
    by simp [h.unchained rfl]⟩

theorem Sys2Proof.Laws.Selects.fcvtLS (d : Reg) (a : Reg) (rm : BitVec 2) : Statement (.fcvtLS d a rm) := by
  intro _ _
  have h : Packed (encodeNat (.fcvtLS d a rm))
      [(5, 11), (2, rm.toNat), (8, 0), (5, a.toNat), (5, d.toNat), (6, 11), (1, 0)] :=
    ⟨by change wordOf _ _ = _; simp only [wordOf_cons, wordOf_nil, put_eq, at20_eq, at15_eq, at10_eq, at5_eq, atC_eq, pack_cons, pack_nil]; omega,
      by decide, rm.isLt, by decide, a.isLt, d.isLt, by decide, by decide, trivial⟩
  generalize encodeNat (.fcvtLS d a rm) = w at h ⊢
  exact ⟨h.lt rfl, by simp [selectRow, selectLow, selectFloat, h.major rfl, h.low5 rfl, h.rd (x := d) rfl, h.ra (x := a) rfl, h.field (n := 2) (lo := 5) (x := rm) rfl],
    by simp [h.unchained rfl]⟩

theorem Sys2Proof.Laws.Selects.fclass (d : Reg) (a : Reg) : Statement (.fclass d a) := by
  intro _ _
  have h : Packed (encodeNat (.fclass d a))
      [(5, 12), (10, 0), (5, a.toNat), (5, d.toNat), (6, 11), (1, 0)] :=
    ⟨by change wordOf _ _ = _; simp only [wordOf_cons, wordOf_nil, put_eq, at20_eq, at15_eq, at10_eq, at5_eq, atC_eq, pack_cons, pack_nil]; omega,
      by decide, by decide, a.isLt, d.isLt, by decide, by decide, trivial⟩
  generalize encodeNat (.fclass d a) = w at h ⊢
  exact ⟨h.lt rfl, by simp [selectRow, selectLow, selectFloat, h.major rfl, h.low5 rfl, h.rd (x := d) rfl, h.ra (x := a) rfl],
    by simp [h.unchained rfl]⟩

theorem Sys2Proof.Laws.Selects.fmadd (d : Reg) (a : Reg) (b : Reg) (cc : Reg) (rm : BitVec 2) : Statement (.fmadd d a b cc rm) := by
  intro _ _
  have h : Packed (encodeNat (.fmadd d a b cc rm))
      [(2, 0), (2, rm.toNat), (1, 0), (5, cc.toNat), (5, b.toNat), (5, a.toNat), (5, d.toNat), (6, 12), (1, 0)] :=
    ⟨by change wordOf _ _ = _; simp only [wordOf_cons, wordOf_nil, put_eq, at20_eq, at15_eq, at10_eq, at5_eq, atC_eq, pack_cons, pack_nil]; omega,
      by decide, rm.isLt, by decide, cc.isLt, b.isLt, a.isLt, d.isLt, by decide, by decide, trivial⟩
  generalize encodeNat (.fmadd d a b cc rm) = w at h ⊢
  exact ⟨h.lt rfl, by simp [selectRow, selectLow, selectFused, h.major rfl, h.low2 rfl, h.rd (x := d) rfl, h.ra (x := a) rfl, h.rb (x := b) rfl, h.rf (x := cc) rfl, h.field (n := 2) (lo := 2) (x := rm) rfl],
    by simp [h.unchained rfl]⟩

theorem Sys2Proof.Laws.Selects.fmsub (d : Reg) (a : Reg) (b : Reg) (cc : Reg) (rm : BitVec 2) : Statement (.fmsub d a b cc rm) := by
  intro _ _
  have h : Packed (encodeNat (.fmsub d a b cc rm))
      [(2, 1), (2, rm.toNat), (1, 0), (5, cc.toNat), (5, b.toNat), (5, a.toNat), (5, d.toNat), (6, 12), (1, 0)] :=
    ⟨by change wordOf _ _ = _; simp only [wordOf_cons, wordOf_nil, put_eq, at20_eq, at15_eq, at10_eq, at5_eq, atC_eq, pack_cons, pack_nil]; omega,
      by decide, rm.isLt, by decide, cc.isLt, b.isLt, a.isLt, d.isLt, by decide, by decide, trivial⟩
  generalize encodeNat (.fmsub d a b cc rm) = w at h ⊢
  exact ⟨h.lt rfl, by simp [selectRow, selectLow, selectFused, h.major rfl, h.low2 rfl, h.rd (x := d) rfl, h.ra (x := a) rfl, h.rb (x := b) rfl, h.rf (x := cc) rfl, h.field (n := 2) (lo := 2) (x := rm) rfl],
    by simp [h.unchained rfl]⟩

theorem Sys2Proof.Laws.Selects.fnmadd (d : Reg) (a : Reg) (b : Reg) (cc : Reg) (rm : BitVec 2) : Statement (.fnmadd d a b cc rm) := by
  intro _ _
  have h : Packed (encodeNat (.fnmadd d a b cc rm))
      [(2, 2), (2, rm.toNat), (1, 0), (5, cc.toNat), (5, b.toNat), (5, a.toNat), (5, d.toNat), (6, 12), (1, 0)] :=
    ⟨by change wordOf _ _ = _; simp only [wordOf_cons, wordOf_nil, put_eq, at20_eq, at15_eq, at10_eq, at5_eq, atC_eq, pack_cons, pack_nil]; omega,
      by decide, rm.isLt, by decide, cc.isLt, b.isLt, a.isLt, d.isLt, by decide, by decide, trivial⟩
  generalize encodeNat (.fnmadd d a b cc rm) = w at h ⊢
  exact ⟨h.lt rfl, by simp [selectRow, selectLow, selectFused, h.major rfl, h.low2 rfl, h.rd (x := d) rfl, h.ra (x := a) rfl, h.rb (x := b) rfl, h.rf (x := cc) rfl, h.field (n := 2) (lo := 2) (x := rm) rfl],
    by simp [h.unchained rfl]⟩

theorem Sys2Proof.Laws.Selects.fnmsub (d : Reg) (a : Reg) (b : Reg) (cc : Reg) (rm : BitVec 2) : Statement (.fnmsub d a b cc rm) := by
  intro _ _
  have h : Packed (encodeNat (.fnmsub d a b cc rm))
      [(2, 3), (2, rm.toNat), (1, 0), (5, cc.toNat), (5, b.toNat), (5, a.toNat), (5, d.toNat), (6, 12), (1, 0)] :=
    ⟨by change wordOf _ _ = _; simp only [wordOf_cons, wordOf_nil, put_eq, at20_eq, at15_eq, at10_eq, at5_eq, atC_eq, pack_cons, pack_nil]; omega,
      by decide, rm.isLt, by decide, cc.isLt, b.isLt, a.isLt, d.isLt, by decide, by decide, trivial⟩
  generalize encodeNat (.fnmsub d a b cc rm) = w at h ⊢
  exact ⟨h.lt rfl, by simp [selectRow, selectLow, selectFused, h.major rfl, h.low2 rfl, h.rd (x := d) rfl, h.ra (x := a) rfl, h.rb (x := b) rfl, h.rf (x := cc) rfl, h.field (n := 2) (lo := 2) (x := rm) rfl],
    by simp [h.unchained rfl]⟩

theorem Sys2Proof.Laws.Selects.beq (a : Reg) (b : Reg) (off : BitVec 15) : Statement (.beq a b off) := by
  intro _ _
  have h : Packed (encodeNat (.beq a b off))
      [(15, off.toNat), (5, b.toNat), (5, a.toNat), (6, 16), (1, 0)] :=
    ⟨by change wordOf _ _ = _; simp only [wordOf_cons, wordOf_nil, put_eq, at20_eq, at15_eq, at10_eq, at5_eq, atC_eq, pack_cons, pack_nil]; omega,
      off.isLt, b.isLt, a.isLt, by decide, by decide, trivial⟩
  generalize encodeNat (.beq a b off) = w at h ⊢
  exact ⟨h.lt rfl, by simp [selectRow, selectLow, h.major rfl, h.rd (x := a) rfl, h.ra (x := b) rfl, h.field (n := 15) (lo := 0) (x := off) rfl],
    by simp [h.unchained rfl]⟩

theorem Sys2Proof.Laws.Selects.bne (a : Reg) (b : Reg) (off : BitVec 15) : Statement (.bne a b off) := by
  intro _ _
  have h : Packed (encodeNat (.bne a b off))
      [(15, off.toNat), (5, b.toNat), (5, a.toNat), (6, 17), (1, 0)] :=
    ⟨by change wordOf _ _ = _; simp only [wordOf_cons, wordOf_nil, put_eq, at20_eq, at15_eq, at10_eq, at5_eq, atC_eq, pack_cons, pack_nil]; omega,
      off.isLt, b.isLt, a.isLt, by decide, by decide, trivial⟩
  generalize encodeNat (.bne a b off) = w at h ⊢
  exact ⟨h.lt rfl, by simp [selectRow, selectLow, h.major rfl, h.rd (x := a) rfl, h.ra (x := b) rfl, h.field (n := 15) (lo := 0) (x := off) rfl],
    by simp [h.unchained rfl]⟩

theorem Sys2Proof.Laws.Selects.blt (a : Reg) (b : Reg) (off : BitVec 15) : Statement (.blt a b off) := by
  intro _ _
  have h : Packed (encodeNat (.blt a b off))
      [(15, off.toNat), (5, b.toNat), (5, a.toNat), (6, 18), (1, 0)] :=
    ⟨by change wordOf _ _ = _; simp only [wordOf_cons, wordOf_nil, put_eq, at20_eq, at15_eq, at10_eq, at5_eq, atC_eq, pack_cons, pack_nil]; omega,
      off.isLt, b.isLt, a.isLt, by decide, by decide, trivial⟩
  generalize encodeNat (.blt a b off) = w at h ⊢
  exact ⟨h.lt rfl, by simp [selectRow, selectLow, h.major rfl, h.rd (x := a) rfl, h.ra (x := b) rfl, h.field (n := 15) (lo := 0) (x := off) rfl],
    by simp [h.unchained rfl]⟩

theorem Sys2Proof.Laws.Selects.bge (a : Reg) (b : Reg) (off : BitVec 15) : Statement (.bge a b off) := by
  intro _ _
  have h : Packed (encodeNat (.bge a b off))
      [(15, off.toNat), (5, b.toNat), (5, a.toNat), (6, 19), (1, 0)] :=
    ⟨by change wordOf _ _ = _; simp only [wordOf_cons, wordOf_nil, put_eq, at20_eq, at15_eq, at10_eq, at5_eq, atC_eq, pack_cons, pack_nil]; omega,
      off.isLt, b.isLt, a.isLt, by decide, by decide, trivial⟩
  generalize encodeNat (.bge a b off) = w at h ⊢
  exact ⟨h.lt rfl, by simp [selectRow, selectLow, h.major rfl, h.rd (x := a) rfl, h.ra (x := b) rfl, h.field (n := 15) (lo := 0) (x := off) rfl],
    by simp [h.unchained rfl]⟩

theorem Sys2Proof.Laws.Selects.bltu (a : Reg) (b : Reg) (off : BitVec 15) : Statement (.bltu a b off) := by
  intro _ _
  have h : Packed (encodeNat (.bltu a b off))
      [(15, off.toNat), (5, b.toNat), (5, a.toNat), (6, 20), (1, 0)] :=
    ⟨by change wordOf _ _ = _; simp only [wordOf_cons, wordOf_nil, put_eq, at20_eq, at15_eq, at10_eq, at5_eq, atC_eq, pack_cons, pack_nil]; omega,
      off.isLt, b.isLt, a.isLt, by decide, by decide, trivial⟩
  generalize encodeNat (.bltu a b off) = w at h ⊢
  exact ⟨h.lt rfl, by simp [selectRow, selectLow, h.major rfl, h.rd (x := a) rfl, h.ra (x := b) rfl, h.field (n := 15) (lo := 0) (x := off) rfl],
    by simp [h.unchained rfl]⟩

theorem Sys2Proof.Laws.Selects.bgeu (a : Reg) (b : Reg) (off : BitVec 15) : Statement (.bgeu a b off) := by
  intro _ _
  have h : Packed (encodeNat (.bgeu a b off))
      [(15, off.toNat), (5, b.toNat), (5, a.toNat), (6, 21), (1, 0)] :=
    ⟨by change wordOf _ _ = _; simp only [wordOf_cons, wordOf_nil, put_eq, at20_eq, at15_eq, at10_eq, at5_eq, atC_eq, pack_cons, pack_nil]; omega,
      off.isLt, b.isLt, a.isLt, by decide, by decide, trivial⟩
  generalize encodeNat (.bgeu a b off) = w at h ⊢
  exact ⟨h.lt rfl, by simp [selectRow, selectLow, h.major rfl, h.rd (x := a) rfl, h.ra (x := b) rfl, h.field (n := 15) (lo := 0) (x := off) rfl],
    by simp [h.unchained rfl]⟩

theorem Sys2Proof.Laws.Selects.jal (d : Reg) (imm : BitVec 20) : Statement (.jal d imm) := by
  intro _ _
  have h : Packed (encodeNat (.jal d imm))
      [(20, imm.toNat), (5, d.toNat), (6, 22), (1, 0)] :=
    ⟨by change wordOf _ _ = _; simp only [wordOf_cons, wordOf_nil, put_eq, at20_eq, at15_eq, at10_eq, at5_eq, atC_eq, pack_cons, pack_nil]; omega,
      imm.isLt, d.isLt, by decide, by decide, trivial⟩
  generalize encodeNat (.jal d imm) = w at h ⊢
  exact ⟨h.lt rfl, by simp [selectRow, selectLow, h.major rfl, h.rd (x := d) rfl, h.field (n := 20) (lo := 0) (x := imm) rfl],
    by simp [h.unchained rfl]⟩

theorem Sys2Proof.Laws.Selects.jalr (d : Reg) (a : Reg) (imm : BitVec 15) : Statement (.jalr d a imm) := by
  intro _ _
  have h : Packed (encodeNat (.jalr d a imm))
      [(15, imm.toNat), (5, a.toNat), (5, d.toNat), (6, 23), (1, 0)] :=
    ⟨by change wordOf _ _ = _; simp only [wordOf_cons, wordOf_nil, put_eq, at20_eq, at15_eq, at10_eq, at5_eq, atC_eq, pack_cons, pack_nil]; omega,
      imm.isLt, a.isLt, d.isLt, by decide, by decide, trivial⟩
  generalize encodeNat (.jalr d a imm) = w at h ⊢
  exact ⟨h.lt rfl, by simp [selectRow, selectLow, h.major rfl, h.rd (x := d) rfl, h.ra (x := a) rfl, h.field (n := 15) (lo := 0) (x := imm) rfl],
    by simp [h.unchained rfl]⟩

theorem Sys2Proof.Laws.Selects.ldB (d : Reg) (a : Reg) (st : BitVec 2) (imm : BitVec 11) : Statement (.ldB d a st imm) := by
  intro _ _
  have h : Packed (encodeNat (.ldB d a st imm))
      [(11, imm.toNat), (2, 0), (2, st.toNat), (5, a.toNat), (5, d.toNat), (6, 24), (1, 0)] :=
    ⟨by change wordOf _ _ = _; simp only [wordOf_cons, wordOf_nil, put_eq, at20_eq, at15_eq, at10_eq, at5_eq, atC_eq, pack_cons, pack_nil]; omega,
      imm.isLt, by decide, st.isLt, a.isLt, d.isLt, by decide, by decide, trivial⟩
  generalize encodeNat (.ldB d a st imm) = w at h ⊢
  exact ⟨h.lt rfl, by simp [selectRow, selectLow, selectLoad, h.major rfl, (show w / 2048 % 4 = 0 from h.at' (lo := 11) (n := 2) rfl), h.rd (x := d) rfl, h.ra (x := a) rfl, h.field (n := 2) (lo := 13) (x := st) rfl, h.field (n := 11) (lo := 0) (x := imm) rfl],
    by simp [h.unchained rfl]⟩

theorem Sys2Proof.Laws.Selects.ldH (d : Reg) (a : Reg) (st : BitVec 2) (imm : BitVec 11) : Statement (.ldH d a st imm) := by
  intro _ _
  have h : Packed (encodeNat (.ldH d a st imm))
      [(11, imm.toNat), (2, 1), (2, st.toNat), (5, a.toNat), (5, d.toNat), (6, 24), (1, 0)] :=
    ⟨by change wordOf _ _ = _; simp only [wordOf_cons, wordOf_nil, put_eq, at20_eq, at15_eq, at10_eq, at5_eq, atC_eq, pack_cons, pack_nil]; omega,
      imm.isLt, by decide, st.isLt, a.isLt, d.isLt, by decide, by decide, trivial⟩
  generalize encodeNat (.ldH d a st imm) = w at h ⊢
  exact ⟨h.lt rfl, by simp [selectRow, selectLow, selectLoad, h.major rfl, (show w / 2048 % 4 = 1 from h.at' (lo := 11) (n := 2) rfl), h.rd (x := d) rfl, h.ra (x := a) rfl, h.field (n := 2) (lo := 13) (x := st) rfl, h.field (n := 11) (lo := 0) (x := imm) rfl],
    by simp [h.unchained rfl]⟩

theorem Sys2Proof.Laws.Selects.ldW (d : Reg) (a : Reg) (st : BitVec 2) (imm : BitVec 11) : Statement (.ldW d a st imm) := by
  intro _ _
  have h : Packed (encodeNat (.ldW d a st imm))
      [(11, imm.toNat), (2, 2), (2, st.toNat), (5, a.toNat), (5, d.toNat), (6, 24), (1, 0)] :=
    ⟨by change wordOf _ _ = _; simp only [wordOf_cons, wordOf_nil, put_eq, at20_eq, at15_eq, at10_eq, at5_eq, atC_eq, pack_cons, pack_nil]; omega,
      imm.isLt, by decide, st.isLt, a.isLt, d.isLt, by decide, by decide, trivial⟩
  generalize encodeNat (.ldW d a st imm) = w at h ⊢
  exact ⟨h.lt rfl, by simp [selectRow, selectLow, selectLoad, h.major rfl, (show w / 2048 % 4 = 2 from h.at' (lo := 11) (n := 2) rfl), h.rd (x := d) rfl, h.ra (x := a) rfl, h.field (n := 2) (lo := 13) (x := st) rfl, h.field (n := 11) (lo := 0) (x := imm) rfl],
    by simp [h.unchained rfl]⟩

theorem Sys2Proof.Laws.Selects.ldD (d : Reg) (a : Reg) (st : BitVec 2) (imm : BitVec 11) : Statement (.ldD d a st imm) := by
  intro _ _
  have h : Packed (encodeNat (.ldD d a st imm))
      [(11, imm.toNat), (2, 3), (2, st.toNat), (5, a.toNat), (5, d.toNat), (6, 24), (1, 0)] :=
    ⟨by change wordOf _ _ = _; simp only [wordOf_cons, wordOf_nil, put_eq, at20_eq, at15_eq, at10_eq, at5_eq, atC_eq, pack_cons, pack_nil]; omega,
      imm.isLt, by decide, st.isLt, a.isLt, d.isLt, by decide, by decide, trivial⟩
  generalize encodeNat (.ldD d a st imm) = w at h ⊢
  exact ⟨h.lt rfl, by simp [selectRow, selectLow, selectLoad, h.major rfl, (show w / 2048 % 4 = 3 from h.at' (lo := 11) (n := 2) rfl), h.rd (x := d) rfl, h.ra (x := a) rfl, h.field (n := 2) (lo := 13) (x := st) rfl, h.field (n := 11) (lo := 0) (x := imm) rfl],
    by simp [h.unchained rfl]⟩

theorem Sys2Proof.Laws.Selects.stB (d : Reg) (a : Reg) (st : BitVec 2) (imm : BitVec 11) : Statement (.stB d a st imm) := by
  intro _ _
  have h : Packed (encodeNat (.stB d a st imm))
      [(11, imm.toNat), (2, 0), (2, st.toNat), (5, a.toNat), (5, d.toNat), (6, 25), (1, 0)] :=
    ⟨by change wordOf _ _ = _; simp only [wordOf_cons, wordOf_nil, put_eq, at20_eq, at15_eq, at10_eq, at5_eq, atC_eq, pack_cons, pack_nil]; omega,
      imm.isLt, by decide, st.isLt, a.isLt, d.isLt, by decide, by decide, trivial⟩
  generalize encodeNat (.stB d a st imm) = w at h ⊢
  exact ⟨h.lt rfl, by simp [selectRow, selectLow, selectStore, h.major rfl, (show w / 2048 % 4 = 0 from h.at' (lo := 11) (n := 2) rfl), h.rd (x := d) rfl, h.ra (x := a) rfl, h.field (n := 2) (lo := 13) (x := st) rfl, h.field (n := 11) (lo := 0) (x := imm) rfl],
    by simp [h.unchained rfl]⟩

theorem Sys2Proof.Laws.Selects.stH (d : Reg) (a : Reg) (st : BitVec 2) (imm : BitVec 11) : Statement (.stH d a st imm) := by
  intro _ _
  have h : Packed (encodeNat (.stH d a st imm))
      [(11, imm.toNat), (2, 1), (2, st.toNat), (5, a.toNat), (5, d.toNat), (6, 25), (1, 0)] :=
    ⟨by change wordOf _ _ = _; simp only [wordOf_cons, wordOf_nil, put_eq, at20_eq, at15_eq, at10_eq, at5_eq, atC_eq, pack_cons, pack_nil]; omega,
      imm.isLt, by decide, st.isLt, a.isLt, d.isLt, by decide, by decide, trivial⟩
  generalize encodeNat (.stH d a st imm) = w at h ⊢
  exact ⟨h.lt rfl, by simp [selectRow, selectLow, selectStore, h.major rfl, (show w / 2048 % 4 = 1 from h.at' (lo := 11) (n := 2) rfl), h.rd (x := d) rfl, h.ra (x := a) rfl, h.field (n := 2) (lo := 13) (x := st) rfl, h.field (n := 11) (lo := 0) (x := imm) rfl],
    by simp [h.unchained rfl]⟩

theorem Sys2Proof.Laws.Selects.stW (d : Reg) (a : Reg) (st : BitVec 2) (imm : BitVec 11) : Statement (.stW d a st imm) := by
  intro _ _
  have h : Packed (encodeNat (.stW d a st imm))
      [(11, imm.toNat), (2, 2), (2, st.toNat), (5, a.toNat), (5, d.toNat), (6, 25), (1, 0)] :=
    ⟨by change wordOf _ _ = _; simp only [wordOf_cons, wordOf_nil, put_eq, at20_eq, at15_eq, at10_eq, at5_eq, atC_eq, pack_cons, pack_nil]; omega,
      imm.isLt, by decide, st.isLt, a.isLt, d.isLt, by decide, by decide, trivial⟩
  generalize encodeNat (.stW d a st imm) = w at h ⊢
  exact ⟨h.lt rfl, by simp [selectRow, selectLow, selectStore, h.major rfl, (show w / 2048 % 4 = 2 from h.at' (lo := 11) (n := 2) rfl), h.rd (x := d) rfl, h.ra (x := a) rfl, h.field (n := 2) (lo := 13) (x := st) rfl, h.field (n := 11) (lo := 0) (x := imm) rfl],
    by simp [h.unchained rfl]⟩

theorem Sys2Proof.Laws.Selects.stD (d : Reg) (a : Reg) (st : BitVec 2) (imm : BitVec 11) : Statement (.stD d a st imm) := by
  intro _ _
  have h : Packed (encodeNat (.stD d a st imm))
      [(11, imm.toNat), (2, 3), (2, st.toNat), (5, a.toNat), (5, d.toNat), (6, 25), (1, 0)] :=
    ⟨by change wordOf _ _ = _; simp only [wordOf_cons, wordOf_nil, put_eq, at20_eq, at15_eq, at10_eq, at5_eq, atC_eq, pack_cons, pack_nil]; omega,
      imm.isLt, by decide, st.isLt, a.isLt, d.isLt, by decide, by decide, trivial⟩
  generalize encodeNat (.stD d a st imm) = w at h ⊢
  exact ⟨h.lt rfl, by simp [selectRow, selectLow, selectStore, h.major rfl, (show w / 2048 % 4 = 3 from h.at' (lo := 11) (n := 2) rfl), h.rd (x := d) rfl, h.ra (x := a) rfl, h.field (n := 2) (lo := 13) (x := st) rfl, h.field (n := 11) (lo := 0) (x := imm) rfl],
    by simp [h.unchained rfl]⟩

theorem Sys2Proof.Laws.Selects.spldB (d : Reg) (a : Reg) (st : BitVec 2) (imm : BitVec 11) : Statement (.spldB d a st imm) := by
  intro _ _
  have h : Packed (encodeNat (.spldB d a st imm))
      [(11, imm.toNat), (2, 0), (2, st.toNat), (5, a.toNat), (5, d.toNat), (6, 26), (1, 0)] :=
    ⟨by change wordOf _ _ = _; simp only [wordOf_cons, wordOf_nil, put_eq, at20_eq, at15_eq, at10_eq, at5_eq, atC_eq, pack_cons, pack_nil]; omega,
      imm.isLt, by decide, st.isLt, a.isLt, d.isLt, by decide, by decide, trivial⟩
  generalize encodeNat (.spldB d a st imm) = w at h ⊢
  exact ⟨h.lt rfl, by simp [selectRow, selectLow, selectSpLoad, h.major rfl, (show w / 2048 % 4 = 0 from h.at' (lo := 11) (n := 2) rfl), h.rd (x := d) rfl, h.ra (x := a) rfl, h.field (n := 2) (lo := 13) (x := st) rfl, h.field (n := 11) (lo := 0) (x := imm) rfl],
    by simp [h.unchained rfl]⟩

theorem Sys2Proof.Laws.Selects.spldH (d : Reg) (a : Reg) (st : BitVec 2) (imm : BitVec 11) : Statement (.spldH d a st imm) := by
  intro _ _
  have h : Packed (encodeNat (.spldH d a st imm))
      [(11, imm.toNat), (2, 1), (2, st.toNat), (5, a.toNat), (5, d.toNat), (6, 26), (1, 0)] :=
    ⟨by change wordOf _ _ = _; simp only [wordOf_cons, wordOf_nil, put_eq, at20_eq, at15_eq, at10_eq, at5_eq, atC_eq, pack_cons, pack_nil]; omega,
      imm.isLt, by decide, st.isLt, a.isLt, d.isLt, by decide, by decide, trivial⟩
  generalize encodeNat (.spldH d a st imm) = w at h ⊢
  exact ⟨h.lt rfl, by simp [selectRow, selectLow, selectSpLoad, h.major rfl, (show w / 2048 % 4 = 1 from h.at' (lo := 11) (n := 2) rfl), h.rd (x := d) rfl, h.ra (x := a) rfl, h.field (n := 2) (lo := 13) (x := st) rfl, h.field (n := 11) (lo := 0) (x := imm) rfl],
    by simp [h.unchained rfl]⟩

theorem Sys2Proof.Laws.Selects.spldW (d : Reg) (a : Reg) (st : BitVec 2) (imm : BitVec 11) : Statement (.spldW d a st imm) := by
  intro _ _
  have h : Packed (encodeNat (.spldW d a st imm))
      [(11, imm.toNat), (2, 2), (2, st.toNat), (5, a.toNat), (5, d.toNat), (6, 26), (1, 0)] :=
    ⟨by change wordOf _ _ = _; simp only [wordOf_cons, wordOf_nil, put_eq, at20_eq, at15_eq, at10_eq, at5_eq, atC_eq, pack_cons, pack_nil]; omega,
      imm.isLt, by decide, st.isLt, a.isLt, d.isLt, by decide, by decide, trivial⟩
  generalize encodeNat (.spldW d a st imm) = w at h ⊢
  exact ⟨h.lt rfl, by simp [selectRow, selectLow, selectSpLoad, h.major rfl, (show w / 2048 % 4 = 2 from h.at' (lo := 11) (n := 2) rfl), h.rd (x := d) rfl, h.ra (x := a) rfl, h.field (n := 2) (lo := 13) (x := st) rfl, h.field (n := 11) (lo := 0) (x := imm) rfl],
    by simp [h.unchained rfl]⟩

theorem Sys2Proof.Laws.Selects.spldD (d : Reg) (a : Reg) (st : BitVec 2) (imm : BitVec 11) : Statement (.spldD d a st imm) := by
  intro _ _
  have h : Packed (encodeNat (.spldD d a st imm))
      [(11, imm.toNat), (2, 3), (2, st.toNat), (5, a.toNat), (5, d.toNat), (6, 26), (1, 0)] :=
    ⟨by change wordOf _ _ = _; simp only [wordOf_cons, wordOf_nil, put_eq, at20_eq, at15_eq, at10_eq, at5_eq, atC_eq, pack_cons, pack_nil]; omega,
      imm.isLt, by decide, st.isLt, a.isLt, d.isLt, by decide, by decide, trivial⟩
  generalize encodeNat (.spldD d a st imm) = w at h ⊢
  exact ⟨h.lt rfl, by simp [selectRow, selectLow, selectSpLoad, h.major rfl, (show w / 2048 % 4 = 3 from h.at' (lo := 11) (n := 2) rfl), h.rd (x := d) rfl, h.ra (x := a) rfl, h.field (n := 2) (lo := 13) (x := st) rfl, h.field (n := 11) (lo := 0) (x := imm) rfl],
    by simp [h.unchained rfl]⟩

theorem Sys2Proof.Laws.Selects.spstB (d : Reg) (a : Reg) (st : BitVec 2) (imm : BitVec 11) : Statement (.spstB d a st imm) := by
  intro _ _
  have h : Packed (encodeNat (.spstB d a st imm))
      [(11, imm.toNat), (2, 0), (2, st.toNat), (5, a.toNat), (5, d.toNat), (6, 27), (1, 0)] :=
    ⟨by change wordOf _ _ = _; simp only [wordOf_cons, wordOf_nil, put_eq, at20_eq, at15_eq, at10_eq, at5_eq, atC_eq, pack_cons, pack_nil]; omega,
      imm.isLt, by decide, st.isLt, a.isLt, d.isLt, by decide, by decide, trivial⟩
  generalize encodeNat (.spstB d a st imm) = w at h ⊢
  exact ⟨h.lt rfl, by simp [selectRow, selectLow, selectSpStore, h.major rfl, (show w / 2048 % 4 = 0 from h.at' (lo := 11) (n := 2) rfl), h.rd (x := d) rfl, h.ra (x := a) rfl, h.field (n := 2) (lo := 13) (x := st) rfl, h.field (n := 11) (lo := 0) (x := imm) rfl],
    by simp [h.unchained rfl]⟩

theorem Sys2Proof.Laws.Selects.spstH (d : Reg) (a : Reg) (st : BitVec 2) (imm : BitVec 11) : Statement (.spstH d a st imm) := by
  intro _ _
  have h : Packed (encodeNat (.spstH d a st imm))
      [(11, imm.toNat), (2, 1), (2, st.toNat), (5, a.toNat), (5, d.toNat), (6, 27), (1, 0)] :=
    ⟨by change wordOf _ _ = _; simp only [wordOf_cons, wordOf_nil, put_eq, at20_eq, at15_eq, at10_eq, at5_eq, atC_eq, pack_cons, pack_nil]; omega,
      imm.isLt, by decide, st.isLt, a.isLt, d.isLt, by decide, by decide, trivial⟩
  generalize encodeNat (.spstH d a st imm) = w at h ⊢
  exact ⟨h.lt rfl, by simp [selectRow, selectLow, selectSpStore, h.major rfl, (show w / 2048 % 4 = 1 from h.at' (lo := 11) (n := 2) rfl), h.rd (x := d) rfl, h.ra (x := a) rfl, h.field (n := 2) (lo := 13) (x := st) rfl, h.field (n := 11) (lo := 0) (x := imm) rfl],
    by simp [h.unchained rfl]⟩

theorem Sys2Proof.Laws.Selects.spstW (d : Reg) (a : Reg) (st : BitVec 2) (imm : BitVec 11) : Statement (.spstW d a st imm) := by
  intro _ _
  have h : Packed (encodeNat (.spstW d a st imm))
      [(11, imm.toNat), (2, 2), (2, st.toNat), (5, a.toNat), (5, d.toNat), (6, 27), (1, 0)] :=
    ⟨by change wordOf _ _ = _; simp only [wordOf_cons, wordOf_nil, put_eq, at20_eq, at15_eq, at10_eq, at5_eq, atC_eq, pack_cons, pack_nil]; omega,
      imm.isLt, by decide, st.isLt, a.isLt, d.isLt, by decide, by decide, trivial⟩
  generalize encodeNat (.spstW d a st imm) = w at h ⊢
  exact ⟨h.lt rfl, by simp [selectRow, selectLow, selectSpStore, h.major rfl, (show w / 2048 % 4 = 2 from h.at' (lo := 11) (n := 2) rfl), h.rd (x := d) rfl, h.ra (x := a) rfl, h.field (n := 2) (lo := 13) (x := st) rfl, h.field (n := 11) (lo := 0) (x := imm) rfl],
    by simp [h.unchained rfl]⟩

theorem Sys2Proof.Laws.Selects.spstD (d : Reg) (a : Reg) (st : BitVec 2) (imm : BitVec 11) : Statement (.spstD d a st imm) := by
  intro _ _
  have h : Packed (encodeNat (.spstD d a st imm))
      [(11, imm.toNat), (2, 3), (2, st.toNat), (5, a.toNat), (5, d.toNat), (6, 27), (1, 0)] :=
    ⟨by change wordOf _ _ = _; simp only [wordOf_cons, wordOf_nil, put_eq, at20_eq, at15_eq, at10_eq, at5_eq, atC_eq, pack_cons, pack_nil]; omega,
      imm.isLt, by decide, st.isLt, a.isLt, d.isLt, by decide, by decide, trivial⟩
  generalize encodeNat (.spstD d a st imm) = w at h ⊢
  exact ⟨h.lt rfl, by simp [selectRow, selectLow, selectSpStore, h.major rfl, (show w / 2048 % 4 = 3 from h.at' (lo := 11) (n := 2) rfl), h.rd (x := d) rfl, h.ra (x := a) rfl, h.field (n := 2) (lo := 13) (x := st) rfl, h.field (n := 11) (lo := 0) (x := imm) rfl],
    by simp [h.unchained rfl]⟩

theorem Sys2Proof.Laws.Selects.csrr (d : Reg) (csr : BitVec 12) : Statement (.csrr d csr) := by
  intro _ _
  have h : Packed (encodeNat (.csrr d csr))
      [(12, csr.toNat), (3, 0), (5, 0), (5, d.toNat), (6, 28), (1, 0)] :=
    ⟨by change wordOf _ _ = _; simp only [wordOf_cons, wordOf_nil, put_eq, at20_eq, at15_eq, at10_eq, at5_eq, atC_eq, pack_cons, pack_nil]; omega,
      csr.isLt, by decide, by decide, d.isLt, by decide, by decide, trivial⟩
  generalize encodeNat (.csrr d csr) = w at h ⊢
  exact ⟨h.lt rfl, by simp [selectRow, selectLow, selectCsr, h.major rfl, (show w / 4096 % 8 = 0 from h.at' (lo := 12) (n := 3) rfl), h.rd (x := d) rfl, h.field (n := 12) (lo := 0) (x := csr) rfl],
    by simp [h.unchained rfl]⟩

theorem Sys2Proof.Laws.Selects.csrw (d : Reg) (a : Reg) (csr : BitVec 12) : Statement (.csrw d a csr) := by
  intro _ _
  have h : Packed (encodeNat (.csrw d a csr))
      [(12, csr.toNat), (3, 1), (5, a.toNat), (5, d.toNat), (6, 28), (1, 0)] :=
    ⟨by change wordOf _ _ = _; simp only [wordOf_cons, wordOf_nil, put_eq, at20_eq, at15_eq, at10_eq, at5_eq, atC_eq, pack_cons, pack_nil]; omega,
      csr.isLt, by decide, a.isLt, d.isLt, by decide, by decide, trivial⟩
  generalize encodeNat (.csrw d a csr) = w at h ⊢
  exact ⟨h.lt rfl, by simp [selectRow, selectLow, selectCsr, h.major rfl, (show w / 4096 % 8 = 1 from h.at' (lo := 12) (n := 3) rfl), h.rd (x := d) rfl, h.ra (x := a) rfl, h.field (n := 12) (lo := 0) (x := csr) rfl],
    by simp [h.unchained rfl]⟩

theorem Sys2Proof.Laws.Selects.csrs (d : Reg) (a : Reg) (csr : BitVec 12) : Statement (.csrs d a csr) := by
  intro _ _
  have h : Packed (encodeNat (.csrs d a csr))
      [(12, csr.toNat), (3, 2), (5, a.toNat), (5, d.toNat), (6, 28), (1, 0)] :=
    ⟨by change wordOf _ _ = _; simp only [wordOf_cons, wordOf_nil, put_eq, at20_eq, at15_eq, at10_eq, at5_eq, atC_eq, pack_cons, pack_nil]; omega,
      csr.isLt, by decide, a.isLt, d.isLt, by decide, by decide, trivial⟩
  generalize encodeNat (.csrs d a csr) = w at h ⊢
  exact ⟨h.lt rfl, by simp [selectRow, selectLow, selectCsr, h.major rfl, (show w / 4096 % 8 = 2 from h.at' (lo := 12) (n := 3) rfl), h.rd (x := d) rfl, h.ra (x := a) rfl, h.field (n := 12) (lo := 0) (x := csr) rfl],
    by simp [h.unchained rfl]⟩

theorem Sys2Proof.Laws.Selects.csrc (d : Reg) (a : Reg) (csr : BitVec 12) : Statement (.csrc d a csr) := by
  intro _ _
  have h : Packed (encodeNat (.csrc d a csr))
      [(12, csr.toNat), (3, 3), (5, a.toNat), (5, d.toNat), (6, 28), (1, 0)] :=
    ⟨by change wordOf _ _ = _; simp only [wordOf_cons, wordOf_nil, put_eq, at20_eq, at15_eq, at10_eq, at5_eq, atC_eq, pack_cons, pack_nil]; omega,
      csr.isLt, by decide, a.isLt, d.isLt, by decide, by decide, trivial⟩
  generalize encodeNat (.csrc d a csr) = w at h ⊢
  exact ⟨h.lt rfl, by simp [selectRow, selectLow, selectCsr, h.major rfl, (show w / 4096 % 8 = 3 from h.at' (lo := 12) (n := 3) rfl), h.rd (x := d) rfl, h.ra (x := a) rfl, h.field (n := 12) (lo := 0) (x := csr) rfl],
    by simp [h.unchained rfl]⟩

theorem Sys2Proof.Laws.Selects.svc : Statement .svc := by
  intro _ _
  have h : Packed (encodeNat .svc)
      [(5, 0), (20, 0), (6, 29), (1, 0)] :=
    ⟨rfl,
      by decide, by decide, by decide, by decide, trivial⟩
  generalize encodeNat .svc = w at h ⊢
  exact ⟨h.lt rfl, by simp [selectRow, selectLow, selectSystem, h.major rfl, h.low5 rfl],
    by simp [h.unchained rfl]⟩

theorem Sys2Proof.Laws.Selects.tret : Statement .tret := by
  intro _ _
  have h : Packed (encodeNat .tret)
      [(5, 1), (20, 0), (6, 29), (1, 0)] :=
    ⟨rfl,
      by decide, by decide, by decide, by decide, trivial⟩
  generalize encodeNat .tret = w at h ⊢
  exact ⟨h.lt rfl, by simp [selectRow, selectLow, selectSystem, h.major rfl, h.low5 rfl],
    by simp [h.unchained rfl]⟩

theorem Sys2Proof.Laws.Selects.brk (code : BitVec 5) : Statement (.brk code) := by
  intro _ _
  have h : Packed (encodeNat (.brk code))
      [(5, 2), (5, code.toNat), (15, 0), (6, 29), (1, 0)] :=
    ⟨by change wordOf _ _ = _; simp only [wordOf_cons, wordOf_nil, put_eq, at20_eq, at15_eq, at10_eq, at5_eq, atC_eq, pack_cons, pack_nil]; omega,
      by decide, code.isLt, by decide, by decide, by decide, trivial⟩
  generalize encodeNat (.brk code) = w at h ⊢
  exact ⟨h.lt rfl, by simp [selectRow, selectLow, selectSystem, h.major rfl, h.low5 rfl, h.rf (x := code) rfl],
    by simp [h.unchained rfl]⟩

theorem Sys2Proof.Laws.Selects.wfi : Statement .wfi := by
  intro _ _
  have h : Packed (encodeNat .wfi)
      [(5, 3), (20, 0), (6, 29), (1, 0)] :=
    ⟨rfl,
      by decide, by decide, by decide, by decide, trivial⟩
  generalize encodeNat .wfi = w at h ⊢
  exact ⟨h.lt rfl, by simp [selectRow, selectLow, selectSystem, h.major rfl, h.low5 rfl],
    by simp [h.unchained rfl]⟩

theorem Sys2Proof.Laws.Selects.gend : Statement .gend := by
  intro _ _
  have h : Packed (encodeNat .gend)
      [(5, 4), (20, 0), (6, 29), (1, 0)] :=
    ⟨rfl,
      by decide, by decide, by decide, by decide, trivial⟩
  generalize encodeNat .gend = w at h ⊢
  exact ⟨h.lt rfl, by simp [selectRow, selectLow, selectSystem, h.major rfl, h.low5 rfl],
    by simp [h.unchained rfl]⟩

theorem Sys2Proof.Laws.Selects.lend : Statement .lend := by
  intro _ _
  have h : Packed (encodeNat .lend)
      [(5, 5), (20, 0), (6, 29), (1, 0)] :=
    ⟨rfl,
      by decide, by decide, by decide, by decide, trivial⟩
  generalize encodeNat .lend = w at h ⊢
  exact ⟨h.lt rfl, by simp [selectRow, selectLow, selectSystem, h.major rfl, h.low5 rfl],
    by simp [h.unchained rfl]⟩

theorem Sys2Proof.Laws.Selects.hevict (a : Reg) (b : Reg) : Statement (.hevict a b) := by
  intro _ _
  have h : Packed (encodeNat (.hevict a b))
      [(5, 6), (5, 0), (5, b.toNat), (5, a.toNat), (5, 0), (6, 29), (1, 0)] :=
    ⟨by change wordOf _ _ = _; simp only [wordOf_cons, wordOf_nil, put_eq, at20_eq, at15_eq, at10_eq, at5_eq, atC_eq, pack_cons, pack_nil]; omega,
      by decide, by decide, b.isLt, a.isLt, by decide, by decide, by decide, trivial⟩
  generalize encodeNat (.hevict a b) = w at h ⊢
  exact ⟨h.lt rfl, by simp [selectRow, selectLow, selectSystem, h.major rfl, h.low5 rfl, h.ra (x := a) rfl, h.rb (x := b) rfl],
    by simp [h.unchained rfl]⟩

theorem Sys2Proof.Laws.Selects.hrestore (a : Reg) (b : Reg) : Statement (.hrestore a b) := by
  intro _ _
  have h : Packed (encodeNat (.hrestore a b))
      [(5, 7), (5, 0), (5, b.toNat), (5, a.toNat), (5, 0), (6, 29), (1, 0)] :=
    ⟨by change wordOf _ _ = _; simp only [wordOf_cons, wordOf_nil, put_eq, at20_eq, at15_eq, at10_eq, at5_eq, atC_eq, pack_cons, pack_nil]; omega,
      by decide, by decide, b.isLt, a.isLt, by decide, by decide, by decide, trivial⟩
  generalize encodeNat (.hrestore a b) = w at h ⊢
  exact ⟨h.lt rfl, by simp [selectRow, selectLow, selectSystem, h.major rfl, h.low5 rfl, h.ra (x := a) rfl, h.rb (x := b) rfl],
    by simp [h.unchained rfl]⟩

theorem Sys2Proof.Laws.Selects.lbuf (d : Reg) (imm : BitVec 20) : Statement (.lbuf d imm) := by
  intro _ _
  have h : Packed (encodeNat (.lbuf d imm))
      [(20, imm.toNat), (5, d.toNat), (6, 30), (1, 0)] :=
    ⟨by change wordOf _ _ = _; simp only [wordOf_cons, wordOf_nil, put_eq, at20_eq, at15_eq, at10_eq, at5_eq, atC_eq, pack_cons, pack_nil]; omega,
      imm.isLt, d.isLt, by decide, by decide, trivial⟩
  generalize encodeNat (.lbuf d imm) = w at h ⊢
  exact ⟨h.lt rfl, by simp [selectRow, selectLow, h.major rfl, h.rd (x := d) rfl, h.field (n := 20) (lo := 0) (x := imm) rfl],
    by simp [h.unchained rfl]⟩

theorem Sys2Proof.Laws.Selects.vlset (d : Reg) (a : Reg) (gc : BitVec 2) (sew : BitVec 2) : Statement (.vlset d a gc sew) := by
  intro _ _
  have h : Packed (encodeNat (.vlset d a gc sew))
      [(2, sew.toNat), (2, gc.toNat), (11, 0), (5, a.toNat), (5, d.toNat), (6, 32), (1, 0)] :=
    ⟨by change wordOf _ _ = _; simp only [wordOf_cons, wordOf_nil, put_eq, at20_eq, at15_eq, at10_eq, at5_eq, atC_eq, pack_cons, pack_nil]; omega,
      sew.isLt, gc.isLt, by decide, a.isLt, d.isLt, by decide, by decide, trivial⟩
  generalize encodeNat (.vlset d a gc sew) = w at h ⊢
  exact ⟨h.lt rfl, by simp [selectRow, selectLow, h.major rfl, h.rd (x := d) rfl, h.ra (x := a) rfl, h.field (n := 2) (lo := 2) (x := gc) rfl, h.field (n := 2) (lo := 0) (x := sew) rfl],
    by simp [h.unchained rfl]⟩

theorem Sys2Proof.Laws.Selects.vadd (c : Bool) (d : Reg) (a : Reg) (b : Reg) (xf : Reg) (k : BitVec 2) : Statement (.vadd c d a b xf k) := by
  intro _ _
  have h : Packed (encodeNat (.vadd c d a b xf k))
      [(3, 0), (2, k.toNat), (5, xf.toNat), (5, b.toNat), (5, a.toNat), (5, d.toNat), (6, 33), (1, c.toNat)] :=
    ⟨by change wordOf _ _ = _; simp only [wordOf_cons, wordOf_nil, put_eq, at20_eq, at15_eq, at10_eq, at5_eq, atC_eq, pack_cons, pack_nil]; omega,
      by decide, k.isLt, xf.isLt, b.isLt, a.isLt, d.isLt, by decide, toNat_lt_two c, trivial⟩
  generalize encodeNat (.vadd c d a b xf k) = w at h ⊢
  exact ⟨h.lt rfl, by simp [selectRow, selectLow, selectArith1, h.major rfl, h.low3 rfl, h.chained (c := c) rfl, h.rd (x := d) rfl, h.ra (x := a) rfl, h.rb (x := b) rfl, h.rf (x := xf) rfl, h.field (n := 2) (lo := 3) (x := k) rfl],
    fun _ => by simp [mayChain, vectorClass, aloneClass, h.major rfl, h.low3 rfl]⟩

theorem Sys2Proof.Laws.Selects.vsub (c : Bool) (d : Reg) (a : Reg) (b : Reg) (xf : Reg) (k : BitVec 2) : Statement (.vsub c d a b xf k) := by
  intro _ _
  have h : Packed (encodeNat (.vsub c d a b xf k))
      [(3, 1), (2, k.toNat), (5, xf.toNat), (5, b.toNat), (5, a.toNat), (5, d.toNat), (6, 33), (1, c.toNat)] :=
    ⟨by change wordOf _ _ = _; simp only [wordOf_cons, wordOf_nil, put_eq, at20_eq, at15_eq, at10_eq, at5_eq, atC_eq, pack_cons, pack_nil]; omega,
      by decide, k.isLt, xf.isLt, b.isLt, a.isLt, d.isLt, by decide, toNat_lt_two c, trivial⟩
  generalize encodeNat (.vsub c d a b xf k) = w at h ⊢
  exact ⟨h.lt rfl, by simp [selectRow, selectLow, selectArith1, h.major rfl, h.low3 rfl, h.chained (c := c) rfl, h.rd (x := d) rfl, h.ra (x := a) rfl, h.rb (x := b) rfl, h.rf (x := xf) rfl, h.field (n := 2) (lo := 3) (x := k) rfl],
    fun _ => by simp [mayChain, vectorClass, aloneClass, h.major rfl, h.low3 rfl]⟩

theorem Sys2Proof.Laws.Selects.vmul (c : Bool) (d : Reg) (a : Reg) (b : Reg) (xf : Reg) (k : BitVec 2) : Statement (.vmul c d a b xf k) := by
  intro _ _
  have h : Packed (encodeNat (.vmul c d a b xf k))
      [(3, 2), (2, k.toNat), (5, xf.toNat), (5, b.toNat), (5, a.toNat), (5, d.toNat), (6, 33), (1, c.toNat)] :=
    ⟨by change wordOf _ _ = _; simp only [wordOf_cons, wordOf_nil, put_eq, at20_eq, at15_eq, at10_eq, at5_eq, atC_eq, pack_cons, pack_nil]; omega,
      by decide, k.isLt, xf.isLt, b.isLt, a.isLt, d.isLt, by decide, toNat_lt_two c, trivial⟩
  generalize encodeNat (.vmul c d a b xf k) = w at h ⊢
  exact ⟨h.lt rfl, by simp [selectRow, selectLow, selectArith1, h.major rfl, h.low3 rfl, h.chained (c := c) rfl, h.rd (x := d) rfl, h.ra (x := a) rfl, h.rb (x := b) rfl, h.rf (x := xf) rfl, h.field (n := 2) (lo := 3) (x := k) rfl],
    fun _ => by simp [mayChain, vectorClass, aloneClass, h.major rfl, h.low3 rfl]⟩

theorem Sys2Proof.Laws.Selects.vdiv (c : Bool) (d : Reg) (a : Reg) (b : Reg) (xf : Reg) (k : BitVec 2) : Statement (.vdiv c d a b xf k) := by
  intro _ _
  have h : Packed (encodeNat (.vdiv c d a b xf k))
      [(3, 3), (2, k.toNat), (5, xf.toNat), (5, b.toNat), (5, a.toNat), (5, d.toNat), (6, 33), (1, c.toNat)] :=
    ⟨by change wordOf _ _ = _; simp only [wordOf_cons, wordOf_nil, put_eq, at20_eq, at15_eq, at10_eq, at5_eq, atC_eq, pack_cons, pack_nil]; omega,
      by decide, k.isLt, xf.isLt, b.isLt, a.isLt, d.isLt, by decide, toNat_lt_two c, trivial⟩
  generalize encodeNat (.vdiv c d a b xf k) = w at h ⊢
  exact ⟨h.lt rfl, by simp [selectRow, selectLow, selectArith1, h.major rfl, h.low3 rfl, h.chained (c := c) rfl, h.rd (x := d) rfl, h.ra (x := a) rfl, h.rb (x := b) rfl, h.rf (x := xf) rfl, h.field (n := 2) (lo := 3) (x := k) rfl],
    fun _ => by simp [mayChain, vectorClass, aloneClass, h.major rfl, h.low3 rfl]⟩

theorem Sys2Proof.Laws.Selects.vmin (c : Bool) (d : Reg) (a : Reg) (b : Reg) (xf : Reg) (k : BitVec 2) : Statement (.vmin c d a b xf k) := by
  intro _ _
  have h : Packed (encodeNat (.vmin c d a b xf k))
      [(3, 4), (2, k.toNat), (5, xf.toNat), (5, b.toNat), (5, a.toNat), (5, d.toNat), (6, 33), (1, c.toNat)] :=
    ⟨by change wordOf _ _ = _; simp only [wordOf_cons, wordOf_nil, put_eq, at20_eq, at15_eq, at10_eq, at5_eq, atC_eq, pack_cons, pack_nil]; omega,
      by decide, k.isLt, xf.isLt, b.isLt, a.isLt, d.isLt, by decide, toNat_lt_two c, trivial⟩
  generalize encodeNat (.vmin c d a b xf k) = w at h ⊢
  exact ⟨h.lt rfl, by simp [selectRow, selectLow, selectArith1, h.major rfl, h.low3 rfl, h.chained (c := c) rfl, h.rd (x := d) rfl, h.ra (x := a) rfl, h.rb (x := b) rfl, h.rf (x := xf) rfl, h.field (n := 2) (lo := 3) (x := k) rfl],
    fun _ => by simp [mayChain, vectorClass, aloneClass, h.major rfl, h.low3 rfl]⟩

theorem Sys2Proof.Laws.Selects.vmax (c : Bool) (d : Reg) (a : Reg) (b : Reg) (xf : Reg) (k : BitVec 2) : Statement (.vmax c d a b xf k) := by
  intro _ _
  have h : Packed (encodeNat (.vmax c d a b xf k))
      [(3, 5), (2, k.toNat), (5, xf.toNat), (5, b.toNat), (5, a.toNat), (5, d.toNat), (6, 33), (1, c.toNat)] :=
    ⟨by change wordOf _ _ = _; simp only [wordOf_cons, wordOf_nil, put_eq, at20_eq, at15_eq, at10_eq, at5_eq, atC_eq, pack_cons, pack_nil]; omega,
      by decide, k.isLt, xf.isLt, b.isLt, a.isLt, d.isLt, by decide, toNat_lt_two c, trivial⟩
  generalize encodeNat (.vmax c d a b xf k) = w at h ⊢
  exact ⟨h.lt rfl, by simp [selectRow, selectLow, selectArith1, h.major rfl, h.low3 rfl, h.chained (c := c) rfl, h.rd (x := d) rfl, h.ra (x := a) rfl, h.rb (x := b) rfl, h.rf (x := xf) rfl, h.field (n := 2) (lo := 3) (x := k) rfl],
    fun _ => by simp [mayChain, vectorClass, aloneClass, h.major rfl, h.low3 rfl]⟩

theorem Sys2Proof.Laws.Selects.vsqrt (c : Bool) (d : Reg) (a : Reg) (xf : Reg) (k : BitVec 2) : Statement (.vsqrt c d a xf k) := by
  intro _ _
  have h : Packed (encodeNat (.vsqrt c d a xf k))
      [(3, 6), (2, k.toNat), (5, xf.toNat), (5, 0), (5, a.toNat), (5, d.toNat), (6, 33), (1, c.toNat)] :=
    ⟨by change wordOf _ _ = _; simp only [wordOf_cons, wordOf_nil, put_eq, at20_eq, at15_eq, at10_eq, at5_eq, atC_eq, pack_cons, pack_nil]; omega,
      by decide, k.isLt, xf.isLt, by decide, a.isLt, d.isLt, by decide, toNat_lt_two c, trivial⟩
  generalize encodeNat (.vsqrt c d a xf k) = w at h ⊢
  exact ⟨h.lt rfl, by simp [selectRow, selectLow, selectArith1, h.major rfl, h.low3 rfl, h.chained (c := c) rfl, h.rd (x := d) rfl, h.ra (x := a) rfl, h.rf (x := xf) rfl, h.field (n := 2) (lo := 3) (x := k) rfl],
    fun _ => by simp [mayChain, vectorClass, aloneClass, h.major rfl, h.low3 rfl]⟩

theorem Sys2Proof.Laws.Selects.vabs (c : Bool) (d : Reg) (a : Reg) (xf : Reg) (k : BitVec 2) : Statement (.vabs c d a xf k) := by
  intro _ _
  have h : Packed (encodeNat (.vabs c d a xf k))
      [(3, 7), (2, k.toNat), (5, xf.toNat), (5, 0), (5, a.toNat), (5, d.toNat), (6, 33), (1, c.toNat)] :=
    ⟨by change wordOf _ _ = _; simp only [wordOf_cons, wordOf_nil, put_eq, at20_eq, at15_eq, at10_eq, at5_eq, atC_eq, pack_cons, pack_nil]; omega,
      by decide, k.isLt, xf.isLt, by decide, a.isLt, d.isLt, by decide, toNat_lt_two c, trivial⟩
  generalize encodeNat (.vabs c d a xf k) = w at h ⊢
  exact ⟨h.lt rfl, by simp [selectRow, selectLow, selectArith1, h.major rfl, h.low3 rfl, h.chained (c := c) rfl, h.rd (x := d) rfl, h.ra (x := a) rfl, h.rf (x := xf) rfl, h.field (n := 2) (lo := 3) (x := k) rfl],
    fun _ => by simp [mayChain, vectorClass, aloneClass, h.major rfl, h.low3 rfl]⟩

theorem Sys2Proof.Laws.Selects.vfma (c : Bool) (d : Reg) (a : Reg) (b : Reg) (xf : Reg) (k : BitVec 2) : Statement (.vfma c d a b xf k) := by
  intro _ _
  have h : Packed (encodeNat (.vfma c d a b xf k))
      [(3, 0), (2, k.toNat), (5, xf.toNat), (5, b.toNat), (5, a.toNat), (5, d.toNat), (6, 34), (1, c.toNat)] :=
    ⟨by change wordOf _ _ = _; simp only [wordOf_cons, wordOf_nil, put_eq, at20_eq, at15_eq, at10_eq, at5_eq, atC_eq, pack_cons, pack_nil]; omega,
      by decide, k.isLt, xf.isLt, b.isLt, a.isLt, d.isLt, by decide, toNat_lt_two c, trivial⟩
  generalize encodeNat (.vfma c d a b xf k) = w at h ⊢
  exact ⟨h.lt rfl, by simp [selectRow, selectLow, selectArith2, h.major rfl, h.low3 rfl, h.chained (c := c) rfl, h.rd (x := d) rfl, h.ra (x := a) rfl, h.rb (x := b) rfl, h.rf (x := xf) rfl, h.field (n := 2) (lo := 3) (x := k) rfl],
    fun _ => by simp [mayChain, vectorClass, aloneClass, h.major rfl, h.low3 rfl]⟩

theorem Sys2Proof.Laws.Selects.vfms (c : Bool) (d : Reg) (a : Reg) (b : Reg) (xf : Reg) (k : BitVec 2) : Statement (.vfms c d a b xf k) := by
  intro _ _
  have h : Packed (encodeNat (.vfms c d a b xf k))
      [(3, 1), (2, k.toNat), (5, xf.toNat), (5, b.toNat), (5, a.toNat), (5, d.toNat), (6, 34), (1, c.toNat)] :=
    ⟨by change wordOf _ _ = _; simp only [wordOf_cons, wordOf_nil, put_eq, at20_eq, at15_eq, at10_eq, at5_eq, atC_eq, pack_cons, pack_nil]; omega,
      by decide, k.isLt, xf.isLt, b.isLt, a.isLt, d.isLt, by decide, toNat_lt_two c, trivial⟩
  generalize encodeNat (.vfms c d a b xf k) = w at h ⊢
  exact ⟨h.lt rfl, by simp [selectRow, selectLow, selectArith2, h.major rfl, h.low3 rfl, h.chained (c := c) rfl, h.rd (x := d) rfl, h.ra (x := a) rfl, h.rb (x := b) rfl, h.rf (x := xf) rfl, h.field (n := 2) (lo := 3) (x := k) rfl],
    fun _ => by simp [mayChain, vectorClass, aloneClass, h.major rfl, h.low3 rfl]⟩

theorem Sys2Proof.Laws.Selects.vfnma (c : Bool) (d : Reg) (a : Reg) (b : Reg) (xf : Reg) (k : BitVec 2) : Statement (.vfnma c d a b xf k) := by
  intro _ _
  have h : Packed (encodeNat (.vfnma c d a b xf k))
      [(3, 2), (2, k.toNat), (5, xf.toNat), (5, b.toNat), (5, a.toNat), (5, d.toNat), (6, 34), (1, c.toNat)] :=
    ⟨by change wordOf _ _ = _; simp only [wordOf_cons, wordOf_nil, put_eq, at20_eq, at15_eq, at10_eq, at5_eq, atC_eq, pack_cons, pack_nil]; omega,
      by decide, k.isLt, xf.isLt, b.isLt, a.isLt, d.isLt, by decide, toNat_lt_two c, trivial⟩
  generalize encodeNat (.vfnma c d a b xf k) = w at h ⊢
  exact ⟨h.lt rfl, by simp [selectRow, selectLow, selectArith2, h.major rfl, h.low3 rfl, h.chained (c := c) rfl, h.rd (x := d) rfl, h.ra (x := a) rfl, h.rb (x := b) rfl, h.rf (x := xf) rfl, h.field (n := 2) (lo := 3) (x := k) rfl],
    fun _ => by simp [mayChain, vectorClass, aloneClass, h.major rfl, h.low3 rfl]⟩

theorem Sys2Proof.Laws.Selects.vfnms (c : Bool) (d : Reg) (a : Reg) (b : Reg) (xf : Reg) (k : BitVec 2) : Statement (.vfnms c d a b xf k) := by
  intro _ _
  have h : Packed (encodeNat (.vfnms c d a b xf k))
      [(3, 3), (2, k.toNat), (5, xf.toNat), (5, b.toNat), (5, a.toNat), (5, d.toNat), (6, 34), (1, c.toNat)] :=
    ⟨by change wordOf _ _ = _; simp only [wordOf_cons, wordOf_nil, put_eq, at20_eq, at15_eq, at10_eq, at5_eq, atC_eq, pack_cons, pack_nil]; omega,
      by decide, k.isLt, xf.isLt, b.isLt, a.isLt, d.isLt, by decide, toNat_lt_two c, trivial⟩
  generalize encodeNat (.vfnms c d a b xf k) = w at h ⊢
  exact ⟨h.lt rfl, by simp [selectRow, selectLow, selectArith2, h.major rfl, h.low3 rfl, h.chained (c := c) rfl, h.rd (x := d) rfl, h.ra (x := a) rfl, h.rb (x := b) rfl, h.rf (x := xf) rfl, h.field (n := 2) (lo := 3) (x := k) rfl],
    fun _ => by simp [mayChain, vectorClass, aloneClass, h.major rfl, h.low3 rfl]⟩

theorem Sys2Proof.Laws.Selects.vmulh (c : Bool) (d : Reg) (a : Reg) (b : Reg) (xf : Reg) (k : BitVec 2) : Statement (.vmulh c d a b xf k) := by
  intro _ _
  have h : Packed (encodeNat (.vmulh c d a b xf k))
      [(3, 4), (2, k.toNat), (5, xf.toNat), (5, b.toNat), (5, a.toNat), (5, d.toNat), (6, 34), (1, c.toNat)] :=
    ⟨by change wordOf _ _ = _; simp only [wordOf_cons, wordOf_nil, put_eq, at20_eq, at15_eq, at10_eq, at5_eq, atC_eq, pack_cons, pack_nil]; omega,
      by decide, k.isLt, xf.isLt, b.isLt, a.isLt, d.isLt, by decide, toNat_lt_two c, trivial⟩
  generalize encodeNat (.vmulh c d a b xf k) = w at h ⊢
  exact ⟨h.lt rfl, by simp [selectRow, selectLow, selectArith2, h.major rfl, h.low3 rfl, h.chained (c := c) rfl, h.rd (x := d) rfl, h.ra (x := a) rfl, h.rb (x := b) rfl, h.rf (x := xf) rfl, h.field (n := 2) (lo := 3) (x := k) rfl],
    fun _ => by simp [mayChain, vectorClass, aloneClass, h.major rfl, h.low3 rfl]⟩

theorem Sys2Proof.Laws.Selects.vrem (c : Bool) (d : Reg) (a : Reg) (b : Reg) (xf : Reg) (k : BitVec 2) : Statement (.vrem c d a b xf k) := by
  intro _ _
  have h : Packed (encodeNat (.vrem c d a b xf k))
      [(3, 5), (2, k.toNat), (5, xf.toNat), (5, b.toNat), (5, a.toNat), (5, d.toNat), (6, 34), (1, c.toNat)] :=
    ⟨by change wordOf _ _ = _; simp only [wordOf_cons, wordOf_nil, put_eq, at20_eq, at15_eq, at10_eq, at5_eq, atC_eq, pack_cons, pack_nil]; omega,
      by decide, k.isLt, xf.isLt, b.isLt, a.isLt, d.isLt, by decide, toNat_lt_two c, trivial⟩
  generalize encodeNat (.vrem c d a b xf k) = w at h ⊢
  exact ⟨h.lt rfl, by simp [selectRow, selectLow, selectArith2, h.major rfl, h.low3 rfl, h.chained (c := c) rfl, h.rd (x := d) rfl, h.ra (x := a) rfl, h.rb (x := b) rfl, h.rf (x := xf) rfl, h.field (n := 2) (lo := 3) (x := k) rfl],
    fun _ => by simp [mayChain, vectorClass, aloneClass, h.major rfl, h.low3 rfl]⟩

theorem Sys2Proof.Laws.Selects.vneg (c : Bool) (d : Reg) (a : Reg) (xf : Reg) (k : BitVec 2) : Statement (.vneg c d a xf k) := by
  intro _ _
  have h : Packed (encodeNat (.vneg c d a xf k))
      [(3, 6), (2, k.toNat), (5, xf.toNat), (5, 0), (5, a.toNat), (5, d.toNat), (6, 34), (1, c.toNat)] :=
    ⟨by change wordOf _ _ = _; simp only [wordOf_cons, wordOf_nil, put_eq, at20_eq, at15_eq, at10_eq, at5_eq, atC_eq, pack_cons, pack_nil]; omega,
      by decide, k.isLt, xf.isLt, by decide, a.isLt, d.isLt, by decide, toNat_lt_two c, trivial⟩
  generalize encodeNat (.vneg c d a xf k) = w at h ⊢
  exact ⟨h.lt rfl, by simp [selectRow, selectLow, selectArith2, h.major rfl, h.low3 rfl, h.chained (c := c) rfl, h.rd (x := d) rfl, h.ra (x := a) rfl, h.rf (x := xf) rfl, h.field (n := 2) (lo := 3) (x := k) rfl],
    fun _ => by simp [mayChain, vectorClass, aloneClass, h.major rfl, h.low3 rfl]⟩

theorem Sys2Proof.Laws.Selects.vand (c : Bool) (d : Reg) (a : Reg) (b : Reg) (xf : Reg) (k : BitVec 2) : Statement (.vand c d a b xf k) := by
  intro _ _
  have h : Packed (encodeNat (.vand c d a b xf k))
      [(3, 0), (2, k.toNat), (5, xf.toNat), (5, b.toNat), (5, a.toNat), (5, d.toNat), (6, 35), (1, c.toNat)] :=
    ⟨by change wordOf _ _ = _; simp only [wordOf_cons, wordOf_nil, put_eq, at20_eq, at15_eq, at10_eq, at5_eq, atC_eq, pack_cons, pack_nil]; omega,
      by decide, k.isLt, xf.isLt, b.isLt, a.isLt, d.isLt, by decide, toNat_lt_two c, trivial⟩
  generalize encodeNat (.vand c d a b xf k) = w at h ⊢
  exact ⟨h.lt rfl, by simp [selectRow, selectLow, selectBitwise, h.major rfl, h.low3 rfl, h.chained (c := c) rfl, h.rd (x := d) rfl, h.ra (x := a) rfl, h.rb (x := b) rfl, h.rf (x := xf) rfl, h.field (n := 2) (lo := 3) (x := k) rfl],
    fun _ => by simp [mayChain, vectorClass, aloneClass, h.major rfl, h.low3 rfl]⟩

theorem Sys2Proof.Laws.Selects.vor (c : Bool) (d : Reg) (a : Reg) (b : Reg) (xf : Reg) (k : BitVec 2) : Statement (.vor c d a b xf k) := by
  intro _ _
  have h : Packed (encodeNat (.vor c d a b xf k))
      [(3, 1), (2, k.toNat), (5, xf.toNat), (5, b.toNat), (5, a.toNat), (5, d.toNat), (6, 35), (1, c.toNat)] :=
    ⟨by change wordOf _ _ = _; simp only [wordOf_cons, wordOf_nil, put_eq, at20_eq, at15_eq, at10_eq, at5_eq, atC_eq, pack_cons, pack_nil]; omega,
      by decide, k.isLt, xf.isLt, b.isLt, a.isLt, d.isLt, by decide, toNat_lt_two c, trivial⟩
  generalize encodeNat (.vor c d a b xf k) = w at h ⊢
  exact ⟨h.lt rfl, by simp [selectRow, selectLow, selectBitwise, h.major rfl, h.low3 rfl, h.chained (c := c) rfl, h.rd (x := d) rfl, h.ra (x := a) rfl, h.rb (x := b) rfl, h.rf (x := xf) rfl, h.field (n := 2) (lo := 3) (x := k) rfl],
    fun _ => by simp [mayChain, vectorClass, aloneClass, h.major rfl, h.low3 rfl]⟩

theorem Sys2Proof.Laws.Selects.vxor (c : Bool) (d : Reg) (a : Reg) (b : Reg) (xf : Reg) (k : BitVec 2) : Statement (.vxor c d a b xf k) := by
  intro _ _
  have h : Packed (encodeNat (.vxor c d a b xf k))
      [(3, 2), (2, k.toNat), (5, xf.toNat), (5, b.toNat), (5, a.toNat), (5, d.toNat), (6, 35), (1, c.toNat)] :=
    ⟨by change wordOf _ _ = _; simp only [wordOf_cons, wordOf_nil, put_eq, at20_eq, at15_eq, at10_eq, at5_eq, atC_eq, pack_cons, pack_nil]; omega,
      by decide, k.isLt, xf.isLt, b.isLt, a.isLt, d.isLt, by decide, toNat_lt_two c, trivial⟩
  generalize encodeNat (.vxor c d a b xf k) = w at h ⊢
  exact ⟨h.lt rfl, by simp [selectRow, selectLow, selectBitwise, h.major rfl, h.low3 rfl, h.chained (c := c) rfl, h.rd (x := d) rfl, h.ra (x := a) rfl, h.rb (x := b) rfl, h.rf (x := xf) rfl, h.field (n := 2) (lo := 3) (x := k) rfl],
    fun _ => by simp [mayChain, vectorClass, aloneClass, h.major rfl, h.low3 rfl]⟩

theorem Sys2Proof.Laws.Selects.vnot (c : Bool) (d : Reg) (a : Reg) (xf : Reg) (k : BitVec 2) : Statement (.vnot c d a xf k) := by
  intro _ _
  have h : Packed (encodeNat (.vnot c d a xf k))
      [(3, 3), (2, k.toNat), (5, xf.toNat), (5, 0), (5, a.toNat), (5, d.toNat), (6, 35), (1, c.toNat)] :=
    ⟨by change wordOf _ _ = _; simp only [wordOf_cons, wordOf_nil, put_eq, at20_eq, at15_eq, at10_eq, at5_eq, atC_eq, pack_cons, pack_nil]; omega,
      by decide, k.isLt, xf.isLt, by decide, a.isLt, d.isLt, by decide, toNat_lt_two c, trivial⟩
  generalize encodeNat (.vnot c d a xf k) = w at h ⊢
  exact ⟨h.lt rfl, by simp [selectRow, selectLow, selectBitwise, h.major rfl, h.low3 rfl, h.chained (c := c) rfl, h.rd (x := d) rfl, h.ra (x := a) rfl, h.rf (x := xf) rfl, h.field (n := 2) (lo := 3) (x := k) rfl],
    fun _ => by simp [mayChain, vectorClass, aloneClass, h.major rfl, h.low3 rfl]⟩

theorem Sys2Proof.Laws.Selects.vsll (c : Bool) (d : Reg) (a : Reg) (b : Reg) (xf : Reg) (k : BitVec 2) : Statement (.vsll c d a b xf k) := by
  intro _ _
  have h : Packed (encodeNat (.vsll c d a b xf k))
      [(3, 4), (2, k.toNat), (5, xf.toNat), (5, b.toNat), (5, a.toNat), (5, d.toNat), (6, 35), (1, c.toNat)] :=
    ⟨by change wordOf _ _ = _; simp only [wordOf_cons, wordOf_nil, put_eq, at20_eq, at15_eq, at10_eq, at5_eq, atC_eq, pack_cons, pack_nil]; omega,
      by decide, k.isLt, xf.isLt, b.isLt, a.isLt, d.isLt, by decide, toNat_lt_two c, trivial⟩
  generalize encodeNat (.vsll c d a b xf k) = w at h ⊢
  exact ⟨h.lt rfl, by simp [selectRow, selectLow, selectBitwise, h.major rfl, h.low3 rfl, h.chained (c := c) rfl, h.rd (x := d) rfl, h.ra (x := a) rfl, h.rb (x := b) rfl, h.rf (x := xf) rfl, h.field (n := 2) (lo := 3) (x := k) rfl],
    fun _ => by simp [mayChain, vectorClass, aloneClass, h.major rfl, h.low3 rfl]⟩

theorem Sys2Proof.Laws.Selects.vsrl (c : Bool) (d : Reg) (a : Reg) (b : Reg) (xf : Reg) (k : BitVec 2) : Statement (.vsrl c d a b xf k) := by
  intro _ _
  have h : Packed (encodeNat (.vsrl c d a b xf k))
      [(3, 5), (2, k.toNat), (5, xf.toNat), (5, b.toNat), (5, a.toNat), (5, d.toNat), (6, 35), (1, c.toNat)] :=
    ⟨by change wordOf _ _ = _; simp only [wordOf_cons, wordOf_nil, put_eq, at20_eq, at15_eq, at10_eq, at5_eq, atC_eq, pack_cons, pack_nil]; omega,
      by decide, k.isLt, xf.isLt, b.isLt, a.isLt, d.isLt, by decide, toNat_lt_two c, trivial⟩
  generalize encodeNat (.vsrl c d a b xf k) = w at h ⊢
  exact ⟨h.lt rfl, by simp [selectRow, selectLow, selectBitwise, h.major rfl, h.low3 rfl, h.chained (c := c) rfl, h.rd (x := d) rfl, h.ra (x := a) rfl, h.rb (x := b) rfl, h.rf (x := xf) rfl, h.field (n := 2) (lo := 3) (x := k) rfl],
    fun _ => by simp [mayChain, vectorClass, aloneClass, h.major rfl, h.low3 rfl]⟩

theorem Sys2Proof.Laws.Selects.vsra (c : Bool) (d : Reg) (a : Reg) (b : Reg) (xf : Reg) (k : BitVec 2) : Statement (.vsra c d a b xf k) := by
  intro _ _
  have h : Packed (encodeNat (.vsra c d a b xf k))
      [(3, 6), (2, k.toNat), (5, xf.toNat), (5, b.toNat), (5, a.toNat), (5, d.toNat), (6, 35), (1, c.toNat)] :=
    ⟨by change wordOf _ _ = _; simp only [wordOf_cons, wordOf_nil, put_eq, at20_eq, at15_eq, at10_eq, at5_eq, atC_eq, pack_cons, pack_nil]; omega,
      by decide, k.isLt, xf.isLt, b.isLt, a.isLt, d.isLt, by decide, toNat_lt_two c, trivial⟩
  generalize encodeNat (.vsra c d a b xf k) = w at h ⊢
  exact ⟨h.lt rfl, by simp [selectRow, selectLow, selectBitwise, h.major rfl, h.low3 rfl, h.chained (c := c) rfl, h.rd (x := d) rfl, h.ra (x := a) rfl, h.rb (x := b) rfl, h.rf (x := xf) rfl, h.field (n := 2) (lo := 3) (x := k) rfl],
    fun _ => by simp [mayChain, vectorClass, aloneClass, h.major rfl, h.low3 rfl]⟩

theorem Sys2Proof.Laws.Selects.vceq (c : Bool) (d : Reg) (a : Reg) (b : Reg) (xf : Reg) (k : BitVec 2) : Statement (.vceq c d a b xf k) := by
  intro _ _
  have h : Packed (encodeNat (.vceq c d a b xf k))
      [(3, 0), (2, k.toNat), (5, xf.toNat), (5, b.toNat), (5, a.toNat), (5, d.toNat), (6, 36), (1, c.toNat)] :=
    ⟨by change wordOf _ _ = _; simp only [wordOf_cons, wordOf_nil, put_eq, at20_eq, at15_eq, at10_eq, at5_eq, atC_eq, pack_cons, pack_nil]; omega,
      by decide, k.isLt, xf.isLt, b.isLt, a.isLt, d.isLt, by decide, toNat_lt_two c, trivial⟩
  generalize encodeNat (.vceq c d a b xf k) = w at h ⊢
  exact ⟨h.lt rfl, by simp [selectRow, selectLow, selectCompare, h.major rfl, h.low3 rfl, h.chained (c := c) rfl, h.rd (x := d) rfl, h.ra (x := a) rfl, h.rb (x := b) rfl, h.rf (x := xf) rfl, h.field (n := 2) (lo := 3) (x := k) rfl],
    fun _ => by simp [mayChain, vectorClass, aloneClass, h.major rfl, h.low3 rfl]⟩

theorem Sys2Proof.Laws.Selects.vcne (c : Bool) (d : Reg) (a : Reg) (b : Reg) (xf : Reg) (k : BitVec 2) : Statement (.vcne c d a b xf k) := by
  intro _ _
  have h : Packed (encodeNat (.vcne c d a b xf k))
      [(3, 1), (2, k.toNat), (5, xf.toNat), (5, b.toNat), (5, a.toNat), (5, d.toNat), (6, 36), (1, c.toNat)] :=
    ⟨by change wordOf _ _ = _; simp only [wordOf_cons, wordOf_nil, put_eq, at20_eq, at15_eq, at10_eq, at5_eq, atC_eq, pack_cons, pack_nil]; omega,
      by decide, k.isLt, xf.isLt, b.isLt, a.isLt, d.isLt, by decide, toNat_lt_two c, trivial⟩
  generalize encodeNat (.vcne c d a b xf k) = w at h ⊢
  exact ⟨h.lt rfl, by simp [selectRow, selectLow, selectCompare, h.major rfl, h.low3 rfl, h.chained (c := c) rfl, h.rd (x := d) rfl, h.ra (x := a) rfl, h.rb (x := b) rfl, h.rf (x := xf) rfl, h.field (n := 2) (lo := 3) (x := k) rfl],
    fun _ => by simp [mayChain, vectorClass, aloneClass, h.major rfl, h.low3 rfl]⟩

theorem Sys2Proof.Laws.Selects.vclt (c : Bool) (d : Reg) (a : Reg) (b : Reg) (xf : Reg) (k : BitVec 2) : Statement (.vclt c d a b xf k) := by
  intro _ _
  have h : Packed (encodeNat (.vclt c d a b xf k))
      [(3, 2), (2, k.toNat), (5, xf.toNat), (5, b.toNat), (5, a.toNat), (5, d.toNat), (6, 36), (1, c.toNat)] :=
    ⟨by change wordOf _ _ = _; simp only [wordOf_cons, wordOf_nil, put_eq, at20_eq, at15_eq, at10_eq, at5_eq, atC_eq, pack_cons, pack_nil]; omega,
      by decide, k.isLt, xf.isLt, b.isLt, a.isLt, d.isLt, by decide, toNat_lt_two c, trivial⟩
  generalize encodeNat (.vclt c d a b xf k) = w at h ⊢
  exact ⟨h.lt rfl, by simp [selectRow, selectLow, selectCompare, h.major rfl, h.low3 rfl, h.chained (c := c) rfl, h.rd (x := d) rfl, h.ra (x := a) rfl, h.rb (x := b) rfl, h.rf (x := xf) rfl, h.field (n := 2) (lo := 3) (x := k) rfl],
    fun _ => by simp [mayChain, vectorClass, aloneClass, h.major rfl, h.low3 rfl]⟩

theorem Sys2Proof.Laws.Selects.vcle (c : Bool) (d : Reg) (a : Reg) (b : Reg) (xf : Reg) (k : BitVec 2) : Statement (.vcle c d a b xf k) := by
  intro _ _
  have h : Packed (encodeNat (.vcle c d a b xf k))
      [(3, 3), (2, k.toNat), (5, xf.toNat), (5, b.toNat), (5, a.toNat), (5, d.toNat), (6, 36), (1, c.toNat)] :=
    ⟨by change wordOf _ _ = _; simp only [wordOf_cons, wordOf_nil, put_eq, at20_eq, at15_eq, at10_eq, at5_eq, atC_eq, pack_cons, pack_nil]; omega,
      by decide, k.isLt, xf.isLt, b.isLt, a.isLt, d.isLt, by decide, toNat_lt_two c, trivial⟩
  generalize encodeNat (.vcle c d a b xf k) = w at h ⊢
  exact ⟨h.lt rfl, by simp [selectRow, selectLow, selectCompare, h.major rfl, h.low3 rfl, h.chained (c := c) rfl, h.rd (x := d) rfl, h.ra (x := a) rfl, h.rb (x := b) rfl, h.rf (x := xf) rfl, h.field (n := 2) (lo := 3) (x := k) rfl],
    fun _ => by simp [mayChain, vectorClass, aloneClass, h.major rfl, h.low3 rfl]⟩

theorem Sys2Proof.Laws.Selects.vcgt (c : Bool) (d : Reg) (a : Reg) (b : Reg) (xf : Reg) (k : BitVec 2) : Statement (.vcgt c d a b xf k) := by
  intro _ _
  have h : Packed (encodeNat (.vcgt c d a b xf k))
      [(3, 4), (2, k.toNat), (5, xf.toNat), (5, b.toNat), (5, a.toNat), (5, d.toNat), (6, 36), (1, c.toNat)] :=
    ⟨by change wordOf _ _ = _; simp only [wordOf_cons, wordOf_nil, put_eq, at20_eq, at15_eq, at10_eq, at5_eq, atC_eq, pack_cons, pack_nil]; omega,
      by decide, k.isLt, xf.isLt, b.isLt, a.isLt, d.isLt, by decide, toNat_lt_two c, trivial⟩
  generalize encodeNat (.vcgt c d a b xf k) = w at h ⊢
  exact ⟨h.lt rfl, by simp [selectRow, selectLow, selectCompare, h.major rfl, h.low3 rfl, h.chained (c := c) rfl, h.rd (x := d) rfl, h.ra (x := a) rfl, h.rb (x := b) rfl, h.rf (x := xf) rfl, h.field (n := 2) (lo := 3) (x := k) rfl],
    fun _ => by simp [mayChain, vectorClass, aloneClass, h.major rfl, h.low3 rfl]⟩

theorem Sys2Proof.Laws.Selects.vcge (c : Bool) (d : Reg) (a : Reg) (b : Reg) (xf : Reg) (k : BitVec 2) : Statement (.vcge c d a b xf k) := by
  intro _ _
  have h : Packed (encodeNat (.vcge c d a b xf k))
      [(3, 5), (2, k.toNat), (5, xf.toNat), (5, b.toNat), (5, a.toNat), (5, d.toNat), (6, 36), (1, c.toNat)] :=
    ⟨by change wordOf _ _ = _; simp only [wordOf_cons, wordOf_nil, put_eq, at20_eq, at15_eq, at10_eq, at5_eq, atC_eq, pack_cons, pack_nil]; omega,
      by decide, k.isLt, xf.isLt, b.isLt, a.isLt, d.isLt, by decide, toNat_lt_two c, trivial⟩
  generalize encodeNat (.vcge c d a b xf k) = w at h ⊢
  exact ⟨h.lt rfl, by simp [selectRow, selectLow, selectCompare, h.major rfl, h.low3 rfl, h.chained (c := c) rfl, h.rd (x := d) rfl, h.ra (x := a) rfl, h.rb (x := b) rfl, h.rf (x := xf) rfl, h.field (n := 2) (lo := 3) (x := k) rfl],
    fun _ => by simp [mayChain, vectorClass, aloneClass, h.major rfl, h.low3 rfl]⟩

theorem Sys2Proof.Laws.Selects.vcun (c : Bool) (d : Reg) (a : Reg) (b : Reg) (xf : Reg) (k : BitVec 2) : Statement (.vcun c d a b xf k) := by
  intro _ _
  have h : Packed (encodeNat (.vcun c d a b xf k))
      [(3, 6), (2, k.toNat), (5, xf.toNat), (5, b.toNat), (5, a.toNat), (5, d.toNat), (6, 36), (1, c.toNat)] :=
    ⟨by change wordOf _ _ = _; simp only [wordOf_cons, wordOf_nil, put_eq, at20_eq, at15_eq, at10_eq, at5_eq, atC_eq, pack_cons, pack_nil]; omega,
      by decide, k.isLt, xf.isLt, b.isLt, a.isLt, d.isLt, by decide, toNat_lt_two c, trivial⟩
  generalize encodeNat (.vcun c d a b xf k) = w at h ⊢
  exact ⟨h.lt rfl, by simp [selectRow, selectLow, selectCompare, h.major rfl, h.low3 rfl, h.chained (c := c) rfl, h.rd (x := d) rfl, h.ra (x := a) rfl, h.rb (x := b) rfl, h.rf (x := xf) rfl, h.field (n := 2) (lo := 3) (x := k) rfl],
    fun _ => by simp [mayChain, vectorClass, aloneClass, h.major rfl, h.low3 rfl]⟩

theorem Sys2Proof.Laws.Selects.vsel (c : Bool) (d : Reg) (a : Reg) (b : Reg) (xf : Reg) (k : BitVec 2) : Statement (.vsel c d a b xf k) := by
  intro _ _
  have h : Packed (encodeNat (.vsel c d a b xf k))
      [(3, 0), (2, k.toNat), (5, xf.toNat), (5, b.toNat), (5, a.toNat), (5, d.toNat), (6, 37), (1, c.toNat)] :=
    ⟨by change wordOf _ _ = _; simp only [wordOf_cons, wordOf_nil, put_eq, at20_eq, at15_eq, at10_eq, at5_eq, atC_eq, pack_cons, pack_nil]; omega,
      by decide, k.isLt, xf.isLt, b.isLt, a.isLt, d.isLt, by decide, toNat_lt_two c, trivial⟩
  generalize encodeNat (.vsel c d a b xf k) = w at h ⊢
  exact ⟨h.lt rfl, by simp [selectRow, selectLow, selectMasks, h.major rfl, h.low3 rfl, h.chained (c := c) rfl, h.rd (x := d) rfl, h.ra (x := a) rfl, h.rb (x := b) rfl, h.rf (x := xf) rfl, h.field (n := 2) (lo := 3) (x := k) rfl],
    fun _ => by simp [mayChain, vectorClass, aloneClass, h.major rfl, h.low3 rfl]⟩

theorem Sys2Proof.Laws.Selects.kand (c : Bool) (d : Reg) (a : Reg) (b : Reg) : Statement (.kand c d a b) := by
  intro _ _
  have h : Packed (encodeNat (.kand c d a b))
      [(3, 1), (7, 0), (5, b.toNat), (5, a.toNat), (5, d.toNat), (6, 37), (1, c.toNat)] :=
    ⟨by change wordOf _ _ = _; simp only [wordOf_cons, wordOf_nil, put_eq, at20_eq, at15_eq, at10_eq, at5_eq, atC_eq, pack_cons, pack_nil]; omega,
      by decide, by decide, b.isLt, a.isLt, d.isLt, by decide, toNat_lt_two c, trivial⟩
  generalize encodeNat (.kand c d a b) = w at h ⊢
  exact ⟨h.lt rfl, by simp [selectRow, selectLow, selectMasks, h.major rfl, h.low3 rfl, h.chained (c := c) rfl, h.rd (x := d) rfl, h.ra (x := a) rfl, h.rb (x := b) rfl],
    fun _ => by simp [mayChain, vectorClass, aloneClass, h.major rfl, h.low3 rfl]⟩

theorem Sys2Proof.Laws.Selects.kor (c : Bool) (d : Reg) (a : Reg) (b : Reg) : Statement (.kor c d a b) := by
  intro _ _
  have h : Packed (encodeNat (.kor c d a b))
      [(3, 2), (7, 0), (5, b.toNat), (5, a.toNat), (5, d.toNat), (6, 37), (1, c.toNat)] :=
    ⟨by change wordOf _ _ = _; simp only [wordOf_cons, wordOf_nil, put_eq, at20_eq, at15_eq, at10_eq, at5_eq, atC_eq, pack_cons, pack_nil]; omega,
      by decide, by decide, b.isLt, a.isLt, d.isLt, by decide, toNat_lt_two c, trivial⟩
  generalize encodeNat (.kor c d a b) = w at h ⊢
  exact ⟨h.lt rfl, by simp [selectRow, selectLow, selectMasks, h.major rfl, h.low3 rfl, h.chained (c := c) rfl, h.rd (x := d) rfl, h.ra (x := a) rfl, h.rb (x := b) rfl],
    fun _ => by simp [mayChain, vectorClass, aloneClass, h.major rfl, h.low3 rfl]⟩

theorem Sys2Proof.Laws.Selects.kxor (c : Bool) (d : Reg) (a : Reg) (b : Reg) : Statement (.kxor c d a b) := by
  intro _ _
  have h : Packed (encodeNat (.kxor c d a b))
      [(3, 3), (7, 0), (5, b.toNat), (5, a.toNat), (5, d.toNat), (6, 37), (1, c.toNat)] :=
    ⟨by change wordOf _ _ = _; simp only [wordOf_cons, wordOf_nil, put_eq, at20_eq, at15_eq, at10_eq, at5_eq, atC_eq, pack_cons, pack_nil]; omega,
      by decide, by decide, b.isLt, a.isLt, d.isLt, by decide, toNat_lt_two c, trivial⟩
  generalize encodeNat (.kxor c d a b) = w at h ⊢
  exact ⟨h.lt rfl, by simp [selectRow, selectLow, selectMasks, h.major rfl, h.low3 rfl, h.chained (c := c) rfl, h.rd (x := d) rfl, h.ra (x := a) rfl, h.rb (x := b) rfl],
    fun _ => by simp [mayChain, vectorClass, aloneClass, h.major rfl, h.low3 rfl]⟩

theorem Sys2Proof.Laws.Selects.knot (c : Bool) (d : Reg) (a : Reg) : Statement (.knot c d a) := by
  intro _ _
  have h : Packed (encodeNat (.knot c d a))
      [(3, 4), (12, 0), (5, a.toNat), (5, d.toNat), (6, 37), (1, c.toNat)] :=
    ⟨by change wordOf _ _ = _; simp only [wordOf_cons, wordOf_nil, put_eq, at20_eq, at15_eq, at10_eq, at5_eq, atC_eq, pack_cons, pack_nil]; omega,
      by decide, by decide, a.isLt, d.isLt, by decide, toNat_lt_two c, trivial⟩
  generalize encodeNat (.knot c d a) = w at h ⊢
  exact ⟨h.lt rfl, by simp [selectRow, selectLow, selectMasks, h.major rfl, h.low3 rfl, h.chained (c := c) rfl, h.rd (x := d) rfl, h.ra (x := a) rfl],
    fun _ => by simp [mayChain, vectorClass, aloneClass, h.major rfl, h.low3 rfl]⟩

theorem Sys2Proof.Laws.Selects.kpopc (c : Bool) (d : Reg) (a : Reg) (k : BitVec 2) : Statement (.kpopc c d a k) := by
  intro _ _
  have h : Packed (encodeNat (.kpopc c d a k))
      [(3, 5), (2, k.toNat), (10, 0), (5, a.toNat), (5, d.toNat), (6, 37), (1, c.toNat)] :=
    ⟨by change wordOf _ _ = _; simp only [wordOf_cons, wordOf_nil, put_eq, at20_eq, at15_eq, at10_eq, at5_eq, atC_eq, pack_cons, pack_nil]; omega,
      by decide, k.isLt, by decide, a.isLt, d.isLt, by decide, toNat_lt_two c, trivial⟩
  generalize encodeNat (.kpopc c d a k) = w at h ⊢
  exact ⟨h.lt rfl, by simp [selectRow, selectLow, selectMasks, h.major rfl, h.low3 rfl, h.chained (c := c) rfl, h.rd (x := d) rfl, h.ra (x := a) rfl, h.field (n := 2) (lo := 3) (x := k) rfl],
    fun _ => by simp [mayChain, vectorClass, aloneClass, h.major rfl, h.low3 rfl]⟩

theorem Sys2Proof.Laws.Selects.kfirst (c : Bool) (d : Reg) (a : Reg) (k : BitVec 2) : Statement (.kfirst c d a k) := by
  intro _ _
  have h : Packed (encodeNat (.kfirst c d a k))
      [(3, 6), (2, k.toNat), (10, 0), (5, a.toNat), (5, d.toNat), (6, 37), (1, c.toNat)] :=
    ⟨by change wordOf _ _ = _; simp only [wordOf_cons, wordOf_nil, put_eq, at20_eq, at15_eq, at10_eq, at5_eq, atC_eq, pack_cons, pack_nil]; omega,
      by decide, k.isLt, by decide, a.isLt, d.isLt, by decide, toNat_lt_two c, trivial⟩
  generalize encodeNat (.kfirst c d a k) = w at h ⊢
  exact ⟨h.lt rfl, by simp [selectRow, selectLow, selectMasks, h.major rfl, h.low3 rfl, h.chained (c := c) rfl, h.rd (x := d) rfl, h.ra (x := a) rfl, h.field (n := 2) (lo := 3) (x := k) rfl],
    fun _ => by simp [mayChain, vectorClass, aloneClass, h.major rfl, h.low3 rfl]⟩

theorem Sys2Proof.Laws.Selects.vcvt (c : Bool) (d : Reg) (a : Reg) (xf : Reg) (k : BitVec 2) : Statement (.vcvt c d a xf k) := by
  intro _ _
  have h : Packed (encodeNat (.vcvt c d a xf k))
      [(3, 0), (2, k.toNat), (5, xf.toNat), (5, 0), (5, a.toNat), (5, d.toNat), (6, 38), (1, c.toNat)] :=
    ⟨by change wordOf _ _ = _; simp only [wordOf_cons, wordOf_nil, put_eq, at20_eq, at15_eq, at10_eq, at5_eq, atC_eq, pack_cons, pack_nil]; omega,
      by decide, k.isLt, xf.isLt, by decide, a.isLt, d.isLt, by decide, toNat_lt_two c, trivial⟩
  generalize encodeNat (.vcvt c d a xf k) = w at h ⊢
  exact ⟨h.lt rfl, by simp [selectRow, selectLow, selectConvert, h.major rfl, h.low3 rfl, h.chained (c := c) rfl, h.rd (x := d) rfl, h.ra (x := a) rfl, h.rf (x := xf) rfl, h.field (n := 2) (lo := 3) (x := k) rfl],
    fun _ => by simp [mayChain, vectorClass, aloneClass, h.major rfl, h.low3 rfl]⟩

theorem Sys2Proof.Laws.Selects.vcvtS (c : Bool) (d : Reg) (a : Reg) (b : Reg) (xf : Reg) (k : BitVec 2) : Statement (.vcvtS c d a b xf k) := by
  intro _ _
  have h : Packed (encodeNat (.vcvtS c d a b xf k))
      [(3, 1), (2, k.toNat), (5, xf.toNat), (5, b.toNat), (5, a.toNat), (5, d.toNat), (6, 38), (1, c.toNat)] :=
    ⟨by change wordOf _ _ = _; simp only [wordOf_cons, wordOf_nil, put_eq, at20_eq, at15_eq, at10_eq, at5_eq, atC_eq, pack_cons, pack_nil]; omega,
      by decide, k.isLt, xf.isLt, b.isLt, a.isLt, d.isLt, by decide, toNat_lt_two c, trivial⟩
  generalize encodeNat (.vcvtS c d a b xf k) = w at h ⊢
  exact ⟨h.lt rfl, by simp [selectRow, selectLow, selectConvert, h.major rfl, h.low3 rfl, h.chained (c := c) rfl, h.rd (x := d) rfl, h.ra (x := a) rfl, h.rb (x := b) rfl, h.rf (x := xf) rfl, h.field (n := 2) (lo := 3) (x := k) rfl],
    fun _ => by simp [mayChain, vectorClass, aloneClass, h.major rfl, h.low3 rfl]⟩

theorem Sys2Proof.Laws.Selects.vredsum (c : Bool) (d : Reg) (a : Reg) (xf : Reg) (k : BitVec 2) : Statement (.vredsum c d a xf k) := by
  intro _ _
  have h : Packed (encodeNat (.vredsum c d a xf k))
      [(3, 0), (2, k.toNat), (5, xf.toNat), (5, 0), (5, a.toNat), (5, d.toNat), (6, 39), (1, c.toNat)] :=
    ⟨by change wordOf _ _ = _; simp only [wordOf_cons, wordOf_nil, put_eq, at20_eq, at15_eq, at10_eq, at5_eq, atC_eq, pack_cons, pack_nil]; omega,
      by decide, k.isLt, xf.isLt, by decide, a.isLt, d.isLt, by decide, toNat_lt_two c, trivial⟩
  generalize encodeNat (.vredsum c d a xf k) = w at h ⊢
  exact ⟨h.lt rfl, by simp [selectRow, selectLow, selectReduce, h.major rfl, h.low3 rfl, h.chained (c := c) rfl, h.rd (x := d) rfl, h.ra (x := a) rfl, h.rf (x := xf) rfl, h.field (n := 2) (lo := 3) (x := k) rfl],
    fun _ => by simp [mayChain, vectorClass, aloneClass, h.major rfl, h.low3 rfl]⟩

theorem Sys2Proof.Laws.Selects.vredmin (c : Bool) (d : Reg) (a : Reg) (xf : Reg) (k : BitVec 2) : Statement (.vredmin c d a xf k) := by
  intro _ _
  have h : Packed (encodeNat (.vredmin c d a xf k))
      [(3, 1), (2, k.toNat), (5, xf.toNat), (5, 0), (5, a.toNat), (5, d.toNat), (6, 39), (1, c.toNat)] :=
    ⟨by change wordOf _ _ = _; simp only [wordOf_cons, wordOf_nil, put_eq, at20_eq, at15_eq, at10_eq, at5_eq, atC_eq, pack_cons, pack_nil]; omega,
      by decide, k.isLt, xf.isLt, by decide, a.isLt, d.isLt, by decide, toNat_lt_two c, trivial⟩
  generalize encodeNat (.vredmin c d a xf k) = w at h ⊢
  exact ⟨h.lt rfl, by simp [selectRow, selectLow, selectReduce, h.major rfl, h.low3 rfl, h.chained (c := c) rfl, h.rd (x := d) rfl, h.ra (x := a) rfl, h.rf (x := xf) rfl, h.field (n := 2) (lo := 3) (x := k) rfl],
    fun _ => by simp [mayChain, vectorClass, aloneClass, h.major rfl, h.low3 rfl]⟩

theorem Sys2Proof.Laws.Selects.vredmax (c : Bool) (d : Reg) (a : Reg) (xf : Reg) (k : BitVec 2) : Statement (.vredmax c d a xf k) := by
  intro _ _
  have h : Packed (encodeNat (.vredmax c d a xf k))
      [(3, 2), (2, k.toNat), (5, xf.toNat), (5, 0), (5, a.toNat), (5, d.toNat), (6, 39), (1, c.toNat)] :=
    ⟨by change wordOf _ _ = _; simp only [wordOf_cons, wordOf_nil, put_eq, at20_eq, at15_eq, at10_eq, at5_eq, atC_eq, pack_cons, pack_nil]; omega,
      by decide, k.isLt, xf.isLt, by decide, a.isLt, d.isLt, by decide, toNat_lt_two c, trivial⟩
  generalize encodeNat (.vredmax c d a xf k) = w at h ⊢
  exact ⟨h.lt rfl, by simp [selectRow, selectLow, selectReduce, h.major rfl, h.low3 rfl, h.chained (c := c) rfl, h.rd (x := d) rfl, h.ra (x := a) rfl, h.rf (x := xf) rfl, h.field (n := 2) (lo := 3) (x := k) rfl],
    fun _ => by simp [mayChain, vectorClass, aloneClass, h.major rfl, h.low3 rfl]⟩

theorem Sys2Proof.Laws.Selects.vredand (c : Bool) (d : Reg) (a : Reg) (xf : Reg) (k : BitVec 2) : Statement (.vredand c d a xf k) := by
  intro _ _
  have h : Packed (encodeNat (.vredand c d a xf k))
      [(3, 3), (2, k.toNat), (5, xf.toNat), (5, 0), (5, a.toNat), (5, d.toNat), (6, 39), (1, c.toNat)] :=
    ⟨by change wordOf _ _ = _; simp only [wordOf_cons, wordOf_nil, put_eq, at20_eq, at15_eq, at10_eq, at5_eq, atC_eq, pack_cons, pack_nil]; omega,
      by decide, k.isLt, xf.isLt, by decide, a.isLt, d.isLt, by decide, toNat_lt_two c, trivial⟩
  generalize encodeNat (.vredand c d a xf k) = w at h ⊢
  exact ⟨h.lt rfl, by simp [selectRow, selectLow, selectReduce, h.major rfl, h.low3 rfl, h.chained (c := c) rfl, h.rd (x := d) rfl, h.ra (x := a) rfl, h.rf (x := xf) rfl, h.field (n := 2) (lo := 3) (x := k) rfl],
    fun _ => by simp [mayChain, vectorClass, aloneClass, h.major rfl, h.low3 rfl]⟩

theorem Sys2Proof.Laws.Selects.vredor (c : Bool) (d : Reg) (a : Reg) (xf : Reg) (k : BitVec 2) : Statement (.vredor c d a xf k) := by
  intro _ _
  have h : Packed (encodeNat (.vredor c d a xf k))
      [(3, 4), (2, k.toNat), (5, xf.toNat), (5, 0), (5, a.toNat), (5, d.toNat), (6, 39), (1, c.toNat)] :=
    ⟨by change wordOf _ _ = _; simp only [wordOf_cons, wordOf_nil, put_eq, at20_eq, at15_eq, at10_eq, at5_eq, atC_eq, pack_cons, pack_nil]; omega,
      by decide, k.isLt, xf.isLt, by decide, a.isLt, d.isLt, by decide, toNat_lt_two c, trivial⟩
  generalize encodeNat (.vredor c d a xf k) = w at h ⊢
  exact ⟨h.lt rfl, by simp [selectRow, selectLow, selectReduce, h.major rfl, h.low3 rfl, h.chained (c := c) rfl, h.rd (x := d) rfl, h.ra (x := a) rfl, h.rf (x := xf) rfl, h.field (n := 2) (lo := 3) (x := k) rfl],
    fun _ => by simp [mayChain, vectorClass, aloneClass, h.major rfl, h.low3 rfl]⟩

theorem Sys2Proof.Laws.Selects.vscan (c : Bool) (d : Reg) (a : Reg) (xf : Reg) (k : BitVec 2) : Statement (.vscan c d a xf k) := by
  intro _ _
  have h : Packed (encodeNat (.vscan c d a xf k))
      [(3, 5), (2, k.toNat), (5, xf.toNat), (5, 0), (5, a.toNat), (5, d.toNat), (6, 39), (1, c.toNat)] :=
    ⟨by change wordOf _ _ = _; simp only [wordOf_cons, wordOf_nil, put_eq, at20_eq, at15_eq, at10_eq, at5_eq, atC_eq, pack_cons, pack_nil]; omega,
      by decide, k.isLt, xf.isLt, by decide, a.isLt, d.isLt, by decide, toNat_lt_two c, trivial⟩
  generalize encodeNat (.vscan c d a xf k) = w at h ⊢
  exact ⟨h.lt rfl, by simp [selectRow, selectLow, selectReduce, h.major rfl, h.low3 rfl, h.chained (c := c) rfl, h.rd (x := d) rfl, h.ra (x := a) rfl, h.rf (x := xf) rfl, h.field (n := 2) (lo := 3) (x := k) rfl],
    fun _ => by simp [mayChain, vectorClass, aloneClass, h.major rfl, h.low3 rfl]⟩

theorem Sys2Proof.Laws.Selects.vscanx (c : Bool) (d : Reg) (a : Reg) (xf : Reg) (k : BitVec 2) : Statement (.vscanx c d a xf k) := by
  intro _ _
  have h : Packed (encodeNat (.vscanx c d a xf k))
      [(3, 6), (2, k.toNat), (5, xf.toNat), (5, 0), (5, a.toNat), (5, d.toNat), (6, 39), (1, c.toNat)] :=
    ⟨by change wordOf _ _ = _; simp only [wordOf_cons, wordOf_nil, put_eq, at20_eq, at15_eq, at10_eq, at5_eq, atC_eq, pack_cons, pack_nil]; omega,
      by decide, k.isLt, xf.isLt, by decide, a.isLt, d.isLt, by decide, toNat_lt_two c, trivial⟩
  generalize encodeNat (.vscanx c d a xf k) = w at h ⊢
  exact ⟨h.lt rfl, by simp [selectRow, selectLow, selectReduce, h.major rfl, h.low3 rfl, h.chained (c := c) rfl, h.rd (x := d) rfl, h.ra (x := a) rfl, h.rf (x := xf) rfl, h.field (n := 2) (lo := 3) (x := k) rfl],
    fun _ => by simp [mayChain, vectorClass, aloneClass, h.major rfl, h.low3 rfl]⟩

theorem Sys2Proof.Laws.Selects.vmaxi (c : Bool) (d : Reg) (a : Reg) (xf : Reg) (k : BitVec 2) : Statement (.vmaxi c d a xf k) := by
  intro _ _
  have h : Packed (encodeNat (.vmaxi c d a xf k))
      [(3, 0), (2, k.toNat), (5, xf.toNat), (5, 0), (5, a.toNat), (5, d.toNat), (6, 40), (1, c.toNat)] :=
    ⟨by change wordOf _ _ = _; simp only [wordOf_cons, wordOf_nil, put_eq, at20_eq, at15_eq, at10_eq, at5_eq, atC_eq, pack_cons, pack_nil]; omega,
      by decide, k.isLt, xf.isLt, by decide, a.isLt, d.isLt, by decide, toNat_lt_two c, trivial⟩
  generalize encodeNat (.vmaxi c d a xf k) = w at h ⊢
  exact ⟨h.lt rfl, by simp [selectRow, selectLow, selectMaxIndex, h.major rfl, h.low3 rfl, h.chained (c := c) rfl, h.rd (x := d) rfl, h.ra (x := a) rfl, h.rf (x := xf) rfl, h.field (n := 2) (lo := 3) (x := k) rfl],
    fun _ => by simp [mayChain, vectorClass, aloneClass, h.major rfl, h.low3 rfl]⟩

theorem Sys2Proof.Laws.Selects.vmini (c : Bool) (d : Reg) (a : Reg) (xf : Reg) (k : BitVec 2) : Statement (.vmini c d a xf k) := by
  intro _ _
  have h : Packed (encodeNat (.vmini c d a xf k))
      [(3, 1), (2, k.toNat), (5, xf.toNat), (5, 0), (5, a.toNat), (5, d.toNat), (6, 40), (1, c.toNat)] :=
    ⟨by change wordOf _ _ = _; simp only [wordOf_cons, wordOf_nil, put_eq, at20_eq, at15_eq, at10_eq, at5_eq, atC_eq, pack_cons, pack_nil]; omega,
      by decide, k.isLt, xf.isLt, by decide, a.isLt, d.isLt, by decide, toNat_lt_two c, trivial⟩
  generalize encodeNat (.vmini c d a xf k) = w at h ⊢
  exact ⟨h.lt rfl, by simp [selectRow, selectLow, selectMaxIndex, h.major rfl, h.low3 rfl, h.chained (c := c) rfl, h.rd (x := d) rfl, h.ra (x := a) rfl, h.rf (x := xf) rfl, h.field (n := 2) (lo := 3) (x := k) rfl],
    fun _ => by simp [mayChain, vectorClass, aloneClass, h.major rfl, h.low3 rfl]⟩

theorem Sys2Proof.Laws.Selects.vmaxic (c : Bool) (d : Reg) (a : Reg) (xf : Reg) (k : BitVec 2) : Statement (.vmaxic c d a xf k) := by
  intro _ _
  have h : Packed (encodeNat (.vmaxic c d a xf k))
      [(3, 2), (2, k.toNat), (5, xf.toNat), (5, 0), (5, a.toNat), (5, d.toNat), (6, 40), (1, c.toNat)] :=
    ⟨by change wordOf _ _ = _; simp only [wordOf_cons, wordOf_nil, put_eq, at20_eq, at15_eq, at10_eq, at5_eq, atC_eq, pack_cons, pack_nil]; omega,
      by decide, k.isLt, xf.isLt, by decide, a.isLt, d.isLt, by decide, toNat_lt_two c, trivial⟩
  generalize encodeNat (.vmaxic c d a xf k) = w at h ⊢
  exact ⟨h.lt rfl, by simp [selectRow, selectLow, selectMaxIndex, h.major rfl, h.low3 rfl, h.chained (c := c) rfl, h.rd (x := d) rfl, h.ra (x := a) rfl, h.rf (x := xf) rfl, h.field (n := 2) (lo := 3) (x := k) rfl],
    fun _ => by simp [mayChain, vectorClass, aloneClass, h.major rfl, h.low3 rfl]⟩

theorem Sys2Proof.Laws.Selects.vperm (c : Bool) (d : Reg) (a : Reg) (b : Reg) (xf : Reg) (k : BitVec 2) : Statement (.vperm c d a b xf k) := by
  intro _ _
  have h : Packed (encodeNat (.vperm c d a b xf k))
      [(3, 0), (2, k.toNat), (5, xf.toNat), (5, b.toNat), (5, a.toNat), (5, d.toNat), (6, 41), (1, c.toNat)] :=
    ⟨by change wordOf _ _ = _; simp only [wordOf_cons, wordOf_nil, put_eq, at20_eq, at15_eq, at10_eq, at5_eq, atC_eq, pack_cons, pack_nil]; omega,
      by decide, k.isLt, xf.isLt, b.isLt, a.isLt, d.isLt, by decide, toNat_lt_two c, trivial⟩
  generalize encodeNat (.vperm c d a b xf k) = w at h ⊢
  exact ⟨h.lt rfl, by simp [selectRow, selectLow, selectPermute, h.major rfl, h.low3 rfl, h.chained (c := c) rfl, h.rd (x := d) rfl, h.ra (x := a) rfl, h.rb (x := b) rfl, h.rf (x := xf) rfl, h.field (n := 2) (lo := 3) (x := k) rfl],
    fun _ => by simp [mayChain, vectorClass, aloneClass, h.major rfl, h.low3 rfl]⟩

theorem Sys2Proof.Laws.Selects.vslideup (c : Bool) (d : Reg) (a : Reg) (b : Reg) (xf : Reg) (k : BitVec 2) : Statement (.vslideup c d a b xf k) := by
  intro _ _
  have h : Packed (encodeNat (.vslideup c d a b xf k))
      [(3, 1), (2, k.toNat), (5, xf.toNat), (5, b.toNat), (5, a.toNat), (5, d.toNat), (6, 41), (1, c.toNat)] :=
    ⟨by change wordOf _ _ = _; simp only [wordOf_cons, wordOf_nil, put_eq, at20_eq, at15_eq, at10_eq, at5_eq, atC_eq, pack_cons, pack_nil]; omega,
      by decide, k.isLt, xf.isLt, b.isLt, a.isLt, d.isLt, by decide, toNat_lt_two c, trivial⟩
  generalize encodeNat (.vslideup c d a b xf k) = w at h ⊢
  exact ⟨h.lt rfl, by simp [selectRow, selectLow, selectPermute, h.major rfl, h.low3 rfl, h.chained (c := c) rfl, h.rd (x := d) rfl, h.ra (x := a) rfl, h.rb (x := b) rfl, h.rf (x := xf) rfl, h.field (n := 2) (lo := 3) (x := k) rfl],
    fun _ => by simp [mayChain, vectorClass, aloneClass, h.major rfl, h.low3 rfl]⟩

theorem Sys2Proof.Laws.Selects.vslidedn (c : Bool) (d : Reg) (a : Reg) (b : Reg) (xf : Reg) (k : BitVec 2) : Statement (.vslidedn c d a b xf k) := by
  intro _ _
  have h : Packed (encodeNat (.vslidedn c d a b xf k))
      [(3, 2), (2, k.toNat), (5, xf.toNat), (5, b.toNat), (5, a.toNat), (5, d.toNat), (6, 41), (1, c.toNat)] :=
    ⟨by change wordOf _ _ = _; simp only [wordOf_cons, wordOf_nil, put_eq, at20_eq, at15_eq, at10_eq, at5_eq, atC_eq, pack_cons, pack_nil]; omega,
      by decide, k.isLt, xf.isLt, b.isLt, a.isLt, d.isLt, by decide, toNat_lt_two c, trivial⟩
  generalize encodeNat (.vslidedn c d a b xf k) = w at h ⊢
  exact ⟨h.lt rfl, by simp [selectRow, selectLow, selectPermute, h.major rfl, h.low3 rfl, h.chained (c := c) rfl, h.rd (x := d) rfl, h.ra (x := a) rfl, h.rb (x := b) rfl, h.rf (x := xf) rfl, h.field (n := 2) (lo := 3) (x := k) rfl],
    fun _ => by simp [mayChain, vectorClass, aloneClass, h.major rfl, h.low3 rfl]⟩

theorem Sys2Proof.Laws.Selects.vbcast (c : Bool) (d : Reg) (a : Reg) (xf : Reg) (k : BitVec 2) : Statement (.vbcast c d a xf k) := by
  intro _ _
  have h : Packed (encodeNat (.vbcast c d a xf k))
      [(3, 3), (2, k.toNat), (5, xf.toNat), (5, 0), (5, a.toNat), (5, d.toNat), (6, 41), (1, c.toNat)] :=
    ⟨by change wordOf _ _ = _; simp only [wordOf_cons, wordOf_nil, put_eq, at20_eq, at15_eq, at10_eq, at5_eq, atC_eq, pack_cons, pack_nil]; omega,
      by decide, k.isLt, xf.isLt, by decide, a.isLt, d.isLt, by decide, toNat_lt_two c, trivial⟩
  generalize encodeNat (.vbcast c d a xf k) = w at h ⊢
  exact ⟨h.lt rfl, by simp [selectRow, selectLow, selectPermute, h.major rfl, h.low3 rfl, h.chained (c := c) rfl, h.rd (x := d) rfl, h.ra (x := a) rfl, h.rf (x := xf) rfl, h.field (n := 2) (lo := 3) (x := k) rfl],
    fun _ => by simp [mayChain, vectorClass, aloneClass, h.major rfl, h.low3 rfl]⟩

theorem Sys2Proof.Laws.Selects.vmvxs (c : Bool) (d : Reg) (a : Reg) (xf : Reg) (k : BitVec 2) : Statement (.vmvxs c d a xf k) := by
  intro _ _
  have h : Packed (encodeNat (.vmvxs c d a xf k))
      [(3, 4), (2, k.toNat), (5, xf.toNat), (5, 0), (5, a.toNat), (5, d.toNat), (6, 41), (1, c.toNat)] :=
    ⟨by change wordOf _ _ = _; simp only [wordOf_cons, wordOf_nil, put_eq, at20_eq, at15_eq, at10_eq, at5_eq, atC_eq, pack_cons, pack_nil]; omega,
      by decide, k.isLt, xf.isLt, by decide, a.isLt, d.isLt, by decide, toNat_lt_two c, trivial⟩
  generalize encodeNat (.vmvxs c d a xf k) = w at h ⊢
  exact ⟨h.lt rfl, by simp [selectRow, selectLow, selectPermute, h.major rfl, h.low3 rfl, h.chained (c := c) rfl, h.rd (x := d) rfl, h.ra (x := a) rfl, h.rf (x := xf) rfl, h.field (n := 2) (lo := 3) (x := k) rfl],
    fun _ => by simp [mayChain, vectorClass, aloneClass, h.major rfl, h.low3 rfl]⟩

theorem Sys2Proof.Laws.Selects.vmvsx (c : Bool) (d : Reg) (a : Reg) (xf : Reg) (k : BitVec 2) : Statement (.vmvsx c d a xf k) := by
  intro _ _
  have h : Packed (encodeNat (.vmvsx c d a xf k))
      [(3, 5), (2, k.toNat), (5, xf.toNat), (5, 0), (5, a.toNat), (5, d.toNat), (6, 41), (1, c.toNat)] :=
    ⟨by change wordOf _ _ = _; simp only [wordOf_cons, wordOf_nil, put_eq, at20_eq, at15_eq, at10_eq, at5_eq, atC_eq, pack_cons, pack_nil]; omega,
      by decide, k.isLt, xf.isLt, by decide, a.isLt, d.isLt, by decide, toNat_lt_two c, trivial⟩
  generalize encodeNat (.vmvsx c d a xf k) = w at h ⊢
  exact ⟨h.lt rfl, by simp [selectRow, selectLow, selectPermute, h.major rfl, h.low3 rfl, h.chained (c := c) rfl, h.rd (x := d) rfl, h.ra (x := a) rfl, h.rf (x := xf) rfl, h.field (n := 2) (lo := 3) (x := k) rfl],
    fun _ => by simp [mayChain, vectorClass, aloneClass, h.major rfl, h.low3 rfl]⟩

theorem Sys2Proof.Laws.Selects.vcompress (c : Bool) (d : Reg) (a : Reg) (xf : Reg) (k : BitVec 2) : Statement (.vcompress c d a xf k) := by
  intro _ _
  have h : Packed (encodeNat (.vcompress c d a xf k))
      [(3, 6), (2, k.toNat), (5, xf.toNat), (5, 0), (5, a.toNat), (5, d.toNat), (6, 41), (1, c.toNat)] :=
    ⟨by change wordOf _ _ = _; simp only [wordOf_cons, wordOf_nil, put_eq, at20_eq, at15_eq, at10_eq, at5_eq, atC_eq, pack_cons, pack_nil]; omega,
      by decide, k.isLt, xf.isLt, by decide, a.isLt, d.isLt, by decide, toNat_lt_two c, trivial⟩
  generalize encodeNat (.vcompress c d a xf k) = w at h ⊢
  exact ⟨h.lt rfl, by simp [selectRow, selectLow, selectPermute, h.major rfl, h.low3 rfl, h.chained (c := c) rfl, h.rd (x := d) rfl, h.ra (x := a) rfl, h.rf (x := xf) rfl, h.field (n := 2) (lo := 3) (x := k) rfl],
    fun _ => by simp [mayChain, vectorClass, aloneClass, h.major rfl, h.low3 rfl]⟩

theorem Sys2Proof.Laws.Selects.vid (c : Bool) (d : Reg) (xf : Reg) (k : BitVec 2) : Statement (.vid c d xf k) := by
  intro _ _
  have h : Packed (encodeNat (.vid c d xf k))
      [(3, 7), (2, k.toNat), (5, xf.toNat), (10, 0), (5, d.toNat), (6, 41), (1, c.toNat)] :=
    ⟨by change wordOf _ _ = _; simp only [wordOf_cons, wordOf_nil, put_eq, at20_eq, at15_eq, at10_eq, at5_eq, atC_eq, pack_cons, pack_nil]; omega,
      by decide, k.isLt, xf.isLt, by decide, d.isLt, by decide, toNat_lt_two c, trivial⟩
  generalize encodeNat (.vid c d xf k) = w at h ⊢
  exact ⟨h.lt rfl, by simp [selectRow, selectLow, selectPermute, h.major rfl, h.low3 rfl, h.chained (c := c) rfl, h.rd (x := d) rfl, h.rf (x := xf) rfl, h.field (n := 2) (lo := 3) (x := k) rfl],
    fun _ => by simp [mayChain, vectorClass, aloneClass, h.major rfl, h.low3 rfl]⟩

theorem Sys2Proof.Laws.Selects.vexp2 (c : Bool) (d : Reg) (a : Reg) (xf : Reg) (k : BitVec 2) : Statement (.vexp2 c d a xf k) := by
  intro _ _
  have h : Packed (encodeNat (.vexp2 c d a xf k))
      [(3, 0), (2, k.toNat), (5, xf.toNat), (5, 0), (5, a.toNat), (5, d.toNat), (6, 42), (1, c.toNat)] :=
    ⟨by change wordOf _ _ = _; simp only [wordOf_cons, wordOf_nil, put_eq, at20_eq, at15_eq, at10_eq, at5_eq, atC_eq, pack_cons, pack_nil]; omega,
      by decide, k.isLt, xf.isLt, by decide, a.isLt, d.isLt, by decide, toNat_lt_two c, trivial⟩
  generalize encodeNat (.vexp2 c d a xf k) = w at h ⊢
  exact ⟨h.lt rfl, by simp [selectRow, selectLow, selectTranscendental, h.major rfl, h.low3 rfl, h.chained (c := c) rfl, h.rd (x := d) rfl, h.ra (x := a) rfl, h.rf (x := xf) rfl, h.field (n := 2) (lo := 3) (x := k) rfl],
    fun _ => by simp [mayChain, vectorClass, aloneClass, h.major rfl, h.low3 rfl]⟩

theorem Sys2Proof.Laws.Selects.vlog2 (c : Bool) (d : Reg) (a : Reg) (xf : Reg) (k : BitVec 2) : Statement (.vlog2 c d a xf k) := by
  intro _ _
  have h : Packed (encodeNat (.vlog2 c d a xf k))
      [(3, 1), (2, k.toNat), (5, xf.toNat), (5, 0), (5, a.toNat), (5, d.toNat), (6, 42), (1, c.toNat)] :=
    ⟨by change wordOf _ _ = _; simp only [wordOf_cons, wordOf_nil, put_eq, at20_eq, at15_eq, at10_eq, at5_eq, atC_eq, pack_cons, pack_nil]; omega,
      by decide, k.isLt, xf.isLt, by decide, a.isLt, d.isLt, by decide, toNat_lt_two c, trivial⟩
  generalize encodeNat (.vlog2 c d a xf k) = w at h ⊢
  exact ⟨h.lt rfl, by simp [selectRow, selectLow, selectTranscendental, h.major rfl, h.low3 rfl, h.chained (c := c) rfl, h.rd (x := d) rfl, h.ra (x := a) rfl, h.rf (x := xf) rfl, h.field (n := 2) (lo := 3) (x := k) rfl],
    fun _ => by simp [mayChain, vectorClass, aloneClass, h.major rfl, h.low3 rfl]⟩

theorem Sys2Proof.Laws.Selects.vrcp (c : Bool) (d : Reg) (a : Reg) (xf : Reg) (k : BitVec 2) : Statement (.vrcp c d a xf k) := by
  intro _ _
  have h : Packed (encodeNat (.vrcp c d a xf k))
      [(3, 2), (2, k.toNat), (5, xf.toNat), (5, 0), (5, a.toNat), (5, d.toNat), (6, 42), (1, c.toNat)] :=
    ⟨by change wordOf _ _ = _; simp only [wordOf_cons, wordOf_nil, put_eq, at20_eq, at15_eq, at10_eq, at5_eq, atC_eq, pack_cons, pack_nil]; omega,
      by decide, k.isLt, xf.isLt, by decide, a.isLt, d.isLt, by decide, toNat_lt_two c, trivial⟩
  generalize encodeNat (.vrcp c d a xf k) = w at h ⊢
  exact ⟨h.lt rfl, by simp [selectRow, selectLow, selectTranscendental, h.major rfl, h.low3 rfl, h.chained (c := c) rfl, h.rd (x := d) rfl, h.ra (x := a) rfl, h.rf (x := xf) rfl, h.field (n := 2) (lo := 3) (x := k) rfl],
    fun _ => by simp [mayChain, vectorClass, aloneClass, h.major rfl, h.low3 rfl]⟩

theorem Sys2Proof.Laws.Selects.vrsqrt (c : Bool) (d : Reg) (a : Reg) (xf : Reg) (k : BitVec 2) : Statement (.vrsqrt c d a xf k) := by
  intro _ _
  have h : Packed (encodeNat (.vrsqrt c d a xf k))
      [(3, 3), (2, k.toNat), (5, xf.toNat), (5, 0), (5, a.toNat), (5, d.toNat), (6, 42), (1, c.toNat)] :=
    ⟨by change wordOf _ _ = _; simp only [wordOf_cons, wordOf_nil, put_eq, at20_eq, at15_eq, at10_eq, at5_eq, atC_eq, pack_cons, pack_nil]; omega,
      by decide, k.isLt, xf.isLt, by decide, a.isLt, d.isLt, by decide, toNat_lt_two c, trivial⟩
  generalize encodeNat (.vrsqrt c d a xf k) = w at h ⊢
  exact ⟨h.lt rfl, by simp [selectRow, selectLow, selectTranscendental, h.major rfl, h.low3 rfl, h.chained (c := c) rfl, h.rd (x := d) rfl, h.ra (x := a) rfl, h.rf (x := xf) rfl, h.field (n := 2) (lo := 3) (x := k) rfl],
    fun _ => by simp [mayChain, vectorClass, aloneClass, h.major rfl, h.low3 rfl]⟩

theorem Sys2Proof.Laws.Selects.vld (c : Bool) (d : Reg) (a : Reg) (st : BitVec 2) (k : BitVec 2) : Statement (.vld c d a st k) := by
  intro _ _
  have h : Packed (encodeNat (.vld c d a st k))
      [(3, 0), (2, k.toNat), (3, 0), (2, st.toNat), (5, 0), (5, a.toNat), (5, d.toNat), (6, 44), (1, c.toNat)] :=
    ⟨by change wordOf _ _ = _; simp only [wordOf_cons, wordOf_nil, put_eq, at20_eq, at15_eq, at10_eq, at5_eq, atC_eq, pack_cons, pack_nil]; omega,
      by decide, k.isLt, by decide, st.isLt, by decide, a.isLt, d.isLt, by decide, toNat_lt_two c, trivial⟩
  generalize encodeNat (.vld c d a st k) = w at h ⊢
  exact ⟨h.lt rfl, by simp [selectRow, selectLow, selectVectorLoad, h.major rfl, h.low3 rfl, h.chained (c := c) rfl, h.rd (x := d) rfl, h.ra (x := a) rfl, h.field (n := 2) (lo := 8) (x := st) rfl, h.field (n := 2) (lo := 3) (x := k) rfl],
    fun _ => by simp [mayChain, vectorClass, aloneClass, h.major rfl, h.low3 rfl]⟩

theorem Sys2Proof.Laws.Selects.vlds (c : Bool) (d : Reg) (a : Reg) (b : Reg) (st : BitVec 2) (k : BitVec 2) : Statement (.vlds c d a b st k) := by
  intro _ _
  have h : Packed (encodeNat (.vlds c d a b st k))
      [(3, 1), (2, k.toNat), (3, 0), (2, st.toNat), (5, b.toNat), (5, a.toNat), (5, d.toNat), (6, 44), (1, c.toNat)] :=
    ⟨by change wordOf _ _ = _; simp only [wordOf_cons, wordOf_nil, put_eq, at20_eq, at15_eq, at10_eq, at5_eq, atC_eq, pack_cons, pack_nil]; omega,
      by decide, k.isLt, by decide, st.isLt, b.isLt, a.isLt, d.isLt, by decide, toNat_lt_two c, trivial⟩
  generalize encodeNat (.vlds c d a b st k) = w at h ⊢
  exact ⟨h.lt rfl, by simp [selectRow, selectLow, selectVectorLoad, h.major rfl, h.low3 rfl, h.chained (c := c) rfl, h.rd (x := d) rfl, h.ra (x := a) rfl, h.rb (x := b) rfl, h.field (n := 2) (lo := 8) (x := st) rfl, h.field (n := 2) (lo := 3) (x := k) rfl],
    fun _ => by simp [mayChain, vectorClass, aloneClass, h.major rfl, h.low3 rfl]⟩

theorem Sys2Proof.Laws.Selects.vldx (c : Bool) (d : Reg) (a : Reg) (b : Reg) (st : BitVec 2) (k : BitVec 2) : Statement (.vldx c d a b st k) := by
  intro _ _
  have h : Packed (encodeNat (.vldx c d a b st k))
      [(3, 2), (2, k.toNat), (3, 0), (2, st.toNat), (5, b.toNat), (5, a.toNat), (5, d.toNat), (6, 44), (1, c.toNat)] :=
    ⟨by change wordOf _ _ = _; simp only [wordOf_cons, wordOf_nil, put_eq, at20_eq, at15_eq, at10_eq, at5_eq, atC_eq, pack_cons, pack_nil]; omega,
      by decide, k.isLt, by decide, st.isLt, b.isLt, a.isLt, d.isLt, by decide, toNat_lt_two c, trivial⟩
  generalize encodeNat (.vldx c d a b st k) = w at h ⊢
  exact ⟨h.lt rfl, by simp [selectRow, selectLow, selectVectorLoad, h.major rfl, h.low3 rfl, h.chained (c := c) rfl, h.rd (x := d) rfl, h.ra (x := a) rfl, h.rb (x := b) rfl, h.field (n := 2) (lo := 8) (x := st) rfl, h.field (n := 2) (lo := 3) (x := k) rfl],
    fun _ => by simp [mayChain, vectorClass, aloneClass, h.major rfl, h.low3 rfl]⟩

theorem Sys2Proof.Laws.Selects.vldsp (c : Bool) (d : Reg) (a : Reg) (st : BitVec 2) (k : BitVec 2) : Statement (.vldsp c d a st k) := by
  intro _ _
  have h : Packed (encodeNat (.vldsp c d a st k))
      [(3, 3), (2, k.toNat), (3, 0), (2, st.toNat), (5, 0), (5, a.toNat), (5, d.toNat), (6, 44), (1, c.toNat)] :=
    ⟨by change wordOf _ _ = _; simp only [wordOf_cons, wordOf_nil, put_eq, at20_eq, at15_eq, at10_eq, at5_eq, atC_eq, pack_cons, pack_nil]; omega,
      by decide, k.isLt, by decide, st.isLt, by decide, a.isLt, d.isLt, by decide, toNat_lt_two c, trivial⟩
  generalize encodeNat (.vldsp c d a st k) = w at h ⊢
  exact ⟨h.lt rfl, by simp [selectRow, selectLow, selectVectorLoad, h.major rfl, h.low3 rfl, h.chained (c := c) rfl, h.rd (x := d) rfl, h.ra (x := a) rfl, h.field (n := 2) (lo := 8) (x := st) rfl, h.field (n := 2) (lo := 3) (x := k) rfl],
    fun _ => by simp [mayChain, vectorClass, aloneClass, h.major rfl, h.low3 rfl]⟩

theorem Sys2Proof.Laws.Selects.vldm (c : Bool) (d : Reg) (a : Reg) (k : BitVec 2) : Statement (.vldm c d a k) := by
  intro _ _
  have h : Packed (encodeNat (.vldm c d a k))
      [(3, 4), (2, k.toNat), (10, 0), (5, a.toNat), (5, d.toNat), (6, 44), (1, c.toNat)] :=
    ⟨by change wordOf _ _ = _; simp only [wordOf_cons, wordOf_nil, put_eq, at20_eq, at15_eq, at10_eq, at5_eq, atC_eq, pack_cons, pack_nil]; omega,
      by decide, k.isLt, by decide, a.isLt, d.isLt, by decide, toNat_lt_two c, trivial⟩
  generalize encodeNat (.vldm c d a k) = w at h ⊢
  exact ⟨h.lt rfl, by simp [selectRow, selectLow, selectVectorLoad, h.major rfl, h.low3 rfl, h.chained (c := c) rfl, h.rd (x := d) rfl, h.ra (x := a) rfl, h.field (n := 2) (lo := 3) (x := k) rfl],
    fun _ => by simp [mayChain, vectorClass, aloneClass, h.major rfl, h.low3 rfl]⟩

theorem Sys2Proof.Laws.Selects.vldxsp (c : Bool) (d : Reg) (a : Reg) (b : Reg) (st : BitVec 2) (k : BitVec 2) : Statement (.vldxsp c d a b st k) := by
  intro _ _
  have h : Packed (encodeNat (.vldxsp c d a b st k))
      [(3, 5), (2, k.toNat), (3, 0), (2, st.toNat), (5, b.toNat), (5, a.toNat), (5, d.toNat), (6, 44), (1, c.toNat)] :=
    ⟨by change wordOf _ _ = _; simp only [wordOf_cons, wordOf_nil, put_eq, at20_eq, at15_eq, at10_eq, at5_eq, atC_eq, pack_cons, pack_nil]; omega,
      by decide, k.isLt, by decide, st.isLt, b.isLt, a.isLt, d.isLt, by decide, toNat_lt_two c, trivial⟩
  generalize encodeNat (.vldxsp c d a b st k) = w at h ⊢
  exact ⟨h.lt rfl, by simp [selectRow, selectLow, selectVectorLoad, h.major rfl, h.low3 rfl, h.chained (c := c) rfl, h.rd (x := d) rfl, h.ra (x := a) rfl, h.rb (x := b) rfl, h.field (n := 2) (lo := 8) (x := st) rfl, h.field (n := 2) (lo := 3) (x := k) rfl],
    fun _ => by simp [mayChain, vectorClass, aloneClass, h.major rfl, h.low3 rfl]⟩

theorem Sys2Proof.Laws.Selects.vst (c : Bool) (d : Reg) (a : Reg) (st : BitVec 2) (k : BitVec 2) : Statement (.vst c d a st k) := by
  intro _ _
  have h : Packed (encodeNat (.vst c d a st k))
      [(3, 0), (2, k.toNat), (3, 0), (2, st.toNat), (5, 0), (5, a.toNat), (5, d.toNat), (6, 45), (1, c.toNat)] :=
    ⟨by change wordOf _ _ = _; simp only [wordOf_cons, wordOf_nil, put_eq, at20_eq, at15_eq, at10_eq, at5_eq, atC_eq, pack_cons, pack_nil]; omega,
      by decide, k.isLt, by decide, st.isLt, by decide, a.isLt, d.isLt, by decide, toNat_lt_two c, trivial⟩
  generalize encodeNat (.vst c d a st k) = w at h ⊢
  exact ⟨h.lt rfl, by simp [selectRow, selectLow, selectVectorStore, h.major rfl, h.low3 rfl, h.chained (c := c) rfl, h.rd (x := d) rfl, h.ra (x := a) rfl, h.field (n := 2) (lo := 8) (x := st) rfl, h.field (n := 2) (lo := 3) (x := k) rfl],
    fun _ => by simp [mayChain, vectorClass, aloneClass, h.major rfl, h.low3 rfl]⟩

theorem Sys2Proof.Laws.Selects.vsts (c : Bool) (d : Reg) (a : Reg) (b : Reg) (st : BitVec 2) (k : BitVec 2) : Statement (.vsts c d a b st k) := by
  intro _ _
  have h : Packed (encodeNat (.vsts c d a b st k))
      [(3, 1), (2, k.toNat), (3, 0), (2, st.toNat), (5, b.toNat), (5, a.toNat), (5, d.toNat), (6, 45), (1, c.toNat)] :=
    ⟨by change wordOf _ _ = _; simp only [wordOf_cons, wordOf_nil, put_eq, at20_eq, at15_eq, at10_eq, at5_eq, atC_eq, pack_cons, pack_nil]; omega,
      by decide, k.isLt, by decide, st.isLt, b.isLt, a.isLt, d.isLt, by decide, toNat_lt_two c, trivial⟩
  generalize encodeNat (.vsts c d a b st k) = w at h ⊢
  exact ⟨h.lt rfl, by simp [selectRow, selectLow, selectVectorStore, h.major rfl, h.low3 rfl, h.chained (c := c) rfl, h.rd (x := d) rfl, h.ra (x := a) rfl, h.rb (x := b) rfl, h.field (n := 2) (lo := 8) (x := st) rfl, h.field (n := 2) (lo := 3) (x := k) rfl],
    fun _ => by simp [mayChain, vectorClass, aloneClass, h.major rfl, h.low3 rfl]⟩

theorem Sys2Proof.Laws.Selects.vstx (c : Bool) (d : Reg) (a : Reg) (b : Reg) (st : BitVec 2) (k : BitVec 2) : Statement (.vstx c d a b st k) := by
  intro _ _
  have h : Packed (encodeNat (.vstx c d a b st k))
      [(3, 2), (2, k.toNat), (3, 0), (2, st.toNat), (5, b.toNat), (5, a.toNat), (5, d.toNat), (6, 45), (1, c.toNat)] :=
    ⟨by change wordOf _ _ = _; simp only [wordOf_cons, wordOf_nil, put_eq, at20_eq, at15_eq, at10_eq, at5_eq, atC_eq, pack_cons, pack_nil]; omega,
      by decide, k.isLt, by decide, st.isLt, b.isLt, a.isLt, d.isLt, by decide, toNat_lt_two c, trivial⟩
  generalize encodeNat (.vstx c d a b st k) = w at h ⊢
  exact ⟨h.lt rfl, by simp [selectRow, selectLow, selectVectorStore, h.major rfl, h.low3 rfl, h.chained (c := c) rfl, h.rd (x := d) rfl, h.ra (x := a) rfl, h.rb (x := b) rfl, h.field (n := 2) (lo := 8) (x := st) rfl, h.field (n := 2) (lo := 3) (x := k) rfl],
    fun _ => by simp [mayChain, vectorClass, aloneClass, h.major rfl, h.low3 rfl]⟩

theorem Sys2Proof.Laws.Selects.vstsp (c : Bool) (d : Reg) (a : Reg) (st : BitVec 2) (k : BitVec 2) : Statement (.vstsp c d a st k) := by
  intro _ _
  have h : Packed (encodeNat (.vstsp c d a st k))
      [(3, 3), (2, k.toNat), (3, 0), (2, st.toNat), (5, 0), (5, a.toNat), (5, d.toNat), (6, 45), (1, c.toNat)] :=
    ⟨by change wordOf _ _ = _; simp only [wordOf_cons, wordOf_nil, put_eq, at20_eq, at15_eq, at10_eq, at5_eq, atC_eq, pack_cons, pack_nil]; omega,
      by decide, k.isLt, by decide, st.isLt, by decide, a.isLt, d.isLt, by decide, toNat_lt_two c, trivial⟩
  generalize encodeNat (.vstsp c d a st k) = w at h ⊢
  exact ⟨h.lt rfl, by simp [selectRow, selectLow, selectVectorStore, h.major rfl, h.low3 rfl, h.chained (c := c) rfl, h.rd (x := d) rfl, h.ra (x := a) rfl, h.field (n := 2) (lo := 8) (x := st) rfl, h.field (n := 2) (lo := 3) (x := k) rfl],
    fun _ => by simp [mayChain, vectorClass, aloneClass, h.major rfl, h.low3 rfl]⟩

theorem Sys2Proof.Laws.Selects.vstm (c : Bool) (d : Reg) (a : Reg) (k : BitVec 2) : Statement (.vstm c d a k) := by
  intro _ _
  have h : Packed (encodeNat (.vstm c d a k))
      [(3, 4), (2, k.toNat), (10, 0), (5, a.toNat), (5, d.toNat), (6, 45), (1, c.toNat)] :=
    ⟨by change wordOf _ _ = _; simp only [wordOf_cons, wordOf_nil, put_eq, at20_eq, at15_eq, at10_eq, at5_eq, atC_eq, pack_cons, pack_nil]; omega,
      by decide, k.isLt, by decide, a.isLt, d.isLt, by decide, toNat_lt_two c, trivial⟩
  generalize encodeNat (.vstm c d a k) = w at h ⊢
  exact ⟨h.lt rfl, by simp [selectRow, selectLow, selectVectorStore, h.major rfl, h.low3 rfl, h.chained (c := c) rfl, h.rd (x := d) rfl, h.ra (x := a) rfl, h.field (n := 2) (lo := 3) (x := k) rfl],
    fun _ => by simp [mayChain, vectorClass, aloneClass, h.major rfl, h.low3 rfl]⟩

theorem Sys2Proof.Laws.Selects.vstxsp (c : Bool) (d : Reg) (a : Reg) (b : Reg) (st : BitVec 2) (k : BitVec 2) : Statement (.vstxsp c d a b st k) := by
  intro _ _
  have h : Packed (encodeNat (.vstxsp c d a b st k))
      [(3, 5), (2, k.toNat), (3, 0), (2, st.toNat), (5, b.toNat), (5, a.toNat), (5, d.toNat), (6, 45), (1, c.toNat)] :=
    ⟨by change wordOf _ _ = _; simp only [wordOf_cons, wordOf_nil, put_eq, at20_eq, at15_eq, at10_eq, at5_eq, atC_eq, pack_cons, pack_nil]; omega,
      by decide, k.isLt, by decide, st.isLt, b.isLt, a.isLt, d.isLt, by decide, toNat_lt_two c, trivial⟩
  generalize encodeNat (.vstxsp c d a b st k) = w at h ⊢
  exact ⟨h.lt rfl, by simp [selectRow, selectLow, selectVectorStore, h.major rfl, h.low3 rfl, h.chained (c := c) rfl, h.rd (x := d) rfl, h.ra (x := a) rfl, h.rb (x := b) rfl, h.field (n := 2) (lo := 8) (x := st) rfl, h.field (n := 2) (lo := 3) (x := k) rfl],
    fun _ => by simp [mayChain, vectorClass, aloneClass, h.major rfl, h.low3 rfl]⟩

theorem Sys2Proof.Laws.Selects.tacc (c : Bool) (t : Reg) (a : Reg) (b : Reg) (xf : Reg) : Statement (.tacc c t a b xf) := by
  intro _ _
  have h : Packed (encodeNat (.tacc c t a b xf))
      [(3, 0), (2, 0), (5, xf.toNat), (5, b.toNat), (5, a.toNat), (5, t.toNat), (6, 48), (1, c.toNat)] :=
    ⟨by change wordOf _ _ = _; simp only [wordOf_cons, wordOf_nil, put_eq, at20_eq, at15_eq, at10_eq, at5_eq, atC_eq, pack_cons, pack_nil]; omega,
      by decide, by decide, xf.isLt, b.isLt, a.isLt, t.isLt, by decide, toNat_lt_two c, trivial⟩
  generalize encodeNat (.tacc c t a b xf) = w at h ⊢
  exact ⟨h.lt rfl, by simp [selectRow, selectLow, selectMatrix, h.major rfl, h.low3 rfl, h.chained (c := c) rfl, h.rd (x := t) rfl, h.ra (x := a) rfl, h.rb (x := b) rfl, h.rf (x := xf) rfl],
    fun _ => by simp [mayChain, vectorClass, aloneClass, h.major rfl, h.low3 rfl]⟩

theorem Sys2Proof.Laws.Selects.taccS (c : Bool) (t : Reg) (a : Reg) (b : Reg) (xf : Reg) : Statement (.taccS c t a b xf) := by
  intro _ _
  have h : Packed (encodeNat (.taccS c t a b xf))
      [(3, 1), (2, 0), (5, xf.toNat), (5, b.toNat), (5, a.toNat), (5, t.toNat), (6, 48), (1, c.toNat)] :=
    ⟨by change wordOf _ _ = _; simp only [wordOf_cons, wordOf_nil, put_eq, at20_eq, at15_eq, at10_eq, at5_eq, atC_eq, pack_cons, pack_nil]; omega,
      by decide, by decide, xf.isLt, b.isLt, a.isLt, t.isLt, by decide, toNat_lt_two c, trivial⟩
  generalize encodeNat (.taccS c t a b xf) = w at h ⊢
  exact ⟨h.lt rfl, by simp [selectRow, selectLow, selectMatrix, h.major rfl, h.low3 rfl, h.chained (c := c) rfl, h.rd (x := t) rfl, h.ra (x := a) rfl, h.rb (x := b) rfl, h.rf (x := xf) rfl],
    fun _ => by simp [mayChain, vectorClass, aloneClass, h.major rfl, h.low3 rfl]⟩

theorem Sys2Proof.Laws.Selects.mzero (t : Reg) : Statement (.mzero t) := by
  intro _ _
  have h : Packed (encodeNat (.mzero t))
      [(3, 2), (17, 0), (5, t.toNat), (6, 48), (1, 0)] :=
    ⟨by change wordOf _ _ = _; simp only [wordOf_cons, wordOf_nil, put_eq, at20_eq, at15_eq, at10_eq, at5_eq, atC_eq, pack_cons, pack_nil]; omega,
      by decide, by decide, t.isLt, by decide, by decide, trivial⟩
  generalize encodeNat (.mzero t) = w at h ⊢
  exact ⟨h.lt rfl, by simp [selectRow, selectLow, selectMatrix, h.major rfl, h.low3 rfl, h.rd (x := t) rfl],
    by simp [h.unchained rfl]⟩

theorem Sys2Proof.Laws.Selects.mld (t : Reg) (a : Reg) : Statement (.mld t a) := by
  intro _ _
  have h : Packed (encodeNat (.mld t a))
      [(5, 0), (10, 0), (5, a.toNat), (5, t.toNat), (6, 49), (1, 0)] :=
    ⟨by change wordOf _ _ = _; simp only [wordOf_cons, wordOf_nil, put_eq, at20_eq, at15_eq, at10_eq, at5_eq, atC_eq, pack_cons, pack_nil]; omega,
      by decide, by decide, a.isLt, t.isLt, by decide, by decide, trivial⟩
  generalize encodeNat (.mld t a) = w at h ⊢
  exact ⟨h.lt rfl, by simp [selectRow, selectLow, selectTile, h.major rfl, h.low5 rfl, h.rd (x := t) rfl, h.ra (x := a) rfl],
    by simp [h.unchained rfl]⟩

theorem Sys2Proof.Laws.Selects.mldT8 (t : Reg) (a : Reg) : Statement (.mldT8 t a) := by
  intro _ _
  have h : Packed (encodeNat (.mldT8 t a))
      [(5, 1), (10, 0), (5, a.toNat), (5, t.toNat), (6, 49), (1, 0)] :=
    ⟨by change wordOf _ _ = _; simp only [wordOf_cons, wordOf_nil, put_eq, at20_eq, at15_eq, at10_eq, at5_eq, atC_eq, pack_cons, pack_nil]; omega,
      by decide, by decide, a.isLt, t.isLt, by decide, by decide, trivial⟩
  generalize encodeNat (.mldT8 t a) = w at h ⊢
  exact ⟨h.lt rfl, by simp [selectRow, selectLow, selectTile, h.major rfl, h.low5 rfl, h.rd (x := t) rfl, h.ra (x := a) rfl],
    by simp [h.unchained rfl]⟩

theorem Sys2Proof.Laws.Selects.mldT16 (t : Reg) (a : Reg) : Statement (.mldT16 t a) := by
  intro _ _
  have h : Packed (encodeNat (.mldT16 t a))
      [(5, 2), (10, 0), (5, a.toNat), (5, t.toNat), (6, 49), (1, 0)] :=
    ⟨by change wordOf _ _ = _; simp only [wordOf_cons, wordOf_nil, put_eq, at20_eq, at15_eq, at10_eq, at5_eq, atC_eq, pack_cons, pack_nil]; omega,
      by decide, by decide, a.isLt, t.isLt, by decide, by decide, trivial⟩
  generalize encodeNat (.mldT16 t a) = w at h ⊢
  exact ⟨h.lt rfl, by simp [selectRow, selectLow, selectTile, h.major rfl, h.low5 rfl, h.rd (x := t) rfl, h.ra (x := a) rfl],
    by simp [h.unchained rfl]⟩

theorem Sys2Proof.Laws.Selects.mst (t : Reg) (a : Reg) : Statement (.mst t a) := by
  intro _ _
  have h : Packed (encodeNat (.mst t a))
      [(5, 3), (10, 0), (5, a.toNat), (5, t.toNat), (6, 49), (1, 0)] :=
    ⟨by change wordOf _ _ = _; simp only [wordOf_cons, wordOf_nil, put_eq, at20_eq, at15_eq, at10_eq, at5_eq, atC_eq, pack_cons, pack_nil]; omega,
      by decide, by decide, a.isLt, t.isLt, by decide, by decide, trivial⟩
  generalize encodeNat (.mst t a) = w at h ⊢
  exact ⟨h.lt rfl, by simp [selectRow, selectLow, selectTile, h.major rfl, h.low5 rfl, h.rd (x := t) rfl, h.ra (x := a) rfl],
    by simp [h.unchained rfl]⟩

theorem Sys2Proof.Laws.Selects.mcvt (t : Reg) (xf : Reg) : Statement (.mcvt t xf) := by
  intro _ _
  have h : Packed (encodeNat (.mcvt t xf))
      [(5, 4), (5, xf.toNat), (10, 0), (5, t.toNat), (6, 49), (1, 0)] :=
    ⟨by change wordOf _ _ = _; simp only [wordOf_cons, wordOf_nil, put_eq, at20_eq, at15_eq, at10_eq, at5_eq, atC_eq, pack_cons, pack_nil]; omega,
      by decide, xf.isLt, by decide, t.isLt, by decide, by decide, trivial⟩
  generalize encodeNat (.mcvt t xf) = w at h ⊢
  exact ⟨h.lt rfl, by simp [selectRow, selectLow, selectTile, h.major rfl, h.low5 rfl, h.rd (x := t) rfl, h.rf (x := xf) rfl],
    by simp [h.unchained rfl]⟩

theorem Sys2Proof.Laws.Selects.mrowr (t : Reg) (a : Reg) (b : Reg) : Statement (.mrowr t a b) := by
  intro _ _
  have h : Packed (encodeNat (.mrowr t a b))
      [(5, 5), (5, 0), (5, b.toNat), (5, a.toNat), (5, t.toNat), (6, 49), (1, 0)] :=
    ⟨by change wordOf _ _ = _; simp only [wordOf_cons, wordOf_nil, put_eq, at20_eq, at15_eq, at10_eq, at5_eq, atC_eq, pack_cons, pack_nil]; omega,
      by decide, by decide, b.isLt, a.isLt, t.isLt, by decide, by decide, trivial⟩
  generalize encodeNat (.mrowr t a b) = w at h ⊢
  exact ⟨h.lt rfl, by simp [selectRow, selectLow, selectTile, h.major rfl, h.low5 rfl, h.rd (x := t) rfl, h.ra (x := a) rfl, h.rb (x := b) rfl],
    by simp [h.unchained rfl]⟩

theorem Sys2Proof.Laws.Selects.mroww (t : Reg) (a : Reg) (b : Reg) : Statement (.mroww t a b) := by
  intro _ _
  have h : Packed (encodeNat (.mroww t a b))
      [(5, 6), (5, 0), (5, b.toNat), (5, a.toNat), (5, t.toNat), (6, 49), (1, 0)] :=
    ⟨by change wordOf _ _ = _; simp only [wordOf_cons, wordOf_nil, put_eq, at20_eq, at15_eq, at10_eq, at5_eq, atC_eq, pack_cons, pack_nil]; omega,
      by decide, by decide, b.isLt, a.isLt, t.isLt, by decide, by decide, trivial⟩
  generalize encodeNat (.mroww t a b) = w at h ⊢
  exact ⟨h.lt rfl, by simp [selectRow, selectLow, selectTile, h.major rfl, h.low5 rfl, h.rd (x := t) rfl, h.ra (x := a) rfl, h.rb (x := b) rfl],
    by simp [h.unchained rfl]⟩

theorem Sys2Proof.Laws.Selects.tdstep (c : Bool) (d : Reg) (a : Reg) (b : Reg) (xf : Reg) (k : BitVec 2) : Statement (.tdstep c d a b xf k) := by
  intro _ _
  have h : Packed (encodeNat (.tdstep c d a b xf k))
      [(3, 0), (2, k.toNat), (5, xf.toNat), (5, b.toNat), (5, a.toNat), (5, d.toNat), (6, 52), (1, c.toNat)] :=
    ⟨by change wordOf _ _ = _; simp only [wordOf_cons, wordOf_nil, put_eq, at20_eq, at15_eq, at10_eq, at5_eq, atC_eq, pack_cons, pack_nil]; omega,
      by decide, k.isLt, xf.isLt, b.isLt, a.isLt, d.isLt, by decide, toNat_lt_two c, trivial⟩
  generalize encodeNat (.tdstep c d a b xf k) = w at h ⊢
  exact ⟨h.lt rfl, by simp [selectRow, selectLow, selectDescent, h.major rfl, h.low3 rfl, h.chained (c := c) rfl, h.rd (x := d) rfl, h.ra (x := a) rfl, h.rb (x := b) rfl, h.rf (x := xf) rfl, h.field (n := 2) (lo := 3) (x := k) rfl],
    fun _ => by simp [mayChain, vectorClass, aloneClass, h.major rfl, h.low3 rfl]⟩

theorem Sys2Proof.Laws.Selects.tdleaf (c : Bool) (d : Reg) (a : Reg) (b : Reg) (xf : Reg) (k : BitVec 2) : Statement (.tdleaf c d a b xf k) := by
  intro _ _
  have h : Packed (encodeNat (.tdleaf c d a b xf k))
      [(3, 1), (2, k.toNat), (5, xf.toNat), (5, b.toNat), (5, a.toNat), (5, d.toNat), (6, 52), (1, c.toNat)] :=
    ⟨by change wordOf _ _ = _; simp only [wordOf_cons, wordOf_nil, put_eq, at20_eq, at15_eq, at10_eq, at5_eq, atC_eq, pack_cons, pack_nil]; omega,
      by decide, k.isLt, xf.isLt, b.isLt, a.isLt, d.isLt, by decide, toNat_lt_two c, trivial⟩
  generalize encodeNat (.tdleaf c d a b xf k) = w at h ⊢
  exact ⟨h.lt rfl, by simp [selectRow, selectLow, selectDescent, h.major rfl, h.low3 rfl, h.chained (c := c) rfl, h.rd (x := d) rfl, h.ra (x := a) rfl, h.rb (x := b) rfl, h.rf (x := xf) rfl, h.field (n := 2) (lo := 3) (x := k) rfl],
    fun _ => by simp [mayChain, vectorClass, aloneClass, h.major rfl, h.low3 rfl]⟩

theorem Sys2Proof.Laws.Selects.tdregrp (c : Bool) (d : Reg) (a : Reg) (b : Reg) (k : BitVec 2) : Statement (.tdregrp c d a b k) := by
  intro _ _
  have h : Packed (encodeNat (.tdregrp c d a b k))
      [(3, 2), (2, k.toNat), (5, 0), (5, b.toNat), (5, a.toNat), (5, d.toNat), (6, 52), (1, c.toNat)] :=
    ⟨by change wordOf _ _ = _; simp only [wordOf_cons, wordOf_nil, put_eq, at20_eq, at15_eq, at10_eq, at5_eq, atC_eq, pack_cons, pack_nil]; omega,
      by decide, k.isLt, by decide, b.isLt, a.isLt, d.isLt, by decide, toNat_lt_two c, trivial⟩
  generalize encodeNat (.tdregrp c d a b k) = w at h ⊢
  exact ⟨h.lt rfl, by simp [selectRow, selectLow, selectDescent, h.major rfl, h.low3 rfl, h.chained (c := c) rfl, h.rd (x := d) rfl, h.ra (x := a) rfl, h.rb (x := b) rfl, h.field (n := 2) (lo := 3) (x := k) rfl],
    fun _ => by simp [mayChain, vectorClass, aloneClass, h.major rfl, h.low3 rfl]⟩

theorem Sys2Proof.Laws.Selects.tdpathR (c : Bool) (d : Reg) (a : Reg) (k : BitVec 2) : Statement (.tdpathR c d a k) := by
  intro _ _
  have h : Packed (encodeNat (.tdpathR c d a k))
      [(3, 3), (2, k.toNat), (10, 0), (5, a.toNat), (5, d.toNat), (6, 52), (1, c.toNat)] :=
    ⟨by change wordOf _ _ = _; simp only [wordOf_cons, wordOf_nil, put_eq, at20_eq, at15_eq, at10_eq, at5_eq, atC_eq, pack_cons, pack_nil]; omega,
      by decide, k.isLt, by decide, a.isLt, d.isLt, by decide, toNat_lt_two c, trivial⟩
  generalize encodeNat (.tdpathR c d a k) = w at h ⊢
  exact ⟨h.lt rfl, by simp [selectRow, selectLow, selectDescent, h.major rfl, h.low3 rfl, h.chained (c := c) rfl, h.rd (x := d) rfl, h.ra (x := a) rfl, h.field (n := 2) (lo := 3) (x := k) rfl],
    fun _ => by simp [mayChain, vectorClass, aloneClass, h.major rfl, h.low3 rfl]⟩

theorem Sys2Proof.Laws.Selects.tdpathW (c : Bool) (d : Reg) (a : Reg) (k : BitVec 2) : Statement (.tdpathW c d a k) := by
  intro _ _
  have h : Packed (encodeNat (.tdpathW c d a k))
      [(3, 4), (2, k.toNat), (10, 0), (5, a.toNat), (5, d.toNat), (6, 52), (1, c.toNat)] :=
    ⟨by change wordOf _ _ = _; simp only [wordOf_cons, wordOf_nil, put_eq, at20_eq, at15_eq, at10_eq, at5_eq, atC_eq, pack_cons, pack_nil]; omega,
      by decide, k.isLt, by decide, a.isLt, d.isLt, by decide, toNat_lt_two c, trivial⟩
  generalize encodeNat (.tdpathW c d a k) = w at h ⊢
  exact ⟨h.lt rfl, by simp [selectRow, selectLow, selectDescent, h.major rfl, h.low3 rfl, h.chained (c := c) rfl, h.rd (x := d) rfl, h.ra (x := a) rfl, h.field (n := 2) (lo := 3) (x := k) rfl],
    fun _ => by simp [mayChain, vectorClass, aloneClass, h.major rfl, h.low3 rfl]⟩

theorem Sys2Proof.Laws.Selects.tdaddr (c : Bool) (d : Reg) (a : Reg) (b : Reg) (k : BitVec 2) : Statement (.tdaddr c d a b k) := by
  intro _ _
  have h : Packed (encodeNat (.tdaddr c d a b k))
      [(3, 5), (2, k.toNat), (5, 0), (5, b.toNat), (5, a.toNat), (5, d.toNat), (6, 52), (1, c.toNat)] :=
    ⟨by change wordOf _ _ = _; simp only [wordOf_cons, wordOf_nil, put_eq, at20_eq, at15_eq, at10_eq, at5_eq, atC_eq, pack_cons, pack_nil]; omega,
      by decide, k.isLt, by decide, b.isLt, a.isLt, d.isLt, by decide, toNat_lt_two c, trivial⟩
  generalize encodeNat (.tdaddr c d a b k) = w at h ⊢
  exact ⟨h.lt rfl, by simp [selectRow, selectLow, selectDescent, h.major rfl, h.low3 rfl, h.chained (c := c) rfl, h.rd (x := d) rfl, h.ra (x := a) rfl, h.rb (x := b) rfl, h.field (n := 2) (lo := 3) (x := k) rfl],
    fun _ => by simp [mayChain, vectorClass, aloneClass, h.major rfl, h.low3 rfl]⟩

theorem Sys2Proof.Laws.Selects.hqDot (a : Reg) (xf : Reg) (tag : BitVec 6) : Statement (.hqDot a xf tag) := by
  intro _ _
  have h : Packed (encodeNat (.hqDot a xf tag))
      [(2, 0), (2, 0), (6, tag.toNat), (5, xf.toNat), (5, 0), (5, a.toNat), (6, 54), (1, 0)] :=
    ⟨by change wordOf _ _ = _; simp only [wordOf_cons, wordOf_nil, put_eq, at20_eq, at15_eq, at10_eq, at5_eq, atC_eq, pack_cons, pack_nil]; omega,
      by decide, by decide, tag.isLt, xf.isLt, by decide, a.isLt, by decide, by decide, trivial⟩
  generalize encodeNat (.hqDot a xf tag) = w at h ⊢
  exact ⟨h.lt rfl, by simp [selectRow, selectLow, selectHeath1, h.major rfl, h.low2 rfl, h.rd (x := a) rfl, h.rb (x := xf) rfl, h.field (n := 6) (lo := 4) (x := tag) rfl],
    by simp [h.unchained rfl]⟩

theorem Sys2Proof.Laws.Selects.hqSum (a : Reg) (xf : Reg) (tag : BitVec 6) : Statement (.hqSum a xf tag) := by
  intro _ _
  have h : Packed (encodeNat (.hqSum a xf tag))
      [(2, 1), (2, 0), (6, tag.toNat), (5, xf.toNat), (5, 0), (5, a.toNat), (6, 54), (1, 0)] :=
    ⟨by change wordOf _ _ = _; simp only [wordOf_cons, wordOf_nil, put_eq, at20_eq, at15_eq, at10_eq, at5_eq, atC_eq, pack_cons, pack_nil]; omega,
      by decide, by decide, tag.isLt, xf.isLt, by decide, a.isLt, by decide, by decide, trivial⟩
  generalize encodeNat (.hqSum a xf tag) = w at h ⊢
  exact ⟨h.lt rfl, by simp [selectRow, selectLow, selectHeath1, h.major rfl, h.low2 rfl, h.rd (x := a) rfl, h.rb (x := xf) rfl, h.field (n := 6) (lo := 4) (x := tag) rfl],
    by simp [h.unchained rfl]⟩

theorem Sys2Proof.Laws.Selects.hqCnt (a : Reg) (xf : Reg) (tag : BitVec 6) : Statement (.hqCnt a xf tag) := by
  intro _ _
  have h : Packed (encodeNat (.hqCnt a xf tag))
      [(2, 2), (2, 0), (6, tag.toNat), (5, xf.toNat), (5, 0), (5, a.toNat), (6, 54), (1, 0)] :=
    ⟨by change wordOf _ _ = _; simp only [wordOf_cons, wordOf_nil, put_eq, at20_eq, at15_eq, at10_eq, at5_eq, atC_eq, pack_cons, pack_nil]; omega,
      by decide, by decide, tag.isLt, xf.isLt, by decide, a.isLt, by decide, by decide, trivial⟩
  generalize encodeNat (.hqCnt a xf tag) = w at h ⊢
  exact ⟨h.lt rfl, by simp [selectRow, selectLow, selectHeath1, h.major rfl, h.low2 rfl, h.rd (x := a) rfl, h.rb (x := xf) rfl, h.field (n := 6) (lo := 4) (x := tag) rfl],
    by simp [h.unchained rfl]⟩

theorem Sys2Proof.Laws.Selects.hqMax (a : Reg) (xf : Reg) (tag : BitVec 6) : Statement (.hqMax a xf tag) := by
  intro _ _
  have h : Packed (encodeNat (.hqMax a xf tag))
      [(2, 3), (2, 0), (6, tag.toNat), (5, xf.toNat), (5, 0), (5, a.toNat), (6, 54), (1, 0)] :=
    ⟨by change wordOf _ _ = _; simp only [wordOf_cons, wordOf_nil, put_eq, at20_eq, at15_eq, at10_eq, at5_eq, atC_eq, pack_cons, pack_nil]; omega,
      by decide, by decide, tag.isLt, xf.isLt, by decide, a.isLt, by decide, by decide, trivial⟩
  generalize encodeNat (.hqMax a xf tag) = w at h ⊢
  exact ⟨h.lt rfl, by simp [selectRow, selectLow, selectHeath1, h.major rfl, h.low2 rfl, h.rd (x := a) rfl, h.rb (x := xf) rfl, h.field (n := 6) (lo := 4) (x := tag) rfl],
    by simp [h.unchained rfl]⟩

theorem Sys2Proof.Laws.Selects.hqTop (a : Reg) (xf : Reg) (tag : BitVec 6) : Statement (.hqTop a xf tag) := by
  intro _ _
  have h : Packed (encodeNat (.hqTop a xf tag))
      [(2, 0), (2, 0), (6, tag.toNat), (5, xf.toNat), (5, 0), (5, a.toNat), (6, 55), (1, 0)] :=
    ⟨by change wordOf _ _ = _; simp only [wordOf_cons, wordOf_nil, put_eq, at20_eq, at15_eq, at10_eq, at5_eq, atC_eq, pack_cons, pack_nil]; omega,
      by decide, by decide, tag.isLt, xf.isLt, by decide, a.isLt, by decide, by decide, trivial⟩
  generalize encodeNat (.hqTop a xf tag) = w at h ⊢
  exact ⟨h.lt rfl, by simp [selectRow, selectLow, selectHeath2, h.major rfl, h.low2 rfl, h.rd (x := a) rfl, h.rb (x := xf) rfl, h.field (n := 6) (lo := 4) (x := tag) rfl],
    by simp [h.unchained rfl]⟩

theorem Sys2Proof.Laws.Selects.hqSes (a : Reg) (xf : Reg) (tag : BitVec 6) : Statement (.hqSes a xf tag) := by
  intro _ _
  have h : Packed (encodeNat (.hqSes a xf tag))
      [(2, 1), (2, 0), (6, tag.toNat), (5, xf.toNat), (5, 0), (5, a.toNat), (6, 55), (1, 0)] :=
    ⟨by change wordOf _ _ = _; simp only [wordOf_cons, wordOf_nil, put_eq, at20_eq, at15_eq, at10_eq, at5_eq, atC_eq, pack_cons, pack_nil]; omega,
      by decide, by decide, tag.isLt, xf.isLt, by decide, a.isLt, by decide, by decide, trivial⟩
  generalize encodeNat (.hqSes a xf tag) = w at h ⊢
  exact ⟨h.lt rfl, by simp [selectRow, selectLow, selectHeath2, h.major rfl, h.low2 rfl, h.rd (x := a) rfl, h.rb (x := xf) rfl, h.field (n := 6) (lo := 4) (x := tag) rfl],
    by simp [h.unchained rfl]⟩

theorem Sys2Proof.Laws.Selects.hbcast (a : Reg) (tag : BitVec 6) : Statement (.hbcast a tag) := by
  intro _ _
  have h : Packed (encodeNat (.hbcast a tag))
      [(2, 2), (2, 0), (6, tag.toNat), (10, 0), (5, a.toNat), (6, 55), (1, 0)] :=
    ⟨by change wordOf _ _ = _; simp only [wordOf_cons, wordOf_nil, put_eq, at20_eq, at15_eq, at10_eq, at5_eq, atC_eq, pack_cons, pack_nil]; omega,
      by decide, by decide, tag.isLt, by decide, a.isLt, by decide, by decide, trivial⟩
  generalize encodeNat (.hbcast a tag) = w at h ⊢
  exact ⟨h.lt rfl, by simp [selectRow, selectLow, selectHeath2, h.major rfl, h.low2 rfl, h.rd (x := a) rfl, h.field (n := 6) (lo := 4) (x := tag) rfl],
    by simp [h.unchained rfl]⟩

theorem Sys2Proof.Laws.Selects.hmove (a : Reg) (b : Reg) (xf : Reg) (tag : BitVec 6) : Statement (.hmove a b xf tag) := by
  intro _ _
  have h : Packed (encodeNat (.hmove a b xf tag))
      [(2, 3), (2, 0), (6, tag.toNat), (5, xf.toNat), (5, b.toNat), (5, a.toNat), (6, 55), (1, 0)] :=
    ⟨by change wordOf _ _ = _; simp only [wordOf_cons, wordOf_nil, put_eq, at20_eq, at15_eq, at10_eq, at5_eq, atC_eq, pack_cons, pack_nil]; omega,
      by decide, by decide, tag.isLt, xf.isLt, b.isLt, a.isLt, by decide, by decide, trivial⟩
  generalize encodeNat (.hmove a b xf tag) = w at h ⊢
  exact ⟨h.lt rfl, by simp [selectRow, selectLow, selectHeath2, h.major rfl, h.low2 rfl, h.rd (x := a) rfl, h.ra (x := b) rfl, h.rb (x := xf) rfl, h.field (n := 6) (lo := 4) (x := tag) rfl],
    by simp [h.unchained rfl]⟩

theorem Sys2Proof.Laws.Selects.cblkIn (a : Reg) (b : Reg) (xf : Reg) (tag : BitVec 6) (ch : BitVec 2) : Statement (.cblkIn a b xf tag ch) := by
  intro _ _
  have h : Packed (encodeNat (.cblkIn a b xf tag ch))
      [(2, 0), (2, ch.toNat), (6, tag.toNat), (5, xf.toNat), (5, b.toNat), (5, a.toNat), (6, 56), (1, 0)] :=
    ⟨by change wordOf _ _ = _; simp only [wordOf_cons, wordOf_nil, put_eq, at20_eq, at15_eq, at10_eq, at5_eq, atC_eq, pack_cons, pack_nil]; omega,
      by decide, ch.isLt, tag.isLt, xf.isLt, b.isLt, a.isLt, by decide, by decide, trivial⟩
  generalize encodeNat (.cblkIn a b xf tag ch) = w at h ⊢
  exact ⟨h.lt rfl, by simp [selectRow, selectLow, selectCopyBlock, h.major rfl, h.low2 rfl, h.rd (x := a) rfl, h.ra (x := b) rfl, h.rb (x := xf) rfl, h.field (n := 6) (lo := 4) (x := tag) rfl, h.field (n := 2) (lo := 2) (x := ch) rfl],
    by simp [h.unchained rfl]⟩

theorem Sys2Proof.Laws.Selects.cblkOut (a : Reg) (b : Reg) (xf : Reg) (tag : BitVec 6) (ch : BitVec 2) : Statement (.cblkOut a b xf tag ch) := by
  intro _ _
  have h : Packed (encodeNat (.cblkOut a b xf tag ch))
      [(2, 1), (2, ch.toNat), (6, tag.toNat), (5, xf.toNat), (5, b.toNat), (5, a.toNat), (6, 56), (1, 0)] :=
    ⟨by change wordOf _ _ = _; simp only [wordOf_cons, wordOf_nil, put_eq, at20_eq, at15_eq, at10_eq, at5_eq, atC_eq, pack_cons, pack_nil]; omega,
      by decide, ch.isLt, tag.isLt, xf.isLt, b.isLt, a.isLt, by decide, by decide, trivial⟩
  generalize encodeNat (.cblkOut a b xf tag ch) = w at h ⊢
  exact ⟨h.lt rfl, by simp [selectRow, selectLow, selectCopyBlock, h.major rfl, h.low2 rfl, h.rd (x := a) rfl, h.ra (x := b) rfl, h.rb (x := xf) rfl, h.field (n := 6) (lo := 4) (x := tag) rfl, h.field (n := 2) (lo := 2) (x := ch) rfl],
    by simp [h.unchained rfl]⟩

theorem Sys2Proof.Laws.Selects.cblkSs (a : Reg) (b : Reg) (xf : Reg) (tag : BitVec 6) (ch : BitVec 2) : Statement (.cblkSs a b xf tag ch) := by
  intro _ _
  have h : Packed (encodeNat (.cblkSs a b xf tag ch))
      [(2, 2), (2, ch.toNat), (6, tag.toNat), (5, xf.toNat), (5, b.toNat), (5, a.toNat), (6, 56), (1, 0)] :=
    ⟨by change wordOf _ _ = _; simp only [wordOf_cons, wordOf_nil, put_eq, at20_eq, at15_eq, at10_eq, at5_eq, atC_eq, pack_cons, pack_nil]; omega,
      by decide, ch.isLt, tag.isLt, xf.isLt, b.isLt, a.isLt, by decide, by decide, trivial⟩
  generalize encodeNat (.cblkSs a b xf tag ch) = w at h ⊢
  exact ⟨h.lt rfl, by simp [selectRow, selectLow, selectCopyBlock, h.major rfl, h.low2 rfl, h.rd (x := a) rfl, h.ra (x := b) rfl, h.rb (x := xf) rfl, h.field (n := 6) (lo := 4) (x := tag) rfl, h.field (n := 2) (lo := 2) (x := ch) rfl],
    by simp [h.unchained rfl]⟩

theorem Sys2Proof.Laws.Selects.cblkVv (a : Reg) (b : Reg) (xf : Reg) (tag : BitVec 6) (ch : BitVec 2) : Statement (.cblkVv a b xf tag ch) := by
  intro _ _
  have h : Packed (encodeNat (.cblkVv a b xf tag ch))
      [(2, 3), (2, ch.toNat), (6, tag.toNat), (5, xf.toNat), (5, b.toNat), (5, a.toNat), (6, 56), (1, 0)] :=
    ⟨by change wordOf _ _ = _; simp only [wordOf_cons, wordOf_nil, put_eq, at20_eq, at15_eq, at10_eq, at5_eq, atC_eq, pack_cons, pack_nil]; omega,
      by decide, ch.isLt, tag.isLt, xf.isLt, b.isLt, a.isLt, by decide, by decide, trivial⟩
  generalize encodeNat (.cblkVv a b xf tag ch) = w at h ⊢
  exact ⟨h.lt rfl, by simp [selectRow, selectLow, selectCopyBlock, h.major rfl, h.low2 rfl, h.rd (x := a) rfl, h.ra (x := b) rfl, h.rb (x := xf) rfl, h.field (n := 6) (lo := 4) (x := tag) rfl, h.field (n := 2) (lo := 2) (x := ch) rfl],
    by simp [h.unchained rfl]⟩

theorem Sys2Proof.Laws.Selects.cnestIn (a : Reg) (b : Reg) (xf : Reg) (tag : BitVec 6) (ch : BitVec 2) : Statement (.cnestIn a b xf tag ch) := by
  intro _ _
  have h : Packed (encodeNat (.cnestIn a b xf tag ch))
      [(2, 0), (2, ch.toNat), (6, tag.toNat), (5, xf.toNat), (5, b.toNat), (5, a.toNat), (6, 57), (1, 0)] :=
    ⟨by change wordOf _ _ = _; simp only [wordOf_cons, wordOf_nil, put_eq, at20_eq, at15_eq, at10_eq, at5_eq, atC_eq, pack_cons, pack_nil]; omega,
      by decide, ch.isLt, tag.isLt, xf.isLt, b.isLt, a.isLt, by decide, by decide, trivial⟩
  generalize encodeNat (.cnestIn a b xf tag ch) = w at h ⊢
  exact ⟨h.lt rfl, by simp [selectRow, selectLow, selectCopyNest, h.major rfl, h.low2 rfl, h.rd (x := a) rfl, h.ra (x := b) rfl, h.rb (x := xf) rfl, h.field (n := 6) (lo := 4) (x := tag) rfl, h.field (n := 2) (lo := 2) (x := ch) rfl],
    by simp [h.unchained rfl]⟩

theorem Sys2Proof.Laws.Selects.cnestOut (a : Reg) (b : Reg) (xf : Reg) (tag : BitVec 6) (ch : BitVec 2) : Statement (.cnestOut a b xf tag ch) := by
  intro _ _
  have h : Packed (encodeNat (.cnestOut a b xf tag ch))
      [(2, 1), (2, ch.toNat), (6, tag.toNat), (5, xf.toNat), (5, b.toNat), (5, a.toNat), (6, 57), (1, 0)] :=
    ⟨by change wordOf _ _ = _; simp only [wordOf_cons, wordOf_nil, put_eq, at20_eq, at15_eq, at10_eq, at5_eq, atC_eq, pack_cons, pack_nil]; omega,
      by decide, ch.isLt, tag.isLt, xf.isLt, b.isLt, a.isLt, by decide, by decide, trivial⟩
  generalize encodeNat (.cnestOut a b xf tag ch) = w at h ⊢
  exact ⟨h.lt rfl, by simp [selectRow, selectLow, selectCopyNest, h.major rfl, h.low2 rfl, h.rd (x := a) rfl, h.ra (x := b) rfl, h.rb (x := xf) rfl, h.field (n := 6) (lo := 4) (x := tag) rfl, h.field (n := 2) (lo := 2) (x := ch) rfl],
    by simp [h.unchained rfl]⟩

theorem Sys2Proof.Laws.Selects.cnestSs (a : Reg) (b : Reg) (xf : Reg) (tag : BitVec 6) (ch : BitVec 2) : Statement (.cnestSs a b xf tag ch) := by
  intro _ _
  have h : Packed (encodeNat (.cnestSs a b xf tag ch))
      [(2, 2), (2, ch.toNat), (6, tag.toNat), (5, xf.toNat), (5, b.toNat), (5, a.toNat), (6, 57), (1, 0)] :=
    ⟨by change wordOf _ _ = _; simp only [wordOf_cons, wordOf_nil, put_eq, at20_eq, at15_eq, at10_eq, at5_eq, atC_eq, pack_cons, pack_nil]; omega,
      by decide, ch.isLt, tag.isLt, xf.isLt, b.isLt, a.isLt, by decide, by decide, trivial⟩
  generalize encodeNat (.cnestSs a b xf tag ch) = w at h ⊢
  exact ⟨h.lt rfl, by simp [selectRow, selectLow, selectCopyNest, h.major rfl, h.low2 rfl, h.rd (x := a) rfl, h.ra (x := b) rfl, h.rb (x := xf) rfl, h.field (n := 6) (lo := 4) (x := tag) rfl, h.field (n := 2) (lo := 2) (x := ch) rfl],
    by simp [h.unchained rfl]⟩

theorem Sys2Proof.Laws.Selects.cnestVv (a : Reg) (b : Reg) (xf : Reg) (tag : BitVec 6) (ch : BitVec 2) : Statement (.cnestVv a b xf tag ch) := by
  intro _ _
  have h : Packed (encodeNat (.cnestVv a b xf tag ch))
      [(2, 3), (2, ch.toNat), (6, tag.toNat), (5, xf.toNat), (5, b.toNat), (5, a.toNat), (6, 57), (1, 0)] :=
    ⟨by change wordOf _ _ = _; simp only [wordOf_cons, wordOf_nil, put_eq, at20_eq, at15_eq, at10_eq, at5_eq, atC_eq, pack_cons, pack_nil]; omega,
      by decide, ch.isLt, tag.isLt, xf.isLt, b.isLt, a.isLt, by decide, by decide, trivial⟩
  generalize encodeNat (.cnestVv a b xf tag ch) = w at h ⊢
  exact ⟨h.lt rfl, by simp [selectRow, selectLow, selectCopyNest, h.major rfl, h.low2 rfl, h.rd (x := a) rfl, h.ra (x := b) rfl, h.rb (x := xf) rfl, h.field (n := 6) (lo := 4) (x := tag) rfl, h.field (n := 2) (lo := 2) (x := ch) rfl],
    by simp [h.unchained rfl]⟩

theorem Sys2Proof.Laws.Selects.cnestInT8 (a : Reg) (b : Reg) (xf : Reg) (tag : BitVec 6) (ch : BitVec 2) : Statement (.cnestInT8 a b xf tag ch) := by
  intro _ _
  have h : Packed (encodeNat (.cnestInT8 a b xf tag ch))
      [(2, 0), (2, ch.toNat), (6, tag.toNat), (5, xf.toNat), (5, b.toNat), (5, a.toNat), (6, 58), (1, 0)] :=
    ⟨by change wordOf _ _ = _; simp only [wordOf_cons, wordOf_nil, put_eq, at20_eq, at15_eq, at10_eq, at5_eq, atC_eq, pack_cons, pack_nil]; omega,
      by decide, ch.isLt, tag.isLt, xf.isLt, b.isLt, a.isLt, by decide, by decide, trivial⟩
  generalize encodeNat (.cnestInT8 a b xf tag ch) = w at h ⊢
  exact ⟨h.lt rfl, by simp [selectRow, selectLow, selectCopyGather, h.major rfl, h.low2 rfl, h.rd (x := a) rfl, h.ra (x := b) rfl, h.rb (x := xf) rfl, h.field (n := 6) (lo := 4) (x := tag) rfl, h.field (n := 2) (lo := 2) (x := ch) rfl],
    by simp [h.unchained rfl]⟩

theorem Sys2Proof.Laws.Selects.cnestInT16 (a : Reg) (b : Reg) (xf : Reg) (tag : BitVec 6) (ch : BitVec 2) : Statement (.cnestInT16 a b xf tag ch) := by
  intro _ _
  have h : Packed (encodeNat (.cnestInT16 a b xf tag ch))
      [(2, 1), (2, ch.toNat), (6, tag.toNat), (5, xf.toNat), (5, b.toNat), (5, a.toNat), (6, 58), (1, 0)] :=
    ⟨by change wordOf _ _ = _; simp only [wordOf_cons, wordOf_nil, put_eq, at20_eq, at15_eq, at10_eq, at5_eq, atC_eq, pack_cons, pack_nil]; omega,
      by decide, ch.isLt, tag.isLt, xf.isLt, b.isLt, a.isLt, by decide, by decide, trivial⟩
  generalize encodeNat (.cnestInT16 a b xf tag ch) = w at h ⊢
  exact ⟨h.lt rfl, by simp [selectRow, selectLow, selectCopyGather, h.major rfl, h.low2 rfl, h.rd (x := a) rfl, h.ra (x := b) rfl, h.rb (x := xf) rfl, h.field (n := 6) (lo := 4) (x := tag) rfl, h.field (n := 2) (lo := 2) (x := ch) rfl],
    by simp [h.unchained rfl]⟩

theorem Sys2Proof.Laws.Selects.cgathIn (a : Reg) (b : Reg) (xf : Reg) (tag : BitVec 6) (ch : BitVec 2) : Statement (.cgathIn a b xf tag ch) := by
  intro _ _
  have h : Packed (encodeNat (.cgathIn a b xf tag ch))
      [(2, 2), (2, ch.toNat), (6, tag.toNat), (5, xf.toNat), (5, b.toNat), (5, a.toNat), (6, 58), (1, 0)] :=
    ⟨by change wordOf _ _ = _; simp only [wordOf_cons, wordOf_nil, put_eq, at20_eq, at15_eq, at10_eq, at5_eq, atC_eq, pack_cons, pack_nil]; omega,
      by decide, ch.isLt, tag.isLt, xf.isLt, b.isLt, a.isLt, by decide, by decide, trivial⟩
  generalize encodeNat (.cgathIn a b xf tag ch) = w at h ⊢
  exact ⟨h.lt rfl, by simp [selectRow, selectLow, selectCopyGather, h.major rfl, h.low2 rfl, h.rd (x := a) rfl, h.ra (x := b) rfl, h.rb (x := xf) rfl, h.field (n := 6) (lo := 4) (x := tag) rfl, h.field (n := 2) (lo := 2) (x := ch) rfl],
    by simp [h.unchained rfl]⟩

theorem Sys2Proof.Laws.Selects.cgathOut (a : Reg) (b : Reg) (xf : Reg) (tag : BitVec 6) (ch : BitVec 2) : Statement (.cgathOut a b xf tag ch) := by
  intro _ _
  have h : Packed (encodeNat (.cgathOut a b xf tag ch))
      [(2, 3), (2, ch.toNat), (6, tag.toNat), (5, xf.toNat), (5, b.toNat), (5, a.toNat), (6, 58), (1, 0)] :=
    ⟨by change wordOf _ _ = _; simp only [wordOf_cons, wordOf_nil, put_eq, at20_eq, at15_eq, at10_eq, at5_eq, atC_eq, pack_cons, pack_nil]; omega,
      by decide, ch.isLt, tag.isLt, xf.isLt, b.isLt, a.isLt, by decide, by decide, trivial⟩
  generalize encodeNat (.cgathOut a b xf tag ch) = w at h ⊢
  exact ⟨h.lt rfl, by simp [selectRow, selectLow, selectCopyGather, h.major rfl, h.low2 rfl, h.rd (x := a) rfl, h.ra (x := b) rfl, h.rb (x := xf) rfl, h.field (n := 6) (lo := 4) (x := tag) rfl, h.field (n := 2) (lo := 2) (x := ch) rfl],
    by simp [h.unchained rfl]⟩

theorem Sys2Proof.Laws.Selects.cgetV (a : Reg) (b : Reg) (tag : BitVec 6) (ch : BitVec 2) : Statement (.cgetV a b tag ch) := by
  intro _ _
  have h : Packed (encodeNat (.cgetV a b tag ch))
      [(2, 0), (2, ch.toNat), (6, tag.toNat), (5, 0), (5, b.toNat), (5, a.toNat), (6, 59), (1, 0)] :=
    ⟨by change wordOf _ _ = _; simp only [wordOf_cons, wordOf_nil, put_eq, at20_eq, at15_eq, at10_eq, at5_eq, atC_eq, pack_cons, pack_nil]; omega,
      by decide, ch.isLt, tag.isLt, by decide, b.isLt, a.isLt, by decide, by decide, trivial⟩
  generalize encodeNat (.cgetV a b tag ch) = w at h ⊢
  exact ⟨h.lt rfl, by simp [selectRow, selectLow, selectCopyGet, h.major rfl, h.low2 rfl, (show w / 1024 % 32 = 0 from h.at' (lo := 10) (n := 5) rfl), h.rd (x := a) rfl, h.ra (x := b) rfl, h.field (n := 6) (lo := 4) (x := tag) rfl, h.field (n := 2) (lo := 2) (x := ch) rfl],
    by simp [h.unchained rfl]⟩

theorem Sys2Proof.Laws.Selects.cgetVs (a : Reg) (b : Reg) (tag : BitVec 6) (ch : BitVec 2) : Statement (.cgetVs a b tag ch) := by
  intro _ _
  have h : Packed (encodeNat (.cgetVs a b tag ch))
      [(2, 1), (2, ch.toNat), (6, tag.toNat), (5, 0), (5, b.toNat), (5, a.toNat), (6, 59), (1, 0)] :=
    ⟨by change wordOf _ _ = _; simp only [wordOf_cons, wordOf_nil, put_eq, at20_eq, at15_eq, at10_eq, at5_eq, atC_eq, pack_cons, pack_nil]; omega,
      by decide, ch.isLt, tag.isLt, by decide, b.isLt, a.isLt, by decide, by decide, trivial⟩
  generalize encodeNat (.cgetVs a b tag ch) = w at h ⊢
  exact ⟨h.lt rfl, by simp [selectRow, selectLow, selectCopyGet, h.major rfl, h.low2 rfl, (show w / 1024 % 32 = 0 from h.at' (lo := 10) (n := 5) rfl), h.rd (x := a) rfl, h.ra (x := b) rfl, h.field (n := 6) (lo := 4) (x := tag) rfl, h.field (n := 2) (lo := 2) (x := ch) rfl],
    by simp [h.unchained rfl]⟩

theorem Sys2Proof.Laws.Selects.cwaitAny (a : Reg) : Statement (.cwaitAny a) := by
  intro _ _
  have h : Packed (encodeNat (.cwaitAny a))
      [(2, 3), (8, 0), (5, 0), (5, 0), (5, a.toNat), (6, 59), (1, 0)] :=
    ⟨by change wordOf _ _ = _; simp only [wordOf_cons, wordOf_nil, put_eq, at20_eq, at15_eq, at10_eq, at5_eq, atC_eq, pack_cons, pack_nil]; omega,
      by decide, by decide, by decide, by decide, a.isLt, by decide, by decide, trivial⟩
  generalize encodeNat (.cwaitAny a) = w at h ⊢
  exact ⟨h.lt rfl, by simp [selectRow, selectLow, selectCopyGet, h.major rfl, h.low2 rfl, (show w / 1024 % 32 = 0 from h.at' (lo := 10) (n := 5) rfl), h.rd (x := a) rfl],
    by simp [h.unchained rfl]⟩

theorem Sys2Proof.Laws.Selects.cwaitAll (a : Reg) : Statement (.cwaitAll a) := by
  intro _ _
  have h : Packed (encodeNat (.cwaitAll a))
      [(2, 3), (8, 0), (5, 1), (5, 0), (5, a.toNat), (6, 59), (1, 0)] :=
    ⟨by change wordOf _ _ = _; simp only [wordOf_cons, wordOf_nil, put_eq, at20_eq, at15_eq, at10_eq, at5_eq, atC_eq, pack_cons, pack_nil]; omega,
      by decide, by decide, by decide, by decide, a.isLt, by decide, by decide, trivial⟩
  generalize encodeNat (.cwaitAll a) = w at h ⊢
  exact ⟨h.lt rfl, by simp [selectRow, selectLow, selectCopyGet, h.major rfl, h.low2 rfl, (show w / 1024 % 32 = 1 from h.at' (lo := 10) (n := 5) rfl), h.rd (x := a) rfl],
    by simp [h.unchained rfl]⟩

theorem Sys2Proof.Laws.Selects.cfirst (a : Reg) (b : Reg) : Statement (.cfirst a b) := by
  intro _ _
  have h : Packed (encodeNat (.cfirst a b))
      [(2, 3), (8, 0), (5, 2), (5, b.toNat), (5, a.toNat), (6, 59), (1, 0)] :=
    ⟨by change wordOf _ _ = _; simp only [wordOf_cons, wordOf_nil, put_eq, at20_eq, at15_eq, at10_eq, at5_eq, atC_eq, pack_cons, pack_nil]; omega,
      by decide, by decide, by decide, b.isLt, a.isLt, by decide, by decide, trivial⟩
  generalize encodeNat (.cfirst a b) = w at h ⊢
  exact ⟨h.lt rfl, by simp [selectRow, selectLow, selectCopyGet, h.major rfl, h.low2 rfl, (show w / 1024 % 32 = 2 from h.at' (lo := 10) (n := 5) rfl), h.rd (x := a) rfl, h.ra (x := b) rfl],
    by simp [h.unchained rfl]⟩

theorem Sys2Proof.Laws.Selects.cdrain (ch : BitVec 2) : Statement (.cdrain ch) := by
  intro _ _
  have h : Packed (encodeNat (.cdrain ch))
      [(2, 3), (2, ch.toNat), (6, 0), (5, 3), (10, 0), (6, 59), (1, 0)] :=
    ⟨by change wordOf _ _ = _; simp only [wordOf_cons, wordOf_nil, put_eq, at20_eq, at15_eq, at10_eq, at5_eq, atC_eq, pack_cons, pack_nil]; omega,
      by decide, ch.isLt, by decide, by decide, by decide, by decide, by decide, trivial⟩
  generalize encodeNat (.cdrain ch) = w at h ⊢
  exact ⟨h.lt rfl, by simp [selectRow, selectLow, selectCopyGet, h.major rfl, h.low2 rfl, (show w / 1024 % 32 = 3 from h.at' (lo := 10) (n := 5) rfl), h.field (n := 2) (lo := 2) (x := ch) rfl],
    by simp [h.unchained rfl]⟩

theorem Sys2Proof.Laws.Selects.cfence (mask : BitVec 4) : Statement (.cfence mask) := by
  intro _ _
  have h : Packed (encodeNat (.cfence mask))
      [(2, 3), (2, 0), (4, mask.toNat), (2, 0), (5, 4), (10, 0), (6, 59), (1, 0)] :=
    ⟨by change wordOf _ _ = _; simp only [wordOf_cons, wordOf_nil, put_eq, at20_eq, at15_eq, at10_eq, at5_eq, atC_eq, pack_cons, pack_nil]; omega,
      by decide, by decide, mask.isLt, by decide, by decide, by decide, by decide, by decide, trivial⟩
  generalize encodeNat (.cfence mask) = w at h ⊢
  exact ⟨h.lt rfl, by simp [selectRow, selectLow, selectCopyGet, h.major rfl, h.low2 rfl, (show w / 1024 % 32 = 4 from h.at' (lo := 10) (n := 5) rfl), h.field (n := 4) (lo := 4) (x := mask) rfl],
    by simp [h.unchained rfl]⟩

theorem Sys2Proof.Laws.Selects.aaddW (d : Reg) (a : Reg) (b : Reg) : Statement (.aaddW d a b) := by
  intro _ hwf
  have h : Packed (encodeNat (.aaddW d a b))
      [(5, 0), (5, 0), (5, b.toNat), (5, a.toNat), (5, d.toNat), (6, 60), (1, 0)] :=
    ⟨by change wordOf _ _ = _; simp only [wordOf_cons, wordOf_nil, put_eq, at20_eq, at15_eq, at10_eq, at5_eq, atC_eq, pack_cons, pack_nil]; omega,
      by decide, by decide, b.isLt, a.isLt, d.isLt, by decide, by decide, trivial⟩
  generalize encodeNat (.aaddW d a b) = w at h ⊢
  exact ⟨h.lt rfl, by simp [selectRow, selectAtomic, h.major rfl, h.low5 rfl, h.rd (x := d) rfl, h.ra (x := a) rfl, h.rb (x := b) rfl]; exact of_decide_eq_true hwf,
    by simp [h.unchained rfl]⟩

theorem Sys2Proof.Laws.Selects.aaddWNoret (a : Reg) (b : Reg) (ch : BitVec 2) : Statement (.aaddWNoret a b ch) := by
  intro _ _
  have h : Packed (encodeNat (.aaddWNoret a b ch))
      [(5, 0), (2, ch.toNat), (3, 0), (5, b.toNat), (5, a.toNat), (5, 0), (6, 60), (1, 0)] :=
    ⟨by change wordOf _ _ = _; simp only [wordOf_cons, wordOf_nil, put_eq, at20_eq, at15_eq, at10_eq, at5_eq, atC_eq, pack_cons, pack_nil]; omega,
      by decide, ch.isLt, by decide, b.isLt, a.isLt, by decide, by decide, by decide, trivial⟩
  generalize encodeNat (.aaddWNoret a b ch) = w at h ⊢
  exact ⟨h.lt rfl, by simp [selectRow, selectAtomic, h.major rfl, h.low5 rfl, h.ra (x := a) rfl, h.rb (x := b) rfl, h.field (n := 2) (lo := 5) (x := ch) rfl, h.rd (x := 0) rfl],
    by simp [h.unchained rfl]⟩

theorem Sys2Proof.Laws.Selects.aaddD (d : Reg) (a : Reg) (b : Reg) : Statement (.aaddD d a b) := by
  intro _ hwf
  have h : Packed (encodeNat (.aaddD d a b))
      [(5, 1), (5, 0), (5, b.toNat), (5, a.toNat), (5, d.toNat), (6, 60), (1, 0)] :=
    ⟨by change wordOf _ _ = _; simp only [wordOf_cons, wordOf_nil, put_eq, at20_eq, at15_eq, at10_eq, at5_eq, atC_eq, pack_cons, pack_nil]; omega,
      by decide, by decide, b.isLt, a.isLt, d.isLt, by decide, by decide, trivial⟩
  generalize encodeNat (.aaddD d a b) = w at h ⊢
  exact ⟨h.lt rfl, by simp [selectRow, selectAtomic, h.major rfl, h.low5 rfl, h.rd (x := d) rfl, h.ra (x := a) rfl, h.rb (x := b) rfl]; exact of_decide_eq_true hwf,
    by simp [h.unchained rfl]⟩

theorem Sys2Proof.Laws.Selects.aaddDNoret (a : Reg) (b : Reg) (ch : BitVec 2) : Statement (.aaddDNoret a b ch) := by
  intro _ _
  have h : Packed (encodeNat (.aaddDNoret a b ch))
      [(5, 1), (2, ch.toNat), (3, 0), (5, b.toNat), (5, a.toNat), (5, 0), (6, 60), (1, 0)] :=
    ⟨by change wordOf _ _ = _; simp only [wordOf_cons, wordOf_nil, put_eq, at20_eq, at15_eq, at10_eq, at5_eq, atC_eq, pack_cons, pack_nil]; omega,
      by decide, ch.isLt, by decide, b.isLt, a.isLt, by decide, by decide, by decide, trivial⟩
  generalize encodeNat (.aaddDNoret a b ch) = w at h ⊢
  exact ⟨h.lt rfl, by simp [selectRow, selectAtomic, h.major rfl, h.low5 rfl, h.ra (x := a) rfl, h.rb (x := b) rfl, h.field (n := 2) (lo := 5) (x := ch) rfl, h.rd (x := 0) rfl],
    by simp [h.unchained rfl]⟩

theorem Sys2Proof.Laws.Selects.aandW (d : Reg) (a : Reg) (b : Reg) : Statement (.aandW d a b) := by
  intro _ hwf
  have h : Packed (encodeNat (.aandW d a b))
      [(5, 2), (5, 0), (5, b.toNat), (5, a.toNat), (5, d.toNat), (6, 60), (1, 0)] :=
    ⟨by change wordOf _ _ = _; simp only [wordOf_cons, wordOf_nil, put_eq, at20_eq, at15_eq, at10_eq, at5_eq, atC_eq, pack_cons, pack_nil]; omega,
      by decide, by decide, b.isLt, a.isLt, d.isLt, by decide, by decide, trivial⟩
  generalize encodeNat (.aandW d a b) = w at h ⊢
  exact ⟨h.lt rfl, by simp [selectRow, selectAtomic, h.major rfl, h.low5 rfl, h.rd (x := d) rfl, h.ra (x := a) rfl, h.rb (x := b) rfl]; exact of_decide_eq_true hwf,
    by simp [h.unchained rfl]⟩

theorem Sys2Proof.Laws.Selects.aandWNoret (a : Reg) (b : Reg) (ch : BitVec 2) : Statement (.aandWNoret a b ch) := by
  intro _ _
  have h : Packed (encodeNat (.aandWNoret a b ch))
      [(5, 2), (2, ch.toNat), (3, 0), (5, b.toNat), (5, a.toNat), (5, 0), (6, 60), (1, 0)] :=
    ⟨by change wordOf _ _ = _; simp only [wordOf_cons, wordOf_nil, put_eq, at20_eq, at15_eq, at10_eq, at5_eq, atC_eq, pack_cons, pack_nil]; omega,
      by decide, ch.isLt, by decide, b.isLt, a.isLt, by decide, by decide, by decide, trivial⟩
  generalize encodeNat (.aandWNoret a b ch) = w at h ⊢
  exact ⟨h.lt rfl, by simp [selectRow, selectAtomic, h.major rfl, h.low5 rfl, h.ra (x := a) rfl, h.rb (x := b) rfl, h.field (n := 2) (lo := 5) (x := ch) rfl, h.rd (x := 0) rfl],
    by simp [h.unchained rfl]⟩

theorem Sys2Proof.Laws.Selects.aandD (d : Reg) (a : Reg) (b : Reg) : Statement (.aandD d a b) := by
  intro _ hwf
  have h : Packed (encodeNat (.aandD d a b))
      [(5, 3), (5, 0), (5, b.toNat), (5, a.toNat), (5, d.toNat), (6, 60), (1, 0)] :=
    ⟨by change wordOf _ _ = _; simp only [wordOf_cons, wordOf_nil, put_eq, at20_eq, at15_eq, at10_eq, at5_eq, atC_eq, pack_cons, pack_nil]; omega,
      by decide, by decide, b.isLt, a.isLt, d.isLt, by decide, by decide, trivial⟩
  generalize encodeNat (.aandD d a b) = w at h ⊢
  exact ⟨h.lt rfl, by simp [selectRow, selectAtomic, h.major rfl, h.low5 rfl, h.rd (x := d) rfl, h.ra (x := a) rfl, h.rb (x := b) rfl]; exact of_decide_eq_true hwf,
    by simp [h.unchained rfl]⟩

theorem Sys2Proof.Laws.Selects.aandDNoret (a : Reg) (b : Reg) (ch : BitVec 2) : Statement (.aandDNoret a b ch) := by
  intro _ _
  have h : Packed (encodeNat (.aandDNoret a b ch))
      [(5, 3), (2, ch.toNat), (3, 0), (5, b.toNat), (5, a.toNat), (5, 0), (6, 60), (1, 0)] :=
    ⟨by change wordOf _ _ = _; simp only [wordOf_cons, wordOf_nil, put_eq, at20_eq, at15_eq, at10_eq, at5_eq, atC_eq, pack_cons, pack_nil]; omega,
      by decide, ch.isLt, by decide, b.isLt, a.isLt, by decide, by decide, by decide, trivial⟩
  generalize encodeNat (.aandDNoret a b ch) = w at h ⊢
  exact ⟨h.lt rfl, by simp [selectRow, selectAtomic, h.major rfl, h.low5 rfl, h.ra (x := a) rfl, h.rb (x := b) rfl, h.field (n := 2) (lo := 5) (x := ch) rfl, h.rd (x := 0) rfl],
    by simp [h.unchained rfl]⟩

theorem Sys2Proof.Laws.Selects.aorW (d : Reg) (a : Reg) (b : Reg) : Statement (.aorW d a b) := by
  intro _ hwf
  have h : Packed (encodeNat (.aorW d a b))
      [(5, 4), (5, 0), (5, b.toNat), (5, a.toNat), (5, d.toNat), (6, 60), (1, 0)] :=
    ⟨by change wordOf _ _ = _; simp only [wordOf_cons, wordOf_nil, put_eq, at20_eq, at15_eq, at10_eq, at5_eq, atC_eq, pack_cons, pack_nil]; omega,
      by decide, by decide, b.isLt, a.isLt, d.isLt, by decide, by decide, trivial⟩
  generalize encodeNat (.aorW d a b) = w at h ⊢
  exact ⟨h.lt rfl, by simp [selectRow, selectAtomic, h.major rfl, h.low5 rfl, h.rd (x := d) rfl, h.ra (x := a) rfl, h.rb (x := b) rfl]; exact of_decide_eq_true hwf,
    by simp [h.unchained rfl]⟩

theorem Sys2Proof.Laws.Selects.aorWNoret (a : Reg) (b : Reg) (ch : BitVec 2) : Statement (.aorWNoret a b ch) := by
  intro _ _
  have h : Packed (encodeNat (.aorWNoret a b ch))
      [(5, 4), (2, ch.toNat), (3, 0), (5, b.toNat), (5, a.toNat), (5, 0), (6, 60), (1, 0)] :=
    ⟨by change wordOf _ _ = _; simp only [wordOf_cons, wordOf_nil, put_eq, at20_eq, at15_eq, at10_eq, at5_eq, atC_eq, pack_cons, pack_nil]; omega,
      by decide, ch.isLt, by decide, b.isLt, a.isLt, by decide, by decide, by decide, trivial⟩
  generalize encodeNat (.aorWNoret a b ch) = w at h ⊢
  exact ⟨h.lt rfl, by simp [selectRow, selectAtomic, h.major rfl, h.low5 rfl, h.ra (x := a) rfl, h.rb (x := b) rfl, h.field (n := 2) (lo := 5) (x := ch) rfl, h.rd (x := 0) rfl],
    by simp [h.unchained rfl]⟩

theorem Sys2Proof.Laws.Selects.aorD (d : Reg) (a : Reg) (b : Reg) : Statement (.aorD d a b) := by
  intro _ hwf
  have h : Packed (encodeNat (.aorD d a b))
      [(5, 5), (5, 0), (5, b.toNat), (5, a.toNat), (5, d.toNat), (6, 60), (1, 0)] :=
    ⟨by change wordOf _ _ = _; simp only [wordOf_cons, wordOf_nil, put_eq, at20_eq, at15_eq, at10_eq, at5_eq, atC_eq, pack_cons, pack_nil]; omega,
      by decide, by decide, b.isLt, a.isLt, d.isLt, by decide, by decide, trivial⟩
  generalize encodeNat (.aorD d a b) = w at h ⊢
  exact ⟨h.lt rfl, by simp [selectRow, selectAtomic, h.major rfl, h.low5 rfl, h.rd (x := d) rfl, h.ra (x := a) rfl, h.rb (x := b) rfl]; exact of_decide_eq_true hwf,
    by simp [h.unchained rfl]⟩

theorem Sys2Proof.Laws.Selects.aorDNoret (a : Reg) (b : Reg) (ch : BitVec 2) : Statement (.aorDNoret a b ch) := by
  intro _ _
  have h : Packed (encodeNat (.aorDNoret a b ch))
      [(5, 5), (2, ch.toNat), (3, 0), (5, b.toNat), (5, a.toNat), (5, 0), (6, 60), (1, 0)] :=
    ⟨by change wordOf _ _ = _; simp only [wordOf_cons, wordOf_nil, put_eq, at20_eq, at15_eq, at10_eq, at5_eq, atC_eq, pack_cons, pack_nil]; omega,
      by decide, ch.isLt, by decide, b.isLt, a.isLt, by decide, by decide, by decide, trivial⟩
  generalize encodeNat (.aorDNoret a b ch) = w at h ⊢
  exact ⟨h.lt rfl, by simp [selectRow, selectAtomic, h.major rfl, h.low5 rfl, h.ra (x := a) rfl, h.rb (x := b) rfl, h.field (n := 2) (lo := 5) (x := ch) rfl, h.rd (x := 0) rfl],
    by simp [h.unchained rfl]⟩

theorem Sys2Proof.Laws.Selects.axorW (d : Reg) (a : Reg) (b : Reg) : Statement (.axorW d a b) := by
  intro _ hwf
  have h : Packed (encodeNat (.axorW d a b))
      [(5, 6), (5, 0), (5, b.toNat), (5, a.toNat), (5, d.toNat), (6, 60), (1, 0)] :=
    ⟨by change wordOf _ _ = _; simp only [wordOf_cons, wordOf_nil, put_eq, at20_eq, at15_eq, at10_eq, at5_eq, atC_eq, pack_cons, pack_nil]; omega,
      by decide, by decide, b.isLt, a.isLt, d.isLt, by decide, by decide, trivial⟩
  generalize encodeNat (.axorW d a b) = w at h ⊢
  exact ⟨h.lt rfl, by simp [selectRow, selectAtomic, h.major rfl, h.low5 rfl, h.rd (x := d) rfl, h.ra (x := a) rfl, h.rb (x := b) rfl]; exact of_decide_eq_true hwf,
    by simp [h.unchained rfl]⟩

theorem Sys2Proof.Laws.Selects.axorWNoret (a : Reg) (b : Reg) (ch : BitVec 2) : Statement (.axorWNoret a b ch) := by
  intro _ _
  have h : Packed (encodeNat (.axorWNoret a b ch))
      [(5, 6), (2, ch.toNat), (3, 0), (5, b.toNat), (5, a.toNat), (5, 0), (6, 60), (1, 0)] :=
    ⟨by change wordOf _ _ = _; simp only [wordOf_cons, wordOf_nil, put_eq, at20_eq, at15_eq, at10_eq, at5_eq, atC_eq, pack_cons, pack_nil]; omega,
      by decide, ch.isLt, by decide, b.isLt, a.isLt, by decide, by decide, by decide, trivial⟩
  generalize encodeNat (.axorWNoret a b ch) = w at h ⊢
  exact ⟨h.lt rfl, by simp [selectRow, selectAtomic, h.major rfl, h.low5 rfl, h.ra (x := a) rfl, h.rb (x := b) rfl, h.field (n := 2) (lo := 5) (x := ch) rfl, h.rd (x := 0) rfl],
    by simp [h.unchained rfl]⟩

theorem Sys2Proof.Laws.Selects.axorD (d : Reg) (a : Reg) (b : Reg) : Statement (.axorD d a b) := by
  intro _ hwf
  have h : Packed (encodeNat (.axorD d a b))
      [(5, 7), (5, 0), (5, b.toNat), (5, a.toNat), (5, d.toNat), (6, 60), (1, 0)] :=
    ⟨by change wordOf _ _ = _; simp only [wordOf_cons, wordOf_nil, put_eq, at20_eq, at15_eq, at10_eq, at5_eq, atC_eq, pack_cons, pack_nil]; omega,
      by decide, by decide, b.isLt, a.isLt, d.isLt, by decide, by decide, trivial⟩
  generalize encodeNat (.axorD d a b) = w at h ⊢
  exact ⟨h.lt rfl, by simp [selectRow, selectAtomic, h.major rfl, h.low5 rfl, h.rd (x := d) rfl, h.ra (x := a) rfl, h.rb (x := b) rfl]; exact of_decide_eq_true hwf,
    by simp [h.unchained rfl]⟩

theorem Sys2Proof.Laws.Selects.axorDNoret (a : Reg) (b : Reg) (ch : BitVec 2) : Statement (.axorDNoret a b ch) := by
  intro _ _
  have h : Packed (encodeNat (.axorDNoret a b ch))
      [(5, 7), (2, ch.toNat), (3, 0), (5, b.toNat), (5, a.toNat), (5, 0), (6, 60), (1, 0)] :=
    ⟨by change wordOf _ _ = _; simp only [wordOf_cons, wordOf_nil, put_eq, at20_eq, at15_eq, at10_eq, at5_eq, atC_eq, pack_cons, pack_nil]; omega,
      by decide, ch.isLt, by decide, b.isLt, a.isLt, by decide, by decide, by decide, trivial⟩
  generalize encodeNat (.axorDNoret a b ch) = w at h ⊢
  exact ⟨h.lt rfl, by simp [selectRow, selectAtomic, h.major rfl, h.low5 rfl, h.ra (x := a) rfl, h.rb (x := b) rfl, h.field (n := 2) (lo := 5) (x := ch) rfl, h.rd (x := 0) rfl],
    by simp [h.unchained rfl]⟩

theorem Sys2Proof.Laws.Selects.aminW (d : Reg) (a : Reg) (b : Reg) : Statement (.aminW d a b) := by
  intro _ hwf
  have h : Packed (encodeNat (.aminW d a b))
      [(5, 8), (5, 0), (5, b.toNat), (5, a.toNat), (5, d.toNat), (6, 60), (1, 0)] :=
    ⟨by change wordOf _ _ = _; simp only [wordOf_cons, wordOf_nil, put_eq, at20_eq, at15_eq, at10_eq, at5_eq, atC_eq, pack_cons, pack_nil]; omega,
      by decide, by decide, b.isLt, a.isLt, d.isLt, by decide, by decide, trivial⟩
  generalize encodeNat (.aminW d a b) = w at h ⊢
  exact ⟨h.lt rfl, by simp [selectRow, selectAtomic, h.major rfl, h.low5 rfl, h.rd (x := d) rfl, h.ra (x := a) rfl, h.rb (x := b) rfl]; exact of_decide_eq_true hwf,
    by simp [h.unchained rfl]⟩

theorem Sys2Proof.Laws.Selects.aminWNoret (a : Reg) (b : Reg) (ch : BitVec 2) : Statement (.aminWNoret a b ch) := by
  intro _ _
  have h : Packed (encodeNat (.aminWNoret a b ch))
      [(5, 8), (2, ch.toNat), (3, 0), (5, b.toNat), (5, a.toNat), (5, 0), (6, 60), (1, 0)] :=
    ⟨by change wordOf _ _ = _; simp only [wordOf_cons, wordOf_nil, put_eq, at20_eq, at15_eq, at10_eq, at5_eq, atC_eq, pack_cons, pack_nil]; omega,
      by decide, ch.isLt, by decide, b.isLt, a.isLt, by decide, by decide, by decide, trivial⟩
  generalize encodeNat (.aminWNoret a b ch) = w at h ⊢
  exact ⟨h.lt rfl, by simp [selectRow, selectAtomic, h.major rfl, h.low5 rfl, h.ra (x := a) rfl, h.rb (x := b) rfl, h.field (n := 2) (lo := 5) (x := ch) rfl, h.rd (x := 0) rfl],
    by simp [h.unchained rfl]⟩

theorem Sys2Proof.Laws.Selects.aminD (d : Reg) (a : Reg) (b : Reg) : Statement (.aminD d a b) := by
  intro _ hwf
  have h : Packed (encodeNat (.aminD d a b))
      [(5, 9), (5, 0), (5, b.toNat), (5, a.toNat), (5, d.toNat), (6, 60), (1, 0)] :=
    ⟨by change wordOf _ _ = _; simp only [wordOf_cons, wordOf_nil, put_eq, at20_eq, at15_eq, at10_eq, at5_eq, atC_eq, pack_cons, pack_nil]; omega,
      by decide, by decide, b.isLt, a.isLt, d.isLt, by decide, by decide, trivial⟩
  generalize encodeNat (.aminD d a b) = w at h ⊢
  exact ⟨h.lt rfl, by simp [selectRow, selectAtomic, h.major rfl, h.low5 rfl, h.rd (x := d) rfl, h.ra (x := a) rfl, h.rb (x := b) rfl]; exact of_decide_eq_true hwf,
    by simp [h.unchained rfl]⟩

theorem Sys2Proof.Laws.Selects.aminDNoret (a : Reg) (b : Reg) (ch : BitVec 2) : Statement (.aminDNoret a b ch) := by
  intro _ _
  have h : Packed (encodeNat (.aminDNoret a b ch))
      [(5, 9), (2, ch.toNat), (3, 0), (5, b.toNat), (5, a.toNat), (5, 0), (6, 60), (1, 0)] :=
    ⟨by change wordOf _ _ = _; simp only [wordOf_cons, wordOf_nil, put_eq, at20_eq, at15_eq, at10_eq, at5_eq, atC_eq, pack_cons, pack_nil]; omega,
      by decide, ch.isLt, by decide, b.isLt, a.isLt, by decide, by decide, by decide, trivial⟩
  generalize encodeNat (.aminDNoret a b ch) = w at h ⊢
  exact ⟨h.lt rfl, by simp [selectRow, selectAtomic, h.major rfl, h.low5 rfl, h.ra (x := a) rfl, h.rb (x := b) rfl, h.field (n := 2) (lo := 5) (x := ch) rfl, h.rd (x := 0) rfl],
    by simp [h.unchained rfl]⟩

theorem Sys2Proof.Laws.Selects.amaxW (d : Reg) (a : Reg) (b : Reg) : Statement (.amaxW d a b) := by
  intro _ hwf
  have h : Packed (encodeNat (.amaxW d a b))
      [(5, 10), (5, 0), (5, b.toNat), (5, a.toNat), (5, d.toNat), (6, 60), (1, 0)] :=
    ⟨by change wordOf _ _ = _; simp only [wordOf_cons, wordOf_nil, put_eq, at20_eq, at15_eq, at10_eq, at5_eq, atC_eq, pack_cons, pack_nil]; omega,
      by decide, by decide, b.isLt, a.isLt, d.isLt, by decide, by decide, trivial⟩
  generalize encodeNat (.amaxW d a b) = w at h ⊢
  exact ⟨h.lt rfl, by simp [selectRow, selectAtomic, h.major rfl, h.low5 rfl, h.rd (x := d) rfl, h.ra (x := a) rfl, h.rb (x := b) rfl]; exact of_decide_eq_true hwf,
    by simp [h.unchained rfl]⟩

theorem Sys2Proof.Laws.Selects.amaxWNoret (a : Reg) (b : Reg) (ch : BitVec 2) : Statement (.amaxWNoret a b ch) := by
  intro _ _
  have h : Packed (encodeNat (.amaxWNoret a b ch))
      [(5, 10), (2, ch.toNat), (3, 0), (5, b.toNat), (5, a.toNat), (5, 0), (6, 60), (1, 0)] :=
    ⟨by change wordOf _ _ = _; simp only [wordOf_cons, wordOf_nil, put_eq, at20_eq, at15_eq, at10_eq, at5_eq, atC_eq, pack_cons, pack_nil]; omega,
      by decide, ch.isLt, by decide, b.isLt, a.isLt, by decide, by decide, by decide, trivial⟩
  generalize encodeNat (.amaxWNoret a b ch) = w at h ⊢
  exact ⟨h.lt rfl, by simp [selectRow, selectAtomic, h.major rfl, h.low5 rfl, h.ra (x := a) rfl, h.rb (x := b) rfl, h.field (n := 2) (lo := 5) (x := ch) rfl, h.rd (x := 0) rfl],
    by simp [h.unchained rfl]⟩

theorem Sys2Proof.Laws.Selects.amaxD (d : Reg) (a : Reg) (b : Reg) : Statement (.amaxD d a b) := by
  intro _ hwf
  have h : Packed (encodeNat (.amaxD d a b))
      [(5, 11), (5, 0), (5, b.toNat), (5, a.toNat), (5, d.toNat), (6, 60), (1, 0)] :=
    ⟨by change wordOf _ _ = _; simp only [wordOf_cons, wordOf_nil, put_eq, at20_eq, at15_eq, at10_eq, at5_eq, atC_eq, pack_cons, pack_nil]; omega,
      by decide, by decide, b.isLt, a.isLt, d.isLt, by decide, by decide, trivial⟩
  generalize encodeNat (.amaxD d a b) = w at h ⊢
  exact ⟨h.lt rfl, by simp [selectRow, selectAtomic, h.major rfl, h.low5 rfl, h.rd (x := d) rfl, h.ra (x := a) rfl, h.rb (x := b) rfl]; exact of_decide_eq_true hwf,
    by simp [h.unchained rfl]⟩

theorem Sys2Proof.Laws.Selects.amaxDNoret (a : Reg) (b : Reg) (ch : BitVec 2) : Statement (.amaxDNoret a b ch) := by
  intro _ _
  have h : Packed (encodeNat (.amaxDNoret a b ch))
      [(5, 11), (2, ch.toNat), (3, 0), (5, b.toNat), (5, a.toNat), (5, 0), (6, 60), (1, 0)] :=
    ⟨by change wordOf _ _ = _; simp only [wordOf_cons, wordOf_nil, put_eq, at20_eq, at15_eq, at10_eq, at5_eq, atC_eq, pack_cons, pack_nil]; omega,
      by decide, ch.isLt, by decide, b.isLt, a.isLt, by decide, by decide, by decide, trivial⟩
  generalize encodeNat (.amaxDNoret a b ch) = w at h ⊢
  exact ⟨h.lt rfl, by simp [selectRow, selectAtomic, h.major rfl, h.low5 rfl, h.ra (x := a) rfl, h.rb (x := b) rfl, h.field (n := 2) (lo := 5) (x := ch) rfl, h.rd (x := 0) rfl],
    by simp [h.unchained rfl]⟩

theorem Sys2Proof.Laws.Selects.aminuW (d : Reg) (a : Reg) (b : Reg) : Statement (.aminuW d a b) := by
  intro _ hwf
  have h : Packed (encodeNat (.aminuW d a b))
      [(5, 12), (5, 0), (5, b.toNat), (5, a.toNat), (5, d.toNat), (6, 60), (1, 0)] :=
    ⟨by change wordOf _ _ = _; simp only [wordOf_cons, wordOf_nil, put_eq, at20_eq, at15_eq, at10_eq, at5_eq, atC_eq, pack_cons, pack_nil]; omega,
      by decide, by decide, b.isLt, a.isLt, d.isLt, by decide, by decide, trivial⟩
  generalize encodeNat (.aminuW d a b) = w at h ⊢
  exact ⟨h.lt rfl, by simp [selectRow, selectAtomic, h.major rfl, h.low5 rfl, h.rd (x := d) rfl, h.ra (x := a) rfl, h.rb (x := b) rfl]; exact of_decide_eq_true hwf,
    by simp [h.unchained rfl]⟩

theorem Sys2Proof.Laws.Selects.aminuWNoret (a : Reg) (b : Reg) (ch : BitVec 2) : Statement (.aminuWNoret a b ch) := by
  intro _ _
  have h : Packed (encodeNat (.aminuWNoret a b ch))
      [(5, 12), (2, ch.toNat), (3, 0), (5, b.toNat), (5, a.toNat), (5, 0), (6, 60), (1, 0)] :=
    ⟨by change wordOf _ _ = _; simp only [wordOf_cons, wordOf_nil, put_eq, at20_eq, at15_eq, at10_eq, at5_eq, atC_eq, pack_cons, pack_nil]; omega,
      by decide, ch.isLt, by decide, b.isLt, a.isLt, by decide, by decide, by decide, trivial⟩
  generalize encodeNat (.aminuWNoret a b ch) = w at h ⊢
  exact ⟨h.lt rfl, by simp [selectRow, selectAtomic, h.major rfl, h.low5 rfl, h.ra (x := a) rfl, h.rb (x := b) rfl, h.field (n := 2) (lo := 5) (x := ch) rfl, h.rd (x := 0) rfl],
    by simp [h.unchained rfl]⟩

theorem Sys2Proof.Laws.Selects.aminuD (d : Reg) (a : Reg) (b : Reg) : Statement (.aminuD d a b) := by
  intro _ hwf
  have h : Packed (encodeNat (.aminuD d a b))
      [(5, 13), (5, 0), (5, b.toNat), (5, a.toNat), (5, d.toNat), (6, 60), (1, 0)] :=
    ⟨by change wordOf _ _ = _; simp only [wordOf_cons, wordOf_nil, put_eq, at20_eq, at15_eq, at10_eq, at5_eq, atC_eq, pack_cons, pack_nil]; omega,
      by decide, by decide, b.isLt, a.isLt, d.isLt, by decide, by decide, trivial⟩
  generalize encodeNat (.aminuD d a b) = w at h ⊢
  exact ⟨h.lt rfl, by simp [selectRow, selectAtomic, h.major rfl, h.low5 rfl, h.rd (x := d) rfl, h.ra (x := a) rfl, h.rb (x := b) rfl]; exact of_decide_eq_true hwf,
    by simp [h.unchained rfl]⟩

theorem Sys2Proof.Laws.Selects.aminuDNoret (a : Reg) (b : Reg) (ch : BitVec 2) : Statement (.aminuDNoret a b ch) := by
  intro _ _
  have h : Packed (encodeNat (.aminuDNoret a b ch))
      [(5, 13), (2, ch.toNat), (3, 0), (5, b.toNat), (5, a.toNat), (5, 0), (6, 60), (1, 0)] :=
    ⟨by change wordOf _ _ = _; simp only [wordOf_cons, wordOf_nil, put_eq, at20_eq, at15_eq, at10_eq, at5_eq, atC_eq, pack_cons, pack_nil]; omega,
      by decide, ch.isLt, by decide, b.isLt, a.isLt, by decide, by decide, by decide, trivial⟩
  generalize encodeNat (.aminuDNoret a b ch) = w at h ⊢
  exact ⟨h.lt rfl, by simp [selectRow, selectAtomic, h.major rfl, h.low5 rfl, h.ra (x := a) rfl, h.rb (x := b) rfl, h.field (n := 2) (lo := 5) (x := ch) rfl, h.rd (x := 0) rfl],
    by simp [h.unchained rfl]⟩

theorem Sys2Proof.Laws.Selects.amaxuW (d : Reg) (a : Reg) (b : Reg) : Statement (.amaxuW d a b) := by
  intro _ hwf
  have h : Packed (encodeNat (.amaxuW d a b))
      [(5, 14), (5, 0), (5, b.toNat), (5, a.toNat), (5, d.toNat), (6, 60), (1, 0)] :=
    ⟨by change wordOf _ _ = _; simp only [wordOf_cons, wordOf_nil, put_eq, at20_eq, at15_eq, at10_eq, at5_eq, atC_eq, pack_cons, pack_nil]; omega,
      by decide, by decide, b.isLt, a.isLt, d.isLt, by decide, by decide, trivial⟩
  generalize encodeNat (.amaxuW d a b) = w at h ⊢
  exact ⟨h.lt rfl, by simp [selectRow, selectAtomic, h.major rfl, h.low5 rfl, h.rd (x := d) rfl, h.ra (x := a) rfl, h.rb (x := b) rfl]; exact of_decide_eq_true hwf,
    by simp [h.unchained rfl]⟩

theorem Sys2Proof.Laws.Selects.amaxuWNoret (a : Reg) (b : Reg) (ch : BitVec 2) : Statement (.amaxuWNoret a b ch) := by
  intro _ _
  have h : Packed (encodeNat (.amaxuWNoret a b ch))
      [(5, 14), (2, ch.toNat), (3, 0), (5, b.toNat), (5, a.toNat), (5, 0), (6, 60), (1, 0)] :=
    ⟨by change wordOf _ _ = _; simp only [wordOf_cons, wordOf_nil, put_eq, at20_eq, at15_eq, at10_eq, at5_eq, atC_eq, pack_cons, pack_nil]; omega,
      by decide, ch.isLt, by decide, b.isLt, a.isLt, by decide, by decide, by decide, trivial⟩
  generalize encodeNat (.amaxuWNoret a b ch) = w at h ⊢
  exact ⟨h.lt rfl, by simp [selectRow, selectAtomic, h.major rfl, h.low5 rfl, h.ra (x := a) rfl, h.rb (x := b) rfl, h.field (n := 2) (lo := 5) (x := ch) rfl, h.rd (x := 0) rfl],
    by simp [h.unchained rfl]⟩

theorem Sys2Proof.Laws.Selects.amaxuD (d : Reg) (a : Reg) (b : Reg) : Statement (.amaxuD d a b) := by
  intro _ hwf
  have h : Packed (encodeNat (.amaxuD d a b))
      [(5, 15), (5, 0), (5, b.toNat), (5, a.toNat), (5, d.toNat), (6, 60), (1, 0)] :=
    ⟨by change wordOf _ _ = _; simp only [wordOf_cons, wordOf_nil, put_eq, at20_eq, at15_eq, at10_eq, at5_eq, atC_eq, pack_cons, pack_nil]; omega,
      by decide, by decide, b.isLt, a.isLt, d.isLt, by decide, by decide, trivial⟩
  generalize encodeNat (.amaxuD d a b) = w at h ⊢
  exact ⟨h.lt rfl, by simp [selectRow, selectAtomic, h.major rfl, h.low5 rfl, h.rd (x := d) rfl, h.ra (x := a) rfl, h.rb (x := b) rfl]; exact of_decide_eq_true hwf,
    by simp [h.unchained rfl]⟩

theorem Sys2Proof.Laws.Selects.amaxuDNoret (a : Reg) (b : Reg) (ch : BitVec 2) : Statement (.amaxuDNoret a b ch) := by
  intro _ _
  have h : Packed (encodeNat (.amaxuDNoret a b ch))
      [(5, 15), (2, ch.toNat), (3, 0), (5, b.toNat), (5, a.toNat), (5, 0), (6, 60), (1, 0)] :=
    ⟨by change wordOf _ _ = _; simp only [wordOf_cons, wordOf_nil, put_eq, at20_eq, at15_eq, at10_eq, at5_eq, atC_eq, pack_cons, pack_nil]; omega,
      by decide, ch.isLt, by decide, b.isLt, a.isLt, by decide, by decide, by decide, trivial⟩
  generalize encodeNat (.amaxuDNoret a b ch) = w at h ⊢
  exact ⟨h.lt rfl, by simp [selectRow, selectAtomic, h.major rfl, h.low5 rfl, h.ra (x := a) rfl, h.rb (x := b) rfl, h.field (n := 2) (lo := 5) (x := ch) rfl, h.rd (x := 0) rfl],
    by simp [h.unchained rfl]⟩

theorem Sys2Proof.Laws.Selects.aswpW (d : Reg) (a : Reg) (b : Reg) : Statement (.aswpW d a b) := by
  intro _ hwf
  have h : Packed (encodeNat (.aswpW d a b))
      [(5, 16), (5, 0), (5, b.toNat), (5, a.toNat), (5, d.toNat), (6, 60), (1, 0)] :=
    ⟨by change wordOf _ _ = _; simp only [wordOf_cons, wordOf_nil, put_eq, at20_eq, at15_eq, at10_eq, at5_eq, atC_eq, pack_cons, pack_nil]; omega,
      by decide, by decide, b.isLt, a.isLt, d.isLt, by decide, by decide, trivial⟩
  generalize encodeNat (.aswpW d a b) = w at h ⊢
  exact ⟨h.lt rfl, by simp [selectRow, selectAtomic, h.major rfl, h.low5 rfl, h.rd (x := d) rfl, h.ra (x := a) rfl, h.rb (x := b) rfl]; exact of_decide_eq_true hwf,
    by simp [h.unchained rfl]⟩

theorem Sys2Proof.Laws.Selects.aswpWNoret (a : Reg) (b : Reg) (ch : BitVec 2) : Statement (.aswpWNoret a b ch) := by
  intro _ _
  have h : Packed (encodeNat (.aswpWNoret a b ch))
      [(5, 16), (2, ch.toNat), (3, 0), (5, b.toNat), (5, a.toNat), (5, 0), (6, 60), (1, 0)] :=
    ⟨by change wordOf _ _ = _; simp only [wordOf_cons, wordOf_nil, put_eq, at20_eq, at15_eq, at10_eq, at5_eq, atC_eq, pack_cons, pack_nil]; omega,
      by decide, ch.isLt, by decide, b.isLt, a.isLt, by decide, by decide, by decide, trivial⟩
  generalize encodeNat (.aswpWNoret a b ch) = w at h ⊢
  exact ⟨h.lt rfl, by simp [selectRow, selectAtomic, h.major rfl, h.low5 rfl, h.ra (x := a) rfl, h.rb (x := b) rfl, h.field (n := 2) (lo := 5) (x := ch) rfl, h.rd (x := 0) rfl],
    by simp [h.unchained rfl]⟩

theorem Sys2Proof.Laws.Selects.aswpD (d : Reg) (a : Reg) (b : Reg) : Statement (.aswpD d a b) := by
  intro _ hwf
  have h : Packed (encodeNat (.aswpD d a b))
      [(5, 17), (5, 0), (5, b.toNat), (5, a.toNat), (5, d.toNat), (6, 60), (1, 0)] :=
    ⟨by change wordOf _ _ = _; simp only [wordOf_cons, wordOf_nil, put_eq, at20_eq, at15_eq, at10_eq, at5_eq, atC_eq, pack_cons, pack_nil]; omega,
      by decide, by decide, b.isLt, a.isLt, d.isLt, by decide, by decide, trivial⟩
  generalize encodeNat (.aswpD d a b) = w at h ⊢
  exact ⟨h.lt rfl, by simp [selectRow, selectAtomic, h.major rfl, h.low5 rfl, h.rd (x := d) rfl, h.ra (x := a) rfl, h.rb (x := b) rfl]; exact of_decide_eq_true hwf,
    by simp [h.unchained rfl]⟩

theorem Sys2Proof.Laws.Selects.aswpDNoret (a : Reg) (b : Reg) (ch : BitVec 2) : Statement (.aswpDNoret a b ch) := by
  intro _ _
  have h : Packed (encodeNat (.aswpDNoret a b ch))
      [(5, 17), (2, ch.toNat), (3, 0), (5, b.toNat), (5, a.toNat), (5, 0), (6, 60), (1, 0)] :=
    ⟨by change wordOf _ _ = _; simp only [wordOf_cons, wordOf_nil, put_eq, at20_eq, at15_eq, at10_eq, at5_eq, atC_eq, pack_cons, pack_nil]; omega,
      by decide, ch.isLt, by decide, b.isLt, a.isLt, by decide, by decide, by decide, trivial⟩
  generalize encodeNat (.aswpDNoret a b ch) = w at h ⊢
  exact ⟨h.lt rfl, by simp [selectRow, selectAtomic, h.major rfl, h.low5 rfl, h.ra (x := a) rfl, h.rb (x := b) rfl, h.field (n := 2) (lo := 5) (x := ch) rfl, h.rd (x := 0) rfl],
    by simp [h.unchained rfl]⟩

theorem Sys2Proof.Laws.Selects.acasW (d : Reg) (a : Reg) (b : Reg) (cmp : Reg) : Statement (.acasW d a b cmp) := by
  intro _ _
  have h : Packed (encodeNat (.acasW d a b cmp))
      [(5, 18), (5, cmp.toNat), (5, b.toNat), (5, a.toNat), (5, d.toNat), (6, 60), (1, 0)] :=
    ⟨by change wordOf _ _ = _; simp only [wordOf_cons, wordOf_nil, put_eq, at20_eq, at15_eq, at10_eq, at5_eq, atC_eq, pack_cons, pack_nil]; omega,
      by decide, cmp.isLt, b.isLt, a.isLt, d.isLt, by decide, by decide, trivial⟩
  generalize encodeNat (.acasW d a b cmp) = w at h ⊢
  exact ⟨h.lt rfl, by simp [selectRow, selectAtomic, h.major rfl, h.low5 rfl, h.rd (x := d) rfl, h.ra (x := a) rfl, h.rb (x := b) rfl, h.rf (x := cmp) rfl],
    by simp [h.unchained rfl]⟩

theorem Sys2Proof.Laws.Selects.acasD (d : Reg) (a : Reg) (b : Reg) (cmp : Reg) : Statement (.acasD d a b cmp) := by
  intro _ _
  have h : Packed (encodeNat (.acasD d a b cmp))
      [(5, 19), (5, cmp.toNat), (5, b.toNat), (5, a.toNat), (5, d.toNat), (6, 60), (1, 0)] :=
    ⟨by change wordOf _ _ = _; simp only [wordOf_cons, wordOf_nil, put_eq, at20_eq, at15_eq, at10_eq, at5_eq, atC_eq, pack_cons, pack_nil]; omega,
      by decide, cmp.isLt, b.isLt, a.isLt, d.isLt, by decide, by decide, trivial⟩
  generalize encodeNat (.acasD d a b cmp) = w at h ⊢
  exact ⟨h.lt rfl, by simp [selectRow, selectAtomic, h.major rfl, h.low5 rfl, h.rd (x := d) rfl, h.ra (x := a) rfl, h.rb (x := b) rfl, h.rf (x := cmp) rfl],
    by simp [h.unchained rfl]⟩

theorem Sys2Proof.Laws.Selects.afaddW (d : Reg) (a : Reg) (b : Reg) : Statement (.afaddW d a b) := by
  intro _ hwf
  have h : Packed (encodeNat (.afaddW d a b))
      [(5, 20), (5, 0), (5, b.toNat), (5, a.toNat), (5, d.toNat), (6, 60), (1, 0)] :=
    ⟨by change wordOf _ _ = _; simp only [wordOf_cons, wordOf_nil, put_eq, at20_eq, at15_eq, at10_eq, at5_eq, atC_eq, pack_cons, pack_nil]; omega,
      by decide, by decide, b.isLt, a.isLt, d.isLt, by decide, by decide, trivial⟩
  generalize encodeNat (.afaddW d a b) = w at h ⊢
  exact ⟨h.lt rfl, by simp [selectRow, selectAtomic, h.major rfl, h.low5 rfl, h.rd (x := d) rfl, h.ra (x := a) rfl, h.rb (x := b) rfl]; exact of_decide_eq_true hwf,
    by simp [h.unchained rfl]⟩

theorem Sys2Proof.Laws.Selects.afaddWNoret (a : Reg) (b : Reg) (ch : BitVec 2) : Statement (.afaddWNoret a b ch) := by
  intro _ _
  have h : Packed (encodeNat (.afaddWNoret a b ch))
      [(5, 20), (2, ch.toNat), (3, 0), (5, b.toNat), (5, a.toNat), (5, 0), (6, 60), (1, 0)] :=
    ⟨by change wordOf _ _ = _; simp only [wordOf_cons, wordOf_nil, put_eq, at20_eq, at15_eq, at10_eq, at5_eq, atC_eq, pack_cons, pack_nil]; omega,
      by decide, ch.isLt, by decide, b.isLt, a.isLt, by decide, by decide, by decide, trivial⟩
  generalize encodeNat (.afaddWNoret a b ch) = w at h ⊢
  exact ⟨h.lt rfl, by simp [selectRow, selectAtomic, h.major rfl, h.low5 rfl, h.ra (x := a) rfl, h.rb (x := b) rfl, h.field (n := 2) (lo := 5) (x := ch) rfl, h.rd (x := 0) rfl],
    by simp [h.unchained rfl]⟩

theorem Sys2Proof.Laws.Selects.aincbW (d : Reg) (a : Reg) (b : Reg) : Statement (.aincbW d a b) := by
  intro _ _
  have h : Packed (encodeNat (.aincbW d a b))
      [(5, 21), (5, 0), (5, b.toNat), (5, a.toNat), (5, d.toNat), (6, 60), (1, 0)] :=
    ⟨by change wordOf _ _ = _; simp only [wordOf_cons, wordOf_nil, put_eq, at20_eq, at15_eq, at10_eq, at5_eq, atC_eq, pack_cons, pack_nil]; omega,
      by decide, by decide, b.isLt, a.isLt, d.isLt, by decide, by decide, trivial⟩
  generalize encodeNat (.aincbW d a b) = w at h ⊢
  exact ⟨h.lt rfl, by simp [selectRow, selectAtomic, h.major rfl, h.low5 rfl, h.rd (x := d) rfl, h.ra (x := a) rfl, h.rb (x := b) rfl],
    by simp [h.unchained rfl]⟩

theorem Sys2Proof.Laws.Selects.aincbD (d : Reg) (a : Reg) (b : Reg) : Statement (.aincbD d a b) := by
  intro _ _
  have h : Packed (encodeNat (.aincbD d a b))
      [(5, 22), (5, 0), (5, b.toNat), (5, a.toNat), (5, d.toNat), (6, 60), (1, 0)] :=
    ⟨by change wordOf _ _ = _; simp only [wordOf_cons, wordOf_nil, put_eq, at20_eq, at15_eq, at10_eq, at5_eq, atC_eq, pack_cons, pack_nil]; omega,
      by decide, by decide, b.isLt, a.isLt, d.isLt, by decide, by decide, trivial⟩
  generalize encodeNat (.aincbD d a b) = w at h ⊢
  exact ⟨h.lt rfl, by simp [selectRow, selectAtomic, h.major rfl, h.low5 rfl, h.rd (x := d) rfl, h.ra (x := a) rfl, h.rb (x := b) rfl],
    by simp [h.unchained rfl]⟩

theorem Sys2Proof.Laws.Selects.aaddscan (d : Reg) (a : Reg) (b : Reg) (k : BitVec 2) : Statement (.aaddscan d a b k) := by
  intro _ _
  have h : Packed (encodeNat (.aaddscan d a b k))
      [(3, 0), (2, k.toNat), (5, 0), (5, b.toNat), (5, a.toNat), (5, d.toNat), (6, 61), (1, 0)] :=
    ⟨by change wordOf _ _ = _; simp only [wordOf_cons, wordOf_nil, put_eq, at20_eq, at15_eq, at10_eq, at5_eq, atC_eq, pack_cons, pack_nil]; omega,
      by decide, k.isLt, by decide, b.isLt, a.isLt, d.isLt, by decide, by decide, trivial⟩
  generalize encodeNat (.aaddscan d a b k) = w at h ⊢
  exact ⟨h.lt rfl, by simp [selectRow, selectStripAtomic, h.major rfl, h.low3 rfl, h.rd (x := d) rfl, h.ra (x := a) rfl, h.rb (x := b) rfl, h.field (n := 2) (lo := 3) (x := k) rfl],
    by simp [h.unchained rfl]⟩

theorem Sys2Proof.Laws.Selects.cmbput (d : Reg) (a : Reg) (b : Reg) (xf : Reg) (k : BitVec 2) : Statement (.cmbput d a b xf k) := by
  intro _ _
  have h : Packed (encodeNat (.cmbput d a b xf k))
      [(3, 1), (2, k.toNat), (5, xf.toNat), (5, b.toNat), (5, a.toNat), (5, d.toNat), (6, 61), (1, 0)] :=
    ⟨by change wordOf _ _ = _; simp only [wordOf_cons, wordOf_nil, put_eq, at20_eq, at15_eq, at10_eq, at5_eq, atC_eq, pack_cons, pack_nil]; omega,
      by decide, k.isLt, xf.isLt, b.isLt, a.isLt, d.isLt, by decide, by decide, trivial⟩
  generalize encodeNat (.cmbput d a b xf k) = w at h ⊢
  exact ⟨h.lt rfl, by simp [selectRow, selectStripAtomic, h.major rfl, h.low3 rfl, h.rd (x := d) rfl, h.ra (x := a) rfl, h.rb (x := b) rfl, h.rf (x := xf) rfl, h.field (n := 2) (lo := 3) (x := k) rfl],
    by simp [h.unchained rfl]⟩

theorem Sys2Proof.Laws.Selects.cmbputZ (a : Reg) (b : Reg) : Statement (.cmbputZ a b) := by
  intro _ _
  have h : Packed (encodeNat (.cmbputZ a b))
      [(3, 2), (7, 0), (5, b.toNat), (5, a.toNat), (5, 0), (6, 61), (1, 0)] :=
    ⟨by change wordOf _ _ = _; simp only [wordOf_cons, wordOf_nil, put_eq, at20_eq, at15_eq, at10_eq, at5_eq, atC_eq, pack_cons, pack_nil]; omega,
      by decide, by decide, b.isLt, a.isLt, by decide, by decide, by decide, trivial⟩
  generalize encodeNat (.cmbputZ a b) = w at h ⊢
  exact ⟨h.lt rfl, by simp [selectRow, selectStripAtomic, h.major rfl, h.low3 rfl, h.ra (x := a) rfl, h.rb (x := b) rfl],
    by simp [h.unchained rfl]⟩

theorem Sys2Proof.Laws.Selects.sbar (pre : BitVec 8) (post : BitVec 8) : Statement (.sbar pre post) := by
  intro _ _
  have h : Packed (encodeNat (.sbar pre post))
      [(5, 0), (4, 0), (8, post.toNat), (8, pre.toNat), (6, 62), (1, 0)] :=
    ⟨by change wordOf _ _ = _; simp only [wordOf_cons, wordOf_nil, put_eq, at20_eq, at15_eq, at10_eq, at5_eq, atC_eq, pack_cons, pack_nil]; omega,
      by decide, by decide, post.isLt, pre.isLt, by decide, by decide, trivial⟩
  generalize encodeNat (.sbar pre post) = w at h ⊢
  exact ⟨h.lt rfl, by simp [selectRow, selectSync, h.major rfl, h.low5 rfl, h.field (n := 8) (lo := 17) (x := pre) rfl, h.field (n := 8) (lo := 9) (x := post) rfl],
    by simp [h.unchained rfl]⟩

theorem Sys2Proof.Laws.Selects.fenceRel (sc : BitVec 2) : Statement (.fenceRel sc) := by
  intro _ _
  have h : Packed (encodeNat (.fenceRel sc))
      [(5, 1), (2, sc.toNat), (18, 0), (6, 62), (1, 0)] :=
    ⟨by change wordOf _ _ = _; simp only [wordOf_cons, wordOf_nil, put_eq, at20_eq, at15_eq, at10_eq, at5_eq, atC_eq, pack_cons, pack_nil]; omega,
      by decide, sc.isLt, by decide, by decide, by decide, trivial⟩
  generalize encodeNat (.fenceRel sc) = w at h ⊢
  exact ⟨h.lt rfl, by simp [selectRow, selectSync, h.major rfl, h.low5 rfl, h.field (n := 2) (lo := 5) (x := sc) rfl],
    by simp [h.unchained rfl]⟩

theorem Sys2Proof.Laws.Selects.fenceAcq (sc : BitVec 2) : Statement (.fenceAcq sc) := by
  intro _ _
  have h : Packed (encodeNat (.fenceAcq sc))
      [(5, 2), (2, sc.toNat), (18, 0), (6, 62), (1, 0)] :=
    ⟨by change wordOf _ _ = _; simp only [wordOf_cons, wordOf_nil, put_eq, at20_eq, at15_eq, at10_eq, at5_eq, atC_eq, pack_cons, pack_nil]; omega,
      by decide, sc.isLt, by decide, by decide, by decide, trivial⟩
  generalize encodeNat (.fenceAcq sc) = w at h ⊢
  exact ⟨h.lt rfl, by simp [selectRow, selectSync, h.major rfl, h.low5 rfl, h.field (n := 2) (lo := 5) (x := sc) rfl],
    by simp [h.unchained rfl]⟩

theorem Sys2Proof.Laws.Selects.ldAcqW (d : Reg) (a : Reg) (sc : BitVec 2) : Statement (.ldAcqW d a sc) := by
  intro _ _
  have h : Packed (encodeNat (.ldAcqW d a sc))
      [(5, 3), (2, sc.toNat), (8, 0), (5, a.toNat), (5, d.toNat), (6, 62), (1, 0)] :=
    ⟨by change wordOf _ _ = _; simp only [wordOf_cons, wordOf_nil, put_eq, at20_eq, at15_eq, at10_eq, at5_eq, atC_eq, pack_cons, pack_nil]; omega,
      by decide, sc.isLt, by decide, a.isLt, d.isLt, by decide, by decide, trivial⟩
  generalize encodeNat (.ldAcqW d a sc) = w at h ⊢
  exact ⟨h.lt rfl, by simp [selectRow, selectSync, h.major rfl, h.low5 rfl, h.rd (x := d) rfl, h.ra (x := a) rfl, h.field (n := 2) (lo := 5) (x := sc) rfl],
    by simp [h.unchained rfl]⟩

theorem Sys2Proof.Laws.Selects.ldAcqD (d : Reg) (a : Reg) (sc : BitVec 2) : Statement (.ldAcqD d a sc) := by
  intro _ _
  have h : Packed (encodeNat (.ldAcqD d a sc))
      [(5, 4), (2, sc.toNat), (8, 0), (5, a.toNat), (5, d.toNat), (6, 62), (1, 0)] :=
    ⟨by change wordOf _ _ = _; simp only [wordOf_cons, wordOf_nil, put_eq, at20_eq, at15_eq, at10_eq, at5_eq, atC_eq, pack_cons, pack_nil]; omega,
      by decide, sc.isLt, by decide, a.isLt, d.isLt, by decide, by decide, trivial⟩
  generalize encodeNat (.ldAcqD d a sc) = w at h ⊢
  exact ⟨h.lt rfl, by simp [selectRow, selectSync, h.major rfl, h.low5 rfl, h.rd (x := d) rfl, h.ra (x := a) rfl, h.field (n := 2) (lo := 5) (x := sc) rfl],
    by simp [h.unchained rfl]⟩

theorem Sys2Proof.Laws.Selects.stRelW (a : Reg) (b : Reg) (sc : BitVec 2) : Statement (.stRelW a b sc) := by
  intro _ _
  have h : Packed (encodeNat (.stRelW a b sc))
      [(5, 5), (2, sc.toNat), (3, 0), (5, b.toNat), (5, a.toNat), (5, 0), (6, 62), (1, 0)] :=
    ⟨by change wordOf _ _ = _; simp only [wordOf_cons, wordOf_nil, put_eq, at20_eq, at15_eq, at10_eq, at5_eq, atC_eq, pack_cons, pack_nil]; omega,
      by decide, sc.isLt, by decide, b.isLt, a.isLt, by decide, by decide, by decide, trivial⟩
  generalize encodeNat (.stRelW a b sc) = w at h ⊢
  exact ⟨h.lt rfl, by simp [selectRow, selectSync, h.major rfl, h.low5 rfl, h.ra (x := a) rfl, h.rb (x := b) rfl, h.field (n := 2) (lo := 5) (x := sc) rfl],
    by simp [h.unchained rfl]⟩

theorem Sys2Proof.Laws.Selects.stRelD (a : Reg) (b : Reg) (sc : BitVec 2) : Statement (.stRelD a b sc) := by
  intro _ _
  have h : Packed (encodeNat (.stRelD a b sc))
      [(5, 6), (2, sc.toNat), (3, 0), (5, b.toNat), (5, a.toNat), (5, 0), (6, 62), (1, 0)] :=
    ⟨by change wordOf _ _ = _; simp only [wordOf_cons, wordOf_nil, put_eq, at20_eq, at15_eq, at10_eq, at5_eq, atC_eq, pack_cons, pack_nil]; omega,
      by decide, sc.isLt, by decide, b.isLt, a.isLt, by decide, by decide, by decide, trivial⟩
  generalize encodeNat (.stRelD a b sc) = w at h ⊢
  exact ⟨h.lt rfl, by simp [selectRow, selectSync, h.major rfl, h.low5 rfl, h.ra (x := a) rfl, h.rb (x := b) rfl, h.field (n := 2) (lo := 5) (x := sc) rfl],
    by simp [h.unchained rfl]⟩

theorem Sys2Proof.Laws.Selects.accw (a : Reg) (b : Reg) : Statement (.accw a b) := by
  intro _ _
  have h : Packed (encodeNat (.accw a b))
      [(5, 7), (5, 0), (5, b.toNat), (5, a.toNat), (5, 0), (6, 62), (1, 0)] :=
    ⟨by change wordOf _ _ = _; simp only [wordOf_cons, wordOf_nil, put_eq, at20_eq, at15_eq, at10_eq, at5_eq, atC_eq, pack_cons, pack_nil]; omega,
      by decide, by decide, b.isLt, a.isLt, by decide, by decide, by decide, trivial⟩
  generalize encodeNat (.accw a b) = w at h ⊢
  exact ⟨h.lt rfl, by simp [selectRow, selectSync, h.major rfl, h.low5 rfl, h.ra (x := a) rfl, h.rb (x := b) rfl],
    by simp [h.unchained rfl]⟩

theorem Sys2Proof.Laws.Selects.accm (a : Reg) : Statement (.accm a) := by
  intro _ _
  have h : Packed (encodeNat (.accm a))
      [(5, 8), (10, 0), (5, a.toNat), (5, 0), (6, 62), (1, 0)] :=
    ⟨by change wordOf _ _ = _; simp only [wordOf_cons, wordOf_nil, put_eq, at20_eq, at15_eq, at10_eq, at5_eq, atC_eq, pack_cons, pack_nil]; omega,
      by decide, by decide, a.isLt, by decide, by decide, by decide, trivial⟩
  generalize encodeNat (.accm a) = w at h ⊢
  exact ⟨h.lt rfl, by simp [selectRow, selectSync, h.major rfl, h.low5 rfl, h.ra (x := a) rfl],
    by simp [h.unchained rfl]⟩

theorem Sys2Proof.Laws.Selects.ipost (a : Reg) (b : Reg) : Statement (.ipost a b) := by
  intro _ _
  have h : Packed (encodeNat (.ipost a b))
      [(5, 9), (5, 0), (5, b.toNat), (5, a.toNat), (5, 0), (6, 62), (1, 0)] :=
    ⟨by change wordOf _ _ = _; simp only [wordOf_cons, wordOf_nil, put_eq, at20_eq, at15_eq, at10_eq, at5_eq, atC_eq, pack_cons, pack_nil]; omega,
      by decide, by decide, b.isLt, a.isLt, by decide, by decide, by decide, trivial⟩
  generalize encodeNat (.ipost a b) = w at h ⊢
  exact ⟨h.lt rfl, by simp [selectRow, selectSync, h.major rfl, h.low5 rfl, h.ra (x := a) rfl, h.rb (x := b) rfl],
    by simp [h.unchained rfl]⟩

theorem Sys2Proof.Laws.Selects.iwait (d : Reg) (a : Reg) (b : Reg) : Statement (.iwait d a b) := by
  intro _ _
  have h : Packed (encodeNat (.iwait d a b))
      [(5, 10), (5, 0), (5, b.toNat), (5, a.toNat), (5, d.toNat), (6, 62), (1, 0)] :=
    ⟨by change wordOf _ _ = _; simp only [wordOf_cons, wordOf_nil, put_eq, at20_eq, at15_eq, at10_eq, at5_eq, atC_eq, pack_cons, pack_nil]; omega,
      by decide, by decide, b.isLt, a.isLt, d.isLt, by decide, by decide, trivial⟩
  generalize encodeNat (.iwait d a b) = w at h ⊢
  exact ⟨h.lt rfl, by simp [selectRow, selectSync, h.major rfl, h.low5 rfl, h.rd (x := d) rfl, h.ra (x := a) rfl, h.rb (x := b) rfl],
    by simp [h.unchained rfl]⟩

theorem Sys2Proof.Laws.Selects.mbarArr (d : Reg) (a : Reg) : Statement (.mbarArr d a) := by
  intro _ _
  have h : Packed (encodeNat (.mbarArr d a))
      [(5, 11), (10, 0), (5, a.toNat), (5, d.toNat), (6, 62), (1, 0)] :=
    ⟨by change wordOf _ _ = _; simp only [wordOf_cons, wordOf_nil, put_eq, at20_eq, at15_eq, at10_eq, at5_eq, atC_eq, pack_cons, pack_nil]; omega,
      by decide, by decide, a.isLt, d.isLt, by decide, by decide, trivial⟩
  generalize encodeNat (.mbarArr d a) = w at h ⊢
  exact ⟨h.lt rfl, by simp [selectRow, selectSync, h.major rfl, h.low5 rfl, h.rd (x := d) rfl, h.ra (x := a) rfl],
    by simp [h.unchained rfl]⟩

theorem Sys2Proof.Laws.Selects.mbarWait (a : Reg) (b : Reg) : Statement (.mbarWait a b) := by
  intro _ _
  have h : Packed (encodeNat (.mbarWait a b))
      [(5, 12), (5, 0), (5, b.toNat), (5, a.toNat), (5, 0), (6, 62), (1, 0)] :=
    ⟨by change wordOf _ _ = _; simp only [wordOf_cons, wordOf_nil, put_eq, at20_eq, at15_eq, at10_eq, at5_eq, atC_eq, pack_cons, pack_nil]; omega,
      by decide, by decide, b.isLt, a.isLt, by decide, by decide, by decide, trivial⟩
  generalize encodeNat (.mbarWait a b) = w at h ⊢
  exact ⟨h.lt rfl, by simp [selectRow, selectSync, h.major rfl, h.low5 rfl, h.ra (x := a) rfl, h.rb (x := b) rfl],
    by simp [h.unchained rfl]⟩

theorem Sys2Proof.Laws.Selects.dbarArr (d : Reg) (a : Reg) : Statement (.dbarArr d a) := by
  intro _ _
  have h : Packed (encodeNat (.dbarArr d a))
      [(5, 13), (10, 0), (5, a.toNat), (5, d.toNat), (6, 62), (1, 0)] :=
    ⟨by change wordOf _ _ = _; simp only [wordOf_cons, wordOf_nil, put_eq, at20_eq, at15_eq, at10_eq, at5_eq, atC_eq, pack_cons, pack_nil]; omega,
      by decide, by decide, a.isLt, d.isLt, by decide, by decide, trivial⟩
  generalize encodeNat (.dbarArr d a) = w at h ⊢
  exact ⟨h.lt rfl, by simp [selectRow, selectSync, h.major rfl, h.low5 rfl, h.rd (x := d) rfl, h.ra (x := a) rfl],
    by simp [h.unchained rfl]⟩

theorem Sys2Proof.Laws.Selects.dbarWait (a : Reg) (b : Reg) : Statement (.dbarWait a b) := by
  intro _ _
  have h : Packed (encodeNat (.dbarWait a b))
      [(5, 14), (5, 0), (5, b.toNat), (5, a.toNat), (5, 0), (6, 62), (1, 0)] :=
    ⟨by change wordOf _ _ = _; simp only [wordOf_cons, wordOf_nil, put_eq, at20_eq, at15_eq, at10_eq, at5_eq, atC_eq, pack_cons, pack_nil]; omega,
      by decide, by decide, b.isLt, a.isLt, by decide, by decide, by decide, trivial⟩
  generalize encodeNat (.dbarWait a b) = w at h ⊢
  exact ⟨h.lt rfl, by simp [selectRow, selectSync, h.major rfl, h.low5 rfl, h.ra (x := a) rfl, h.rb (x := b) rfl],
    by simp [h.unchained rfl]⟩

theorem Sys2Proof.Laws.Selects.mwait (d : Reg) (a : Reg) (b : Reg) (tmo : Reg) : Statement (.mwait d a b tmo) := by
  intro _ _
  have h : Packed (encodeNat (.mwait d a b tmo))
      [(5, 15), (5, tmo.toNat), (5, b.toNat), (5, a.toNat), (5, d.toNat), (6, 62), (1, 0)] :=
    ⟨by change wordOf _ _ = _; simp only [wordOf_cons, wordOf_nil, put_eq, at20_eq, at15_eq, at10_eq, at5_eq, atC_eq, pack_cons, pack_nil]; omega,
      by decide, tmo.isLt, b.isLt, a.isLt, d.isLt, by decide, by decide, trivial⟩
  generalize encodeNat (.mwait d a b tmo) = w at h ⊢
  exact ⟨h.lt rfl, by simp [selectRow, selectSync, h.major rfl, h.low5 rfl, h.rd (x := d) rfl, h.ra (x := a) rfl, h.rb (x := b) rfl, h.rf (x := tmo) rfl],
    by simp [h.unchained rfl]⟩

theorem Sys2Proof.Laws.Selects.qput (d : Reg) (a : Reg) (b : Reg) : Statement (.qput d a b) := by
  intro _ _
  have h : Packed (encodeNat (.qput d a b))
      [(5, 16), (5, 0), (5, b.toNat), (5, a.toNat), (5, d.toNat), (6, 62), (1, 0)] :=
    ⟨by change wordOf _ _ = _; simp only [wordOf_cons, wordOf_nil, put_eq, at20_eq, at15_eq, at10_eq, at5_eq, atC_eq, pack_cons, pack_nil]; omega,
      by decide, by decide, b.isLt, a.isLt, d.isLt, by decide, by decide, trivial⟩
  generalize encodeNat (.qput d a b) = w at h ⊢
  exact ⟨h.lt rfl, by simp [selectRow, selectSync, h.major rfl, h.low5 rfl, h.rd (x := d) rfl, h.ra (x := a) rfl, h.rb (x := b) rfl],
    by simp [h.unchained rfl]⟩

theorem Sys2Proof.Laws.Selects.ktrig : Statement .ktrig := by
  intro _ _
  have h : Packed (encodeNat .ktrig)
      [(5, 17), (20, 0), (6, 62), (1, 0)] :=
    ⟨rfl,
      by decide, by decide, by decide, by decide, trivial⟩
  generalize encodeNat .ktrig = w at h ⊢
  exact ⟨h.lt rfl, by simp [selectRow, selectSync, h.major rfl, h.low5 rfl],
    by simp [h.unchained rfl]⟩

theorem Sys2Proof.Laws.Selects.sealWord : Statement .sealWord := by
  intro _ _
  have h : Packed (encodeNat .sealWord)
      [(5, 18), (20, 0), (6, 62), (1, 0)] :=
    ⟨rfl,
      by decide, by decide, by decide, by decide, trivial⟩
  generalize encodeNat .sealWord = w at h ⊢
  exact ⟨h.lt rfl, by simp [selectRow, selectSync, h.major rfl, h.low5 rfl],
    by simp [h.unchained rfl]⟩

theorem Sys2Proof.Laws.Selects.xhold : Statement .xhold := by
  intro _ _
  have h : Packed (encodeNat .xhold)
      [(5, 19), (20, 0), (6, 62), (1, 0)] :=
    ⟨rfl,
      by decide, by decide, by decide, by decide, trivial⟩
  generalize encodeNat .xhold = w at h ⊢
  exact ⟨h.lt rfl, by simp [selectRow, selectSync, h.major rfl, h.low5 rfl],
    by simp [h.unchained rfl]⟩

theorem Sys2Proof.Laws.Selects.slabCycle (core : Nat) : Statement (.slabCycle core) := fun h => nomatch h

theorem Sys2Proof.Laws.Selects.strandOverdue (sid : Nat) : Statement (.strandOverdue sid) := fun h => nomatch h

theorem Sys2Proof.Laws.Selects.timerTrap (sid : Nat) : Statement (.timerTrap sid) := fun h => nomatch h

theorem Sys2Proof.Laws.Selects.wfiWake (sid : Nat) : Statement (.wfiWake sid) := fun h => nomatch h

theorem Sys2Proof.Laws.Selects.trcctlMark (core : Nat) (mark : BitVec 16) : Statement (.trcctlMark core mark) := fun h => nomatch h

theorem Sys2Proof.Laws.Selects.trcctlCopy (core : Nat) : Statement (.trcctlCopy core) := fun h => nomatch h

theorem Sys2Proof.Laws.Selects.trcctlClr (core : Nat) : Statement (.trcctlClr core) := fun h => nomatch h

theorem Sys2Proof.Laws.Selects.registerWrite (r : SysReg) (val : W64) : Statement (.registerWrite r val) := fun h => nomatch h

theorem Sys2Proof.Laws.Selects.barrierConfigWrite (b : BarId) (val : W64) : Statement (.barrierConfigWrite b val) := fun h => nomatch h

theorem Sys2Proof.Laws.Selects.ringConfigWrite (meadow : Nat) (stage : Nat) (state : Bool) (val : W64) : Statement (.ringConfigWrite meadow stage state val) := fun h => nomatch h

theorem Sys2Proof.Laws.Selects.hberrClear (bank : Nat) (val : W64) : Statement (.hberrClear bank val) := fun h => nomatch h

theorem Sys2Proof.Laws.Selects.editPortWrite (sys : Nat) (ctx : Nat) (va : Nat) (addr : Nat) (entry : W64) (mark : Option Bool) : Statement (.editPortWrite sys ctx va addr entry mark) := fun h => nomatch h

theorem Sys2Proof.Laws.Selects.shootDown (sys : Nat) (ctx : Nat) (va : Nat) (len : Nat) : Statement (.shootDown sys ctx va len) := fun h => nomatch h

theorem Sys2Proof.Laws.Selects.tlbParityRefetch (core : Nat) (ctx : Nat) (va : Nat) : Statement (.tlbParityRefetch core ctx va) := fun h => nomatch h

theorem Sys2Proof.Laws.Selects.copyLand (sid : Nat) (tag : BitVec 6) : Statement (.copyLand sid tag) := fun h => nomatch h

theorem Sys2Proof.Laws.Selects.copyFault (sid : Nat) (tag : BitVec 6) : Statement (.copyFault sid tag) := fun h => nomatch h

theorem Sys2Proof.Laws.Selects.copySourceError (sid : Nat) (tag : BitVec 6) (e : SourceError) : Statement (.copySourceError sid tag e) := fun h => nomatch h

theorem Sys2Proof.Laws.Selects.copySourcePoison (sid : Nat) (tag : BitVec 6) : Statement (.copySourcePoison sid tag) := fun h => nomatch h

theorem Sys2Proof.Laws.Selects.atomicResponse (sid : Nat) : Statement (.atomicResponse sid) := fun h => nomatch h

theorem Sys2Proof.Laws.Selects.noreturnAtomicPerform (sid : Nat) (ch : BitVec 2) : Statement (.noreturnAtomicPerform sid ch) := fun h => nomatch h

theorem Sys2Proof.Laws.Selects.cmbputPerform (sid : Nat) : Statement (.cmbputPerform sid) := fun h => nomatch h

theorem Sys2Proof.Laws.Selects.heathSlotCheck (sid : Nat) (tag : BitVec 6) : Statement (.heathSlotCheck sid tag) := fun h => nomatch h

theorem Sys2Proof.Laws.Selects.heathPass1Done (sid : Nat) (tag : BitVec 6) : Statement (.heathPass1Done sid tag) := fun h => nomatch h

theorem Sys2Proof.Laws.Selects.heathBankError (sid : Nat) (tag : BitVec 6) (pa : Nat) : Statement (.heathBankError sid tag pa) := fun h => nomatch h

theorem Sys2Proof.Laws.Selects.heathReply (sid : Nat) (tag : BitVec 6) : Statement (.heathReply sid tag) := fun h => nomatch h

theorem Sys2Proof.Laws.Selects.hbcastLand (sid : Nat) (tag : BitVec 6) : Statement (.hbcastLand sid tag) := fun h => nomatch h

theorem Sys2Proof.Laws.Selects.hmoveDone (sid : Nat) (tag : BitVec 6) (bad : Option Nat) : Statement (.hmoveDone sid tag bad) := fun h => nomatch h

theorem Sys2Proof.Laws.Selects.hevictDone (sid : Nat) : Statement (.hevictDone sid) := fun h => nomatch h

theorem Sys2Proof.Laws.Selects.hrestoreDone (sid : Nat) : Statement (.hrestoreDone sid) := fun h => nomatch h

theorem Sys2Proof.Laws.Selects.barrierTimeout (sid : Nat) : Statement (.barrierTimeout sid) := fun h => nomatch h

theorem Sys2Proof.Laws.Selects.iwaitTimeout (sid : Nat) : Statement (.iwaitTimeout sid) := fun h => nomatch h

theorem Sys2Proof.Laws.Selects.mwaitTimeout (sid : Nat) : Statement (.mwaitTimeout sid) := fun h => nomatch h

theorem Sys2Proof.Laws.Selects.walkerPlace : Statement .walkerPlace := fun h => nomatch h

theorem Sys2Proof.Laws.Selects.preemptRequest (core : Nat) (ctx : Nat) : Statement (.preemptRequest core ctx) := fun h => nomatch h

theorem Sys2Proof.Laws.Selects.preemptSaveDone (core : Nat) : Statement (.preemptSaveDone core) := fun h => nomatch h

theorem Sys2Proof.Laws.Selects.laneReclaimRequest (core : Nat) (ctx : Nat) : Statement (.laneReclaimRequest core ctx) := fun h => nomatch h

theorem Sys2Proof.Laws.Selects.reclaimTimeout (core : Nat) : Statement (.reclaimTimeout core) := fun h => nomatch h

theorem Sys2Proof.Laws.Selects.laneWaitReturn (gid : Nat) : Statement (.laneWaitReturn gid) := fun h => nomatch h

theorem Sys2Proof.Laws.Selects.groupRestore (gid : Nat) : Statement (.groupRestore gid) := fun h => nomatch h

theorem Sys2Proof.Laws.Selects.ueConsumed (sid : Nat) (site : ErrSite) (addr : W64) (mismatch : Bool) (ch : Option (BitVec 2)) : Statement (.ueConsumed sid site addr mismatch ch) := fun h => nomatch h

theorem Sys2Proof.Laws.Selects.scrubberVisit (heath : Bool) (line : Nat) (found : Scrub) : Statement (.scrubberVisit heath line found) := fun h => nomatch h

theorem Sys2Proof.Laws.Selects.sealTimer : Statement .sealTimer := fun h => nomatch h

theorem Sys2Proof.Laws.Selects.sealRequest (module : Nat) : Statement (.sealRequest module) := fun h => nomatch h

theorem Sys2Proof.Laws.Selects.sealPrepare (n : W32) : Statement (.sealPrepare n) := fun h => nomatch h

theorem Sys2Proof.Laws.Selects.sealResume : Statement .sealResume := fun h => nomatch h

theorem Sys2Proof.Laws.Selects.sealImagesDone : Statement .sealImagesDone := fun h => nomatch h

theorem Sys2Proof.Laws.Selects.sealReady (module : Nat) : Statement (.sealReady module) := fun h => nomatch h

theorem Sys2Proof.Laws.Selects.sealCommit (ns : Nat) : Statement (.sealCommit ns) := fun h => nomatch h

theorem Sys2Proof.Laws.Selects.sealAbort : Statement .sealAbort := fun h => nomatch h

theorem Sys2Proof.Laws.Selects.sealReadyTimeout : Statement .sealReadyTimeout := fun h => nomatch h

theorem Sys2Proof.Laws.Selects.coordinatorTimeout : Statement .coordinatorTimeout := fun h => nomatch h

theorem Sys2Proof.Laws.Selects.rollback (begun : List Nat) : Statement (.rollback begun) := fun h => nomatch h

theorem Sys2Proof.Laws.Selects.initialSeal : Statement .initialSeal := fun h => nomatch h

theorem Sys2Proof.Laws.Selects.snapshotStreamEnd : Statement .snapshotStreamEnd := fun h => nomatch h

theorem Sys2Proof.Laws.Selects.jeoreAck (port : Nat) (seq : BitVec 16) : Statement (.jeoreAck port seq) := fun h => nomatch h

theorem Sys2Proof.Laws.Selects.jeoreNak (port : Nat) (last : BitVec 16) : Statement (.jeoreNak port last) := fun h => nomatch h

theorem Sys2Proof.Laws.Selects.jeoreFlitBad (port : Nat) : Statement (.jeoreFlitBad port) := fun h => nomatch h

theorem Sys2Proof.Laws.Selects.jeoreRemoteWrite (port : Nat) (heath : Bool) (addr : Nat) (bytes : List Byte) (owner : BitVec 12) : Statement (.jeoreRemoteWrite port heath addr bytes owner) := fun h => nomatch h

theorem Sys2Proof.Laws.Selects.jeoreAtomicRequest (port : Nat) (op : AtomOp) (wide : Bool) (addr : Nat) (b c : W64) (who : Asker) (more : AtomRest) : Statement (.jeoreAtomicRequest port op wide addr b c who more) := fun h => nomatch h

theorem Sys2Proof.Laws.Selects.jeoreAtomicResponse (port : Nat) (who : Asker) (answer : AtomAnswer) : Statement (.jeoreAtomicResponse port who answer) := fun h => nomatch h

theorem Sys2Proof.Laws.Selects.jeoreCopyReadRequest (port : Nat) (first : Nat × Nat) (more : List (Nat × Nat)) : Statement (.jeoreCopyReadRequest port first more) := fun h => nomatch h

theorem Sys2Proof.Laws.Selects.jeoreCopyReadData (port : Nat) (copy : CopyName) (bytes : List Byte) : Statement (.jeoreCopyReadData port copy bytes) := fun h => nomatch h

theorem Sys2Proof.Laws.Selects.linkTrainingComplete (port : Nat) (wide : Bool) : Statement (.linkTrainingComplete port wide) := fun h => nomatch h

theorem Sys2Proof.Laws.Selects.linkTrainingTimeout (port : Nat) : Statement (.linkTrainingTimeout port) := fun h => nomatch h

theorem Sys2Proof.Laws.Selects.linkLaneLost (port : Nat) : Statement (.linkLaneLost port) := fun h => nomatch h

theorem Sys2Proof.Laws.Selects.hostLinkDown : Statement .hostLinkDown := fun h => nomatch h

theorem Sys2Proof.Laws.Selects.hostLinkUp : Statement .hostLinkUp := fun h => nomatch h

theorem Sys2Proof.Laws.Selects.moduleBoot (a b : Option BootSlot) : Statement (.moduleBoot a b) := fun h => nomatch h

theorem Sys2Proof.Laws.Selects.unitStart (u : StartUnit) : Statement (.unitStart u) := fun h => nomatch h

theorem Sys2Proof.Laws.Selects.matrixIdle (core : Nat) : Statement (.matrixIdle core) := fun h => nomatch h

theorem Sys2Proof.Laws.Selects.heathGovernorWindow (watts : Nat) : Statement (.heathGovernorWindow watts) := fun h => nomatch h

theorem Sys2Proof.Laws.Selects.thermalThrottle : Statement .thermalThrottle := fun h => nomatch h

theorem Sys2Proof.Laws.Selects.thermalShutdown : Statement .thermalShutdown := fun h => nomatch h

theorem Sys2Proof.Laws.Selects.commandReply (fn : Nat) : Statement (.commandReply fn) := fun h => nomatch h

theorem Sys2Proof.Laws.Selects.identify (fn : Nat) : Statement (.identify fn) := fun h => nomatch h

theorem Sys2Proof.Laws.Selects.attest (fn : Nat) (nonce : List Byte) (buf : Nat) (len : Nat) : Statement (.attest fn nonce buf len) := fun h => nomatch h

theorem Sys2Proof.Laws.Selects.createContext (fn : Nat) (p : CtxParams) : Statement (.createContext fn p) := fun h => nomatch h

theorem Sys2Proof.Laws.Selects.destroyContext (fn : Nat) (ctx : Nat) : Statement (.destroyContext fn ctx) := fun h => nomatch h

theorem Sys2Proof.Laws.Selects.stopContext (fn : Nat) (ctx : Nat) : Statement (.stopContext fn ctx) := fun h => nomatch h

theorem Sys2Proof.Laws.Selects.resumeContext (fn : Nat) (ctx : Nat) : Statement (.resumeContext fn ctx) := fun h => nomatch h

theorem Sys2Proof.Laws.Selects.mapPages (fn : Nat) (p : MapParams) : Statement (.mapPages fn p) := fun h => nomatch h

theorem Sys2Proof.Laws.Selects.unmapPages (fn : Nat) (ctx : Nat) (va : Nat) (len : Nat) : Statement (.unmapPages fn ctx va len) := fun h => nomatch h

theorem Sys2Proof.Laws.Selects.hostImport (fn : Nat) (ctx : Nat) (va : Nat) (hostAddr : Nat) (len : Nat) : Statement (.hostImport fn ctx va hostAddr len) := fun h => nomatch h

theorem Sys2Proof.Laws.Selects.hostExport (fn : Nat) (ctx : Nat) (va : Nat) (hostAddr : Nat) (len : Nat) : Statement (.hostExport fn ctx va hostAddr len) := fun h => nomatch h

theorem Sys2Proof.Laws.Selects.runRoot (fn : Nat) (ctx : Nat) (recVa : Nat) : Statement (.runRoot fn ctx recVa) := fun h => nomatch h

theorem Sys2Proof.Laws.Selects.snapshot (fn : Nat) (ctx : Option Nat) : Statement (.snapshot fn ctx) := fun h => nomatch h

theorem Sys2Proof.Laws.Selects.restoreModule (fn : Nat) : Statement (.restoreModule fn) := fun h => nomatch h

theorem Sys2Proof.Laws.Selects.readDump (fn : Nat) (tenant : W64) (slot : Option Nat) (release : Bool) (hostAddr : Nat) : Statement (.readDump fn tenant slot release hostAddr) := fun h => nomatch h

theorem Sys2Proof.Laws.Selects.configureLinks (fn : Nat) (p : LinkParams) : Statement (.configureLinks fn p) := fun h => nomatch h

theorem Sys2Proof.Laws.Selects.configureManagement (fn : Nat) (p : MgmtParams) : Statement (.configureManagement fn p) := fun h => nomatch h

theorem Sys2Proof.Laws.Selects.resetFunction (fn : Nat) : Statement (.resetFunction fn) := fun h => nomatch h

theorem Sys2Proof.Laws.Selects.resetModule (fn : Nat) : Statement (.resetModule fn) := fun h => nomatch h

theorem Sys2Proof.Laws.Selects.cmdregWrite (fn : Nat) (opc : BitVec 16) (seq : W32) (page : CmdParam) (val : W64) : Statement (.cmdregWrite fn opc seq page val) := fun h => nomatch h

theorem Sys2Proof.Laws.Selects.scratchpadBankWake (core : Nat) (bank : Nat) : Statement (.scratchpadBankWake core bank) := fun h => nomatch h

theorem Sys2Proof.Laws.Selects.copyPerformed (sid : Nat) (tag : BitVec 6) : Statement (.copyPerformed sid tag) := fun h => nomatch h

theorem Sys2Proof.Laws.Selects.replayStart : Statement .replayStart := fun h => nomatch h

theorem Sys2Proof.Laws.Selects.testServiceSet (on : Bool) : Statement (.testServiceSet on) := fun h => nomatch h
end

