-- ==== Sys2Proof/Laws/Step.lean ====
section
/-! SUPPORT. What a dispatch performs: the word that decodes to an instruction performs that instruction, and whatever a word
is, its dispatch ends with `State.finish`. -/

namespace Sys2Proof.Machine

theorem checkRow_some (w : Nat) (j i : Instr) (h : checkRow w (some j) = .ok i) : encodeNat j = w ∧ j = i := by
  simp only [checkRow] at h
  split at h
  · rename_i hj
    injection h with h
    exact ⟨hj.1, h⟩
  · cases h

theorem highRow_run (w row : Nat) (run : State → Host.Outcome State Fault Refusal) (s : State) (h : row = w) :
    highRow w row run s = run s := by simp [highRow, h]

theorem issueAtomic_decoded (w : Nat) (i : Instr) (s : State) (h : checkRow w (selectAtomic w) = .ok i) :
    issueAtomic w s = exec i s := by
  unfold selectAtomic at h
  unfold issueAtomic
  split at h
  all_goals first
    | cases h
    | (rename_i hk
       try simp only [hk]
       split at h
       all_goals
         obtain ⟨he, rfl⟩ := checkRow_some _ _ _ h
         rename_i hz
         try simp only [hz, if_true, if_false]
         exact highRow_run _ _ _ _ he)
    | (rename_i hk
       try simp only [hk]
       obtain ⟨he, rfl⟩ := checkRow_some _ _ _ h
       exact highRow_run _ _ _ _ he)

theorem issueStripAtomic_decoded (w : Nat) (i : Instr) (s : State) (h : checkRow w (selectStripAtomic w) = .ok i) :
    issueStripAtomic w s = exec i s := by
  unfold selectStripAtomic at h
  unfold issueStripAtomic
  split at h
  all_goals first
    | cases h
    | (rename_i hk
       try simp only [hk]
       obtain ⟨he, rfl⟩ := checkRow_some _ _ _ h
       exact highRow_run _ _ _ _ he)

theorem issueSync_decoded (w : Nat) (i : Instr) (s : State) (h : checkRow w (selectSync w) = .ok i) :
    issueSync w s = exec i s := by
  unfold selectSync at h
  unfold issueSync
  split at h
  all_goals first
    | cases h
    | (rename_i hk
       try simp only [hk]
       obtain ⟨he, rfl⟩ := checkRow_some _ _ _ h
       exact highRow_run _ _ _ _ he)

/-- A word that decodes performs the instruction that it decodes to. -/
theorem issueWord_decoded (x : W32) (i : Instr) (s : State) (h : decodeRaw x = .ok i) : issueWord exec x s = exec i s := by
  unfold decodeRaw at h
  unfold issueWord
  split at h
  · cases h
  · rename_i hf
    simp only [if_neg hf]
    unfold selectRow at h
    split at h
    · rename_i hm
      try simp only [hm]
      exact issueAtomic_decoded _ _ _ h
    · rename_i hm
      try simp only [hm]
      exact issueStripAtomic_decoded _ _ _ h
    · rename_i hm
      try simp only [hm]
      exact issueSync_decoded _ _ _ h
    · rw [h] <;>
        (split <;>
          first
            | rfl
            | contradiction)

/-! ### Every dispatch finishes -/

theorem highRow_finishes (w row : Nat) (run : State → Host.Outcome State Fault Refusal) (s : State)
    (h : ∃ out, run s = s.finish out) : ∃ out, highRow w row run s = s.finish out := by
  unfold highRow
  split
  · exact h
  · exact finish_finishes _ _

theorem issueLow_finishes (i : Instr) (s : State) : ∃ out, issueLow i s = s.finish out := by
  cases i with
  | add => exact execAdd_finishes ..
  | sub => exact execSub_finishes ..
  | and => exact execAnd_finishes ..
  | or => exact execOr_finishes ..
  | xor => exact execXor_finishes ..
  | sll => exact execSll_finishes ..
  | srl => exact execSrl_finishes ..
  | sra => exact execSra_finishes ..
  | slt => exact execSlt_finishes ..
  | sltu => exact execSltu_finishes ..
  | mul => exact execMul_finishes ..
  | mulh => exact execMulh_finishes ..
  | mulhu => exact execMulhu_finishes ..
  | div => exact execDiv_finishes ..
  | divu => exact execDivu_finishes ..
  | rem => exact execRem_finishes ..
  | remu => exact execRemu_finishes ..
  | min => exact execMin_finishes ..
  | max => exact execMax_finishes ..
  | minu => exact execMinu_finishes ..
  | maxu => exact execMaxu_finishes ..
  | clz => exact execClz_finishes ..
  | ctz => exact execCtz_finishes ..
  | popc => exact execPopc_finishes ..
  | zextb => exact execZextb_finishes ..
  | zexth => exact execZexth_finishes ..
  | zextw => exact execZextw_finishes ..
  | sextb => exact execSextb_finishes ..
  | sexth => exact execSexth_finishes ..
  | sextw => exact execSextw_finishes ..
  | addi => exact execAddi_finishes ..
  | andi => exact execAndi_finishes ..
  | ori => exact execOri_finishes ..
  | xori => exact execXori_finishes ..
  | slti => exact execSlti_finishes ..
  | sltiu => exact execSltiu_finishes ..
  | slli => exact execSlli_finishes ..
  | srli => exact execSrli_finishes ..
  | srai => exact execSrai_finishes ..
  | lhi => exact execLhi_finishes ..
  | lpc => exact execLpc_finishes ..
  | fadd => exact execFadd_finishes ..
  | fsub => exact execFsub_finishes ..
  | fmul => exact execFmul_finishes ..
  | fdiv => exact execFdiv_finishes ..
  | fsqrt => exact execFsqrt_finishes ..
  | fmin => exact execFmin_finishes ..
  | fmax => exact execFmax_finishes ..
  | feq => exact execFeq_finishes ..
  | flt => exact execFlt_finishes ..
  | fle => exact execFle_finishes ..
  | fcvtSL => exact execFcvtSL_finishes ..
  | fcvtLS => exact execFcvtLS_finishes ..
  | fclass => exact execFclass_finishes ..
  | fmadd => exact execFmadd_finishes ..
  | fmsub => exact execFmsub_finishes ..
  | fnmadd => exact execFnmadd_finishes ..
  | fnmsub => exact execFnmsub_finishes ..
  | beq => exact execBeq_finishes ..
  | bne => exact execBne_finishes ..
  | blt => exact execBlt_finishes ..
  | bge => exact execBge_finishes ..
  | bltu => exact execBltu_finishes ..
  | bgeu => exact execBgeu_finishes ..
  | jal => exact execJal_finishes ..
  | jalr => exact execJalr_finishes ..
  | ldB => exact execLdB_finishes ..
  | ldH => exact execLdH_finishes ..
  | ldW => exact execLdW_finishes ..
  | ldD => exact execLdD_finishes ..
  | stB => exact execStB_finishes ..
  | stH => exact execStH_finishes ..
  | stW => exact execStW_finishes ..
  | stD => exact execStD_finishes ..
  | spldB => exact execSpldB_finishes ..
  | spldH => exact execSpldH_finishes ..
  | spldW => exact execSpldW_finishes ..
  | spldD => exact execSpldD_finishes ..
  | spstB => exact execSpstB_finishes ..
  | spstH => exact execSpstH_finishes ..
  | spstW => exact execSpstW_finishes ..
  | spstD => exact execSpstD_finishes ..
  | csrr => exact execCsrr_finishes ..
  | csrw => exact execCsrw_finishes ..
  | csrs => exact execCsrs_finishes ..
  | csrc => exact execCsrc_finishes ..
  | svc => exact execSvc_finishes ..
  | tret => exact execTret_finishes ..
  | brk => exact execBrk_finishes ..
  | wfi => exact execWfi_finishes ..
  | gend => exact execGend_finishes ..
  | lend => exact execLend_finishes ..
  | hevict => exact execHevict_finishes ..
  | hrestore => exact execHrestore_finishes ..
  | lbuf => exact execLbuf_finishes ..
  | vlset => exact execVlset_finishes ..
  | vadd => exact vectorWord_finishes ..
  | vsub => exact vectorWord_finishes ..
  | vmul => exact vectorWord_finishes ..
  | vdiv => exact vectorWord_finishes ..
  | vmin => exact vectorWord_finishes ..
  | vmax => exact vectorWord_finishes ..
  | vsqrt => exact vectorWord_finishes ..
  | vabs => exact vectorWord_finishes ..
  | vfma => exact vectorWord_finishes ..
  | vfms => exact vectorWord_finishes ..
  | vfnma => exact vectorWord_finishes ..
  | vfnms => exact vectorWord_finishes ..
  | vmulh => exact vectorWord_finishes ..
  | vrem => exact vectorWord_finishes ..
  | vneg => exact vectorWord_finishes ..
  | vand => exact vectorWord_finishes ..
  | vor => exact vectorWord_finishes ..
  | vxor => exact vectorWord_finishes ..
  | vnot => exact vectorWord_finishes ..
  | vsll => exact vectorWord_finishes ..
  | vsrl => exact vectorWord_finishes ..
  | vsra => exact vectorWord_finishes ..
  | vceq => exact vectorWord_finishes ..
  | vcne => exact vectorWord_finishes ..
  | vclt => exact vectorWord_finishes ..
  | vcle => exact vectorWord_finishes ..
  | vcgt => exact vectorWord_finishes ..
  | vcge => exact vectorWord_finishes ..
  | vcun => exact vectorWord_finishes ..
  | vsel => exact vectorWord_finishes ..
  | kand => exact vectorWord_finishes ..
  | kor => exact vectorWord_finishes ..
  | kxor => exact vectorWord_finishes ..
  | knot => exact vectorWord_finishes ..
  | kpopc => exact vectorWord_finishes ..
  | kfirst => exact vectorWord_finishes ..
  | vcvt => exact vectorWord_finishes ..
  | vcvtS => exact vectorWord_finishes ..
  | vredsum => exact vectorWord_finishes ..
  | vredmin => exact vectorWord_finishes ..
  | vredmax => exact vectorWord_finishes ..
  | vredand => exact vectorWord_finishes ..
  | vredor => exact vectorWord_finishes ..
  | vscan => exact vectorWord_finishes ..
  | vscanx => exact vectorWord_finishes ..
  | vmaxi => exact vectorWord_finishes ..
  | vmini => exact vectorWord_finishes ..
  | vmaxic => exact vectorWord_finishes ..
  | vperm => exact vectorWord_finishes ..
  | vslideup => exact vectorWord_finishes ..
  | vslidedn => exact vectorWord_finishes ..
  | vbcast => exact vectorWord_finishes ..
  | vmvxs => exact vectorWord_finishes ..
  | vmvsx => exact vectorWord_finishes ..
  | vcompress => exact vectorWord_finishes ..
  | vid => exact vectorWord_finishes ..
  | vexp2 => exact vectorWord_finishes ..
  | vlog2 => exact vectorWord_finishes ..
  | vrcp => exact vectorWord_finishes ..
  | vrsqrt => exact vectorWord_finishes ..
  | vld => exact vectorWord_finishes ..
  | vlds => exact vectorWord_finishes ..
  | vldx => exact vectorWord_finishes ..
  | vldsp => exact vectorWord_finishes ..
  | vldm => exact vectorWord_finishes ..
  | vldxsp => exact vectorWord_finishes ..
  | vst => exact vectorWord_finishes ..
  | vsts => exact vectorWord_finishes ..
  | vstx => exact vectorWord_finishes ..
  | vstsp => exact vectorWord_finishes ..
  | vstm => exact vectorWord_finishes ..
  | vstxsp => exact vectorWord_finishes ..
  | tacc => exact vectorWord_finishes ..
  | taccS => exact vectorWord_finishes ..
  | mzero => exact execMzero_finishes ..
  | mld => exact execMld_finishes ..
  | mldT8 => exact execMldT8_finishes ..
  | mldT16 => exact execMldT16_finishes ..
  | mst => exact execMst_finishes ..
  | mcvt => exact execMcvt_finishes ..
  | mrowr => exact execMrowr_finishes ..
  | mroww => exact execMroww_finishes ..
  | tdstep => exact vectorWord_finishes ..
  | tdleaf => exact vectorWord_finishes ..
  | tdregrp => exact vectorWord_finishes ..
  | tdpathR => exact vectorWord_finishes ..
  | tdpathW => exact vectorWord_finishes ..
  | tdaddr => exact vectorWord_finishes ..
  | hqDot => exact execHqDot_finishes ..
  | hqSum => exact execHqSum_finishes ..
  | hqCnt => exact execHqCnt_finishes ..
  | hqMax => exact execHqMax_finishes ..
  | hqTop => exact execHqTop_finishes ..
  | hqSes => exact execHqSes_finishes ..
  | hbcast => exact execHbcast_finishes ..
  | hmove => exact execHmove_finishes ..
  | cblkIn => exact execCblkIn_finishes ..
  | cblkOut => exact execCblkOut_finishes ..
  | cblkSs => exact execCblkSs_finishes ..
  | cblkVv => exact execCblkVv_finishes ..
  | cnestIn => exact execCnestIn_finishes ..
  | cnestOut => exact execCnestOut_finishes ..
  | cnestSs => exact execCnestSs_finishes ..
  | cnestVv => exact execCnestVv_finishes ..
  | cnestInT8 => exact execCnestInT8_finishes ..
  | cnestInT16 => exact execCnestInT16_finishes ..
  | cgathIn => exact execCgathIn_finishes ..
  | cgathOut => exact execCgathOut_finishes ..
  | cgetV => exact execCgetV_finishes ..
  | cgetVs => exact execCgetVs_finishes ..
  | cwaitAny => exact execCwaitAny_finishes ..
  | cwaitAll => exact execCwaitAll_finishes ..
  | cfirst => exact execCfirst_finishes ..
  | cdrain => exact execCdrain_finishes ..
  | cfence => exact execCfence_finishes ..
  | aaddW => exact vectorWord_finishes ..
  | aaddWNoret => exact vectorWord_finishes ..
  | aaddD => exact vectorWord_finishes ..
  | aaddDNoret => exact vectorWord_finishes ..
  | aandW => exact vectorWord_finishes ..
  | aandWNoret => exact vectorWord_finishes ..
  | aandD => exact vectorWord_finishes ..
  | aandDNoret => exact vectorWord_finishes ..
  | aorW => exact vectorWord_finishes ..
  | aorWNoret => exact vectorWord_finishes ..
  | aorD => exact vectorWord_finishes ..
  | aorDNoret => exact vectorWord_finishes ..
  | axorW => exact vectorWord_finishes ..
  | axorWNoret => exact vectorWord_finishes ..
  | axorD => exact vectorWord_finishes ..
  | axorDNoret => exact vectorWord_finishes ..
  | aminW => exact vectorWord_finishes ..
  | aminWNoret => exact vectorWord_finishes ..
  | aminD => exact vectorWord_finishes ..
  | aminDNoret => exact vectorWord_finishes ..
  | amaxW => exact vectorWord_finishes ..
  | amaxWNoret => exact vectorWord_finishes ..
  | amaxD => exact vectorWord_finishes ..
  | amaxDNoret => exact vectorWord_finishes ..
  | aminuW => exact vectorWord_finishes ..
  | aminuWNoret => exact vectorWord_finishes ..
  | aminuD => exact vectorWord_finishes ..
  | aminuDNoret => exact vectorWord_finishes ..
  | amaxuW => exact vectorWord_finishes ..
  | amaxuWNoret => exact vectorWord_finishes ..
  | amaxuD => exact vectorWord_finishes ..
  | amaxuDNoret => exact vectorWord_finishes ..
  | aswpW => exact vectorWord_finishes ..
  | aswpWNoret => exact vectorWord_finishes ..
  | aswpD => exact vectorWord_finishes ..
  | aswpDNoret => exact vectorWord_finishes ..
  | acasW => exact vectorWord_finishes ..
  | acasD => exact vectorWord_finishes ..
  | afaddW => exact vectorWord_finishes ..
  | afaddWNoret => exact vectorWord_finishes ..
  | aincbW => exact vectorWord_finishes ..
  | aincbD => exact vectorWord_finishes ..
  | aaddscan => exact vectorWord_finishes ..
  | cmbput => exact vectorWord_finishes ..
  | cmbputZ => exact vectorWord_finishes ..
  | sbar => exact vectorWord_finishes ..
  | fenceRel => exact vectorWord_finishes ..
  | fenceAcq => exact vectorWord_finishes ..
  | ldAcqW => exact vectorWord_finishes ..
  | ldAcqD => exact vectorWord_finishes ..
  | stRelW => exact vectorWord_finishes ..
  | stRelD => exact vectorWord_finishes ..
  | accw => exact vectorWord_finishes ..
  | accm => exact vectorWord_finishes ..
  | ipost => exact vectorWord_finishes ..
  | iwait => exact vectorWord_finishes ..
  | mbarArr => exact vectorWord_finishes ..
  | mbarWait => exact vectorWord_finishes ..
  | dbarArr => exact vectorWord_finishes ..
  | dbarWait => exact vectorWord_finishes ..
  | mwait => exact vectorWord_finishes ..
  | qput => exact vectorWord_finishes ..
  | ktrig => exact vectorWord_finishes ..
  | sealWord => exact vectorWord_finishes ..
  | xhold => exact vectorWord_finishes ..
  | slabCycle => exact vectorWord_finishes ..
  | strandOverdue => exact vectorWord_finishes ..
  | timerTrap => exact vectorWord_finishes ..
  | wfiWake => exact vectorWord_finishes ..
  | trcctlMark => exact vectorWord_finishes ..
  | trcctlCopy => exact vectorWord_finishes ..
  | trcctlClr => exact vectorWord_finishes ..
  | registerWrite => exact vectorWord_finishes ..
  | barrierConfigWrite => exact vectorWord_finishes ..
  | ringConfigWrite => exact vectorWord_finishes ..
  | hberrClear => exact vectorWord_finishes ..
  | editPortWrite => exact vectorWord_finishes ..
  | shootDown => exact vectorWord_finishes ..
  | tlbParityRefetch => exact vectorWord_finishes ..
  | copyLand => exact vectorWord_finishes ..
  | copyFault => exact vectorWord_finishes ..
  | copySourceError => exact vectorWord_finishes ..
  | copySourcePoison => exact vectorWord_finishes ..
  | atomicResponse => exact vectorWord_finishes ..
  | noreturnAtomicPerform => exact vectorWord_finishes ..
  | cmbputPerform => exact vectorWord_finishes ..
  | heathSlotCheck => exact vectorWord_finishes ..
  | heathPass1Done => exact vectorWord_finishes ..
  | heathBankError => exact vectorWord_finishes ..
  | heathReply => exact vectorWord_finishes ..
  | hbcastLand => exact vectorWord_finishes ..
  | hmoveDone => exact vectorWord_finishes ..
  | hevictDone => exact vectorWord_finishes ..
  | hrestoreDone => exact vectorWord_finishes ..
  | barrierTimeout => exact vectorWord_finishes ..
  | iwaitTimeout => exact vectorWord_finishes ..
  | mwaitTimeout => exact vectorWord_finishes ..
  | walkerPlace => exact vectorWord_finishes ..
  | preemptRequest => exact vectorWord_finishes ..
  | preemptSaveDone => exact vectorWord_finishes ..
  | laneReclaimRequest => exact vectorWord_finishes ..
  | reclaimTimeout => exact vectorWord_finishes ..
  | laneWaitReturn => exact vectorWord_finishes ..
  | groupRestore => exact vectorWord_finishes ..
  | ueConsumed => exact vectorWord_finishes ..
  | scrubberVisit => exact vectorWord_finishes ..
  | sealTimer => exact vectorWord_finishes ..
  | sealRequest => exact vectorWord_finishes ..
  | sealPrepare => exact vectorWord_finishes ..
  | sealResume => exact vectorWord_finishes ..
  | sealImagesDone => exact vectorWord_finishes ..
  | sealReady => exact vectorWord_finishes ..
  | sealCommit => exact vectorWord_finishes ..
  | sealAbort => exact vectorWord_finishes ..
  | sealReadyTimeout => exact vectorWord_finishes ..
  | coordinatorTimeout => exact vectorWord_finishes ..
  | rollback => exact vectorWord_finishes ..
  | initialSeal => exact vectorWord_finishes ..
  | snapshotStreamEnd => exact vectorWord_finishes ..
  | jeoreAck => exact vectorWord_finishes ..
  | jeoreNak => exact vectorWord_finishes ..
  | jeoreFlitBad => exact vectorWord_finishes ..
  | jeoreRemoteWrite => exact vectorWord_finishes ..
  | jeoreAtomicRequest => exact vectorWord_finishes ..
  | jeoreAtomicResponse => exact vectorWord_finishes ..
  | jeoreCopyReadRequest => exact vectorWord_finishes ..
  | jeoreCopyReadData => exact vectorWord_finishes ..
  | linkTrainingComplete => exact vectorWord_finishes ..
  | linkTrainingTimeout => exact vectorWord_finishes ..
  | linkLaneLost => exact vectorWord_finishes ..
  | hostLinkDown => exact vectorWord_finishes ..
  | hostLinkUp => exact vectorWord_finishes ..
  | moduleBoot => exact vectorWord_finishes ..
  | unitStart => exact vectorWord_finishes ..
  | matrixIdle => exact vectorWord_finishes ..
  | heathGovernorWindow => exact vectorWord_finishes ..
  | thermalThrottle => exact vectorWord_finishes ..
  | thermalShutdown => exact vectorWord_finishes ..
  | commandReply => exact vectorWord_finishes ..
  | identify => exact vectorWord_finishes ..
  | attest => exact vectorWord_finishes ..
  | createContext => exact vectorWord_finishes ..
  | destroyContext => exact vectorWord_finishes ..
  | stopContext => exact vectorWord_finishes ..
  | resumeContext => exact vectorWord_finishes ..
  | mapPages => exact vectorWord_finishes ..
  | unmapPages => exact vectorWord_finishes ..
  | hostImport => exact vectorWord_finishes ..
  | hostExport => exact vectorWord_finishes ..
  | runRoot => exact vectorWord_finishes ..
  | snapshot => exact vectorWord_finishes ..
  | restoreModule => exact vectorWord_finishes ..
  | readDump => exact vectorWord_finishes ..
  | configureLinks => exact vectorWord_finishes ..
  | configureManagement => exact vectorWord_finishes ..
  | resetFunction => exact vectorWord_finishes ..
  | resetModule => exact vectorWord_finishes ..
  | cmdregWrite => exact vectorWord_finishes ..
  | scratchpadBankWake => exact vectorWord_finishes ..
  | copyPerformed => exact vectorWord_finishes ..
  | replayStart => exact vectorWord_finishes ..
  | testServiceSet => exact vectorWord_finishes ..

theorem issueAtomic_finishes (w : Nat) (s : State) : ∃ out, issueAtomic w s = s.finish out := by
  unfold issueAtomic
  split
  all_goals first
    | exact finish_finishes _ _
    | (split
       · exact highRow_finishes _ _ _ _ (noReturn_finishes ..)
       · exact highRow_finishes _ _ _ _ (returning_finishes ..))
    | exact highRow_finishes _ _ _ _ (returning_finishes ..)

theorem issueStripAtomic_finishes (w : Nat) (s : State) : ∃ out, issueStripAtomic w s = s.finish out := by
  unfold issueStripAtomic
  split
  · exact highRow_finishes _ _ _ _ (execAaddscan_finishes ..)
  · exact highRow_finishes _ _ _ _ (execCmbput_finishes ..)
  · exact highRow_finishes _ _ _ _ (execCmbputZ_finishes ..)
  · exact finish_finishes _ _

theorem issueSync_finishes (w : Nat) (s : State) : ∃ out, issueSync w s = s.finish out := by
  unfold issueSync
  split
  · exact highRow_finishes _ _ _ _ (execSbar_finishes ..)
  · exact highRow_finishes _ _ _ _ (execFenceRel_finishes ..)
  · exact highRow_finishes _ _ _ _ (execFenceAcq_finishes ..)
  · exact highRow_finishes _ _ _ _ (execLdAcqW_finishes ..)
  · exact highRow_finishes _ _ _ _ (execLdAcqD_finishes ..)
  · exact highRow_finishes _ _ _ _ (execStRelW_finishes ..)
  · exact highRow_finishes _ _ _ _ (execStRelD_finishes ..)
  · exact highRow_finishes _ _ _ _ (execAccw_finishes ..)
  · exact highRow_finishes _ _ _ _ (execAccm_finishes ..)
  · exact highRow_finishes _ _ _ _ (execIpost_finishes ..)
  · exact highRow_finishes _ _ _ _ (execIwait_finishes ..)
  · exact highRow_finishes _ _ _ _ (execMbarArr_finishes ..)
  · exact highRow_finishes _ _ _ _ (execMbarWait_finishes ..)
  · exact highRow_finishes _ _ _ _ (execDbarArr_finishes ..)
  · exact highRow_finishes _ _ _ _ (execDbarWait_finishes ..)
  · exact highRow_finishes _ _ _ _ (execMwait_finishes ..)
  · exact highRow_finishes _ _ _ _ (execQput_finishes ..)
  · exact highRow_finishes _ _ _ _ (execKtrig_finishes ..)
  · exact highRow_finishes _ _ _ _ (execSeal_finishes ..)
  · exact highRow_finishes _ _ _ _ (execXhold_finishes ..)
  · exact finish_finishes _ _

/-- A dispatch that performs the majors below 0x3C by a meaning that finishes, finishes. -/
theorem issueWord_cases (low : Instr → State → Host.Outcome State Fault Refusal) (x : W32) (s : State) :
    (∃ out, issueWord low x s = s.finish out) ∨ ∃ i, issueWord low x s = low i s := by
  simp only [issueWord]
  split
  · exact Or.inl (finish_finishes _ _)
  · split
    · exact Or.inl (issueAtomic_finishes _ _)
    · exact Or.inl (issueStripAtomic_finishes _ _)
    · exact Or.inl (issueSync_finishes _ _)
    · split
      · exact Or.inr ⟨_, rfl⟩
      · exact Or.inl (finish_finishes _ _)

/-! ### The strand chosen stands in front of the same memories -/

theorem memOf_focusStrand (s k : State) (sid : Nat) (h : s.focusStrand sid = some k) (t : Tgt) : k.memOf t = s.memOf t := by
  unfold State.focusStrand at h
  split at h
  · injection h with h; rw [h]
  · split at h
    · cases h
    · injection h with h; rw [← h]; cases t <;> rfl

@[simp] theorem memOf_trace (w : Work) (kind a : Nat) (b : W64) (t : Tgt) :
    (w.trace kind a b).st.memOf t = w.st.memOf t := by
  simp only [Work.trace]
  split
  · simp [Work.mod]
  · rfl

@[simp] theorem memOf_upd (w : Work) (f : Strand → Strand) (t : Tgt) : (w.upd f).st.memOf t = w.st.memOf t := by
  cases t <;> rfl

theorem memOf_raised (s : State) (core : Nat) (t : Tgt) : (s.raised core).memOf t = s.memOf t := by
  simp only [State.raised]
  split <;> simp

theorem memOf_takeUp (s k : State) (core : Nat) (o : Offer) (h : s.takeUp core o = some k) (t : Tgt) :
    k.memOf t = s.memOf t := by
  simp only [State.takeUp, Option.map_eq_some_iff] at h
  obtain ⟨j, hj, rfl⟩ := h
  have hst : ∀ (u : State) (p : Strand), ({ u with strand := p }).memOf t = u.memOf t := fun u p => by cases t <;> rfl
  simp only [hst, State.charged, memOf_setCore]
  exact memOf_focusStrand s j o.sid hj t

/-- A fetch changes of the machine at most the words that the loop in front keeps. -/
theorem memOf_fetch (w k : Work) (va : W64) (x : W32) (h : w.fetch va = .ok (x, k)) (t : Tgt) : k.st.memOf t = w.st.memOf t := by
  simp only [Work.fetch] at h
  split at h
  · cases h; rfl
  · split at h
    · cases h
    · split at h
      · cases h
      · split at h
        · cases h; exact memOf_upd _ _ _
        · cases h

/-- A word that enters its pipe changes the strand in front and the records of its core at most. -/
theorem memOf_enter (s : State) (x : W32) (t : Tgt) : (s.enter x).memOf t = s.memOf t := by
  have hst : ∀ (u : State) (p : Strand), ({ u with strand := p }).memOf t = u.memOf t := fun u p => by cases t <;> rfl
  simp only [State.enter]
  split
  · rfl
  · split
    · simp only [State.pipeEvent]
      split
      · rw [memOf_setCore, hst]
      · exact hst _ _
    · exact hst _ _

/-- A slab-cycle keeps the canonical form, whatever finishes performs its words. -/
theorem slabCycleWith_memWf (issue : W32 → State → Host.Outcome State Fault Refusal) (core : Nat) (s t : State)
    (hi : ∀ x k u, issue x k = .next u → k.memWf = true → u.memWf = true)
    (h : slabCycleWith issue core s = .next t) (hs : s.memWf = true) : t.memWf = true := by
  have hr : (s.raised core).memWf = true := by
    rw [memWf_iff] at hs ⊢
    intro u; rw [memOf_raised]; exact hs u
  simp only [slabCycleWith] at h
  split at h
  · exact finish_memWf _ _ _ h hs
  · split at h
    · exact finish_memWf _ _ _ h hs
    · split at h
      · exact finish_memWf _ _ _ h hs
      · rename_i k hk
        have hkw : k.memWf = true := by
          rw [memWf_iff] at hr ⊢
          intro u; rw [memOf_takeUp _ _ _ _ hk]; exact hr u
        split at h
        · rename_i u hu
          refine finish_memWf _ _ _ h ?_
          simp only [dispatch] at hu
          split at hu
          · exact hi _ _ _ hu hkw
          · split at hu
            · exact finish_memWf _ _ _ hu hkw
            · rename_i hf
              split at hu
              · cases hu
              · refine hi _ _ _ hu ?_
                rw [memWf_iff] at hkw ⊢
                intro g; rw [memOf_enter, memOf_fetch _ _ _ _ hf]; exact hkw g
        · cases h
        · cases h

end Sys2Proof.Machine
end

