-- ==== Sys2Proof/Tests/Slice0.lean ====
section
/-! SUPPORT. Tests: words of the spec decoded, ill-formed terms refused, single steps on small states with results from the spec's
tables and worked examples, and a concrete state for every set of hypotheses in the statements. -/

namespace Sys2Proof.Tests

set_option Elab.async false

open Sys2Proof Sys2Proof.Machine

/-! ### Helpers -/

/-- A live strand on core 0 at pc 0, with a translation of page 0 to field memory 0 that may be read, written and run, and the
registers given. -/
def start (l : List (Reg × W64)) : State :=
  let s := { State.reset.withFetchWord 32 0x02531C00 with tlb := [⟨0, 0, 0, false, 0x1F⟩] }
  s.withStrand (l.foldl (fun t p => t.wx p.1 p.2) s.strand)

/-- The next state, or the state itself where the outcome is none. -/
def after (s : State) (i : Instr) : State :=
  match exec i s with
  | .next t => t
  | _ => s

/-- An outcome that is a next state. -/
def goesOn (r : Host.Outcome State Fault Refusal) : Bool :=
  match r with
  | .next _ => true
  | _ => false

/-- x(r) behind an instruction. -/
def xAfter (l : List (Reg × W64)) (i : Instr) (r : Reg) : W64 := (after (start l) i).strand.rx r

/-- The codes of elements 0, 1, … of a vector register. -/
def codes (s : State) (d : Reg) (width : Nat) (l : List Nat) : State :=
  s.withStrand (l.zipIdx.foldl (fun t c => t.setElt d width c.2 c.1) s.strand)

/-- The handler level. -/
def inHandler (s : State) : State := s.withStrand { s.strand with status := 1 }

/-! ### Words of the spec's worked encodings (Tables 5.8, 5.20 and the examples of spec/06 to spec/09) -/

theorem test_word_integer : decodeTableWord 32 0x02531C00 = some (.add 5 6 7) := rfl
theorem test_word_immediate : decodeTableWord 32 0x05E01000 = some (.addi 30 0 0x1000) := rfl
theorem test_word_shift : decodeTableWord 32 0x1094C003 = some (.srai 9 9 3) := rfl
theorem test_word_upper : decodeTableWord 32 0x13E00010 = some (.lhi 30 0x10) := rfl
theorem test_word_lpc : decodeTableWord 32 0x14900002 = some (.lpc 9 2) := rfl
theorem test_word_float : decodeTableWord 32 0x16A5B023 = some (.fdiv 10 11 12 1) := rfl
theorem test_word_fused : decodeTableWord 32 0x184298E0 = some (.fmadd 4 5 6 7 0) := rfl
theorem test_word_jump : decodeTableWord 32 0x2E008000 = some (.jalr 0 1 0) := rfl
theorem test_word_load : decodeTableWord 32 0x31479800 = some (.ldD 20 15 0 0) := rfl
theorem test_word_store : decodeTableWord 32 0x3271D002 = some (.stW 7 3 2 2) := rfl
theorem test_word_csr : decodeTableWord 32 0x38500C04 = some (.csrr 5 0xC04) := rfl
theorem test_word_csrw : decodeTableWord 32 0x38031000 = some (.csrw 0 6 0) := rfl
theorem test_word_svc : decodeTableWord 32 0x3A000000 = some .svc := rfl
theorem test_word_tret : decodeTableWord 32 0x3A000001 = some .tret := rfl
theorem test_word_brk : decodeTableWord 32 0x3A0000E2 = some (.brk 7) := rfl
theorem test_word_wfi : decodeTableWord 32 0x3A000003 = some .wfi := rfl
theorem test_word_gend : decodeTableWord 32 0x3A000004 = some .gend := rfl
theorem test_word_vlset : decodeTableWord 32 0x4095000A = some (.vlset 9 10 2 2) := rfl
theorem test_word_fma : decodeTableWord 32 0x44801200 = some (.vfma false 8 0 4 16 0) := rfl
theorem test_word_compare : decodeTableWord 32 0x48110E30 = some (.vceq false 1 2 3 17 2) := rfl
theorem test_word_maxindex : decodeTableWord 32 0x50610242 = some (.vmaxic false 6 2 18 0) := rfl
theorem test_word_vload : decodeTableWord 32 0x58828108 = some (.vld false 8 5 1 1) := rfl
theorem test_word_chained : decodeTableWord 32 0xD80A0004 = some (.vldm true 0 20 0) := rfl
theorem test_word_vstore : decodeTableWord 32 0x5A82B002 = some (.vstx false 8 5 12 0 0) := rfl
theorem test_word_tacc : decodeTableWord 32 0x60001200 = some (.tacc false 0 0 4 16) := rfl
theorem test_word_mzero : decodeTableWord 32 0x60000002 = some (.mzero 0) := rfl
theorem test_word_tile : decodeTableWord 32 0x622A0001 = some (.mldT8 2 20) := rfl
theorem test_word_row : decodeTableWord 32 0x62332405 = some (.mrowr 3 6 9) := rfl
theorem test_word_descent : decodeTableWord 32 0x68415200 = some (.tdstep false 4 2 20 16 0) := rfl
theorem test_word_query : decodeTableWord 32 0x6D404050 = some (.hqDot 20 16 5) := rfl
theorem test_word_hbcast : decodeTableWord 32 0x6F600012 = some (.hbcast 22 1) := rfl
theorem test_word_block : decodeTableWord 32 0x714AD830 = some (.cblkIn 20 21 22 3 0) := rfl
theorem test_word_nest : decodeTableWord 32 0x75F96C14 = some (.cnestInT8 31 18 27 1 1) := rfl
theorem test_word_gather : decodeTableWord 32 0x754B2076 = some (.cgathIn 20 22 8 7 1) := rfl
theorem test_word_cget : decodeTableWord 32 0x764A0090 = some (.cgetV 4 20 9 0) := rfl
theorem test_word_cwait : decodeTableWord 32 0x77E00403 = some (.cwaitAll 30) := rfl
theorem test_word_cdrain : decodeTableWord 32 0x76000C0B = some (.cdrain 2) := rfl
theorem test_word_noreturn : decodeTableWord 32 0x78029821 = some (.aaddDNoret 5 6 1) := rfl
theorem test_word_acas : decodeTableWord 32 0x79284413 = some (.acasD 18 16 17 0) := rfl
theorem test_word_aincb : decodeTableWord 32 0x789A5415 = some (.aincbW 9 20 21) := rfl
theorem test_word_aaddscan : decodeTableWord 32 0x7A8A1008 = some (.aaddscan 8 20 4 1) := rfl
theorem test_word_cmbput : decodeTableWord 32 0x7A8A5601 = some (.cmbput 8 20 21 16 0) := rfl
theorem test_word_sbar : decodeTableWord 32 0x7C024000 = some (.sbar 0x01 0x20) := rfl
theorem test_word_fence : decodeTableWord 32 0x7C000041 = some (.fenceRel 2) := rfl
theorem test_word_acquire : decodeTableWord 32 0x7C530044 = some (.ldAcqD 5 6 2) := rfl
theorem test_word_accw : decodeTableWord 32 0x7C0A5407 = some (.accw 20 21) := rfl
theorem test_word_barrier : decodeTableWord 32 0x7C95000B = some (.mbarArr 9 10) := rfl
theorem test_word_iwait : decodeTableWord 32 0x7C57240A = some (.iwait 5 14 9) := rfl
theorem test_word_mwait : decodeTableWord 32 0x7D384A8F = some (.mwait 19 16 18 20) := rfl
theorem test_word_qput : decodeTableWord 32 0x7D6AD010 = some (.qput 22 21 20) := rfl

/-- `bne` written out from Table 5.5: major 0x11, a = 24, b = 25, offset -2. -/
theorem test_word_branch : decode (BitVec.ofNat 32 (0x11 * 2 ^ 25 + 24 * 2 ^ 20 + 25 * 2 ^ 15 + 0x7FFE)) = .ok (.bne 24 25 0x7FFE) := rfl

/-! Words of Table 5.20 that are no instruction. -/

theorem test_word_zero : decode 0x00000000 = .error .undefined := rfl
theorem test_word_ones : decode 0xFFFFFFFF = .error .framing := rfl
theorem test_word_reserved : decode 0x02531C20 = .error .reserved := rfl
theorem test_word_pair : decode 0x580F8004 = .error .badField := rfl
theorem test_word_tile_field : decode 0x60501200 = .error .badField := rfl
theorem test_word_cfence_zero : decode 0x76001003 = .error .reserved := rfl

/-! ### WellFormed: an ill-formed term for each check -/

theorem test_wf_csr : (Instr.csrr 5 0x406).wf = false := rfl
theorem test_wf_lbuf : (Instr.lbuf 16 0).wf = false := rfl
theorem test_wf_mask_target : (Instr.vceq false 0 2 3 17 0).wf = false := rfl
theorem test_wf_mask_operand : (Instr.kand false 1 4 2).wf = false := rfl
theorem test_wf_pair : (Instr.vldm false 0 31 0).wf = false := rfl
theorem test_wf_tile : (Instr.tacc false 4 0 4 16).wf = false := rfl
theorem test_wf_tile_pair : (Instr.mld 3 31).wf = false := rfl
theorem test_wf_gather_pair : (Instr.cgathIn 20 31 8 7 1).wf = false := rfl
theorem test_wf_cfence : (Instr.cfence 0).wf = false := rfl
theorem test_wf_returning : (Instr.aaddW 0 5 6).wf = false := rfl

/-! ### A word of every row of the opcode table

Each word is the row's fixed bits with its fields at the places that the table of its form gives (Tables 5.1 to 5.18), every field at
a value of its own. -/

/-- Every word of a list decodes to the instruction beside it. -/
noncomputable def decodesAll (l : List (W32 × Instr)) : Bool :=
  l.all fun p =>
    match decodeRaw p.1 with
    | .ok i => decide (i = p.2)
    | .error _ => false

theorem test_words_01 : decodesAll
    [(0x029B3400, .add 9 22 13), (0x029B3401, .sub 9 22 13), (0x029B3402, .and 9 22 13), (0x029B3403, .or 9 22 13),
    (0x029B3404, .xor 9 22 13), (0x029B3405, .sll 9 22 13), (0x029B3406, .srl 9 22 13), (0x029B3407, .sra 9 22 13),
    (0x029B3408, .slt 9 22 13), (0x029B3409, .sltu 9 22 13), (0x029B340A, .mul 9 22 13), (0x029B340B, .mulh 9 22 13),
    (0x029B340C, .mulhu 9 22 13), (0x029B340D, .div 9 22 13), (0x029B340E, .divu 9 22 13), (0x029B340F, .rem 9 22 13),
    (0x029B3410, .remu 9 22 13), (0x029B3411, .min 9 22 13), (0x029B3412, .max 9 22 13), (0x029B3413, .minu 9 22 13),
    (0x029B3414, .maxu 9 22 13), (0x029B0015, .clz 9 22), (0x029B0016, .ctz 9 22), (0x029B0017, .popc 9 22),
    (0x029B0018, .zextb 9 22), (0x029B0019, .zexth 9 22), (0x029B001A, .zextw 9 22), (0x029B001B, .sextb 9 22),
    (0x029B001C, .sexth 9 22), (0x029B001D, .sextw 9 22)] = true := by
  decide +kernel

theorem test_words_02_0b : decodesAll
    [(0x049B5ABC, .addi 9 22 0x5ABC), (0x069B5ABC, .andi 9 22 0x5ABC), (0x089B5ABC, .ori 9 22 0x5ABC),
    (0x0A9B5ABC, .xori 9 22 0x5ABC), (0x0C9B5ABC, .slti 9 22 0x5ABC), (0x0E9B5ABC, .sltiu 9 22 0x5ABC),
    (0x109B002B, .slli 9 22 43), (0x109B202B, .srli 9 22 43), (0x109B402B, .srai 9 22 43), (0x1299ABCD, .lhi 9 0x9ABCD),
    (0x1499ABCD, .lpc 9 0x9ABCD), (0x169B3420, .fadd 9 22 13 1), (0x169B3421, .fsub 9 22 13 1), (0x169B3422, .fmul 9 22 13 1),
    (0x169B3423, .fdiv 9 22 13 1), (0x169B0024, .fsqrt 9 22 1), (0x169B3405, .fmin 9 22 13), (0x169B3406, .fmax 9 22 13),
    (0x169B3407, .feq 9 22 13), (0x169B3408, .flt 9 22 13), (0x169B3409, .fle 9 22 13), (0x169B002A, .fcvtSL 9 22 1),
    (0x169B002B, .fcvtLS 9 22 1), (0x169B000C, .fclass 9 22)] = true := by
  decide +kernel

theorem test_words_0c_19 : decodesAll
    [(0x189B3764, .fmadd 9 22 13 27 1), (0x189B3765, .fmsub 9 22 13 27 1), (0x189B3766, .fnmadd 9 22 13 27 1),
    (0x189B3767, .fnmsub 9 22 13 27 1), (0x2166DABC, .beq 22 13 0x5ABC), (0x2366DABC, .bne 22 13 0x5ABC),
    (0x2566DABC, .blt 22 13 0x5ABC), (0x2766DABC, .bge 22 13 0x5ABC), (0x2966DABC, .bltu 22 13 0x5ABC),
    (0x2B66DABC, .bgeu 22 13 0x5ABC), (0x2C99ABCD, .jal 9 0x9ABCD), (0x2E9B5ABC, .jalr 9 22 0x5ABC),
    (0x309B235A, .ldB 9 22 1 0x35A), (0x309B2B5A, .ldH 9 22 1 0x35A), (0x309B335A, .ldW 9 22 1 0x35A),
    (0x309B3B5A, .ldD 9 22 1 0x35A), (0x329B235A, .stB 9 22 1 0x35A), (0x329B2B5A, .stH 9 22 1 0x35A),
    (0x329B335A, .stW 9 22 1 0x35A), (0x329B3B5A, .stD 9 22 1 0x35A)] = true := by
  decide +kernel

theorem test_words_1a_1d : decodesAll
    [(0x349B235A, .spldB 9 22 1 0x35A), (0x349B2B5A, .spldH 9 22 1 0x35A), (0x349B335A, .spldW 9 22 1 0x35A),
    (0x349B3B5A, .spldD 9 22 1 0x35A), (0x369B235A, .spstB 9 22 1 0x35A), (0x369B2B5A, .spstH 9 22 1 0x35A),
    (0x369B335A, .spstW 9 22 1 0x35A), (0x369B3B5A, .spstD 9 22 1 0x35A), (0x38900802, .csrr 9 0x802),
    (0x389B1802, .csrw 9 22 0x802), (0x389B2802, .csrs 9 22 0x802), (0x389B3802, .csrc 9 22 0x802), (0x3A000000, .svc),
    (0x3A000001, .tret), (0x3A000362, .brk 27), (0x3A000003, .wfi), (0x3A000004, .gend), (0x3A000005, .lend),
    (0x3A0B3406, .hevict 22 13), (0x3A0B3407, .hrestore 22 13)] = true := by
  decide +kernel

theorem test_words_1e_23 : decodesAll
    [(0x3C99ABCD, .lbuf 9 0x9ABCD), (0x409B0009, .vlset 9 22 2 1), (0x429B3670, .vadd false 9 22 13 19 2),
    (0xC29B3671, .vsub true 9 22 13 19 2), (0x429B3672, .vmul false 9 22 13 19 2), (0xC29B3673, .vdiv true 9 22 13 19 2),
    (0x429B3674, .vmin false 9 22 13 19 2), (0xC29B3675, .vmax true 9 22 13 19 2), (0x429B0276, .vsqrt false 9 22 19 2),
    (0xC29B0277, .vabs true 9 22 19 2), (0x449B3670, .vfma false 9 22 13 19 2), (0xC49B3671, .vfms true 9 22 13 19 2),
    (0x449B3672, .vfnma false 9 22 13 19 2), (0xC49B3673, .vfnms true 9 22 13 19 2), (0x449B3674, .vmulh false 9 22 13 19 2),
    (0xC49B3675, .vrem true 9 22 13 19 2), (0x449B0276, .vneg false 9 22 19 2), (0xC69B3670, .vand true 9 22 13 19 2),
    (0x469B3671, .vor false 9 22 13 19 2), (0xC69B3672, .vxor true 9 22 13 19 2), (0x469B0273, .vnot false 9 22 19 2),
    (0xC69B3674, .vsll true 9 22 13 19 2), (0x469B3675, .vsrl false 9 22 13 19 2), (0xC69B3676, .vsra true 9 22 13 19 2)] = true := by
  decide +kernel

theorem test_words_24_27 : decodesAll
    [(0x481B3670, .vceq false 1 22 13 19 2), (0xC81B3671, .vcne true 1 22 13 19 2), (0x481B3672, .vclt false 1 22 13 19 2),
    (0xC81B3673, .vcle true 1 22 13 19 2), (0x481B3674, .vcgt false 1 22 13 19 2), (0xC81B3675, .vcge true 1 22 13 19 2),
    (0x481B3676, .vcun false 1 22 13 19 2), (0xCA9B3670, .vsel true 9 22 13 19 2), (0x4A110C01, .kand false 1 2 3),
    (0xCA110C02, .kor true 1 2 3), (0x4A110C03, .kxor false 1 2 3), (0xCA110004, .knot true 1 2),
    (0x4A910015, .kpopc false 9 2 2), (0xCA910016, .kfirst true 9 2 2), (0x4C9B0270, .vcvt false 9 22 19 2),
    (0xCC9B3671, .vcvtS true 9 22 13 19 2), (0x4E9B0270, .vredsum false 9 22 19 2), (0xCE9B0271, .vredmin true 9 22 19 2),
    (0x4E9B0272, .vredmax false 9 22 19 2), (0xCE9B0273, .vredand true 9 22 19 2), (0x4E9B0274, .vredor false 9 22 19 2),
    (0xCE9B0275, .vscan true 9 22 19 2), (0x4E9B0276, .vscanx false 9 22 19 2)] = true := by
  decide +kernel

theorem test_words_28_2c : decodesAll
    [(0xD09B0270, .vmaxi true 9 22 19 2), (0x509B0271, .vmini false 9 22 19 2), (0xD09B0272, .vmaxic true 9 22 19 2),
    (0x529B3670, .vperm false 9 22 13 19 2), (0xD29B3671, .vslideup true 9 22 13 19 2),
    (0x529B3672, .vslidedn false 9 22 13 19 2), (0xD29B0273, .vbcast true 9 22 19 2), (0x529B0274, .vmvxs false 9 22 19 2),
    (0xD29B0275, .vmvsx true 9 22 19 2), (0x529B0276, .vcompress false 9 22 19 2), (0xD2900277, .vid true 9 19 2),
    (0x549B0270, .vexp2 false 9 22 19 2), (0xD49B0271, .vlog2 true 9 22 19 2), (0x549B0272, .vrcp false 9 22 19 2),
    (0xD49B0273, .vrsqrt true 9 22 19 2), (0x589B0110, .vld false 9 22 1 2), (0xD89B3511, .vlds true 9 22 13 1 2),
    (0x589B3512, .vldx false 9 22 13 1 2), (0xD89B0113, .vldsp true 9 22 1 2), (0x589B0014, .vldm false 9 22 2),
    (0xD89B3515, .vldxsp true 9 22 13 1 2)] = true := by
  decide +kernel

theorem test_words_2d_34 : decodesAll
    [(0x5A9B0110, .vst false 9 22 1 2), (0xDA9B3511, .vsts true 9 22 13 1 2), (0x5A9B3512, .vstx false 9 22 13 1 2),
    (0xDA9B0113, .vstsp true 9 22 1 2), (0x5A9B0014, .vstm false 9 22 2), (0xDA9B3515, .vstxsp true 9 22 13 1 2),
    (0x602B3660, .tacc false 2 22 13 19), (0xE02B3661, .taccS true 2 22 13 19), (0x60200002, .mzero 2), (0x622B0000, .mld 2 22),
    (0x622B0001, .mldT8 2 22), (0x622B0002, .mldT16 2 22), (0x622B0003, .mst 2 22), (0x62200264, .mcvt 2 19),
    (0x622B3405, .mrowr 2 22 13), (0x622B3406, .mroww 2 22 13), (0x689B3670, .tdstep false 9 22 13 19 2),
    (0xE89B3671, .tdleaf true 9 22 13 19 2), (0x689B3412, .tdregrp false 9 22 13 2), (0xE89B0013, .tdpathR true 9 22 2),
    (0x689B0014, .tdpathW false 9 22 2), (0xE89B3415, .tdaddr true 9 22 13 2)] = true := by
  decide +kernel

theorem test_words_36_3a : decodesAll
    [(0x6D604E50, .hqDot 22 19 37), (0x6D604E51, .hqSum 22 19 37), (0x6D604E52, .hqCnt 22 19 37), (0x6D604E53, .hqMax 22 19 37),
    (0x6F604E50, .hqTop 22 19 37), (0x6F604E51, .hqSes 22 19 37), (0x6F600252, .hbcast 22 37), (0x6F66CE53, .hmove 22 13 19 37),
    (0x7166CE5C, .cblkIn 22 13 19 37 3), (0x7166CE5D, .cblkOut 22 13 19 37 3), (0x7166CE5E, .cblkSs 22 13 19 37 3),
    (0x7166CE5F, .cblkVv 22 13 19 37 3), (0x7366CE5C, .cnestIn 22 13 19 37 3), (0x7366CE5D, .cnestOut 22 13 19 37 3),
    (0x7366CE5E, .cnestSs 22 13 19 37 3), (0x7366CE5F, .cnestVv 22 13 19 37 3), (0x7566CE5C, .cnestInT8 22 13 19 37 3),
    (0x7566CE5D, .cnestInT16 22 13 19 37 3), (0x7566CE5E, .cgathIn 22 13 19 37 3), (0x7566CE5F, .cgathOut 22 13 19 37 3)] = true := by
  decide +kernel

theorem test_words_3b : decodesAll
    [(0x7766825C, .cgetV 22 13 37 3), (0x7766825D, .cgetVs 22 13 37 3), (0x77600003, .cwaitAny 22), (0x77600403, .cwaitAll 22),
    (0x77668803, .cfirst 22 13), (0x76000C0F, .cdrain 3), (0x760010A3, .cfence 10)] = true := by
  decide +kernel

theorem test_words_3c : decodesAll
    [(0x789B3400, .aaddW 9 22 13), (0x780B3460, .aaddWNoret 22 13 3), (0x789B3401, .aaddD 9 22 13),
    (0x780B3461, .aaddDNoret 22 13 3), (0x789B3402, .aandW 9 22 13), (0x780B3462, .aandWNoret 22 13 3),
    (0x789B3403, .aandD 9 22 13), (0x780B3463, .aandDNoret 22 13 3), (0x789B3404, .aorW 9 22 13),
    (0x780B3464, .aorWNoret 22 13 3), (0x789B3405, .aorD 9 22 13), (0x780B3465, .aorDNoret 22 13 3),
    (0x789B3406, .axorW 9 22 13), (0x780B3466, .axorWNoret 22 13 3), (0x789B3407, .axorD 9 22 13),
    (0x780B3467, .axorDNoret 22 13 3), (0x789B3408, .aminW 9 22 13), (0x780B3468, .aminWNoret 22 13 3),
    (0x789B3409, .aminD 9 22 13), (0x780B3469, .aminDNoret 22 13 3), (0x789B340A, .amaxW 9 22 13),
    (0x780B346A, .amaxWNoret 22 13 3), (0x789B340B, .amaxD 9 22 13), (0x780B346B, .amaxDNoret 22 13 3),
    (0x789B340C, .aminuW 9 22 13), (0x780B346C, .aminuWNoret 22 13 3), (0x789B340D, .aminuD 9 22 13),
    (0x780B346D, .aminuDNoret 22 13 3), (0x789B340E, .amaxuW 9 22 13), (0x780B346E, .amaxuWNoret 22 13 3),
    (0x789B340F, .amaxuD 9 22 13), (0x780B346F, .amaxuDNoret 22 13 3), (0x789B3410, .aswpW 9 22 13),
    (0x780B3470, .aswpWNoret 22 13 3), (0x789B3411, .aswpD 9 22 13), (0x780B3471, .aswpDNoret 22 13 3),
    (0x789B3772, .acasW 9 22 13 27), (0x789B3773, .acasD 9 22 13 27), (0x789B3414, .afaddW 9 22 13),
    (0x780B3474, .afaddWNoret 22 13 3), (0x789B3415, .aincbW 9 22 13), (0x789B3416, .aincbD 9 22 13)] = true := by
  decide +kernel

theorem test_words_3d_3e : decodesAll
    [(0x7A9B3410, .aaddscan 9 22 13 2), (0x7A9B3671, .cmbput 9 22 13 19 2), (0x7A0B3402, .cmbputZ 22 13),
    (0x7D4A7800, .sbar 0xA5 60), (0x7C000021, .fenceRel 1), (0x7C000022, .fenceAcq 1), (0x7C9B0023, .ldAcqW 9 22 1),
    (0x7C9B0024, .ldAcqD 9 22 1), (0x7C0B3425, .stRelW 22 13 1), (0x7C0B3426, .stRelD 22 13 1), (0x7C0B3407, .accw 22 13),
    (0x7C0B0008, .accm 22), (0x7C0B3409, .ipost 22 13), (0x7C9B340A, .iwait 9 22 13), (0x7C9B000B, .mbarArr 9 22),
    (0x7C0B340C, .mbarWait 22 13), (0x7C9B000D, .dbarArr 9 22), (0x7C0B340E, .dbarWait 22 13), (0x7C9B376F, .mwait 9 22 13 27),
    (0x7C9B3410, .qput 9 22 13), (0x7C000011, .ktrig), (0x7C000012, .sealWord), (0x7C000013, .xhold)] = true := by
  decide +kernel

/-! ### Single steps; the expected values stand in the spec's tables and worked examples, or follow from their rules by hand -/

/-- Table 6.3. -/
theorem test_div_truncates : xAfter [(6, -7), (7, 2)] (.div 5 6 7) 5 = -3 ∧ xAfter [(6, -7), (7, 2)] (.rem 5 6 7) 5 = -1 := by
  decide +kernel
theorem test_divu_reads_unsigned : xAfter [(6, -7), (7, 2)] (.divu 5 6 7) 5 = 0x7FFFFFFFFFFFFFFC ∧
    xAfter [(6, -7), (7, 2)] (.remu 5 6 7) 5 = 1 := by decide +kernel
theorem test_div_by_zero : xAfter [(6, 42)] (.div 5 6 7) 5 = -1 ∧ xAfter [(6, 42)] (.rem 5 6 7) 5 = 42 := by decide +kernel
theorem test_div_overflow : xAfter [(6, 0x8000000000000000), (7, -1)] (.div 5 6 7) 5 = 0x8000000000000000 ∧
    xAfter [(6, 0x8000000000000000), (7, -1)] (.rem 5 6 7) 5 = 0 := by decide +kernel

theorem test_add_wraps : xAfter [(6, -1), (7, 1)] (.add 6 6 7) 6 = 0 := by decide +kernel
theorem test_sub_order : xAfter [(6, 3), (7, 5)] (.sub 5 6 7) 5 = -2 := by decide +kernel
theorem test_shift_takes_six_bits : xAfter [(6, 1), (7, 65)] (.sll 5 6 7) 5 = 2 := by decide +kernel
theorem test_sra_keeps_the_sign : xAfter [(6, -8), (7, 1)] (.sra 5 6 7) 5 = -4 := by decide +kernel
theorem test_mulh_signed : xAfter [(6, -1), (7, 2)] (.mulh 5 6 7) 5 = -1 ∧ xAfter [(6, -1), (7, 2)] (.mulhu 5 6 7) 5 = 1 := by
  decide +kernel
theorem test_clz_of_zero : xAfter [] (.clz 5 6) 5 = 64 ∧ xAfter [] (.ctz 5 6) 5 = 64 := by decide +kernel
theorem test_lhi_sign : xAfter [] (.lhi 5 0x80000) 5 = 0xFFFFFFFF80000000 := by decide +kernel
theorem test_addi_sign : xAfter [(6, 1)] (.addi 5 6 0x7FFE) 5 = -1 := by decide +kernel
theorem test_write_to_x0 : xAfter [(6, 1)] (.add 0 6 6) 0 = 0 := by decide +kernel

/-- 1.0 + 1.0 and 1.0 / 3.0 towards zero (0x3EAAAAAA), with NX. -/
theorem test_fadd : xAfter [(6, 0x3F800000)] (.fadd 5 6 6 0) 5 = 0x40000000 := by decide +kernel
theorem test_fdiv_rtz : xAfter [(6, 0x3F800000), (7, 0x40400000)] (.fdiv 5 6 7 1) 5 = 0x3EAAAAAA := by decide +kernel
/-- 2.0 × 3.0 + 1.0 = 7.0, and -(2.0 × 3.0) - 1.0 = -7.0. -/
theorem test_fmadd : xAfter [(6, 0x40000000), (7, 0x40400000), (8, 0x3F800000)] (.fmadd 5 6 7 8 0) 5 = 0x40E00000 ∧
    xAfter [(6, 0x40000000), (7, 0x40400000), (8, 0x3F800000)] (.fnmadd 5 6 7 8 0) 5 = 0xC0E00000 := by decide +kernel
theorem test_fcvt_saturates : xAfter [(6, 0x7F800000)] (.fcvtLS 5 6 0) 5 = 0x7FFFFFFFFFFFFFFF := by decide +kernel

theorem test_branch_backwards : (after (start [(24, 1)]) (.bne 24 25 0x7FFE)).strand.pc = -8 := by decide +kernel
theorem test_jalr_reads_before_it_links : (after (start [(1, 64)]) (.jalr 1 1 0)).strand.pc = 64 ∧ xAfter [(1, 64)] (.jalr 1 1 0) 1 = 4 := by
  decide +kernel

theorem test_store_is_little_endian :
    Mem.readN (after (start [(5, 64), (6, 0x1122334455667788)]) (.stW 6 5 0 0)).fm 64 5 = [0x88, 0x77, 0x66, 0x55, 0x00] := by
  decide +kernel
theorem test_load_extends_the_sign :
    (after { start [(5, 64)] with fm := [(64, 0x80), (65, 0xFF)] } (.ldH 6 5 0 0)).strand.rx 6 = 0xFFFFFFFFFFFFFF80 := by
  decide +kernel
theorem test_misaligned_load_traps : (after (start [(5, 66)]) (.ldW 6 5 0 0)).strand.cause = 2 := by decide +kernel

theorem test_svc_saves_its_own_pc : (after (start []) .svc).strand.epc = 0 ∧ (after (start []) .svc).strand.cause = 0x0E := by
  decide +kernel
theorem test_brk_code : (after (start []) (.brk 7)).strand.cause = 0x070D ∧ (after (start []) (.brk 7)).strand.tval = 0x3A0000E2 := by
  decide +kernel
theorem test_tret_restores :
    let s := inHandler (start [])
    (after (s.withStrand { s.strand with epc := 0x40, status := 0x19 }) .tret).strand.pc = 0x40 ∧
    (after (s.withStrand { s.strand with epc := 0x40, status := 0x19 }) .tret).strand.status = 0x0C := by decide +kernel
theorem test_csrw_swaps : (after (start [(6, 3)]) (.csrw 5 6 0)).strand.fflags = 3 ∧ xAfter [(6, 3)] (.csrw 5 6 0) 5 = 0 := by
  decide +kernel

/-- `vlset x9, x10, sew32, g4` of 1,000 elements; VLMAX on sixteen lane groups is 4 × 4 × 64 × 16 × 8 / 32 = 4,096. -/
theorem test_vlset_clamps : xAfter [(10, 1000)] (.vlset 9 10 2 2) 9 = 1000 ∧ xAfter [(10, 5000)] (.vlset 9 10 2 2) 9 = 4096 := by
  decide +kernel

/-- Table 7.6: the eight `e4m3` scores; elements 1 and 3 tie at 2.0 and the lower index wins, and its code becomes 0xFE. -/
def scores : State :=
  codes (after (start [(10, 8), (18, 0x3A307000000)]) (.vlset 9 10 0 0)) 2 8 [0x30, 0x40, 0xB8, 0x40, 0x3C, 0x28, 0x38, 0xC0]
theorem test_vmaxic_index : (after scores (.vmaxic false 6 2 18 0)).strand.elt 6 64 0 = 1 ∧
    (after scores (.vmaxic false 6 2 18 0)).strand.elt 6 64 1 = 0x40 := by decide +kernel
theorem test_vmaxic_clears_the_winner : (after scores (.vmaxic false 6 2 18 0)).strand.elt 2 8 1 = 0xFE ∧
    (after scores (.vmaxic false 6 2 18 0)).strand.elt 2 8 3 = 0x40 := by decide +kernel

/-- The counter example of R223: 5 at x20, four active ones; the counter becomes 9 and elements 0, 2, 3, 5 receive 5 to 8. -/
def counter : State :=
  let s := after { start [(10, 6), (20, 64)] with fm := [(64, 5)] } (.vlset 9 10 0 2)
  codes (s.withStrand { s.strand with k := s.strand.k.set 1 0x2D }) 4 32 [1, 1, 1, 1, 1, 1]
theorem test_aaddscan_prefixes :
    [0, 1, 2, 3, 4, 5].map ((after counter (.aaddscan 8 20 4 1)).strand.elt 8 32) = [5, 0, 6, 7, 0, 8] := by decide +kernel
theorem test_aaddscan_counter : Mem.readN (after counter (.aaddscan 8 20 4 1)).fm 64 4 = [9, 0, 0, 0] := by decide +kernel

theorem test_aadd_returns_the_old_value :
    let t := after { start [(5, 64), (6, 2)] with fm := [(64, 7)] } (.aaddW 9 5 6)
    t.strand.rx 9 = 7 ∧ Mem.read t.fm 64 = 9 := by decide +kernel
theorem test_acas_leaves_a_mismatch :
    let t := after { start [(16, 64), (17, 2), (8, 6)] with fm := [(64, 7)] } (.acasD 18 16 17 8)
    t.strand.rx 18 = 7 ∧ Mem.read t.fm 64 = 7 := by decide +kernel
theorem test_aincb_stops_at_its_bound :
    let t := after { start [(5, 64), (6, 7)] with fm := [(64, 7)] } (.aincbW 9 5 6)
    t.strand.rx 9 = 7 ∧ Mem.read t.fm 64 = 7 := by decide +kernel

theorem test_cfirst_of_no_bits : xAfter [(10, 4)] (.cfirst 9 10) 9 = 0xFFFFFFFFFFFFFFFF := by decide +kernel
theorem test_cwait_waits : (after (start [(30, 2)]) (.cwaitAll 30)).strand.waiting = .tags false 2 := by decide +kernel
theorem test_copy_clears_its_tag :
    let s := start [(20, 64), (21, 128), (22, 16)]
    let t := after (s.withStrand { s.strand with tags := 0x0F }) (.cblkVv 20 21 22 3 0)
    t.strand.tags = 0x07 ∧ t.cmds.length = 1 := by decide +kernel

/-- The barrier of spec/15's example: N = 2, GEN 7; the first arrival counts, the second opens generation 8. -/
def gate (n : Nat) : State := { start [(10, 3)] with mbars := [(0, 3, ⟨true, 0, 2, 24000, 7, n⟩)] }
theorem test_barrier_counts : ((after (gate 0) (.mbarArr 9 10)).barrier (.meadow 0 3)).count = 1 ∧
    (after (gate 0) (.mbarArr 9 10)).strand.rx 9 = 7 := by decide +kernel
theorem test_barrier_opens : ((after (gate 1) (.mbarArr 9 10)).barrier (.meadow 0 3)).gen = 8 ∧
    ((after (gate 1) (.mbarArr 9 10)).barrier (.meadow 0 3)).count = 0 := by decide +kernel

/-- The walk of spec/13's example: BND 2, 3, order (1, 0), serpentine. -/
theorem test_walk_serpentine :
    let r : KRec := ⟨64, 8, 0, 0, 0, 0, 0, [2, 3, 0, 0, 0, 0], [1, 1, 0, 0, 0, 0], 1 + 2 ^ 18, true, []⟩
    (List.range 6).map (fun k => (r.indices k).take 2) = [[0, 0], [1, 0], [1, 1], [0, 1], [0, 2], [1, 2]] := by decide +kernel

/-- `tdpath.w` of node 5: depth 2, path 2. -/
theorem test_tdpath_state :
    let s := codes (after (start [(10, 1)]) (.vlset 9 10 0 3)) 2 64 [5]
    (after s (.tdpathW false 4 2 0)).strand.elt 4 64 0 = 0x22000 := by
  decide +kernel

theorem test_mzero_clears :
    let s := after (start [(10, 1)]) (.vlset 9 10 0 0)
    goesOn (exec (.mzero 0) (s.withStrand { s.strand with g := { s.strand.g with tiles := [0] } })) = true := by decide +kernel

/-! ### States that meet the hypotheses of the statements, each clause at a value of its own

Every theorem names the statement whose hypotheses it meets. -/

/-- An answer that is no error, and one whose value passes a test. -/
def isOk {ε α : Type} (e : Except ε α) : Bool :=
  match e with
  | .ok _ => true
  | .error _ => false
def okWith {ε α : Type} (e : Except ε α) (p : α → Bool) : Bool :=
  match e with
  | .ok x => p x
  | .error _ => false

def siteIs (e : Except Trap Site) (p : Site) : Bool := okWith e fun q => decide (q = p)

/-- A strand whose context owns core 0, so that it reaches its scratchpad. -/
def owned (l : List (Reg × W64)) : State :=
  let s := start l
  s.setCore { s.core 0 with owner := some 0 }

/-- The same in a strip of eight elements of a width (0 to 3 for 8 to 64 bits), one register to a group. -/
def strip (sew : BitVec 2) (l : List (Reg × W64)) : State := after (owned ((10, 8) :: l)) (.vlset 9 10 0 sew)

/-- The strand holds one tile. -/
def withTile (s : State) : State := s.withStrand { s.strand with g := { s.strand.g with tiles := [0] } }

theorem test_meets_division :
    (start []).strand.rx 7 = 0 ∧ (start [(6, 0x8000000000000000), (7, -1)]).strand.rx 6 = 0x8000000000000000 ∧
    (start [(6, 0x8000000000000000), (7, -1)]).strand.rx 7 = -1 ∧ (start [(7, 1)]).strand.rx 7 ≠ 0 := by decide +kernel

theorem test_meets_jumps :
    ((start [(6, 60)]).strand.rx 6 + (4 : BitVec 15).signExtend 64).toNat % 4 = 0 ∧
    ((start [(6, 61)]).strand.rx 6 + (0 : BitVec 15).signExtend 64).toNat % 4 ≠ 0 ∧ (start [(6, 61)]).strand.nest = false := by
  decide +kernel

/-- `LoadsWriteSignExtendedBytes`, at the last doubleword of the page. -/
theorem test_meets_loads : let s := start [(5, 65528)]
    (s.scalarVa 5 0 3).toNat % 8 = 0 ∧ s.fieldSite (s.scalarVa 5 0 3) false 65528 ∧ (s.line false (65528 / 64)).poison = false ∧
    s.strand.holds = [] ∧ s.strand.pend = [] ∧ s.strand.buf = [] := by
  refine ⟨by decide +kernel, ⟨by decide +kernel, by decide +kernel, 0x1F, false, ?_⟩, ?_⟩ <;> decide +kernel

/-- `StoresWriteTheLowBytes` and `FirstStoreOfAnIntervalLogsTheLine`, with a line of this interval and one of another. -/
theorem test_meets_stores : let s := start [(5, 65528)]
    (s.scalarVa 5 0 3).toNat % 8 = 0 ∧ s.fieldSite (s.scalarVa 5 0 3) true 65528 ∧ s.undoF.length < Config.undoCapF ∧
    s.strand.plain = true ∧ (({ s with rin := 160 } : State).line false (65528 / 64)).stamp = ({ s with rin := 160 } : State).rin.setWidth 8 ∧
    (({ s with rin := 1 } : State).line false (65528 / 64)).stamp ≠ ({ s with rin := 1 } : State).rin.setWidth 8 := by
  refine ⟨by decide +kernel, ⟨by decide +kernel, by decide +kernel, 0x1F, false, ?_⟩, ?_⟩ <;> decide +kernel

/-- The other places of a store: the strip buffer, the Heath, the host's window and a module's. -/
def pageOf (leaf : W64) (l : List (Reg × W64)) : State := { start l with tlb := [⟨0, 0, 1, false, leaf⟩] }
theorem test_meets_strip_store : let s := strip 3 [(5, 65528)]
    s.scalarVa 5 0 3 = 65528 ∧ s.strand.buffering = true ∧ bufBytes s.strand.buf + 8 ≤ 16384 ∧
    siteIs ((s.access 0 0 65528 .write).mapError fun _ => ⟨0, 0, 0⟩) (.mem .fm 65528) = true := by decide +kernel
theorem test_meets_store_places : let h := { start [(5, 0x200000)] with tlb := [⟨0, 0, 1, true, 0x20008F⟩] }
    let heath : State := { h with mgmt := { h.mgmt with stacksOn := 1 } }
    let host := { pageOf 0x11F [(5, 0x10008)] with hostUp := true }
    let far := { pageOf 0x10000000000019F [(5, 0x10008)] with map := { self := 0, members := [⟨0, [], 0⟩, ⟨1, [0], 0⟩] } }.setPort 0 { state := .up }
    let goesTo := fun (s : State) (va : W64) (p : Site) => siteIs ((s.access 0 0 va .write).mapError fun _ => ⟨0, 0, 0⟩) p && p.exists?
    goesTo heath 0x200000 (.mem .hm 0x200000) = true ∧ heath.stackUp 0x200000 = true ∧ heath.undoH.length < Config.undoCapH ∧
    heath.strand.plain = true ∧ goesTo host 0x10008 (.ext .host 8) = true ∧ host.holdTakes 8 = true ∧ host.everyEarlier = [] ∧
    goesTo far 0x10008 (.remote 1 8) = true ∧ far.primary false 1 = some 0 ∧ far.strand.plain = true := by decide +kernel

/-- `ScratchpadWordsReadAndWrite`, at the last doubleword of core 0. -/
theorem test_meets_scratchpad : let s := owned [(5, 0x3FFFF8)]
    (s.scalarVa 5 0 3).toNat % 8 = 0 ∧ okWith (s.meadow s.strand.g (s.scalarVa 5 0 3) 8) (· = 0x3FFFF8) = true ∧
    s.bankAsleep 0x3FFFF8 = false ∧ s.strand.plain = true ∧ s.envBlockers none (some (0x3FFFF8, 0x3FFFF8 + 8)) = [] := by decide +kernel

theorem test_meets_scalar_traps :
    (start []).strand.nest = false ∧ ((start [(5, 1)]).scalarVa 5 0 1).toNat % 2 ≠ 0 ∧
    2 ^ 48 ≤ ((start [(5, 0x1000000000000)]).scalarVa 5 0 3).toNat ∧
    24 ≤ ((start [(5, 0x6000000)]).scalarVa 5 0 3).toNat / 2 ^ 22 % 32 ∧ 2 ^ 27 ≤ ((start [(5, 0x8000000)]).scalarVa 5 0 3).toNat ∧
    ((start [(5, 65536)]).scalarVa 5 0 3).toNat < 2 ^ 48 ∧ (start [(5, 65536)]).leafFor 0 0 65536 = none := by decide +kernel

theorem test_meets_csr : csrKnown 0x808 = true ∧ (inHandler (start [])).strand.priv = true ∧ (start []).strand.priv = false ∧
    0xC00 / 1024 % 4 = 3 ∧ 0x400 / 1024 % 4 = 1 ∧ 0x800 / 1024 % 4 = 2 ∧ csrKnown 0x406 = false ∧ csrKnown 0x815 = false ∧
    (0x100 : W64).toNat / 2 ^ 9 % 4 = 0 ∧ (0x200 : W64).toNat / 2 ^ 9 % 4 = 1 ∧ (0x200 : W64).toNat / 2 ^ 12 % 2 ^ 16 = 0 ∧
    (start []).strand.g.upper = false ∧ (start []).selected.isSome = false := by decide +kernel
/-- A strand of the half that chooses first on a split core, with a queue of its context selected. -/
theorem test_meets_split_csr :
    let s := inHandler (start [(5, 0x400)])
    let c : Core := { s.core 0 with reclaim := .split 1 0 }
    let k : State := { s.setCore c with queues := [⟨0, 0, .idle, 16, 256, [], 0, 0, .idle, none, 0⟩] }
    (k.core 0).halves ≠ none ∧ (k.core 0).half = false ∧ (k.core 0).late = [] ∧ k.selected.isSome = true ∧
    (k.strand.rx 5).toNat / 2 ^ 10 % 2 ≠ 0 ∧ (k.strand.rx 0).toNat / 2 ^ 10 % 2 = 0 := by decide +kernel
/-- The register of trace controls as software reads it, and what a write of its place, its freeze and its enables leaves. -/
theorem test_csr_trace : let s := inHandler (start [(5, 0xFF00000010F)])
    (after s (.csrw 6 5 0x808)).strand.rx 6 = 0x3F ∧ ((after s (.csrw 6 5 0x808)).core 0).trcOfs = 0xFF00 ∧
    ((after s (.csrw 6 5 0x808)).core 0).trcFrz = true := by decide +kernel

/-- `TakingATrap`: an asynchronous one in a handler, a synchronous one outside, and one in a handler. -/
theorem test_meets_traps : (start []).work.cur.nest = false ∧
    ((start []).withStrand { (start []).strand with status := 0x10 }).work.cur.nest = true := by decide +kernel

/-- The strand's group as the hub has it. -/
def groupZero : Group := ⟨{}, [], .running, false, 0, 0, false, false, false, none, none⟩

theorem test_meets_svc : let s := { (start []).withStrand { (start []).strand with status := 0x11 } with groups := [groupZero] }
    s.strand.nest = true ∧ s.group? s.strand.g.gid = some groupZero ∧ groupZero.fatal = none := by decide +kernel

theorem test_meets_tret : let s := inHandler (start []); let t := s.withStrand { s.strand with carryAt := some 0 }
    s.strand.priv = true ∧ t.strand.carryAt = some t.strand.epc ∧ s.strand.carryAt ≠ some s.strand.epc := by decide +kernel

theorem test_meets_wfi : let s := inHandler (start []); let t := s.withStrand { s.strand with tmcmp := 1 }
    s.strand.tmcmp ≤ (s.core s.strand.g.core).cycle ∧ (t.core t.strand.g.core).cycle < t.strand.tmcmp := by decide +kernel

theorem test_meets_gend : let s := start []
    s.strand.priv = false ∧ s.strand.buf = [] ∧ s.strand.deliver = [] ∧ s.inFlight = [] ∧ s.strand.sidx = 0 ∧ s.othersEnded = true := by
  decide +kernel

/-- `lbuf` of one convoy (`add`) four times over x20, its descriptor 16 words on: CNT0 = 4, REG0 = 20, INC = 64. -/
def looping : State :=
  { start [] with fm := Mem.write [] 0 ((([encode (.lbuf 0 16), encode (.add 5 6 7), encode .lend] : List W32).flatMap fun w =>
      leBytes 4 w.toNat) ++ List.replicate 52 0 ++ [4, 0] ++ List.replicate 10 0 ++ [20, 0, 0, 0, 64, 0] ++ List.replicate 46 0) }
theorem test_meets_lbuf : looping.strand.loop = none ∧ okWith (fetchWords looping.work 64 16) (fun v =>
    okWith (fetchBlock v.2 4 1 0 129) (fun r => okWith (scanBlock r.1 0) (fun stop => decide (stop = 8) &&
      (loopOf 4 8 (packWords v.1)).isSome && !r.2.absent))) = true ∧
    (Instr.lbuf 0 16).wf = true ∧ (looping.strand.pc + (16 : BitVec 20).signExtend 64 * 4).toNat % 64 = 0 := by decide +kernel

theorem test_meets_vlset : let s := start [(10, 8)]; let r := s.withStrand { s.strand with g := { s.strand.g with recl := true } }
    s.strand.loop = none ∧ s.strand.g.recl = false ∧ r.strand.g.recl = true ∧ s.work.bufWait = none := by decide +kernel
/-- A strip buffer with a store, and the log full. -/
def fullLog (l : List Undo) : State :=
  { State.reset with rin := 5, undoF := l, strand := { State.reset.strand with buf := [⟨0, some 8, .mem (.put .fm 8 [0] 0 false)⟩] } }
theorem test_meets_full_buffer (l : List Undo) (h : l.length = Config.undoCapF) : (fullLog l).work.bufWait = some (.log false 8 [0]) := by
  have fresh : ((fullLog l).line false 0).stamp ≠ (fullLog l).stampNow :=
    of_decide_eq_true (p := ((fullLog l).line false 0).stamp ≠ (fullLog l).stampNow) rfl
  have used : ((fullLog l).undo false).length = Config.undoCapF := h
  have fit : (fullLog l).work.linesFit false [0] = false := by
    simp [Work.linesFit, State.work, used, List.eraseDups_cons, fresh]
  show roomFor (fullLog l).work [(some 8, .mem (.put .fm 8 [0] 0 false))] = some (.log false 8 [0])
  have full : (fullLog l).work.canPerform (.mem (.put .fm 8 [0#8] 0#12 false)) = false := fit
  have whole : ([.mem (.put .fm 8 [0#8] 0#12 false)] : List Store).flatMap (Store.lines false) = [0] := by decide
  simp [roomFor, roomIn, Work.roomWait, full, whole, List.eraseDups_cons]

/-! #### Vector, tile and engine words -/

/-- FP32 for every descriptor: DST, SRCA and SRCB of class 8 (the format word of x16), read from the state after `strip`. -/
def fp32 : W64 := BitVec.ofNat 64 (0x80000 * 2 ^ 44 + 0x80000 * 2 ^ 24 + 0x80000 * 2 ^ 4)

def sources : W64 := BitVec.ofNat 64 (0x80000 * 2 ^ 24 + 0x80000 * 2 ^ 4)

theorem test_fp32_formats : (fmtOf fp32).dst = descFP32 ∧ (fmtOf fp32).srcA = descFP32 ∧ (fmtOf fp32).srcB = descFP32 := by decide +kernel

/-- What `VectorReady` asks, as far as it is data; its first field is by computation for every member. -/
def readyFor (i : Instr) (m : Member) (s : State) : Bool :=
  let p := s.strand.place m (encode i) s.strand.pc
  i.wf && !chained (encodeNat i) && (checkMember s.strand p [] []).isNone && decide (s.strand.epr s.strand.sew ≠ 0) &&
  decide (s.strand.vslab.toNat * s.strand.epr s.strand.sew < s.strand.vl.toNat) &&
  (s.getBlockers (p.readRegs s.strand.sew s.strand.grp ++ p.writeRegs s.strand.sew s.strand.grp)).isEmpty &&
  isOk (m.onDispatch p.fmt s.work)

/-- `VectorWordsRunOneStep`: a step that performs, and is the last. -/
theorem test_meets_vector_step : let s := strip 2 [(16, fp32)]; let m := memVadd 8 0 4 16 0
    let p := s.strand.place m (encode (.vadd false 8 0 4 16 0)) s.strand.pc
    readyFor (.vadd false 8 0 4 16 0) m s = true ∧ s.strand.stepLast = true ∧ s.strand.buf = [] ∧ s.strand.loop = none ∧
    let c : StepCtx := ⟨s.strand.stepLo, s.strand.stepHi, s.strand.stepLast, p.fmt, m.k, 0, false⟩
    okWith (m.perform c ((s.work.openStep [p] []).touchMember p c)) (fun k => !k.absent) = true := by decide +kernel

/-- The same with a step that is not the last: 300 elements of 256 to a slab. -/
theorem test_meets_vector_step_of_two : let s := after (owned [(10, 300), (16, fp32)]) (.vlset 9 10 1 2); let m := memVadd 8 0 4 16 0
    readyFor (.vadd false 8 0 4 16 0) m s = true ∧ s.strand.stepLast = false := by decide +kernel

/-- The same for the word itself, with the member that the sub-maps give it. -/
def readyHere (s : State) (i : Instr) : Bool :=
  match memberOf i with
  | some m => readyFor i m s
  | none => false

/-- A format word from the codes of DST, SRCA and SRCB. -/
def formats (dst srcA srcB : Nat) : W64 := BitVec.ofNat 64 (dst * 2 ^ 44 + srcA * 2 ^ 24 + srcB * 2 ^ 4)
/-- FP32, INT32, E8M0, E4M3, INT64. -/
def cF32 : Nat := 0x80000
def cI32 : Nat := 0x2800
def cE8M0 : Nat := 0x3407F
def cE4M3 : Nat := 0x3A307
/-- Eight elements of 32 bits, with the format word in x16. -/
def formatted (w : W64) : State := strip 2 [(16, w)]

/-- A convoy of two: `vadd` at 0 with `vmul` behind it in memory (R29). -/
theorem test_meets_convoy_step :
    let s := { formatted fp32 with fm := Mem.write [] 8 (leBytes 4 (encodeNat (.vmul false 12 0 4 16 0))) }
    let i : Instr := .vadd true 8 0 4 16 0
    let t := s.strand
    chained (encodeNat i) = true ∧
    okWith (s.work.convoyWords (encode i)) (fun r => (badFrame 0 [] [] r.1).isNone &&
      okWith (placeAll t r.1 t.pc [] []) (fun l =>
        decide (l.length = 2) && isOk (dispatchReads l r.2) &&
        (s.getBlockers (l.flatMap fun p => p.readRegs t.sew t.grp ++ p.writeRegs t.sew t.grp)).isEmpty &&
        okWith (performAll l t.stepLo t.stepHi t.stepLast 0 (r.2.openStep l [])) (fun k => !k.absent))) = true ∧
    t.epr t.sew ≠ 0 ∧ t.vslab.toNat * t.epr t.sew < t.vl.toNat := by decide +kernel

/-- `ElementwiseWordsWriteActiveElements`: every word of its table under a format that it accepts. -/
theorem test_meets_float_elements : let s := formatted fp32
    [Instr.vadd false 8 0 4 16 0, .vsub false 8 0 4 16 0, .vmul false 8 0 4 16 0, .vdiv false 8 0 4 16 0, .vmin false 8 0 4 16 0,
     .vmax false 8 0 4 16 0, .vfma false 8 0 4 16 0, .vfms false 8 0 4 16 0, .vfnma false 8 0 4 16 0, .vfnms false 8 0 4 16 0,
     .vrem false 8 0 4 16 0, .vsel false 8 0 4 16 1].all (fun i => readyHere s i && (elementRule i).isSome) = true ∧
    s.strand.buf = [] := by decide +kernel
theorem test_meets_unary_elements : let s := formatted (formats cF32 cF32 0)
    [Instr.vsqrt false 8 0 16 0, .vabs false 8 0 16 0, .vneg false 8 0 16 0, .vcvt false 8 0 16 0, .vexp2 false 8 0 16 0,
     .vlog2 false 8 0 16 0, .vrcp false 8 0 16 0, .vrsqrt false 8 0 16 0, .vslideup false 8 0 5 16 0, .vslidedn false 8 0 5 16 0].all
      (fun i => readyHere s i && (elementRule i).isSome) = true := by decide +kernel
theorem test_meets_integer_elements : let s := formatted (formats cI32 cI32 cI32)
    [Instr.vmulh false 8 0 4 16 0, .vand false 8 0 4 16 0, .vor false 8 0 4 16 0, .vxor false 8 0 4 16 0, .vsll false 8 0 4 16 0,
     .vsrl false 8 0 4 16 0, .vsra false 8 0 4 16 0, .vperm false 8 0 4 16 0].all
      (fun i => readyHere s i && (elementRule i).isSome) = true := by decide +kernel
theorem test_meets_other_elements :
    readyHere (formatted (formats cI32 cI32 0)) (.vnot false 8 0 16 0) = true ∧
    readyHere (formatted (formats cF32 cE4M3 cE8M0 + 8)) (.vcvtS false 8 0 4 16 0) = true ∧
    [Instr.vbcast false 8 5 16 0, .vmvsx false 8 5 16 0, .vid false 8 16 0].all
      (readyHere (formatted (formats cF32 0 0))) = true ∧
    [Instr.tdpathR false 8 0 0, .tdpathW false 8 0 0].all (readyHere (strip 3 [])) = true := by decide +kernel

/-- `ReductionsCarryTheirValue`: every word ready with no running value, and with one in a second step. -/
theorem test_meets_reductions :
    [Instr.vredsum false 8 0 16 0, .vredmin false 8 0 16 0, .vredmax false 8 0 16 0, .vscan false 8 0 16 0, .vscanx false 8 0 16 0,
     .vcompress false 8 0 16 0].all (readyHere (formatted (formats cF32 cF32 0))) = true ∧
    [Instr.vredand false 8 0 16 0, .vredor false 8 0 16 0].all (readyHere (formatted (formats cI32 cI32 0))) = true ∧
    [Instr.vmaxi false 8 0 16 0, .vmini false 8 0 16 0, .vmaxic false 8 0 16 0, .vmvxs false 9 0 16 0].all
      (readyHere (formatted (formats 0 cF32 0))) = true ∧
    [Instr.kpopc false 9 1 0, .kfirst false 9 1 0].all (readyHere (strip 2 [])) = true ∧
    (strip 2 []).strand.carry = .none ∧ (strip 2 []).strand.buf = [] ∧ (strip 2 []).strand.stepActive 0 ≠ [] ∧
    (strip 2 []).strand.stepLast = true := by decide +kernel
theorem test_meets_carried_reductions :
    let s := after (owned [(10, 300), (16, formats cF32 cF32 0)]) (.vlset 9 10 1 2)
    let t := s.withStrand { s.strand with vslab := 1, vstart := 256, carry := .count 3 }
    readyHere s (.vredsum false 8 0 16 0) = true ∧ s.strand.stepLast = false ∧
    readyHere t (.kpopc false 9 1 0) = true ∧ t.strand.stepLast = true ∧ t.strand.carry = .count 3 := by decide +kernel

/-- `VectorLoadsAndStores`: eight words from 64 on in field memory and from 0 on in scratchpad; the group of indexes is zero. -/
def streaming (open' : Bool) (l : List (Reg × W64)) : State :=
  let s := strip 2 ([(5, 64), (6, 8), (20, BitVec.ofNat 64 (8 * 2 ^ 32)), (21, BitVec.ofNat 64 (8 * 2 ^ 32))] ++ l)
  s.withStrand { s.strand with buffering := open' }
theorem test_meets_vector_memory_words : let s := streaming true []
    [Instr.vld false 8 5 0 0, .vlds false 8 5 6 0 0, .vldx false 8 5 4 0 0, .vldsp false 8 5 0 0, .vldm false 8 20 0,
     .vldxsp false 8 5 4 0 0, .vst false 8 5 0 0, .vsts false 8 5 6 0 0, .vstx false 8 5 4 0 0, .vstsp false 8 5 0 0,
     .vstm false 8 20 0, .vstxsp false 8 5 4 0 0].all (fun i => readyHere s i && readyHere (streaming false []) i) = true ∧
    s.strand.window = none ∧ s.strand.buf = [] ∧ s.strand.pend = [] ∧ s.strand.holds = [] := by decide +kernel
theorem test_meets_vector_addresses : let s := streaming true []; let t := s.strand
    (t.stepActive 0).length * 4 ≤ Config.stripBytes ∧ t.sew / 8 = 4 ∧
    (t.stepActive 0).all (fun j =>
      siteIs (s.checkVirtual 0 0 (t.sx 5 + BitVec.ofNat 64 (j * 4)) 4 .read) (.mem .fm (64 + j * 4)) &&
      siteIs (s.checkVirtual 0 0 (t.sx 5 + BitVec.ofNat 64 (j * 4)) 4 .write) (.mem .fm (64 + j * 4)) &&
      siteIs (s.checkVirtual 0 0 (t.sx 5 + BitVec.ofNat 64 j * t.sx 6) 4 .read) (.mem .fm (64 + j * 8)) &&
      siteIs (s.checkVirtual 0 0 (t.sx 5 + BitVec.ofNat 64 j * t.sx 6) 4 .write) (.mem .fm (64 + j * 8)) &&
      siteIs (s.checkVirtual 0 0 (t.sx 5 + BitVec.ofNat 64 (t.elt 4 32 j)) 4 .read) (.mem .fm 64) &&
      !(s.line false ((64 + j * 8) / 64)).poison && !(s.line false ((64 + j * 4) / 64)).poison &&
      decide (s.undoF.length + 8 ≤ Config.undoCapF)) = true ∧
    (t.stepActive 0).filter (fun j => !((t.resume (t.epr t.sew)).done.getD 0 0).getLsbD j) = t.stepActive 0 := by decide +kernel
theorem test_meets_vector_scratchpad : let s := streaming false []; let t := s.strand
    (t.stepActive 0).all (fun j =>
      okWith (s.meadow t.g (t.sx 5 + BitVec.ofNat 64 (j * 4)) 4) (fun dev => !s.bankAsleep dev && (s.envBlockers none (some (dev, dev + 4))).isEmpty) &&
      okWith (s.meadow t.g (t.sx 5 + BitVec.ofNat 64 (t.elt 4 32 j)) 4) (fun dev => !s.bankAsleep dev) &&
      okWith (pairAddr (t.dispatchPair 20) (s.tlen t.g) 4 j) (fun va => decide (va.toNat % 4 = 0) &&
        okWith (s.meadow t.g va 4) fun dev => !s.bankAsleep dev)) = true := by decide +kernel
theorem test_meets_vector_fault : let s := streaming true [(5, 65532)]; let t := s.strand
    readyHere s (.vld false 8 5 0 0) = true ∧ t.nest = false ∧ t.stepActive 0 = [0] ++ 1 :: [2, 3, 4, 5, 6, 7] ∧
    siteIs (s.checkVirtual 0 0 (t.sx 5 + BitVec.ofNat 64 (0 * 4)) 4 .read) (.mem .fm 65532) = true ∧
    isOk (s.checkVirtual 0 0 (t.sx 5 + BitVec.ofNat 64 (1 * 4)) 4 .read) = false := by decide +kernel

/-- `MatrixStepAndDescent`: both matrix words on a tile that the group holds. -/
theorem test_meets_matrix_step : let s := withTile (strip 0 [(16, formats cF32 cE4M3 cE4M3), (17, formats cF32 cE4M3 cE4M3 + 8)])
    readyHere s (.tacc false 0 0 4 16) = true ∧ readyHere s (.taccS false 0 0 4 17) = true ∧ s.strand.g.phys 0 < 4 ∧
    s.strand.buf = [] ∧ s.strand.pend = [] ∧ s.strand.holds = [] := by decide +kernel

/-- A tree of depth 2 and dimension 1: its descriptor at 0, weights from 1,024, tokens from 2,048, all FP32; one element. -/
def tree (state : Nat) : State :=
  let s := after (owned [(10, 1), (20, 0), (16, fp32), (6, 4096)]) (.vlset 9 10 0 3)
  let s1 := s.withStrand { s.strand with buffering := false }
  codes { s1 with sp := Mem.write [] 0 (leBytes 4 1024 ++ leBytes 4 4 ++ leBytes 4 2048 ++ leBytes 4 4 ++ leBytes 2 1 ++ [2]) } 8 64 [state]
theorem test_meets_descent : let s := tree 0; let l := tree 0x1000; let f := fmtOf (s.strand.sx 16)
    readyHere s (.tdstep false 8 0 20 16 0) = true ∧ readyHere l (.tdleaf false 8 0 20 16 0) = true ∧
    readyHere s (.tdaddr false 8 0 20 0) = true ∧ readyHere s (.tdregrp false 8 0 6 0) = true ∧ s.strand.stepActive 0 = [0] ∧
    okWith (s.work.readTree 20 (f.srcB.width / 8) (f.srcA.width / 8)) (fun n => let t := treeOf n
      decide (nodeIn t (s.strand.elt 8 64 0) = some 0) && decide (nodeDepth (s.strand.elt 8 64 0) ≠ t.depth - 1) &&
      isOk (s.work.dot t f (s.strand.elt 0 64 0) 0) &&
      decide (nodeIn t (l.strand.elt 8 64 0) = some 1) && isOk (l.work.dot t f (l.strand.elt 0 64 0) 1)) = true ∧
    isOk (s.work.readTree 20 1 1) = true := by decide +kernel
theorem test_meets_regroup : let s := tree 0; let t := s.strand; let counts := nodeCounts [0]
    nodeOf (t.elt 0 64 0) = some 0 ∧ counts = leBytes 4 1 ∧ t.stepLast = true ∧ t.buffering = false ∧
    okWith (s.meadow t.g (t.sx 6) counts.length) (fun dev =>
      (s.sleeperIn dev counts.length).isNone && (s.envBlockers none (some (dev, dev + counts.length))).isEmpty) = true := by decide +kernel

theorem test_meets_compare : readyFor (.vceq false 1 2 3 16 0) (memVceq 1 2 3 16 0) (strip 2 [(16, sources)]) = true ∧
    readyFor (.vcun false 1 2 3 16 0) (memVcun 1 2 3 16 0) (strip 2 [(16, sources)]) = true := by decide +kernel
theorem test_meets_mask_words : readyFor (.kand false 1 2 3) (memKand 1 2 3) (strip 2 []) = true ∧
    readyFor (.knot false 1 2) (memKnot 1 2) (strip 2 []) = true := by decide +kernel

/-- `VectorWordsAreCheckedFirst`: UNSET, and a group of two at an odd register. -/
theorem test_meets_vector_checks :
    let s := start []; let m := memVadd 8 0 4 16 0
    let t := after (owned [(10, 8), (16, fp32)]) (.vlset 9 10 1 2); let n := memVadd 1 0 4 16 0
    checkMember s.strand (s.strand.place m (encode (.vadd false 8 0 4 16 0)) 0) [] [] =
      some ⟨1, 6, (encode (.vadd false 8 0 4 16 0)).setWidth 64⟩ ∧ s.strand.unset = true ∧ s.strand.nest = false ∧
    (checkMember t.strand (t.strand.place n (encode (.vadd false 1 0 4 16 0)) 4) [] []).isSome = true := by decide +kernel

/-- The same for the words of a tile: a tile beyond 3, no strip, NOMX, a tile that the group has not, and a format that `mcvt` does not have. -/
theorem test_meets_tile_checks :
    let s := strip 2 [(16, 0)]; let n := s.withStrand { s.strand with g := { s.strand.g with nomx := true } }
    (Instr.mzero 4).wf = false ∧ (Instr.mcvt 0 16).wf = true ∧ (start []).strand.unset = true ∧ s.strand.unset = false ∧
    n.strand.g.nomx = true ∧ s.strand.g.nomx = false ∧ s.strand.g.tiles.length ≤ (0 : Reg).toNat ∧
    (0 : Reg).toNat < (withTile s).strand.g.tiles.length ∧ okMcvt (fmtOf ((withTile s).strand.rx 16)) = false := by decide +kernel
/-- Each of the later checks: the matrix unit, the tile, the width, the format word, and registers that meet. -/
theorem test_meets_each_check :
    let fails := fun (s : State) (m : Member) (i : Instr) =>
      (checkMember s.strand (s.strand.place m (encode i) s.strand.pc) [] []).map fun t => (t.code, t.sub)
    let bare := strip 2 [(16, fp32)]
    let none' := bare.withStrand { bare.strand with g := { bare.strand.g with nomx := true } }
    fails none' (memTacc 0 0 4 16) (.tacc false 0 0 4 16) = some (8, 0) ∧ fails bare (memTacc 0 0 4 16) (.tacc false 0 0 4 16) = some (1, 7) ∧
    fails bare (memTdstep 4 2 20 16 0) (.tdstep false 4 2 20 16 0) = some (1, 6) ∧
    fails (strip 2 []) (memVadd 8 0 4 16 0) (.vadd false 8 0 4 16 0) = some (1, 5) ∧
    fails (strip 2 [(16, formats cF32 cF32 0)]) (memVredsum 8 8 16 0) (.vredsum false 8 8 16 0) = some (1, 4) ∧
    fails bare (memVadd 8 0 4 16 0) (.vadd false 8 0 4 16 0) = none := by decide +kernel

/-- A strand in a strip with a tile, whose strip no longer buffers. -/
def tiled (l : List (Reg × W64)) : State :=
  let s := withTile (strip 2 l)
  s.withStrand { s.strand with buffering := false }

/-- `TileWordsMoveAndConvert`: rows of 512 bytes at the bottom of the scratchpad. -/
theorem test_meets_tile_words : let s := tiled [(20, BitVec.ofNat 64 (512 * 2 ^ 32)), (16, fp32), (7, 127)]
    s.strand.g.phys 0 < 4 ∧ s.strand.plain = true ∧ s.work.tileChecks (.mzero 0) 0 = none ∧ s.work.tileChecks (.mld 0 20) 0 = none ∧
    s.work.tileChecks (.mst 0 20) 0 = none ∧ s.work.tileChecks (.mcvt 0 16) 0 = none ∧ s.work.tileChecks (.mrowr 0 6 7) 0 = none ∧
    isOk (tilePlace s.work 20 4 128 512) = true ∧ isOk (tilePlace s.work 20 1 512 128) = true ∧
    isOk (tilePlace s.work 20 2 256 256) = true ∧
    okWith (tilePlace s.work 20 4 128 512) (fun l => l.all fun dev => (s.envBlockers none (some (dev, dev + 512))).isEmpty && (s.readBlockers dev (dev + 512)).isEmpty) = true ∧
    (s.strand.rx 7).toNat < s.tlen s.strand.g ∧ s.getBlockers [6] = [] := by decide +kernel
theorem test_meets_mcvt : okMcvt (fmtOf ((tiled [(16, BitVec.ofNat 64 (0x80000 * 2 ^ 44 + 0x80000 * 2 ^ 24))]).strand.rx 16)) = true := by
  decide +kernel

/-- A copy in flight of the strand. -/
def copying (ch : Nat) (st : CopyStage) (b : CopyBody) (f : Option CopyFault) : Cmd := ⟨1, 0, 0, 0, 0, ch, [], none, none, false, 0, [], .copy 3 b 0 f st⟩
def sixteenBytes : CopyBody := .nest false false 128 64 [16] [] [] 0
def withCopy (s : State) (c : Cmd) : State := { s with cmds := [c], nextId := 2 }
def deliver (s : State) (d : Delivery) : State := s.withStrand { s.strand with deliver := [d], tags := 8 }

/-- `TagWordsWaitForTheirBits`: no delivery with each answer of the waits, and a due delivery. -/
theorem test_meets_tag_waits : let s := start [(5, 8), (6, 16)]; let t := s.withStrand { s.strand with tags := 0x8 }
    s.strand.buf = [] ∧ s.strand.drained.deliver = [] ∧ t.strand.drained.tags &&& t.strand.rx 5 ≠ 0 ∧
    t.strand.rx 6 ≠ 0 ∧ t.strand.drained.tags &&& t.strand.rx 6 = 0 ∧ (t.strand.tags &&& t.strand.rx 5).getLsbD 3 = true ∧
    s.onChannels 1 = [] ∧ (withCopy s (copying 0 .moving sixteenBytes none)).onChannels 1 ≠ [] := by decide +kernel
theorem test_meets_deliveries : let s := start [(5, 8)]; let d : Delivery := ⟨false, 3, 3, 1, 64, true, none⟩
    let e : Delivery := ⟨true, 2, 6, 0, 64, false, none⟩
    (deliver s d).strand.drained.nest = false ∧ (deliver s d).strand.drained.due (s.strand.rx 5) 0 false = some d ∧
    d.contain = none ∧ (deliver s e).strand.drained.due 0 4 false = some e := by decide +kernel

/-- `CopyWordsQueueTheirCopy`: every plan answers. The shape blocks lie at x22 = 256 of field memory, with CNT0 = 16,
and at 320, with CNT0 = 16, CNT1 = 4 and a source stride of 16. -/
def copies : State :=
  let s := strip 0 [(20, 0), (21, 4096), (22, 256), (23, BitVec.ofNat 64 (16 * 2 ^ 32 + 64)), (24, 16)]
  { s with fm := Mem.write (Mem.write [] 256 [16]) 320 (leBytes 4 16 ++ leBytes 4 4 ++ List.replicate 16 0 ++ leBytes 4 16) }
theorem test_meets_copies : copies.strand.buf = [] ∧ copies.tagBusy 3 = false ∧
    (copies.onChannels (BitVec.ofNat 4 (2 ^ 0))).length < 32 ∧ (copies.strand.rx 24).toNat ≤ 2 ^ 32 := by decide +kernel
theorem test_meets_block_copies : let w := fun (i : Instr) => copies.engineWork (encodeNat i) 20; let t := copies.strand
    isOk (shapedCopy (w (.cblkIn 20 21 24 3 0)) true false (t.rx 20) (t.rx 21) (blockShape 16)) = true ∧
    isOk (shapedCopy (w (.cblkOut 20 21 24 3 0)) false true (t.rx 20) (t.rx 21) (blockShape 16)) = true ∧
    isOk (shapedCopy (w (.cblkSs 20 21 24 3 0)) true true (t.rx 20) (t.rx 21) (blockShape 16)) = true := by decide +kernel
theorem test_meets_nested_copies : let w := fun (i : Instr) => copies.engineWork (encodeNat i) 20; let t := copies.strand
    isOk (shapedCopy (w (.cnestIn 20 21 22 3 0)) true false (t.rx 20) (t.rx 21) (nestShape 256 0)) = true ∧
    isOk (shapedCopy (w (.cnestVv 20 21 22 3 0)) false false (t.rx 20) (t.rx 21) (nestShape 256 0)) = true := by decide +kernel
theorem test_meets_transposed_copies : let w := fun (i : Instr) => copies.engineWork (encodeNat i) 20; let t := copies.strand
    isOk (shapedCopy (w (.cnestInT8 20 21 22 3 0)) true false (t.rx 20) (t.rx 21) (nestShape 320 1)) = true ∧
    isOk (shapedCopy (w (.cnestInT16 20 21 22 3 0)) true false (t.rx 20) (t.rx 21) (nestShape 320 2)) = true := by decide +kernel
theorem test_meets_gathers : let w := fun (i : Instr) => copies.engineWork (encodeNat i) 20
    isOk (gatherCopy (.cgathIn 20 22 8 3 0) false 20 22 8 (w (.cgathIn 20 22 8 3 0))) = true ∧
    isOk (gatherCopy (.cgathOut 22 20 8 3 0) true 20 22 8 (w (.cgathOut 22 20 8 3 0))) = true ∧
    isOk (getCopy (.cgetV 4 21 3 0) false 4 21 (w (.cgetV 4 21 3 0))) = true ∧
    isOk (getCopy (.cgetVs 4 20 3 0) true 4 20 (w (.cgetVs 4 20 3 0))) = true := by decide +kernel

/-- `HeathWordsGoInFlight`: a query of two records of 64 bytes over one Heath page, its block at x20 = 0 and reply at 4096, and a
broadcast of 64 bytes at 1024, its block at x21 = 128. Leaf entries: V, LEAF, RD and WR, REGION 1. -/
def heathBlock : List Byte :=
  leBytes 8 0x200000 ++ leBytes 8 64 ++ leBytes 4 2 ++ leBytes 2 64 ++ [0, 0] ++ leBytes 4 0 ++ leBytes 4 63 ++ leBytes 2 1 ++
  leBytes 2 0 ++ leBytes 4 0 ++ leBytes 4 0 ++ leBytes 4 0 ++ leBytes 8 4096 ++ leBytes 8 0
def castBlock : List Byte := [1, 0, 0, 0] ++ leBytes 2 64 ++ leBytes 2 0 ++ leBytes 8 1 ++ leBytes 8 1024 ++ List.replicate 40 0
def int8 (dst srcB : Nat) : W64 := BitVec.ofNat 64 (dst * 2 ^ 44 + 0x1800 * 2 ^ 24 + srcB * 2 ^ 4)
def heathState : State :=
  let s := owned [(20, 0), (21, 128), (16, int8 0x80000 0x1800), (17, int8 0x80000 0), (18, int8 0 0), (25, 0x200000),
    (26, 0x400000), (27, 0x200000)]
  { s with sp := Mem.write (Mem.write [] 0 heathBlock) 128 castBlock,
           tlb := [⟨0, 0, 1, true, 0x20008F⟩, ⟨0, 0, 2, true, 0x40008F⟩] }
def asks (i : Instr) (kind : QKind) (fw : W64) : Bool :=
  let w := heathState.engineWork (encodeNat i) 20
  okWith (w.readBlock 0 64 64) fun bytes =>
    let q := qblockOf (leNat bytes)
    let f := fmtOf fw
    let pay := if q.verdict kind f.srcA.width = 0 then kind.payload q (q.recb * 8 / f.srcA.width) else 0
    kind.formatOk q.red f && isOk (queryPages w.st 0 0 q.ext (q.ext + (q.nrec - 1) * q.stride + (q.recb - 1)) (2 ^ 27)) &&
    isOk (w.st.meadow w.cur.g (BitVec.ofNat 64 q.rdst) 32) &&
    (decide (pay = 0) || isOk (w.st.meadow w.cur.g (BitVec.ofNat 64 q.rdst + 32) pay))
theorem test_meets_heath_words : heathState.strand.buf = [] ∧ heathState.tagBusy 3 = false ∧
    (heathState.heathOf heathState.strand).length < 64 ∧ heathState.queries.length < 1024 := by decide +kernel
theorem test_meets_slotted_queries : asks (.hqDot 20 16 3) .dot (heathState.strand.rx 16) = true ∧
    asks (.hqTop 20 16 3) .top (heathState.strand.rx 16) = true ∧ asks (.hqSes 20 16 3) .ses (heathState.strand.rx 16) = true := by
  decide +kernel
theorem test_meets_plain_queries : asks (.hqSum 20 17 3) .sum (heathState.strand.rx 17) = true ∧
    asks (.hqCnt 20 18 3) .cnt (heathState.strand.rx 18) = true ∧ asks (.hqMax 20 18 3) .max (heathState.strand.rx 18) = true := by
  decide +kernel
theorem test_meets_hbcast : let w := heathState.engineWork (encodeNat (.hbcast 21 3)) 21
    okWith (w.readBlock 128 64 64) (fun bytes =>
      let f := fun (lo len : Nat) => bitsAt (leNat bytes) (8 * lo) (8 * len)
      decide (f 2 1 ≤ 7) && decide (f 3 1 = 0) && decide (1 ≤ f 4 2) && decide (f 4 2 ≤ 1024) && decide (f 6 2 = 0) &&
      decide (f 24 40 = 0) && isOk (w.readBlock (BitVec.ofNat 64 (f 16 8)) (f 4 2) 1)) = true := by decide +kernel
theorem test_meets_hmove : let s := inHandler heathState
    s.strand.drained.priv = true ∧ (s.strand.rx 25).toNat % 2 ^ 21 = 0 ∧ (s.strand.rx 27).toNat = 2 ^ 21 ∧ s.strand.rx 0 = 0 ∧
    s.strand.rx 25 ≠ s.strand.rx 26 ∧ s.heathPage 0 0 0x400000 = some 0x400000 ∧ s.heathPage 0 0 0x200000 = some 0x200000 := by
  decide +kernel

/-! #### Atomics, ordering, barriers, the hub -/



/-- `ReturningAtomicsReadModifyWrite` and `NoReturnAtomicsQueue`, at the last doubleword of the page. -/
theorem test_meets_atomics : let s := start [(5, 65528), (6, 1)]; let t := s.strand.drained
    s.strand.buf = [] ∧ s.strand.holds = [] ∧ s.strand.pend = [] ∧ s.strand.flight = .none ∧ s.undoF.length < Config.undoCapF ∧
    65528 + 8 ≤ 384 * 2 ^ 30 ∧ (s.line false (65528 / 64)).poison = false ∧
    siteIs (s.checkVirtual t.g.core t.g.ctx (t.rx 5) 4 .atomic) (.mem .fm 65528) = true ∧
    siteIs (s.checkVirtual t.g.core t.g.ctx (t.rx 5) 8 .atomic) (.mem .fm 65528) = true ∧
    (s.onChannels (BitVec.ofNat 4 (2 ^ 3))).length < 32 := by decide +kernel

/-- The scan of R223's example, with no active element under k2 and four under k1. -/
theorem test_meets_aaddscan : let t := counter.strand.drained
    t.sew = 32 ∧ t.spansOk [4, 8] = true ∧ t.spansOk [8, 4] = true ∧ t.groupsMeet 8 4 = false ∧
    counter.getBlockers (regsOf ([4, 8].map fun r => group r t.sew) t.sew t.grp) = [] ∧
    (counter.line false 1).poison = false ∧ siteIs (counter.checkVirtual 0 0 (t.rx 20) 4 .atomic) (.mem .fm 64) = true ∧
    (scanPrefixes t 4 1).1 ≠ [] ∧ (scanPrefixes t 4 2).1 = [] := by decide +kernel

/-- A combine put: a header at 256 with NTOK 2, NRANK 2, ROWE 8, OUTD FP32 and every area in the page; tok 1, rank 1. -/
def combining : State :=
  let s := strip 2 [(20, 256), (21, 257), (16, BitVec.ofNat 64 (0x80000 * 2 ^ 44 + 0x80000 * 2 ^ 24))]
  { s with fm := Mem.write [] 256 (leBytes 4 2 ++ [2, 0] ++ leBytes 2 8 ++ leBytes 4 0x80000 ++ leBytes 4 0 ++ leBytes 8 4096 ++
      leBytes 8 32 ++ leBytes 8 8192 ++ leBytes 8 1024 ++ leBytes 8 2048) }
theorem test_meets_combine_puts : let t := combining.strand.drained; let h := headerOf (leNat (Mem.readN combining.fm 256 64))
    let tok := (t.rx 21).toNat / 256; let slots := h.slots + tok * h.nrank * 4 * h.rowe
    let spans := putUses slots (h.nrank * 4 * h.rowe) (h.fill + 4 * tok) (h.out + tok * h.outp) (h.rowe * ((descOf h.outd).width / 8)) h.doneA
    isOk (combining.access 0 0 (t.rx 20) .write) = true ∧ siteIs (combining.checkVirtual 0 0 (t.rx 20) 64 .read) (.mem .fm 256) = true ∧ h.ok = true ∧ tok < h.ntok ∧
    (t.rx 21).toNat % 256 < h.nrank ∧ (combining.onChannels (BitVec.ofNat 4 (2 ^ 0))).length < 32 ∧
    isOk (putPages (combining.engineWork (stripWord 2 0 20 21 0 0).toNat 20) ⟨4, 0, t.rx 21⟩ spans) = true ∧
    isOk (putPages (combining.engineWork (stripWord 1 8 20 21 16 0).toNat 20) ⟨4, 0, t.rx 21⟩ spans) = true ∧
    okPut t.sew (fmtOf (t.rx 16)) = true ∧ t.spansOk [8] = true ∧ t.vl.toNat = h.rowe := by decide +kernel

/-- `accw` of 64 bytes of INT32 at 4096, and `accm` of the window so opened. -/
def windowed : State := start [(20, 4096), (21, BitVec.ofNat 64 (0x2800 * 2 ^ 32 + 64))]
theorem test_meets_accw : let t := windowed.strand.drained; let n := (t.rx 21).toNat
    (t.rx 20).toNat % 64 = 0 ∧ windowed.leafFor 0 0 (t.rx 20).toNat = some (0x1F, false) ∧ leafREGION 0x1F = 0 ∧
    1 ≤ n % 2 ^ 17 ∧ n % 2 ^ 17 ≤ 65536 ∧ n % 2 ^ 17 % 64 = 0 ∧ n = n % 2 ^ 17 + n / 2 ^ 32 * 2 ^ 32 ∧ n / 2 ^ 32 < 2 ^ 20 ∧
    windowDesc (n / 2 ^ 32) = true ∧ t.window = none ∧ t.g.recl = false := by decide +kernel
theorem test_meets_accm : let s := windowed.withStrand { windowed.strand with window := some ⟨4096, 64, 0x2800, []⟩ }
    let w := s.engineWork (0x7C000008 + 20 * 2 ^ 15) 20
    okWith (windowSites w 4096 4 16) (fun l => (l.all fun e => e.2.exists?) && w.linesFit false (siteLines (l.map (·.2)) 4) &&
      decide (farCount l = 0)) = true ∧ (s.strand.rx 20).toNat = 4096 := by decide +kernel
/-- `accm` of a window on module 1, and its last step, with every fold answered. -/
theorem test_meets_far_folds :
    let s := { windowed.withStrand { windowed.strand with window := some ⟨4096, 64, 0x2800, []⟩ } with
      tlb := [⟨0, 0, 0, false, 0x10000000000019F⟩], map := { self := 0, members := [⟨0, [], 0⟩, ⟨1, [0], 0⟩] } }.setPort 0 { state := .up }
    let w := s.engineWork (0x7C000008 + 20 * 2 ^ 15) 20
    okWith (windowSites w 4096 4 16) (fun l => (l.all fun e => e.2.exists?) && w.linesFit false (siteLines (l.map (·.2)) 4) &&
      decide (farCount l = 16)) = true ∧
    (s.withStrand { s.strand with flight := .folds 0 4096 }).strand.drained.flight = .folds 0 4096 := by decide +kernel

/-- `OrderingWordsHoldLaterAccesses`: nothing earlier, and a copy still pending. -/
theorem test_meets_ordering : let s := start [(5, 64), (6, 65528)]
    s.strand.buf = [] ∧ s.earlier 0xFF = [] ∧ (withCopy s (copying 0 .moving sixteenBytes none)).earlier 0x10 ≠ [] ∧
    s.fieldSite (s.strand.rx 5) false 64 ∧ s.fieldSite (s.strand.rx 5) true 64 ∧ (s.line false 1).poison = false := by
  refine ⟨by decide +kernel, by decide +kernel, by decide +kernel, ⟨by decide +kernel, by decide +kernel, 0x1F, false, ?_⟩,
    ⟨by decide +kernel, by decide +kernel, 0x1F, false, ?_⟩, ?_⟩ <;> decide +kernel

/-- `BarriersCountArrivals`: the barrier of spec/15's example, the highest number of each kind, and a timeout that has passed. -/
theorem test_meets_barriers : let b := (gate 0).barrier (.meadow 0 3)
    let d : State := { start [(10, 15)] with dbars := [(15, ⟨true, 0, 2, 1, 7, 0⟩)] }
    (10 : Nat) < 32 ∧ b.bound = true ∧ b.ctx = 0 ∧ b.count + 1 ≠ b.npart ∧ ((gate 1).barrier (.meadow 0 3)).count + 1 = b.npart ∧
    (gate 0).earlier 0xDF = [] ∧ b.gen ≠ 8 ∧ b.gen = 7 ∧ (gate 0).earlierReleases = [] ∧ (withCopy (gate 0) (copying 0 .moving sixteenBytes none)).earlier 0xDF ≠ [] ∧
    (d.barrier (.device 15)).bound = true ∧ d.earlier 0xFF = [] ∧
    ((start [(10, 31)]).barrier (.meadow 0 31)).bound = false := by decide +kernel

/-- `RingAndMemoryWaits`: stage 15 with iteration 5 posted and 6 not, a timeout that has passed and one that has not. -/
def ringed (waited : Nat) : State :=
  let s := start [(5, 15), (6, 5), (7, 6), (8, 64)]
  { s.withStrand { s.strand with waitT := waited } with rings := [(0, 15, ⟨true, 0, 10, 5, 1⟩)] }
theorem test_meets_ring : let s := ringed 0; let r := s.ring 0 15
    r.bound = true ∧ r.ctx = 0 ∧ s.earlier 0xDF = [] ∧ r.above 6 < 256 ∧ 2 ^ 31 ≤ r.above 4 ∧ r.lw < 2 ^ 32 ∧ r.posted 5 = true ∧
    r.posted 6 = false ∧ r.above 5 < 2 ^ 31 ∧ s.earlierReleases = [] := by decide +kernel
theorem test_meets_mwait : let s := ringed 10
    (s.strand.rx 8).toNat % 8 = 0 ∧ s.fieldSite (s.strand.rx 8) false 64 ∧ (s.line false 1).poison = false ∧
    loaded s.fm 64 3 ≠ s.strand.rx 6 ∧ loaded s.fm 64 3 = s.strand.rx 0 ∧ s.strand.drained.waiting ≠ .written ∧
    (s.withStrand { s.strand with waiting := .written }).strand.drained.waiting = .written := by
  refine ⟨by decide +kernel, ⟨by decide +kernel, by decide +kernel, 0x1F, false, ?_⟩, ?_⟩ <;> decide +kernel

/-- A context in the hub's table, and the queue that it owns. -/
def someCtx (st : CState) : Ctx := ⟨0, st, 0, 0, 3, 16, [0], 1, 0, [], [], 0, 1, 0x10000, 0, [none], 0, 0, false, 0, 0, [], [], []⟩
def someQueue : Queue := ⟨0, 0, .idle, 16, 256, [], 0, 0, .idle, none, 0⟩
/-- A kernel record at 4096: entry 64, one strand, BND0 = 1, an END doubleword. -/
def recordBytes : List Byte := [64, 0, 0, 0, 0, 0, 0, 0, 8] ++ List.replicate 55 0 ++ [1]
def recorded : State :=
  { start [(21, 0), (20, 4096)] with
    ctxs := [someCtx .live], queues := [someQueue], fm := Mem.write [] 4096 recordBytes }

/-- `HubWords`: a record that is read, and the waits of `seal` and `xhold` with a sealed interval. -/
theorem test_meets_hub_words : let s := recorded; let w := s.engineWork (syncWord 16 22 21 20 0) 21
    let z := s.withStrand { s.strand with waiting := .sealed 0 }; let x := s.withStrand { s.strand with waiting := .held 0 }
    ({ s with rcv := { phase := .stopping } } : State).rcv.phase = .stopping ∧
    s.strand.buf = [] ∧ s.earlier 0xFF = [] ∧ s.earlierReleases = [] ∧ okWith (w.readRecord 0 0 (s.strand.rx 20)) (fun r =>
      !r.2.2.absent && decide ((r.2.2.acceptKernel 0 0 (s.strand.rx 20) r.1 r.2.1).1 = 0) &&
      decide (r.2.2.hubWait (s.strand.rx 20).toNat (r.2.1.withBytes (leBytes 8 0)) = none)) = true ∧
    z.strand.waiting = .sealed 0 ∧ ({ z with rcv := { z.rcv with sealed := some 0 } } : State).sealedUpTo 0 = true ∧
    x.strand.waiting = .held 0 ∧ ({ x with rcv := { x.rcv with sealed := some 0 } } : State).heldOut x.strand 0 = true ∧
    s.strand.waiting = .none ∧ s.rcv.phase = .running := by
  decide +kernel

/-- `PagesGoOutAndComeBack`: a Heath page at 2 MiB, a safe tier in host memory with one slot, the host link up. -/
def paged (evicted : Option Nat) (f : Flight) : State :=
  let s := inHandler (start [(5, 0x200000), (6, 0)])
  { s.withStrand { s.strand with flight := f } with
    tlb := [⟨0, 0, 1, true, 0x20008F⟩], hostUp := true, mgmt := { s.mgmt with stacksOn := 1 },
    safe := { configured := true, slots := 1 }, pages := [⟨0, 1, 0, false, false, evicted⟩] }
theorem test_meets_hevict : let s := paged none .none
    s.strand.priv = true ∧ s.evictChecks (s.strand.rx 5) (s.strand.rx 6) false = none ∧ s.safe.counter.toNat + 1 < 2 ^ 96 ∧
    s.strand.waiting = .none ∧ s.earlier 0x80 = [] ∧ s.strand.live = true ∧
    ({ s with rcv := { s.rcv with sealed := some 0 } } : State).sealedUpTo 0 = true ∧ ({ s with rcv := { s.rcv with sealed := some 0 } } : State).heldOut s.strand 0 = true := by
  decide +kernel
theorem test_meets_hrestore : let s := paged (some 0) .none
    s.strand.flight = .none ∧ s.evictChecks (s.strand.rx 5) (s.strand.rx 6) true = none := by decide +kernel
theorem test_meets_hevict_done : let s := paged none (.evict 0x200000 0); let q := s.pageSt 0 1
    s.heathPage 0 0 0x200000 = some 0x200000 ∧ q.pins = 0 ∧ q.unmapping = false ∧ q.migrating = false ∧ s.safePath = true ∧
    0x200000 + 2 ^ 21 ≤ 2 ^ 41 ∧ s.undoH = [] ∧ s.safe.hostForm = true ∧
    ({ s with safe := { s.safe with hostForm := false, slots := 1 } } : State).safe.hostForm = false := by decide +kernel
def slotOf (text : List Byte) : SafeSlot := ⟨0, 0, 0x200000, 0, 1, text⟩
/-- The safe tier behind a port, which has brought some bytes for slot 0. -/
def restoring (text got : List Byte) : State :=
  let s := paged (some 0) (.restore 0x200000 0 (some got))
  { s with safe := { s.safe with hostForm := false }, slotText := [slotOf text] }.setPort 3 { state := .up, safeTier := true }
theorem test_meets_hrestore_done : let s := restoring [] []
    s.strand.live = true ∧ s.heathPage 0 0 0x200000 = some 0x200000 ∧ s.safePath = true ∧ s.safe.hostForm = false ∧
    s.stackUp 0x200000 = true ∧ s.undoH.length + 32768 ≤ Config.undoCapH ∧ 0x200000 + 2 ^ 21 ≤ 2 ^ 41 ∧ s.strand.nest = false ∧
    s.strand.buf = [] := by decide +kernel
theorem slot_found (text got : List Byte) (va : Nat) : (restoring text got).work.slotGood 0 va 9 (some got) =
    [slotOf text].find? fun e => decide (e.ctx = 0) && decide (e.va = va) && decide (e.bytes = got) := rfl
/-- A slot verifies in whichever place it stands; another page's does not. -/
theorem test_meets_good_slot (text : List Byte) (h : text.length = 2 ^ 21) : let e := slotOf text
    (restoring text e.bytes).work.slotGood 0 0x200000 9 (some e.bytes) = some e ∧ e.text.length = 2 ^ 21 :=
  ⟨slot_found text _ _ |>.trans (by simp [slotOf]), h⟩
theorem test_meets_bad_slot (text got : List Byte) : (restoring text got).work.slotGood 0 0x400000 9 (some got) = none :=
  slot_found text got _ |>.trans (by simp [slotOf])
/-! #### Events of strands, registers, copies and Heath commands -/

/-- The strand with its timer on and due. -/
def ticking : State := let s := start []; { s.withStrand { s.strand with status := 4, timerHit := true } with groups := [groupZero] }
theorem test_meets_timer : (start []).strand.live = true ∧ ticking.timerReady ticking.strand = true ∧
    (start []).timerReady (start []).strand = false := by decide +kernel
theorem test_meets_wfi_wake : let s := (start []).withStrand { (start []).strand with waiting := .timer }
    s.strand.waiting = .timer ∧ s.mayAct s.strand = true ∧ s.strand.tmcmp ≤ (s.core s.strand.g.core).cycle := by decide +kernel
theorem test_meets_overdue : let s := (start []).withStrand { (start []).strand with wasReady := true, since := 8192 }
    s.strand.wasReady = true ∧ 8192 ≤ s.strand.since := by decide +kernel
theorem test_meets_timeouts :
    let s := (gate 0).withStrand { (gate 0).strand with waiting := .barrier (.meadow 0 3) 7, waitT := 24000 }
    let r := (ringed 10).withStrand { (ringed 10).strand with waiting := .ring 9 15 6 }
    let m := (start []).withStrand { (start []).strand with waiting := .mem 9 64 0 10 (some 64), waitT := 10 }
    (s.barrier (.meadow 0 3)).gen = 7 ∧ (s.barrier (.meadow 0 3)).timeout ≤ s.strand.waitT ∧ s.strand.nest = false ∧
    (r.ring 0 15).posted 6 = false ∧ (r.ring 0 15).timeout ≤ r.strand.waitT ∧
    (s.barrier (.meadow 0 3)).timeout ≠ 0 ∧ (r.ring 0 15).timeout ≠ 0 ∧
    m.strand.waiting = .mem 9 64 0 10 (some 64) ∧ (10 : W64).toNat ≤ m.strand.waitT ∧ loaded m.fm 64 3 = 0 := by decide +kernel

/-- `RegisterEventsWrite`: an offset that ends at 4 MiB, one beyond it, the bounds of BUDGET and PERIOD, a bank powered down. -/
theorem test_meets_register_events :
    let c : Core := { id := 0, trcOfs := 65280, banksOff := 1 }; let s := (start []).setCore c
    (s.core 0).trcFrz = false ∧ (s.core 0).trcOfs.toNat * 64 + 16384 ≤ 2 ^ 22 ∧ (s.core 0).ring.length ≤ 1024 ∧
    2 ^ 22 < (({ c with trcOfs := 65281 } : Core)).trcOfs.toNat * 64 + 16384 ∧
    150 ≤ (150 : W64).toNat % 4096 ∧ ¬(150 ≤ (601 : W64).toNat % 4096 ∧ (601 : W64).toNat % 4096 ≤ 600) ∧
    100 ≤ (1000000 : W64).toNat % 2 ^ 20 ∧ (1000000 : W64).toNat % 2 ^ 20 ≤ 1000000 ∧ ¬(100 ≤ (99 : W64).toNat % 2 ^ 20) ∧
    (s.core 0).banksOff.getLsbD 0 = true ∧ (s.core 0).halves = none ∧ (start []).ringHeld 0 = false ∧
    (s.groups.any fun g => decide (g.place.core = 0) && decide (g.state ≠ .preempted)) = false ∧
    (ticking.groups.any fun g => decide (g.place.core = 0) && decide (g.state ≠ .preempted)) = true := by decide +kernel

/-- `HubConfigurationEvents`. The tables of the walk lie in three pages from 64 KiB on; the last entry maps page 0. -/
def walked : State :=
  { State.reset with
    ctxs := [someCtx .live]
    fm := Mem.write (Mem.write (Mem.write (Mem.write [] 0x10000 (leBytes 8 0x2000001)) 0x20000 (leBytes 8 0x3000001)) 0x30000
      (leBytes 8 0x4000001)) 0x40000 (leBytes 8 0x1F) }
theorem test_meets_walk : walked.ctx? 0 = some (someCtx .live) ∧ walkFrom walked noCache 0 0 0x10000 4 = some (0x1F, false) ∧
    leafSlot walked false 0 0 0x10000 4 = some 0x40000 := by decide +kernel
/-- Edits: a leaf of the walk, and a leaf that would open the dump region of a context of another tenant. -/
theorem test_meets_edits :
    let opens := fun (s : State) (v : W64) => leafV v && leafLEAF v &&
      (!s.dumpSafe 0 (leafREGION v) (leafADDR v * 2 ^ 16) (leafWR v) || inLog (leafREGION v) (leafADDR v * 2 ^ 16))
    let d : State := { walked with ctxs := [someCtx .live, { someCtx .live with num := 1, tenant := 9, dumpPages := [0x600000] }] }
    opens walked 0x1F = false ∧ opens d 0x60001F = true ∧ opens walked (BitVec.ofNat 64 (372 * 2 ^ 30 + 0x1F)) = true ∧ walked.covered 0 0 0x40000 = some (3, 0x1F) ∧
    walked.covered 0 0 0x30000 = some (2, 0x4000001) := by decide +kernel
/-- Refetches: by the walk above, of a leaf that no table has any more, and in the walk cache of a meadow. -/
theorem test_meets_refetch : let s : State := { walked with tlb := [] }
    s.walk 5 0 0 = some (0x1F, false) ∧ s.walk 5 0 0x10000 = none ∧ passedLevels s (s.walkCache 0 0 0) 0 0 0x10000 4 = [0, 1, 2] ∧
    passedLevels s (s.walkCache 0 0 (2 ^ 39)) (2 ^ 39) 0 0x10000 4 = [] := by decide +kernel
theorem test_meets_stale_leaf : let s : State := { walked with tlb := [⟨5, 0, 1, false, 0x2001F⟩] }
    (s.tlb.find? fun e => decide (e.core = 5) && decide (e.ctx = 0) && decide (e.page = if e.big then 0x10000 / 2 ^ 21 else 0x10000 / 2 ^ 16)) =
      some ⟨5, 0, 1, false, 0x2001F⟩ ∧ ({ s with tlb := [] } : State).walk 5 0 0x10000 = none := by decide +kernel
def errorOf3 : Hberr := ⟨3, true, false, 2, 5, 9⟩
theorem test_meets_hub_registers : let s := gate 0; let e : State := { s with hberr := [errorOf3] }
    (s.barrier (.meadow 0 3)).count = 0 ∧ (gate 1).barrier (.meadow 0 3) ≠ s.barrier (.meadow 0 3) ∧
    (∀ t ∈ s.strands, t.waiting = .none) ∧ 1 ≤ (0x8000006000000000 : W64).toNat / 2 ^ 32 % 4096 ∧
    (0x8000006000000000 : W64).toNat / 2 ^ 32 % 4096 ≤ 96 ∧ ¬((0x8000006100000000 : W64).toNat / 2 ^ 32 % 4096 ≤ 96) ∧
    (e.hberr.find? fun h => decide (h.bank = 3)) = some errorOf3 ∧
    8 % 8 = 0 ∧ 4 % 8 ≠ 0 ∧ s.undoF.length < Config.undoCapF ∧ (∀ t ∈ State.reset.strands, t.g.ctx ≠ 1) ∧
    s.oldAccess 1 0 65536 = false := by decide +kernel

/-- `CopyEventsMoveTheirGroups`: a copy that lands, one that faults, one at a poisoned line, one of a remote read, one landed. -/
def moving (b : CopyBody) : State := withCopy (start []) (copying 0 .moving b none)
def far : CopyBody := .nest false false 128 0x10000 [16] [] [] 0
def ofCopy (s : State) : Work := { s.work with src := 1 }
theorem test_meets_copy_land : let s := moving sixteenBytes
    s.copyOn s.strand.sid 3 = some (copying 0 .moving sixteenBytes none) ∧ (copying 0 .moving sixteenBytes none).mayMove s = true ∧
    (moveFrom sixteenBytes 1 (ofCopy s) 0 2).2.2 = .landed ∧ (moveFrom sixteenBytes 1 (ofCopy s) 0 2).1.absent = false ∧
    groupsOf sixteenBytes (s.strand.slabOf sixteenBytes) = 1 := by decide +kernel
theorem test_meets_copy_fault : let s := moving far
    (match (moveFrom far 1 (ofCopy s) 0 2).2.2 with
      | .fault _ => true
      | _ => false) = true := by decide +kernel
theorem test_meets_copy_poison : let s : State := { moving sixteenBytes with fmLine := [(1, { poison := true })] }
    (match (moveFrom sixteenBytes 1 (ofCopy s) 0 2).2.2 with
      | .poison va => decide (va = 64)
      | _ => false) = true := by decide +kernel
theorem test_meets_copy_error : let b : CopyBody := .nest false false 4096 0 [2048] [] [] 0; let s := moving b
    groupsOf b (s.strand.slabOf b) = 2 ∧ (moveFrom b 1 (ofCopy s) 0 2).2.2 = .landed ∧
    ((b.runs 1 1).any fun e => decide (e.src ≤ 1024) && decide (1024 < e.src + e.len)) = true := by decide +kernel
theorem test_meets_copy_data : let s := withCopy ((start []).setPort 0 { state := .up }) (copying 0 .asked sixteenBytes none)
    okWith (moveWith { (s.work.mod fun x => x.received 0 0) with src := 1 } sixteenBytes 0 []) (fun k => !k.absent) = true ∧ (s.port 0).safeTier = false ∧
    s.copyOn s.strand.sid 3 = some (copying 0 .asked sixteenBytes none) ∧ (s.port 0).usable = true := by decide +kernel
theorem test_meets_copy_performed : let s := withCopy (start []) (copying 0 .landed sixteenBytes none)
    s.cmds = [copying 0 .landed sixteenBytes none] ∧ s.strand.sid = 0 := by decide +kernel

/-- `AtomicEventsPerform`. -/
def adding : Cmd := ⟨1, 0, 0, 0, 0, 3, [], none, none, false, 0, [], .atom .add true 64 64 none 5 false⟩
def zeroPut : Put := ⟨true, [], 1, 256, 256, none, 2, 8, 0x80000, 4096, 1024, 8192, 2048, [(0, none, 0)]⟩
def putting : Cmd := ⟨1, 0, 0, 0, 0, 0, [], none, none, false, 0, [], .put zeroPut false⟩
def flying : AtomEnd := ⟨9, true, false, none, 64⟩
theorem test_meets_atomic_events : let s := withCopy (start []) adding
    (s.oldestCmd s.strand.sid fun e => e.isAtom 3) = some adding ∧ adding.mayMove s = true ∧ (s.line false 1).poison = false ∧
    (∀ t ∈ s.strands, t.pend = []) ∧ s.undoF.length < Config.undoCapF ∧
    (s.withStrand { s.strand with flight := .atomic flying }).strand.flight = .atomic flying ∧
    (s.withStrand { s.strand with flight := .atomicDone flying 7 0 }).strand.flight = .atomicDone flying 7 0 := by decide +kernel
/-- A no-return atomic that module 7 performs. -/
def farAdding : Cmd := ⟨1, 0, 0, 0, 0, 3, [], none, none, false, 0, [], .atom .add true 64 64 (some 7) 5 true⟩
theorem test_meets_far_answer : let s := withCopy ((start []).setPort 0 { state := .up }) farAdding
    s.sentCmd 1 = some farAdding ∧ farAdding.gid * 4 + farAdding.sidx = s.strand.sid ∧ farAdding.ch < 4 ∧ (s.port 0).usable = true := by
  decide +kernel
theorem test_meets_zero_put : let s := withCopy (start []) putting; let word := leNat (Mem.readN s.fm 1024 4)
    (s.oldestCmd s.strand.sid fun e => match e.body with
      | .put _ _ => true
      | _ => false) = some putting ∧ putting.mayMove s = true ∧ s.work.putFree zeroPut = true ∧ zeroPut.rank < 8 ∧ zeroPut.fill % 4 = 0 ∧
    putSite zeroPut zeroPut.fill = .mem .fm 1024 ∧ word < 2 ^ 16 ∧ bitAt word zeroPut.rank = false ∧
    setBits (word % 256) zeroPut.rank 1 1 ≠ 2 ^ zeroPut.nrank - 1 ∧ s.carried 1 = true := by decide +kernel
/-- A duplicate: the fill word has the bit of its rank; and the same with a bad header line. -/
def doubled (poison : Bool) : State :=
  { withCopy (start []) putting with fm := Mem.write [] 1024 [2], fmLine := if poison then [(4, { poison := true })] else [] }
theorem test_meets_doubled_put : let s := doubled false; let p := doubled true
    (s.oldestCmd s.strand.sid fun e => match e.body with
      | .put _ _ => true
      | _ => false) = some putting ∧ s.work.putFree zeroPut = true ∧ p.work.putFree zeroPut = true ∧
    (s.line false (1024 / 64)).poison = false ∧ (p.line false (1024 / 64)).poison = false ∧
    bitAt (leNat (Mem.readN s.fm 1024 4)) zeroPut.rank = true ∧ bitAt (leNat (Mem.readN p.fm 1024 4)) zeroPut.rank = true ∧
    zeroPut.home = none ∧ zeroPut.hdr + 64 ≤ 384 * 2 ^ 30 ∧ (s.line false ((zeroPut.hdr + 12) / 64)).poison = false ∧
    (p.line false ((zeroPut.hdr + 12) / 64)).poison = true ∧ p.carried 1 = true := by decide +kernel

/-- `HeathEventsComplete`: the query, broadcast and move of the states above, in flight. -/
def query (status : Nat) (st : QState) (off : Nat) : HCmd :=
  ⟨1, 0, 0, 0, 0, 3, [], some (4096, 4096 + 40), [(1, 0x200000)], 0,
    .query .ses { qblockOf (leNat heathBlock) with offset := off } (int8 0x80000 0x1800) status st 0 []⟩
def inFlightOf (c : HCmd) : State := { heathState with queries := [c], mgmt := { heathState.mgmt with stacksOn := 1 } }
theorem test_meets_heath_events : let s := inFlightOf (query 0 .issued 0)
    s.heathCmd s.strand.sid 3 = some (query 0 .issued 0) ∧ (query 0 .issued 0).ready s = true ∧ (∀ t ∈ s.strands, t.pend = []) ∧
    QKind.slotted .ses (qblockOf (leNat heathBlock)).red = true ∧ (targetChans (query 0 .issued 0) (qblockOf (leNat heathBlock))) ≠ [] ∧
    s.slots = [] ∧ s.spAllowed { ctx := 0 } 4096 = true ∧ (query 1 .issued 0).ready s = true ∧ (query 0 (.pass2 []) 0).ready s = true ∧
    s.ctxs = [] ∧ s.groups = [] ∧ (query 0 .slotMissing 0).ready s = true := by decide +kernel
/-- The reply of a query in its second pass: its payload fits, and its places are the context's. -/
theorem test_meets_reply_bytes : let c := query 0 (.pass2 []) 0; let s := inFlightOf c; let b := qblockOf (leNat heathBlock)
    let f := fmtOf (int8 0x80000 0x1800)
    let recs := (List.range b.nrec).map (readRec s c b f [] (s.work.queryBytes c b (.pass2 [])))
    let n := (replyOf s.work .ses b f 0 recs).payload.length
    n = 260 ∧ ((List.range (32 + n)).all fun j => s.spAllowed { ctx := 0 } (4096 + j)) = true := by decide +kernel
theorem test_meets_pass1 : (query 0 .slotOk 0x7FC00000).body =
    .query .ses { qblockOf (leNat heathBlock) with offset := 0x7FC00000 } (int8 0x80000 0x1800) 0 .slotOk 0 [] := rfl
theorem test_meets_bank_error : let b := qblockOf (leNat heathBlock); let c := query 0 .slotOk 0
    0 < b.nrec ∧ overlap (0x200000 / 32 * 32) (0x200000 / 32 * 32 + 32) (c.physical (b.ext + 0 * b.stride))
      (c.physical (b.ext + 0 * b.stride) + b.recb) = true := by decide +kernel
def casting : HCmd := ⟨1, 0, 0, 0, 0, 3, [], none, [], 0, .bcast 1 1 0 (List.replicate 64 7)⟩
def shifting : HCmd := ⟨1, 0, 0, 0, 0, 3, [], none, [(1, 0x200000), (2, 0x400000)], 0, .move 0x200000 0x400000 128⟩
theorem test_meets_casts_and_moves : casting.ready (inFlightOf casting) = true ∧ shifting.ready (inFlightOf shifting) = true ∧
    ((inFlightOf shifting).work.moveLines shifting 0x200000 0x400000 2 none 0).2 = (2, true) ∧
    ((inFlightOf shifting).work.moveLines shifting 0x200000 0x400000 2 (some 1) 0).2 = (1, false) := by decide +kernel
/-- With the log full the move pauses at its first line. -/
theorem test_meets_full_log (l : List Undo) (h : l.length = Config.undoCapH) :
    let s : State := { inFlightOf shifting with rin := 5, undoH := l }
    (s.work.moveLines shifting 0x200000 0x400000 2 none 0).2 = (0, true) := by
  intro s
  have fresh : decide ((s.line true (shifting.physical 0x200000 / 64)).stamp ≠ s.stampNow) = true := rfl
  have full : s.work.linesFit true [shifting.physical 0x200000 / 64] = false := by
    simp only [decide_eq_true_eq] at fresh
    simp [Work.linesFit, State.work, State.undo, h, s] at fresh ⊢
    simp [fresh]
  simp only [Work.moveLines, full]
  rfl

/-! #### The hub, seals, links, bring-up and the host -/

/-- `GroupsArePlacedSavedAndRestored`. Two contexts; one group of context 0 on core 0. -/
def ctxWith (num prio : Nat) : Ctx := { someCtx .live with num := num, prio := prio }
def shared (recl : Bool) : State :=
  { start [] with ctxs := [ctxWith 0 1, ctxWith 1 5], groups := [{ groupZero with place := { recl := recl } }] }
def asked (r : Reclaim) (recl : Bool) : State := (shared recl).setCore { (shared recl).core 0 with reclaim := r }
theorem test_meets_requests : (shared false).mayTake 0 1 = true ∧ (shared false).reclaimable 0 0 = false ∧
    (shared true).reclaimable 0 0 = true ∧ (shared false).mayTake 1 1 = false ∧ ((shared true).core 0).reclaim = .none ∧
    ((asked (.split 2 0) true).core 0).reclaim = .split 2 0 ∧ (asked (.split 2 0) true).mayTake 0 1 = true ∧
    (asked (.saving 1 0) false).mayTake 0 1 = true ∧ ((asked (.saving 1 0) false).core 0).halves = none := by decide +kernel
theorem test_meets_saves : ((asked (.marked 1 0) true).core 0).reclaim = .marked 1 0 ∧
    ((asked (.saving 1 0) false).core 0).reclaim = .saving 1 0 ∧ (shared false).stopped = false ∧
    ({ shared false with rcv := { phase := .writing } } : State).stopped = true ∧
    (asked (.saving 1 0) false).saveDue ((asked (.saving 1 0) false).core 0) = true := by decide +kernel
def waitingGroup : Group := { groupZero with byPreempt := true, waitCount := 48001 }
def savedGroup : Group := { groupZero with place := { gid := 7, ctx := 1 }, state := .preempted, saved := some ⟨0, [], [], [], []⟩ }
theorem test_meets_lane_wait :
    let s : State := { (shared false).withStrand { (start []).strand with waiting := .barrier (.meadow 0 3) 7 } with
      groups := [waitingGroup, savedGroup] }
    s.group? 0 = some waitingGroup ∧ s.handsBack waitingGroup = true ∧ s.giveTo waitingGroup = some 1 ∧ (s.ctx? 0).isSome = true ∧
    (s.core 0).reclaim = .none := by decide +kernel
theorem test_meets_restore : let s : State := { shared false with groups := [savedGroup], mgmt := { State.reset.mgmt with hubOn := true, meadowsOn := 63 } }
    s.group? 7 = some savedGroup ∧ s.canReturn savedGroup = true ∧ savedGroup.saved = some ⟨0, [], [], [], []⟩ := by decide +kernel
/-- A kernel of one iteration and one strand, queued and walking on an empty core. -/
def oneKernel : Kernel :=
  ⟨5, 0, 0, 4096, some (.mem (.put .fm 4096 [] 0 false)), ⟨64, 8, 0, 0, 7, 0, 0, [1, 0, 0, 0, 0, 0], [0, 0, 0, 0, 0, 0], 0, true, []⟩, .walking, 0,
    none, false, 0, false, false, false⟩
def placing : State :=
  { State.reset with
    ctxs := [ctxWith 0 1], kernels := [oneKernel], mgmt := { State.reset.mgmt with hubOn := true, meadowsOn := 63 },
    queues := [{ someQueue with state := .active, kernels := [5] }] }
theorem test_meets_walker : placing.stopped = false ∧ (placing.work.walk).isSome = true := by decide +kernel

/-- `SealsRunTheirPhases`. -/
def emptyImage (n : Nat) : Image := ⟨n, [], [], [], [], [], [], [], [], [], [], [], [], [], none, 0⟩
def sealing (r : Recovery) : State := { State.reset with rin := 9, rcv := r, map := { self := 0, members := [⟨0, [], 0⟩, ⟨1, [0], 0⟩] } }
def inDomain (r : Recovery) : State := { sealing r with map := { self := 1, members := [⟨0, [0], 0⟩, ⟨1, [], 0⟩] } }
theorem test_meets_seal_stop : let s := sealing { committed := some (emptyImage 8) }; let m := inDomain { committed := some (emptyImage 8) }
    let j := sealing { committed := some (emptyImage 8), mapChange := some ⟨1, [⟨0, [0], 0⟩, ⟨1, [], 0⟩], []⟩ }
    s.sealable = true ∧ s.mayJoin = false ∧ s.mayStop = true ∧ s.cmds = [] ∧ s.leads = true ∧ s.strands = [] ∧
    s.present.contains 1 = true ∧ m.sealable = true ∧ m.mayJoin = false ∧ m.leads = false ∧ m.mayStop = true ∧ m.strands = [] ∧
    ({ j with map := { self := 1 } } : State).mayJoin = true ∧ j.sealable = true ∧
    ({ j with map := { self := 1 }, rcv := { j.rcv with phase := .writing } } : State).mayJoin = true ∧
    ({ j with map := { self := 1 }, rcv := { j.rcv with phase := .writing } } : State).sealable = false ∧ j.rcv.asked = [] := by
  decide +kernel
theorem test_meets_seal_phases : let w : Recovery := { phase := .writing, sealing := some 8, pending := some (emptyImage 8) }
    (sealing w).rcv.phase ≠ .running ∧ (sealing w).rcv.resumed = false ∧ (sealing { w with resumed := true }).rcv.resumed = true ∧
    w.mustRoll = false ∧ w.pending.isSome = true ∧ (sealing w).sealWith.contains 1 = true ∧
    (sealing w).leads = true ∧ (sealing w).rcv.readyFrom.contains 1 = false ∧ (inDomain { w with phase := .ready }).leads = false := by
  decide +kernel
theorem test_meets_seal_commit :
    let w : Recovery := { phase := .committing, sealing := some 8, pending := some (emptyImage 8), committed := some (emptyImage 7) }
    let late : Recovery := { w with phase := .writing, readyFrom := [0] }
    (sealing w).rcv.pending = some (emptyImage 8) ∧ (sealing w).leads = true ∧ (sealing w).mayCommit = true ∧ (sealing w).agreed = true ∧
    (sealing late).mayCommit = false ∧ (sealing late).agreed = false ∧ (sealing late).others ≠ [] ∧ (inDomain { w with phase := .ready }).leads = false ∧
    ((sealing late).sealWith.filter fun m => decide (m ≠ (sealing late).domain.self) && !(sealing late).rcv.readyFrom.contains m) ≠ [] ∧
    (sealing late).rcv.phase ≠ .committing ∧ (sealing late).rcv.committed.isSome = true ∧ (sealing late).rcv.sealing.isSome = true := by
  decide +kernel
theorem test_meets_initial_seal : let s : State := { State.reset with mgmt := { State.reset.mgmt with booted := some ⟨5, 1, true⟩, sysOn := 0xFF } }
    s.rcv.committed = none ∧ s.mgmt.booted.isSome = true ∧ s.mgmt.sysOn ≠ 0 := by decide +kernel
def rewinding : State :=
  let s := start []
  s.withStrand { s.strand with buffering := true, ckpt := some ⟨[], 0, 0, 0, none⟩ }
theorem test_meets_consumed_errors : rewinding.strand.live = true ∧ rewinding.strand.ended = false ∧ rewinding.strand.rewound = false ∧
    rewinding.persists (.bank 0 3) = false ∧ rewinding.strand.ckpt = some ⟨[], 0, 0, 0, none⟩ ∧
    (start []).strand.buffering = false ∧ (start []).rcv.committed = none ∧ (start []).strand.nest = false := by decide +kernel
/-- The end of a stream, with its safe tier in host memory and behind a port; and a page of the first slots. -/
theorem test_meets_snapshot_end : let s : State := { sealing { snap := true, snapAt := some ⟨[], [], [], [], emptyImage 8⟩ } with hostUp := true }
    s.rcv.snap = true ∧ s.safePath = true ∧ s.safe.hostForm = true ∧ s.rcv.snapAt.isSome = true ∧
    ({ s with safe := { hostForm := false } } : State).safe.hostForm = false ∧ s.handedNewer = none := by decide +kernel
/-- A line that was handed as bad and newer than the seal. -/
theorem test_meets_handed : let s : State := { sealing { committed := some (emptyImage 8), sealed := some 8, handed := [(false, 7)] } with
      rin := 10, fmLine := [(7, { poison := true, stamp := 10 })] }
    s.rcv.committed.isSome = true ∧ s.rcv.handed.contains (false, 7) = true ∧ (s.judged false 7).1.poison = true ∧
    s.stampNewer (s.judged false 7).1.stamp = true ∧ State.reset.rcv.committed.isSome = false := by decide +kernel
theorem test_meets_scrub : 96 < ({ State.reset with rin := 160 } : State).age (({ State.reset with rin := 160 } : State).line false 0).stamp ∨
    ({ State.reset with rin := 160 } : State).age (({ State.reset with rin := 160 } : State).line false 0).stamp ≤ 96 := by decide +kernel

/-- `RollbackRestoresTheSeal`: a line changed since the seal, and an old entry that the seal kept. -/
def undoOf (n : Nat) : Undo := ⟨1, {}, List.replicate 64 7, n, false, false⟩
theorem test_meets_rollback : let s : State := { sealing { committed := some (emptyImage 8) } with undoF := [undoOf 8, undoOf 9] }
    s.rcv.committed = some (emptyImage 8) ∧ (∀ u ∈ s.undoF ++ s.undoH, u.bad = false ∧ u.bytes.length = 64) ∧
    Mem.wf (emptyImage 8).sp = true ∧ s.agreed = false ∧ s.ctxs ++ (emptyImage 8).ctxs = [] ∧ later (undoOf 9).interval 8 = true ∧ later (undoOf 8).interval 8 = false := by decide +kernel

/-- `LinkEventsServe`, at port 11. -/
def linked (st : PState) (fails refusals : Nat) : State :=
  State.reset.setPort 11 { state := st, fails := fails, refusals := refusals, rxRefusals := refusals, replay := [⟨none, 3, 0, 0, 0, 0, 0, [], []⟩, ⟨none, 3, 0, 1, 0, 0, 0, [], []⟩] }
theorem test_meets_ports : ((linked .up 0 14).port 11).usable = true ∧ ((linked .degraded 0 0).port 11).usable = true ∧
    ((linked .up 0 14).port 11).refusals + 1 < 16 ∧
    ((linked .up 0 14).port 11).rxRefusals + 1 < 16 ∧ ((linked .up 0 14).port 11).queue = [] ∧ ((linked .training 2 0).port 11).state = .training ∧
    3 ≤ ((linked .training 2 0).port 11).fails + 1 ∧ ¬3 ≤ ((linked .training 1 0).port 11).fails + 1 := by decide +kernel
theorem test_meets_remote_accesses : let s := linked .up 0 0; let h : State := { s with mgmt := { s.mgmt with stacksOn := 1 } }
    (s.work.storeWait 64 0 (.mem .fm (384 * 2 ^ 30 - 1)) 1).isNone = true ∧ (Site.mem .fm (384 * 2 ^ 30 - 1)).exists? = true ∧
    (h.work.storeWait 64 0 (.mem .hm 64) 240).isNone = true ∧ (Site.mem .hm 64).exists? = true ∧ (s.line false 1).poison = false ∧
    s.undoF.length < Config.undoCapF ∧ (s.port 11).replay.length + (2 ^ 19 / payloadRoom + 1) ≤ 4032 ∧
    s.modulesOn 11 true = [] ∧ s.modulesOn 11 false = [] ∧ ((List.range 12).all fun n => (s.port n).queue.isEmpty) = true := by decide +kernel
/-- The primary port of the modules that port 11 reaches, one of them external. -/
theorem test_meets_primary : let s : State := { linked .up 0 0 with map := { self := 0, members := [⟨0, [], 0⟩, ⟨1, [11], 0⟩] } }
    s.modulesOn 11 true = [(false, 1)] ∧ s.primary false 1 = some 11 ∧
    (∀ n, s.overtakes 11 ⟨some (false, 1), n, 1, 0, 0, 0, 0, [], []⟩ = false) ∧
    ({ s with map := { s.map with externals := [⟨5, [11], 0⟩] } } : State).modulesOn 11 false = [(false, 1), (true, 5)] := by
  intro s
  refine ⟨by decide +kernel, by decide +kernel, fun n => ?_, by decide +kernel⟩
  exact of_decide_eq_true (p := s.overtakes 11 ⟨some (false, 1), 0, 1, 0, 0, 0, 0, [], []⟩ = false) (by decide +kernel)

/-- `BringUpAndHeat`. -/
theorem test_meets_boot : let good : BootSlot := ⟨0, 3, true⟩; let bad : BootSlot := ⟨0, 3, false⟩
    let m : Mgmt := { State.reset.mgmt with flashA := bad, flashB := good }
    m.booted = none ∧ m.bootFail = false ∧ m.flashB.good = true ∧ m.fuse ≤ m.flashB.version ∧
    ¬(m.flashA.good = true ∧ m.fuse ≤ m.flashA.version) ∧ ({ m with booted := some good } : Mgmt).booted.isSome = true := by
  decide +kernel
/-- Unit 0, which nothing goes before; and the system cores before and after every other unit. -/
theorem test_meets_unit_order :
    let before := fun (m : Mgmt) (time : Nat) => ((List.range 16).all fun j => !decide (2 * j < time) || m.stacksOn.getLsbD j) &&
      (List.range 6).all fun j => !decide (5 * j < time) || m.meadowsOn.getLsbD j
    before State.reset.mgmt 0 = true ∧ before State.reset.mgmt 31 = false ∧
    before { State.reset.mgmt with stacksOn := 0xFFFF, meadowsOn := 63 } 31 = true := by decide +kernel
theorem test_meets_governor : let m := State.reset.mgmt
    m.budget.toNat < 601 ∧ m.budget.toNat ≥ 539 ∧ 10 * 539 < 9 * m.budget.toNat ∧ 10 * 540 ≥ 9 * m.budget.toNat ∧ 150 ≤ m.budget.toNat := by
  decide +kernel

/-- `CommandsStartAndReply`: a function with a command of each opcode, in progress and answered. -/
def serving (fn opc : Nat) (status : Option Nat) : State :=
  { State.reset with hostUp := true, fns := [{ num := fn, busy := true, cmd := some ⟨opc, none, status, [], none, 0, [], false⟩ }] }
def servingFn (fn opc : Nat) : Fn := { num := fn, busy := true, cmd := some ⟨opc, none, none, [], none, 0, [], false⟩ }
theorem test_meets_commands : (serving 3 0x01 none).started 3 0x01 (servingFn 3 0x01) ⟨0x01, none, none, [], none, 0, [], false⟩ ∧
    (serving 0 0x70 none).started 0 0x70 (servingFn 0 0x70) ⟨0x70, none, none, [], none, 0, [], false⟩ := by
  refine ⟨⟨?_, ?_, ?_, ?_⟩, ⟨?_, ?_, ?_, ?_⟩⟩ <;> decide +kernel
theorem test_meets_cmdreg : let s := serving 0 0x01 none
    s.hostUp = true ∧ ((s.fn? 0).getD { num := 0 }).busy = true ∧ ((State.reset.fn? 0).getD { num := 0 }).busy = false ∧
    ({ s with mgmt := { s.mgmt with vfsExposed := true } } : State).mgmt.vfsExposed = true ∧ 16 ≤ 16 := by decide +kernel
theorem test_meets_reply : ((serving 0 0x40 (some 0)).fn? 0).map (·.cmd) = some (some ⟨0x40, none, some 0, [], none, 0, [], false⟩) ∧
    (none : Option Nat).all (serving 0 0x40 (some 0)).sealedUpTo = true := by decide +kernel
def aDump : Dump := ⟨1, 1, 0, 0, 0, 0, 0, 0, []⟩
theorem test_meets_dumps :
    let s : State := { serving 0 0x60 none with ctxs := [{ someCtx .ended with dumps := [some aDump, none] }] }
    (s.tenantDumps 0)[0]? = some (some aDump) ∧ (s.tenantDumps 0)[1]? = some none ∧ (List.replicate 32 (0 : Byte)).length = 32 ∧
    s.readsDumps 0 0 = true ∧ s.readsDumps 5 0 = false := by decide +kernel
theorem test_meets_replay : let m : Mgmt := { test := true, captured := [⟨0, 0, 0, none, [], .seal 4⟩] }
    m.test = true ∧ m.replay = none ∧ m.captured ≠ [] := by decide

/-- `ContextCommandsAct`: parameters in range, and a mapped and an unmapped page of the walk above. -/
def params : CtxParams :=
  ⟨63, 7, 1, 1, [(16, 256)], 1, 0, (List.range 904).map (fun k => 2 ^ 32 + k * 2 ^ 21), (List.range 5).map (fun k => 2 ^ 33 + k * 2 ^ 21), 0, 0, 0⟩
def commanded (opc : Nat) (st : CState) : State :=
  { walked with ctxs := [someCtx st], fns := [servingFn 0 opc], queues := [someQueue] }
theorem test_meets_create : let s := commanded 0x10 .live
    ctxOk params = true ∧ (s.ctxs.filter fun e => decide (e.state ≠ .free)).length < 64 ∧ params.shares.length ≤ s.freeQueues.length ∧
    (∀ e ∈ s.ctxs, e.num = params.num → e.state = .free) ∧ (s.fn? 0).isSome = true := by decide +kernel
/-- The pages of a first context, which the device may capture. -/
theorem eraseDups_rising (l : List Nat) (h : l.Pairwise (· < ·)) : l.eraseDups = l := by
  induction l with
  | nil => rfl
  | cons a l ih =>
    obtain ⟨first, rest⟩ := List.pairwise_cons.mp h
    rw [List.eraseDups_cons, List.filter_eq_self.mpr fun b hb => by simpa using (Nat.ne_of_gt (first b hb)), ih rest]
theorem rising (n k : Nat) : ((List.range n).map fun i => k + i * 2 ^ 21).Pairwise (· < ·) :=
  List.pairwise_map.mpr (List.pairwise_lt_range.imp fun h => by omega)
theorem test_meets_capture : ({ commanded 0x10 .live with ctxs := [] } : State).capturable params = true := by
  have once : (params.savePages ++ params.dumpPages).eraseDups = params.savePages ++ params.dumpPages := by
    refine eraseDups_rising _ (List.pairwise_append.mpr ?_)
    simp only [params]
    exact ⟨rising 904 (2 ^ 32), rising 5 (2 ^ 33), fun a ha b hb => by
      obtain ⟨i, hi, rfl⟩ := List.mem_map.mp ha
      obtain ⟨j, -, rfl⟩ := List.mem_map.mp hb
      have := List.mem_range.mp hi
      omega⟩
  simp only [State.capturable, once]
  decide +kernel
theorem test_meets_context_states : ∀ st ∈ [CState.created, .idle, .stopped, .live, .ended],
    (commanded 0x11 st).ctx? 0 = some (someCtx st) ∧ (someCtx st).fn = 0 ∧ (someCtx st).state = st ∧ (commanded 0x12 st).mayForce 0 = true := by
  decide +kernel
def mapping : MapParams := ⟨0, 0x10000, false, 0, true, true, false, false, false, 0, false, [0x50000], 255⟩
theorem test_meets_map : let s := commanded 0x20 .live
    mapOk mapping = true ∧ s.dumpSafe 0 mapping.region 0x50000 mapping.wr = true ∧ leafSlot s mapping.big mapping.va 0 0x10000 4 = some 0x40008 ∧ 0x40008 % 8 = 0 ∧ mapping.region ≠ 1 ∧ s.undoF.length < Config.undoCapF ∧
    leafV (BitVec.ofNat 64 (leNat (Mem.readN s.fm 0x40008 8))) = false := by decide +kernel
theorem test_meets_heath_map : onStack 3 [3 * 2 ^ 37] = true ∧ onStack 0xFF [15 * 2 ^ 37, 0] = true ∧ onStack 3 [0] = false := by decide +kernel
theorem test_meets_unmap : let s := commanded 0x21 .live
    walkFrom s noCache 0 0 0x10000 4 = some (0x1F, false) ∧ s.pinnedForGood 0x1F = false ∧ (s.pageSt 0 0).pins = 0 ∧
    (s.pageSt 0 0).away = false ∧ s.oldAccess 0 0 (2 ^ 16) = false ∧ (∀ t ∈ s.strands, t.buf = [] ∧ t.pend = []) ∧ leafSlot s false 0 0 0x10000 4 = some 0x40000 := by decide +kernel
theorem test_meets_import : let s := commanded 0x30 .live
    s.leafFor 144 0 65535 = some (0x1F, false) ∧ leafREGION 0x1F = 0 ∧ physOf 0x1F false 65535 < 384 * 2 ^ 30 ∧
    65535 % 2 ^ 16 + 1 ≤ 2 ^ 16 ∧ s.undoF.length + 1 / 64 + 3 ≤ Config.undoCapF ∧ s.undoH.length + 1 / 64 + 3 ≤ Config.undoCapH ∧
    (hostPieces s 0 65535 1 false (1 / 2 ^ 16 + 2)).isSome = true := by decide +kernel
/-- The commit of the seal that an export waits for. -/
theorem test_meets_export_commit :
    let f : Fn := { num := 0, cmd := some ⟨0x31, some (.exported 0 0 4096 64), some 0, [], some 8, 0, [], false⟩ }
    let s : State := { commanded 0x31 .live with
      rcv := { phase := .committing, sealing := some 8, pending := some (emptyImage 8), committed := some (emptyImage 7) }, fns := [f] }
    s.leads = true ∧ s.mayCommit = true ∧ s.rcv.pending = some (emptyImage 8) ∧ s.hold = [] ∧
    ((List.range 64).all fun j => (s.leafFor 144 0 j).isSome) = true := by decide +kernel
theorem test_meets_run_root :
    (match ({ commanded 0x40 .created with fm := Mem.write walked.fm 4096 recordBytes } : State).work.queueRoot (someCtx .created) 4096 with
      | some (code, k) => decide (code = 0) && !k.absent
      | none => false) = true ∧
    ({ commanded 0x40 .created with fm := Mem.write walked.fm 4096 recordBytes } : State).work.rootWaits (someCtx .created) 4096 = false := by
  decide +kernel
theorem test_meets_snapshot : let s : State := { commanded 0x50 .live with safe := { configured := true, slots := snapshotSlots } }
    s.safe.configured = true ∧ snapshotSlots ≤ s.safe.slots ∧ s.safe.counter.toNat + snapshotSlots < 2 ^ 96 ∧ s.rcv.snap = false ∧
    s.rcv.snapFn = none := by decide +kernel

/-- `ManagementCommandsAct`: link and management parameters in and out of range, and a snapshot to restore. -/
def links (n : Nat) : LinkParams := ⟨0, [⟨0, [], 0⟩, ⟨1, [n], 0⟩], [], [n], [], []⟩
theorem test_meets_management : linksOk (links 11) (serving 0 0x70 none) = true ∧ linksOk (links 12) (serving 0 0x70 none) = false ∧
    mgmtOk ⟨true, 0, 0, [], 0, false, 2000⟩ (serving 0 0x71 none) = true ∧
    (serving 0 0x70 none).map ≠ ⟨(links 11).self, (links 11).members, (links 11).externals⟩ := by decide +kernel
def tierSnap : Snap := ⟨[], [], [], [], emptyImage 3⟩
theorem test_meets_restore_module : let s : State := { serving 0 0x51 none with rcv := { tier := some tierSnap } }
    s.rcv.tier = some tierSnap ∧ s.stopped = false ∧ s.safePath = true ∧ (∀ e ∈ s.ctxs, e.state ≠ .live ∧ e.state ≠ .ending) ∧
    Mem.wf tierSnap.fm = true ∧ Mem.wf tierSnap.hm = true ∧ s.mgmt.stacksOn ≠ 0xFFFF ∧
    ({ s with mgmt := { s.mgmt with stacksOn := 0xFFFF } } : State).mgmt.stacksOn = 0xFFFF := by decide +kernel
theorem test_meets_reset_function : let s := commanded 0x7F .created
    s.ctxs.filter (fun e => decide (e.fn = 0)) = [someCtx .created] ∧ s.ctx? 0 = some (someCtx .created) := by decide +kernel

/-! #### The step, the decoder and the invariant -/

/-- `StepRunsTheDecodedInstruction`: the strand on core 0 is chosen, its word at pc 0 is `add`. -/
theorem test_meets_slab_cycle : let s := start []; let r := s.raised 0
    s.timerStrand 0 = none ∧ s.rollsAlone = false ∧ s.agenda = [] ∧ s.rcv.mustRoll = false ∧ s.focus = 0 ∧
    (match r.chosen 0 with
      | some o =>
        match r.takeUp 0 o with
        | some k => decide (k.strand.snap = none) && okWith (k.work.fetch k.strand.pc) fun x => decide (x.1 = 0x02531C00) && !x.2.absent
        | none => false
      | none => false) = true := by decide +kernel
theorem test_step_runs_add :
    (match step ((start []).withFetchWord 32 0x02531C00) with
      | .next t => decide (t.strand.pc = 4) && decide (t.strand.cvret = 1)
      | _ => false) = true := by decide +kernel
/-- A core with no strand: nothing is chosen and the units beside it end the cycle. -/
theorem test_meets_idle_cycle : let r := State.reset.raised 3
    State.reset.timerStrand 3 = none ∧ (r.chosen 3).isNone = true ∧ (r.work.engines.endCycle 3 [] none).absent = false := by decide +kernel
/-- Between two slab steps the strand goes on with the words that it dispatched with. -/
theorem test_meets_second_step : let s := (start []).withStrand { (start []).strand with snap := some ⟨[0x44801200], (start []).strand.x, (start []).strand.v, []⟩ }
    s.strand.snap.isSome = true ∧ (match decodeRaw 0x44801200 with
      | .ok i => decide (i = .vfma false 8 0 4 16 0)
      | .error _ => false) = true := by decide +kernel
theorem test_meets_timer_step : ticking.timerStrand 0 = some 0 := by decide +kernel
theorem test_meets_agenda : let s : State := { State.reset with agenda := [.hostLinkUp] }
    s.rollsAlone = false ∧ s.agenda = [.hostLinkUp] ∧ (after { s with agenda := [] } .hostLinkUp).work.aftermath.absent = false := by
  decide +kernel
theorem test_meets_due_rollback : ({ State.reset with rcv := { mustRoll := true } } : State).rollsAlone = true := by decide +kernel

/-- `DecodeOfEncode` and `UndefinedWordsAreIllegal`. -/
theorem test_meets_encode : (Instr.vfma true 31 31 31 31 3).isWord = true ∧ (Instr.vfma true 31 31 31 31 3).wf = true := by decide +kernel
theorem test_meets_undefined_words : vectorClass (0x02531C20 : W32).toNat = false ∧ vectorClass (0 : W32).toNat = false ∧
    vectorClass (0xFFFFFFFF : W32).toNat = false ∧ chained (0xFFFFFFFF : W32).toNat = true ∧
    okWith ((start []).work.convoyWords 0xFFFFFFFF) (fun r => !r.2.absent) = true ∧
    isOk (((start []).withStrand { (start []).strand with pc := 65532 }).work.convoyWords 0xFFFFFFFF) = false := by decide +kernel
/-- A convoy of the vector class: the fetch of its second word that faults, a second word out of place, and words that check 2, 3 and 4 refuse. -/
theorem test_meets_undefined_convoys :
    let x := encode (.vadd true 8 0 4 16 0); let s := start []
    let refused := fun (y : W32) => match decodeMember y with
      | .error e => decide (e = .undefined ∨ e = .reserved)
      | .ok i => !i.wf
    vectorClass x.toNat = true ∧ mayChain x.toNat = true ∧
    isOk ((s.withStrand { s.strand with pc := 65532 }).work.convoyWords x) = false ∧
    okWith (s.work.convoyWords x) (fun r => !r.2.absent && decide (badFrame 0 [] [] r.1 = some 1)) = true ∧
    (([0x4C001002, 0x42003006, 0x48000000] : List W32).all fun y => vectorClass y.toNat && mayChain y.toNat && refused y &&
      okWith (s.work.convoyWords y) fun r => !r.2.absent && decide (r.1 = [y]) && decide (badFrame 0 [] [] r.1 = none)) = true := by
  decide +kernel
theorem test_raw_reserved : (match decodeRaw 0x02531C20 with
    | .error e => decide (e = .reserved)
    | .ok _ => false) = true := by decide +kernel
theorem test_raw_undefined : decodeRaw 0 = .error .undefined := rfl
theorem test_raw_framing : decodeRaw 0xFFFFFFFF = .error .framing := if_pos (by decide +kernel)

/-- `StepKeepsMemoriesCanonical`: a state with bytes in every memory. -/
theorem test_meets_canonical : ({ State.reset with fm := [(0, 1), (9, 2)], hm := [(5, 1)], sp := [(0, 7)], host := [(3, 1)] } : State).memWf = true := by
  decide +kernel

end Sys2Proof.Tests
end

/-! PROOFS. A step and the memories: what a step performs (O59), that every step keeps the canonical form of the memories (O56), and what
reset leaves (O55). -/

namespace Sys2Proof.Machine

/-! ### Every step keeps the canonical form -/

/-- What follows at once from an event keeps the canonical form. -/
theorem settled_memWf (r : Host.Outcome State Fault Refusal) (t : State) (hr : ∀ u, r = .next u → u.memWf = true)
    (h : settled r = .next t) : t.memWf = true := by
  cases r with
  | next u => exact finish_memWf u t u.work.aftermath h (hr u rfl)
  | fault f => cases h
  | refused f => cases h

/-- A word of the majors below 0x3C keeps the canonical form, as the dispatch performs it. -/
theorem issueLow_memWf (i : Instr) (s t : State) (h : issueLow i s = .next t) (hs : s.memWf = true) : t.memWf = true := by
  obtain ⟨out, ho⟩ := issueLow_finishes i s
  exact finish_memWf s t out (ho ▸ h) hs

/-- A dispatch keeps the canonical form where what performs the majors below 0x3C does. -/
theorem issueWord_memWf (low : Instr → State → Host.Outcome State Fault Refusal)
    (hlow : ∀ i s t, low i s = .next t → s.memWf = true → t.memWf = true) (x : W32) (s t : State)
    (h : issueWord low x s = .next t) (hs : s.memWf = true) : t.memWf = true := by
  rcases issueWord_cases low x s with ⟨out, ho⟩ | ⟨i, hi⟩
  · exact finish_memWf s t out (ho ▸ h) hs
  · exact hlow i s t (hi ▸ h) hs

/-- Every instruction keeps the canonical form: a slab-cycle by the words that it dispatches, any other by its one commit. -/
theorem exec_memWf (i : Instr) (s t : State) (h : exec i s = .next t) (hs : s.memWf = true) : t.memWf = true := by
  by_cases hc : ∃ c, i = .slabCycle c
  · obtain ⟨c, rfl⟩ := hc
    exact slabCycleWith_memWf (issueWord issueLow) c s t (issueWord_memWf issueLow issueLow_memWf) h hs
  · obtain ⟨out, ho⟩ := exec_finishes i s fun c hi => hc ⟨c, hi⟩
    exact finish_memWf s t out (ho ▸ h) hs

/-- Settles O56, by the three things that a step can be: a rollback that is due, an event of the agenda, or a slab-cycle. -/
theorem stepKeepsMemoriesCanonical : Obligations.StepKeepsMemoriesCanonical := by
  intro s t hs h
  unfold step at h
  split at h
  case isTrue hr => exact finish_memWf s t (s.work.rollback []).aftermath h hs
  case isFalse hr =>
    split at h
    · rename_i i rest ha
      exact settled_memWf _ t (fun u hu => exec_memWf i { s with agenda := rest } u hu hs) h
    · split at h
      · cases h
        exact hs
      · exact slabCycleWith_memWf (issueWord exec) s.focus s t (issueWord_memWf exec exec_memWf) h hs

/-! ### A step runs the decoded instruction -/

/-- A word of the majors below 0x3C has one meaning, whether the dispatch or `exec` performs it. -/
theorem issueLow_eq_exec (w : Nat) (i : Instr) (s : State) (h : selectLow w = some i) : issueLow i s = exec i s := by
  simp only [selectLow, selectInteger, selectShiftImm, selectFloat, selectFused, selectLoad, selectStore, selectSpLoad,
    selectSpStore, selectCsr, selectSystem, selectArith1, selectArith2, selectBitwise, selectCompare, selectMasks, selectConvert,
    selectReduce, selectMaxIndex, selectPermute, selectTranscendental, selectVectorLoad, selectVectorStore, selectMatrix,
    selectTile, selectDescent, selectHeath1, selectHeath2, selectCopyBlock, selectCopyNest, selectCopyGather, selectCopyGet] at h
  (repeat' split at h) <;> cases h <;> rfl

theorem checkRow_ok (w : Nat) (row : Option Instr) (i : Instr) (h : checkRow w row = .ok i) : row = some i := by
  cases row with
  | none => cases h
  | some j => exact congrArg some (checkRow_some w j i h).2

/-- The dispatch of a slab-cycle performs every word as `exec` performs what it decodes to. -/
theorem issueWord_issueLow : issueWord issueLow = issueWord exec := by
  funext x s
  simp only [issueWord]
  split
  · rfl
  · split
    iterate 3 rfl
    split
    · rename_i i h
      exact issueLow_eq_exec _ i s (checkRow_ok _ _ i h)
    · rfl

theorem exec_slabCycle_eq (core : Nat) (s : State) : exec (.slabCycle core) s = slabCycleWith (issueWord exec) core s := by
  rw [← issueWord_issueLow]
  rfl

/-- A dispatch that performs the word it fetches, or the one that its convoy dispatched with (R33). -/
theorem dispatch_decoded (k k' : State) (x : W32) (i : Instr) (hi : decodeRaw x = .ok i)
    (hx : (k.strand.snap = none ∧ ∃ w, k.work.fetch k.strand.pc = .ok (x, w) ∧ w.absent = false ∧ k' = w.st.enter x) ∨
      (∃ d, k.strand.snap = some d ∧ x = d.words.headD 0 ∧ k' = k)) :
    dispatch (issueWord exec) k = exec i k' := by
  rcases hx with ⟨hs, w, hf, ha, rfl⟩ | ⟨d, hs, rfl, rfl⟩
  · simp [dispatch, hs, hf, ha, issueWord_decoded x i _ hi]
  · simp only [dispatch, hs]
    exact issueWord_decoded _ i _ hi

/-- A slab-cycle with no timer trap due whose chosen strand's word completes. -/
theorem slabCycleWith_next (issue : W32 → State → Host.Outcome State Fault Refusal) (core : Nat) (s k t : State) (o : Offer)
    (htimer : s.timerStrand core = none) (ho : (s.raised core).chosen core = some o)
    (hk : (s.raised core).takeUp core o = some k) (ht : dispatch issue k = .next t)
    (ha : (t.work.afterIssue (s.raised core) core o).absent = false) :
    slabCycleWith issue core s = .next (t.commit (t.work.afterIssue (s.raised core) core o)) := by
  simp only [slabCycleWith, htimer, ho, hk, ht]
  exact State.finish_next t _ ha

/-- A slab-cycle that chooses no strand ends with the units beside the core. -/
theorem slabCycleWith_idle (issue : W32 → State → Host.Outcome State Fault Refusal) (core : Nat) (s : State)
    (htimer : s.timerStrand core = none) (ho : (s.raised core).chosen core = none)
    (ha : ((s.raised core).work.engines.endCycle core [] none).absent = false) :
    slabCycleWith issue core s = .next (s.commit ((s.raised core).work.engines.endCycle core [] none)) := by
  simp only [slabCycleWith, htimer, ho]
  generalize (s.raised core).work.engines.endCycle core [] none = w at ha ⊢
  exact State.finish_next s w ha

/-- A step with nothing due is the slab-cycle of the core in focus. -/
theorem step_eq_slabCycle (s : State) (hr : s.rollsAlone = false) (ha : s.agenda = []) (hm : s.rcv.mustRoll = false) :
    step s = exec (.slabCycle s.focus) s := by
  rw [exec_slabCycle_eq]
  simp [step, hr, ha, hm]

/-- An event at the head of the agenda is performed, with what follows from it at once (log 4). -/
theorem step_agenda (s t : State) (i : Instr) (rest : List Instr) (hr : s.rollsAlone = false) (hg : s.agenda = i :: rest)
    (ht : exec i { s with agenda := rest } = .next t) : step s = t.finish t.work.aftermath := by
  unfold step
  rw [if_neg (by simp [hr])]
  simp only [hg, ht, settled]

/-- The commit of a step that changes the strand alone. -/
theorem commit_upd_work (s : State) (f : Strand → Strand) : s.commit (s.work.upd f) = s.withStrand (f s.strand) := by
  rw [State.commit_nil _ _ rfl]
  simp [State.base, Work.upd, State.work, State.withStrand]

/-- A word whose one effect is a value in x(d) completes (R91, R106). -/
theorem finish_result (s : State) (d : Reg) (v : W64) : s.finish (s.work.result d v) = .next (s.wrote d v) := by
  rw [State.finish_next _ _ rfl]
  exact congrArg _ (commit_upd_work s fun t => (t.wx d v).nextWord)

/-- Settles O59, by what the dispatch performs for a decoded word and by what a step chooses. -/
theorem stepRunsTheDecodedInstruction : Obligations.StepRunsTheDecodedInstruction := by
  refine ⟨?_, ?_, ?_, ?_, ?_, ?_⟩
  · intro s core htimer r o k k' t x i ho hk hx hi ht ha
    have hslab : exec (.slabCycle core) s = .next (t.commit (t.work.afterIssue r core o)) := by
      rw [exec_slabCycle_eq]
      exact slabCycleWith_next _ core s k t o htimer ho hk ((dispatch_decoded k k' x i hi hx).trans ht) ha
    refine ⟨hslab, ?_⟩
    rintro rfl hr hg hm
    rw [step_eq_slabCycle s hr hg hm, hslab]
  · intro s core htimer r
    refine ⟨?_, ?_⟩
    · intro o k x d a b ho hk hs w hf hw hi q t ha
      rw [exec_slabCycle_eq]
      refine slabCycleWith_next _ core s k t o htimer ho hk ?_ ha
      rw [dispatch_decoded k q x _ hi (.inl ⟨hs, w, hf, hw, rfl⟩)]
      exact finish_result q d (q.strand.rx a + q.strand.rx b)
    · intro ho ha
      rw [exec_slabCycle_eq]
      exact slabCycleWith_idle _ core s htimer ho ha
  · intro s core sid htimer
    rw [exec_slabCycle_eq]
    simp only [slabCycleWith, htimer]
  · intro s t i rest hr hg ht ha
    rw [step_agenda s t i rest hr hg ht]
    exact State.finish_next t _ ha
  · intro s hr
    simp [step, hr, State.rollAlone]
  · intro s hr hg hm
    simp [step, hr, hg, hm]

/-! ### Reset -/

/-- No register of the strand in front is set at reset. -/
theorem reset_rx (r : Reg) : State.reset.strand.rx r = 0 := by
  simp [State.reset, Strand.rx]

/-- Every Jeore port is down at reset. -/
theorem reset_port (n : Nat) : (State.reset.port n).state = .down := by
  simp only [State.port]
  split
  · simp [State.reset]
  · rfl

/-- Every byte of every memory reads 0 at reset. -/
theorem reset_read (g : Tgt) (a : Nat) : Mem.read (State.reset.memOf g) a = 0 := by
  cases g <;> rfl

/-- Settles O55: the fields that reset names, each at its default, and the families of registers, ports, cores and bytes. -/
theorem resetLeaves : Obligations.ResetLeaves := by
  refine ⟨rfl, rfl, rfl, rfl, rfl, rfl, rfl, rfl, rfl, rfl, rfl, rfl, rfl, rfl, rfl, rfl, rfl, rfl, reset_port, rfl, rfl, rfl, rfl, rfl,
    rfl, rfl, rfl, rfl, rfl, reset_rx, ?_, reset_read⟩
  exact fun n => ⟨rfl, rfl, rfl, rfl⟩

end Sys2Proof.Machine

/-! PROOFS. Rules of the operations that the words of a strand share: the strand that a commit leaves, what never reaches an absent place,
and an exception taken, as `TrapsAs` states it. -/

namespace Sys2Proof.Machine

/-! ### The strand of a commit -/

@[simp] theorem touchLine_strand (s : State) (heath : Bool) (n : Nat) (owner : BitVec 12) (whole : Bool) :
    (touchLine s heath n owner whole).strand = s.strand := by
  simp only [touchLine, State.withLines, State.withUndo]
  split <;> split <;> split <;> (try split) <;> rfl

@[simp] theorem touchLines_strand (s : State) (heath : Bool) (a l : Nat) (owner : BitVec 12) (k : Nat) :
    (touchLines s heath a l owner k).strand = s.strand := by
  induction k generalizing s with
  | zero => rfl
  | succ k ih => simp only [touchLines, ih, touchLine_strand]

@[simp] theorem markDirty_strand (s : State) (a l : Nat) : (markDirty s a l).strand = s.strand := by
  unfold markDirty
  split <;> rfl

@[simp] theorem applyWrite_strand (s : State) (w : Write) : (applyWrite s w).strand = s.strand := by
  cases w with
  | clear => exact State.withMem_strand ..
  | put g a bs o raw =>
    simp only [applyWrite, State.withMem_strand]
    split
    · rfl
    · cases g <;> simp

/-- The writes of a commit leave the strand as the step made it. -/
@[simp] theorem commit_strand (s : State) (w : Work) : (s.commit w).strand = w.cur := by
  simp only [State.commit]
  have fold : ∀ (l : List Write) (b : State), (l.foldl applyWrite b).strand = b.strand := by
    intro l
    induction l with
    | nil => exact fun b => rfl
    | cons x l ih => exact fun b => (ih _).trans (applyWrite_strand b x)
  exact fold w.ws (s.base w)

/-! ### Where the strand goes on -/

/-- A register write changes the registers alone. -/
theorem wx_frame (s : Strand) (r : Reg) (v : W64) : ∃ x, s.wx r v = { s with x := x } := by
  unfold Strand.wx
  split
  · exact ⟨s.x, rfl⟩
  · exact ⟨_, rfl⟩

theorem advanceRegs_frame (s : Strand) (regs : List Nat) (inc : List (List Int)) (d : Nat) :
    ∃ x, advanceRegs s regs inc d = { s with x := x } := by
  induction regs generalizing s inc with
  | nil => exact ⟨s.x, by unfold advanceRegs; rfl⟩
  | cons r regs ih =>
    cases inc with
    | nil => exact ⟨s.x, rfl⟩
    | cons row inc =>
      obtain ⟨x, hx⟩ := wx_frame s (BitVec.ofNat 5 r) (s.rx (BitVec.ofNat 5 r) + BitVec.ofInt 64 (row.getD d 0))
      obtain ⟨y, hy⟩ := ih (s.wx (BitVec.ofNat 5 r) (s.rx (BitVec.ofNat 5 r) + BitVec.ofInt 64 (row.getD d 0))) inc
      exact ⟨y, by rw [advanceRegs, hy, hx]⟩

/-- Where a strand goes on (R214): its pc, its loop and, at the end of a pass, the registers that the loop advances; with no loop the target. -/
theorem goTo_frame (s : Strand) (target : W64) :
    ∃ x p l, s.goTo target = { s with x := x, pc := p, loop := l } ∧ (s.loop = none → x = s.x ∧ p = target) := by
  unfold Strand.goTo
  split
  · rename_i hl
    exact ⟨s.x, target, s.loop, rfl, fun _ => ⟨rfl, rfl⟩⟩
  · rename_i l hl
    split
    · exact ⟨s.x, target, s.loop, rfl, by simp [hl]⟩
    · split
      · exact ⟨s.x, _, none, rfl, by simp [hl]⟩
      · rename_i d c _
        obtain ⟨x, hx⟩ := advanceRegs_frame { s with pc := l.start, loop := some { l with c := c } } l.regs l.inc d
        exact ⟨x, l.start, some { l with c := c }, hx, by simp [hl]⟩

/-- A convoy retired: the strand as it goes on, with nothing waited for and one convoy more counted. -/
theorem retireTo_frame (w : Work) (target : W64) :
    ∃ x p l, (w.retireTo target).cur =
        { w.cur with x := x, pc := p, loop := l, waiting := .none, waitT := 0, cvret := w.cur.cvret + 1, started := true } ∧
      (w.cur.loop = none → x = w.cur.x ∧ p = target) := by
  obtain ⟨x, p, l, hgo, hnone⟩ := goTo_frame w.cur target
  refine ⟨x, p, l, ?_, hnone⟩
  rw [Work.retireTo, Work.upd_cur, hgo]

/-! ### Steps that reach no absent place -/

@[simp] theorem trace_absent (w : Work) (kind a : Nat) (b : W64) : (w.trace kind a b).absent = w.absent := by
  simp only [Work.trace]
  split <;> rfl

@[simp] theorem putRegion_absent (w : Work) (pages : List Nat) (off : Nat) (bs : List Byte) (fuel : Nat) :
    (w.putRegion pages off bs fuel).absent = w.absent := by
  induction fuel generalizing w off bs with
  | zero => rfl
  | succ k ih =>
    unfold Work.putRegion
    split
    · rename_i hk _
      cases hk
      rw [ih, Work.put_absent]
    · rfl

@[simp] theorem putPieces_absent (w : Work) (pages : List Nat) (start : Nat) (l : List (Nat × List Byte)) :
    (w.putPieces pages start l).absent = w.absent := by
  unfold Work.putPieces
  induction l generalizing w with
  | nil => rfl
  | cons e l ih => exact (ih _).trans (putRegion_absent ..)

@[simp] theorem writeImage_absent (w : Work) (c : Ctx) (p core : Nat) (l : List ImagePart) :
    (w.writeImage c p core l).absent = w.absent := by
  simp only [Work.writeImage, Work.mod_absent, putPieces_absent]

@[simp] theorem contextBlock_absent (w : Work) (ctx dev : Nat) (bs : List Byte) :
    (w.contextBlock ctx dev bs).absent = w.absent := by
  simp only [Work.contextBlock]
  split
  · rw [writeImage_absent, Work.mod_absent]
  · split <;> rfl

@[simp] theorem contextBytes_absent (w : Work) (ctx dev : Nat) (bs : List Byte) (fuel : Nat) :
    (w.contextBytes ctx dev bs fuel).absent = w.absent := by
  induction fuel generalizing w dev bs with
  | zero => rfl
  | succ k ih =>
    simp only [Work.contextBytes]
    split
    · rfl
    · rw [ih, contextBlock_absent]

@[simp] theorem putOwn_absent (w : Work) (wr : Write) : (w.putOwn wr).absent = w.absent := by
  unfold Work.putOwn
  split
  · split
    · rfl
    · exact contextBytes_absent ..
  · rfl

@[simp] theorem perform_absent (w : Work) (st : Store) : (w.perform st).absent = w.absent := by
  cases st with
  | mem wr => exact putOwn_absent w wr
  | ext d a bs => rfl
  | remote m a bs => rfl

@[simp] theorem issueStore_absent (w : Work) (b : Bool) (c : Nat) (va : Option Nat) (st : Store) :
    (w.issueStore b c va st).absent = w.absent := by
  simp only [Work.issueStore]
  split
  · exact perform_absent _ st
  · rfl

/-- A strip store buffer drains without reaching an absent place: its stores were noted as they issued. -/
@[simp] theorem drain_absent (w : Work) : w.drain.absent = w.absent := by
  have go : ∀ (b : List BufStore) (k : Work), (b.foldl (fun k e => k.issueStore true e.cls e.va e.st) k).absent = k.absent := by
    intro b
    induction b with
    | nil => exact fun k => rfl
    | cons e b ih => exact fun k => (ih _).trans (issueStore_absent ..)
  exact go _ _

/-! ### Exceptions -/

/-- The bits of a status word are its fields (Table 5.24). -/
theorem statusOf_bits : ∀ nest ptie tie ppriv priv : Bool, let b := statusOf nest ptie tie ppriv priv
    b.getLsbD 0 = priv ∧ b.getLsbD 1 = ppriv ∧ b.getLsbD 2 = tie ∧ b.getLsbD 3 = ptie ∧ b.getLsbD 4 = nest := by decide

/-- The strand in front of a step is the one of a state, but for its loop and where its convoy stands. -/
def Work.Fronts (w : Work) (s : State) : Prop :=
  ∃ l a b, w.cur = { s.strand with loop := l, vslab := a, vstart := b }

theorem work_fronts (s : State) : s.work.Fronts s := ⟨s.strand.loop, s.strand.vslab, s.strand.vstart, rfl⟩

theorem takeTrap_absent (w : Work) (t : Trap) (h : w.cur.nest = false) : (w.takeTrap false t).absent = w.absent := by
  simp [Work.takeTrap, h]

/-- A synchronous trap outside a handler (R127), taken by a step whose strand is the one in front of a state. -/
theorem trapsAs_takeTrap (s : State) (w : Work) (t : Trap) (hf : w.Fronts s) (ha : w.absent = false)
    (hn : s.strand.nest = false) : TrapsAs (s.finish (w.takeTrap false t)) s t.code t.sub t.tval := by
  obtain ⟨l, a, b, hcur⟩ := hf
  have hnest : w.cur.nest = false := by rw [hcur]; exact hn
  obtain ⟨p, r, htrap⟩ := w.takeTrap_cur false t (by simp [hnest])
  refine ⟨_, State.finish_next _ _ ((takeTrap_absent w t hnest).trans ha), ?_⟩
  obtain ⟨hpriv, hppriv, htie, hptie, hnest⟩ := statusOf_bits true s.strand.tie false s.strand.priv true
  rw [commit_strand, htrap, hcur]
  exact ⟨rfl, by simp [causeOf], rfl, hpriv, hppriv, htie, hptie, hnest, rfl, rfl, rfl, rfl⟩

/-- The same for a word without slab steps, whose trap finds its convoy at a boundary. -/
theorem trapsAs_trapWord (s : State) (w : Work) (t : Trap) (hf : w.Fronts s) (ha : w.absent = false)
    (hn : s.strand.nest = false) : TrapsAs (s.finish (w.trapWord t)) s t.code t.sub t.tval := by
  obtain ⟨l, a, b, hcur⟩ := hf
  exact trapsAs_takeTrap s _ t ⟨l, 0, 0, by simp [hcur]⟩ ha hn

/-! ### Fetch -/

/-- A fetch changes of the machine at most the loop of the strand in front, which keeps the word. -/
theorem fetch_st (w k : Work) (va : W64) (x : W32) (h : w.fetch va = .ok (x, k)) :
    ∃ l, k.st = { w.st with strand := { w.cur with loop := l } } := by
  have keep : ∀ s : Strand, ∃ l, s.keep va x = { s with loop := l } := by
    intro s
    unfold Strand.keep
    split
    · split
      · exact ⟨_, rfl⟩
      · exact ⟨s.loop, rfl⟩
    · exact ⟨s.loop, rfl⟩
  unfold Work.fetch at h
  split at h
  · cases h
    exact ⟨_, rfl⟩
  · split at h
    · cases h
    · split at h
      · cases h
      · split at h
        · cases h
          obtain ⟨l, hl⟩ := keep w.cur
          exact ⟨l, congrArg (fun t => { w.st with strand := t }) hl⟩
        · cases h

theorem fetchRest_st (fuel : Nat) (w k : Work) (va : W64) (l : List W32) (h : w.fetchRest va fuel = .ok (l, k)) :
    ∃ p, k.st = { w.st with strand := { w.cur with loop := p } } := by
  induction fuel generalizing w va l k with
  | zero =>
    cases h
    exact ⟨_, rfl⟩
  | succ n ih =>
    unfold Work.fetchRest at h
    split at h
    · cases h
    · rename_i x w1 hx
      obtain ⟨p, hp⟩ := fetch_st w w1 va x hx
      split at h
      · split at h
        · cases h
        · rename_i l' w2 hl
          cases h
          obtain ⟨q, hq⟩ := ih w1 k (va + 4) l' hl
          exact ⟨q, by simp only [hq, Work.cur, hp]⟩
      · cases h
        exact ⟨p, hp⟩

/-- The fetch of a convoy's words changes of the machine at most the loop of the strand in front. -/
theorem convoyWords_st (w k : Work) (x : W32) (l : List W32) (h : w.convoyWords x = .ok (l, k)) :
    ∃ p, k.st = { w.st with strand := { w.cur with loop := p } } := by
  unfold Work.convoyWords at h
  split at h
  · cases h
    exact ⟨_, rfl⟩
  · split at h
    · split at h
      · cases h
      · rename_i hr
        cases h
        exact fetchRest_st 3 w k _ _ hr
    · cases h
      exact ⟨_, rfl⟩

theorem convoyWords_fronts (s : State) (k : Work) (x : W32) (l : List W32) (h : s.work.convoyWords x = .ok (l, k)) :
    k.Fronts s := by
  obtain ⟨p, hp⟩ := convoyWords_st s.work k x l h
  exact ⟨p, s.strand.vslab, s.strand.vstart, by simp [Work.cur, hp]⟩

/-- The words of an unchained word's convoy need no fetch. -/
theorem convoyWords_unchained (w : Work) (x : W32) (h : chained x.toNat = false) : ∃ l, w.convoyWords x = .ok (x :: l, w) := by
  unfold Work.convoyWords
  split
  · exact ⟨_, rfl⟩
  · exact ⟨[], by simp [h]⟩

/-- A convoy that is an unchained word alone, at its dispatch or between its steps. -/
theorem convoyWords_alone (s : State) (x : W32) (h : chained x.toNat = false) (hs : ∀ d, s.strand.snap = some d → d.words = [x]) :
    s.work.convoyWords x = .ok ([x], s.work) := by
  unfold Work.convoyWords
  split
  · rename_i d hd
    rw [hs d hd]
    rfl
  · simp [h]

end Sys2Proof.Machine

/-! PROOFS. Vector-class words: their decoding, the checks of their dispatch (O25), and the words that name no instruction (O60). -/

namespace Sys2Proof.Machine

/-! ### The words that are members -/

/-- The encoding of a member selects it (R86). -/
theorem selects_of_member (i : Instr) (h : (memberOf i).isSome = true) : Laws.Selects.Statement i := by
  cases i with
  | vadd => exact Laws.Selects.vadd _ _ _ _ _ _
  | vsub => exact Laws.Selects.vsub _ _ _ _ _ _
  | vmul => exact Laws.Selects.vmul _ _ _ _ _ _
  | vdiv => exact Laws.Selects.vdiv _ _ _ _ _ _
  | vmin => exact Laws.Selects.vmin _ _ _ _ _ _
  | vmax => exact Laws.Selects.vmax _ _ _ _ _ _
  | vsqrt => exact Laws.Selects.vsqrt _ _ _ _ _
  | vabs => exact Laws.Selects.vabs _ _ _ _ _
  | vfma => exact Laws.Selects.vfma _ _ _ _ _ _
  | vfms => exact Laws.Selects.vfms _ _ _ _ _ _
  | vfnma => exact Laws.Selects.vfnma _ _ _ _ _ _
  | vfnms => exact Laws.Selects.vfnms _ _ _ _ _ _
  | vmulh => exact Laws.Selects.vmulh _ _ _ _ _ _
  | vrem => exact Laws.Selects.vrem _ _ _ _ _ _
  | vneg => exact Laws.Selects.vneg _ _ _ _ _
  | vand => exact Laws.Selects.vand _ _ _ _ _ _
  | vor => exact Laws.Selects.vor _ _ _ _ _ _
  | vxor => exact Laws.Selects.vxor _ _ _ _ _ _
  | vnot => exact Laws.Selects.vnot _ _ _ _ _
  | vsll => exact Laws.Selects.vsll _ _ _ _ _ _
  | vsrl => exact Laws.Selects.vsrl _ _ _ _ _ _
  | vsra => exact Laws.Selects.vsra _ _ _ _ _ _
  | vceq => exact Laws.Selects.vceq _ _ _ _ _ _
  | vcne => exact Laws.Selects.vcne _ _ _ _ _ _
  | vclt => exact Laws.Selects.vclt _ _ _ _ _ _
  | vcle => exact Laws.Selects.vcle _ _ _ _ _ _
  | vcgt => exact Laws.Selects.vcgt _ _ _ _ _ _
  | vcge => exact Laws.Selects.vcge _ _ _ _ _ _
  | vcun => exact Laws.Selects.vcun _ _ _ _ _ _
  | vsel => exact Laws.Selects.vsel _ _ _ _ _ _
  | kand => exact Laws.Selects.kand _ _ _ _
  | kor => exact Laws.Selects.kor _ _ _ _
  | kxor => exact Laws.Selects.kxor _ _ _ _
  | knot => exact Laws.Selects.knot _ _ _
  | kpopc => exact Laws.Selects.kpopc _ _ _ _
  | kfirst => exact Laws.Selects.kfirst _ _ _ _
  | vcvt => exact Laws.Selects.vcvt _ _ _ _ _
  | vcvtS => exact Laws.Selects.vcvtS _ _ _ _ _ _
  | vredsum => exact Laws.Selects.vredsum _ _ _ _ _
  | vredmin => exact Laws.Selects.vredmin _ _ _ _ _
  | vredmax => exact Laws.Selects.vredmax _ _ _ _ _
  | vredand => exact Laws.Selects.vredand _ _ _ _ _
  | vredor => exact Laws.Selects.vredor _ _ _ _ _
  | vscan => exact Laws.Selects.vscan _ _ _ _ _
  | vscanx => exact Laws.Selects.vscanx _ _ _ _ _
  | vmaxi => exact Laws.Selects.vmaxi _ _ _ _ _
  | vmini => exact Laws.Selects.vmini _ _ _ _ _
  | vmaxic => exact Laws.Selects.vmaxic _ _ _ _ _
  | vperm => exact Laws.Selects.vperm _ _ _ _ _ _
  | vslideup => exact Laws.Selects.vslideup _ _ _ _ _ _
  | vslidedn => exact Laws.Selects.vslidedn _ _ _ _ _ _
  | vbcast => exact Laws.Selects.vbcast _ _ _ _ _
  | vmvxs => exact Laws.Selects.vmvxs _ _ _ _ _
  | vmvsx => exact Laws.Selects.vmvsx _ _ _ _ _
  | vcompress => exact Laws.Selects.vcompress _ _ _ _ _
  | vid => exact Laws.Selects.vid _ _ _ _
  | vexp2 => exact Laws.Selects.vexp2 _ _ _ _ _
  | vlog2 => exact Laws.Selects.vlog2 _ _ _ _ _
  | vrcp => exact Laws.Selects.vrcp _ _ _ _ _
  | vrsqrt => exact Laws.Selects.vrsqrt _ _ _ _ _
  | vld => exact Laws.Selects.vld _ _ _ _ _
  | vlds => exact Laws.Selects.vlds _ _ _ _ _ _
  | vldx => exact Laws.Selects.vldx _ _ _ _ _ _
  | vldsp => exact Laws.Selects.vldsp _ _ _ _ _
  | vldm => exact Laws.Selects.vldm _ _ _ _
  | vldxsp => exact Laws.Selects.vldxsp _ _ _ _ _ _
  | vst => exact Laws.Selects.vst _ _ _ _ _
  | vsts => exact Laws.Selects.vsts _ _ _ _ _ _
  | vstx => exact Laws.Selects.vstx _ _ _ _ _ _
  | vstsp => exact Laws.Selects.vstsp _ _ _ _ _
  | vstm => exact Laws.Selects.vstm _ _ _ _
  | vstxsp => exact Laws.Selects.vstxsp _ _ _ _ _ _
  | tacc => exact Laws.Selects.tacc _ _ _ _ _
  | taccS => exact Laws.Selects.taccS _ _ _ _ _
  | tdstep => exact Laws.Selects.tdstep _ _ _ _ _ _
  | tdleaf => exact Laws.Selects.tdleaf _ _ _ _ _ _
  | tdregrp => exact Laws.Selects.tdregrp _ _ _ _ _
  | tdpathR => exact Laws.Selects.tdpathR _ _ _ _
  | tdpathW => exact Laws.Selects.tdpathW _ _ _ _
  | tdaddr => exact Laws.Selects.tdaddr _ _ _ _ _
  | _ => exact nomatch h

theorem exec_of_member (i : Instr) (s : State) (h : (memberOf i).isSome = true) : exec i s = vectorWord i s := by
  unfold memberOf at h
  split at h
  case h_81 => cases h
  all_goals rfl

theorem isWord_of_member (i : Instr) (h : (memberOf i).isSome = true) : i.isWord = true := by
  unfold memberOf at h
  split at h
  case h_81 => cases h
  all_goals rfl

/-- No member stands among the majors 0x3C to 0x3E. -/
theorem selectLow_of_member (w : Nat) (i : Instr) (hm : (memberOf i).isSome = true) (h : selectRow w = some i) :
    selectLow w = some i := by
  unfold selectRow at h
  split at h
  · unfold selectAtomic at h
    (repeat' split at h) <;> cases h <;> cases hm
  · unfold selectStripAtomic at h
    split at h <;> cases h <;> cases hm
  · unfold selectSync at h
    split at h <;> cases h <;> cases hm
  · exact h

/-- A word that may chain and names an instruction names a member (R91). -/
theorem member_of_mayChain (w : Nat) (i : Instr) (hw : mayChain w = true) (h : selectLow w = some i) :
    (memberOf i).isSome = true := by
  unfold selectLow at h
  split at h <;> rename_i hm <;> simp [mayChain, vectorClass, aloneClass, hm] at hw
  case h_50 => cases h
  case h_41 =>
    unfold selectMatrix at h
    split at h
    · cases h; rfl
    · cases h; rfl
    · contradiction
    · cases h
  all_goals
    simp only [selectArith1, selectArith2, selectBitwise, selectCompare, selectMasks, selectConvert, selectReduce, selectMaxIndex,
      selectPermute, selectTranscendental, selectVectorLoad, selectVectorStore, selectDescent] at h
    split at h <;> cases h <;> rfl

/-- The encoding of a well-formed member is a word of 32 bits. -/
theorem toNat_encode_of_member (i : Instr) (hm : (memberOf i).isSome = true) (hw : i.wf = true) :
    (encode i).toNat = encodeNat i := by
  obtain ⟨hlt, -, -⟩ := selects_of_member i hm (isWord_of_member i hm) hw
  rw [encode, BitVec.toNat_ofNat, Nat.mod_eq_of_lt hlt]

/-- The encoding of a well-formed member decodes to it. -/
theorem decodeMember_encode (i : Instr) (hm : (memberOf i).isSome = true) (hw : i.wf = true) : decodeMember (encode i) = .ok i := by
  obtain ⟨-, hsel, -⟩ := selects_of_member i hm (isWord_of_member i hm) hw
  have hfence : zeroFence i = false := by
    cases i with
    | cfence => cases hm
    | _ => rfl
  rw [decodeMember, toNat_encode_of_member i hm hw, selectLow_of_member _ i hm hsel]
  simp [checkRow, hfence]

end Sys2Proof.Machine

/-! PROOFS. The dispatch of vector-class words: their checks (O25). -/

namespace Sys2Proof.Machine

/-- An unchained word alone breaks no rule of framing (R29). -/
theorem badFrame_alone (x : W32) (h : chained x.toNat = false) : badFrame 0 [] [] [x] = none := by
  have hmeets : ∀ l, meets l [] = false := fun l => by simp [meets]
  simp only [badFrame, h, hmeets]
  cases selectLow x.toNat with
  | none => simp
  | some i => cases hi : memberOf i <;> simp [hi]

/-- A member alone is placed where its checks pass (R103). -/
theorem placeAll_alone (t : Strand) (i : Instr) (m : Member) (va : W64) (hm : memberOf i = some m) (hw : i.wf = true) :
    placeAll t [encode i] va [] [] =
      match checkMember t (t.place m (encode i) va) [] [] with
      | some e => .error e
      | none => .ok [t.place m (encode i) va] := by
  simp only [placeAll, decodeMember_encode i (by simp [hm]) hw, hw, hm]
  cases checkMember t (t.place m (encode i) va) [] [] <;> rfl

/-- An unchained member that a check of its dispatch stops takes its trap. -/
theorem exec_member_trap (i : Instr) (m : Member) (s : State) (e : Trap) (hm : memberOf i = some m) (hw : i.wf = true)
    (hc : chained (encodeNat i) = false) (hs : ∀ d, s.strand.snap = some d → d.words = [encode i])
    (he : checkMember s.strand (s.strand.place m (encode i) s.strand.pc) [] [] = some e) :
    exec i s = s.finish (s.work.takeTrap false e) := by
  have hi : (memberOf i).isSome = true := by simp [hm]
  have hx : chained (encode i).toNat = false := by rw [toNat_encode_of_member i hi hw, hc]
  rw [exec_of_member i s hi]
  simp only [vectorWord, convoyOf, convoyWords_alone s _ hx hs, runConvoy, badFrame_alone _ hx]
  have hp := placeAll_alone s.strand i m s.strand.pc hm hw
  rw [he] at hp
  simp only [Work.cur, State.work_st, hp]

/-- Check 11 on one operand (R89). -/
theorem spanOk_iff (o : Operand) (sew grp : Nat) :
    o.spanOk sew grp = true ↔ ¬(o.m.toNat % o.span sew grp ≠ 0 ∨ 32 < o.m.toNat + o.span sew grp) := by
  simp [Operand.spanOk]

/-- Whether the tile that a member names is one of `n` (check 9). -/
def Member.tileHeld (m : Member) (n : Nat) : Bool := m.tile.all fun t => decide (t.toNat < n)

theorem Member.tileHeld_iff (m : Member) (n : Nat) : m.tileHeld n = true ↔ ∀ t, m.tile = some t → t.toNat < n := by
  cases h : m.tile <;> simp [Member.tileHeld, h]

/-- Checks 7 to 11 on a member that stands alone: no member before it writes what it reads. -/
theorem checkMember_alone (s : Strand) (p : Placed) : checkMember s p [] [] =
    if s.unset then some ⟨1, 6, zext p.word⟩
    else if p.member.matrix && s.g.nomx then some ⟨8, 0, zext p.word⟩
    else if !p.member.tileHeld s.g.tiles.length then some ⟨1, 7, zext p.word⟩
    else if !p.member.sewOk s.sew then some ⟨1, 6, zext p.word⟩
    else if p.member.fmtReg.isSome && !p.member.fmtOk s.sew p.fmt then some ⟨1, 5, p.fw⟩
    else if !((p.member.reads s.sew p.fmt ++ p.member.writes s.sew p.fmt).all fun o => o.spanOk s.sew s.grp) then
      some ⟨1, 4, zext p.word⟩
    else if !p.member.extraOk s.sew s.grp p.fmt then some ⟨1, 4, zext p.word⟩
    else none := by
  have hmeets : ∀ l, meets l [] = false := fun l => by simp [meets]
  cases ht : p.member.tile <;> simp [checkMember, Member.tileHeld, ht, hmeets]

/-- A word of a tile that a check stops takes its trap. -/
theorem tileWordOn_trap (i : Instr) (t : Reg) (run : Work → Except Stop Work) (s : State) (e : Trap)
    (h : s.work.tileChecks i t = some e) : tileWordOn i t run s = s.finish (s.work.trapWord e) := by
  simp only [tileWordOn, h]

/-- The words of a tile that stand alone (R91 kind A) all go through its checks. -/
theorem exec_tile_trap (t a b xf : Reg) (i : Instr) (s : State) (e : Trap)
    (hi : i ∈ [.mzero t, .mld t a, .mldT8 t a, .mldT16 t a, .mst t a, .mcvt t xf, .mrowr t a b, .mroww t a b])
    (he : s.work.tileChecks i t = some e) : exec i s = s.finish (s.work.trapWord e) := by
  simp only [List.mem_cons, List.not_mem_nil, or_false] at hi
  rcases hi with rfl | rfl | rfl | rfl | rfl | rfl | rfl | rfl
  all_goals
    simp only [exec_mzero, execMzero, exec_mld, execMld, exec_mldT8, execMldT8, exec_mldT16, execMldT16, exec_mst, execMst,
      exec_mcvt, execMcvt, exec_mrowr, execMrowr, exec_mroww, execMroww, tileLoad]
    exact tileWordOn_trap _ t _ s e he

/-- `mcvt` that has passed the checks of its tile takes check 10 on its format word (R176). -/
theorem exec_mcvt_format (t xf : Reg) (s : State) (hc : s.work.tileChecks (.mcvt t xf) t = none)
    (hf : okMcvt (fmtOf (s.strand.rx xf)) = false) :
    exec (.mcvt t xf) s = s.finish (s.work.trapWord ⟨1, 5, s.strand.rx xf⟩) := by
  show execMcvt t xf s = _
  simp only [execMcvt, tileWordOn, hc, hf]
  rfl

/-- Settles O25, by the first check of the dispatch that stops the word. -/
theorem vectorWordsAreCheckedFirst : Obligations.VectorWordsAreCheckedFirst := by
  refine ⟨?_, ?_⟩
  · intro t a b xf i s hn hi word
    have stops : ∀ e, s.work.tileChecks i t = some e → TrapsAs (exec i s) s e.code e.sub e.tval := fun e he => by
      rw [exec_tile_trap t a b xf i s e hi he]
      exact trapsAs_trapWord s s.work e (work_fronts s) rfl hn
    refine ⟨fun hw => stops ⟨1, 4, word⟩ ?_, fun hw hu => stops ⟨1, 6, word⟩ ?_, fun hw hu =>
      ⟨fun hx => stops ⟨8, 0, word⟩ ?_, fun hx => ⟨fun ht => stops ⟨1, 7, word⟩ ?_, ?_⟩⟩⟩
    · simp [Work.tileChecks, hw, word, zext]
    · simp [Work.tileChecks, Work.cur, hw, hu, word, zext]
    · simp [Work.tileChecks, Work.cur, hw, hu, hx, word, zext]
    · simp [Work.tileChecks, Work.cur, hw, hu, hx, ht, word, zext]
    · rintro ht rfl hf
      rw [exec_mcvt_format t xf s (by simp [Work.tileChecks, Work.cur, hw, hu, hx, Nat.not_le.2 ht]) hf]
      exact trapsAs_trapWord s s.work ⟨1, 5, s.strand.rx xf⟩ (work_fronts s) rfl hn
  · intro i m s hm hw hc hs hn t p word tileOk fmtOk misplaced operands
    have stops : ∀ e, checkMember t p [] [] = some e → TrapsAs (exec i s) s e.code e.sub e.tval := fun e he => by
      rw [exec_member_trap i m s e hm hw hc hs he]
      exact trapsAs_takeTrap s s.work e (work_fronts s) rfl hn
    have hp : p.member = m := rfl
    have htile : tileOk ↔ m.tileHeld t.g.tiles.length = true := (m.tileHeld_iff _).symm
    have hfmt : fmtOk ↔ (m.fmtReg.isSome && !m.fmtOk t.sew p.fmt) = false := by simp [fmtOk]
    have hspan : (∀ o ∈ operands, ¬misplaced o) ↔ (operands.all fun o => o.spanOk t.sew t.grp) = true := by
      simp only [List.all_eq_true, spanOk_iff]
      rfl
    have hword : zext p.word = word := rfl
    have hmatrix : ¬(m.matrix = true ∧ t.g.nomx = true) → (m.matrix && t.g.nomx) = false := by simp
    have hops : m.reads t.sew p.fmt ++ m.writes t.sew p.fmt = operands := rfl
    simp only [checkMember_alone, hp, hword, hops] at stops ⊢
    refine ⟨fun hu => stops ⟨1, 6, word⟩ ?_, fun hu => ⟨fun hmx hnx => stops ⟨8, 0, word⟩ ?_, fun hx =>
      ⟨fun ht => stops ⟨1, 7, word⟩ ?_, fun ht hsew => stops ⟨1, 6, word⟩ ?_, fun ht hsew => ⟨fun hf => stops ⟨1, 5, p.fw⟩ ?_,
        fun hf hbad => stops ⟨1, 4, word⟩ ?_, fun hf hgood => ⟨fun hex => stops ⟨1, 4, word⟩ ?_, fun hex => ?_⟩⟩⟩⟩⟩
    · simp [hu]
    · simp [hu, hmx, hnx]
    · simp [hu, hmatrix hx, mt htile.2 ht]
    · simp [hu, hmatrix hx, htile.1 ht, hsew]
    · simp [hu, hmatrix hx, htile.1 ht, hsew, mt hfmt.2 hf]
    · have hsome : ¬∀ o ∈ operands, ¬misplaced o := by simpa using hbad
      simp only [hu, hmatrix hx, htile.1 ht, hsew, hfmt.1 hf, eq_false_of_ne_true (mt hspan.2 hsome)]
      rfl
    iterate 2
      simp only [hu, hmatrix hx, htile.1 ht, hsew, hfmt.1 hf, hspan.1 hgood, hex]
      rfl

end Sys2Proof.Machine

/-! PROOFS. Words that name no instruction (O60). -/

namespace Sys2Proof.Machine

/-- What a row of the majors 0x3C to 0x3E performs: the instruction that its selector names, or the trap of a word without one. -/
noncomputable def rowOutcome (w : Nat) (s : State) : Option Instr → Host.Outcome State Fault Refusal
  | none => s.finish (s.work.undecoded (BitVec.ofNat 32 w) .undefined)
  | some i => highRow w (encodeNat i) (exec i) s

/-- A selector's row as its word is performed; none of these rows is a fence of no kind. -/
def RowPerformed (w : Nat) (s : State) (row : Option Instr) (out : Host.Outcome State Fault Refusal) : Prop :=
  out = rowOutcome w s row ∧ row.all (fun i => !zeroFence i) = true

theorem issueAtomic_row (w : Nat) (s : State) : RowPerformed w s (selectAtomic w) (issueAtomic w s) := by
  have hk : w % 32 < 32 := Nat.mod_lt _ (by decide)
  unfold selectAtomic issueAtomic
  generalize w % 32 = k at hk
  by_cases hd : rd w = 0
  · simp only [if_pos hd]
    interval_cases k <;> simp only [RowPerformed] <;> exact ⟨rfl, rfl⟩
  · simp only [if_neg hd]
    interval_cases k <;> simp only [RowPerformed] <;> exact ⟨rfl, rfl⟩

theorem issueStripAtomic_row (w : Nat) (s : State) : RowPerformed w s (selectStripAtomic w) (issueStripAtomic w s) := by
  have hk : w % 8 < 8 := Nat.mod_lt _ (by decide)
  unfold selectStripAtomic issueStripAtomic
  generalize w % 8 = k at hk
  interval_cases k <;> simp only [RowPerformed] <;> exact ⟨rfl, rfl⟩

theorem issueSync_row (w : Nat) (s : State) : RowPerformed w s (selectSync w) (issueSync w s) := by
  have hk : w % 32 < 32 := Nat.mod_lt _ (by decide)
  unfold selectSync issueSync
  generalize w % 32 = k at hk
  interval_cases k <;> simp only [RowPerformed] <;> exact ⟨rfl, rfl⟩

/-- A row that checks 3 and 4 refuse. -/
theorem checkRow_error (w : Nat) (row : Option Instr) (e : DecodeError) (h : checkRow w row = .error e) :
    (row = none ∧ e = .undefined) ∨ ∃ i, row = some i ∧ e = .reserved ∧ (zeroFence i = false → encodeNat i ≠ w) := by
  cases row with
  | none =>
    cases h
    exact .inl ⟨rfl, rfl⟩
  | some i =>
    simp only [checkRow] at h
    split at h
    · cases h
    · rename_i hi
      cases h
      exact .inr ⟨i, rfl, rfl, fun hz hw => hi ⟨hw, hz⟩⟩

/-- A performed row that checks 3 and 4 refuse takes the trap of its word. -/
theorem RowPerformed.refused {x : W32} {s : State} {row : Option Instr} {out : Host.Outcome State Fault Refusal} {e : DecodeError}
    (hr : RowPerformed x.toNat s row out) (h : checkRow x.toNat row = .error e) : out = s.finish (s.work.undecoded x e) := by
  have hx : BitVec.ofNat 32 x.toNat = x := by rw [BitVec.ofNat_toNat, BitVec.setWidth_eq]
  obtain ⟨rfl, hfence⟩ := hr
  rcases checkRow_error _ _ _ h with ⟨rfl, rfl⟩ | ⟨i, rfl, rfl, hne⟩
  · rw [rowOutcome, hx]
  · have hz : zeroFence i = false := by rwa [Option.all_some, Bool.not_eq_true'] at hfence
    rw [rowOutcome, highRow, if_neg (hne hz), hx]

/-- The row of a word outside the majors 0x3C to 0x3E. -/
theorem selectRow_low (w : Nat) (h60 : majorOf w ≠ 0x3C) (h61 : majorOf w ≠ 0x3D) (h62 : majorOf w ≠ 0x3E) :
    selectRow w = selectLow w := by
  unfold selectRow
  split
  · contradiction
  · contradiction
  · contradiction
  · rfl

/-- A word that its own checks 2 to 4 refuse. -/
theorem issueWord_refused (x : W32) (e : DecodeError) (s : State) (h : decodeRaw x = .error e) :
    issueWord exec x s = s.finish (s.work.undecoded x e) := by
  unfold decodeRaw at h
  unfold issueWord
  split at h
  · rename_i hf
    cases h
    simp only [hf, if_true]
  · rename_i hf
    simp only [if_neg hf]
    split
    · rename_i hm
      simp only [selectRow, hm] at h
      exact (issueAtomic_row _ s).refused h
    · rename_i hm
      simp only [selectRow, hm] at h
      exact (issueStripAtomic_row _ s).refused h
    · rename_i hm
      simp only [selectRow, hm] at h
      exact (issueSync_row _ s).refused h
    · rename_i h60 h61 h62
      rw [selectRow_low _ h60 h61 h62] at h
      simp only [h]

/-! ### Words of the scalar class -/

/-- A scalar word that checks 2 to 4 stop, whose convoy's words have been fetched (check 1). -/
theorem undecoded_scalar (x : W32) (e : DecodeError) (s : State) (l : List W32) (k : Work) (hv : vectorClass x.toNat = false)
    (hf : s.work.convoyWords x = .ok (l, k)) : s.work.undecoded x e =
      match e with
      | .framing => k.illegal 2 s.strand.pc
      | .undefined => k.illegal 0 (zext x)
      | .reserved => k.illegal 1 (zext x)
      | .badField => k.illegal 4 (zext x) := by
  simp only [Work.undecoded, hv, hf]
  cases e <;> rfl

theorem trapsAs_illegal (s : State) (w : Work) (sub : Nat) (tval : W64) (hf : w.Fronts s) (ha : w.absent = false)
    (hn : s.strand.nest = false) : TrapsAs (s.finish (w.illegal sub tval)) s 1 sub tval :=
  trapsAs_trapWord s w ⟨1, sub, tval⟩ hf ha hn

/-- A chained word that may not chain breaks its framing (R29). -/
theorem decodeRaw_framing_iff (x : W32) : decodeRaw x = .error .framing ↔ (chained x.toNat && !mayChain x.toNat) = true := by
  unfold decodeRaw
  split
  · simp_all
  · rename_i h
    refine ⟨fun he => ?_, fun hc => absurd hc h⟩
    rcases checkRow_error _ _ _ he with ⟨-, h⟩ | ⟨i, -, h, -⟩ <;> cases h

theorem unchained_of_decodeRaw (x : W32) (e : DecodeError) (hv : vectorClass x.toNat = false) (h : decodeRaw x = .error e)
    (he : e ≠ .framing) : chained x.toNat = false := by
  have hf : ¬(chained x.toNat && !mayChain x.toNat) = true := fun hc => he (by
    rw [(decodeRaw_framing_iff x).2 hc] at h
    cases h
    rfl)
  simpa [mayChain, hv] using hf

/-- A fault of the fetch of the words behind a word goes before what its own checks refuse (check 1). -/
theorem undecoded_fetch_fault (x : W32) (e : DecodeError) (w : Work) (t : Trap) (h : w.convoyWords x = .error t) :
    w.undecoded x e = w.takeTrap false t := by
  simp only [Work.undecoded, convoyOf, h]
  split <;> rfl

/-- An unchained scalar word that check 3 or 4 refuses. -/
theorem trapsAs_undecoded (x : W32) (e : DecodeError) (s : State) (sub : Nat) (hn : s.strand.nest = false)
    (hv : vectorClass x.toNat = false) (h : decodeRaw x = .error e)
    (he : (e = .undefined ∧ sub = 0) ∨ (e = .reserved ∧ sub = 1)) : TrapsAs (issueWord exec x s) s 1 sub (x.setWidth 64) := by
  have hne : e ≠ .framing := by rcases he with ⟨rfl, -⟩ | ⟨rfl, -⟩ <;> simp
  obtain ⟨l, hl⟩ := convoyWords_unchained s.work x (unchained_of_decodeRaw x e hv h hne)
  rw [issueWord_refused x e s h, undecoded_scalar x e s _ _ hv hl]
  rcases he with ⟨rfl, rfl⟩ | ⟨rfl, rfl⟩ <;> exact trapsAs_illegal s s.work _ _ (work_fronts s) rfl hn

/-! ### Words of the vector class -/

/-- The selector of a vector-class word is that of the majors below 0x3C. -/
theorem decodeRaw_vectorClass (x : W32) (hv : vectorClass x.toNat = true) (hf : ¬(chained x.toNat && !mayChain x.toNat) = true) :
    decodeRaw x = decodeMember x := by
  have hrow : selectRow x.toNat = selectLow x.toNat := by
    unfold selectRow
    split <;> rename_i hm <;> simp [vectorClass, hm] at hv ⊢
  rw [decodeRaw, if_neg hf, hrow, decodeMember]

/-- A vector-class word that may chain, or that its own checks refuse, is performed with its convoy (R103). -/
theorem issueWord_convoy (x : W32) (s : State) (hv : vectorClass x.toNat = true)
    (h : mayChain x.toNat = true ∨ chained x.toNat = true ∨ ∃ e, decodeMember x = .error e) :
    issueWord exec x s = s.finish (convoyOf x s.work) := by
  have refused : ∀ e, decodeRaw x = .error e → issueWord exec x s = s.finish (convoyOf x s.work) := fun e he => by
    rw [issueWord_refused x e s he, Work.undecoded, if_pos hv]
  by_cases hf : (chained x.toNat && !mayChain x.toNat) = true
  · exact refused .framing ((decodeRaw_framing_iff x).2 hf)
  · have hraw := decodeRaw_vectorClass x hv hf
    cases hd : decodeMember x with
    | error e => exact refused e (hraw.trans hd)
    | ok i =>
      have hmay : mayChain x.toNat = true := by
        rcases h with h | h | ⟨e, he⟩
        · exact h
        · simpa [h] using hf
        · rw [hd] at he
          cases he
      have hrow : selectLow x.toNat = some i := checkRow_ok _ _ i hd
      have henc : encode i = x := by
        rw [decodeMember, hrow] at hd
        rw [encode, (checkRow_some _ i i hd).1, BitVec.ofNat_toNat, BitVec.setWidth_eq]
      rw [issueWord_decoded x i s (hraw.trans hd), exec_of_member i s (member_of_mayChain _ i hmay hrow), vectorWord, henc]

/-- The fault of a fetch of the words behind a vector-class word is its trap (check 1). -/
theorem convoyOf_fetch_fault (x : W32) (w : Work) (t : Trap) (h : w.convoyWords x = .error t) :
    convoyOf x w = w.takeTrap false t := by
  simp only [convoyOf, h]

theorem chained_of_fetch_fault (x : W32) (w : Work) (t : Trap) (h : w.convoyWords x = .error t) : chained x.toNat = true := by
  by_contra hc
  obtain ⟨l, hl⟩ := convoyWords_unchained w x (by simpa using hc)
  rw [hl] at h
  cases h

/-- The checks of a convoy's members do not read the loop of the strand. -/
theorem placeAll_loop (s : Strand) (p : Option Loop) (l : List W32) (va : W64) (wv wk : List Nat) :
    placeAll { s with loop := p } l va wv wk = placeAll s l va wv wk := by
  induction l generalizing va wv wk with
  | nil => rfl
  | cons x l ih =>
    unfold placeAll
    simp only [ih]
    rfl

/-! A word that its own checks stop, whatever stands before it in its convoy. -/

theorem placeAll_undefined (s : Strand) (y : W32) (post : List W32) (va : W64) (wv wk : List Nat)
    (h : decodeMember y = .error .undefined) : placeAll s (y :: post) va wv wk = .error ⟨1, 0, zext y⟩ := by
  simp only [placeAll, h]

theorem placeAll_reserved (s : Strand) (y : W32) (post : List W32) (va : W64) (wv wk : List Nat)
    (h : decodeMember y = .error .reserved) : placeAll s (y :: post) va wv wk = .error ⟨1, 1, zext y⟩ := by
  simp only [placeAll, h]

theorem placeAll_badField (s : Strand) (y : W32) (post : List W32) (i : Instr) (va : W64) (wv wk : List Nat)
    (h : decodeMember y = .ok i) (hw : i.wf = false) : placeAll s (y :: post) va wv wk = .error ⟨1, 4, zext y⟩ := by
  simp [placeAll, h, hw]

/-- A member that has passed its checks: what stops the words behind it stops the convoy. -/
theorem placeAll_cons_ok (s : Strand) (x : W32) (l : List W32) (va : W64) (wv wk : List Nat) (ps : List Placed)
    (h : placeAll s (x :: l) va wv wk = .ok ps) :
    ∃ v k qs, placeAll s l (va + 4) v k = .ok qs ∧
      ∀ post e, placeAll s post (va + 4) v k = .error e → placeAll s (x :: post) va wv wk = .error e := by
  unfold placeAll at h
  split at h
  · cases h
  · cases h
  · rename_i i hi
    split at h
    · cases h
    · rename_i hw
      split at h
      · cases h
      · rename_i m hm
        simp only at h
        split at h
        · cases h
        · rename_i hc
          split at h
          · cases h
          · rename_i qs hq
            exact ⟨_, _, qs, hq, fun post e he => by simp only [placeAll, hi, if_neg hw, hm, hc, he]⟩

/-- What stops a convoy behind members that have passed their checks stops it whole (R103). -/
theorem placeAll_append_error (s : Strand) (post : List W32) (e : Trap)
    (he : ∀ va wv wk, placeAll s post va wv wk = .error e) (pre : List W32) (va : W64) (wv wk : List Nat) (ps : List Placed)
    (h : placeAll s pre va wv wk = .ok ps) : placeAll s (pre ++ post) va wv wk = .error e := by
  induction pre generalizing va wv wk ps with
  | nil => exact he va wv wk
  | cons x pre ih =>
    obtain ⟨v, k, qs, hq, hcons⟩ := placeAll_cons_ok s x pre va wv wk ps h
    exact hcons _ e (ih (va + 4) v k qs hq)

/-- Settles O60, by the first check that refuses a word. -/
theorem undefinedWordsAreIllegal : Obligations.UndefinedWordsAreIllegal := by
  refine ⟨?_, ?_⟩
  · intro x s hn hv
    refine ⟨fun h => ⟨fun l k hl ha => ?_, fun t ht => ?_⟩, fun h => trapsAs_undecoded x .undefined s 0 hn hv h (.inl ⟨rfl, rfl⟩),
      fun h => trapsAs_undecoded x .reserved s 1 hn hv h (.inr ⟨rfl, rfl⟩), fun h => ?_⟩
    · rw [issueWord_refused x _ s h, undecoded_scalar x _ s l k hv hl]
      exact trapsAs_illegal s k 2 s.strand.pc (convoyWords_fronts s k x l hl) ha hn
    · rw [issueWord_refused x _ s h, undecoded_fetch_fault x _ _ t ht]
      exact trapsAs_takeTrap s s.work t (work_fronts s) rfl hn
    · exact (decodeRaw_framing_iff x).2 (by simp [h, mayChain, hv])
  · intro x s hn hv
    refine ⟨fun t ht => ?_, fun l k hl ha hx => ?_⟩
    · rw [issueWord_convoy x s hv (.inr (.inl (chained_of_fetch_fault x _ t ht))), convoyOf_fetch_fault x _ t ht]
      exact trapsAs_takeTrap s s.work t (work_fronts s) rfl hn
    have hfront := convoyWords_fronts s k x l hl
    obtain ⟨p, hp⟩ := convoyWords_st s.work k x l hl
    have hcur : k.cur = { s.strand with loop := p } := by rw [Work.cur, hp]; rfl
    have hpc : k.cur.pc = s.strand.pc := by rw [hcur]
    have hconvoy : issueWord exec x s = s.finish (runConvoy l k) := by
      rw [issueWord_convoy x s hv hx, convoyOf]
      simp only [hl]
    refine ⟨fun n hb => ?_, fun hb pre y post ps hsplit hpre => ?_⟩
    · rw [hconvoy, runConvoy]
      simp only [hb, hpc]
      exact trapsAs_takeTrap s k ⟨1, 2, _⟩ hfront ha hn
    · have stops : ∀ e, (∀ va wv wk, placeAll s.strand (y :: post) va wv wk = .error e) →
          TrapsAs (issueWord exec x s) s e.code e.sub e.tval := fun e he => by
        have hall : placeAll k.cur l k.cur.pc [] [] = .error e := by
          rw [hcur, hsplit, placeAll_loop]
          exact placeAll_append_error s.strand (y :: post) e he pre s.strand.pc [] [] ps hpre
        rw [hconvoy, runConvoy]
        simp only [hb, hall]
        exact trapsAs_takeTrap s k e hfront ha hn
      exact ⟨fun hy => stops ⟨1, 0, zext y⟩ fun va wv wk => placeAll_undefined _ y post va wv wk hy,
        fun hy => stops ⟨1, 1, zext y⟩ fun va wv wk => placeAll_reserved _ y post va wv wk hy,
        fun i hy hw => stops ⟨1, 4, zext y⟩ fun va wv wk => placeAll_badField _ y post i va wv wk hy hw⟩

end Sys2Proof.Machine

/-! PROOFS. One slab step of a convoy (O22). -/

namespace Sys2Proof.Machine

/-! ### Records of a step -/

@[simp] theorem pipeEvent_strand (s : State) (kind pipe member step : Nat) (b : W64) :
    (s.pipeEvent kind pipe member step b).strand = s.strand := by
  simp only [State.pipeEvent]
  split <;> rfl

/-- The pipe events of a step are records of its core alone. -/
@[simp] theorem tracePipes_cur (w : Work) (l : List Placed) (kind step : Nat) : (w.tracePipes l kind step).cur = w.cur := by
  have fold : ∀ (r : List (Placed × Nat)) (k : Work), (r.foldl (fun (k : Work) (p : Placed × Nat) =>
      k.mod fun s => s.pipeEvent kind (pipeOf p.1.word p.1.fmt) p.2 step w.cur.pc) k).cur = k.cur := by
    intro r
    induction r with
    | nil => exact fun k => rfl
    | cons p r ih => exact fun k => (ih _).trans (pipeEvent_strand ..)
  exact fold l.zipIdx w

@[simp] theorem tracePipes_absent (w : Work) (l : List Placed) (kind step : Nat) :
    (w.tracePipes l kind step).absent = w.absent := by
  have fold : ∀ (r : List (Placed × Nat)) (k : Work), (r.foldl (fun (k : Work) (p : Placed × Nat) =>
      k.mod fun s => s.pipeEvent kind (pipeOf p.1.word p.1.fmt) p.2 step w.cur.pc) k).absent = k.absent := by
    intro r
    induction r with
    | nil => exact fun k => rfl
    | cons p r ih => exact fun k => (ih _).trans rfl
  exact fold l.zipIdx w

/-! ### A step closed -/

@[simp] theorem closeStep_absent (k : Work) (l : List Placed) (step e : Nat) (last : Bool) :
    (k.closeStep l step e last).absent = k.absent := by
  cases last
  · rfl
  · exact tracePipes_absent k l 11 step

/-- The last step of a convoy leaves it (R34). -/
theorem closeStep_last (k : Work) (l : List Placed) (step e : Nat) :
    let t := (k.closeStep l step e true).cur
    t.vslab = 0 ∧ t.vstart = 0 ∧ t.carry = .none ∧ t.done = Vector.replicate 4 0 ∧ t.cvret = k.cur.cvret + 1 ∧
      (k.cur.loop = none → t.pc = k.cur.pc + BitVec.ofNat 64 (4 * l.length)) := by
  intro t
  obtain ⟨x, p, q, hcur, hloop⟩ := retireTo_frame
    ((k.tracePipes l 11 step).upd fun s => { s with vslab := 0, vstart := 0, carry := .none, done := Vector.replicate 4 0, snap := none })
    ((k.tracePipes l 11 step).cur.pc + BitVec.ofNat 64 (4 * l.length))
  have ht : t = _ := hcur
  simp only [Work.upd_cur, tracePipes_cur] at ht hloop
  rw [ht]
  exact ⟨rfl, rfl, rfl, rfl, rfl, fun h => (hloop h).2⟩

/-! ### A step performed -/

/-- The first step behind all the elements, against the elements that a step holds. -/
theorem steps_le_iff (vl e n : Nat) (he : e ≠ 0) : (vl + e - 1) / e ≤ n ↔ vl ≤ n * e := by
  rw [← Nat.lt_succ_iff, Nat.div_lt_iff_lt_mul (by omega), Nat.succ_mul]
  omega

@[simp] theorem resume_snap (s : Strand) (e : Nat) : (s.resume e).snap = s.snap := by
  simp only [Strand.resume]
  split <;> rfl

/-- What a convoy keeps from its dispatch is set once: a later step drops what is read for it. -/
theorem openStep_again (w : Work) (l : List Placed) (trees : List (Nat × Nat)) (h : w.cur.snap.isNone = false) :
    w.openStep l trees = w.openStep l [] := by
  simp only [Work.openStep, Work.upd, h, Bool.false_eq_true, if_false, resume_snap]
  simp only [Work.cur] at h
  simp only [h, Bool.false_eq_true, if_false]

/-- A slab step of members that have passed their checks, read what they read, and perform their elements (R34). -/
theorem runStep_performed (l : List Placed) (w k : Work) (trees : List (Nat × Nat))
    (hfree : w.st.getBlockers (l.flatMap fun p => p.readRegs w.cur.sew w.cur.grp ++ p.writeRegs w.cur.sew w.cur.grp) = [])
    (he : w.cur.epr w.cur.sew ≠ 0) (hleft : w.cur.vslab.toNat * w.cur.epr w.cur.sew < w.cur.vl.toNat)
    (hreads : w.cur.snap.isNone = true → dispatchReads l w = .ok trees)
    (hk : performAll l w.cur.stepLo w.cur.stepHi w.cur.stepLast 0 (w.openStep l trees) = .ok k) :
    runStep l w = k.closeStep l w.cur.vslab.toNat (w.cur.epr w.cur.sew) w.cur.stepLast := by
  have hsteps : ¬(w.cur.epr w.cur.sew = 0 ∨ (w.cur.vl.toNat + w.cur.epr w.cur.sew - 1) / w.cur.epr w.cur.sew ≤ w.cur.vslab.toNat) := by
    rw [steps_le_iff _ _ _ he]
    omega
  have hlast : decide ((w.cur.vl.toNat + w.cur.epr w.cur.sew - 1) / w.cur.epr w.cur.sew ≤ w.cur.vslab.toNat + 1) = w.cur.stepLast := by
    rw [Strand.stepLast, decide_eq_decide, steps_le_iff _ _ _ he, Nat.succ_mul, Strand.stepLo]
  simp only [runStep, hfree, List.isEmpty_nil, Bool.not_true, Bool.false_eq_true, if_false, if_neg hsteps, hlast]
  have hk' : ∀ trees', w.openStep l trees' = w.openStep l trees →
      performAll l (w.cur.vslab.toNat * w.cur.epr w.cur.sew)
        (min w.cur.vl.toNat (w.cur.vslab.toNat * w.cur.epr w.cur.sew + w.cur.epr w.cur.sew)) w.cur.stepLast 0
        (w.openStep l trees') = .ok k := fun trees' h => by rw [h]; exact hk
  cases hs : w.cur.snap.isNone with
  | true => simp only [if_true, hreads hs, hk' trees rfl]
  | false => simp only [Bool.false_eq_true, if_false, hk' [] (openStep_again w l trees hs).symm]

/-- A step closed answers a next state: behind the convoy with its last step, else at its next one (R34). -/
theorem finish_closeStep (s : State) (k : Work) (l : List Placed) (step e : Nat) (last : Bool) (ha : k.absent = false) :
    ∃ u, s.finish (k.closeStep l step e last) = .next u ∧ u = s.commit (k.closeStep l step e last) ∧
      (last = true → u.strand.vslab = 0 ∧ u.strand.vstart = 0 ∧ u.strand.carry = .none ∧
        u.strand.done = Vector.replicate 4 0 ∧ u.strand.cvret = k.cur.cvret + 1 ∧
        (k.cur.loop = none → u.strand.pc = k.cur.pc + BitVec.ofNat 64 (4 * l.length))) ∧
      (last = false → u.strand.vslab = BitVec.ofNat 64 (step + 1) ∧ u.strand.pc = k.cur.pc ∧
        u.strand.vstart = BitVec.ofNat 64 ((step + 1) * e) ∧ u.strand.cvret = k.cur.cvret) := by
  refine ⟨_, State.finish_next _ _ (by rw [closeStep_absent, ha]), rfl, ?_, ?_⟩
  · rintro rfl
    rw [commit_strand]
    exact closeStep_last k l step e
  · rintro rfl
    rw [commit_strand]
    exact ⟨rfl, rfl, rfl, rfl⟩

/-- A member's word runs a slab step of the convoy that it begins, once its words are fetched, framed and placed. -/
theorem exec_convoy (i : Instr) (s : State) (words : List W32) (w k : Work) (l : List Placed) (trees : List (Nat × Nat))
    (hi : (memberOf i).isSome = true) (hw : s.work.convoyWords (encode i) = .ok (words, w)) (hb : badFrame 0 [] [] words = none)
    (hl : placeAll s.strand words s.strand.pc [] [] = .ok l) (he : s.strand.epr s.strand.sew ≠ 0)
    (hleft : s.strand.vslab.toNat * s.strand.epr s.strand.sew < s.strand.vl.toNat)
    (hfree : s.getBlockers (l.flatMap fun p => p.readRegs s.strand.sew s.strand.grp ++ p.writeRegs s.strand.sew s.strand.grp) = [])
    (hreads : s.strand.snap.isNone = true → dispatchReads l w = .ok trees)
    (hk : performAll l s.strand.stepLo s.strand.stepHi s.strand.stepLast 0 (w.openStep l trees) = .ok k) :
    exec i s = s.finish (k.closeStep l s.strand.vslab.toNat (s.strand.epr s.strand.sew) s.strand.stepLast) := by
  obtain ⟨p, hp⟩ := convoyWords_st s.work w (encode i) words hw
  have hcur : w.cur = { s.strand with loop := p } := by rw [Work.cur, hp]; rfl
  have hrun : runStep l w = k.closeStep l w.cur.vslab.toNat (w.cur.epr w.cur.sew) w.cur.stepLast := by
    apply runStep_performed l w k trees
    · rw [hp, hcur]
      exact hfree
    all_goals rw [hcur]
    · exact he
    · exact hleft
    · exact hreads
    · exact hk
  have hplace : placeAll w.cur words w.cur.pc [] [] = .ok l := by
    rw [hcur, placeAll_loop]
    exact hl
  rw [exec_of_member i s hi, vectorWord, convoyOf]
  simp only [hw, runConvoy, hb, hplace, hrun]
  rw [hcur]
  rfl

/-- Settles O22: a slab step of a convoy, and of an unchained word as the convoy of itself. -/
theorem vectorWordsRunOneStep : Obligations.VectorWordsRunOneStep := by
  intro i s k t e ends
  have close : ∀ l, exec i s = s.finish (k.closeStep l t.vslab.toNat e t.stepLast) → k.absent = false → ends l := fun l hx ha => by
    have h := finish_closeStep s k l t.vslab.toNat e t.stepLast ha
    rwa [← hx] at h
  refine ⟨fun words w l trees hi hw hb hl he hleft hfree hreads hk ha =>
    close l (exec_convoy i s words w k l trees hi hw hb hl he hleft hfree hreads hk) ha, ?_⟩
  intro m trees hready p c hopens hk ha
  have hi : (memberOf i).isSome = true := by simp [hready.member]
  have hx : chained (encode i).toNat = false := by rw [toNat_encode_of_member i hi hready.wf, hready.alone]
  refine close [p] (exec_convoy i s [encode i] s.work k [p] trees hi (convoyWords_alone s _ hx hready.same)
    (badFrame_alone _ hx) ?_ hready.lanes hready.left ?_ ?_ ?_) ha
  · rw [placeAll_alone s.strand i m s.strand.pc hready.member hready.wf, hready.checks]
  · simpa using hready.copies
  · intro hs
    have ho : p.member.onDispatch p.fmt s.work = .ok trees := hopens hs
    simp [dispatchReads, ho]
  · have hp : p.member.perform c ((s.work.openStep [p] trees).touchMember p c) = .ok k := hk
    have hc : c = ⟨s.strand.stepLo, s.strand.stepHi, s.strand.stepLast, p.fmt, p.member.k, 0, false⟩ := rfl
    rw [hc] at hp
    simp only [performAll, p, t] at hp ⊢
    simp only [hp]

end Sys2Proof.Machine

/-! PROOFS. `vlset` opens a strip (O21). -/

namespace Sys2Proof.Machine

/-! ### Lanes and VLMAX -/

theorem lanesFrom_length_le (n : Nat) (m : BitVec 16) : (lanesFrom n m).length ≤ n := by
  induction n with
  | zero => rfl
  | succ n ih =>
    simp only [lanesFrom, List.length_append]
    split <;> simp <;> omega

/-- A group holds at most the sixteen lane groups of its core. -/
theorem heldLanes_length_le (c : Core) (g : Place) : (c.heldLanes g).length ≤ 16 := by
  have hall : (c.lanesFor g).length ≤ 16 := by
    simp only [Core.lanesFor]
    split
    · exact (List.length_filter_le ..).trans (lanesFrom_length_le ..)
    · split
      · exact (List.length_filter_le ..).trans (lanesFrom_length_le ..)
      · exact lanesFrom_length_le ..
  simp only [Core.heldLanes]
  split
  · exact (List.length_filter_le ..).trans hall
  · exact hall

/-- VLMAX fits into `vl` (R140). -/
theorem vlmaxOf_lt (gc sew : BitVec 2) (n : Nat) (h : n ≤ 16) : vlmaxOf (8 * 2 ^ sew.toNat) (2 ^ gc.toNat) n < 2 ^ 64 := by
  have hg : 2 ^ gc.toNat ≤ 2 ^ 3 := Nat.pow_le_pow_right (by decide) (by have := gc.isLt; omega)
  calc vlmaxOf (8 * 2 ^ sew.toNat) (2 ^ gc.toNat) n ≤ 4 * 2 ^ gc.toNat * 64 * n * 8 := Nat.div_le_self ..
    _ ≤ 4 * 2 ^ 3 * 64 * 16 * 8 := by gcongr
    _ < 2 ^ 64 := by decide

/-- The `vl` of a strip: what is requested, VLMAX at most. -/
theorem vl_eq_min (request : W64) (most : Nat) (h : most < 2 ^ 64) :
    (if request.toNat < (BitVec.ofNat 64 most).toNat then request else BitVec.ofNat 64 most) =
      BitVec.ofNat 64 (min request.toNat most) := by
  rw [BitVec.toNat_ofNat, Nat.mod_eq_of_lt h]
  split
  · rw [Nat.min_eq_left (by omega), BitVec.ofNat_toNat, BitVec.setWidth_eq]
  · rw [Nat.min_eq_right (by omega)]

/-- `vtype` as `vlset` writes it (Table 5.22). -/
theorem vtype_fields : ∀ gc sew : BitVec 2, let n := (BitVec.ofNat 64 (gc.toNat * 4 + sew.toNat)).toNat
    bitsAt n 0 2 = sew.toNat ∧ bitsAt n 2 2 = gc.toNat ∧ bitAt n 63 = false := by decide

/-! ### The strip -/

/-- What `vlset` makes of the strand, its strip store buffer drained: the checkpoint is taken before x(d) is written (R140 to R144). -/
def Strand.openedStrip (t : Strand) (held : List Nat) (lower : Bool) (d a : Reg) (gc sew : BitVec 2) : Strand :=
  let t0 := if t.g.recl then { t with v := Vector.replicate 32 0, k := Vector.replicate 4 0 } else t
  let vl := BitVec.ofNat 64 (min (t.rx a).toNat (vlmaxOf (8 * 2 ^ sew.toNat) (2 ^ gc.toNat) held.length))
  ({ t0 with
    wg := held, ckpt := some t.checkpoint, stripPc := t.pc, rewound := t.rewound && (t.redo && decide (t.pc = t.stripPc)), redo := false,
    reclaimed := t.reclaimed || lower, vl := vl, vtype := BitVec.ofNat 64 (gc.toNat * 4 + sew.toNat),
    vstart := 0, vslab := 0, liveV := 0, liveK := 0, liveT := 0, wrV := 0, wrK := 0, wrT := 0, buffering := true }).wx d vl

theorem upd_congr (w : Work) (f g : Strand → Strand) (h : f w.cur = g w.cur) : w.upd f = w.upd g :=
  congrArg (fun t => { w with st := { w.st with strand := t } }) h

/-- `vlset` whose strip store buffer can drain opens a strip and completes. -/
theorem exec_vlset_open (d a : Reg) (gc sew : BitVec 2) (s : State) (h : s.work.bufWait = none) :
    let c := s.core s.strand.g.core
    exec (.vlset d a gc sew) s = s.finish
      (s.work.drain.upd fun t => t.openedStrip (c.heldLanes s.strand.g) (lowerOnly c s.strand.g) d a gc sew).retire := by
  intro c
  have hlen := vlmaxOf_lt gc sew _ (heldLanes_length_le c s.strand.g)
  have hg : s.work.drain.cur.g = s.strand.g := by
    obtain ⟨p, r, hdrain⟩ := s.work.drain_cur
    rw [hdrain]
    rfl
  simp only [exec_vlset, execVlset, State.drained, h]
  congr 2
  apply upd_congr
  generalize s.work.drain.cur = t at hg
  simp only [Strand.openedStrip, ← vl_eq_min _ _ hlen, hg]
  cases s.strand.g.recl <;> simp only [if_true, Bool.false_eq_true, if_false, hg] <;> rfl

/-- A strip opens alike whether the buffer before it held stores or not. -/
theorem openedStrip_drained (t : Strand) (p : List Pend) (r : List FarStore) (held : List Nat) (lower : Bool) (d a : Reg)
    (gc sew : BitVec 2) :
    ({ t with buf := [], buffering := false, pend := p, remotes := r } : Strand).openedStrip held lower d a gc sew =
      { t.openedStrip held lower d a gc sew with buf := [], pend := p, remotes := r } := by
  simp only [Strand.openedStrip, Strand.wx]
  cases t.g.recl <;> split <;> rfl

/-- The strand that `vlset` leaves: the strip opened and the buffer drained, with the registers, pc and loop of a retired word. -/
theorem vlset_frame (w : Work) (held : List Nat) (lower : Bool) (d a : Reg) (gc sew : BitVec 2) :
    let o := w.cur.openedStrip held lower d a gc sew
    ∃ p r x q l, ((w.drain.upd fun t => t.openedStrip held lower d a gc sew).retire).cur =
        { o with buf := [], pend := p, remotes := r, x := x, pc := q, loop := l,
                 waiting := .none, waitT := 0, cvret := o.cvret + 1, started := true } ∧
      (w.cur.loop = none → x = o.x) := by
  intro o
  obtain ⟨p, r, hdrain⟩ := w.drain_cur
  have hopen : (w.drain.upd fun t => t.openedStrip held lower d a gc sew).cur =
      { o with buf := [], pend := w.cur.pend ++ p, remotes := r } := by
    rw [Work.upd_cur, hdrain, openedStrip_drained]
  obtain ⟨x, q, l, hret, hloop⟩ := retireTo_frame (w.drain.upd fun t => t.openedStrip held lower d a gc sew)
    ((w.drain.upd fun t => t.openedStrip held lower d a gc sew).cur.pc + 4)
  refine ⟨w.cur.pend ++ p, r, x, q, l, hret.trans (by rw [hopen]), fun h => (hloop ?_).1.trans (by rw [hopen])⟩
  rw [hopen]
  simp only [o, Strand.openedStrip, Strand.wx_loop]
  split <;> exact h

/-- The special registers that `vlset` leaves: all but `vtype`. -/
theorem openedStrip_specials (t : Strand) (held : List Nat) (lower : Bool) (d a : Reg) (gc sew : BitVec 2) :
    let o := t.openedStrip held lower d a gc sew
    o.fflags = t.fflags ∧ o.specials.2.2 = t.specials.2.2 := by
  simp only [Strand.openedStrip, Strand.specials, Strand.wx]
  cases t.g.recl <;> split <;> exact ⟨rfl, rfl⟩

/-- The vector side of a group whose lanes may be reclaimed is cleared, that of any other stays (R26, R144). -/
theorem openedStrip_vectors (t : Strand) (held : List Nat) (lower : Bool) (d a : Reg) (gc sew : BitVec 2) :
    let o := t.openedStrip held lower d a gc sew
    (t.g.recl = false → o.v = t.v ∧ o.k = t.k) ∧
      (t.g.recl = true → o.v = Vector.replicate 32 0 ∧ o.k = Vector.replicate 4 0) := by
  simp only [Strand.openedStrip, Strand.wx_v, Strand.wx_k]
  constructor <;> intro h <;> simp [h]

theorem rk_of_cleared (t : Strand) (h : t.k = Vector.replicate 4 0) (n : BitVec 2) (hn : n ≠ 0) : t.rk n = 0 := by
  rw [Strand.rk, if_neg hn]
  simp [h]

theorem openedStrip_vtype (t : Strand) (held : List Nat) (lower : Bool) (d a : Reg) (gc sew : BitVec 2) :
    (t.openedStrip held lower d a gc sew).vtype = BitVec.ofNat 64 (gc.toNat * 4 + sew.toNat) := Strand.wx_vtype ..

theorem mem_fromTo (n lo hi : Nat) : n ∈ fromTo lo hi ↔ lo ≤ n ∧ n < hi := by
  simp only [fromTo, List.mem_map, List.mem_range]
  exact ⟨fun ⟨k, hk, hn⟩ => by omega, fun h => ⟨n - lo, by omega, by omega⟩⟩

/-- The strip checkpoint outside a loop: the registers that `ckmask` names, and no loop (R140). -/
theorem checkpoint_outside_loop (t : Strand) (h : t.loop = none) : t.checkpoint.loop = none ∧
    ∀ n v, (n, v) ∈ t.checkpoint.xs ↔ 0 < n ∧ n < 32 ∧ t.ckmask.getLsbD n = true ∧ v = t.rx (BitVec.ofNat 5 n) := by
  refine ⟨by simp [Strand.checkpoint, h], fun n v => ?_⟩
  simp only [Strand.checkpoint, Strand.ckRegs, h, List.append_nil, List.mem_map, List.mem_filter, mem_fromTo, Prod.mk.injEq]
  constructor
  · rintro ⟨m, ⟨⟨hlo, hhi⟩, hm⟩, rfl, rfl⟩
    exact ⟨hlo, hhi, hm, rfl⟩
  · rintro ⟨hlo, hhi, hm, rfl⟩
    exact ⟨n, ⟨⟨hlo, hhi⟩, hm⟩, rfl, rfl⟩

/-- Settles O21, from the strand that `vlset` leaves. -/
theorem vlsetOpensAStrip : Obligations.VlsetOpensAStrip := by
  intro d a gc sew s held vlmax vl
  refine ⟨fun hbuf => ?_, fun k hk => ?_⟩
  · obtain ⟨p, r, x, q, l, hcur, hx⟩ := vlset_frame s.work held (lowerOnly (s.core s.strand.g.core) s.strand.g) d a gc sew
    obtain ⟨hsew, hgrp, hunset⟩ := vtype_fields gc sew
    refine ⟨_, (exec_vlset_open d a gc sew s hbuf).trans (State.finish_next _ _ (drain_absent s.work)), ?_⟩
    rw [commit_strand, hcur]
    obtain ⟨hflags, hspecials⟩ :=
      openedStrip_specials s.strand held (lowerOnly (s.core s.strand.g.core) s.strand.g) d a gc sew
    obtain ⟨hkeep, hclear⟩ :=
      openedStrip_vectors s.strand held (lowerOnly (s.core s.strand.g.core) s.strand.g) d a gc sew
    have hvtype := openedStrip_vtype s.strand held (lowerOnly (s.core s.strand.g.core) s.strand.g) d a gc sew
    refine ⟨Strand.wx_vl .., fun hl => ?_, ?_, ?_, ?_, Strand.wx_vslab .., Strand.wx_vstart .., Strand.wx_wg .., Strand.wx_buffering ..,
      rfl, Strand.wx_liveV .., Strand.wx_liveK .., Strand.wx_liveT .., Strand.wx_stripPc .., ?_, ?_, hkeep, fun hr => ?_, hflags,
      hspecials⟩
    · rw [hx hl]
      refine (Strand.rx_wx _ d d vl).trans ?_
      by_cases hd : d = 0
      · subst hd
        rfl
      · rw [if_pos ⟨rfl, hd⟩, if_neg hd]
    · exact (congrArg (fun v : W64 => 8 * 2 ^ bitsAt v.toNat 0 2) hvtype).trans (by simp only [hsew])
    · exact (congrArg (fun v : W64 => 2 ^ bitsAt v.toNat 2 2) hvtype).trans (by simp only [hgrp])
    · exact (congrArg (fun v : W64 => bitAt v.toNat 63) hvtype).trans hunset
    · exact ⟨s.strand.checkpoint, Strand.wx_ckpt .., rfl, rfl, rfl, checkpoint_outside_loop s.strand⟩
    · exact (Strand.wx_rewound ..).trans (Bool.and_assoc ..).symm
    · obtain ⟨hv, hk⟩ := hclear hr
      exact ⟨hv, rk_of_cleared _ hk⟩
  · refine ⟨s.withStrand { s.strand with waiting := k }, ?_, rfl, fun g b => by cases g <;> rfl⟩
    simp only [exec_vlset, execVlset, State.drained, hk]
    exact (State.finish_next s _ rfl).trans (congrArg _ (commit_upd_work s fun t => { t with waiting := k }))

end Sys2Proof.Machine

/-! PROOFS. Events that write a core's registers, its trace ring and its scratchpad banks (O42). -/

namespace Sys2Proof.Machine

/-! ### The cores of a state -/

theorem coreOf_id (l : List Core) (idle : W64) (n : Nat) : (coreOf l idle n).id = n := by
  induction l with
  | nil => rfl
  | cons k l ih =>
    simp only [coreOf]
    split
    · assumption
    · exact ih

@[simp] theorem State.core_id (s : State) (n : Nat) : (s.core n).id = n := coreOf_id ..

theorem coreOf_upsert (l : List Core) (idle : W64) (k : Core) (n : Nat) :
    coreOf (upsert (fun e => decide (e.id = k.id)) k l) idle n = if k.id = n then k else coreOf l idle n := by
  induction l with
  | nil => rfl
  | cons e l ih =>
    simp only [upsert, decide_eq_true_eq]
    by_cases he : e.id = k.id
    · simp only [he, if_true, coreOf]
      split <;> rfl
    · simp only [he, if_false, coreOf, ih]
      by_cases hn : e.id = n
      · simp only [hn, if_true, if_neg (show ¬ k.id = n from fun h => he (hn.trans h.symm))]
      · simp only [hn, if_false]

/-- A core read back from a state where one was set. -/
theorem State.core_setCore (s : State) (k : Core) (n : Nat) : (s.setCore k).core n = if k.id = n then k else s.core n :=
  coreOf_upsert ..

/-- Two states of a core that differ in its dirty blocks at most: what a scratchpad write leaves of a core (R261, R263). -/
def Core.SameButDirty (c d : Core) : Prop := ∃ sealed taken, d = { c with dirtySeal := sealed, dirtyTake := taken }

theorem Core.SameButDirty.refl (c : Core) : c.SameButDirty c := ⟨c.dirtySeal, c.dirtyTake, rfl⟩

theorem Core.SameButDirty.trans {c d e : Core} (h : c.SameButDirty d) (k : d.SameButDirty e) : c.SameButDirty e := by
  obtain ⟨a, b, rfl⟩ := h
  obtain ⟨a', b', rfl⟩ := k
  exact ⟨a', b', rfl⟩

theorem markDirty_core (s : State) (a l n : Nat) : (s.core n).SameButDirty ((markDirty s a l).core n) := by
  unfold markDirty
  split
  · exact .refl _
  · rw [State.core_setCore]
    split
    · next h =>
      simp only [State.core_id] at h
      subst h
      exact ⟨_, _, rfl⟩
    · exact .refl _

theorem withMem_core (s : State) (t : Tgt) (m : Mem) (n : Nat) : (s.withMem t m).core n = s.core n := by
  cases t <;> rfl

theorem scratchpadPut_core (s : State) (a : Nat) (bs : List Byte) (o : BitVec 12) (raw : Bool) (n : Nat) :
    (s.core n).SameButDirty ((applyWrite s (.put .sp a bs o raw)).core n) := by
  simp only [applyWrite, withMem_core]
  split
  · exact .refl _
  · exact markDirty_core ..

/-! ### Events that write no byte -/

/-- A step in the making that stands as it began leaves the state as it is. -/
theorem finish_work (s : State) : s.finish s.work = .next s := by
  rw [State.finish_next s s.work rfl, State.commit_nil s s.work rfl]
  simp [State.base, State.wakes, State.work]

/-- A step that changes the state beside the memories leaves that state, with every byte as it was. -/
theorem finish_mod (s : State) (f : State → State) : s.finish (s.work.mod f) = .next (s.base (s.work.mod f)) := by
  rw [State.finish_next s (s.work.mod f) rfl, State.commit_nil s (s.work.mod f) rfl]

theorem sameBytes_base (s : State) (w : Work) : s.sameBytes (s.base w) := fun g a => by rw [memOf_base]

/-- A step that sets a core of the state it found. -/
theorem finish_setCore (s : State) (n : Nat) (f : State → Core) (h : (f s).id = n) :
    ∃ t, s.finish (s.work.mod fun u => u.setCore (f u)) = .next t ∧ t.core n = f s ∧ s.sameBytes t := by
  refine ⟨_, finish_mod .., ?_, sameBytes_base _ _⟩
  exact (State.core_setCore s (f s) n).trans (if_pos h)

/-! ### The trace ring -/

theorem record_id (c : Core) (kind hs : Nat) (half : Bool) (a : Nat) (b : W64) : (c.record kind hs half a b).id = c.id := by
  simp only [Core.record]
  split
  · rfl
  · split <;> rfl

/-- The newest record of a ring that is not frozen is the one just put there. -/
theorem record_head (c : Core) (kind hs : Nat) (half : Bool) (a : Nat) (b : W64) (h : c.trcFrz = false) (ha : a < 2 ^ 32) :
    ((c.record kind hs half a b).ring.head?.map fun r => (r.kind, r.a, r.b)) = some (kind, a, b) := by
  simp only [Core.record, h, Bool.false_eq_true, if_false]
  simp only [List.take_succ_cons, List.head?_cons, Option.map_some, Nat.mod_eq_of_lt ha]

theorem trcctlMark_records (core : Nat) (mark : BitVec 16) (s : State) (hm : mark ≠ 0) (hf : (s.core core).trcFrz = false) :
    ∃ t, exec (.trcctlMark core mark) s = .next t ∧ s.sameBytes t ∧
      ((t.core core).ring.head?.map fun r => (r.kind, r.a, r.b)) = some (12, mark.toNat, (s.core core).cycle) := by
  obtain ⟨t, he, hc, hb⟩ := finish_setCore s core
    (fun t => (t.core core).record 12 0 false mark.toNat (t.core core).cycle) (by simp [record_id])
  refine ⟨t, ?_, hb, ?_⟩
  · rw [← he]
    exact congrArg s.finish (if_neg hm)
  · rw [hc]
    exact record_head _ _ _ _ _ _ hf (by have := mark.isLt; omega)

theorem trcctlClr_clears (core : Nat) (s : State) :
    ∃ t, exec (.trcctlClr core) s = .next t ∧ (t.core core).ring = [] ∧ (t.core core).trcWraps = 0 ∧
      (t.core core).trcHead = 0 ∧ (t.core core).pevDrop = 0 ∧ s.sameBytes t := by
  obtain ⟨t, he, hc, hb⟩ := finish_setCore s core (fun t => (t.core core).clearRing) (State.core_id s core)
  refine ⟨t, he, ?_⟩
  rw [hc]
  exact ⟨rfl, rfl, rfl, rfl, hb⟩

/-! ### The copy-out of the ring (R365) -/

/-- Writes put one after the other join the writes of the step in their order. -/
theorem foldl_put {α : Type} (f : α → Write) (l : List α) (w : Work) :
    l.foldl (fun k a => k.put (f a)) w = { w with ws := w.ws ++ l.map f } := by
  induction l generalizing w with
  | nil => simp
  | cons a l ih =>
    rw [List.foldl_cons, ih]
    simp [Work.put]

theorem length_leBytes (n v : Nat) : (leBytes n v).length = n := by
  induction n generalizing v with
  | zero => rfl
  | succ n ih => simp [leBytes, ih]

theorem length_recBytes (r : TraceRec) : (recBytes r).length = 16 := by simp [recBytes, length_leBytes]

/-- A ring's places: 1,024 of 16 bytes. -/
theorem length_ringBytes (c : Core) (half : Bool) (h : c.ring.length ≤ 1024) : (ringBytes c half).length = 1024 := by
  simp [ringBytes]
  omega

theorem length_of_mem_ringBytes (c : Core) (half : Bool) (p : List Byte) (h : p ∈ ringBytes c half) : p.length = 16 := by
  simp only [ringBytes, List.mem_append, List.mem_map, List.mem_replicate] at h
  obtain ⟨r, -, rfl⟩ | ⟨-, rfl⟩ := h
  · split
    · exact length_recBytes r
    · simp
  · simp

/-- Bytes that read as a list does, one by one, are read as that list. -/
theorem readN_eq (m : Mem) (a : Nat) (bs : List Byte) (h : ∀ i < bs.length, Mem.read m (a + i) = bs.getD i 0) :
    Mem.readN m a bs.length = bs := by
  induction bs generalizing a with
  | nil => rfl
  | cons b bs ih =>
    have hb : Mem.read m a = b := h 0 (by simp)
    have hrest : Mem.readN m (a + 1) bs.length = bs := by
      apply ih
      intro i hi
      have hnext := h (i + 1) (by simp only [List.length_cons]; omega)
      rwa [show a + (i + 1) = a + 1 + i by omega] at hnext
    simp only [List.length_cons, Mem.readN, hb, hrest]

/-- The write of one place of a ring that is copied out to an address. -/
def placeWrite (base : Nat) (p : List Byte × Nat) : Write := .put .sp (base + 16 * p.2) p.1 0 false

/-- The memories and cores that places leave that are written one after the other, from a place on. -/
theorem placeWrites_leave (base n : Nat) (l : List (List Byte)) (s : State) (hl : ∀ p ∈ l, p.length = 16) :
    let t := ((l.zipIdx n).map (placeWrite base)).foldl applyWrite s
    (∀ c, (s.core c).SameButDirty (t.core c)) ∧
    s.sameBytesBut t .sp (base + 16 * n) (16 * l.length) ∧
    ∀ j, j < l.length → Mem.readN t.sp (base + 16 * (n + j)) 16 = l.getD j [] := by
  induction l generalizing n s with
  | nil => exact ⟨fun c => .refl _, fun h b _ => rfl, fun j hj => absurd hj (by simp)⟩
  | cons p l ih =>
    have hp : p.length = 16 := hl p (by simp)
    obtain ⟨hcores, hrest, hplaces⟩ := ih (n + 1) (applyWrite s (placeWrite base (p, n))) fun q hq => hl q (by simp [hq])
    have hone : ∀ g b, Mem.read ((applyWrite s (placeWrite base (p, n))).memOf g) b =
        if g = .sp ∧ base + 16 * n ≤ b ∧ b < base + 16 * n + 16 then p.getD (b - (base + 16 * n)) 0 else Mem.read (s.memOf g) b := by
      intro g b
      simp only [placeWrite, memOf_applyWrite]
      by_cases hg : g = .sp
      · simp only [hg, if_true, Mem.read_write, hp, true_and]
      · simp only [hg, if_false, false_and]
    simp only [List.zipIdx_cons, List.map_cons, List.foldl_cons, List.length_cons]
    refine ⟨fun c => .trans (scratchpadPut_core ..) (hcores c), ?_, ?_⟩
    · intro g b hb
      rw [hrest g b (by rintro ⟨hg, h1, h2⟩; exact hb ⟨hg, by omega, by omega⟩), hone, if_neg]
      rintro ⟨hg, h1, h2⟩
      exact hb ⟨hg, by omega, by omega⟩
    · intro j hj
      cases j with
      | succ j =>
        rw [show n + (j + 1) = n + 1 + j by omega]
        exact hplaces j (by omega)
      | zero =>
        have hread := readN_eq
          ((((l.zipIdx (n + 1)).map (placeWrite base)).foldl applyWrite (applyWrite s (placeWrite base (p, n)))).memOf .sp)
          (base + 16 * n) p
        rw [hp] at hread
        refine hread fun i hi => ?_
        rw [hrest .sp _ (by rintro ⟨-, h1, -⟩; omega), hone, if_pos ⟨rfl, by omega, by omega⟩]
        congr 1
        omega

/-- A copy-out that nothing refuses puts the ring's places into the scratchpad. -/
theorem ringCopy_writes (s : State) (core ofs : Nat) (half : Bool) (h : (s.core core).copyLeaves half ofs = false) :
    s.work.ringCopy core half ofs =
      { s.work with ws := (ringBytes (s.core core) half).zipIdx.map (placeWrite (core * 2 ^ 22 + ofs)) } := by
  have hw : s.work.st = s := rfl
  simp only [Work.ringCopy, hw, h, Bool.false_eq_true, if_false]
  exact (foldl_put (placeWrite (core * 2 ^ 22 + ofs)) _ s.work).trans rfl

/-- A step that puts places one after the other and sets a core leaves that core but for its dirty blocks, the bytes of those places, and every
other byte as it was. -/
theorem finish_placeWrites (s : State) (core base : Nat) (l : List (List Byte)) (c : Core) (hid : c.id = core)
    (hl : ∀ p ∈ l, p.length = 16) :
    ∃ t, s.finish (({ s.work with ws := l.zipIdx.map (placeWrite base) } : Work).mod fun u => u.setCore c) = .next t ∧
      c.SameButDirty (t.core core) ∧ s.sameBytesBut t .sp base (16 * l.length) ∧
      ∀ j, j < l.length → Mem.readN t.sp (base + 16 * j) 16 = l.getD j [] := by
  let w : Work := ({ s.work with ws := l.zipIdx.map (placeWrite base) } : Work).mod fun u => u.setCore c
  obtain ⟨hcores, hrest, hplaces⟩ := placeWrites_leave base 0 l (s.base w) hl
  have hbase : (s.base w).core core = c := (State.core_setCore s c core).trans (if_pos hid)
  refine ⟨s.commit w, State.finish_next s w rfl, ?_, ?_, ?_⟩
  · have hc := hcores core
    rwa [hbase] at hc
  · intro g b hb
    exact (hrest g b (by simpa using hb)).trans (congrArg (Mem.read · b) (memOf_base s w g))
  · intro j hj
    have hread := hplaces j hj
    rwa [Nat.zero_add] at hread

theorem exec_trcctlCopy_of_free (core : Nat) (s : State) (h : s.ringHeld core = false) :
    exec (.trcctlCopy core) s = s.finish ((s.work.ringCopy core false ((s.core core).trcOfs.toNat * 64)).mod fun t =>
      t.setCore { t.core core with trcCopyErr := (s.core core).copyLeaves false ((s.core core).trcOfs.toNat * 64) }) := by
  simp only [exec_trcctlCopy, execTrcctlCopy, h, Bool.false_eq_true, if_false]

theorem trcctlCopy_copies (core : Nat) (s : State) :
    let c := s.core core
    let base := core * 2 ^ 22 + c.trcOfs.toNat * 64
    c.halves = none → s.ringHeld core = false → c.trcOfs.toNat * 64 + 16384 ≤ 2 ^ 22 → c.ring.length ≤ 1024 →
    ∃ t, exec (.trcctlCopy core) s = .next t ∧ (t.core core).trcCopyErr = false ∧ s.sameBytesBut t .sp base 16384 ∧
      ∀ j, j < 1024 → Mem.readN t.sp (base + 16 * j) 16 = (ringBytes c false).getD j [] := by
  intro c base hhalves hheld hfits hring
  have hleaves : c.copyLeaves false (c.trcOfs.toNat * 64) = false := by
    simp only [Core.copyLeaves, hhalves, Option.isSome_none, Bool.false_and, Bool.or_false, decide_eq_false_iff_not]
    omega
  obtain ⟨t, he, hc, hrest, hplaces⟩ := finish_placeWrites s core base (ringBytes c false)
    { c with trcCopyErr := false } (State.core_id s core) (length_of_mem_ringBytes c false)
  rw [length_ringBytes c false hring] at hrest hplaces
  refine ⟨t, ?_, ?_, hrest, hplaces⟩
  · rw [exec_trcctlCopy_of_free core s hheld, ringCopy_writes s core _ false hleaves, hleaves]
    exact he
  · obtain ⟨sealed, taken, hdirty⟩ := hc
    rw [hdirty]

theorem trcctlCopy_refused (core : Nat) (s : State) (h : 2 ^ 22 < (s.core core).trcOfs.toNat * 64 + 16384) :
    ∃ t, exec (.trcctlCopy core) s = .next t ∧ (t.core core).trcCopyErr = true ∧ s.sameBytes t := by
  have hleaves : (s.core core).copyLeaves false ((s.core core).trcOfs.toNat * 64) = true := by
    simp only [Core.copyLeaves, h, decide_true, Bool.true_or]
  have hheld : s.ringHeld core = false := by
    simp only [State.ringHeld, hleaves, Bool.not_true, Bool.false_and]
  have hnone : s.work.ringCopy core false ((s.core core).trcOfs.toNat * 64) = s.work := by
    simp only [Work.ringCopy, show s.work.st = s from rfl, hleaves, if_true]
  obtain ⟨t, he, hc, hb⟩ := finish_setCore s core
    (fun t => { t.core core with trcCopyErr := true }) (State.core_id s core)
  refine ⟨t, ?_, by rw [hc], hb⟩
  rw [exec_trcctlCopy_of_free core s hheld, hnone, hleaves]
  exact he

/-! ### Registers of a core and of the module (R104) -/

theorem hgov_written (v : W64) (s : State) (h : 150 ≤ v.toNat % 4096 ∧ v.toNat % 4096 ≤ 600) :
    ∃ t, exec (.registerWrite .hgov v) s = .next t ∧ t.mgmt.budget.toNat = v.toNat % 4096 := by
  have hb : bitsAt v.toNat 0 12 = v.toNat % 4096 := by simp [bitsAt]
  have hw : s.work.writeReg .hgov v =
      s.work.mod fun u => { u with mgmt := { u.mgmt with budget := BitVec.ofNat 12 (v.toNat % 4096) } } := by
    simp only [Work.writeReg, hb, if_pos h]
  refine ⟨_, (congrArg s.finish hw).trans (finish_mod ..), ?_⟩
  exact (BitVec.toNat_ofNat ..).trans (Nat.mod_mod ..)

theorem hgov_dropped (v : W64) (s : State) (h : ¬(150 ≤ v.toNat % 4096 ∧ v.toNat % 4096 ≤ 600)) :
    exec (.registerWrite .hgov v) s = .next s := by
  have hb : bitsAt v.toNat 0 12 = v.toNat % 4096 := by simp [bitsAt]
  have hw : s.work.writeReg .hgov v = s.work := by simp only [Work.writeReg, hb, if_neg h]
  exact (congrArg s.finish hw).trans (finish_work s)

theorem sealcfg_written (v : W64) (s : State) (h : 100 ≤ v.toNat % 2 ^ 20 ∧ v.toNat % 2 ^ 20 ≤ 1000000) :
    ∃ t, exec (.registerWrite .sealcfg v) s = .next t ∧ t.rcv.nextPeriod = v.toNat % 2 ^ 20 ∧ t.rcv.period = s.rcv.period := by
  have hp : bitsAt v.toNat 0 20 = v.toNat % 2 ^ 20 := by simp [bitsAt]
  have hw : s.work.writeReg .sealcfg v = s.work.mod fun u => { u with rcv := { u.rcv with nextPeriod := v.toNat % 2 ^ 20 } } := by
    simp only [Work.writeReg, hp, if_pos h]
  exact ⟨_, (congrArg s.finish hw).trans (finish_mod ..), rfl, rfl⟩

theorem sealcfg_dropped (v : W64) (s : State) (h : ¬(100 ≤ v.toNat % 2 ^ 20 ∧ v.toNat % 2 ^ 20 ≤ 1000000)) :
    exec (.registerWrite .sealcfg v) s = .next s := by
  have hp : bitsAt v.toNat 0 20 = v.toNat % 2 ^ 20 := by simp [bitsAt]
  have hw : s.work.writeReg .sealcfg v = s.work := by simp only [Work.writeReg, hp, if_neg h]
  exact (congrArg s.finish hw).trans (finish_work s)

theorem sqsel_written (core : Nat) (v : W64) (s : State) :
    ∃ t, exec (.registerWrite (.sqsel core) v) s = .next t ∧ (t.core core).sqsel = v.setWidth 6 := by
  obtain ⟨t, he, hc, -⟩ := finish_setCore s core (fun u => { u.core core with sqsel := v.setWidth 6 }) (State.core_id s core)
  exact ⟨t, he, by rw [hc]⟩

/-- A vector of a queue's values with one set: that one, as a number, and the others as before. -/
theorem toNat_set_queue (x : Vector W64 64) (hw : Nat) (v : W64) (h : hw < 64) (q : Nat) :
    (if hq : q < 64 then ((x.set hw v h)[q]).toNat else 0) = if q = hw then v.toNat else if hq : q < 64 then (x[q]).toNat else 0 := by
  by_cases hq : q < 64
  · by_cases he : q = hw
    · subst he
      simp [hq]
    · simp [hq, he, Vector.getElem_set_ne _ _ (Ne.symm he)]
  · have hne : q ≠ hw := by omega
    simp [hq, hne]

theorem sqchg_written (core hw : Nat) (v : W64) (s : State) (h : hw < 64) :
    ∃ t, exec (.registerWrite (.sqchg core hw) v) s = .next t ∧ (t.core core).chargeOf hw = v.toNat ∧
      ∀ q, q ≠ hw → (t.core core).chargeOf q = (s.core core).chargeOf q := by
  obtain ⟨t, he, hc, -⟩ := finish_setCore s core
    (fun u => { u.core core with charge := (u.core core).charge.set hw v h }) (State.core_id s core)
  have hread : ∀ q, (t.core core).chargeOf q = if q = hw then v.toNat else (s.core core).chargeOf q := fun q => by
    rw [hc]
    exact toNat_set_queue _ hw v h q
  refine ⟨t, ?_, (hread hw).trans (if_pos rfl), fun q hq => (hread q).trans (if_neg hq)⟩
  rw [← he]
  exact congrArg s.finish (dif_pos h)

theorem sqpass_written (core hw : Nat) (v : W64) (s : State) (h : hw < 64) :
    ∃ t, exec (.registerWrite (.sqpass core hw) v) s = .next t ∧ (t.core core).passOf hw = v.toNat ∧
      ∀ q, q ≠ hw → (t.core core).passOf q = (s.core core).passOf q := by
  obtain ⟨t, he, hc, -⟩ := finish_setCore s core
    (fun u => { u.core core with pass := (u.core core).pass.set hw v h }) (State.core_id s core)
  have hread : ∀ q, (t.core core).passOf q = if q = hw then v.toNat else (s.core core).passOf q := fun q => by
    rw [hc]
    exact toNat_set_queue _ hw v h q
  refine ⟨t, ?_, (hread hw).trans (if_pos rfl), fun q hq => (hread q).trans (if_neg hq)⟩
  rw [← he]
  exact congrArg s.finish (dif_pos h)

/-! ### Scratchpad banks cleared (R121, R238) -/

/-- The addresses of the 128-byte pieces of the banks of a core that a mask names. -/
def bankPieces (core : Nat) (banks : BitVec 32) : List Nat :=
  ((List.range 32).filter fun b => banks.getLsbD b).flatMap fun b =>
    (List.range 1024).map fun i => core * 2 ^ 22 + i * 4096 + b * 128

/-- The pieces hold the bytes of the named banks, and no other. -/
theorem mem_bankPieces (core : Nat) (banks : BitVec 32) (x : Nat) :
    (∃ a ∈ bankPieces core banks, a ≤ x ∧ x < a + 128) ↔
      core * 2 ^ 22 ≤ x ∧ x < core * 2 ^ 22 + 2 ^ 22 ∧ banks.getLsbD (x / 128 % 32) = true := by
  simp only [bankPieces, List.mem_flatMap, List.mem_filter, List.mem_map, List.mem_range]
  constructor
  · rintro ⟨a, ⟨b, ⟨hb, hbank⟩, i, hi, rfl⟩, h1, h2⟩
    have hx : x / 128 % 32 = b ∧ core * 2 ^ 22 ≤ x ∧ x < core * 2 ^ 22 + 2 ^ 22 := by omega
    obtain ⟨rfl, hlow, hhigh⟩ := hx
    exact ⟨hlow, hhigh, hbank⟩
  · rintro ⟨h1, h2, hbank⟩
    obtain ⟨k, rfl⟩ := Nat.exists_eq_add_of_le h1
    have hk : (core * 2 ^ 22 + k) / 128 % 32 = k / 128 % 32 := by omega
    rw [hk] at hbank
    have hpiece : k / 4096 * 4096 + k / 128 % 32 * 128 ≤ k ∧ k < k / 4096 * 4096 + k / 128 % 32 * 128 + 128 := by omega
    exact ⟨_, ⟨k / 128 % 32, ⟨by omega, hbank⟩, k / 4096, by omega, rfl⟩, by linarith, by linarith⟩

/-- The clearing of banks adds the clears of their pieces to the step. -/
theorem clearBanks_writes (w : Work) (core : Nat) (banks : BitVec 32) :
    w.clearBanks core banks = { w with ws := w.ws ++ (bankPieces core banks).map fun a => .clear .sp a 128 } := by
  have hflat : w.clearBanks core banks = (bankPieces core banks).foldl (fun (k : Work) a => k.put (.clear .sp a 128)) w := by
    simp only [Work.clearBanks, bankPieces, List.foldl_flatMap, List.foldl_map]
  rw [hflat]
  exact foldl_put ..

/-- Clears of pieces of the scratchpads change those bytes alone. -/
theorem clears_leave (l : List Nat) (s : State) :
    ∃ m, (l.map fun a => Write.clear .sp a 128).foldl applyWrite s = s.withMem .sp m ∧
      (∀ x, (∃ a ∈ l, a ≤ x ∧ x < a + 128) → Mem.read m x = 0) ∧
      ∀ x, ¬(∃ a ∈ l, a ≤ x ∧ x < a + 128) → Mem.read m x = Mem.read s.sp x := by
  induction l generalizing s with
  | nil => exact ⟨s.sp, rfl, fun x ⟨a, ha, _⟩ => absurd ha (by simp), fun x _ => rfl⟩
  | cons a l ih =>
    obtain ⟨m, hm, hzero, hkept⟩ := ih (applyWrite s (.clear .sp a 128))
    have hone : ∀ x, Mem.read (applyWrite s (.clear .sp a 128)).sp x = if a ≤ x ∧ x < a + 128 then 0 else Mem.read s.sp x :=
      Mem.read_clear s.sp a 128
    refine ⟨m, hm, ?_, ?_⟩
    · rintro x ⟨b, hb, hx⟩
      by_cases hl : ∃ b ∈ l, b ≤ x ∧ x < b + 128
      · exact hzero x hl
      · obtain rfl | hb := List.mem_cons.1 hb
        · rw [hkept x hl, hone, if_pos hx]
        · exact absurd ⟨b, hb, hx⟩ hl
    · intro x hx
      rw [hkept x fun ⟨b, hb, h⟩ => hx ⟨b, List.mem_cons_of_mem _ hb, h⟩, hone,
        if_neg fun h => hx ⟨a, List.mem_cons_self, h⟩]

/-- A step that clears banks of a core and sets that core leaves the core so, the bytes of those banks 0, and every other byte as it was. -/
theorem finish_clearBanks (s : State) (core : Nat) (banks : BitVec 32) (c : Core) (hid : c.id = core) :
    ∃ t, s.finish ((s.work.clearBanks core banks).mod fun u => u.setCore c) = .next t ∧ t.core core = c ∧
      (∀ a, a < 2 ^ 22 → banks.getLsbD (a / 128 % 32) = true → Mem.read t.sp (core * 2 ^ 22 + a) = 0) ∧
      (∀ a, ¬(core * 2 ^ 22 ≤ a ∧ a < core * 2 ^ 22 + 2 ^ 22 ∧ banks.getLsbD (a / 128 % 32) = true) →
        Mem.read t.sp a = Mem.read s.sp a) ∧
      t.fm = s.fm ∧ t.hm = s.hm ∧ t.host = s.host := by
  rw [clearBanks_writes]
  let w : Work := ({ s.work with ws := (bankPieces core banks).map fun a => .clear .sp a 128 } : Work).mod fun u => u.setCore c
  obtain ⟨m, hm, hzero, hkept⟩ := clears_leave (bankPieces core banks) (s.base w)
  refine ⟨(s.base w).withMem .sp m, ?_, ?_, ?_, ?_, rfl, rfl, rfl⟩
  · rw [← hm]
    exact State.finish_next s w rfl
  · exact (State.core_setCore s c core).trans (if_pos hid)
  · intro a ha hb
    refine hzero _ ((mem_bankPieces ..).2 ⟨by omega, by omega, ?_⟩)
    rwa [show (core * 2 ^ 22 + a) / 128 % 32 = a / 128 % 32 by omega]
  · intro a ha
    exact hkept a fun h => ha ((mem_bankPieces ..).1 h)

theorem bankPower_written (core : Nat) (v : W64) (s : State)
    (h : (s.groups.any fun g => decide (g.place.core = core) && decide (g.state ≠ .preempted)) = false) :
    let c := s.core core
    let turns := fun (b : Nat) => c.banksOff.getLsbD b != v.getLsbD b
    ∃ t, exec (.registerWrite (.bankPower core) v) s = .next t ∧ (t.core core).banksOff = v.setWidth 32 ∧
      (∀ a, a < 2 ^ 22 → turns (a / 128 % 32) = true → Mem.read t.sp (core * 2 ^ 22 + a) = 0) ∧
      (∀ a, ¬(core * 2 ^ 22 ≤ a ∧ a < core * 2 ^ 22 + 2 ^ 22 ∧ turns (a / 128 % 32) = true) → Mem.read t.sp a = Mem.read s.sp a) ∧
      t.fm = s.fm ∧ t.hm = s.hm ∧ t.host = s.host := by
  intro c turns
  let off : BitVec 32 := v.setWidth 32
  have hturns : ∀ a, (c.banksOff ^^^ off).getLsbD (a / 128 % 32) = turns (a / 128 % 32) := fun a => by
    have hlt : a / 128 % 32 < 32 := Nat.mod_lt _ (by decide)
    simp [off, turns, hlt]
  obtain ⟨t, he, hc, hzero, hkept, hrest⟩ := finish_clearBanks s core (c.banksOff ^^^ off)
    { c with banksOff := off, dirtySeal := if off &&& ~~~c.banksOff = 0 then c.dirtySeal else List.range 1024 } (State.core_id s core)
  refine ⟨t, ?_, by rw [hc], ?_, ?_, hrest⟩
  · rw [← he]
    exact congrArg s.finish (if_neg (by rw [show s.work.st = s from rfl, h]; exact Bool.false_ne_true))
  · exact fun a ha hb => hzero a ha (by rw [hturns, hb])
  · exact fun a ha => hkept a (by rwa [hturns])

theorem bankPower_dropped (core : Nat) (v : W64) (s : State)
    (h : (s.groups.any fun g => decide (g.place.core = core) && decide (g.state ≠ .preempted)) = true) :
    exec (.registerWrite (.bankPower core) v) s = .next s :=
  (congrArg s.finish (if_pos h)).trans (finish_work s)

/-- The mask of one bank. -/
theorem getLsbD_bankMask (bank b : Nat) (hb : b < 32) : (BitVec.ofNat 32 (2 ^ bank)).getLsbD b = decide (bank = b) := by
  rw [BitVec.getLsbD_ofNat, Nat.testBit_two_pow]
  simp [hb]

theorem scratchpadBankWake_clears (core bank : Nat) (s : State) (hbank : bank < 32) (hoff : (s.core core).banksOff.getLsbD bank = true) :
    ∃ t, exec (.scratchpadBankWake core bank) s = .next t ∧ (t.core core).banksOff.getLsbD bank = false ∧
      (∀ a, a < 2 ^ 22 → a / 128 % 32 = bank → Mem.read t.sp (core * 2 ^ 22 + a) = 0) ∧
      (∀ a, ¬(core * 2 ^ 22 ≤ a ∧ a < core * 2 ^ 22 + 2 ^ 22 ∧ a / 128 % 32 = bank) → Mem.read t.sp a = Mem.read s.sp a) ∧
      t.fm = s.fm ∧ t.hm = s.hm ∧ t.host = s.host := by
  have hmask : ∀ a, (BitVec.ofNat 32 (2 ^ bank)).getLsbD (a / 128 % 32) = true ↔ a / 128 % 32 = bank := fun a => by
    rw [getLsbD_bankMask bank _ (Nat.mod_lt _ (by decide)), decide_eq_true_eq, eq_comm]
  obtain ⟨t, he, hc, hzero, hkept, hrest⟩ := finish_clearBanks s core (BitVec.ofNat 32 (2 ^ bank))
    { s.core core with banksOff := (s.core core).banksOff &&& ~~~(BitVec.ofNat 32 (2 ^ bank)) } (State.core_id s core)
  refine ⟨t, ?_, ?_, ?_, ?_, hrest⟩
  · rw [← he]
    exact congrArg s.finish (if_pos ⟨hbank, hoff⟩)
  · rw [hc, BitVec.getLsbD_and, BitVec.getLsbD_not, getLsbD_bankMask bank bank hbank]
    simp
  · exact fun a ha hb => hzero a ha ((hmask a).2 hb)
  · exact fun a ha => hkept a (by rwa [hmask])

/-! ### Services (R43) -/

theorem changeService_mgmt (s : State) : s.changeService.mgmt = s.mgmt := by
  simp only [State.changeService]
  split <;> rfl

/-- The service brought up to date is the one that the module is in. -/
theorem changeService_svcmode (s : State) : s.changeService.svcmode = s.serviceNow := by
  simp only [State.changeService]
  split
  · next h => exact h.symm
  · rfl

theorem testServiceSet_changes (on : Bool) (s : State) :
    ∃ t, exec (.testServiceSet on) s = .next t ∧ t.mgmt = { s.mgmt with test := on } ∧ s.sameBytes t ∧
      t.svcmode = if s.mgmt.recovering then 3 else if on then 2 else if s.mgmt.ranRoot then 0 else 1 := by
  refine ⟨_, finish_mod .., ?_, sameBytes_base _ _, ?_⟩
  · exact changeService_mgmt _
  · exact changeService_svcmode _

/-- Settles O42: each event is one change of a core or of the module, and the copy-out and the banks' power are the writes of their bytes. -/
theorem registerEventsWrite : Obligations.RegisterEventsWrite := by
  unfold Obligations.RegisterEventsWrite
  intro core bank hw mark v on s
  exact ⟨trcctlMark_records core mark s, finish_work s, trcctlCopy_copies core s, trcctlCopy_refused core s, trcctlClr_clears core s,
    ⟨hgov_written v s, hgov_dropped v s⟩, ⟨sealcfg_written v s, sealcfg_dropped v s⟩, sqsel_written core v s,
    sqchg_written core hw v s, sqpass_written core hw v s, bankPower_written core v s, bankPower_dropped core v s,
    scratchpadBankWake_clears core bank s, testServiceSet_changes on s⟩

end Sys2Proof.Machine

/-! PROOFS. The encoding: decoding gives back what was encoded (O57), and the worked words of the spec (O58). -/

namespace Sys2Proof.Machine

/-! ### Every word selects its instruction -/

/-- The encoding of an instruction word that is no member of a convoy selects it (R86). -/
theorem selects_of_alone (i : Instr) (h : (i.isWord && (memberOf i).isNone) = true) : Laws.Selects.Statement i := by
  cases i with
  | add => exact Laws.Selects.add _ _ _
  | sub => exact Laws.Selects.sub _ _ _
  | and => exact Laws.Selects.and _ _ _
  | or => exact Laws.Selects.or _ _ _
  | xor => exact Laws.Selects.xor _ _ _
  | sll => exact Laws.Selects.sll _ _ _
  | srl => exact Laws.Selects.srl _ _ _
  | sra => exact Laws.Selects.sra _ _ _
  | slt => exact Laws.Selects.slt _ _ _
  | sltu => exact Laws.Selects.sltu _ _ _
  | mul => exact Laws.Selects.mul _ _ _
  | mulh => exact Laws.Selects.mulh _ _ _
  | mulhu => exact Laws.Selects.mulhu _ _ _
  | div => exact Laws.Selects.div _ _ _
  | divu => exact Laws.Selects.divu _ _ _
  | rem => exact Laws.Selects.rem _ _ _
  | remu => exact Laws.Selects.remu _ _ _
  | min => exact Laws.Selects.min _ _ _
  | max => exact Laws.Selects.max _ _ _
  | minu => exact Laws.Selects.minu _ _ _
  | maxu => exact Laws.Selects.maxu _ _ _
  | clz => exact Laws.Selects.clz _ _
  | ctz => exact Laws.Selects.ctz _ _
  | popc => exact Laws.Selects.popc _ _
  | zextb => exact Laws.Selects.zextb _ _
  | zexth => exact Laws.Selects.zexth _ _
  | zextw => exact Laws.Selects.zextw _ _
  | sextb => exact Laws.Selects.sextb _ _
  | sexth => exact Laws.Selects.sexth _ _
  | sextw => exact Laws.Selects.sextw _ _
  | addi => exact Laws.Selects.addi _ _ _
  | andi => exact Laws.Selects.andi _ _ _
  | ori => exact Laws.Selects.ori _ _ _
  | xori => exact Laws.Selects.xori _ _ _
  | slti => exact Laws.Selects.slti _ _ _
  | sltiu => exact Laws.Selects.sltiu _ _ _
  | slli => exact Laws.Selects.slli _ _ _
  | srli => exact Laws.Selects.srli _ _ _
  | srai => exact Laws.Selects.srai _ _ _
  | lhi => exact Laws.Selects.lhi _ _
  | lpc => exact Laws.Selects.lpc _ _
  | fadd => exact Laws.Selects.fadd _ _ _ _
  | fsub => exact Laws.Selects.fsub _ _ _ _
  | fmul => exact Laws.Selects.fmul _ _ _ _
  | fdiv => exact Laws.Selects.fdiv _ _ _ _
  | fsqrt => exact Laws.Selects.fsqrt _ _ _
  | fmin => exact Laws.Selects.fmin _ _ _
  | fmax => exact Laws.Selects.fmax _ _ _
  | feq => exact Laws.Selects.feq _ _ _
  | flt => exact Laws.Selects.flt _ _ _
  | fle => exact Laws.Selects.fle _ _ _
  | fcvtSL => exact Laws.Selects.fcvtSL _ _ _
  | fcvtLS => exact Laws.Selects.fcvtLS _ _ _
  | fclass => exact Laws.Selects.fclass _ _
  | fmadd => exact Laws.Selects.fmadd _ _ _ _ _
  | fmsub => exact Laws.Selects.fmsub _ _ _ _ _
  | fnmadd => exact Laws.Selects.fnmadd _ _ _ _ _
  | fnmsub => exact Laws.Selects.fnmsub _ _ _ _ _
  | beq => exact Laws.Selects.beq _ _ _
  | bne => exact Laws.Selects.bne _ _ _
  | blt => exact Laws.Selects.blt _ _ _
  | bge => exact Laws.Selects.bge _ _ _
  | bltu => exact Laws.Selects.bltu _ _ _
  | bgeu => exact Laws.Selects.bgeu _ _ _
  | jal => exact Laws.Selects.jal _ _
  | jalr => exact Laws.Selects.jalr _ _ _
  | ldB => exact Laws.Selects.ldB _ _ _ _
  | ldH => exact Laws.Selects.ldH _ _ _ _
  | ldW => exact Laws.Selects.ldW _ _ _ _
  | ldD => exact Laws.Selects.ldD _ _ _ _
  | stB => exact Laws.Selects.stB _ _ _ _
  | stH => exact Laws.Selects.stH _ _ _ _
  | stW => exact Laws.Selects.stW _ _ _ _
  | stD => exact Laws.Selects.stD _ _ _ _
  | spldB => exact Laws.Selects.spldB _ _ _ _
  | spldH => exact Laws.Selects.spldH _ _ _ _
  | spldW => exact Laws.Selects.spldW _ _ _ _
  | spldD => exact Laws.Selects.spldD _ _ _ _
  | spstB => exact Laws.Selects.spstB _ _ _ _
  | spstH => exact Laws.Selects.spstH _ _ _ _
  | spstW => exact Laws.Selects.spstW _ _ _ _
  | spstD => exact Laws.Selects.spstD _ _ _ _
  | csrr => exact Laws.Selects.csrr _ _
  | csrw => exact Laws.Selects.csrw _ _ _
  | csrs => exact Laws.Selects.csrs _ _ _
  | csrc => exact Laws.Selects.csrc _ _ _
  | svc => exact Laws.Selects.svc
  | tret => exact Laws.Selects.tret
  | brk => exact Laws.Selects.brk _
  | wfi => exact Laws.Selects.wfi
  | gend => exact Laws.Selects.gend
  | lend => exact Laws.Selects.lend
  | hevict => exact Laws.Selects.hevict _ _
  | hrestore => exact Laws.Selects.hrestore _ _
  | lbuf => exact Laws.Selects.lbuf _ _
  | vlset => exact Laws.Selects.vlset _ _ _ _
  | mzero => exact Laws.Selects.mzero _
  | mld => exact Laws.Selects.mld _ _
  | mldT8 => exact Laws.Selects.mldT8 _ _
  | mldT16 => exact Laws.Selects.mldT16 _ _
  | mst => exact Laws.Selects.mst _ _
  | mcvt => exact Laws.Selects.mcvt _ _
  | mrowr => exact Laws.Selects.mrowr _ _ _
  | mroww => exact Laws.Selects.mroww _ _ _
  | hqDot => exact Laws.Selects.hqDot _ _ _
  | hqSum => exact Laws.Selects.hqSum _ _ _
  | hqCnt => exact Laws.Selects.hqCnt _ _ _
  | hqMax => exact Laws.Selects.hqMax _ _ _
  | hqTop => exact Laws.Selects.hqTop _ _ _
  | hqSes => exact Laws.Selects.hqSes _ _ _
  | hbcast => exact Laws.Selects.hbcast _ _
  | hmove => exact Laws.Selects.hmove _ _ _ _
  | cblkIn => exact Laws.Selects.cblkIn _ _ _ _ _
  | cblkOut => exact Laws.Selects.cblkOut _ _ _ _ _
  | cblkSs => exact Laws.Selects.cblkSs _ _ _ _ _
  | cblkVv => exact Laws.Selects.cblkVv _ _ _ _ _
  | cnestIn => exact Laws.Selects.cnestIn _ _ _ _ _
  | cnestOut => exact Laws.Selects.cnestOut _ _ _ _ _
  | cnestSs => exact Laws.Selects.cnestSs _ _ _ _ _
  | cnestVv => exact Laws.Selects.cnestVv _ _ _ _ _
  | cnestInT8 => exact Laws.Selects.cnestInT8 _ _ _ _ _
  | cnestInT16 => exact Laws.Selects.cnestInT16 _ _ _ _ _
  | cgathIn => exact Laws.Selects.cgathIn _ _ _ _ _
  | cgathOut => exact Laws.Selects.cgathOut _ _ _ _ _
  | cgetV => exact Laws.Selects.cgetV _ _ _ _
  | cgetVs => exact Laws.Selects.cgetVs _ _ _ _
  | cwaitAny => exact Laws.Selects.cwaitAny _
  | cwaitAll => exact Laws.Selects.cwaitAll _
  | cfirst => exact Laws.Selects.cfirst _ _
  | cdrain => exact Laws.Selects.cdrain _
  | cfence => exact Laws.Selects.cfence _
  | aaddW => exact Laws.Selects.aaddW _ _ _
  | aaddWNoret => exact Laws.Selects.aaddWNoret _ _ _
  | aaddD => exact Laws.Selects.aaddD _ _ _
  | aaddDNoret => exact Laws.Selects.aaddDNoret _ _ _
  | aandW => exact Laws.Selects.aandW _ _ _
  | aandWNoret => exact Laws.Selects.aandWNoret _ _ _
  | aandD => exact Laws.Selects.aandD _ _ _
  | aandDNoret => exact Laws.Selects.aandDNoret _ _ _
  | aorW => exact Laws.Selects.aorW _ _ _
  | aorWNoret => exact Laws.Selects.aorWNoret _ _ _
  | aorD => exact Laws.Selects.aorD _ _ _
  | aorDNoret => exact Laws.Selects.aorDNoret _ _ _
  | axorW => exact Laws.Selects.axorW _ _ _
  | axorWNoret => exact Laws.Selects.axorWNoret _ _ _
  | axorD => exact Laws.Selects.axorD _ _ _
  | axorDNoret => exact Laws.Selects.axorDNoret _ _ _
  | aminW => exact Laws.Selects.aminW _ _ _
  | aminWNoret => exact Laws.Selects.aminWNoret _ _ _
  | aminD => exact Laws.Selects.aminD _ _ _
  | aminDNoret => exact Laws.Selects.aminDNoret _ _ _
  | amaxW => exact Laws.Selects.amaxW _ _ _
  | amaxWNoret => exact Laws.Selects.amaxWNoret _ _ _
  | amaxD => exact Laws.Selects.amaxD _ _ _
  | amaxDNoret => exact Laws.Selects.amaxDNoret _ _ _
  | aminuW => exact Laws.Selects.aminuW _ _ _
  | aminuWNoret => exact Laws.Selects.aminuWNoret _ _ _
  | aminuD => exact Laws.Selects.aminuD _ _ _
  | aminuDNoret => exact Laws.Selects.aminuDNoret _ _ _
  | amaxuW => exact Laws.Selects.amaxuW _ _ _
  | amaxuWNoret => exact Laws.Selects.amaxuWNoret _ _ _
  | amaxuD => exact Laws.Selects.amaxuD _ _ _
  | amaxuDNoret => exact Laws.Selects.amaxuDNoret _ _ _
  | aswpW => exact Laws.Selects.aswpW _ _ _
  | aswpWNoret => exact Laws.Selects.aswpWNoret _ _ _
  | aswpD => exact Laws.Selects.aswpD _ _ _
  | aswpDNoret => exact Laws.Selects.aswpDNoret _ _ _
  | acasW => exact Laws.Selects.acasW _ _ _ _
  | acasD => exact Laws.Selects.acasD _ _ _ _
  | afaddW => exact Laws.Selects.afaddW _ _ _
  | afaddWNoret => exact Laws.Selects.afaddWNoret _ _ _
  | aincbW => exact Laws.Selects.aincbW _ _ _
  | aincbD => exact Laws.Selects.aincbD _ _ _
  | aaddscan => exact Laws.Selects.aaddscan _ _ _ _
  | cmbput => exact Laws.Selects.cmbput _ _ _ _ _
  | cmbputZ => exact Laws.Selects.cmbputZ _ _
  | sbar => exact Laws.Selects.sbar _ _
  | fenceRel => exact Laws.Selects.fenceRel _
  | fenceAcq => exact Laws.Selects.fenceAcq _
  | ldAcqW => exact Laws.Selects.ldAcqW _ _ _
  | ldAcqD => exact Laws.Selects.ldAcqD _ _ _
  | stRelW => exact Laws.Selects.stRelW _ _ _
  | stRelD => exact Laws.Selects.stRelD _ _ _
  | accw => exact Laws.Selects.accw _ _
  | accm => exact Laws.Selects.accm _
  | ipost => exact Laws.Selects.ipost _ _
  | iwait => exact Laws.Selects.iwait _ _ _
  | mbarArr => exact Laws.Selects.mbarArr _ _
  | mbarWait => exact Laws.Selects.mbarWait _ _
  | dbarArr => exact Laws.Selects.dbarArr _ _
  | dbarWait => exact Laws.Selects.dbarWait _ _
  | mwait => exact Laws.Selects.mwait _ _ _ _
  | qput => exact Laws.Selects.qput _ _ _
  | ktrig => exact Laws.Selects.ktrig
  | sealWord => exact Laws.Selects.sealWord
  | xhold => exact Laws.Selects.xhold
  | _ => exact nomatch h

/-- The encoding of a well-formed instruction word has 32 bits, selects it, and chains only where it may. -/
theorem selects_of_isWord (i : Instr) (h : i.isWord = true) : Laws.Selects.Statement i := by
  cases hm : memberOf i with
  | some m => exact selects_of_member i (by rw [hm]; rfl)
  | none => exact selects_of_alone i (by rw [h, hm]; rfl)

/-! ### Decoding an encoding -/

/-- A mask of 0 is no operand of a well-formed `cfence` (R211). -/
theorem zeroFence_of_wf (i : Instr) (hw : i.wf = true) : zeroFence i = false := by
  cases i with
  | cfence mask => exact decide_eq_false (of_decide_eq_true (p := mask ≠ 0) hw)
  | _ => rfl

/-- Checks 3 and 4 of Table 5.19 pass a row on the word that its fields encode. -/
theorem checkRow_encodeNat (i : Instr) (hw : i.wf = true) : checkRow (encodeNat i) (some i) = .ok i :=
  if_pos ⟨rfl, zeroFence_of_wf i hw⟩

/-- The encoding passes checks 2 to 4 of Table 5.19: its C bit, its selector and its unused fields. -/
theorem decodeRaw_encode (i : Instr) (hi : i.isWord = true) (hw : i.wf = true) : decodeRaw (encode i) = .ok i := by
  obtain ⟨hlt, hsel, hchain⟩ := selects_of_isWord i hi hi hw
  have hbits : (encode i).toNat = encodeNat i := by rw [encode, BitVec.toNat_ofNat, Nat.mod_eq_of_lt hlt]
  have hframe : (chained (encodeNat i) && !mayChain (encodeNat i)) = false := by
    cases hc : chained (encodeNat i) with
    | false => rfl
    | true => rw [hchain hc]; rfl
  rw [decodeRaw, hbits, hframe, hsel]
  exact checkRow_encodeNat i hw

/-- Settles O57: the word of an instruction selects its own row with its own operands, and that row passes every check of a word alone. -/
theorem decodeOfEncode : Obligations.DecodeOfEncode := by
  unfold Obligations.DecodeOfEncode
  intro i hi hw
  rw [decode, decodeRaw_encode i hi hw]
  exact if_pos hw

/-- A word decodes to the well-formed instruction that encodes as it. -/
theorem decode_of_encode_eq (w : W32) (i : Instr) (he : encode i = w) (hi : i.isWord = true) (hw : i.wf = true) :
    decode w = .ok i :=
  he ▸ decodeOfEncode i hi hw

/-- Settles O58: each word printed in the spec is the encoding of its instruction. -/
theorem tableWordsDecode : Obligations.TableWordsDecode := by
  unfold Obligations.TableWordsDecode
  and_intros
  all_goals exact decode_of_encode_eq _ _ (by decide) (by decide) (by decide)

end Sys2Proof.Machine

/-! PROOFS. What closes a CSR (O14) and a privileged word (O19) to a strand. -/

namespace Sys2Proof.Machine

/-! ### The access classes of CSR numbers (R104) -/

/-- Whether a CSR word writes (R124): `csrw` always, `csrs` and `csrc` where they name a register other than x0. -/
def csrWrites (op : Nat) (a : Reg) : Bool := decide (op = 1) || (decide (op ≠ 0) && decide (a ≠ 0))

/-- A CSR word of a class that is closed to it is illegal with subcode 3. -/
theorem csrAccess_closed (op : Nat) (d a : Reg) (csr : BitVec 12) (s : State) (hn : s.strand.nest = false)
    (hc : csrAllowed csr.toNat s.strand.priv (csrWrites op a) = false) :
    TrapsAs (csrAccess op d a csr s) s 1 3 (csrWord op d a csr) := by
  have hill : csrAccess op d a csr s = s.finish (s.work.illegal 3 (csrWord op d a csr)) :=
    congrArg s.finish (if_pos (congrArg not hc))
  rw [hill]
  exact trapsAs_illegal s s.work 3 _ (work_fronts s) s.work_absent hn

/-- A CSR word of a class that is open to it, but with a number that names no register, is illegal with subcode 4. -/
theorem csrAccess_unknown (op : Nat) (d a : Reg) (csr : BitVec 12) (s : State) (hn : s.strand.nest = false)
    (hc : csrAllowed csr.toNat s.strand.priv (csrWrites op a) = true) (hk : csrKnown csr.toNat = false) :
    TrapsAs (csrAccess op d a csr s) s 1 4 (csrWord op d a csr) := by
  have hopen : ¬(!csrAllowed csr.toNat s.strand.priv (csrWrites op a)) = true := by rw [hc]; decide
  have hill : csrAccess op d a csr s = s.finish (s.work.illegal 4 (csrWord op d a csr)) :=
    congrArg s.finish ((if_neg hopen).trans (if_pos (congrArg not hk)))
  rw [hill]
  exact trapsAs_illegal s s.work 4 _ (work_fronts s) s.work_absent hn

/-- Bits 11:10 of a CSR number give one of four classes. -/
theorem csr_classes (n : Nat) : n / 1024 % 4 = 0 ∨ n / 1024 % 4 = 1 ∨ n / 1024 % 4 = 2 ∨ n / 1024 % 4 = 3 := by omega

/-- Class 2 is closed to reads at group level, and no other class anywhere. -/
theorem csrAllowed_read (n : Nat) (priv : Bool) :
    csrAllowed n priv false = !decide (n / 1024 % 4 = 2 ∧ priv = false) := by
  rcases csr_classes n with hn | hn | hn | hn <;> simp [csrAllowed, hn]

/-- Class 3 is closed to writes, and classes 1 and 2 at group level. -/
theorem csrAllowed_write (n : Nat) (priv : Bool) :
    csrAllowed n priv true = !decide (n / 1024 % 4 = 3 ∨ n / 1024 % 4 ≠ 0 ∧ priv = false) := by
  rcases csr_classes n with hn | hn | hn | hn <;> simp [csrAllowed, hn]

/-- The writing CSR words trap alike where each word that writes does. -/
theorem traps_of_writes (s : State) (d a : Reg) (csr : BitVec 12) (sub : Nat)
    (h : ∀ op, csrWrites op a = true → TrapsAs (csrAccess op d a csr s) s 1 sub (csrWord op d a csr)) :
    TrapsAs (exec (.csrw d a csr) s) s 1 sub (csrWord 1 d a csr) ∧
      (a ≠ 0 → TrapsAs (exec (.csrs d a csr) s) s 1 sub (csrWord 2 d a csr) ∧
        TrapsAs (exec (.csrc d a csr) s) s 1 sub (csrWord 3 d a csr)) :=
  ⟨h 1 rfl, fun ha => ⟨h 2 (decide_eq_true ha), h 3 (decide_eq_true ha)⟩⟩

/-- The CSR words that name x0 and do not write trap alike where each word that does not write does. -/
theorem traps_of_reads (s : State) (d : Reg) (csr : BitVec 12) (sub : Nat)
    (h : ∀ op, csrWrites op 0 = false → TrapsAs (csrAccess op d 0 csr s) s 1 sub (csrWord op d 0 csr)) :
    TrapsAs (exec (.csrr d csr) s) s 1 sub (csrWord 0 d 0 csr) ∧
      TrapsAs (exec (.csrs d 0 csr) s) s 1 sub (csrWord 2 d 0 csr) ∧ TrapsAs (exec (.csrc d 0 csr) s) s 1 sub (csrWord 3 d 0 csr) :=
  ⟨h 0 rfl, h 2 rfl, h 3 rfl⟩

/-- Settles O14: a word of a closed class fails check 5, and an unknown number that passes it fails check 6. -/
theorem csrClassesGuard : Obligations.CsrClassesGuard := by
  unfold Obligations.CsrClassesGuard
  intro d a csr s hn cls word closedToReads closedToWrites
  have hread : csrAllowed csr.toNat s.strand.priv false = !decide closedToReads := csrAllowed_read _ _
  have hwrite : csrAllowed csr.toNat s.strand.priv true = !decide closedToWrites := csrAllowed_write _ _
  refine ⟨fun hc => traps_of_writes s d a csr 3 fun op hop => csrAccess_closed op d a csr s hn ?_,
    fun hc => traps_of_reads s d csr 3 fun op hop => csrAccess_closed op d 0 csr s hn ?_,
    fun hc hk => traps_of_writes s d a csr 4 fun op hop => csrAccess_unknown op d a csr s hn ?_ hk,
    fun hc hk => traps_of_reads s d csr 4 fun op hop => csrAccess_unknown op d 0 csr s hn ?_ hk⟩
  · rw [hop, hwrite, decide_eq_true hc]; rfl
  · rw [hop, hread, decide_eq_true hc]; rfl
  · rw [hop, hwrite, decide_eq_false hc]; rfl
  · rw [hop, hread, decide_eq_false hc]; rfl

/-! ### Privileged words behind a strip store buffer that cannot drain -/

/-- An engine word whose strip store buffer finds no room waits with its buffer, and has not dispatched (Table 7.3, R280). -/
theorem engineWord_stalled (word : Nat) (a : Reg) (run : Work → Work) (s : State) (k : Wait) (h : s.work.bufWait = some k) :
    engineWord word a run s = .next (s.withStrand { s.strand with waiting := k }) := by
  simp only [engineWord, State.drained, h]
  exact (State.finish_next s _ rfl).trans (congrArg _ (commit_upd_work s fun t => { t with waiting := k }))

/-- A strand of a group inside a strip, with a store held for module 1, whose one port is in training (R141, R324). -/
def trainingStrip : State :=
  { State.reset with
    map := ⟨0, [⟨1, [0], 0⟩], []⟩
    ports := State.reset.ports.set 0 { state := .training }
    strand := { State.reset.strand with live := true, buffering := true, buf := [⟨0, none, .remote 1 0 [0]⟩] } }

theorem trainingStrip_bufWait : trainingStrip.work.bufWait = some (.link 1) := by decide

/-- At group level too, `hmove` of this strand waits for the port. -/
theorem exec_hmove_trainingStrip : exec (.hmove 0 0 0 0) trainingStrip =
    .next (trainingStrip.withStrand { trainingStrip.strand with waiting := .link 1 }) := by
  rw [exec_hmove, execHmove]
  exact engineWord_stalled _ _ _ _ _ trainingStrip_bufWait

/-- Refutes O19: the held strip stores drain before a word of major 0x37 dispatches (Table 7.3). Where they cannot, as for a store to a
module whose port is in training, `hmove` waits at group level too, and no check of Table 5.19 is made. -/
theorem not_privilegedWordsAreIllegalAtGroupLevel : ¬ Obligations.PrivilegedWordsAreIllegalAtGroupLevel := by
  unfold Obligations.PrivilegedWordsAreIllegalAtGroupLevel
  intro h
  obtain ⟨-, -, -, -, hmove⟩ := h 0 0 0 0 trainingStrip rfl rfl
  obtain ⟨t, ht, -, -, -, -, -, -, -, hnest, -⟩ := hmove
  cases exec_hmove_trainingStrip.symm.trans ht
  exact absurd hnest (by decide)

end Sys2Proof.Machine

/-! PROOFS. Scalar integer words: what each computes, division, immediates and x0 (O1 to O4). -/

namespace Sys2Proof.Machine

/-! ### The functions of Table 6.2 -/

theorem opSltu_eq (x y : W64) : opSltu x y = if x < y then 1 else 0 := by
  simp only [opSltu, boolWord, BitVec.lt_def, decide_eq_true_eq]

theorem opMinu_eq (x y : W64) : opMinu x y = if x < y then x else y := by
  simp only [opMinu, BitVec.lt_def]

theorem opMaxu_eq (x y : W64) : opMaxu x y = if x < y then y else x := by
  simp only [opMaxu, BitVec.lt_def]

theorem opMin_eq (x y : W64) : opMin x y = if x.slt y then x else y := by
  simp only [opMin, BitVec.slt, decide_eq_true_eq]

theorem opMax_eq (x y : W64) : opMax x y = if x.slt y then y else x := by
  simp only [opMax, BitVec.slt, decide_eq_true_eq]

theorem opMulhu_eq (x y : W64) : opMulhu x y = (x.setWidth 128 * y.setWidth 128).extractLsb' 64 64 := by
  have hx := x.isLt
  have hy := y.isLt
  have hlt : x.toNat * y.toNat < 2 ^ 128 := by nlinarith
  apply BitVec.eq_of_toNat_eq
  simp only [opMulhu, BitVec.toNat_ofNat, BitVec.extractLsb'_toNat, BitVec.toNat_mul, BitVec.toNat_setWidth, Nat.shiftRight_eq_div_pow]
  rw [Nat.mod_eq_of_lt (show x.toNat < 2 ^ 128 by omega), Nat.mod_eq_of_lt (show y.toNat < 2 ^ 128 by omega), Nat.mod_eq_of_lt hlt]

/-- The high half of a signed product: the product of the extended factors does not overflow 128 bits. -/
theorem opMulh_eq (x y : W64) : opMulh x y = (x.signExtend 128 * y.signExtend 128).extractLsb' 64 64 := by
  have hprod : x.signExtend 128 * y.signExtend 128 = BitVec.ofInt 128 (x.toInt * y.toInt) := by
    rw [BitVec.signExtend, BitVec.signExtend, BitVec.ofInt_mul]
  apply BitVec.eq_of_toNat_eq
  rw [hprod, opMulh, BitVec.toNat_ofInt, BitVec.extractLsb'_toNat, BitVec.toNat_ofInt, Nat.shiftRight_eq_div_pow]
  generalize x.toInt * y.toInt = p
  omega

theorem allOnes_eq_neg_one : BitVec.allOnes 64 = (-1 : W64) := by decide

theorem opDiv_eq (x y : W64) : opDiv x y = if y = 0 then -1 else x.sdiv y := by
  simp only [opDiv, allOnes_eq_neg_one]
  split
  · rfl
  · apply BitVec.eq_of_toInt_eq
    rw [BitVec.toInt_sdiv, BitVec.toInt_ofInt]

theorem opDivu_eq (x y : W64) : opDivu x y = if y = 0 then BitVec.allOnes 64 else x / y := by
  simp only [opDivu]
  split
  · rfl
  · apply BitVec.eq_of_toNat_eq
    rw [BitVec.toNat_ofNat, BitVec.toNat_udiv, Nat.mod_eq_of_lt]
    exact (Nat.div_le_self ..).trans_lt x.isLt

theorem opRem_eq (x y : W64) : opRem x y = if y = 0 then x else x.srem y := by
  simp only [opRem]
  split
  · rfl
  · apply BitVec.eq_of_toInt_eq
    rw [BitVec.toInt_srem, BitVec.toInt_ofInt, ← BitVec.toInt_srem, BitVec.toInt_bmod_cancel]

theorem opRemu_eq (x y : W64) : opRemu x y = if y = 0 then x else x % y := by
  simp only [opRemu]
  split
  · rfl
  · apply BitVec.eq_of_toNat_eq
    rw [BitVec.toNat_ofNat, BitVec.toNat_umod, Nat.mod_eq_of_lt]
    exact (Nat.mod_le ..).trans_lt x.isLt

/-! ### Counting bits -/

/-- The first `m` numbers of a range pass a test, and the next one, where there is one, does not. -/
theorem length_takeWhile_range (p : Nat → Bool) (m n : Nat) (hm : m ≤ n) (hp : ∀ k < m, p k = true) (hstop : m < n → p m = false) :
    ((List.range n).takeWhile p).length = m := by
  obtain ⟨r, rfl⟩ := Nat.exists_eq_add_of_le hm
  rw [List.range_add, List.takeWhile_append_of_pos (by simpa using hp)]
  cases r with
  | zero => simp
  | succ r => simp [List.range_succ_eq_map, hstop (by omega)]

/-- Zeros above the highest 1 of a number of `n` bits. -/
theorem leadingZeros_eq (n v : Nat) (hv : v < 2 ^ n) :
    ((List.range n).takeWhile fun k => !v.testBit (n - 1 - k)).length = n - bitLen v := by
  by_cases h0 : v = 0
  · subst h0
    exact length_takeWhile_range _ _ _ (Nat.sub_le ..) (by simp) (by simp [bitLen])
  · have hlog : v.log2 < n := (Nat.log2_lt h0).2 hv
    have hlen : bitLen v = v.log2 + 1 := by simp [bitLen, h0]
    refine length_takeWhile_range _ _ _ (Nat.sub_le ..) (fun k hk => ?_) (fun hk => ?_)
    · have hsmall : v < 2 ^ (n - 1 - k) := (Nat.log2_lt h0).1 (by omega)
      simp [Nat.testBit_lt_two_pow hsmall]
    · rw [hlen, show n - 1 - (n - (v.log2 + 1)) = v.log2 by omega, Nat.testBit_log2 h0]
      rfl

theorem trailingZeros_eq (n v : Nat) : trailingZeros n v = ((List.range n).takeWhile fun k => !v.testBit k).length := by
  induction n generalizing v with
  | zero => rfl
  | succ n ih =>
    rw [trailingZeros, ih, List.range_succ_eq_map, List.takeWhile_cons]
    by_cases h : v % 2 = 1
    · simp [h, Nat.testBit_zero]
    · simp [h, Nat.testBit_zero, List.takeWhile_map, Function.comp_def, Nat.testBit_succ, Nat.add_comm]

theorem countOnes_eq (n v : Nat) : countOnes n v = ((List.range n).filter fun k => v.testBit k).length := by
  induction n generalizing v with
  | zero => rfl
  | succ n ih =>
    rw [countOnes, ih, List.range_succ_eq_map, List.filter_cons]
    by_cases h : v % 2 = 1
    · simp [h, Nat.testBit_zero, List.filter_map, Function.comp_def, Nat.testBit_succ, Nat.add_comm]
    · simp [h, Nat.testBit_zero, List.filter_map, Function.comp_def, Nat.testBit_succ]
      omega

theorem opClz_eq (x : W64) :
    opClz x = BitVec.ofNat 64 ((List.range 64).takeWhile fun k => !x.getLsbD (63 - k)).length :=
  congrArg (BitVec.ofNat 64) (leadingZeros_eq 64 x.toNat x.isLt).symm

theorem opCtz_eq (x : W64) : opCtz x = BitVec.ofNat 64 ((List.range 64).takeWhile fun k => !x.getLsbD k).length :=
  congrArg (BitVec.ofNat 64) (trailingZeros_eq 64 x.toNat)

theorem opPopc_eq (x : W64) : opPopc x = BitVec.ofNat 64 ((List.range 64).filter fun k => x.getLsbD k).length :=
  congrArg (BitVec.ofNat 64) (countOnes_eq 64 x.toNat)

/-- The low bits of a word with zeros above them, as a mask. -/
theorem opZext_eq (n : Nat) (x : W64) : opZext n x = x &&& BitVec.ofNat 64 (2 ^ n - 1) := by
  apply BitVec.eq_of_getLsbD_eq
  intro i hi
  rw [opZext, BitVec.getLsbD_setWidth, BitVec.getLsbD_setWidth, BitVec.getLsbD_and, BitVec.getLsbD_ofNat,
    Nat.testBit_two_pow_sub_one]
  simp [hi, Bool.and_comm]

/-- The low bits of a word with their sign above them, as two shifts. -/
theorem opSext_eq (n : Nat) (x : W64) (h0 : 0 < n) (hn : n ≤ 64) : opSext n x = (x <<< (64 - n)).sshiftRight (64 - n) := by
  apply BitVec.eq_of_getLsbD_eq
  intro i hi
  rw [opSext, BitVec.getLsbD_signExtend, BitVec.getLsbD_sshiftRight, BitVec.msb_eq_getLsbD_last, BitVec.msb_eq_getLsbD_last]
  simp only [BitVec.getLsbD_setWidth, BitVec.getLsbD_shiftLeft]
  by_cases h : i < n
  · have h1 : 64 - n + i < 64 := by omega
    simp [hi, h, h1, show ¬ 64 ≤ i by omega]
  · have h1 : ¬ 64 - n + i < 64 := by omega
    simp [hi, h, h1, show ¬ 64 ≤ i by omega, show n - 1 < n by omega, show 63 - (64 - n) = n - 1 by omega, show ¬ (63 < 64 - n) by omega]

/-! ### The words -/

/-- Settles O1, by the value of each row of Table 6.2. -/
theorem integerWordsWriteTheirValue : Obligations.IntegerWordsWriteTheirValue := by
  unfold Obligations.IntegerWordsWriteTheirValue
  intro d a b s x y sh
  have value : ∀ v w, v = w → s.finish (s.work.result d v) = .next (s.wrote d w) := by
    rintro v _ rfl
    exact finish_result s d v
  exact ⟨value _ _ rfl, value _ _ rfl, value _ _ rfl, value _ _ rfl, value _ _ rfl, value _ _ rfl, value _ _ rfl, value _ _ rfl,
    value _ _ rfl, value _ _ (opSltu_eq x y), value _ _ rfl, value _ _ (opMulh_eq x y), value _ _ (opMulhu_eq x y),
    value _ _ (opDiv_eq x y), value _ _ (opDivu_eq x y), value _ _ (opRem_eq x y), value _ _ (opRemu_eq x y),
    value _ _ (opMin_eq x y), value _ _ (opMax_eq x y), value _ _ (opMinu_eq x y), value _ _ (opMaxu_eq x y),
    value _ _ (opClz_eq x), value _ _ (opCtz_eq x), value _ _ (opPopc_eq x),
    value _ _ (opZext_eq 8 x), value _ _ (opZext_eq 16 x), value _ _ (opZext_eq 32 x),
    value _ _ (opSext_eq 8 x (by decide) (by decide)), value _ _ (opSext_eq 16 x (by decide) (by decide)),
    value _ _ (opSext_eq 32 x (by decide) (by decide))⟩

/-- Settles O2: the borderline results of Table 6.3 are values of the functions of the four words, as the general quotients are. -/
theorem divisionNeverTraps : Obligations.DivisionNeverTraps := by
  unfold Obligations.DivisionNeverTraps
  intro d a b s x y least
  have hdiv : exec (.div d a b) s = .next (s.wrote d (if y = 0 then -1 else x.sdiv y)) := by
    rw [← opDiv_eq]
    exact finish_result ..
  have hrem : exec (.rem d a b) s = .next (s.wrote d (if y = 0 then x else x.srem y)) := by
    rw [← opRem_eq]
    exact finish_result ..
  have hdivu : exec (.divu d a b) s = .next (s.wrote d (if y = 0 then BitVec.allOnes 64 else x / y)) := by
    rw [← opDivu_eq]
    exact finish_result ..
  have hremu : exec (.remu d a b) s = .next (s.wrote d (if y = 0 then x else x % y)) := by
    rw [← opRemu_eq]
    exact finish_result ..
  rw [hdiv, hrem, hdivu, hremu]
  have same : ∀ v w : W64, v = w → (.next (s.wrote d v) : Host.Outcome State Fault Refusal) = .next (s.wrote d w) := by
    rintro v _ rfl
    rfl
  refine ⟨fun hy => ⟨same _ _ (if_pos hy), same _ _ (if_pos hy), same _ _ (if_pos hy), same _ _ (if_pos hy)⟩, fun hx hy => ?_,
    fun hy => ⟨same _ _ (if_neg hy), same _ _ (if_neg hy), same _ _ (if_neg hy), same _ _ (if_neg hy)⟩⟩
  rw [hx, hy]
  exact ⟨same _ _ (by decide), same _ _ (by decide), same _ _ (by decide), same _ _ (by decide)⟩

/-- Settles O3: an immediate word computes as its register word does. -/
theorem immediateWordsWriteTheirValue : Obligations.ImmediateWordsWriteTheirValue := by
  unfold Obligations.ImmediateWordsWriteTheirValue
  intro d a imm sh page s x y
  have value : ∀ v w, v = w → s.finish (s.work.result d v) = .next (s.wrote d w) := by
    rintro v _ rfl
    exact finish_result s d v
  have hsh : shiftOf (zext sh) = sh.toNat := by
    have hlt := sh.isLt
    rw [shiftOf, zext, BitVec.toNat_setWidth]
    omega
  exact ⟨value _ _ rfl, value _ _ rfl, value _ _ rfl, value _ _ rfl, value _ _ rfl, value _ _ (opSltu_eq x y),
    value _ _ (congrArg (x <<< ·) hsh), value _ _ (congrArg (x >>> ·) hsh), value _ _ (congrArg x.sshiftRight hsh),
    value _ _ rfl, value _ _ rfl⟩

/-- Settles O4: a write to x0 is discarded, and any other register is read back. -/
theorem zeroRegisterDiscardsWrites : Obligations.ZeroRegisterDiscardsWrites := by
  unfold Obligations.ZeroRegisterDiscardsWrites
  intro a b imm s
  have discard : ∀ v, s.finish (s.work.result 0 v) = .next (s.withStrand s.strand.nextWord) := fun v => finish_result s 0 v
  refine ⟨s.strand.rx_zero, discard _, discard _, discard _, fun d r v hr => ?_⟩
  rw [Strand.rx_wx]
  by_cases h : r = d
  · subst h
    rw [if_pos ⟨rfl, hr⟩, if_pos rfl]
  · rw [if_neg fun hrd => h hrd.1, if_neg h]

end Sys2Proof.Machine

/-! PROOFS. Scalar FP32 words, branches and jumps (O5 to O7). -/

namespace Sys2Proof.Machine

/-! ### FP32 words (R114 to R116) -/

/-- An FP32 word completes with its flags raised and its result in x(d). -/
theorem finish_fpResult (s : State) (d : Reg) (r : Nat × Flags) :
    s.finish (s.work.fpResult d r) =
      .next ((s.withStrand { s.strand with fflags := s.strand.fflags ||| r.2 }).wrote d (BitVec.ofNat 64 r.1)) := by
  rw [State.finish_next _ _ rfl]
  exact congrArg _ (commit_upd_work s fun t => ((t.raise r.2).wx d (BitVec.ofNat 64 r.1)).nextWord)

theorem truth_eq (c : Bool) : truth c = (if c then 1 else 0, 0) := by
  cases c <;> rfl

/-- Settles O5: each word is one operation on its operands' values, whose result and flags it writes. -/
theorem floatWordsRoundOnce : Obligations.FloatWordsRoundOnce := by
  unfold Obligations.FloatWordsRoundOnce
  intro d a b c rm s x y z leaves rounded
  have value : ∀ p q : Nat × Flags, p = q → s.finish (s.work.fpResult d p) =
      .next ((s.withStrand { s.strand with fflags := s.strand.fflags ||| q.2 }).wrote d (BitVec.ofNat 64 q.1)) := by
    rintro p _ rfl
    exact finish_fpResult s d p
  exact ⟨value _ _ rfl, value _ _ rfl, value _ _ rfl, value _ _ rfl, value _ _ rfl, value _ _ rfl, value _ _ rfl,
    value _ _ (truth_eq _), value _ _ (truth_eq _), value _ _ (truth_eq _), value _ _ rfl, value _ _ rfl, value _ _ rfl,
    value _ _ rfl, value _ _ rfl, value _ _ rfl, value _ _ rfl⟩

/-! ### Steps that write no byte -/

@[simp] theorem trace_ws (w : Work) (kind a : Nat) (b : W64) : (w.trace kind a b).ws = w.ws := by
  simp only [Work.trace]
  split <;> rfl

/-- A step without writes that reaches no absent place leaves its strand, and every byte as it was. -/
theorem finish_silent (s : State) (w : Work) (ha : w.absent = false) (hw : w.ws = []) :
    ∃ t, s.finish w = .next t ∧ t.strand = w.cur ∧ s.sameBytes t := by
  refine ⟨_, State.finish_next s w ha, commit_strand s w, ?_⟩
  rw [State.commit_nil s w hw]
  exact sameBytes_base s w

/-! ### Branches (R122) -/

/-- A convoy retired is the strand retired. -/
@[simp] theorem retireTo_cur_eq (w : Work) (target : W64) : (w.retireTo target).cur = w.cur.retired target := rfl

@[simp] theorem traceJump_cur (w : Work) (target : W64) : (w.traceJump target).cur = w.cur := Work.trace_cur ..
@[simp] theorem traceJump_ws (w : Work) (target : W64) : (w.traceJump target).ws = w.ws := trace_ws ..
@[simp] theorem traceJump_absent (w : Work) (target : W64) : (w.traceJump target).absent = w.absent := trace_absent ..

/-- A branch goes to its target where its comparison holds, else to the following word. -/
theorem branch_goes (c : W64 → W64 → Bool) (a b : Reg) (off : BitVec 15) (s : State) (taken : Bool)
    (h : c (s.strand.rx a) (s.strand.rx b) = taken) :
    ∃ t, branch c a b off s = .next t ∧
      t.strand = s.strand.retired (if taken then s.strand.pc + off.signExtend 64 * 4 else s.strand.pc + 4) ∧ s.sameBytes t := by
  cases taken with
  | true =>
    simp only [branch, h, if_true]
    obtain ⟨t, ht, hs, hb⟩ := finish_silent s ((s.work.traceJump (branchTarget s.strand.pc off)).retireTo (branchTarget s.strand.pc off))
      (traceJump_absent s.work _) (traceJump_ws s.work _)
    refine ⟨t, ht, hs.trans ?_, hb⟩
    rw [retireTo_cur_eq, traceJump_cur]
    rfl
  | false =>
    simp only [branch, h, Bool.false_eq_true, if_false]
    exact finish_silent s s.work.retire rfl rfl

/-- Settles O6, by the comparison of each branch. -/
theorem branchesGoWhereTheComparisonSays : Obligations.BranchesGoWhereTheComparisonSays := by
  unfold Obligations.BranchesGoWhereTheComparisonSays
  intro a b off s x y target goes
  have hge : ∀ p q : Int, decide (q ≤ p) = !decide (p < q) := fun p q => by rw [← decide_not, decide_eq_decide]; omega
  have hgeu : ∀ p q : Nat, decide (q ≤ p) = !decide (p < q) := fun p q => by rw [← decide_not, decide_eq_decide]; omega
  have by_test : ∀ (i : Instr) (c : W64 → W64 → Bool) (taken : Bool), exec i s = branch c a b off s → c x y = taken → goes i taken := by
    intro i c taken hi hc
    have h := branch_goes c a b off s taken hc
    rwa [← hi] at h
  exact ⟨by_test (.beq a b off) (fun p q => decide (p = q)) _ rfl (beq_eq_decide x y).symm,
    by_test (.bne a b off) (fun p q => decide (p ≠ q)) _ rfl (by simp [bne, beq_eq_decide]),
    by_test (.blt a b off) (fun p q => decide (p.toInt < q.toInt)) _ rfl rfl,
    by_test (.bge a b off) (fun p q => decide (q.toInt ≤ p.toInt)) _ rfl (hge x.toInt y.toInt),
    by_test (.bltu a b off) (fun p q => decide (p.toNat < q.toNat)) _ rfl rfl,
    by_test (.bgeu a b off) (fun p q => decide (q.toNat ≤ p.toNat)) _ rfl (hgeu x.toNat y.toNat)⟩

/-! ### Jumps (R123) -/

/-- A jump links to the following word and goes on at its target. -/
theorem jump_goes (d : Reg) (target : W64) (s : State) :
    ∃ t, s.finish (((s.work.traceJump target).wx d (s.strand.pc + 4)).retireTo target) = .next t ∧
      t.strand = (s.strand.wx d (s.strand.pc + 4)).retired target ∧ s.sameBytes t := by
  obtain ⟨t, ht, hs, hb⟩ := finish_silent s (((s.work.traceJump target).wx d (s.strand.pc + 4)).retireTo target)
    (traceJump_absent s.work _) (traceJump_ws s.work _)
  refine ⟨t, ht, hs.trans ?_, hb⟩
  rw [retireTo_cur_eq, Work.wx, Work.upd_cur, traceJump_cur]
  rfl

/-- Settles O7: the jumps, and the trap of a misaligned `jalr` target. -/
theorem jumpsLinkAndGo : Obligations.JumpsLinkAndGo := by
  unfold Obligations.JumpsLinkAndGo
  intro d a imm off s target
  have hexec : exec (.jalr d a imm) s = s.finish (
      if target.toNat % 4 ≠ 0 then s.work.trapWord ⟨2, 0, target⟩
      else ((s.work.traceJump target).wx d (s.strand.pc + 4)).retireTo target) := rfl
  refine ⟨jump_goes d _ s, fun h => ?_, fun h hn => ?_⟩
  · rw [hexec, if_neg (not_not.2 h)]
    exact jump_goes d target s
  · obtain ⟨t, ht, hepc, hcause, htval, -, -, -, -, -, hpc, hx, -⟩ :=
      trapsAs_trapWord s s.work ⟨2, 0, target⟩ (work_fronts s) s.work_absent hn
    rw [hexec, if_pos h]
    exact ⟨t, ht, hx, by simpa using hcause, htval, hepc, hpc⟩

end Sys2Proof.Machine

/-! PROOFS. Exceptions and the system words: a trap taken, `svc`, `brk`, `tret` and `wfi` (O15 to O18). -/

namespace Sys2Proof.Machine

/-! ### What stores leave of the state -/

/-- What stores that issue change of a state beside its memories: ports and flits, the outbound hold, the images of contexts, fresh numbers
and the strand in front. -/
def State.AfterStores (s t : State) : Prop :=
  ∃ ports sent ctxs hold nextId strand,
    t = { s with ports := ports, sent := sent, ctxs := ctxs, hold := hold, nextId := nextId, strand := strand }

theorem State.AfterStores.refl (s : State) : s.AfterStores s := ⟨s.ports, s.sent, s.ctxs, s.hold, s.nextId, s.strand, rfl⟩

theorem State.AfterStores.trans {s t u : State} (h : s.AfterStores t) (k : t.AfterStores u) : s.AfterStores u := by
  obtain ⟨_, _, _, _, _, _, rfl⟩ := h
  obtain ⟨p, f, c, o, n, r, rfl⟩ := k
  exact ⟨p, f, c, o, n, r, rfl⟩

theorem State.AfterStores.groups {s t : State} (h : s.AfterStores t) : t.groups = s.groups := by
  obtain ⟨_, _, _, _, _, _, rfl⟩ := h
  rfl

theorem State.AfterStores.parked {s t : State} (h : s.AfterStores t) : t.parked = s.parked := by
  obtain ⟨_, _, _, _, _, _, rfl⟩ := h
  rfl

theorem setPort_afterStores (s : State) (n : Nat) (p : Port) : s.AfterStores (s.setPort n p) := by
  unfold State.setPort
  split
  · exact ⟨_, _, _, _, _, _, rfl⟩
  · exact .refl s

theorem pump_afterStores (s : State) (n : Nat) : s.AfterStores (s.pump n) := by
  simp only [State.pump]
  split
  · exact (setPort_afterStores s n _).trans ⟨_, _, _, _, _, _, rfl⟩
  · exact .refl s

theorem sendTo_afterStores (s : State) (x : Bool) (m k vc u a : Nat) (bs : List Byte) :
    s.AfterStores (s.sendTo x m k vc u a bs) := by
  unfold State.sendTo
  split
  · exact (setPort_afterStores ..).trans (pump_afterStores ..)
  · exact .refl s

theorem mapCtx_afterStores (s : State) (n : Nat) (f : Ctx → Ctx) : s.AfterStores (s.mapCtx n f) := ⟨_, _, _, _, _, _, rfl⟩

theorem writeImage_afterStores (w : Work) (c : Ctx) (p core : Nat) (l : List ImagePart) :
    w.st.AfterStores (w.writeImage c p core l).st := by
  simp only [Work.writeImage, Work.mod_st, Work.putPieces_st]
  exact mapCtx_afterStores ..

theorem contextBlock_afterStores (w : Work) (ctx dev : Nat) (bs : List Byte) :
    w.st.AfterStores (w.contextBlock ctx dev bs).st := by
  simp only [Work.contextBlock]
  split
  · exact (mapCtx_afterStores ..).trans (writeImage_afterStores ..)
  · split <;> exact .refl _

theorem contextBytes_afterStores (w : Work) (ctx dev : Nat) (bs : List Byte) (fuel : Nat) :
    w.st.AfterStores (w.contextBytes ctx dev bs fuel).st := by
  induction fuel generalizing w dev bs with
  | zero => exact .refl _
  | succ k ih =>
    simp only [Work.contextBytes]
    split
    · exact .refl _
    · exact (contextBlock_afterStores ..).trans (ih ..)

theorem putOwn_afterStores (w : Work) (wr : Write) : w.st.AfterStores (w.putOwn wr).st := by
  unfold Work.putOwn
  split
  · split
    · exact .refl _
    · exact contextBytes_afterStores ..
  · exact .refl _

theorem perform_afterStores (w : Work) (st : Store) : w.st.AfterStores (w.perform st).st := by
  cases st with
  | mem wr => exact putOwn_afterStores w wr
  | ext d a bs => exact ⟨_, _, _, _, _, _, rfl⟩
  | remote m a bs => exact (sendTo_afterStores w.st false m 3 0 _ a bs).trans ⟨_, _, _, _, _, _, rfl⟩

theorem issueStore_afterStores (w : Work) (b : Bool) (c : Nat) (va : Option Nat) (st : Store) :
    w.st.AfterStores (w.issueStore b c va st).st := by
  simp only [Work.issueStore]
  split
  · exact perform_afterStores ({ w with cls := st.classOf c, va := va } : Work) st
  · exact ⟨_, _, _, _, _, _, rfl⟩

theorem drain_afterStores (w : Work) : w.st.AfterStores w.drain.st := by
  have go : ∀ (b : List BufStore) (k : Work), k.st.AfterStores (b.foldl (fun k e => k.issueStore true e.cls e.va e.st) k).st := by
    intro b
    induction b with
    | nil => exact fun k => .refl _
    | cons e b ih => exact fun k => (issueStore_afterStores ..).trans (ih _)
  exact .trans ⟨_, _, _, _, _, _, rfl⟩ (go w.cur.buf (w.upd fun s => { s with buf := [], buffering := false }))

/-! ### Work done for a strand -/

/-- Work for a strand that is found, with the strand that stood in front found again behind it. -/
theorem onStrand_eq (w : Work) (sid : Nat) (f : Work → Work) (s u : State) (hs : w.st.focusStrand sid = some s)
    (hu : (f { w with st := s }).st.focusStrand w.cur.sid = some u) : w.onStrand sid f = { f { w with st := s } with st := u } := by
  simp only [Work.onStrand, hs, hu]

theorem focusStrand_front (s : State) (sid : Nat) (hl : s.strand.live = true) (hs : s.strand.sid = sid) : s.focusStrand sid = some s := by
  simp [State.focusStrand, hl, hs]

/-- Work for the strand in front is done on it, where it stays the strand of its number. -/
theorem onStrand_self (w : Work) (f : Work → Work) (hl : w.cur.live = true) (hl' : (f w).cur.live = true)
    (hs : (f w).cur.sid = w.cur.sid) : w.onStrand w.cur.sid f = f w :=
  onStrand_eq w w.cur.sid f w.st (f w).st (focusStrand_front _ _ hl rfl) (focusStrand_front _ _ hl' hs)

theorem pickFirst_some {α : Type} (p : α → Bool) (l : List α) (a : α) (r : List α) (h : pickFirst p l = some (a, r)) : p a = true := by
  induction l generalizing a r with
  | nil => cases h
  | cons b l ih =>
    unfold pickFirst at h
    split at h
    · cases h
      assumption
    · split at h
      · rename_i hb
        cases h
        exact ih _ _ hb
      · cases h

/-- Draining for another strand leaves the strand in front as it was. -/
theorem onStrand_drain_other (w : Work) (sid : Nat) (hl : w.cur.live = true) (hne : sid ≠ w.cur.sid) :
    (w.onStrand sid Work.drain).cur = w.cur := by
  simp only [Work.cur] at hl hne
  have hfront : (w.st.strand.live && decide (w.st.strand.sid = sid)) = false := by simp [hl, Ne.symm hne]
  cases hp : pickFirst (fun t => decide (t.sid = sid)) w.st.parked with
  | none => simp only [Work.onStrand, State.focusStrand, hfront, hp, Bool.false_eq_true, if_false]
  | some o =>
    obtain ⟨t, rest⟩ := o
    have hsid : t.sid = sid := of_decide_eq_true (pickFirst_some (fun t : Strand => decide (t.sid = sid)) _ _ _ hp)
    let j : Work := { w with st := { w.st with strand := t, parked := w.st.strand :: rest } }
    have hgo : w.st.focusStrand sid = some j.st := by
      simp only [State.focusStrand, hfront, hp, Bool.false_eq_true, if_false]
      simp only [hl, if_true, j]
    have hparked : j.drain.st.parked = w.st.strand :: rest := (drain_afterStores j).parked
    have hother : (j.drain.st.strand.live && decide (j.drain.st.strand.sid = w.st.strand.sid)) = false := by
      obtain ⟨l, r, hcur⟩ := j.drain_cur
      have hs : j.drain.st.strand.sid = t.sid := (congrArg Strand.sid hcur).trans rfl
      simp [hs, hsid, hne]
    have hback : j.drain.st.focusStrand w.st.strand.sid = some { j.drain.st with
        strand := w.st.strand, parked := if j.drain.st.strand.live then j.drain.st.strand :: rest else rest } := by
      simp only [State.focusStrand, hother, hparked, pickFirst, decide_true, Bool.false_eq_true, if_false, if_true]
    rw [onStrand_eq w sid Work.drain j.st _ hgo hback]
    rfl

/-- The strand in front behind a draining of strands: at most its stores have left it. -/
def Strand.StoresLeft (s t : Strand) : Prop :=
  ∃ buf buffering pend remotes, t = { s with buf := buf, buffering := buffering, pend := pend, remotes := remotes }

theorem onStrand_drain_cur (w : Work) (sid : Nat) (hl : w.cur.live = true) : w.cur.StoresLeft (w.onStrand sid Work.drain).cur := by
  by_cases h : sid = w.cur.sid
  · subst h
    obtain ⟨l, r, hcur⟩ := w.drain_cur
    rw [onStrand_self w Work.drain hl (by rw [hcur]; exact hl) (by rw [hcur]; rfl)]
    exact ⟨_, _, _, _, hcur⟩
  · rw [onStrand_drain_other w sid hl h]
    exact ⟨_, _, _, _, rfl⟩

theorem focusStrand_groups (s t : State) (sid : Nat) (h : s.focusStrand sid = some t) : t.groups = s.groups := by
  unfold State.focusStrand at h
  split at h
  · cases h
    rfl
  · split at h
    · cases h
    · cases h
      rfl

/-- Work for a strand leaves the groups that its own part leaves, and reaches an absent place only there. -/
theorem onStrand_keeps (w : Work) (sid : Nat) (f : Work → Work) (hg : ∀ k, (f k).st.groups = k.st.groups)
    (ha : ∀ k, (f k).absent = k.absent) :
    (w.onStrand sid f).st.groups = w.st.groups ∧ (w.onStrand sid f).absent = w.absent := by
  simp only [Work.onStrand]
  split
  · exact ⟨rfl, rfl⟩
  · rename_i s hs
    have hf : (f { w with st := s }).st.groups = w.st.groups := (hg _).trans (focusStrand_groups _ _ _ hs)
    split
    · rename_i u hu
      exact ⟨(focusStrand_groups _ _ _ hu).trans hf, ha _⟩
    · exact ⟨hf, ha _⟩

theorem drain_groups (w : Work) : w.drain.st.groups = w.st.groups := (drain_afterStores w).groups

/-- The held stores of strands performed leave the groups, and of the strand in front all but its stores. -/
theorem drainStrands_keeps (w : Work) (p : Strand → Bool) :
    (w.drainStrands p).st.groups = w.st.groups ∧ (w.drainStrands p).absent = w.absent ∧
      (w.cur.live = true → w.cur.StoresLeft (w.drainStrands p).cur) := by
  have go : ∀ (l : List Nat) (k : Work), let t := l.foldl (fun k sid => k.onStrand sid Work.drain) k
      t.st.groups = k.st.groups ∧ t.absent = k.absent ∧ (k.cur.live = true → k.cur.StoresLeft t.cur) := by
    intro l
    induction l with
    | nil => exact fun k => ⟨rfl, rfl, fun _ => ⟨_, _, _, _, rfl⟩⟩
    | cons sid l ih =>
      intro k
      obtain ⟨hg, ha⟩ := onStrand_keeps k sid Work.drain drain_groups drain_absent
      obtain ⟨hgroups, habsent, hcur⟩ := ih (k.onStrand sid Work.drain)
      refine ⟨hgroups.trans hg, habsent.trans ha, fun hl => ?_⟩
      obtain ⟨_, _, _, _, h1⟩ := onStrand_drain_cur k sid hl
      obtain ⟨b, q, e, r, h2⟩ := hcur (by rw [h1]; exact hl)
      exact ⟨b, q, e, r, h2.trans (by rw [h1])⟩
  exact go _ w

/-! ### A group that ends fatally (R293) -/

/-- The fatal end of a group reaches no absent place. -/
@[simp] theorem fatal_absent (w : Work) (code : Nat) (tval epc : W64) : (w.fatal code tval epc).absent = w.absent :=
  (drainStrands_keeps w _).2.1

/-- The strand at which its group ends fatally has ended, and keeps all but its stores and its wait. -/
theorem fatal_cur (w : Work) (code : Nat) (tval epc : W64) (hl : w.cur.live = true) :
    ∃ b q p r, (w.fatal code tval epc).cur =
      { w.cur with buf := b, buffering := q, pend := p, remotes := r, ended := true, waiting := .none } := by
  obtain ⟨-, -, hcur⟩ := drainStrands_keeps w fun t => decide (t.g.gid = w.cur.g.gid)
  obtain ⟨b, q, p, r, h⟩ := hcur hl
  refine ⟨b, q, p, r, ?_⟩
  have hg : (w.drainStrands fun t => decide (t.g.gid = w.cur.g.gid)).cur.g.gid = w.cur.g.gid := by rw [h]
  exact (if_pos hg).trans (congrArg (fun t : Strand => { t with ended := true, waiting := .none }) h)

/-- A group changed in place, read back by its number. -/
theorem group?_mapGroup (s : State) (gid : Nat) (f : Group → Group) (hf : ∀ g, (f g).place = g.place) :
    (s.mapGroup gid f).group? gid = (s.group? gid).map f := by
  have go : ∀ l : List Group, (l.map fun g => if g.place.gid = gid then f g else g).find? (fun g => decide (g.place.gid = gid)) =
      (l.find? fun g => decide (g.place.gid = gid)).map f := by
    intro l
    induction l with
    | nil => rfl
    | cons g l ih =>
      by_cases h : g.place.gid = gid
      · simp [h, hf]
      · simp [h, ih]
  exact go s.groups

/-- A group that has ended fatally, with what ended it. -/
def Group.failedBy (g : Group) (f : Fatal) : Group := { g with ending := true, failed := true, fatal := some f }

/-- What the fatal end at a strand keeps: its index, the cause, and what the strands of its group waited for (R293, R303). -/
def Work.fatalOf (w : Work) (code : Nat) (tval epc : W64) : Fatal :=
  ⟨w.cur.sidx, code, epc, tval, w.cur.gcoord,
    (w.st.strands.filter fun t => decide (t.g.gid = w.cur.g.gid)).map fun t => (t.sidx, t.waiting)⟩

/-- A group that ends fatally keeps what ended it, where no earlier cause stands. -/
theorem fatal_group (w : Work) (code : Nat) (tval epc : W64) (g : Group) (hg : w.st.group? w.cur.g.gid = some g) (hf : g.fatal = none) :
    (w.fatal code tval epc).st.group? w.cur.g.gid = some (g.failedBy (w.fatalOf code tval epc)) := by
  let k := w.drainStrands fun t => decide (t.g.gid = w.cur.g.gid)
  have hk : k.st.group? w.cur.g.gid = some g := by
    rw [State.group?, (drainStrands_keeps w _).1]
    exact hg
  refine (group?_mapGroup k.st w.cur.g.gid _ fun e => ?_).trans ?_
  · split <;> rfl
  · rw [hk]
    simp only [Option.map_some, hf, Option.isSome_none, Bool.false_eq_true, if_false]
    rfl

/-! ### Exceptions (R127) -/

/-- Settles O15, from the strand that a trap leaves and from the fatal end of a group. -/
theorem takingATrap : Obligations.TakingATrap := by
  unfold Obligations.TakingATrap
  intro w async tr s
  refine ⟨fun h => ?_, fun ha hn hl => ?_⟩
  · have hok : ¬(w.cur.nest = true ∧ async = false) := by
      rintro ⟨hn, ha⟩
      rcases h with h | h
      · exact absurd (ha.symm.trans h) (by decide)
      · exact absurd (h.symm.trans hn) (by decide)
    obtain ⟨l, r, hcur⟩ := w.takeTrap_cur async tr hok
    obtain ⟨hpriv, hppriv, htie, hptie, hnest⟩ := statusOf_bits true w.cur.tie false w.cur.priv true
    intro t
    rw [show t = _ from hcur]
    exact ⟨rfl, rfl, rfl, hpriv, hppriv, htie, hptie, hnest, rfl, rfl, rfl, rfl, rfl, rfl, rfl, rfl, rfl, rfl, rfl, rfl, rfl, rfl, rfl,
      rfl, rfl⟩
  · subst ha
    rw [w.takeTrap_nested tr hn]
    obtain ⟨b, q, p, r, hcur⟩ := fatal_cur w tr.code tr.tval w.cur.pc hl
    rw [hcur]
    exact ⟨rfl, rfl, fun g hg hf => ⟨_, fatal_group w tr.code tr.tval w.cur.pc g hg hf, rfl, rfl⟩⟩

end Sys2Proof.Machine

/-! PROOFS. The system words of a strand: `svc`, `brk`, `tret`, `wfi`, `gend`, `lend` and `lbuf` (O16 to O18, O20). -/

namespace Sys2Proof.Machine

/-! ### The groups of a commit -/

@[simp] theorem touchLine_groups (s : State) (heath : Bool) (n : Nat) (owner : BitVec 12) (whole : Bool) :
    (touchLine s heath n owner whole).groups = s.groups := by
  simp only [touchLine, State.withLines, State.withUndo]
  split <;> split <;> split <;> (try split) <;> rfl

@[simp] theorem touchLines_groups (s : State) (heath : Bool) (a l : Nat) (owner : BitVec 12) (k : Nat) :
    (touchLines s heath a l owner k).groups = s.groups := by
  induction k generalizing s with
  | zero => rfl
  | succ k ih => simp only [touchLines, ih, touchLine_groups]

@[simp] theorem markDirty_groups (s : State) (a l : Nat) : (markDirty s a l).groups = s.groups := by
  unfold markDirty
  split <;> rfl

@[simp] theorem applyWrite_groups (s : State) (w : Write) : (applyWrite s w).groups = s.groups := by
  cases w with
  | clear => exact State.withMem_groups ..
  | put g a bs o raw =>
    simp only [applyWrite, State.withMem_groups]
    split
    · rfl
    · cases g <;> simp

/-- The writes of a commit leave the groups as the step made them. -/
@[simp] theorem commit_groups (s : State) (w : Work) : (s.commit w).groups = w.st.groups := by
  simp only [State.commit]
  have fold : ∀ (l : List Write) (b : State), (l.foldl applyWrite b).groups = b.groups := by
    intro l
    induction l with
    | nil => exact fun b => rfl
    | cons x l ih => exact fun b => (ih _).trans (applyWrite_groups b x)
  exact fold w.ws (s.base w)

theorem commit_group? (s : State) (w : Work) (n : Nat) : (s.commit w).group? n = w.st.group? n := by
  simp only [State.group?, commit_groups]

/-! ### The fatal end as an outcome -/

/-- A step that ends its strand's group fatally (R293). -/
theorem finish_fatal (s : State) (w : Work) (code : Nat) (tval epc : W64) (ha : w.absent = false) (hl : w.cur.live = true) :
    ∃ t, s.finish (w.fatal code tval epc) = .next t ∧ t.strand.ended = true ∧
      ∀ g, w.st.group? w.cur.g.gid = some g → g.fatal = none →
        t.group? w.cur.g.gid = some (g.failedBy (w.fatalOf code tval epc)) := by
  refine ⟨_, State.finish_next s _ (by rw [fatal_absent, ha]), ?_, fun g hg hf => ?_⟩
  · obtain ⟨b, q, p, r, hcur⟩ := fatal_cur w code tval epc hl
    rw [commit_strand, hcur]
  · rw [commit_group?]
    exact fatal_group w code tval epc g hg hf

/-- Settles O16: `svc` traps at its own word, and in a handler its trap is the second one. -/
theorem svcTraps : Obligations.SvcTraps := by
  unfold Obligations.SvcTraps
  intro s
  refine ⟨by decide, fun hn => trapsAs_trapWord s s.work ⟨0x0E, 0, 0⟩ (work_fronts s) s.work_absent hn, fun hn hl => ?_⟩
  let w := s.work.upd fun t => { t with vslab := 0, vstart := 0 }
  have hexec : exec .svc s = s.finish (w.fatal 0x0E 0 s.strand.pc) := congrArg s.finish (w.takeTrap_nested ⟨0x0E, 0, 0⟩ hn)
  obtain ⟨t, ht, hended, hgroup⟩ := finish_fatal s w 0x0E 0 s.strand.pc rfl hl
  exact ⟨t, hexec.trans ht, hended, fun g hg hf => ⟨_, _, hgroup g hg hf, rfl, rfl⟩⟩

/-! ### `brk` and the return (R128, R130) -/

/-- The word of `brk` (Table 5.11). -/
theorem zext_encode_brk : ∀ code : BitVec 5, zext (encode (.brk code)) = BitVec.ofNat 64 (0x3A000002 + code.toNat * 32) := by decide

/-- A privileged word at handler level runs. -/
theorem privileged_runs (i : Instr) (run : Work → Work) (s : State) (h : s.strand.priv = true) :
    privileged i run s = s.finish (run s.work) := by
  simp only [privileged, h, if_true]

theorem returnFrom_outside_loop (w : Work) (h : w.cur.loop = none) : w.returnFrom.cur.loop = none := by
  simp only [Work.returnFrom, Work.upd_cur, h]

/-- A suspended loop goes on where the return leads into its block, and is abandoned elsewhere (R215). -/
theorem returnFrom_suspended_loop (w : Work) (l : Loop) (h : w.cur.loop = some l) (hs : l.suspended = true) :
    w.returnFrom.cur.loop = if l.start ≤ w.cur.epc ∧ w.cur.epc < l.stop then some { l with suspended := false } else none := by
  simp only [Work.returnFrom, Work.upd_cur, h, hs, Bool.not_true, Bool.false_eq_true, if_false, Bool.and_eq_true, decide_eq_true_eq]

/-- Settles O17, from the strand that the return leaves. -/
theorem brkTrapsAndTretReturns : Obligations.BrkTrapsAndTretReturns := by
  unfold Obligations.BrkTrapsAndTretReturns
  refine ⟨fun code s hn => ?_, fun s hp => ?_⟩
  · rw [← zext_encode_brk]
    exact trapsAs_trapWord s s.work ⟨0x0D, code.toNat, zext (encode (.brk code))⟩ (work_fronts s) s.work_absent hn
  · intro p
    obtain ⟨t, ht, hs, hb⟩ := finish_silent s s.work.returnFrom rfl rfl
    obtain ⟨hpriv, hppriv, htie, hptie, hnest⟩ :=
      statusOf_bits false (p.status.getLsbD 3) (p.status.getLsbD 3) (p.status.getLsbD 1) (p.status.getLsbD 1)
    refine ⟨t, (privileged_runs .tret Work.returnFrom s hp).trans ht, ?_⟩
    rw [hs]
    refine ⟨rfl, rfl, hpriv, hppriv, htie, hptie, hnest, rfl, rfl, fun h => ?_, fun h => ?_, returnFrom_outside_loop s.work,
      fun l hl hsus => ?_, rfl, rfl, rfl, rfl, rfl, rfl, hb⟩
    · exact ⟨if_pos (decide_eq_true h), if_pos (decide_eq_true h)⟩
    · have hno : ¬ decide (p.carryAt = some p.epc) = true := by simpa using h
      exact ⟨if_neg hno, if_neg hno⟩
    · rw [returnFrom_suspended_loop s.work l hl hsus]
      exact ⟨fun h1 h2 => if_pos ⟨h1, h2⟩, fun hout => if_neg hout⟩

/-- Settles O18: `wfi` retires or waits by the comparison of `cycle` with `tmcmp`. -/
theorem wfiWaitsForTheTimer : Obligations.WfiWaitsForTheTimer := by
  unfold Obligations.WfiWaitsForTheTimer
  intro s hp cycle
  have hexec : exec .wfi s = s.finish (if s.strand.tmcmp.toNat ≤ cycle.toNat then s.work.retire else s.work.wait .timer) :=
    privileged_runs .wfi (fun w => if s.strand.tmcmp.toNat ≤ cycle.toNat then w.retire else w.wait .timer) s hp
  refine ⟨fun h => ?_, fun h => ?_⟩
  · rw [hexec, if_pos (BitVec.le_def.1 h)]
    exact (State.finish_next s _ rfl).trans (congrArg _ (commit_upd_work s Strand.nextWord))
  · rw [hexec, if_neg (by rw [BitVec.lt_def] at h; omega)]
    exact (State.finish_next s _ rfl).trans (congrArg _ (commit_upd_work s fun t => { t with waiting := .timer }))

/-! ### `gend` (R291 to R293) -/

theorem drained_of_bufWait (s : State) (go : Work) (h : s.work.bufWait = none) : s.drained go = go := by
  simp only [State.drained, h]

theorem bufWait_of_empty (w : Work) (h : w.cur.buf = []) : w.bufWait = none := by
  simp [Work.bufWait, h]

/-- Nothing drains from an empty strip store buffer. -/
theorem drain_of_empty (w : Work) (h : w.cur.buf = []) : w.drain = w.upd Strand.drained := by
  simp only [Work.drain, h, List.foldl_nil]
  rfl

/-- A strand with nothing to deliver takes no delivery at a tag wait. -/
theorem due_of_nothing (t : Strand) (tags : W64) (chs : BitVec 4) (all : Bool) (h : t.deliver = []) : t.due tags chs all = none := by
  simp [Strand.due, h, lowest]

/-- Copies that go on change nothing that `gend` waits for. -/
theorem inFlight_resumeCopies (s : State) (tags : W64) : (s.resumeCopies tags).inFlight = s.inFlight := by
  have hcmds : ∀ (l : List Cmd) (f : Cmd → Cmd) (p : Cmd → Bool), (∀ c, p (f c) = p c ∧ (f c).uid = c.uid) →
      ((l.map f).filter p).map (·.uid) = (l.filter p).map (·.uid) := by
    intro l f p h
    rw [List.filter_map, List.map_map]
    have hp : (p ∘ f) = p := funext fun c => (h c).1
    have hu : ((fun c : Cmd => c.uid) ∘ f) = fun c => c.uid := funext fun c => (h c).2
    rw [hp, hu]
  refine congrArg (· ++ _) (hcmds s.cmds _ _ fun c => ?_)
  cases hb : c.body with
  | copy tag b n fault stage =>
    cases fault with
    | none => simp [hb, State.resumeCopies]
    | some f =>
      simp only [State.resumeCopies]
      split <;> simp [hb] <;> rfl
  | _ => simp [hb, State.resumeCopies]

/-- A tag wait with nothing to deliver goes on. -/
theorem deliverOr_of_nothing (w : Work) (tags : W64) (chs : BitVec 4) (all : Bool) (go : Work → Work) (h : w.cur.deliver = []) :
    w.deliverOr tags chs all go = go (if w.cur.nest then w else w.mod fun s => s.resumeCopies tags) := by
  simp only [Work.deliverOr, due_of_nothing w.cur tags chs all h]
  split <;> rfl

/-- The end of a strand at its `gend`: the convoy retires, and the end of strand 0 is that of its group (R291, R293). -/
def Work.endStrand (k : Work) (sidx gid : Nat) : Work :=
  let k1 := k.retire.upd fun t => { t with ended := true }
  if sidx = 0 then k1.mod fun st => st.mapGroup gid fun e => { e with ending := true } else k1

theorem endStrand_keeps (k : Work) (sidx gid : Nat) :
    (k.endStrand sidx gid).absent = k.absent ∧ (k.endStrand sidx gid).ws = k.ws ∧
      (k.endStrand sidx gid).cur = { k.cur.nextWord with ended := true } := by
  unfold Work.endStrand
  dsimp only
  split <;> exact ⟨rfl, rfl, rfl⟩

/-- What `gend` does at group level behind its tag wait. -/
theorem exec_gend_waits (s : State) (k : Work) (hp : s.strand.priv = false) (hb : s.strand.buf = []) (hd : s.strand.deliver = [])
    (hk : (if s.strand.nest then s.work.upd Strand.drained
      else (s.work.upd Strand.drained).mod fun st => st.resumeCopies (BitVec.allOnes 64)) = k) :
    exec .gend s = s.finish (
      if !k.st.inFlight.isEmpty then k.wait (.drained k.st.inFlight 15 true)
      else if s.strand.sidx = 0 ∧ !k.st.othersEnded then k.wait .groupOthers
      else k.endStrand s.strand.sidx s.strand.g.gid) := by
  simp only [exec_gend, execGend, drained_of_bufWait s _ (bufWait_of_empty s.work hb), hp, Bool.false_eq_true, if_false,
    drain_of_empty s.work hb]
  rw [deliverOr_of_nothing (s.work.upd Strand.drained) _ _ _ _ hd, ← hk]
  rfl

/-- `gend` at group level with nothing in flight ends its strand, and with strand 0 its group. -/
theorem gend_ends (s : State) (hp : s.strand.priv = false) (hb : s.strand.buf = []) (hd : s.strand.deliver = [])
    (hf : s.inFlight = []) (ho : s.strand.sidx = 0 → s.othersEnded = true) :
    ∃ t, exec .gend s = .next t ∧ t.strand = { s.strand.drained.nextWord with ended := true } ∧ s.sameBytes t ∧
      (s.strand.sidx = 0 → ∀ g, s.group? s.strand.g.gid = some g → t.group? s.strand.g.gid = some { g with ending := true }) ∧
      (s.strand.sidx ≠ 0 → t.groups = s.groups) := by
  obtain ⟨k, hk, hcur, hgroups, hws, habsent, hflight, hothers⟩ : ∃ k : Work,
      (if s.strand.nest then s.work.upd Strand.drained
        else (s.work.upd Strand.drained).mod fun st => st.resumeCopies (BitVec.allOnes 64)) = k ∧ k.cur = s.strand.drained ∧
      k.st.groups = s.groups ∧ k.ws = [] ∧ k.absent = false ∧ k.st.inFlight = s.inFlight ∧ k.st.othersEnded = s.othersEnded := by
    cases s.strand.nest
    · exact ⟨_, rfl, rfl, rfl, rfl, rfl, inFlight_resumeCopies (s.work.upd Strand.drained).st _, rfl⟩
    · exact ⟨_, rfl, rfl, rfl, rfl, rfl, rfl, rfl⟩
  have hexec : exec .gend s = s.finish (k.endStrand s.strand.sidx s.strand.g.gid) := by
    have hother : ¬(s.strand.sidx = 0 ∧ (!k.st.othersEnded) = true) := by
      rintro ⟨h0, h⟩
      rw [hothers, ho h0] at h
      exact absurd h (by decide)
    rw [exec_gend_waits s k hp hb hd hk]
    simp only [hflight, hf, List.isEmpty_nil, Bool.not_true, Bool.false_eq_true, if_false, if_neg hother]
  have hend := endStrand_keeps k s.strand.sidx s.strand.g.gid
  rw [habsent, hws, hcur] at hend
  obtain ⟨ha, hw, hc⟩ := hend
  refine ⟨_, hexec.trans (State.finish_next s _ ha), (commit_strand ..).trans hc, ?_, fun h0 g hg => ?_, fun h0 => ?_⟩
  · rw [State.commit_nil s _ hw]
    exact sameBytes_base s _
  · have hgroup : k.st.group? s.strand.g.gid = some g := by
      rw [State.group?, hgroups]
      exact hg
    rw [commit_group?, Work.endStrand, if_pos h0]
    refine (group?_mapGroup k.st s.strand.g.gid (fun e => { e with ending := true }) fun _ => rfl).trans ?_
    rw [hgroup]
    rfl
  · rw [commit_groups, Work.endStrand, if_neg h0]
    exact hgroups

/-- `gend` at handler level ends the group fatally with the handler's own cause (R293). -/
theorem gend_fatal (s : State) (hp : s.strand.priv = true) (hl : s.strand.live = true) (hb : s.work.bufWait = none) :
    ∃ t, exec .gend s = .next t ∧ t.strand.ended = true ∧ ∀ g, s.group? s.strand.g.gid = some g → g.fatal = none →
      ∃ g' l, t.group? s.strand.g.gid = some g' ∧ g'.ending = true ∧
        g'.fatal = some ⟨s.strand.sidx, s.strand.cause.toNat % 256, s.strand.epc, s.strand.tval, s.strand.gcoord, l⟩ := by
  obtain ⟨p, r, hdrain⟩ := s.work.drain_cur
  have hcur : s.work.drain.cur = { s.strand with buf := [], buffering := false, pend := s.strand.pend ++ p, remotes := r } := hdrain
  have hgid : s.work.drain.cur.g.gid = s.strand.g.gid := by rw [hcur]
  obtain ⟨t, ht, hended, hgroup⟩ := finish_fatal s s.work.drain (s.strand.cause.toNat % 256) s.strand.tval s.strand.epc
    (drain_absent s.work) (by rw [hcur]; exact hl)
  refine ⟨t, ?_, hended, fun g hg hf => ?_⟩
  · simp only [exec_gend, execGend, drained_of_bufWait s _ hb, hp, if_true]
    exact ht
  · rw [hgid] at hgroup
    have hg' : s.work.drain.st.group? s.strand.g.gid = some g := by
      rw [State.group?, drain_groups]
      exact hg
    obtain ⟨l, hfatal⟩ : ∃ l, s.work.drain.fatalOf (s.strand.cause.toNat % 256) s.strand.tval s.strand.epc =
        ⟨s.strand.sidx, s.strand.cause.toNat % 256, s.strand.epc, s.strand.tval, s.strand.gcoord, l⟩ := by
      simp only [Work.fatalOf, hcur]
      exact ⟨_, rfl⟩
    exact ⟨_, l, hgroup g hg' hf, rfl, congrArg some hfatal⟩

/-! ### `lbuf` (R214) -/

/-- A fetch outside a loop changes nothing but whether the step has reached an absent place. -/
theorem fetch_outside_loop (w k : Work) (va : W64) (x : W32) (hl : w.cur.loop = none) (h : w.fetch va = .ok (x, k)) :
    ∃ a, k = { w with absent := a } := by
  have hkept : w.cur.kept va = none := by simp only [Strand.kept, hl]
  have hkeep : ∀ x, w.st.strand.keep va x = w.st.strand := fun x => by
    simp only [Strand.keep, show w.st.strand.loop = none from hl]
  unfold Work.fetch at h
  rw [hkept] at h
  dsimp only at h
  split at h
  · cases h
  · split at h
    · cases h
    · split at h
      · rename_i t pa _ _
        cases h
        refine ⟨w.absent || !(Site.mem t pa).exists?, ?_⟩
        simp only [Work.upd, Work.note, hkeep]
      · cases h

theorem fetchWords_outside_loop (n : Nat) (w k : Work) (va : W64) (l : List Nat) (hl : w.cur.loop = none)
    (h : fetchWords w va n = .ok (l, k)) : ∃ a, k = { w with absent := a } := by
  induction n generalizing w va l k with
  | zero =>
    cases h
    exact ⟨w.absent, rfl⟩
  | succ n ih =>
    unfold fetchWords at h
    split at h
    · cases h
    · rename_i x w1 hx
      obtain ⟨a, rfl⟩ := fetch_outside_loop w w1 va x hl hx
      split at h
      · cases h
      · rename_i l' w2 hrest
        cases h
        obtain ⟨b, rfl⟩ := ih { w with absent := a } k _ _ hl hrest
        exact ⟨b, rfl⟩

theorem fetchBlock_outside_loop (fuel : Nat) (w k : Work) (va : W64) (n j : Nat) (l : List (W64 × W32)) (hl : w.cur.loop = none)
    (h : fetchBlock w va n j fuel = .ok (l, k)) : ∃ a, k = { w with absent := a } := by
  induction fuel generalizing w va n j l k with
  | zero =>
    cases h
    exact ⟨w.absent, rfl⟩
  | succ f ih =>
    unfold fetchBlock at h
    split at h
    · cases h
    · rename_i x w1 hx
      obtain ⟨a, rfl⟩ := fetch_outside_loop w w1 va x hl hx
      split at h
      · cases h
        exact ⟨a, rfl⟩
      · dsimp only at h
        split at h
        · cases h
        · rename_i l' w2 hrest
          cases h
          obtain ⟨b, rfl⟩ := ih { w with absent := a } k _ _ _ _ hl hrest
          exact ⟨b, rfl⟩

/-- `lbuf` outside a loop with a well-formed descriptor and block enters the first pass, whose words are those it fetched. -/
theorem lbuf_enters (d : Reg) (imm : BitVec 20) (s : State) (ws : List Nat) (w1 w2 : Work) (block : List (W64 × W32)) (stop : W64)
    (l : Loop) (hl : s.strand.loop = none) (hd : fetchWords s.work (s.strand.pc + imm.signExtend 64 * 4) 16 = .ok (ws, w1))
    (hb : fetchBlock w1 (s.strand.pc + 4) (d.toNat + 1) 0 129 = .ok (block, w2)) (hs : scanBlock block 0 = .ok stop)
    (hloop : loopOf (s.strand.pc + 4) stop (packWords ws) = some l) (hwf : (Instr.lbuf d imm).wf = true)
    (halign : (s.strand.pc + imm.signExtend 64 * 4).toNat % 64 = 0) (ha : w2.absent = false) :
    exec (.lbuf d imm) s = .next (s.withStrand { s.strand with loop := some { l with words := block.dropLast } }.nextWord) := by
  obtain ⟨a, rfl⟩ := fetchWords_outside_loop 16 s.work w1 _ ws hl hd
  obtain ⟨b, rfl⟩ := fetchBlock_outside_loop 129 { s.work with absent := a } w2 _ _ _ block hl hb
  have hb0 : b = false := ha
  subst hb0
  have halign' : ¬(s.strand.pc + sext imm * 4).toNat % 64 ≠ 0 := not_not.2 halign
  simp only [exec_lbuf, execLbuf, show fetchWords s.work (s.strand.pc + sext imm * 4) 16 = _ from hd, hb, hl, Option.isSome_none,
    Bool.false_eq_true, if_false, hs, hloop, hwf, Bool.not_true, if_neg halign']
  exact (State.finish_next s _ rfl).trans
    (congrArg _ (commit_upd_work s fun t => ({ t with loop := some { l with words := block.dropLast } } : Strand).nextWord))

/-- Settles O20: the two ends of `gend`, and the two words of the loop buffer. -/
theorem endAndLoopWords : Obligations.EndAndLoopWords := by
  unfold Obligations.EndAndLoopWords
  intro d imm s
  exact ⟨gend_ends s, gend_fatal s, (State.finish_next s _ rfl).trans (congrArg _ (commit_upd_work s Strand.nextWord)),
    fun ws w1 block w2 stop l hl hd hb hs hloop hwf halign ha => lbuf_enters d imm s ws w1 w2 block stop l hl hd hb hs hloop hwf halign ha⟩

end Sys2Proof.Machine

/-! PROOFS. Scalar loads and stores (O8 to O11). -/

namespace Sys2Proof.Machine

/-! ### Records of the trace ring -/

/-- Two states of a core that differ in the trace ring at most. -/
def Core.SameButRing (c d : Core) : Prop :=
  ∃ ring wraps head queue last, d = { c with ring := ring, trcWraps := wraps, trcHead := head, trcQueue := queue, lastRec := last }

theorem record_sameButRing (c : Core) (kind hs : Nat) (half : Bool) (a : Nat) (b : W64) : c.SameButRing (c.record kind hs half a b) := by
  simp only [Core.record]
  split
  · exact ⟨c.ring, c.trcWraps, c.trcHead, c.trcQueue, c.lastRec, rfl⟩
  · split <;> exact ⟨_, _, _, _, _, rfl⟩

/-- Two states that differ in the trace rings of cores at most. -/
def State.SameButRings (s t : State) : Prop := ∃ cores, t = { s with cores := cores } ∧ ∀ n, (s.core n).SameButRing (t.core n)

theorem trace_sameButRings (w : Work) (kind a : Nat) (b : W64) : w.st.SameButRings (w.trace kind a b).st := by
  have same : ∀ c : Core, c.SameButRing c := fun c => ⟨c.ring, c.trcWraps, c.trcHead, c.trcQueue, c.lastRec, rfl⟩
  simp only [Work.trace]
  split
  · refine ⟨_, rfl, fun n => ?_⟩
    simp only [Work.mod_st, State.core_setCore, record_id, State.core_id]
    split
    · next h =>
      subst h
      exact record_sameButRing ..
    · exact same _
  · exact ⟨_, rfl, fun n => same _⟩

/-! ### Translation under records -/

theorem walkFrom_congr (s t : State) (held : Nat → Option W64) (va level table fuel : Nat) (h : t.fm = s.fm) :
    walkFrom t held va level table fuel = walkFrom s held va level table fuel := by
  induction fuel generalizing level table with
  | zero => rfl
  | succ k ih => simp only [walkFrom, h, ih]

/-- Records of the trace ring change no translation. -/
theorem leafFor_cores (s : State) (cores : List Core) (core ctx va : Nat) :
    ({ s with cores := cores } : State).leafFor core ctx va = s.leafFor core ctx va := by
  have hwalk : ({ s with cores := cores } : State).walk core ctx va = s.walk core ctx va := by
    simp only [State.walk, State.ctx?]
    split
    · rfl
    · exact walkFrom_congr s _ _ _ _ _ _ rfl
  simp only [State.leafFor, hwalk]

theorem access_cores (s : State) (cores : List Core) (core ctx : Nat) (va : W64) (a : Acc) :
    ({ s with cores := cores } : State).access core ctx va a = s.access core ctx va a := by
  simp only [State.access, leafFor_cores]
  rfl

theorem checkVirtual_cores (s : State) (cores : List Core) (core ctx : Nat) (va : W64) (size : Nat) (a : Acc) :
    ({ s with cores := cores } : State).checkVirtual core ctx va size a = s.checkVirtual core ctx va size a := by
  simp only [State.checkVirtual, access_cores]

theorem spAllowed_rings (s t : State) (h : s.SameButRings t) (g : Place) (dev : Nat) : t.spAllowed g dev = s.spAllowed g dev := by
  obtain ⟨cores, rfl, hcores⟩ := h
  obtain ⟨_, _, _, _, _, hc⟩ := hcores (dev / 2 ^ 22)
  simp only [State.spAllowed, hc]
  rfl

theorem meadow_rings (s t : State) (h : s.SameButRings t) (g : Place) (va : W64) (n : Nat) : t.meadow g va n = s.meadow g va n := by
  simp only [State.meadow, spAllowed_rings s t h]

theorem bankAsleep_rings (s t : State) (h : s.SameButRings t) (dev : Nat) : t.bankAsleep dev = s.bankAsleep dev := by
  obtain ⟨cores, rfl, hcores⟩ := h
  obtain ⟨_, _, _, _, _, hc⟩ := hcores (dev / 2 ^ 22)
  simp only [State.bankAsleep, hc]

/-! ### A scalar memory word at its dispatch -/

/-- What a scalar memory word finds: the state with its record in the trace ring, and nothing done yet. -/
structure Work.Opens (w : Work) (s : State) : Prop where
  rings : s.SameButRings w.st
  ws : w.ws = []
  absent : w.absent = false
  src : w.src = 0

theorem traceScalar_opens (s : State) (sz st what : Nat) (va : W64) : (s.work.traceScalar sz st what va).Opens s := by
  unfold Work.traceScalar
  split
  · refine ⟨trace_sameButRings s.work _ _ _, trace_ws .., trace_absent .., ?_⟩
    simp only [Work.trace]
    split <;> rfl
  · exact ⟨⟨s.cores, rfl, fun n => ⟨_, _, _, _, _, rfl⟩⟩, rfl, rfl, rfl⟩

theorem Work.Opens.cur {w : Work} {s : State} (h : w.Opens s) : w.cur = s.strand := by
  obtain ⟨cores, hst, -⟩ := h.rings
  rw [Work.cur, hst]

theorem Work.Opens.checkVirtual {w : Work} {s : State} (h : w.Opens s) (va : W64) (size : Nat) (a : Acc) :
    w.st.checkVirtual w.cur.g.core w.cur.g.ctx va size a = s.checkVirtual s.strand.g.core s.strand.g.ctx va size a := by
  obtain ⟨cores, hst, -⟩ := h.rings
  rw [h.cur, hst, checkVirtual_cores]

theorem Work.Opens.spCheck {w : Work} {s : State} (h : w.Opens s) (va : W64) (size : Nat) :
    w.spCheck va size = s.work.spCheck va size := by
  simp only [Work.spCheck, h.cur, meadow_rings s w.st h.rings, bankAsleep_rings s w.st h.rings]
  rfl

theorem Work.Opens.fronts {w : Work} {s : State} (h : w.Opens s) : w.Fronts s :=
  ⟨s.strand.loop, s.strand.vslab, s.strand.vstart, h.cur⟩

/-! ### The checks of an access (R117) -/

theorem checkVirtual_misaligned (s : State) (core ctx : Nat) (va : W64) (size : Nat) (a : Acc) (h : va.toNat % size ≠ 0) :
    s.checkVirtual core ctx va size a = .error ⟨2, 0, va⟩ := by
  simp only [State.checkVirtual, if_pos h]

theorem bits_above_48 (va : W64) : bitsAt va.toNat 48 16 ≠ 0 ↔ 2 ^ 48 ≤ va.toNat := by
  have h := va.isLt
  simp only [bitsAt]
  omega

theorem checkVirtual_noncanonical (s : State) (core ctx : Nat) (va : W64) (size : Nat) (a : Acc) (h : va.toNat % size = 0)
    (hc : 2 ^ 48 ≤ va.toNat) : s.checkVirtual core ctx va size a = .error ⟨4, 0, va⟩ := by
  simp only [State.checkVirtual, if_neg (not_not.2 h), if_pos ((bits_above_48 va).2 hc)]

/-- An aligned canonical address is checked by its translation. -/
theorem checkVirtual_canonical (s : State) (core ctx : Nat) (va : W64) (size : Nat) (a : Acc) (h : va.toNat % size = 0)
    (hc : va.toNat < 2 ^ 48) : s.checkVirtual core ctx va size a = s.access core ctx va a := by
  have hbits : ¬ bitsAt va.toNat 48 16 ≠ 0 := by rw [bits_above_48]; omega
  simp only [State.checkVirtual, if_neg (not_not.2 h), if_neg hbits]

theorem access_unmapped (s : State) (core ctx : Nat) (va : W64) (a : Acc) (h : s.leafFor core ctx va.toNat = none) :
    s.access core ctx va a = .error ⟨3, pageSub a, va⟩ := by
  simp only [State.access, h]

/-- A page of field memory that the context may read answers its place. -/
theorem access_fieldSite (s : State) (va : W64) (pa : Nat) (h : s.fieldSite va false pa) :
    s.access s.strand.g.core s.strand.g.ctx va .read = .ok (.mem .fm pa) := by
  obtain ⟨-, -, leaf, big, hleaf, rfl, hregion, hread, hpages⟩ := h
  have hevicted : (s.pages.any fun q => decide (q.ctx = s.strand.g.ctx) && decide (q.page = va.toNat / 2 ^ 21) && q.evicted.isSome) =
      false := by
    rw [List.any_eq_false]
    intro q hq h
    have hq' := List.all_eq_true.1 hpages q hq
    rw [h] at hq'
    exact absurd hq' (by decide)
  have hpermit : permits .read leaf = true := by simpa [permits] using hread
  simp only [State.access, hleaf, hevicted, hpermit, regionFor, hregion, Bool.false_eq_true, if_false, Bool.not_true, reduceCtorEq]

/-! ### Loaded values (R119) -/

theorem ofInt_signed (w : Nat) (x : BitVec w) : BitVec.ofInt 64 (signed w x.toNat) = x.signExtend 64 := by
  have hx : signed w x.toNat = x.toInt := by
    simp only [signed, BitVec.toInt, Nat.mod_eq_of_lt x.isLt]
  rw [hx, BitVec.signExtend]

/-- The number that bytes make with one more byte below them. -/
theorem toNat_append_byte {n : Nat} (x : BitVec n) (b : Byte) : (x ++ b).toNat = b.toNat + 256 * x.toNat := by
  rw [BitVec.toNat_append, ← Nat.shiftLeft_add_eq_or_of_lt b.isLt, Nat.shiftLeft_eq]
  omega

/-- Bytes of a memory read as a number and sign-extended (R119). -/
theorem sextBytes_readN (m : Mem) (a k : Nat) (hk : k ≤ 3) : sextBytes (2 ^ k) (leNat (Mem.readN m a (2 ^ k))) = loaded m a k := by
  have value : ∀ (n w v : Nat) (x : BitVec w), 8 * n = w → v = x.toNat → sextBytes n v = x.signExtend 64 := by
    rintro n w _ x rfl rfl
    exact ofInt_signed _ x
  obtain rfl | rfl | rfl | rfl : k = 0 ∨ k = 1 ∨ k = 2 ∨ k = 3 := by omega
  all_goals
    refine value _ _ _ _ rfl ?_
    simp [Mem.readN, leNat, toNat_append_byte, Nat.add_assoc]

/-! ### Loads -/

/-- A strand without held, pending and buffered stores reads the memory itself. -/
theorem ownBytes_of_none (w : Work) (t : Tgt) (a n : Nat) (hw : w.ws = []) (hp : w.cur.pend = []) (hb : w.cur.buf = [])
    (ht : t ≠ .host) : w.ownBytes t a n = Mem.readN (w.st.memOf t) a n := by
  simp [Work.ownBytes, Work.bytes, hw, hp, hb, ht]

/-- A strand without holds, held stores and remote writes waits for nothing before a read. -/
theorem loadGate_of_none (w : Work) (cls : Nat) (hh : w.cur.holds = []) (hp : w.cur.pend = []) (hr : w.cur.remotes = []) :
    w.loadGate cls = .ok () := by
  simp only [Work.cur] at hh hp hr
  simp [Work.loadGate, State.loadBlockers, State.heldBy, State.farOf, State.stillPending, hh, hp, hr]

/-- A strand whose reads wait for nothing and see no store of its own. -/
structure Strand.Quiet (t : Strand) : Prop where
  holds : t.holds = []
  pend : t.pend = []
  buf : t.buf = []
  remotes : t.remotes = []

theorem loadVirtual_field (s : State) (w : Work) (cls k : Nat) (va : W64) (pa : Nat) (ho : w.Opens s) (hq : s.strand.Quiet)
    (hal : va.toNat % 2 ^ k = 0) (hsite : s.fieldSite va false pa) (hpoison : (s.line false (pa / 64)).poison = false) :
    w.loadVirtual cls va (2 ^ k) = .ok (leNat (Mem.readN s.fm pa (2 ^ k)), w.note (.mem .fm pa)) := by
  have hcheck : w.st.checkVirtual w.cur.g.core w.cur.g.ctx va (2 ^ k) .read = .ok (.mem .fm pa) := by
    rw [ho.checkVirtual, checkVirtual_canonical _ _ _ _ _ _ hal hsite.1, access_fieldSite s va pa hsite]
  have hline : w.st.poisoned (.mem .fm pa) = false := by
    obtain ⟨cores, hst, -⟩ := ho.rings
    rw [hst]
    exact hpoison
  have hbytes : w.readSite (.mem .fm pa) (2 ^ k) = Mem.readN s.fm pa (2 ^ k) := by
    obtain ⟨cores, hst, -⟩ := ho.rings
    refine (ownBytes_of_none w .fm pa _ ho.ws ?_ ?_ (by decide)).trans ?_
    · rw [ho.cur, hq.pend]
    · rw [ho.cur, hq.buf]
    · rw [hst]
      rfl
  simp only [Work.loadVirtual, hcheck, hline, hbytes, Bool.false_eq_true, if_false]
  rw [loadGate_of_none w cls (by rw [ho.cur, hq.holds]) (by rw [ho.cur, hq.pend]) (by rw [ho.cur, hq.remotes])]

theorem note_field (w : Work) (pa : Nat) (h : pa < 384 * 2 ^ 30) : (w.note (.mem .fm pa)).absent = w.absent := by
  simp only [Work.note, Site.exists?, decide_eq_true h, Bool.not_true, Bool.or_false]

/-- A load that completes: its value in x(d) and every byte as it was. -/
theorem finish_load (s : State) (w : Work) (d : Reg) (v : W64) (hc : w.cur = s.strand) (ha : w.absent = false) (hw : w.ws = []) :
    ∃ t, s.finish (w.result d v) = .next t ∧ t.strand = (s.strand.wx d v).nextWord ∧ s.sameBytes t := by
  obtain ⟨t, ht, hs, hb⟩ := finish_silent s (w.result d v) ha hw
  refine ⟨t, ht, hs.trans ?_, hb⟩
  rw [← hc]
  rfl

/-- `ld` from field memory. -/
theorem loadWord_reads (k : Nat) (hk : k ≤ 3) (d a : Reg) (st : BitVec 2) (imm : BitVec 11) (s : State) (pa : Nat) :
    let va := s.scalarVa a imm k
    va.toNat % 2 ^ k = 0 → s.fieldSite va false pa → (s.line false (pa / 64)).poison = false → s.strand.Quiet →
      ∃ t, loadWord k d a st imm s = .next t ∧ t.strand = (s.strand.wx d (loaded s.fm pa k)).nextWord ∧ s.sameBytes t := by
  intro va hal hsite hpoison hq
  have ho := traceScalar_opens s k st.toNat 0 va
  have hload := loadVirtual_field s _ st.toNat k va pa ho hq hal hsite hpoison
  have hexec : loadWord k d a st imm s =
      s.finish (((s.work.traceScalar k st.toNat 0 va).note (.mem .fm pa)).result d (loaded s.fm pa k)) := by
    simp only [loadWord, show s.strand.scalarAddr a imm k = va from rfl, hload, sextBytes_readN _ _ k hk]
  rw [hexec]
  exact finish_load s _ d _ ho.cur ((note_field _ _ hsite.2.1).trans ho.absent) ho.ws

/-- Settles O8, by the load of each size. -/
theorem loadsWriteSignExtendedBytes : Obligations.LoadsWriteSignExtendedBytes := by
  unfold Obligations.LoadsWriteSignExtendedBytes
  intro d a st imm s pa reads
  have each : ∀ (i : Instr) (k : Nat), k ≤ 3 → exec i s = loadWord k d a st imm s → reads i k := by
    intro i k hk hi hal hsite hpoison hh hp hb hr
    rw [hi]
    exact loadWord_reads k hk d a st imm s pa hal hsite hpoison ⟨hh, hp, hb, hr⟩
  exact ⟨each _ 0 (by decide) rfl, each _ 1 (by decide) rfl, each _ 2 (by decide) rfl, each _ 3 (by decide) rfl⟩

end Sys2Proof.Machine

/-! PROOFS. Scalar stores, scratchpad words, and the checks of scalar accesses (O9 to O11). -/

namespace Sys2Proof.Machine

/-! ### Bytes of a store -/

theorem getD_leBytes (n v j : Nat) (h : j < n) : (leBytes n v).getD j 0 = BitVec.ofNat 8 (v / 256 ^ j) := by
  induction n generalizing v j with
  | zero => omega
  | succ n ih =>
    cases j with
    | zero => simp [leBytes]
    | succ j =>
      rw [leBytes, List.getD_cons_succ, ih _ _ (by omega), Nat.div_div_eq_div_mul, ← Nat.pow_succ']

/-- The bytes of a data register. -/
theorem getD_leBytes_toNat (n : Nat) (x : W64) (j : Nat) (h : j < n) : (leBytes n x.toNat).getD j 0 = x.extractLsb' (8 * j) 8 := by
  rw [getD_leBytes n _ j h]
  apply BitVec.eq_of_toNat_eq
  rw [BitVec.toNat_ofNat, BitVec.extractLsb'_toNat, Nat.shiftRight_eq_div_pow, Nat.pow_mul]

/-- A step whose one write puts bytes into a memory leaves them there, and every other byte as it was. -/
theorem finish_put (s : State) (w : Work) (g : Tgt) (a : Nat) (bs : List Byte) (o : BitVec 12) (raw : Bool) (ha : w.absent = false)
    (hw : w.ws = [.put g a bs o raw]) :
    ∃ t, s.finish w = .next t ∧ t.strand = w.cur ∧ s.sameBytesBut t g a bs.length ∧
      ∀ j, j < bs.length → Mem.read (t.memOf g) (a + j) = bs.getD j 0 := by
  have hmem : ∀ h, (s.commit w).memOf h = if h = g then Mem.write (s.memOf h) a bs else s.memOf h := by
    intro h
    simp only [State.commit, hw, List.foldl_cons, List.foldl_nil, memOf_applyWrite, memOf_base]
  refine ⟨_, State.finish_next s w ha, commit_strand s w, fun h b hb => ?_, fun j hj => ?_⟩
  · rw [hmem]
    split
    · next hg =>
      rw [Mem.read_write, if_neg]
      rintro ⟨h1, h2⟩
      exact hb ⟨hg, h1, h2⟩
    · rfl
  · rw [hmem, if_pos rfl, Mem.read_write, if_pos ⟨by omega, by omega⟩]
    congr 1
    omega

/-! ### Stores of a strand that waits for nothing -/

/-- A strand outside a strip whose stores leave it at once. -/
structure Strand.Free (t : Strand) : Prop where
  buffering : t.buffering = false
  pend : t.pend = []
  holds : t.holds = []
  remotes : t.remotes = []
  buf : t.buf = []

theorem free_of_plain (t : Strand) (h : t.plain = true) : t.Free := by
  simp only [Strand.plain, Bool.and_eq_true, Bool.not_eq_true', List.isEmpty_iff] at h
  obtain ⟨⟨⟨⟨⟨-, hbuf⟩, hb⟩, hp⟩, hh⟩, hr⟩ := h
  exact ⟨hbuf, hp, hh, hr, hb⟩

theorem Strand.Free.quiet {t : Strand} (h : t.Free) : t.Quiet := ⟨h.holds, h.pend, h.buf, h.remotes⟩

/-- What keeps a store of such a strand back: the commands on its scratchpad bytes, and all that is earlier for an external write. -/
theorem storeBlockers_of_free (s : State) (h : s.strand.Free) (c : Nat) (st : Store)
    (hsp : ∀ a b, st.spRange = some (a, b) → s.envBlockers none (some (a, b)) = [])
    (hext : ∀ d a bs, st = .ext d a bs → s.everyEarlier = []) : s.storeBlockers c st = [] := by
  have hheld : s.heldBy c true = [] := by simp [State.heldBy, State.stillPending, h.holds]
  have hfar : ∀ p, s.farOf s.strand p = [] := fun p => by simp [State.farOf, State.stillPending, h.remotes]
  cases st with
  | mem w =>
    cases hr : (Store.mem w).spRange with
    | none => simp only [State.storeBlockers, hheld, hfar, h.pend, hr, List.filter_nil, List.map_nil, List.append_nil]
    | some r => simp only [State.storeBlockers, hheld, hfar, h.pend, hr, hsp r.1 r.2 hr, List.filter_nil, List.map_nil, List.append_nil]
  | ext d a bs =>
    simp only [State.storeBlockers, Store.spRange, hheld, h.pend, hext d a bs rfl, List.filter_nil, List.map_nil, List.append_nil]
  | remote m a bs => simp only [State.storeBlockers, Store.spRange, hheld, h.pend, List.filter_nil, List.map_nil, List.append_nil]

/-- A store that nothing keeps back is performed. -/
theorem store_performs (w : Work) (cls : Nat) (va : Option Nat) (st : Store) (hb : w.cur.buffering = false)
    (hblock : w.st.storeBlockers (st.classOf cls) st = []) (hcan : w.canPerform st = true) :
    w.store cls va st = { ({ w with cls := st.classOf cls, va := va } : Work).perform st with cls := w.cls, va := w.va } := by
  simp only [Work.store, hb, Bool.false_eq_true, if_false, Work.issueStore, hblock, hcan, List.isEmpty_nil, Bool.and_self, if_true]

/-- A store in an open strip whose buffer has room is held there. -/
theorem store_buffers (w : Work) (cls : Nat) (va : Option Nat) (st : Store) (hb : w.cur.buffering = true)
    (hroom : bufBytes w.cur.buf + st.len ≤ Config.stripBytes) :
    w.store cls va st = w.upd fun s => { s with buf := s.buf ++ [⟨cls, va, st⟩] } := by
  simp only [Work.store, hb, if_true, if_pos hroom]

/-! ### Places (R118) -/

/-- The physical address of an access is aligned as its virtual address is. -/
theorem physOf_mod (leaf : W64) (big : Bool) (va k : Nat) (hk : k ≤ 3) : physOf leaf big va % 2 ^ k = va % 2 ^ k := by
  obtain rfl | rfl | rfl | rfl : k = 0 ∨ k = 1 ∨ k = 2 ∨ k = 3 := by omega
  all_goals
    cases big <;> simp only [physOf, Bool.false_eq_true, if_false, if_true] <;> omega

theorem regionFor_mem (s : State) (a : Acc) (leaf : W64) (p pa : Nat) (g : Tgt) (h : regionFor s a leaf p = .ok (.mem g pa)) : pa = p := by
  grind [regionFor]

/-- An access that goes to a memory goes to the physical address of its translation. -/
theorem access_mem_aligned (s : State) (core ctx : Nat) (va : W64) (a : Acc) (g : Tgt) (pa k : Nat) (hk : k ≤ 3)
    (h : s.access core ctx va a = .ok (.mem g pa)) : pa % 2 ^ k = va.toNat % 2 ^ k := by
  unfold State.access at h
  split at h
  · cases h
  · split at h
    · cases h
    · split at h
      · cases h
      · split at h
        · cases h
        · next hr =>
          cases h
          rw [regionFor_mem s a _ _ pa g hr, physOf_mod _ _ _ k hk]

/-- An aligned access of a scalar word lies in one line. -/
theorem linesOf_aligned (pa k : Nat) (hk : k ≤ 3) (h : pa % 2 ^ k = 0) : linesOf pa (2 ^ k) = [pa / 64] := by
  have hone : (pa + 2 ^ k - 1) / 64 + 1 - pa / 64 = 1 := by
    obtain rfl | rfl | rfl | rfl : k = 0 ∨ k = 1 ∨ k = 2 ∨ k = 3 := by omega
    all_goals omega
  rw [linesOf, hone]
  simp

/-- A log that is not full takes one line more. -/
theorem linesFit_one (w : Work) (heath : Bool) (n : Nat) (hw : w.ws = [])
    (h : (w.st.undo heath).length < if heath then Config.undoCapH else Config.undoCapF) : w.linesFit heath [n] = true := by
  simp only [Work.linesFit, hw, List.flatMap_nil, List.nil_append, List.length_singleton, Bool.or_eq_true, decide_eq_true_eq]
  exact .inl h

end Sys2Proof.Machine

/-! PROOFS. Scalar stores by region and the scratchpad words (O9, O10). -/

namespace Sys2Proof.Machine

/-! ### Flits sent (R321 to R323) -/

/-- A flit that waits on a port goes or stays, and none is lost. -/
theorem split_keeps (p : Port) (held : Flit → Bool) (f : Flit) (hf : f ∈ p.queue) (hvc : f.vc ≠ 2) :
    f ∈ (p.split held).1 ∨ f ∈ (p.split held).2 := by
  have parts : ∀ (l : List Flit) (n : Nat), f ∈ l → f ∈ l.take n ∨ f ∈ l.drop n := fun l n h => by
    rwa [← List.mem_append, List.take_append_drop]
  simp only [Port.split]
  split
  · exact parts _ _ hf
  · rcases parts _ p.owed hf with h | h
    · exact .inl (by simp [h])
    · cases hheld : held f with
      | true => exact .inr (by simp [h, hvc, hheld])
      | false =>
        have hother : f ∈ (p.queue.drop p.owed).filter fun f => decide (f.vc ≠ 2) && !held f := by simp [h, hvc, hheld]
        rcases parts _ _ hother with h | h
        · exact .inl (List.mem_append_right _ h)
        · exact .inr (List.mem_append_left _ (List.mem_append_right _ h))

theorem port_setPort (s : State) (n : Nat) (p : Port) (h : n < 12) : (s.setPort n p).port n = p := by
  simp [State.setPort, State.port, h]

theorem usable_lt (s : State) (n : Nat) (h : (s.port n).usable = true) : n < 12 := by
  by_contra hn
  simp [State.port, hn, Port.usable] at h

/-- A port in use that is served keeps the flits that stay, and those that go in its replay buffer. -/
theorem pump_port (s : State) (n : Nat) (h : (s.port n).usable = true) :
    ((s.pump n).port n).queue = ((s.port n).split (s.overtakes n)).2 ∧
      ((s.pump n).port n).replay = (s.port n).replay ++ ((s.port n).split (s.overtakes n)).1.zipIdx.map
        fun e => { e.1 with seq := (s.port n).seq + BitVec.ofNat 16 e.2, ackSeq := (s.port n).rxSeq } := by
  simp only [State.pump, h, if_true]
  constructor
  · exact congrArg Port.queue (port_setPort s n _ (usable_lt s n h))
  · exact congrArg Port.replay (port_setPort s n _ (usable_lt s n h))

/-- A flit that waits on a port in use is there, but for its numbers, when the port has been served. -/
theorem pump_keeps (s : State) (n : Nat) (f : Flit) (hu : (s.port n).usable = true) (hf : f ∈ (s.port n).queue) (hvc : f.vc ≠ 2) :
    ∃ a b, { f with seq := a, ackSeq := b } ∈ ((s.pump n).port n).queue ∨ { f with seq := a, ackSeq := b } ∈ ((s.pump n).port n).replay := by
  obtain ⟨hqueue, hreplay⟩ := pump_port s n hu
  rw [hqueue, hreplay]
  rcases split_keeps (s.port n) (s.overtakes n) f hf hvc with h | h
  · obtain ⟨i, hi, rfl⟩ := List.getElem_of_mem h
    exact ⟨_, _, .inr (List.mem_append_right _ (List.mem_map_of_mem (List.mk_mem_zipIdx_iff_getElem?.2 (List.getElem?_eq_getElem hi))))⟩
  · exact ⟨f.seq, f.ackSeq, .inl h⟩

theorem leastOf_mem (l : List Nat) (n : Nat) (h : leastOf l = some n) : n ∈ l := by
  induction l generalizing n with
  | nil => cases h
  | cons x xs ih =>
    rw [leastOf] at h
    split at h
    · next b hb =>
      cases h
      rcases min_choice x b with hmin | hmin <;> rw [hmin]
      · exact List.mem_cons_self
      · exact List.mem_cons_of_mem _ (ih b hb)
    · cases h
      exact List.mem_cons_self

/-- The primary port of a module is up or degraded. -/
theorem primary_usable (s : State) (x : Bool) (m n : Nat) (h : s.primary x m = some n) : (s.port n).usable = true := by
  obtain ⟨p, -, hp⟩ := Option.bind_eq_some_iff.1 h
  exact (List.mem_filter.1 (leastOf_mem _ n hp)).2

/-- A message of one flit sent to a module is at its primary port, but for its numbers. -/
theorem sendTo_leaves (s : State) (x : Bool) (m n kind vc uid addr : Nat) (bs : List Byte) (h : s.primary x m = some n)
    (hlen : bs.length ≤ payloadRoom) (hvc : vc ≠ 2) :
    ∃ f, (f ∈ ((s.sendTo x m kind vc uid addr bs).port n).queue ∨ f ∈ ((s.sendTo x m kind vc uid addr bs).port n).replay) ∧
      f.dest = some (x, m) ∧ f.kind = kind ∧ f.vc = vc ∧ f.uid = uid ∧ f.addr = addr ∧ f.bytes = bs := by
  have hu := primary_usable s x m n h
  have hport := fun p => port_setPort s n p (usable_lt s n hu)
  simp only [State.sendTo, h, State.sendOn]
  generalize ((s.peerOf x m).map (·.ports)).getD [] = route
  have first : ⟨some (x, m), kind, vc, 0, 0, uid, addr, bs.take payloadRoom, route⟩ ∈
      flitsOf (some (x, m)) kind vc uid addr bs route (bs.length / payloadRoom + 1) := by
    rw [flitsOf]
    exact List.mem_cons_self
  generalize flitsOf (some (x, m)) kind vc uid addr bs route (bs.length / payloadRoom + 1) = flits at first ⊢
  obtain ⟨a, b, hf⟩ := pump_keeps (s.setPort n { s.port n with queue := (s.port n).queue ++ flits }) n _
    (by rw [hport]; exact hu) (by rw [hport]; exact List.mem_append_right _ first) hvc
  exact ⟨_, hf, rfl, rfl, rfl, rfl, rfl, List.take_of_length_le hlen⟩

/-! ### A store at its dispatch -/

theorem Work.Opens.note {w : Work} {s : State} (h : w.Opens s) (p : Site) (hp : p.exists? = true) : (w.note p).Opens s :=
  ⟨h.rings, h.ws, by simp [Work.note, h.absent, hp], h.src⟩

/-- An aligned store to a place that exists, with nothing to wait for, is a store of the strand. -/
theorem storeWord_stores (k : Nat) (d a : Reg) (st : BitVec 2) (imm : BitVec 11) (s : State) (p : Site)
    (hal : (s.scalarVa a imm k).toNat % 2 ^ k = 0) (hsite : s.storeSite (s.scalarVa a imm k) p)
    (hwait : ∀ w : Work, w.Opens s → w.storeWait s.strand.g.ctx (s.scalarVa a imm k).toNat p (2 ^ k) = none) :
    ∃ w : Work, w.Opens s ∧ storeWord k d a st imm s =
      s.finish (w.store st.toNat (some (s.scalarVa a imm k).toNat) (w.storeAt p (leBytes (2 ^ k) (s.strand.rx d).toNat))).retire := by
  have ho := traceScalar_opens s k st.toNat 1 (s.scalarVa a imm k)
  obtain ⟨hcanon, haccess, hexists⟩ := hsite
  have hcheck := (ho.checkVirtual (s.scalarVa a imm k) (2 ^ k) .write).trans (checkVirtual_canonical s _ _ _ _ _ hal hcanon)
  have hroom := hwait _ ho
  rw [← ho.cur] at hroom
  refine ⟨_, ho.note p hexists, ?_⟩
  simp only [storeWord, show s.strand.scalarAddr a imm k = s.scalarVa a imm k from rfl, Work.storeVirtual, hcheck, haccess,
    hroom]
  rfl

/-- What a store of a free strand waits for depends on the state that the word found. -/
theorem Work.Opens.blockers {w : Work} {s : State} (ho : w.Opens s) (hf : s.strand.Free) (c : Nat) (st : Store)
    (hsp : ∀ a b, st.spRange = some (a, b) → s.envBlockers none (some (a, b)) = [])
    (hext : ∀ d a bs, st = .ext d a bs → s.everyEarlier = []) : w.st.storeBlockers c st = [] := by
  obtain ⟨cores, hst, -⟩ := ho.rings
  rw [hst]
  exact storeBlockers_of_free _ hf c st hsp hext

/-- A store of bytes by a free strand, performed: the bytes in their memory and nothing else. -/
theorem store_lands {w : Work} {s : State} (ho : w.Opens s) (hf : s.strand.Free) (cls : Nat) (va : Option Nat) (g : Tgt) (a k : Nat)
    (x : W64) (o : BitVec 12)
    (hsp : g = .sp → s.envBlockers none (some (a, a + 2 ^ k)) = [])
    (hcan : w.canPerform (.mem (.put g a (leBytes (2 ^ k) x.toNat) o false)) = true)
    (hown : ∀ c v, ({ w with cls := c, va := v } : Work).putOwn (.put g a (leBytes (2 ^ k) x.toNat) o false) =
      { w with cls := c, va := v, ws := [.put g a (leBytes (2 ^ k) x.toNat) o false] }) :
    ∃ t, s.finish (w.store cls va (.mem (.put g a (leBytes (2 ^ k) x.toNat) o false))).retire = .next t ∧
      t.strand = s.strand.nextWord ∧ s.sameBytesBut t g a (2 ^ k) ∧
      ∀ j, j < 2 ^ k → Mem.read (t.memOf g) (a + j) = x.extractLsb' (8 * j) 8 := by
  have hrange : ∀ b e, (Store.mem (.put g a (leBytes (2 ^ k) x.toNat) o false)).spRange = some (b, e) →
      s.envBlockers none (some (b, e)) = [] := by
    intro b e h
    cases g <;> simp only [Store.spRange, reduceCtorEq, Option.some.injEq, Prod.mk.injEq, length_leBytes] at h
    obtain ⟨rfl, rfl⟩ := h
    exact hsp rfl
  have hperform := store_performs w cls va _ (by rw [ho.cur]; exact hf.buffering)
    (ho.blockers hf _ _ hrange fun _ _ _ h => by cases h) hcan
  rw [hperform, Work.perform, hown]
  obtain ⟨t, ht, hs, hframe, hread⟩ := finish_put s
    ({ w with ws := [.put g a (leBytes (2 ^ k) x.toNat) o false] } : Work).retire g a (leBytes (2 ^ k) x.toNat) o false ho.absent rfl
  refine ⟨t, ht, hs.trans ?_, by rwa [length_leBytes] at hframe, fun j hj => ?_⟩
  · rw [← ho.cur]
    rfl
  · rw [hread j (by rwa [length_leBytes]), getD_leBytes_toNat _ _ _ hj]

/-- An aligned store to field memory or the Heath lies in one line, which a log with room takes. -/
theorem Work.Opens.linesFit {w : Work} {s : State} (ho : w.Opens s) (heath : Bool) (pa k : Nat) (hk : k ≤ 3) (hal : pa % 2 ^ k = 0)
    (h : (s.undo heath).length < if heath then Config.undoCapH else Config.undoCapF) : w.linesFit heath (linesOf pa (2 ^ k)) = true := by
  obtain ⟨cores, hst, -⟩ := ho.rings
  rw [linesOf_aligned pa k hk hal]
  exact linesFit_one w heath _ ho.ws (by rw [hst]; exact h)

/-- The step of a store that changes no byte of a memory. -/
theorem finish_store (s : State) (w : Work) (ha : w.absent = false) (hw : w.ws = []) :
    ∃ t, s.finish w.retire = .next t ∧ s.sameBytes t ∧ t.strand = w.cur.nextWord ∧ t.hold = w.st.hold ∧ t.ports = w.st.ports := by
  refine ⟨_, State.finish_next s w.retire ha, ?_⟩
  rw [State.commit_nil s w.retire hw]
  exact ⟨sameBytes_base s w.retire, rfl, rfl, rfl⟩

/-- `st` to field memory, outside a strip. -/
theorem storeWord_field (k : Nat) (hk : k ≤ 3) (d a : Reg) (st : BitVec 2) (imm : BitVec 11) (s : State) (pa : Nat)
    (hal : (s.scalarVa a imm k).toNat % 2 ^ k = 0) (hsite : s.storeSite (s.scalarVa a imm k) (.mem .fm pa))
    (hlog : s.undoF.length < Config.undoCapF) (hf : s.strand.Free) :
    ∃ t, storeWord k d a st imm s = .next t ∧ t.strand = s.strand.nextWord ∧ s.sameBytesBut t .fm pa (2 ^ k) ∧
      ∀ j, j < 2 ^ k → Mem.read (t.memOf .fm) (pa + j) = (s.strand.rx d).extractLsb' (8 * j) 8 := by
  have hpa : pa % 2 ^ k = 0 := (access_mem_aligned s _ _ _ _ _ pa k hk hsite.2.1).trans hal
  have hfits : ∀ w : Work, w.Opens s → w.linesFit false (linesOf pa (2 ^ k)) = true := fun w ho => ho.linesFit false pa k hk hpa hlog
  obtain ⟨w, ho, hexec⟩ := storeWord_stores k d a st imm s _ hal hsite fun w ho => by
    simp only [Work.storeWait, hfits w ho, if_true]
  rw [hexec]
  exact store_lands ho hf _ _ .fm pa k _ _ (fun h => by cases h)
    (by simpa only [Work.canPerform, length_leBytes] using hfits w ho) (fun c v => by simp [Work.putOwn, Work.put, ho.ws])

/-- `st` to a page of the Heath, outside a strip. -/
theorem storeWord_heath (k : Nat) (hk : k ≤ 3) (d a : Reg) (st : BitVec 2) (imm : BitVec 11) (s : State) (pa : Nat)
    (hal : (s.scalarVa a imm k).toNat % 2 ^ k = 0) (hsite : s.storeSite (s.scalarVa a imm k) (.mem .hm pa))
    (hlog : s.undoH.length < Config.undoCapH) (hstack : s.stackUp pa = true)
    (hpages : ∀ q ∈ s.pages, q.ctx = s.strand.g.ctx → q.page = (s.scalarVa a imm k).toNat / 2 ^ 21 → q.migrating = false)
    (hf : s.strand.Free) :
    ∃ t, storeWord k d a st imm s = .next t ∧ t.strand = s.strand.nextWord ∧ s.sameBytesBut t .hm pa (2 ^ k) ∧
      ∀ j, j < 2 ^ k → Mem.read (t.memOf .hm) (pa + j) = (s.strand.rx d).extractLsb' (8 * j) 8 := by
  have hpa : pa % 2 ^ k = 0 := (access_mem_aligned s _ _ _ _ _ pa k hk hsite.2.1).trans hal
  have hfits : ∀ w : Work, w.Opens s → w.linesFit true (linesOf pa (2 ^ k)) = true := fun w ho => ho.linesFit true pa k hk hpa hlog
  have hstays : (s.pages.any fun q => decide (q.ctx = s.strand.g.ctx) && decide (q.page = (s.scalarVa a imm k).toNat / 2 ^ 21) &&
      q.migrating) = false := by
    rw [List.any_eq_false]
    intro q hq h
    simp only [Bool.and_eq_true, decide_eq_true_eq] at h
    obtain ⟨⟨hctx, hpage⟩, hmig⟩ := h
    rw [hpages q hq hctx hpage] at hmig
    cases hmig
  obtain ⟨w, ho, hexec⟩ := storeWord_stores k d a st imm s _ hal hsite fun w ho => by
    obtain ⟨cores, hst, -⟩ := ho.rings
    have hup : w.st.stackUp pa = true := by rw [hst]; exact hstack
    have hmig : w.st.pages = s.pages := by rw [hst]
    simp only [Work.storeWait, hmig, hstays, hup, hfits w ho, Bool.false_eq_true, Bool.not_true, if_false, if_true]
  rw [hexec]
  exact store_lands ho hf _ _ .hm pa k _ _ (fun h => by cases h)
    (by simpa only [Work.canPerform, length_leBytes] using hfits w ho) (fun c v => by simp [Work.putOwn, Work.put, ho.ws])

/-- `st` to field memory, in an open strip with room. -/
theorem storeWord_strip (k : Nat) (hk : k ≤ 3) (d a : Reg) (st : BitVec 2) (imm : BitVec 11) (s : State) (pa : Nat)
    (hal : (s.scalarVa a imm k).toNat % 2 ^ k = 0) (hsite : s.storeSite (s.scalarVa a imm k) (.mem .fm pa))
    (hlog : s.undoF.length < Config.undoCapF) (hopen : s.strand.buffering = true)
    (hroom : bufBytes s.strand.buf + 2 ^ k ≤ Config.stripBytes) :
    ∃ t, storeWord k d a st imm s = .next t ∧ s.sameBytes t ∧ t.strand = { s.strand with
      buf := s.strand.buf ++ [(⟨st.toNat, some (s.scalarVa a imm k).toNat,
        .mem (.put .fm pa (leBytes (2 ^ k) (s.strand.rx d).toNat) (s.ownerTag s.strand.g.ctx) false)⟩ : BufStore)] }.nextWord := by
  have hpa : pa % 2 ^ k = 0 := (access_mem_aligned s _ _ _ _ _ pa k hk hsite.2.1).trans hal
  obtain ⟨w, ho, hexec⟩ := storeWord_stores k d a st imm s _ hal hsite fun w ho => by
    simp only [Work.storeWait, ho.linesFit false pa k hk hpa hlog, if_true]
  have howner : w.st.ownerTag w.cur.g.ctx = s.ownerTag s.strand.g.ctx := by
    obtain ⟨cores, hst, -⟩ := ho.rings
    rw [ho.cur, hst]
    rfl
  have hbuf := store_buffers w st.toNat (some (s.scalarVa a imm k).toNat)
    (w.storeAt (.mem .fm pa) (leBytes (2 ^ k) (s.strand.rx d).toNat)) (by rw [ho.cur]; exact hopen)
    (by rw [ho.cur]; simpa only [Work.storeAt, Store.len, length_leBytes] using hroom)
  obtain ⟨t, ht, hbytes, hs, -⟩ := finish_store s (w.upd fun s' => { s' with buf := s'.buf ++ [⟨st.toNat,
    some (s.scalarVa a imm k).toNat, w.storeAt (.mem .fm pa) (leBytes (2 ^ k) (s.strand.rx d).toNat)⟩] }) ho.absent ho.ws
  refine ⟨t, by rw [hexec, hbuf, ht], hbytes, ?_⟩
  rw [hs, ← howner, ← ho.cur]
  rfl

/-- `st` to the host window, once nothing earlier of the strand is outstanding. -/
theorem storeWord_host (k : Nat) (d a : Reg) (st : BitVec 2) (imm : BitVec 11) (s : State) (pa : Nat)
    (hal : (s.scalarVa a imm k).toNat % 2 ^ k = 0) (hsite : s.storeSite (s.scalarVa a imm k) (.ext .host pa))
    (hroom : s.holdTakes (2 ^ k) = true) (hf : s.strand.Free) (hearlier : s.everyEarlier = []) :
    ∃ t, storeWord k d a st imm s = .next t ∧ t.strand = s.strand.nextWord ∧ s.sameBytes t ∧
      t.hold = s.hold ++
        [⟨s.rin.toNat, .host, 0, [], pa, leBytes (2 ^ k) (s.strand.rx d).toNat, s.strand.g.ctx, s.strand.g.gid, s.strand.sidx⟩] := by
  have htakes : ∀ w : Work, w.Opens s → w.st.holdTakes (2 ^ k) = true := by
    intro w ho
    obtain ⟨cores, hst, -⟩ := ho.rings
    rw [hst]
    exact hroom
  obtain ⟨w, ho, hexec⟩ := storeWord_stores k d a st imm s _ hal hsite fun w ho => by
    simp only [Work.storeWait, htakes w ho, if_true]
  have hperform := store_performs w st.toNat (some (s.scalarVa a imm k).toNat)
    (.ext .host pa (leBytes (2 ^ k) (s.strand.rx d).toNat)) (by rw [ho.cur]; exact hf.buffering)
    (ho.blockers hf _ _ (fun _ _ h => by cases h) fun _ _ _ _ => hearlier)
    (by simpa only [Work.canPerform, length_leBytes] using htakes w ho)
  obtain ⟨t, ht, hbytes, hs, hhold, -⟩ := finish_store s
    (w.mod fun s' => s'.holdWrite .host pa (leBytes (2 ^ k) (s.strand.rx d).toNat)) ho.absent ho.ws
  obtain ⟨cores, hst, -⟩ := ho.rings
  refine ⟨t, ?_, ?_, hbytes, ?_⟩
  · rw [hexec, Work.storeAt, hperform, ← ht]
    rfl
  · rw [hs, ← ho.cur]
    rfl
  · rw [hhold, Work.mod_st, hst]
    rfl

/-- `st` to the window of a module of the domain. -/
theorem storeWord_remote (k : Nat) (hk : k ≤ 3) (d a : Reg) (st : BitVec 2) (imm : BitVec 11) (s : State) (m n pa : Nat)
    (hal : (s.scalarVa a imm k).toNat % 2 ^ k = 0) (hsite : s.storeSite (s.scalarVa a imm k) (.remote m pa))
    (hport : s.primary false m = some n) (hf : s.strand.Free) :
    ∃ t, storeWord k d a st imm s = .next t ∧ s.sameBytes t ∧
      t.strand = { s.strand with remotes := [⟨s.nextId, st.toNat, some (s.scalarVa a imm k).toNat⟩] }.nextWord ∧
      ∃ f, (f ∈ (t.port n).queue ∨ f ∈ (t.port n).replay) ∧ f.dest = some (false, m) ∧ f.kind = 3 ∧ f.vc = 0 ∧
        f.uid = s.nextId ∧ f.addr = pa ∧ f.bytes = leBytes (2 ^ k) (s.strand.rx d).toNat := by
  have hprimary : ∀ w : Work, w.Opens s → w.st.primary false m = some n := by
    intro w ho
    obtain ⟨cores, hst, -⟩ := ho.rings
    rw [hst]
    exact hport
  obtain ⟨w, ho, hexec⟩ := storeWord_stores k d a st imm s _ hal hsite fun w ho => by
    simp [Work.storeWait, hprimary w ho]
  have hperform := store_performs w st.toNat (some (s.scalarVa a imm k).toNat)
    (.remote m pa (leBytes (2 ^ k) (s.strand.rx d).toNat)) (by rw [ho.cur]; exact hf.buffering)
    (ho.blockers hf _ _ (fun _ _ h => by cases h) fun _ _ _ h => by cases h)
    (by simp [Work.canPerform, hprimary w ho])
  obtain ⟨t, ht, hbytes, hs, -, hports⟩ := finish_store s
    { ({ w with cls := st.toNat, va := some (s.scalarVa a imm k).toNat } : Work).sendStore m pa
        (leBytes (2 ^ k) (s.strand.rx d).toNat) with cls := w.cls, va := w.va } ho.absent ho.ws
  have hid : w.st.nextId = s.nextId := by
    obtain ⟨cores, hst, -⟩ := ho.rings
    rw [hst]
  have hlen : (leBytes (2 ^ k) (s.strand.rx d).toNat).length ≤ payloadRoom := by
    rw [length_leBytes]
    exact (Nat.pow_le_pow_right (by decide) hk).trans (by decide)
  obtain ⟨f, hf', hfields⟩ := sendTo_leaves w.st false m n 3 0 s.nextId pa _ (hprimary w ho) hlen (by decide)
  refine ⟨t, ?_, hbytes, ?_, f, ?_, hfields⟩
  · rw [hexec, Work.storeAt, hperform, ← ht]
    rfl
  · rw [hs, ← ho.cur]
    have hnone : w.cur.remotes = [] := by rw [ho.cur, hf.remotes]
    simp only [Work.cur] at hnone
    simp [Work.sendStore, Work.cur, Work.upd, Work.mod, ho.src, hid, hnone, State.sendTo_strand]
  · have hsame : t.port n = (w.st.sendTo false m 3 0 s.nextId pa (leBytes (2 ^ k) (s.strand.rx d).toNat)).port n := by
      simp only [State.port, hports, Work.sendStore, ho.src, hid]
      rfl
    rwa [hsame]

/-- Settles O9, by the store of each size and the region that its page names. -/
theorem storesWriteTheLowBytes : Obligations.StoresWriteTheLowBytes := by
  unfold Obligations.StoresWriteTheLowBytes
  intro d a st imm s pa writes
  have each : ∀ (i : Instr) (k : Nat), k ≤ 3 → exec i s = storeWord k d a st imm s → writes i k := by
    intro i k hk hi hal
    rw [hi]
    exact ⟨fun hsite hlog hp => storeWord_field k hk d a st imm s pa hal hsite hlog (free_of_plain _ hp),
      fun hsite hlog hopen hroom => storeWord_strip k hk d a st imm s pa hal hsite hlog hopen hroom,
      fun hsite hlog hstack hpages hp => storeWord_heath k hk d a st imm s pa hal hsite hlog hstack hpages (free_of_plain _ hp),
      fun hsite hroom hp hearlier => storeWord_host k d a st imm s pa hal hsite hroom (free_of_plain _ hp) hearlier,
      fun m n hsite hport hp => storeWord_remote k hk d a st imm s m n pa hal hsite hport (free_of_plain _ hp)⟩
  exact ⟨each _ 0 (by decide) rfl, each _ 1 (by decide) rfl, each _ 2 (by decide) rfl, each _ 3 (by decide) rfl⟩

end Sys2Proof.Machine

/-! PROOFS. Scratchpad words and the order of the checks of a scalar access (O10, O11). -/

namespace Sys2Proof.Machine

/-! ### Checks of a scratchpad access (R117, R8, R121) -/

/-- A meadow address that the context may reach, in a bank that is awake, answers its device address. -/
theorem spCheck_awake (s : State) (va : W64) (size dev : Nat) (hal : va.toNat % size = 0)
    (hm : s.meadow s.strand.g va size = .ok dev) (hawake : s.bankAsleep dev = false) : s.work.spCheck va size = .ok dev := by
  rw [Work.spCheck, if_neg (not_not.2 hal)]
  change (match s.meadow s.strand.g va size with
    | .error t => Except.error (Stop.trap t)
    | .ok dev => if s.bankAsleep dev then .error (.wait (.bank (dev / 2 ^ 22) (bankOf dev))) else .ok dev) = _
  simp only [hm, hawake, Bool.false_eq_true, if_false]

theorem spCheck_misaligned (w : Work) (va : W64) (size : Nat) (h : va.toNat % size ≠ 0) :
    w.spCheck va size = .error (.trap ⟨2, 0, va⟩) := by
  rw [Work.spCheck, if_pos h]

/-- An address beyond the meadow's is an access fault of subcode 2. -/
theorem spCheck_beyond (w : Work) (va : W64) (size : Nat) (hal : va.toNat % size = 0)
    (h : 2 ^ 27 ≤ va.toNat ∨ 24 ≤ va.toNat / 2 ^ 22 % 32) : w.spCheck va size = .error (.trap ⟨4, 2, va⟩) := by
  have hlt := va.isLt
  have hbits : bitsAt va.toNat 27 37 ≠ 0 ∨ 24 ≤ bitsAt va.toNat 22 5 := by
    simp only [bitsAt]
    omega
  simp only [Work.spCheck, if_neg (not_not.2 hal), State.meadow, if_pos hbits]

/-- The bytes of a meadow access belong to its context. -/
theorem meadow_allowed (s : State) (g : Place) (va : W64) (n dev : Nat) (h : s.meadow g va n = .ok dev) :
    (s.spAllowed g dev && s.spAllowed g (dev + n - 1)) = true := by
  unfold State.meadow at h
  dsimp only at h
  split at h
  · cases h
  · split at h
    · cases h
    · split at h
      · next hs =>
        cases h
        exact hs
      · cases h

/-! ### Scratchpad words -/

/-- `spld`. -/
theorem loadSpWord_reads (k : Nat) (hk : k ≤ 3) (d a : Reg) (st : BitVec 2) (imm : BitVec 11) (s : State) (dev : Nat)
    (hal : (s.scalarVa a imm k).toNat % 2 ^ k = 0) (hm : s.meadow s.strand.g (s.scalarVa a imm k) (2 ^ k) = .ok dev)
    (hawake : s.bankAsleep dev = false) (hq : s.strand.Quiet) :
    ∃ t, loadSpWord k d a st imm s = .next t ∧ t.strand = (s.strand.wx d (loaded s.sp dev k)).nextWord ∧ s.sameBytes t := by
  have ho := traceScalar_opens s k st.toNat 3 (s.scalarVa a imm k)
  have hcheck := (ho.spCheck (s.scalarVa a imm k) (2 ^ k)).trans (spCheck_awake s _ _ dev hal hm hawake)
  have hcls : ¬ st.toNat = 6 := by have := st.isLt; omega
  generalize hw : s.work.traceScalar k st.toNat 3 (s.scalarVa a imm k) = w at ho hcheck
  have hgate := loadGate_of_none w st.toNat (by rw [ho.cur, hq.holds]) (by rw [ho.cur, hq.pend]) (by rw [ho.cur, hq.remotes])
  have hbytes : w.ownBytes .sp dev (2 ^ k) = Mem.readN s.sp dev (2 ^ k) := by
    obtain ⟨cores, hst, -⟩ := ho.rings
    refine (ownBytes_of_none w .sp dev _ ho.ws ?_ ?_ (by decide)).trans ?_
    · rw [ho.cur, hq.pend]
    · rw [ho.cur, hq.buf]
    · rw [hst]
      rfl
  have hexec : loadSpWord k d a st imm s = s.finish (w.result d (loaded s.sp dev k)) := by
    simp only [loadSpWord, show s.strand.scalarAddr a imm k = s.scalarVa a imm k from rfl, hw, Work.loadSp, hcheck, hgate,
      Work.readGate, hcls, if_false, List.isEmpty_nil, if_true, hbytes, sextBytes_readN _ _ k hk]
  rw [hexec]
  exact finish_load s w d _ ho.cur ho.absent ho.ws

/-- `spst`. -/
theorem storeSpWord_writes (k : Nat) (d a : Reg) (st : BitVec 2) (imm : BitVec 11) (s : State) (dev : Nat)
    (hal : (s.scalarVa a imm k).toNat % 2 ^ k = 0) (hm : s.meadow s.strand.g (s.scalarVa a imm k) (2 ^ k) = .ok dev)
    (hawake : s.bankAsleep dev = false) (hf : s.strand.Free) (henv : s.envBlockers none (some (dev, dev + 2 ^ k)) = []) :
    ∃ t, storeSpWord k d a st imm s = .next t ∧ t.strand = s.strand.nextWord ∧ s.sameBytesBut t .sp dev (2 ^ k) ∧
      ∀ j, j < 2 ^ k → Mem.read t.sp (dev + j) = (s.strand.rx d).extractLsb' (8 * j) 8 := by
  have ho := traceScalar_opens s k st.toNat 3 (s.scalarVa a imm k)
  have hcheck := (ho.spCheck (s.scalarVa a imm k) (2 ^ k)).trans (spCheck_awake s _ _ dev hal hm hawake)
  generalize hw : s.work.traceScalar k st.toNat 3 (s.scalarVa a imm k) = w at ho hcheck
  have hallowed := meadow_allowed s _ _ _ _ hm
  rw [← spAllowed_rings s w.st ho.rings, ← spAllowed_rings s w.st ho.rings, ← ho.cur] at hallowed
  have hexec : storeSpWord k d a st imm s =
      s.finish (w.store st.toNat none (.mem (.put .sp dev (leBytes (2 ^ k) (s.strand.rx d).toNat) 0 false))).retire := by
    simp only [storeSpWord, show s.strand.scalarAddr a imm k = s.scalarVa a imm k from rfl, hw, Work.storeSp, hcheck]
  rw [hexec]
  refine store_lands ho hf _ _ .sp dev k _ _ (fun _ => henv) rfl fun c v => ?_
  rw [Work.putOwn, length_leBytes]
  exact (if_pos hallowed).trans (by simp [Work.put, ho.ws])

/-- Settles O10, by the load and the store of each size. -/
theorem scratchpadWordsReadAndWrite : Obligations.ScratchpadWordsReadAndWrite := by
  unfold Obligations.ScratchpadWordsReadAndWrite
  intro d a st imm s dev reads writes
  have each : ∀ (l st' : Instr) (k : Nat), k ≤ 3 → exec l s = loadSpWord k d a st imm s → exec st' s = storeSpWord k d a st imm s →
      reads l k ∧ writes st' k := by
    intro l st' k hk hl hst
    refine ⟨fun hal hm hawake hp => ?_, fun hal hm hawake hp henv => ?_⟩
    · rw [hl]
      exact loadSpWord_reads k hk d a st imm s dev hal hm hawake (free_of_plain _ hp).quiet
    · rw [hst]
      exact storeSpWord_writes k d a st imm s dev hal hm hawake (free_of_plain _ hp) henv
  obtain ⟨r0, w0⟩ := each (.spldB d a st imm) (.spstB d a st imm) 0 (by decide) rfl rfl
  obtain ⟨r1, w1⟩ := each (.spldH d a st imm) (.spstH d a st imm) 1 (by decide) rfl rfl
  obtain ⟨r2, w2⟩ := each (.spldW d a st imm) (.spstW d a st imm) 2 (by decide) rfl rfl
  obtain ⟨r3, w3⟩ := each (.spldD d a st imm) (.spstD d a st imm) 3 (by decide) rfl rfl
  exact ⟨r0, r1, r2, r3, w0, w1, w2, w3⟩

/-! ### Traps of scalar accesses (R117, R127) -/

/-- An `ld` whose address fails a check takes that trap. -/
theorem loadWord_traps (k : Nat) (d a : Reg) (st : BitVec 2) (imm : BitVec 11) (s : State) (t : Trap) (hn : s.strand.nest = false)
    (h : s.checkVirtual s.strand.g.core s.strand.g.ctx (s.scalarVa a imm k) (2 ^ k) .read = .error t) :
    TrapsAs (loadWord k d a st imm s) s t.code t.sub t.tval := by
  have ho := traceScalar_opens s k st.toNat 0 (s.scalarVa a imm k)
  have hcheck := (ho.checkVirtual (s.scalarVa a imm k) (2 ^ k) .read).trans h
  simp only [loadWord, show s.strand.scalarAddr a imm k = s.scalarVa a imm k from rfl, Work.loadVirtual, hcheck]
  exact trapsAs_trapWord s _ t ho.fronts ho.absent hn

/-- The same of an `st`. -/
theorem storeWord_traps (k : Nat) (d a : Reg) (st : BitVec 2) (imm : BitVec 11) (s : State) (t : Trap) (hn : s.strand.nest = false)
    (h : s.checkVirtual s.strand.g.core s.strand.g.ctx (s.scalarVa a imm k) (2 ^ k) .write = .error t) :
    TrapsAs (storeWord k d a st imm s) s t.code t.sub t.tval := by
  have ho := traceScalar_opens s k st.toNat 1 (s.scalarVa a imm k)
  have hcheck := (ho.checkVirtual (s.scalarVa a imm k) (2 ^ k) .write).trans h
  simp only [storeWord, show s.strand.scalarAddr a imm k = s.scalarVa a imm k from rfl, Work.storeVirtual, hcheck]
  exact trapsAs_trapWord s _ t ho.fronts ho.absent hn

/-- The same of `spld` and `spst`. -/
theorem spWords_trap (k : Nat) (d a : Reg) (st : BitVec 2) (imm : BitVec 11) (s : State) (t : Trap) (hn : s.strand.nest = false)
    (h : ∀ w : Work, w.spCheck (s.scalarVa a imm k) (2 ^ k) = .error (.trap t)) :
    TrapsAs (loadSpWord k d a st imm s) s t.code t.sub t.tval ∧ TrapsAs (storeSpWord k d a st imm s) s t.code t.sub t.tval := by
  have ho := traceScalar_opens s k st.toNat 3 (s.scalarVa a imm k)
  simp only [loadSpWord, storeSpWord, show s.strand.scalarAddr a imm k = s.scalarVa a imm k from rfl, Work.loadSp, Work.storeSp, h]
  exact ⟨trapsAs_trapWord s _ t ho.fronts ho.absent hn, trapsAs_trapWord s _ t ho.fronts ho.absent hn⟩

/-- Settles O11, check by check. -/
theorem scalarAccessesAreCheckedInOrder : Obligations.ScalarAccessesAreCheckedInOrder := by
  unfold Obligations.ScalarAccessesAreCheckedInOrder
  intro d a st imm s hn checks
  have each : ∀ (ld sto spl sps : Instr) (k : Nat), exec ld s = loadWord k d a st imm s → exec sto s = storeWord k d a st imm s →
      exec spl s = loadSpWord k d a st imm s → exec sps s = storeSpWord k d a st imm s → checks ld sto spl sps k := by
    intro ld sto spl sps k hld hsto hspl hsps
    have hloads := fun t h => loadWord_traps k d a st imm s t hn h
    have hstores := fun t h => storeWord_traps k d a st imm s t hn h
    have hsp := fun t h => spWords_trap k d a st imm s t hn h
    rw [← hld] at hloads
    rw [← hsto] at hstores
    rw [← hspl, ← hsps] at hsp
    refine ⟨fun hal => ?_, fun hal hcanon => ?_, fun hal hbeyond => ?_, fun hal hcanon hleaf => ?_⟩
    · have hspad := hsp ⟨2, 0, s.scalarVa a imm k⟩ fun w => spCheck_misaligned w _ _ hal
      exact ⟨hloads ⟨2, 0, s.scalarVa a imm k⟩ (checkVirtual_misaligned s _ _ _ _ _ hal),
        hstores ⟨2, 0, s.scalarVa a imm k⟩ (checkVirtual_misaligned s _ _ _ _ _ hal), hspad⟩
    · exact ⟨hloads ⟨4, 0, s.scalarVa a imm k⟩ (checkVirtual_noncanonical s _ _ _ _ _ hal hcanon),
        hstores ⟨4, 0, s.scalarVa a imm k⟩ (checkVirtual_noncanonical s _ _ _ _ _ hal hcanon)⟩
    · exact hsp ⟨4, 2, s.scalarVa a imm k⟩ fun w => spCheck_beyond w _ _ hal hbeyond
    · exact ⟨hloads ⟨3, 1, s.scalarVa a imm k⟩
          ((checkVirtual_canonical s _ _ _ _ _ hal hcanon).trans (access_unmapped s _ _ _ _ hleaf)),
        hstores ⟨3, 2, s.scalarVa a imm k⟩
          ((checkVirtual_canonical s _ _ _ _ _ hal hcanon).trans (access_unmapped s _ _ _ _ hleaf))⟩
  exact ⟨each _ _ _ _ 0 rfl rfl rfl rfl, each _ _ _ _ 1 rfl rfl rfl rfl, each _ _ _ _ 2 rfl rfl rfl rfl,
    each _ _ _ _ 3 rfl rfl rfl rfl⟩

end Sys2Proof.Machine

/-! PROOFS. Events at a strand's boundary (O41). -/

namespace Sys2Proof.Machine

/-- An event of the strand in front is the work done for it, where that leaves a strand of its number. -/
theorem finish_onStrand (s : State) (f : Work → Work) (hl : s.strand.live = true) (hl' : (f s.work).cur.live = true)
    (hs : (f s.work).cur.sid = s.strand.sid) : s.finish (s.work.onStrand s.strand.sid f) = s.finish (f s.work) :=
  congrArg s.finish (onStrand_self s.work f hl hl' hs)

/-- A change of the strand in front that keeps its number is the whole outcome of its event. -/
theorem finish_onStrand_upd (s : State) (f : Work → Work) (g : Strand → Strand) (hf : f s.work = s.work.upd g)
    (hl : s.strand.live = true) (hl' : (g s.strand).live = true) (hs : (g s.strand).sid = s.strand.sid) :
    s.finish (s.work.onStrand s.strand.sid f) = .next (s.withStrand (g s.strand)) := by
  rw [finish_onStrand s f hl (by rw [hf]; exact hl') (by rw [hf]; exact hs), hf, State.finish_next _ _ rfl, commit_upd_work]

theorem nextWord_same_strand (t : Strand) : t.nextWord.live = t.live ∧ t.nextWord.sid = t.sid := by
  obtain ⟨x, p, l, hgo, -⟩ := goTo_frame t (t.pc + 4)
  rw [Strand.nextWord, Strand.retired, hgo]
  exact ⟨rfl, rfl⟩

/-- An event that completes a word of the strand in front with a value. -/
theorem finish_onStrand_result (s : State) (f : Work → Work) (d : Reg) (v : W64) (hf : f s.work = s.work.result d v)
    (hl : s.strand.live = true) : s.finish (s.work.onStrand s.strand.sid f) = .next (s.wrote d v) := by
  have hkeep : ((s.strand.wx d v).nextWord).live = s.strand.live ∧ ((s.strand.wx d v).nextWord).sid = s.strand.sid := by
    obtain ⟨hlive, hsid⟩ := nextWord_same_strand (s.strand.wx d v)
    exact ⟨hlive.trans (Strand.wx_live ..), hsid.trans (by simp [Strand.sid])⟩
  exact finish_onStrand_upd s f (fun t => (t.wx d v).nextWord) hf hl (hkeep.1.trans hl) hkeep.2

/-- A trap taken keeps the strand. -/
theorem takeTrap_same_strand (w : Work) (async : Bool) (t : Trap) (h : ¬(w.cur.nest = true ∧ async = false)) :
    (w.takeTrap async t).cur.live = w.cur.live ∧ (w.takeTrap async t).cur.sid = w.cur.sid := by
  obtain ⟨l, r, hcur⟩ := w.takeTrap_cur async t h
  rw [hcur]
  exact ⟨rfl, rfl⟩

/-- A place that exists leaves no mark. -/
theorem note_exists (w : Work) (p : Site) (h : p.exists? = true) : w.note p = w := by
  simp [Work.note, h]

theorem work_opens (s : State) : s.work.Opens s := ⟨⟨s.cores, rfl, fun _ => ⟨_, _, _, _, _, rfl⟩⟩, rfl, rfl, rfl⟩

/-! ### The events -/

/-- `TIMER_TRAP` of a strand that is ready for it. -/
theorem timerTrap_taken (s : State) (hl : s.strand.live = true) (h : s.timerReady s.strand = true) :
    ∃ u, exec (.timerTrap s.strand.sid) s = .next u ∧ u.strand.epc = s.strand.pc ∧ u.strand.cause = 0x1000C ∧ u.strand.tval = 0 ∧
      u.strand.pc = s.strand.tvec &&& (BitVec.allOnes 64 - 63) ∧ u.strand.status.getLsbD 2 = false ∧
      u.strand.status.getLsbD 4 = true ∧ u.strand.x = s.strand.x := by
  have hok : ¬(s.work.cur.nest = true ∧ true = false) := by rintro ⟨-, h⟩; cases h
  obtain ⟨hlive, hsid⟩ := takeTrap_same_strand s.work true ⟨0x0C, 0, 0⟩ hok
  have hf : (if s.work.st.timerReady s.work.cur then s.work.timerTrap else s.work) = s.work.takeTrap true ⟨0x0C, 0, 0⟩ := if_pos h
  have hexec := finish_onStrand s (fun w => if w.st.timerReady w.cur then w.timerTrap else w) hl
    (by rw [hf]; exact hlive.trans hl) (by rw [hf]; exact hsid)
  obtain ⟨l, r, hcur⟩ := s.work.takeTrap_cur true ⟨0x0C, 0, 0⟩ hok
  obtain ⟨-, -, htie, -, hnest⟩ := statusOf_bits true s.work.cur.tie false s.work.cur.priv true
  have habsent : (s.work.takeTrap true ⟨0x0C, 0, 0⟩).absent = false := by simp [Work.takeTrap, State.work]
  refine ⟨_, hexec.trans ((congrArg s.finish hf).trans (State.finish_next s _ habsent)), ?_⟩
  rw [commit_strand, hcur]
  exact ⟨rfl, rfl, rfl, rfl, htie, hnest, rfl⟩

/-- `TIMER_TRAP` of another one. -/
theorem timerTrap_left (s : State) (hl : s.strand.live = true) (h : s.timerReady s.strand = false) :
    exec (.timerTrap s.strand.sid) s = .next s := by
  have hf : (if s.work.st.timerReady s.work.cur then s.work.timerTrap else s.work) = s.work :=
    if_neg fun hready => absurd (h.symm.trans hready) (by decide)
  have hexec := finish_onStrand s (fun w => if w.st.timerReady w.cur then w.timerTrap else w) hl (by rw [hf]; exact hl)
    (by rw [hf]; rfl)
  exact hexec.trans ((congrArg s.finish hf).trans (finish_work s))

/-- `BARRIER_TIMEOUT` of a wait whose time has come. -/
theorem barrierTimeout_traps (s : State) (id : BarId) (g : Nat) (hl : s.strand.live = true) (hw : s.strand.waiting = .barrier id g)
    (hgen : (s.barrier id).gen = g) (hset : (s.barrier id).timeout ≠ 0) (hpast : (s.barrier id).timeout ≤ s.strand.waitT)
    (hn : s.strand.nest = false) :
    TrapsAs (exec (.barrierTimeout s.strand.sid) s) s (timeoutTrap id).code (timeoutTrap id).sub (timeoutTrap id).tval := by
  have hpassed : timedOut (s.barrier id).timeout s.strand.waitT = true := by simp [timedOut, hset, hpast]
  let f : Work → Work := fun w =>
    match w.cur.waiting with
    | .barrier id g =>
      let b := w.st.barrier id
      if b.gen = g ∧ timedOut b.timeout w.cur.waitT then w.trapWord (timeoutTrap id) else w
    | _ => w
  have hf : f s.work = s.work.trapWord (timeoutTrap id) := by
    have hwait : s.work.cur.waiting = .barrier id g := hw
    simp only [f, hwait]
    exact if_pos ⟨hgen, hpassed⟩
  have hok : ¬((s.work.upd fun t => { t with vslab := 0, vstart := 0 }).cur.nest = true ∧ false = false) := by
    rintro ⟨h, -⟩
    exact absurd (hn.symm.trans h) (by decide)
  obtain ⟨hlive, hsid⟩ := takeTrap_same_strand (s.work.upd fun t => { t with vslab := 0, vstart := 0 }) false (timeoutTrap id) hok
  have hexec : exec (.barrierTimeout s.strand.sid) s = s.finish (s.work.trapWord (timeoutTrap id)) :=
    (finish_onStrand s f hl (by rw [hf]; exact hlive.trans hl) (by rw [hf]; exact hsid)).trans (congrArg s.finish hf)
  rw [hexec]
  exact trapsAs_trapWord s s.work _ (work_fronts s) rfl hn

/-- `IWAIT_TIMEOUT` of a wait whose time has come. -/
theorem iwaitTimeout_completes (s : State) (d : Reg) (st i : Nat) (hl : s.strand.live = true) (hw : s.strand.waiting = .ring d st i)
    (hpost : (s.ring (s.strand.g.core / 24) st).posted i = false) (hset : (s.ring (s.strand.g.core / 24) st).timeout ≠ 0)
    (hpast : (s.ring (s.strand.g.core / 24) st).timeout ≤ s.strand.waitT) :
    exec (.iwaitTimeout s.strand.sid) s = .next (s.wrote d 1) := by
  have hpassed : timedOut (s.ring (s.strand.g.core / 24) st).timeout s.strand.waitT = true := by simp [timedOut, hset, hpast]
  refine finish_onStrand_result s _ d 1 ?_ hl
  have hwait : s.work.cur.waiting = .ring d st i := hw
  simp only [hwait]
  exact if_pos ⟨by rw [show (s.work.st.ring (s.work.cur.g.core / 24) st).posted i = false from hpost]; rfl, hpassed⟩

/-- A number cut to 64 bits is the same read as a signed one. -/
theorem ofInt_signed_ofNat (v : Nat) : BitVec.ofInt 64 (signed (8 * 2 ^ 3) v) = BitVec.ofNat 64 v := by
  have h := ofInt_signed 64 (BitVec.ofNat 64 v)
  rw [BitVec.signExtend_eq] at h
  rw [← h]
  simp [signed]

/-- The doubleword at which an `mwait` of field memory waits. -/
theorem watched_field (s : State) (va : W64) (pa : Nat) (hal : va.toNat % 8 = 0) (hsite : s.fieldSite va false pa)
    (hpoison : (s.line false (pa / 64)).poison = false) (hq : s.strand.Quiet) :
    s.work.watched va = .ok (loaded s.fm pa 3, s.work) := by
  have hcheck : s.work.st.checkVirtual s.work.cur.g.core s.work.cur.g.ctx va 8 .read = .ok (.mem .fm pa) :=
    (checkVirtual_canonical s _ _ _ _ _ hal hsite.1).trans (access_fieldSite s va pa hsite)
  have hload := loadVirtual_field s s.work 0 3 va pa (work_opens s) hq hal hsite hpoison
  rw [note_exists _ (.mem .fm pa) (decide_eq_true hsite.2.1)] at hload
  have hvalue : BitVec.ofNat 64 (leNat (Mem.readN s.fm pa (2 ^ 3))) = loaded s.fm pa 3 := by
    rw [← sextBytes_readN s.fm pa 3 (by decide), sextBytes, ofInt_signed_ofNat]
  rw [show 2 ^ 3 = 8 from rfl] at hload hvalue
  simp only [Work.watched, hcheck, hload, hvalue]

/-- `MWAIT_TIMEOUT` of a wait whose time has come, its doubleword unchanged. -/
theorem mwaitTimeout_completes (s : State) (d : Reg) (va old tmo : W64) (at' : Option Nat) (hl : s.strand.live = true)
    (hw : s.strand.waiting = .mem d va old tmo at') (hwatch : s.work.watched va = .ok (old, s.work)) (hset : tmo.toNat ≠ 0)
    (hpast : tmo.toNat ≤ s.strand.waitT) : exec (.mwaitTimeout s.strand.sid) s = .next (s.wrote d 1) := by
  have hpassed : timedOut tmo.toNat s.strand.waitT = true := by simp [timedOut, hset, hpast]
  refine finish_onStrand_result s _ d 1 ?_ hl
  have hwait : s.work.cur.waiting = .mem d va old tmo at' := hw
  simp only [hwait, hwatch]
  exact if_pos ⟨trivial, hpassed⟩

/-- Settles O41, event by event. -/
theorem boundaryEventsAct : Obligations.BoundaryEventsAct := by
  unfold Obligations.BoundaryEventsAct
  intro s hl t
  refine ⟨timerTrap_taken s hl, timerTrap_left s hl, fun hw hact hcome => ?_, fun hready hsince => ?_,
    fun id g hw hgen hset hpast hn => ?_, fun d st i hw hpost hset hpast => iwaitTimeout_completes s d st i hl hw hpost hset hpast,
    fun d va old tmo pa at' hw hal hsite hpoison hh hp hr hb hold hset hpast => ?_⟩
  · refine finish_onStrand_upd s _ Strand.nextWord ?_ hl ((nextWord_same_strand _).1.trans hl) (nextWord_same_strand _).2
    refine if_pos ?_
    simp only [Bool.and_eq_true, decide_eq_true_eq]
    exact ⟨⟨hw, hact⟩, hcome⟩
  · refine finish_onStrand_upd s _ (fun u => { u with overdue := true }) ?_ hl hl rfl
    refine if_pos ?_
    simp only [Bool.and_eq_true, decide_eq_true_eq]
    exact ⟨hready, hsince⟩
  · have htrap := barrierTimeout_traps s id g hl hw hgen hset hpast hn
    rwa [show (timeoutTrap id).code = 0x0B by cases id <;> rfl] at htrap
  · have hwatch := watched_field s va pa hal hsite hpoison ⟨hh, hp, hb, hr⟩
    rw [hold] at hwatch
    exact mwaitTimeout_completes s d va old tmo at' hl hw hwatch hset hpast

end Sys2Proof.Machine

/-! PROOFS. A restore that waits for the undo log at a page address that is no multiple of 64 (O40). -/

namespace Sys2Proof.Machine

theorem eraseDups_of_nodup (l : List Nat) (h : l.Nodup) : l.eraseDups = l := by
  induction l with
  | nil => rfl
  | cons a l ih =>
    obtain ⟨ha, hl⟩ := List.nodup_cons.1 h
    have hkeep : (l.filter fun b => !b == a) = l :=
      List.filter_eq_self.2 fun b hb => by simpa using fun hba : b = a => ha (hba ▸ hb)
    rw [List.eraseDups_cons, hkeep, ih hl]

theorem linesOf_nodup (a n : Nat) : (linesOf a n).Nodup :=
  List.nodup_range.map fun _ _ h => Nat.add_right_cancel h

/-- A page that begins off a line's first byte touches one line more than its 32,768. -/
theorem linesOf_page_off : (linesOf 1 pageLen).length = 32769 := by
  rw [linesOf, List.length_map, List.length_range]
  rfl

/-- Lines that no write of the interval has stamped need a place of the Heath's log each. -/
theorem linesFit_unstamped (w : Work) (l : List Nat) (hw : w.ws = []) (hdup : l.Nodup) (hlines : w.st.hmLine = [])
    (hidle : w.st.idleStamp ≠ w.st.stampNow) : w.linesFit true l = decide (w.st.undoH.length + l.length ≤ Config.undoCapH) := by
  have hstamp : ∀ n, (w.st.line true n).stamp = w.st.idleStamp := fun n => by
    simp only [State.line, State.lines, hlines, if_true, lineOf]
  simp only [Work.linesFit, hw, List.flatMap_nil, List.nil_append, eraseDups_of_nodup l hdup, hstamp, hidle, ne_eq, not_false_eq_true,
    decide_true, List.filter_true, Bool.or_self, if_true, State.undo]

/-- A restore whose page finds no room in the log leaves everything as it was. -/
theorem finishRestore_full (w : Work) (page num pa : Nat) (got : Option (List Byte)) (hf : w.cur.flight = .restore page num got)
    (hp : w.st.heathPage w.cur.g.core w.cur.g.ctx page = some pa) (hfull : w.linesFit true (linesOf pa pageLen) = false) :
    w.finishRestore = w := by
  simp only [Work.finishRestore, hf, hp]
  exact if_pos (.inr (.inr (.inr (by rw [hfull]; rfl))))

/-- A restore of the page at address 1 by the strand in front, in the host form, with the host up, the stack started, no slot written, and a
log of given entries. -/
def restoreOffLine (log : List Undo) : State :=
  { strand := { live := true, flight := .restore 1 0 none }, tlb := [⟨0, 0, 0, true, 128⟩], hostUp := true, mgmt := { stacksOn := 1 },
    undoH := log }

/-- An entry of the Heath's log. -/
def anUndo : Undo := ⟨0, {}, [], 0, false, false⟩

theorem restoreOffLine_page (log : List Undo) : (restoreOffLine log).heathPage 0 0 1 = some 1 := rfl

/-- The strand stands outside a handler, at the user's level. -/
theorem restoreOffLine_status (log : List Undo) (n : Nat) : (restoreOffLine log).strand.status.getLsbD n = false :=
  BitVec.getLsbD_zero

theorem restoreOffLine_idle (log : List Undo) : (restoreOffLine log).idleStamp ≠ (restoreOffLine log).stampNow :=
  show (160 : BitVec 8) ≠ (0 : W32).setWidth 8 by decide

theorem restoreOffLine_stack (log : List Undo) : (restoreOffLine log).stackUp 1 = true :=
  show (1 : BitVec 16).getLsbD (bitsAt 1 37 4) = true by decide

/-- The page's 32,769 lines do not fit where the log has room for 32,768. -/
theorem restoreOffLine_full (log : List Undo) (h : log.length + 32768 = Config.undoCapH) :
    (restoreOffLine log).work.linesFit true (linesOf 1 pageLen) = false := by
  rw [linesFit_unstamped _ _ rfl (linesOf_nodup 1 pageLen) rfl (restoreOffLine_idle log), linesOf_page_off, decide_eq_false_iff_not]
  show ¬ log.length + 32769 ≤ Config.undoCapH
  omega

/-- Refutes O40: a restore in flight of a page at an address that is no multiple of 64 touches 32,769 lines, so that a log with room for 32,768
keeps it waiting, where the statement has its slot, which does not verify, raise the access fault. -/
theorem not_pagesGoOutAndComeBack : ¬ Obligations.PagesGoOutAndComeBack := by
  unfold Obligations.PagesGoOutAndComeBack
  intro h
  obtain ⟨log, hlog⟩ : ∃ log : List Undo, log.length + 32768 = Config.undoCapH :=
    ⟨List.replicate (858993459 - 32768) anUndo, by rw [List.length_replicate]; rfl⟩
  obtain ⟨-, -, hrestore⟩ := h 0 0 (restoreOffLine log) rfl
  obtain ⟨-, hbad⟩ := hrestore 1 0 1 none rfl (restoreOffLine_page log) rfl (.inl rfl)
    (restoreOffLine_stack log) hlog.le (by decide)
  obtain ⟨t, ht, -, -, -, hpriv, -⟩ := hbad rfl (restoreOffLine_status log 4) rfl
  have hwaits := finishRestore_full (restoreOffLine log).work 1 0 1 none rfl (restoreOffLine_page log) (restoreOffLine_full log hlog)
  have hexec : exec (.hrestoreDone (restoreOffLine log).strand.sid) (restoreOffLine log) = .next (restoreOffLine log) := by
    refine (finish_onStrand (restoreOffLine log) Work.finishRestore rfl ?_ ?_).trans ?_
    · rw [hwaits]; rfl
    · rw [hwaits]; rfl
    · rw [hwaits, finish_work]
  rw [hexec] at ht
  cases ht
  exact absurd ((restoreOffLine_status log 0).symm.trans hpriv) (by decide)

end Sys2Proof.Machine

/-! PROOFS. CSR words: what they read and what they write (O13). -/

namespace Sys2Proof.Machine

/-! ### A CSR word that completes (R124) -/

/-- A write of a CSR that needs nothing awaited leaves a state, which differs in the strand in front and in the cores at most. -/
structure State.CsrWrites (s : State) (n : Nat) (v : W64) (u : State) : Prop where
  frame : ∃ t k, u = { s with strand := t, cores := k }
  writes : s.work.writeCsr n v = s.work.mod fun _ => u
  ready : n = 0x808 → s.work.ringWait v = none

/-- A step that leaves such a state and a value in x(d) completes. -/
theorem finish_mod_result (s u : State) (d : Reg) (v : W64) (h : ∃ t k, u = { s with strand := t, cores := k }) :
    s.finish ((s.work.mod fun _ => u).result d v) = .next (u.wrote d v) := by
  obtain ⟨t, k, rfl⟩ := h
  rw [State.finish_next _ _ rfl, State.commit_nil _ _ rfl, State.base]
  rw [show s.wakes ((s.work.mod fun _ => { s with strand := t, cores := k }).result d v).ws = [] from rfl, List.append_nil]
  rfl

/-- The value that a writing CSR word writes. -/
def csrValue (op : Nat) (old x : W64) : W64 :=
  match op with
  | 1 => x
  | 2 => old ||| x
  | _ => old &&& ~~~x

/-- A CSR word that its class lets through, on a known number. -/
theorem csrAccess_runs (op : Nat) (d a : Reg) (csr : BitVec 12) (s : State) (hknown : csrKnown csr.toNat = true)
    (hopen : csrAllowed csr.toNat s.strand.priv (csrWrites op a) = true) :
    csrAccess op d a csr s = s.finish
      (match if csrWrites op a && decide (csr.toNat = 0x808) then s.work.ringWait (csrValue op (s.csr csr.toNat) (s.strand.rx a)) else none with
       | some k => s.work.wait k
       | none => (if csrWrites op a then s.work.writeCsr csr.toNat (csrValue op (s.csr csr.toNat) (s.strand.rx a)) else s.work).result d
          (s.csr csr.toNat)) := by
  have hclass : ¬(!csrAllowed csr.toNat s.strand.priv (csrWrites op a)) = true := by rw [hopen]; decide
  have hnumber : ¬(!csrKnown csr.toNat) = true := by rw [hknown]; decide
  exact congrArg s.finish ((if_neg hclass).trans (if_neg hnumber))

/-- A CSR word that writes nothing gives the old value (R124). -/
theorem csrAccess_reads (op : Nat) (d a : Reg) (csr : BitVec 12) (s : State) (hknown : csrKnown csr.toNat = true)
    (hopen : csrAllowed csr.toNat s.strand.priv false = true) (hw : csrWrites op a = false) :
    csrAccess op d a csr s = .next (s.wrote d (s.csr csr.toNat)) := by
  rw [csrAccess_runs op d a csr s hknown (by rw [hw, hopen]), hw]
  exact finish_result s d _

/-- A CSR word that writes gives the old value and leaves the state that its write leaves. -/
theorem csrAccess_writes (op : Nat) (d a : Reg) (csr : BitVec 12) (s u : State) (hknown : csrKnown csr.toNat = true)
    (hopen : csrAllowed csr.toNat s.strand.priv true = true) (hw : csrWrites op a = true)
    (hu : s.CsrWrites csr.toNat (csrValue op (s.csr csr.toNat) (s.strand.rx a)) u) :
    csrAccess op d a csr s = .next (u.wrote d (s.csr csr.toNat)) := by
  obtain ⟨hframe, hwrites, hready⟩ := hu
  have hgo : (if true && decide (csr.toNat = 0x808) then s.work.ringWait (csrValue op (s.csr csr.toNat) (s.strand.rx a)) else none) =
      none := by
    split
    · next h => exact hready (of_decide_eq_true h)
    · rfl
  rw [csrAccess_runs op d a csr s hknown (by rw [hw, hopen]), hw, hgo, if_pos rfl, hwrites]
  exact finish_mod_result s u d _ hframe

/-- The classes of numbers that the strand may write: 0, and at handler level 1 and 2 too. -/
theorem csrAllowed_of_class (n : Nat) (priv write : Bool) (h : n / 1024 % 4 = 0 ∨ priv = true ∧ n / 1024 % 4 ≠ 3) :
    csrAllowed n priv write = true := by
  rcases csr_classes n with hn | hn | hn | hn <;> simp_all [csrAllowed]

/-- The writing CSR words on a register (R124): what each leaves, by what a write of a value leaves. -/
theorem csrWords_write (d a : Reg) (n : BitVec 12) (s : State) (old : W64) (fits : W64 → Prop) (put : W64 → State)
    (hold : s.csr n.toNat = old) (hknown : csrKnown n.toNat = true)
    (hclass : n.toNat / 1024 % 4 = 0 ∨ s.strand.priv = true ∧ n.toNat / 1024 % 4 ≠ 3)
    (hput : ∀ v, fits v → s.CsrWrites n.toNat v (put v)) :
    (fits (s.strand.rx a) → exec (.csrw d a n) s = .next ((put (s.strand.rx a)).wrote d old)) ∧
    (a ≠ 0 → fits (old ||| s.strand.rx a) → exec (.csrs d a n) s = .next ((put (old ||| s.strand.rx a)).wrote d old)) ∧
    (a ≠ 0 → fits (old &&& ~~~s.strand.rx a) → exec (.csrc d a n) s = .next ((put (old &&& ~~~s.strand.rx a)).wrote d old)) ∧
    exec (.csrs d 0 n) s = .next (s.wrote d old) ∧ exec (.csrc d 0 n) s = .next (s.wrote d old) := by
  subst hold
  have hread := csrAllowed_of_class n.toNat s.strand.priv false hclass
  have hwrite := csrAllowed_of_class n.toNat s.strand.priv true hclass
  refine ⟨fun hf => ?_, fun ha hf => ?_, fun ha hf => ?_, ?_, ?_⟩
  · exact csrAccess_writes 1 d a n s _ hknown hwrite rfl (hput _ hf)
  · exact csrAccess_writes 2 d a n s _ hknown hwrite (decide_eq_true ha) (hput _ hf)
  · exact csrAccess_writes 3 d a n s _ hknown hwrite (decide_eq_true ha) (hput _ hf)
  · exact csrAccess_reads 2 d 0 n s hknown hread rfl
  · exact csrAccess_reads 3 d 0 n s hknown hread rfl

/-! ### Per-core registers (R124, R364) -/

/-- A strand of the half that chooses last, or of a core that is not split, writes per-core registers at once. -/
def Core.alone (c : Core) : Prop := c.halves = none ∨ c.half = true

/-- The write of a per-core register by the strand in front, as its core keeps it. -/
def State.coreWrite (s : State) (n : Nat) (v : W64) : CsrWrite :=
  let c := s.core s.strand.g.core
  ⟨n, s.strand.hs, s.strand.g.upper, c.sqsel, v, c.copyLeaves s.strand.g.upper (c.copyAt s.strand.g.upper v)⟩

theorem writesLate_iff (c : Core) : (c.halves.isSome && !c.half) = true ↔ ¬ c.alone := by
  cases hh : c.half <;> cases hs : c.halves <;> simp [Core.alone, hh, hs]

/-- A write that asks for no copy-out changes the core alone. -/
theorem writeCore_mod (s : State) (n : Nat) (v : W64) (hcopy : n = 0x808 → bitAt v.toNat 10 = false) :
    s.work.writeCore n v = s.work.mod fun _ =>
      s.setCore (if (s.core s.strand.g.core).halves.isSome && !(s.core s.strand.g.core).half then
        { s.core s.strand.g.core with late := (s.core s.strand.g.core).late ++ [s.coreWrite n v] }
      else (s.core s.strand.g.core).written (s.coreWrite n v)) := by
  have hstores : ¬(decide (n = 0x808) && bitAt v.toNat 10) = true := by
    rw [Bool.and_eq_true, decide_eq_true_eq]
    rintro ⟨hn, hbit⟩
    exact absurd ((hcopy hn).symm.trans hbit) (by decide)
  simp only [Work.writeCore, if_neg hstores]
  rfl

theorem writeCore_alone (s : State) (n : Nat) (v : W64) (hcopy : n = 0x808 → bitAt v.toNat 10 = false)
    (h : (s.core s.strand.g.core).alone) :
    s.work.writeCore n v = s.work.mod fun _ => s.setCore ((s.core s.strand.g.core).written (s.coreWrite n v)) := by
  rw [writeCore_mod s n v hcopy, if_neg (by rw [writesLate_iff, not_not]; exact h)]

theorem writeCore_late (s : State) (n : Nat) (v : W64) (hcopy : n = 0x808 → bitAt v.toNat 10 = false)
    (h : ¬(s.core s.strand.g.core).alone) :
    s.work.writeCore n v = s.work.mod fun _ => s.setCore
      { s.core s.strand.g.core with late := (s.core s.strand.g.core).late ++ [s.coreWrite n v] } := by
  rw [writeCore_mod s n v hcopy, if_pos ((writesLate_iff _).2 h)]

/-- A write of `trcctl` without a copy-out waits for nothing. -/
theorem ringWait_none (w : Work) (v : W64) (h : bitAt v.toNat 10 = false) : w.ringWait v = none := by
  simp only [Work.ringWait, h, Bool.not_false, Bool.true_or, if_true]

/-- A write kept until the slab-cycle ends stands from then on. -/
theorem settled_late (c : Core) (x : CsrWrite) (h : c.late = []) : ({ c with late := c.late ++ [x] } : Core).settled = c.written x := by
  rw [Core.settled, h]
  exact congrArg (Core.written · x) (congrArg (fun l => ({ c with late := l } : Core)) h.symm)

/-- The numbers whose writes go to the core: `trcctl` without a copy-out, and `sqchg` and `sqpass` where `sqsel` names a queue of the context. -/
theorem writeCsr_core (s : State) (n : Nat) (v : W64)
    (hn : n = 0x807 ∨ n = 0x808 ∨ n = 0x810 ∨ (n = 0x811 ∨ n = 0x814) ∧ s.selected.isSome = true) :
    s.work.writeCsr n v = s.work.writeCore n v := by
  rcases hn with rfl | rfl | rfl | ⟨rfl | rfl, hs⟩
  · rfl
  · rfl
  · rfl
  · exact if_pos hs
  · exact if_pos hs

/-- What a write of such a register leaves, at once or at the end of the slab-cycle. -/
theorem coreWrites (s : State) (n : Nat) (v : W64) (k : Core)
    (hn : n = 0x807 ∨ n = 0x808 ∨ n = 0x810 ∨ (n = 0x811 ∨ n = 0x814) ∧ s.selected.isSome = true)
    (hcopy : n = 0x808 → bitAt v.toNat 10 = false)
    (hk : s.work.writeCore n v = s.work.mod fun _ => s.setCore k) : s.CsrWrites n v (s.setCore k) :=
  ⟨⟨s.strand, _, rfl⟩, (writeCsr_core s n v hn).trans hk, fun h => ringWait_none _ v (hcopy h)⟩

/-- A field cut to its width twice. -/
theorem ofNat_bitsAt (n v lo : Nat) : BitVec.ofNat n (bitsAt v lo n) = BitVec.ofNat n (v / 2 ^ lo) := by
  apply BitVec.eq_of_toNat_eq
  simp [bitsAt]

/-- `pevctl` keeps STRM and PIPES. -/
theorem written_pevctl (c : Core) (x : CsrWrite) (hn : x.num = 0x807) :
    c.written x = { c with pevStrm := BitVec.ofNat 4 (x.val.toNat / 2 ^ 16), pevPipes := BitVec.ofNat 10 x.val.toNat } := by
  obtain ⟨num, hs, upper, sel, v, refused⟩ := x
  dsimp only at hn
  subst hn
  simp only [Core.written, ofNat_bitsAt, Nat.pow_zero, Nat.div_one]

/-- `trcctl`, where nothing is copied, cleared or marked. -/
theorem written_trcctl (c : Core) (x : CsrWrite) (hn : x.num = 0x808) (hbits : x.val.toNat / 2 ^ 9 % 4 = 0)
    (hmark : x.val.toNat / 2 ^ 12 % 2 ^ 16 = 0) :
    c.written x = if x.upper then c else
      { c with trcOfs := BitVec.ofNat 16 (x.val.toNat / 2 ^ 28), trcFrz := decide (x.val.toNat / 2 ^ 8 % 2 = 1),
               trcEn := BitVec.ofNat 6 (x.val.toNat % 16 + 48) } := by
  obtain ⟨num, hs, upper, sel, v, refused⟩ := x
  dsimp only at hn hbits hmark ⊢
  subst hn
  have h9 : bitAt v.toNat 9 = false := decide_eq_false (by omega)
  have h10 : bitAt v.toNat 10 = false := decide_eq_false (by omega)
  have hplain : bitsAt v.toNat 12 16 = 0 := hmark
  have hen : bitsAt v.toNat 0 4 = v.toNat % 16 := by simp [bitsAt]
  simp only [Core.written, h9, h10, hplain, hen, ofNat_bitsAt, Bool.false_and, Bool.false_eq_true, if_false, if_true]
  rfl

/-- `trcctl` of a strand that is not on an upper half, where CLR is written and nothing is copied or marked. -/
theorem written_trcctl_clear (c : Core) (x : CsrWrite) (hn : x.num = 0x808) (hbits : x.val.toNat / 2 ^ 9 % 4 = 1)
    (hmark : x.val.toNat / 2 ^ 12 % 2 ^ 16 = 0) (hupper : x.upper = false) :
    let e := c.written x
    e.id = c.id ∧ e.ring = [] ∧ e.trcWraps = 0 ∧ e.trcHead = 0 ∧ e.pevDrop = 0 := by
  obtain ⟨num, hs, upper, sel, v, refused⟩ := x
  dsimp only at hn hbits hmark hupper
  subst hn hupper
  have h9 : bitAt v.toNat 9 = true := decide_eq_true (by omega)
  have h10 : bitAt v.toNat 10 = false := decide_eq_false (by omega)
  have hplain : bitsAt v.toNat 12 16 = 0 := hmark
  simp only [Core.written, h9, h10, hplain, Bool.not_false, Bool.and_self, Bool.false_eq_true, if_false, if_true]
  exact ⟨rfl, rfl, rfl, rfl, rfl⟩

/-- `csrw` of a per-core register by a strand of the half that chooses first is kept until the slab-cycle ends. -/
theorem csrw_late (d a : Reg) (n : BitVec 12) (s : State)
    (hknown : csrKnown n.toNat = true) (hclass : n.toNat / 1024 % 4 = 0 ∨ s.strand.priv = true ∧ n.toNat / 1024 % 4 ≠ 3)
    (hn : n.toNat = 0x807 ∨ n.toNat = 0x808 ∨ n.toNat = 0x810 ∨ (n.toNat = 0x811 ∨ n.toNat = 0x814) ∧ s.selected.isSome = true)
    (hcopy : n.toNat = 0x808 → bitAt (s.strand.rx a).toNat 10 = false) (h : ¬(s.core s.strand.g.core).alone) :
    exec (.csrw d a n) s = .next ((s.setCore { s.core s.strand.g.core with
      late := (s.core s.strand.g.core).late ++ [s.coreWrite n.toNat (s.strand.rx a)] }).wrote d (s.csr n.toNat)) :=
  csrAccess_writes 1 d a n s _ hknown (csrAllowed_of_class n.toNat _ true hclass) rfl
    (coreWrites s n.toNat _ _ hn hcopy (writeCore_late s n.toNat _ hcopy h))

/-- A write of `trcctl` that copies, clears and marks nothing, by a strand that writes at once. -/
theorem trcctl_writes (s : State) (v : W64) (h : (s.core s.strand.g.core).alone) (hbits : v.toNat / 2 ^ 9 % 4 = 0)
    (hmark : v.toNat / 2 ^ 12 % 2 ^ 16 = 0) :
    s.CsrWrites 0x808 v (s.setCore (if s.strand.g.upper then s.core s.strand.g.core else
      { s.core s.strand.g.core with
        trcOfs := BitVec.ofNat 16 (v.toNat / 2 ^ 28), trcFrz := decide (v.toNat / 2 ^ 8 % 2 = 1),
        trcEn := BitVec.ofNat 6 (v.toNat % 16 + 48) })) := by
  have hcopy : 0x808 = 0x808 → bitAt v.toNat 10 = false := fun _ => decide_eq_false (by omega)
  have hwrite := coreWrites s 0x808 v _ (.inr (.inl rfl)) hcopy (writeCore_alone s 0x808 v hcopy h)
  rwa [written_trcctl _ (s.coreWrite 0x808 v) rfl hbits hmark] at hwrite

/-- `csrw` that clears the ring, by a strand that writes at once. -/
theorem csrw_clears (d a : Reg) (s : State) (hp : s.strand.priv = true) (h : (s.core s.strand.g.core).alone)
    (hupper : s.strand.g.upper = false) (hbits : (s.strand.rx a).toNat / 2 ^ 9 % 4 = 1)
    (hmark : (s.strand.rx a).toNat / 2 ^ 12 % 2 ^ 16 = 0) :
    ∃ u, exec (.csrw d a 0x808) s = .next u ∧ u.strand = (s.wrote d (s.csr 0x808)).strand ∧ s.sameBytes u ∧
      let e := u.core s.strand.g.core
      e.ring = [] ∧ e.trcWraps = 0 ∧ e.trcHead = 0 ∧ e.pevDrop = 0 := by
  have hcopy : 0x808 = 0x808 → bitAt (s.strand.rx a).toNat 10 = false := fun _ => decide_eq_false (by omega)
  have hwrite := coreWrites s 0x808 _ _ (.inr (.inl rfl)) hcopy (writeCore_alone s 0x808 _ hcopy h)
  obtain ⟨hid, hring⟩ := written_trcctl_clear (s.core s.strand.g.core) (s.coreWrite 0x808 (s.strand.rx a)) rfl hbits hmark hupper
  refine ⟨_, csrAccess_writes 1 d a 0x808 s _ rfl (csrAllowed_of_class _ _ true (.inr ⟨hp, by decide⟩)) rfl hwrite, rfl, ?_, ?_⟩
  · intro g b
    cases g <;> rfl
  · have hset := (State.core_setCore s _ s.strand.g.core).trans (if_pos (hid.trans (State.core_id ..)))
    show let e := (s.setCore _).core s.strand.g.core
      e.ring = [] ∧ e.trcWraps = 0 ∧ e.trcHead = 0 ∧ e.pevDrop = 0
    rw [hset]
    exact hring

/-- A write of `sqchg` or `sqpass`, by a strand that writes at once, for a queue of the context alone (R278). -/
theorem selected_writes (s : State) (n : Nat) (v : W64) (k : Core) (hn : n = 0x811 ∨ n = 0x814)
    (h : (s.core s.strand.g.core).alone) (hk : (s.core s.strand.g.core).written (s.coreWrite n v) = k) :
    s.CsrWrites n v (if s.selected.isSome then s.setCore k else s) := by
  have hcopy : n = 0x808 → bitAt v.toNat 10 = false := fun h => by omega
  subst hk
  split
  · next hs => exact coreWrites s n v _ (.inr (.inr (.inr ⟨hn, hs⟩))) hcopy (writeCore_alone s n v hcopy h)
  · next hs =>
    refine ⟨⟨s.strand, s.cores, rfl⟩, ?_, fun h => by omega⟩
    rcases hn with rfl | rfl <;> exact if_neg hs

/-! ### What the numbers name (Table 5.21) -/

/-- The queue registers where `sqsel` names a queue of the context, and where it names none (R278). -/
theorem csr_queue (s : State) :
    match s.selected with
    | none => s.csr 0x810 = BitVec.ofNat 64 (s.core s.strand.g.core).sqsel.toNat ∧ s.csr 0x811 = 0 ∧ s.csr 0x812 = 0 ∧ s.csr 0x813 = 0 ∧
        s.csr 0x814 = 0
    | some q => let c := s.core s.strand.g.core
        s.csr 0x810 = BitVec.ofNat 64 (64 + c.sqsel.toNat) ∧ s.csr 0x811 = c.charge[c.sqsel.toNat]'(c.sqsel.isLt) ∧
        s.csr 0x812 = BitVec.ofNat 64 q.weight ∧ s.csr 0x813 = BitVec.ofNat 64 (2 ^ 20 / q.tickets * 2 ^ 32 + q.tickets) ∧
        s.csr 0x814 = c.pass[c.sqsel.toNat]'(c.sqsel.isLt) := by
  cases h : s.selected with
  | none => simp [State.csr, h]
  | some q => simp [State.csr, h, strideOf, Nat.add_comm]

/-- `csrr` of a known number that the strand may read. -/
theorem csrr_reads (d : Reg) (csr : BitVec 12) (s : State) (hknown : csrKnown csr.toNat = true)
    (hpriv : csr.toNat / 1024 % 4 = 2 → s.strand.priv = true) : exec (.csrr d csr) s = .next (s.wrote d (s.csr csr.toNat)) := by
  have hopen : csrAllowed csr.toNat s.strand.priv false = true := by
    rw [csrAllowed_read, decide_eq_false fun ⟨h, hp⟩ => absurd ((hpriv h).symm.trans hp) (by decide)]
    rfl
  exact csrAccess_reads 0 d 0 csr s hknown hopen rfl

/-- Settles O13: each number's value, and each register's write through the writing words. -/
theorem csrWordsReadAndWrite : Obligations.CsrWordsReadAndWrite := by
  unfold Obligations.CsrWordsReadAndWrite
  refine ⟨fun d csr s => ⟨csrr_reads d csr s, ?_⟩, fun d a s => ?_⟩
  · intro t c lanes
    have hq := csr_queue s
    refine ⟨rfl, rfl, rfl, rfl, rfl, rfl, rfl, rfl, rfl, rfl, rfl, rfl, rfl, rfl, rfl, rfl, rfl, ?_, rfl, ?_, rfl, rfl, rfl, rfl, rfl, rfl⟩
    · exact hq
    · rfl
  · intro t c x each all alone late core clamped
    have heach : ∀ (n : BitVec 12) (old : W64) (fits : W64 → Prop) (put : W64 → State), s.csr n.toNat = old →
        csrKnown n.toNat = true → (n.toNat / 1024 % 4 = 0 ∨ t.priv = true ∧ n.toNat / 1024 % 4 ≠ 3) →
        (∀ v, fits v → s.CsrWrites n.toNat v (put v)) → each n old fits put :=
      fun n old fits put hold hknown hclass hput => csrWords_write d a n s old fits put hold hknown hclass hput
    clear_value each
    have hall : ∀ (n : BitVec 12) (old : W64) (put : W64 → Strand), s.csr n.toNat = old → csrKnown n.toNat = true →
        (n.toNat / 1024 % 4 = 0 ∨ t.priv = true ∧ n.toNat / 1024 % 4 ≠ 3) → n.toNat ≠ 0x808 →
        (∀ v, s.work.writeCsr n.toNat v = s.work.mod fun _ => s.withStrand (put v)) → all n old put :=
      fun n old put hold hknown hclass hn hwrites =>
        heach n old (fun _ => True) (fun v => s.withStrand (put v)) hold hknown hclass fun v _ =>
          ⟨⟨_, s.cores, rfl⟩, hwrites v, fun h => absurd h hn⟩
    refine ⟨hall 0x000 _ _ rfl rfl (.inl rfl) (by decide) fun _ => rfl, hall 0x001 _ _ rfl rfl (.inl rfl) (by decide) fun _ => rfl, fun hp => ?_⟩
    have hhandler : ∀ (n : BitVec 12) (old : W64) (put : W64 → Strand), s.csr n.toNat = old → csrKnown n.toNat = true →
        n.toNat / 1024 % 4 ≠ 3 → n.toNat ≠ 0x808 →
        (∀ v, s.work.writeCsr n.toNat v = s.work.mod fun _ => s.withStrand (put v)) → all n old put :=
      fun n old put hold hknown hclass hn hwrites => hall n old put hold hknown (.inr ⟨hp, hclass⟩) hn hwrites
    have hcore : ∀ (n : BitVec 12) (put : W64 → Core), csrKnown n.toNat = true → n.toNat / 1024 % 4 ≠ 3 →
        (n.toNat = 0x807 ∨ n.toNat = 0x810) → (∀ v, c.written (s.coreWrite n.toNat v) = put v) → core n (s.csr n.toNat) put := by
      intro n put hknown hclass hn hput
      have hcopy : ∀ v : W64, n.toNat = 0x808 → bitAt v.toNat 10 = false := fun v h => by omega
      have hnum : n.toNat = 0x807 ∨ n.toNat = 0x808 ∨ n.toNat = 0x810 ∨ (n.toNat = 0x811 ∨ n.toNat = 0x814) ∧ s.selected.isSome = true :=
        hn.imp id fun h => .inr (.inl h)
      refine ⟨fun halone => ?_, fun hsplit => ⟨?_, fun hlate => ?_⟩⟩
      · refine heach n _ _ _ rfl hknown (.inr ⟨hp, hclass⟩) fun v _ => ?_
        rw [← hput v]
        exact coreWrites s n.toNat v _ hnum (hcopy v) (writeCore_alone s n.toNat v (hcopy v) halone)
      · exact csrw_late d a n s hknown (.inr ⟨hp, hclass⟩) hnum (hcopy x) hsplit
      · exact (settled_late c _ hlate).trans (hput x)
    have hnothing : ∀ n : BitVec 12, csrKnown n.toNat = true → n.toNat / 1024 % 4 ≠ 3 → n.toNat ≠ 0x808 →
        (∀ v, s.work.writeCsr n.toNat v = s.work) → each n (s.csr n.toNat) (fun _ => True) fun _ => s :=
      fun n hknown hclass hn hwrites => heach n _ _ _ rfl hknown (.inr ⟨hp, hclass⟩) fun v _ =>
        ⟨⟨s.strand, s.cores, rfl⟩, hwrites v, fun h => absurd h hn⟩
    refine ⟨hhandler 0x400 _ _ rfl rfl (by decide) (by decide) fun _ => rfl, hhandler 0x401 _ _ rfl rfl (by decide) (by decide) fun _ => rfl,
      hhandler 0x402 _ _ rfl rfl (by decide) (by decide) fun _ => rfl, hhandler 0x403 _ _ rfl rfl (by decide) (by decide) fun _ => rfl,
      hhandler 0x404 _ _ rfl rfl (by decide) (by decide) fun _ => rfl, hhandler 0x405 _ _ rfl rfl (by decide) (by decide) fun _ => rfl,
      hhandler 0x800 _ _ rfl rfl (by decide) (by decide) fun _ => rfl, hhandler 0x801 _ _ rfl rfl (by decide) (by decide) fun _ => rfl,
      hhandler 0x802 _ _ rfl rfl (by decide) (by decide) fun _ => rfl, hhandler 0x803 _ _ rfl rfl (by decide) (by decide) fun _ => rfl,
      hhandler 0x804 _ _ rfl rfl (by decide) (by decide) fun _ => rfl, hhandler 0x805 _ _ rfl rfl (by decide) (by decide) fun _ => rfl,
      hhandler 0x806 _ _ rfl rfl (by decide) (by decide) fun _ => rfl, ?_, ?_, ?_, ?_, ?_, ?_, ?_, ?_, ?_⟩
    · exact hcore 0x807 _ rfl (by decide) (.inl rfl) fun v => written_pevctl c _ rfl
    · intro halone
      exact heach 0x808 _ _ _ rfl rfl (.inr ⟨hp, by decide⟩) fun v ⟨hbits, hmark⟩ => trcctl_writes s v halone hbits hmark
    · exact fun halone hupper hbits hmark => csrw_clears d a s hp halone hupper hbits hmark
    · exact hcore 0x810 _ rfl (by decide) (.inr rfl) fun v => rfl
    · intro halone
      exact heach 0x811 _ _ _ rfl rfl (.inr ⟨hp, by decide⟩) fun v _ => selected_writes s 0x811 v _ (.inl rfl) halone rfl
    · exact hnothing 0x812 rfl (by decide) (by decide) fun _ => rfl
    · exact hnothing 0x813 rfl (by decide) (by decide) fun _ => rfl
    · intro halone
      exact heach 0x814 _ _ _ rfl rfl (.inr ⟨hp, by decide⟩) fun v _ => selected_writes s 0x814 v _ (.inr rfl) halone rfl
    · intro hsplit n hn hbit hsel
      have hcopy : n.toNat = 0x808 → bitAt x.toNat 10 = false := fun _ => decide_eq_false (by omega)
      rcases hn with rfl | rfl | rfl
      · exact csrw_late d a 0x808 s rfl (.inr ⟨hp, by decide⟩) (.inr (.inl rfl)) hcopy hsplit
      · exact csrw_late d a 0x811 s rfl (.inr ⟨hp, by decide⟩) (.inr (.inr (.inr ⟨.inl rfl, hsel⟩))) hcopy hsplit
      · exact csrw_late d a 0x814 s rfl (.inr ⟨hp, by decide⟩) (.inr (.inr (.inr ⟨.inr rfl, hsel⟩))) hcopy hsplit

end Sys2Proof.Machine

/-! PROOFS. The slab step of an unchained vector word: what its member starts from and what it leaves (R34, R35, R142). -/

namespace Sys2Proof.Machine

/-! ### Records of a vector word -/

/-- Two states of a core that differ in its trace records at most: the ring, the trace queue and the count of dropped pipe events. -/
def Core.SameButTrace (c d : Core) : Prop :=
  ∃ ring wraps head queue last drop,
    d = { c with ring := ring, trcWraps := wraps, trcHead := head, trcQueue := queue, lastRec := last, pevDrop := drop }

theorem Core.SameButTrace.refl (c : Core) : c.SameButTrace c :=
  ⟨c.ring, c.trcWraps, c.trcHead, c.trcQueue, c.lastRec, c.pevDrop, rfl⟩

theorem Core.SameButTrace.trans {c d e : Core} (h : c.SameButTrace d) (k : d.SameButTrace e) : c.SameButTrace e := by
  obtain ⟨_, _, _, _, _, _, rfl⟩ := h
  obtain ⟨r, w, p, q, l, n, rfl⟩ := k
  exact ⟨r, w, p, q, l, n, rfl⟩

theorem Core.SameButTrace.tiles {c d : Core} (h : c.SameButTrace d) : d.tiles = c.tiles := by
  obtain ⟨_, _, _, _, _, _, rfl⟩ := h
  rfl

theorem Core.SameButRing.sameButTrace {c d : Core} (h : c.SameButRing d) : c.SameButTrace d := by
  obtain ⟨r, w, p, q, l, rfl⟩ := h
  exact ⟨r, w, p, q, l, c.pevDrop, rfl⟩

theorem pipeRecord_sameButTrace (c : Core) (kind hs : Nat) (half : Bool) (a : Nat) (b : W64) :
    c.SameButTrace (c.pipeRecord kind hs half a b) := by
  unfold Core.pipeRecord
  split
  · exact .refl c
  · split
    · exact (record_sameButRing ..).sameButTrace
    · exact ⟨c.ring, c.trcWraps, c.trcHead, c.trcQueue, c.lastRec, _, rfl⟩

/-- The cores of a state but for their trace records. -/
def State.SameCores (s : State) (cores : List Core) : Prop :=
  ∀ n, (s.core n).SameButTrace (({ s with cores := cores } : State).core n)

theorem State.SameCores.refl (s : State) : s.SameCores s.cores := fun _ => .refl _

/-- A step in the making that has changed the records of the trace rings and nothing else. -/
def Work.Traced (w k : Work) : Prop := ∃ cores, k = { w with st := { w.st with cores := cores } } ∧ w.st.SameCores cores

theorem Work.Traced.refl (w : Work) : w.Traced w := ⟨w.st.cores, rfl, .refl _⟩

theorem Work.Traced.trans {w k j : Work} (h : w.Traced k) (g : k.Traced j) : w.Traced j := by
  obtain ⟨_, rfl, hk⟩ := h
  obtain ⟨cores, rfl, hj⟩ := g
  exact ⟨cores, rfl, fun n => (hk n).trans (hj n)⟩

/-- Records of one core. -/
theorem traced_setCore (w : Work) (c : Core) (h : (w.st.core c.id).SameButTrace c) : w.Traced (w.mod fun s => s.setCore c) := by
  refine ⟨(w.st.setCore c).cores, rfl, fun n => ?_⟩
  change (w.st.core n).SameButTrace ((w.st.setCore c).core n)
  rw [State.core_setCore]
  split
  · next hn => rwa [hn] at h
  · exact .refl _

theorem trace_traced (w : Work) (kind a : Nat) (b : W64) : w.Traced (w.trace kind a b) := by
  simp only [Work.trace]
  split
  · exact traced_setCore w _ (by simpa [record_id] using (record_sameButRing ..).sameButTrace)
  · exact .refl w

theorem pipeEvent_traced (w : Work) (kind pipe member step : Nat) (b : W64) :
    w.Traced (w.mod fun s => s.pipeEvent kind pipe member step b) := by
  have hid : ∀ (c : Core) hs half a, (c.pipeRecord kind hs half a b).id = c.id := fun c hs half a => by
    obtain ⟨_, _, _, _, _, _, h⟩ := pipeRecord_sameButTrace c kind hs half a b
    rw [h]
  change w.Traced { w with st := w.st.pipeEvent kind pipe member step b }
  simp only [State.pipeEvent]
  split
  · exact traced_setCore w _ (by rw [hid, State.core_id]; exact pipeRecord_sameButTrace ..)
  · exact .refl w

/-- A fold of records. -/
theorem traced_foldl {α : Type} (f : Work → α → Work) (h : ∀ (w : Work) (x : α), w.Traced (f w x)) (l : List α) (w : Work) : w.Traced (l.foldl f w) := by
  induction l generalizing w with
  | nil => exact .refl w
  | cons x l ih => exact (h w x).trans (ih _)

theorem tracePipes_traced (w : Work) (l : List Placed) (kind step : Nat) : w.Traced (w.tracePipes l kind step) := by
  unfold Work.tracePipes
  apply traced_foldl
  intro k p
  exact pipeEvent_traced k kind (pipeOf p.1.word p.1.fmt) p.2 step w.cur.pc

theorem traceVectorMem_traced (w : Work) (l : List Placed) : w.Traced (w.traceVectorMem l) := by
  unfold Work.traceVectorMem
  apply traced_foldl
  intro k p
  dsimp only
  split
  · exact trace_traced ..
  · exact .refl k

/-! ### What a step notes beside its operands -/

/-- What the opening of a slab step, and the live-in bits of a member, set of a strand: the dispatch kept, the resumption point, the done
masks, and the state of the strip. -/
structure Notes where
  snap : Option Dispatched
  vstart : W64
  done : Vector VReg 4
  buffering : Bool
  liveV : BitVec 32
  liveK : BitVec 4
  liveT : BitVec 4
  wrV : BitVec 32
  wrK : BitVec 4
  wrT : BitVec 4

def Strand.noted (t : Strand) (n : Notes) : Strand :=
  { t with
    snap := n.snap, vstart := n.vstart, done := n.done, buffering := n.buffering, liveV := n.liveV, liveK := n.liveK, liveT := n.liveT,
    wrV := n.wrV, wrK := n.wrK, wrT := n.wrT }

@[simp] theorem noted_v (t : Strand) (n : Notes) : (t.noted n).v = t.v := rfl
@[simp] theorem noted_wg (t : Strand) (n : Notes) : (t.noted n).wg = t.wg := rfl
@[simp] theorem noted_vl (t : Strand) (n : Notes) : (t.noted n).vl = t.vl := rfl
@[simp] theorem noted_g (t : Strand) (n : Notes) : (t.noted n).g = t.g := rfl
@[simp] theorem noted_carry (t : Strand) (n : Notes) : (t.noted n).carry = t.carry := rfl
@[simp] theorem noted_rk (t : Strand) (n : Notes) (m : BitVec 2) : (t.noted n).rk m = t.rk m := rfl
@[simp] theorem noted_sew (t : Strand) (n : Notes) : (t.noted n).sew = t.sew := rfl
@[simp] theorem noted_elt (t : Strand) (n : Notes) (m : Reg) (w i : Nat) : (t.noted n).elt m w i = t.elt m w i := rfl
@[simp] theorem noted_raise (t : Strand) (n : Notes) (f : Flags) : (t.noted n).raise f = (t.raise f).noted n := rfl

theorem setElt_within (t : Strand) (m : Reg) (w i x r bit : Nat) (h : elementAt t.wg m.toNat w i = (r, bit)) (hr : r < 32) :
    t.setElt m w i x = { t with v := t.v.set r (BitVec.ofNat 32768 (setBits (t.v[r]).toNat bit w x)) hr } := by
  simp only [Strand.setElt, h, dif_pos hr]

theorem setElt_beyond (t : Strand) (m : Reg) (w i x : Nat) (h : ¬(elementAt t.wg m.toNat w i).1 < 32) : t.setElt m w i x = t := dif_neg h

@[simp] theorem noted_setElt (t : Strand) (n : Notes) (m : Reg) (w i x : Nat) :
    (t.noted n).setElt m w i x = (t.setElt m w i x).noted n := by
  by_cases h : (elementAt t.wg m.toNat w i).1 < 32
  · rw [setElt_within t m w i x _ _ rfl h, setElt_within (t.noted n) m w i x _ _ rfl h]
    rfl
  · rw [setElt_beyond t m w i x h, setElt_beyond (t.noted n) m w i x h]

@[simp] theorem noted_wk (t : Strand) (n : Notes) (m : BitVec 2) (v : VReg) : (t.noted n).wk m v = (t.wk m v).noted n := by
  unfold Strand.wk
  split <;> rfl

@[simp] theorem noted_wx (t : Strand) (n : Notes) (r : Reg) (v : W64) : (t.noted n).wx r v = (t.wx r v).noted n := by
  unfold Strand.wx
  split <;> rfl

/-- Notes of the step at which a strand stands: the registers and vectors of its convoy's dispatch (R30), and the done masks of its resumption
(R128). -/
structure Notes.From (n : Notes) (t : Strand) : Prop where
  dispatched : ∃ d, n.snap = some d ∧ (t.snap = none → d.x = t.x ∧ d.v = t.v) ∧ ∀ e, t.snap = some e → d = e
  done : n.done = (t.resume (t.epr t.sew)).done
  buffering : t.buffering = false → n.buffering = false

/-- A member reads the x registers of its convoy's dispatch, whatever the members before it have done (R30). -/
theorem Notes.From.sx {n : Notes} {t : Strand} (h : n.From t) (u : Strand) (r : Reg) : (u.noted n).sx r = t.sx r := by
  obtain ⟨d, hd, hnone, hsome⟩ := h.dispatched
  have hu : (u.noted n).snap = some d := hd
  cases ht : t.snap with
  | none =>
    simp only [Strand.sx, hu, ht, (hnone ht).1]
    rfl
  | some e =>
    obtain rfl := hsome e ht
    simp only [Strand.sx, hu, ht]

/-- An element of an operand as it stood at the dispatch (R30, R156). -/
theorem Notes.From.dispatchElt {n : Notes} {t : Strand} (h : n.From t) (u : Strand) (hu : u.wg = t.wg) (m : Reg) (w i : Nat) :
    (u.noted n).dispatchElt m w i = t.dispatchElt m w i := by
  obtain ⟨d, hd, hnone, hsome⟩ := h.dispatched
  have hsnap : (u.noted n).snap = some d := hd
  cases ht : t.snap with
  | none =>
    simp only [Strand.dispatchElt, hsnap, ht, (hnone ht).2, noted_wg, hu]
    rfl
  | some e =>
    obtain rfl := hsome e ht
    simp only [Strand.dispatchElt, hsnap, ht, noted_wg, hu]

/-! ### A step in the making of a member -/

/-- A step in the making that has changed of a state the strand in front and the trace records, and has writes to make. -/
def State.midway (s : State) (cores : List Core) (u : Strand) (ws : List Write) : Work :=
  { st := { s with strand := u, cores := cores }, ws := ws, absent := false }

@[simp] theorem midway_cur (s : State) (cores : List Core) (u : Strand) (ws : List Write) : (s.midway cores u ws).cur = u := rfl
@[simp] theorem midway_ws (s : State) (cores : List Core) (u : Strand) (ws : List Write) : (s.midway cores u ws).ws = ws := rfl
@[simp] theorem midway_upd (s : State) (cores : List Core) (u : Strand) (ws : List Write) (f : Strand → Strand) :
    (s.midway cores u ws).upd f = s.midway cores (f u) ws := rfl
@[simp] theorem midway_setElt (s : State) (cores : List Core) (u : Strand) (n : Notes) (ws : List Write) (m : Reg) (w i : Nat)
    (r : Nat × Flags) :
    (s.midway cores (u.noted n) ws).setElt m w i r = s.midway cores (((u.setElt m w i r.1).raise r.2).noted n) ws := by
  simp only [Work.setElt, midway_upd, noted_setElt, noted_raise]

theorem resume_frame (t : Strand) (e : Nat) : ∃ v d, t.resume e = { t with vstart := v, done := d } := by
  simp only [Strand.resume]
  split
  · exact ⟨t.vstart, _, rfl⟩
  · exact ⟨_, t.done, rfl⟩

/-- A slab step opened: the notes of its step, and records (R30, R34, R128). -/
theorem openStep_midway (s : State) (l : List Placed) (trees : List (Nat × Nat)) :
    ∃ cores n, s.work.openStep l trees = s.midway cores (s.strand.noted n) [] ∧ s.SameCores cores ∧ n.From s.strand ∧
      n.buffering = s.strand.buffering := by
  have htraced : s.work.Traced (if s.work.cur.snap.isNone then (s.work.traceVectorMem l).tracePipes l 10 s.work.cur.vslab.toNat else s.work) := by
    split
    · exact (traceVectorMem_traced ..).trans (tracePipes_traced ..)
    · exact .refl _
  obtain ⟨cores, hopen, hcores⟩ := htraced
  obtain ⟨v, d, hresume⟩ := resume_frame s.strand (s.strand.epr s.strand.sew)
  cases hs : s.strand.snap with
  | none =>
    refine ⟨cores, ⟨some ⟨l.map (·.word), s.strand.x, s.strand.v, trees⟩, v, d, s.strand.buffering, s.strand.liveV, s.strand.liveK,
      s.strand.liveT, s.strand.wrV, s.strand.wrK, s.strand.wrT⟩, ?_, hcores, ⟨⟨_, rfl, fun _ => ⟨rfl, rfl⟩, ?_⟩, ?_, id⟩, rfl⟩
    · simp only [Work.openStep, hopen]
      simp only [Work.upd, Work.cur, State.work, hresume, hs, Option.isNone_none, if_true]
      rfl
    · intro e he
      rw [hs] at he
      cases he
    · rw [hresume]
  | some e =>
    refine ⟨cores, ⟨some e, v, d, s.strand.buffering, s.strand.liveV, s.strand.liveK,
      s.strand.liveT, s.strand.wrV, s.strand.wrK, s.strand.wrT⟩, ?_, hcores, ⟨⟨_, rfl, ?_, ?_⟩, ?_, id⟩, rfl⟩
    · simp only [Work.openStep, hopen]
      simp only [Work.upd, Work.cur, State.work, hresume, hs, Option.isNone_some, Bool.false_eq_true, if_false]
      simp only [State.midway, Strand.noted, ← hs]
    · intro h
      rw [hs] at h
      cases h
    · intro e' he
      rw [hs] at he
      exact Option.some.inj he
    · rw [hresume]

/-- The live-in bits of a member (R142): notes of its step. A strip whose buffer is empty may end its buffering, but no member that writes no
register ends it. -/
theorem touchRegs_midway (s : State) (cores : List Core) (t : Strand) (n : Notes) (rv wv rk wk rt wt : List Nat) (hb : t.buf = []) :
    ∃ n', (s.midway cores (t.noted n) []).touchRegs rv wv rk wk rt wt = s.midway cores (t.noted n') [] ∧ n'.snap = n.snap ∧ n'.done = n.done ∧
      (n.buffering = false → n'.buffering = false) ∧ (wv = [] → wk = [] → wt = [] → n'.buffering = n.buffering) := by
  let live : Notes :=
    { n with
      liveV := orBits n.liveV (rv.filter fun i => !n.wrV.getLsbD i), liveK := orBits n.liveK (rk.filter fun i => !n.wrK.getLsbD i),
      liveT := orBits n.liveT (rt.filter fun i => !n.wrT.getLsbD i) }
  let wrote : Notes := { live with wrV := orBits n.wrV wv, wrK := orBits n.wrK wk, wrT := orBits n.wrT wt }
  have htouch : (s.midway cores (t.noted n) []).touchRegs rv wv rk wk rt wt =
      (if live.buffering && (anyBit live.liveV wv || anyBit live.liveK wk || anyBit live.liveT wt) then
        (s.midway cores (t.noted live) []).drain else s.midway cores (t.noted live) []).upd fun u =>
          { u with wrV := orBits u.wrV wv, wrK := orBits u.wrK wk, wrT := orBits u.wrT wt } := rfl
  rw [htouch]
  split
  · next hd =>
    refine ⟨{ wrote with buffering := false }, ?_, rfl, rfl, fun _ => rfl, ?_⟩
    · rw [drain_of_empty (s.midway cores (t.noted live) []) hb]
      simp only [midway_upd, Strand.drained, Strand.noted, ← hb]
      rfl
    · rintro rfl rfl rfl
      simp [anyBit] at hd
  · exact ⟨wrote, rfl, rfl, rfl, id, fun _ _ _ => rfl⟩

/-- A member that writes no register: no store of an open strip drains for it (R142). -/
structure Member.Reader (m : Member) : Prop where
  writes : ∀ sew f, m.writes sew f = []
  masks : m.maskWrites = []
  tile : m.tileWrites = false
  places : m.writesAt = none

theorem touchMember_midway (s : State) (cores : List Core) (t : Strand) (n : Notes) (p : Placed) (c : StepCtx) (hb : t.buf = []) :
    ∃ n', (s.midway cores (t.noted n) []).touchMember p c = s.midway cores (t.noted n') [] ∧ n'.snap = n.snap ∧ n'.done = n.done ∧
      (n.buffering = false → n'.buffering = false) ∧ (p.member.Reader → n'.buffering = n.buffering) := by
  obtain ⟨n', hn, hsnap, hdone, hclosed, hkept⟩ := touchRegs_midway s cores t n (p.touch c (t.noted n)).rv (p.touch c (t.noted n)).wv
    (p.touch c (t.noted n)).rk (p.touch c (t.noted n)).wk (p.touch c (t.noted n)).rt (p.touch c (t.noted n)).wt hb
  refine ⟨n', hn, hsnap, hdone, hclosed, fun hr => hkept ?_ ?_ ?_⟩
  · simp [Placed.touch, hr.places, hr.writes]
  · simp [Placed.touch, hr.masks]
  · simp [Placed.touch, hr.tile]

end Sys2Proof.Machine

namespace Sys2Proof.Machine

/-! ### The step of an unchained word -/

/-- The present step as a member sees it. -/
def Strand.stepCtx (t : Strand) (f : Fmt) (k : BitVec 2) : StepCtx := ⟨t.stepLo, t.stepHi, t.stepLast, f, k, 0, false⟩

/-- The format word that a member reads at its dispatch. -/
def Member.fmtAt (m : Member) (t : Strand) : Fmt :=
  fmtOf (match m.fmtReg with
    | some r => t.sx r
    | none => 0)

/-- A slab step of an unchained word that is ready: its member performs it from the notes of the step, and the step closes (R34). -/
theorem VectorReady.performs {i : Instr} {m : Member} {s : State} (h : VectorReady i m s) (hbuf : s.strand.buf = []) :
    ∃ cores n, s.SameCores cores ∧ n.From s.strand ∧ (m.Reader → n.buffering = s.strand.buffering) ∧
      ∀ k, m.perform (s.strand.stepCtx (m.fmtAt s.strand) m.k) (s.midway cores (s.strand.noted n) []) = .ok k → k.absent = false →
        ∃ l, l.length = 1 ∧ exec i s =
          .next (s.commit (k.closeStep l s.strand.vslab.toNat (s.strand.epr s.strand.sew) s.strand.stepLast)) := by
  have hopens : ∃ trees, s.strand.snap.isNone = true → m.onDispatch (m.fmtAt s.strand) s.work = .ok trees := by
    cases hs : s.strand.snap.isNone with
    | true => exact (h.opens hs).imp fun _ ht _ => ht
    | false => exact ⟨[], fun hf => nomatch hf⟩
  obtain ⟨trees, hopens⟩ := hopens
  let p := s.strand.place m (encode i) s.strand.pc
  let c := s.strand.stepCtx (m.fmtAt s.strand) m.k
  obtain ⟨cores, n0, hopen, hcores, hfrom, hbuffering⟩ := openStep_midway s [p] trees
  obtain ⟨n, htouch, hsnap, hdone, hclosed, hkept⟩ := touchMember_midway s cores s.strand n0 p c hbuf
  refine ⟨cores, n, hcores, ⟨?_, hdone.trans hfrom.done, fun hb => hclosed (hfrom.buffering hb)⟩, fun hr => (hkept hr).trans hbuffering,
    fun k hk ha => ?_⟩
  · rw [hsnap]
    exact hfrom.dispatched
  · have hperform : m.perform c ((s.work.openStep [p] trees).touchMember p c) = .ok k := by rw [hopen, htouch, hk]
    obtain ⟨u, hu, hcommit, -⟩ := (vectorWordsRunOneStep i s k).2 m trees h hopens hperform ha
    exact ⟨[p], rfl, by rw [hu, hcommit]⟩

/-! ### What a closed step leaves -/

/-- What the close of a step keeps of the strand that its member left. -/
structure Strand.Closes (u r : Strand) (last : Bool) : Prop where
  v : u.v = r.v
  k : u.k = r.k
  fflags : u.fflags = r.fflags
  vl : u.vl = r.vl
  buf : u.buf = r.buf
  specials : u.specials = r.specials
  x : r.loop = none → u.x = r.x
  carry : last = false → u.carry = r.carry

theorem closeStep_closes (k : Work) (l : List Placed) (step e : Nat) (last : Bool) : (k.closeStep l step e last).cur.Closes k.cur last := by
  cases last with
  | false => exact ⟨rfl, rfl, rfl, rfl, rfl, rfl, fun _ => rfl, fun _ => rfl⟩
  | true =>
    obtain ⟨x, p, q, hcur, hloop⟩ := retireTo_frame
      ((k.tracePipes l 11 step).upd fun s => { s with vslab := 0, vstart := 0, carry := .none, done := Vector.replicate 4 0, snap := none })
      ((k.tracePipes l 11 step).cur.pc + BitVec.ofNat 64 (4 * l.length))
    have hclose : (k.closeStep l step e true).cur = _ := hcur
    simp only [Work.upd_cur, tracePipes_cur] at hclose hloop
    rw [hclose]
    exact ⟨rfl, rfl, rfl, rfl, rfl, rfl, fun h => (hloop h).1, fun h => nomatch h⟩

theorem closeStep_ws (k : Work) (l : List Placed) (step e : Nat) (last : Bool) : (k.closeStep l step e last).ws = k.ws := by
  obtain ⟨cores, htrace, -⟩ := tracePipes_traced k l 11 step
  cases last with
  | false => rfl
  | true => simp only [Work.closeStep, if_true, htrace]; rfl

theorem closeStep_sameCores (k : Work) (l : List Placed) (step e : Nat) (last : Bool) (n : Nat) :
    (k.st.core n).SameButTrace ((k.closeStep l step e last).st.core n) := by
  obtain ⟨cores, htrace, hcores⟩ := tracePipes_traced k l 11 step
  cases last with
  | false => exact .refl _
  | true =>
    simp only [Work.closeStep, if_true, htrace]
    exact hcores n

/-- The memories that writes of a step leave. -/
def writtenTo (g : Tgt) (ws : List Write) (m : Mem) : Mem :=
  ws.foldl (fun q w =>
    match w with
    | .put u a bs _ _ => if g = u then Mem.write q a bs else q
    | .clear u a n => if g = u then Mem.clear q a n else q) m

theorem memOf_commit (s : State) (k : Work) (g : Tgt) : (s.commit k).memOf g = writtenTo g k.ws (s.memOf g) := by
  have fold : ∀ (l : List Write) (b : State), (l.foldl applyWrite b).memOf g = writtenTo g l (b.memOf g) := by
    intro l
    induction l with
    | nil => exact fun b => rfl
    | cons w l ih =>
      intro b
      refine (ih (applyWrite b w)).trans ?_
      rw [memOf_applyWrite]
      rfl
  rw [State.commit, fold, memOf_base]

/-- An unchained word whose member leaves a strand and writes: what the strand and the memories hold behind the step, and, where it writes
nothing, that no tile has changed. -/
theorem VectorReady.leaves {i : Instr} {m : Member} {s : State} (h : VectorReady i m s) (hbuf : s.strand.buf = []) :
    ∃ cores n, s.SameCores cores ∧ n.From s.strand ∧ (m.Reader → n.buffering = s.strand.buffering) ∧
      ∀ r n' ws, m.perform (s.strand.stepCtx (m.fmtAt s.strand) m.k) (s.midway cores (s.strand.noted n) []) =
          .ok (s.midway cores (Strand.noted r n') ws) →
        ∃ u, exec i s = .next u ∧ u.strand.Closes r s.strand.stepLast ∧ (∀ g, u.memOf g = writtenTo g ws (s.memOf g)) ∧
          (ws = [] → ∀ c, (u.core c).tiles = (s.core c).tiles) := by
  obtain ⟨cores, n, hcores, hfrom, hreader, hexec⟩ := h.performs hbuf
  refine ⟨cores, n, hcores, hfrom, hreader, fun r n' ws hk => ?_⟩
  obtain ⟨l, -, hu⟩ := hexec _ hk rfl
  refine ⟨_, hu, ?_, fun g => ?_, fun hws c => ?_⟩
  · rw [commit_strand]
    obtain ⟨hv, hk, hf, hvl, hb, hs, hx, hc⟩ := closeStep_closes (s.midway cores (r.noted n') ws) l s.strand.vslab.toNat
      (s.strand.epr s.strand.sew) s.strand.stepLast
    exact ⟨hv, hk, hf, hvl, hb, hs, hx, hc⟩
  · rw [memOf_commit, closeStep_ws]
    rfl
  · subst hws
    rw [State.commit_nil _ _ (closeStep_ws ..)]
    exact (closeStep_sameCores ..).tiles.trans (hcores c).tiles

/-- The same for a step that writes nothing: every byte is as it was. -/
theorem VectorReady.silent {i : Instr} {m : Member} {s : State} (h : VectorReady i m s) (hbuf : s.strand.buf = []) :
    ∃ cores n, s.SameCores cores ∧ n.From s.strand ∧
      ∀ r n', m.perform (s.strand.stepCtx (m.fmtAt s.strand) m.k) (s.midway cores (s.strand.noted n) []) =
          .ok (s.midway cores (Strand.noted r n') []) →
        ∃ u, exec i s = .next u ∧ u.strand.Closes r s.strand.stepLast ∧ (∀ c, (u.core c).tiles = (s.core c).tiles) ∧ s.sameBytes u := by
  obtain ⟨cores, n, hcores, hfrom, -, hleaves⟩ := h.leaves hbuf
  refine ⟨cores, n, hcores, hfrom, fun r n' hk => ?_⟩
  obtain ⟨u, hu, hclose, hmem, htiles⟩ := hleaves r n' [] hk
  exact ⟨u, hu, hclose, htiles rfl, fun g a => by rw [hmem g]; rfl⟩

/-! ### Elements in their order -/

/-- A fold over elements that goes through the works that `stage` gives for the elements behind it. -/
theorem eachEl_stages (f : Work → Nat → Except Stop Work) (stage : List Nat → Work) (l : List Nat)
    (h : ∀ l1 j l2, l = l1 ++ j :: l2 → f (stage l1) j = .ok (stage (l1 ++ [j]))) : eachEl f (stage []) l = .ok (stage l) := by
  have go : ∀ l2 l1, l = l1 ++ l2 → eachEl f (stage l1) l2 = .ok (stage l) := by
    intro l2
    induction l2 with
    | nil =>
      rintro l1 rfl
      simp [eachEl]
    | cons j l2 ih =>
      intro l1 hl
      simp only [eachEl, h l1 j l2 hl]
      exact ih (l1 ++ [j]) (by simp [hl])
  exact go l [] rfl

/-- A fold over elements that stops at one of them. -/
theorem eachEl_stops (f : Work → Nat → Except Stop Work) (stage : List Nat → Work) (l1 l2 : List Nat) (j : Nat) (e : Stop)
    (h : ∀ q1 i q2, l1 = q1 ++ i :: q2 → f (stage q1) i = .ok (stage (q1 ++ [i]))) (he : f (stage l1) j = .error e) :
    eachEl f (stage []) (l1 ++ j :: l2) = .error (j, e) := by
  have go : ∀ q2 q1, l1 = q1 ++ q2 → eachEl f (stage q1) (q2 ++ j :: l2) = .error (j, e) := by
    intro q2
    induction q2 with
    | nil =>
      rintro q1 rfl
      simp only [List.append_nil] at he
      simp only [List.nil_append, eachEl, he]
    | cons i q2 ih =>
      intro q1 hq
      simp only [List.cons_append, eachEl, h q1 i q2 hq]
      exact ih (q1 ++ [i]) (by simp [hq])
  exact go l1 [] rfl

theorem setElt_frame (t : Strand) (m : Reg) (w i x : Nat) : ∃ v, t.setElt m w i x = { t with v := v } := by
  by_cases h : (elementAt t.wg m.toNat w i).1 < 32
  · exact ⟨_, setElt_within t m w i x _ _ rfl h⟩
  · exact ⟨t.v, setElt_beyond t m w i x h⟩

/-- A strand that differs from another in its vector registers and its flags at most. -/
def Strand.SameButVectors (t u : Strand) : Prop := ∃ v fl, u = { t with v := v, fflags := fl }

theorem Strand.SameButVectors.wg {t u : Strand} (h : t.SameButVectors u) : u.wg = t.wg := by
  obtain ⟨_, _, rfl⟩ := h
  rfl

theorem Strand.SameButVectors.vl {t u : Strand} (h : t.SameButVectors u) : u.vl = t.vl := by
  obtain ⟨_, _, rfl⟩ := h
  rfl

/-- Elements written change the vector registers and the flags alone. -/
theorem eachFound_sameButVectors (t : Strand) (d : Reg) (width : Nat) (l : List Nat) (f : Strand → Nat → Option (Nat × Flags)) :
    t.SameButVectors (t.eachFound d width l f) := by
  unfold Strand.eachFound
  induction l generalizing t with
  | nil => exact ⟨t.v, t.fflags, rfl⟩
  | cons j l ih =>
    rw [List.foldl_cons]
    split
    · next r _ =>
      obtain ⟨v, hv⟩ := setElt_frame t d width j r.1
      rw [hv]
      exact ih _
    · exact ih t

theorem eachFound_append (t : Strand) (d : Reg) (width : Nat) (l1 l2 : List Nat) (f : Strand → Nat → Option (Nat × Flags)) :
    t.eachFound d width (l1 ++ l2) f = (t.eachFound d width l1 f).eachFound d width l2 f := List.foldl_append ..

/-- A fold over elements that writes what `code` finds. -/
theorem eachEl_found (s : State) (cores : List Core) (n : Notes) (t : Strand) (d : Reg) (width : Nat) (l : List Nat)
    (f : Work → Nat → Except Stop Work) (code : Strand → Nat → Option (Nat × Flags))
    (h : ∀ u j, t.SameButVectors u → f (s.midway cores (u.noted n) []) j = .ok (match code u j with
      | some r => (s.midway cores (u.noted n) []).setElt d width j r
      | none => s.midway cores (u.noted n) [])) :
    eachEl f (s.midway cores (t.noted n) []) l = .ok (s.midway cores ((t.eachFound d width l code).noted n) []) := by
  refine eachEl_stages f (fun q => s.midway cores ((t.eachFound d width q code).noted n) []) l fun l1 j l2 _ => ?_
  rw [h _ j (eachFound_sameButVectors t d width l1 code), eachFound_append]
  generalize t.eachFound d width l1 code = u
  simp only [Strand.eachFound, List.foldl_cons, List.foldl_nil]
  cases code u j with
  | some r => simp only [midway_setElt]
  | none => rfl

end Sys2Proof.Machine

/-! PROOFS. Elementwise, permute, conversion and path words (O23). -/

namespace Sys2Proof.Machine

/-! ### Rules and members -/

/-- A rule says what a member does: the format word that it reads, and the strand that a step of it leaves. -/
structure ElementRule.Describes (r : ElementRule) (m : Member) : Prop where
  format : ∀ t : Strand, m.fmtAt t = fmtOf (t.sx r.xf)
  performs : ∀ (s : State) (cores : List Core) (n : Notes) (f : Fmt), n.From s.strand →
    m.perform (s.strand.stepCtx f m.k) (s.midway cores (s.strand.noted n) []) = .ok (s.midway cores
      ((s.strand.eachFound r.d (r.width f) (r.elements s.strand) fun u j => r.code f s.strand u j).noted n) [])

/-- A member over the codes of its sources and of its old destination (R136, R139). -/
theorem mapMember_describes (d a b : Reg) (useB old : Bool) (xf : Reg) (k : BitVec 2) (ok : Nat → Fmt → Bool)
    (code rule : Fmt → Nat → Nat → Nat → Nat × Flags)
    (h : ∀ f x y z, code f x (if useB then y else 0) (if old then z else 0) = rule f x y z) :
    (codesRule d a b xf k rule).Describes (mapMember d a b useB old xf k ok code) := by
  refine ⟨fun t => rfl, fun s cores n f _ => eachEl_found s cores n s.strand d f.dst.width _ _ _ fun u j _ => ?_⟩
  simp only [codesRule, midway_cur, noted_elt, ← h]
  rfl

/-- A member whose elements depend on the dispatch alone. -/
theorem places_describes (m : Member) (d xf : Reg) (k : BitVec 2) (code : Fmt → Strand → Nat → Option (Nat × Flags))
    (step : StepCtx → Work → Nat → Except Stop Work) (hfmt : m.fmtReg = some xf) (hk : m.k = k)
    (hm : ∀ c w, m.perform c w = eachEl (step c) w (c.active w.cur))
    (h : ∀ (s : State) cores n (f : Fmt), n.From s.strand → ∀ u j, s.strand.SameButVectors u →
      step (s.strand.stepCtx f k) (s.midway cores (u.noted n) []) j = .ok (match code f s.strand j with
        | some r => (s.midway cores (u.noted n) []).setElt d f.dst.width j r
        | none => s.midway cores (u.noted n) [])) :
    (placesRule d xf k code).Describes m := by
  subst hk
  refine ⟨fun t => by simp only [Member.fmtAt, hfmt]; rfl, fun s cores n f hn => ?_⟩
  rw [hm]
  exact eachEl_found s cores n s.strand d f.dst.width _ _ _ fun u j hu => h s cores n f hn u j hu

theorem permuteMember_describes (d a : Reg) (b : Option Reg) (xf : Reg) (k : BitVec 2) (ok : Nat → Fmt → Bool)
    (pick : Strand → Fmt → Nat → Option (Option Nat)) (code : Fmt → Strand → Nat → Option (Nat × Flags))
    (hpick : ∀ (n : Notes) (t u : Strand) f j, n.From t → t.SameButVectors u → pick (u.noted n) f j = pick t f j)
    (hcode : ∀ f t j, code f t j = (pick t f j).map fun p => ((p.map fun q => t.dispatchElt a f.srcA.width q).getD 0, 0)) :
    (placesRule d xf k code).Describes (permuteMember d a b xf k ok pick) := by
  refine places_describes _ d xf k _ _ rfl rfl (fun c w => rfl) fun s cores n f hn u j hu => ?_
  simp only [midway_cur, hpick n s.strand u _ j hn hu, Strand.stepCtx, hcode]
  cases pick s.strand f j with
  | none => rfl
  | some p => simp only [Option.map_some, hn.dispatchElt u hu.wg]

/-! ### Codes of the elementwise words -/

theorem calc_bothWays (int : Fmt → Int → Int → Int → Nat) (flt : Fmt → Val → Val → Val → Nat × Flags)
    (i : Int → Int → Int → Int) (v : Nat → Val → Val → Val → Val × Flags)
    (hi : ∀ f x y z, int f x y z = intInto f.dst f.sat (i x y z))
    (hv : ∀ f x y z, flt f x y z = roundOp (v f.rm x y z) f.dst f.rm f.sat) (f : Fmt) (x y z : Nat) :
    calcBy true int flt f x y z = bothWays i v f x y z := by
  simp only [calcBy, bothWays, Bool.not_true, Bool.false_or, hi, hv]

theorem binaryMember_describes (d a b xf : Reg) (k : BitVec 2) (int : Fmt → Int → Int → Nat) (flt : Fmt → Val → Val → Nat × Flags)
    (i : Int → Int → Int → Int) (v : Nat → Val → Val → Val → Val × Flags)
    (hi : ∀ f x y z, int f x y = intInto f.dst f.sat (i x y z))
    (hv : ∀ f x y z, flt f x y = roundOp (v f.rm x y z) f.dst f.rm f.sat) :
    (codesRule d a b xf k (bothWays i v)).Describes (binaryMember d a b xf k int flt) :=
  mapMember_describes d a b true false xf k _ _ _ fun f x y z => by
    simp only [if_true, calcBy, bothWays, Bool.not_true, Bool.false_or, hi _ _ _ (decodeInt f.dst z), hv _ _ _ (decodeVal f.dst z)]

theorem unaryMember_describes (d a xf : Reg) (k : BitVec 2) (int : Fmt → Int → Nat) (flt : Fmt → Val → Nat × Flags)
    (rule : Fmt → Nat → Nat → Nat → Nat × Flags)
    (h : ∀ f x y z, rule f x y z =
      if f.srcA.isInt && f.dst.isInt then (int f (decodeInt f.srcA x), 0) else flt f (decodeVal f.srcA x)) :
    (codesRule d a 0 xf k rule).Describes (unaryMember d a xf k int flt) :=
  mapMember_describes d a 0 false false xf k _ _ _ fun f x y z => by
    simp only [calcBy, Bool.not_false, Bool.true_or, Bool.and_true, h]

theorem fusedMember_describes (op : Nat) (d a b xf : Reg) (k : BitVec 2) (i : Int → Int → Int → Int)
    (hi : ∀ x y z, fusedInt op x y z = i x y z) :
    (codesRule d a b xf k (bothWays i fun rm x y z => fusedVal op rm x y z)).Describes (fusedMember op d a b xf k) :=
  mapMember_describes d a b true true xf k _ _ _ fun f x y z =>
    calc_bothWays _ _ _ _ (fun f x y z => by rw [Fmt.int, hi]) (fun _ _ _ _ => rfl) f x y z

theorem rawMember_describes (d a b xf : Reg) (k : BitVec 2) (g : Nat → Nat → Nat → Nat) (rule : Fmt → Nat → Nat → Nat → Nat × Flags)
    (h : ∀ f x y z, rule f x y z = (g f.dst.width x y, 0)) :
    (codesRule d a b xf k rule).Describes (rawMember d a b xf k g) :=
  mapMember_describes d a b true false xf k _ _ _ fun f x y z => (h f x y z).symm

theorem pathMember_describes (d a : Reg) (k : BitVec 2) (g : Nat → Nat) : (pathRule d a k g).Describes (pathMember d a k g) := by
  refine ⟨fun t => ?_, fun s cores n f _ => eachEl_found s cores n s.strand d 64 _ _ _ fun u j _ => ?_⟩
  · have hzero : t.sx 0 = 0 := by
      unfold Strand.sx
      split
      · rfl
      · rfl
    exact congrArg fmtOf hzero.symm
  · simp only [pathRule, midway_cur, noted_elt]

theorem selectMember_describes (d a b xf : Reg) (k : BitVec 2) :
    ElementRule.Describes ⟨d, fun f => f.dst.width, xf, fun t => fromTo t.stepLo t.stepHi, fun f _ u j =>
      some (if (u.rk k).getLsbD j then u.elt a f.dst.width j else u.elt b f.dst.width j, 0)⟩ (memVsel d a b xf k) := by
  refine ⟨fun t => rfl, fun s cores n f _ => eachEl_found s cores n s.strand d f.dst.width _ _ _ fun u j _ => ?_⟩
  simp only [midway_cur, noted_elt, noted_rk]
  rfl

theorem nodup_fromTo (lo hi : Nat) : (fromTo lo hi).Nodup := List.nodup_range.map fun _ _ h => by simpa using h

theorem nodup_stepActive (t : Strand) (k : BitVec 2) : (t.stepActive k).Nodup := (nodup_fromTo _ _).filter _

/-- Element 0, where it is an active element of the step. -/
theorem stepActive_zero (t : Strand) (k : BitVec 2) :
    ((t.stepActive k).filter fun j => decide (j = 0)) = if (t.stepActive k).contains 0 then [0] else [] := by
  have h := List.filter_eq (l := t.stepActive k) 0
  simp only [h, List.Nodup.count (nodup_stepActive t k), List.contains_iff_mem]
  split <;> rfl

theorem moveInMember_describes (d a xf : Reg) (k : BitVec 2) :
    ElementRule.Describes ⟨d, fun f => f.dst.width, xf, fun t => (t.stepActive k).filter fun j => decide (j = 0), fun f t _ _ =>
      some ((t.sx a).toNat % 2 ^ f.dst.width, 0)⟩ (memVmvsx d a xf k) := by
  refine ⟨fun t => rfl, fun s cores n f hn => ?_⟩
  have hact : ((s.strand.stepCtx f k).active (s.strand.noted n)) = s.strand.stepActive k := rfl
  simp only [memVmvsx, midway_cur, hact, stepActive_zero, hn.sx]
  split
  · rw [midway_setElt]
    rfl
  · rfl

theorem broadcastMember_describes (d a xf : Reg) (k : BitVec 2) :
    (placesRule d xf k fun f t _ => some ((t.sx a).toNat % 2 ^ f.dst.width, 0)).Describes (memVbcast d a xf k) :=
  places_describes _ d xf k _ _ rfl rfl (fun c w => rfl) fun s cores n f hn u j hu => by
    simp only [midway_cur, hn.sx]
    rfl

theorem indexMember_describes (d xf : Reg) (k : BitVec 2) :
    (placesRule d xf k fun f _ j =>
      some (if f.dst.isInt then (intInto f.dst f.sat j, 0) else encodeVal (Val.ofInt j) f.dst f.rm f.sat)).Describes (memVid d xf k) :=
  places_describes _ d xf k _ _ rfl rfl (fun _ _ => rfl) fun _ _ _ _ _ _ _ _ => rfl

theorem permMember_describes (d a b xf : Reg) (k : BitVec 2) :
    (placesRule d xf k fun f t j =>
      let n := decodeInt f.srcB (t.dispatchElt b f.srcB.width j)
      some (if 0 ≤ n ∧ n < (t.vl.toNat : Int) then t.dispatchElt a f.srcA.width n.toNat else 0, 0)).Describes (memVperm d a b xf k) := by
  refine permuteMember_describes _ _ _ _ _ _ _ _ (fun n t u f j hn hu => ?_) fun f t j => ?_
  · simp only [hn.dispatchElt u hu.wg, noted_vl, hu.vl]
  · dsimp only
    split <;> rfl

theorem slideupMember_describes (d a b xf : Reg) (k : BitVec 2) :
    (placesRule d xf k fun f t j =>
      if (t.sx b).toNat ≤ j then some (t.dispatchElt a f.srcA.width (j - (t.sx b).toNat), 0) else none).Describes
      (memVslideup d a b xf k) := by
  refine permuteMember_describes _ _ _ _ _ _ _ _ (fun n t u f j hn hu => ?_) fun f t j => ?_
  · simp only [hn.sx]
  · dsimp only
    split <;> rfl

theorem slidednMember_describes (d a b xf : Reg) (k : BitVec 2) :
    (placesRule d xf k fun f t j =>
      some (if j + (t.sx b).toNat < t.vl.toNat then t.dispatchElt a f.srcA.width (j + (t.sx b).toNat) else 0, 0)).Describes
      (memVslidedn d a b xf k) := by
  refine permuteMember_describes _ _ _ _ _ _ _ _ (fun n t u f j hn hu => ?_) fun f t j => ?_
  · simp only [hn.sx, noted_vl, hu.vl]
  · dsimp only
    split <;> rfl

theorem natAbs_eq_if (x : Int) : (if x < 0 then -x else x) = (x.natAbs : Int) := by
  split <;> omega

/-- Each elementwise word is its rule (Tables 7.5 to 7.7, R185). -/
theorem elementRule_describes (i : Instr) (m : Member) (r : ElementRule) (hm : memberOf i = some m) (hr : elementRule i = some r) :
    r.Describes m := by
  unfold elementRule at hr
  split at hr <;> cases hr <;> cases hm
  · exact binaryMember_describes _ _ _ _ _ _ _ _ _ (fun _ _ _ _ => rfl) fun _ _ _ _ => rfl
  · exact binaryMember_describes _ _ _ _ _ _ _ _ _ (fun _ _ _ _ => rfl) fun _ _ _ _ => rfl
  · exact binaryMember_describes _ _ _ _ _ _ _ _ _ (fun _ _ _ _ => rfl) fun _ _ _ _ => rfl
  case _ d a b xf k =>
    refine mapMember_describes d a b true false xf k _ _ _ fun f x y z => ?_
    simp only [calcBy, divided, intQuot, Fmt.int, Bool.not_true, Bool.false_or, if_true]
    split <;> (try split) <;> rfl
  · exact binaryMember_describes _ _ _ _ _ _ _ _ _ (fun _ _ _ _ => rfl) fun _ _ _ _ => rfl
  · exact binaryMember_describes _ _ _ _ _ _ _ _ _ (fun _ _ _ _ => rfl) fun _ _ _ _ => rfl
  · exact unaryMember_describes _ _ _ _ _ _ _ fun _ _ _ _ => rfl
  · exact unaryMember_describes _ _ _ _ _ _ _ fun f x _ _ => by simp only [oneWay, Fmt.int, natAbs_eq_if, Fmt.round]
  · exact fusedMember_describes 0 _ _ _ _ _ _ fun _ _ _ => rfl
  · exact fusedMember_describes 1 _ _ _ _ _ _ fun _ _ _ => rfl
  · exact fusedMember_describes 2 _ _ _ _ _ _ fun _ _ _ => rfl
  · exact fusedMember_describes 3 _ _ _ _ _ _ fun _ _ _ => rfl
  · exact mapMember_describes _ _ _ true false _ _ _ _ _ fun _ _ _ _ => rfl
  · exact binaryMember_describes _ _ _ _ _ _ _ _ _ (fun f x y _ => by simp only [intRem, leftOver, Fmt.int]; split <;> rfl) fun _ _ _ _ => rfl
  · exact unaryMember_describes _ _ _ _ _ _ _ fun _ _ _ _ => rfl
  · exact rawMember_describes _ _ _ _ _ _ _ fun _ _ _ _ => rfl
  · exact rawMember_describes _ _ _ _ _ _ _ fun _ _ _ _ => rfl
  · exact rawMember_describes _ _ _ _ _ _ _ fun _ _ _ _ => rfl
  · exact mapMember_describes _ _ 0 false false _ _ _ _ _ fun _ _ _ _ => rfl
  · exact rawMember_describes _ _ _ _ _ _ _ fun f x y _ => by rw [Nat.shiftLeft_eq]
  · exact rawMember_describes _ _ _ _ _ _ _ fun f x y _ => by rw [Nat.shiftRight_eq_div_pow]
  · exact rawMember_describes _ _ _ _ _ _ _ fun _ _ _ _ => rfl
  · exact selectMember_describes _ _ _ _ _
  · exact mapMember_describes _ _ 0 false false _ _ _ _ _ fun _ _ _ _ => rfl
  · exact mapMember_describes _ _ _ true false _ _ _ _ _ fun _ _ _ _ => rfl
  · exact permMember_describes _ _ _ _ _
  · exact slideupMember_describes _ _ _ _ _
  · exact slidednMember_describes _ _ _ _ _
  · exact broadcastMember_describes _ _ _ _
  · exact moveInMember_describes _ _ _ _
  · exact indexMember_describes _ _ _
  · exact mapMember_describes _ _ 0 false false _ _ _ _ _ fun _ _ _ _ => rfl
  · exact mapMember_describes _ _ 0 false false _ _ _ _ _ fun _ _ _ _ => rfl
  · exact mapMember_describes _ _ 0 false false _ _ _ _ _ fun _ _ _ _ => rfl
  · exact mapMember_describes _ _ 0 false false _ _ _ _ _ fun _ _ _ _ => rfl
  · exact pathMember_describes _ _ _ _
  · exact pathMember_describes _ _ _ _

/-- Settles O23: the word's member performs what its rule says, and the step's close keeps it. -/
theorem elementwiseWordsWriteActiveElements : Obligations.ElementwiseWordsWriteActiveElements := by
  unfold Obligations.ElementwiseWordsWriteActiveElements
  intro i m s r hready hrule hbuf t f result
  obtain ⟨hformat, hperforms⟩ := elementRule_describes i m r hready.member hrule
  obtain ⟨cores, n, -, hn, hleaves⟩ := hready.silent hbuf
  have hperform := hperforms s cores n f hn
  rw [show f = m.fmtAt s.strand from (hformat s.strand).symm] at hperform
  obtain ⟨u, hu, hclose, htiles, hbytes⟩ := hleaves _ _ hperform
  rw [hformat] at hclose
  obtain ⟨v, fl, hframe⟩ := eachFound_sameButVectors t r.d (r.width f) (r.elements t) fun u j => r.code f t u j
  have hresult : result = { t with v := v, fflags := fl } := hframe
  have hclose : u.strand.Closes result t.stepLast := hclose
  refine ⟨u, hu, hclose.v, hclose.fflags, ?_, ?_, ?_, fun hl => ?_, htiles, hbytes⟩
  · rw [hclose.k, hresult]
  · rw [hclose.vl, hresult]
  · rw [hclose.specials, hresult]
    rfl
  · rw [hclose.x (by rw [hresult]; exact hl), hresult]

end Sys2Proof.Machine

/-! PROOFS. Compares and mask words (O24). -/

namespace Sys2Proof.Machine

/-! ### Bits of a mask -/

/-- Bits of a number with a field replaced. -/
theorem testBit_setBits (v lo n x j : Nat) :
    (setBits v lo n x).testBit j = if lo ≤ j ∧ j < lo + n then x.testBit (j - lo) else v.testBit j := by
  have hlow : v % 2 ^ lo < 2 ^ lo := Nat.mod_lt _ (Nat.two_pow_pos lo)
  have hfield : x % 2 ^ n < 2 ^ n := Nat.mod_lt _ (Nat.two_pow_pos n)
  have hmid : v / 2 ^ lo % 2 ^ n < 2 ^ n := Nat.mod_lt _ (Nat.two_pow_pos n)
  have hv : v = 2 ^ lo * (2 ^ n * (v / 2 ^ lo / 2 ^ n) + v / 2 ^ lo % 2 ^ n) + v % 2 ^ lo := by
    rw [Nat.div_add_mod, Nat.div_add_mod]
  have hset : setBits v lo n x = 2 ^ lo * (2 ^ n * (v / 2 ^ lo / 2 ^ n) + x % 2 ^ n) + v % 2 ^ lo := by
    rw [Nat.mul_add] at hv ⊢
    rw [setBits, bitsAt, Nat.mul_comm (v / 2 ^ lo % 2 ^ n), Nat.mul_comm (x % 2 ^ n)]
    omega
  have hbit := congrArg (fun y => Nat.testBit y j) hv
  simp only [Nat.testBit_two_pow_mul_add _ hlow, Nat.testBit_two_pow_mul_add _ hmid] at hbit
  rw [hset, hbit]
  simp only [Nat.testBit_two_pow_mul_add _ hlow, Nat.testBit_two_pow_mul_add _ hfield, Nat.testBit_mod_two_pow]
  by_cases h1 : j < lo
  · have hout : ¬(lo ≤ j ∧ j < lo + n) := by omega
    simp only [h1, hout, if_true, if_false]
  · by_cases h2 : j - lo < n
    · have hin : lo ≤ j ∧ j < lo + n := by omega
      simp only [h1, h2, hin, and_self, if_true, if_false, decide_true, Bool.true_and]
    · have hout : ¬(lo ≤ j ∧ j < lo + n) := by omega
      simp only [h1, h2, hout, if_false]

/-- A bit of a mask with one bit replaced (R149). -/
theorem getLsbD_setMaskBit (k : VReg) (i j : Nat) (b : Bool) :
    (setMaskBit k i b).getLsbD j = if j = i ∧ j < 32768 then b else k.getLsbD j := by
  rw [setMaskBit, BitVec.getLsbD_ofNat, testBit_setBits]
  by_cases hj : j < 32768
  · by_cases hi : j = i
    · subst hi
      cases b <;> simp [hj]
    · rw [if_neg (by omega), if_neg (by omega)]
      simp [hj, BitVec.getLsbD]
  · simp [hj, BitVec.getLsbD_of_ge k j (by omega)]

/-! ### Bits written in the order of their elements -/

/-- A mask with the bits of elements written one after the other. -/
def Strand.eachBit (t : Strand) (d : BitVec 2) (l : List Nat) (truth : Nat → Bool) : Strand :=
  l.foldl (fun u j => u.wk d (setMaskBit (u.rk d) j (truth j))) t

theorem wk_frame (t : Strand) (d : BitVec 2) (v : VReg) : ∃ k, t.wk d v = { t with k := k } := by
  unfold Strand.wk
  split
  · exact ⟨t.k, rfl⟩
  · exact ⟨_, rfl⟩

theorem eachBit_frame (t : Strand) (d : BitVec 2) (l : List Nat) (truth : Nat → Bool) : ∃ k, t.eachBit d l truth = { t with k := k } := by
  unfold Strand.eachBit
  induction l generalizing t with
  | nil => exact ⟨t.k, rfl⟩
  | cons j l ih =>
    obtain ⟨k, hk⟩ := wk_frame t d (setMaskBit (t.rk d) j (truth j))
    rw [List.foldl_cons, hk]
    exact ih _

theorem eachBit_snoc (t : Strand) (d : BitVec 2) (l : List Nat) (truth : Nat → Bool) (j : Nat) :
    t.eachBit d (l ++ [j]) truth =
      (t.eachBit d l truth).wk d (setMaskBit ((t.eachBit d l truth).rk d) j (truth j)) := by
  simp only [Strand.eachBit, List.foldl_append, List.foldl_cons, List.foldl_nil]

/-- Other masks stay as they are. -/
theorem eachBit_other (t : Strand) (d n : BitVec 2) (l : List Nat) (truth : Nat → Bool) (h : n ≠ d) :
    (t.eachBit d l truth).rk n = t.rk n := by
  unfold Strand.eachBit
  induction l generalizing t with
  | nil => rfl
  | cons j l ih => rw [List.foldl_cons, ih, Strand.rk_wk, if_neg fun hn => h hn.1]

/-- The bits of the mask that is written: those of the elements, and every other as it was. -/
theorem eachBit_bits (t : Strand) (d : BitVec 2) (l : List Nat) (truth : Nat → Bool) (hd : d ≠ 0) (j : Nat) (hj : j < 32768) :
    ((t.eachBit d l truth).rk d).getLsbD j = if l.contains j then truth j else (t.rk d).getLsbD j := by
  unfold Strand.eachBit
  induction l generalizing t with
  | nil => rfl
  | cons i l ih =>
    have hrk : (t.wk d (setMaskBit (t.rk d) i (truth i))).rk d = setMaskBit (t.rk d) i (truth i) := by
      rw [Strand.rk_wk, if_pos ⟨rfl, hd⟩]
    rw [List.foldl_cons, ih, hrk, getLsbD_setMaskBit, List.contains_cons]
    by_cases hji : j = i
    · subst hji
      simp [hj]
    · simp [hji]

/-- A bit whose element has not come stays in every mask. -/
theorem eachBit_unwritten (t : Strand) (d n : BitVec 2) (l : List Nat) (truth : Nat → Bool) (j : Nat) (h : j ∉ l) :
    ((t.eachBit d l truth).rk n).getLsbD j = (t.rk n).getLsbD j := by
  by_cases hj : j < 32768
  · by_cases hn : n = d
    · subst hn
      by_cases hd : n = 0
      · subst hd
        rfl
      · rw [eachBit_bits t n l truth hd j hj, if_neg (by simpa using h)]
    · rw [eachBit_other t d n l truth hn]
  · rw [BitVec.getLsbD_of_ge _ _ (by omega), BitVec.getLsbD_of_ge _ _ (by omega)]

/-- A fold over elements that writes bits of a mask. -/
theorem eachEl_bits (s : State) (cores : List Core) (n : Notes) (t : Strand) (d : BitVec 2) (l : List Nat) (truth : Nat → Bool)
    (f : Work → Nat → Except Stop Work) (hl : l.Nodup)
    (h : ∀ u j, (∃ k, u = { t with k := k }) → (∀ m, (u.rk m).getLsbD j = (t.rk m).getLsbD j) →
      f (s.midway cores (u.noted n) []) j = .ok ((s.midway cores (u.noted n) []).setMask d j (truth j))) :
    eachEl f (s.midway cores (t.noted n) []) l = .ok (s.midway cores ((t.eachBit d l truth).noted n) []) := by
  refine eachEl_stages f (fun q => s.midway cores ((t.eachBit d q truth).noted n) []) l fun l1 j l2 hsplit => ?_
  have hj : j ∉ l1 := by
    rw [hsplit] at hl
    exact fun hmem => (List.nodup_append.1 hl).2.2 j hmem j (by simp) rfl
  rw [h _ j (eachBit_frame t d l1 truth) fun m => eachBit_unwritten t d m l1 truth j hj, eachBit_snoc]
  simp only [Work.setMask, midway_upd, noted_rk, noted_wk]

/-! ### The words -/

/-- What a word that writes the bits of a mask leaves behind its step. -/
theorem maskWord_leaves {i : Instr} {m : Member} {s : State} (h : VectorReady i m s) (hbuf : s.strand.buf = []) (d : BitVec 2)
    (l : List Nat) (truth : Nat → Bool) (hd : d ≠ 0)
    (hm : ∀ cores n, n.From s.strand → m.perform (s.strand.stepCtx (m.fmtAt s.strand) m.k) (s.midway cores (s.strand.noted n) []) =
      .ok (s.midway cores ((s.strand.eachBit d l truth).noted n) [])) :
    ∃ u, exec i s = .next u ∧ u.strand.v = s.strand.v ∧ u.strand.fflags = s.strand.fflags ∧
      (s.strand.loop = none → u.strand.x = s.strand.x) ∧ s.sameBytes u ∧ (∀ n : BitVec 2, n ≠ d → u.strand.rk n = s.strand.rk n) ∧
      ∀ j, j < 32768 → (u.strand.rk d).getLsbD j = if l.contains j then truth j else (s.strand.rk d).getLsbD j := by
  obtain ⟨cores, n, -, hn, hleaves⟩ := h.silent hbuf
  obtain ⟨u, hu, hclose, -, hbytes⟩ := hleaves _ _ (hm cores n hn)
  obtain ⟨k, hframe⟩ := eachBit_frame s.strand d l truth
  have hrk : ∀ n, u.strand.rk n = (s.strand.eachBit d l truth).rk n := fun n => by simp only [Strand.rk, hclose.k]
  refine ⟨u, hu, ?_, ?_, fun hl => ?_, hbytes, fun n hne => ?_, fun j hj => ?_⟩
  · rw [hclose.v, hframe]
  · rw [hclose.fflags, hframe]
  · rw [hclose.x (by rw [hframe]; exact hl), hframe]
  · rw [hrk, eachBit_other _ _ _ _ _ hne]
  · rw [hrk, eachBit_bits _ _ _ _ hd j hj]

/-- Equality of two values does not depend on their order. -/
theorem eqv_comm (x y : Val) : x.eqv y = y.eqv x := by
  rw [Val.eqv, Val.eqv, Bool.and_comm !y.isNan, Bool.and_right_comm]

theorem maskField_ne_zero (d : Reg) (h : maskDstOk d = true) : maskField d ≠ 0 := by
  revert d
  decide

/-- A compare performs its relation at the active elements (R149). -/
theorem compareMember_performs (d a b xf : Reg) (k : BitVec 2) (rel : Val → Val → Bool) (s : State) (cores : List Core) (n : Notes) (f : Fmt) :
    (compareMember d a b xf k rel).perform (s.strand.stepCtx f k) (s.midway cores (s.strand.noted n) []) =
      .ok (s.midway cores ((s.strand.eachBit (maskField d) (s.strand.stepActive k) fun j =>
        rel (decodeVal f.srcA (s.strand.elt a f.srcA.width j)) (decodeVal f.srcB (s.strand.elt b f.srcB.width j))).noted n) []) := by
  refine eachEl_bits s cores n s.strand _ _ _ _ (nodup_stepActive s.strand k) ?_
  rintro u j ⟨q, rfl⟩ -
  rfl

/-- A mask word performs its function at every element of the step (R151). -/
theorem maskMember_performs (d a : Reg) (b : Option Reg) (g : Bool → Bool → Bool) (s : State) (cores : List Core) (n : Notes) (f : Fmt)
    (k : BitVec 2) :
    (maskMember d a b g).perform (s.strand.stepCtx f k) (s.midway cores (s.strand.noted n) []) =
      .ok (s.midway cores ((s.strand.eachBit (maskField d) (fromTo s.strand.stepLo s.strand.stepHi) fun j =>
        g ((s.strand.rk (maskField a)).getLsbD j) (match b with
          | some r => (s.strand.rk (maskField r)).getLsbD j
          | none => false)).noted n) []) := by
  refine eachEl_bits s cores n s.strand _ _ _ _ (nodup_fromTo _ _) fun u j _ hbits => ?_
  cases b <;> simp only [midway_cur, noted_rk, hbits]

/-- Settles O24, by the fold of each kind of word over the elements of its step. -/
theorem maskWordsWriteTheirBits : Obligations.MaskWordsWriteTheirBits := by
  unfold Obligations.MaskWordsWriteTheirBits
  intro d a b xf k s m hbuf t f x y ka kb leaves step
  have compare : ∀ (i : Instr) (rel : Val → Val → Bool), memberOf i = some (compareMember d a b xf k rel) → (i.wf = true → maskDstOk d = true) →
      leaves i (t.stepActive k) fun j => rel (x j) (y j) := by
    intro i rel hi hwf hready
    obtain rfl : compareMember d a b xf k rel = m := Option.some.inj (hi.symm.trans hready.member)
    exact maskWord_leaves hready hbuf _ _ _ (maskField_ne_zero d (hwf hready.wf)) fun cores n _ => compareMember_performs d a b xf k rel s cores n f
  have mask : ∀ (i : Instr) (o : Option Reg) (g : Bool → Bool → Bool), memberOf i = some (maskMember d a o g) →
      (i.wf = true → maskDstOk d = true) → leaves i step fun j => g (ka j) (match o with
        | some r => (t.rk (maskField r)).getLsbD j
        | none => false) := by
    intro i o g hi hwf hready
    obtain rfl : maskMember d a o g = m := Option.some.inj (hi.symm.trans hready.member)
    exact maskWord_leaves hready hbuf _ _ _ (maskField_ne_zero d (hwf hready.wf)) fun cores n _ => maskMember_performs d a o g s cores n _ _
  have atLeast : (fun x y : Val => y.lt x || x.eqv y) = fun x y => y.lt x || y.eqv x := by
    funext x y
    rw [eqv_comm]
  have two : ∀ p q : Bool, (maskDstOk d && p && q) = true → maskDstOk d = true := fun p q h => by simp_all
  have one : ∀ p : Bool, (maskDstOk d && p) = true → maskDstOk d = true := fun p h => by simp_all
  exact ⟨compare _ (fun x y => x.eqv y) rfl id, compare _ (fun x y => !x.eqv y) rfl id, compare _ (fun x y => x.lt y) rfl id,
    compare _ (fun x y => x.lt y || x.eqv y) rfl id, compare _ (fun x y => y.lt x) rfl id,
    compare _ (fun x y => y.lt x || y.eqv x) (atLeast ▸ rfl) id, compare _ (fun x y => x.isNan || y.isNan) rfl id,
    mask _ (some b) (fun x y => x && y) rfl (two _ _), mask _ (some b) (fun x y => x || y) rfl (two _ _),
    mask _ (some b) (fun x y => x != y) rfl (two _ _), mask _ none (fun x _ => !x) rfl (one _)⟩

end Sys2Proof.Machine

/-! PROOFS. Reductions, scans, counts and moves out of a vector (O26). -/

namespace Sys2Proof.Machine

/-! ### The carry and the results of a step -/

/-- A strand with another convoy carry (R35). -/
def Strand.carrying (t : Strand) (c : Carry) : Strand := { t with carry := c }

theorem carrying_setElt (t : Strand) (c : Carry) (m : Reg) (w i x : Nat) : (t.carrying c).setElt m w i x = (t.setElt m w i x).carrying c := by
  by_cases h : (elementAt t.wg m.toNat w i).1 < 32
  · rw [setElt_within t m w i x _ _ rfl h, setElt_within (t.carrying c) m w i x _ _ rfl h]
    rfl
  · rw [setElt_beyond t m w i x h, setElt_beyond (t.carrying c) m w i x h]

theorem carrying_wx (t : Strand) (c : Carry) (r : Reg) (v : W64) : (t.carrying c).wx r v = (t.wx r v).carrying c := by
  unfold Strand.wx
  split <;> rfl

@[simp] theorem midway_carry (s : State) (cores : List Core) (u : Strand) (n : Notes) (ws : List Write) (c : Carry) :
    (s.midway cores (u.noted n) ws).upd (fun q => { q with carry := c }) = s.midway cores ((u.carrying c).noted n) ws := rfl

theorem midway_wx (s : State) (cores : List Core) (u : Strand) (n : Notes) (ws : List Write) (r : Reg) (v : W64) :
    (s.midway cores (u.noted n) ws).wx r v = s.midway cores ((u.wx r v).noted n) ws := by
  simp only [Work.wx, midway_upd, noted_wx]

@[simp] theorem raise_zero (t : Strand) : t.raise 0 = t := by
  have h : t.fflags ||| 0 = t.fflags := BitVec.or_zero
  simp only [Strand.raise, h]

/-- A strand that holds results of a step of `t`: its x registers, vector registers and flags may differ. -/
def Strand.Results (t r : Strand) : Prop := ∃ x v fl, r = { t with x := x, v := v, fflags := fl }

theorem Strand.Results.refl (t : Strand) : t.Results t := ⟨t.x, t.v, t.fflags, rfl⟩

theorem Strand.Results.setElt {t r : Strand} (h : t.Results r) (m : Reg) (w i x : Nat) : t.Results (r.setElt m w i x) := by
  obtain ⟨_, _, _, rfl⟩ := h
  obtain ⟨v, hv⟩ := setElt_frame _ m w i x
  exact ⟨_, v, _, hv⟩

theorem Strand.Results.raise {t r : Strand} (h : t.Results r) (fl : Flags) : t.Results (r.raise fl) := by
  obtain ⟨_, _, _, rfl⟩ := h
  exact ⟨_, _, _, rfl⟩

theorem Strand.Results.wx {t r : Strand} (h : t.Results r) (d : Reg) (v : W64) : t.Results (r.wx d v) := by
  obtain ⟨_, _, _, rfl⟩ := h
  unfold Strand.wx
  split <;> exact ⟨_, _, _, rfl⟩

theorem setElt_x (t : Strand) (m : Reg) (w i x : Nat) : (t.setElt m w i x).x = t.x := by
  obtain ⟨_, h⟩ := setElt_frame t m w i x
  rw [h]

theorem raise_x (t : Strand) (fl : Flags) : (t.raise fl).x = t.x := rfl

/-- What an unchained word with a carry leaves, once its member leaves the results `r` and the carry `c`. -/
theorem carryWord_leaves {i : Instr} {m : Member} {s : State} (h : VectorReady i m s) (hbuf : s.strand.buf = []) (r : Strand) (c : Carry)
    (hr : s.strand.Results r) (holds : State → Prop)
    (hm : ∀ cores n, n.From s.strand → m.perform (s.strand.stepCtx (m.fmtAt s.strand) m.k) (s.midway cores (s.strand.noted n) []) =
      .ok (s.midway cores ((r.carrying c).noted n) []))
    (hholds : ∀ u : State, u.strand.v = r.v ∧ u.strand.fflags = r.fflags → (s.strand.loop = none → u.strand.x = r.x) →
      (s.strand.stepLast = false → u.strand.carry = c) → holds u) :
    ∃ u, exec i s = .next u ∧ holds u ∧ u.strand.k = s.strand.k ∧ u.strand.vl = s.strand.vl ∧ u.strand.specials = s.strand.specials ∧
      (∀ n, (u.core n).tiles = (s.core n).tiles) ∧ s.sameBytes u := by
  obtain ⟨cores, n, -, hn, hleaves⟩ := h.silent hbuf
  obtain ⟨u, hu, hclose, htiles, hbytes⟩ := hleaves _ _ (hm cores n hn)
  obtain ⟨x, v, fl, rfl⟩ := hr
  exact ⟨u, hu, hholds u ⟨hclose.v, hclose.fflags⟩ hclose.x hclose.carry, hclose.k, hclose.vl, hclose.specials, htiles, hbytes⟩

/-! ### Reductions (R153) -/

/-- A running value over elements that notes whether one was active. -/
theorem foldl_running {α : Type} (mk : α → Bool → Carry) (take : Carry → Nat → Carry) (step : α → Nat → α)
    (htake : ∀ a b j, take (mk a b) j = mk (step a j) true) (l : List Nat) (acc : α) (any : Bool) :
    l.foldl take (mk acc any) = mk (l.foldl step acc) (any || !l.isEmpty) := by
  induction l generalizing acc any with
  | nil => simp
  | cons j l ih => simp only [List.foldl_cons, htake, ih, List.isEmpty_cons, Bool.true_or, Bool.not_false, Bool.or_true]

/-- A reduction takes its running value from the carry, or starts it, and writes it at the last step. -/
theorem reduceMember_performs (d a xf : Reg) (k : BitVec 2) (ok : Nat → Fmt → Bool) (start : Fmt → Nat → Carry)
    (take : Fmt → Carry → Nat → Carry) (result : Fmt → Carry → Option (Nat × Flags)) (s : State) (cores : List Core) (n : Notes) (f : Fmt) :
    let t := s.strand
    let c0 := if t.carry = .none then start f (t.elt d f.dst.width 0) else t.carry
    let c1 := (t.stepActive k).foldl (fun x j => take f x (t.elt a f.srcA.width j)) c0
    (reduceMember d a xf k ok start take result).perform (t.stepCtx f k) (s.midway cores (t.noted n) []) =
      .ok (s.midway cores (((if t.stepLast then (match result f c1 with
        | some r => (t.setElt d f.dst.width 0 r.1).raise r.2
        | none => t) else t).carrying c1).noted n) []) := by
  intro t c0 c1
  change Except.ok (if t.stepLast then (match result f c1 with
    | some r => (s.midway cores ((t.carrying c1).noted n) []).setElt d f.dst.width 0 r
    | none => s.midway cores ((t.carrying c1).noted n) []) else s.midway cores ((t.carrying c1).noted n) []) = _
  cases t.stepLast with
  | false => rfl
  | true =>
    cases result f c1 with
    | none => rfl
    | some r =>
      simp only [if_true, midway_setElt, carrying_setElt]
      rfl

theorem reduceMember_leaves {α : Type} (d a xf : Reg) (k : BitVec 2) (ok : Nat → Fmt → Bool) (start : Fmt → Nat → Carry)
    (take : Fmt → Carry → Nat → Carry) (result : Fmt → Carry → Option (Nat × Flags)) {i : Instr} {s : State}
    (h : VectorReady i (reduceMember d a xf k ok start take result) s) (hbuf : s.strand.buf = [])
    (mk : α → Bool → Carry) (step : α → Nat → α) (code : α → Nat × Flags) (acc : α) (any : Bool)
    (hstart : (if s.strand.carry = .none then start (fmtOf (s.strand.sx xf)) (s.strand.elt d (fmtOf (s.strand.sx xf)).dst.width 0)
      else s.strand.carry) = mk acc any)
    (htake : ∀ q b j, take (fmtOf (s.strand.sx xf)) (mk q b) (s.strand.elt a (fmtOf (s.strand.sx xf)).srcA.width j) = mk (step q j) true)
    (hresult : ∀ q b, result (fmtOf (s.strand.sx xf)) (mk q b) = if b then some (code q) else none) :
    let t := s.strand
    let act := t.stepActive k
    let last := act.foldl step acc
    ∃ u, exec i s = .next u ∧ ((t.loop = none → u.strand.x = t.x) ∧
        (t.stepLast = false → (u.strand.v = t.v ∧ u.strand.fflags = t.fflags) ∧ u.strand.carry = mk last (any || !act.isEmpty)) ∧
        (t.stepLast = true →
          let r := if any || !act.isEmpty then (t.setElt d (fmtOf (t.sx xf)).dst.width 0 (code last).1).raise (code last).2 else t
          u.strand.v = r.v ∧ u.strand.fflags = r.fflags)) ∧
      u.strand.k = t.k ∧ u.strand.vl = t.vl ∧ u.strand.specials = t.specials ∧ (∀ n, (u.core n).tiles = (s.core n).tiles) ∧ s.sameBytes u := by
  intro t act last
  let written : Strand := (t.setElt d (fmtOf (t.sx xf)).dst.width 0 (code last).1).raise (code last).2
  let r : Strand := if t.stepLast && (any || !act.isEmpty) then written else t
  have hr : t.Results r := by
    simp only [r]
    split
    · exact ((Strand.Results.refl t).setElt ..).raise _
    · exact .refl t
  have hx : r.x = t.x := by
    simp only [r]
    split
    · exact setElt_x ..
    · rfl
  refine carryWord_leaves h hbuf r (mk last (any || !act.isEmpty)) hr _ (fun cores n _ => ?_) fun u hv hux hc =>
    ⟨fun hl => (hux hl).trans hx, fun hl => ⟨?_, hc hl⟩, fun hl => ?_⟩
  · have hfold : act.foldl (fun x j => take (fmtOf (t.sx xf)) x (t.elt a (fmtOf (t.sx xf)).srcA.width j)) (mk acc any) =
        mk last (any || !act.isEmpty) := foldl_running mk _ step htake act acc any
    refine (reduceMember_performs d a xf k ok start take result s cores n (fmtOf (t.sx xf))).trans ?_
    rw [hstart, hfold, hresult]
    cases hl : t.stepLast <;> cases hany : (any || !act.isEmpty) <;> simp [t, r, hl, hany, written]
  · simpa only [r, hl, Bool.false_and, Bool.false_eq_true, if_false] using hv
  · simpa only [r, hl, Bool.true_and] using hv

/-! ### Counts and moves out (R151, R157) -/

/-- What a word that gives an x register leaves: its value where it is due. -/
theorem giveWord_leaves {i : Instr} {m : Member} {s : State} (h : VectorReady i m s) (hbuf : s.strand.buf = []) (d : Reg) (due : Bool) (v : W64)
    (c : Carry)
    (hm : ∀ cores n, n.From s.strand → m.perform (s.strand.stepCtx (m.fmtAt s.strand) m.k) (s.midway cores (s.strand.noted n) []) =
      .ok (s.midway cores (((if due then s.strand.wx d v else s.strand).carrying c).noted n) [])) :
    ∃ u, exec i s = .next u ∧ ((u.strand.v = s.strand.v ∧ u.strand.fflags = s.strand.fflags) ∧
        (due = true → s.strand.loop = none → u.strand.x = (s.strand.wx d v).x) ∧
        (due = false → s.strand.loop = none → u.strand.x = s.strand.x) ∧ (s.strand.stepLast = false → u.strand.carry = c)) ∧
      u.strand.k = s.strand.k ∧ u.strand.vl = s.strand.vl ∧ u.strand.specials = s.strand.specials ∧
      (∀ n, (u.core n).tiles = (s.core n).tiles) ∧ s.sameBytes u := by
  have hr : s.strand.Results (if due then s.strand.wx d v else s.strand) := by
    split
    · exact (Strand.Results.refl _).wx d v
    · exact .refl _
  have hv : (s.strand.wx d v).v = s.strand.v ∧ (s.strand.wx d v).fflags = s.strand.fflags := by
    unfold Strand.wx
    split <;> exact ⟨rfl, rfl⟩
  refine carryWord_leaves h hbuf _ c hr _ hm fun u hu hx hc => ⟨?_, fun hd => ?_, fun hd => ?_, hc⟩
  · cases due with
    | true => exact ⟨hu.1.trans hv.1, hu.2.trans hv.2⟩
    | false => exact hu
  · simpa only [hd, if_true] using hx
  · simpa only [hd, Bool.false_eq_true, if_false] using hx

theorem counted_of (c : Carry) (before : Nat) (h : c = .none ∧ before = 0 ∨ c = .count before) : c.counted = before := by
  obtain ⟨rfl, rfl⟩ | rfl := h <;> rfl

/-- The first index that a carry holds. -/
def Carry.foundFirst (c : Carry) : Option Nat :=
  match c with
  | .first i => i
  | _ => Option.none

theorem foundFirst_of (c : Carry) (before : Option Nat) (h : c = .none ∧ before = Option.none ∨ c = .first before) : c.foundFirst = before := by
  obtain ⟨rfl, rfl⟩ | rfl := h <;> rfl

/-- The elements of a step that are active and set in a mask. -/
def Strand.stepSet (t : Strand) (k : BitVec 2) (a : Reg) : List Nat := (t.stepActive k).filter fun j => (t.rk (maskField a)).getLsbD j

theorem kpopc_performs (d a : Reg) (k : BitVec 2) (s : State) (cores : List Core) (n : Notes) (f : Fmt) (before : Nat)
    (hc : s.strand.carry = .none ∧ before = 0 ∨ s.strand.carry = .count before) :
    let total := before + (s.strand.stepSet k a).length
    (memKpopc d a k).perform (s.strand.stepCtx f k) (s.midway cores (s.strand.noted n) []) =
      .ok (s.midway cores (((if s.strand.stepLast then s.strand.wx d (BitVec.ofNat 64 total) else s.strand).carrying (.count total)).noted n) []) := by
  intro total
  have htotal : s.strand.carry.counted + (s.strand.stepSet k a).length = total := by rw [counted_of _ _ hc]
  let w := s.midway cores ((s.strand.carrying (.count (s.strand.carry.counted + (s.strand.stepSet k a).length))).noted n) []
  change Except.ok (if s.strand.stepLast then w.wx d (BitVec.ofNat 64 (s.strand.carry.counted + (s.strand.stepSet k a).length)) else w) = _
  simp only [w, htotal, midway_wx, carrying_wx]
  split <;> rfl

theorem kfirst_performs (d a : Reg) (k : BitVec 2) (s : State) (cores : List Core) (n : Notes) (f : Fmt) (before : Option Nat)
    (hc : s.strand.carry = .none ∧ before = none ∨ s.strand.carry = .first before) :
    let found := before.or (s.strand.stepSet k a).head?
    (memKfirst d a k).perform (s.strand.stepCtx f k) (s.midway cores (s.strand.noted n) []) =
      .ok (s.midway cores (((if s.strand.stepLast then s.strand.wx d (match found with
        | some j => BitVec.ofNat 64 j
        | none => BitVec.allOnes 64) else s.strand).carrying (.first found)).noted n) []) := by
  intro found
  let merged : Option Nat := match s.strand.carry.foundFirst with
    | some j => some j
    | none => (s.strand.stepSet k a).head?
  let w := s.midway cores ((s.strand.carrying (.first merged)).noted n) []
  change Except.ok (if s.strand.stepLast then w.wx d (match merged with
    | some j => BitVec.ofNat 64 j
    | none => BitVec.allOnes 64) else w) = _
  have hmerged : merged = found := by
    simp only [merged, found, foundFirst_of _ _ hc]
    cases before <;> rfl
  simp only [w, hmerged, midway_wx, carrying_wx]
  split <;> rfl

theorem vmvxs_performs (d a xf : Reg) (k : BitVec 2) (s : State) (cores : List Core) (n : Notes) (f : Fmt) :
    let x := s.strand.elt a f.srcA.width 0
    (memVmvxs d a xf k).perform (s.strand.stepCtx f k) (s.midway cores (s.strand.noted n) []) =
      .ok (s.midway cores (((if (s.strand.stepActive k).contains 0 then
        s.strand.wx d (if f.srcA.cls = 0 then BitVec.ofInt 64 (signed f.srcA.width x) else BitVec.ofNat 64 x)
        else s.strand).carrying s.strand.carry).noted n) []) := by
  intro x
  let w := s.midway cores (s.strand.noted n) []
  change Except.ok (if (s.strand.stepActive k).contains 0 then
    w.wx d (if f.srcA.cls = 0 then BitVec.ofInt 64 (signed f.srcA.width x) else BitVec.ofNat 64 x) else w) = _
  simp only [w, midway_wx]
  cases (s.strand.stepActive k).contains 0 with
  | false => rfl
  | true =>
    have hcarry (v : W64) : (s.strand.wx d v).carry = s.strand.carry := by
      unfold Strand.wx
      split <;> rfl
    simp only [if_true, Strand.carrying, ← hcarry (if f.srcA.cls = 0 then BitVec.ofInt 64 (signed f.srcA.width x) else BitVec.ofNat 64 x)]

/-! ### Scans and compress (R154, R158) -/

/-- A fold over elements that writes vector registers and flags. -/
theorem foldl_sameButVectors {α : Type} (step : Strand × α → Nat → Strand × α) (t : Strand)
    (h : ∀ p j, t.SameButVectors p.1 → t.SameButVectors (step p j).1) (l : List Nat) (acc : α) : t.SameButVectors (l.foldl step (t, acc)).1 := by
  induction l using List.reverseRecOn with
  | nil => exact ⟨t.v, t.fflags, rfl⟩
  | append_singleton q j ih =>
    rw [List.foldl_append]
    exact h _ j ih

theorem Strand.SameButVectors.setElt {t r : Strand} (h : t.SameButVectors r) (m : Reg) (w i x : Nat) : t.SameButVectors (r.setElt m w i x) := by
  obtain ⟨_, _, rfl⟩ := h
  obtain ⟨v, hv⟩ := setElt_frame _ m w i x
  exact ⟨v, _, hv⟩

theorem Strand.SameButVectors.raise {t r : Strand} (h : t.SameButVectors r) (fl : Flags) : t.SameButVectors (r.raise fl) := by
  obtain ⟨_, _, rfl⟩ := h
  exact ⟨_, _, rfl⟩

theorem Strand.SameButVectors.results {t r : Strand} (h : t.SameButVectors r) : t.Results r ∧ r.x = t.x := by
  obtain ⟨_, _, rfl⟩ := h
  exact ⟨⟨_, _, _, rfl⟩, rfl⟩

theorem scanned_sameButVectors (excl : Bool) (f : Fmt) (d a : Reg) (t : Strand) (l : List Nat) (acc : Sum × Bool) :
    t.SameButVectors (l.foldl (scanned excl f d a) (t, acc)).1 :=
  foldl_sameButVectors _ t (fun _ _ hp => (hp.setElt ..).raise _) l acc

theorem packed_sameButVectors (f : Fmt) (d a : Reg) (t : Strand) (l : List Nat) (n : Nat) :
    t.SameButVectors (l.foldl (packed f d a) (t, n)).1 :=
  foldl_sameButVectors _ t (fun _ _ hp => hp.setElt ..) l n

/-- A fold over elements that writes results and moves the carry on, as `step` says of the strand and of a value that the carry stands for. -/
theorem eachEl_carried {α : Type} (s : State) (cores : List Core) (n : Notes) (t : Strand) (l : List Nat)
    (f : Work → Nat → Except Stop Work) (step : Strand × α → Nat → Strand × α) (mk : α → Carry) (Of : Carry → α → Prop) (acc : α)
    (hof : Of t.carry acc) (hmk : ∀ p j, Of (mk (step p j).2) (step p j).2)
    (hf : ∀ (p : Strand × α) c j, Of c p.2 → f (s.midway cores ((p.1.carrying c).noted n) []) j =
      .ok (s.midway cores (((step p j).1.carrying (mk (step p j).2)).noted n) [])) :
    eachEl f (s.midway cores (t.noted n) []) l =
      .ok (s.midway cores (((l.foldl step (t, acc)).1.carrying (if l.isEmpty then t.carry else mk (l.foldl step (t, acc)).2)).noted n) []) := by
  have hfold : ∀ q : List Nat, Of (if q.isEmpty then t.carry else mk (q.foldl step (t, acc)).2) (q.foldl step (t, acc)).2 := by
    intro q
    induction q using List.reverseRecOn with
    | nil => exact hof
    | append_singleton q j ih =>
      rw [List.foldl_append, List.foldl_cons, List.foldl_nil]
      simpa using hmk _ j
  refine eachEl_stages f (fun q => s.midway cores (((q.foldl step (t, acc)).1.carrying
    (if q.isEmpty then t.carry else mk (q.foldl step (t, acc)).2)).noted n) []) l fun l1 j l2 _ => ?_
  rw [hf _ _ j (hfold l1), List.foldl_append, List.foldl_cons, List.foldl_nil]
  simp

theorem elt_carrying (t : Strand) (c : Carry) (m : Reg) (w i : Nat) : (t.carrying c).elt m w i = t.elt m w i := rfl

theorem scanMember_performs (excl : Bool) (d a xf : Reg) (k : BitVec 2) (s : State) (cores : List Core) (n : Notes) (f : Fmt) (acc : Sum)
    (any : Bool) (hc : s.strand.carry = .none ∧ acc = {} ∧ any = false ∨ s.strand.carry = .sum acc any false) :
    let r := (s.strand.stepActive k).foldl (scanned excl f d a) (s.strand, acc, any)
    (scanMember excl d a xf k).perform (s.strand.stepCtx f k) (s.midway cores (s.strand.noted n) []) =
      .ok (s.midway cores ((r.1.carrying (if (s.strand.stepActive k).isEmpty then s.strand.carry else .sum r.2.1 true false)).noted n) []) := by
  refine eachEl_carried s cores n s.strand (s.strand.stepActive k) _ (scanned excl f d a) (fun p => .sum p.1 true false)
    (fun c p => c = .none ∧ p.1 = {} ∧ p.2 = false ∨ c = .sum p.1 p.2 false) (acc, any) hc (fun p j => .inr rfl)
    fun p c j hcp => ?_
  obtain ⟨u, acc, any⟩ := p
  obtain ⟨rfl, rfl, rfl⟩ | rfl := hcp <;>
    simp only [midway_setElt, carrying_setElt, midway_cur, noted_carry, noted_elt, elt_carrying] <;> rfl

theorem compressMember_performs (d a xf : Reg) (k : BitVec 2) (s : State) (cores : List Core) (n : Notes) (f : Fmt) (before : Nat)
    (hc : s.strand.carry = .none ∧ before = 0 ∨ s.strand.carry = .count before) :
    let r := (s.strand.stepActive k).foldl (packed f d a) (s.strand, before)
    (memVcompress d a xf k).perform (s.strand.stepCtx f k) (s.midway cores (s.strand.noted n) []) =
      .ok (s.midway cores ((r.1.carrying (if (s.strand.stepActive k).isEmpty then s.strand.carry else .count r.2)).noted n) []) := by
  refine eachEl_carried s cores n s.strand (s.strand.stepActive k) _ (packed f d a) Carry.count (fun c q => c.counted = q) before
    (counted_of _ _ hc) (fun p j => rfl) fun p c j hcp => ?_
  obtain ⟨u, q⟩ := p
  subst hcp
  simp only [midway_setElt, carrying_setElt, midway_cur, noted_carry, noted_elt, elt_carrying, raise_zero]
  rfl

/-! ### Maximum with index (R155) -/

/-- The results of the last step of a maximum with index. -/
def Strand.indexed (t : Strand) (f : Fmt) (d a : Reg) (clear : Bool) (best : Carry) : Strand :=
  match best with
  | .best true j v code =>
    let q := if clear then t.setElt a f.srcA.width j (clearCode f.srcA) else t
    let out := if v.isNan then (canonNan f.srcA, flagNV) else (code, 0)
    ((q.setElt d 64 0 j).setElt d 64 1 out.1).raise out.2
  | _ => (t.setElt d 64 0 (2 ^ 64 - 1)).setElt d 64 1 0

theorem indexed_results (t : Strand) (f : Fmt) (d a : Reg) (clear : Bool) (best : Carry) :
    t.Results (t.indexed f d a clear best) ∧ (t.indexed f d a clear best).x = t.x := by
  unfold Strand.indexed
  split
  · cases clear with
    | false => exact ⟨(((Strand.Results.refl t).setElt ..).setElt ..).raise _, by simp [raise_x, setElt_x]⟩
    | true => exact ⟨((((Strand.Results.refl t).setElt ..).setElt ..).setElt ..).raise _, by simp [raise_x, setElt_x]⟩
  · exact ⟨((Strand.Results.refl t).setElt ..).setElt .., by rw [setElt_x, setElt_x]⟩

theorem indexMember_performs (min clear : Bool) (d a xf : Reg) (k : BitVec 2) (s : State) (cores : List Core) (n : Notes) (f : Fmt) :
    let best := (s.strand.stepActive k).foldl (takeBest min f a s.strand) s.strand.carry
    (indexMember min clear d a xf k).perform (s.strand.stepCtx f k) (s.midway cores (s.strand.noted n) []) =
      .ok (s.midway cores (((if s.strand.stepLast then s.strand.indexed f d a clear best else s.strand).carrying best).noted n) []) := by
  intro best
  let w := s.midway cores ((s.strand.carrying best).noted n) []
  change Except.ok (if !s.strand.stepLast then w else
    match best with
    | .best true j v code =>
      let k2 := if clear then w.setElt a f.srcA.width j (clearCode f.srcA, 0) else w
      let out := if v.isNan then (canonNan f.srcA, flagNV) else (code, flagNone)
      (k2.setElt d 64 0 (j, 0)).setElt d 64 1 out
    | _ => (w.setElt d 64 0 (2 ^ 64 - 1, 0)).setElt d 64 1 (0, 0)) = _
  cases s.strand.stepLast with
  | false => rfl
  | true =>
    simp only [Bool.not_true, Bool.false_eq_true, if_false, if_true, Strand.indexed, w]
    clear_value best
    split
    · next j v code _ =>
      cases clear with
      | false =>
        simp only [Bool.false_eq_true, if_false, midway_setElt, carrying_setElt, raise_zero]
        rfl
      | true =>
        simp only [if_true, midway_setElt, carrying_setElt, raise_zero]
        rfl
    · simp only [midway_setElt, carrying_setElt, raise_zero]

theorem indexMember_leaves (min clear : Bool) (d a xf : Reg) (k : BitVec 2) {i : Instr} {s : State}
    (h : VectorReady i (indexMember min clear d a xf k) s) (hbuf : s.strand.buf = []) :
    let t := s.strand
    let best := (t.stepActive k).foldl (takeBest min (fmtOf (t.sx xf)) a t) t.carry
    ∃ u, exec i s = .next u ∧ ((t.loop = none → u.strand.x = t.x) ∧
        (t.stepLast = false → (u.strand.v = t.v ∧ u.strand.fflags = t.fflags) ∧ u.strand.carry = best) ∧
        (t.stepLast = true → u.strand.v = (t.indexed (fmtOf (t.sx xf)) d a clear best).v ∧
          u.strand.fflags = (t.indexed (fmtOf (t.sx xf)) d a clear best).fflags)) ∧
      u.strand.k = t.k ∧ u.strand.vl = t.vl ∧ u.strand.specials = t.specials ∧ (∀ n, (u.core n).tiles = (s.core n).tiles) ∧ s.sameBytes u := by
  intro t best
  obtain ⟨hr, hx⟩ := indexed_results t (fmtOf (t.sx xf)) d a clear best
  cases hl : t.stepLast with
  | false =>
    refine carryWord_leaves h hbuf t best (.refl t) _ (fun cores n _ => ?_) fun u hv hux hc => ?_
    case refine_2 => exact ⟨hux, fun _ => ⟨hv, hc hl⟩, fun hf => nomatch hf⟩
    refine (indexMember_performs min clear d a xf k s cores n (fmtOf (t.sx xf))).trans ?_
    simp only [t, best] at hl ⊢
    simp only [hl, Bool.false_eq_true, if_false]
  | true =>
    refine carryWord_leaves h hbuf (t.indexed (fmtOf (t.sx xf)) d a clear best) best hr _ (fun cores n _ => ?_) fun u hv hux _ => ?_
    case refine_2 => exact ⟨fun hloop => (hux hloop).trans hx, fun hf => (by cases hf), fun _ => hv⟩
    refine (indexMember_performs min clear d a xf k s cores n (fmtOf (t.sx xf))).trans ?_
    simp only [t, best] at hl ⊢
    simp only [hl, if_true]

/-! ### The words -/

/-- Settles O26: each word's member is performed with the running value of the carry, and the close of the step keeps it or ends it. -/
theorem reductionsCarryTheirValue : Obligations.ReductionsCarryTheirValue := by
  unfold Obligations.ReductionsCarryTheirValue
  intro d a xf k s m hbuf t f act src w leaves vectors gives noX reduces numeric index
  have mem {i : Instr} {m' : Member} (hi : memberOf i = some m') (hready : VectorReady i m s) : VectorReady i m' s := by
    obtain rfl : m' = m := Option.some.inj (hi.symm.trans hready.member)
    exact hready
  have reduce {α : Type} (i : Instr) (start : Fmt → Nat → Carry) (take : Fmt → Carry → Nat → Carry)
      (result : Fmt → Carry → Option (Nat × Flags)) (ok : Nat → Fmt → Bool) (hi : memberOf i = some (reduceMember d a xf k ok start take result))
      (mk : α → Bool → Carry) (step : α → Nat → α) (code : α → Nat × Flags) (acc : α) (any : Bool)
      (hc : t.carry = .none ∧ start f (t.elt d w 0) = mk acc any ∨ t.carry = mk acc any) (hmk : ∀ q b, mk q b ≠ .none)
      (htake : ∀ q b j, take f (mk q b) (t.elt a f.srcA.width j) = mk (step q j) true)
      (hresult : ∀ q b, result f (mk q b) = if b then some (code q) else none) :
      reduces i any (mk (act.foldl step acc) (any || !act.isEmpty)) (code (act.foldl step acc)) := by
    intro hready
    refine reduceMember_leaves d a xf k ok start take result (mem hi hready) hbuf mk step code acc any ?_ htake hresult
    obtain ⟨h, hs⟩ | h := hc
    · exact (if_pos h).trans hs
    · exact (if_neg (by rw [h]; exact hmk acc any)).trans h
  have indexed (i : Instr) (min clear : Bool) (hi : memberOf i = some (indexMember min clear d a xf k)) : index i min clear :=
    fun hready => indexMember_leaves min clear d a xf k (mem hi hready) hbuf
  refine ⟨fun n hc => ?_, fun o hc => ?_, ?_, fun acc any hc => ?_, fun acc any hc => ?_, fun acc any hc => ?_, fun acc any hc => ?_,
    indexed _ _ _ rfl, indexed _ _ _ rfl, indexed _ _ _ rfl, fun n hc => ?_⟩
  case refine_1 =>
    intro total hready
    obtain ⟨u, hu, ⟨hv, hx, hno, hcarry⟩, hrest⟩ := giveWord_leaves (mem rfl hready) hbuf d t.stepLast (BitVec.ofNat 64 total) (.count total)
      fun cores q _ => kpopc_performs d a k s cores q _ n hc
    exact ⟨u, hu, ⟨hv, hx, fun hl => ⟨hno hl, hcarry hl⟩⟩, hrest⟩
  case refine_2 =>
    intro found hready
    obtain ⟨u, hu, ⟨hv, hx, hno, hcarry⟩, hrest⟩ := giveWord_leaves (mem rfl hready) hbuf d t.stepLast _ (.first found)
      fun cores q _ => kfirst_performs d a k s cores q _ o hc
    exact ⟨u, hu, ⟨hv, hx, fun hl => ⟨hno hl, hcarry hl⟩⟩, hrest⟩
  case refine_3 =>
    intro x hready
    obtain ⟨u, hu, ⟨hv, hx, hno, -⟩, hrest⟩ := giveWord_leaves (mem rfl hready) hbuf d (act.contains 0) _ t.carry
      fun cores q _ => vmvxs_performs d a xf k s cores q f
    exact ⟨u, hu, ⟨hv, fun h0 => hx (by simpa using h0), fun h0 => hno (by simpa using h0)⟩, hrest⟩
  case refine_4 =>
    refine reduce _ _ _ _ _ rfl (fun q b => .sum q b false) (fun q j => q.add (src j)) (fun q => numeric (q.value f.rm)) acc any ?_
      (fun _ _ h => nomatch h) (fun _ _ _ => rfl) fun q b => by cases b <;> rfl
    exact hc.imp_left fun ⟨h, hacc, hany⟩ => ⟨h, by rw [hacc, hany]⟩
  case refine_5 =>
    have extreme (max : Bool) (i : Instr) (hi : memberOf i = some (reduceExtreme max d a xf k)) := reduce i _ _ _ _ hi
      (fun q b => .ext q b false) (fun q j => Val.minmax max q (src j)) numeric acc any
      (hc.imp_left fun ⟨h, hacc, hany⟩ => ⟨h, by rw [hacc, hany]⟩)
      (fun _ _ h => nomatch h) (fun _ _ _ => rfl) fun q b => by cases b <;> rfl
    exact ⟨extreme false _ rfl, extreme true _ rfl⟩
  case refine_6 =>
    have bits (op : Nat → Nat → Nat) (i : Instr) (hi : memberOf i = some (reduceBits op d a xf k)) := reduce i _ _ _ _ hi
      (fun q b => .bits q b) (fun q j => op q (t.elt a f.srcA.width j)) (fun q => (q, 0)) acc any
      (hc.imp_left fun ⟨h, hacc, hany⟩ => ⟨h, by rw [hacc, hany]⟩)
      (fun _ _ h => nomatch h) (fun _ _ _ => rfl) fun q b => by cases b <;> rfl
    exact ⟨bits (fun x y => x &&& y) _ rfl, bits (fun x y => x ||| y) _ rfl⟩
  case refine_7 =>
    have scan (excl : Bool) (i : Instr) (hi : memberOf i = some (scanMember excl d a xf k)) (hready : VectorReady i m s) := by
      let r := act.foldl (scanned excl f d a) (t, acc, any)
      obtain ⟨hr, hrx⟩ := (scanned_sameButVectors excl f d a t act (acc, any)).results
      exact carryWord_leaves (mem hi hready) hbuf r.1 (if act.isEmpty then t.carry else .sum r.2.1 true false) hr
        (fun u => noX u ∧ vectors u r.1 ∧ (t.stepLast = false → u.strand.carry = if act.isEmpty then t.carry else .sum r.2.1 true false))
        (fun cores n _ => scanMember_performs excl d a xf k s cores n f acc any hc)
        fun u hv hx hcarry => ⟨fun hl => (hx hl).trans hrx, hv, hcarry⟩
    exact ⟨scan false _ rfl, scan true _ rfl⟩
  case refine_8 =>
    intro r hready
    obtain ⟨hr, hrx⟩ := (packed_sameButVectors f d a t act n).results
    exact carryWord_leaves (mem rfl hready) hbuf r.1 (if act.isEmpty then t.carry else .count r.2) hr
      (fun u => noX u ∧ vectors u r.1 ∧ (t.stepLast = false → u.strand.carry = if act.isEmpty then t.carry else .count r.2))
      (fun cores q _ => compressMember_performs d a xf k s cores q f n hc)
      fun u hv hx hcarry => ⟨fun hl => (hx hl).trans hrx, hv, hcarry⟩

end Sys2Proof.Machine

/-! PROOFS. Vector loads and stores (O27): the accesses of one element. -/

namespace Sys2Proof.Machine

/-! ### Reads of the state in the midst of a step -/

theorem leafFor_midway (s : State) (cores : List Core) (u : Strand) (ws : List Write) (core ctx va : Nat) :
    (s.midway cores u ws).st.leafFor core ctx va = s.leafFor core ctx va := by
  have hwalk : (s.midway cores u ws).st.walk core ctx va = s.walk core ctx va := by
    have hctx : (s.midway cores u ws).st.ctx? ctx = s.ctx? ctx := rfl
    simp only [State.walk, hctx]
    split
    · rfl
    · exact walkFrom_congr s (s.midway cores u ws).st _ _ _ _ _ rfl
  simp only [State.leafFor, hwalk]
  rfl

/-- Neither the strand in front nor the trace rings change a translation. -/
@[simp] theorem checkVirtual_midway (s : State) (cores : List Core) (u : Strand) (ws : List Write) (core ctx : Nat) (va : W64) (z : Nat)
    (a : Acc) : (s.midway cores u ws).st.checkVirtual core ctx va z a = s.checkVirtual core ctx va z a := by
  have haccess : (s.midway cores u ws).st.access core ctx va a = s.access core ctx va a := by
    simp only [State.access, leafFor_midway]
    rfl
  simp only [State.checkVirtual, haccess]

theorem Core.SameButTrace.owner {c d : Core} (h : c.SameButTrace d) :
    d.halves = c.halves ∧ d.owner = c.owner ∧ d.banksOff = c.banksOff ∧ d.lanesFor = c.lanesFor := by
  obtain ⟨_, _, _, _, _, _, rfl⟩ := h
  exact ⟨rfl, rfl, rfl, rfl⟩

theorem spAllowed_midway (s : State) (cores : List Core) (u : Strand) (ws : List Write) (h : s.SameCores cores) (g : Place) (dev : Nat) :
    (s.midway cores u ws).st.spAllowed g dev = s.spAllowed g dev := by
  obtain ⟨hh, ho, -, -⟩ := (h (dev / 2 ^ 22)).owner
  have hcore : (s.midway cores u ws).st.core (dev / 2 ^ 22) = ({ s with cores := cores } : State).core (dev / 2 ^ 22) := rfl
  simp only [State.spAllowed, hcore, hh, ho]

theorem meadow_midway (s : State) (cores : List Core) (u : Strand) (ws : List Write) (h : s.SameCores cores) (g : Place) (va : W64) (z : Nat) :
    (s.midway cores u ws).st.meadow g va z = s.meadow g va z := by
  simp only [State.meadow, spAllowed_midway s cores u ws h]

theorem bankAsleep_midway (s : State) (cores : List Core) (u : Strand) (ws : List Write) (h : s.SameCores cores) (dev : Nat) :
    (s.midway cores u ws).st.bankAsleep dev = s.bankAsleep dev := by
  obtain ⟨-, -, hb, -⟩ := (h (dev / 2 ^ 22)).owner
  have hcore : (s.midway cores u ws).st.core (dev / 2 ^ 22) = ({ s with cores := cores } : State).core (dev / 2 ^ 22) := rfl
  simp only [State.bankAsleep, hcore, hb]

theorem tlen_midway (s : State) (cores : List Core) (u : Strand) (ws : List Write) (h : s.SameCores cores) (g : Place) :
    (s.midway cores u ws).st.tlen g = s.tlen g := by
  obtain ⟨-, -, -, hl⟩ := (h g.core).owner
  have hcore : (s.midway cores u ws).st.core g.core = ({ s with cores := cores } : State).core g.core := rfl
  simp only [State.tlen, hcore, hl]

/-- The checks of a scratchpad access that finds its bytes awake. -/
theorem spCheck_midway (s : State) (cores : List Core) (u : Strand) (ws : List Write) (h : s.SameCores cores) (va : W64) (z dev : Nat)
    (hal : va.toNat % z = 0) (hm : s.meadow u.g va z = .ok dev) (hb : s.bankAsleep dev = false) :
    (s.midway cores u ws).spCheck va z = .ok dev := by
  simp only [Work.spCheck, hal, midway_cur, meadow_midway s cores u ws h, hm, bankAsleep_midway s cores u ws h, hb]
  rfl

/-! ### Loads of an element -/

/-- An access that passes its checks is aligned. -/
theorem checkVirtual_aligned {s : State} {core ctx : Nat} {va : W64} {z : Nat} {a : Acc} {p : Site}
    (h : s.checkVirtual core ctx va z a = .ok p) : va.toNat % z = 0 := by
  by_contra hal
  rw [checkVirtual_misaligned s core ctx va z a hal] at h
  cases h

/-- An element of field memory that a strand which waits for nothing loads. -/
theorem loadElt_field (s : State) (cores : List Core) (u : Strand) (n : Notes) (cls z i pa : Nat) (va : W64) (hz : 0 < z) (hq : u.Quiet)
    (hw : u.window = none) (h : s.checkVirtual u.g.core u.g.ctx va z .read = .ok (.mem .fm pa)) (hfits : pa + z ≤ 384 * 2 ^ 30)
    (hp : (s.line false (pa / 64)).poison = false) :
    (s.midway cores (u.noted n) []).loadElt cls va z i = .ok (leNat (Mem.readN s.fm pa z), s.midway cores (u.noted n) []) := by
  have hwindow : (u.noted n).windowAt va = none := by
    have : (u.noted n).window = none := hw
    simp only [Strand.windowAt, this]
  have hgate : (s.midway cores (u.noted n) []).loadGate cls = .ok () := loadGate_of_none _ _ hq.holds hq.pend hq.remotes
  have hpoison : (s.midway cores (u.noted n) []).st.poisoned (.mem .fm pa) = false := hp
  have hbytes : (s.midway cores (u.noted n) []).ownBytes .fm pa z = Mem.readN s.fm pa z :=
    ownBytes_of_none _ .fm pa z rfl hq.pend hq.buf (by decide)
  have hnote : (s.midway cores (u.noted n) []).note (.mem .fm pa) = s.midway cores (u.noted n) [] := by
    have hlt : pa < 384 * 2 ^ 30 := by omega
    simp only [Work.note, Site.exists?, hlt, decide_true, Bool.not_true, Bool.or_false]
  simp only [Work.loadElt, checkVirtual_aligned h, ne_eq, not_true, if_false, midway_cur, hwindow, Work.loadVirtual, checkVirtual_midway,
    noted_g, h, hgate, hpoison, Bool.false_eq_true, Work.readSite, hbytes, hnote]

/-- An element of scratchpad that such a strand loads. -/
theorem loadSpElt_pad (s : State) (cores : List Core) (u : Strand) (n : Notes) (hcores : s.SameCores cores) (cls z dev : Nat) (va : W64)
    (hq : u.Quiet) (hal : va.toNat % z = 0) (hm : s.meadow u.g va z = .ok dev) (hb : s.bankAsleep dev = false)
    (hread : cls = 6 → (s.midway cores (u.noted n) []).st.readBlockers dev (dev + z) = []) :
    (s.midway cores (u.noted n) []).loadSpElt cls va z = .ok (leNat (Mem.readN s.sp dev z), s.midway cores (u.noted n) []) := by
  have hcheck := spCheck_midway s cores (u.noted n) [] hcores va z dev hal hm hb
  have hgate : (s.midway cores (u.noted n) []).loadGate cls = .ok () := loadGate_of_none _ _ hq.holds hq.pend hq.remotes
  have hreadGate : (s.midway cores (u.noted n) []).readGate cls dev z = .ok () := by
    unfold Work.readGate
    by_cases h6 : cls = 6
    · simp only [h6, if_true, hread h6, List.isEmpty_nil]
    · simp only [h6, if_false, List.isEmpty_nil, if_true]
  have hbytes : (s.midway cores (u.noted n) []).ownBytes .sp dev z = Mem.readN s.sp dev z :=
    ownBytes_of_none _ .sp dev z rfl hq.pend hq.buf (by decide)
  simp only [Work.loadSpElt, Work.loadSp, hcheck, hgate, hreadGate, hbytes]

/-- What a class-6 read waits for does not depend on the vector registers and the notes of a step. -/
theorem readBlockers_midway (s : State) (cores : List Core) (u : Strand) (n : Notes) (h : s.strand.SameButVectors u) (lo hi : Nat) :
    (s.midway cores (u.noted n) []).st.readBlockers lo hi = s.readBlockers lo hi := by
  obtain ⟨v, fl, rfl⟩ := h
  have hwaiters : (s.midway cores (({ s.strand with v := v, fflags := fl } : Strand).noted n) []).st.waiters = s.waiters := by
    unfold State.waiters
    congr 1
    show List.flatMap _ (State.strands _) = List.flatMap _ (State.strands _)
    unfold State.strands
    have hlive : (s.midway cores (({ s.strand with v := v, fflags := fl } : Strand).noted n) []).st.strand.live = s.strand.live := rfl
    rw [hlive]
    split <;> rfl
  simp only [State.readBlockers, State.stuck, State.behindOf, hwaiters]
  rfl

/-! ### Stores of an element -/

/-- The write of an element. -/
def elementWrite (g : Tgt) (pa : Nat → Nat) (bytes : Nat → List Byte) (owner : BitVec 12) (j : Nat) : Write := .put g (pa j) (bytes j) owner false

/-- An element of field memory that a strand outside every window stores, where the log takes its line. -/
theorem storeElt_field (s : State) (cores : List Core) (u : Strand) (n : Notes) (ws : List Write) (cls z i v pa : Nat) (va : W64) (hz : 0 < z)
    (hw : u.window = none) (h : s.checkVirtual u.g.core u.g.ctx va z .write = .ok (.mem .fm pa)) (hfits : pa + z ≤ 384 * 2 ^ 30)
    (hroom : (s.midway cores (u.noted n) ws).linesFit false (linesOf pa z) = true) :
    (s.midway cores (u.noted n) ws).storeElt cls va z i v =
      .ok ((s.midway cores (u.noted n) ws).store cls (some va.toNat) (.mem (.put .fm pa (leBytes z v) (s.ownerTag u.g.ctx) false))) := by
  have hwindow : (u.noted n).windowAt va = none := by
    have : (u.noted n).window = none := hw
    simp only [Strand.windowAt, this]
  have hnote : (s.midway cores (u.noted n) ws).note (.mem .fm pa) = s.midway cores (u.noted n) ws := by
    have hlt : pa < 384 * 2 ^ 30 := by omega
    simp only [Work.note, Site.exists?, hlt, decide_true, Bool.not_true, Bool.or_false]
  simp only [Work.storeElt, checkVirtual_aligned h, ne_eq, not_true, if_false, midway_cur, hwindow, Work.storeVirtual, checkVirtual_midway,
    noted_g, h, Work.storeWait, hroom, if_true, hnote]
  rfl

/-- An element of scratchpad that a strand stores. -/
theorem storeSp_pad (s : State) (cores : List Core) (u : Strand) (n : Notes) (ws : List Write) (hcores : s.SameCores cores) (cls z v dev : Nat)
    (va : W64) (hal : va.toNat % z = 0) (hm : s.meadow u.g va z = .ok dev) (hb : s.bankAsleep dev = false) :
    (s.midway cores (u.noted n) ws).storeSp cls va z v =
      .ok ((s.midway cores (u.noted n) ws).store cls none (.mem (.put .sp dev (leBytes z v) 0 false))) := by
  simp only [Work.storeSp, spCheck_midway s cores (u.noted n) ws hcores va z dev hal hm hb]

/-- A write of an element that nothing keeps back. -/
theorem store_midway (s : State) (cores : List Core) (u : Strand) (n : Notes) (ws : List Write) (cls : Nat) (va : Option Nat) (g : Tgt)
    (a : Nat) (bs : List Byte) (owner : BitVec 12) (hn : n.buffering = false) (hq : u.Quiet) (hg : g = .fm ∨ g = .sp)
    (henv : g = .sp → s.envBlockers none (some (a, a + bs.length)) = []) (hplace : u.g = s.strand.g)
    (hfits : g = .fm → (s.midway cores (u.noted n) ws).linesFit false (linesOf a bs.length) = true)
    (hallowed : g = .sp → (s.midway cores (u.noted n) ws).st.spAllowed u.g a = true ∧
      (s.midway cores (u.noted n) ws).st.spAllowed u.g (a + bs.length - 1) = true) :
    (s.midway cores (u.noted n) ws).store cls va (.mem (.put g a bs owner false)) =
      s.midway cores (u.noted n) (ws ++ [.put g a bs owner false]) := by
  have hfree : (s.midway cores (u.noted n) ws).st.strand.Free := ⟨hn, hq.pend, hq.holds, hq.remotes, hq.buf⟩
  have hblock := storeBlockers_of_free _ hfree cls (.mem (.put g a bs owner false))
    (fun lo hi hr => by
      obtain rfl | rfl := hg
      · cases hr
      · cases hr
        rw [← henv rfl]
        simp only [State.envBlockers]
        rw [show (s.midway cores (u.noted n) ws).st.strand.g = s.strand.g from hplace]
        rfl)
    (fun _ _ _ h => nomatch h)
  have hcan : (s.midway cores (u.noted n) ws).canPerform (.mem (.put g a bs owner false)) = true := by
    obtain rfl | rfl := hg
    · exact hfits rfl
    · rfl
  rw [store_performs (s.midway cores (u.noted n) ws) cls va (.mem (.put g a bs owner false)) hn hblock hcan]
  have hput : ∀ w : Work, w.cur.g = u.g → w.st = (s.midway cores (u.noted n) ws).st →
      w.putOwn (.put g a bs owner false) = w.put (.put g a bs owner false) := by
    intro w hwg hst
    obtain rfl | rfl := hg
    · rfl
    · obtain ⟨h1, h2⟩ := hallowed rfl
      simp only [Work.putOwn, hwg, hst, h1, h2, Bool.and_self, if_true]
  exact congrArg (fun k : Work => { k with cls := (s.midway cores (u.noted n) ws).cls, va := (s.midway cores (u.noted n) ws).va })
    (hput { s.midway cores (u.noted n) ws with cls := cls, va := va } rfl rfl)

end Sys2Proof.Machine

/-! PROOFS. Vector loads and stores (O27): the elements of a step. -/

namespace Sys2Proof.Machine

/-! ### Done masks (R36) -/

/-- Notes whose first done mask has the bits of elements set. -/
def Notes.marked (n : Notes) (q : List Nat) : Notes :=
  { n with done := q.foldl (fun m i => m.set 0 (setMaskBit m[0] i true)) n.done }

theorem noted_setDone (t : Strand) (n : Notes) (i : Nat) : (t.noted n).setDone 0 i = t.noted (n.marked [i]) := rfl

theorem marked_snoc (n : Notes) (q : List Nat) (i : Nat) : (n.marked q).marked [i] = n.marked (q ++ [i]) := by
  simp only [Notes.marked, List.foldl_append]

/-- Marks of other elements. -/
theorem marked_isDone (t : Strand) (n : Notes) (q : List Nat) (j : Nat) (h : j ∉ q) :
    (t.noted (n.marked q)).isDone 0 j = (n.done.getD 0 0).getLsbD j := by
  induction q using List.reverseRecOn with
  | nil => rfl
  | append_singleton q i ih =>
    have hji : j ≠ i := fun hji => h (by simp [hji])
    rw [← ih fun hq => h (by simp [hq]), ← marked_snoc]
    have hset : ((t.noted ((n.marked q).marked [i])).done.getD 0 0) = setMaskBit (n.marked q).done[0] i true := by
      simp [Strand.noted, Notes.marked, Vector.getD]
    have hget : (t.noted (n.marked q)).done.getD 0 0 = (n.marked q).done[0] := by
      simp [Strand.noted, Vector.getD]
    simp only [Strand.isDone, hset, hget, getLsbD_setMaskBit, hji, false_and, if_false]

/-- Whether an indexed member passes over an element that the notes hold as done. -/
def Notes.passes (n : Notes) (idx : Bool) (j : Nat) : Bool := idx && (n.done.getD 0 0).getLsbD j

/-- The elements of a step that a member performs. -/
def Notes.todo (n : Notes) (idx : Bool) (act : List Nat) : List Nat := act.filter fun j => !n.passes idx j

/-- A fold over the elements of a step that passes over those done and marks those that it does. -/
theorem eachEl_todo (s : State) (cores : List Core) (n : Notes) (idx : Bool) (f : Work → Nat → Except Stop Work) (strandAt : List Nat → Strand)
    (wsAt : List Nat → List Write) (t0 : Strand) (h0 : strandAt [] = t0) (hw0 : wsAt [] = []) (act : List Nat) (hnodup : act.Nodup)
    (hskip : ∀ (w : Work) j, idx = true → w.cur.isDone 0 j = true → f w j = .ok w)
    (hact : ∀ l1 j l2, n.todo idx act = l1 ++ j :: l2 → ∀ m d, m = { n with done := d } →
      (idx && ((strandAt l1).noted m).isDone 0 j) = false →
      f (s.midway cores ((strandAt l1).noted m) (wsAt l1)) j =
        .ok (s.midway cores ((strandAt (l1 ++ [j])).noted (if idx then m.marked [j] else m)) (wsAt (l1 ++ [j])))) :
    ∃ m, eachEl f (s.midway cores (t0.noted n) []) act =
      .ok (s.midway cores ((strandAt (n.todo idx act)).noted m) (wsAt (n.todo idx act))) := by
  let notes (q : List Nat) : Notes := if idx then n.marked q else n
  have hdone (q : List Nat) : ∃ d, notes q = { n with done := d } := by
    simp only [notes]
    split
    · exact ⟨_, rfl⟩
    · exact ⟨n.done, rfl⟩
  have hisDone (q : List Nat) (t : Strand) (j : Nat) (h : j ∉ q) :
      (idx && (t.noted (notes q)).isDone 0 j) = n.passes idx j := by
    rw [Notes.passes]
    cases hi : idx with
    | false => rfl
    | true =>
      have hnotes : notes q = n.marked q := by simp only [notes, hi, if_true]
      rw [Bool.true_and, Bool.true_and, hnotes, marked_isDone t n q j h]
  have hnil : notes [] = n := by
    simp only [notes]
    split <;> rfl
  let stage (q : List Nat) : Work := s.midway cores ((strandAt (n.todo idx q)).noted (notes (n.todo idx q))) (wsAt (n.todo idx q))
  refine ⟨notes (n.todo idx act), ?_⟩
  have hfold := eachEl_stages f stage act fun l1 j l2 hsplit => ?_
  · simp only [stage, Notes.todo, List.filter_nil, hnil, h0, hw0] at hfold
    exact hfold
  · have hj : j ∉ n.todo idx l1 := by
      rw [hsplit] at hnodup
      intro hmem
      exact (List.nodup_append.1 hnodup).2.2 j (List.mem_of_mem_filter hmem) j (by simp) rfl
    cases hd : n.passes idx j with
    | true =>
      have hsame : n.todo idx (l1 ++ [j]) = n.todo idx l1 := by simp [Notes.todo, hd]
      have hboth := hisDone (n.todo idx l1) (strandAt (n.todo idx l1)) j hj
      rw [hd, Bool.and_eq_true] at hboth
      simp only [stage, hsame]
      exact hskip _ j hboth.1 hboth.2
    | false =>
      have hmore : n.todo idx (l1 ++ [j]) = n.todo idx l1 ++ [j] := by simp [Notes.todo, hd]
      have hall : n.todo idx act = n.todo idx l1 ++ j :: n.todo idx l2 := by simp [Notes.todo, hsplit, hd]
      obtain ⟨d, hnotes⟩ := hdone (n.todo idx l1)
      have hstep := hact _ j _ hall _ d hnotes ((hisDone _ _ j hj).trans hd)
      have hnext : (if idx then (notes (n.todo idx l1)).marked [j] else notes (n.todo idx l1)) = notes (n.todo idx l1 ++ [j]) := by
        cases hi : idx with
        | false => simp only [notes, hi, Bool.false_eq_true, if_false]
        | true => simp only [notes, hi, if_true, marked_snoc]
      simp only [stage, hmore, ← hnext]
      exact hstep

/-! ### Members that load and store -/

/-- A strand with elements of vd loaded. -/
def Strand.loaded (t : Strand) (d : Reg) (val : Nat → Nat) (q : List Nat) : Strand := q.foldl (fun u j => u.setElt d t.sew j (val j)) t

theorem loaded_snoc (t : Strand) (d : Reg) (val : Nat → Nat) (q : List Nat) (j : Nat) :
    t.loaded d val (q ++ [j]) = (t.loaded d val q).setElt d t.sew j (val j) := by
  simp only [Strand.loaded, List.foldl_append, List.foldl_cons, List.foldl_nil]

theorem loaded_vectors (t : Strand) (d : Reg) (val : Nat → Nat) (q : List Nat) : ∃ v, t.loaded d val q = { t with v := v } := by
  induction q using List.reverseRecOn with
  | nil => exact ⟨t.v, rfl⟩
  | append_singleton q j ih =>
    obtain ⟨v, hv⟩ := ih
    rw [loaded_snoc, hv]
    obtain ⟨v', hv'⟩ := setElt_frame { t with v := v } d t.sew j (val j)
    exact ⟨v', hv'⟩

/-- The elements of the present step that a member performs: where it is indexed, those that its resumption does not hold as done (R36, R128). -/
def Strand.stepTodo (t : Strand) (k : BitVec 2) (idx : Option Reg) : List Nat :=
  (t.stepActive k).filter fun j => !(idx.isSome && ((t.resume (t.epr t.sew)).done.getD 0 0).getLsbD j)

/-- A member without indexes performs every active element. -/
theorem stepTodo_none (t : Strand) (k : BitVec 2) : t.stepTodo k none = t.stepActive k := by simp [Strand.stepTodo]

theorem todo_from {n : Notes} {t : Strand} (h : n.From t) (k : BitVec 2) (idx : Option Reg) :
    n.todo idx.isSome (t.stepActive k) = t.stepTodo k idx := by
  simp only [Notes.todo, Notes.passes, Strand.stepTodo, h.done]

/-- A load performs: each element of the step that is not done takes the value that `load` reads. -/
theorem loadMember_performs (d : Reg) (idx : Option Reg) (k : BitVec 2) (load : Work → Nat → Nat → Except Stop (Nat × Work)) (s : State)
    (cores : List Core) (n : Notes) (f : Fmt) (val : Nat → Nat)
    (hload : ∀ l1 j l2, n.todo idx.isSome (s.strand.stepActive k) = l1 ++ j :: l2 → ∀ m dn, m = { n with done := dn } →
      load (s.midway cores ((s.strand.loaded d val l1).noted m) []) (s.strand.sew / 8) j =
        .ok (val j, s.midway cores ((s.strand.loaded d val l1).noted m) [])) :
    ∃ m, (loadMember d idx k load).perform (s.strand.stepCtx f k) (s.midway cores (s.strand.noted n) []) =
      .ok (s.midway cores ((s.strand.loaded d val (n.todo idx.isSome (s.strand.stepActive k))).noted m) []) := by
  refine eachEl_todo s cores n idx.isSome _ (s.strand.loaded d val) (fun _ => []) s.strand rfl rfl (s.strand.stepActive k) (nodup_stepActive _ _) ?_ ?_
  · intro w j hidx hdone
    have hskip : (idx.isSome && w.cur.isDone (s.strand.stepCtx f k).idx j) = true := by rw [hidx]; exact hdone
    exact if_pos hskip
  · intro l1 j l2 hl m dn hm hnot
    have hskip : ¬(idx.isSome && (s.midway cores ((s.strand.loaded d val l1).noted m) []).cur.isDone (s.strand.stepCtx f k).idx j) = true := by
      rw [midway_cur]
      exact fun h => absurd (hnot.symm.trans h) Bool.false_ne_true
    refine (if_neg hskip).trans ?_
    have hsew : (s.midway cores (s.strand.noted n) []).cur.sew = s.strand.sew := rfl
    rw [hsew, hload l1 j l2 hl m dn hm]
    simp only [midway_setElt, raise_zero, ← loaded_snoc]
    cases idx.isSome <;> rfl

/-- A load of a word that is ready. -/
theorem load_leaves {i : Instr} (d : Reg) (idx : Option Reg) (k : BitVec 2) (load : Work → Nat → Nat → Except Stop (Nat × Work)) {s : State}
    (h : VectorReady i (loadMember d idx k load) s) (hbuf : s.strand.buf = []) (val : Nat → Nat) (l : List Nat)
    (hl : l = s.strand.stepTodo k idx)
    (hload : ∀ cores (n : Notes), s.SameCores cores → n.From s.strand → ∀ l1 j l2, l = l1 ++ j :: l2 → ∀ m dn, m = { n with done := dn } →
      load (s.midway cores ((s.strand.loaded d val l1).noted m) []) (s.strand.sew / 8) j =
        .ok (val j, s.midway cores ((s.strand.loaded d val l1).noted m) [])) :
    ∃ u, exec i s = .next u ∧ u.strand.v = (s.strand.loaded d val l).v ∧ (u.strand.k = s.strand.k ∧ u.strand.fflags = s.strand.fflags ∧
      u.strand.vl = s.strand.vl ∧ u.strand.specials = s.strand.specials ∧ (s.strand.loop = none → u.strand.x = s.strand.x)) ∧ s.sameBytes u := by
  obtain ⟨cores, n, hcores, hn, hleaves⟩ := h.silent hbuf
  have htodo : n.todo idx.isSome (s.strand.stepActive k) = l := (todo_from hn ..).trans hl.symm
  obtain ⟨m, hm⟩ := loadMember_performs d idx k load s cores n _ val fun l1 j l2 hsplit =>
    hload cores n hcores hn l1 j l2 (htodo.symm.trans hsplit)
  obtain ⟨u, hu, hclose, -, hbytes⟩ := hleaves _ _ hm
  rw [htodo] at hclose
  obtain ⟨v, hv⟩ := loaded_vectors s.strand d val l
  refine ⟨u, hu, hclose.v, ⟨?_, ?_, ?_, ?_, fun hloop => ?_⟩, hbytes⟩
  · rw [hclose.k, hv]
  · rw [hclose.fflags, hv]
  · rw [hclose.vl, hv]
  · rw [hclose.specials, hv]
    rfl
  · rw [hclose.x (by rw [hv]; exact hloop), hv]

/-- A store performs: each element of the step that is not done goes where `store` takes its code. -/
theorem storeMember_performs (d : Reg) (idx : Option Reg) (k : BitVec 2) (store : Work → Nat → Nat → Nat → Except Stop Work) (s : State)
    (cores : List Core) (n : Notes) (f : Fmt) (strandAt : List Nat → Strand) (wsAt : List Nat → List Write) (h0 : strandAt [] = s.strand)
    (hw0 : wsAt [] = [])
    (hstore : ∀ l1 j l2, n.todo idx.isSome (s.strand.stepActive k) = l1 ++ j :: l2 → ∀ m dn, m = { n with done := dn } →
      store (s.midway cores ((strandAt l1).noted m) (wsAt l1)) (s.strand.sew / 8) j ((strandAt l1).elt d s.strand.sew j) =
        .ok (s.midway cores ((strandAt (l1 ++ [j])).noted m) (wsAt (l1 ++ [j])))) :
    ∃ m, (storeMember d idx k store).perform (s.strand.stepCtx f k) (s.midway cores (s.strand.noted n) []) =
      .ok (s.midway cores ((strandAt (n.todo idx.isSome (s.strand.stepActive k))).noted m)
        (wsAt (n.todo idx.isSome (s.strand.stepActive k)))) := by
  refine eachEl_todo s cores n idx.isSome _ strandAt wsAt s.strand h0 hw0 (s.strand.stepActive k) (nodup_stepActive _ _) ?_ ?_
  · intro w j hidx hdone
    have hskip : (idx.isSome && w.cur.isDone (s.strand.stepCtx f k).idx j) = true := by rw [hidx]; exact hdone
    exact if_pos (by rw [hskip]; rfl)
  · intro l1 j l2 hl m dn hm hnot
    have hskip : ¬((idx.isSome && (s.midway cores ((strandAt l1).noted m) (wsAt l1)).cur.isDone (s.strand.stepCtx f k).idx j) ||
        ((s.strand.stepCtx f k).keep && idx.isNone)) = true := by
      have hkeep : ((s.strand.stepCtx f k).keep && idx.isNone) = false := rfl
      rw [hkeep, Bool.or_false, midway_cur]
      exact fun h => absurd (hnot.symm.trans h) Bool.false_ne_true
    refine (if_neg hskip).trans ?_
    have hsew : (s.midway cores (s.strand.noted n) []).cur.sew = s.strand.sew := rfl
    rw [hsew, midway_cur, noted_elt, hstore l1 j l2 hl m dn hm]
    cases idx.isSome <;> rfl

end Sys2Proof.Machine

/-! PROOFS. Vector loads and stores (O27): the stores of a step, performed or held in the strip store buffer. -/

namespace Sys2Proof.Machine

/-! ### Lines and memories of the elements -/

/-- The size of an element is 1, 2, 4 or 8 bytes. -/
theorem elementSize (t : Strand) : ∃ k, k ≤ 3 ∧ t.sew / 8 = 2 ^ k ∧ 8 * (t.sew / 8) = t.sew := by
  refine ⟨bitsAt t.vtype.toNat 0 2, ?_, ?_, ?_⟩
  · simp only [bitsAt]
    omega
  · rw [Strand.sew, Nat.mul_div_cancel_left _ (by decide)]
  · rw [Strand.sew, Nat.mul_div_cancel_left _ (by decide)]

/-- An element of a memory lies in one line. -/
theorem element_oneLine {s : State} {core ctx : Nat} {va : W64} {k : Nat} {a : Acc} {g : Tgt} {pa : Nat} (hk : k ≤ 3)
    (h : s.checkVirtual core ctx va (2 ^ k) a = .ok (.mem g pa)) : (linesOf pa (2 ^ k)).length = 1 := by
  have hal := checkVirtual_aligned h
  have haccess : s.access core ctx va a = .ok (.mem g pa) := by
    unfold State.checkVirtual at h
    split at h
    · cases h
    · split at h
      · cases h
      · exact h
  rw [linesOf_aligned pa k hk ((access_mem_aligned s core ctx va a g pa k hk haccess).trans hal)]
  rfl

/-- A log with room for a line of each element takes the line of the next one. -/
theorem linesFit_elements (s : State) (cores : List Core) (u : Strand) (pa : Nat → Nat) (bytes : Nat → List Byte) (owner : BitVec 12) (z : Nat)
    (q : List Nat) (j : Nat) (hlen : ∀ i, (bytes i).length = z) (hone : ∀ i ∈ q ++ [j], (linesOf (pa i) z).length = 1)
    (hroom : s.undoF.length + (q.length + 1) ≤ Config.undoCapF) :
    (s.midway cores u (q.map (elementWrite .fm pa bytes owner))).linesFit false (linesOf (pa j) z) = true := by
  have hlines : ((q.map (elementWrite .fm pa bytes owner)).flatMap (Write.lines .fm)).length ≤ q.length := by
    clear hroom
    induction q with
    | nil => simp
    | cons i q ih =>
      have hi : (Write.lines .fm (elementWrite .fm pa bytes owner i)).length ≤ 1 := by
        simp only [elementWrite, Write.lines, hlen]
        split
        · exact (hone i (by simp)).le
        · simp
      have htail := ih fun x hx => hone x (List.mem_cons_of_mem i hx)
      simp only [List.map_cons, List.flatMap_cons, List.length_append, List.length_cons]
      omega
  have hlast := hone j (by simp)
  have hused : (s.midway cores u (q.map (elementWrite .fm pa bytes owner))).st.undo false = s.undoF := rfl
  simp only [Work.linesFit, hused, Bool.false_eq_true, if_false, midway_ws, List.length_append, Bool.or_eq_true, decide_eq_true_eq]
  left
  omega

/-- The memory that elements are written to, in their order. -/
theorem writtenTo_elements (g : Tgt) (pa : Nat → Nat) (bytes : Nat → List Byte) (owner : BitVec 12) (q : List Nat) (m : Mem) :
    writtenTo g (q.map (elementWrite g pa bytes owner)) m = q.foldl (fun x j => Mem.write x (pa j) (bytes j)) m := by
  simp only [writtenTo, List.foldl_map, elementWrite, if_true]

theorem writtenTo_other (g h : Tgt) (hg : h ≠ g) (pa : Nat → Nat) (bytes : Nat → List Byte) (owner : BitVec 12) (q : List Nat) (m : Mem) :
    writtenTo h (q.map (elementWrite g pa bytes owner)) m = m := by
  simp only [writtenTo, List.foldl_map, elementWrite, hg, if_false, List.foldl_fixed]

/-! ### The stores of a step -/

theorem storeMember_reader (d : Reg) (idx : Option Reg) (k : BitVec 2) (store : Work → Nat → Nat → Nat → Except Stop Work) :
    (storeMember d idx k store).Reader := ⟨fun _ _ => rfl, rfl, rfl, rfl⟩

/-- A store of a word that is ready: the strand and the writes that its elements leave. -/
theorem store_leaves {i : Instr} (d : Reg) (idx : Option Reg) (k : BitVec 2) (store : Work → Nat → Nat → Nat → Except Stop Work) {s : State}
    (h : VectorReady i (storeMember d idx k store) s) (hbuf : s.strand.buf = []) (l : List Nat)
    (hl : l = s.strand.stepTodo k idx)
    (strandAt : List Nat → Strand) (wsAt : List Nat → List Write) (h0 : strandAt [] = s.strand) (hw0 : wsAt [] = [])
    (hstore : ∀ cores (n : Notes), s.SameCores cores → n.From s.strand → n.buffering = s.strand.buffering → ∀ l1 j l2, l = l1 ++ j :: l2 →
      ∀ m dn, m = { n with done := dn } →
      store (s.midway cores ((strandAt l1).noted m) (wsAt l1)) (s.strand.sew / 8) j ((strandAt l1).elt d s.strand.sew j) =
        .ok (s.midway cores ((strandAt (l1 ++ [j])).noted m) (wsAt (l1 ++ [j])))) :
    ∃ u, exec i s = .next u ∧ u.strand.Closes (strandAt l) s.strand.stepLast ∧ ∀ g, u.memOf g = writtenTo g (wsAt l) (s.memOf g) := by
  obtain ⟨cores, n, hcores, hn, hreader, hleaves⟩ := h.leaves hbuf
  have htodo : n.todo idx.isSome (s.strand.stepActive k) = l := (todo_from hn ..).trans hl.symm
  obtain ⟨m, hm⟩ := storeMember_performs d idx k store s cores n _ strandAt wsAt h0 hw0 fun l1 j l2 hsplit =>
    hstore cores n hcores hn (hreader (storeMember_reader ..)) l1 j l2 (htodo.symm.trans hsplit)
  rw [htodo] at hm
  obtain ⟨u, hu, hclose, hmem, -⟩ := hleaves _ _ _ hm
  exact ⟨u, hu, hclose, hmem⟩

/-- A strand with another strip store buffer. -/
def Strand.holding (t : Strand) (b : List BufStore) : Strand := { t with buf := b }

/-- Where an element of a store goes: from any strand that differs from that of the step in its buffer alone, `store` makes the store of the
element's write, where the log has room for it. -/
def Places (s : State) (g : Tgt) (cls : Nat) (va : Nat → Option Nat) (wr : Nat → Write) (z : Nat)
    (store : Work → Nat → Nat → Nat → Except Stop Work) (v : Nat) (j : Nat) : Prop :=
  ∀ cores (n : Notes) b ws, s.SameCores cores → n.From s.strand → ∀ m dn, m = { n with done := dn } →
    (g = .fm → (s.midway cores ((s.strand.holding b).noted m) ws).canPerform (.mem (wr j)) = true) →
    store (s.midway cores ((s.strand.holding b).noted m) ws) z j v =
      .ok ((s.midway cores ((s.strand.holding b).noted m) ws).store cls (va j) (.mem (wr j)))

/-- A place of an element that takes its store at once: field memory in one line, or scratchpad of the context that no command holds. -/
structure Takes (s : State) (g : Tgt) (a z : Nat) : Prop where
  memory : g = .fm ∨ g = .sp
  line : g = .fm → (linesOf a z).length = 1
  allowed : g = .sp → s.spAllowed s.strand.g a = true ∧ s.spAllowed s.strand.g (a + z - 1) = true
  clear : g = .sp → s.envBlockers none (some (a, a + z)) = []

/-- The entry of an element in the strip store buffer (R141). -/
def bufferedElement (cls : Nat) (va : Nat → Option Nat) (wr : Nat → Write) (j : Nat) : BufStore := ⟨cls, va j, .mem (wr j)⟩

theorem bufBytes_elements (cls : Nat) (va : Nat → Option Nat) (g : Tgt) (pa : Nat → Nat) (bytes : Nat → List Byte) (owner : BitVec 12) (z : Nat)
    (hlen : ∀ i, (bytes i).length = z) (q : List Nat) :
    bufBytes (q.map (bufferedElement cls va (elementWrite g pa bytes owner))) = q.length * z := by
  have go : ∀ (l : List Nat) n,
      ((l.map (bufferedElement cls va (elementWrite g pa bytes owner))).map fun e => e.st.len).foldl (· + ·) n = n + l.length * z := by
    intro l
    induction l with
    | nil => simp
    | cons i l ih =>
      intro n
      have hone : (bufferedElement cls va (elementWrite g pa bytes owner) i).st.len = z := hlen i
      rw [List.map_cons, List.map_cons, List.foldl_cons, hone, ih, List.length_cons, Nat.succ_mul]
      omega
  exact (go q 0).trans (Nat.zero_add _)

section
variable {i : Instr} {d : Reg} {idx : Option Reg} {k : BitVec 2} {store : Work → Nat → Nat → Nat → Except Stop Work} {s : State}
  {g : Tgt} {cls : Nat} {owner : BitVec 12} {va : Nat → Option Nat} {pa : Nat → Nat} {bytes : Nat → List Byte} {l : List Nat}

/-- The room for the write of an element, as a log that has room for all of them gives it. -/
theorem canPerform_elements (hlen : ∀ j, (bytes j).length = s.strand.sew / 8) (hroom : s.undoF.length + l.length ≤ Config.undoCapF)
    (htakes : ∀ j ∈ l, Takes s g (pa j) (s.strand.sew / 8)) (cores : List Core) (u : Strand) (l1 l2 q : List Nat) (j : Nat)
    (hsplit : l = l1 ++ j :: l2) (hq : q = [] ∨ q = l1) :
    (s.midway cores u (q.map (elementWrite g pa bytes owner))).canPerform (.mem (elementWrite g pa bytes owner j)) = true := by
  have hj : j ∈ l := by simp [hsplit]
  obtain rfl | rfl := (htakes j hj).memory
  · have hmem : ∀ x ∈ q ++ [j], x ∈ l := by
      intro x hx
      obtain rfl | rfl := hq <;> simp only [hsplit, List.mem_append, List.mem_cons, List.not_mem_nil, or_false, false_or] at hx ⊢
      · exact .inr (.inl hx)
      · exact hx.imp_right .inl
    have hcount : q.length + 1 ≤ l.length := by
      obtain rfl | rfl := hq <;> simp only [hsplit, List.length_append, List.length_cons, List.length_nil] <;> omega
    have hfit := linesFit_elements s cores u pa bytes owner _ q j hlen (fun x hx => (htakes x (hmem x hx)).line rfl) (by omega)
    rw [← hlen j] at hfit
    exact hfit
  · rfl

/-- A store outside a strip that has buffered: its elements' bytes in their order, and no other memory. -/
theorem store_unbuffered (h : VectorReady i (storeMember d idx k store) s) (hq : s.strand.Quiet)
    (hl : l = s.strand.stepTodo k idx)
    (hlen : ∀ j, (bytes j).length = s.strand.sew / 8) (hroom : s.undoF.length + l.length ≤ Config.undoCapF)
    (htakes : ∀ j ∈ l, Takes s g (pa j) (s.strand.sew / 8))
    (hplaces : ∀ j ∈ l, Places s g cls va (elementWrite g pa bytes owner) (s.strand.sew / 8) store (s.strand.elt d s.strand.sew j) j)
    (hclosed : s.strand.buffering = false) :
    ∃ u, exec i s = .next u ∧ u.memOf g = l.foldl (fun q j => Mem.write q (pa j) (bytes j)) (s.memOf g) ∧
      (∀ h, h ≠ g → u.memOf h = s.memOf h) ∧ u.strand.Closes s.strand s.strand.stepLast := by
  have hleaves := store_leaves d idx k store h hq.buf l hl (fun _ => s.strand)
    (fun q => q.map (elementWrite g pa bytes owner)) rfl rfl fun cores n hcores hn hbuffering l1 j l2 hsplit m dn hm => ?_
  · obtain ⟨u, hu, hclose, hmem⟩ := hleaves
    exact ⟨u, hu, (hmem g).trans (writtenTo_elements ..), fun h hh => (hmem h).trans (writtenTo_other g h hh ..), hclose⟩
  · have hj : j ∈ l := by simp [hsplit]
    have hcan := canPerform_elements (owner := owner) hlen hroom htakes cores (s.strand.noted m) l1 l2 l1 j hsplit (.inr rfl)
    have hbuffer : m.buffering = false := by
      rw [hm]
      exact hbuffering.trans hclosed
    refine (hplaces j hj cores n s.strand.buf _ hcores hn m dn hm fun _ => hcan).trans ?_
    have hput := store_midway s cores s.strand m (l1.map (elementWrite g pa bytes owner)) cls (va j) g (pa j) (bytes j) owner hbuffer hq
      (htakes j hj).memory (fun hg => by rw [hlen]; exact (htakes j hj).clear hg) rfl (fun hg => by subst hg; exact hcan)
      (fun hg => by rw [hlen, spAllowed_midway s cores _ _ hcores, spAllowed_midway s cores _ _ hcores]; exact (htakes j hj).allowed hg)
    rw [List.map_append]
    exact congrArg Except.ok hput

/-- A store in a strip that buffers: its elements' stores in the strip store buffer, and no byte of memory. -/
theorem store_buffered (h : VectorReady i (storeMember d idx k store) s) (hbuf : s.strand.buf = [])
    (hl : l = s.strand.stepTodo k idx)
    (hlen : ∀ j, (bytes j).length = s.strand.sew / 8) (hroom : s.undoF.length + l.length ≤ Config.undoCapF)
    (htakes : ∀ j ∈ l, Takes s g (pa j) (s.strand.sew / 8))
    (hplaces : ∀ j ∈ l, Places s g cls va (elementWrite g pa bytes owner) (s.strand.sew / 8) store (s.strand.elt d s.strand.sew j) j)
    (hopen : s.strand.buffering = true) (hfits : l.length * (s.strand.sew / 8) ≤ Config.stripBytes) :
    ∃ u, exec i s = .next u ∧ s.sameBytes u ∧
      u.strand.Closes (s.strand.holding (l.map (bufferedElement cls va (elementWrite g pa bytes owner)))) s.strand.stepLast := by
  let strandAt (q : List Nat) : Strand := s.strand.holding (q.map (bufferedElement cls va (elementWrite g pa bytes owner)))
  have h0 : strandAt [] = s.strand := by
    simp only [strandAt, Strand.holding, List.map_nil, ← hbuf]
  have hleaves := store_leaves d idx k store h hbuf l hl strandAt (fun _ => []) h0 rfl
    fun cores n hcores hn hbuffering l1 j l2 hsplit m dn hm => ?_
  · obtain ⟨u, hu, hclose, hmem⟩ := hleaves
    exact ⟨u, hu, fun g a => by rw [hmem g]; rfl, hclose⟩
  · have hj : j ∈ l := by simp [hsplit]
    have hcan := canPerform_elements (owner := owner) hlen hroom htakes cores ((strandAt l1).noted m) l1 l2 [] j hsplit (.inl rfl)
    refine (hplaces j hj cores n _ _ hcores hn m dn hm fun _ => hcan).trans ?_
    have hbuffer : m.buffering = true := by
      rw [hm]
      exact hbuffering.trans hopen
    have hheld : bufBytes ((strandAt l1).noted m).buf = l1.length * (s.strand.sew / 8) := bufBytes_elements cls va g pa bytes owner _ hlen l1
    have hfit : bufBytes ((strandAt l1).noted m).buf + (Store.mem (elementWrite g pa bytes owner j)).len ≤ Config.stripBytes := by
      have hcount : (l1.length + 1) * (s.strand.sew / 8) ≤ l.length * (s.strand.sew / 8) :=
        Nat.mul_le_mul_right _ (by simp only [hsplit, List.length_append, List.length_cons]; omega)
      have hone : (Store.mem (elementWrite g pa bytes owner j)).len = s.strand.sew / 8 := hlen j
      rw [hheld, hone]
      rw [Nat.succ_mul] at hcount
      omega
    have hstep := store_buffers (s.midway cores ((strandAt l1).noted m) []) cls (va j) (.mem (elementWrite g pa bytes owner j)) hbuffer hfit
    refine (congrArg Except.ok hstep).trans ?_
    simp only [strandAt, Strand.holding, List.map_append]
    rfl

end

end Sys2Proof.Machine

/-! PROOFS. Vector loads and stores (O27): the words. -/

namespace Sys2Proof.Machine

/-! ### Where an element of a word lies -/

/-- Registers and pairs that a member reads do not depend on the done masks. -/
theorem sx_of_notes {n m : Notes} {t : Strand} (h : n.From t) {dn : Vector VReg 4} (hm : m = { n with done := dn }) (u : Strand) (r : Reg) :
    (u.noted m).sx r = t.sx r := by
  subst hm
  exact h.sx u r

theorem pair_of_notes {n m : Notes} {t : Strand} (h : n.From t) {dn : Vector VReg 4} (hm : m = { n with done := dn }) (u : Strand) (r : Reg) :
    (u.noted m).dispatchPair r = t.dispatchPair r := by
  simp only [Strand.dispatchPair, sx_of_notes h hm]

theorem Strand.SameButVectors.quiet {t u : Strand} (h : t.SameButVectors u) (hq : t.Quiet) : u.Quiet := by
  obtain ⟨_, _, rfl⟩ := h
  exact ⟨hq.holds, hq.pend, hq.buf, hq.remotes⟩

theorem loaded_sameButVectors (t : Strand) (d : Reg) (val : Nat → Nat) (q : List Nat) : t.SameButVectors (t.loaded d val q) := by
  obtain ⟨v, hv⟩ := loaded_vectors t d val q
  exact ⟨v, t.fflags, hv⟩

/-- `load` reads element j from an address of a memory, and changes nothing. -/
def ReadsAt (s : State) (load : Work → Nat → Nat → Except Stop (Nat × Work)) (u : Strand) (j : Nat) (g : Tgt) (a : Nat) : Prop :=
  ∀ cores (n : Notes), s.SameCores cores → n.From s.strand → ∀ m dn, m = { n with done := dn } →
    load (s.midway cores (u.noted m) []) (s.strand.sew / 8) j =
      .ok (leNat (Mem.readN (s.memOf g) a (s.strand.sew / 8)), s.midway cores (u.noted m) [])

theorem elementSize_pos (t : Strand) : 0 < t.sew / 8 := by
  obtain ⟨k, -, hk, -⟩ := elementSize t
  rw [hk]
  exact Nat.two_pow_pos k

theorem readsAt_field (s : State) (load : Work → Nat → Nat → Except Stop (Nat × Work)) (u : Strand) (j a cls : Nat) (va : W64)
    (hu : s.strand.SameButVectors u) (hq : s.strand.Quiet) (hw : s.strand.window = none)
    (hload : ∀ cores (n : Notes), n.From s.strand → ∀ m dn, m = { n with done := dn } →
      load (s.midway cores (u.noted m) []) (s.strand.sew / 8) j =
        (s.midway cores (u.noted m) []).loadElt cls va (s.strand.sew / 8) j)
    (hfield : s.checkVirtual s.strand.g.core s.strand.g.ctx va (s.strand.sew / 8) .read = .ok (.mem .fm a))
    (hfits : a + s.strand.sew / 8 ≤ 384 * 2 ^ 30) (hpoison : (s.line false (a / 64)).poison = false) : ReadsAt s load u j .fm a := by
  intro cores n _ hn m dn hm
  have huq := hu.quiet hq
  obtain ⟨v, fl, rfl⟩ := hu
  rw [hload cores n hn m dn hm]
  exact loadElt_field s cores _ m cls _ j a va (elementSize_pos _) huq hw hfield hfits hpoison

theorem readsAt_pad (s : State) (load : Work → Nat → Nat → Except Stop (Nat × Work)) (u : Strand) (j a cls : Nat) (va : W64)
    (hu : s.strand.SameButVectors u) (hq : s.strand.Quiet)
    (hload : ∀ cores (n : Notes), s.SameCores cores → n.From s.strand → ∀ m dn, m = { n with done := dn } →
      load (s.midway cores (u.noted m) []) (s.strand.sew / 8) j = (s.midway cores (u.noted m) []).loadSpElt cls va (s.strand.sew / 8))
    (hal : va.toNat % (s.strand.sew / 8) = 0) (hm : s.meadow s.strand.g va (s.strand.sew / 8) = .ok a) (hb : s.bankAsleep a = false)
    (hread : cls = 6 → s.readBlockers a (a + s.strand.sew / 8) = []) : ReadsAt s load u j .sp a := by
  intro cores n hcores hn m dn hmn
  have huq := hu.quiet hq
  have hgate : cls = 6 → (s.midway cores (u.noted m) []).st.readBlockers a (a + s.strand.sew / 8) = [] := fun h6 => by
    rw [readBlockers_midway s cores u m hu, hread h6]
  obtain ⟨v, fl, rfl⟩ := hu
  rw [hload cores n hcores hn m dn hmn]
  exact loadSpElt_pad s cores _ m hcores cls _ a va huq hal hm hb hgate

theorem places_field (s : State) (store : Work → Nat → Nat → Nat → Except Stop Work) (j cls v : Nat) (va : Nat → W64) (pa : Nat → Nat)
    (bytes : Nat → List Byte) (hw : s.strand.window = none) (hbytes : bytes j = leBytes (s.strand.sew / 8) v)
    (hstore : ∀ cores (n : Notes) b ws, n.From s.strand → ∀ m dn, m = { n with done := dn } →
      store (s.midway cores ((s.strand.holding b).noted m) ws) (s.strand.sew / 8) j v =
        (s.midway cores ((s.strand.holding b).noted m) ws).storeElt cls (va j) (s.strand.sew / 8) j v)
    (hfield : s.checkVirtual s.strand.g.core s.strand.g.ctx (va j) (s.strand.sew / 8) .write = .ok (.mem .fm (pa j)))
    (hfits : pa j + s.strand.sew / 8 ≤ 384 * 2 ^ 30) :
    Places s .fm cls (fun i => some (va i).toNat) (elementWrite .fm pa bytes (s.ownerTag s.strand.g.ctx)) (s.strand.sew / 8) store v j := by
  intro cores n b ws _ hn m dn hm hcan
  have hroom : (s.midway cores ((s.strand.holding b).noted m) ws).linesFit false (linesOf (pa j) (s.strand.sew / 8)) = true := by
    have h := hcan rfl
    simp only [elementWrite, Work.canPerform, hbytes, length_leBytes] at h
    exact h
  rw [hstore cores n b ws hn m dn hm, elementWrite, hbytes]
  exact storeElt_field s cores _ m ws cls _ j v (pa j) (va j) (elementSize_pos _) hw hfield hfits hroom

theorem places_pad (s : State) (store : Work → Nat → Nat → Nat → Except Stop Work) (j cls v : Nat) (va : W64) (pa : Nat → Nat)
    (bytes : Nat → List Byte) (hbytes : bytes j = leBytes (s.strand.sew / 8) v)
    (hstore : ∀ cores (n : Notes) b ws, s.SameCores cores → n.From s.strand → ∀ m dn, m = { n with done := dn } →
      store (s.midway cores ((s.strand.holding b).noted m) ws) (s.strand.sew / 8) j v =
        (s.midway cores ((s.strand.holding b).noted m) ws).storeSp cls va (s.strand.sew / 8) v)
    (hal : va.toNat % (s.strand.sew / 8) = 0) (hm : s.meadow s.strand.g va (s.strand.sew / 8) = .ok (pa j)) (hb : s.bankAsleep (pa j) = false) :
    Places s .sp cls (fun _ => none) (elementWrite .sp pa bytes 0) (s.strand.sew / 8) store v j := by
  intro cores n b ws hcores hn m dn hmn _
  rw [hstore cores n b ws hcores hn m dn hmn, elementWrite, hbytes]
  exact storeSp_pad s cores (s.strand.holding b) m ws hcores cls _ v (pa j) va hal hm hb

theorem takes_field {s : State} {va : W64} {a : Nat} {acc : Acc}
    (h : s.checkVirtual s.strand.g.core s.strand.g.ctx va (s.strand.sew / 8) acc = .ok (.mem .fm a)) : Takes s .fm a (s.strand.sew / 8) := by
  obtain ⟨k, hk, hsize, -⟩ := elementSize s.strand
  rw [hsize] at h ⊢
  exact ⟨.inl rfl, fun _ => element_oneLine hk h, (nomatch ·), (nomatch ·)⟩

theorem takes_pad {s : State} {va : W64} {a : Nat} (hm : s.meadow s.strand.g va (s.strand.sew / 8) = .ok a)
    (hclear : s.envBlockers none (some (a, a + s.strand.sew / 8)) = []) : Takes s .sp a (s.strand.sew / 8) := by
  have h := meadow_allowed s s.strand.g va _ a hm
  rw [Bool.and_eq_true] at h
  exact ⟨.inr rfl, (nomatch ·), fun _ => h, fun _ => hclear⟩

end Sys2Proof.Machine

/-! PROOFS. Vector loads that fault (O27, R35, R162). -/

namespace Sys2Proof.Machine

/-! ### A step that stops -/

/-- A slab step of an unchained word that is ready, where its member stops: the step stops as the lowest element that does says (R162). -/
theorem VectorReady.stops {i : Instr} {m : Member} {s : State} (h : VectorReady i m s) (hbuf : s.strand.buf = []) :
    ∃ cores n, s.SameCores cores ∧
      let w := s.midway cores (s.strand.noted n) []
      let l := [s.strand.place m (encode i) s.strand.pc]
      (∀ c, ∃ n', n'.From s.strand ∧ w.touchMember (s.strand.place m (encode i) s.strand.pc) c = s.midway cores (s.strand.noted n') []) ∧
      ∀ e x, performAll l s.strand.stepLo s.strand.stepHi s.strand.stepLast 0 w = .error e →
        firstFault l s.strand.stepLo s.strand.stepHi s.strand.stepLast w (s.strand.stepHi - s.strand.stepLo + 1) = some x →
        exec i s = s.finish (w.stopStep l s.strand.stepLo s.strand.stepHi s.strand.stepLast s.strand.vslab.toNat x) := by
  have hopens : ∃ trees, s.strand.snap.isNone = true → m.onDispatch (m.fmtAt s.strand) s.work = .ok trees := by
    cases hs : s.strand.snap.isNone with
    | true => exact (h.opens hs).imp fun _ ht _ => ht
    | false => exact ⟨[], fun hf => nomatch hf⟩
  obtain ⟨trees, hopens⟩ := hopens
  let p := s.strand.place m (encode i) s.strand.pc
  obtain ⟨cores, n, hopen, hcores, hfrom, -⟩ := openStep_midway s [p] trees
  refine ⟨cores, n, hcores, fun c => ?_, fun e x he hx => ?_⟩
  · obtain ⟨n', htouch, hsnap, hdone, hclosed, -⟩ := touchMember_midway s cores s.strand n p c hbuf
    exact ⟨n', ⟨by rw [hsnap]; exact hfrom.dispatched, hdone.trans hfrom.done, fun hb => hclosed (hfrom.buffering hb)⟩, htouch⟩
  · have hi : (memberOf i).isSome = true := by simp [h.member]
    have hx' : chained (encode i).toNat = false := by rw [toNat_encode_of_member i hi h.wf, h.alone]
    have hfree : s.work.st.getBlockers ([p].flatMap fun q => q.readRegs s.strand.sew s.strand.grp ++ q.writeRegs s.strand.sew s.strand.grp) =
        [] := by
      have hcopies : s.getBlockers (p.readRegs s.strand.sew s.strand.grp ++ p.writeRegs s.strand.sew s.strand.grp) = [] := h.copies
      simpa using hcopies
    have hsteps : ¬(s.strand.epr s.strand.sew = 0 ∨
        (s.strand.vl.toNat + s.strand.epr s.strand.sew - 1) / s.strand.epr s.strand.sew ≤ s.strand.vslab.toNat) := by
      have hleft := h.left
      rw [steps_le_iff _ _ _ h.lanes]
      exact not_or.2 ⟨h.lanes, by omega⟩
    have hlast : decide ((s.strand.vl.toNat + s.strand.epr s.strand.sew - 1) / s.strand.epr s.strand.sew ≤ s.strand.vslab.toNat + 1) =
        s.strand.stepLast := by
      rw [Strand.stepLast, decide_eq_decide, steps_le_iff _ _ _ h.lanes, Nat.succ_mul, Strand.stepLo]
    have hreads : s.strand.snap.isNone = true → dispatchReads [p] s.work = .ok trees := fun hs => by
      have ho : p.member.onDispatch p.fmt s.work = .ok trees := hopens hs
      simp [dispatchReads, ho]
    have hagain : s.strand.snap.isNone = false → s.work.openStep [p] [] = s.midway cores (s.strand.noted n) [] := fun hs =>
      (openStep_again s.work [p] trees hs).symm.trans hopen
    have hrun : runStep [p] s.work = (s.midway cores (s.strand.noted n) []).stopStep [p] s.strand.stepLo s.strand.stepHi s.strand.stepLast
        s.strand.vslab.toNat x := by
      have hcur : s.work.cur = s.strand := rfl
      simp only [runStep, hcur, hfree, List.isEmpty_nil, Bool.not_true, Bool.false_eq_true, if_false, if_neg hsteps, hlast]
      simp only [Strand.stepLo, Strand.stepHi] at he hx ⊢
      cases hs : s.strand.snap.isNone with
      | true => simp only [if_true, hreads hs, hopen, p, he, hx]
      | false => simp only [Bool.false_eq_true, if_false, hagain hs, p, he, hx]
    have hplace : placeAll s.work.cur [encode i] s.work.cur.pc [] [] = .ok [p] :=
      (placeAll_alone s.strand i m s.strand.pc h.member h.wf).trans (by rw [h.checks])
    rw [exec_of_member i s hi, vectorWord, convoyOf]
    simp only [convoyWords_alone s _ hx' h.same, runConvoy, badFrame_alone _ hx', hplace, hrun]
    rfl

/-- A trap that a step of members without done masks takes: it saves the step and its first element, and no register has changed (R35, R127). -/
theorem stopStep_traps (s : State) (cores : List Core) (n : Notes) (l : List Placed) (lo hi : Nat) (last : Bool) (j : Nat) (tr : Trap)
    (hn : s.strand.nest = false) (hl : (l.all fun p => !p.member.indexed) = true) :
    let w := (s.midway cores (s.strand.noted n) []).stopStep l lo hi last s.strand.vslab.toNat ((j, .trap tr), false)
    TrapsAs (s.finish w) s tr.code tr.sub tr.tval ∧
    ∀ u, s.finish w = .next u → u.strand.v = s.strand.v ∧ u.strand.tslab = s.strand.vslab ∧ u.strand.tstart = BitVec.ofNat 64 lo := by
  intro w
  let k : Work := (s.midway cores (s.strand.noted n) []).upd fun s' =>
    { s' with vslab := BitVec.ofNat 64 s.strand.vslab.toNat, vstart := BitVec.ofNat 64 lo }
  have hw : w = k.takeTrap false tr := by
    have hkept : keptEffects l lo j (s.midway cores (s.strand.noted n) []) = s.midway cores (s.strand.noted n) [] := if_pos (.inl hl)
    show Work.takeTrap (Work.upd (keptEffects l lo j _) _) false tr = _
    rw [hkept]
    rfl
  have hnest : k.cur.nest = false := hn
  obtain ⟨p, r, htrap⟩ := k.takeTrap_cur false tr (by simp [hnest])
  have hnext : s.finish w = .next (s.commit w) := State.finish_next _ _ (by rw [hw, takeTrap_absent k tr hnest]; rfl)
  obtain ⟨hpriv, hppriv, htie, hptie, hnest'⟩ := statusOf_bits true s.strand.tie false s.strand.priv true
  have hstrand : (s.commit w).strand = _ := (commit_strand s w).trans ((congrArg Work.cur hw).trans htrap)
  refine ⟨⟨_, hnext, ?_⟩, fun u hu => ?_⟩
  · rw [hstrand]
    exact ⟨rfl, by simp [causeOf], rfl, hpriv, hppriv, htie, hptie, hnest', rfl, rfl, rfl, rfl⟩
  · obtain rfl : s.commit w = u := by
      rw [hnext] at hu
      exact Host.Outcome.next.inj hu
    rw [hstrand]
    refine ⟨rfl, ?_, rfl⟩
    show BitVec.ofNat 64 s.strand.vslab.toNat = s.strand.vslab
    exact BitVec.ofNat_toNat ..|>.trans (BitVec.setWidth_eq _)

/-! ### Loads without indexes -/

/-- The same elements with a bound behind an element of the step: those before it. -/
theorem before_of_split (lo hi : Nat) (f : Nat → Bool) (l1 l2 : List Nat) (j : Nat) (h : (fromTo lo hi).filter f = l1 ++ j :: l2) (q : Nat)
    (hq : q ∈ (fromTo lo j).filter f) : q ∈ l1 := by
  have hsorted : (l1 ++ j :: l2).Pairwise (· < ·) := by
    rw [← h]
    refine List.Pairwise.filter _ (List.pairwise_map.2 (List.pairwise_lt_range.imp ?_))
    intro a b hab
    omega
  have hbound : ∀ x, x ∈ fromTo lo hi ↔ lo ≤ x ∧ x < hi := by
    intro x
    simp only [fromTo, List.mem_map, List.mem_range]
    exact ⟨fun ⟨a, ha, hx⟩ => by omega, fun hx => ⟨x - lo, by omega, by omega⟩⟩
  have hj : j ∈ (fromTo lo hi).filter f := by simp [h]
  obtain ⟨hqin, hqf⟩ := List.mem_filter.1 hq
  have hjin := (hbound j).1 (List.mem_of_mem_filter hj)
  have hqj : lo ≤ q ∧ q < j := by
    simp only [fromTo, List.mem_map, List.mem_range] at hqin
    obtain ⟨a, ha, hx⟩ := hqin
    omega
  have hmem : q ∈ l1 ++ j :: l2 := by
    rw [← h]
    exact List.mem_filter.2 ⟨(hbound q).2 (by omega), hqf⟩
  have hlater : ∀ x ∈ l2, j < x := (List.pairwise_cons.1 (List.pairwise_append.1 hsorted).2.1).1
  obtain hq1 | hq2 | hq3 : q ∈ l1 ∨ q = j ∨ q ∈ l2 := by simpa using hmem
  · exact hq1
  · omega
  · have := hlater q hq3
    omega

section
variable {s : State} {d : Reg} {k : BitVec 2} {get : Work → Nat → Nat → Except Stop (Nat × Work)} {val : Nat → Nat}

/-- A load without indexes whose active elements are read. -/
theorem loadPlain_performs (c : StepCtx) (cores : List Core) (n : Notes)
    (hget : ∀ u q, s.strand.SameButVectors u → q ∈ c.active s.strand →
      get (s.midway cores (u.noted n) []) (s.strand.sew / 8) q = .ok (val q, s.midway cores (u.noted n) [])) :
    ∃ w, (loadMember d none k get).perform c (s.midway cores (s.strand.noted n) []) = .ok w := by
  refine ⟨_, eachEl_stages _ (fun q => s.midway cores ((s.strand.loaded d val q).noted n) []) (c.active s.strand) fun l1 j l2 hsplit => ?_⟩
  have hj : j ∈ c.active s.strand := by simp [hsplit]
  have hsew : (s.midway cores (s.strand.noted n) []).cur.sew = s.strand.sew := rfl
  refine (if_neg (by simp)).trans ?_
  rw [hsew, hget _ j (loaded_sameButVectors ..) hj]
  simp only [midway_setElt, raise_zero, ← loaded_snoc]
  rfl

/-- A load without indexes that an element stops. -/
theorem loadPlain_stops (c : StepCtx) (cores : List Core) (n : Notes) (l1 l2 : List Nat) (j : Nat) (e : Stop)
    (hsplit : c.active s.strand = l1 ++ j :: l2)
    (hget : ∀ u q, s.strand.SameButVectors u → q ∈ l1 →
      get (s.midway cores (u.noted n) []) (s.strand.sew / 8) q = .ok (val q, s.midway cores (u.noted n) []))
    (hstop : ∀ u, s.strand.SameButVectors u → get (s.midway cores (u.noted n) []) (s.strand.sew / 8) j = .error e) :
    (loadMember d none k get).perform c (s.midway cores (s.strand.noted n) []) = .error (j, e) := by
  have hsew : (s.midway cores (s.strand.noted n) []).cur.sew = s.strand.sew := rfl
  have hactive : c.active (s.midway cores (s.strand.noted n) []).cur = l1 ++ j :: l2 := hsplit
  have hfold := eachEl_stops (fun w i =>
      if (none : Option Reg).isSome && w.cur.isDone c.idx i then .ok w
      else
        match get w (s.strand.sew / 8) i with
        | .error e => .error e
        | .ok (v, k1) => .ok (k1.setElt d s.strand.sew i (v, 0))) (fun q => s.midway cores ((s.strand.loaded d val q).noted n) []) l1 l2 j e
    (fun q1 i q2 hq => ?_) ?_
  · simp only [loadMember, hactive, hsew]
    exact hfold
  · refine (if_neg (by simp)).trans ?_
    rw [hget _ i (loaded_sameButVectors ..) (by simp [hq])]
    simp only [midway_setElt, raise_zero, ← loaded_snoc]
  · refine (if_neg (by simp)).trans ?_
    rw [hstop _ (loaded_sameButVectors ..)]

/-- A load without indexes whose first failing element faults takes that fault, and no vector register changes (R35, R162). -/
theorem loadPlain_faults {i : Instr} (h : VectorReady i (loadMember d none k get) s) (hbuf : s.strand.buf = []) (hn : s.strand.nest = false)
    (l1 l2 : List Nat) (j : Nat) (tr : Trap) (hsplit : s.strand.stepActive k = l1 ++ j :: l2)
    (hget : ∀ cores (n : Notes), s.SameCores cores → n.From s.strand → ∀ u q, s.strand.SameButVectors u → q ∈ l1 →
      get (s.midway cores (u.noted n) []) (s.strand.sew / 8) q = .ok (val q, s.midway cores (u.noted n) []))
    (hstop : ∀ cores (n : Notes), n.From s.strand → ∀ u, s.strand.SameButVectors u →
      get (s.midway cores (u.noted n) []) (s.strand.sew / 8) j = .error (.trap tr)) :
    TrapsAs (exec i s) s tr.code tr.sub tr.tval ∧
    ∀ u, exec i s = .next u → u.strand.v = s.strand.v ∧ u.strand.tslab = s.strand.vslab ∧
      u.strand.tstart = BitVec.ofNat 64 s.strand.stepLo := by
  obtain ⟨cores, n, hcores, htouch, hexec⟩ := h.stops hbuf
  let p := s.strand.place (loadMember d none k get) (encode i) s.strand.pc
  let w := s.midway cores (s.strand.noted n) []
  have hall : performAll [p] s.strand.stepLo s.strand.stepHi s.strand.stepLast 0 w = .error ((j, .trap tr), false) := by
    obtain ⟨n', hn', hw⟩ := htouch ⟨s.strand.stepLo, s.strand.stepHi, s.strand.stepLast, p.fmt, k, 0, false⟩
    have hstops := loadPlain_stops (d := d) (k := k) ⟨s.strand.stepLo, s.strand.stepHi, s.strand.stepLast, p.fmt, k, 0, false⟩ cores n' l1 l2 j
      (.trap tr) hsplit (hget cores n' hcores hn') (hstop cores n' hn')
    rw [← hw] at hstops
    have hperform : p.member.perform ⟨s.strand.stepLo, s.strand.stepHi, s.strand.stepLast, p.fmt, p.member.k, 0, false⟩
      (w.touchMember p ⟨s.strand.stepLo, s.strand.stepHi, s.strand.stepLast, p.fmt, p.member.k, 0, false⟩) = .error (j, .trap tr) := hstops
    simp only [performAll, hperform]
    rfl
  have hbefore : ∃ v, performAll [p] s.strand.stepLo j false 0 w = .ok v := by
    obtain ⟨n', hn', hw⟩ := htouch ⟨s.strand.stepLo, j, false, p.fmt, k, 0, false⟩
    obtain ⟨v, hv⟩ := loadPlain_performs (d := d) (k := k) ⟨s.strand.stepLo, j, false, p.fmt, k, 0, false⟩ cores n' fun u q hu hq =>
      hget cores n' hcores hn' u q hu (before_of_split _ _ _ l1 l2 j hsplit q hq)
    rw [← hw] at hv
    have hperform : p.member.perform ⟨s.strand.stepLo, j, false, p.fmt, p.member.k, 0, false⟩
      (w.touchMember p ⟨s.strand.stepLo, j, false, p.fmt, p.member.k, 0, false⟩) = .ok v := hv
    exact ⟨v, by simp only [performAll, hperform]⟩
  have hfirst : firstFault [p] s.strand.stepLo s.strand.stepHi s.strand.stepLast w (s.strand.stepHi - s.strand.stepLo + 1) =
      some ((j, .trap tr), false) := by
    have hnone : firstFault [p] s.strand.stepLo j false w (s.strand.stepHi - s.strand.stepLo) = none := by
      obtain ⟨v, hv⟩ := hbefore
      cases s.strand.stepHi - s.strand.stepLo with
      | zero => rfl
      | succ fuel => simp only [firstFault, hv]
    simp only [firstFault, hall, hnone]
    split <;> rfl
  rw [hexec _ _ hall hfirst]
  exact stopStep_traps s cores n [p] _ _ _ j tr hn rfl

end

end Sys2Proof.Machine

/-! PROOFS. Vector loads and stores (O27). -/

namespace Sys2Proof.Machine

/-- An access of field memory that fails faults as its check says. -/
theorem loadElt_faults (s : State) (cores : List Core) (u : Strand) (n : Notes) (cls z i : Nat) (va : W64) (tr : Trap) (hw : u.window = none)
    (h : s.checkVirtual u.g.core u.g.ctx va z .read = .error tr) :
    (s.midway cores (u.noted n) []).loadElt cls va z i = .error (.trap tr) := by
  by_cases hal : va.toNat % z = 0
  · have hwindow : (u.noted n).windowAt va = none := by
      have : (u.noted n).window = none := hw
      simp only [Strand.windowAt, this]
    simp only [Work.loadElt, hal, ne_eq, not_true, if_false, midway_cur, hwindow, Work.loadVirtual, checkVirtual_midway, noted_g, h]
  · rw [checkVirtual_misaligned s _ _ va z _ hal] at h
    cases h
    simp only [Work.loadElt, ne_eq, hal, not_false_eq_true, if_true]

/-- Settles O27: the elements of a load are read where they lie, those of a store are performed or held in the strip store buffer, and the first
failing element of a load stops its step. -/
theorem vectorLoadsAndStores : Obligations.VectorLoadsAndStores := by
  unfold Obligations.VectorLoadsAndStores
  intro d a b st k s m t z act todo bytes hwindow hbuf hpend hholds hremotes frame loads stores field reads writes pad padFree unit strided
    indexed paired own
  have hq : t.Quiet := ⟨hholds, hpend, hbuf, hremotes⟩
  have mem {i : Instr} {m' : Member} (hi : memberOf i = some m') (hready : VectorReady i m s) : VectorReady i m' s := by
    obtain rfl : m' = m := Option.some.inj (hi.symm.trans hready.member)
    exact hready
  have hst : st.toNat ≠ 6 := by
    have := st.isLt
    omega
  have hindexed (u : Strand) (n m : Notes) (hn : n.From t) (dn : Vector VReg 4) (hm : m = { n with done := dn })
      (j : Nat) : indexedAddr (u.noted m) a b z j = indexed u j := by
    obtain ⟨-, -, -, hsize⟩ := elementSize t
    have hz : 8 * z = t.sew := hsize
    simp only [indexedAddr, sx_of_notes hn hm, noted_elt, hz, indexed, t]
  have hpaired (u : Strand) (hu : u.g = t.g) (cores : List Core) (ws : List Write) (n m : Notes) (hcores : s.SameCores cores) (hn : n.From t)
      (dn : Vector VReg 4) (hm : m = { n with done := dn }) (j : Nat) :
      pairAddr ((u.noted m).dispatchPair a) ((s.midway cores (u.noted m) ws).st.tlen (u.noted m).g) z j = paired j := by
    rw [pair_of_notes hn hm, tlen_midway s cores _ _ hcores, noted_g, hu]
  have load (i : Instr) (idx : Option Reg) (l : List Nat) (g : Tgt) (pa : Nat → Nat) (found : Strand → Nat → Prop)
      (get : Work → Nat → Nat → Except Stop (Nat × Work)) (hi : memberOf i = some (loadMember d idx k get))
      (hl : l = t.stepTodo k idx)
      (hget : ∀ u j, t.SameButVectors u → found u j → ReadsAt s get u j g (pa j)) : loads i l g pa found := by
    intro hready put hfound
    exact load_leaves d idx k get (mem hi hready) hbuf (fun j => leNat (Mem.readN (s.memOf g) (pa j) z)) l hl
      fun cores n hcores hn l1 j l2 hsplit m dn hm =>
        hget _ j (loaded_sameButVectors ..) (hfound l1 j l2 hsplit) cores n hcores hn m dn hm
  have store (i : Instr) (idx : Option Reg) (l : List Nat) (g : Tgt) (cls : Nat) (owner : BitVec 12) (va : Nat → Option Nat) (pa : Nat → Nat)
      (found : Nat → Prop) (put : Work → Nat → Nat → Nat → Except Stop Work) (hi : memberOf i = some (storeMember d idx k put))
      (hl : l = t.stepTodo k idx)
      (hput : ∀ j, found j → Takes s g (pa j) z ∧ Places s g cls va (elementWrite g pa bytes owner) z put (t.elt d t.sew j) j) :
      stores i l g cls owner va pa found := by
    intro hready hfound hroom
    have htakes : ∀ j ∈ l, Takes s g (pa j) z := fun j hj => (hput j (hfound j hj)).1
    have hplaces : ∀ j ∈ l, Places s g cls va (elementWrite g pa bytes owner) z put (t.elt d t.sew j) j :=
      fun j hj => (hput j (hfound j hj)).2
    have hlen : ∀ j, (bytes j).length = z := fun j => length_leBytes ..
    refine ⟨fun hclosed => ?_, fun hopen hfits => ?_⟩
    · obtain ⟨u, hu, hmem, hother, hclose⟩ := store_unbuffered (mem hi hready) hq hl hlen hroom htakes hplaces hclosed
      exact ⟨u, hu, hmem, hother, hclose.v, hclose.k, hclose.fflags, hclose.vl, hclose.specials, hclose.x⟩
    · obtain ⟨u, hu, hbytes, hclose⟩ := store_buffered (mem hi hready) hbuf hl hlen hroom htakes hplaces hopen hfits
      exact ⟨u, hu, hclose.buf, hclose.v, ⟨hclose.k, hclose.fflags, hclose.vl, hclose.specials, hclose.x⟩, hbytes⟩
  refine ⟨fun pa => ⟨?_, ?_, ?_, ?_, ?_, ?_, ?_, ?_, ?_, ?_, ?_, ?_⟩, ?_⟩
  case refine_1 =>
    refine load (.vld false d a st k) none act .fm pa (fun _ j => reads (unit j) (pa j))
      (fun w z j => w.loadElt st.toNat (unitAddr w.cur a z j) z j) rfl (stepTodo_none t k).symm fun u j hu ⟨⟨hfield, hfits⟩, hpoison⟩ =>
      readsAt_field s _ u j _ st.toNat (unit j) hu hq hwindow (fun cores n hn m dn hm => ?_) hfield hfits hpoison
    simp only [midway_cur, unitAddr, sx_of_notes hn hm]
    rfl
  case refine_2 =>
    refine load (.vlds false d a b st k) none act .fm pa (fun _ j => reads (strided j) (pa j))
      (fun w z j => w.loadElt st.toNat (stridedAddr w.cur a b j) z j) rfl (stepTodo_none t k).symm fun u j hu ⟨⟨hfield, hfits⟩, hpoison⟩ =>
      readsAt_field s _ u j _ st.toNat (strided j) hu hq hwindow (fun cores n hn m dn hm => ?_) hfield hfits hpoison
    simp only [midway_cur, stridedAddr, sx_of_notes hn hm]
    rfl
  case refine_3 =>
    refine load (.vldx false d a b st k) (some b) todo .fm pa (fun u j => reads (indexed u j) (pa j))
      (fun w z j => w.loadElt st.toNat (indexedAddr w.cur a b z j) z j) rfl rfl fun u j hu ⟨⟨hfield, hfits⟩, hpoison⟩ =>
      readsAt_field s _ u j _ st.toNat (indexed u j) hu hq hwindow (fun cores n hn m dn hm => ?_) hfield hfits hpoison
    simp only [midway_cur]
    rw [hindexed u n m hn dn hm j]
  case refine_4 =>
    refine load (.vldsp false d a st k) none act .sp pa (fun _ j => pad (unit j) (pa j))
      (fun w z j => w.loadSpElt st.toNat (unitAddr w.cur a z j) z) rfl (stepTodo_none t k).symm fun u j hu ⟨hal, hm, hb⟩ =>
      readsAt_pad s _ u j _ st.toNat (unit j) hu hq (fun cores n _ hn m dn hm => ?_) hal hm hb fun h6 => absurd h6 hst
    simp only [midway_cur, unitAddr, sx_of_notes hn hm]
    rfl
  case refine_5 =>
    refine load (.vldm false d a k) none act .sp pa
      (fun _ j => ∃ va, paired j = .ok va ∧ pad va (pa j) ∧ s.readBlockers (pa j) (pa j + z) = [])
      (fun w z j =>
        match pairAddr (w.cur.dispatchPair a) (w.st.tlen w.cur.g) z j with
        | .error t => .error (.trap t)
        | .ok va => w.loadSpElt 6 va z) rfl (stepTodo_none t k).symm fun u j hu ⟨va, hva, ⟨hal, hm, hb⟩, hread⟩ =>
      readsAt_pad s _ u j _ 6 va hu hq (fun cores n hcores hn m dn hm => ?_) hal hm hb fun _ => hread
    have hpair := (hpaired u (by obtain ⟨_, _, rfl⟩ := hu; rfl) cores [] n m hcores hn dn hm j).trans hva
    simp only [midway_cur]
    rw [hpair]
  case refine_6 =>
    refine load (.vldxsp false d a b st k) (some b) todo .sp pa (fun u j => pad (indexed u j) (pa j))
      (fun w z j => w.loadSpElt st.toNat (indexedAddr w.cur a b z j) z) rfl rfl fun u j hu ⟨hal, hm, hb⟩ =>
      readsAt_pad s _ u j _ st.toNat (indexed u j) hu hq (fun cores n _ hn m dn hm => ?_) hal hm hb fun h6 => absurd h6 hst
    simp only [midway_cur]
    rw [hindexed u n m hn dn hm j]
  case refine_7 =>
    refine store (.vst false d a st k) none act .fm st.toNat own (fun j => some (unit j).toNat) pa (fun j => writes (unit j) (pa j))
      (fun w z j v => w.storeElt st.toNat (unitAddr w.cur a z j) z j v) rfl (stepTodo_none t k).symm fun j ⟨hfield, hfits⟩ => ⟨takes_field hfield,
      places_field s _ j st.toNat _ unit pa bytes hwindow rfl (fun cores n b' ws hn m dn hm => ?_) hfield hfits⟩
    simp only [midway_cur, unitAddr, sx_of_notes hn hm]
    rfl
  case refine_8 =>
    refine store (.vsts false d a b st k) none act .fm st.toNat own (fun j => some (strided j).toNat) pa
      (fun j => writes (strided j) (pa j)) (fun w z j v => w.storeElt st.toNat (stridedAddr w.cur a b j) z j v) rfl (stepTodo_none t k).symm fun j ⟨hfield, hfits⟩ => ⟨takes_field hfield,
      places_field s _ j st.toNat _ strided pa bytes hwindow rfl (fun cores n b' ws hn m dn hm => ?_) hfield hfits⟩
    simp only [midway_cur, stridedAddr, sx_of_notes hn hm]
    rfl
  case refine_9 =>
    refine store (.vstx false d a b st k) (some b) todo .fm st.toNat own (fun j => some (indexed t j).toNat) pa
      (fun j => writes (indexed t j) (pa j)) (fun w z j v => w.storeElt st.toNat (indexedAddr w.cur a b z j) z j v) rfl rfl fun j ⟨hfield, hfits⟩ => ⟨takes_field hfield,
      places_field s _ j st.toNat _ (indexed t) pa bytes hwindow rfl (fun cores n b' ws hn m dn hm => ?_) hfield hfits⟩
    simp only [midway_cur]
    rw [show indexedAddr ((s.strand.holding b').noted m) a b (s.strand.sew / 8) j = indexed t j from
      hindexed t n m hn dn hm j]
  case refine_10 =>
    refine store (.vstsp false d a st k) none act .sp st.toNat 0 (fun _ => none) pa (fun j => padFree (unit j) (pa j))
      (fun w z j v => w.storeSp st.toNat (unitAddr w.cur a z j) z v) rfl (stepTodo_none t k).symm fun j ⟨⟨hal, hm, hb⟩, hclear⟩ =>
      ⟨takes_pad hm hclear, places_pad s _ j st.toNat _ (unit j) pa bytes rfl (fun cores n b' ws _ hn m dn hmn => ?_) hal hm hb⟩
    simp only [midway_cur, unitAddr, sx_of_notes hn hmn]
    rfl
  case refine_11 =>
    refine store (.vstm false d a k) none act .sp 6 0 (fun _ => none) pa (fun j => ∃ va, paired j = .ok va ∧ padFree va (pa j))
      (fun w z j v =>
        match pairAddr (w.cur.dispatchPair a) (w.st.tlen w.cur.g) z j with
        | .error t => .error (.trap t)
        | .ok va => w.storeSp 6 va z v) rfl (stepTodo_none t k).symm fun j ⟨va, hva, ⟨hal, hm, hb⟩, hclear⟩ =>
      ⟨takes_pad hm hclear, places_pad s _ j 6 _ va pa bytes rfl (fun cores n b' ws hcores hn m dn hmn => ?_) hal hm hb⟩
    have hpair := (hpaired (s.strand.holding b') rfl cores ws n m hcores hn dn hmn j).trans hva
    simp only [midway_cur]
    rw [hpair]
  case refine_12 =>
    refine store (.vstxsp false d a b st k) (some b) todo .sp st.toNat 0 (fun _ => none) pa (fun j => padFree (indexed t j) (pa j))
      (fun w z j v => w.storeSp st.toNat (indexedAddr w.cur a b z j) z v) rfl rfl fun j ⟨⟨hal, hm, hb⟩, hclear⟩ =>
      ⟨takes_pad hm hclear, places_pad s _ j st.toNat _ (indexed t j) pa bytes rfl (fun cores n b' ws _ hn m dn hmn => ?_) hal hm hb⟩
    simp only [midway_cur]
    rw [show indexedAddr ((s.strand.holding b').noted m) a b (s.strand.sew / 8) j = indexed t j from
      hindexed t n m hn dn hmn j]
  case refine_13 =>
    intro l1 l2 j tr pa hact hnest faults
    have fault (i : Instr) (va : Nat → W64) (get : Work → Nat → Nat → Except Stop (Nat × Work)) (hi : memberOf i = some (loadMember d none k get))
        (hva : ∀ cores (n : Notes), n.From t → ∀ m dn, m = { n with done := dn } → ∀ (u : Strand) q,
          get (s.midway cores (u.noted m) []) z q = (s.midway cores (u.noted m) []).loadElt st.toNat (va q) z q) : faults i va := by
      intro hready hreads hfail
      refine loadPlain_faults (val := fun q => leNat (Mem.readN (s.memOf .fm) (pa q) z)) (mem hi hready) hbuf hnest l1 l2 j tr hact
        (fun cores n hcores hn u q hu hq1 => ?_) fun cores n hn u hu => ?_
      · obtain ⟨⟨hfield, hfits⟩, hpoison⟩ := hreads q hq1
        exact readsAt_field s get u q (pa q) st.toNat (va q) hu hq hwindow (fun cores n hn m dn hm => hva cores n hn m dn hm u q) hfield hfits
          hpoison cores n hcores hn n n.done rfl
      · rw [hva cores n hn n n.done rfl u j]
        obtain ⟨v, fl, rfl⟩ := hu
        exact loadElt_faults s cores _ n st.toNat z j (va j) tr hwindow hfail
    refine ⟨fault (.vld false d a st k) unit (fun w z j => w.loadElt st.toNat (unitAddr w.cur a z j) z j) rfl fun cores n hn m dn hm u q => ?_,
      fault (.vlds false d a b st k) strided (fun w z j => w.loadElt st.toNat (stridedAddr w.cur a b j) z j) rfl
        fun cores n hn m dn hm u q => ?_⟩
    · simp only [midway_cur, unitAddr, sx_of_notes hn hm]
      rfl
    · simp only [midway_cur, stridedAddr, sx_of_notes hn hm]
      rfl

end Sys2Proof.Machine

/-! PROOFS. The stop of a seal, where what it drains goes to a place that no memory has (O48). -/

namespace Sys2Proof.Machine

/-- A queued `add` without return to the first byte behind field memory (Table 1.1), of the strand of number 0. -/
def strayAtom : Cmd :=
  { uid := 1, gid := 0, sidx := 0, ctx := 0, core := 0, ch := 0, after := [], env := none, wr := none, xw := false, word := 0, regs := [],
    body := .atom .add false 0 (384 * 2 ^ 30) none 1 false }

/-- An image of interval 0 without strands, groups and contexts. -/
def bareImage : Image := ⟨0, [], [], [], [], [], [], [], [], [], [], [], [], [], none, 0⟩

/-- A lone module behind its initial seal, with a strand whose queued atomic goes to no memory. -/
def strayState : State :=
  { strand := { live := true }, rcv := { committed := some bareImage }, cmds := [strayAtom] }

theorem strayState_leads : strayState.sealable = true ∧ strayState.leads = true := by decide

/-- The stop drains the channels (R208, R336), which performs the atomic. -/
theorem strayState_absent : (strayState.work.startSeal false).absent = true := by decide

/-- Such a step faults, and answers no next state. -/
theorem finish_absent (s : State) (w : Work) (h : w.absent = true) : s.finish w = .fault .absentMemory := by
  rw [State.finish, if_pos h]

/-- Refutes O48: the timer's seal drains the commands in flight, also where not all are quiet, and one of them may make its access at a place that
no memory has. The step then faults as absent memory, where the first clause has a next state for every state that may seal. -/
theorem not_sealsRunTheirPhases : ¬ Obligations.SealsRunTheirPhases := by
  unfold Obligations.SealsRunTheirPhases
  intro h
  obtain ⟨hseal, -⟩ := h 0 0 0 0 false strayState
  obtain ⟨hsealable, hleads⟩ := strayState_leads
  obtain ⟨t, ht, -⟩ := ((hseal hsealable).1 hleads).1
  have hfault : exec .sealTimer strayState = .fault .absentMemory :=
    finish_absent strayState (strayState.work.startSeal false) strayState_absent
  rw [hfault] at ht
  cases ht

end Sys2Proof.Machine

/-! PROOFS. Heath words at their dispatch (O32). -/

namespace Sys2Proof.Machine

/-! ### The strand and the pages of a command put in flight (R186) -/

/-- An engine word whose strip store buffer is empty dispatches from the strand with its strip closed; only trace records are new. -/
theorem engineWork_midway (s : State) (word : Nat) (a : Reg) (hbuf : s.strand.buf = []) :
    ∃ cores, s.engineWork word a = s.midway cores s.strand.drained [] ∧ s.SameCores cores := by
  obtain ⟨cores, htrace, hcores⟩ := trace_traced (s.midway s.cores s.strand.drained []) 4 (engineInfo word) (s.strand.rx a)
  have hdrain : s.work.drain = s.midway s.cores s.strand.drained [] := drain_of_empty s.work hbuf
  simp only [State.engineWork, hdrain]
  split
  · exact ⟨cores, htrace, hcores⟩
  · exact ⟨s.cores, rfl, .refl s⟩

theorem engineWord_unbuffered (s : State) (word : Nat) (a : Reg) (run : Work → Work) (hbuf : s.strand.buf = []) :
    engineWord word a run s = s.finish (run (s.engineWork word a)) := by
  rw [engineWord, drained_of_bufWait s _ (bufWait_of_empty s.work hbuf)]

/-- Pinning changes the states of pages and nothing else. -/
theorem pin_frame (s : State) (ctx : Nat) (l : List (Nat × Nat)) : s.pin ctx l = { s with pages := (s.pin ctx l).pages } := by
  induction l generalizing s with
  | nil => rfl
  | cons p l ih => exact ih _

theorem pin_pages (s t : State) (ctx : Nat) (l : List (Nat × Nat)) (h : t.pages = s.pages) : (t.pin ctx l).pages = (s.pin ctx l).pages := by
  induction l generalizing s t with
  | nil => exact h
  | cons p l ih =>
    refine ih _ _ ?_
    have hpage : t.pageSt ctx p.1 = s.pageSt ctx p.1 := by rw [State.pageSt, h]; rfl
    simp only [State.setPageSt, hpage, h]

/-- The strand behind step 5 of R186: the tag clear, and one command more in flight. -/
def Strand.posted (t : Strand) (tag : BitVec 6) : Strand :=
  { t with tags := t.tags &&& ~~~(BitVec.ofNat 64 (2 ^ tag.toNat)), hqstat := inflight t.hqstat (bitsAt t.hqstat.toNat 32 8 + 1) }

/-- What a Heath command is performed after does not depend on the strip, the tags and `hqstat` of its strand. -/
theorem heathAfter_posted (s : State) (cores : List Core) (tag : BitVec 6) (env : Option (Nat × Nat)) :
    ({ s with strand := s.strand.drained.posted tag, cores := cores } : State).heathAfter env = s.heathAfter env := by
  have hstrands : ({ s with strand := s.strand.drained.posted tag, cores := cores } : State).strands =
      if s.strand.live then s.strand.drained.posted tag :: s.parked else s.parked := rfl
  have hpending : ({ s with strand := s.strand.drained.posted tag, cores := cores } : State).pendingUid = s.pendingUid := by
    funext u
    simp only [State.pendingUid, hstrands]
    rw [State.strands]
    cases s.strand.live <;> rfl
  have hblockers (lo hi : Nat) : ({ s with strand := s.strand.drained.posted tag, cores := cores } : State).pendBlockers lo hi =
      s.pendBlockers lo hi := by
    simp only [State.pendBlockers, hstrands]
    rw [State.strands]
    cases s.strand.live <;> rfl
  simp only [State.heathAfter, State.stillPending, hpending]
  cases env with
  | none => rfl
  | some e =>
    simp only [hblockers]
    rfl

/-- A Heath command goes in flight: the strand goes on at the next word, the command stands last, and no byte changes. -/
theorem finish_issueHeath (s : State) (cores : List Core) (tag : BitVec 6) (env : Option (Nat × Nat)) (pages : List (Nat × Nat)) (pin : Bool)
    (b : HBody) :
    let t := s.strand
    ∃ u, s.finish ((s.midway cores t.drained []).issueHeath tag env pages pin b) = .next u ∧ u.strand = (t.drained.posted tag).nextWord ∧
      s.sameBytes u ∧ u.nextId = s.nextId + 1 ∧ u.pages = (s.pin t.g.ctx (if pin then pages else [])).pages ∧
      u.queries = s.queries ++ [⟨s.nextId, t.g.gid, t.sidx, t.g.ctx, t.g.core, tag.toNat, s.heathAfter env, env, pages, s.rin.toNat, b⟩] := by
  intro t
  let s0 : State := { s with strand := t.drained.posted tag, cores := cores }
  let s1 : State := { s0 with
    nextId := s.nextId + 1
    queries := s.queries ++ [⟨s.nextId, t.g.gid, t.sidx, t.g.ctx, t.g.core, tag.toNat, s0.heathAfter env, env, pages, s.rin.toNat, b⟩]
    heathLine := s.heathLine.filter fun i => decide (i ≠ t.sid) }
  let k : Work := { st := { s1 with pages := (s.pin t.g.ctx (if pin then pages else [])).pages }, ws := [], absent := false }
  have hwork : (s.midway cores t.drained []).issueHeath tag env pages pin b = k.retire := by
    have hissue : (s.midway cores t.drained []).issueHeath tag env pages pin b =
        ({ st := if pin then s1.pin t.g.ctx pages else s1, ws := [], absent := false } : Work).retire := rfl
    cases pin with
    | false => rfl
    | true =>
      rw [hissue, if_pos rfl, pin_frame, pin_pages s s1 t.g.ctx pages rfl]
      rfl
  rw [hwork]
  refine ⟨_, State.finish_next s _ rfl, commit_strand s _, ?_⟩
  rw [State.commit_nil s _ rfl]
  refine ⟨sameBytes_base s _, rfl, rfl, ?_⟩
  change s1.queries = _
  simp only [s1, s0, t, heathAfter_posted]

/-! ### Admission (R186, R355) -/

/-- A Heath word whose tag is free and whose strand has room waits for nothing, where, for a query, the root admits it. -/
theorem heathRoom_admitted (s : State) (cores : List Core) (tag : Nat) (query : Bool) (htag : s.tagBusy tag = false)
    (hroom : (s.heathOf s.strand).length < 64)
    (hroot : query = true → (s.queries.filter HCmd.isQuery).length < 1024 ∧ ∀ sid, s.rootLine.head? = some sid → sid = s.strand.sid) :
    (s.midway cores s.strand.drained []).heathRoom tag query = none := by
  have hbusy : (s.midway cores s.strand.drained []).st.tagBusy tag = false := htag
  have hcount : ¬64 ≤ ((s.midway cores s.strand.drained []).st.heathOf s.strand.drained).length := Nat.not_le.2 hroom
  have hline : (s.midway cores s.strand.drained []).st.rootLine = s.rootLine := by
    have hstrands : (s.midway cores s.strand.drained []).st.strands = if s.strand.live then s.strand.drained :: s.parked else s.parked := rfl
    unfold State.rootLine
    rw [hstrands, State.strands]
    cases s.strand.live <;> rfl
  have hadmits : (query && !(s.midway cores s.strand.drained []).st.rootAdmits s.strand.drained.sid) = false := by
    cases query with
    | false => rfl
    | true =>
      obtain ⟨hfew, hfirst⟩ := hroot rfl
      have hhead : s.rootLine.headD s.strand.sid = s.strand.sid := by
        rw [List.headD_eq_head?_getD]
        cases hl : s.rootLine.head? with
        | none => rfl
        | some sid => exact hfirst sid hl
      have hroot : (s.midway cores s.strand.drained []).st.rootRoom = true := decide_eq_true hfew
      simp only [State.rootAdmits, hroot, hline, Bool.true_and, Bool.not_eq_false', decide_eq_true_eq]
      exact hhead
  simp only [Work.heathRoom, midway_cur, hbusy, hcount, hadmits, Bool.false_eq_true, if_false]

/-! ### The words -/

theorem movePages_midway (s : State) (cores : List Core) (u : Strand) (ws : List Write) (core ctx : Nat) (bad : Trap) (write : Bool) (va len : Nat) :
    movePages (s.midway cores u ws).st core ctx bad write va len = movePages s core ctx bad write va len := by
  have hpage : (s.midway cores u ws).st.pageSt = s.pageSt := rfl
  simp only [movePages, leafFor_midway, hpage]

/-- A query whose block, format, pages and reply range pass (R186, R187, R189). -/
theorem query_issues (w : Work) (kind : QKind) (a c : Reg) (tag : BitVec 6) (bytes : List Byte) (pages : List (Nat × Nat)) (dev : Nat)
    (hblock : w.readBlock (w.rx a) 64 64 = .ok bytes)
    (hformat : kind.formatOk (qblockOf (leNat bytes)).red (fmtOf (w.rx c)) = true)
    (hpages : let b := qblockOf (leNat bytes)
      (if b.nrec = 0 then .ok [] else
        queryPages w.st w.cur.g.core w.cur.g.ctx b.ext (b.ext + (b.nrec - 1) * b.stride + (b.recb - 1)) (2 ^ 27)) = .ok pages)
    (hreply : w.st.meadow w.cur.g (BitVec.ofNat 64 (qblockOf (leNat bytes)).rdst) 32 = .ok dev)
    (hroom : w.heathRoom tag.toNat true = none) :
    let b := qblockOf (leNat bytes)
    let f := fmtOf (w.rx c)
    let verdict := b.verdict kind f.srcA.width
    let pay := if verdict = 0 then kind.payload b (b.recb * 8 / f.srcA.width) else 0
    (pay = 0 ∨ ∃ d, w.st.meadow w.cur.g (BitVec.ofNat 64 b.rdst + 32) pay = .ok d) →
    w.query kind a c tag = w.issueHeath tag (some (dev, dev + 32 + pay)) pages true (.query kind b (w.rx c) verdict .issued b.offset []) := by
  intro b f verdict pay hpay
  have hrange : ∃ d, (if pay = 0 then .ok 0 else w.st.meadow w.cur.g (BitVec.ofNat 64 b.rdst + 32) pay) = .ok d := by
    by_cases h0 : pay = 0
    · exact ⟨0, if_pos h0⟩
    · obtain ⟨d, hd⟩ := hpay.resolve_left h0
      exact ⟨d, (if_neg h0).trans hd⟩
  obtain ⟨d, hrange⟩ := hrange
  unfold Work.query
  simp only [hblock, hformat, Bool.not_true, Bool.false_eq_true, if_false, hpages, hreply]
  rw [hrange]
  simp only [hroom]
  rfl

/-- Settles O32: each word passes its checks and its admission, and puts its command in flight. -/
theorem heathWordsGoInFlight : Obligations.HeathWordsGoInFlight := by
  unfold Obligations.HeathWordsGoInFlight
  intro a b c tag s hbuf htag hroom t gone flies asks
  have asksAt (i : Instr) (kind : QKind)
      (hi : exec i s = engineWord (encodeNat i) a (fun w => w.query kind a c tag) s) : asks i kind := by
    dsimp only [asks]
    intro hfew hfirst bytes pages dev hblock hformat hpages hreply hpay
    obtain ⟨cores, hw, -⟩ := engineWork_midway s (encodeNat i) a hbuf
    rw [hw] at hblock hpages hreply hpay
    simp only [flies, hi, engineWord_unbuffered s _ a _ hbuf, hw]
    rw [query_issues (s.midway cores t []) kind a c tag bytes pages dev hblock hformat hpages hreply
      (heathRoom_admitted s cores tag.toNat true htag hroom fun _ => ⟨hfew, hfirst⟩) hpay]
    exact finish_issueHeath s cores tag _ pages true _
  refine ⟨asksAt _ _ (exec_hqDot ..), asksAt _ _ (exec_hqSum ..), asksAt _ _ (exec_hqCnt ..), asksAt _ _ (exec_hqMax ..),
    asksAt _ _ (exec_hqTop ..), asksAt _ _ (exec_hqSes ..), ?_, ?_⟩
  case refine_1 =>
    intro bytes data
    dsimp only
    intro hblock hslot hzero hlo hhi hspare hrest hdata
    obtain ⟨cores, hw, -⟩ := engineWork_midway s (encodeNat (.hbcast a tag)) a hbuf
    have hadmit := heathRoom_admitted s cores tag.toNat false htag hroom (nomatch ·)
    have hgood : let f := fun (lo len : Nat) => bitsAt (leNat bytes) (8 * lo) (8 * len)
        ¬(7 < f 2 1 ∨ f 3 1 ≠ 0 ∨ f 4 2 = 0 ∨ 1024 < f 4 2 ∨ f 6 2 ≠ 0 ∨ f 24 40 ≠ 0) := by
      dsimp only
      omega
    simp only [flies, exec_hbcast, execHbcast, engineWord_unbuffered s _ a _ hbuf]
    rw [show s.strand.rx a = t.rx a from rfl]
    simp only [hblock, if_neg hgood, hdata]
    rw [hw, hadmit]
    exact finish_issueHeath s cores tag none [] false _
  case refine_2 =>
    dsimp only
    intro hpriv hdst hsrc hlen hmax hapart x y hx hy
    obtain ⟨cores, hw, -⟩ := engineWork_midway s (encodeNat (.hmove a b c tag)) a hbuf
    have hgood : ¬((t.rx a).toNat % 64 ≠ 0 ∨ (t.rx b).toNat % 64 ≠ 0 ∨ (t.rx c).toNat % 64 ≠ 0 ∨
        overlap (t.rx a).toNat ((t.rx a).toNat + (t.rx c).toNat) (t.rx b).toNat ((t.rx b).toNat + (t.rx c).toNat) = true ∨
        2 ^ 42 < (t.rx c).toNat) := by
      simp only [hapart, Bool.false_eq_true, false_or]
      omega
    simp only [flies, exec_hmove, execHmove, engineWord_unbuffered s _ a _ hbuf, hw, movePages_midway, midway_cur]
    rw [show s.strand.rx a = t.rx a from rfl, show s.strand.rx b = t.rx b from rfl, show s.strand.rx c = t.rx c from rfl]
    rw [show s.strand.drained = t from rfl, hpriv]
    simp only [Bool.not_true, Bool.false_eq_true, if_false, if_neg hgood, hx, hy]
    rw [heathRoom_admitted s cores tag.toNat false htag hroom (nomatch ·)]
    exact finish_issueHeath s cores tag none (x ++ y) false _

end Sys2Proof.Machine

/-! PROOFS. Events of Heath commands (O46): commits, the order of the strands, and what a command done leaves. -/

namespace Sys2Proof.Machine

/-! ### What the writes of a commit leave -/

/-- A state that differs from another in what writes change: the memories, the tags and logs of their lines, the scratchpads' dirty blocks. -/
def State.AfterWrites (s t : State) : Prop :=
  ∃ fm hm sp host fmLine hmLine undoF undoH rcv cores,
    t = { s with fm := fm, hm := hm, sp := sp, host := host, fmLine := fmLine, hmLine := hmLine, undoF := undoF, undoH := undoH, rcv := rcv,
                 cores := cores }

theorem State.AfterWrites.refl (s : State) : s.AfterWrites s :=
  ⟨s.fm, s.hm, s.sp, s.host, s.fmLine, s.hmLine, s.undoF, s.undoH, s.rcv, s.cores, rfl⟩

theorem State.AfterWrites.trans {s t u : State} (h : s.AfterWrites t) (k : t.AfterWrites u) : s.AfterWrites u := by
  obtain ⟨_, _, _, _, _, _, _, _, _, _, rfl⟩ := h
  obtain ⟨a, b, c, d, e, f, g, i, j, l, rfl⟩ := k
  exact ⟨a, b, c, d, e, f, g, i, j, l, rfl⟩

theorem State.AfterWrites.queries {s t : State} (h : s.AfterWrites t) : t.queries = s.queries := by
  obtain ⟨_, _, _, _, _, _, _, _, _, _, rfl⟩ := h
  rfl

theorem State.AfterWrites.slots {s t : State} (h : s.AfterWrites t) : t.slots = s.slots := by
  obtain ⟨_, _, _, _, _, _, _, _, _, _, rfl⟩ := h
  rfl

theorem withMem_afterWrites (s : State) (g : Tgt) (m : Mem) : s.AfterWrites (s.withMem g m) := by
  cases g <;> exact ⟨_, _, _, _, _, _, _, _, _, _, rfl⟩

theorem withLines_afterWrites (s : State) (heath : Bool) (l : List (Nat × Line)) : s.AfterWrites (s.withLines heath l) := by
  cases heath <;> exact ⟨_, _, _, _, _, _, _, _, _, _, rfl⟩

theorem withUndo_afterWrites (s : State) (heath : Bool) (l : List Undo) : s.AfterWrites (s.withUndo heath l) := by
  cases heath <;> exact ⟨_, _, _, _, _, _, _, _, _, _, rfl⟩

theorem touchLine_afterWrites (s : State) (heath : Bool) (n : Nat) (owner : BitVec 12) (whole : Bool) :
    s.AfterWrites (touchLine s heath n owner whole) := by
  have hrcv (u : State) (r : Recovery) : u.AfterWrites { u with rcv := r } := ⟨_, _, _, _, _, _, _, _, _, _, rfl⟩
  unfold touchLine
  refine State.AfterWrites.trans ?_ (withLines_afterWrites ..)
  split <;> split
  · exact (withUndo_afterWrites ..).trans (hrcv ..)
  · exact hrcv ..
  · exact withUndo_afterWrites ..
  · exact .refl s

theorem touchLines_afterWrites (s : State) (heath : Bool) (a l : Nat) (owner : BitVec 12) (k : Nat) :
    s.AfterWrites (touchLines s heath a l owner k) := by
  induction k generalizing s with
  | zero => exact .refl s
  | succ k ih => exact (touchLine_afterWrites ..).trans (ih _)

theorem markDirty_afterWrites (s : State) (a l : Nat) : s.AfterWrites (markDirty s a l) := by
  unfold markDirty
  split
  · exact .refl s
  · exact ⟨_, _, _, _, _, _, _, _, _, _, rfl⟩

theorem applyWrite_afterWrites (s : State) (w : Write) : s.AfterWrites (applyWrite s w) := by
  cases w with
  | clear g a n => exact withMem_afterWrites ..
  | put g a bs o raw =>
    refine State.AfterWrites.trans ?_ (withMem_afterWrites _ g _)
    split
    · exact .refl s
    · cases g
      · exact touchLines_afterWrites ..
      · exact touchLines_afterWrites ..
      · exact markDirty_afterWrites ..
      · exact .refl s

theorem commit_afterWrites (s : State) (w : Work) : (s.base w).AfterWrites (s.commit w) := by
  have fold : ∀ (l : List Write) (b : State), b.AfterWrites (l.foldl applyWrite b) := by
    intro l
    induction l with
    | nil => exact .refl
    | cons x l ih => exact fun b => (applyWrite_afterWrites b x).trans (ih _)
  exact fold w.ws (s.base w)

/-- The writes of a commit leave the Heath commands as the step made them. -/
theorem commit_queries (s : State) (w : Work) : (s.commit w).queries = w.st.queries := (commit_afterWrites s w).queries

theorem commit_slots (s : State) (w : Work) : (s.commit w).slots = w.st.slots := (commit_afterWrites s w).slots

/-! ### The order of the strands -/

theorem pickFirst_eq {α : Type} (p : α → Bool) (l : List α) : pickFirst p l = (l.find? p).map fun a => (a, l.eraseP p) := by
  induction l with
  | nil => rfl
  | cons a l ih =>
    cases h : p a with
    | true => simp [pickFirst, h]
    | false =>
      simp only [pickFirst, h, Bool.false_eq_true, if_false, ih, List.find?_cons, List.eraseP_cons, cond_false]
      cases l.find? p <;> rfl

/-- The strand of a number comes in front, and the others keep their order. -/
theorem focusStrand_eq (s : State) (sid : Nat) : s.focusStrand sid =
    (s.strands.find? fun t => decide (t.sid = sid)).map fun t =>
      { s with strand := t, parked := s.strands.eraseP fun t => decide (t.sid = sid) } := by
  simp only [State.focusStrand, pickFirst_eq, State.strands]
  cases s.strand.live with
  | false =>
    simp only [Bool.false_and, Bool.false_eq_true, if_false]
    cases s.parked.find? fun t => decide (t.sid = sid) <;> rfl
  | true =>
    by_cases h : s.strand.sid = sid
    · simp only [h, decide_true, Bool.and_self, if_true, List.find?_cons, List.eraseP_cons, Option.map_some, cond_true]
    · simp only [h, decide_false, Bool.and_false, Bool.false_eq_true, if_false, if_true, List.find?_cons, List.eraseP_cons, cond_false]
      cases s.parked.find? fun t => decide (t.sid = sid) <;> rfl

theorem find?_eraseP_disjoint {α : Type} (p q : α → Bool) (l : List α) (h : ∀ a, p a = true → q a = false) :
    (l.eraseP p).find? q = l.find? q := by
  induction l with
  | nil => rfl
  | cons a l ih =>
    cases hp : p a with
    | true => simp [hp, h a hp]
    | false => cases hq : q a <;> simp [hp, hq, ih]

/-- A state that differs from another in the order of its strands, in which strand `a` is still the first of its number, and nothing is held. -/
structure State.Reordered (s : State) (a : Strand) (u : State) : Prop where
  rest : ∃ t parked, u = { s with strand := t, parked := parked }
  first : (u.strands.find? fun t => decide (t.sid = a.sid)) = some a
  quiet : ∀ t ∈ u.strands, t.pend = []

/-- Another strand in front keeps the order of the rest. -/
theorem State.Reordered.focus {s u v : State} {a : Strand} (h : s.Reordered a u) (ha : a.live = true) (sid : Nat)
    (hv : u.focusStrand sid = some v) : s.Reordered a v ∧ v.strand.pend = [] := by
  rw [focusStrand_eq] at hv
  obtain ⟨t, ht, rfl⟩ := Option.map_eq_some_iff.1 hv
  have hsid : t.sid = sid := by simpa using List.find?_some ht
  have hpend : t.pend = [] := h.quiet t (List.mem_of_find?_eq_some ht)
  obtain ⟨t0, p0, hu⟩ := h.rest
  have hstrands : ({ u with strand := t, parked := u.strands.eraseP fun t => decide (t.sid = sid) } : State).strands =
      if t.live then t :: u.strands.eraseP (fun t => decide (t.sid = sid)) else u.strands.eraseP fun t => decide (t.sid = sid) := rfl
  refine ⟨⟨⟨t, _, by rw [hu]⟩, ?_, fun x hx => ?_⟩, hpend⟩
  · rw [hstrands]
    by_cases hs : a.sid = sid
    · have hta : t = a := by
        have hfirst := h.first
        rw [hs, ht] at hfirst
        exact Option.some.inj hfirst
      subst hta
      simp only [ha, if_true, List.find?_cons, decide_true]
    · have hrest := find?_eraseP_disjoint (fun t : Strand => decide (t.sid = sid)) (fun t => decide (t.sid = a.sid)) u.strands
        fun x hx => by
          simp only [decide_eq_true_eq] at hx
          simpa [hx] using Ne.symm hs
      rw [h.first] at hrest
      split
      · have hne : t.sid ≠ a.sid := hsid.trans_ne (Ne.symm hs)
        simpa [hne] using hrest
      · exact hrest
  · rw [hstrands] at hx
    split at hx
    · obtain rfl | hx := List.mem_cons.1 hx
      · exact hpend
      · exact h.quiet x (List.mem_of_mem_eraseP hx)
    · exact h.quiet x (List.mem_of_mem_eraseP hx)

/-- Nothing settles where no strand holds a store: at most the order of the other strands changes. -/
theorem settle_quiet (w : Work) (hl : w.cur.live = true) (hp : ∀ t ∈ w.st.strands, t.pend = []) :
    ∃ parked, w.settle = { w with st := { w.st with parked := parked } } := by
  have go : ∀ (l : List Nat) (u : State), w.st.Reordered w.cur u →
      ∃ v, settleStrands { w with st := u } l = { w with st := v } ∧ w.st.Reordered w.cur v := by
    intro l
    induction l with
    | nil => exact fun u hu => ⟨u, rfl, hu⟩
    | cons i l ih =>
      intro u hu
      simp only [settleStrands]
      cases hf : u.focusStrand i with
      | none => exact ih u hu
      | some v =>
        obtain ⟨hv, hpend⟩ := hu.focus hl i hf
        simp only [hpend, settlePend]
        exact ih v hv
  have hstart : w.st.Reordered w.cur w.st := by
    refine ⟨⟨w.st.strand, w.st.parked, rfl⟩, ?_, hp⟩
    have hstrands : w.st.strands = w.cur :: w.st.parked := if_pos hl
    rw [hstrands, List.find?_cons, decide_eq_true rfl]
  obtain ⟨v, hv, hrest, hfirst, -⟩ := go (w.st.strands.map Strand.sid) w.st hstart
  obtain ⟨t, p, rfl⟩ := hrest
  simp only [Work.settle]
  rw [show settleStrands w (w.st.strands.map Strand.sid) = _ from hv, focusStrand_eq, hfirst]
  exact ⟨_, rfl⟩

end Sys2Proof.Machine

namespace Sys2Proof.Machine

/-! ### A command done (R190, R195) -/

/-- The strand of a Heath command that is done: its tag bit set, `hqstat` with its tag and status, and what it is to be delivered. -/
def Strand.answered (t : Strand) (tag status : Nat) (d : Option Delivery) : Strand :=
  let h := t.hqstat.toNat
  let h1 := setBits (setBits h 20 6 tag) 8 8 status
  let h2 := if status = 3 ∨ status = 4 then setBits h1 0 1 1 else h1
  { t with hqstat := inflight (BitVec.ofNat 64 h2) (bitsAt h 32 8 - 1), tags := t.tags ||| BitVec.ofNat 64 (2 ^ tag),
           deliver := t.deliver ++ d.toList }

theorem testBit_bitsAt (v lo n j : Nat) : (bitsAt v lo n).testBit j = (decide (j < n) && v.testBit (lo + j)) := by
  rw [bitsAt, Nat.testBit_mod_two_pow, Nat.testBit_div_two_pow, Nat.add_comm]

theorem bitAt_eq_testBit (v n : Nat) : bitAt v n = v.testBit n := by
  rw [bitAt, Nat.testBit_eq_decide_div_mod_eq]

/-- A field of a number reads back the value that has replaced it. -/
theorem bitsAt_setBits_same (v lo n x : Nat) : bitsAt (setBits v lo n x) lo n = x % 2 ^ n := by
  apply Nat.eq_of_testBit_eq
  intro j
  rw [testBit_bitsAt, testBit_setBits, Nat.testBit_mod_two_pow]
  by_cases hj : j < n
  · simp only [hj, show lo ≤ lo + j ∧ lo + j < lo + n by omega, and_self, if_true, Nat.add_sub_cancel_left]
  · simp only [hj, decide_false, Bool.false_and]

/-- A field apart from the one replaced reads as before. -/
theorem bitsAt_setBits_apart (v lo n x lo' n' : Nat) (h : lo' + n' ≤ lo ∨ lo + n ≤ lo') : bitsAt (setBits v lo n x) lo' n' = bitsAt v lo' n' := by
  apply Nat.eq_of_testBit_eq
  intro j
  rw [testBit_bitsAt, testBit_bitsAt, testBit_setBits]
  by_cases hj : j < n'
  · rw [if_neg (by omega)]
  · simp only [hj, decide_false, Bool.false_and]

theorem setBits_lt (v lo n x m : Nat) (hv : v < 2 ^ m) (hm : lo + n ≤ m) : setBits v lo n x < 2 ^ m := by
  apply Nat.lt_pow_two_of_testBit
  intro j hj
  rw [testBit_setBits, if_neg (by omega)]
  exact Nat.testBit_lt_two_pow (Nat.lt_of_lt_of_le hv (Nat.pow_le_pow_right (by decide) hj))

/-- What `hqstat` holds of a command done: its tag, its status, whether one has failed, and one command less in flight. -/
theorem answered_hqstat (t : Strand) (tag status : Nat) (d : Option Delivery) (htag : tag < 64) (hstatus : status < 256) :
    let h := (t.answered tag status d).hqstat.toNat
    bitsAt h 20 6 = tag ∧ bitsAt h 8 8 = status ∧ bitsAt h 32 8 = bitsAt t.hqstat.toNat 32 8 - 1 ∧
      bitAt h 0 = (bitAt t.hqstat.toNat 0 || decide (status = 3 ∨ status = 4)) := by
  let v := setBits (setBits t.hqstat.toNat 20 6 tag) 8 8 status
  let e := if status = 3 ∨ status = 4 then setBits v 0 1 1 else v
  have hv : v < 2 ^ 64 := setBits_lt _ _ _ _ 64 (setBits_lt _ _ _ _ 64 t.hqstat.isLt (by decide)) (by decide)
  have he : e < 2 ^ 64 := by
    simp only [e]
    split
    · exact setBits_lt _ _ _ _ 64 hv (by decide)
    · exact hv
  have hall : (t.answered tag status d).hqstat.toNat = setBits e 32 8 (bitsAt t.hqstat.toNat 32 8 - 1) := by
    have hlt := setBits_lt e 32 8 (bitsAt t.hqstat.toNat 32 8 - 1) 64 he (by decide)
    change (BitVec.ofNat 64 (setBits (BitVec.ofNat 64 e).toNat 32 8 (bitsAt t.hqstat.toNat 32 8 - 1))).toNat = _
    rw [BitVec.toNat_ofNat, BitVec.toNat_ofNat, Nat.mod_eq_of_lt he, Nat.mod_eq_of_lt hlt]
  -- a field above bit 0 does not see whether ERR is set
  have herr (lo n : Nat) (hlo : 1 ≤ lo) : bitsAt e lo n = bitsAt v lo n := by
    simp only [e]
    split
    · exact bitsAt_setBits_apart _ _ _ _ _ _ (.inr hlo)
    · rfl
  intro h
  simp only [h, hall]
  refine ⟨?_, ?_, ?_, ?_⟩
  · rw [bitsAt_setBits_apart _ _ _ _ _ _ (by decide), herr _ _ (by decide), bitsAt_setBits_apart _ _ _ _ _ _ (by decide),
      bitsAt_setBits_same, show (2 : Nat) ^ 6 = 64 from rfl, Nat.mod_eq_of_lt htag]
  · rw [bitsAt_setBits_apart _ _ _ _ _ _ (by decide), herr _ _ (by decide), bitsAt_setBits_same, show (2 : Nat) ^ 8 = 256 from rfl,
      Nat.mod_eq_of_lt hstatus]
  · have hfield : bitsAt t.hqstat.toNat 32 8 < 2 ^ 8 := Nat.mod_lt _ (by decide)
    rw [bitsAt_setBits_same, Nat.mod_eq_of_lt (by omega)]
  · have hbit : v.testBit 0 = t.hqstat.toNat.testBit 0 := by
      simp only [v, testBit_setBits, show ¬(8 ≤ 0 ∧ 0 < 8 + 8) by omega, show ¬(20 ≤ 0 ∧ 0 < 20 + 6) by omega, if_false]
    rw [bitAt_eq_testBit, bitAt_eq_testBit, testBit_setBits, if_neg (by omega)]
    simp only [e]
    split
    · next hs =>
      rw [testBit_setBits, decide_eq_true hs, Bool.or_true]
      rfl
    · next hs => simp [hbit, hs]

/-- A strand that no record holds has its tags written into none (R195). -/
theorem recordTags_unsaved (w : Work) (sid : Nat)
    (h : ∀ g ∈ w.st.groups, ∀ v, g.saved = some v → ∀ t ∈ v.strands, t.sid ≠ sid) : w.recordTags sid = w := by
  unfold Work.recordTags
  generalize w.st.groups = l at h
  induction l with
  | nil => rfl
  | cons g l ih =>
    rw [List.foldl_cons]
    have hg := h g (List.mem_cons_self ..)
    split
    · next v c hv _ =>
      have hnone : v.strands.filter (fun t => decide (t.sid = sid)) = [] := by simpa using hg v hv
      rw [hnone]
      exact ih fun g' hg' => h g' (List.mem_cons_of_mem _ hg')
    · exact ih fun g' hg' => h g' (List.mem_cons_of_mem _ hg')

theorem unpin_frame (s : State) (ctx : Nat) (l : List (Nat × Nat)) : ∃ pages, s.unpin ctx l = { s with pages := pages } := by
  induction l generalizing s with
  | nil => exact ⟨s.pages, rfl⟩
  | cons p l ih =>
    obtain ⟨pages, h⟩ := ih (s.setPageSt { s.pageSt ctx p.1 with pins := (s.pageSt ctx p.1).pins - 1 })
    exact ⟨pages, h⟩

/-- A command of the strand in front, which no record holds, is done: the strand is answered and the command taken out of flight. -/
theorem doneHeath_front (w : Work) (c : HCmd) (status : Nat) (d : Option Delivery) (hl : w.cur.live = true)
    (hsid : c.gid * 4 + c.sidx = w.cur.sid) (hpend : ∀ t ∈ w.st.parked, t.pend = [])
    (hsaved : ∀ g ∈ w.st.groups, ∀ v, g.saved = some v → ∀ t ∈ v.strands, t.sid ≠ w.cur.sid) :
    ∃ parked groups pages, w.doneHeath c status d = { w with st := { w.st with
        strand := w.cur.answered c.tag status d, parked := parked, groups := groups, pages := pages,
        queries := w.st.queries.filter fun e => decide (e.uid ≠ c.uid) } } ∧ ∀ t ∈ parked, t.pend = [] := by
  let f (t : Strand) : Strand := if t.live && decide (t.sid = c.gid * 4 + c.sidx) then t.answered c.tag status d else t
  have hf (t : Strand) : (f t).sid = t.sid ∧ (f t).pend = t.pend := by
    simp only [f]
    split <;> exact ⟨rfl, rfl⟩
  have hfront : f w.cur = w.cur.answered c.tag status d := if_pos (by simp [hl, hsid])
  let groups := w.st.groups.map fun (e : Group) => { e with saved := e.saved.map fun (v : Saved) => { v with strands := v.strands.map f } }
  obtain ⟨pages, hwork⟩ : ∃ pages, w.doneHeath c status d = ({ w with st := { w.st with
      strand := f w.cur, parked := w.st.parked.map f, groups := groups, pages := pages,
      queries := w.st.queries.filter fun e => decide (e.uid ≠ c.uid) } } : Work).recordTags (c.gid * 4 + c.sidx) := by
    unfold Work.doneHeath
    split
    · obtain ⟨pages, hpages⟩ := unpin_frame w.st c.ctx c.pages
      refine ⟨pages, ?_⟩
      simp only [Work.mod, hpages]
      rfl
    · exact ⟨w.st.pages, rfl⟩
  refine ⟨w.st.parked.map f, groups, pages, ?_, fun t ht => ?_⟩
  · rw [hwork, recordTags_unsaved, hfront]
    intro g hg v hv t ht
    obtain ⟨e, he, rfl⟩ := List.mem_map.1 hg
    obtain ⟨v', hv', rfl⟩ := Option.map_eq_some_iff.1 hv
    obtain ⟨t', ht', rfl⟩ := List.mem_map.1 ht
    rw [(hf t').1, hsid]
    exact hsaved e he v' hv' t' ht'
  · obtain ⟨t', ht', rfl⟩ := List.mem_map.1 ht
    rw [(hf t').2]
    exact hpend t' ht'

end Sys2Proof.Machine

namespace Sys2Proof.Machine

/-! ### Bytes for a context whose scratchpad is in place (R195) -/

/-- Writes of a step that put bytes from an address of scratchpad on, and nothing else. -/
structure PutBytes (ws : List Write) (a : Nat) (bs : List Byte) : Prop where
  elsewhere : ∀ g m, g ≠ .sp → writtenTo g ws m = m
  read : ∀ m x, Mem.read (writtenTo .sp ws m) x = if a ≤ x ∧ x < a + bs.length then bs.getD (x - a) 0 else Mem.read m x

theorem writtenTo_append (g : Tgt) (l1 l2 : List Write) (m : Mem) : writtenTo g (l1 ++ l2) m = writtenTo g l2 (writtenTo g l1 m) :=
  List.foldl_append ..

theorem putBytes_nil (a : Nat) : PutBytes [] a [] := ⟨fun _ _ _ => rfl, fun m x => (if_neg (by simp only [List.length_nil]; omega)).symm⟩

theorem putBytes_one (a : Nat) (bs : List Byte) (owner : BitVec 12) (raw : Bool) : PutBytes [.put .sp a bs owner raw] a bs :=
  ⟨fun _ _ hg => if_neg hg, fun m x => Mem.read_write m a bs x⟩

theorem PutBytes.append {l1 l2 : List Write} {a : Nat} {b1 b2 : List Byte} (h1 : PutBytes l1 a b1) (h2 : PutBytes l2 (a + b1.length) b2) :
    PutBytes (l1 ++ l2) a (b1 ++ b2) := by
  refine ⟨fun g m hg => ?_, fun m x => ?_⟩
  · rw [writtenTo_append, h2.elsewhere g _ hg, h1.elsewhere g m hg]
  · rw [writtenTo_append, h2.read, h1.read, List.length_append]
    by_cases h1 : a ≤ x ∧ x < a + b1.length
    · rw [if_neg (by omega), if_pos h1, if_pos (by omega), List.getD_append _ _ _ _ (by omega)]
    · by_cases h2 : a + b1.length ≤ x ∧ x < a + b1.length + b2.length
      · rw [if_pos h2, if_pos (by omega), List.getD_append_right _ _ _ _ (by omega), Nat.sub_sub]
      · rw [if_neg h2, if_neg h1, if_neg (by omega)]

theorem PutBytes.anywhere {ws : List Write} {a : Nat} (h : PutBytes ws a []) (b : Nat) : PutBytes ws b [] :=
  ⟨h.elsewhere, fun m x => by rw [h.read, List.length_nil, if_neg (by omega), if_neg (by omega)]⟩

/-- Bytes of one block for a context without images, at scratchpad that it holds. -/
theorem contextBlock_puts (w : Work) (ctx dev : Nat) (bs : List Byte) (himages : ∀ x, w.st.ctx? ctx = some x → x.images = [])
    (hallowed : w.st.spAllowed { ctx := ctx } dev = true) : w.contextBlock ctx dev bs = w.put (.put .sp dev bs 0 false) := by
  have hnone : ((w.st.ctx? ctx).map (·.images)).getD [] = [] := by
    cases hc : w.st.ctx? ctx with
    | none => rfl
    | some x => exact himages x hc
  simp only [Work.contextBlock, hnone, List.filter_nil, bestOffer, hallowed, if_true]

/-- The same for bytes of several blocks, the first byte of each at scratchpad that the context holds. -/
theorem contextBytes_puts (fuel : Nat) (w : Work) (ctx dev : Nat) (bs : List Byte) (himages : ∀ x, w.st.ctx? ctx = some x → x.images = [])
    (hfuel : dev % 4096 + bs.length ≤ 4096 * fuel)
    (hallowed : ∀ j, j < bs.length → j = 0 ∨ (dev + j) % 4096 = 0 → w.st.spAllowed { ctx := ctx } (dev + j) = true) :
    ∃ ws, w.contextBytes ctx dev bs fuel = { w with ws := w.ws ++ ws } ∧ PutBytes ws dev bs := by
  induction fuel generalizing w dev bs with
  | zero =>
    obtain rfl : bs = [] := List.eq_nil_of_length_eq_zero (by omega)
    exact ⟨[], by rw [List.append_nil]; rfl, putBytes_nil dev⟩
  | succ k ih =>
    by_cases hne : bs = []
    · subst hne
      exact ⟨[], by rw [List.append_nil]; rfl, putBytes_nil dev⟩
    · let room := 4096 - dev % 4096
      have hpos : 0 < bs.length := List.length_pos_iff.2 hne
      have hblock : w.contextBlock ctx dev (bs.take room) = w.put (.put .sp dev (bs.take room) 0 false) :=
        contextBlock_puts w ctx dev _ himages (hallowed 0 hpos (.inl rfl))
      have hstep : w.contextBytes ctx dev bs (k + 1) =
          (w.put (.put .sp dev (bs.take room) 0 false)).contextBytes ctx (dev + room) (bs.drop room) k := by
        rw [← hblock]
        exact if_neg (by simpa using hne)
      obtain ⟨ws, hrest, hput⟩ := ih (w.put (.put .sp dev (bs.take room) 0 false)) (dev + room) (bs.drop room) himages
        (by rw [List.length_drop]; omega) fun j hj hstart => by
          rw [List.length_drop] at hj
          rw [Nat.add_assoc]
          exact hallowed (room + j) (by omega) (.inr (by omega))
      refine ⟨.put .sp dev (bs.take room) 0 false :: ws, ?_, ?_⟩
      · rw [hstep, hrest]
        simp only [Work.put, List.append_assoc, List.singleton_append]
      · have hput' : PutBytes ws (dev + (bs.take room).length) (bs.drop room) := by
          by_cases hfits : bs.length ≤ room
          · rw [List.drop_of_length_le hfits] at hput ⊢
            exact hput.anywhere _
          · rwa [List.length_take, Nat.min_eq_left (by omega)]
        have happend := (putBytes_one dev (bs.take room) 0 false).append hput'
        rwa [List.take_append_drop] at happend

/-- The bytes that were put are read back. -/
theorem PutBytes.readN {ws : List Write} {a : Nat} {bs : List Byte} (h : PutBytes ws a bs) (m : Mem) :
    Mem.readN (writtenTo .sp ws m) a bs.length = bs :=
  readN_eq _ a bs fun i hi => by rw [h.read, if_pos (by omega), Nat.add_sub_cancel_left]

theorem readN_congr (m m' : Mem) (a n : Nat) (h : ∀ x, a ≤ x → x < a + n → Mem.read m x = Mem.read m' x) : Mem.readN m a n = Mem.readN m' a n := by
  induction n generalizing a with
  | zero => rfl
  | succ n ih => rw [Mem.readN, Mem.readN, h a (Nat.le_refl a) (by omega), ih (a + 1) fun x hx hx' => h x (by omega) (by omega)]

theorem length_replyHeader (status : Nat) (fl : Flags) (n touched banks first nanout off : Nat) :
    (replyHeader status fl n touched banks first nanout off).length = 32 := by
  simp only [replyHeader, List.length_append, length_leBytes]

end Sys2Proof.Machine

namespace Sys2Proof.Machine

/-! ### Events of a command of the strand in front -/

/-- A Heath command of the strand in front, where no strand has a store held and no record holds a strand of that number. -/
structure HeathFront (s : State) (tag : BitVec 6) (c : HCmd) : Prop where
  live : s.strand.live = true
  quiet : ∀ t ∈ s.strands, t.pend = []
  found : s.heathCmd s.strand.sid tag.toNat = some c
  unsaved : ∀ g ∈ s.groups, ∀ v, g.saved = some v → ∀ t ∈ v.strands, t.sid ≠ s.strand.sid

/-- What a command done leaves: it is out of flight, and its strand is answered. -/
structure HeathDone (s u : State) (tag : BitVec 6) (c : HCmd) (status : Nat) (d : Option Delivery) : Prop where
  queries : u.queries = s.queries.filter fun e => decide (e.uid ≠ c.uid)
  strand : u.strand = s.strand.answered tag.toNat status d

/-- A step in the making that has changed the query slots, HBERR and the lines handed to the scrubber, and has writes to make. -/
def Work.Beside (w : Work) (s : State) : Prop :=
  ∃ slots hberr rcv, w = { st := { s with slots := slots, hberr := hberr, rcv := rcv }, ws := w.ws, absent := false }

theorem work_beside (s : State) : s.work.Beside s := ⟨s.slots, s.hberr, s.rcv, rfl⟩

theorem Work.Beside.puts {w k : Work} {s : State} {ws : List Write} (h : w.Beside s) (hk : k = { w with ws := w.ws ++ ws }) : k.Beside s := by
  obtain ⟨slots, hberr, rcv, hw⟩ := h
  refine ⟨slots, hberr, rcv, ?_⟩
  rw [hk, hw]

section
variable {s : State} {tag : BitVec 6} {c : HCmd}

theorem HeathFront.named (h : HeathFront s tag c) : c.gid * 4 + c.sidx = s.strand.sid ∧ c.tag = tag.toNat := by
  simpa using List.find?_some h.found

/-- A command done at the end of an event. -/
theorem HeathFront.completes (h : HeathFront s tag c) {w : Work} (hw : w.Beside s) (status : Nat) (d : Option Delivery) :
    ∃ u, s.finish (w.doneHeath c status d).settle = .next u ∧ HeathDone s u tag c status d ∧
      (∀ g, u.memOf g = writtenTo g w.ws (s.memOf g)) ∧ u.slots = w.st.slots := by
  obtain ⟨slots, hberr, rcv, hw⟩ := hw
  obtain ⟨hsid, htag⟩ := h.named
  have hcur : w.cur = s.strand := by rw [hw]; rfl
  have hstrands : s.strands = s.strand :: s.parked := if_pos h.live
  have hparked : ∀ t ∈ s.parked, t.pend = [] := fun t ht => h.quiet t (by rw [hstrands]; exact List.mem_cons_of_mem _ ht)
  obtain ⟨parked, groups, pages, hdone, hquiet⟩ := doneHeath_front w c status d (by rw [hcur]; exact h.live) (by rw [hcur, hsid])
    (by rw [hw]; exact hparked) (by rw [hcur, hw]; exact h.unsaved)
  have hlive : (w.doneHeath c status d).cur.live = true := by
    rw [hdone]
    exact (congrArg Strand.live hcur).trans h.live
  have hall : (w.doneHeath c status d).st.strands = (w.doneHeath c status d).cur :: (w.doneHeath c status d).st.parked := if_pos hlive
  obtain ⟨parked', hsettle⟩ := settle_quiet (w.doneHeath c status d) hlive fun t ht => by
    rw [hall, hdone, hcur] at ht
    obtain rfl | ht := List.mem_cons.1 ht
    · exact h.quiet s.strand (by rw [hstrands]; exact List.mem_cons_self ..)
    · exact hquiet t ht
  rw [hsettle, hdone, hcur, htag]
  refine ⟨_, State.finish_next s _ (by rw [hw]), ⟨?_, commit_strand s _⟩, fun g => memOf_commit s _ g, ?_⟩
  · rw [commit_queries, hw]
  · rw [commit_slots, hw]

/-- Bytes put by a step leave every other byte. -/
theorem PutBytes.same {u : State} {ws : List Write} {a : Nat} {bs : List Byte} (h : PutBytes ws a bs)
    (hu : ∀ g, u.memOf g = writtenTo g ws (s.memOf g)) : s.sameBytesBut u .sp a bs.length := by
  intro g x hx
  rw [hu g]
  by_cases hg : g = .sp
  · subst hg
    rw [h.read, if_neg (fun hin => hx ⟨rfl, hin⟩)]
  · rw [h.elsewhere g _ hg]

/-! ### Replies (R190, R191) -/

/-- A header alone, for a context without images. -/
theorem HeathFront.replies_header (h : HeathFront s tag c) (dev : Nat) (header : List Byte) (status : Nat) (d : Option Delivery)
    (himages : ∀ x, s.ctx? c.ctx = some x → x.images = []) (hdev : dev % 32 = 0) (hallowed : s.spAllowed { ctx := c.ctx } dev = true)
    (hlen : header.length = 32) :
    ∃ u, s.finish ((s.work.contextBytes c.ctx dev header 2).doneHeath c status d).settle = .next u ∧ HeathDone s u tag c status d ∧
      s.sameBytesBut u .sp dev 32 ∧ Mem.readN u.sp dev 32 = header := by
  obtain ⟨ws, hwork, hput⟩ := contextBytes_puts 2 s.work c.ctx dev header himages (by omega) fun j hj hstart => by
    obtain rfl : j = 0 := by omega
    exact hallowed
  obtain ⟨u, hu, hdone, hmem, -⟩ := h.completes ((work_beside s).puts hwork) status d
  rw [hwork] at hmem
  refine ⟨u, hu, hdone, hlen ▸ hput.same hmem, ?_⟩
  have hread := hput.readN s.sp
  rw [hlen] at hread
  rw [show u.sp = _ from hmem .sp]
  exact hread

theorem latchPoison_frame (w : Work) (c : HCmd) (b : QBlock) (width : Nat) (bad : List Nat) :
    ∃ hberr rcv, w.latchPoison c b width bad = { w with st := { w.st with hberr := hberr, rcv := rcv } } := by
  unfold Work.latchPoison
  generalize (List.range b.nrec).flatMap _ = hits
  induction hits generalizing w with
  | nil => exact ⟨w.st.hberr, w.st.rcv, rfl⟩
  | cons x hits ih =>
    obtain ⟨hberr, rcv, hrest⟩ := ih (w.mod fun s => (s.latch (heathBank (64 * x.1)) x.2 (bankLine (64 * x.1))).handOver true x.1)
    rw [List.foldl_cons, hrest]
    refine ⟨hberr, rcv, ?_⟩
    simp only [Work.mod, State.handOver]
    split <;> rfl

/-- A header with its payload, for a context without images. -/
theorem HeathFront.replies_payload (h : HeathFront s tag c) (b : QBlock) (width : Nat) (bad : List Nat) (dev : Nat) (header payload : List Byte)
    (status : Nat) (d : Option Delivery) (himages : ∀ x, s.ctx? c.ctx = some x → x.images = []) (hdev : dev % 32 = 0)
    (hallowed : ∀ j, j < 32 + payload.length → s.spAllowed { ctx := c.ctx } (dev + j) = true) (hsize : payload.length ≤ 65536)
    (hlen : header.length = 32) :
    ∃ u, s.finish ((((s.work.latchPoison c b width bad).contextBytes c.ctx (dev + 32) payload 20).contextBytes c.ctx dev header 2).doneHeath c
        status d).settle = .next u ∧
      HeathDone s u tag c status d ∧ s.sameBytesBut u .sp dev (32 + payload.length) ∧ Mem.readN u.sp dev 32 = header ∧
      Mem.readN u.sp (dev + 32) payload.length = payload := by
  obtain ⟨hberr, rcv, hlatch⟩ := latchPoison_frame s.work c b width bad
  obtain ⟨ws1, hwork1, hput1⟩ := contextBytes_puts 20 (s.work.latchPoison c b width bad) c.ctx (dev + 32) payload (by rw [hlatch]; exact himages)
    (by omega) fun j hj _ => by
      rw [hlatch, Nat.add_assoc]
      exact hallowed (32 + j) (by omega)
  obtain ⟨ws2, hwork2, hput2⟩ := contextBytes_puts 2 ((s.work.latchPoison c b width bad).contextBytes c.ctx (dev + 32) payload 20) c.ctx dev header
    (by rw [hwork1, hlatch]; exact himages) (by omega) fun j hj _ => by
      rw [hwork1, hlatch]
      exact hallowed j (by omega)
  have hwork : ((s.work.latchPoison c b width bad).contextBytes c.ctx (dev + 32) payload 20).contextBytes c.ctx dev header 2 =
      { s.work with st := { s with hberr := hberr, rcv := rcv }, ws := ws1 ++ ws2 } := by
    rw [hwork2, hwork1, hlatch]
    rfl
  rw [hwork]
  obtain ⟨u, hu, hdone, hmem, -⟩ := h.completes (w := { s.work with st := { s with hberr := hberr, rcv := rcv }, ws := ws1 ++ ws2 })
    ⟨s.slots, hberr, rcv, rfl⟩ status d
  have hmem' (g : Tgt) : u.memOf g = writtenTo g ws2 (writtenTo g ws1 (s.memOf g)) := by rw [hmem g, writtenTo_append]
  refine ⟨u, hu, hdone, fun g x hx => ?_, ?_, ?_⟩
  · rw [hmem' g]
    by_cases hg : g = .sp
    · subst hg
      rw [hput2.read, hput1.read, if_neg (fun hin => hx ⟨rfl, by omega⟩), if_neg (fun hin => hx ⟨rfl, by omega⟩)]
    · rw [hput2.elsewhere g _ hg, hput1.elsewhere g _ hg]
  · have hread := hput2.readN (writtenTo .sp ws1 s.sp)
    rw [hlen] at hread
    rw [show u.sp = _ from hmem' .sp]
    exact hread
  · rw [show u.sp = _ from hmem' .sp]
    refine (readN_congr _ (writtenTo .sp ws1 s.sp) _ _ fun x hx _ => ?_).trans (hput1.readN s.sp)
    rw [hput2.read, if_neg (by omega)]
    rfl

end

end Sys2Proof.Machine

namespace Sys2Proof.Machine

/-! ### Phases and errors of a command in flight (R190, R192, R356, R357) -/

theorem finish_setHeath (s : State) (c : HCmd) : s.finish (s.work.mod fun t => t.setHeath c) = .next (s.setHeath c) := by
  rw [finish_mod]
  simp [State.base, State.wakes, Work.mod, State.work, State.setHeath]

/-- The line tags of a line just set. -/
theorem lineOf_setLine (l : List (Nat × Line)) (idle t : Line) (n : Nat) : lineOf (setLine l n t) idle n = t := by
  induction l with
  | nil => exact if_pos rfl
  | cons x rest ih =>
    simp only [setLine, upsert, decide_eq_true_eq] at ih ⊢
    by_cases hx : x.1 = n
    · rw [if_pos hx]
      exact if_pos rfl
    · rw [if_neg hx]
      exact (if_neg hx).trans ih

theorem line_poisonLine (s : State) (n : Nat) : ((s.poisonLine true n).line true n).poison = true := by
  change (lineOf (setLine s.hmLine n _) _ n).poison = true
  rw [lineOf_setLine]

theorem handOver_frame (s : State) (heath : Bool) (n : Nat) :
    ∃ rcv, s.handOver heath n = { s with rcv := rcv } ∧ rcv.handed.contains (heath, n) = true := by
  by_cases h : s.rcv.handed.contains (heath, n) = true
  · exact ⟨s.rcv, if_pos h, h⟩
  · exact ⟨_, if_neg h, by simp⟩

/-- The first number with a property, in a count. -/
theorem find?_range {p : Nat → Bool} {n q : Nat} (hq : q < n) (hp : p q = true) (hfirst : ∀ j, j < q → p j = false) :
    (List.range n).find? p = some q := by
  rw [List.find?_range_eq_some]
  exact ⟨hp, List.mem_range.2 hq, fun j hj => by simp [hfirst j hj]⟩

section
variable {s : State} {tag : BitVec 6} {c : HCmd}

/-- HEATH_SLOT_CHECK judges the slots of every target channel. -/
theorem HeathFront.slotCheck (h : HeathFront s tag c) (hready : c.ready s = true) {kind : QKind} {b : QBlock} {fw : W64} {off : Nat} {bad : List Nat}
    (hbody : c.body = .query kind b fw 0 .issued off bad) :
    let present := kind.slotted b.red = true → ∀ ch ∈ targetChans c b, (s.slotIn c.ctx ch b.slot).isSome = true
    (present → exec (.heathSlotCheck s.strand.sid tag) s = .next (s.setHeath { c with body := .query kind b fw 0 .slotOk off bad })) ∧
      (¬present → exec (.heathSlotCheck s.strand.sid tag) s = .next (s.setHeath { c with body := .query kind b fw 0 .slotMissing off bad })) := by
  intro present
  have hexec : exec (.heathSlotCheck s.strand.sid tag) s = .next (s.setHeath (s.slotCheck c)) := by
    rw [exec_heathSlotCheck, execHeathSlotCheck, h.found]
    dsimp only
    rw [if_pos hready]
    exact finish_setHeath s (s.slotCheck c)
  have hjudged : (!(kind.slotted b.red) || (targetChans c b).all fun ch => (s.slotIn c.ctx ch b.slot).isSome) = decide present := by
    rw [Bool.eq_iff_iff, decide_eq_true_eq]
    cases hslotted : kind.slotted b.red <;> simp [present, hslotted]
  have hnext : s.slotCheck c = { c with body := .query kind b fw 0 (if decide present = true then .slotOk else .slotMissing) off bad } := by
    rw [← hjudged, State.slotCheck, hbody]
    rfl
  rw [hexec, hnext]
  exact ⟨fun hp => by rw [if_pos (decide_eq_true hp)], fun hp => by rw [if_neg (by simpa using hp)]⟩

/-- HEATH_PASS1_DONE leaves the greatest score as the offset, or NaN where a bad byte feeds it. -/
theorem HeathFront.passOne (h : HeathFront s tag c) (hready : c.ready s = true) {b : QBlock} {fw : W64} {off : Nat} {bad : List Nat}
    (hbody : c.body = .query .ses b fw 0 .slotOk off bad) (hoffset : b.offset = canonNaN32) :
    let seen := s.work.recordBytes c b
    let recs := (List.range b.nrec).map (readRec s c b (fmtOf fw) bad seen)
    let spoilt := recs.any fun r => r.bad.any fun k => decide (k < b.lo)
    let o := if spoilt then canonNaN32 else sesOffset b (fun r l => recScore s b (fmtOf fw) r l) recs
    exec (.heathPass1Done s.strand.sid tag) s = .next (s.setHeath { c with body := .query .ses b fw 0 (.pass2 seen) o bad }) := by
  intro seen recs spoilt o
  have hnext : s.work.passOne c = { c with body := .query .ses b fw 0 (.pass2 seen) o bad } := by
    rw [Work.passOne, hbody]
    exact if_neg (fun hne => hne hoffset)
  rw [exec_heathPass1Done, execHeathPass1Done, h.found]
  dsimp only
  rw [if_pos hready, hnext]
  exact finish_setHeath s _

/-- An error of a query that scans no bank changes nothing. -/
theorem HeathFront.bankError_idle (h : HeathFront s tag c) {kind : QKind} {b : QBlock} {fw : W64} {st : QState} {off : Nat} {bad : List Nat}
    (hbody : c.body = .query kind b fw 0 st off bad) (hst : st = .issued ∨ st = .slotMissing) (pa : Nat) :
    exec (.heathBankError s.strand.sid tag pa) s = .next s := by
  have hscans : (!st.scans) = true := by rcases hst with rfl | rfl <;> rfl
  rw [exec_heathBankError, execHeathBankError, h.found]
  dsimp only
  rw [hbody]
  dsimp only
  split
  · rw [if_pos hscans]
    exact finish_work s
  · exact finish_work s

/-- An error in the first record that it meets poisons its line, hands it over and counts it for the query. -/
theorem HeathFront.bankError_scanning (h : HeathFront s tag c) {kind : QKind} {b : QBlock} {fw : W64} {st : QState} {off : Nat}
    {bad : List Nat} (hbody : c.body = .query kind b fw 0 st off bad) (hscans : st.scans = true) (pa q : Nat) (hq : q < b.nrec)
    (hfirst : ∀ j, j < q → overlap (pa / 32 * 32) (pa / 32 * 32 + 32) (c.physical (b.ext + j * b.stride))
      (c.physical (b.ext + j * b.stride) + b.recb) = false)
    (hmeets : overlap (pa / 32 * 32) (pa / 32 * 32 + 32) (c.physical (b.ext + q * b.stride)) (c.physical (b.ext + q * b.stride) + b.recb) = true) :
    ∃ u, exec (.heathBankError s.strand.sid tag pa) s = .next u ∧ (u.line true (pa / 64)).poison = true ∧ s.sameBytes u ∧
      u.rcv.handed.contains (true, pa / 64) = true ∧
      (∀ e ∈ s.queries, e.uid = c.uid → { c with body := .query kind b fw 0 st off ((pa / 64) :: bad) } ∈ u.queries) := by
  have hfind := find?_range (p := fun q => overlap (pa / 32 * 32) (pa / 32 * 32 + 32) (c.physical (b.ext + q * b.stride))
    (c.physical (b.ext + q * b.stride) + b.recb)) hq hmeets hfirst
  let latched := s.latch (heathBank pa) ((pa / 32 * 32 - c.physical (b.ext + q * b.stride)) * 8 / (fmtOf fw).srcA.width) (bankLine pa)
  obtain ⟨rcv, hover, hhanded⟩ := handOver_frame (latched.poisonLine true (pa / 64)) true (pa / 64)
  let after := ((latched.poisonLine true (pa / 64)).handOver true (pa / 64)).setHeath
    { c with body := .query kind b fw 0 st off ((pa / 64) :: bad) }
  have hafter : after = { latched.poisonLine true (pa / 64) with
      rcv := rcv, queries := (s.setHeath { c with body := .query kind b fw 0 st off ((pa / 64) :: bad) }).queries } := by
    simp only [after, hover]
    rfl
  have hexec : exec (.heathBankError s.strand.sid tag pa) s = .next (s.base (s.work.mod fun _ => after)) := by
    rw [← finish_mod, exec_heathBankError, execHeathBankError, h.found]
    dsimp only
    rw [hbody]
    dsimp only
    rw [hfind]
    exact congrArg s.finish (if_neg (by simp [hscans]))
  refine ⟨_, hexec, ?_, sameBytes_base s _, ?_, fun e he huid => ?_⟩
  · rw [hafter]
    exact line_poisonLine latched (pa / 64)
  · rw [hafter]
    exact hhanded
  · rw [hafter]
    exact List.mem_map.2 ⟨e, he, if_pos huid⟩

end

end Sys2Proof.Machine

namespace Sys2Proof.Machine

/-! ### Replies, broadcasts and moves (R190, R191, R194, R196, R351) -/

section
variable {s u : State} {tag : BitVec 6} {c : HCmd} {status : Nat} {d : Option Delivery}

/-- HQSTAT and the tag bit of a command done (R190). -/
theorem HeathDone.reads (h : HeathDone s u tag c status d) (hstatus : status < 256) :
    u.queries = s.queries.filter (fun e => decide (e.uid ≠ c.uid)) ∧ u.strand.tags = s.strand.tags ||| BitVec.ofNat 64 (2 ^ tag.toNat) ∧
      bitsAt u.strand.hqstat.toNat 20 6 = tag.toNat ∧ bitsAt u.strand.hqstat.toNat 8 8 = status ∧
      bitsAt u.strand.hqstat.toNat 32 8 = bitsAt s.strand.hqstat.toNat 32 8 - 1 ∧
      bitAt u.strand.hqstat.toNat 0 = (bitAt s.strand.hqstat.toNat 0 || decide (status = 3 ∨ status = 4)) := by
  rw [h.strand]
  exact ⟨h.queries, rfl, answered_hqstat s.strand tag.toNat status d tag.isLt hstatus⟩

theorem HeathDone.deliver (h : HeathDone s u tag c status d) : u.strand.deliver = s.strand.deliver ++ d.toList := by
  rw [h.strand]
  rfl

theorem HeathFront.exec_reply (h : HeathFront s tag c) (hready : c.ready s = true) :
    exec (.heathReply s.strand.sid tag) s = s.finish (s.work.replyQuery c).settle := by
  rw [exec_heathReply, execHeathReply, h.found]
  exact congrArg s.finish (if_pos hready)

/-- The answer of a query that has scanned its banks. -/
def State.answerOf (s : State) (c : HCmd) (kind : QKind) (b : QBlock) (fw : W64) (st : QState) (off : Nat) (bad : List Nat) : Reply :=
  replyOf s.work kind b (fmtOf fw) off ((List.range b.nrec).map (readRec s c b (fmtOf fw) bad (s.work.queryBytes c b st)))

/-- The banks with bad lines in a query's records. -/
def State.badBanks (s : State) (c : HCmd) (b : QBlock) (bad : List Nat) : List Nat :=
  (((List.range b.nrec).flatMap fun q => badLines s bad (c.physical (b.ext + q * b.stride)) b.recb).map fun l => heathBank (64 * l)).eraseDups

variable {kind : QKind} {b : QBlock} {fw : W64} {st : QState} {off : Nat} {bad : List Nat} {dev stop : Nat}

/-- A rejected query is answered by a header. -/
theorem replyQuery_rejected (hbody : c.body = .query kind b fw status st off bad) (henv : c.env = some (dev, stop)) (hstatus : status ≠ 0) :
    s.work.replyQuery c =
      (s.work.contextBytes c.ctx dev (replyHeader status 0 0 b.touched 0 (2 ^ 32 - 1) 0 0) 2).doneHeath c status none := by
  rw [Work.replyQuery, hbody, henv]
  exact if_pos hstatus

/-- A query whose slot is missing is answered by a header. -/
theorem replyQuery_slotMissing (hbody : c.body = .query kind b fw 0 .slotMissing off bad) (henv : c.env = some (dev, stop)) :
    s.work.replyQuery c = (s.work.contextBytes c.ctx dev (replyHeader 4 0 0 b.touched 0 (2 ^ 32 - 1) 0 0) 2).doneHeath c 4
      (some ⟨false, c.tag, 0x0A, 0, BitVec.ofNat 64 b.slot, false, none⟩) := by
  rw [Work.replyQuery, hbody, henv]
  rfl

/-- A query that has scanned its banks is answered by a header and its payload. -/
theorem replyQuery_scanned (hbody : c.body = .query kind b fw 0 st off bad) (henv : c.env = some (dev, stop)) (hscans : st.scans = true)
    (hpass : ¬(kind = .ses ∧ b.offset = canonNaN32 ∧ st = .slotOk)) :
    let a := s.answerOf c kind b fw st off bad
    let banks := s.badBanks c b bad
    let verdict := if a.nanout ≠ 0 then 3 else 0
    s.work.replyQuery c = (((s.work.latchPoison c b (fmtOf fw).srcA.width bad).contextBytes c.ctx (dev + 32) a.payload 20).contextBytes c.ctx dev
        (replyHeader verdict a.flags a.payload.length b.touched banks.length ((leastOf banks).getD (2 ^ 32 - 1)) a.nanout a.off) 2).doneHeath c
      verdict (if verdict = 3 then some ⟨false, c.tag, 0x09, 0, BitVec.ofNat 64 c.tag, false, none⟩ else none) := by
  intro a banks verdict
  rw [Work.replyQuery, hbody, henv]
  cases st with
  | issued => cases hscans
  | slotMissing => cases hscans
  | slotOk => exact if_neg hpass
  | pass2 seen => exact if_neg hpass

end

/-! ### Broadcasts -/

/-- The slot of a named channel, in the list of slots after a broadcast. -/
theorem slotIn_writeSlots (s : State) (ctx slot st ch n : Nat) (data : List Byte) (hn : n < 1024) (hst : bitAt st (n / 64) = true)
    (hch : bitAt ch (n % 64) = true) :
    (s.writeSlots ctx slot st ch data).slotIn ctx n slot = some (data ++ List.replicate (1024 - data.length) 0) := by
  let named (q : QSlot) : Bool := decide (q.chan = n) && decide (q.slot = slot) && decide (q.owner = some ctx)
  have hkept : (s.slots.filter fun q => decide (q.slot ≠ slot) || !(bitAt st (q.chan / 64) && bitAt ch (q.chan % 64))).find? named = none := by
    rw [List.find?_eq_none]
    intro q hq hnamed
    simp only [named, Bool.and_eq_true, decide_eq_true_eq] at hnamed
    obtain ⟨⟨hqn, hqslot⟩, -⟩ := hnamed
    have := (List.mem_filter.1 hq).2
    simp [hqn, hqslot, hst, hch] at this
  have hmem : n ∈ (List.range 1024).filter fun c => bitAt st (c / 64) && bitAt ch (c % 64) := by
    simp [List.mem_filter, hn, hst, hch]
  rw [State.slotIn, State.writeSlots]
  dsimp only
  rw [List.find?_append, hkept, Option.none_or]
  have hsome : (((List.range 1024).filter fun c => bitAt st (c / 64) && bitAt ch (c % 64)).map fun c =>
      (⟨c, slot, some ctx, s.rin.toNat, data ++ List.replicate (1024 - data.length) 0⟩ : QSlot)).find? named |>.isSome :=
    List.find?_isSome.2 ⟨_, List.mem_map_of_mem hmem, by simp [named]⟩
  obtain ⟨q, hq⟩ := Option.isSome_iff_exists.1 hsome
  obtain ⟨k, -, hk⟩ := List.mem_map.1 (List.mem_of_find?_eq_some hq)
  rw [hq, ← hk]
  rfl

section
variable {s : State} {tag : BitVec 6} {c : HCmd}

theorem HeathFront.bcastLands (h : HeathFront s tag c) (hready : c.ready s = true) {st ch slot : Nat} {data : List Byte}
    (hbody : c.body = .bcast st ch slot data) :
    ∃ u, exec (.hbcastLand s.strand.sid tag) s = .next u ∧ HeathDone s u tag c 0 none ∧ s.sameBytes u ∧
      ∀ n, n < 1024 → bitAt st (n / 64) = true → bitAt ch (n % 64) = true →
        u.slotIn c.ctx n slot = some (data ++ List.replicate (1024 - data.length) 0) := by
  have hland : s.work.landBcast c = (s.work.mod fun s => s.writeSlots c.ctx slot st ch data).doneHeath c 0 none := by
    rw [Work.landBcast, hbody]
  obtain ⟨u, hu, hdone, hmem, hslots⟩ := h.completes (w := s.work.mod fun s => s.writeSlots c.ctx slot st ch data)
    ⟨(s.writeSlots c.ctx slot st ch data).slots, s.hberr, s.rcv, rfl⟩ 0 none
  refine ⟨u, ?_, hdone, fun g a => by rw [hmem g]; rfl, fun n hn hst hch => ?_⟩
  · rw [exec_hbcastLand, execHbcastLand, h.found, ← hu, ← hland]
    exact congrArg s.finish (if_pos hready)
  · rw [← slotIn_writeSlots s c.ctx slot st ch n data hn hst hch, State.slotIn, State.slotIn, hslots]
    rfl

/-! ### Moves -/

/-- The lines of a move are writes to Heath alone. -/
theorem moveLines_puts (w : Work) (c : HCmd) (dst src n : Nat) (bad : Option Nat) (k : Nat) :
    ∃ ws, (w.moveLines c dst src n bad k).1 = { w with ws := w.ws ++ ws } ∧ ∀ g m, g ≠ .hm → writtenTo g ws m = m := by
  induction n generalizing w dst src k with
  | zero => exact ⟨[], by rw [List.append_nil]; rfl, fun _ _ _ => rfl⟩
  | succ n ih =>
    have hstay : ∃ ws, w = { w with ws := w.ws ++ ws } ∧ ∀ g m, g ≠ .hm → writtenTo g ws m = m :=
      ⟨[], by rw [List.append_nil], fun _ _ _ => rfl⟩
    rw [Work.moveLines]
    split
    · exact hstay
    · split
      · exact hstay
      · obtain ⟨ws, hws, helse⟩ := ih (w.put (.put .hm (c.physical dst) (w.bytes .hm (c.physical src) 64) (w.st.ownerTag c.ctx) false))
          (dst + 64) (src + 64) (k + 1)
        refine ⟨.put .hm (c.physical dst) (w.bytes .hm (c.physical src) 64) (w.st.ownerTag c.ctx) false :: ws, ?_, fun g m hg => ?_⟩
        · rw [hws, Work.put, List.append_assoc]
          rfl
        · exact (congrArg (writtenTo g ws) (if_neg hg)).trans (helse g m hg)

/-- A move that its undo log does not let end goes on with its rest. -/
theorem HeathFront.moveGoesOn (h : HeathFront s tag c) (ws : List Write) (e : HCmd) :
    ∃ u, s.finish (({ s.work with ws := ws } : Work).mod fun s => s.setHeath e).settle = .next u ∧ u.queries = (s.setHeath e).queries ∧
      u.strand = s.strand ∧ ∀ g, u.memOf g = writtenTo g ws (s.memOf g) := by
  obtain ⟨parked, hsettle⟩ := settle_quiet (({ s.work with ws := ws } : Work).mod fun s => s.setHeath e) h.live h.quiet
  rw [hsettle]
  exact ⟨_, State.finish_next s _ rfl, commit_queries s _, commit_strand s _, fun g => memOf_commit s _ g⟩

theorem HeathFront.moves (h : HeathFront s tag c) (hready : c.ready s = true) {dst src len n : Nat} {bad : Option Nat} {k : Work} {ok : Bool}
    (hbody : c.body = .move dst src len) (hlines : s.work.moveLines c dst src (len / 64) bad 0 = (k, n, ok)) :
    ∃ u, exec (.hmoveDone s.strand.sid tag bad) s = .next u ∧ u.hm = (s.commit k).hm ∧ u.fm = s.fm ∧ u.sp = s.sp ∧
      (ok = true → len / 64 ≤ n → HeathDone s u tag c 0 none) ∧ (ok = false → HeathDone s u tag c 3 none) ∧
      (ok = true → n < len / 64 → u.queries = (s.setHeath { c with body := .move (dst + 64 * n) (src + 64 * n) (len - 64 * n) }).queries ∧
        u.strand = s.strand) := by
  obtain ⟨ws, hk, helse⟩ := moveLines_puts s.work c dst src (len / 64) bad 0
  rw [hlines] at hk
  dsimp only at hk
  subst hk
  have hexec : exec (.hmoveDone s.strand.sid tag bad) s = s.finish (s.work.finishMove c bad).settle := by
    rw [exec_hmoveDone, execHmoveDone, h.found]
    exact congrArg s.finish (if_pos hready)
  have hmems {u : State} (hmem : ∀ g, u.memOf g = writtenTo g ws (s.memOf g)) :
      u.hm = (s.commit { s.work with ws := ws }).hm ∧ u.fm = s.fm ∧ u.sp = s.sp :=
    ⟨(hmem .hm).trans (memOf_commit s { s.work with ws := ws } .hm).symm,
      (hmem .fm).trans (helse .fm _ (by decide)), (hmem .sp).trans (helse .sp _ (by decide))⟩
  by_cases hon : ok = true ∧ n < len / 64
  · obtain ⟨hok, hn⟩ := hon
    have hmove : s.work.finishMove c bad = ({ s.work with ws := ws } : Work).mod fun s =>
        s.setHeath { c with body := .move (dst + 64 * n) (src + 64 * n) (len - 64 * n) } := by
      rw [Work.finishMove, hbody]
      dsimp only
      rw [hlines]
      exact if_pos (by simp [hok, hn])
    obtain ⟨u, hu, hqueries, hstrand, hmem⟩ := h.moveGoesOn ws { c with body := .move (dst + 64 * n) (src + 64 * n) (len - 64 * n) }
    obtain ⟨hhm, hfm, hsp⟩ := hmems hmem
    exact ⟨u, by rw [hexec, hmove]; exact hu, hhm, hfm, hsp, fun _ hle => absurd hn (by omega),
      fun hno => absurd (hok.symm.trans hno) (by decide), fun _ _ => ⟨hqueries, hstrand⟩⟩
  · have hmove : s.work.finishMove c bad = ({ s.work with ws := ws } : Work).doneHeath c (if ok then 0 else 3) none := by
      rw [Work.finishMove, hbody]
      dsimp only
      rw [hlines]
      exact if_neg (by simpa using hon)
    obtain ⟨u, hu, hdone, hmem, -⟩ := h.completes (w := { s.work with ws := ws }) ⟨s.slots, s.hberr, s.rcv, rfl⟩ (if ok then 0 else 3) none
    obtain ⟨hhm, hfm, hsp⟩ := hmems hmem
    refine ⟨u, by rw [hexec, hmove]; exact hu, hhm, hfm, hsp, fun hok _ => ?_, fun hno => ?_, fun hok hn => absurd ⟨hok, hn⟩ hon⟩
    · rw [if_pos hok] at hdone
      exact hdone
    · rw [if_neg (by simp [hno])] at hdone
      exact hdone

end

end Sys2Proof.Machine

namespace Sys2Proof.Machine

section
variable {s : State} {tag : BitVec 6} {c : HCmd} {kind : QKind} {b : QBlock} {fw : W64} {off : Nat} {bad : List Nat} {dev stop : Nat}

theorem HeathFront.replies_rejected (h : HeathFront s tag c) (hready : c.ready s = true) {status : Nat} {st : QState}
    (hbody : c.body = .query kind b fw status st off bad) (henv : c.env = some (dev, stop))
    (himages : ∀ x, s.ctx? c.ctx = some x → x.images = []) (hstatus : status ≠ 0) (hdev : dev % 32 = 0)
    (hallowed : s.spAllowed { ctx := c.ctx } dev = true) :
    ∃ u, exec (.heathReply s.strand.sid tag) s = .next u ∧ HeathDone s u tag c status none ∧ s.sameBytesBut u .sp dev 32 ∧
      Mem.readN u.sp dev 32 = replyHeader status 0 0 b.touched 0 (2 ^ 32 - 1) 0 0 := by
  rw [h.exec_reply hready, replyQuery_rejected hbody henv hstatus]
  exact h.replies_header dev _ status none himages hdev hallowed (length_replyHeader ..)

theorem HeathFront.replies_slotMissing (h : HeathFront s tag c) (hready : c.ready s = true)
    (hbody : c.body = .query kind b fw 0 .slotMissing off bad) (henv : c.env = some (dev, stop))
    (himages : ∀ x, s.ctx? c.ctx = some x → x.images = []) (hdev : dev % 32 = 0) (hallowed : s.spAllowed { ctx := c.ctx } dev = true) :
    ∃ u, exec (.heathReply s.strand.sid tag) s = .next u ∧
      HeathDone s u tag c 4 (some ⟨false, c.tag, 0x0A, 0, BitVec.ofNat 64 b.slot, false, none⟩) ∧ s.sameBytesBut u .sp dev 32 ∧
      Mem.readN u.sp dev 32 = replyHeader 4 0 0 b.touched 0 (2 ^ 32 - 1) 0 0 := by
  rw [h.exec_reply hready, replyQuery_slotMissing hbody henv]
  exact h.replies_header dev _ 4 _ himages hdev hallowed (length_replyHeader ..)

theorem HeathFront.replies_scanned (h : HeathFront s tag c) (hready : c.ready s = true) {st : QState}
    (hbody : c.body = .query kind b fw 0 st off bad) (henv : c.env = some (dev, stop))
    (himages : ∀ x, s.ctx? c.ctx = some x → x.images = []) (hscans : st.scans = true)
    (hpass : ¬(kind = .ses ∧ b.offset = canonNaN32 ∧ st = .slotOk)) (hdev : dev % 32 = 0) :
    let a := s.answerOf c kind b fw st off bad
    let banks := s.badBanks c b bad
    let verdict := if a.nanout ≠ 0 then 3 else 0
    a.payload.length ≤ 65536 → (∀ j, j < 32 + a.payload.length → s.spAllowed { ctx := c.ctx } (dev + j) = true) →
    ∃ u, exec (.heathReply s.strand.sid tag) s = .next u ∧
      HeathDone s u tag c verdict (if verdict = 3 then some ⟨false, c.tag, 0x09, 0, BitVec.ofNat 64 c.tag, false, none⟩ else none) ∧
      s.sameBytesBut u .sp dev (32 + a.payload.length) ∧
      Mem.readN u.sp dev 32 =
        replyHeader verdict a.flags a.payload.length b.touched banks.length ((leastOf banks).getD (2 ^ 32 - 1)) a.nanout a.off ∧
      Mem.readN u.sp (dev + 32) a.payload.length = a.payload := by
  intro a banks verdict hsize hallowed
  rw [h.exec_reply hready, replyQuery_scanned hbody henv hscans hpass]
  exact h.replies_payload b _ bad dev _ a.payload verdict _ himages hdev hallowed hsize (length_replyHeader ..)

end

/-- Settles O46: every event of a Heath command keeps to what its phase says, and each that completes the command ends in `HeathDone`. -/
theorem heathEventsComplete : Obligations.HeathEventsComplete := by
  unfold Obligations.HeathEventsComplete
  intro s tag c hlive hquiet hfound hunsaved sid done owes
  have h : HeathFront s tag c := ⟨hlive, hquiet, hfound, hunsaved⟩
  have hdone {u : State} {status : Nat} {d : Option Delivery} (hd : HeathDone s u tag c status d) (hstatus : status < 256) : done u status :=
    hd.reads hstatus
  have hnone {u : State} {status : Nat} (hd : HeathDone s u tag c status none) : owes u [] := hd.deliver
  obtain ⟨-, htag⟩ := h.named
  refine ⟨fun hready => ⟨?_, ?_, ?_, ?_⟩, ?_, ?_, ?_⟩
  · intro kind b fw off bad hbody
    exact h.slotCheck hready hbody
  · intro kind b fw status st off bad dev stop hbody henv himages
    refine ⟨fun hne hstatus hdev hallowed => ?_, fun hs hst hdev hallowed => ?_, ?_⟩
    · obtain ⟨u, hu, hd, hrest⟩ := h.replies_rejected hready hbody henv himages hne hdev hallowed
      exact ⟨u, hu, hdone hd hstatus, hnone hd, hrest⟩
    · subst hs hst
      obtain ⟨u, hu, hd, hrest⟩ := h.replies_slotMissing hready hbody henv himages hdev hallowed
      refine ⟨u, hu, hdone hd (by decide), ?_, hrest⟩
      rw [htag] at hd
      exact hd.deliver
    · intro hs hscans hpass recs a n lines banks verdict hdev hsize hallowed
      subst hs
      obtain ⟨u, hu, hd, hrest⟩ := h.replies_scanned hready hbody henv himages hscans hpass hdev hsize hallowed
      have hverdict : verdict < 256 := by
        simp only [verdict]
        split <;> decide
      refine ⟨u, hu, hdone hd hverdict, ?_, hrest⟩
      have hdeliver : u.strand.deliver = s.strand.deliver ++
        (if verdict = 3 then some (⟨false, c.tag, 0x09, 0, BitVec.ofNat 64 c.tag, false, none⟩ : Delivery) else none).toList := hd.deliver
      by_cases hthree : verdict = 3
      · rw [if_pos hthree] at hdeliver ⊢
        rw [htag, BitVec.ofNat_toNat] at hdeliver
        exact hdeliver
      · rw [if_neg hthree] at hdeliver ⊢
        exact hdeliver
  · intro st ch slot data hbody _
    obtain ⟨u, hu, hd, hrest⟩ := h.bcastLands hready hbody
    exact ⟨u, hu, hdone hd (by decide), hnone hd, hrest⟩
  · intro dst src len bad k n ok hbody hlines
    obtain ⟨u, hu, hhm, hfm, hsp, hend, hbad, hon⟩ := h.moves hready hbody hlines
    exact ⟨u, hu, hhm, hfm, hsp, fun hok hle => ⟨hdone (hend hok hle) (by decide), hnone (hend hok hle)⟩,
      fun hno => ⟨hdone (hbad hno) (by decide), hnone (hbad hno)⟩, hon⟩
  · intro b fw off bad hready hbody hoffset
    exact h.passOne hready hbody hoffset
  · intro kind b fw st off bad pa hbody hst
    exact h.bankError_idle hbody hst pa
  · intro kind b fw st off bad pa q hbody hscans hq hfirst hmeets
    exact h.bankError_scanning hbody hscans pa q hq hfirst hmeets

end Sys2Proof.Machine

/-! PROOFS. Tiles: what their words read, and the words that zero, move and convert them (spec/08 R168, R172 to R177). -/

namespace Sys2Proof.Machine

/-! ### Words of a tile -/

theorem lanesFor_length_le (c : Core) (g : Place) : (c.lanesFor g).length ≤ 16 := by
  simp only [Core.lanesFor]
  split
  · exact (List.length_filter_le ..).trans (lanesFrom_length_le ..)
  · split
    · exact (List.length_filter_le ..).trans (lanesFrom_length_le ..)
    · exact lanesFrom_length_le ..

/-- A tile has at most 128 rows (R168). -/
theorem tlen_le (s : State) (g : Place) : s.tlen g ≤ 128 := by
  have := lanesFor_length_le (s.core g.core) g
  simp only [State.tlen]
  omega

/-- A field of a number kept to a width above it. -/
theorem bitsAt_mod (v lo n m : Nat) (h : lo + n ≤ m) : bitsAt (v % 2 ^ m) lo n = bitsAt v lo n := by
  apply Nat.eq_of_testBit_eq
  intro j
  rw [testBit_bitsAt, testBit_bitsAt, Nat.testBit_mod_two_pow]
  by_cases hj : j < n
  · rw [decide_eq_true (show lo + j < m by omega), Bool.true_and]
  · rw [decide_eq_false hj, Bool.false_and, Bool.false_and]

theorem bitsAt_ofNat (v lo n m : Nat) (h : lo + n ≤ m) : bitsAt (BitVec.ofNat m v).toNat lo n = bitsAt v lo n := by
  rw [BitVec.toNat_ofNat, bitsAt_mod v lo n m h]

theorem bitsAt_packWords (l : List Nat) (k : Nat) : bitsAt (packWords l) (k * 32) 32 = l.getD k 0 % 2 ^ 32 := by
  induction l generalizing k with
  | nil => simp [packWords, bitsAt]
  | cons w l ih =>
    cases k with
    | zero =>
      simp only [packWords, bitsAt, Nat.zero_mul, Nat.pow_zero, Nat.div_one, List.getD_cons_zero]
      omega
    | succ k =>
      have hrest : packWords (w :: l) / 2 ^ 32 = packWords l := by
        simp only [packWords]
        omega
      rw [List.getD_cons_succ, ← ih k, bitsAt, bitsAt, show (k + 1) * 32 = 32 + k * 32 by omega, Nat.pow_add, ← Nat.div_div_eq_div_mul, hrest]

/-- A word of a tile given by a list of words. -/
theorem tileWord_packed (l : List Nat) (i j : Nat) (hi : i < 128) (hj : j < 128) :
    tileWord (BitVec.ofNat 524288 (packWords l)) i j = l.getD (i * 128 + j) 0 % 2 ^ 32 := by
  rw [tileWord, bitsAt_ofNat _ _ _ _ (by omega), bitsAt_packWords]

/-- An entry of rows of one length laid end to end. -/
theorem getD_rows {α : Type} (l : List α) (f : α → List Nat) (m i j : Nat) (hm : ∀ x ∈ l, (f x).length = m) (hi : i < l.length) (hj : j < m) :
    (l.flatMap f).getD (i * m + j) 0 = (f l[i]).getD j 0 := by
  induction l generalizing i with
  | nil => simp at hi
  | cons x l ih =>
    have hx := hm x (List.mem_cons_self ..)
    rw [List.flatMap_cons]
    cases i with
    | zero => rw [Nat.zero_mul, Nat.zero_add, List.getD_append _ _ _ _ (by omega), List.getElem_cons_zero]
    | succ i =>
      rw [List.getD_append_right _ _ _ _ (by rw [hx, Nat.succ_mul]; omega), hx, show (i + 1) * m + j - m = i * m + j by rw [Nat.succ_mul]; omega,
        List.getElem_cons_succ]
      exact ih i (fun y hy => hm y (List.mem_cons_of_mem _ hy)) (by simpa using hi)

theorem getD_map_range (n j : Nat) (f : Nat → Nat) (hj : j < n) : ((List.range n).map f).getD j 0 = f j := by
  simp [List.getD_eq_getElem?_getD, hj]

theorem tileWord_tileFrom (n : Nat) (f : Nat → Nat → Nat) (hn : n ≤ 128) (i j : Nat) (hi : i < n) (hj : j < n) :
    tileWord (tileFrom n f) i j = f i j % 2 ^ 32 := by
  rw [tileFrom, tileWord_packed _ _ _ (by omega) (by omega), getD_rows _ _ 128 i j (by simp) (by simpa using hi) (by omega), List.getElem_range,
    getD_map_range _ _ _ (by omega), if_pos hj]

theorem tileWord_tileFlags (n : Nat) (f : Nat → Nat → Nat × Flags) (hn : n ≤ 128) (i j : Nat) (hi : i < n) (hj : j < n) :
    tileWord (tileFlags n f).1 i j = (f i j).1 % 2 ^ 32 := by
  have hrows (r : List (Nat × Flags)) (hr : r ∈ (List.range n).map fun i => (List.range n).map fun j => f i j) :
      (r.map Prod.fst ++ List.replicate (128 - n) 0).length = 128 := by
    obtain ⟨k, -, rfl⟩ := List.mem_map.1 hr
    simp only [List.length_append, List.length_map, List.length_range, List.length_replicate]
    omega
  simp only [tileFlags]
  rw [tileWord_packed _ _ _ (by omega) (by omega), getD_rows _ _ 128 i j hrows (by simpa using hi) (by omega), List.getElem_map, List.getElem_range,
    List.getD_append _ _ _ _ (by simpa using hj), List.map_map]
  exact congrArg (· % 2 ^ 32) (getD_map_range n j _ hj)

theorem tileWord_zero (i j : Nat) : tileWord 0 i j = 0 := by
  have hzero : (0 : TileReg).toNat = 0 := BitVec.toNat_zero
  rw [tileWord, hzero, bitsAt, Nat.zero_div, Nat.zero_mod]

/-- A row of a tile replaced. -/
theorem tileWord_setRow (v : TileReg) (n r x i j : Nat) (hn : n ≤ 128) (hr : r < 128) (hi : i < 128) (hj : j < n) :
    tileWord (BitVec.ofNat 524288 (setBits v.toNat (r * 4096) (32 * n) x)) i j = if i = r then bitsAt x (j * 32) 32 else tileWord v i j := by
  rw [tileWord, bitsAt_ofNat _ _ _ _ (by omega)]
  apply Nat.eq_of_testBit_eq
  intro p
  rw [testBit_bitsAt, testBit_setBits]
  by_cases hp : p < 32
  · by_cases hir : i = r
    · subst hir
      rw [if_pos (by omega), if_pos rfl, testBit_bitsAt, show (i * 128 + j) * 32 + p - i * 4096 = j * 32 + p by omega]
    · rw [if_neg (by omega), if_neg hir, tileWord, testBit_bitsAt]
  · rw [decide_eq_false hp, Bool.false_and]
    split
    · rw [testBit_bitsAt, decide_eq_false hp, Bool.false_and]
    · rw [tileWord, testBit_bitsAt, decide_eq_false hp, Bool.false_and]

end Sys2Proof.Machine

namespace Sys2Proof.Machine

/-! ### A step that leaves a tile -/

/-- Writes to scratchpad alone. -/
def PadWrites (ws : List Write) : Prop := ∀ x ∈ ws, ∃ a bs o raw, x = .put .sp a bs o raw

theorem Core.SameButDirty.tiles {c d : Core} (h : c.SameButDirty d) : d.tiles = c.tiles := by
  obtain ⟨_, _, rfl⟩ := h
  rfl

/-- Writes to scratchpad leave the tiles of every core. -/
theorem commit_tiles (s : State) (w : Work) (h : PadWrites w.ws) (c : Nat) : ((s.commit w).core c).tiles = (w.st.core c).tiles := by
  have fold : ∀ (l : List Write) (b : State), PadWrites l → ((l.foldl applyWrite b).core c).tiles = (b.core c).tiles := by
    intro l
    induction l with
    | nil => exact fun _ _ => rfl
    | cons x l ih =>
      intro b hl
      obtain ⟨a, bs, o, raw, rfl⟩ := hl x (List.mem_cons_self ..)
      exact (ih _ fun y hy => hl y (List.mem_cons_of_mem _ hy)).trans (scratchpadPut_core b a bs o raw c).tiles
  exact fold w.ws (s.base w) h

theorem getD_set (v : Vector TileReg 4) (p j : Nat) (x : TileReg) (hp : p < 4) :
    (v.set p x hp).getD j 0 = if j = p then x else v.getD j 0 := by
  by_cases hj : j < 4
  · by_cases hjp : j = p
    · subst hjp
      simp [Vector.getD, hj]
    · simp [Vector.getD, hj, hjp, Ne.symm hjp]
  · rw [if_neg (show j ≠ p by omega)]
    simp [Vector.getD, hj]

/-- The tiles of every core, where one tile has been written. -/
theorem tiles_setTile (s : State) (g : Place) (t : Nat) (v : TileReg) (hp : g.phys t < 4) (c j : Nat) :
    ((s.setTile g t v).core c).tiles.getD j 0 = if c = g.core ∧ j = g.phys t then v else (s.core c).tiles.getD j 0 := by
  simp only [State.setTile, dif_pos hp, State.core_setCore, State.core_id]
  by_cases hc : g.core = c
  · subst hc
    rw [if_pos rfl, getD_set]
    simp only [true_and]
  · rw [if_neg hc, if_neg fun h => hc h.1.symm]

theorem setTile_cores (s : State) (g : Place) (t : Nat) (v : TileReg) : ∃ cores, s.setTile g t v = { s with cores := cores } := by
  unfold State.setTile
  dsimp only
  split
  · exact ⟨_, rfl⟩
  · exact ⟨s.cores, rfl⟩

/-! ### A word of kind A outside a strip -/

/-- Outside an open strip a word only notes the registers that it touches. -/
theorem touchRegs_outside (s : State) (h : s.strand.buffering = false) (rv wv rk wk rt wt : List Nat) :
    ∃ n : Notes, s.work.touchRegs rv wv rk wk rt wt = s.midway s.cores (s.strand.noted n) [] ∧ n.vstart = s.strand.vstart ∧
      n.buffering = false := by
  let t := s.strand
  let n : Notes := ⟨t.snap, t.vstart, t.done, t.buffering, orBits t.liveV (rv.filter fun i => !t.wrV.getLsbD i),
    orBits t.liveK (rk.filter fun i => !t.wrK.getLsbD i), orBits t.liveT (rt.filter fun i => !t.wrT.getLsbD i), orBits t.wrV wv, orBits t.wrK wk,
    orBits t.wrT wt⟩
  refine ⟨n, ?_, rfl, h⟩
  have hkept : (s.work.upd fun s => { s with
      liveV := orBits s.liveV (rv.filter fun i => !s.wrV.getLsbD i), liveK := orBits s.liveK (rk.filter fun i => !s.wrK.getLsbD i),
      liveT := orBits s.liveT (rt.filter fun i => !s.wrT.getLsbD i) }).cur.buffering = false := h
  rw [Work.touchRegs]
  rw [hkept, Bool.false_and, if_neg (by decide)]
  rfl

/-- What a word of kind A leaves of the strand, given its strand before it retires. -/
structure TileWordDone (s u : State) (r : Strand) : Prop where
  pc : u.strand.pc = s.strand.pc + 4
  x : u.strand.x = s.strand.x
  specials : u.strand.specials = s.strand.specials
  vectors : u.strand.vectors = r.vectors
  fflags : u.strand.fflags = r.fflags

theorem retired_outside (t : Strand) (target : W64) (h : t.loop = none) :
    t.retired target = { t with pc := target, waiting := .none, waitT := 0, cvret := t.cvret + 1, started := true } := by
  have hgo : t.goTo target = { t with pc := target } := by simp only [Strand.goTo, h]
  unfold Strand.retired
  rw [hgo]

/-- A word of kind A that changes vectors, flags and tiles, and makes writes to scratchpad. -/
theorem finish_tileWord (s : State) (hplain : s.strand.plain = true) (cores : List Core) (r : Strand) (n : Notes) (ws : List Write)
    (hr : s.strand.SameButVectors r) (hn : n.vstart = s.strand.vstart) (hws : PadWrites ws) :
    ∃ u, s.finish (s.midway cores (r.noted n) ws).retire = .next u ∧ TileWordDone s u r ∧ (∀ g, u.memOf g = writtenTo g ws (s.memOf g)) ∧
      ∀ c, (u.core c).tiles = (({ s with cores := cores } : State).core c).tiles := by
  obtain ⟨hpc, hx, hspecials, hvstart, hloopKept⟩ : r.pc = s.strand.pc ∧ r.x = s.strand.x ∧ r.specials = s.strand.specials ∧
      r.vstart = s.strand.vstart ∧ r.loop = s.strand.loop := by
    obtain ⟨_, _, rfl⟩ := hr
    exact ⟨rfl, rfl, rfl, rfl, rfl⟩
  have hloop : r.loop = none := by
    simp only [Strand.plain, Bool.and_eq_true, Option.isNone_iff_eq_none] at hplain
    exact hloopKept.trans hplain.1.1.1.1.1
  refine ⟨_, State.finish_next s _ rfl, ?_, fun g => memOf_commit s _ g, fun c => commit_tiles s _ hws c⟩
  have hstrand : (s.commit (s.midway cores (r.noted n) ws).retire).strand =
      { (r.noted n) with pc := r.pc + 4, waiting := .none, waitT := 0, cvret := r.cvret + 1, started := true } := by
    rw [commit_strand, Work.retire, retireTo_cur_eq]
    exact retired_outside (r.noted n) (r.pc + 4) hloop
  refine ⟨?_, ?_, ?_, ?_, ?_⟩
  · rw [hstrand, ← hpc]
  · rw [hstrand, ← hx]
    rfl
  · rw [hstrand, ← hspecials]
    rfl
  · rw [hstrand, Strand.vectors, Strand.vectors, hvstart, ← hn]
    rfl
  · rw [hstrand]
    rfl

end Sys2Proof.Machine

namespace Sys2Proof.Machine

/-! ### Fields of the bytes of a row -/

theorem readN_low (m : Mem) (a n z : Nat) (h : z ≤ n) : leNat (Mem.readN m a n) % 2 ^ (8 * z) = leNat (Mem.readN m a z) := by
  induction z generalizing a n with
  | zero => simp [Mem.readN, leNat, Nat.mod_one]
  | succ z ih =>
    obtain ⟨k, rfl⟩ : ∃ k, n = k + 1 := ⟨n - 1, by omega⟩
    have hbyte : (Mem.read m a).toNat < 256 := (Mem.read m a).isLt
    have hrest : leNat (Mem.readN m (a + 1) k) % 2 ^ (8 * z) = leNat (Mem.readN m (a + 1) z) := ih (a + 1) k (by omega)
    have hshift : ((Mem.read m a).toNat + 256 * leNat (Mem.readN m (a + 1) k)) / 2 ^ 8 = leNat (Mem.readN m (a + 1) k) := by omega
    simp only [Mem.readN, leNat]
    rw [← hrest, show 8 * (z + 1) = 8 + 8 * z by omega, Nat.pow_add, Nat.mod_mul, hshift]
    omega

/-- A field of whole bytes of bytes read. -/
theorem bitsAt_readN (m : Mem) (a n p z : Nat) (h : p + z ≤ n) :
    bitsAt (leNat (Mem.readN m a n)) (8 * p) (8 * z) = leNat (Mem.readN m (a + p) z) := by
  induction p generalizing a n with
  | zero =>
    rw [bitsAt, Nat.mul_zero, Nat.pow_zero, Nat.div_one]
    exact readN_low m a n z (by omega)
  | succ p ih =>
    obtain ⟨k, rfl⟩ : ∃ k, n = k + 1 := ⟨n - 1, by omega⟩
    have hrest : leNat (Mem.readN m a (k + 1)) / 2 ^ 8 = leNat (Mem.readN m (a + 1) k) := by
      have hbyte : (Mem.read m a).toNat < 256 := (Mem.read m a).isLt
      simp only [Mem.readN, leNat]
      omega
    rw [bitsAt, show 8 * (p + 1) = 8 + 8 * p by omega, Nat.pow_add, ← Nat.div_div_eq_div_mul, hrest, show a + (p + 1) = a + 1 + p by omega]
    exact ih (a + 1) k (by omega)

theorem leNat_readN_lt (m : Mem) (a n : Nat) : leNat (Mem.readN m a n) < 2 ^ (8 * n) := by
  rw [← readN_low m a n n (by omega)]
  exact Nat.mod_lt _ (Nat.two_pow_pos _)

/-! ### The rows of a tile move (R174) -/

theorem tileRows_rows (w : Work) (base pitch len : Nat) (rows l : List Nat) (h : tileRows w base pitch len rows = .ok l) :
    l.length = rows.length ∧ ∀ dev ∈ l, w.st.spAllowed w.cur.g dev = true ∧ w.st.spAllowed w.cur.g (dev + len - 1) = true := by
  induction rows generalizing l with
  | nil =>
    cases h
    exact ⟨rfl, fun _ hd => nomatch hd⟩
  | cons r rows ih =>
    rw [tileRows] at h
    cases hm : w.st.meadow w.cur.g (BitVec.ofNat 64 (base + r * pitch)) len with
    | error t => simp [hm] at h
    | ok dev =>
      cases hr : tileRows w base pitch len rows with
      | error e => simp [hm, hr] at h
      | ok rest =>
        simp only [hm, hr, Except.ok.injEq] at h
        subst h
        obtain ⟨hlen, hrest⟩ := ih rest hr
        have hdev : w.st.spAllowed w.cur.g dev = true ∧ w.st.spAllowed w.cur.g (dev + len - 1) = true := by
          simpa using meadow_allowed w.st w.cur.g _ len dev hm
        refine ⟨by simp [hlen], fun x hx => ?_⟩
        obtain rfl | hx := List.mem_cons.1 hx
        · exact hdev
        · exact hrest x hx

theorem tilePlace_rows (w : Work) (a : Reg) (align rows len : Nat) (l : List Nat) (h : tilePlace w a align rows len = .ok l) :
    l.length = rows ∧ ∀ dev ∈ l, w.st.spAllowed w.cur.g dev = true ∧ w.st.spAllowed w.cur.g (dev + len - 1) = true := by
  unfold tilePlace at h
  dsimp only at h
  split at h
  · cases h
  · split at h
    · cases h
    · split at h
      · cases h
      · split at h
        · cases h
        · next rest hrows =>
          split at h
          · cases h
          · cases h
            obtain ⟨hlen, hall⟩ := tileRows_rows w _ _ _ _ _ hrows
            exact ⟨hlen.trans List.length_range, hall⟩

/-! ### The words -/

theorem tileWordOn_next (i : Instr) (t : Reg) (run : Work → Except Stop Work) (s : State) (k : Work) (hready : s.work.tileChecks i t = none)
    (hrun : run s.work = .ok k) : tileWordOn i t run s = s.finish k.retire := by
  rw [tileWordOn, hready]
  dsimp only
  rw [hrun]

theorem setTile_midway (s : State) (u : Strand) (ws : List Write) (t : Nat) (v : TileReg) (hp : u.g.phys t < 4) :
    (s.midway s.cores u ws).mod (fun st => st.setTile st.strand.g t v) = s.midway (s.setTile u.g t v).cores u ws := by
  have hset : s.setTile u.g t v =
      s.setCore { s.core u.g.core with tiles := (s.core u.g.core).tiles.set (u.g.phys t) v hp } := dif_pos hp
  rw [hset]
  exact congrArg (fun st => ({ st := st, ws := ws, absent := false } : Work)) (dif_pos hp)

/-- Every tile but one is as before. -/
def State.OtherTiles (s u : State) (g : Place) (t : Nat) : Prop :=
  ∀ c j, ¬(c = g.core ∧ j = g.phys t) → (u.core c).tiles.getD j 0 = (s.core c).tiles.getD j 0

section
variable {s : State} {i : Instr} {t : Reg} {run : Work → Except Stop Work} {r : Strand} {n : Notes}

/-- A word of kind A that leaves a tile. -/
theorem tileWordOn_writes (hplain : s.strand.plain = true) (hp : s.strand.g.phys t.toNat < 4) (hready : s.work.tileChecks i t = none)
    (hr : s.strand.SameButVectors r) (hn : n.vstart = s.strand.vstart) (v : TileReg)
    (hrun : run s.work = .ok (s.midway (s.setTile s.strand.g t.toNat v).cores (r.noted n) [])) :
    ∃ u, tileWordOn i t run s = .next u ∧ TileWordDone s u r ∧ s.sameBytes u ∧ u.tile s.strand.g t.toNat = v ∧
      s.OtherTiles u s.strand.g t.toNat := by
  obtain ⟨u, hu, hdone, hmem, htiles⟩ := finish_tileWord s hplain (s.setTile s.strand.g t.toNat v).cores r n [] hr hn (fun _ hx => nomatch hx)
  obtain ⟨cores, hset⟩ := setTile_cores s s.strand.g t.toNat v
  have htile (c j : Nat) : (u.core c).tiles.getD j 0 =
      if c = s.strand.g.core ∧ j = s.strand.g.phys t.toNat then v else (s.core c).tiles.getD j 0 := by
    rw [← tiles_setTile s s.strand.g t.toNat v hp, htiles c, hset]
  refine ⟨u, (tileWordOn_next i t run s _ hready hrun).trans hu, hdone, fun g a => by rw [hmem g]; rfl, ?_, fun c j hne => ?_⟩
  · rw [State.tile, htile, if_pos ⟨rfl, rfl⟩]
  · rw [htile, if_neg hne]

/-- A word of kind A that leaves every tile. -/
theorem tileWordOn_keeps (hplain : s.strand.plain = true) (hready : s.work.tileChecks i t = none)
    (hr : s.strand.SameButVectors r) (hn : n.vstart = s.strand.vstart) {ws : List Write} (hws : PadWrites ws)
    (hrun : run s.work = .ok (s.midway s.cores (r.noted n) ws)) :
    ∃ u, tileWordOn i t run s = .next u ∧ TileWordDone s u r ∧ (∀ g, u.memOf g = writtenTo g ws (s.memOf g)) ∧
      u.tile s.strand.g t.toNat = s.tile s.strand.g t.toNat ∧ s.OtherTiles u s.strand.g t.toNat := by
  obtain ⟨u, hu, hdone, hmem, htiles⟩ := finish_tileWord s hplain s.cores r n ws hr hn hws
  have hall (c : Nat) : (u.core c).tiles = (s.core c).tiles := htiles c
  exact ⟨u, (tileWordOn_next i t run s _ hready hrun).trans hu, hdone, hmem, by rw [State.tile, hall]; rfl, fun c j _ => by rw [hall]⟩

/-- A word of kind A that leaves every tile and every byte. -/
theorem tileWordOn_reads (hplain : s.strand.plain = true) (hready : s.work.tileChecks i t = none)
    (hr : s.strand.SameButVectors r) (hn : n.vstart = s.strand.vstart) (hrun : run s.work = .ok (s.midway s.cores (r.noted n) [])) :
    ∃ u, tileWordOn i t run s = .next u ∧ TileWordDone s u r ∧ s.sameBytes u ∧
      u.tile s.strand.g t.toNat = s.tile s.strand.g t.toNat ∧ s.OtherTiles u s.strand.g t.toNat := by
  obtain ⟨u, hu, hdone, hmem, hrest⟩ := tileWordOn_keeps hplain hready hr hn (ws := []) (fun _ hx => nomatch hx) hrun
  exact ⟨u, hu, hdone, fun g a => by rw [hmem g]; rfl, hrest⟩

end

end Sys2Proof.Machine

namespace Sys2Proof.Machine

section
variable {s : State} {t a b xf : Reg} {l : List Nat}

theorem Strand.SameButVectors.refl (t : Strand) : t.SameButVectors t := ⟨t.v, t.fflags, rfl⟩

theorem Strand.SameButVectors.eachWritten {t r : Strand} (h : t.SameButVectors r) (d : Reg) (width : Nat) (l : List Nat)
    (f : Strand → Nat → Nat × Flags) : t.SameButVectors (r.eachWritten d width l f) := by
  induction l generalizing r with
  | nil => exact h
  | cons j l ih => exact ih ((h.setElt d width j _).raise _)

theorem Strand.SameButVectors.k {t r : Strand} (h : t.SameButVectors r) : r.k = t.k := by
  obtain ⟨_, _, rfl⟩ := h
  rfl

theorem mzero_leaves (hplain : s.strand.plain = true) (hp : s.strand.g.phys t.toNat < 4) (hready : s.work.tileChecks (.mzero t) t = none) :
    ∃ u, exec (.mzero t) s = .next u ∧ TileWordDone s u s.strand ∧ s.sameBytes u ∧ u.tile s.strand.g t.toNat = 0 ∧
      s.OtherTiles u s.strand.g t.toNat := by
  obtain ⟨n, htouch, hn, -⟩ := touchRegs_outside s (free_of_plain _ hplain).buffering [] [] [] [] [] [t.toNat]
  rw [exec_mzero, execMzero]
  refine tileWordOn_writes hplain hp hready (.refl _) hn 0 ?_
  rw [htouch]
  exact congrArg Except.ok (setTile_midway s (s.strand.noted n) [] t.toNat 0 hp)

/-- A tile load whose rows pass their checks and are free of the strand's commands. -/
theorem tileLoad_leaves (i : Instr) (align : Nat) (rows len : Nat → Nat) (word : List Nat → Nat → Nat → Nat) (hplain : s.strand.plain = true)
    (hp : s.strand.g.phys t.toNat < 4) (hready : s.work.tileChecks i t = none)
    (hplace : tilePlace s.work a align (rows (s.tlen s.strand.g)) (len (s.tlen s.strand.g)) = .ok l)
    (hclear : ∀ dev ∈ l, s.readBlockers dev (dev + len (s.tlen s.strand.g)) = []) :
    ∃ u, tileLoad i t a align rows len word s = .next u ∧ TileWordDone s u s.strand ∧ s.sameBytes u ∧
      u.tile s.strand.g t.toNat =
        tileFrom (s.tlen s.strand.g) (word (l.map fun dev => leNat (Mem.readN s.sp dev (len (s.tlen s.strand.g))))) ∧
      s.OtherTiles u s.strand.g t.toNat := by
  have hfree := free_of_plain _ hplain
  obtain ⟨n, htouch, hn, -⟩ := touchRegs_outside s hfree.buffering [] [] [] [] [] [t.toNat]
  unfold tileLoad
  refine tileWordOn_writes hplain hp hready (.refl _) hn _ ?_
  have hload : s.work.loadGate 6 = .ok () := loadGate_of_none _ _ hfree.holds hfree.pend hfree.remotes
  have hread : (l.findSome? fun dev => gateStop (s.work.readGate 6 dev (len (s.tlen s.strand.g)))) = none := by
    rw [List.findSome?_eq_none_iff]
    intro dev hdev
    have hblock : s.work.st.readBlockers dev (dev + len (s.tlen s.strand.g)) = [] := hclear dev hdev
    rw [Work.readGate, if_pos rfl, hblock]
    rfl
  have hbytes (dev k : Nat) : s.work.ownBytes .sp dev k = Mem.readN s.sp dev k := ownBytes_of_none _ .sp dev k rfl hfree.pend hfree.buf (by decide)
  dsimp only
  rw [hplace]
  dsimp only
  rw [hload, hread]
  dsimp only
  rw [htouch]
  simp only [hbytes]
  exact congrArg Except.ok (setTile_midway s (s.strand.noted n) [] t.toNat _ hp)

theorem mcvt_leaves (hplain : s.strand.plain = true) (hp : s.strand.g.phys t.toNat < 4) (hready : s.work.tileChecks (.mcvt t xf) t = none)
    (hok : okMcvt (fmtOf (s.strand.rx xf)) = true) :
    let f := fmtOf (s.strand.rx xf)
    let made := tileFlags (s.tlen s.strand.g) fun i j =>
      convertCode f.srcA f.dst f.rm f.sat (tileWord (s.tile s.strand.g t.toNat) i j)
    ∃ u, exec (.mcvt t xf) s = .next u ∧ TileWordDone s u (s.strand.raise made.2) ∧ s.sameBytes u ∧ u.tile s.strand.g t.toNat = made.1 ∧
      s.OtherTiles u s.strand.g t.toNat := by
  intro f made
  obtain ⟨n, htouch, hn, -⟩ := touchRegs_outside s (free_of_plain _ hplain).buffering [] [] [] [] [t.toNat] [t.toNat]
  rw [exec_mcvt, execMcvt]
  refine tileWordOn_writes hplain hp hready ((Strand.SameButVectors.refl _).raise made.2) hn made.1 ?_
  rw [if_neg (by simp [hok])]
  dsimp only
  rw [htouch, setTile_midway s (s.strand.noted n) [] t.toNat _ hp]
  rfl

/-- Row words find their vector register free of a `cget` in flight. -/
theorem vectorFree_of_none (h : s.getBlockers [a.toNat] = []) : vectorFree s.work a = .ok () := by
  have hget : s.work.st.getBlockers [a.toNat] = [] := h
  rw [vectorFree, hget]
  rfl

theorem mroww_leaves (hplain : s.strand.plain = true) (hp : s.strand.g.phys t.toNat < 4) (hready : s.work.tileChecks (.mroww t a b) t = none)
    (hrow : (s.strand.rx b).toNat < s.tlen s.strand.g) (hget : s.getBlockers [a.toNat] = []) :
    ∃ u, exec (.mroww t a b) s = .next u ∧ TileWordDone s u s.strand ∧ s.sameBytes u ∧
      u.tile s.strand.g t.toNat = BitVec.ofNat 524288 (setBits (s.tile s.strand.g t.toNat).toNat ((s.strand.rx b).toNat * 4096)
        (32 * s.tlen s.strand.g) (packWords ((List.range (s.tlen s.strand.g)).map fun j => s.strand.elt a 32 j))) ∧
      s.OtherTiles u s.strand.g t.toNat := by
  obtain ⟨n, htouch, hn, -⟩ := touchRegs_outside s (free_of_plain _ hplain).buffering [a.toNat] [] [] [] [] [t.toNat]
  rw [exec_mroww, execMroww]
  refine tileWordOn_writes hplain hp hready (.refl _) hn _ ?_
  rw [if_neg (by omega), vectorFree_of_none hget]
  dsimp only
  rw [htouch]
  exact congrArg Except.ok (setTile_midway s (s.strand.noted n) [] t.toNat _ hp)

theorem mrowr_leaves (hplain : s.strand.plain = true) (hready : s.work.tileChecks (.mrowr t a b) t = none)
    (hrow : (s.strand.rx b).toNat < s.tlen s.strand.g) (hget : s.getBlockers [a.toNat] = []) :
    ∃ u, exec (.mrowr t a b) s = .next u ∧ TileWordDone s u (s.strand.eachWritten a 32 (List.range (s.tlen s.strand.g)) fun _ j =>
        (tileWord (s.tile s.strand.g t.toNat) (s.strand.rx b).toNat j, 0)) ∧ s.sameBytes u ∧
      u.tile s.strand.g t.toNat = s.tile s.strand.g t.toNat ∧ s.OtherTiles u s.strand.g t.toNat := by
  let code (j : Nat) : Nat × Flags := (tileWord (s.tile s.strand.g t.toNat) (s.strand.rx b).toNat j, 0)
  obtain ⟨n, htouch, hn, -⟩ := touchRegs_outside s (free_of_plain _ hplain).buffering [] [a.toNat] [] [] [t.toNat] []
  have hfold : ∀ (l : List Nat) (r : Strand), l.foldl (fun k j => k.setElt a 32 j (code j)) (s.midway s.cores (r.noted n) []) =
      s.midway s.cores ((r.eachWritten a 32 l fun _ j => code j).noted n) [] := by
    intro l
    induction l with
    | nil => exact fun r => rfl
    | cons j l ih =>
      intro r
      rw [List.foldl_cons, midway_setElt]
      exact ih _
  rw [exec_mrowr, execMrowr]
  refine tileWordOn_reads hplain hready ((Strand.SameButVectors.refl _).eachWritten a 32 (List.range (s.tlen s.strand.g)) fun _ j => code j) hn ?_
  rw [if_neg (by omega), vectorFree_of_none hget]
  dsimp only
  rw [htouch]
  exact congrArg Except.ok (hfold _ _)

end

end Sys2Proof.Machine

namespace Sys2Proof.Machine

/-! ### The rows of `mst` (R175) -/

/-- The write of a tile's row at its place. -/
def rowWrite (v : TileReg) (n : Nat) (r : Nat × Nat) : Write := .put .sp r.1 (leBytes (4 * n) (bitsAt v.toNat (r.2 * 4096) (32 * n))) 0 false

theorem rowWrites_pad (v : TileReg) (n : Nat) (l : List (Nat × Nat)) : PadWrites (l.map (rowWrite v n)) := by
  intro x hx
  obtain ⟨r, -, rfl⟩ := List.mem_map.1 hx
  exact ⟨_, _, _, _, rfl⟩

theorem writtenTo_rows (v : TileReg) (n : Nat) (l : List (Nat × Nat)) (m : Mem) :
    writtenTo .sp (l.map (rowWrite v n)) m =
      l.foldl (fun m r => Mem.write m r.1 (leBytes (4 * n) (bitsAt v.toNat (r.2 * 4096) (32 * n)))) m := by
  simp only [writtenTo, List.foldl_map, rowWrite, if_true]

theorem writtenTo_rows_elsewhere (v : TileReg) (n : Nat) (l : List (Nat × Nat)) (g : Tgt) (hg : g ≠ .sp) (m : Mem) :
    writtenTo g (l.map (rowWrite v n)) m = m := by
  simp only [writtenTo, List.foldl_map, rowWrite, hg, if_false, List.foldl_fixed]

section
variable {s : State} {t a : Reg} {l : List Nat}

/-- Rows whose places the context holds and no command keeps are written at once. -/
theorem storeRows_midway (hfree : s.strand.Free) (v : TileReg) (n : Notes) (hn : n.buffering = false) (k : Nat) (rows : List (Nat × Nat))
    (hallowed : ∀ r ∈ rows, s.spAllowed s.strand.g r.1 = true ∧ s.spAllowed s.strand.g (r.1 + 4 * k - 1) = true)
    (hclear : ∀ r ∈ rows, s.envBlockers none (some (r.1, r.1 + 4 * k)) = []) (ws : List Write) :
    rows.foldl (fun w r => w.store 6 none (.mem (rowWrite v k r))) (s.midway s.cores (s.strand.noted n) ws) =
      s.midway s.cores (s.strand.noted n) (ws ++ rows.map (rowWrite v k)) := by
  induction rows generalizing ws with
  | nil => rw [List.map_nil, List.append_nil]; rfl
  | cons r rows ih =>
    have hlen : (leBytes (4 * k) (bitsAt v.toNat (r.2 * 4096) (32 * k))).length = 4 * k := length_leBytes ..
    have hr := hallowed r (List.mem_cons_self ..)
    have hstore := store_midway s s.cores s.strand n ws 6 none .sp r.1 (leBytes (4 * k) (bitsAt v.toNat (r.2 * 4096) (32 * k))) 0 hn hfree.quiet
      (.inr rfl) (fun _ => by rw [hlen]; exact hclear r (List.mem_cons_self ..)) rfl (fun h => nomatch h) (fun _ => by
        rw [hlen, spAllowed_midway s s.cores _ ws (.refl s), spAllowed_midway s s.cores _ ws (.refl s)]
        exact hr)
    rw [List.foldl_cons, rowWrite, hstore, ih (fun x hx => hallowed x (List.mem_cons_of_mem _ hx)) (fun x hx => hclear x (List.mem_cons_of_mem _ hx)),
      List.map_cons, List.append_assoc]
    rfl

theorem mst_leaves (hplain : s.strand.plain = true) (hready : s.work.tileChecks (.mst t a) t = none)
    (hplace : tilePlace s.work a 4 (s.tlen s.strand.g) (4 * s.tlen s.strand.g) = .ok l)
    (hclear : ∀ dev ∈ l, s.envBlockers none (some (dev, dev + 4 * s.tlen s.strand.g)) = []) :
    ∃ u, exec (.mst t a) s = .next u ∧ TileWordDone s u s.strand ∧
      (∀ g, u.memOf g = writtenTo g (l.zipIdx.map (rowWrite (s.tile s.strand.g t.toNat) (s.tlen s.strand.g))) (s.memOf g)) ∧
      u.tile s.strand.g t.toNat = s.tile s.strand.g t.toNat ∧ s.OtherTiles u s.strand.g t.toNat := by
  have hfree := free_of_plain _ hplain
  obtain ⟨-, hallowed⟩ := tilePlace_rows s.work a 4 _ _ l hplace
  have hmem (r : Nat × Nat) (hr : r ∈ l.zipIdx) : r.1 ∈ l := List.fst_mem_of_mem_zipIdx hr
  obtain ⟨n, htouch, hn, hbuf⟩ := touchRegs_outside s hfree.buffering [] [] [] [] [t.toNat] []
  rw [exec_mst, execMst]
  refine tileWordOn_keeps hplain hready (.refl _) hn (rowWrites_pad (s.tile s.strand.g t.toNat) (s.tlen s.strand.g) l.zipIdx) ?_
  rw [hplace]
  dsimp only
  rw [htouch]
  exact congrArg Except.ok (storeRows_midway hfree _ n hbuf (s.tlen s.strand.g) l.zipIdx (fun r hr => hallowed r.1 (hmem r hr))
    (fun r hr => hclear r.1 (hmem r hr)) [])

end

/-! ### Words read from rows (Table 8.3) -/

/-- A field of a row of a tile move. -/
theorem row_field (m : Mem) (l : List Nat) (len i p z : Nat) (hi : i < l.length) (h : p + z ≤ len) :
    bitsAt ((l.map fun dev => leNat (Mem.readN m dev len)).getD i 0) (8 * p) (8 * z) = leNat (Mem.readN m (l.getD i 0 + p) z) := by
  have hrow : (l.map fun dev => leNat (Mem.readN m dev len)).getD i 0 = leNat (Mem.readN m (l.getD i 0) len) := by
    simp [List.getD_eq_getElem?_getD, hi]
  rw [hrow, bitsAt_readN m _ len p z h]

/-- Settles O28: each word leaves its tile, its row or its rows of scratchpad, and its frame. -/
theorem tileWordsMoveAndConvert : Obligations.TileWordsMoveAndConvert := by
  unfold Obligations.TileWordsMoveAndConvert
  intro t a b xf s l g n ph hp hplain ready leaves words same free byte
  have hn : n ≤ 128 := tlen_le s g
  -- what each word's own lemma gives, as the statement puts it
  have hleaves {i : Instr} {holds : State → Prop} {u : State} {r : Strand} (hu : exec i s = .next u) (hdone : TileWordDone s u r)
      (hother : s.OtherTiles u g t.toNat) (hholds : holds u) : leaves i holds :=
    ⟨u, hu, hholds, hdone.pc, hdone.x, hdone.specials, hother⟩
  refine ⟨fun hready => ?_, fun hready hplace hclear => ?_, fun hready hplace hclear => ?_, fun hready hplace hclear => ?_,
    fun hready hplace hclear => ?_, fun hready => ?_, fun hrow hget => ⟨fun hready => ?_, fun hready => ?_⟩⟩
  · obtain ⟨u, hu, hdone, hbytes, htile, hother⟩ := mzero_leaves hplain hp hready
    exact hleaves hu hdone hother ⟨hbytes, hdone.vectors, fun i j _ _ => by rw [htile, tileWord_zero]⟩
  · obtain ⟨u, hu, hdone, hbytes, htile, hother⟩ := tileLoad_leaves (.mld t a) 4 (fun n => n) (fun n => 4 * n)
      (fun d i j => bitsAt (d.getD i 0) (32 * j) 32) hplain hp hready hplace hclear
    refine hleaves hu hdone hother ⟨hbytes, hdone.vectors, fun i j hi hj => ?_⟩
    obtain ⟨hlen, -⟩ := tilePlace_rows _ _ _ _ _ _ hplace
    have hword := row_field s.sp l (4 * n) i (4 * j) 4 (by omega) (by omega)
    rw [htile, tileWord_tileFrom _ _ hn i j hi hj, show 32 * j = 8 * (4 * j) by omega]
    exact (congrArg (· % 2 ^ 32) hword).trans (Nat.mod_eq_of_lt (leNat_readN_lt ..))
  · obtain ⟨u, hu, hdone, hbytes, htile, hother⟩ := tileLoad_leaves (.mldT8 t a) 1 (fun n => 4 * n) (fun n => n)
      (fun d i j =>
        bitsAt (d.getD (4 * j) 0) (8 * i) 8 + bitsAt (d.getD (4 * j + 1) 0) (8 * i) 8 * 2 ^ 8 +
        bitsAt (d.getD (4 * j + 2) 0) (8 * i) 8 * 2 ^ 16 + bitsAt (d.getD (4 * j + 3) 0) (8 * i) 8 * 2 ^ 24) hplain hp hready hplace hclear
    refine hleaves hu hdone hother ⟨hbytes, hdone.vectors, fun i j hi hj => ?_⟩
    obtain ⟨hlen, -⟩ := tilePlace_rows _ _ _ _ _ _ hplace
    have hbyte (k : Nat) (hk : k < 4) : bitsAt ((l.map fun dev => leNat (Mem.readN s.sp dev n)).getD (4 * j + k) 0) (8 * i) 8 = byte (4 * j + k) i :=
      row_field s.sp l n (4 * j + k) i 1 (by omega) (by omega)
    have h0 : bitsAt ((l.map fun dev => leNat (Mem.readN s.sp dev n)).getD (4 * j) 0) (8 * i) 8 = byte (4 * j) i := hbyte 0 (by decide)
    have hlt (k : Nat) : byte k i < 256 := (Mem.read s.sp _).isLt
    have hlt0 := hlt (4 * j)
    have hlt1 := hlt (4 * j + 1)
    have hlt2 := hlt (4 * j + 2)
    have hlt3 := hlt (4 * j + 3)
    rw [htile, tileWord_tileFrom _ _ hn i j hi hj, h0, hbyte 1 (by decide), hbyte 2 (by decide), hbyte 3 (by decide)]
    beta_reduce
    omega
  · obtain ⟨u, hu, hdone, hbytes, htile, hother⟩ := tileLoad_leaves (.mldT16 t a) 2 (fun n => 2 * n) (fun n => 2 * n)
      (fun d i j => bitsAt (d.getD (2 * j) 0) (16 * i) 16 + bitsAt (d.getD (2 * j + 1) 0) (16 * i) 16 * 2 ^ 16) hplain hp hready hplace hclear
    refine hleaves hu hdone hother ⟨hbytes, hdone.vectors, fun i j hi hj => ?_⟩
    obtain ⟨hlen, -⟩ := tilePlace_rows _ _ _ _ _ _ hplace
    have h0 := row_field s.sp l (2 * n) (2 * j) (2 * i) 2 (by omega) (by omega)
    have h1 := row_field s.sp l (2 * n) (2 * j + 1) (2 * i) 2 (by omega) (by omega)
    have hlt0 := leNat_readN_lt s.sp (l.getD (2 * j) 0 + 2 * i) 2
    have hlt1 := leNat_readN_lt s.sp (l.getD (2 * j + 1) 0 + 2 * i) 2
    rw [htile, tileWord_tileFrom _ _ hn i j hi hj, show 16 * i = 8 * (2 * i) by omega, h0, h1]
    beta_reduce
    omega
  · obtain ⟨u, hu, hdone, hmem, htile, hother⟩ := mst_leaves hplain hready hplace hclear
    refine hleaves hu hdone hother ⟨htile, hdone.vectors, (hmem .sp).trans (writtenTo_rows ..), ?_, ?_, ?_⟩
    · exact (hmem .fm).trans (writtenTo_rows_elsewhere _ _ _ _ (by decide) _)
    · exact (hmem .hm).trans (writtenTo_rows_elsewhere _ _ _ _ (by decide) _)
    · exact (hmem .host).trans (writtenTo_rows_elsewhere _ _ _ _ (by decide) _)
  · intro f hok code
    obtain ⟨u, hu, hdone, hbytes, htile, hother⟩ := mcvt_leaves hplain hp hready hok
    refine hleaves hu hdone hother ⟨⟨hbytes, hdone.vectors, fun i j hi hj => ?_⟩, hdone.fflags⟩
    rw [htile]
    exact tileWord_tileFlags n code hn i j hi hj
  · obtain ⟨u, hu, hdone, hbytes, htile, hother⟩ := mrowr_leaves hplain hready hrow hget
    refine hleaves hu hdone hother ⟨htile, hbytes, ?_, congrArg Prod.fst hdone.vectors⟩
    exact (congrArg (fun e => e.2.1) hdone.vectors).trans ((Strand.SameButVectors.refl _).eachWritten a 32 (List.range n) _).k
  · obtain ⟨u, hu, hdone, hbytes, htile, hother⟩ := mroww_leaves hplain hp hready hrow hget
    refine hleaves hu hdone hother ⟨hbytes, hdone.vectors, fun i j hi hj => ?_⟩
    have hrow128 : (s.strand.rx b).toNat < 128 := by omega
    rw [htile, tileWord_setRow _ _ _ _ _ _ hn hrow128 (by omega) hj, bitsAt_packWords, getD_map_range _ _ _ hj]
    have helt : s.strand.elt a 32 j % 2 ^ 32 = s.strand.elt a 32 j := Nat.mod_mod _ _
    rw [helt]

end Sys2Proof.Machine

/-! PROOFS. The matrix step and the descent words (O29; spec/08 R168 to R170, R179 to R185). -/

namespace Sys2Proof.Machine

/-! ### The descriptor of a convoy (R179) -/

/-- A convoy that dispatches keeps what it has read. -/
theorem openStep_trees (s : State) (l : List Placed) (trees : List (Nat × Nat)) (cores : List Core) (n : Notes)
    (h : s.work.openStep l trees = s.midway cores (s.strand.noted n) []) (hs : s.strand.snap = none) :
    ∃ d, n.snap = some d ∧ d.trees = trees := by
  have htraced : s.work.Traced ((s.work.traceVectorMem l).tracePipes l 10 s.work.cur.vslab.toNat) :=
    (traceVectorMem_traced ..).trans (tracePipes_traced ..)
  obtain ⟨cores', hopen, -⟩ := htraced
  obtain ⟨v, done, hresume⟩ := resume_frame s.strand (s.strand.epr s.strand.sew)
  have hnone : s.work.cur.snap.isNone = true := by
    rw [Option.isNone_iff_eq_none]
    exact hs
  have hsnap : (s.work.openStep l trees).cur.snap = some ⟨l.map (·.word), s.strand.x, s.strand.v, trees⟩ := by
    simp only [Work.openStep, hnone, if_true, hopen]
    simp only [Work.upd, Work.cur, State.work, hresume, hs, Option.isNone_none, if_true]
  rw [h] at hsnap
  exact ⟨_, hsnap, rfl⟩

/-- The tree at a register, as a strand reads it that has dispatched with it. -/
theorem tree_dispatched (n : Notes) (b : Reg) (N : Nat) (h : ∃ d, n.snap = some d ∧ d.trees = [(b.toNat, N)]) (u : Strand) :
    (u.noted n).tree b = treeOf N := by
  obtain ⟨d, hd, htrees⟩ := h
  have hsnap : (u.noted n).snap = some d := hd
  rw [Strand.tree, hsnap, Option.bind_some, htrees, List.find?_cons_of_pos (by simp)]
  rfl

/-- A slab step of an unchained word that reads at its dispatch: as `VectorReady.silent`, with what the notes of the step hold of the read. -/
theorem VectorReady.silent_reading {i : Instr} {m : Member} {s : State} (h : VectorReady i m s) (hbuf : s.strand.buf = [])
    (trees : List (Nat × Nat)) (hopens : s.strand.snap = none → m.onDispatch (m.fmtAt s.strand) s.work = .ok trees) :
    ∃ cores n, s.SameCores cores ∧ n.From s.strand ∧ (s.strand.snap = none → ∃ d, n.snap = some d ∧ d.trees = trees) ∧
      ∀ r n', m.perform (s.strand.stepCtx (m.fmtAt s.strand) m.k) (s.midway cores (s.strand.noted n) []) =
          .ok (s.midway cores (Strand.noted r n') []) →
        ∃ u, exec i s = .next u ∧ u.strand.Closes r s.strand.stepLast ∧ (∀ c, (u.core c).tiles = (s.core c).tiles) ∧ s.sameBytes u := by
  have hopens' : s.strand.snap.isNone = true → m.onDispatch (m.fmtAt s.strand) s.work = .ok trees := fun hs =>
    hopens (Option.isNone_iff_eq_none.1 hs)
  let p := s.strand.place m (encode i) s.strand.pc
  let c := s.strand.stepCtx (m.fmtAt s.strand) m.k
  obtain ⟨cores, n0, hopen, hcores, hfrom, -⟩ := openStep_midway s [p] trees
  obtain ⟨n, htouch, hsnap, hdone, hclosed, -⟩ := touchMember_midway s cores s.strand n0 p c hbuf
  refine ⟨cores, n, hcores, ⟨hsnap ▸ hfrom.dispatched, hdone.trans hfrom.done, fun hb => hclosed (hfrom.buffering hb)⟩,
    fun hs => hsnap ▸ openStep_trees s [p] trees cores n0 hopen hs, fun r n' hk => ?_⟩
  have hperform : m.perform c ((s.work.openStep [p] trees).touchMember p c) = .ok (s.midway cores (r.noted n') []) := by rw [hopen, htouch, hk]
  obtain ⟨u, hu, hcommit, -⟩ := (vectorWordsRunOneStep i s (s.midway cores (r.noted n') [])).2 m trees h hopens' hperform rfl
  refine ⟨u, hu, ?_, fun c => ?_, fun g a => ?_⟩
  · rw [hcommit, commit_strand]
    obtain ⟨hv, hk, hf, hvl, hb, hs, hx, hc⟩ := closeStep_closes (s.midway cores (r.noted n') []) [p] s.strand.vslab.toNat
      (s.strand.epr s.strand.sew) s.strand.stepLast
    exact ⟨hv, hk, hf, hvl, hb, hs, hx, hc⟩
  · rw [hcommit, State.commit_nil _ _ (closeStep_ws ..)]
    exact (closeStep_sameCores ..).tiles.trans (hcores c).tiles
  · rw [hcommit, memOf_commit, closeStep_ws]
    rfl

/-- What a word that reads a tree has of it: read at the convoy's dispatch, which may be now. -/
structure HasTree (s : State) (b : Reg) (trees : List (Nat × Nat)) (tree : Tree) : Prop where
  now : s.strand.snap = none → ∃ N, trees = [(b.toNat, N)] ∧ treeOf N = tree
  before : s.strand.snap ≠ none → s.strand.tree b = tree

/-- A member sees that tree. -/
theorem HasTree.tree {s : State} {b : Reg} {trees : List (Nat × Nat)} {tree : Tree} (h : HasTree s b trees tree) {n : Notes}
    (hn : n.From s.strand) (hread : s.strand.snap = none → ∃ d, n.snap = some d ∧ d.trees = trees) (u : Strand) : (u.noted n).tree b = tree := by
  by_cases hs : s.strand.snap = none
  · obtain ⟨N, rfl, rfl⟩ := h.now hs
    exact tree_dispatched n b N (hread hs) u
  · obtain ⟨e, he⟩ := Option.ne_none_iff_exists'.1 hs
    obtain ⟨d, hd, -, hsome⟩ := hn.dispatched
    have hde : n.snap = s.strand.snap := by rw [hd, he, hsome e he]
    have hsnap : (u.noted n).snap = s.strand.snap := hde
    rw [← h.before hs, Strand.tree, Strand.tree, hsnap]

/-! ### Rows and dot products (R182) -/

theorem loadSp_midway (s : State) (cores : List Core) (u : Strand) (n : Notes) (hcores : s.SameCores cores) (hu : s.strand.SameButVectors u)
    (hq : s.strand.Quiet) (va : W64) (size : Nat) : (s.midway cores (u.noted n) []).loadSp 6 va size = s.work.loadSp 6 va size := by
  have hqu := hu.quiet hq
  have hplace : u.g = s.strand.g := by
    obtain ⟨_, _, rfl⟩ := hu
    rfl
  have hcheck : (s.midway cores (u.noted n) []).spCheck va size = s.work.spCheck va size := by
    simp only [Work.spCheck, midway_cur, noted_g, hplace, meadow_midway s cores _ [] hcores, bankAsleep_midway s cores _ [] hcores]
    rfl
  have hread (dev : Nat) : (s.midway cores (u.noted n) []).readGate 6 dev size = s.work.readGate 6 dev size := by
    simp only [Work.readGate, readBlockers_midway s cores u n hu]
    rfl
  have hload : (s.midway cores (u.noted n) []).loadGate 6 = .ok () := loadGate_of_none _ _ hqu.holds hqu.pend hqu.remotes
  have hload' : s.work.loadGate 6 = .ok () := loadGate_of_none _ _ hq.holds hq.pend hq.remotes
  have hbytes (dev : Nat) : (s.midway cores (u.noted n) []).ownBytes .sp dev size = s.work.ownBytes .sp dev size :=
    (ownBytes_of_none (s.midway cores (u.noted n) []) .sp dev size rfl hqu.pend hqu.buf (by decide)).trans
      (ownBytes_of_none s.work .sp dev size rfl hq.pend hq.buf (by decide)).symm
  simp only [Work.loadSp, hcheck, hload, hload', hread, hbytes]

theorem readRow_midway (s : State) (cores : List Core) (u : Strand) (n : Notes) (hcores : s.SameCores cores) (hu : s.strand.SameButVectors u)
    (hq : s.strand.Quiet) (addr size : Nat) (d : Desc) (k : Nat) :
    (s.midway cores (u.noted n) []).readRow addr size d k = s.work.readRow addr size d k := by
  induction k generalizing addr with
  | zero => rfl
  | succ k ih => simp only [Work.readRow, loadSp_midway s cores u n hcores hu hq, ih]

theorem dot_midway (s : State) (cores : List Core) (u : Strand) (n : Notes) (hcores : s.SameCores cores) (hu : s.strand.SameButVectors u)
    (hq : s.strand.Quiet) (tree : Tree) (f : Fmt) (r node : Nat) :
    (s.midway cores (u.noted n) []).dot tree f r node = s.work.dot tree f r node := by
  simp only [Work.dot, readRow_midway s cores u n hcores hu hq]

end Sys2Proof.Machine

namespace Sys2Proof.Machine

/-! ### What a descent word's step leaves -/

/-- The strand's part of what a word leaves. -/
def KeepsFrame (t : Strand) (u : State) : Prop :=
  u.strand.k = t.k ∧ u.strand.vl = t.vl ∧ u.strand.specials = t.specials ∧ (t.loop = none → u.strand.x = t.x)

theorem Strand.Closes.frame {s u : State} {r : Strand} {last : Bool} (h : u.strand.Closes r last) (hr : s.strand.SameButVectors r) :
    KeepsFrame s.strand u := by
  obtain ⟨_, _, rfl⟩ := hr
  exact ⟨h.k, h.vl, h.specials, h.x⟩

section
variable {i : Instr} {m : Member} {s : State} {b : Reg} {trees : List (Nat × Nat)} {tree : Tree}

/-- A word that reads a tree and leaves the strand that `go` makes, element by element. -/
theorem treeWord_leaves (h : VectorReady i m s) (hquiet : s.strand.Quiet) (htree : HasTree s b trees tree)
    (hopens : s.strand.snap = none → m.onDispatch (m.fmtAt s.strand) s.work = .ok trees) (go : Strand → Nat → Strand)
    (hgo : ∀ u j, s.strand.SameButVectors u → s.strand.SameButVectors (go u j))
    (elt : Tree → Work → Nat → Except Stop Work)
    (hm : ∀ w : Work, m.perform (s.strand.stepCtx (m.fmtAt s.strand) m.k) w =
      eachEl (elt (w.cur.tree b)) w ((s.strand.stepCtx (m.fmtAt s.strand) m.k).active w.cur))
    (helt : ∀ cores n, s.SameCores cores → n.From s.strand → ∀ l1 j l2, s.strand.stepActive m.k = l1 ++ j :: l2 →
      s.strand.SameButVectors (l1.foldl go s.strand) → elt tree (s.midway cores ((l1.foldl go s.strand).noted n) []) j =
        .ok (s.midway cores ((go (l1.foldl go s.strand) j).noted n) [])) :
    ∃ u, exec i s = .next u ∧ u.strand.v = ((s.strand.stepActive m.k).foldl go s.strand).v ∧
      u.strand.fflags = ((s.strand.stepActive m.k).foldl go s.strand).fflags ∧ KeepsFrame s.strand u ∧ s.sameBytes u ∧
      ∀ c, (u.core c).tiles = (s.core c).tiles := by
  have hsame : ∀ (l : List Nat) (u : Strand), s.strand.SameButVectors u → s.strand.SameButVectors (l.foldl go u) := by
    intro l
    induction l with
    | nil => exact fun u hu => hu
    | cons j l ih => exact fun u hu => ih _ (hgo u j hu)
  obtain ⟨cores, n, hcores, hn, hread, hleaves⟩ := h.silent_reading hquiet.buf trees hopens
  have hperform : m.perform (s.strand.stepCtx (m.fmtAt s.strand) m.k) (s.midway cores (s.strand.noted n) []) =
      .ok (s.midway cores (((s.strand.stepActive m.k).foldl go s.strand).noted n) []) := by
    rw [hm, midway_cur, htree.tree hn hread]
    refine eachEl_stages _ (fun l => s.midway cores ((l.foldl go s.strand).noted n) []) _ fun l1 j l2 hl => ?_
    rw [helt cores n hcores hn l1 j l2 hl (hsame l1 _ (.refl _)), List.foldl_append]
    rfl
  obtain ⟨u, hu, hclose, htiles, hbytes⟩ := hleaves _ _ hperform
  exact ⟨u, hu, hclose.v, hclose.fflags, hclose.frame (hsame _ _ (.refl _)), hbytes, htiles⟩

/-- A format that a vector-class word takes. -/
theorem VectorReady.format (h : VectorReady i m s) (hf : m.fmtReg.isSome = true) : m.fmtOk s.strand.sew (m.fmtAt s.strand) = true := by
  by_contra hbad
  have hchecks := h.checks
  rw [checkMember_alone] at hchecks
  have hill : ((s.strand.place m (encode i) s.strand.pc).member.fmtReg.isSome &&
      !(s.strand.place m (encode i) s.strand.pc).member.fmtOk s.strand.sew (s.strand.place m (encode i) s.strand.pc).fmt) = true := by
    change (m.fmtReg.isSome && !m.fmtOk s.strand.sew (m.fmtAt s.strand)) = true
    rw [hf, Bool.eq_false_iff.2 hbad]
    rfl
  rw [if_pos hill] at hchecks
  split_ifs at hchecks

end

theorem steppedDown_same {t u : Strand} (h : t.SameButVectors u) (tree : Tree) (d a : Reg) (dot : Nat → Nat → Val × Flags) (j : Nat) :
    t.SameButVectors (steppedDown tree d a dot u j) := by
  unfold steppedDown
  dsimp only
  split
  · exact h.raise _
  · split
    · exact h
    · exact (h.setElt ..).raise _

theorem atLeaf_same {t u : Strand} (h : t.SameButVectors u) (tree : Tree) (f : Fmt) (d a : Reg) (dot : Nat → Nat → Val × Flags) (j : Nat) :
    t.SameButVectors (atLeaf tree f d a dot u j) := by
  unfold atLeaf
  dsimp only
  split
  · exact (h.setElt ..).raise _
  · split
    · exact (h.setElt ..).raise _
    · exact (h.setElt ..).raise _

/-! ### `tdstep` and `tdleaf`, case by case (R182, R183) -/

section
variable {tree : Tree} {f : Fmt} {a d : Reg} {w : Work} {j node : Nat} {x : Val × Flags}

theorem stepState_malformed (h : nodeIn tree (w.cur.elt d 64 j) = none) : stepState tree f a d w j = .ok (w.upd fun s => s.raise flagNV) := by
  simp only [stepState, h]

theorem stepState_leaf (h : nodeIn tree (w.cur.elt d 64 j) = some node) (hd : nodeDepth (w.cur.elt d 64 j) = tree.depth - 1) :
    stepState tree f a d w j = .ok w := by
  simp only [stepState, h, hd, if_true]

theorem stepState_inner (h : nodeIn tree (w.cur.elt d 64 j) = some node) (hd : nodeDepth (w.cur.elt d 64 j) ≠ tree.depth - 1)
    (hx : w.dot tree f (w.cur.elt a 64 j) node = .ok x) : stepState tree f a d w j = .ok (w.setElt d 64 j
      (nodeState (if x.1.isNan then 0x7FC00000 else (toFP32 x.1).1 % 2 ^ 31)
        (2 * nodePath (w.cur.elt d 64 j) + (!x.1.isNan && !bitAt (toFP32 x.1).1 31).toNat) (nodeDepth (w.cur.elt d 64 j) + 1),
        x.2 ||| (toFP32 x.1).2)) := by
  simp only [stepState, h, hd, if_false, hx]

theorem leafResult_malformed (h : nodeIn tree (w.cur.elt d 64 j) = none) :
    leafResult tree f a d w j = .ok (w.setElt d f.dst.width j ((nanInto f.dst).1, flagNV)) := by
  simp only [leafResult, h]

theorem leafResult_inner (h : nodeIn tree (w.cur.elt d 64 j) = some node) (hd : nodeDepth (w.cur.elt d 64 j) ≠ tree.depth - 1) :
    leafResult tree f a d w j = .ok (w.setElt d f.dst.width j ((nanInto f.dst).1, flagNV)) := by
  simp only [leafResult, h, hd, ne_eq, not_false_eq_true, if_true]

theorem leafResult_leaf (h : nodeIn tree (w.cur.elt d 64 j) = some node) (hd : nodeDepth (w.cur.elt d 64 j) = tree.depth - 1)
    (hx : w.dot tree f (w.cur.elt a 64 j) node = .ok x) : leafResult tree f a d w j = .ok (w.setElt d f.dst.width j
      (if f.srcA.isInt && f.srcB.isInt && f.dst.isInt then (intInto f.dst f.sat x.1.toInt, 0) else roundOp x f.dst f.rm f.sat)) := by
  simp only [leafResult, h, hd, ne_eq, not_true_eq_false, if_false, hx, Fmt.int, Fmt.round, flagNone]

end

/-- An element of `tdstep`, in a step in the making. -/
theorem stepState_midway (s : State) (cores : List Core) (n : Notes) (u : Strand) (hcores : s.SameCores cores)
    (hu : s.strand.SameButVectors u) (hq : s.strand.Quiet) (tree : Tree) (f : Fmt) (a d : Reg) (dot : Nat → Nat → Val × Flags) (j : Nat)
    (hdot : ∀ node, nodeIn tree (u.elt d 64 j) = some node → nodeDepth (u.elt d 64 j) ≠ tree.depth - 1 →
      s.work.dot tree f (u.elt a 64 j) node = .ok (dot (u.elt a 64 j) node)) :
    stepState tree f a d (s.midway cores (u.noted n) []) j = .ok (s.midway cores ((steppedDown tree d a dot u j).noted n) []) := by
  cases hnode : nodeIn tree (u.elt d 64 j) with
  | none =>
    rw [stepState_malformed (w := s.midway cores (u.noted n) []) hnode]
    simp only [steppedDown, hnode, midway_upd, noted_raise]
  | some node =>
    by_cases hdepth : nodeDepth (u.elt d 64 j) = tree.depth - 1
    · rw [stepState_leaf (w := s.midway cores (u.noted n) []) hnode hdepth]
      simp only [steppedDown, hnode, hdepth, if_true]
    · rw [stepState_inner (w := s.midway cores (u.noted n) []) hnode hdepth
        ((dot_midway s cores u n hcores hu hq ..).trans (hdot node hnode hdepth)), midway_setElt]
      simp only [steppedDown, hnode, hdepth, if_false]
      rfl

/-- An element of `tdleaf`. -/
theorem leafResult_midway (s : State) (cores : List Core) (n : Notes) (u : Strand) (hcores : s.SameCores cores)
    (hu : s.strand.SameButVectors u) (hq : s.strand.Quiet) (tree : Tree) (f : Fmt) (a d : Reg) (dot : Nat → Nat → Val × Flags) (j : Nat)
    (hdot : ∀ node, nodeIn tree (u.elt d 64 j) = some node → nodeDepth (u.elt d 64 j) = tree.depth - 1 →
      s.work.dot tree f (u.elt a 64 j) node = .ok (dot (u.elt a 64 j) node)) :
    leafResult tree f a d (s.midway cores (u.noted n) []) j = .ok (s.midway cores ((atLeaf tree f d a dot u j).noted n) []) := by
  cases hnode : nodeIn tree (u.elt d 64 j) with
  | none =>
    rw [leafResult_malformed (w := s.midway cores (u.noted n) []) hnode, midway_setElt]
    simp only [atLeaf, hnode]
  | some node =>
    by_cases hdepth : nodeDepth (u.elt d 64 j) = tree.depth - 1
    · rw [leafResult_leaf (w := s.midway cores (u.noted n) []) hnode hdepth
        ((dot_midway s cores u n hcores hu hq ..).trans (hdot node hnode hdepth)), midway_setElt]
      simp only [atLeaf, hnode, hdepth, ne_eq, not_true_eq_false, if_false]
    · rw [leafResult_inner (w := s.midway cores (u.noted n) []) hnode hdepth, midway_setElt]
      simp only [atLeaf, hnode, hdepth, ne_eq, not_false_eq_true, if_true]

end Sys2Proof.Machine

namespace Sys2Proof.Machine

/-! ### The words that read a tree -/

theorem treeDispatch_reads {b : Reg} {f : Fmt} {w : Work} {ws ts N : Nat} (hws : max 1 (f.srcB.width / 8) = ws)
    (hts : max 1 (f.srcA.width / 8) = ts) (h : w.readTree b ws ts = .ok N) : treeDispatch b f w = .ok [(b.toNat, N)] := by
  rw [treeDispatch, hws, hts, h]

/-- The tree of a convoy whose member reads it at its dispatch. -/
theorem hasTree_of_dispatch {s : State} {b : Reg} {f : Fmt} {ws ts : Nat} {tree : Tree} (hws : max 1 (f.srcB.width / 8) = ws)
    (hts : max 1 (f.srcA.width / 8) = ts)
    (h : (s.strand.snap = none → ∃ N, s.work.readTree b ws ts = .ok N ∧ treeOf N = tree) ∧ (s.strand.snap ≠ none → s.strand.tree b = tree)) :
    ∃ trees, HasTree s b trees tree ∧ (s.strand.snap = none → treeDispatch b f s.work = .ok trees) := by
  obtain ⟨hnow, hbefore⟩ := h
  by_cases hs : s.strand.snap = none
  · obtain ⟨N, hN, htree⟩ := hnow hs
    exact ⟨[(b.toNat, N)], ⟨fun _ => ⟨N, rfl, htree⟩, hbefore⟩, fun _ => treeDispatch_reads hws hts hN⟩
  · exact ⟨[], ⟨fun h => absurd h hs, hbefore⟩, fun h => absurd h hs⟩

/-- The sources of a descent word are of whole bytes. -/
theorem treeSource_bytes {d : Desc} (h : treeSource d = true) : max 1 (d.width / 8) = d.width / 8 := by
  simp only [treeSource, Bool.and_eq_true, decide_eq_true_eq] at h
  omega

section
variable {d a b xf : Reg} {k : BitVec 2} {s : State} {m : Member} {tree : Tree} {dot : Nat → Nat → Val × Flags}

theorem tdstep_leaves (hquiet : s.strand.Quiet) (h : VectorReady (.tdstep false d a b xf k) m s) :
    let f := fmtOf (s.strand.sx xf)
    let act := s.strand.stepActive k
    let result := act.foldl (steppedDown tree d a dot) s.strand
    ((s.strand.snap = none → ∃ N, s.work.readTree b (f.srcB.width / 8) (f.srcA.width / 8) = .ok N ∧ treeOf N = tree) ∧
      (s.strand.snap ≠ none → s.strand.tree b = tree)) →
    (∀ l1 j l2, act = l1 ++ j :: l2 → let u := l1.foldl (steppedDown tree d a dot) s.strand
      ∀ node, nodeIn tree (u.elt d 64 j) = some node → nodeDepth (u.elt d 64 j) ≠ tree.depth - 1 →
        s.work.dot tree f (u.elt a 64 j) node = .ok (dot (u.elt a 64 j) node)) →
    ∃ u, exec (.tdstep false d a b xf k) s = .next u ∧ u.strand.v = result.v ∧ u.strand.fflags = result.fflags ∧ KeepsFrame s.strand u ∧
      s.sameBytes u ∧ ∀ c, (u.core c).tiles = (s.core c).tiles := by
  intro f act result hhas hdots
  obtain rfl : memTdstep d a b xf k = m := Option.some.inj h.member
  have hok : okStep s.strand.sew f = true := h.format rfl
  simp only [okStep, Bool.and_eq_true] at hok
  obtain ⟨⟨⟨⟨⟨hA, hB⟩, -⟩, -⟩, -⟩, -⟩ := hok
  obtain ⟨trees, htree, hopens⟩ := hasTree_of_dispatch (treeSource_bytes hB) (treeSource_bytes hA) hhas
  exact treeWord_leaves h hquiet htree hopens (steppedDown tree d a dot) (fun u j hu => steppedDown_same hu tree d a dot j)
    (fun tree => stepState tree f a d) (fun w => rfl) fun cores n hcores hn l1 j l2 hl hu =>
      stepState_midway s cores n _ hcores hu hquiet tree f a d dot j (hdots l1 j l2 hl)

theorem tdleaf_leaves (hquiet : s.strand.Quiet) (h : VectorReady (.tdleaf false d a b xf k) m s) :
    let f := fmtOf (s.strand.sx xf)
    let act := s.strand.stepActive k
    let result := act.foldl (atLeaf tree f d a dot) s.strand
    ((s.strand.snap = none → ∃ N, s.work.readTree b (f.srcB.width / 8) (f.srcA.width / 8) = .ok N ∧ treeOf N = tree) ∧
      (s.strand.snap ≠ none → s.strand.tree b = tree)) →
    (∀ l1 j l2, act = l1 ++ j :: l2 → let u := l1.foldl (atLeaf tree f d a dot) s.strand
      ∀ node, nodeIn tree (u.elt d 64 j) = some node → nodeDepth (u.elt d 64 j) = tree.depth - 1 →
        s.work.dot tree f (u.elt a 64 j) node = .ok (dot (u.elt a 64 j) node)) →
    ∃ u, exec (.tdleaf false d a b xf k) s = .next u ∧ u.strand.v = result.v ∧ u.strand.fflags = result.fflags ∧ KeepsFrame s.strand u ∧
      s.sameBytes u ∧ ∀ c, (u.core c).tiles = (s.core c).tiles := by
  intro f act result hhas hdots
  obtain rfl : memTdleaf d a b xf k = m := Option.some.inj h.member
  have hok : okLeaf s.strand.sew f = true := h.format rfl
  simp only [okLeaf, Bool.and_eq_true] at hok
  obtain ⟨⟨⟨hA, hB⟩, -⟩, -⟩ := hok
  obtain ⟨trees, htree, hopens⟩ := hasTree_of_dispatch (treeSource_bytes hB) (treeSource_bytes hA) hhas
  exact treeWord_leaves h hquiet htree hopens (atLeaf tree f d a dot) (fun u j hu => atLeaf_same hu tree f d a dot j)
    (fun tree => leafResult tree f a d) (fun w => rfl) fun cores n hcores hn l1 j l2 hl hu =>
      leafResult_midway s cores n _ hcores hu hquiet tree f a d dot j (hdots l1 j l2 hl)

/-- What `tdaddr` gives for a node state: where the weights of its node stand. -/
def weightsAt (tree : Tree) (a : Reg) (u : Strand) (j : Nat) : Nat × Flags :=
  (match nodeIn tree (u.elt a 64 j) with
    | some node => tree.wbase + node * tree.nstride
    | none => 2 ^ 64 - 1, 0)

theorem tdaddr_leaves (hquiet : s.strand.Quiet) (h : VectorReady (.tdaddr false d a b k) m s) :
    let result := s.strand.eachWritten d 64 (s.strand.stepActive k) (weightsAt tree a)
    ((s.strand.snap = none → ∃ N, s.work.readTree b 1 1 = .ok N ∧ treeOf N = tree) ∧ (s.strand.snap ≠ none → s.strand.tree b = tree)) →
    ∃ u, exec (.tdaddr false d a b k) s = .next u ∧ u.strand.v = result.v ∧ u.strand.fflags = result.fflags ∧ KeepsFrame s.strand u ∧
      s.sameBytes u ∧ ∀ c, (u.core c).tiles = (s.core c).tiles := by
  intro result hhas
  obtain rfl : memTdaddr d a b k = m := Option.some.inj h.member
  obtain ⟨trees, htree, hopens⟩ := hasTree_of_dispatch (f := fmtOf 0) (by decide) (by decide) hhas
  exact treeWord_leaves h hquiet htree hopens (fun u j => (u.setElt d 64 j (weightsAt tree a u j).1).raise (weightsAt tree a u j).2)
    (fun u j hu => (hu.setElt ..).raise _) (fun tree w j => .ok (w.setElt d 64 j (weightsAt tree a w.cur j))) (fun w => rfl)
    fun cores n hcores hn l1 j l2 hl hu => congrArg Except.ok (midway_setElt ..)

end

/-! ### The matrix step (R168 to R170) -/

/-- The count of matrix steps keeps every tile. -/
theorem countMatrix_tiles (w : Work) :
    ∃ cores, w.countMatrix = { w with st := { w.st with cores := cores } } ∧
      ∀ c, (({ w.st with cores := cores } : State).core c).tiles = (w.st.core c).tiles := by
  let kept := w.st.core w.st.strand.g.core
  let counted : Core := { kept with matBusy := true, matSlabs := if kept.matBusy then satTo 48 (kept.matSlabs + 1) else 1 }
  refine ⟨(w.st.setCore counted).cores, rfl, fun c => ?_⟩
  change ((w.st.setCore counted).core c).tiles = _
  rw [State.core_setCore]
  split
  · next hc =>
    have hid : w.st.strand.g.core = c := (State.core_id ..).symm.trans hc
    rw [← hid]
  · rfl

/-- A tile written and counted in a step in the making. -/
theorem matrixStep_midway (s : State) (cores : List Core) (hcores : s.SameCores cores) (u : Strand) (t : Nat) (v : TileReg)
    (hp : u.g.phys t < 4) :
    ∃ cores', ((s.midway cores u []).mod fun st => st.setTile st.strand.g t v).countMatrix = s.midway cores' u [] ∧
      ∀ c j, (({ s with cores := cores' } : State).core c).tiles.getD j 0 =
        if c = u.g.core ∧ j = u.g.phys t then v else (s.core c).tiles.getD j 0 := by
  obtain ⟨c1, hset⟩ := setTile_cores (s.midway cores u []).st u.g t v
  have hmod : (s.midway cores u []).mod (fun st => st.setTile st.strand.g t v) = s.midway c1 u [] :=
    congrArg (fun st => ({ st := st, ws := [], absent := false } : Work)) hset
  obtain ⟨c2, hcount, hkept⟩ := countMatrix_tiles (s.midway c1 u [])
  refine ⟨c2, by rw [hmod, hcount]; rfl, fun c j => ?_⟩
  have htile := tiles_setTile (s.midway cores u []).st u.g t v hp c j
  rw [hset] at htile
  have hc2 : (({ s with cores := c2 } : State).core c).tiles = (({ s with cores := c1 } : State).core c).tiles := hkept c
  rw [hc2]
  refine Eq.trans htile ?_
  rw [show ((s.midway cores u []).st.core c).tiles = (s.core c).tiles from (hcores c).tiles]

section
variable {d a b xf : Reg} {s : State}

/-- What the matrix step makes of its tile. -/
def taccStep (s : State) (scaled : Bool) (d a b xf : Reg) : TileReg × Flags :=
  let t := s.strand
  let n := s.tlen t.g
  let e := t.epr t.sew
  tileFlags n (taccElement scaled a b (fmtOf (t.sx xf)) t n (e / n) t.stepLo (t.stepLo / e) t.vl.toNat (s.tile t.g d.toNat))

theorem tacc_performs (scaled : Bool) (cores : List Core) (hcores : s.SameCores cores) (n : Notes) :
    let m := taccMember scaled d a b xf
    let w := s.midway cores (s.strand.noted n) []
    m.perform (s.strand.stepCtx (m.fmtAt s.strand) m.k) w =
      .ok ((w.mod fun st => st.setTile s.strand.g d.toNat (taccStep s scaled d a b xf).1).countMatrix.upd fun u =>
        u.raise (taccStep s scaled d a b xf).2) := by
  intro m w
  have htlen : w.st.tlen s.strand.g = s.tlen s.strand.g := tlen_midway s cores _ [] hcores s.strand.g
  have hold : w.st.tile s.strand.g d.toNat = s.tile s.strand.g d.toNat := by
    rw [State.tile, State.tile, show (w.st.core s.strand.g.core).tiles = (s.core s.strand.g.core).tiles from (hcores _).tiles]
  have hmade : tileFlags (w.st.tlen s.strand.g) (taccElement scaled a b (fmtOf (s.strand.sx xf)) s.strand (w.st.tlen s.strand.g)
      (s.strand.epr s.strand.sew / w.st.tlen s.strand.g) s.strand.stepLo (s.strand.stepLo / s.strand.epr s.strand.sew) s.strand.vl.toNat
      (w.st.tile s.strand.g d.toNat)) = taccStep s scaled d a b xf := by
    rw [htlen, hold]
    rfl
  rw [← hmade]
  rfl

theorem tacc_leaves (scaled : Bool) {i : Instr} (hbuf : s.strand.buf = []) (h : VectorReady i (taccMember scaled d a b xf) s)
    (hp : s.strand.g.phys d.toNat < 4) :
    ∃ u, exec i s = .next u ∧ u.tile s.strand.g d.toNat = (taccStep s scaled d a b xf).1 ∧
      u.strand.fflags = s.strand.fflags ||| (taccStep s scaled d a b xf).2 ∧ u.strand.v = s.strand.v ∧
      KeepsFrame s.strand u ∧ s.sameBytes u ∧ s.OtherTiles u s.strand.g d.toNat := by
  obtain ⟨cores, n, hcores, -, -, hexec⟩ := h.performs hbuf
  obtain ⟨cores', hstep, htiles⟩ := matrixStep_midway s cores hcores (s.strand.noted n) d.toNat (taccStep s scaled d a b xf).1 hp
  have hperform : (taccMember scaled d a b xf).perform (s.strand.stepCtx ((taccMember scaled d a b xf).fmtAt s.strand) _)
      (s.midway cores (s.strand.noted n) []) = .ok (s.midway cores' ((s.strand.raise (taccStep s scaled d a b xf).2).noted n) []) :=
    (tacc_performs scaled cores hcores n).trans (congrArg (fun w : Work => Except.ok (w.upd fun u => u.raise _)) hstep)
  obtain ⟨l, -, hu⟩ := hexec _ hperform rfl
  have hclose := closeStep_closes (s.midway cores' ((s.strand.raise (taccStep s scaled d a b xf).2).noted n) []) l s.strand.vslab.toNat
    (s.strand.epr s.strand.sew) s.strand.stepLast
  have hall (c j : Nat) : ((s.commit ((s.midway cores' ((s.strand.raise (taccStep s scaled d a b xf).2).noted n) []).closeStep l
      s.strand.vslab.toNat (s.strand.epr s.strand.sew) s.strand.stepLast)).core c).tiles.getD j 0 =
      if c = s.strand.g.core ∧ j = s.strand.g.phys d.toNat then (taccStep s scaled d a b xf).1 else (s.core c).tiles.getD j 0 := by
    rw [State.commit_nil _ _ (closeStep_ws ..)]
    exact (congrArg (fun t : Vector TileReg 4 => t.getD j 0) (closeStep_sameCores ..).tiles).trans (htiles c j)
  refine ⟨_, hu, ?_, ?_, ?_, ⟨?_, ?_, ?_, fun hl => ?_⟩, fun g x => ?_, fun c j hne => ?_⟩
  · rw [State.tile, hall, if_pos ⟨rfl, rfl⟩]
  · rw [commit_strand]
    exact hclose.fflags
  · rw [commit_strand]
    exact hclose.v
  · rw [commit_strand]
    exact hclose.k
  · rw [commit_strand]
    exact hclose.vl
  · rw [commit_strand]
    exact hclose.specials
  · rw [commit_strand]
    exact hclose.x hl
  · rw [memOf_commit, closeStep_ws]
    rfl
  · rw [hall, if_neg hne]

end

end Sys2Proof.Machine

namespace Sys2Proof.Machine

/-! ### `tdregrp` (R184) -/

/-- The elements of an order, at their places. -/
def Strand.regrouped (t : Strand) (d : Reg) (order : List Nat) : Strand := order.zipIdx.foldl (fun u p => u.setElt d 64 p.2 p.1) t

theorem regrouped_same (t : Strand) (d : Reg) (order : List Nat) : t.SameButVectors (t.regrouped d order) := by
  have fold : ∀ (l : List (Nat × Nat)) (u : Strand), t.SameButVectors u →
      t.SameButVectors (l.foldl (fun u p => u.setElt d 64 p.2 p.1) u) := by
    intro l
    induction l with
    | nil => exact fun u hu => hu
    | cons p l ih => exact fun u hu => ih _ (hu.setElt d 64 p.2 p.1)
  exact fold order.zipIdx t (.refl t)

/-- The nodes found, each with its element. -/
def goodNodes (seen : List (Nat × Option Nat)) : List (Nat × Nat) := seen.filterMap fun p => p.2.map fun node => (node, p.1)

/-- The order that `tdregrp` leaves: by node, then the malformed states. -/
def nodeOrder (seen : List (Nat × Option Nat)) : List Nat :=
  ((goodNodes seen).foldl (fun l p => insertByNode p l) []).map (·.2) ++ (seen.filter fun p => p.2.isNone).map (·.1)

/-- The counts that it stores. -/
def countsOf (seen : List (Nat × Option Nat)) : List Byte := nodeCounts ((goodNodes seen).map (·.1))

theorem malformed_eq (seen : List (Nat × Option Nat)) :
    (seen.filterMap fun e => match e.2 with
      | some _ => none
      | none => some e.1) = (seen.filter fun p => p.2.isNone).map (·.1) := by
  induction seen with
  | nil => rfl
  | cons e seen ih =>
    obtain ⟨j, node⟩ := e
    cases node with
    | none => simp [ih]
    | some x => simp [ih]

theorem good_eq (seen : List (Nat × Option Nat)) :
    (seen.filterMap fun e => match e.2 with
      | some n => some (n, e.1)
      | none => none) = goodNodes seen := by
  unfold goodNodes
  congr 1
  funext e
  obtain ⟨j, node⟩ := e
  cases node <;> rfl

/-- The order of what is seen, placed in the elements of a step in the making. -/
def Work.placed (w : Work) (d : Reg) (order : List Nat) : Work := order.zipIdx.foldl (fun k p => k.setElt d 64 p.2 (p.1, 0)) w

theorem regrouped_midway (s : State) (cores : List Core) (t : Strand) (n : Notes) (ws : List Write) (d : Reg) (order : List Nat) :
    (s.midway cores (t.noted n) ws).placed d order =
      s.midway cores ((t.regrouped d order).noted n) ws := by
  have fold : ∀ (l : List (Nat × Nat)) (u : Strand),
      l.foldl (fun (k : Work) p => k.setElt d 64 p.2 (p.1, 0)) (s.midway cores (u.noted n) ws) =
        s.midway cores ((l.foldl (fun u p => u.setElt d 64 p.2 p.1) u).noted n) ws := by
    intro l
    induction l with
    | nil => exact fun u => rfl
    | cons p l ih =>
      intro u
      rw [List.foldl_cons, midway_setElt, raise_zero]
      exact ih _
  exact fold order.zipIdx t

theorem finishRegroup_eq (d b : Reg) (w : Work) (seen : List (Nat × Option Nat)) :
    finishRegroup d b w seen =
      if (countsOf seen).isEmpty then .ok (w.placed d (nodeOrder seen))
      else
        match w.st.meadow w.cur.g (w.cur.sx b) (countsOf seen).length with
        | .error t => .error (.trap t)
        | .ok dev =>
          match w.st.sleeperIn dev (countsOf seen).length with
          | some x => .error (.wait (.bank (x / 2 ^ 22) (bankOf x)))
          | none => .ok ((w.store 6 none (.mem (.put .sp dev (countsOf seen) 0 false))).placed d (nodeOrder seen)) := by
  rw [countsOf, nodeOrder, ← good_eq, ← malformed_eq]
  rfl

theorem finishRegroup_empty (d b : Reg) (w : Work) (seen : List (Nat × Option Nat)) (h : countsOf seen = []) :
    finishRegroup d b w seen = .ok (w.placed d (nodeOrder seen)) := by
  rw [finishRegroup_eq, h]
  rfl

theorem finishRegroup_stores (d b : Reg) (w : Work) (seen : List (Nat × Option Nat)) (dev : Nat) (h : countsOf seen ≠ [])
    (hm : w.st.meadow w.cur.g (w.cur.sx b) (countsOf seen).length = .ok dev) (hs : w.st.sleeperIn dev (countsOf seen).length = none) :
    finishRegroup d b w seen = .ok ((w.store 6 none (.mem (.put .sp dev (countsOf seen) 0 false))).placed d (nodeOrder seen)) := by
  rw [finishRegroup_eq, if_neg (by simpa using h), hm]
  dsimp only
  rw [hs]

theorem sleeperIn_midway (s : State) (cores : List Core) (u : Strand) (ws : List Write) (h : s.SameCores cores) (dev n : Nat) :
    (s.midway cores u ws).st.sleeperIn dev n = s.sleeperIn dev n := by
  simp only [State.sleeperIn, bankAsleep_midway s cores u ws h]

section
variable {d a b : Reg} {k : BitVec 2} {s : State} {m : Member}

/-- The nodes that `tdregrp` has seen at the end of a step. -/
def seenAt (t : Strand) (a : Reg) (k : BitVec 2) : List (Nat × Option Nat) :=
  seenNodes t.carry ++ (t.stepActive k).map fun j => (j, nodeOf (t.elt a 64 j))

theorem memTdregrp_early (c : StepCtx) (w : Work) (h : c.last = false) : (memTdregrp d a b k).perform c w =
    .ok (w.upd fun s => { s with carry := .nodes (seenNodes w.cur.carry ++ (c.active w.cur).map fun i => (i, nodeOf (w.cur.elt a 64 i))) }) := by
  simp only [memTdregrp, h, Bool.false_eq_true, if_false]

theorem memTdregrp_last (c : StepCtx) (w r : Work) (h : c.last = true)
    (hr : finishRegroup d b w (seenNodes w.cur.carry ++ (c.active w.cur).map fun i => (i, nodeOf (w.cur.elt a 64 i))) = .ok r) :
    (memTdregrp d a b k).perform c w = .ok r := by
  simp only [memTdregrp, h, if_true, hr]

theorem tdregrp_carries (hbuf : s.strand.buf = []) (h : VectorReady (.tdregrp false d a b k) m s) (hlast : s.strand.stepLast = false) :
    ∃ u, exec (.tdregrp false d a b k) s = .next u ∧ u.strand.carry = .nodes (seenAt s.strand a k) ∧ u.strand.v = s.strand.v ∧
      KeepsFrame s.strand u ∧ s.sameBytes u := by
  obtain rfl : memTdregrp d a b k = m := Option.some.inj h.member
  obtain ⟨u, hu, ⟨hv, hx, hc⟩, hk, hvl, hspecials, -, hbytes⟩ := carryWord_leaves h hbuf s.strand (.nodes (seenAt s.strand a k)) (.refl _)
    (fun u => u.strand.v = s.strand.v ∧ (s.strand.loop = none → u.strand.x = s.strand.x) ∧ u.strand.carry = .nodes (seenAt s.strand a k))
    (fun cores n _ => memTdregrp_early _ _ hlast)
    fun u hv hx hc => ⟨hv.1, hx, hc hlast⟩
  exact ⟨u, hu, hc, hv, ⟨hk, hvl, hspecials, hx⟩, hbytes⟩

theorem tdregrp_ends (cores : List Core) (n : Notes) (hlast : s.strand.stepLast = true) {r : Work}
    (h : finishRegroup d b (s.midway cores (s.strand.noted n) []) (seenAt s.strand a k) = .ok r) :
    (memTdregrp d a b k).perform (s.strand.stepCtx ((memTdregrp d a b k).fmtAt s.strand) (memTdregrp d a b k).k)
      (s.midway cores (s.strand.noted n) []) = .ok r :=
  memTdregrp_last _ _ r hlast h

theorem tdregrp_regroups (hbuf : s.strand.buf = []) (h : VectorReady (.tdregrp false d a b k) m s) (hlast : s.strand.stepLast = true)
    (hcounts : countsOf (seenAt s.strand a k) = []) :
    let r := s.strand.regrouped d (nodeOrder (seenAt s.strand a k))
    ∃ u, exec (.tdregrp false d a b k) s = .next u ∧ u.strand.v = r.v ∧ u.strand.fflags = r.fflags ∧ KeepsFrame s.strand u ∧ s.sameBytes u ∧
      ∀ c, (u.core c).tiles = (s.core c).tiles := by
  intro r
  obtain rfl : memTdregrp d a b k = m := Option.some.inj h.member
  obtain ⟨cores, n, -, -, hleaves⟩ := h.silent hbuf
  have hperform := tdregrp_ends cores n hlast
    ((finishRegroup_empty d b (s.midway cores (s.strand.noted n) []) _ hcounts).trans (congrArg Except.ok (regrouped_midway ..)))
  obtain ⟨u, hu, hclose, htiles, hbytes⟩ := hleaves _ _ hperform
  exact ⟨u, hu, hclose.v, hclose.fflags, hclose.frame (regrouped_same ..), hbytes, htiles⟩

theorem tdregrp_stores (hquiet : s.strand.Quiet) (h : VectorReady (.tdregrp false d a b k) m s) (hlast : s.strand.stepLast = true)
    {dev : Nat} (hcounts : countsOf (seenAt s.strand a k) ≠ []) (hclosed : s.strand.buffering = false)
    (hm : s.meadow s.strand.g (s.strand.sx b) (countsOf (seenAt s.strand a k)).length = .ok dev)
    (hawake : s.sleeperIn dev (countsOf (seenAt s.strand a k)).length = none)
    (henv : s.envBlockers none (some (dev, dev + (countsOf (seenAt s.strand a k)).length)) = []) :
    let counts := countsOf (seenAt s.strand a k)
    ∃ u, exec (.tdregrp false d a b k) s = .next u ∧ u.sp = Mem.write s.sp dev counts ∧ s.sameBytesBut u .sp dev counts.length ∧
      u.strand.v = (s.strand.regrouped d (nodeOrder (seenAt s.strand a k))).v ∧ KeepsFrame s.strand u := by
  intro counts
  obtain rfl : memTdregrp d a b k = m := Option.some.inj h.member
  obtain ⟨cores, n, hcores, hn, -, hleaves⟩ := h.leaves hquiet.buf
  let w := s.midway cores (s.strand.noted n) []
  have hmeadow : w.st.meadow w.cur.g (w.cur.sx b) counts.length = .ok dev := by
    rw [meadow_midway s cores _ [] hcores, midway_cur, hn.sx]
    exact hm
  have hawake' : w.st.sleeperIn dev counts.length = none := (sleeperIn_midway s cores _ [] hcores dev _).trans hawake
  have hallowed : w.st.spAllowed s.strand.g dev = true ∧ w.st.spAllowed s.strand.g (dev + counts.length - 1) = true :=
    (Bool.and_eq_true_iff.1 (meadow_allowed w.st s.strand.g _ counts.length dev hmeadow))
  have hstore : w.store 6 none (.mem (.put .sp dev counts 0 false)) = s.midway cores (s.strand.noted n) [.put .sp dev counts 0 false] :=
    store_midway s cores s.strand n [] 6 none .sp dev counts 0 (hn.buffering hclosed) hquiet (.inr rfl) (fun _ => henv) rfl
      (fun h => nomatch h) (fun _ => hallowed)
  have hperform := tdregrp_ends cores n hlast ((finishRegroup_stores d b w _ dev hcounts hmeadow hawake').trans
    (congrArg Except.ok ((congrArg (fun k : Work => k.placed d _) hstore).trans (regrouped_midway ..))))
  obtain ⟨u, hu, hclose, hmem, -⟩ := hleaves _ _ _ hperform
  exact ⟨u, hu, hmem .sp, (putBytes_one dev counts 0 false).same hmem, hclose.v, hclose.frame (regrouped_same ..)⟩

end

/-- Settles O29: the matrix step adds its outer products to the tile, and the descent words do what the tree says of each element. -/
theorem matrixStepAndDescent : Obligations.MatrixStepAndDescent := by
  unfold Obligations.MatrixStepAndDescent
  intro d a b xf k s m hbuf hpend hholds hremotes t f e n act frame adds leaves dots has
  have hquiet : s.strand.Quiet := ⟨hholds, hpend, hbuf, hremotes⟩
  have hadds (i : Instr) (scaled : Bool) (hi : memberOf i = some (taccMember scaled d a b xf)) : adds i scaled := by
    intro h hp word
    obtain rfl : taccMember scaled d a b xf = m := Option.some.inj (hi.symm.trans h.member)
    obtain ⟨u, hu, htile, hfl, hv, hframe, hbytes, hother⟩ := tacc_leaves scaled hbuf h hp
    refine ⟨u, hu, fun p q hp hq => ?_, hfl, hv, hframe, hbytes, hother⟩
    rw [htile]
    exact tileWord_tileFlags n word (tlen_le s t.g) p q hp hq
  refine ⟨hadds _ false rfl, hadds _ true rfl, fun tree dot hhas => ⟨fun h hdots => ?_, fun h hdots => ?_⟩, fun tree hhas h => ?_, fun h => ?_⟩
  · exact tdstep_leaves hquiet h hhas fun l1 j l2 hl node hnode hdepth => hdots l1 j l2 hl node hnode (decide_eq_true hdepth)
  · exact tdleaf_leaves hquiet h hhas fun l1 j l2 hl node hnode hdepth => hdots l1 j l2 hl node hnode (decide_eq_true hdepth)
  · exact tdaddr_leaves hquiet h hhas
  · intro seen
    refine ⟨fun hlast => tdregrp_carries hbuf h hlast, fun hlast => ⟨fun hcounts => ?_, ?_⟩⟩
    · exact tdregrp_regroups hbuf h hlast hcounts
    · intro dev hcounts hclosed hm hawake henv
      exact tdregrp_stores hquiet h hlast hcounts hclosed hm hawake henv

end Sys2Proof.Machine

/-! PROOFS. Engine words at their dispatch: what orders the accesses of a strand, and how a word behind the draining of the strip ends (Table
7.3; R211 to R217). -/

namespace Sys2Proof.Machine

/-! ### What orders the accesses of a strand -/

/-- Two strands whose accesses are ordered alike: in one place, with the same held stores, holds, fences and writes on their way. -/
structure Strand.SameOrder (t u : Strand) : Prop where
  live : u.live = t.live
  place : u.g = t.g
  index : u.sidx = t.sidx
  pend : u.pend = t.pend
  holds : u.holds = t.holds
  remotes : u.remotes = t.remotes
  fences : u.fences = t.fences

theorem drained_sameOrder (t : Strand) : t.SameOrder t.drained := ⟨rfl, rfl, rfl, rfl, rfl, rfl, rfl⟩

section
variable {s : State} {u : Strand} (h : s.strand.SameOrder u) (cores : List Core) (ws : List Write)
include h

/-- The strands of a state, the one in front in another form. -/
theorem strands_midway : (s.midway cores u ws).st.strands = if s.strand.live then u :: s.parked else s.parked := by
  rw [← h.live]
  rfl

/-- What is asked of every strand alike is answered alike. -/
theorem flatMap_strands_midway {α : Type} (f : Strand → List α) (hf : f u = f s.strand) :
    (s.midway cores u ws).st.strands.flatMap f = s.strands.flatMap f := by
  rw [strands_midway h, State.strands]
  split
  · rw [List.flatMap_cons, List.flatMap_cons, hf]
  · rfl

theorem pendingUid_midway : (s.midway cores u ws).st.pendingUid = s.pendingUid := by
  funext n
  have hheld : (s.midway cores u ws).st.strands.any (fun t => t.pend.any fun p => decide (p.uid = n)) =
      s.strands.any fun t => t.pend.any fun p => decide (p.uid = n) := by
    rw [strands_midway h, State.strands]
    split
    · rw [List.any_cons, List.any_cons, h.pend]
    · rfl
  simp only [State.pendingUid, hheld]
  rfl

theorem stillPending_midway (l : List Nat) : (s.midway cores u ws).st.stillPending l = s.stillPending l := by
  rw [State.stillPending, pendingUid_midway h, State.stillPending]

theorem onChannels_midway (chs : BitVec 4) : (s.midway cores u ws).st.onChannels chs = s.onChannels chs := by
  have hstrand : (s.midway cores u ws).st.strand = u := rfl
  simp only [State.onChannels, hstrand, h.place, h.index]
  rfl

theorem cmdsOf_midway : (s.midway cores u ws).st.cmdsOf u = s.cmdsOf s.strand := by
  simp only [State.cmdsOf, h.place, h.index]
  rfl

theorem heathOf_midway : (s.midway cores u ws).st.heathOf u = s.heathOf s.strand := by
  simp only [State.heathOf, h.place, h.index]
  rfl

theorem externalOf_midway : (s.midway cores u ws).st.externalOf u = s.externalOf s.strand := by
  simp only [State.externalOf, h.place, h.index]
  rfl

theorem heldBy_midway (cls : Nat) (store : Bool) : (s.midway cores u ws).st.heldBy cls store = s.heldBy cls store := by
  have hstrand : (s.midway cores u ws).st.strand = u := rfl
  simp only [State.heldBy, stillPending_midway h, hstrand, h.holds]

theorem farOf_midway (p : Nat → Bool) : (s.midway cores u ws).st.farOf u p = s.farOf s.strand p := by
  simp only [State.farOf, stillPending_midway h, h.remotes]

theorem earlier_midway (m : BitVec 8) : (s.midway cores u ws).st.earlier m = s.earlier m := by
  have hstrand : (s.midway cores u ws).st.strand = u := rfl
  simp only [State.earlier, hstrand, cmdsOf_midway h, heathOf_midway h, externalOf_midway h, h.pend]

theorem earlierReleases_midway : (s.midway cores u ws).st.earlierReleases = s.earlierReleases := by
  have hstrand : (s.midway cores u ws).st.strand = u := rfl
  simp only [State.earlierReleases, stillPending_midway h, hstrand, h.holds]

theorem farStores_midway (sc : BitVec 2) : (s.midway cores u ws).st.farStores sc = s.farStores sc := by
  have hstrand : (s.midway cores u ws).st.strand = u := rfl
  simp only [State.farStores, hstrand, farOf_midway h]

theorem everyEarlier_midway : (s.midway cores u ws).st.everyEarlier = s.everyEarlier := by
  have hstrand : (s.midway cores u ws).st.strand = u := rfl
  simp only [State.everyEarlier, State.pendOf, hstrand, heathOf_midway h, h.pend, h.place, h.index]
  rfl

theorem pendBlockers_midway (lo hi : Nat) : (s.midway cores u ws).st.pendBlockers lo hi = s.pendBlockers lo hi := by
  have hstrand : (s.midway cores u ws).st.strand = u := rfl
  simp only [State.pendBlockers, hstrand, h.place]
  exact flatMap_strands_midway h cores ws _ (by rw [h.pend, h.place])

theorem envBlockers_midway (env wr : Option (Nat × Nat)) : (s.midway cores u ws).st.envBlockers env wr = s.envBlockers env wr := by
  have hstrand : (s.midway cores u ws).st.strand = u := rfl
  simp only [State.envBlockers, hstrand, h.place]
  rfl

/-- What a command is performed after depends on the order of its strand's accesses alone. -/
theorem commandAfter_midway (ch : Nat) (env wr : Option (Nat × Nat)) (xw : Bool) :
    (s.midway cores u ws).st.commandAfter ch env wr xw = s.commandAfter ch env wr xw := by
  have hstrand : (s.midway cores u ws).st.strand = u := rfl
  simp only [State.commandAfter, stillPending_midway h, onChannels_midway h, heldBy_midway h, hstrand, h.fences,
    pendBlockers_midway h, envBlockers_midway h, everyEarlier_midway h]

theorem waiters_midway : (s.midway cores u ws).st.waiters = s.waiters := by
  simp only [State.waiters, flatMap_strands_midway h cores ws (fun t => t.pend.map fun p => (p.uid, p.cmds)) (by rw [h.pend])]
  rfl

theorem stuck_midway : (s.midway cores u ws).st.stuck = s.stuck := by
  simp only [State.stuck, State.behindOf, waiters_midway h]
  rfl

theorem getBlockers_midway (regs : List Nat) : (s.midway cores u ws).st.getBlockers regs = s.getBlockers regs := by
  have hstrand : (s.midway cores u ws).st.strand = u := rfl
  simp only [State.getBlockers, hstrand, h.place, h.index]
  rfl

end

/-- The strand without holds waits for none. -/
theorem heldBy_none (s : State) (cls : Nat) (store : Bool) (h : s.strand.holds = []) : s.heldBy cls store = [] := by
  simp [State.heldBy, State.stillPending, h]

/-! ### How an engine word ends -/

/-- An engine word whose strip store buffer is empty runs from the strand with its strip closed and new trace records. -/
theorem engineWord_runs (s : State) (word : Nat) (a : Reg) (run : Work → Work) (hbuf : s.strand.buf = []) :
    ∃ cores, s.SameCores cores ∧ s.engineWork word a = s.midway cores s.strand.drained [] ∧
      engineWord word a run s = s.finish (run (s.midway cores s.strand.drained [])) := by
  obtain ⟨cores, hw, hcores⟩ := engineWork_midway s word a hbuf
  exact ⟨cores, hcores, hw, by rw [engineWord_unbuffered s word a run hbuf, hw]⟩

/-- A step that writes nothing leaves its strand and every byte. -/
theorem leaves_silent (s : State) (w : Work) (ha : w.absent = false) (hw : w.ws = []) : Leaves (s.finish w) s w.cur :=
  finish_silent s w ha hw

theorem leaves_midway (s : State) (cores : List Core) (u : Strand) : Leaves (s.finish (s.midway cores u [])) s u := leaves_silent s _ rfl rfl

@[simp] theorem midway_retire (s : State) (cores : List Core) (u : Strand) (ws : List Write) :
    (s.midway cores u ws).retire = s.midway cores u.nextWord ws := rfl
@[simp] theorem midway_result (s : State) (cores : List Core) (u : Strand) (ws : List Write) (d : Reg) (v : W64) :
    (s.midway cores u ws).result d v = s.midway cores (u.wx d v).nextWord ws := rfl
@[simp] theorem midway_wait (s : State) (cores : List Core) (u : Strand) (ws : List Write) (k : Wait) :
    (s.midway cores u ws).wait k = s.midway cores { u with waiting := k } ws := rfl

/-- Records of the trace ring on a step in the making. -/
theorem trace_midway (s : State) (cores : List Core) (u : Strand) (ws : List Write) (hcores : s.SameCores cores) (kind a : Nat) (b : W64) :
    ∃ cores', s.SameCores cores' ∧ (s.midway cores u ws).trace kind a b = s.midway cores' u ws := by
  obtain ⟨cores', htrace, hsame⟩ := trace_traced (s.midway cores u ws) kind a b
  exact ⟨cores', fun n => (hcores n).trans (hsame n), htrace⟩

/-! ### Exceptions of engine words -/

/-- A synchronous trap of an engine word outside a handler (R127). -/
theorem trapsAs_midway (s : State) (cores : List Core) (t : Trap) (hn : s.strand.nest = false) :
    TrapsAs (s.finish ((s.midway cores s.strand.drained []).trapWord t)) s t.code t.sub t.tval := by
  let w := (s.midway cores s.strand.drained []).upd fun t => { t with vslab := 0, vstart := 0 }
  have hnest : w.cur.nest = false := hn
  obtain ⟨p, r, htrap⟩ := w.takeTrap_cur false t (by simp [hnest])
  obtain ⟨hpriv, hppriv, htie, hptie, hnest'⟩ := statusOf_bits true s.strand.tie false s.strand.priv true
  refine ⟨_, State.finish_next _ _ (takeTrap_absent w t hnest), ?_⟩
  rw [commit_strand, Work.trapWord, htrap]
  exact ⟨rfl, by simp [causeOf], rfl, hpriv, hppriv, htie, hptie, hnest', rfl, rfl, rfl, rfl⟩

end Sys2Proof.Machine

/-! PROOFS. Tag waits, `cfirst`, `cdrain` and `cfence` (O30; R209 to R211, R398). -/

namespace Sys2Proof.Machine

/-! ### A tag wait -/

/-- Copies that go on stay the commands of their channels. -/
theorem onChannels_resumeCopies (s : State) (tags : W64) (chs : BitVec 4) : (s.resumeCopies tags).onChannels chs = s.onChannels chs := by
  simp only [State.onChannels, State.resumeCopies, List.filter_map, List.map_map]
  congr 1
  · funext c
    simp only [Function.comp_apply]
    split
    · split <;> rfl
    · rfl
  · congr 1
    funext c
    simp only [Function.comp_apply]
    split
    · split <;> rfl
    · rfl

/-- A step that stands behind the deliveries of a tag wait, with nothing done yet. -/
structure Work.Undelivered (k : Work) (s : State) : Prop where
  absent : k.absent = false
  ws : k.ws = []
  cur : k.cur = s.strand.drained
  onChannels : ∀ chs, k.st.onChannels chs = s.onChannels chs

section
variable {s : State} (hbuf : s.strand.buf = []) (word : Nat) (a : Reg) (tags : W64) (chs : BitVec 4) (go : Work → Work)
include hbuf

/-- With nothing to deliver the word goes on. -/
theorem tagWait_goes (hd : s.strand.deliver = []) :
    ∃ k : Work, k.Undelivered s ∧ engineWord word a (fun w => w.deliverOr tags chs false go) s = s.finish (go k) := by
  obtain ⟨cores, -, -, hrun⟩ := engineWord_runs s word a (fun w => w.deliverOr tags chs false go) hbuf
  let w := s.midway cores s.strand.drained []
  have hchannels (c : BitVec 4) : w.st.onChannels c = s.onChannels c := onChannels_midway (drained_sameOrder _) cores [] c
  refine ⟨if w.cur.nest then w else w.mod fun s => s.resumeCopies tags, ?_, hrun.trans (congrArg s.finish (deliverOr_of_nothing w _ _ _ _ hd))⟩
  split
  · exact ⟨rfl, rfl, rfl, hchannels⟩
  · exact ⟨rfl, rfl, rfl, fun c => (onChannels_resumeCopies w.st tags c).trans (hchannels c)⟩

/-- With nothing to deliver a word that goes on without a write leaves what it makes of the strand. -/
theorem tagWait_leaves (hd : s.strand.deliver = []) (u : Strand)
    (hgo : ∀ k : Work, k.Undelivered s → (go k).absent = false ∧ (go k).ws = [] ∧ (go k).cur = u) :
    Leaves (engineWord word a (fun w => w.deliverOr tags chs false go) s) s u := by
  obtain ⟨k, hk, hrun⟩ := tagWait_goes hbuf word a tags chs go hd
  obtain ⟨ha, hw, hc⟩ := hgo k hk
  rw [hrun, ← hc]
  exact leaves_silent s _ ha hw

/-- A word that goes on retires with what it makes of the strand. -/
theorem tagWait_retires (hd : s.strand.deliver = []) (f : Strand → Strand) (hgo : ∀ k : Work, k.Undelivered s → go k = (k.upd f).retire) :
    Leaves (engineWord word a (fun w => w.deliverOr tags chs false go) s) s (f s.strand.drained).nextWord :=
  tagWait_leaves hbuf word a tags chs go hd _ fun k hk => by
    rw [hgo k hk]
    exact ⟨hk.absent, hk.ws, congrArg (fun t => (f t).nextWord) hk.cur⟩

/-- A word whose bits are not set waits for them. -/
theorem tagWait_waits (hd : s.strand.deliver = []) (for_ : Wait) (hgo : ∀ k : Work, k.Undelivered s → go k = k.wait for_) :
    Leaves (engineWord word a (fun w => w.deliverOr tags chs false go) s) s { s.strand.drained with waiting := for_ } :=
  tagWait_leaves hbuf word a tags chs go hd _ fun k hk => by
    rw [hgo k hk]
    exact ⟨hk.absent, hk.ws, congrArg (fun t : Strand => { t with waiting := for_ }) hk.cur⟩

/-- Outside a handler a delivery that is due is taken at the word (R210, R127). -/
theorem tagWait_takes (hn : s.strand.nest = false) (d : Delivery) (hc : d.contain = none) (hdue : s.strand.drained.due tags chs false = some d) :
    ∃ u, engineWord word a (fun w => w.deliverOr tags chs false go) s = .next u ∧ u.strand.epc = s.strand.pc ∧
      u.strand.cause = BitVec.ofNat 17 (65536 + d.sub * 256 + d.code) ∧ u.strand.tval = d.tval ∧
      u.strand.deliver = s.strand.deliver.erase d ∧ u.strand.pc = s.strand.tvec &&& (BitVec.allOnes 64 - 63) ∧ u.strand.x = s.strand.x := by
  obtain ⟨cores, -, -, hrun⟩ := engineWord_runs s word a (fun w => w.deliverOr tags chs false go) hbuf
  let w := (s.midway cores s.strand.drained []).upd fun t => { t with deliver := t.deliver.erase d, vslab := 0, vstart := 0 }
  have hnest : s.strand.drained.nest = false := hn
  have hdeliver : (s.midway cores s.strand.drained []).deliverOr tags chs false go = w.takeTrap true ⟨d.code, d.sub, d.tval⟩ := by
    simp only [Work.deliverOr, midway_cur, hnest, hdue, hc, Bool.false_eq_true, if_false, w]
  obtain ⟨l, r, hcur⟩ := w.takeTrap_cur true ⟨d.code, d.sub, d.tval⟩ (by simp)
  refine ⟨_, hrun.trans ((congrArg s.finish hdeliver).trans (State.finish_next s _ (by simp [Work.takeTrap, w, State.midway]))), ?_⟩
  rw [commit_strand, hcur]
  exact ⟨rfl, rfl, rfl, rfl, rfl, rfl⟩

end

/-! ### The words -/

/-- The lowest set bit of a word (Table 6.2, `ctz`). -/
theorem trailingZeros_lowest (v : W64) (n : Nat) (hn : n < 64) (hset : v.getLsbD n = true) (hlow : ∀ j, j < n → v.getLsbD j = false) :
    trailingZeros 64 v.toNat = n := by
  rw [trailingZeros_eq]
  refine length_takeWhile_range _ n 64 hn.le (fun j hj => ?_) fun _ => ?_
  · exact congrArg not (hlow j hj)
  · exact congrArg not hset

/-- A mask of 0 in `cfence` is illegal with subcode 1. -/
theorem cfence_illegal (s : State) (hbuf : s.strand.buf = []) (hn : s.strand.nest = false) :
    TrapsAs (exec (.cfence 0) s) s 1 1 (BitVec.ofNat 64 (encodeNat (.cfence 0))) := by
  rw [exec_cfence]
  obtain ⟨cores, -, -, hrun⟩ := engineWord_runs s (encodeNat (.cfence 0)) 0 _ hbuf
  rw [execCfence, hrun]
  exact trapsAs_midway s cores ⟨1, 1, zext (encode (.cfence 0))⟩ hn

theorem execCfence_waits (mask : BitVec 4) (s : State) (h : mask ≠ 0) :
    execCfence mask s = engineWord (encodeNat (.cfence mask)) 0 (fun w => w.deliverOr 0 mask false fun k =>
      (k.upd fun s => { s.collect mask with fences := s.fences ++ [(mask, k.st.onChannels mask)] }).retire) s := by
  simp only [execCfence, if_neg h]

/-- Settles O30: each word is a tag wait over its bits, and goes on or waits by them. -/
theorem tagWordsWaitForTheirBits : Obligations.TagWordsWaitForTheirBits := by
  unfold Obligations.TagWordsWaitForTheirBits
  intro a b ch mask s hbuf t m v chs takes
  refine ⟨fun hd => ⟨fun h => ?_, fun h0 h => ?_, fun h => ?_, fun h => ?_, fun h => ?_, fun n hn hset hlow => ?_, fun h => ?_, fun h => ?_,
    fun h => ?_⟩, fun hn => ⟨cfence_illegal s hbuf hn, fun d hc => ⟨fun h => ⟨?_, ?_⟩, fun h => ?_, fun h => ?_, fun h0 h => ?_⟩⟩⟩
  · exact tagWait_retires hbuf _ a m 0 _ hd id fun k hk => if_pos (by rw [hk.cur]; exact h)
  · exact tagWait_waits hbuf _ a m 0 _ hd _ fun k hk => if_neg (by rw [hk.cur]; rintro (h' | h'); exacts [h0 h', h' h])
  · exact tagWait_retires hbuf _ a m 0 _ hd id fun k hk => if_pos (by rw [hk.cur]; exact h)
  · exact tagWait_waits hbuf _ a m 0 _ hd _ fun k hk => if_neg (by rw [hk.cur]; exact h)
  · exact tagWait_retires hbuf _ a (t.rx b) 0 _ hd (·.wx a (BitVec.allOnes 64)) fun k hk =>
      congrArg (k.result a) (if_pos (by rw [hk.cur]; exact h))
  · have hne : v ≠ 0 := fun h0 => by simp [h0] at hset
    refine tagWait_retires hbuf _ a (t.rx b) 0 _ hd (·.wx a (BitVec.ofNat 64 n)) fun k hk => congrArg (k.result a) ?_
    rw [← trailingZeros_lowest v n hn hset hlow, hk.cur]
    exact if_neg hne
  · exact tagWait_retires hbuf _ 0 0 chs _ hd (·.collect chs) fun k hk => if_pos (by rw [hk.onChannels]; exact List.isEmpty_iff.mpr h)
  · exact tagWait_waits hbuf _ 0 0 chs _ hd _ fun k hk => by
      rw [hk.onChannels]
      exact if_neg fun hempty => h (List.isEmpty_iff.mp hempty)
  · rw [exec_cfence, execCfence_waits mask s h]
    exact tagWait_retires hbuf _ 0 0 mask _ hd (fun u => { u.collect mask with fences := u.fences ++ [(mask, s.onChannels mask)] })
      fun k hk => by rw [hk.onChannels]
  · exact tagWait_takes hbuf _ a m 0 _ hn d hc h
  · exact tagWait_takes hbuf _ a m 0 _ hn d hc h
  · exact tagWait_takes hbuf _ a (t.rx b) 0 _ hn d hc h
  · exact tagWait_takes hbuf _ 0 0 chs _ hn d hc h
  · dsimp only [takes]
    rw [exec_cfence, execCfence_waits mask s h0]
    exact tagWait_takes hbuf _ 0 0 mask _ hn d hc h

end Sys2Proof.Machine

/-! PROOFS. Words that queue a command: copies and no-return atomics (O31, O34; R199 to R204, R212, R219, R220). -/

namespace Sys2Proof.Machine

/-! ### A command put on a channel -/

/-- The registers that the fields of a word name. -/
theorem cmdRegs_eq (t u : Strand) (word : Nat) (h : u.x = t.x) : u.cmdRegs word = t.cmdRegs word := by
  simp only [Strand.cmdRegs, Strand.rx, h]

theorem hasRoom_midway (s : State) (cores : List Core) (u : Strand) (ch : Nat) (h : s.strand.SameOrder u) (hroom : s.hasRoom ch) :
    ¬ 32 ≤ ((s.midway cores u []).st.onChannels (BitVec.ofNat 4 (2 ^ ch))).length := by
  rw [onChannels_midway h]
  exact not_le.mpr hroom

/-- A word that queues a command and retires (R212). -/
theorem queues_midway (s : State) (cores : List Core) (u : Strand) (word ch : Nat) (env wr : Option (Nat × Nat)) (xw : Bool)
    (body : CmdBody) (h : s.strand.SameOrder u) (hx : u.x = s.strand.x) :
    Queues (s.finish ((s.midway cores u []).queueCmd word ch env wr xw body).retire) s u.nextWord (s.queued word ch env wr xw body) := by
  have hcmd : (s.midway cores u []).st.commandAfter ch env wr xw = s.commandAfter ch env wr xw := commandAfter_midway h cores [] ch env wr xw
  refine ⟨_, State.finish_next s _ rfl, commit_strand s _, ?_, ?_, ?_⟩
  · rw [State.commit_nil s _ rfl, State.queued, ← hcmd, ← cmdRegs_eq s.strand u word hx, ← h.place, ← h.index]
    rfl
  · rw [State.commit_nil s _ rfl]
    rfl
  · rw [State.commit_nil s _ rfl]
    exact sameBytes_base s _

/-! ### Copies -/

theorem tagBusy_midway (s : State) (cores : List Core) (u : Strand) (tag : Nat) (h : s.strand.SameOrder u) :
    (s.midway cores u []).st.tagBusy tag = s.tagBusy tag := by
  have hstrand : (s.midway cores u []).st.strand = u := rfl
  simp only [State.tagBusy, hstrand, h.place, h.index]
  rfl

theorem external_midway (s : State) (cores : List Core) (u : Strand) (core ctx : Nat) :
    (s.midway cores u []).st.external core ctx = s.external core ctx := by
  funext r
  simp only [State.external, leafFor_midway]

/-- A copy whose tag is free and whose channel has room is queued with its tag bit clear (R204). -/
theorem issueCopy_queues (s : State) (cores : List Core) (word : Nat) (tag : BitVec 6) (ch : BitVec 2) (k : Checked)
    (htag : s.tagBusy tag.toNat = false) (hroom : s.hasRoom ch.toNat) :
    let t := s.strand.drained
    Queues (s.finish ((s.midway cores t []).issueCopy word tag ch k.env k.wr k.body)) s
      { t with tags := t.tags &&& ~~~(BitVec.ofNat 64 (2 ^ tag.toNat)) }.nextWord
      (s.queued word ch.toNat k.env k.wr (k.body.targets.any (s.external t.g.core t.g.ctx)) (.copy tag.toNat k.body 0 none .moving)) := by
  intro t
  have horder := drained_sameOrder s.strand
  have hfree : (s.midway cores t []).copyRoom tag.toNat ch.toNat = none := by
    rw [Work.copyRoom, tagBusy_midway s cores t _ horder, htag, if_neg Bool.false_ne_true, if_neg (hasRoom_midway s cores t _ horder hroom)]
  simp only [Work.issueCopy, hfree, external_midway]
  exact queues_midway s cores { t with tags := t.tags &&& ~~~(BitVec.ofNat 64 (2 ^ tag.toNat)) } word ch.toNat k.env k.wr _ _
    ⟨rfl, rfl, rfl, rfl, rfl, rfl, rfl⟩ rfl

/-- A copy word whose plan answers queues the copy of its plan. -/
theorem copy_queues (s : State) (word : Nat) (a : Reg) (tag : BitVec 6) (ch : BitVec 2) (plan : Work → Except Stop Checked) (k : Checked)
    (hbuf : s.strand.buf = []) (htag : s.tagBusy tag.toNat = false) (hroom : s.hasRoom ch.toNat)
    (hplan : plan (s.engineWork word a) = .ok k) :
    let t := s.strand.drained
    Queues (engineWord word a (fun w => finishCopy w word tag ch (plan w)) s) s
      { t with tags := t.tags &&& ~~~(BitVec.ofNat 64 (2 ^ tag.toNat)) }.nextWord
      (s.queued word ch.toNat k.env k.wr (k.body.targets.any (s.external t.g.core t.g.ctx)) (.copy tag.toNat k.body 0 none .moving)) := by
  intro t
  obtain ⟨cores, -, hwork, hrun⟩ := engineWord_runs s word a (fun w => finishCopy w word tag ch (plan w)) hbuf
  rw [hwork] at hplan
  rw [hrun, hplan]
  exact issueCopy_queues s cores word tag ch k htag hroom

/-- A copy word by shape. -/
theorem copyWord_queues (s : State) (i : Instr) (dstSp srcSp nest : Bool) (a b c : Reg) (tag : BitVec 6) (ch : BitVec 2) (g : Nat)
    (hbuf : s.strand.buf = []) (htag : s.tagBusy tag.toNat = false) (hroom : s.hasRoom ch.toNat) (k : Checked)
    (hplan : shapedCopy (s.engineWork (encodeNat i) a) dstSp srcSp (s.strand.rx a) (s.strand.rx b)
      (if nest then nestShape (s.strand.rx c) g else blockShape (s.strand.rx c)) = .ok k) :
    let t := s.strand.drained
    Queues (copyWord i dstSp srcSp a b c tag ch nest g s) s
      { t with tags := t.tags &&& ~~~(BitVec.ofNat 64 (2 ^ tag.toNat)) }.nextWord
      (s.queued (encodeNat i) ch.toNat k.env k.wr (k.body.targets.any (s.external t.g.core t.g.ctx))
        (.copy tag.toNat k.body 0 none .moving)) := by
  refine copy_queues s (encodeNat i) a tag ch (fun w => shapedCopy w dstSp srcSp (w.rx a) (w.rx b)
    (if nest then nestShape (s.strand.rx c) g else blockShape (s.strand.rx c))) k hbuf htag hroom ?_
  obtain ⟨cores, -, hwork, -⟩ := engineWord_runs s (encodeNat i) a id hbuf
  rw [hwork] at hplan ⊢
  exact hplan

/-- A block of at most 2^32 bytes between two places of memory passes its checks (R199). -/
theorem shapedCopy_blockVv (w : Work) (a b x : W64) (h : x.toNat ≤ 2 ^ 32) :
    shapedCopy w false false a b (blockShape x) = .ok ⟨none, none, .nest false false a.toNat b.toNat [x.toNat] [] [] 0⟩ := by
  simp only [shapedCopy, sideBits, copySide, joinEnv, blockShape, if_neg (not_lt.mpr h), Bool.not_false, if_true]

/-- Settles O31: the fourteen words are the copy of their plan, queued. -/
theorem copyWordsQueueTheirCopy : Obligations.CopyWordsQueueTheirCopy := by
  unfold Obligations.CopyWordsQueueTheirCopy
  intro a b c tag ch s hbuf htag hroom t x queues plan
  have shaped (i : Instr) (dstSp srcSp nest : Bool) (g : Nat) (k : Checked) (h : plan i dstSp srcSp
      (if nest then nestShape x g else blockShape x) = .ok k) := copyWord_queues s i dstSp srcSp nest a b c tag ch g hbuf htag hroom k h
  refine ⟨fun hx => shaped _ false false false 0 _ (shapedCopy_blockVv _ _ _ _ hx), fun k => ⟨fun h => ?_, fun h => ?_, fun h => ?_,
    fun h => ?_, fun h => ?_, fun h => ?_, fun h => ?_, fun h => ?_, fun h => ?_, fun h => ?_, fun h => ?_, fun h => ?_, fun h => ?_⟩⟩
  · exact shaped _ true false false 0 k h
  · exact shaped _ false true false 0 k h
  · exact shaped _ true true false 0 k h
  · exact shaped _ true false true 0 k h
  · exact shaped _ false true true 0 k h
  · exact shaped _ true true true 0 k h
  · exact shaped _ false false true 0 k h
  · exact shaped _ true false true 1 k h
  · exact shaped _ true false true 2 k h
  · exact copy_queues s _ a tag ch (gatherCopy (.cgathIn a b c tag ch) false a b c) k hbuf htag hroom h
  · exact copy_queues s _ a tag ch (gatherCopy (.cgathOut a b c tag ch) true b a c) k hbuf htag hroom h
  · exact copy_queues s _ a tag ch (getCopy (.cgetV a b tag ch) false a b) k hbuf htag hroom h
  · exact copy_queues s _ a tag ch (getCopy (.cgetVs a b tag ch) true a b) k hbuf htag hroom h

/-! ### No-return atomics -/

/-- The trace record of an atomic. -/
theorem traceAtomic_midway (s : State) (cores : List Core) (u : Strand) (hcores : s.SameCores cores) (wide : Bool) (a : Reg) :
    ∃ cores', s.SameCores cores' ∧ (s.midway cores u []).traceAtomic s wide a = s.midway cores' u [] := by
  unfold Work.traceAtomic
  split
  · exact trace_midway s cores u [] hcores _ _ _
  · exact ⟨cores, hcores, rfl⟩

/-- The operand of an atomic is the low bits of its register, as many as its width. -/
theorem atomOperand_eq (wide : Bool) (x : W64) : atomOperand wide x = x.toNat % 2 ^ (8 * atomSize wide) := by
  cases wide
  · rfl
  · exact (Nat.mod_eq_of_lt x.isLt).symm

/-- The word of a no-return atomic (Table 9.8). -/
theorem atomWord_noReturn (fn : Nat) (a b : Reg) (ch : BitVec 2) :
    atomWord fn 0 a b (ch.setWidth 5) = wordOf (0x78000000 + fn) [at15 a, at10 b, put ch 5] := by
  have hch : (ch.setWidth 5).toNat = ch.toNat := by
    rw [BitVec.toNat_setWidth, Nat.mod_eq_of_lt (lt_trans ch.isLt (by decide))]
  simp [atomWord, wordOf, hch, at15, at10, put]
  omega

/-- A no-return atomic on field memory is queued on its channel (R219, R220). -/
theorem noReturn_queues (s : State) (fn : Nat) (op : AtomOp) (wide : Bool) (a b : Reg) (ch : BitVec 2) (pa : Nat)
    (hbuf : s.strand.buf = []) (hroom : s.hasRoom ch.toNat)
    (h : s.checkVirtual s.strand.g.core s.strand.g.ctx (s.strand.rx a) (atomSize wide) .atomic = .ok (.mem .fm pa)) :
    Queues (noReturn fn op wide a b ch s) s s.strand.drained.nextWord
      (s.queued (wordOf (0x78000000 + fn) [at15 a, at10 b, put ch 5]) ch.toNat none none false
        (.atom op wide (s.strand.rx a).toNat pa none (BitVec.ofNat 64 ((s.strand.rx b).toNat % 2 ^ (8 * atomSize wide))) false)) := by
  obtain ⟨cores, hcores, -, hrun⟩ := engineWord_runs s (atomWord fn 0 a b (ch.setWidth 5)) a (fun w =>
    (w.traceAtomic s wide a).atomQueue (atomWord fn 0 a b (ch.setWidth 5)) op wide (s.strand.rx a) (atomOperand wide (s.strand.rx b))
      ch.toNat) hbuf
  obtain ⟨cores', -, htrace⟩ := traceAtomic_midway s cores s.strand.drained hcores wide a
  have horder := drained_sameOrder s.strand
  have hsite : (s.midway cores' s.strand.drained []).st.checkVirtual s.strand.drained.g.core s.strand.drained.g.ctx (s.strand.rx a)
      (atomSize wide) .atomic = .ok (.mem .fm pa) := (checkVirtual_midway ..).trans h
  rw [noReturn, hrun, htrace, ← atomOperand_eq, ← atomWord_noReturn]
  simp only [Work.atomQueue, midway_cur, hsite, if_neg (hasRoom_midway s cores' _ _ horder hroom)]
  exact queues_midway s cores' s.strand.drained _ ch.toNat none none false _ horder rfl

/-- Settles O34: each word is the atomic of its operation and width, queued. -/
theorem noReturnAtomicsQueue : Obligations.NoReturnAtomicsQueue := by
  unfold Obligations.NoReturnAtomicsQueue
  intro a b ch s pa hbuf hroom t queues both
  have queued (fn : Nat) (op : AtomOp) (wide : Bool) := noReturn_queues s fn op wide a b ch pa hbuf hroom
  exact ⟨⟨queued 0 .add false, queued 1 .add true⟩, ⟨queued 2 .and false, queued 3 .and true⟩, ⟨queued 4 .or false, queued 5 .or true⟩,
    ⟨queued 6 .xor false, queued 7 .xor true⟩, ⟨queued 8 .min false, queued 9 .min true⟩, ⟨queued 10 .max false, queued 11 .max true⟩,
    ⟨queued 12 .minu false, queued 13 .minu true⟩, ⟨queued 14 .maxu false, queued 15 .maxu true⟩,
    ⟨queued 16 .swp false, queued 17 .swp true⟩, queued 20 .fadd false⟩

end Sys2Proof.Machine

/-! PROOFS. Atomic accesses at field memory and the returning atomics (O33; R219 to R222, Table 9.8). -/

namespace Sys2Proof.Machine

/-! ### Bytes and numbers -/

theorem readN_length (m : Mem) (a n : Nat) : (Mem.readN m a n).length = n := by
  induction n generalizing a with
  | zero => rfl
  | succ n ih => rw [Mem.readN, List.length_cons, ih]

/-- The bytes of the number that a list of bytes is. -/
theorem leBytes_leNat (l : List Byte) : leBytes l.length (leNat l) = l := by
  induction l with
  | nil => rfl
  | cons b l ih =>
    have hlt := b.isLt
    have hlow : BitVec.ofNat 8 (b.toNat + 256 * leNat l) = b := by
      apply BitVec.eq_of_toNat_eq
      rw [BitVec.toNat_ofNat]
      omega
    have hrest : (b.toNat + 256 * leNat l) / 256 = leNat l := by omega
    rw [List.length_cons, leNat, leBytes, hlow, hrest, ih]

theorem leBytes_readN (m : Mem) (a n : Nat) : leBytes n (leNat (Mem.readN m a n)) = Mem.readN m a n := by
  have h := leBytes_leNat (Mem.readN m a n)
  rwa [readN_length] at h

/-- Bytes that a step leaves are read there. -/
theorem readN_of_reads {m : Mem} {a n v : Nat} (h : ∀ j, j < (leBytes n v).length → Mem.read m (a + j) = (leBytes n v).getD j 0) :
    Mem.readN m a n = leBytes n v := by
  have hread := readN_eq m a (leBytes n v) h
  rwa [length_leBytes] at hread

theorem sameBytes_but {s t : State} (h : s.sameBytes t) (g : Tgt) (a n : Nat) : s.sameBytesBut t g a n := fun g' b _ => h g' b

theorem sameBytes_readN {s t : State} (h : s.sameBytes t) (g : Tgt) (a n : Nat) : Mem.readN (t.memOf g) a n = Mem.readN (s.memOf g) a n :=
  readN_congr _ _ _ _ fun x _ _ => h g x

/-! ### One atomic access -/

theorem atomSize_pow (wide : Bool) : ∃ k ≤ 3, atomSize wide = 2 ^ k := by
  cases wide
  · exact ⟨2, by decide, rfl⟩
  · exact ⟨3, by decide, rfl⟩

/-- A checked access of a power of two bytes lies in one line of its memory. -/
theorem linesOf_checked {s : State} {core ctx : Nat} {va : W64} {k : Nat} {a : Acc} {g : Tgt} {pa : Nat} (hk : k ≤ 3)
    (h : s.checkVirtual core ctx va (2 ^ k) a = .ok (.mem g pa)) : linesOf pa (2 ^ k) = [pa / 64] := by
  have hal := checkVirtual_aligned h
  have hmod : pa % 2 ^ k = va.toNat % 2 ^ k := by
    simp only [State.checkVirtual, hal, ne_eq, not_true_eq_false, if_false] at h
    split at h
    · cases h
    · exact access_mem_aligned s core ctx va a g pa k hk h
  exact linesOf_aligned pa k hk (hmod.trans hal)

/-- The writes that an atomic makes: the new value, where it performs a write. -/
def atomWrites (pa n : Nat) (o : BitVec 12) (new : Option Nat) : List Write :=
  (new.map fun v => Write.put .fm pa (leBytes n v) o false).toList

/-- An atomic access at a place of field memory is one write of the new value (R219). -/
theorem atomAt_field (w : Work) (op : AtomOp) (wide : Bool) (pa b c : Nat) (hw : w.ws = []) (hpa : pa < 384 * 2 ^ 30) :
    let old := leNat (Mem.readN w.st.fm pa (atomSize wide))
    w.atomAt op wide (.mem .fm pa) .fm pa b c = (old, (atomNew op wide old b c).2,
      { w with ws := atomWrites pa (atomSize wide) (w.st.ownerTag w.cur.g.ctx) (atomNew op wide old b c).1 }) := by
  intro old
  have hold : leNat (w.bytes .fm pa (atomSize wide)) = old := by rw [Work.bytes, hw]; rfl
  have hnote (k : Work) : k.note (.mem .fm pa) = k := note_exists k _ (decide_eq_true hpa)
  simp only [Work.atomAt, hold, hnote]
  split
  · next v hv =>
    rw [hv]
    simp only [Work.storeAt, Work.perform, Work.putOwn, Work.put, hw, atomWrites]
    rfl
  · next hv =>
    rw [hv, atomWrites, Option.map_none, Option.toList_none, ← hw]

/-- What an atomic's writes leave in the memories. -/
theorem finish_atomWrites (s : State) (w : Work) (pa n : Nat) (o : BitVec 12) (new : Option Nat) (ha : w.absent = false)
    (hw : w.ws = atomWrites pa n o new) :
    ∃ t, s.finish w = .next t ∧ t.strand = w.cur ∧ s.sameBytesBut t .fm pa n ∧
      Mem.readN t.fm pa n = leBytes n (new.getD (leNat (Mem.readN s.fm pa n))) := by
  cases new with
  | none =>
    obtain ⟨t, ht, hstrand, hbytes⟩ := finish_silent s w ha hw
    exact ⟨t, ht, hstrand, sameBytes_but hbytes .fm pa n, (sameBytes_readN hbytes .fm pa n).trans (leBytes_readN s.fm pa n).symm⟩
  | some v =>
    obtain ⟨t, ht, hstrand, hbytes, hread⟩ := finish_put s w .fm pa (leBytes n v) o false ha hw
    rw [length_leBytes] at hbytes
    exact ⟨t, ht, hstrand, hbytes, readN_of_reads hread⟩

/-! ### Returning atomics -/

/-- The old value as its form returns it: sign-extended, but for `afadd.w` (R221, R222). -/
def returned (op : AtomOp) (wide : Bool) (old : Nat) : W64 :=
  if wide || decide (op = .fadd) then BitVec.ofNat 64 old else (BitVec.ofNat 32 old).signExtend 64

theorem sextBytes_four {old : Nat} (h : old < 2 ^ 32) : sextBytes 4 old = (BitVec.ofNat 32 old).signExtend 64 := by
  have hval : (BitVec.ofNat 32 old).toNat = old := by rw [BitVec.toNat_ofNat, Nat.mod_eq_of_lt h]
  rw [← ofInt_signed 32 (BitVec.ofNat 32 old), hval]
  rfl

/-- The response of an atomic at the strand that issued it. -/
theorem atomReturn_plain (w : Work) (op : AtomOp) (wide : Bool) (d : Reg) (va : W64) (old : Nat) (fl : Flags)
    (hold : old < 2 ^ (8 * atomSize wide)) :
    w.atomReturn ⟨d, wide, decide (op = .fadd), none, va⟩ old fl =
      (w.upd fun s => { s.raise fl with flight := .none }).result d (returned op wide old) := by
  simp only [Work.atomReturn, returned]
  split
  · rfl
  · next h =>
    rw [Bool.or_eq_true, not_or] at h
    have hnarrow : wide = false := by simpa using h.1
    rw [hnarrow] at hold
    rw [sextBytes_four hold]

/-- An atomic whose place has been found, with nothing in its way, performs its access at once and responds (R220, R222). -/
theorem atomic_performs (w : Work) (op : AtomOp) (r : AtomEnd) (va : W64) (pa b c : Nat) (hflight : w.cur.flight = .none)
    (hsite : w.st.checkVirtual w.cur.g.core w.cur.g.ctx va (atomSize r.wide) .atomic = .ok (.mem .fm pa))
    (hheld : w.st.heldBy 4 false ++ w.st.heldBy 4 true = []) (hws : w.ws = []) (hlog : w.st.undoF.length < Config.undoCapF)
    (hclean : (w.st.line false (pa / 64)).poison = false) (hpa : pa < 384 * 2 ^ 30) :
    let old := leNat (Mem.readN w.st.fm pa (atomSize r.wide))
    w.atomic op r va b c = ({ w with
      ws := atomWrites pa (atomSize r.wide) (w.st.ownerTag w.cur.g.ctx) (atomNew op r.wide old b c).1 } : Work).atomReturn r old
        (atomNew op r.wide old b c).2 := by
  obtain ⟨k, hk, hsize⟩ := atomSize_pow r.wide
  have hlines : linesOf pa (atomSize r.wide) = [pa / 64] := by
    rw [hsize] at hsite ⊢
    exact linesOf_checked hk hsite
  have hwait : w.storeWait w.cur.g.ctx va.toNat (.mem .fm pa) (atomSize r.wide) = none := by
    simp only [Work.storeWait, hlines, linesFit_one w false (pa / 64) hws hlog, if_true]
  have hpoison : w.st.poisoned (.mem .fm pa) = false := hclean
  simp only [Work.atomic, hflight, hsite, hheld, hwait, hpoison, List.isEmpty_nil, Bool.not_true, Bool.false_eq_true, if_false,
    atomAt_field w op r.wide pa b c hws hpa]

/-- A returning atomic on field memory with nothing in its way (R220 to R222). -/
theorem returning_performs (s : State) (fn : Nat) (op : AtomOp) (wide : Bool) (d a b c : Reg) (pa : Nat)
    (hbuf : s.strand.buf = []) (hholds : s.strand.holds = []) (hflight : s.strand.flight = .none)
    (hlog : s.undoF.length < Config.undoCapF) (hpa : pa + 8 ≤ 384 * 2 ^ 30) (hpoison : (s.line false (pa / 64)).poison = false)
    (h : s.checkVirtual s.strand.g.core s.strand.g.ctx (s.strand.rx a) (atomSize wide) .atomic = .ok (.mem .fm pa)) :
    let t := s.strand.drained
    let old := leNat (Mem.readN s.fm pa (atomSize wide))
    let r := atomNew op wide old ((t.rx b).toNat % 2 ^ (8 * atomSize wide)) ((t.rx c).toNat % 2 ^ (8 * atomSize wide))
    ∃ u, returning fn op wide d a b c s = .next u ∧ u.strand = ((t.raise r.2).wx d (returned op wide old)).nextWord ∧
      s.sameBytesBut u .fm pa (atomSize wide) ∧ Mem.readN u.fm pa (atomSize wide) = leBytes (atomSize wide) (r.1.getD old) := by
  intro t old r
  obtain ⟨cores, hcores, -, hrun⟩ := engineWord_runs s (atomWord fn d a b c) a (fun w =>
    (w.traceAtomic s wide a).atomic op ⟨d, wide, decide (op = .fadd), none, s.strand.rx a⟩ (s.strand.rx a)
      (atomOperand wide (s.strand.rx b)) (atomOperand wide (s.strand.rx c))) hbuf
  obtain ⟨cores', -, htrace⟩ := traceAtomic_midway s cores t hcores wide a
  let w := s.midway cores' t []
  have horder := drained_sameOrder s.strand
  have hheld : w.st.heldBy 4 false ++ w.st.heldBy 4 true = [] := by
    rw [heldBy_midway horder, heldBy_midway horder, heldBy_none s _ _ hholds, heldBy_none s _ _ hholds]
    rfl
  have hatomic := atomic_performs w op ⟨d, wide, decide (op = .fadd), none, s.strand.rx a⟩ (s.strand.rx a) pa
    (atomOperand wide (s.strand.rx b)) (atomOperand wide (s.strand.rx c)) hflight ((checkVirtual_midway ..).trans h) hheld rfl hlog hpoison
    (by omega)
  rw [returning, hrun, htrace, hatomic, atomOperand_eq, atomOperand_eq]
  obtain ⟨u, hu, hstrand, hbytes, hread⟩ := finish_atomWrites s
    (({ w with ws := atomWrites pa (atomSize wide) (w.st.ownerTag w.cur.g.ctx) r.1 }.upd fun s => { s.raise r.2 with flight := .none }).result
      d (returned op wide old)) pa (atomSize wide) _ r.1 rfl rfl
  refine ⟨u, (congrArg s.finish (atomReturn_plain _ op wide d _ old r.2 (leNat_readN_lt s.fm pa (atomSize wide)))).trans hu,
    hstrand.trans ?_, hbytes, hread⟩
  change (({ t.raise r.2 with flight := .none } : Strand).wx d (returned op wide old)).nextWord = _
  rw [← hflight]
  rfl

/-- Settles O33: each word is the atomic of its operation and width. -/
theorem returningAtomicsReadModifyWrite : Obligations.ReturningAtomicsReadModifyWrite := by
  unfold Obligations.ReturningAtomicsReadModifyWrite
  intro d a b c s pa
  dsimp only
  intro hbuf hholds hpend hflight hlog hpa hpoison
  have word (fn : Nat) (op : AtomOp) (e : Reg) := returning_performs s fn op false d a b e pa hbuf hholds hflight hlog hpa hpoison
  have double (fn : Nat) (op : AtomOp) (e : Reg) := returning_performs s fn op true d a b e pa hbuf hholds hflight hlog hpa hpoison
  simp only [atomSize, Bool.false_eq_true, if_false, if_true] at word double
  have cas (wide : Bool) (o x y : Nat) : atomNew .cas wide o x y = (if o = y then some x else none, 0) := rfl
  have casWord := word 18 .cas c
  have casDouble := double 19 .cas c
  simp only [cas] at casWord casDouble
  exact ⟨⟨word 0 .add 0, double 1 .add 0⟩, ⟨word 2 .and 0, double 3 .and 0⟩, ⟨word 4 .or 0, double 5 .or 0⟩,
    ⟨word 6 .xor 0, double 7 .xor 0⟩, ⟨word 8 .min 0, double 9 .min 0⟩, ⟨word 10 .max 0, double 11 .max 0⟩,
    ⟨word 12 .minu 0, double 13 .minu 0⟩, ⟨word 14 .maxu 0, double 15 .maxu 0⟩, ⟨word 16 .swp 0, double 17 .swp 0⟩,
    ⟨casWord, casDouble⟩, ⟨word 21 .incb 0, double 22 .incb 0⟩, word 20 .fadd 0⟩

end Sys2Proof.Machine

/-! PROOFS. `sbar`, fences, acquiring loads and releasing stores (O36; R216 to R218). -/

namespace Sys2Proof.Machine

/-! ### Holds -/

/-- A hold of later accesses behind what is still to be performed, none where there is nothing. -/
def Strand.heldBehind (t : Strand) (ld st : BitVec 8) (rel : Bool) (l : List Nat) : Strand :=
  if l = [] then t else { t with holds := t.holds ++ [⟨ld, st, l, rel⟩] }

theorem holdOn_midway (s : State) (cores : List Core) (t : Strand) (ws : List Write) (ld st : BitVec 8) (rel : Bool) (l : List Nat) :
    (s.midway cores t ws).holdOn ld st rel l = s.midway cores (t.heldBehind ld st rel l) ws := by
  cases l <;> rfl

/-- A hold behind nothing is none. -/
theorem holdOn_nil (w : Work) (ld st : BitVec 8) (rel : Bool) : w.holdOn ld st rel [] = w := rfl

/-- A word whose one effect is a hold. -/
theorem holdWord_leaves (s : State) (word : Nat) (ld st : BitVec 8) (rel : Bool) (before : State → List Nat) (hbuf : s.strand.buf = [])
    (hbefore : ∀ cores, before (s.midway cores s.strand.drained []).st = before s) :
    Leaves (engineWord word 0 (fun w => (w.holdOn ld st rel (before w.st)).retire) s) s
      (s.strand.drained.heldBehind ld st rel (before s)).nextWord := by
  obtain ⟨cores, -, -, hrun⟩ := engineWord_runs s word 0 (fun w => (w.holdOn ld st rel (before w.st)).retire) hbuf
  rw [hrun, hbefore, holdOn_midway]
  exact leaves_midway s cores _

/-! ### Accesses of an engine word -/

/-- An engine word finds the state with the strip of its strand closed. -/
theorem engineWork_opens (s : State) (word : Nat) (a : Reg) (hbuf : s.strand.buf = []) :
    (s.engineWork word a).Opens (s.withStrand s.strand.drained) := by
  have hopen : (s.midway s.cores s.strand.drained []).Opens (s.withStrand s.strand.drained) :=
    work_opens (s.withStrand s.strand.drained)
  have hdrain : s.work.drain = s.midway s.cores s.strand.drained [] := drain_of_empty s.work hbuf
  have hsrc (w : Work) (kind n : Nat) (b : W64) : (w.trace kind n b).src = w.src := by
    simp only [Work.trace]
    split <;> rfl
  simp only [State.engineWork, hdrain]
  split
  · refine ⟨trace_sameButRings (s.midway s.cores s.strand.drained []) _ _ _, trace_ws .., trace_absent .., ?_⟩
    rw [hsrc]
    rfl
  · exact hopen

/-- The place of a virtual address does not depend on the strip of the strand. -/
theorem fieldSite_drained {s : State} {va : W64} {write : Bool} {pa : Nat} (h : s.fieldSite va write pa) :
    (s.withStrand s.strand.drained).fieldSite va write pa := by
  obtain ⟨hcanon, hpa, leaf, big, hleaf, hrest⟩ := h
  exact ⟨hcanon, hpa, leaf, big, (leafFor_midway s s.cores s.strand.drained [] _ _ _).trans hleaf, hrest⟩

/-- A page of field memory that the context may write answers its place. -/
theorem access_writeSite (s : State) (va : W64) (pa : Nat) (h : s.fieldSite va true pa) :
    s.access s.strand.g.core s.strand.g.ctx va .write = .ok (.mem .fm pa) := by
  obtain ⟨-, -, leaf, big, hleaf, rfl, hregion, hwrite, hpages⟩ := h
  have hresident : (s.pages.any fun q => decide (q.ctx = s.strand.g.ctx) && decide (q.page = va.toNat / 2 ^ 21) && q.evicted.isSome) =
      false := by
    rw [List.any_eq_false]
    intro q hq hgone
    have hall := List.all_eq_true.1 hpages q hq
    rw [hgone] at hall
    exact absurd hall (by decide)
  have hpermit : permits .write leaf = true := by simpa [permits] using hwrite
  simp only [State.access, hleaf, hresident, hpermit, regionFor, hregion, Bool.false_eq_true, if_false, Bool.not_true, reduceCtorEq]

/-- A store to field memory that nothing keeps back is one write. -/
theorem store_field {w : Work} {s : State} (ho : w.Opens s) (hf : s.strand.Free) (cls : Nat) (va : Option Nat) (pa : Nat) (bs : List Byte)
    (o : BitVec 12) (hfits : w.linesFit false (linesOf pa bs.length) = true) :
    w.store cls va (.mem (.put .fm pa bs o false)) = { w with ws := [.put .fm pa bs o false] } := by
  rw [store_performs w cls va (.mem (.put .fm pa bs o false)) (by rw [ho.cur]; exact hf.buffering)
    (ho.blockers hf _ _ (fun _ _ h => by cases h) fun _ _ _ h => by cases h) hfits]
  simp only [Work.perform, Work.putOwn, Work.put, ho.ws, List.nil_append]

/-- An aligned store of a free strand to field memory whose log has room. -/
theorem storeVirtual_field {w : Work} {s : State} (ho : w.Opens s) (hf : s.strand.Free) (cls k : Nat) (hk : k ≤ 3) (va : W64) (pa v : Nat)
    (hal : va.toNat % 2 ^ k = 0) (hsite : s.fieldSite va true pa) (hlog : s.undoF.length < Config.undoCapF) :
    w.storeVirtual cls va (2 ^ k) v =
      .ok { w with ws := [.put .fm pa (leBytes (2 ^ k) v) (w.st.ownerTag w.cur.g.ctx) false] } := by
  have haccess := access_writeSite s va pa hsite
  have hcheck : w.st.checkVirtual w.cur.g.core w.cur.g.ctx va (2 ^ k) .write = .ok (.mem .fm pa) := by
    rw [ho.checkVirtual, checkVirtual_canonical _ _ _ _ _ _ hal hsite.1, haccess]
  have hfits : w.linesFit false (linesOf pa (2 ^ k)) = true :=
    ho.linesFit false pa k hk ((access_mem_aligned s _ _ _ _ _ pa k hk haccess).trans hal) hlog
  have hwait : w.storeWait w.cur.g.ctx va.toNat (.mem .fm pa) (2 ^ k) = none := by
    simp only [Work.storeWait, hfits, if_true]
  have hstore := store_field ho hf cls (some va.toNat) pa (leBytes (2 ^ k) v) (w.st.ownerTag w.cur.g.ctx) (by rwa [length_leBytes])
  simp only [Work.storeVirtual, hcheck, hwait, note_exists w (.mem .fm pa) (decide_eq_true hsite.2.1), Work.storeAt, hstore]

/-! ### `ld.acq` and `st.rel` -/

/-- `ld.acq` with nothing in its way loads (R217, R119). -/
theorem loadAcquire_loads (s : State) (fn k : Nat) (hk : k ≤ 3) (d a : Reg) (sc : BitVec 2) (pa : Nat) (hbuf : s.strand.buf = [])
    (hholds : s.strand.holds = []) (hpend : s.strand.pend = []) (hremotes : s.strand.remotes = [])
    (hpoison : (s.line false (pa / 64)).poison = false) (hal : (s.strand.rx a).toNat % 2 ^ k = 0) (hsite : s.fieldSite (s.strand.rx a) false pa) :
    Leaves (loadAcquire fn (2 ^ k) d a sc s) s (s.strand.drained.wx d (loaded s.fm pa k)).nextWord := by
  have ho := engineWork_opens s (syncWord fn d a 0 (sc.setWidth 5)) a hbuf
  have hload := loadVirtual_field _ _ 0 k (s.strand.rx a) pa ho ⟨hholds, hpend, rfl, hremotes⟩ hal (fieldSite_drained hsite) hpoison
  rw [note_exists _ (.mem .fm pa) (decide_eq_true hsite.2.1)] at hload
  rw [loadAcquire, engineWord_unbuffered s _ a _ hbuf]
  simp only [hload]
  have hvalue : sextBytes (2 ^ k) (leNat (Mem.readN (s.withStrand s.strand.drained).fm pa (2 ^ k))) = loaded s.fm pa k :=
    sextBytes_readN s.fm pa k hk
  rw [hvalue]
  obtain ⟨t, ht, hstrand, hbytes⟩ := finish_silent s ((s.engineWork (syncWord fn d a 0 (sc.setWidth 5)) a).result d (loaded s.fm pa k))
    ho.absent ho.ws
  refine ⟨t, ht, hstrand.trans ?_, hbytes⟩
  rw [show s.strand.drained = _ from ho.cur.symm]
  rfl

/-- `st.rel` with nothing to wait for stores (R217). -/
theorem storeRelease_stores (s : State) (fn k : Nat) (hk : k ≤ 3) (a b : Reg) (sc : BitVec 2) (pa : Nat) (hbuf : s.strand.buf = [])
    (hholds : s.strand.holds = []) (hpend : s.strand.pend = []) (hremotes : s.strand.remotes = [])
    (hearlier : s.earlier (releaseMask (decide (2 ≤ sc.toNat))) = []) (hlog : s.undoF.length < Config.undoCapF)
    (hal : (s.strand.rx a).toNat % 2 ^ k = 0) (hsite : s.fieldSite (s.strand.rx a) true pa) :
    ∃ u, storeRelease fn (2 ^ k) a b sc s = .next u ∧ u.strand = s.strand.drained.nextWord ∧ s.sameBytesBut u .fm pa (2 ^ k) ∧
      ∀ j, j < 2 ^ k → Mem.read u.fm (pa + j) = (s.strand.rx b).extractLsb' (8 * j) 8 := by
  let w := s.engineWork (syncWord fn 0 a b (sc.setWidth 5)) a
  have ho : w.Opens (s.withStrand s.strand.drained) := engineWork_opens s _ a hbuf
  have hf : s.strand.drained.Free := ⟨rfl, hpend, hholds, hremotes, rfl⟩
  have hcur : w.cur = s.strand.drained := ho.cur
  have hfar (e : Work) (he : e.cur = s.strand.drained) : e.st.farStores sc = [] := by
    have hstrand : e.st.strand.remotes = [] := (congrArg Strand.remotes he).trans hremotes
    simp [State.farStores, State.farOf, State.stillPending, hstrand]
  have hrelease : w.release sc = w := by
    obtain ⟨cores, -, hwork, -⟩ := engineWord_runs s (syncWord fn 0 a b (sc.setWidth 5)) a id hbuf
    have hbefore : w.st.earlier (releaseMask (decide (2 ≤ sc.toNat))) = [] := by
      rw [show w = _ from hwork, earlier_midway (drained_sameOrder _), hearlier]
    have hreleases : w.st.earlierReleases = [] := by
      have hstrand : w.st.strand.holds = [] := (congrArg Strand.holds hcur).trans hholds
      simp [State.earlierReleases, State.stillPending, hstrand]
    simp only [Work.release, hbefore, hfar w hcur, hreleases]
    exact holdOn_nil w _ _ _
  have hstore := storeVirtual_field ho hf 0 k hk (s.strand.rx a) pa (s.strand.rx b).toNat hal (fieldSite_drained hsite) hlog
  let stored : Work := { w with ws := [.put .fm pa (leBytes (2 ^ k) (s.strand.rx b).toNat) (w.st.ownerTag w.cur.g.ctx) false] }
  have hbehind : stored.behindStore sc w.st.nextId = stored := by
    have hstored : stored.cur = s.strand.drained := hcur
    simp only [Work.behindStore, hstored, hfar stored hstored, show s.strand.drained.pend = [] from hpend, List.map_nil, List.append_nil, List.filter_nil]
    exact holdOn_nil stored _ _ _
  have hrun : storeRelease fn (2 ^ k) a b sc s = s.finish stored.retire := by
    rw [storeRelease, engineWord_unbuffered s _ a _ hbuf]
    simp only [show (s.engineWork (syncWord fn 0 a b (sc.setWidth 5)) a).release sc = w from hrelease, hstore]
    exact congrArg (fun x => s.finish (Work.retire x)) hbehind
  obtain ⟨u, hu, hstrand, hbytes, hread⟩ := finish_put s stored.retire .fm pa (leBytes (2 ^ k) (s.strand.rx b).toNat) _ false ho.absent rfl
  rw [length_leBytes] at hbytes hread
  refine ⟨u, hrun.trans hu, hstrand.trans (congrArg Strand.nextWord hcur), hbytes, fun j hj => ?_⟩
  rw [← getD_leBytes_toNat _ _ _ hj]
  exact hread j hj

/-- Settles O36: three words that only hold, and the two accesses of streams 0. -/
theorem orderingWordsHoldLaterAccesses : Obligations.OrderingWordsHoldLaterAccesses := by
  unfold Obligations.OrderingWordsHoldLaterAccesses
  intro d a b pre post sc s pa hbuf t held m
  have horder := drained_sameOrder s.strand
  have hmask : m = releaseMask (decide (2 ≤ sc.toNat)) := by
    by_cases h : 2 ≤ sc.toNat
    · simp only [m, releaseMask, h, if_true, decide_true]
    · simp only [m, releaseMask, h, if_false, decide_false, Bool.false_eq_true]
  refine ⟨?_, ?_, ?_, fun hholds hpend hremotes hpoison k hk hal hsite => ?_, fun hholds hpend hremotes hearlier hlog k hk hal hsite => ?_⟩
  · exact holdWord_leaves s _ post post false (·.earlier pre) hbuf fun cores => earlier_midway horder cores [] pre
  · rw [hmask]
    refine holdWord_leaves s _ _ _ true (fun u => u.earlier _ ++ u.farStores sc ++ u.earlierReleases) hbuf fun cores => ?_
    rw [earlier_midway horder, farStores_midway horder, earlierReleases_midway horder]
  · obtain ⟨cores, -, -, hrun⟩ := engineWord_runs s (syncWord 2 0 0 0 (sc.setWidth 5)) 0 (fun w => w.retire) hbuf
    rw [exec_fenceAcq, execFenceAcq, hrun]
    exact leaves_midway s cores _
  · obtain rfl | rfl := hk
    · exact loadAcquire_loads s 3 2 (by decide) d a sc pa hbuf hholds hpend hremotes hpoison hal hsite
    · exact loadAcquire_loads s 4 3 (by decide) d a sc pa hbuf hholds hpend hremotes hpoison hal hsite
  · rw [hmask] at hearlier
    obtain rfl | rfl := hk
    · exact storeRelease_stores s 5 2 (by decide) a b sc pa hbuf hholds hpend hremotes hearlier hlog hal hsite
    · exact storeRelease_stores s 6 3 (by decide) a b sc pa hbuf hholds hpend hremotes hearlier hlog hal hsite

end Sys2Proof.Machine

/-! PROOFS. Barriers, the iteration ring and `mwait` (O37, O38; R230 to R232, R296 to R301). -/

namespace Sys2Proof.Machine

/-! ### Entries of a keyed list -/

theorem find?_upsert_same {α : Type} (same : α → Bool) (a : α) (l : List α) (h : same a = true) : (upsert same a l).find? same = some a := by
  induction l with
  | nil => simp [upsert, h]
  | cons b l ih =>
    simp only [upsert]
    split
    · simp [h]
    · next hb => rw [List.find?_cons_of_neg hb, ih]

theorem find?_upsert_other {α : Type} (same p : α → Bool) (a : α) (l : List α) (ha : p a = false)
    (h : ∀ b, same b = true → p b = false) : (upsert same a l).find? p = l.find? p := by
  induction l with
  | nil => simp [upsert, ha]
  | cons b l ih =>
    simp only [upsert]
    split
    · next hb => rw [List.find?_cons_of_neg (by simp [ha]), List.find?_cons_of_neg (by simp [h b hb])]
    · rw [List.find?_cons, List.find?_cons, ih]

/-! ### Barriers -/

theorem setBarrier_same (s : State) (id : BarId) (v : Barrier) : (s.setBarrier id v).barrier id = v := by
  cases id with
  | meadow m n => simp [State.setBarrier, State.barrier, find?_upsert_same]
  | device n => simp [State.setBarrier, State.barrier, find?_upsert_same]

theorem setBarrier_other (s : State) (id other : BarId) (v : Barrier) (h : other ≠ id) : (s.setBarrier id v).barrier other = s.barrier other := by
  cases id with
  | meadow m n =>
    cases other with
    | meadow m' n' =>
      have hkey : ¬(m = m' ∧ n = n') := fun ⟨hm, hn⟩ => h (by rw [hm, hn])
      simp only [State.setBarrier, State.barrier]
      rw [find?_upsert_other]
      · simpa using hkey
      · rintro ⟨x, y, z⟩ hsame
        simp only [Bool.and_eq_true, decide_eq_true_eq] at hsame
        simpa [hsame.1, hsame.2] using hkey
    | device n' => rfl
  | device n =>
    cases other with
    | meadow m' n' => rfl
    | device n' =>
      have hkey : n ≠ n' := fun hn => h (by rw [hn])
      simp only [State.setBarrier, State.barrier]
      rw [find?_upsert_other]
      · simpa using hkey
      · rintro ⟨x, y⟩ hsame
        simp only [decide_eq_true_eq] at hsame
        simpa [hsame] using hkey

/-- The barrier that a register names for the strand, bound to its context or not. -/
def State.barrierName (s : State) (meadow : Bool) (x : W64) : BarId :=
  if meadow then .meadow (s.strand.g.core / 24) x.toNat else .device x.toNat

/-- The barrier is the strand's: its number is in range and it is bound to the strand's context. -/
def State.ownBarrier (s : State) (meadow : Bool) (x : W64) : Prop :=
  x.toNat < (if meadow then 32 else 16) ∧ (s.barrier (s.barrierName meadow x)).bound = true ∧
    (s.barrier (s.barrierName meadow x)).ctx = s.strand.g.ctx

theorem barrierFor_own (s : State) (meadow : Bool) (x : W64) (h : s.ownBarrier meadow x) :
    s.barrierFor meadow x = some (s.barrierName meadow x) := by
  obtain ⟨hn, hb, hc⟩ := h
  refine if_neg ?_
  rintro (h | h | h)
  · omega
  · rw [Bool.not_eq_true'] at h
    exact Bool.false_ne_true (h.symm.trans hb)
  · exact h hc

theorem barrierFor_foreign (s : State) (meadow : Bool) (x : W64) (h : ¬ s.ownBarrier meadow x) : s.barrierFor meadow x = none := by
  refine if_pos ?_
  by_contra hnot
  simp only [not_or, not_le, Bool.not_eq_true', Bool.not_eq_false, not_not] at hnot
  exact h ⟨hnot.1, hnot.2.1, hnot.2.2⟩

theorem barrierFor_midway (s : State) (cores : List Core) (meadow : Bool) (x : W64) :
    (s.midway cores s.strand.drained []).st.barrierFor meadow x = s.barrierFor meadow x := by
  have hbarrier (id : BarId) : (s.midway cores s.strand.drained []).st.barrier id = s.barrier id := by cases id <;> rfl
  simp only [State.barrierFor, hbarrier]
  rfl

/-- What a release that is no store waits for (log 6). -/
def State.beforeRelease (s : State) (device : Bool) : List Nat := s.earlier (releaseMask device) ++ s.earlierReleases

theorem released_midway (s : State) (cores : List Core) (device : Bool) (go : Work → Work) :
    (s.midway cores s.strand.drained []).released device go =
      if s.beforeRelease device = [] then go (s.midway cores s.strand.drained [])
      else s.midway cores { s.strand.drained with waiting := .cmds (s.beforeRelease device) } [] := by
  have horder := drained_sameOrder s.strand
  simp only [Work.released, earlier_midway horder, earlierReleases_midway horder, List.isEmpty_iff]
  rfl

/-- An arrival with nothing earlier to wait for counts one participant more, at the last one of a generation (R298). -/
theorem arriveWord_arrives (s : State) (fn : Nat) (meadow : Bool) (d a : Reg) (hbuf : s.strand.buf = [])
    (hown : s.ownBarrier meadow (s.strand.rx a)) (hbefore : s.beforeRelease (!meadow) = []) :
    let id := s.barrierName meadow (s.strand.rx a)
    let gen := (s.barrier id).gen
    ∃ u, arriveWord fn meadow d a s = .next u ∧ s.sameBytes u ∧
      u.strand = ({ s.strand.drained with arrived := upsert (fun e => decide (e.1 = id)) (id, gen) s.strand.arrived }.wx d
        (BitVec.ofNat 64 gen)).nextWord ∧
      u.barrier id = (s.barrier id).arrive ∧ ∀ other, other ≠ id → u.barrier other = s.barrier other := by
  intro id gen
  obtain ⟨cores, -, -, hrun⟩ := engineWord_runs s (syncWord fn d a 0 0) a _ hbuf
  have hbarrier (e : BarId) : (s.midway cores s.strand.drained []).st.barrier e = s.barrier e := by cases e <;> rfl
  rw [arriveWord, hrun]
  simp only [barrierFor_midway, barrierFor_own s _ _ hown, released_midway, hbefore, if_true, hbarrier]
  let w := (((s.midway cores s.strand.drained []).mod fun t => t.setBarrier id (s.barrier id).arrive).upd fun t =>
    { t with arrived := upsert (fun e => decide (e.1 = id)) (id, gen) t.arrived }).result d (BitVec.ofNat 64 gen)
  have hbars (e : BarId) : (s.base w).barrier e = ((s.midway cores s.strand.drained []).st.setBarrier id (s.barrier id).arrive).barrier e := by
    cases e <;> rfl
  refine ⟨s.commit w, State.finish_next s w rfl, ?_, ?_, ?_, fun other hother => ?_⟩
  · rw [State.commit_nil s w rfl]
    exact sameBytes_base s w
  · rw [commit_strand]
    cases meadow <;> rfl
  · rw [State.commit_nil s w rfl, hbars, setBarrier_same]
  · rw [State.commit_nil s w rfl, hbars, setBarrier_other _ _ _ _ hother, hbarrier]

/-- An arrival with something earlier pending waits for it. -/
theorem arriveWord_waits (s : State) (fn : Nat) (meadow : Bool) (d a : Reg) (hbuf : s.strand.buf = [])
    (hown : s.ownBarrier meadow (s.strand.rx a)) (hbefore : s.beforeRelease (!meadow) ≠ []) :
    Leaves (arriveWord fn meadow d a s) s { s.strand.drained with waiting := .cmds (s.beforeRelease (!meadow)) } := by
  obtain ⟨cores, -, -, hrun⟩ := engineWord_runs s (syncWord fn d a 0 0) a _ hbuf
  rw [arriveWord, hrun]
  simp only [barrierFor_midway, barrierFor_own s _ _ hown, released_midway, hbefore, if_false]
  exact leaves_midway s cores _

/-- A wait at a barrier of the context retires once its generation has passed, and waits before. -/
theorem waitWord_waits (s : State) (fn : Nat) (meadow : Bool) (a b : Reg) (hbuf : s.strand.buf = [])
    (hown : s.ownBarrier meadow (s.strand.rx a)) :
    let id := s.barrierName meadow (s.strand.rx a)
    let g := (s.strand.rx b).toNat % 2 ^ 32
    ((s.barrier id).gen ≠ g → Leaves (waitWord fn meadow a b s) s s.strand.drained.nextWord) ∧
    ((s.barrier id).gen = g → Leaves (waitWord fn meadow a b s) s { s.strand.drained with waiting := .barrier id g }) := by
  intro id g
  obtain ⟨cores, -, -, hrun⟩ := engineWord_runs s (syncWord fn 0 a b 0) a _ hbuf
  have hbarrier (e : BarId) : (s.midway cores s.strand.drained []).st.barrier e = s.barrier e := by cases e <;> rfl
  rw [waitWord, hrun]
  simp only [barrierFor_midway, barrierFor_own s _ _ hown, hbarrier]
  refine ⟨fun h => ?_, fun h => ?_⟩
  · rw [if_pos h]
    exact leaves_midway s cores _
  · rw [if_neg (not_not.mpr h)]
    exact leaves_midway s cores _

/-- A word that names no barrier of its context is an access fault. -/
theorem barrierWords_fault (s : State) (fn : Nat) (meadow : Bool) (d a b : Reg) (hbuf : s.strand.buf = []) (hn : s.strand.nest = false)
    (h : ¬ s.ownBarrier meadow (s.strand.rx a)) :
    TrapsAs (arriveWord fn meadow d a s) s 4 0 (s.strand.rx a) ∧ TrapsAs (waitWord (fn + 1) meadow a b s) s 4 0 (s.strand.rx a) := by
  obtain ⟨cores, -, -, harrive⟩ := engineWord_runs s (syncWord fn d a 0 0) a _ hbuf
  obtain ⟨cores', -, -, hwait⟩ := engineWord_runs s (syncWord (fn + 1) 0 a b 0) a _ hbuf
  rw [arriveWord, harrive, waitWord, hwait]
  simp only [barrierFor_midway, barrierFor_foreign s _ _ h]
  exact ⟨trapsAs_midway s cores ⟨4, 0, s.strand.rx a⟩ hn, trapsAs_midway s cores' ⟨4, 0, s.strand.rx a⟩ hn⟩

theorem arrive_counts (b : Barrier) (h : b.count + 1 ≠ b.npart) : b.arrive = { b with count := b.count + 1 } := if_neg h

theorem arrive_opens (b : Barrier) (h : b.count + 1 = b.npart) : b.arrive = { b with gen := (b.gen + 1) % 2 ^ 32, count := 0 } := if_pos h

/-- Settles O37, for the barriers of a meadow and of the device alike. -/
theorem barriersCountArrivals : Obligations.BarriersCountArrivals := by
  unfold Obligations.BarriersCountArrivals
  intro d a b meadow s hbuf t n id bar arr wait g mine
  have harr : exec arr s = arriveWord (if meadow then 11 else 13) meadow d a s := by cases meadow <;> rfl
  have hwait : exec wait s = waitWord ((if meadow then 11 else 13) + 1) meadow a b s := by cases meadow <;> rfl
  have hrelease : s.beforeRelease (!meadow) = s.earlier (if meadow then 0xDF else 0xFF) ++ s.earlierReleases := by cases meadow <;> rfl
  rw [harr, hwait]
  refine ⟨fun hmine => ⟨⟨fun hbefore => ?_, fun hbefore => ?_⟩, waitWord_waits s _ meadow a b hbuf hmine⟩,
    fun hmine hn => barrierWords_fault s _ meadow d a b hbuf hn hmine⟩
  · rw [← hrelease] at hbefore ⊢
    exact arriveWord_waits s _ meadow d a hbuf hmine hbefore
  · rw [← hrelease] at hbefore
    obtain ⟨u, hu, hbytes, hstrand, hbar, hothers⟩ := arriveWord_arrives s _ meadow d a hbuf hmine hbefore
    exact ⟨u, hu, hbytes, hstrand, fun h => hbar.trans (arrive_counts _ h), fun h => hbar.trans (arrive_opens _ h), hothers⟩

end Sys2Proof.Machine

/-! PROOFS. The iteration ring and `mwait` (O38; R231, R232, R300, R301). -/

namespace Sys2Proof.Machine

/-! ### The map of a ring -/

/-- A ring whose low-water mark has moved on by `k` iterations. -/
def Ring.movedOn (r : Ring) (k : Nat) : Ring := { r with lw := (r.lw + k) % 2 ^ 32, map := r.map >>> k }

theorem movedOn_zero (r : Ring) (h : r.lw < 2 ^ 32) : r.movedOn 0 = r := by
  rw [Ring.movedOn, Nat.add_zero, Nat.mod_eq_of_lt h, BitVec.ushiftRight_zero]

theorem movedOn_succ (r : Ring) (k : Nat) : (r.movedOn 1).movedOn k = r.movedOn (k + 1) := by
  have hlw : ((r.lw + 1) % 2 ^ 32 + k) % 2 ^ 32 = (r.lw + (k + 1)) % 2 ^ 32 := by omega
  simp only [Ring.movedOn, hlw, ← BitVec.shiftRight_add, Nat.add_comm k 1]

/-- The low-water mark moves past set bits only, so over no more iterations than the map has bits. -/
theorem advance_movedOn (fuel n : Nat) (r : Ring) (hlw : r.lw < 2 ^ 32) (hmap : r.map.toNat < 2 ^ n) :
    ∃ k ≤ n, r.advance fuel = r.movedOn k := by
  induction fuel generalizing n r with
  | zero => exact ⟨0, Nat.zero_le n, (movedOn_zero r hlw).symm⟩
  | succ fuel ih =>
    rw [Ring.advance]
    split
    · next hbit =>
      have hodd : r.map.toNat ≠ 0 := fun h0 => by simp [BitVec.getLsbD, h0] at hbit
      obtain ⟨n, rfl⟩ : ∃ m, n = m + 1 := ⟨n - 1, by rcases n with _ | n <;> simp_all⟩
      have hhalf : (r.map >>> 1).toNat < 2 ^ n := by
        rw [BitVec.toNat_ushiftRight, Nat.shiftRight_eq_div_pow]
        omega
      obtain ⟨k, hk, hmoved⟩ := ih n (r.movedOn 1) (Nat.mod_lt _ (by decide)) hhalf
      exact ⟨k + 1, Nat.succ_le_succ hk, hmoved.trans (movedOn_succ r k)⟩
    · exact ⟨0, Nat.zero_le n, (movedOn_zero r hlw).symm⟩

/-- An iteration that its bit posts, or that lies far enough below the mark, stays posted as the mark moves on. -/
theorem posted_movedOn (r : Ring) (k j : Nat) (hlw : r.lw < 2 ^ 32) (hk : k ≤ 256)
    (h : r.above j < 256 ∧ r.map.getLsbD (r.above j) = true ∨ 2 ^ 31 + 256 ≤ r.above j) : (r.movedOn k).posted j = true := by
  have hsmall : r.above j < 2 ^ 32 := Nat.mod_lt _ (by decide)
  have habove : (r.movedOn k).above j = (r.above j + (2 ^ 32 - k)) % 2 ^ 32 := by
    simp only [Ring.above, Ring.movedOn]
    omega
  rw [Ring.posted, habove, Bool.or_eq_true, Bool.and_eq_true, decide_eq_true_eq, decide_eq_true_eq]
  obtain ⟨hlow, hbit⟩ | hfar := h
  · by_cases hpast : r.above j < k
    · exact .inl (by omega)
    · have hmod : (r.above j + (2 ^ 32 - k)) % 2 ^ 32 = r.above j - k := by omega
      refine .inr ⟨by omega, ?_⟩
      rw [hmod, Ring.movedOn, BitVec.getLsbD_ushiftRight, Nat.add_sub_cancel' (not_lt.mp hpast)]
      exact hbit
  · exact .inl (by omega)

/-- A post of an iteration of the map posts it, and keeps every posted iteration posted that lies far enough below the mark (R231, R300). -/
theorem post_posts (r : Ring) (i : Nat) (hlw : r.lw < 2 ^ 32) (h : 2 ^ 31 ≤ r.above i ∨ r.above i < 256) :
    ∃ r', r.post i = some r' ∧ r'.posted i = true ∧
      ∀ j, (r.above j < 2 ^ 31 ∨ 2 ^ 31 + 256 ≤ r.above j) → r.posted j = true → r'.posted j = true := by
  by_cases hposted : r.posted i = true
  · exact ⟨r, if_pos hposted, hposted, fun _ _ hj => hj⟩
  · have hlow : r.above i < 256 := by
      rcases h with h | h
      · exact absurd (by rw [Ring.posted, decide_eq_true h, Bool.true_or]) hposted
      · exact h
    let marked : Ring := { r with map := r.map ||| BitVec.ofNat 256 (2 ^ r.above i) }
    obtain ⟨k, hk, hmoved⟩ := advance_movedOn 257 256 marked hlw marked.map.isLt
    have hbits (n : Nat) : marked.map.getLsbD n = (r.map.getLsbD n || (decide (n < 256) && decide (r.above i = n))) := by
      simp only [marked, BitVec.getLsbD_or, BitVec.getLsbD_ofNat, Nat.testBit_two_pow]
    have hpost : r.post i = some (marked.movedOn k) := by
      rw [Ring.post, if_neg hposted, if_pos hlow, ← hmoved]
    refine ⟨marked.movedOn k, hpost, ?_, fun j hj hjp => ?_⟩
    · have hset : marked.map.getLsbD (r.above i) = true := by
        rw [hbits, decide_eq_true hlow, decide_eq_true rfl, Bool.and_self, Bool.or_true]
      exact posted_movedOn marked k i hlw hk (.inl ⟨hlow, hset⟩)
    · refine posted_movedOn marked k j hlw hk ?_
      rw [Ring.posted, Bool.or_eq_true, Bool.and_eq_true, decide_eq_true_eq, decide_eq_true_eq] at hjp
      rcases hj with hj | hj
      · obtain ⟨hjlow, hbit⟩ := hjp.resolve_left (by omega)
        exact .inl ⟨hjlow, by rw [hbits]; exact Bool.or_eq_true _ _ ▸ .inl hbit⟩
      · exact .inr hj

/-! ### The words of the ring -/

theorem setRing_same (s : State) (m n : Nat) (r : Ring) : (s.setRing m n r).ring m n = r := by
  simp [State.setRing, State.ring, find?_upsert_same]

/-- A stage in range that is bound to the context of the strand. -/
theorem stageFor_own (s : State) (x : W64) (hn : x.toNat ≤ 15) (hbound : (s.ring (s.strand.g.core / 24) x.toNat).bound = true)
    (hctx : (s.ring (s.strand.g.core / 24) x.toNat).ctx = s.strand.g.ctx) : s.stageFor x = some x.toNat := by
  refine if_neg ?_
  rintro (h | h | h)
  · omega
  · rw [Bool.not_eq_true'] at h
    exact Bool.false_ne_true (h.symm.trans hbound)
  · exact h hctx

/-- `ipost` of an iteration within the map, with nothing earlier to wait for. -/
theorem ipost_posts (s : State) (a b : Reg) (hbuf : s.strand.buf = []) (hbefore : s.beforeRelease false = [])
    (hstage : s.stageFor (s.strand.rx a) = some (s.strand.rx a).toNat) :
    let m := s.strand.g.core / 24
    let n := (s.strand.rx a).toNat
    let i := (s.strand.rx b).toNat % 2 ^ 32
    (s.ring m n).lw < 2 ^ 32 → (2 ^ 31 ≤ (s.ring m n).above i ∨ (s.ring m n).above i < 256) →
    ∃ u, exec (.ipost a b) s = .next u ∧ u.strand = s.strand.drained.nextWord ∧ s.sameBytes u ∧ (u.ring m n).posted i = true ∧
      ∀ j, ((s.ring m n).above j < 2 ^ 31 ∨ 2 ^ 31 + 256 ≤ (s.ring m n).above j) → (s.ring m n).posted j = true →
        (u.ring m n).posted j = true := by
  intro m n i hlw habove
  obtain ⟨r, hpost, hposted, hkept⟩ := post_posts (s.ring m n) i hlw habove
  obtain ⟨cores, -, -, hrun⟩ := engineWord_runs s (syncWord 9 0 a b 0) a _ hbuf
  have hstage' : (s.midway cores s.strand.drained []).st.stageFor (s.strand.rx a) = some n := hstage
  have hpost' : ((s.midway cores s.strand.drained []).st.ring ((s.midway cores s.strand.drained []).cur.g.core / 24) n).post
      ((s.strand.rx b).toNat % 2 ^ 32) = some r := hpost
  let w := ((s.midway cores s.strand.drained []).mod fun t => t.setRing m n r).retire
  have hexec : exec (.ipost a b) s = s.finish w := by
    rw [exec_ipost, execIpost, hrun]
    simp only [hstage', released_midway, hbefore, if_true, hpost']
    rfl
  have hring : (s.base w).ring m n = r := setRing_same (s.midway cores s.strand.drained []).st m n r
  refine ⟨s.commit w, hexec.trans (State.finish_next s w rfl), commit_strand s w, ?_, ?_, ?_⟩
  · rw [State.commit_nil s w rfl]
    exact sameBytes_base s w
  · rw [State.commit_nil s w rfl, hring]
    exact hposted
  · rw [State.commit_nil s w rfl, hring]
    exact hkept

/-- `iwait` of a posted iteration writes 0; of another it waits. -/
theorem iwait_waits (s : State) (d a b : Reg) (hbuf : s.strand.buf = []) (hstage : s.stageFor (s.strand.rx a) = some (s.strand.rx a).toNat) :
    let r := s.ring (s.strand.g.core / 24) (s.strand.rx a).toNat
    let i := (s.strand.rx b).toNat % 2 ^ 32
    (r.posted i = true → Leaves (exec (.iwait d a b) s) s (s.strand.drained.wx d 0).nextWord) ∧
    (r.posted i = false → Leaves (exec (.iwait d a b) s) s { s.strand.drained with waiting := .ring d (s.strand.rx a).toNat i }) := by
  intro r i
  obtain ⟨cores, -, -, hrun⟩ := engineWord_runs s (syncWord 10 d a b 0) a _ hbuf
  have hstage' : (s.midway cores s.strand.drained []).st.stageFor (s.strand.rx a) = some (s.strand.rx a).toNat := hstage
  have hring : (s.midway cores s.strand.drained []).st.ring ((s.midway cores s.strand.drained []).cur.g.core / 24) (s.strand.rx a).toNat = r :=
    rfl
  rw [exec_iwait, execIwait, hrun]
  simp only [hstage', hring]
  refine ⟨fun h => ?_, fun h => ?_⟩
  · rw [if_pos h]
    exact leaves_midway s cores _
  · rw [if_neg (Bool.eq_false_iff.mp h)]
    exact leaves_midway s cores _

/-! ### `mwait` -/

/-- The doubleword that `mwait` reads of field memory. -/
theorem watched_opens {w : Work} {s : State} (ho : w.Opens s) (va : W64) (pa : Nat) (hal : va.toNat % 8 = 0) (hsite : s.fieldSite va false pa)
    (hpoison : (s.line false (pa / 64)).poison = false) (hq : s.strand.Quiet) : w.watched va = .ok (loaded s.fm pa 3, w) := by
  have hcheck : w.st.checkVirtual w.cur.g.core w.cur.g.ctx va 8 .read = .ok (.mem .fm pa) := by
    rw [ho.checkVirtual, checkVirtual_canonical _ _ _ _ _ _ hal hsite.1, access_fieldSite s va pa hsite]
  have hload := loadVirtual_field s w 0 3 va pa ho hq hal hsite hpoison
  rw [note_exists _ (.mem .fm pa) (decide_eq_true hsite.2.1)] at hload
  have hvalue : BitVec.ofNat 64 (leNat (Mem.readN s.fm pa (2 ^ 3))) = loaded s.fm pa 3 := by
    rw [← sextBytes_readN s.fm pa 3 (by decide), sextBytes, ofInt_signed_ofNat]
  rw [show 2 ^ 3 = 8 from rfl] at hload hvalue
  simp only [Work.watched, hcheck, hload, hvalue]

/-- `mwait` whose wait a store has ended. -/
theorem mwait_ended (s : State) (d a b c : Reg) (hbuf : s.strand.buf = []) (h : s.strand.waiting = .written) :
    Leaves (exec (.mwait d a b c) s) s (s.strand.drained.wx d 0).nextWord := by
  obtain ⟨cores, -, -, hrun⟩ := engineWord_runs s (syncWord 15 d a b c) a _ hbuf
  have hwaiting : (s.midway cores s.strand.drained []).cur.waiting = .written := h
  rw [exec_mwait, execMwait, hrun, if_pos hwaiting]
  exact leaves_midway s cores _

/-- `mwait` at a doubleword of field memory (R232). -/
theorem mwait_reads (s : State) (d a b c : Reg) (pa : Nat) (hbuf : s.strand.buf = []) (hwaiting : s.strand.waiting ≠ .written)
    (hal : (s.strand.rx a).toNat % 8 = 0) (hsite : s.fieldSite (s.strand.rx a) false pa) (hpoison : (s.line false (pa / 64)).poison = false)
    (hholds : s.strand.holds = []) (hpend : s.strand.pend = []) (hremotes : s.strand.remotes = []) :
    let v := loaded s.fm pa 3
    (v ≠ s.strand.rx b → Leaves (exec (.mwait d a b c) s) s (s.strand.drained.wx d 0).nextWord) ∧
    (v = s.strand.rx b → Leaves (exec (.mwait d a b c) s) s
      { s.strand.drained with waiting := .mem d (s.strand.rx a) (s.strand.rx b) (s.strand.rx c) (some pa) }) := by
  intro v
  obtain ⟨cores, -, hwork, hrun⟩ := engineWord_runs s (syncWord 15 d a b c) a _ hbuf
  have ho := engineWork_opens s (syncWord 15 d a b c) a hbuf
  rw [hwork] at ho
  have hwatched := watched_opens ho (s.strand.rx a) pa hal (fieldSite_drained hsite) hpoison ⟨hholds, hpend, rfl, hremotes⟩
  rw [show loaded (s.withStrand s.strand.drained).fm pa 3 = v from rfl] at hwatched
  have hat : s.watchedAt (s.strand.rx a) = some pa := by
    have hcheck := (checkVirtual_canonical s _ _ _ 8 .read hal hsite.1).trans (access_fieldSite s _ pa hsite)
    simp only [State.watchedAt, hcheck]
  have hwaiting' : (s.midway cores s.strand.drained []).cur.waiting ≠ .written := hwaiting
  rw [exec_mwait, execMwait, hrun, if_neg hwaiting', hat]
  simp only [hwatched]
  refine ⟨fun h => ?_, fun h => ?_⟩
  · rw [if_pos h]
    exact leaves_midway s cores _
  · rw [if_neg (not_not.mpr h)]
    exact leaves_midway s cores _

/-- Settles O38: the ring's two words and `mwait`. -/
theorem ringAndMemoryWaits : Obligations.RingAndMemoryWaits := by
  unfold Obligations.RingAndMemoryWaits
  intro d a b c s pa hbuf t n m ring i
  refine ⟨fun hn hbound hctx => ?_, fun h => mwait_ended s d a b c hbuf h, fun hwaiting hal hsite hpoison hholds hpend hremotes =>
    mwait_reads s d a b c pa hbuf hwaiting hal hsite hpoison hholds hpend hremotes⟩
  have hstage : s.stageFor (s.strand.rx a) = some n := stageFor_own s _ hn hbound hctx
  refine ⟨fun hearlier hreleases habove hlw => ?_, iwait_waits s d a b hbuf hstage⟩
  have hbefore : s.beforeRelease false = [] := by
    rw [State.beforeRelease, hreleases, List.append_nil]
    exact hearlier
  obtain ⟨u, hu, hstrand, hbytes, hposted, hkept⟩ := ipost_posts s a b hbuf hbefore hstage hlw habove
  exact ⟨u, hu, hstrand, hbytes, hposted, fun j _ => hkept j⟩

end Sys2Proof.Machine

/-! PROOFS. `qput`, `ktrig`, `seal` and `xhold` (O39; R233 to R236, R276, R382). -/

namespace Sys2Proof.Machine

/-! ### What the hub's store leaves (R289) -/

/-- A state of which only what has been sent to other modules and to the host has changed. -/
def State.AfterSend (s t : State) : Prop := ∃ ports sent hold, t = { s with ports := ports, sent := sent, hold := hold }

theorem State.AfterSend.refl (s : State) : s.AfterSend s := ⟨s.ports, s.sent, s.hold, rfl⟩

theorem State.AfterSend.trans {s t u : State} (h : s.AfterSend t) (k : t.AfterSend u) : s.AfterSend u := by
  obtain ⟨_, _, _, rfl⟩ := h
  obtain ⟨p, f, o, rfl⟩ := k
  exact ⟨p, f, o, rfl⟩

theorem setPort_afterSend (s : State) (n : Nat) (p : Port) : s.AfterSend (s.setPort n p) := by
  unfold State.setPort
  split
  · exact ⟨_, _, _, rfl⟩
  · exact .refl s

theorem pump_afterSend (s : State) (n : Nat) : s.AfterSend (s.pump n) := by
  simp only [State.pump]
  split
  · exact (setPort_afterSend s n _).trans ⟨_, _, _, rfl⟩
  · exact .refl s

theorem sendTo_afterSend (s : State) (x : Bool) (m k vc u a : Nat) (bs : List Byte) : s.AfterSend (s.sendTo x m k vc u a bs) := by
  unfold State.sendTo
  split
  · exact (setPort_afterSend ..).trans (pump_afterSend ..)
  · exact .refl s

theorem hubStore_afterSend (w : Work) (ctx : Nat) (st : Store) : w.st.AfterSend (w.hubStore ctx st).st := by
  cases st with
  | mem wr => exact .refl w.st
  | ext d a bs => exact ⟨_, _, _, rfl⟩
  | remote m a bs => exact sendTo_afterSend ..

theorem hubStore_absent (w : Work) (ctx : Nat) (st : Store) : (w.hubStore ctx st).absent = w.absent := by cases st <;> rfl

/-! ### A kernel accepted (R276) -/

/-- The kernel last on its queue and last among the kernels, its number used. -/
def State.admitted (s : State) (hw : Nat) (kern : Kernel) : State :=
  let t := s.mapQueue hw fun q =>
    { q with kernels := q.kernels ++ [kern.kid], lastKid := some kern.kid, state := if q.state = .idle then .active else q.state }
  { t with nextId := kern.kid + 1, kernels := t.kernels ++ [kern] }

/-- A kernel as `qput` makes it of a record. -/
structure Kernel.Queued (kern : Kernel) (kid ctx : Nat) (r : KRec) : Prop where
  kid : kern.kid = kid
  ctx : kern.ctx = ctx
  krec : kern.krec = r
  state : kern.state = .queued
  next : kern.next = 0

/-- The answer to a record: its code and nothing changed, or code 0 with its kernel taken and the store of END (Table 12.2). -/
def Work.Answers (w : Work) (ctx : Nat) (r : KRec) (endSt : Store) (answer : Nat × Work) : Prop :=
  (∃ code, code ≠ 0 ∧ answer = (code, w)) ∨
  ∃ hw kern, kern.Queued w.st.nextId ctx r ∧ answer = (0, (w.mod (·.admitted hw kern)).hubStore ctx (endSt.withBytes (leBytes 8 0)))

theorem answers_check (w : Work) (ctx : Nat) (r : KRec) (endSt : Store) (bad : Prop) [Decidable bad] (code : Nat) (rest : Nat × Work)
    (hcode : code ≠ 0) (h : w.Answers ctx r endSt rest) : w.Answers ctx r endSt (if bad then (code, w) else rest) := by
  by_cases hbad : bad
  · rw [if_pos hbad]
    exact .inl ⟨code, hcode, rfl⟩
  · rwa [if_neg hbad]

/-- The check of a record refuses it and changes nothing, or takes its kernel. -/
theorem acceptKernel_answers (w : Work) (ctx qi : Nat) (va : W64) (r : KRec) (endSt : Store) :
    w.Answers ctx r endSt (w.acceptKernel ctx qi va r endSt) := by
  have unknown : w.Answers ctx r endSt (1, w) := .inl ⟨1, by decide, rfl⟩
  unfold Work.acceptKernel
  cases w.st.ctx? ctx with
  | none => exact unknown
  | some c =>
    refine answers_check w ctx r endSt _ 1 _ (by decide) ?_
    cases hq : w.st.queue? (c.queues.getD qi 0) with
    | none =>
      simp only [hq]
      exact unknown
    | some q =>
      simp only [hq]
      refine answers_check w ctx r endSt _ 4 _ (by decide) (answers_check w ctx r endSt _ 3 _ (by decide)
        (answers_check w ctx r endSt _ 5 _ (by decide) (answers_check w ctx r endSt _ 6 _ (by decide)
          (answers_check w ctx r endSt _ 7 _ (by decide) (answers_check w ctx r endSt _ 2 _ (by decide) (.inr ?_))))))
      exact ⟨c.queues.getD qi 0,
        { kid := w.st.nextId, ctx := ctx, queue := c.queues.getD qi 0, va := va, endStore := some endSt, krec := r, state := .queued, next := 0,
          dep := w.st.dependency r q ((c.queues[r.dq]?).bind w.st.queue?), depFailed := false, nfatal := 0, failed := false,
          unplaceable := false, earlyFatal := false },
        ⟨rfl, rfl, rfl, rfl, rfl⟩, rfl⟩

/-- The capture and the replay of a `qput` change the management's records alone (R372). -/
theorem accepted_frame (s : State) (ctx hw : Nat) (raw : List Byte) : ∃ m, s.accepted ctx hw raw = { s with mgmt := m } := by
  have hcapture (u : State) (b : CapBody) : ∃ m, u.capture ctx b = { u with mgmt := m } := by
    unfold State.capture
    split
    · dsimp only
      split
      · exact ⟨_, rfl⟩
      · exact ⟨_, rfl⟩
    · exact ⟨u.mgmt, rfl⟩
  let ordered : State := { s with mgmt := { s.mgmt with order := s.mgmt.order + 1 } }
  obtain ⟨m, hm⟩ := hcapture ordered (.put hw ordered.mgmt.order raw)
  simp only [State.accepted]
  rw [show ({ s with mgmt := { s.mgmt with order := s.mgmt.order + 1 } } : State) = ordered from rfl, hm]
  split
  · exact ⟨m, rfl⟩
  · exact ⟨m, rfl⟩
  · split
    · split <;> exact ⟨_, rfl⟩
    · exact ⟨m, rfl⟩

/-- Reading a record makes no write and changes nothing but whether an absent place was reached. -/
theorem readRecord_frame {w k : Work} {core ctx : Nat} {va : W64} {r : KRec} {endSt : Store}
    (h : w.readRecord core ctx va = .ok (r, endSt, k)) : k.st = w.st ∧ k.ws = w.ws := by
  unfold Work.readRecord at h
  split at h
  · cases h
  · split at h
    · cases h
    · cases h
    · split at h
      · cases h
      · split at h
        · cases h
        · cases h
          exact ⟨rfl, rfl⟩

/-! ### `qput` -/

theorem commit_kernels (s : State) (w : Work) : (s.commit w).kernels = w.st.kernels ∧ (s.commit w).queues = w.st.queues ∧
    (s.commit w).nextId = w.st.nextId := by
  obtain ⟨_, _, _, _, _, _, _, _, _, _, h⟩ := commit_afterWrites s w
  rw [h]
  exact ⟨rfl, rfl, rfl⟩

/-- `qput` of a readable record with nothing earlier to wait for (R233). -/
theorem qput_answers (s : State) (d a b : Reg) (r : KRec) (endSt : Store) (k : Work) (hbuf : s.strand.buf = [])
    (hbefore : s.beforeRelease true = [])
    (hread : (s.engineWork (syncWord 16 d a b 0) a).readRecord s.strand.g.core s.strand.g.ctx (s.strand.rx b) = .ok (r, endSt, k))
    (habsent : k.absent = false) :
    let accept := k.acceptKernel s.strand.g.ctx (s.strand.rx a).toNat (s.strand.rx b) r endSt
    (accept.1 = 0 → k.hubWait (s.strand.rx b).toNat (endSt.withBytes (leBytes 8 0)) = none) →
    ∃ u, exec (.qput d a b) s = .next u ∧ u.strand = (s.strand.drained.wx d (BitVec.ofNat 64 accept.1)).nextWord ∧
      (accept.1 ≠ 0 → u.kernels = s.kernels ∧ u.queues = s.queues ∧ s.sameBytes u) ∧
      (accept.1 = 0 → ∃ kern, u.kernels = s.kernels ++ [kern] ∧ kern.Queued s.nextId s.strand.g.ctx r ∧ u.nextId = s.nextId + 1) := by
  intro accept hroom
  obtain ⟨cores, -, hwork, hrun⟩ := engineWord_runs s (syncWord 16 d a b 0) a _ hbuf
  rw [hwork] at hread
  obtain ⟨hst, hws⟩ := readRecord_frame hread
  have hread' : (s.midway cores s.strand.drained []).readRecord (s.midway cores s.strand.drained []).cur.g.core s.strand.g.ctx
      (s.strand.rx b) = .ok (r, endSt, k) := hread
  obtain ⟨code, hcode, haccept⟩ | ⟨hw, kern, hqueued, haccept⟩ :=
    acceptKernel_answers k s.strand.g.ctx (s.strand.rx a).toNat (s.strand.rx b) r endSt
  · have hexec : exec (.qput d a b) s = s.finish (k.result d (BitVec.ofNat 64 code)) := by
      rw [exec_qput, execQput, hrun]
      simp only [released_midway, hbefore, if_true, hread', haccept, if_neg hcode]
    have hnot : accept.1 = code := congrArg Prod.fst haccept
    obtain ⟨hkernels, hqueues, -⟩ := commit_kernels s (k.result d (BitVec.ofNat 64 code))
    refine ⟨_, hexec.trans (State.finish_next s _ habsent), (commit_strand s _).trans ?_, fun _ => ⟨?_, ?_, ?_⟩, fun h => absurd (hnot.symm.trans h) hcode⟩
    · rw [hnot, show k.result d (BitVec.ofNat 64 code) = (k.upd fun t => (t.wx d (BitVec.ofNat 64 code)).nextWord) from rfl]
      simp only [Work.cur, Work.upd, hst]
      rfl
    · rw [hkernels]
      have h : k.st.kernels = _ := congrArg State.kernels hst
      exact h
    · rw [hqueues]
      have h : k.st.queues = _ := congrArg State.queues hst
      exact h
    · rw [State.commit_nil s _ (show (k.result d (BitVec.ofNat 64 code)).ws = [] from hws)]
      exact sameBytes_base s _
  · have hzero : accept.1 = 0 := congrArg Prod.fst haccept
    have hroom' := hroom hzero
    let stored := (k.mod (·.admitted hw kern)).hubStore s.strand.g.ctx (endSt.withBytes (leBytes 8 0))
    obtain ⟨ports, sent, hold, hsend⟩ : (k.st.admitted hw kern).AfterSend stored.st := hubStore_afterSend ..
    have hexec : ∃ q, exec (.qput d a b) s = s.finish ((stored.mod fun t => t.accepted s.strand.g.ctx q r.raw).result d 0) := by
      rw [exec_qput, execQput, hrun]
      simp only [released_midway, hbefore, if_true, hread', haccept, hroom']
      exact ⟨_, rfl⟩
    obtain ⟨q, hexec⟩ := hexec
    obtain ⟨m, hm⟩ := accepted_frame stored.st s.strand.g.ctx q r.raw
    let w := (stored.mod fun t => t.accepted s.strand.g.ctx q r.raw).result d 0
    have hw : w.st = ({ stored.st with mgmt := m, strand := (stored.st.strand.wx d 0).nextWord } : State) := by
      rw [show w.st = { stored.st.accepted s.strand.g.ctx q r.raw with
        strand := ((stored.st.accepted s.strand.g.ctx q r.raw).strand.wx d 0).nextWord } from rfl, hm]
    obtain ⟨hkernels, -, hnext⟩ := commit_kernels s w
    refine ⟨_, hexec.trans (State.finish_next s w ((hubStore_absent ..).trans habsent)), (commit_strand s w).trans ?_,
      fun h => absurd hzero h, fun _ => ⟨kern, ?_, ?_, ?_⟩⟩
    · rw [Work.cur, hw, hsend, hst, hzero]
      rfl
    · rw [hkernels, hw, hsend, hst]
      rfl
    · rw [hst] at hqueued
      exact hqueued
    · rw [hnext, hw, hsend]
      change kern.kid + 1 = s.nextId + 1
      rw [hqueued.kid, hst]
      rfl

/-! ### `seal` and `xhold` (R235, R236) -/

/-- A request for an early seal goes to the interval that it can still reach (R382). -/
theorem askSeal_frame (s : State) : ∃ r, s.askSeal = { s with rcv := r } ∧
    (s.rcv.phase = .running → r = { s.rcv with requested := true }) ∧ (s.rcv.phase = .stopping → r = s.rcv) ∧
    (s.rcv.phase ≠ .running → s.rcv.phase ≠ .stopping → r = { s.rcv with nextRequest := true }) := by
  unfold State.askSeal
  split
  · next h => exact ⟨_, rfl, fun _ => rfl, fun h' => by simp [h] at h', fun h' => absurd h h'⟩
  · next h => exact ⟨s.rcv, rfl, fun h' => by simp [h] at h', fun _ => rfl, fun _ h' => absurd h h'⟩
  · next hr hs => exact ⟨_, rfl, fun h => absurd h hr, fun h => absurd h hs, fun _ _ => rfl⟩

/-- A word that asks for an early seal and waits. -/
theorem asks_waits (s : State) (cores : List Core) (for_ : Wait) :
    ∃ u, s.finish (((s.midway cores s.strand.drained []).mod State.askSeal).wait for_) = .next u ∧
      u.strand = { s.strand.drained with waiting := for_ } ∧ s.sameBytes u ∧
      (s.rcv.phase = .running → u.rcv = { s.rcv with requested := true }) ∧ (s.rcv.phase = .stopping → u.rcv = s.rcv) ∧
      (s.rcv.phase ≠ .running → s.rcv.phase ≠ .stopping → u.rcv = { s.rcv with nextRequest := true }) := by
  obtain ⟨r, hr, hrunning, hstopping, hother⟩ := askSeal_frame (s.midway cores s.strand.drained []).st
  let w := ((s.midway cores s.strand.drained []).mod State.askSeal).wait for_
  have hw : w.st = { (s.midway cores s.strand.drained []).st with rcv := r, strand := { s.strand.drained with waiting := for_ } } := by
    rw [show w.st = { (s.midway cores s.strand.drained []).st.askSeal with
      strand := { (s.midway cores s.strand.drained []).st.askSeal.strand with waiting := for_ } } from rfl, hr]
    rfl
  have hrcv : (s.commit w).rcv = r := by
    rw [State.commit_nil s w rfl, State.base, hw]
  refine ⟨_, State.finish_next s w rfl, (commit_strand s w).trans ?_, ?_, ?_⟩
  · rw [Work.cur, hw]
  · rw [State.commit_nil s w rfl]
    exact sameBytes_base s w
  · rw [hrcv]
    exact ⟨hrunning, hstopping, hother⟩

theorem heldOut_midway (s : State) (cores : List Core) (n : Nat) :
    (s.midway cores s.strand.drained []).st.heldOut s.strand.drained n = s.heldOut s.strand.drained n := by
  have horder := drained_sameOrder s.strand
  have hleft : (s.midway cores s.strand.drained []).st.externalLeft s.strand.drained = s.externalLeft s.strand.drained := by
    simp only [State.externalLeft, externalOf_midway horder, stuck_midway horder]
    rfl
  simp only [State.heldOut, hleft]
  rfl

/-- Settles O39, word by word. -/
theorem hubWords : Obligations.HubWords := by
  unfold Obligations.HubWords
  intro d a b s hbuf hearlier hreleases t w
  have hbefore : s.beforeRelease true = [] := by
    rw [State.beforeRelease, hreleases, List.append_nil]
    exact hearlier
  refine ⟨?_, ?_, fun n hwaiting hsealed => ?_, fun n hwaiting hout => ?_, fun hwaiting i hi => ?_⟩
  · intro r endSt k hread habsent accept hroom
    obtain ⟨u, hu, hstrand, hrefused, htaken⟩ := qput_answers s d a b r endSt k hbuf hbefore hread habsent hroom
    refine ⟨u, hu, hstrand, hrefused, fun h => ?_⟩
    obtain ⟨kern, hkernels, hqueued, hnext⟩ := htaken h
    exact ⟨kern, hkernels, hqueued.kid, hqueued.ctx, hqueued.krec, hqueued.state, hqueued.next, hnext⟩
  · obtain ⟨cores, -, -, hrun⟩ := engineWord_runs s 0x7C000011 0 _ hbuf
    rw [exec_ktrig, execKtrig, hrun, released_midway, if_pos hbefore]
    exact leaves_midway s cores _
  · obtain ⟨cores, -, -, hrun⟩ := engineWord_runs s 0x7C000012 0 _ hbuf
    have hsealed' : (s.midway cores s.strand.drained []).st.sealedUpTo n = true := hsealed
    rw [exec_sealWord, execSeal, hrun]
    simp only [show s.strand.waiting = .sealed n from hwaiting, hsealed', if_true]
    exact leaves_midway s cores _
  · obtain ⟨cores, -, -, hrun⟩ := engineWord_runs s 0x7C000013 0 _ hbuf
    rw [exec_xhold, execXhold, hrun]
    simp only [show s.strand.waiting = .held n from hwaiting, midway_cur, heldOut_midway, show s.heldOut s.strand.drained n = true from hout,
      if_true]
    exact leaves_midway s cores _
  · have hnone : s.strand.waiting = .none := hwaiting
    obtain rfl | rfl := hi
    · obtain ⟨cores, -, -, hrun⟩ := engineWord_runs s 0x7C000012 0 _ hbuf
      rw [exec_sealWord, execSeal, hrun, if_pos rfl]
      simp only [hnone]
      exact asks_waits s cores _
    · obtain ⟨cores, -, -, hrun⟩ := engineWord_runs s 0x7C000013 0 _ hbuf
      rw [exec_xhold, execXhold, hrun, if_neg (by decide)]
      simp only [hnone]
      exact asks_waits s cores _

end Sys2Proof.Machine

/-! PROOFS. Events of a strand's commands, and the atomics that they perform and answer (R212, R221, R222, R326). -/

namespace Sys2Proof.Machine

/-! ### An event of a command of the strand in front -/

/-- Work for a command of the strand in front is done on it, where it stays the strand of its number. -/
theorem onCmd_front (w : Work) (c : Cmd) (f : Work → Work) (hl : w.cur.live = true) (hsid : c.gid * 4 + c.sidx = w.cur.sid)
    (hl' : (f { w with src := c.uid }).cur.live = true) (hs : (f { w with src := c.uid }).cur.sid = w.cur.sid) :
    w.onCmd c f = { f { w with src := c.uid } with src := w.src } := by
  have hself := onStrand_self w (fun j => f { j with src := c.uid }) hl hl' hs
  simp only [Work.onCmd, hsid, hself]

/-- The state that a command's event finds. -/
def State.workFor (s : State) (c : Cmd) : Work := { s.work with src := c.uid }

/-- Where no store is held, settling what follows a step changes no more than the order of the strands. -/
theorem finish_settle_quiet (s : State) (w : Work) (hl : w.cur.live = true) (hp : ∀ t ∈ w.st.strands, t.pend = []) :
    ∃ k : Work, w.settle = k ∧ k.cur = w.cur ∧ k.ws = w.ws ∧ k.absent = w.absent ∧ (s.commit k).cmds = w.st.cmds := by
  obtain ⟨parked, h⟩ := settle_quiet w hl hp
  refine ⟨_, h, rfl, rfl, rfl, ?_⟩
  obtain ⟨_, _, _, _, _, _, _, _, _, _, hcommit⟩ := commit_afterWrites s { w with st := { w.st with parked := parked } }
  rw [hcommit]
  rfl

/-- The strands of a state whose front strand has changed and holds no more stores than before. -/
theorem pends_kept {s t : State} (hl : s.strand.live = true) (h : ∀ u ∈ s.strands, u.pend = []) (hparked : t.parked = s.parked)
    (hpend : t.strand.pend = s.strand.pend) : ∀ u ∈ t.strands, u.pend = [] := by
  rw [State.strands, if_pos hl] at h
  have hfront : t.strand.pend = [] := hpend.trans (h _ List.mem_cons_self)
  have hrest : ∀ u ∈ t.parked, u.pend = [] := fun u hu => h u (List.mem_cons_of_mem _ (hparked ▸ hu))
  rw [State.strands]
  split
  · exact fun u hu => (List.mem_cons.mp hu).elim (fun he => he ▸ hfront) (hrest u)
  · exact hrest

/-- The event of a command of the strand in front, whose work keeps the strand and holds no store, and what settles behind it. -/
theorem finish_onCmd (s : State) (c : Cmd) (f : Work → Work) (hl : s.strand.live = true) (hsid : c.gid * 4 + c.sidx = s.strand.sid)
    (hquiet : ∀ t ∈ s.strands, t.pend = []) (k : Work) (hk : f (s.workFor c) = k) (hl' : k.cur.live = s.strand.live)
    (hs : k.cur.sid = s.strand.sid) (hpend : k.cur.pend = s.strand.pend) (hparked : k.st.parked = s.parked) :
    ∃ w : Work, s.finish ((s.work.onCmd c f).settle) = s.finish w ∧ w.cur = k.cur ∧ w.ws = k.ws ∧ w.absent = k.absent ∧
      (s.commit w).cmds = k.st.cmds := by
  have hfront := onCmd_front s.work c f hl hsid ((congrArg (·.cur.live) hk).trans (hl'.trans hl)) ((congrArg (·.cur.sid) hk).trans hs)
  have hdone : s.work.onCmd c f = { k with src := 0 } := hfront.trans (congrArg (fun j : Work => { j with src := 0 }) hk)
  obtain ⟨w, hw, hcur, hws, habsent, hcmds⟩ := finish_settle_quiet s { k with src := 0 } (hl'.trans hl) (pends_kept hl hquiet hparked hpend)
  exact ⟨w, by rw [hdone, hw], hcur, hws, habsent, hcmds⟩

/-- The commands of a state but one. -/
def State.cmdsBut (s : State) (uid : Nat) : List Cmd := s.cmds.filter fun e => decide (e.uid ≠ uid)

theorem oldestCmd_accepts {s : State} {sid : Nat} {p : Cmd → Bool} {c : Cmd} (h : s.oldestCmd sid p = some c) :
    c.gid * 4 + c.sidx = sid ∧ p c = true := by
  have hfound := List.find?_some h
  simpa only [Bool.and_eq_true, decide_eq_true_eq] using hfound

/-! ### Flags of a channel (R221) -/

theorem noteFlags_frame (t : Strand) (ch : Nat) (fl : Flags) : ∃ n, t.noteFlags ch fl = { t with nrflags := n } := by
  unfold Strand.noteFlags
  split
  · exact ⟨_, rfl⟩
  · exact ⟨t.nrflags, rfl⟩

theorem noteFlags_same (t : Strand) (ch : Nat) (fl : Flags) :
    (t.noteFlags ch fl).live = t.live ∧ (t.noteFlags ch fl).sid = t.sid ∧ (t.noteFlags ch fl).pend = t.pend := by
  obtain ⟨n, h⟩ := noteFlags_frame t ch fl
  rw [h]
  exact ⟨rfl, rfl, rfl⟩

theorem noteFlags_channel (t : Strand) (ch : Nat) (fl : Flags) (h : ch < 4) : (t.noteFlags ch fl).nrflags[ch] = t.nrflags[ch] ||| fl := by
  simp only [Strand.noteFlags, dif_pos h, Vector.getElem_set_self]

/-! ### A queued atomic performed (R212, R222) -/

theorem atomSize_dvd_lines (wide : Bool) (pa : Nat) (h : pa % atomSize wide = 0) : linesOf pa (atomSize wide) = [pa / 64] := by
  obtain ⟨k, hk, hsize⟩ := atomSize_pow wide
  rw [hsize] at h ⊢
  exact linesOf_aligned pa k hk h

/-- An atomic of this module at its memory: its access, its command gone, its flags on the channel. -/
theorem performAtom_performs (s : State) (c : Cmd) (op : AtomOp) (wide : Bool) (va pa : Nat) (b : W64)
    (hbody : c.body = .atom op wide va pa none b false) (hpa : pa < 384 * 2 ^ 30) (hal : pa % atomSize wide = 0)
    (hlog : s.undoF.length < Config.undoCapF) (hpoison : (s.line false (pa / 64)).poison = false) :
    let new := atomNew op wide (leNat (Mem.readN s.fm pa (atomSize wide))) b.toNat 0
    (s.workFor c).performAtom c = ((({ s.workFor c with
      ws := atomWrites pa (atomSize wide) (s.ownerTag s.strand.g.ctx) new.1 } : Work).doneCmd c.uid).upd fun t => t.noteFlags c.ch new.2) := by
  intro new
  have hclean : (s.workFor c).st.poisoned (.mem .fm pa) = false := hpoison
  have hwait : (s.workFor c).storeWait c.ctx va (.mem .fm pa) (atomSize wide) = none := by
    simp only [Work.storeWait, atomSize_dvd_lines wide pa hal, linesFit_one (s.workFor c) false (pa / 64) rfl hlog, if_true]
  simp only [Work.performAtom, hbody, hclean, Bool.false_eq_true, if_false, hwait, atomAt_field (s.workFor c) op wide pa b.toNat 0 rfl hpa]
  rfl

/-- `NORETURN_ATOMIC_PERFORM` of the channel's oldest atomic, one of this module that may move. -/
theorem noreturnAtomicPerform_performs (s : State) (c : Cmd) (ch : BitVec 2) (op : AtomOp) (wide : Bool) (va pa : Nat) (b : W64)
    (hl : s.strand.live = true) (hquiet : ∀ t ∈ s.strands, t.pend = []) (hpa : pa < 384 * 2 ^ 30) (hlog : s.undoF.length < Config.undoCapF)
    (hc : (s.oldestCmd s.strand.sid fun e => e.isAtom ch.toNat) = some c) (hmove : c.mayMove s = true)
    (hbody : c.body = .atom op wide va pa none b false) (hpoison : (s.line false (pa / 64)).poison = false)
    (hal : pa % atomSize wide = 0) :
    let old := leNat (Mem.readN s.fm pa (atomSize wide))
    let new := atomNew op wide old b.toNat 0
    ∃ u, exec (.noreturnAtomicPerform s.strand.sid ch) s = .next u ∧ u.cmds = s.cmdsBut c.uid ∧ s.sameBytesBut u .fm pa (atomSize wide) ∧
      Mem.readN u.fm pa (atomSize wide) = leBytes (atomSize wide) (new.1.getD old) ∧
      u.strand.nrflags[ch.toNat]'(ch.isLt) = s.strand.nrflags[ch.toNat]'(ch.isLt) ||| new.2 := by
  intro old new
  obtain ⟨hsid, hatom⟩ := oldestCmd_accepts hc
  have hch : c.ch = ch.toNat := by
    rw [Cmd.isAtom, Bool.and_eq_true, decide_eq_true_eq] at hatom
    exact hatom.1
  obtain ⟨hlive, hnumber, hpend⟩ := noteFlags_same s.strand c.ch new.2
  obtain ⟨w, hfinish, hcur, hws, habsent, hcmds⟩ := finish_onCmd s c (fun w => w.performAtom c) hl hsid hquiet _
    (performAtom_performs s c op wide va pa b hbody hpa hal hlog hpoison)
    hlive hnumber hpend rfl
  obtain ⟨u, hu, hstrand, hbytes, hread⟩ := finish_atomWrites s w pa (atomSize wide) _ new.1 habsent hws
  have hcommit : u = s.commit w := by
    rw [State.finish_next s w habsent] at hu
    exact (Host.Outcome.next.inj hu).symm
  refine ⟨u, ?_, hcommit ▸ hcmds, hbytes, hread, ?_⟩
  · rw [exec_noreturnAtomicPerform, execNoreturnAtomicPerform, hc]
    simp only [hmove, if_true]
    exact hfinish.trans hu
  · have hflags : u.strand = s.strand.noteFlags ch.toNat new.2 := by
      rw [hstrand, hcur, ← hch]
      rfl
    rw [hflags]
    exact noteFlags_channel s.strand ch.toNat new.2 ch.isLt

/-! ### Answers of other modules (R326) -/

theorem received_frame (s : State) (n len : Nat) : ∃ ports, s.received n len = { s with ports := ports } := by
  unfold State.received State.setPort
  split
  · exact ⟨_, rfl⟩
  · exact ⟨s.ports, rfl⟩

/-- The answer to the word of the strand in front: its old value and its flags recorded. -/
theorem jeoreAtomicResponse_word (s : State) (port : Nat) (r : AtomEnd) (old : W64) (fl : BitVec 5) (hl : s.strand.live = true)
    (hport : (s.port port).usable = true) (hflight : s.strand.flight = .atomic r) :
    ∃ u, exec (.jeoreAtomicResponse port ⟨s.strand.sid, 0⟩ ⟨old, fl, 0⟩) s = .next u ∧
      u.strand = { s.strand with flight := .atomicDone r old fl } ∧ s.sameBytes u := by
  obtain ⟨ports, hports⟩ := received_frame s port 0
  let f := fun t : State => (t.received port 0).mapSid s.strand.sid fun k => k.answerWord old fl 0
  have hexec : exec (.jeoreAtomicResponse port ⟨s.strand.sid, 0⟩ ⟨old, fl, 0⟩) s = s.finish (s.work.mod f) := by
    rw [exec_jeoreAtomicResponse, execJeoreAtomicResponse, if_neg (by simp [hport]), if_pos rfl]
    rfl
  refine ⟨_, hexec.trans (finish_mod s f), ?_, sameBytes_base s _⟩
  change ((s.received port 0).mapSid s.strand.sid fun k => k.answerWord old fl 0).strand = _
  rw [hports]
  simp only [State.mapSid, hl, decide_true, Bool.and_self, if_true, Strand.answerWord, hflight]

theorem answerCmd_frame (t : Strand) (c : Cmd) (fl : BitVec 5) (bad : Nat) :
    ∃ n d, t.answerCmd c fl bad = { t with nrflags := n, deliver := d } := by
  unfold Strand.answerCmd
  split
  · exact ⟨t.nrflags, t.deliver, rfl⟩
  · split
    · obtain ⟨n, h⟩ := noteFlags_frame t c.ch fl
      exact ⟨n, t.deliver, h⟩
    · exact ⟨t.nrflags, _, rfl⟩

/-- The answer to a queued atomic of the strand in front: its command gone, its flags noted on its channel. -/
theorem jeoreAtomicResponse_command (s : State) (c : Cmd) (port : Nat) (op : AtomOp) (wide : Bool) (va pa m : Nat) (b old : W64) (fl : BitVec 5)
    (hl : s.strand.live = true) (hquiet : ∀ t ∈ s.strands, t.pend = []) (hport : (s.port port).usable = true) (huid : c.uid ≠ 0)
    (hsent : s.sentCmd c.uid = some c) (hsid : c.gid * 4 + c.sidx = s.strand.sid) (hbody : c.body = .atom op wide va pa (some m) b true) :
    ∃ u, exec (.jeoreAtomicResponse port ⟨s.strand.sid, c.uid⟩ ⟨old, fl, 0⟩) s = .next u ∧ u.cmds = s.cmdsBut c.uid ∧
      u.strand = s.strand.noteFlags c.ch fl ∧ s.sameBytes u := by
  obtain ⟨ports, hports⟩ := received_frame s port 0
  have hasked : c.asked = [] := by rw [Cmd.asked, hbody]
  have hdup : c.isDup old 0 = none := by rw [Cmd.isDup, hbody]
  let w := (s.work.mod fun t => t.received port 0).answerCmd c 256 old fl 0
  have hexec : exec (.jeoreAtomicResponse port ⟨s.strand.sid, c.uid⟩ ⟨old, fl, 0⟩) s = s.finish w.settle := by
    rw [exec_jeoreAtomicResponse, execJeoreAtomicResponse, if_neg (by simp [hport]), if_neg huid]
    simp only [hsent, hasked, hdup]
    rfl
  have hstrand : w.cur = s.strand.noteFlags c.ch fl := by
    have hcur : w.cur = (s.received port 0).strand.answerCmd c fl 0 := by
      simp only [w, Work.answerCmd, hdup]
      rfl
    rw [hcur, hports, Strand.answerCmd, if_neg (not_not.mpr hsid.symm), if_pos rfl]
  have hcmds : w.st.cmds = s.cmdsBut c.uid := by
    have hless : w.st.cmds = (s.received port 0).cmds.filter fun e => decide (e.uid ≠ c.uid) := by
      simp only [w, Work.answerCmd, hdup, hbody]
      rfl
    rw [hless, hports]
    rfl
  have hparked : w.st.parked = s.parked.map fun t => t.answerCmd c fl 0 := by
    have hmap : w.st.parked = (s.received port 0).parked.map fun t => t.answerCmd c fl 0 := by
      simp only [w, Work.answerCmd, hdup]
      rfl
    rw [hmap, hports]
  obtain ⟨hsame, -, hpend⟩ := noteFlags_same s.strand c.ch fl
  have hlive : w.st.strand.live = true := (congrArg Strand.live hstrand).trans (hsame.trans hl)
  have hheld : ∀ t ∈ w.st.strands, t.pend = [] := by
    rw [State.strands, if_pos hl] at hquiet
    rw [State.strands, if_pos hlive, hparked]
    intro t ht
    obtain rfl | ht := List.mem_cons.mp ht
    · exact (congrArg Strand.pend hstrand).trans (hpend.trans (hquiet _ List.mem_cons_self))
    · obtain ⟨t0, ht0, rfl⟩ := List.mem_map.mp ht
      obtain ⟨n', d', hframe⟩ := answerCmd_frame t0 c fl 0
      rw [hframe]
      exact hquiet t0 (List.mem_cons_of_mem _ ht0)
  obtain ⟨k, hk, hcur, hws, habsent, hgone⟩ := finish_settle_quiet s w hlive hheld
  have hsilent : k.ws = [] ∧ k.absent = false := by
    rw [hws, habsent]
    constructor <;> simp only [w, Work.answerCmd, hdup] <;> rfl
  refine ⟨s.commit k, ?_, hgone.trans hcmds, ?_, ?_⟩
  · rw [hexec, hk, State.finish_next s k hsilent.2]
  · rw [commit_strand, hcur, hstrand]
  · rw [State.commit_nil s k hsilent.1]
    exact sameBytes_base s k

/-- `ATOMIC_RESPONSE`: the recorded answer completes the word (R222). -/
theorem atomicResponse_completes (s : State) (r : AtomEnd) (old : W64) (fl : BitVec 5) (hl : s.strand.live = true)
    (hflight : s.strand.flight = .atomicDone r old fl) (hscan : r.scan = none) :
    let v : W64 := if r.wide || r.isF then old else (old.setWidth 32).signExtend 64
    exec (.atomicResponse s.strand.sid) s = .next ((s.withStrand { s.strand.raise fl with flight := .none }).wrote r.d v) := by
  intro v
  have hvalue : (if r.wide || r.isF then BitVec.ofNat 64 old.toNat else sextBytes 4 old.toNat) = v := by
    simp only [v]
    split
    · exact BitVec.ofNat_toNat 64 old ▸ BitVec.setWidth_eq old
    · have hsigned : signed 32 old.toNat = signed 32 (old.setWidth 32).toNat := by
        simp only [signed, BitVec.toNat_setWidth, Nat.mod_mod]
      rw [← ofInt_signed 32 (old.setWidth 32), ← hsigned]
      rfl
  let g := fun t : Strand => (({ t.raise fl with flight := .none } : Strand).wx r.d v).nextWord
  obtain ⟨hlive, hsid⟩ := nextWord_same_strand (({ s.strand.raise fl with flight := .none } : Strand).wx r.d v)
  refine (finish_onStrand_upd s _ g ?_ hl ?_ ?_).trans rfl
  · have hflight' : s.work.cur.flight = .atomicDone r old fl := hflight
    simp only [hflight', Work.atomReturn, hscan, hvalue]
    rfl
  · exact (hlive.trans (Strand.wx_live ..)).trans hl
  · refine hsid.trans ?_
    simp only [Strand.sid, Strand.wx_g, Strand.wx_sidx]
    rfl

end Sys2Proof.Machine

/-! PROOFS. Combine puts performed (O45; R228, R229, R398). -/

namespace Sys2Proof.Machine

theorem leNat_leBytes (n v : Nat) : leNat (leBytes n v) = v % 2 ^ (8 * n) := by
  induction n generalizing v with
  | zero => simp [leBytes, leNat, Nat.mod_one]
  | succ n ih =>
    have hpow : 2 ^ (8 * (n + 1)) = 256 * 2 ^ (8 * n) := by rw [Nat.mul_succ, Nat.pow_add, Nat.mul_comm]
    rw [leBytes, leNat, ih, BitVec.toNat_ofNat, hpow, Nat.mod_mul]

/-! ### The word of a put (R228) -/

/-- A doubleword's half lies in one page, so it is one part of the put. -/
theorem putParts_word (p : Put) (va : Nat) (hal : va % 4 = 0) : putParts p va 4 = [(putSite p va, 4)] := by
  have hone : (va + 4 - 1) / 65536 + 1 - va / 65536 = 1 := by omega
  have hpage : max va ((va / 65536 + 0) * 65536) = va := by omega
  have hlen : min (va + 4 - va) (65536 - va % 65536) = 4 := by omega
  simp only [putParts, pagesOf, hone, List.range_one, List.map_cons, List.map_nil, hpage, hlen]

/-- It is poisoned where its one line is. -/
theorem putPoison_word (p : Put) (s : State) (va pa : Nat) (hal : va % 4 = 0) (hsite : putSite p va = .mem .fm pa)
    (hclean : (s.line false (pa / 64)).poison = false) : putPoison p s va 4 = none := by
  have hone : (va + 4 - 1) / 64 + 1 - va / 64 = 1 := by omega
  have hline : max va ((va / 64 + 0) * 64) = va := by omega
  have hpoison : s.poisoned (.mem .fm pa) = false := hclean
  simp only [putPoison, hone, List.range_one, List.map_cons, List.map_nil, hline, List.find?_cons, List.find?_nil, hsite, hpoison]

theorem putRead_word (p : Put) (w : Work) (va pa : Nat) (hal : va % 4 = 0) (hsite : putSite p va = .mem .fm pa) (hw : w.ws = []) :
    putRead p w va 4 = (Mem.readN w.st.fm pa 4, w) := by
  have hbytes : w.bytes .fm pa 4 = Mem.readN w.st.fm pa 4 := by rw [Work.bytes, hw]; rfl
  simp only [putRead, putParts_word p va hal, List.foldl_cons, List.foldl_nil, hsite, hbytes, List.nil_append]

theorem putWrite_word (p : Put) (w : Work) (va pa v : Nat) (hal : va % 4 = 0) (hsite : putSite p va = .mem .fm pa) (hw : w.ws = [])
    (hpa : pa < 384 * 2 ^ 30) :
    putWrite p Work.storeAt w va (leBytes 4 v) = { w with ws := [.put .fm pa (leBytes 4 v) (w.st.ownerTag w.cur.g.ctx) false] } := by
  have htake : (leBytes 4 v).take 4 = leBytes 4 v := List.take_of_length_le (by rw [length_leBytes])
  have hnote : w.note (.mem .fm pa) = w := note_exists w _ (decide_eq_true hpa)
  simp only [putWrite, length_leBytes, putParts_word p va hal, List.foldl_cons, List.foldl_nil, hsite, hnote, htake, Work.storeAt,
    Work.perform, Work.putOwn, Work.put, hw, List.nil_append]

/-- Nothing is asked of a module under a number of which nothing is on its way. -/
theorem asksOf_carried (s : State) (uid : Nat) (h : s.carried uid = true) : s.asksOf uid = [] := by
  rw [State.asksOf, List.flatMap_eq_nil_iff]
  intro p hp
  have hport := List.all_eq_true.mp h p hp
  simp only [Port.carries, Bool.not_eq_true', Bool.or_eq_false_iff, List.any_eq_false, decide_eq_true_eq] at hport
  rw [List.filterMap_eq_nil_iff]
  intro f hf
  have hnot : f.uid ≠ uid := (List.mem_append.mp hf).elim (hport.1 f) (hport.2 f)
  exact if_neg fun ⟨_, hu⟩ => hnot hu

theorem newAsks_carried (s : State) (uid : Nat) (h : s.carried uid = true) : s.newAsks uid [] = [] := asksOf_carried s uid h

/-! ### The three ends of a put at its fill word -/

section
variable (s : State) (c : Cmd) (p : Put) (pa : Nat) (hbody : c.body = .put p false) (hfree : s.work.putFree p = true)
  (hal : p.fill % 4 = 0) (hsite : putSite p p.fill = .mem .fm pa) (hclean : (s.line false (pa / 64)).poison = false)
include hbody hfree hal hsite hclean

/-- The put comes to its duplicate test. -/
theorem performPut_tests : (s.workFor c).performPut c =
    (let word := leNat (Mem.readN s.fm pa 4)
    let r := if bitAt word p.rank then (if s.poisoned (headerSite p 12) then PutEnd.bad 6 (p.hva + 12) else .dup, s.workFor c)
      else
        let filled := setBits (word % 256) p.rank 1 1
        let zeros := if p.zero then setBits (bitsAt word 8 8) p.rank 1 1 else bitsAt word 8 8
        let w1 := if p.zero then s.workFor c else putWrite p Work.storeAt (s.workFor c) (slotAt p p.rank) (p.row.flatMap (leBytes 4))
        let w2 := putWrite p Work.storeAt w1 p.fill (leBytes 4 (filled + zeros * 256))
        if filled = 2 ^ p.nrank - 1 then startCombine p w2 zeros else (.done, w2)
    r.2.endPut c p [] r.1) := by
  have hroom : (s.workFor c).putFree p = true := hfree
  have hgood : putPoison p (s.workFor c).st p.fill 4 = none := putPoison_word p s p.fill pa hal hsite hclean
  have hread : putRead p (s.workFor c) p.fill 4 = (Mem.readN s.fm pa 4, s.workFor c) := putRead_word p _ p.fill pa hal hsite rfl
  simp only [Work.performPut, hbody, hsite, hroom, if_true, putHere, hgood, hread]
  rfl

/-- A zero put that is no duplicate and not the last sets its two bits in the fill word. -/
theorem performPut_zero (hpa : pa < 384 * 2 ^ 30) (hzero : p.zero = true) (hcarried : s.carried c.uid = true) :
    let word := leNat (Mem.readN s.fm pa 4)
    let filled := setBits (word % 256) p.rank 1 1
    bitAt word p.rank = false → filled ≠ 2 ^ p.nrank - 1 →
    (s.workFor c).performPut c = ({ s.workFor c with
      ws := [.put .fm pa (leBytes 4 (filled + setBits (bitsAt word 8 8) p.rank 1 1 * 256)) (s.ownerTag s.strand.g.ctx) false] } : Work).doneCmd
        c.uid := by
  intro word filled hnew hlast
  rw [performPut_tests s c p pa hbody hfree hal hsite hclean]
  simp only [show bitAt (leNat (Mem.readN s.fm pa 4)) p.rank = false from hnew, Bool.false_eq_true, if_false, hzero, if_true,
    putWrite_word p (s.workFor c) p.fill pa _ hal hsite rfl hpa, if_neg (show ¬ setBits (leNat (Mem.readN s.fm pa 4) % 256) p.rank 1 1 = _ from hlast)]
  have hwhole : ((s.newAsks c.uid []).isEmpty && s.carried c.uid) = true := by
    rw [newAsks_carried s c.uid hcarried, hcarried]
    rfl
  exact if_pos hwhole

/-- A duplicate adds one to DUP, by the device. -/
theorem performPut_duplicate (hdup : bitAt (leNat (Mem.readN s.fm pa 4)) p.rank = true) (hhome : p.home = none)
    (hhdr : p.hdr + 64 ≤ 384 * 2 ^ 30) (hgood : (s.line false ((p.hdr + 12) / 64)).poison = false) :
    (s.workFor c).performPut c = ({ s.workFor c with
      ws := [.put .fm (p.hdr + 12) (leBytes 4 ((leNat (Mem.readN s.fm (p.hdr + 12) 4) + 1) % 2 ^ 32)) 0 false] } : Work).doneCmd c.uid := by
  have hheader : headerSite p 12 = .mem .fm (p.hdr + 12) := by rw [headerSite, hhome]
  have hpoison : s.poisoned (.mem .fm (p.hdr + 12)) = false := hgood
  have hnote : (s.workFor c).note (.mem .fm (p.hdr + 12)) = s.workFor c := note_exists _ _ (decide_eq_true (by omega))
  have hold : leNat ((s.workFor c).bytes .fm (p.hdr + 12) 4) = leNat (Mem.readN s.fm (p.hdr + 12) 4) := rfl
  rw [performPut_tests s c p pa hbody hfree hal hsite hclean]
  simp only [hdup, if_true, hheader, hpoison, Bool.false_eq_true, if_false, Work.endPut, Work.deviceAtom, atomSize, atomNew, hold, hnote]
  rfl

/-- A duplicate at a poisoned header is dropped with its delivery. -/
theorem performPut_bad (hdup : bitAt (leNat (Mem.readN s.fm pa 4)) p.rank = true) (hhome : p.home = none)
    (hbad : (s.line false ((p.hdr + 12) / 64)).poison = true) (hcarried : s.carried c.uid = true) :
    (s.workFor c).performPut c = ((s.workFor c).doneCmd c.uid).pendDelivery ⟨true, c.ch, 6, 0, BitVec.ofNat 64 (p.hva + 12), false, none⟩ := by
  have hheader : headerSite p 12 = .mem .fm (p.hdr + 12) := by rw [headerSite, hhome]
  have hpoison : s.poisoned (.mem .fm (p.hdr + 12)) = true := hbad
  rw [performPut_tests s c p pa hbody hfree hal hsite hclean]
  simp only [hdup, if_true, hheader, hpoison]
  have hwhole : ((s.newAsks c.uid []).isEmpty && s.carried c.uid) = true := by
    rw [newAsks_carried s c.uid hcarried, hcarried]
    rfl
  exact if_pos hwhole

end

/-! ### `CMBPUT_PERFORM` -/

/-- Whether a command is a put. -/
def Cmd.isPut (c : Cmd) : Bool :=
  match c.body with
  | .put _ _ => true
  | _ => false

/-- The event of the strand's oldest put is what that put does. -/
theorem cmbputPerform_performs (s : State) (c : Cmd) (hl : s.strand.live = true) (hquiet : ∀ t ∈ s.strands, t.pend = [])
    (hc : s.oldestCmd s.strand.sid Cmd.isPut = some c) (hmove : c.mayMove s = true) (k : Work) (hk : (s.workFor c).performPut c = k)
    (hl' : k.cur.live = s.strand.live) (hs : k.cur.sid = s.strand.sid) (hpend : k.cur.pend = s.strand.pend) (hparked : k.st.parked = s.parked) :
    ∃ w : Work, exec (.cmbputPerform s.strand.sid) s = s.finish w ∧ w.cur = k.cur ∧ w.ws = k.ws ∧ w.absent = k.absent ∧
      (s.commit w).cmds = k.st.cmds := by
  obtain ⟨w, hw, hrest⟩ := finish_onCmd s c (fun w => w.performPut c) hl (oldestCmd_accepts hc).1 hquiet k hk hl' hs hpend hparked
  refine ⟨w, ?_, hrest⟩
  rw [exec_cmbputPerform, ← hw]
  change s.finish (match s.oldestCmd s.strand.sid Cmd.isPut with
    | some c => if c.mayMove s then (s.work.onCmd c fun w => w.performPut c).settle else s.work
    | none => s.work) = _
  rw [hc]
  exact congrArg s.finish (if_pos hmove)

/-- A put that writes one word of field memory and is gone. -/
theorem cmbputPerform_writes (s : State) (c : Cmd) (hl : s.strand.live = true) (hquiet : ∀ t ∈ s.strands, t.pend = [])
    (hc : s.oldestCmd s.strand.sid Cmd.isPut = some c) (hmove : c.mayMove s = true) (a v : Nat) (o : BitVec 12)
    (hk : (s.workFor c).performPut c = ({ s.workFor c with ws := [.put .fm a (leBytes 4 v) o false] } : Work).doneCmd c.uid) :
    ∃ u, exec (.cmbputPerform s.strand.sid) s = .next u ∧ u.cmds = s.cmdsBut c.uid ∧ s.sameBytesBut u .fm a 4 ∧
      leNat (Mem.readN u.fm a 4) = v % 2 ^ 32 := by
  obtain ⟨w, hw, -, hws, habsent, hcmds⟩ := cmbputPerform_performs s c hl hquiet hc hmove _ hk rfl rfl rfl rfl
  obtain ⟨u, hu, -, hbytes, hread⟩ := finish_put s w .fm a (leBytes 4 v) o false habsent hws
  have hcommit : s.commit w = u := Host.Outcome.next.inj ((State.finish_next s w habsent).symm.trans hu)
  rw [length_leBytes] at hbytes
  refine ⟨u, hw.trans hu, hcommit ▸ hcmds, hbytes, ?_⟩
  have hword : Mem.readN u.fm a 4 = leBytes 4 v := readN_of_reads hread
  rw [hword, leNat_leBytes]

/-- Settles O45, event by event. -/
theorem atomicEventsPerform : Obligations.AtomicEventsPerform := by
  unfold Obligations.AtomicEventsPerform
  intro s c pa hl hquiet hpa hlog t gone
  refine ⟨?_, ?_, ?_, ?_, ?_⟩
  · intro ch op wide va b hc hmove hbody hpoison n hal
    exact noreturnAtomicPerform_performs s c ch op wide va pa b hl hquiet hpa hlog hc hmove hbody hpoison hal
  · exact fun port r old fl hport hflight => jeoreAtomicResponse_word s port r old fl hl hport hflight
  · intro port op wide va m b old fl hport huid hsent hsid _ hbody
    exact jeoreAtomicResponse_command s c port op wide va pa m b old fl hl hquiet hport huid hsent hsid hbody
  · exact fun r old fl hflight hscan => atomicResponse_completes s r old fl hl hflight hscan
  · intro p hc hbody hmove hfree hzero hrank hal hsite hclean word filled
    refine ⟨fun hword hnew hlast hcarried => ?_, fun hdup hhome hhdr => ⟨fun hgood => ?_, fun hbad hcarried => ?_⟩⟩
    · have hperform := performPut_zero s c p pa hbody hfree hal hsite hclean hpa hzero hcarried hnew hlast
      obtain ⟨u, hu, hcmds, hbytes, hread⟩ := cmbputPerform_writes s c hl hquiet hc hmove pa _ _ hperform
      refine ⟨u, hu, hcmds, hbytes, hread.trans ?_⟩
      have hhigh : bitsAt word 8 8 = word / 256 := by rw [bitsAt]; omega
      have hfilled : filled < 2 ^ 8 := setBits_lt _ _ _ _ 8 (Nat.mod_lt _ (by decide)) (by omega)
      have hzeros : setBits (word / 256) p.rank 1 1 < 2 ^ 8 := setBits_lt _ _ _ _ 8 (by omega) (by omega)
      rw [show leNat (Mem.readN s.fm pa 4) = word from rfl, hhigh, show setBits (word % 256) p.rank 1 1 = filled from rfl]
      omega
    · have hperform := performPut_duplicate s c p pa hbody hfree hal hsite hclean hdup hhome hhdr hgood
      obtain ⟨u, hu, hcmds, hbytes, hread⟩ := cmbputPerform_writes s c hl hquiet hc hmove _ _ _ hperform
      exact ⟨u, hu, hcmds, hbytes, hread.trans (Nat.mod_mod _ _)⟩
    · have hperform := performPut_bad s c p pa hbody hfree hal hsite hclean hdup hhome hbad hcarried
      obtain ⟨w, hw, hcur, hws, habsent, hcmds⟩ := cmbputPerform_performs s c hl hquiet hc hmove _ hperform rfl rfl rfl rfl
      obtain ⟨u, hu, hstrand, hbytes⟩ := finish_silent s w habsent hws
      have hcommit : s.commit w = u := Host.Outcome.next.inj ((State.finish_next s w habsent).symm.trans hu)
      refine ⟨u, hw.trans hu, hcommit ▸ hcmds, hbytes, ?_⟩
      rw [hstrand, hcur]
      rfl

end Sys2Proof.Machine

/-! PROOFS. The events of copies (O44; R205 to R207, R326). -/

namespace Sys2Proof.Machine

/-! ### The strand of a copy that moves -/

/-- A step whose strand in front is the same one, whatever its registers and its writes on their way. -/
structure Work.SameFront (w k : Work) : Prop where
  live : k.cur.live = w.cur.live
  sid : k.cur.sid = w.cur.sid

theorem Work.SameFront.refl (w : Work) : w.SameFront w := ⟨rfl, rfl⟩

theorem Work.SameFront.trans {w k j : Work} (h : w.SameFront k) (h' : k.SameFront j) : w.SameFront j :=
  ⟨h'.live.trans h.live, h'.sid.trans h.sid⟩

theorem perform_sameFront (w : Work) (st : Store) : w.SameFront (w.perform st) := by
  obtain ⟨r, h⟩ := w.perform_cur st
  exact ⟨by rw [h], by rw [h]; rfl⟩

theorem copyRead_sameFront {w k : Work} {sp : Bool} {addr len : Nat} {given bs left : List Byte}
    (h : copyRead w sp addr len given = .ok (bs, left, k)) : w.SameFront k := by
  unfold copyRead at h
  split at h
  · split at h
    · cases h
    · split at h
      · cases h
      · cases h
        exact .refl w
  · split at h
    · cases h
    · split at h
      · cases h
      · split at h
        · cases h
          exact ⟨rfl, rfl⟩
        · split at h
          · cases h
          · cases h
            exact .refl w
        · split at h
          · cases h
          · cases h
            exact .refl w
        · cases h

theorem copyWrite_sameFront {w k : Work} {sp : Bool} {addr : Nat} {bytes : List Byte} (h : copyWrite w sp addr bytes = .ok k) :
    w.SameFront k := by
  unfold copyWrite at h
  split at h
  · split at h
    · cases h
    · split at h
      · cases h
      · cases h
        exact perform_sameFront ..
  · split at h
    · cases h
    · next site _ =>
      split at h
      · cases h
      · cases h
        have hperform := perform_sameFront ({ w.note site with va := some addr } : Work) (w.storeAt site bytes)
        exact ⟨hperform.live, hperform.sid⟩

theorem moveRuns_sameFront {w k : Work} {srcSp dstSp : Bool} {l : List Run} {given : List Byte}
    (h : moveRuns w srcSp dstSp l given = .ok k) : w.SameFront k := by
  induction l generalizing w given with
  | nil =>
    cases h
    exact .refl _
  | cons r l ih =>
    unfold moveRuns at h
    split at h
    · cases h
    · next hread =>
      split at h
      · cases h
      · next hwrite => exact ((copyRead_sameFront hread).trans (copyWrite_sameFront hwrite)).trans (ih h)

theorem readRuns_sameFront {w k : Work} {sp : Bool} {l : List Run} {given bs : List Byte} (h : readRuns w sp l given = .ok (bs, k)) :
    w.SameFront k := by
  induction l generalizing w given bs k with
  | nil =>
    cases h
    exact .refl _
  | cons r l ih =>
    unfold readRuns at h
    split at h
    · cases h
    · next hread =>
      split at h
      · cases h
      · next hmore =>
        cases h
        exact (copyRead_sameFront hread).trans (ih hmore)

theorem setElt_same_strand (t : Strand) (m : Reg) (w i x : Nat) : (t.setElt m w i x).live = t.live ∧ (t.setElt m w i x).sid = t.sid := by
  obtain ⟨v, h⟩ := setElt_frame t m w i x
  rw [h]
  exact ⟨rfl, rfl⟩

theorem foldl_sameFront {α : Type} (f : Work → α → Work) (hf : ∀ (k : Work) (a : α), k.SameFront (f k a)) (l : List α) (w : Work) :
    w.SameFront (l.foldl f w) := by
  induction l generalizing w with
  | nil => exact .refl w
  | cons a l ih => exact (hf w a).trans (ih (f w a))

theorem fillGroup_sameFront (w : Work) (vd sew lo n : Nat) (bytes : List Byte) : w.SameFront (fillGroup w vd sew lo bytes n) := by
  refine foldl_sameFront _ (fun k j => ?_) (List.range n) w
  obtain ⟨hlive, hsid⟩ := setElt_same_strand k.cur (BitVec.ofNat 5 vd) sew (lo + j) (leNat ((bytes.drop (j * (sew / 8))).take (sew / 8)))
  exact ⟨hlive, hsid⟩

/-- An element group moved is moved for its strand. -/
theorem moveWith_sameFront {w k : Work} {b : CopyBody} {g : Nat} {given : List Byte} (h : moveWith w b g given = .ok k) : w.SameFront k := by
  unfold moveWith at h
  split at h
  · dsimp only at h
    split at h
    · cases h
    · next hread =>
      cases h
      exact (readRuns_sameFront hread).trans (fillGroup_sameFront ..)
  · exact moveRuns_sameFront h

theorem moveGroup_sameFront {w k : Work} {b : CopyBody} {g : Nat} (h : moveGroup w b g = .ok k) : w.SameFront k := by
  unfold moveGroup at h
  generalize (if b.srcSp then [] else farRuns w (b.runs g (w.cur.slabOf b))) = far at h
  cases far with
  | nil => exact moveWith_sameFront h
  | cons f l =>
    dsimp only at h
    split at h
    · cases h
    · cases h

/-- So are the groups of a copy up to where it stops. -/
theorem moveFrom_sameFront {b : CopyBody} {total : Nat} {w k : Work} {g fuel n : Nat} {e : CopyEnd}
    (h : moveFrom b total w g fuel = (k, n, e)) : w.SameFront k := by
  induction fuel generalizing w g with
  | zero =>
    cases h
    exact .refl _
  | succ fuel ih =>
    unfold moveFrom at h
    split at h
    · cases h
      exact .refl _
    · split at h
      · next hgroup => exact (moveGroup_sameFront hgroup).trans (ih h)
      all_goals
        cases h
        exact .refl _

/-! ### The end of a copy's event -/

/-- A copy's step that ends with a body of its command and a change of its strand. -/
def Work.endsAs (k : Work) (c : Cmd) (body : CmdBody) (g : Strand → Strand) : Work := (k.setBody c.uid body).upd g

theorem memOf_commit_ws (s : State) (k j : Work) (h : j.ws = k.ws) (g : Tgt) : (s.commit j).memOf g = (s.commit k).memOf g := by
  rw [memOf_commit, memOf_commit, h]

theorem commit_cmds (s : State) (k : Work) : (s.commit k).cmds = k.st.cmds := by
  obtain ⟨_, _, _, _, _, _, _, _, _, _, h⟩ := commit_afterWrites s k
  rw [h]
  rfl

/-- An event of a copy of the strand in front on a state: what it has moved, its command's new body and its strand. -/
theorem finish_copyEvent (s : State) (w : Work) (c : Cmd) (f : Work → Work) (k : Work) (body : CmdBody) (g : Strand → Strand)
    (hl : s.strand.live = true) (hsid : c.gid * 4 + c.sidx = s.strand.sid) (hw : w.cur = s.strand) (hk : k.absent = false)
    (hsame : ({ w with src := c.uid } : Work).SameFront k) (hf : f { w with src := c.uid } = k.endsAs c body g)
    (hg : (g k.cur).live = k.cur.live ∧ (g k.cur).sid = k.cur.sid) :
    ∃ u, s.finish (w.onCmd c f) = .next u ∧ u.strand = g k.cur ∧
      u.cmds = k.st.cmds.map (fun e => if e.uid = c.uid then { e with body := body } else e) ∧ ∀ m, u.memOf m = (s.commit k).memOf m := by
  have hlive : (f { w with src := c.uid }).cur.live = w.cur.live := by
    rw [hf]
    exact hg.1.trans hsame.live
  have hnumber : (f { w with src := c.uid }).cur.sid = w.cur.sid := by
    rw [hf]
    exact hg.2.trans hsame.sid
  have hfront := onCmd_front w c f (by rw [hw]; exact hl) (by rw [hw]; exact hsid) (by rw [hlive, hw]; exact hl) hnumber
  rw [hf] at hfront
  refine ⟨_, (congrArg s.finish hfront).trans (State.finish_next s _ hk), commit_strand s _, commit_cmds s _, ?_⟩
  exact memOf_commit_ws s k _ rfl

theorem copyOn_sid {s : State} {sid tag : Nat} {c : Cmd} (h : s.copyOn sid tag = some c) : c.gid * 4 + c.sidx = sid := by
  have hfound := List.find?_some h
  rw [Bool.and_eq_true, decide_eq_true_eq] at hfound
  exact hfound.1

/-- A copy that moves to an end that its event accepts. -/
theorem moveCopy_ends (s : State) (c : Cmd) (b : CopyBody) (tag p : Nat) (want : CopyEnd → Bool) (k : Work) (n : Nat) (e : CopyEnd)
    (body : CmdBody) (g : Strand → Strand) (hl : s.strand.live = true) (hc : s.copyOn s.strand.sid tag = some c)
    (hbody : c.body = .copy tag b p none .moving) (hmove : c.mayMove s = true) (hk : k.absent = false)
    (hmoved : moveFrom b (groupsOf b (s.strand.slabOf b)) (s.workFor c) p (groupsOf b (s.strand.slabOf b) + 1 - p) = (k, n, e))
    (hwant : want e = true) (hsettle : settleCopy k c tag b n e = k.endsAs c body g)
    (hg : (g k.cur).live = k.cur.live ∧ (g k.cur).sid = k.cur.sid) :
    ∃ u, s.finish (s.work.moveCopy s.strand.sid tag want) = .next u ∧ u.strand = g k.cur ∧
      u.cmds = k.st.cmds.map (fun e => if e.uid = c.uid then { e with body := body } else e) ∧ ∀ m, u.memOf m = (s.commit k).memOf m := by
  have hfound : s.work.st.copyOn s.strand.sid tag = some c := hc
  have hmay : c.mayMove s.work.st = true := hmove
  have hmoved' : moveFrom b (groupsOf b ((s.workFor c).cur.slabOf b)) (s.workFor c) p (groupsOf b ((s.workFor c).cur.slabOf b) + 1 - p) =
    (k, n, e) := hmoved
  simp only [Work.moveCopy, hfound, hmay, Bool.not_true, Bool.false_eq_true, if_false, hbody]
  refine finish_copyEvent s s.work c _ k body g hl (copyOn_sid hc) rfl hk (moveFrom_sameFront hmoved) ?_ hg
  simp only [show ({ s.work with src := c.uid } : Work) = s.workFor c from rfl, hmoved', hwant, if_true]
  exact hsettle

/-! ### What settles behind a step -/

/-- A step that keeps its commands and reaches no absent place more. -/
structure Work.KeepsCmds (w k : Work) : Prop where
  absent : k.absent = w.absent
  cmds : k.st.cmds = w.st.cmds

theorem Work.KeepsCmds.refl (w : Work) : w.KeepsCmds w := ⟨rfl, rfl⟩

theorem Work.KeepsCmds.trans {w k j : Work} (h : w.KeepsCmds k) (h' : k.KeepsCmds j) : w.KeepsCmds j :=
  ⟨h'.absent.trans h.absent, h'.cmds.trans h.cmds⟩

theorem perform_keepsCmds (w : Work) (st : Store) : w.KeepsCmds (w.perform st) := by
  obtain ⟨_, _, _, _, _, _, h⟩ := perform_afterStores w st
  exact ⟨perform_absent w st, by rw [h]⟩

theorem performAll_keepsCmds (l : List Store) (w : Work) : w.KeepsCmds (l.foldl Work.perform w) := by
  induction l generalizing w with
  | nil => exact .refl w
  | cons st l ih => exact (perform_keepsCmds w st).trans (ih _)

theorem trace_keepsCmds (w : Work) (kind a : Nat) (b : W64) : w.KeepsCmds (w.trace kind a b) := by
  obtain ⟨cores, h, -⟩ := trace_sameButRings w kind a b
  exact ⟨trace_absent .., by rw [h]⟩

theorem endPendStall_keepsCmds (w : Work) (p : Pend) : w.KeepsCmds (w.endPendStall p) := by
  unfold Work.endPendStall
  split
  · exact .refl w
  · have h := trace_keepsCmds w 7 (min (2 ^ 32 - 1) w.cur.stalled) (BitVec.ofNat 64 (p.va.getD ((p.stores.head?.map Store.addr).getD 0)))
    exact ⟨h.absent, h.cmds⟩

theorem settlePend_keepsCmds (l : List Pend) (w : Work) : w.KeepsCmds (settlePend w l) := by
  induction l generalizing w with
  | nil => exact .refl w
  | cons p l ih =>
    unfold settlePend
    split
    · refine Work.KeepsCmds.trans (Work.KeepsCmds.trans ?_ (endPendStall_keepsCmds _ p)) (ih _)
      have h := performAll_keepsCmds p.stores
        { w.upd fun s => { s with pend := s.pend.filter fun q => decide (q.uid ≠ p.uid) } with src := p.uid, cls := p.cls, va := p.va }
      exact ⟨h.absent, h.cmds⟩
    · exact ih w

theorem focusStrand_cmds {s t : State} {sid : Nat} (h : s.focusStrand sid = some t) : t.cmds = s.cmds := by
  rw [focusStrand_eq, Option.map_eq_some_iff] at h
  obtain ⟨_, -, rfl⟩ := h
  rfl

theorem settleStrands_keepsCmds (l : List Nat) (w : Work) : w.KeepsCmds (settleStrands w l) := by
  induction l generalizing w with
  | nil => exact .refl w
  | cons i l ih =>
    unfold settleStrands
    split
    · exact ih w
    · next s hs =>
      refine Work.KeepsCmds.trans (Work.KeepsCmds.trans ?_ (settlePend_keepsCmds s.strand.pend { w with st := s })) (ih _)
      exact ⟨rfl, focusStrand_cmds hs⟩

/-- Held stores that a step lets go are performed; no command goes (R213, R216). -/
theorem settle_keepsCmds (w : Work) : w.KeepsCmds w.settle := by
  have h := settleStrands_keepsCmds (w.st.strands.map Strand.sid) w
  unfold Work.settle
  dsimp only
  split
  · next s hs => exact ⟨h.absent, (focusStrand_cmds hs).trans h.cmds⟩
  · exact h

/-! ### The events -/

/-- Whether a command is the strand's landed copy on a tag. -/
def Cmd.landedCopy (sid tag : Nat) (c : Cmd) : Bool :=
  decide (c.gid * 4 + c.sidx = sid) &&
  (match c.body with
   | .copy t _ _ _ st => decide (t = tag) && decide (st = .landed)
   | _ => false)

/-- `COPY_PERFORMED` takes a landed copy off its channel (R205). -/
theorem copyPerformed_removes (s : State) (sid : Nat) (tag : BitVec 6) (c : Cmd) (h : s.cmds.find? (Cmd.landedCopy sid tag.toNat) = some c) :
    ∃ u, exec (.copyPerformed sid tag) s = .next u ∧ u.cmds = s.cmds.filter fun e => decide (e.uid ≠ c.uid) := by
  let w := s.work.mod fun st => { st with cmds := st.cmds.filter fun e => decide (e.uid ≠ c.uid) }
  obtain ⟨habsent, hcmds⟩ := settle_keepsCmds w
  refine ⟨s.commit w.settle, ?_, (commit_cmds s _).trans hcmds⟩
  rw [exec_copyPerformed, ← State.finish_next s w.settle habsent]
  change s.finish (match s.cmds.find? (Cmd.landedCopy sid tag.toNat) with
    | none => s.work
    | some c => (s.work.mod fun st => { st with cmds := st.cmds.filter fun e => decide (e.uid ≠ c.uid) }).settle) = _
  rw [h]

/-- `COPY_SOURCE_ERROR` at a source address of an element group still to move (R207). -/
theorem copySourceError_lands (s : State) (c : Cmd) (b : CopyBody) (tag : BitVec 6) (p g addr : Nat) (k : Work) (n : Nat)
    (hl : s.strand.live = true) (hc : s.copyOn s.strand.sid tag.toNat = some c) (hbody : c.body = .copy tag.toNat b p none .moving)
    (hmove : c.mayMove s = true) (hk : k.absent = false) (hg : g < groupsOf b (s.strand.slabOf b)) (hp : p ≤ g)
    (hreads : ((b.runs g (s.strand.slabOf b)).any fun r => decide (r.src ≤ addr) && decide (addr < r.src + r.len)) = true)
    (hmoved : moveFrom b g (s.workFor c) p (g + 1 - p) = (k, n, .landed)) :
    ∃ u, exec (.copySourceError s.strand.sid tag ⟨g, addr⟩) s = .next u ∧
      u.strand = { k.cur with
        tags := k.cur.tags ||| BitVec.ofNat 64 (2 ^ tag.toNat),
        deliver := k.cur.deliver ++
          [⟨false, tag.toNat, 5, 0, BitVec.ofNat 64 addr, false, some (sourceSite (s.workFor c) b.srcSp addr)⟩] } ∧
      u.cmds = k.st.cmds.map (fun e => if e.uid = c.uid then { e with body := .copy tag.toNat b n none .landed } else e) ∧
      ∀ m, u.memOf m = (s.commit k).memOf m := by
  have hreads' : ((b.runs g ((s.workFor c).cur.slabOf b)).any fun r => decide (r.src ≤ addr) && decide (addr < r.src + r.len)) = true := hreads
  have hgo : ¬(groupsOf b ((s.workFor c).cur.slabOf b) ≤ g ∨ g < p ∨
      (!(b.runs g ((s.workFor c).cur.slabOf b)).any fun r => decide (r.src ≤ addr) && decide (addr < r.src + r.len)) = true) := by
    rw [hreads']
    rintro (h | h | h)
    · exact absurd hg (not_lt.mpr h)
    · omega
    · cases h
  simp only [exec_copySourceError, execCopySourceError, hc, hbody, hmove, Bool.not_true, Bool.false_eq_true, if_false]
  refine finish_copyEvent s s.work c _ k (.copy tag.toNat b n none .landed) (fun t => { t with
    tags := t.tags ||| BitVec.ofNat 64 (2 ^ tag.toNat),
    deliver := t.deliver ++ [⟨false, tag.toNat, 5, 0, BitVec.ofNat 64 addr, false, some (sourceSite (s.workFor c) b.srcSp addr)⟩] })
    hl (copyOn_sid hc) rfl hk (moveFrom_sameFront hmoved) ?_ ⟨rfl, rfl⟩
  simp only [show ({ s.work with src := c.uid } : Work) = s.workFor c from rfl, hmoved, if_neg hgo, if_true]
  rfl

/-- `JEORE_COPY_READ_DATA`: the data of a group's reads completes it (R326). -/
theorem jeoreCopyReadData_moves (s : State) (c : Cmd) (b : CopyBody) (tag : BitVec 6) (p port : Nat) (bytes : List Byte) (k : Work)
    (hl : s.strand.live = true) (hc : s.copyOn s.strand.sid tag.toNat = some c) (hbody : c.body = .copy tag.toNat b p none .asked)
    (hk : k.absent = false) (hport : (s.port port).usable = true) (hsafe : (s.port port).safeTier = false)
    (hmoved : moveWith { (s.work.mod fun x => x.received port bytes.length) with src := c.uid } b p bytes = .ok k) :
    ∃ u, exec (.jeoreCopyReadData port ⟨s.strand.sid, tag⟩ bytes) s = .next u ∧ u.strand = k.cur ∧
      u.cmds = k.st.cmds.map (fun e => if e.uid = c.uid then { e with body := .copy tag.toNat b (p + 1) none .moving } else e) ∧
      ∀ m, u.memOf m = (s.commit k).memOf m := by
  obtain ⟨ports, hports⟩ := received_frame s port bytes.length
  have hcur : (s.work.mod fun x => x.received port bytes.length).cur = s.strand := by
    change (s.received port bytes.length).strand = s.strand
    rw [hports]
  simp only [exec_jeoreCopyReadData, execJeoreCopyReadData, hport, hsafe, hc, hbody, Bool.not_true, Bool.false_eq_true, if_false]
  refine finish_copyEvent s (s.work.mod fun x => x.received port bytes.length) c _ k (.copy tag.toNat b (p + 1) none .moving) id
    hl (copyOn_sid hc) hcur hk (moveWith_sameFront hmoved) ?_ ⟨rfl, rfl⟩
  simp only [hmoved]
  rfl

/-- Settles O44, event by event. -/
theorem copyEventsMoveTheirGroups : Obligations.CopyEventsMoveTheirGroups := by
  unfold Obligations.CopyEventsMoveTheirGroups
  intro tag s c b p hl t sid total w bit becomes
  refine ⟨fun hc hbody hmove k n hk => ⟨fun hmoved => ?_, fun f hmoved => ?_, fun va hmoved => ?_, fun g addr hg hp hreads hmoved => ?_⟩,
    fun port bytes k hc hbody hk hport hsafe hmoved => ?_, fun hc => ?_⟩
  · exact moveCopy_ends s c b tag.toNat p _ k n _ _ (fun t => { t with tags := t.tags ||| bit }) hl hc hbody hmove hk hmoved
      (decide_eq_true rfl) rfl ⟨rfl, rfl⟩
  · exact moveCopy_ends s c b tag.toNat p _ k n _ _
      (fun t => { t with deliver := t.deliver ++ [⟨false, tag.toNat, f.code, f.sub, f.tval, true, none⟩] }) hl hc hbody hmove hk hmoved
      rfl rfl ⟨rfl, rfl⟩
  · exact moveCopy_ends s c b tag.toNat p _ k n _ _
      (fun t => { t with tags := t.tags ||| bit, deliver := t.deliver ++ [⟨false, tag.toNat, 6, 0, BitVec.ofNat 64 va, false, none⟩] })
      hl hc hbody hmove hk hmoved rfl rfl ⟨rfl, rfl⟩
  · exact copySourceError_lands s c b tag p g addr k n hl hc hbody hmove hk hg hp hreads hmoved
  · exact jeoreCopyReadData_moves s c b tag p port bytes k hl hc hbody hk hport hsafe hmoved
  · exact copyPerformed_removes s sid tag c hc

end Sys2Proof.Machine

/-! PROOFS. `aaddscan` (R223), and what words on groups of vector registers note of their strand. -/

namespace Sys2Proof.Machine

/-! ### A strand at its next word and with notes -/

/-- Going on at the following word changes x registers only inside a loop. -/
theorem nextWord_frame (t : Strand) :
    ∃ x p l, t.nextWord = { t with x := x, pc := p, loop := l, waiting := .none, waitT := 0, cvret := t.cvret + 1, started := true } ∧
      (t.loop = none → x = t.x) := by
  obtain ⟨x, p, l, hgo, hx⟩ := goTo_frame t (t.pc + 4)
  exact ⟨x, p, l, by rw [Strand.nextWord, Strand.retired, hgo], fun h => (hx h).1⟩

/-- What a word that goes on keeps of its strand. -/
structure Strand.GoesOn (t u : Strand) : Prop where
  vectors : u.vectors = t.vectors
  fflags : u.fflags = t.fflags
  specials : u.specials = t.specials
  x : t.loop = none → u.x = t.x

theorem Strand.GoesOn.v {t u : Strand} (h : t.GoesOn u) : u.v = t.v := congrArg Prod.fst h.vectors

theorem Strand.GoesOn.k {t u : Strand} (h : t.GoesOn u) : u.k = t.k := congrArg (·.2.1) h.vectors

theorem nextWord_goesOn (t : Strand) : t.GoesOn t.nextWord := by
  obtain ⟨x, p, l, hnext, hx⟩ := nextWord_frame t
  rw [hnext]
  exact ⟨rfl, rfl, rfl, hx⟩

theorem noted_sameOrder (t : Strand) (n : Notes) : t.SameOrder (t.drained.noted n) := ⟨rfl, rfl, rfl, rfl, rfl, rfl, rfl⟩

/-- A word on groups that no `cget` fills changes no more than what its strand notes (R142, R203). -/
theorem groupsFree_midway (s : State) (cores : List Core) (rs ws : List Reg)
    (h : s.getBlockers (regsOf ((rs ++ ws).map fun r => group r s.strand.sew) s.strand.sew s.strand.grp) = []) :
    ∃ n : Notes, (s.midway cores s.strand.drained []).groupsFree rs ws = .ok (s.midway cores (s.strand.drained.noted n) []) := by
  have hfree : (s.midway cores s.strand.drained []).st.getBlockers
      (regsOf ((rs ++ ws).map fun r => group r s.strand.drained.sew) s.strand.drained.sew s.strand.drained.grp) = [] :=
    (getBlockers_midway (drained_sameOrder s.strand) cores [] _).trans h
  obtain ⟨n, htouch, -, -⟩ := touchRegs_outside { s with strand := s.strand.drained, cores := cores } rfl
    (regsOf (rs.map fun r => group r s.strand.drained.sew) s.strand.drained.sew s.strand.drained.grp)
    (regsOf (ws.map fun r => group r s.strand.drained.sew) s.strand.drained.sew s.strand.drained.grp) [] [] [] []
  refine ⟨n, ?_⟩
  simp only [Work.groupsFree, midway_cur, hfree, List.isEmpty_nil, if_true]
  exact congrArg Except.ok htouch

/-! ### The results of a scan -/

/-- The results of an `aaddscan` written to its destination: the old value plus what stands before each element. -/
def Strand.scanned (t : Strand) (d : Reg) (w old : Nat) (pre : List (Nat × Nat)) : Strand :=
  pre.foldl (fun q e => q.setElt d w e.1 ((old + e.2) % 2 ^ w)) t

theorem scanned_cons (t : Strand) (d : Reg) (w old : Nat) (e : Nat × Nat) (pre : List (Nat × Nat)) :
    t.scanned d w old (e :: pre) = (t.setElt d w e.1 ((old + e.2) % 2 ^ w)).scanned d w old pre := rfl

/-- A scan writes vector registers alone. -/
theorem scanned_frame (t : Strand) (d : Reg) (w old : Nat) (pre : List (Nat × Nat)) : ∃ v, t.scanned d w old pre = { t with v := v } := by
  induction pre generalizing t with
  | nil => exact ⟨t.v, rfl⟩
  | cons e pre ih =>
    obtain ⟨v, hset⟩ := setElt_frame t d w e.1 ((old + e.2) % 2 ^ w)
    obtain ⟨v', hrest⟩ := ih { t with v := v }
    exact ⟨v', by rw [scanned_cons, hset, hrest]⟩

/-- The response of an `aaddscan` writes them one after another. -/
theorem scanned_midway (s : State) (cores : List Core) (t : Strand) (n : Notes) (ws : List Write) (d : Reg) (old : Nat)
    (pre : List (Nat × Nat)) :
    pre.foldl (fun (j : Work) e => j.upd fun s => s.setElt d s.sew e.1 ((old + e.2) % 2 ^ s.sew)) (s.midway cores (t.noted n) ws) =
      s.midway cores ((t.scanned d t.sew old pre).noted n) ws := by
  induction pre generalizing t with
  | nil => rfl
  | cons e pre ih =>
    obtain ⟨v, hset⟩ := setElt_frame t d t.sew e.1 ((old + e.2) % 2 ^ t.sew)
    rw [List.foldl_cons, midway_upd, noted_sew, noted_setElt, ih, scanned_cons, hset]
    rfl

/-- The response of an `aaddscan` at the strand that issued it. -/
theorem atomReturn_scan (s : State) (cores : List Core) (t : Strand) (n : Notes) (ws : List Write) (d b : Reg) (k : BitVec 2) (wide : Bool)
    (va : W64) (old : Nat) (hflight : t.flight = .none) :
    (s.midway cores (t.noted n) ws).atomReturn ⟨d, wide, false, some (b, k), va⟩ old 0 =
      s.midway cores ((t.scanned d t.sew old (scanPrefixes t b k).1).noted n).nextWord ws := by
  have hclear : ({ (t.noted n).raise 0 with flight := .none } : Strand) = t.noted n := by
    rw [raise_zero, ← hflight]
    rfl
  have hprefixes : scanPrefixes (t.noted n) b k = scanPrefixes t b k := rfl
  simp only [Work.atomReturn, midway_upd, midway_cur, hclear, hprefixes, scanned_midway, midway_retire]

/-! ### `aaddscan` -/

/-- The dispatch of an `aaddscan` whose groups are whole, apart and free (R223). -/
theorem aaddscan_dispatches (s : State) (d a b : Reg) (k : BitVec 2) (hbuf : s.strand.buf = [])
    (hsew : s.strand.sew = 32 ∨ s.strand.sew = 64) (hspans : s.strand.spansOk [d, b] = true) (hapart : s.strand.groupsMeet d b = false)
    (hfree : s.getBlockers (regsOf (([b] ++ [d]).map fun r => group r s.strand.sew) s.strand.sew s.strand.grp) = []) :
    ∃ cores n, exec (.aaddscan d a b k) s = s.finish (
      let j := s.midway cores (s.strand.drained.noted n) []
      let pre := scanPrefixes s.strand.drained b k
      if pre.1.isEmpty then j.retire
      else j.atomic .add ⟨d, decide (s.strand.sew = 64), false, some (b, k), s.strand.rx a⟩ (s.strand.rx a) pre.2 0) := by
  have hspans' : s.strand.drained.spansOk [d, b] = true := hspans
  have hapart' : s.strand.drained.groupsMeet d b = false := hapart
  unfold exec execAaddscan
  dsimp only
  obtain ⟨cores, hcores, -, hrun⟩ := engineWord_runs s (stripWord 0 d a b 0 k).toNat a _ hbuf
  obtain ⟨cores', -, htrace⟩ := traceAtomic_midway s cores s.strand.drained hcores
    (decide ((s.midway cores s.strand.drained []).cur.sew = 64)) a
  obtain ⟨n, hgroups⟩ := groupsFree_midway s cores' [b] [d] hfree
  have hwidth : ¬(decide ((s.midway cores' s.strand.drained []).cur.sew ≠ 32) &&
      decide ((s.midway cores' s.strand.drained []).cur.sew ≠ 64)) = true := by
    rw [Bool.and_eq_true, decide_eq_true_eq, decide_eq_true_eq]
    exact fun h => hsew.elim h.1 h.2
  refine ⟨cores', n, ?_⟩
  rw [hrun, htrace, if_neg hwidth]
  simp only [midway_cur, hspans', hapart', hgroups, Bool.false_eq_true, if_false, Bool.not_true,
    Bool.or_self]
  rfl

/-- An `aaddscan` on field memory with nothing in its way (R223). -/
theorem aaddscan_performs (s : State) (d a b : Reg) (k : BitVec 2) (pa n : Nat) (hbuf : s.strand.buf = []) (hholds : s.strand.holds = [])
    (hflight : s.strand.flight = .none) (hlog : s.undoF.length < Config.undoCapF) (hpa : pa < 384 * 2 ^ 30)
    (hsew : 8 * n = s.strand.sew) (hn : n = 4 ∨ n = 8) (hspans : s.strand.spansOk [d, b] = true) (hapart : s.strand.groupsMeet d b = false)
    (hfree : s.getBlockers (regsOf (([b] ++ [d]).map fun r => group r s.strand.sew) s.strand.sew s.strand.grp) = [])
    (hpoison : (s.line false (pa / 64)).poison = false)
    (h : s.checkVirtual s.strand.g.core s.strand.g.ctx (s.strand.rx a) n .atomic = .ok (.mem .fm pa)) :
    let t := s.strand.drained
    let old := leNat (Mem.readN s.fm pa n)
    let pre := scanPrefixes t b k
    ∃ u, exec (.aaddscan d a b k) s = .next u ∧
      (pre.1 = [] → s.sameBytes u ∧ u.strand.v = t.v) ∧
      (pre.1 ≠ [] → s.sameBytesBut u .fm pa n ∧ leNat (Mem.readN u.fm pa n) = (old + pre.2) % 2 ^ t.sew ∧
        u.strand.v = (t.scanned d t.sew old pre.1).v) ∧
      u.strand.k = t.k ∧ u.strand.fflags = t.fflags ∧ u.strand.specials = t.specials ∧ (t.loop = none → u.strand.x = t.x) := by
  intro t old pre
  have hwidth : s.strand.sew = 32 ∨ s.strand.sew = 64 := by omega
  have hsize : atomSize (decide (s.strand.sew = 64)) = n := by
    obtain rfl | rfl := hn
    · rw [← hsew]; rfl
    · rw [← hsew]; rfl
  obtain ⟨cores, e, hexec⟩ := aaddscan_dispatches s d a b k hbuf hwidth hspans hapart hfree
  rw [hexec]
  by_cases hpre : pre.1 = []
  · have hgoes := nextWord_goesOn (t.noted e)
    obtain ⟨u, hu, hstrand, hbytes⟩ := leaves_midway s cores (t.noted e).nextWord
    rw [← hstrand] at hgoes
    refine ⟨u, ?_, fun _ => ⟨hbytes, hgoes.v⟩, fun hne => absurd hpre hne, hgoes.k, hgoes.fflags, hgoes.specials, hgoes.x⟩
    simp only [show scanPrefixes s.strand.drained b k = pre from rfl, hpre, List.isEmpty_nil, if_true, midway_retire]
    exact hu
  · have horder : s.strand.SameOrder (t.noted e) := noted_sameOrder s.strand e
    let w := s.midway cores (t.noted e) []
    let new := (old + pre.2) % 2 ^ (if decide (s.strand.sew = 64) then 64 else 32)
    have hheld : w.st.heldBy 4 false ++ w.st.heldBy 4 true = [] := by
      rw [heldBy_midway horder, heldBy_midway horder, heldBy_none s _ _ hholds, heldBy_none s _ _ hholds]
      rfl
    have hatomic := atomic_performs w .add ⟨d, decide (s.strand.sew = 64), false, some (b, k), s.strand.rx a⟩ (s.strand.rx a) pa pre.2 0
      hflight (by rw [hsize]; exact (checkVirtual_midway ..).trans h) hheld rfl hlog hpoison hpa
    rw [hsize] at hatomic
    obtain ⟨v, hscan⟩ := scanned_frame t d t.sew old pre.1
    obtain ⟨u, hu, hstrand, hbytes, hread⟩ := finish_atomWrites s
      (s.midway cores ((t.scanned d t.sew old pre.1).noted e).nextWord (atomWrites pa n (w.st.ownerTag w.cur.g.ctx) (some new)))
      pa n _ (some new) rfl rfl
    have hgoes := nextWord_goesOn ((t.scanned d t.sew old pre.1).noted e)
    rw [show ((t.scanned d t.sew old pre.1).noted e).nextWord = u.strand from hstrand.symm, hscan] at hgoes
    refine ⟨u, ?_, fun he => absurd he hpre, fun _ => ⟨hbytes, ?_, by rw [hscan]; exact hgoes.v⟩, hgoes.k, hgoes.fflags, hgoes.specials, hgoes.x⟩
    · simp only [show scanPrefixes s.strand.drained b k = pre from rfl, List.isEmpty_iff, hpre, if_false]
      refine (congrArg s.finish (hatomic.trans ?_)).trans hu
      exact atomReturn_scan s cores t e _ d b k _ _ old hflight
    · have hbits : (if decide (s.strand.sew = 64) then 64 else 32) = s.strand.sew := by
        obtain hw | hw := hwidth <;> rw [hw] <;> rfl
      rw [hread, Option.getD_some, leNat_leBytes, hsew, show new = (old + pre.2) % 2 ^ s.strand.sew by rw [← hbits]]
      exact Nat.mod_mod _ _

end Sys2Proof.Machine

/-! PROOFS. Combine puts at their dispatch (R227, R228). -/

namespace Sys2Proof.Machine

/-! ### What a put translates -/

theorem access_midway (s : State) (cores : List Core) (u : Strand) (ws : List Write) (core ctx : Nat) (va : W64) (a : Acc) :
    (s.midway cores u ws).st.access core ctx va a = s.access core ctx va a := by
  simp only [State.access, leafFor_midway]
  rfl

/-- The pages of a put depend on the place of its strand alone. -/
theorem putPages_midway (s : State) (cores : List Core) (u v : Strand) (hg : u.g = v.g) (bad : Trap) (l : List (Nat × Acc)) :
    putPages (s.midway cores u []) bad l = putPages (s.midway cores v []) bad l := by
  have hpage (p : Nat) (a : Acc) : putPage (s.midway cores u []) bad p a = putPage (s.midway cores v []) bad p a := by
    simp only [putPage, midway_cur, leafFor_midway, access_midway, hg]
  induction l with
  | nil => rfl
  | cons e l ih => simp only [putPages, hpage, ih]

/-- The header that a put reads at a place of field memory. -/
def State.putHeader (s : State) (pa : Nat) : Header := headerOf (leNat (Mem.readN s.fm pa 64))

/-- What a put of token `x / 256` translates there. -/
def Header.spans (h : Header) (x : Nat) : List (Nat × Acc) :=
  putUses (h.slots + x / 256 * h.nrank * 4 * h.rowe) (h.nrank * 4 * h.rowe) (h.fill + 4 * (x / 256)) (h.out + x / 256 * h.outp)
    (h.rowe * ((descOf h.outd).width / 8)) h.doneA

/-- The command of a put of that token and of rank `x % 256`. -/
def Header.putBody (h : Header) (x pa va : Nat) (zero : Bool) (row : List Nat) (pages : List (Nat × Option Nat × Nat)) : CmdBody :=
  .put ⟨zero, row, x % 256, pa, va, none, h.nrank, h.rowe, BitVec.ofNat 20 h.outd, h.slots + x / 256 * h.nrank * 4 * h.rowe,
    h.fill + 4 * (x / 256), h.out + x / 256 * h.outp, h.doneA, pages⟩ false

/-! ### A put queued -/

/-- A put whose header and pages are in order is queued with its row (R227, R228). -/
theorem putQueue_midway (s : State) (cores : List Core) (u : Strand) (horder : s.strand.SameOrder u) (hx : u.x = s.strand.x)
    (hbuf : u.buf = []) (hpend : u.pend = []) (word : Nat) (a b : Reg) (zero : Bool) (row : Strand → List (Nat × Flags)) (pa : Nat)
    (pages : List (Nat × Option Nat × Nat))
    (hread : s.checkVirtual s.strand.g.core s.strand.g.ctx (s.strand.rx a) 64 .read = .ok (.mem .fm pa))
    (hwrite : ∃ p, s.access s.strand.g.core s.strand.g.ctx (s.strand.rx a) .write = .ok p) (hpoison : (s.line false (pa / 64)).poison = false)
    (hok : (s.putHeader pa).ok = true) (htok : (s.strand.rx b).toNat / 256 < (s.putHeader pa).ntok)
    (hrank : (s.strand.rx b).toNat % 256 < (s.putHeader pa).nrank) (hvl : zero = true ∨ u.vl.toNat = (s.putHeader pa).rowe)
    (hroom : s.hasRoom 0)
    (hpages : putPages (s.midway cores u []) ⟨4, 0, s.strand.rx b⟩ ((s.putHeader pa).spans (s.strand.rx b).toNat) = .ok pages) :
    (s.midway cores u []).putQueue word a b zero row = ((s.midway cores (u.raise (orFlags ((row u).map (·.2)))) []).queueCmd word 0 none none
      false ((s.putHeader pa).putBody (s.strand.rx b).toNat pa (s.strand.rx a).toNat zero ((row u).map (·.1)) pages)).retire := by
  have hreg (r : Reg) : (s.midway cores u []).rx r = s.strand.rx r := by
    change u.rx r = _
    simp only [Strand.rx, hx]
  obtain ⟨p, hwrite⟩ := hwrite
  have hplace : (s.midway cores u []).headerPlace (s.strand.rx a) = .ok (.mem .fm pa) := by
    simp only [Work.headerPlace, midway_cur, horder.place, checkVirtual_midway, hread, access_midway, hwrite]
  have hclean : (s.midway cores u []).st.poisoned (.mem .fm pa) = false := hpoison
  have hheader : headerOf (leNat ((s.midway cores u []).readSite (.mem .fm pa) 64)) = s.putHeader pa :=
    congrArg (fun bytes => headerOf (leNat bytes)) (ownBytes_of_none (s.midway cores u []) .fm pa 64 rfl hpend hbuf (by decide))
  have hgo : ¬((!(s.putHeader pa).ok) = true ∨ (s.putHeader pa).ntok ≤ (s.strand.rx b).toNat / 256 ∨
      (s.putHeader pa).nrank ≤ (s.strand.rx b).toNat % 256 ∨ ((!zero) = true ∧ u.vl.toNat ≠ (s.putHeader pa).rowe)) := by
    rintro (h | h | h | ⟨hz, hne⟩)
    · simp [hok] at h
    · omega
    · omega
    · exact hvl.elim (fun h => by simp [h] at hz) hne
  have hroom' : ¬32 ≤ ((s.midway cores u []).st.onChannels 1).length := hasRoom_midway s cores u 0 horder hroom
  unfold Header.spans at hpages
  simp only [Work.putQueue, hreg, hplace, hclean, hheader, midway_cur, if_neg hgo, hpages, if_neg hroom', Bool.false_eq_true, if_false, midway_upd]
  rfl

/-- What a put needs of its header and of the register that names its token and rank, whichever form it has (R227, R228). -/
structure State.PutReady (s : State) (a b : Reg) (pa : Nat) : Prop where
  read : s.checkVirtual s.strand.g.core s.strand.g.ctx (s.strand.rx a) 64 .read = .ok (.mem .fm pa)
  write : ∃ p, s.access s.strand.g.core s.strand.g.ctx (s.strand.rx a) .write = .ok p
  clean : (s.line false (pa / 64)).poison = false
  ok : (s.putHeader pa).ok = true
  tok : (s.strand.rx b).toNat / 256 < (s.putHeader pa).ntok
  rank : (s.strand.rx b).toNat % 256 < (s.putHeader pa).nrank
  room : s.hasRoom 0

/-- The command of a put of the strand. -/
def State.putCmd (s : State) (a b : Reg) (pa word : Nat) (zero : Bool) (row : List Nat) (pages : List (Nat × Option Nat × Nat)) : Cmd :=
  s.queued word 0 none none false ((s.putHeader pa).putBody (s.strand.rx b).toNat pa (s.strand.rx a).toNat zero row pages)

/-- `cmbput.z` queues a put without a row (R228). -/
theorem cmbputZ_queues (s : State) (a b : Reg) (pa : Nat) (pages : List (Nat × Option Nat × Nat)) (hbuf : s.strand.buf = [])
    (hpend : s.strand.pend = []) (h : s.PutReady a b pa)
    (hpages : putPages (s.engineWork (stripWord 2 0 a b 0 0).toNat a) ⟨4, 0, s.strand.rx b⟩ ((s.putHeader pa).spans (s.strand.rx b).toNat) =
      .ok pages) :
    Queues (exec (.cmbputZ a b) s) s s.strand.drained.nextWord (s.putCmd a b pa (stripWord 2 0 a b 0 0).toNat true [] pages) := by
  obtain ⟨cores, -, hwork, hrun⟩ := engineWord_runs s (stripWord 2 0 a b 0 0).toNat a
    (fun w => w.putQueue (stripWord 2 0 a b 0 0).toNat a b true fun _ => []) hbuf
  rw [hwork] at hpages
  have horder := drained_sameOrder s.strand
  have hput := putQueue_midway s cores s.strand.drained horder rfl rfl hpend (stripWord 2 0 a b 0 0).toNat a b true (fun _ => []) pa pages
    h.read h.write h.clean h.ok h.tok h.rank (.inl rfl) h.room hpages
  rw [exec_cmbputZ, execCmbputZ, hrun, hput, show orFlags (([] : List (Nat × Flags)).map (·.2)) = 0 from rfl, raise_zero]
  exact queues_midway s cores s.strand.drained _ 0 none none false _ horder rfl

/-- The row that a put carries does not depend on what its strand notes. -/
theorem putRow_noted (t : Strand) (n : Notes) (d : Reg) (k : BitVec 2) (f : Fmt) : putRow (t.noted n) d k f = putRow t d k f := by
  rfl

/-- `cmbput` queues a put of its row in FP32 and raises the flags of the conversions (R228). -/
theorem cmbput_queues (s : State) (d a b c : Reg) (k : BitVec 2) (pa : Nat) (pages : List (Nat × Option Nat × Nat)) (hbuf : s.strand.buf = [])
    (hpend : s.strand.pend = []) (h : s.PutReady a b pa) (hformat : okPut s.strand.sew (fmtOf (s.strand.rx c)) = true)
    (hspans : s.strand.spansOk [d] = true)
    (hfree : s.getBlockers (regsOf (([d] ++ []).map fun r => group r s.strand.sew) s.strand.sew s.strand.grp) = [])
    (hvl : s.strand.vl.toNat = (s.putHeader pa).rowe)
    (hpages : putPages (s.engineWork (stripWord 1 d a b c k).toNat a) ⟨4, 0, s.strand.rx b⟩ ((s.putHeader pa).spans (s.strand.rx b).toNat) =
      .ok pages) :
    let t := s.strand.drained
    let codes := putRow t d k (fmtOf (s.strand.rx c))
    ∃ n, Queues (exec (.cmbput d a b c k) s) s ((t.noted n).raise (orFlags (codes.map (·.2)))).nextWord
      (s.putCmd a b pa (stripWord 1 d a b c k).toNat false (codes.map (·.1)) pages) := by
  intro t codes
  unfold exec execCmbput
  dsimp only
  obtain ⟨cores, -, hwork, hrun⟩ := engineWord_runs s (stripWord 1 d a b c k).toNat a _ hbuf
  obtain ⟨n, hgroups⟩ := groupsFree_midway s cores [d] [] hfree
  have horder := noted_sameOrder s.strand n
  rw [hwork, putPages_midway s cores s.strand.drained (s.strand.drained.noted n) rfl] at hpages
  have hput := putQueue_midway s cores (s.strand.drained.noted n) horder rfl rfl hpend (stripWord 1 d a b c k).toNat a b false
    (fun t => putRow t d k (fmtOf (s.strand.rx c))) pa pages h.read h.write h.clean h.ok h.tok h.rank (.inr hvl) h.room hpages
  have hformat' : okPut s.strand.drained.sew (fmtOf (s.strand.rx c)) = true := hformat
  have hspans' : s.strand.drained.spansOk [d] = true := hspans
  refine ⟨n, ?_⟩
  rw [hrun]
  simp only [midway_cur, hformat', hspans', Bool.not_true, Bool.false_eq_true, if_false, hgroups, hput, putRow_noted, State.putCmd]
  have hqueues := queues_midway s cores ((t.noted n).raise (orFlags (codes.map (·.2)))) (stripWord 1 d a b c k).toNat 0 none none false
    ((s.putHeader pa).putBody (s.strand.rx b).toNat pa (s.strand.rx a).toNat false (codes.map (·.1)) pages)
    ⟨rfl, rfl, rfl, rfl, rfl, rfl, rfl⟩ rfl
  exact hqueues

end Sys2Proof.Machine

/-! PROOFS. Accumulation windows, and `aaddscan`, combine puts and windows together (O35; R223 to R228). -/

namespace Sys2Proof.Machine

/-! ### `accw` -/

/-- `accw` over an aligned range of allowed size and type opens the window of its strand (R224). -/
theorem accw_opens (s : State) (a b : Reg) (size desc : Nat) (leaf : W64) (big : Bool) (hbuf : s.strand.buf = [])
    (hal : (s.strand.rx a).toNat % 64 = 0) (hcanon : (s.strand.rx a).toNat < 2 ^ 48)
    (hleaf : s.leafFor s.strand.g.core s.strand.g.ctx (s.strand.rx a).toNat = some (leaf, big)) (hregion : leafREGION leaf = 0)
    (hlow : 1 ≤ size) (hhigh : size ≤ 65536) (hlines : size % 64 = 0) (hn : (s.strand.rx b).toNat = size + desc * 2 ^ 32)
    (hdesc : desc < 2 ^ 20) (htype : windowDesc desc = true) (hwindow : s.strand.window = none) (hrecl : s.strand.g.recl = false) :
    Leaves (exec (.accw a b) s) s
      { s.strand.drained with window := some ⟨(s.strand.rx a).toNat, size, BitVec.ofNat 20 desc, []⟩ }.nextWord := by
  have hsize : bitsAt (s.strand.rx b).toNat 0 17 = size := by
    rw [hn]
    simp only [bitsAt]
    omega
  have htypeBits : bitsAt (s.strand.rx b).toNat 32 20 = desc := by
    rw [hn]
    simp only [bitsAt]
    omega
  have hcanon' : ¬bitsAt (s.strand.rx a).toNat 48 16 ≠ 0 := by
    rw [bits_above_48]
    exact not_le.mpr hcanon
  have hrange : ¬(size = 0 ∨ size % 64 ≠ 0 ∨ 65536 < size ∨ (!windowDesc desc) = true ∨ (s.strand.rx b).toNat ≠ size + desc * 2 ^ 32) := by
    rw [htype, Bool.not_true]
    rintro (h | h | h | h | h)
    · omega
    · exact h hlines
    · omega
    · cases h
    · exact h hn
  have hclosed : ¬(s.strand.drained.window.isSome = true ∨ s.strand.drained.g.recl = true) := by
    rw [show s.strand.drained.window = none from hwindow, show s.strand.drained.g.recl = false from hrecl]
    simp
  unfold exec execAccw
  dsimp only
  obtain ⟨cores, -, -, hrun⟩ := engineWord_runs s (0x7C000007 + a.toNat * 2 ^ 15 + b.toNat * 2 ^ 10) a _ hbuf
  have hleaf' : (s.midway cores s.strand.drained []).st.leafFor s.strand.drained.g.core s.strand.drained.g.ctx (s.strand.rx a).toNat =
    some (leaf, big) := (leafFor_midway ..).trans hleaf
  rw [hrun, hsize, htypeBits]
  simp only [midway_cur, hal, ne_eq, not_true_eq_false, if_false, hcanon', hleaf', hregion, hrange, hclosed, midway_upd, midway_retire]
  exact leaves_midway s cores _

/-! ### `accm` -/

/-- A step that folds elements into memory: it raises flags of its strand and reaches no absent place more. -/
structure Work.Folds (w k : Work) : Prop where
  absent : k.absent = w.absent
  strand : ∃ fl, k.cur = { w.cur with fflags := fl }

theorem Work.Folds.refl (w : Work) : w.Folds w := ⟨rfl, w.cur.fflags, rfl⟩

theorem Work.Folds.trans {w k j : Work} (h : w.Folds k) (h' : k.Folds j) : w.Folds j := by
  obtain ⟨fl, hstrand⟩ := h.strand
  obtain ⟨fl', hstrand'⟩ := h'.strand
  exact ⟨h'.absent.trans h.absent, fl', by rw [hstrand', hstrand]⟩

/-- One element of a window folded where it lies (R226). -/
theorem foldElement_folds (win : Window) (d : Desc) (z : Nat) (lanes : List Nat) (w : Work) (e : Nat × Site) (h : e.2.exists? = true) :
    w.Folds (foldElement win d z lanes w e) := by
  obtain ⟨off, site⟩ := e
  cases site with
  | mem g pa =>
    let sum := addUnder d (leNat (w.bytes g pa z)) (foldCopies win d z off lanes).1
    let fl := (foldCopies win d z off lanes).2 ||| sum.2
    have hput : foldElement win d z lanes w (off, .mem g pa) =
        (w.putOwn (.put g pa (leBytes z sum.1) (w.st.ownerTag w.cur.g.ctx) false)).upd fun s => s.raise fl := by
      simp only [foldElement, note_exists w (.mem g pa) h]
      rfl
    rw [hput]
    exact ⟨putOwn_absent .., _, congrArg (Strand.raise · fl) (Work.putOwn_cur ..)⟩
  | remote m pa => exact ⟨rfl, _, congrArg (Strand.raise · (foldCopies win d z off lanes).2) (State.sendTo_strand ..)⟩
  | ext d pa => exact .refl w
  | extRead n pa => exact .refl w

/-- The elements of a window folded one after another. -/
theorem foldl_folds (win : Window) (d : Desc) (z : Nat) (lanes : List Nat) (sites : List (Nat × Site)) (w : Work)
    (h : ∀ e ∈ sites, e.2.exists? = true) : w.Folds (sites.foldl (foldElement win d z lanes) w) := by
  induction sites generalizing w with
  | nil => exact .refl w
  | cons e sites ih =>
    exact (foldElement_folds win d z lanes w e (h e List.mem_cons_self)).trans (ih _ fun e' he => h e' (List.mem_cons_of_mem _ he))

theorem heldLanes_midway (s : State) (cores : List Core) (u : Strand) (hcores : s.SameCores cores) (n : Nat) (g : Place) :
    ((s.midway cores u []).st.core n).heldLanes g = (s.core n).heldLanes g := by
  obtain ⟨_, _, _, _, _, _, hcore⟩ := hcores n
  rw [show (s.midway cores u []).st.core n = _ from hcore]
  rfl

/-- An `accm` whose last answer has come goes on (R226). -/
theorem accm_answered (s : State) (a : Reg) (va : W64) (hbuf : s.strand.buf = []) (h : s.strand.drained.flight = .folds 0 va) :
    Leaves (exec (.accm a) s) s { s.strand.drained with flight := .none }.nextWord := by
  unfold exec execAccm
  dsimp only
  obtain ⟨cores, -, -, hrun⟩ := engineWord_runs s (0x7C000008 + a.toNat * 2 ^ 15) a _ hbuf
  rw [hrun]
  simp only [midway_cur, h, midway_upd, midway_retire]
  exact leaves_midway s cores _

/-- An `accm` of the open window, whose elements all may be reached, folds them (R226). -/
theorem accm_dispatches (s : State) (a : Reg) (win : Window) (sites : List (Nat × Site)) (hbuf : s.strand.buf = [])
    (hholds : s.strand.holds = []) (hflight : s.strand.drained.flight = .none) (hwindow : s.strand.drained.window = some win)
    (hbase : (s.strand.rx a).toNat = win.base) :
    let w := s.engineWork (0x7C000008 + a.toNat * 2 ^ 15) a
    let z := (descOf win.desc.toNat).width / 8
    windowSites w win.base z (win.size / z) = .ok sites → w.linesFit false (siteLines (sites.map (·.2)) z) = true →
    exec (.accm a) s = s.finish (w.foldWindow win (descOf win.desc.toNat) z sites) := by
  intro w z hsites hfit
  unfold exec execAccm
  dsimp only
  obtain ⟨cores, -, hwork, hrun⟩ := engineWord_runs s (0x7C000008 + a.toNat * 2 ^ 15) a _ hbuf
  have horder := drained_sameOrder s.strand
  have hheld : (s.midway cores s.strand.drained []).st.heldBy 4 false ++ (s.midway cores s.strand.drained []).st.heldBy 4 true = [] := by
    rw [heldBy_midway horder, heldBy_midway horder, heldBy_none s _ _ hholds, heldBy_none s _ _ hholds]
    rfl
  rw [show w = _ from hwork] at hsites hfit ⊢
  simp only [z] at hsites hfit
  rw [hrun]
  simp only [midway_cur, hflight, hwindow, hbase, hsites, hheld, hfit, ne_eq, not_true_eq_false, if_false, List.isEmpty_nil, Bool.not_true,
    Bool.false_eq_true]
  rfl

/-- The strand of an `accm` once its elements are folded: it goes on, or waits for other modules' answers (R226). -/
def Strand.folded (t : Strand) (far base : Nat) : Strand :=
  if far = 0 then { t with window := none }.nextWord
  else { t with window := none, flight := .folds far (BitVec.ofNat 64 base), waiting := .flight }

/-- What field memory becomes depends on the writes of a step alone. -/
theorem fm_commit_ws {s : State} {k j : Work} (h : j.ws = k.ws) : (s.commit j).fm = (s.commit k).fm := memOf_commit_ws s k j h .fm

/-- A step that ends with a change of its strand. -/
theorem finish_upd (s : State) (w : Work) (f : Strand → Strand) (ha : w.absent = false) :
    ∃ u, s.finish (w.upd f) = .next u ∧ u.fm = (s.commit w).fm ∧ u.strand = f w.cur :=
  ⟨_, State.finish_next s _ ha, fm_commit_ws rfl, commit_strand s _⟩

theorem Work.upd_upd (w : Work) (f g : Strand → Strand) : (w.upd f).upd g = w.upd fun t => g (f t) := rfl

theorem Work.retire_eq_upd (w : Work) : w.retire = w.upd Strand.nextWord := rfl

/-- What an `accm` leaves of the state that its folds have made (R226). -/
theorem foldWindow_ends (s : State) (w folded : Work) (win : Window) (d : Desc) (z : Nat) (sites : List (Nat × Site))
    (hfolded : sites.foldl (foldElement win d z ((w.st.core w.cur.g.core).heldLanes w.cur.g)) w = folded) (ha : folded.absent = false) :
    ∃ u, s.finish (w.foldWindow win d z sites) = .next u ∧ u.fm = (s.commit folded).fm ∧
      u.strand = folded.cur.folded (farCount sites) win.base := by
  simp only [Work.foldWindow, Strand.folded, hfolded, Work.wait, Work.retire_eq_upd, Work.upd_upd]
  split
  · exact finish_upd s folded _ ha
  · exact finish_upd s folded _ ha

/-- What the folds of a window leave, its elements all at places that exist (R226). -/
theorem foldWindow_leaves (s : State) (a : Reg) (win : Window) (d : Desc) (z : Nat) (sites : List (Nat × Site)) (word : Nat)
    (hbuf : s.strand.buf = []) (hexist : ∀ e ∈ sites, e.2.exists? = true) :
    let w := s.engineWork word a
    let folded := sites.foldl (foldElement win d z ((s.core s.strand.g.core).heldLanes s.strand.g)) w
    (∃ fl, folded.cur = { s.strand.drained with fflags := fl }) ∧
      ∃ u, s.finish (w.foldWindow win d z sites) = .next u ∧ u.fm = (s.commit folded).fm ∧
        u.strand = folded.cur.folded (farCount sites) win.base := by
  obtain ⟨cores, hcores, hwork, -⟩ := engineWord_runs s word a id hbuf
  rw [hwork]
  intro w folded
  obtain ⟨habsent, fl, hcur⟩ := foldl_folds win d z ((s.core s.strand.g.core).heldLanes s.strand.g) sites w hexist
  have hlanes : (w.st.core w.cur.g.core).heldLanes w.cur.g = (s.core s.strand.g.core).heldLanes s.strand.g :=
    heldLanes_midway s cores s.strand.drained hcores _ _
  exact ⟨⟨fl, hcur⟩, foldWindow_ends s w folded win d z sites (by rw [hlanes]) habsent⟩

/-! ### Scans, puts and windows -/

/-- Settles O35: the scan, the two puts, and the opening and the folding of a window. -/
theorem scansPutsAndWindows : Obligations.ScansPutsAndWindows := by
  unfold Obligations.ScansPutsAndWindows
  intro d a b c k s pa hbuf hholds hpend _ hpa hlog t
  refine ⟨fun va hflight => accm_answered s a va hbuf hflight, fun hflight => ⟨?_, ?_, ?_, ?_⟩⟩
  · intro n hsew hn hfree hspans hapart hpoison hsite
    exact aaddscan_performs s d a b k pa n hbuf hholds hflight hlog (by omega) hsew hn hspans hapart hfree.2 hpoison hsite
  · intro x h tok r slots wide put spans hread hwrite hpoison hok htok hrank hroom pages
    have hready : s.PutReady a b pa := ⟨hread, hwrite, hpoison, hok, htok, hrank, hroom⟩
    refine ⟨fun hpages => cmbputZ_queues s a b pa pages hbuf hpend hready hpages, fun hformat hfree hvl hpages => ?_⟩
    obtain ⟨n, u, hu, hstrand, hcmds, -, hbytes⟩ :=
      cmbput_queues s d a b c k pa pages hbuf hpend hready hformat hfree.1 hfree.2 hvl hpages
    have hgoes := nextWord_goesOn ((t.noted n).raise (orFlags ((putRow t d k (fmtOf (s.strand.rx c))).map (·.2))))
    rw [← show u.strand = _ from hstrand] at hgoes
    exact ⟨u, hu, hcmds, hgoes.v, hgoes.fflags, hgoes.specials, hgoes.x, hbytes⟩
  · intro n size desc leaf big hal hcanon hleaf hregion hlow hhigh hlines hn hdesc htype hwindow hrecl
    exact accw_opens s a b size desc leaf big hbuf hal hcanon hleaf hregion hlow hhigh hlines hn hdesc htype hwindow hrecl
  · intro win sites hwindow hbase w f z hsites hexist hfit lanes folded
    have hexec := accm_dispatches s a win sites hbuf hholds hflight hwindow hbase hsites hfit
    obtain ⟨⟨fl, hcur⟩, u, hu, hfm, hstrand⟩ := foldWindow_leaves s a win f z sites (0x7C000008 + a.toNat * 2 ^ 15) hbuf hexist
    have hus : u.strand = ({ t with fflags := fl } : Strand).folded (farCount sites) win.base :=
      hstrand.trans (congrArg (Strand.folded · (farCount sites) win.base) hcur)
    have hfl : folded.cur.fflags = fl := congrArg Strand.fflags hcur
    refine ⟨u, hexec.trans hu, hfm, ?_⟩
    rw [hus, hfl, Strand.folded]
    split
    · next hfar =>
      obtain ⟨x, p, l, hnext, hx⟩ := nextWord_frame { t with fflags := fl, window := none }
      rw [show ({ t with fflags := fl, window := none } : Strand).nextWord = _ from hnext]
      exact ⟨rfl, rfl, rfl, rfl, hx, fun _ => ⟨rfl, rfl⟩, fun hne => absurd hfar hne⟩
    · next hfar => exact ⟨rfl, rfl, rfl, rfl, fun _ => rfl, fun he => absurd he hfar, fun _ => ⟨rfl, rfl⟩⟩

end Sys2Proof.Machine
